-- ==== Sys2Proof/Word.lean ====
section
/-! DEFINITION. The word types of the Golant M96 (spec/03_formats R52, R55). -/
namespace Sys2Proof

/-- A 64-bit word. -/
abbrev Word := BitVec 64

/-- A byte of memory. -/
abbrev Byte := BitVec 8

/-- A register code, 0 to 127 (R55). -/
abbrev RegCode := BitVec 7

/-- A pointer-register number, 0 to 7 (R59). -/
abbrev PtrCode := BitVec 3

end Sys2Proof
end

