-- ==== Sys2Proof/Config.lean ====
section
/-! DEFINITION. What the manual leaves open: the free values (log entries 6 and 7) and the sizes it fixes. -/
namespace Sys2Proof.Config

/-- The n-th value the manual calls undefined (R5), log entry 6, DESIGN CHOICE: nothing constrains it. -/
opaque freeWord : Nat → Word

/-- Contents that the manual calls undefined of a whole memory (R398, R16), log entry 6, DESIGN CHOICE: nothing constrains them. -/
opaque freeBytes : Nat → List (Nat × BitVec 8)

/-- The choice made within the 1-ulp bound of R37 for VRSQRT, VEXP2 and VLOG2 (log entry 7, DESIGN CHOICE): a function of the
operation, the format and the operand's bits. Its value modulo 3 picks a candidate of the allowed window. -/
opaque elementary (op fmt : Nat) (x : Word) : Nat

/-- Cores of the package (R8). -/
def cores : Nat := 1280
/-- Columns of the grid (R8). -/
def columns : Nat := 32
/-- Rows of the grid (R8). -/
def rows : Nat := 40
/-- First offset past a scratchpad (R16). -/
def spadSize : Nat := 0x180000
/-- Thread slots of a core (R15). -/
def slots : Nat := 64
/-- Register-file entries of a core (R15). -/
def regEntries : Nat := 2048
/-- Entries of a core's response queue (R271). -/
def responseEntries : Nat := 16
/-- Wait-store entries of a core (R272). -/
def coreWaitStore : Nat := 256
/-- Wait-store entries of a barrier home (R272). -/
def homeWaitStore : Nat := 4096
/-- Translations a core's hardware holds at most in this model (R248; log entry 14, DESIGN CHOICE). -/
def translations : Nat := 256

end Sys2Proof.Config
end

