-- ==== Sys2Proof/Machine/Bits.lean ====
section
/-! DEFINITION. Bit fields, sign extension and the forming of register images (R3, R7). -/
namespace Sys2Proof.Machine

/-- bits(x, lo + w - 1, lo) as an unsigned number (R7). -/
def fld (x : Word) (lo w : Nat) : Nat := (x.toNat >>> lo) % 2 ^ w

/-- Bit i of x. -/
def bitAt (x : Word) (i : Nat) : Bool := x.getLsbD i

/-- The signed value of the low w bits of a number. -/
def signed (v w : Nat) : Int :=
  let u := v % 2 ^ w
  if 2 * u < 2 ^ w then (u : Int) else (u : Int) - (2 ^ w : Nat)

/-- A signed number narrowed to a word, modulo 2^64. -/
def ofInt (i : Int) : Word := BitVec.ofInt 64 i

/-- A number narrowed to a word, modulo 2^64. -/
def ofNat (n : Nat) : Word := BitVec.ofNat 64 n

/-- A sign-extended immediate (R54). -/
def imm {w : Nat} (v : BitVec w) : Word := v.signExtend 64

/-- One or zero. -/
def boolNat (b : Bool) : Nat := if b then 1 else 0

/-- One or zero as a word. -/
def boolWord (b : Bool) : Word := if b then 1 else 0

/-- A register image: the fields (value, lowest bit, width), each cut to its width, joined. -/
def pack (fs : List (Nat × Nat × Nat)) : Word :=
  ofNat (fs.foldl (fun acc f => acc + ((f.1 % 2 ^ f.2.2) <<< f.2.1)) 0)

/-- x with its bits lo to lo + w - 1 replaced by v. -/
def setFld (x : Word) (lo w v : Nat) : Word :=
  ofNat (x.toNat - (fld x lo w <<< lo) + ((v % 2 ^ w) <<< lo))

/-- All ones, the value -1. -/
def allOnes : Word := BitVec.allOnes 64

/-- The two's complement of a number as a word. -/
def negNat (n : Nat) : Word := ofInt (-(n : Int))

/-- Saturating count of list entries that satisfy p. -/
def countIf {α : Type} (p : α → Bool) (l : List α) : Nat := (l.filter p).length

/-- The numbers lo to lo + n - 1. -/
def span (lo n : Nat) : List Nat := (List.range n).map (lo + ·)

/-- The first number of a list that satisfies p. -/
def firstIn (p : Nat → Bool) (l : List Nat) : Option Nat := l.find? p

end Sys2Proof.Machine
end

