-- ==== Sys2Proof/Machine/Flags.lean ====
section
/-! DEFINITION. The FLAGS register (R32): its bits, its rounding mode, and the ORing of flags (R50). -/
namespace Sys2Proof.Machine

namespace Flag
/-- Invalid operation. -/
def nv : Nat := 0x100
/-- Division by zero. -/
def dz : Nat := 0x200
/-- Overflow. -/
def of : Nat := 0x400
/-- Underflow. -/
def uf : Nat := 0x800
/-- Inexact. -/
def nx : Nat := 0x1000
/-- Integer saturation. -/
def sat : Nat := 0x2000
/-- The writable bits of FLAGS: RM and the sticky flags (R32). -/
def mask : Word := 0x3F03
/-- The flag f if b holds. -/
def when (b : Bool) (f : Nat) : Nat := if b then f else 0
end Flag

/-- FLAGS.RM: 0 nearest even, 1 toward zero, 2 toward plus infinity, 3 toward minus infinity (R32). -/
def roundingMode (flags : Word) : Nat := fld flags 0 2

/-- The sticky flags of f are set in FLAGS; RM is kept (R32, R50). -/
def orFlags (flags : Word) (f : Nat) : Word := flags ||| (ofNat f &&& 0x3F00)

end Sys2Proof.Machine
end

