-- ==== Sys2Proof/Machine/Float.lean ====
section
/-! DEFINITION. Floating-point arithmetic: formats, exact values, rounding, and the operations of R28 to R43, each computed
exactly and rounded once. -/
namespace Sys2Proof.Machine

/-! ## Formats (R26, R28) -/

/-- A floating-point format: exponent and mantissa bits and bias; E4M3 has no infinity. -/
structure Fmt where
  expBits : Nat
  manBits : Nat
  bias : Nat
  ieee : Bool
  deriving DecidableEq, Repr

/-- The floating-point format of a code (R26, R28). -/
def fmtOf (code : Nat) : Fmt :=
  match code with
  | 0 => { expBits := 11, manBits := 52, bias := 1023, ieee := true }
  | 1 => { expBits := 8, manBits := 23, bias := 127, ieee := true }
  | 2 => { expBits := 8, manBits := 7, bias := 127, ieee := true }
  | 3 => { expBits := 5, manBits := 10, bias := 15, ieee := true }
  | 4 => { expBits := 4, manBits := 3, bias := 7, ieee := false }
  | _ => { expBits := 5, manBits := 2, bias := 15, ieee := true }

/-- The code names a floating-point format. -/
def isFloatCode (code : Nat) : Bool := decide (code < 6)

/-- Width in bits of a format code (R26); 0 for a reserved code. -/
def widthOf (code : Nat) : Nat :=
  match code with
  | 0 | 8 => 64
  | 1 | 9 => 32
  | 2 | 3 | 10 => 16
  | 4 | 5 | 11 => 8
  | 12 => 4
  | _ => 0

/-- The canonical NaN (R29). -/
def canonicalNaN (code : Nat) : Nat :=
  match code with
  | 0 => 0x7FF8000000000000
  | 1 => 0x7FC00000
  | 2 => 0x7FC0
  | 3 => 0x7E00
  | 4 => 0x7F
  | _ => 0x7E

/-! ## Values -/

/-- A value of a format, exact: m * 2^e with a sign; a zero keeps its sign. -/
inductive FV where
  | nan (signalling : Bool)
  | inf (neg : Bool)
  | fin (neg : Bool) (m : Nat) (e : Int)
  deriving DecidableEq, Repr

/-- The value of a bit pattern (R28). -/
def fpDecode (code bits : Nat) : FV :=
  let f := fmtOf code
  let man := bits % 2 ^ f.manBits
  let ex := bits / 2 ^ f.manBits % 2 ^ f.expBits
  let neg := bits / 2 ^ (f.manBits + f.expBits) % 2 == 1
  if ex + 1 = 2 ^ f.expBits ∧ f.ieee then
    if man = 0 then .inf neg else .nan (decide (man < 2 ^ (f.manBits - 1)))
  else if ex + 1 = 2 ^ f.expBits ∧ man + 1 = 2 ^ f.manBits then .nan false
  else if ex = 0 then .fin neg man (1 - (f.bias : Int) - f.manBits)
  else .fin neg (2 ^ f.manBits + man) ((ex : Int) - f.bias - f.manBits)

/-- The sign bit of a format. -/
def signBit (f : Fmt) (neg : Bool) : Nat := if neg then 2 ^ (f.manBits + f.expBits) else 0

/-- The mode takes n + 1 where rest of 2 * half parts are left beside n (R34). -/
def roundsUp (rm : Nat) (neg : Bool) (n rest half : Nat) : Bool :=
  match rm with
  | 0 => decide (half < rest) || (rest == half && n % 2 == 1)
  | 1 => false
  | 2 => !neg && rest != 0
  | _ => neg && rest != 0

/-- m * 2^(e - q) rounded to an integer by the mode, and whether it was inexact. -/
def roundAt (rm : Nat) (neg : Bool) (m : Nat) (e q : Int) : Nat × Bool :=
  if q ≤ e then (m <<< (e - q).toNat, false)
  else
    let r := (q - e).toNat
    let n := m >>> r
    let rest := m % 2 ^ r
    (if roundsUp rm neg n rest (2 ^ (r - 1)) then n + 1 else n, rest != 0)

/-- The bits of infinity. -/
def infBits (f : Fmt) (neg : Bool) : Nat := signBit f neg + (2 ^ f.expBits - 1) * 2 ^ f.manBits
/-- The bits of the largest finite value (R28). -/
def maxBits (f : Fmt) (neg : Bool) : Nat :=
  signBit f neg + (if f.ieee then (2 ^ f.expBits - 1) * 2 ^ f.manBits - 1 else 2 ^ (f.expBits + f.manBits) - 2)

/-- The pattern of n * 2^q in a format, n at most 2^(mantissa bits + 1) and below 2^(mantissa bits) only at the smallest place, with the
flags fl; past the largest finite value, infinity or that value by the mode, with OF and NX (R35, R40). -/
def encodeRounded (code rm : Nat) (neg : Bool) (n : Nat) (q : Int) (fl : Nat) : Nat × Nat :=
  let f := fmtOf code
  let carry := n == 2 ^ (f.manBits + 1)
  let n := if carry then 2 ^ f.manBits else n
  let q := if carry then q + 1 else q
  if n < 2 ^ f.manBits then (signBit f neg + n, fl)
  else
    let ex := (q + f.manBits + f.bias).toNat
    let top := 2 ^ f.expBits - 1
    if f.ieee then
      if top ≤ ex then
        let big := rm == 1 || (rm == 2 && neg) || (rm == 3 && !neg)
        (if big then maxBits f neg else infBits f neg, Flag.of ||| Flag.nx)
      else (signBit f neg + ex * 2 ^ f.manBits + (n - 2 ^ f.manBits), fl)
    else if top < ex ∨ (ex = top ∧ n = 2 ^ (f.manBits + 1) - 1) then (maxBits f neg, Flag.of ||| Flag.nx)
    else (signBit f neg + ex * 2 ^ f.manBits + (n - 2 ^ f.manBits), fl)

/-- A nonzero exact value m * 2^e rounded to a format (R35, R40): the bits and the flags. It is tiny when the value rounded with the
exponent unbounded is below the smallest normal number. -/
def roundTo (code rm : Nat) (neg : Bool) (m : Nat) (e : Int) : Nat × Nat :=
  let f := fmtOf code
  if m = 0 then (signBit f neg, 0) else
  let emin : Int := 1 - f.bias
  let qUnb : Int := (m.log2 : Int) + e - f.manBits
  let q := max qUnb (emin - f.manBits)
  let r := roundAt rm neg m e q
  let tiny := decide (qUnb + ((roundAt rm neg m e qUnb).1.log2 : Int) < emin)
  encodeRounded code rm neg r.1 q (Flag.when r.2 Flag.nx ||| Flag.when (r.2 && tiny) Flag.uf)

/-- An exact value delivered in a format, rounded once (R35, R29, R40). -/
def deliverFV (code rm : Nat) (v : FV) : Nat × Nat :=
  match v with
  | .nan _ => (canonicalNaN code, 0)
  | .inf neg =>
    let f := fmtOf code
    if f.ieee then (infBits f neg, 0) else (maxBits f neg, Flag.of ||| Flag.nx)
  | .fin neg m e => roundTo code rm neg m e

/-- A signalling NaN sets NV (R36). -/
def snan : FV → Nat
  | .nan true => Flag.nv
  | _ => 0

/-! ## Exact operations; each answers a value and NV (R35, R36) -/

/-- The sign of an exact zero sum of opposite signs (R35). -/
def zeroNeg (rm : Nat) : Bool := rm == 3

/-- The exact sum of two finite values. -/
def addFin (rm : Nat) (na : Bool) (ma : Nat) (ea : Int) (nb : Bool) (mb : Nat) (eb : Int) : FV :=
  let e := min ea eb
  let a : Int := (if na then -1 else 1) * ((ma <<< (ea - e).toNat : Nat) : Int)
  let b : Int := (if nb then -1 else 1) * ((mb <<< (eb - e).toNat : Nat) : Int)
  let t := a + b
  if t = 0 then .fin (if na == nb then na else zeroNeg rm) 0 e
  else .fin (decide (t < 0)) t.natAbs e

/-- a + b (R35). -/
def addFV (rm : Nat) (a b : FV) : FV × Nat :=
  let nv := snan a ||| snan b
  match a, b with
  | .nan _, _ => (.nan false, nv)
  | _, .nan _ => (.nan false, nv)
  | .inf x, .inf y => if x == y then (.inf x, nv) else (.nan false, Flag.nv)
  | .inf x, _ => (.inf x, nv)
  | _, .inf y => (.inf y, nv)
  | .fin na ma ea, .fin nb mb eb => (addFin rm na ma ea nb mb eb, nv)

/-- -a; a NaN is unchanged. -/
def negFV : FV → FV
  | .nan s => .nan s
  | .inf n => .inf (!n)
  | .fin n m e => .fin (!n) m e

/-- The value is a zero. -/
def isZeroFV : FV → Bool
  | .fin _ m _ => m == 0
  | _ => false

/-- a * b (R35). -/
def mulFV (a b : FV) : FV × Nat :=
  let nv := snan a ||| snan b
  match a, b with
  | .nan _, _ => (.nan false, nv)
  | _, .nan _ => (.nan false, nv)
  | .inf x, .inf y => (.inf (x != y), nv)
  | .inf x, .fin n m _ => if m = 0 then (.nan false, Flag.nv) else (.inf (x != n), nv)
  | .fin n m _, .inf y => if m = 0 then (.nan false, Flag.nv) else (.inf (y != n), nv)
  | .fin na ma ea, .fin nb mb eb => (.fin (na != nb) (ma * mb) (ea + eb), nv)

/-- a * b + d, exact (R35). A quiet NaN addend keeps the invalid flag of the product. -/
def fmaFV (rm : Nat) (a b d : FV) : FV × Nat :=
  let p := mulFV a b
  let r := addFV rm p.1 d
  (r.1, p.2 ||| r.2)

/-- a / b with enough bits and a sticky bit below them for any rounding of the format (R35). -/
def divFV (code : Nat) (a b : FV) : FV × Nat :=
  let nv := snan a ||| snan b
  match a, b with
  | .nan _, _ => (.nan false, nv)
  | _, .nan _ => (.nan false, nv)
  | .inf _, .inf _ => (.nan false, Flag.nv)
  | .inf x, .fin n _ _ => (.inf (x != n), nv)
  | .fin n _ _, .inf y => (.fin (n != y) 0 0, nv)
  | .fin na ma ea, .fin nb mb eb =>
    if mb = 0 then (if ma = 0 then (.nan false, Flag.nv) else (.inf (na != nb), nv ||| Flag.dz))
    else
      let k := (fmtOf code).manBits + 5 + mb.log2
      let n := ma <<< k
      (.fin (na != nb) (2 * (n / mb) + boolNat (n % mb != 0)) (ea - eb - k - 1), nv)

/-- The integer square root, bit by bit. -/
def isqrt (n : Nat) : Nat :=
  (List.range (n.log2 / 2 + 1)).reverse.foldl (fun r i => if (r + 2 ^ i) * (r + 2 ^ i) ≤ n then r + 2 ^ i else r) 0

/-- √(m * 2^e), with p bits and a sticky bit. -/
def sqrtFin (p m : Nat) (e : Int) : Nat × Int :=
  let k0 := 2 * p + 6
  let k := if (e - k0) % 2 = 0 then k0 else k0 + 1
  let n := m <<< k
  let r := isqrt n
  (2 * r + boolNat (r * r != n), (e - k) / 2 - 1)

/-- √a (R35). -/
def sqrtFV (code : Nat) (a : FV) : FV × Nat :=
  match a with
  | .nan s => (.nan false, snan (.nan s))
  | .inf n => if n then (.nan false, Flag.nv) else (.inf false, 0)
  | .fin n m e =>
    if m = 0 then (.fin n 0 e, 0)
    else if n then (.nan false, Flag.nv)
    else let r := sqrtFin ((fmtOf code).manBits + 1) m e; (.fin false r.1 r.2, 0)

/-! ## Comparisons (R36) -/

/-- a < b as exact values, with no order between the zeros; false for a NaN. -/
def ltFV (a b : FV) : Bool :=
  match a, b with
  | .nan _, _ => false
  | _, .nan _ => false
  | .inf x, .inf y => x && !y
  | .inf x, .fin _ _ _ => x
  | .fin _ _ _, .inf y => !y
  | .fin na ma ea, .fin nb mb eb =>
    let e := min ea eb
    let x : Int := (if na then -1 else 1) * ((ma <<< (ea - e).toNat : Nat) : Int)
    let y : Int := (if nb then -1 else 1) * ((mb <<< (eb - e).toNat : Nat) : Int)
    decide (x < y)

/-- a = b as exact values; false for a NaN. -/
def eqFV (a b : FV) : Bool :=
  match a, b with
  | .nan _, _ => false
  | _, .nan _ => false
  | _, _ => !ltFV a b && !ltFV b a

/-- The sign of a value. -/
def negativeFV : FV → Bool
  | .nan _ => false
  | .inf n => n
  | .fin n _ _ => n

/-- a is below b in the order of R36, where -0 is below +0. -/
def belowFV (a b : FV) : Bool := ltFV a b || (eqFV a b && negativeFV a && !negativeFV b)

/-- The minimum or maximum of two patterns of a format (R36): the bits and NV. -/
def minMaxBits (code : Nat) (wantMax : Bool) (x y : Nat) : Nat × Nat :=
  let a := fpDecode code x
  let b := fpDecode code y
  let nv := snan a ||| snan b
  match a, b with
  | .nan _, .nan _ => (canonicalNaN code, nv)
  | .nan _, _ => (y, nv)
  | _, .nan _ => (x, nv)
  | _, _ => (if belowFV a b then (if wantMax then y else x) else (if wantMax then x else y), nv)

/-! ## Operations on patterns: bits and flags -/

/-- Two-operand operations, rounded by rm (R35). -/
def fpAdd (code rm x y : Nat) : Nat × Nat :=
  let r := addFV rm (fpDecode code x) (fpDecode code y)
  let o := deliverFV code rm r.1
  (o.1, o.2 ||| r.2)
/-- x - y (R35). -/
def fpSub (code rm x y : Nat) : Nat × Nat :=
  let r := addFV rm (fpDecode code x) (negFV (fpDecode code y))
  let o := deliverFV code rm r.1
  (o.1, o.2 ||| r.2)
/-- x * y (R35). -/
def fpMul (code rm x y : Nat) : Nat × Nat :=
  let r := mulFV (fpDecode code x) (fpDecode code y)
  let o := deliverFV code rm r.1
  (o.1, o.2 ||| r.2)
/-- x * y + d, fused (R35). -/
def fpFma (code rm x y d : Nat) : Nat × Nat :=
  let r := fmaFV rm (fpDecode code x) (fpDecode code y) (fpDecode code d)
  let o := deliverFV code rm r.1
  (o.1, o.2 ||| r.2)
/-- d - x * y, fused (R120). -/
def fpFms (code rm x y d : Nat) : Nat × Nat :=
  let r := fmaFV rm (negFV (fpDecode code x)) (fpDecode code y) (fpDecode code d)
  let o := deliverFV code rm r.1
  (o.1, o.2 ||| r.2)
/-- x / y (R35). -/
def fpDiv (code rm x y : Nat) : Nat × Nat :=
  let r := divFV code (fpDecode code x) (fpDecode code y)
  let o := deliverFV code rm r.1
  (o.1, o.2 ||| r.2)
/-- √x (R35). -/
def fpSqrt (code rm x : Nat) : Nat × Nat :=
  let r := sqrtFV code (fpDecode code x)
  let o := deliverFV code rm r.1
  (o.1, o.2 ||| r.2)
/-- 1 / x to nearest, whatever the mode (R37). -/
def fpRcp (code x : Nat) : Nat × Nat := fpDiv code 0 (signBit (fmtOf code) false + (fmtOf code).bias * 2 ^ (fmtOf code).manBits) x
/-- x * 2^k, the exponent unbounded before rounding (R120 VSCALE). -/
def fpScale (code rm : Nat) (k : Int) (x : Nat) : Nat × Nat :=
  match fpDecode code x with
  | .nan s => (canonicalNaN code, snan (.nan s))
  | .inf n => (infBits (fmtOf code) n, 0)
  | .fin n m e => roundTo code rm n m (e + k)

/-! ## The functions of R37 within 1 ulp (log entry 7, DESIGN CHOICE) -/

/-- One of the two neighbours of an inexact value whose truncation is m * 2^e with a sticky bit in m. -/
def neighbour (code op x : Nat) (neg : Bool) (m : Nat) (e : Int) : Nat × Nat :=
  let pick := Config.elementary op code (ofNat x) % 2
  roundTo code (if pick = 0 then 1 else if neg then 3 else 2) neg m e

/-- 1/√x (R37): the special cases, an exact result where there is one, else a neighbour of the exact value. -/
def fpRsqrt (code x : Nat) : Nat × Nat :=
  match fpDecode code x with
  | .nan s => (canonicalNaN code, snan (.nan s))
  | .inf n => if n then (canonicalNaN code, Flag.nv) else (0, 0)
  | .fin n m e =>
    if m = 0 then (infBits (fmtOf code) n, Flag.dz)
    else if n then (canonicalNaN code, Flag.nv)
    else
      -- 1/√(m 2^e): the root of a quotient of enough bits, sticky
      let p := (fmtOf code).manBits + 1
      let k := 4 * p + 8 + m.log2
      let k := if (e + k) % 2 = 0 then k else k + 1
      let q := 2 ^ k / m
      let r := isqrt q
      let exact := r * r * m == 2 ^ k
      if exact then roundTo code 0 false r (-(e + k) / 2)
      else neighbour code 0 x false (2 * r + 1) (-(e + k) / 2 - 1)

/-- Fixed-point bits of the constants and products below. -/
def fixBits : Nat := 256

/-- 2^f for f = n / 2^128, 0 ≤ n < 2^128, as a fixed-point number of fixBits bits, truncated: the product of the roots
2^(2^-i) for the one bits of f. -/
def exp2Fix (n : Nat) : Nat :=
  ((List.range 128).foldl (fun (acc : Nat × Nat) i =>
    let root := isqrt (acc.1 <<< fixBits)
    (root, if n / 2 ^ (127 - i) % 2 = 1 then acc.2 * root / 2 ^ fixBits else acc.2)) (2 ^ (fixBits + 1), 2 ^ fixBits)).2

/-- 2^x (R37). -/
def fpExp2 (code x : Nat) : Nat × Nat :=
  match fpDecode code x with
  | .nan s => (canonicalNaN code, snan (.nan s))
  | .inf n => if n then (0, 0) else (infBits (fmtOf code) false, 0)
  | .fin n m e =>
    if m = 0 then roundTo code 0 false 1 0
    else if 16 ≤ e + m.log2 then
      if n then neighbour code 1 x false 1 (-(2 : Int) ^ 13) else (infBits (fmtOf code) false, Flag.of ||| Flag.nx)
    else
      let v : Int := (if n then -1 else 1) * (if 0 ≤ e then ((m <<< e.toNat : Nat) : Int) else 0)
      if 0 ≤ e then
        let r := roundTo code 1 false 1 v
        if r.2 &&& Flag.uf ≠ 0 then neighbour code 1 x false 1 v else if r.2 &&& Flag.of ≠ 0 then (infBits (fmtOf code) false, Flag.of ||| Flag.nx) else r
      else
        let den : Nat := 2 ^ (-e).toNat
        let num : Int := if n then -(m : Int) else (m : Int)
        let whole : Int := Int.fdiv num den
        let frac := (num - whole * den).toNat
        let z := roundTo code 1 false 1 whole
        let r := if frac = 0 ∧ z.2 = 0 then z else if frac = 0 then neighbour code 1 x false 1 whole
          else neighbour code 1 x false (2 * exp2Fix (frac * 2 ^ 128 / den) + 1) (whole - fixBits - 1)
        if r.2 &&& Flag.of ≠ 0 then (infBits (fmtOf code) false, Flag.of ||| Flag.nx) else r

/-- The first 128 fraction bits of log2 of y / 2^fixBits, 1 ≤ that < 2: by repeated squaring. -/
def log2Frac (y : Nat) : Nat :=
  ((List.range 128).foldl (fun (acc : Nat × Nat) _ =>
    let sq := acc.1 * acc.1 / 2 ^ fixBits
    if 2 ^ (fixBits + 1) ≤ sq then (sq / 2, 2 * acc.2 + 1) else (sq, 2 * acc.2)) (y, 0)).2

/-- log2 x (R37). -/
def fpLog2 (code x : Nat) : Nat × Nat :=
  match fpDecode code x with
  | .nan s => (canonicalNaN code, snan (.nan s))
  | .inf n => if n then (canonicalNaN code, Flag.nv) else (infBits (fmtOf code) false, 0)
  | .fin n m e =>
    if m = 0 then (infBits (fmtOf code) true, Flag.dz)
    else if n then (canonicalNaN code, Flag.nv)
    else
      let ex : Int := e + m.log2
      if m = 2 ^ m.log2 then (if ex = 0 then (0, 0) else roundTo code 0 (decide (ex < 0)) ex.natAbs 0)
      else
        let fr := log2Frac (m <<< (fixBits - m.log2))
        let t : Int := ex * 2 ^ 128 + fr
        -- the value lies in (t, t + 1) / 2^128; a sticky bit keeps it inexact
        if t < 0 then neighbour code 2 x true (2 * (t.natAbs - 1) + 1) (-129)
        else neighbour code 2 x false (2 * t.natAbs + 1) (-129)

/-! ## Conversions (R39 to R41) -/

/-- An integer of width w saturated, with a flag if it changed. -/
def saturate (w : Nat) (v : Int) (flag : Nat) : Nat × Nat :=
  let lo : Int := -(2 ^ (w - 1) : Nat)
  let hi : Int := (2 ^ (w - 1) : Nat) - 1
  if v < lo then ((lo % (2 ^ w : Nat)).toNat, flag)
  else if hi < v then (hi.toNat, flag)
  else ((v % (2 ^ w : Nat)).toNat, 0)

/-- A floating-point value to an integer of width w (R41). DESIGN CHOICE (log entry 47): R41 does not say whether a value
is judged against the range of the destination before or after it is rounded; the rounded integer is judged here, so
127.4 to INT8 gives 127 with NX alone. -/
def floatToInt (w rm : Nat) (v : FV) : Nat × Nat :=
  match v with
  | .nan _ => (0, Flag.nv)
  | .inf n => saturate w (if n then -(2 ^ w : Nat) else (2 ^ w : Nat)) Flag.nv
  | .fin n m e =>
    let r := if (m.log2 : Int) + e > 70 then (2 ^ 70, false) else roundAt rm n m e 0
    let i : Int := if n then -(r.1 : Int) else r.1
    let o := saturate w i Flag.nv
    (o.1, if o.2 ≠ 0 then o.2 else Flag.when r.2 Flag.nx)

/-- VCVT's conversion of one element (R39, R40, R41); an INT4 source has been mapped to INT8 (R30). -/
def convert (src dst rm bits : Nat) : Nat × Nat :=
  if src = dst then (bits, 0)
  else if isFloatCode src then
    if isFloatCode dst then
      if widthOf src = widthOf dst then (bits, 0)
      else
        let v := fpDecode src bits
        let o := deliverFV dst rm v
        (o.1, o.2 ||| snan v)
    else floatToInt (widthOf dst) rm (fpDecode src bits)
  else
    let v := signed bits (widthOf src)
    if isFloatCode dst then roundTo dst rm (decide (v < 0)) v.natAbs 0
    else saturate (widthOf dst) v Flag.sat

/-! ## The matrix engine's arithmetic (R43, R45) -/

/-- A subnormal is flushed to a zero of its sign, with UF and NX (R43). -/
def flush (code : Nat) (r : Nat × Nat) : Nat × Nat :=
  let f := fmtOf code
  let ex := r.1 / 2 ^ f.manBits % 2 ^ f.expBits
  let man := r.1 % 2 ^ f.manBits
  if ex = 0 ∧ man ≠ 0 then (r.1 - man, r.2 ||| Flag.uf ||| Flag.nx) else r

/-- The exact sum of a list of products, its NaN with NV, its zero by R45. -/
def sumProducts (rm : Nat) (l : List (FV × FV)) : FV × Nat :=
  let ps := l.map fun p => (mulFV p.1 p.2).1
  let anyNaN := ps.any fun v => match v with | .nan _ => true | _ => false
  let pos := ps.any fun v => v == .inf false
  let neg := ps.any fun v => v == .inf true
  if anyNaN || (pos && neg) then (.nan false, Flag.nv)
  else if pos then (.inf false, 0)
  else if neg then (.inf true, 0)
  else
    let t := ps.foldl (fun a v => (addFV 0 a v).1) (.fin false 0 0)
    if isZeroFV t then
      (.fin ((rm == 3) || ps.all fun v => match v with | .fin n _ _ => n | _ => false) 0 0, 0)
    else (t, 0)

end Sys2Proof.Machine
end

