-- ==== Sys2Proof/Machine/Message.lean ====
section
/-! DEFINITION. What travels between agents: places, packets, messages and cells (R262, R265, R270, R274). -/
namespace Sys2Proof.Machine

/-- A place that sends or receives messages. -/
inductive Node where
  /-- Core 32 * Y + X. -/
  | core (c : Nat)
  /-- The memory-side queue of channel group g (R18, R270). -/
  | chan (g : Nat)
  /-- The router of package cluster k, home of the cluster's barriers (R232). -/
  | router (k : Nat)
  /-- The launch controller of die d. -/
  | ctrl (d : Nat)
  /-- The gateway of die d (R273). -/
  | gate (d : Nat)
  /-- Another package of the pod. -/
  | pkg (p : Nat)
  deriving DecidableEq, Repr

/-- The masters that reach the package from outside (R388). -/
inductive Master where
  | host | rack | board
  deriving DecidableEq, Repr

/-- The four argument registers of a packet. -/
structure Args where
  a0 : Word := 0
  a1 : Word := 0
  a2 : Word := 0
  a3 : Word := 0
  deriving DecidableEq, Repr

/-- A call-at packet (R183). -/
structure TaskPkt where
  entry : Nat
  args : Args
  rep : Word
  fmt : Word
  scla : Word
  sclb : Word
  ctx : Nat
  mode : Nat
  kernel : Word
  group : Word
  /-- The package of its kernel, if another one (log entry 21, DEDUCED). -/
  kpkg : Option Nat := none
  deriving DecidableEq, Repr

/-- An operation on a barrier object (R237). -/
inductive BarOp where
  | arm | arrive | wait | arriveWait | err | stat
  deriving DecidableEq, Repr

/-- A full/empty operation (R292). -/
inductive FeOp where
  | lds | ldf | sts | stf | empty
  deriving DecidableEq, Repr

/-- An operation of ATOM (R319). -/
inductive AtomOp where
  | fadd | fmin | fmax | swap | cas | and | or | xor | faddf
  deriving DecidableEq, Repr

/-- Who sent a delivery, which says where its answer goes (R175). -/
inductive Origin where
  /-- A DELIV: the answer decrements ST, a refusal becomes a boundary trap (R174, R175). -/
  | deliv
  /-- A RETAT: a refusal is the thread's status (R186). -/
  | retat
  /-- A task that ended without RETAT: a refusal is not reported (R186). -/
  | taskEnd
  /-- The sequencer of a core (R359). -/
  | sequencer (c : Nat)
  /-- A region query (R346). -/
  | query
  /-- The delivery of a kernel's status word (R226), with the place of its report, which the answer may find after the kernel's entry has
  been taken again: die and corner core, context, and REPORT, 0 for none (R223). -/
  | kernel (die corner ctx : Nat) (report : Word)
  /-- A link notice (R281). -/
  | notice (held : Word)
  /-- A MINT.LD reply (R172). -/
  | line
  deriving DecidableEq, Repr

/-- An access made at another package (R402). -/
inductive Fabric where
  | store (n : Nat) (v : Word)
  | line (dst : Nat) (name : Word)
  /-- A copy reads n bytes, or writes bytes and makes words full, by their distance in words from that of the address (R143, R146). -/
  | read (n : Nat)
  | write (data words : List Nat)
  /-- A COPYR run of elements of a format, the progress word's offset and new count, and the words to make full (R147, R143). -/
  | run (ty : Nat) (data : List Nat) (prog count : Nat) (words : List Nat)
  deriving DecidableEq, Repr

/-- A name that a guest carries (R181, R283). -/
structure Carried where
  name : Word
  reg : Nat
  deriving DecidableEq, Repr

/-- A migrating thread's record (R283), and what the 224 bytes do not say: the thread was a member by JOIN, the core whose count of its
kernel holds it, if RESUME had put it on another one (R224, R229), and the names beyond the four that the record has places for (log
entry 60, DESIGN CHOICE). -/
structure Record where
  words : List Word
  extra : Bool
  countAt : Option Nat := none
  more : List Carried := []
  deriving DecidableEq, Repr

/-- A live domain's descriptor, as RDOM read it, with the owner table of MODE 1 (R328, R329), and the number of the RDOM that created it,
by which a unit tells it from an earlier domain of the same index (R338). -/
structure Domain where
  ctx : Nat
  dom : Nat
  words : List Word
  table : List Nat
  gen : Nat := 0
  deriving DecidableEq, Repr

/-- The single-record operations (R336). -/
inductive RecordOp where
  | rins | rld | rst | rpos | rdel
  deriving DecidableEq, Repr

/-- A single-record operation on its way (R336): the issuing core, the context and domain, g[a] and the handle, the source
bytes, the destination offset of RLD, the register, the request credit that its reply brings back (R380), and the domain's number at
issue (R338). -/
structure RegionOp where
  op : RecordOp
  core : Nat
  ctx : Nat
  dom : Nat
  handle : Word
  data : List Nat
  dst : Nat
  reg : Nat
  credit : Option (Nat × Node) := none
  gen : Nat := 0
  deriving DecidableEq, Repr

/-- The queries (R342). -/
inductive QueryKind where
  | box | radius | all
  deriving DecidableEq, Repr

/-- A query (R342): its block's words, the buffer's core and offset, the name, its path of cores, and the domain's number at issue
(R338). -/
structure Query where
  kind : QueryKind
  ctx : Nat
  dom : Nat
  words : List Word
  core : Nat
  buf : Nat
  name : Word
  path : List Nat
  gen : Nat := 0
  deriving DecidableEq, Repr

/-- What a packet asks for or brings. Addresses are physical keys (see Memory) unless said otherwise. -/
inductive Body where
  /-- A load of n bytes for register reg, sign-extended if sx (R97). -/
  | load (key n : Nat) (sx : Bool) (reg : Nat)
  /-- A store of n bytes (R100). -/
  | store (key n : Nat) (v : Word)
  /-- An ATOM with operand v and, for CAS, new value w (R318); acq: the thread is out of the rotation (R317). -/
  | atom (op : AtomOp) (key : Nat) (v w : Word) (reg : Nat) (acq : Bool)
  /-- A full/empty operation with data v (R294); info is g[a] (R299). -/
  | fe (op : FeOp) (key : Nat) (v : Word) (reg : Nat) (info : Word)
  /-- The line load of a MINT.LD to the own core's key dst (R172). -/
  | line (key dst : Nat) (name : Word)
  /-- A decrement (R191). -/
  | decr (key m : Nat)
  /-- TICKET (R194). -/
  | ticket (key reg : Nat)
  /-- RQFILL (R194). -/
  | rqfill (key : Nat) (v : Word) (t : Nat)
  /-- A call-at packet (R183); fault packets too (R252). -/
  | callat (pkt : TaskPkt)
  /-- A fault packet (R252). -/
  | fault (pkt : TaskPkt)
  /-- A reply that writes reg; st: it decrements ST, not LD (R99, R318); wake: the thread waits for it. -/
  | value (reg : Nat) (v : Word) (st wake : Bool)
  /-- An acknowledgement of a posted write, with its failure cause, 0 if none (R100, R277). -/
  | ack (cause : Nat) (info : Word)
  /-- The owner's answer to a remote LDS, LDF (a value) or STS (none) (R297). -/
  | feAnswer (reg : Nat) (v : Option Word)
  /-- A cancel of request op (R299, R240). -/
  | cancel (op : Nat)
  /-- CANCELLED, with g[a], and whether the operation reads (R299). -/
  | cancelled (info : Word) (reads : Bool)
  /-- RETRY from a full wait store (R272), with what was sent. -/
  | retry (token : Option Word) (pkt : Option TaskPkt)
  /-- A request credit alone, given back on the response channel (R272). -/
  | credit
  /-- An echo, for a gateway with its class of packages, and its answer (R315). -/
  | echo (cls : Nat)
  | echoAnswer
  /-- The data of a MINT.LD reply (R172); cause 0, or the cause of its failure. -/
  | lineData (dst : Nat) (data : List Word) (name : Word) (cause : Nat)
  /-- A delivery (R173). -/
  | deliver (name value : Word) (origin : Origin)
  /-- The answer to a delivery: cause 0 for accepted (R175). -/
  | delivered (cause : Nat) (name : Word) (origin : Origin)
  /-- A guest's revoke and its result for register reg (R177). -/
  | revoke (name : Word) (reg : Nat)
  | revoked (name : Word) (reg result : Nat)
  /-- A forwarded delivery to a register of the thread (R181), its acknowledgement. -/
  | forward (slot reg : Nat) (v : Word) (name : Word)
  | forwardAck (name : Word)
  /-- Retarget, return and destroy notices of a carried name, and their answers (R181). -/
  | retarget (name : Word) (pkg core slot : Nat)
  | returned (name : Word) (slot : Nat)
  | destroy (name : Word)
  | noticeAck (name : Word)
  /-- A heat update from die d to heat word h of the destination core (R250). -/
  | heat (h d : Nat)
  /-- A write of PWAKE on its way to send the wake (R253), and the wake. -/
  | pwake (w : Word)
  | wake (slot seq out : Nat)
  /-- A request made at another package, at a fabric address (R402). -/
  | fabric (addr : Word) (acc : Fabric)
  /-- The same once the gateway has translated it, at the agent that performs it: the physical keys and lengths of its parts (R402). -/
  | fabricAt (parts : List (Nat × Nat)) (acc : Fabric)
  /-- A migrating thread's request for a guest slot at the home core of addr, a guest's for a slot at its origin core, and the
  answer: 0 a slot is reserved, 1 none is free, else the cause of the refusal; the core and slot; the address; for HOME,
  whether the thread goes on after the instruction (R282, R285). -/
  | migrateAsk (addr : Word)
  | homeAsk (core : Nat)
  | migrateAnswer (outcome core slot : Nat) (addr : Word) (home : Option Bool)
  /-- The thread record, for a place core * 64 + slot: a guest slot, or a slot of the origin core (R283, R285). -/
  | migrant (r : Record) (place : Nat) (home : Bool)
  /-- CELLRES (release false) or CELLREL for the flow to package p, n slots, ORD; its result goes to reg (R279). -/
  | cells (release : Bool) (p n : Nat) (ord : Bool) (reg : Nat)
  /-- LINKW for a link (R280). -/
  | linkw (l w reg : Nat)
  /-- A barrier operation on the object of this key with its operand, for register reg; info is g[a] (R239). -/
  | barrier (op : BarOp) (key n reg : Nat) (info : Word)
  /-- Its reply, or the wake of its wait; refused: trap 0x05 (R234, R239). -/
  | barrierAnswer (reg : Nat) (v : Word) (wait refused : Bool) (info : Word)
  /-- The arrival of a finished command or copy, with its failure code if it failed (R243); the code comes back if the
  arrival was discarded, the command's flags if its phase is no error phase (R50), and its token, if its finishing release waits for
  the answer (R128). -/
  | engineArrive (key : Nat) (code : Option Nat)
  | engineAnswer (code : Option Nat) (flags : Nat) (fin : Option Nat)
  /-- A launch packet (R216), and a query of a kernel (R230), for register reg. -/
  | launch (words : List Word) (reg : Nat)
  | kernelQuery (kid : Word) (reg : Nat)
  /-- JOIN, its acknowledgement, and LEAVE with a status word (R224). After the acknowledgement the thread of the message, if
  any, goes on with v in register reg. -/
  | join (kid : Word) (reg v : Nat)
  | joinAck (reg v : Nat)
  | leave (kid status : Word)
  /-- A guest's trigger notice, and its retirement notice, for the core that counts the thread (R229). -/
  | triggerNotice (kid : Word) (core : Nat)
  | guestRetired (kid status : Word) (core : Nat) (placed triggered extra : Bool)
  /-- A COPYR run on its way to the destination bank (R147): format, bytes, key of the progress word and its new count, and the words
  to make full by their distance from that of the key (R143). -/
  | run (key ty : Nat) (data : List Nat) (prog count : Nat) (words : List Nat)
  /-- A path-based packet of COPYM (R148, R266): the offset, the bytes, FILL, and the cores still to serve. -/
  | multicast (off : Nat) (data : List Nat) (fill : Bool) (path : List Nat)
  /-- An invalidation of operation op on its path: context, address, size in bits, ALL, and the cores still to serve; and one
  core's acknowledgement (R258). -/
  | invalidate (op i va bits : Nat) (all : Bool) (path : List Nat)
  | invalidated (op : Nat)
  /-- A single-record operation: to its home or brick owner, or to a pool index (R339, R340). -/
  | region (r : RegionOp) (idx : Option Nat)
  /-- Its reply: the value, the failure's cause, the record of an RLD (R338). -/
  | regionReply (r : RegionOp) (v : Word) (cause : Nat) (data : List Nat)
  /-- A record moves from pool index idx, is accepted at index idx2 of ordinal ord, refused, committed (R339). -/
  | move (ctx dom idx : Nat) (data : List Nat)
  | accept (ctx dom idx ord idx2 : Nat)
  | refuse (ctx dom idx : Nat)
  | commit (ctx dom idx : Nat)
  /-- The home of entry e takes ordinal ord and index idx2, and acknowledges for the stub at idx (R339). -/
  | entry (ctx dom e ord idx2 idx : Nat)
  | entryAck (ctx dom idx : Nat)
  /-- The home frees entry e for an RDEL, and acknowledges (R339), with 0x0A if it no longer knows the domain (R338). -/
  | entryFree (r : RegionOp) (e : Nat)
  | entryFreed (r : RegionOp) (cause : Nat)
  /-- The phases of a query at owner i of its path, with the count so far (R343). -/
  | arm (q : Query) (i : Nat)
  | scan (q : Query) (i count : Nat)
  | lower (q : Query) (i : Nat)
  /-- RDOM's descriptor for operation op, with the code it ends with, and a core's answer (R334). -/
  | domain (op : Nat) (d : Domain) (create : Bool) (code : Nat)
  | domainDone (op : Nat)
  /-- The answer to a copy's access at another package: cause, bytes read. -/
  | copyAnswer (cause : Nat) (data : List Nat)
  /-- The other package's answer to the request op of this one: cause 0 or its failure, and data (R402). -/
  | fabricAnswer (op cause : Nat) (data : List Word)
  deriving DecidableEq, Repr

/-- Bytes of data that a packet carries beside what it asks (log entry 2, DESIGN CHOICE). -/
def Body.bytes : Body → Nat
  | .fabric _ (.write data _) | .fabric _ (.run _ data _ _ _) | .run _ _ data _ _ _ | .multicast _ data _ _ => data.length
  | .fabricAnswer _ _ data | .lineData _ data _ _ => 8 * data.length
  | .callat _ | .fault _ | .retry _ (some _) => 80
  | .launch words _ => 8 * words.length
  | .region r _ => r.data.length
  | .regionReply _ _ _ data | .move _ _ _ data | .copyAnswer _ data => data.length
  | _ => 0

/-- Bytes of a packet's payload: its data and 24 bytes of what it asks (log entry 2, DESIGN CHOICE); a thread's record is its 224 bytes
alone (R283). -/
def Body.payload : Body → Nat
  | .migrant _ _ _ => 224
  | b => 24 + b.bytes

/-- Flits of a packet inside the package, 64 bytes each, 1 to 64 (R262). -/
def Body.flits (b : Body) : Nat := min 64 ((b.payload + 63) / 64)

/-- A request to another package that awaits its answer (R276). -/
inductive Abroad where
  | store (addr : Word)
  | line (dst : Nat) (name : Word)
  | deliver (name : Word) (origin : Origin)
  | migrate (addr : Word)
  | home (after : Bool) (addr : Word)
  /-- An operation on a barrier of the pod's home (R232), a wait or not. -/
  | barrier (reg : Nat) (wait : Bool)
  /-- The arrival of a finished command or copy, with its failure code, its flags, and the token of a command that its finishing
  release frees (R243, R50, R128). -/
  | engine (code : Option Nat) (flags : Nat) (fin : Option Nat)
  /-- A JOIN (R224). -/
  | join (reg v : Nat)
  /-- An access of the copy in service (R146, R147). -/
  | copy
  /-- A guest's revoke of a name that it carries (R177). -/
  | revoke (name : Word) (reg : Nat)
  /-- A guest's record on its way home: the guest slot stays until the origin has taken the thread (R285). -/
  | migrant
  deriving DecidableEq, Repr

/-- A message in flight. -/
structure Msg where
  /-- Its number; the response to a request bears the request's number. -/
  id : Nat
  /-- The thread its answer belongs to; 0 for an agent. -/
  uid : Nat := 0
  src : Node
  /-- The issuing slot, 64 for an agent; requests of one slot to one owner keep their order (R265). -/
  slot : Nat := 64
  dst : Node
  /-- On the response channel (R262). -/
  resp : Bool := false
  ctx : Nat := 0
  /-- Supervisor rights (R403). -/
  sup : Bool := false
  /-- The 4-bit frame number it carries (R267). -/
  frame : Nat := 0
  /-- Started: a response entry is reserved for it (R271). -/
  started : Bool := false
  /-- The request credit it holds: source cluster and destination (R270). -/
  credit : Option (Nat × Node) := none
  body : Body
  deriving DecidableEq, Repr

/-- A cell as it arrives at a gateway: the header of R274, and the packet it belongs to: for whom it is, its number and slot
at the sender, its rights, what it asks (log entry 2, DESIGN CHOICE: how a packet's content is coded in the payload is not stated; every
cell of a packet carries the same content here). -/
structure Cell where
  header : BitVec 128
  dst : Node
  op : Nat
  slot : Nat
  sup : Bool
  body : Body
  deriving DecidableEq, Repr

/-- A packet of this package on a Klobry link (R274 to R276): the link its last cells went on, its message, FSEQ, the ESEQ of
its first cell, PKT, NC + 1 and ORD; the cells still to go, and how many went in the link's last frame and are not acknowledged. -/
structure Packet where
  link : Nat
  msg : Msg
  fseq : Nat
  eseq : Nat
  num : Nat
  cells : Nat
  ord : Bool
  left : Nat
  last : Nat := 0
  deriving DecidableEq, Repr

/-- The pager firmware that step 8 of a start loads (R394): its words at an offset of every pager core, and what it puts into
PAGEVEC, TASKCFG.DMASK and TASKSTAT.WIN there (log entry 36, DESIGN CHOICE: the manual gives no image). -/
structure Firmware where
  offset : Nat := 0
  words : List Word := []
  pageVec : Nat := 0
  taskCfg : Word := 0
  taskWin : Nat := 0
  deriving DecidableEq, Repr

/-- What the tests and trainings of one start give (R394, R397): which steps' paths fail, which cores step 3 and step 4
find faulty, which pager cores the supervisor places, the firmware they are given, and the window it chooses for slot 63
(R155). -/
structure StartOutcome where
  fails : List Nat := []
  faulty : List Nat := []
  engineFaulty : List Nat := []
  pagers : Option (List (Nat × List Nat)) := none
  firmware : Firmware := {}
  moverWindow : Nat := 128
  deriving DecidableEq, Repr

/-- One reading of a die's sensors (R400). -/
structure Reading where
  rod : Nat := 0
  sramm : Nat := 0
  eye : Nat := 0
  refr : Nat := 0
  life : Nat := 0
  temp : Nat := 0
  deriving DecidableEq, Repr

end Sys2Proof.Machine
end

