-- ==== Sys2Proof/Syntax.lean ====
section
/-! DEFINITION. The instructions and the indivisible events of the part: one constructor per row of the opcode table.
A field of an instruction is the bits of its word (R53). An event names the agent or the message (by number) it is
about; events from outside carry what arrives (spec/95_what_each_step_holds, log entries 1 and 2). -/
namespace Sys2Proof

/-- An instruction or an event of the part. -/
inductive Instr where
  /-- ADD, R79. -/
  | add (d a b : BitVec 7)
  /-- SUB, R79. -/
  | sub (d a b : BitVec 7)
  /-- AND, R79. -/
  | and (d a b : BitVec 7)
  /-- OR, R79. -/
  | or (d a b : BitVec 7)
  /-- XOR, R79. -/
  | xor (d a b : BitVec 7)
  /-- ANDN, R79. -/
  | andn (d a b : BitVec 7)
  /-- SLL, R79. -/
  | sll (d a b : BitVec 7)
  /-- SRL, R79. -/
  | srl (d a b : BitVec 7)
  /-- SRA, R79. -/
  | sra (d a b : BitVec 7)
  /-- ROL, R79. -/
  | rol (d a b : BitVec 7)
  /-- SLT, R79. -/
  | slt (d a b : BitVec 7)
  /-- SLTZ, R79. -/
  | sltz (d a b : BitVec 7)
  /-- SEQ, R79. -/
  | seq (d a b : BitVec 7)
  /-- MIN, R79. -/
  | min (d a b : BitVec 7)
  /-- MAX, R79. -/
  | max (d a b : BitVec 7)
  /-- MINZ, R79. -/
  | minz (d a b : BitVec 7)
  /-- MAXZ, R79. -/
  | maxz (d a b : BitVec 7)
  /-- MUL, R79. -/
  | mul (d a b : BitVec 7)
  /-- MULH, R79. -/
  | mulh (d a b : BitVec 7)
  /-- MULHZ, R79. -/
  | mulhz (d a b : BitVec 7)
  /-- DIV, R79. -/
  | div (d a b : BitVec 7)
  /-- DIVZ, R79. -/
  | divz (d a b : BitVec 7)
  /-- REM, R79. -/
  | rem (d a b : BitVec 7)
  /-- REMZ, R79. -/
  | remz (d a b : BitVec 7)
  /-- CLZ, R79. -/
  | clz (d a : BitVec 7)
  /-- CTZ, R79. -/
  | ctz (d a : BitVec 7)
  /-- POPC, R79. -/
  | popc (d a : BitVec 7)
  /-- BREV, R79. -/
  | brev (d a : BitVec 7)
  /-- SEXT, R79. -/
  | sext (d a b : BitVec 7)
  /-- ZEXT, R79. -/
  | zext (d a b : BitVec 7)
  /-- ADDI, R81. -/
  | addi (d a : BitVec 7) (imm : BitVec 12)
  /-- ANDI, R81. -/
  | andi (d a : BitVec 7) (imm : BitVec 12)
  /-- ORI, R81. -/
  | ori (d a : BitVec 7) (imm : BitVec 12)
  /-- XORI, R81. -/
  | xori (d a : BitVec 7) (imm : BitVec 12)
  /-- SLTI, R81. -/
  | slti (d a : BitVec 7) (imm : BitVec 12)
  /-- SLTZI, R81. -/
  | sltzi (d a : BitVec 7) (imm : BitVec 12)
  /-- SLLI, R82. -/
  | slli (d a : BitVec 7) (sh : BitVec 6)
  /-- SRLI, R82. -/
  | srli (d a : BitVec 7) (sh : BitVec 6)
  /-- SRAI, R82. -/
  | srai (d a : BitVec 7) (sh : BitVec 6)
  /-- ROLI, R82. -/
  | roli (d a : BitVec 7) (sh : BitVec 6)
  /-- LUI, R83. -/
  | lui (d : BitVec 7) (imm : BitVec 19)
  /-- ADDPC, R84. -/
  | addpc (d : BitVec 7) (imm : BitVec 19)
  /-- CABS, R86. -/
  | cabs (d a : BitVec 7)
  /-- CREL, R86. -/
  | crel (d a : BitVec 7)
  /-- CPACK, R86. -/
  | cpack (d a : BitVec 7)
  /-- CX, R86. -/
  | cx (d a : BitVec 7)
  /-- CY, R86. -/
  | cy (d a : BitVec 7)
  /-- BZ, R88. -/
  | bz (a : BitVec 7) (off : BitVec 16)
  /-- BNZ, R88. -/
  | bnz (a : BitVec 7) (off : BitVec 16)
  /-- BLTZ, R88. -/
  | bltz (a : BitVec 7) (off : BitVec 16)
  /-- BGEZ, R88. -/
  | bgez (a : BitVec 7) (off : BitVec 16)
  /-- BGTZ, R88. -/
  | bgtz (a : BitVec 7) (off : BitVec 16)
  /-- BLEZ, R88. -/
  | blez (a : BitVec 7) (off : BitVec 16)
  /-- BFULL, R88. -/
  | bfull (a : BitVec 7) (off : BitVec 16)
  /-- BEMPTY, R88. -/
  | bempty (a : BitVec 7) (off : BitVec 16)
  /-- JMP, R90. -/
  | jmp (d : BitVec 7) (imm : BitVec 19)
  /-- JMPR, R91. -/
  | jmpr (d a : BitVec 7) (imm : BitVec 12)
  /-- CALLAT, R183. -/
  | callat (t a n : BitVec 7)
  /-- RETAT, R186. -/
  | retat (v : BitVec 7)
  /-- LOOP, R167. -/
  | loop (c : BitVec 7) (len : BitVec 12)
  /-- LD, R97. -/
  | ld (d a : BitVec 7) (size : BitVec 2) (off : BitVec 10)
  /-- LDZ, R97. -/
  | ldz (d a : BitVec 7) (size : BitVec 2) (off : BitVec 10)
  /-- ST, R97. -/
  | st (d a : BitVec 7) (size : BitVec 2) (off : BitVec 10)
  /-- LDS, R294. -/
  | lds (d a : BitVec 7) (ord : BitVec 2) (sc : BitVec 3)
  /-- LDF, R294. -/
  | ldf (d a : BitVec 7) (ord : BitVec 2) (sc : BitVec 3)
  /-- STS, R294. -/
  | sts (d a : BitVec 7) (ord : BitVec 2) (sc : BitVec 3)
  /-- STF, R294. -/
  | stf (d a : BitVec 7) (ord : BitVec 2) (sc : BitVec 3)
  /-- EMPTY, R294. -/
  | empty (a : BitVec 7) (ord : BitVec 2) (sc : BitVec 3)
  /-- ATOM_FADD, R318. -/
  | atomFadd (d a : BitVec 7) (ord : BitVec 2) (sc : BitVec 3)
  /-- ATOM_FMIN, R318. -/
  | atomFmin (d a : BitVec 7) (ord : BitVec 2) (sc : BitVec 3)
  /-- ATOM_FMAX, R318. -/
  | atomFmax (d a : BitVec 7) (ord : BitVec 2) (sc : BitVec 3)
  /-- ATOM_SWAP, R318. -/
  | atomSwap (d a : BitVec 7) (ord : BitVec 2) (sc : BitVec 3)
  /-- ATOM_CAS, R318. -/
  | atomCas (d a : BitVec 7) (ord : BitVec 2) (sc : BitVec 3)
  /-- ATOM_AND, R318. -/
  | atomAnd (d a : BitVec 7) (ord : BitVec 2) (sc : BitVec 3)
  /-- ATOM_OR, R318. -/
  | atomOr (d a : BitVec 7) (ord : BitVec 2) (sc : BitVec 3)
  /-- ATOM_XOR, R318. -/
  | atomXor (d a : BitVec 7) (ord : BitVec 2) (sc : BitVec 3)
  /-- ATOM_FADDF, R318. -/
  | atomFaddf (d a : BitVec 7) (ord : BitVec 2) (sc : BitVec 3)
  /-- FENCE, R316. -/
  | fence (d : BitVec 7) (kind : BitVec 2) (sc : BitVec 3)
  /-- WAITC, R304. -/
  | waitc (tl cp st ld : BitVec 3)
  /-- WAITK, R305. -/
  | waitk (mask : BitVec 8)
  /-- MINT, R171. -/
  | mint (d b : BitVec 7)
  /-- MINT_LD, R172. -/
  | mintLd (d a b : BitVec 7)
  /-- DELIV, R174. -/
  | deliv (a b : BitVec 7)
  /-- REVOKE, R177. -/
  | revoke (d a : BitVec 7)
  /-- NSTAT, R178. -/
  | nstat (d : BitVec 7)
  /-- QBIND, R196. -/
  | qbind (q : BitVec 2) (a : BitVec 7)
  /-- QUNBIND, R196. -/
  | qunbind (q : BitVec 2)
  /-- TICKET, R194. -/
  | ticket (d a : BitVec 7)
  /-- RQFILL, R194. -/
  | rqfill (v a t : BitVec 7)
  /-- RQPOP, R194. -/
  | rqpop (d a : BitVec 7)
  /-- RQPEEK, R194. -/
  | rqpeek (d a : BitVec 7)
  /-- DECR, R191. -/
  | decr (a b : BitVec 7)
  /-- NEXTC, R192. -/
  | nextc
  /-- CINIT, R190. -/
  | cinit (d a b : BitVec 7)
  /-- BARM, R237. -/
  | barm (d a b : BitVec 7)
  /-- BARV, R237. -/
  | barv (d a b : BitVec 7)
  /-- BWAIT, R237. -/
  | bwait (d a b : BitVec 7)
  /-- BARW, R237. -/
  | barw (d a b : BitVec 7)
  /-- BERR, R237. -/
  | berr (d a b : BitVec 7)
  /-- BSTAT, R237. -/
  | bstat (d a : BitVec 7)
  /-- LAUNCH, R216. -/
  | launch (d a : BitVec 7)
  /-- TRIGGER, R227. -/
  | trigger
  /-- DONE, R230. -/
  | done (d a : BitVec 7)
  /-- GSPLIT, R205. -/
  | gsplit (d a b : BitVec 7)
  /-- GRANK, R206. -/
  | grank (d a : BitVec 7)
  /-- VADD, R120. -/
  | vadd (d a b : BitVec 3) (ty : BitVec 4) (n : BitVec 7)
  /-- VSUB, R120. -/
  | vsub (d a b : BitVec 3) (ty : BitVec 4) (n : BitVec 7)
  /-- VMUL, R120. -/
  | vmul (d a b : BitVec 3) (ty : BitVec 4) (n : BitVec 7)
  /-- VFMA, R120. -/
  | vfma (d a b : BitVec 3) (ty : BitVec 4) (n : BitVec 7)
  /-- VFMS, R120. -/
  | vfms (d a b : BitVec 3) (ty : BitVec 4) (n : BitVec 7)
  /-- VDIV, R120. -/
  | vdiv (d a b : BitVec 3) (ty : BitVec 4) (n : BitVec 7)
  /-- VSQRT, R120. -/
  | vsqrt (d a : BitVec 3) (ty : BitVec 4) (n : BitVec 7)
  /-- VRSQRT, R120. -/
  | vrsqrt (d a : BitVec 3) (ty : BitVec 4) (n : BitVec 7)
  /-- VMIN, R120. -/
  | vmin (d a b : BitVec 3) (ty : BitVec 4) (n : BitVec 7)
  /-- VMAX, R120. -/
  | vmax (d a b : BitVec 3) (ty : BitVec 4) (n : BitVec 7)
  /-- VABS, R120. -/
  | vabs (d a : BitVec 3) (ty : BitVec 4) (n : BitVec 7)
  /-- VNEG, R120. -/
  | vneg (d a : BitVec 3) (ty : BitVec 4) (n : BitVec 7)
  /-- VEXP2, R120. -/
  | vexp2 (d a : BitVec 3) (ty : BitVec 4) (n : BitVec 7)
  /-- VLOG2, R120. -/
  | vlog2 (d a : BitVec 3) (ty : BitVec 4) (n : BitVec 7)
  /-- VRCP, R120. -/
  | vrcp (d a : BitVec 3) (ty : BitVec 4) (n : BitVec 7)
  /-- VSCALE, R120. -/
  | vscale (d a : BitVec 3) (ty : BitVec 4) (n : BitVec 7)
  /-- VAXPY, R120. -/
  | vaxpy (d a b : BitVec 3) (ty : BitVec 4) (n : BitVec 7)
  /-- VIADD, R121. -/
  | viadd (d a b : BitVec 3) (ty : BitVec 4) (n : BitVec 7)
  /-- VISUB, R121. -/
  | visub (d a b : BitVec 3) (ty : BitVec 4) (n : BitVec 7)
  /-- VIMUL, R121. -/
  | vimul (d a b : BitVec 3) (ty : BitVec 4) (n : BitVec 7)
  /-- VAND, R121. -/
  | vand (d a b : BitVec 3) (ty : BitVec 4) (n : BitVec 7)
  /-- VOR, R121. -/
  | vor (d a b : BitVec 3) (ty : BitVec 4) (n : BitVec 7)
  /-- VXOR, R121. -/
  | vxor (d a b : BitVec 3) (ty : BitVec 4) (n : BitVec 7)
  /-- VSHL, R121. -/
  | vshl (d a b : BitVec 3) (ty : BitVec 4) (n : BitVec 7)
  /-- VSHR, R121. -/
  | vshr (d a b : BitVec 3) (ty : BitVec 4) (n : BitVec 7)
  /-- VSHRA, R121. -/
  | vshra (d a b : BitVec 3) (ty : BitVec 4) (n : BitVec 7)
  /-- VIMIN, R121. -/
  | vimin (d a b : BitVec 3) (ty : BitVec 4) (n : BitVec 7)
  /-- VIMAX, R121. -/
  | vimax (d a b : BitVec 3) (ty : BitVec 4) (n : BitVec 7)
  /-- VCVT, R122. -/
  | vcvt (d a : BitVec 3) (ty : BitVec 4) (n : BitVec 7)
  /-- VLUT, R122. -/
  | vlut (d a b : BitVec 3) (ty : BitVec 4) (n : BitVec 7)
  /-- VFILL, R122. -/
  | vfill (d a : BitVec 3) (ty : BitVec 4) (n : BitVec 7)
  /-- VIOTA, R122. -/
  | viota (d : BitVec 3) (ty : BitVec 4) (n : BitVec 7)
  /-- VCOPY, R122. -/
  | vcopy (d a : BitVec 3) (ty : BitVec 4) (n : BitVec 7)
  /-- VRSUM, R123. -/
  | vrsum (d a : BitVec 3) (ty : BitVec 4) (n : BitVec 7)
  /-- VRMAX, R123. -/
  | vrmax (d a : BitVec 3) (ty : BitVec 4) (n : BitVec 7)
  /-- VRMIN, R123. -/
  | vrmin (d a : BitVec 3) (ty : BitVec 4) (n : BitVec 7)
  /-- VDOT, R123. -/
  | vdot (d a b : BitVec 3) (ty : BitVec 4) (n : BitVec 7)
  /-- VCMP, R123. -/
  | vcmp (d a b : BitVec 3) (ty : BitVec 4) (n : BitVec 7)
  /-- VSEL, R123. -/
  | vsel (d a b : BitVec 3) (ty : BitVec 4) (n : BitVec 7)
  /-- PSET, R109. -/
  | pset (p : BitVec 3) (g : BitVec 7)
  /-- PGET, R109. -/
  | pget (p : BitVec 3) (g : BitVec 7)
  /-- PADV, R109. -/
  | padv (p : BitVec 3) (g : BitVec 7)
  /-- TCMD, R126. -/
  | tcmd (k : BitVec 3) (a : BitVec 7) (w : BitVec 1) (b : BitVec 3)
  /-- COPY, R144. -/
  | copy (k : BitVec 3) (a : BitVec 7) (w : BitVec 1) (b : BitVec 3)
  /-- COPYR, R144. -/
  | copyr (k : BitVec 3) (a : BitVec 7) (w : BitVec 1) (b : BitVec 3)
  /-- COPYM, R144. -/
  | copym (k : BitVec 3) (a : BitVec 7) (w : BitVec 1) (b : BitVec 3)
  /-- RDOM, R334. -/
  | rdom (d a : BitVec 7)
  /-- RINS, R336. -/
  | rins (d a b : BitVec 7)
  /-- RLD, R337. -/
  | rld (d a b : BitVec 7)
  /-- RST, R337. -/
  | rst (d a b : BitVec 7)
  /-- RPOS, R337. -/
  | rpos (d a b : BitVec 7)
  /-- RDEL, R337. -/
  | rdel (d a : BitVec 7)
  /-- RQBOX, R342. -/
  | rqbox (a b : BitVec 7)
  /-- RQRAD, R342. -/
  | rqrad (a b : BitVec 7)
  /-- RSCAN, R342. -/
  | rscan (a b : BitVec 7)
  /-- SQTAB, R354. -/
  | sqtab (d a : BitVec 7)
  /-- SQCFG, R354. -/
  | sqcfg (d a : BitVec 7)
  /-- SQLOAD, R354. -/
  | sqload (d a b : BitVec 7)
  /-- SQSTAGE, R355. -/
  | sqstage (d a b : BitVec 7)
  /-- SQEND, R356. -/
  | sqend (d a : BitVec 7)
  /-- SQDEC, R358. -/
  | sqdec (d a b : BitVec 7)
  /-- SQACT, R360. -/
  | sqact (d a : BitVec 7)
  /-- SQHIST, R360. -/
  | sqhist (d a : BitVec 7)
  /-- SRD, R160. -/
  | srd (d : BitVec 7) (num : BitVec 12)
  /-- SWR, R160. -/
  | swr (d : BitVec 7) (num : BitVec 12)
  /-- TRAP, R160. -/
  | trap (code : BitVec 12)
  /-- RTE, R160. -/
  | rte
  /-- HALT, R160. -/
  | halt
  /-- YIELD, R160. -/
  | yield
  /-- SPAWN, R160. -/
  | spawn (d : BitVec 7)
  /-- SPILL, R163. -/
  | spill (d : BitVec 7)
  /-- RESUME, R166. -/
  | resume (d : BitVec 7)
  /-- PINVAL, R258. -/
  | pinval (d : BitVec 7) (size : BitVec 2)
  /-- PHEAT, R261. -/
  | pheat (d : BitVec 7)
  /-- PMOVE, R260. -/
  | pmove (d : BitVec 7)
  /-- PMAP, R259. -/
  | pmap (d : BitVec 7)
  /-- CELLRES, R279. -/
  | cellres (d n : BitVec 7)
  /-- CELLREL, R279. -/
  | cellrel (d n : BitVec 7)
  /-- HOME, R285. -/
  | home
  /-- LINKW, R280. -/
  | linkw (d : BitVec 7) (w : BitVec 4)
  /-- LOAD_REPLY, R99. -/
  | loadReply (m : Nat)
  /-- STORE_ACK, R100. -/
  | storeAck (m : Nat)
  /-- INBOUND_REQUEST, R105. -/
  | inboundRequest (m : Nat)
  /-- REQUEST_START, R271. -/
  | requestStart (m : Nat)
  /-- CREDIT_RETURN, R380. -/
  | creditReturn (m : Nat)
  /-- WAIT_STORE_SERVE, R272. -/
  | waitStoreServe (m : Nat)
  /-- RETRY_ANSWER, R272. -/
  | retryAnswer (m : Nat)
  /-- CALLAT_RESEND, R272. -/
  | callatResend (m : Nat)
  /-- FE_REMOTE_REQUEST, R297. -/
  | feRemoteRequest (m : Nat)
  /-- FE_ANSWER, R297. -/
  | feAnswer (m : Nat)
  /-- FE_WAIT_LIMIT, R299. -/
  | feWaitLimit (u : Nat)
  /-- CANCEL_REQUEST, R299. -/
  | cancelRequest (m : Nat)
  /-- CANCELLED_ANSWER, R299. -/
  | cancelledAnswer (m : Nat)
  /-- ATOM_REQUEST, R318. -/
  | atomRequest (m : Nat)
  /-- ECHO, R315. -/
  | echo (m : Nat)
  /-- ECHO_ANSWER, R315. -/
  | echoAnswer (m : Nat)
  /-- BOUNDARY_TRAP, R404. -/
  | boundaryTrap (t : Nat)
  /-- SLOT_RETIRE, R154. -/
  | slotRetire (t : Nat)
  /-- SPILL_COMPLETE, R163. -/
  | spillComplete (m : Nat)
  /-- RESUME_COMPLETE, R166. -/
  | resumeComplete (m : Nat)
  /-- YIELD_EXPIRY, R160. -/
  | yieldExpiry (t : Nat)
  /-- VECTOR_EXECUTE, R113. -/
  | vectorExecute (c : Nat)
  /-- VECTOR_FINISH, R114. -/
  | vectorFinish (c : Nat)
  /-- SEQUENCER_EXECUTE, R353. -/
  | sequencerExecute (c : Nat)
  /-- SEQUENCER_FINISH, R352. -/
  | sequencerFinish (c : Nat)
  /-- MZERO, R130. -/
  | mzero (c : Nat)
  /-- MMA, R45. -/
  | mma (c : Nat)
  /-- MMAS, R48. -/
  | mmas (c : Nat)
  /-- MMAD, R45. -/
  | mmad (c : Nat)
  /-- MSTORE, R131. -/
  | mstore (c : Nat)
  /-- MLOADC, R131. -/
  | mloadc (c : Nat)
  /-- BLOAD, R127. -/
  | bload (c : Nat)
  /-- BROT, R133. -/
  | brot (c : Nat)
  /-- BROT_WAIT_LIMIT, R134. -/
  | brotWaitLimit (c : Nat)
  /-- TCOPY, R136. -/
  | tcopy (c : Nat)
  /-- TGATHER, R136. -/
  | tgather (c : Nat)
  /-- TSCATTER, R136. -/
  | tscatter (c : Nat)
  /-- TILE_FINISH, R128. -/
  | tileFinish (c : Nat) (mover : Bool)
  /-- COPY_FINISH, R145. -/
  | copyFinish (c : Nat)
  /-- COPYR_RUN_APPLY, R147. -/
  | copyrRunApply (m : Nat)
  /-- MULTICAST_PACKET, R266. -/
  | multicastPacket (m : Nat)
  /-- DELIVERY, R173. -/
  | delivery (m : Nat)
  /-- DELIVERY_ANSWER, R175. -/
  | deliveryAnswer (m : Nat)
  /-- LINE_REPLY, R172. -/
  | lineReply (m : Nat)
  /-- REVOKE_REQUEST, R177. -/
  | revokeRequest (m : Nat)
  /-- RETARGET_NOTICE, R181. -/
  | retargetNotice (m : Nat)
  /-- RETURN_NOTICE, R181. -/
  | returnNotice (m : Nat)
  /-- DESTROY_NOTICE, R181. -/
  | destroyNotice (m : Nat)
  /-- FORWARDED_VALUE, R181. -/
  | forwardedValue (m : Nat)
  /-- CALLAT_ACCEPT, R187. -/
  | callatAccept (m : Nat)
  /-- TASK_DISPATCH, R185. -/
  | taskDispatch (c : Nat)
  /-- DECR_REQUEST, R191. -/
  | decrRequest (m : Nat)
  /-- TICKET_REQUEST, R194. -/
  | ticketRequest (m : Nat)
  /-- RQFILL_REQUEST, R194. -/
  | rqfillRequest (m : Nat)
  /-- LAUNCH_ACCEPT, R217. -/
  | launchAccept (m : Nat)
  /-- KERNEL_SCHEDULE, R219. -/
  | kernelSchedule
  /-- PLACEMENT_RESERVE, R220. -/
  | placementReserve (k c : Nat)
  /-- PLACEMENT_COMMIT, R220. -/
  | placementCommit (k : Nat)
  /-- IMAGE_COPY, R221. -/
  | imageCopy (k : Nat)
  /-- STATUS_REPORT, R224. -/
  | statusReport (k c : Nat)
  /-- JOIN, R224. -/
  | join (m : Nat)
  /-- LEAVE, R224. -/
  | leave (m : Nat)
  /-- KERNEL_RETIRE, R226. -/
  | kernelRetire (k : Nat)
  /-- TRIGGER_REPORT, R228. -/
  | triggerReport (k c : Nat)
  /-- TRIGGER_NOTICE, R229. -/
  | triggerNotice (m : Nat)
  /-- DONE_QUERY, R230. -/
  | doneQuery (m : Nat)
  /-- BARRIER_OPERATION, R235. -/
  | barrierOperation (m : Nat)
  /-- BARRIER_REPLY, R239. -/
  | barrierReply (m : Nat)
  /-- BARRIER_WAIT_LIMIT, R240. -/
  | barrierWaitLimit (u : Nat)
  /-- POD_HOME_LOST, R241. -/
  | podHomeLost
  /-- HEAT_UPDATE, R250. -/
  | heatUpdate (m : Nat)
  /-- FAULT_PACKET, R252. -/
  | faultPacket (m : Nat)
  /-- PWAKE, R253. -/
  | pwake (m : Nat)
  /-- PAGE_WAKE, R253. -/
  | pageWake (m : Nat)
  /-- INVALIDATION, R258. -/
  | invalidation (m : Nat)
  /-- INVALIDATION_ACK, R258. -/
  | invalidationAck (m : Nat)
  /-- PMOVE_COPY_DONE, R260. -/
  | pmoveCopyDone (m : Nat)
  /-- PMAP_COMPLETE, R259. -/
  | pmapComplete (m : Nat)
  /-- PHEAT_COMPLETE, R261. -/
  | pheatComplete (m : Nat)
  /-- FRAME_CLOSE_WAVE, R267. -/
  | frameCloseWave (d : Nat)
  /-- CELL_RECEIVE, R274. -/
  | cellReceive (d : Nat) (cell : Machine.Cell)
  /-- CELL_RESEND, R276. -/
  | cellResend (m : Nat)
  /-- LINK_FRAME, R275. -/
  | linkFrame (l : Nat)
  /-- LINK_DOWN, R276. -/
  | linkDown (l : Nat)
  /-- LINK_TRAINED, R280. -/
  | linkTrained (l : Nat)
  /-- PACKAGE_UNREACHABLE, R276. -/
  | packageUnreachable (d p : Nat)
  /-- LINK_WIDTH_CHANGE, R280. -/
  | linkWidthChange (l : Nat)
  /-- CELL_RESERVATION, R279. -/
  | cellReservation (m : Nat)
  /-- LINK_NOTICE, R281. -/
  | linkNotice
  /-- LINKNOTE_WRITE, R281. -/
  | linknoteWrite (name : BitVec 64)
  /-- FABRIC_REQUEST, R402. -/
  | fabricRequest (m : Nat)
  /-- MIGRATION_REQUEST, R282. -/
  | migrationRequest (m : Nat)
  /-- MIGRATION_ARRIVE, R283. -/
  | migrationArrive (m : Nat)
  /-- HOME_ARRIVE, R285. -/
  | homeArrive (m : Nat)
  /-- GUEST_RETIRE_NOTICE, R229. -/
  | guestRetireNotice (m : Nat)
  /-- RECORD_OPERATION, R339. -/
  | recordOperation (m : Nat)
  /-- RECORD_MOVE, R339. -/
  | recordMove (m : Nat)
  /-- RECORD_ACCEPT, R339. -/
  | recordAccept (m : Nat)
  /-- RECORD_REFUSE, R339. -/
  | recordRefuse (m : Nat)
  /-- RECORD_COMMIT, R339. -/
  | recordCommit (m : Nat)
  /-- ENTRY_UPDATE, R339. -/
  | entryUpdate (m : Nat)
  /-- REGION_REPLY, R338. -/
  | regionReply (m : Nat)
  /-- QUERY_ARM, R343. -/
  | queryArm (m : Nat)
  /-- QUERY_SCAN, R343. -/
  | queryScan (m : Nat)
  /-- QUERY_RELEASE, R343. -/
  | queryRelease (m : Nat)
  /-- DOMAIN_DESCRIPTOR, R334. -/
  | domainDescriptor (m : Nat)
  /-- CTX_ACTIVATE, R151. -/
  | ctxActivate
  /-- CTX_DRAIN, R151. -/
  | ctxDrain
  /-- CTX_COMMAND_COMPLETE, R151. -/
  | ctxCommandComplete
  /-- CONTEXT_FREE, R151. -/
  | contextFree (i : Nat)
  /-- CLOCK_GATE, R17. -/
  | clockGate (c : Nat)
  /-- CLOCK_UNGATE, R17. -/
  | clockUngate (c : Nat)
  /-- OWN_CLAIM, R389. -/
  | ownClaim (who : Machine.Master) (force : Bool) (epoch : Nat)
  /-- OWN_HAND_OVER, R389. -/
  | ownHandOver (who : Machine.Master) (dst epoch : Nat)
  /-- OWN_RELEASE, R389. -/
  | ownRelease (who : Machine.Master) (epoch : Nat)
  /-- LQPUT_GO, R390. -/
  | lqputGo (who : Machine.Master)
  /-- NOTE_READ, R391. -/
  | noteRead
  /-- BNOTE_READ, R391. -/
  | bnoteRead
  /-- DBGSTOP_WRITE, R393. -/
  | dbgstopWrite (who : Machine.Master) (word : Nat) (value : BitVec 64)
  /-- REGISTER_WRITE, R388. -/
  | registerWrite (who : Machine.Master) (offset : Nat) (value : BitVec 64)
  /-- START_SEQUENCE, R394. -/
  | startSequence (outcome : Machine.StartOutcome)
  /-- POWER_ON, R394. -/
  | powerOn
  /-- DEVICE_FATAL, R398. -/
  | deviceFatal (cause : Nat)
  /-- LAUNCH_CONTROLLER_TIMEOUT, R398. -/
  | launchControllerTimeout (d : Nat)
  /-- TEMPERATURE_TRIP, R401. -/
  | temperatureTrip (d : Nat)
  /-- HEALTH_UPDATE, R400. -/
  | healthUpdate (d : Nat) (reading : Machine.Reading)
  /-- ILLEGAL_ENCODING, R71. -/
  | illegalEncoding (w : BitVec 32)
  /-- FALL_THROUGH_PAST_SCRATCHPAD, R85. -/
  | fallThrough
  /-- RDOM_ANSWER, R334. -/
  | rdomAnswer (m : Nat)
  /-- LINKW_REQUEST, R280. -/
  | linkwRequest (m : Nat)
  /-- MIGRATION_DEPARTURE, R181. -/
  | migrationDeparture (u : Nat)
  /-- MANAGEMENT_LAUNCH, R390. -/
  | managementLaunch (port : Nat) (packet : BitVec 512)
  /-- HEALTH_RECORD_READ, R400. -/
  | healthRecordRead (d : Nat)
  deriving DecidableEq, Repr

end Sys2Proof
end

