-- ==== Sys2Proof/WellFormed.lean ====
section
/-! DEFINITION. Which instructions a word may hold: the sub-field checks of step 1 of R71. -/
namespace Sys2Proof

/-- Why an instruction is ill-formed; each is a trap with cause 0x01 at step 1 of R71. -/
inductive IllFormed where
  /-- sc 5 to 7 (R63). -/
  | scope
  /-- A nonzero sc with a plain access (R63). -/
  | scopeOfPlain
  /-- An ordering that the access does not take (R63). -/
  | ordering
  /-- FENCE: kind 0, or scope 6 or 7 (R66). -/
  | fenceField
  /-- FENCE: a nonzero d with a level scope (R316). -/
  | fenceRegister
  /-- WAITK: an empty mask (R305). -/
  | emptyMask
  /-- MINT.LD with a = 0 is MINT (R172). -/
  | noSource
  /-- A format code the vector instruction does not accept (R65). -/
  | format
  /-- LOOP with no body (R64). -/
  | emptyBody
  /-- A barrier level of 6 or 7 (R67). -/
  | barrierLevel
  /-- PINVAL with page size 3 (R66). -/
  | pageSize
  /-- CELLRES or CELLREL with a slot count outside 1 to 64 (R66, R279). -/
  | slotCount
  /-- LINKW with a width code above 3 (R280). -/
  | widthCode
  deriving DecidableEq, Repr

namespace WellFormed

/-- Ordering and scope of format S (R63); acq and rel say which orderings the access takes. -/
def ordScope (acq rel : Bool) (ord : BitVec 2) (sc : BitVec 3) : Option IllFormed :=
  if sc.toNat > 4 then some .scope
  else if ord = 0 ∧ sc ≠ 0 then some .scopeOfPlain
  else if (ord.getLsbD 0 ∧ ¬ acq) ∨ (ord.getLsbD 1 ∧ ¬ rel) then some .ordering
  else none

/-- A format code among those accepted. -/
def tyIn (l : List Nat) (ty : BitVec 4) : Option IllFormed := if l.contains ty.toNat then none else some .format

/-- f64, f32, bf16, f16 (R120). -/
def floats : List Nat := [0, 1, 2, 3]
/-- i64, i32, i16, i8 (R121). -/
def ints : List Nat := [8, 9, 10, 11]
/-- Every format (R26). -/
def everyTy : List Nat := [0, 1, 2, 3, 4, 5, 8, 9, 10, 11, 12]
/-- Every format but i4. -/
def notI4 : List Nat := [0, 1, 2, 3, 4, 5, 8, 9, 10, 11]
/-- The formats of VRSUM, VRMAX, VRMIN (R123). -/
def reduced : List Nat := [0, 1, 2, 3, 8, 9]

/-- A barrier level of format T (R67). -/
def level (b : BitVec 3) : Option IllFormed := if b.toNat > 5 then some .barrierLevel else none

/-- A reservation's slot count (R279). -/
def count (n : BitVec 7) : Option IllFormed := if 1 ≤ n.toNat ∧ n.toNat ≤ 64 then none else some .slotCount

/-- The first check an instruction fails; none if it is well-formed. -/
def check : Instr → Option IllFormed
  | .lds _ _ o s | .ldf _ _ o s => ordScope true false o s
  | .sts _ _ o s | .stf _ _ o s => ordScope false true o s
  | .empty _ o s => ordScope false true o s
  | .atomFadd _ _ o s | .atomFmin _ _ o s | .atomFmax _ _ o s | .atomSwap _ _ o s | .atomCas _ _ o s
  | .atomAnd _ _ o s | .atomOr _ _ o s | .atomXor _ _ o s | .atomFaddf _ _ o s => ordScope true true o s
  | .fence d k s =>
    if k = 0 ∨ s.toNat > 5 then some .fenceField else if s ≠ 5 ∧ d ≠ 0 then some .fenceRegister else none
  | .waitk m => if m = 0 then some .emptyMask else none
  | .mintLd _ a _ => if a = 0 then some .noSource else none
  | .loop _ l => if l = 0 then some .emptyBody else none
  | .vadd _ _ _ ty _ | .vsub _ _ _ ty _ | .vmul _ _ _ ty _ | .vfma _ _ _ ty _ | .vfms _ _ _ ty _ | .vdiv _ _ _ ty _
  | .vmin _ _ _ ty _ | .vmax _ _ _ ty _ | .vaxpy _ _ _ ty _ | .vdot _ _ _ ty _ => tyIn floats ty
  | .vsqrt _ _ ty _ | .vrsqrt _ _ ty _ | .vabs _ _ ty _ | .vneg _ _ ty _ | .vexp2 _ _ ty _ | .vlog2 _ _ ty _
  | .vrcp _ _ ty _ | .vscale _ _ ty _ => tyIn floats ty
  | .viadd _ _ _ ty _ | .visub _ _ _ ty _ | .vimul _ _ _ ty _ | .vand _ _ _ ty _ | .vor _ _ _ ty _ | .vxor _ _ _ ty _
  | .vshl _ _ _ ty _ | .vshr _ _ _ ty _ | .vshra _ _ _ ty _ | .vimin _ _ _ ty _ | .vimax _ _ _ ty _ => tyIn ints ty
  | .viota _ ty _ => tyIn ints ty
  | .vcvt _ _ ty _ | .vcopy _ _ ty _ => tyIn everyTy ty
  | .vlut _ _ _ ty _ | .vcmp _ _ _ ty _ | .vsel _ _ _ ty _ => tyIn notI4 ty
  | .vfill _ _ ty _ => tyIn notI4 ty
  | .vrsum _ _ ty _ | .vrmax _ _ ty _ | .vrmin _ _ ty _ => tyIn reduced ty
  | .tcmd _ _ _ b | .copy _ _ _ b | .copyr _ _ _ b | .copym _ _ _ b => level b
  | .pinval _ z => if z = 3 then some .pageSize else none
  | .cellres _ n | .cellrel _ n => count n
  | .linkw _ w => if w.toNat > 3 then some .widthCode else none
  | _ => none

end WellFormed

/-- The instruction passes every sub-field check. -/
def Instr.wellFormed (i : Instr) : Bool := (WellFormed.check i).isNone

end Sys2Proof
end

