-- ==== Sys2Proof/Decode.lean ====
section
/-! DEFINITION. Decoding, total on any bytes and rejecting by name, and the encoder (R52, R53, R60 to R67, R71). -/
namespace Sys2Proof

/-- Why a word names no instruction; every case is the trap 0x01 of step 1 of R71. -/
inductive DecodeError where
  /-- Fewer than four bytes. -/
  | truncated
  /-- A reserved major (R60). -/
  | reservedMajor
  /-- A function code beyond the last one listed (R61). -/
  | unassignedFunction
  /-- A nonzero reserved field or unused register field (R62, R64, R66). -/
  | reservedField
  /-- QBIND or QUNBIND with a d field below 124 (R196). -/
  | badQueueCode
  /-- A sub-field value that the instruction does not take. -/
  | illFormed (r : IllFormed)
  deriving DecidableEq, Repr

namespace Decode

/-- The w bits of n from bit lo. -/
def fieldAt (n lo w : Nat) : BitVec w := BitVec.ofNat w (n / 2 ^ lo)

/-- Major 0x01 (R60, R61). -/
def major01 (n : Nat) : Except DecodeError Instr :=
  match n / 2 ^ 0 % 2 ^ 5 with
  | 0 => .ok (.add (fieldAt n 19 7) (fieldAt n 12 7) (fieldAt n 5 7))
  | 1 => .ok (.sub (fieldAt n 19 7) (fieldAt n 12 7) (fieldAt n 5 7))
  | 2 => .ok (.and (fieldAt n 19 7) (fieldAt n 12 7) (fieldAt n 5 7))
  | 3 => .ok (.or (fieldAt n 19 7) (fieldAt n 12 7) (fieldAt n 5 7))
  | 4 => .ok (.xor (fieldAt n 19 7) (fieldAt n 12 7) (fieldAt n 5 7))
  | 5 => .ok (.andn (fieldAt n 19 7) (fieldAt n 12 7) (fieldAt n 5 7))
  | 6 => .ok (.sll (fieldAt n 19 7) (fieldAt n 12 7) (fieldAt n 5 7))
  | 7 => .ok (.srl (fieldAt n 19 7) (fieldAt n 12 7) (fieldAt n 5 7))
  | 8 => .ok (.sra (fieldAt n 19 7) (fieldAt n 12 7) (fieldAt n 5 7))
  | 9 => .ok (.rol (fieldAt n 19 7) (fieldAt n 12 7) (fieldAt n 5 7))
  | 10 => .ok (.slt (fieldAt n 19 7) (fieldAt n 12 7) (fieldAt n 5 7))
  | 11 => .ok (.sltz (fieldAt n 19 7) (fieldAt n 12 7) (fieldAt n 5 7))
  | 12 => .ok (.seq (fieldAt n 19 7) (fieldAt n 12 7) (fieldAt n 5 7))
  | 13 => .ok (.min (fieldAt n 19 7) (fieldAt n 12 7) (fieldAt n 5 7))
  | 14 => .ok (.max (fieldAt n 19 7) (fieldAt n 12 7) (fieldAt n 5 7))
  | 15 => .ok (.minz (fieldAt n 19 7) (fieldAt n 12 7) (fieldAt n 5 7))
  | 16 => .ok (.maxz (fieldAt n 19 7) (fieldAt n 12 7) (fieldAt n 5 7))
  | 17 => .ok (.mul (fieldAt n 19 7) (fieldAt n 12 7) (fieldAt n 5 7))
  | 18 => .ok (.mulh (fieldAt n 19 7) (fieldAt n 12 7) (fieldAt n 5 7))
  | 19 => .ok (.mulhz (fieldAt n 19 7) (fieldAt n 12 7) (fieldAt n 5 7))
  | 20 => .ok (.div (fieldAt n 19 7) (fieldAt n 12 7) (fieldAt n 5 7))
  | 21 => .ok (.divz (fieldAt n 19 7) (fieldAt n 12 7) (fieldAt n 5 7))
  | 22 => .ok (.rem (fieldAt n 19 7) (fieldAt n 12 7) (fieldAt n 5 7))
  | 23 => .ok (.remz (fieldAt n 19 7) (fieldAt n 12 7) (fieldAt n 5 7))
  | 24 => if n / 2 ^ 5 % 2 ^ 7 = 0 then .ok (.clz (fieldAt n 19 7) (fieldAt n 12 7)) else .error .reservedField
  | 25 => if n / 2 ^ 5 % 2 ^ 7 = 0 then .ok (.ctz (fieldAt n 19 7) (fieldAt n 12 7)) else .error .reservedField
  | 26 => if n / 2 ^ 5 % 2 ^ 7 = 0 then .ok (.popc (fieldAt n 19 7) (fieldAt n 12 7)) else .error .reservedField
  | 27 => if n / 2 ^ 5 % 2 ^ 7 = 0 then .ok (.brev (fieldAt n 19 7) (fieldAt n 12 7)) else .error .reservedField
  | 28 => .ok (.sext (fieldAt n 19 7) (fieldAt n 12 7) (fieldAt n 5 7))
  | 29 => .ok (.zext (fieldAt n 19 7) (fieldAt n 12 7) (fieldAt n 5 7))
  | _ => .error .unassignedFunction

/-- Major 0x02 (R60, R61). -/
def major02 (n : Nat) : Except DecodeError Instr :=
  .ok (.addi (fieldAt n 19 7) (fieldAt n 12 7) (fieldAt n 0 12))

/-- Major 0x03 (R60, R61). -/
def major03 (n : Nat) : Except DecodeError Instr :=
  .ok (.andi (fieldAt n 19 7) (fieldAt n 12 7) (fieldAt n 0 12))

/-- Major 0x04 (R60, R61). -/
def major04 (n : Nat) : Except DecodeError Instr :=
  .ok (.ori (fieldAt n 19 7) (fieldAt n 12 7) (fieldAt n 0 12))

/-- Major 0x05 (R60, R61). -/
def major05 (n : Nat) : Except DecodeError Instr :=
  .ok (.xori (fieldAt n 19 7) (fieldAt n 12 7) (fieldAt n 0 12))

/-- Major 0x06 (R60, R61). -/
def major06 (n : Nat) : Except DecodeError Instr :=
  .ok (.slti (fieldAt n 19 7) (fieldAt n 12 7) (fieldAt n 0 12))

/-- Major 0x07 (R60, R61). -/
def major07 (n : Nat) : Except DecodeError Instr :=
  .ok (.sltzi (fieldAt n 19 7) (fieldAt n 12 7) (fieldAt n 0 12))

/-- Major 0x08 (R60, R61). -/
def major08 (n : Nat) : Except DecodeError Instr :=
  match n / 2 ^ 10 % 2 ^ 2 with
  | 0 => if n / 2 ^ 6 % 2 ^ 4 = 0 then .ok (.slli (fieldAt n 19 7) (fieldAt n 12 7) (fieldAt n 0 6)) else .error .reservedField
  | 1 => if n / 2 ^ 6 % 2 ^ 4 = 0 then .ok (.srli (fieldAt n 19 7) (fieldAt n 12 7) (fieldAt n 0 6)) else .error .reservedField
  | 2 => if n / 2 ^ 6 % 2 ^ 4 = 0 then .ok (.srai (fieldAt n 19 7) (fieldAt n 12 7) (fieldAt n 0 6)) else .error .reservedField
  | _ => if n / 2 ^ 6 % 2 ^ 4 = 0 then .ok (.roli (fieldAt n 19 7) (fieldAt n 12 7) (fieldAt n 0 6)) else .error .reservedField

/-- Major 0x09 (R60, R61). -/
def major09 (n : Nat) : Except DecodeError Instr :=
  .ok (.lui (fieldAt n 19 7) (fieldAt n 0 19))

/-- Major 0x0A (R60, R61). -/
def major0A (n : Nat) : Except DecodeError Instr :=
  .ok (.addpc (fieldAt n 19 7) (fieldAt n 0 19))

/-- Major 0x0B (R60, R61). -/
def major0B (n : Nat) : Except DecodeError Instr :=
  match n / 2 ^ 9 % 2 ^ 3 with
  | 0 => if n / 2 ^ 0 % 2 ^ 9 = 0 then .ok (.cabs (fieldAt n 19 7) (fieldAt n 12 7)) else .error .reservedField
  | 1 => if n / 2 ^ 0 % 2 ^ 9 = 0 then .ok (.crel (fieldAt n 19 7) (fieldAt n 12 7)) else .error .reservedField
  | 2 => if n / 2 ^ 0 % 2 ^ 9 = 0 then .ok (.cpack (fieldAt n 19 7) (fieldAt n 12 7)) else .error .reservedField
  | 3 => if n / 2 ^ 0 % 2 ^ 9 = 0 then .ok (.cx (fieldAt n 19 7) (fieldAt n 12 7)) else .error .reservedField
  | 4 => if n / 2 ^ 0 % 2 ^ 9 = 0 then .ok (.cy (fieldAt n 19 7) (fieldAt n 12 7)) else .error .reservedField
  | _ => .error .unassignedFunction

/-- Major 0x10 (R60, R61). -/
def major10 (n : Nat) : Except DecodeError Instr :=
  match n / 2 ^ 23 % 2 ^ 3 with
  | 0 => .ok (.bz (fieldAt n 16 7) (fieldAt n 0 16))
  | 1 => .ok (.bnz (fieldAt n 16 7) (fieldAt n 0 16))
  | 2 => .ok (.bltz (fieldAt n 16 7) (fieldAt n 0 16))
  | 3 => .ok (.bgez (fieldAt n 16 7) (fieldAt n 0 16))
  | 4 => .ok (.bgtz (fieldAt n 16 7) (fieldAt n 0 16))
  | 5 => .ok (.blez (fieldAt n 16 7) (fieldAt n 0 16))
  | 6 => .ok (.bfull (fieldAt n 16 7) (fieldAt n 0 16))
  | _ => .ok (.bempty (fieldAt n 16 7) (fieldAt n 0 16))

/-- Major 0x11 (R60, R61). -/
def major11 (n : Nat) : Except DecodeError Instr :=
  .ok (.jmp (fieldAt n 19 7) (fieldAt n 0 19))

/-- Major 0x12 (R60, R61). -/
def major12 (n : Nat) : Except DecodeError Instr :=
  .ok (.jmpr (fieldAt n 19 7) (fieldAt n 12 7) (fieldAt n 0 12))

/-- Major 0x13 (R60, R61). -/
def major13 (n : Nat) : Except DecodeError Instr :=
  if n / 2 ^ 0 % 2 ^ 5 = 0 then .ok (.callat (fieldAt n 19 7) (fieldAt n 12 7) (fieldAt n 5 7)) else .error .reservedField

/-- Major 0x14 (R60, R61). -/
def major14 (n : Nat) : Except DecodeError Instr :=
  if n / 2 ^ 0 % 2 ^ 19 = 0 then .ok (.retat (fieldAt n 19 7)) else .error .reservedField

/-- Major 0x15 (R60, R61). -/
def major15 (n : Nat) : Except DecodeError Instr :=
  if n / 2 ^ 0 % 2 ^ 7 = 0 then .ok (.loop (fieldAt n 19 7) (fieldAt n 7 12)) else .error .reservedField

/-- Major 0x18 (R60, R61). -/
def major18 (n : Nat) : Except DecodeError Instr :=
  .ok (.ld (fieldAt n 19 7) (fieldAt n 12 7) (fieldAt n 10 2) (fieldAt n 0 10))

/-- Major 0x19 (R60, R61). -/
def major19 (n : Nat) : Except DecodeError Instr :=
  .ok (.ldz (fieldAt n 19 7) (fieldAt n 12 7) (fieldAt n 10 2) (fieldAt n 0 10))

/-- Major 0x1A (R60, R61). -/
def major1A (n : Nat) : Except DecodeError Instr :=
  .ok (.st (fieldAt n 19 7) (fieldAt n 12 7) (fieldAt n 10 2) (fieldAt n 0 10))

/-- Major 0x20 (R60, R61). -/
def major20 (n : Nat) : Except DecodeError Instr :=
  match n / 2 ^ 5 % 2 ^ 7 with
  | 0 => .ok (.lds (fieldAt n 19 7) (fieldAt n 12 7) (fieldAt n 3 2) (fieldAt n 0 3))
  | 1 => .ok (.ldf (fieldAt n 19 7) (fieldAt n 12 7) (fieldAt n 3 2) (fieldAt n 0 3))
  | 2 => .ok (.sts (fieldAt n 19 7) (fieldAt n 12 7) (fieldAt n 3 2) (fieldAt n 0 3))
  | 3 => .ok (.stf (fieldAt n 19 7) (fieldAt n 12 7) (fieldAt n 3 2) (fieldAt n 0 3))
  | 4 => if n / 2 ^ 19 % 2 ^ 7 = 0 then .ok (.empty (fieldAt n 12 7) (fieldAt n 3 2) (fieldAt n 0 3)) else .error .reservedField
  | _ => .error .unassignedFunction

/-- Major 0x21 (R60, R61). -/
def major21 (n : Nat) : Except DecodeError Instr :=
  match n / 2 ^ 5 % 2 ^ 7 with
  | 0 => .ok (.atomFadd (fieldAt n 19 7) (fieldAt n 12 7) (fieldAt n 3 2) (fieldAt n 0 3))
  | 1 => .ok (.atomFmin (fieldAt n 19 7) (fieldAt n 12 7) (fieldAt n 3 2) (fieldAt n 0 3))
  | 2 => .ok (.atomFmax (fieldAt n 19 7) (fieldAt n 12 7) (fieldAt n 3 2) (fieldAt n 0 3))
  | 3 => .ok (.atomSwap (fieldAt n 19 7) (fieldAt n 12 7) (fieldAt n 3 2) (fieldAt n 0 3))
  | 4 => .ok (.atomCas (fieldAt n 19 7) (fieldAt n 12 7) (fieldAt n 3 2) (fieldAt n 0 3))
  | 5 => .ok (.atomAnd (fieldAt n 19 7) (fieldAt n 12 7) (fieldAt n 3 2) (fieldAt n 0 3))
  | 6 => .ok (.atomOr (fieldAt n 19 7) (fieldAt n 12 7) (fieldAt n 3 2) (fieldAt n 0 3))
  | 7 => .ok (.atomXor (fieldAt n 19 7) (fieldAt n 12 7) (fieldAt n 3 2) (fieldAt n 0 3))
  | 8 => .ok (.atomFaddf (fieldAt n 19 7) (fieldAt n 12 7) (fieldAt n 3 2) (fieldAt n 0 3))
  | _ => .error .unassignedFunction

/-- Major 0x22 (R60, R61). -/
def major22 (n : Nat) : Except DecodeError Instr :=
  match n / 2 ^ 12 % 2 ^ 7 with
  | 0 => if n / 2 ^ 5 % 2 ^ 7 = 0 then .ok (.fence (fieldAt n 19 7) (fieldAt n 3 2) (fieldAt n 0 3)) else .error .reservedField
  | 1 => if n / 2 ^ 19 % 2 ^ 7 = 0 then .ok (.waitc (fieldAt n 9 3) (fieldAt n 6 3) (fieldAt n 3 3) (fieldAt n 0 3)) else .error .reservedField
  | 2 => if n / 2 ^ 8 % 2 ^ 4 = 0 ∧ n / 2 ^ 19 % 2 ^ 7 = 0 then .ok (.waitk (fieldAt n 0 8)) else .error .reservedField
  | _ => .error .unassignedFunction

/-- Major 0x23 (R60, R61). -/
def major23 (n : Nat) : Except DecodeError Instr :=
  match n / 2 ^ 0 % 2 ^ 5 with
  | 0 => if n / 2 ^ 12 % 2 ^ 7 = 0 then .ok (.mint (fieldAt n 19 7) (fieldAt n 5 7)) else .ok (.mintLd (fieldAt n 19 7) (fieldAt n 12 7) (fieldAt n 5 7))
  | 1 => if n / 2 ^ 19 % 2 ^ 7 = 0 then .ok (.deliv (fieldAt n 12 7) (fieldAt n 5 7)) else .error .reservedField
  | 2 => if n / 2 ^ 5 % 2 ^ 7 = 0 then .ok (.revoke (fieldAt n 19 7) (fieldAt n 12 7)) else .error .reservedField
  | 3 => if n / 2 ^ 5 % 2 ^ 14 = 0 then .ok (.nstat (fieldAt n 19 7)) else .error .reservedField
  | _ => .error .unassignedFunction

/-- Major 0x24 (R60, R61). -/
def major24 (n : Nat) : Except DecodeError Instr :=
  match n / 2 ^ 0 % 2 ^ 5 with
  | 0 => if n / 2 ^ 5 % 2 ^ 7 = 0 then (if n / 2 ^ 21 % 2 ^ 5 = 31 then .ok (.qbind (fieldAt n 19 2) (fieldAt n 12 7)) else .error .badQueueCode) else .error .reservedField
  | 1 => if n / 2 ^ 5 % 2 ^ 14 = 0 then (if n / 2 ^ 21 % 2 ^ 5 = 31 then .ok (.qunbind (fieldAt n 19 2)) else .error .badQueueCode) else .error .reservedField
  | 2 => if n / 2 ^ 5 % 2 ^ 7 = 0 then .ok (.ticket (fieldAt n 19 7) (fieldAt n 12 7)) else .error .reservedField
  | 3 => .ok (.rqfill (fieldAt n 19 7) (fieldAt n 12 7) (fieldAt n 5 7))
  | 4 => if n / 2 ^ 5 % 2 ^ 7 = 0 then .ok (.rqpop (fieldAt n 19 7) (fieldAt n 12 7)) else .error .reservedField
  | 5 => if n / 2 ^ 5 % 2 ^ 7 = 0 then .ok (.rqpeek (fieldAt n 19 7) (fieldAt n 12 7)) else .error .reservedField
  | _ => .error .unassignedFunction

/-- Major 0x25 (R60, R61). -/
def major25 (n : Nat) : Except DecodeError Instr :=
  match n / 2 ^ 0 % 2 ^ 5 with
  | 0 => if n / 2 ^ 19 % 2 ^ 7 = 0 then .ok (.decr (fieldAt n 12 7) (fieldAt n 5 7)) else .error .reservedField
  | 1 => if n / 2 ^ 5 % 2 ^ 21 = 0 then .ok (.nextc) else .error .reservedField
  | 2 => .ok (.cinit (fieldAt n 19 7) (fieldAt n 12 7) (fieldAt n 5 7))
  | _ => .error .unassignedFunction

/-- Major 0x26 (R60, R61). -/
def major26 (n : Nat) : Except DecodeError Instr :=
  match n / 2 ^ 0 % 2 ^ 5 with
  | 0 => .ok (.barm (fieldAt n 19 7) (fieldAt n 12 7) (fieldAt n 5 7))
  | 1 => .ok (.barv (fieldAt n 19 7) (fieldAt n 12 7) (fieldAt n 5 7))
  | 2 => .ok (.bwait (fieldAt n 19 7) (fieldAt n 12 7) (fieldAt n 5 7))
  | 3 => .ok (.barw (fieldAt n 19 7) (fieldAt n 12 7) (fieldAt n 5 7))
  | 4 => .ok (.berr (fieldAt n 19 7) (fieldAt n 12 7) (fieldAt n 5 7))
  | 5 => if n / 2 ^ 5 % 2 ^ 7 = 0 then .ok (.bstat (fieldAt n 19 7) (fieldAt n 12 7)) else .error .reservedField
  | _ => .error .unassignedFunction

/-- Major 0x27 (R60, R61). -/
def major27 (n : Nat) : Except DecodeError Instr :=
  match n / 2 ^ 0 % 2 ^ 5 with
  | 0 => if n / 2 ^ 5 % 2 ^ 7 = 0 then .ok (.launch (fieldAt n 19 7) (fieldAt n 12 7)) else .error .reservedField
  | 1 => if n / 2 ^ 5 % 2 ^ 21 = 0 then .ok (.trigger) else .error .reservedField
  | 2 => if n / 2 ^ 5 % 2 ^ 7 = 0 then .ok (.done (fieldAt n 19 7) (fieldAt n 12 7)) else .error .reservedField
  | 3 => .ok (.gsplit (fieldAt n 19 7) (fieldAt n 12 7) (fieldAt n 5 7))
  | 4 => if n / 2 ^ 5 % 2 ^ 7 = 0 then .ok (.grank (fieldAt n 19 7) (fieldAt n 12 7)) else .error .reservedField
  | _ => .error .unassignedFunction

/-- Major 0x30 (R60, R61). -/
def major30 (n : Nat) : Except DecodeError Instr :=
  match n / 2 ^ 0 % 2 ^ 6 with
  | 0 => .ok (.vadd (fieldAt n 23 3) (fieldAt n 20 3) (fieldAt n 17 3) (fieldAt n 13 4) (fieldAt n 6 7))
  | 1 => .ok (.vsub (fieldAt n 23 3) (fieldAt n 20 3) (fieldAt n 17 3) (fieldAt n 13 4) (fieldAt n 6 7))
  | 2 => .ok (.vmul (fieldAt n 23 3) (fieldAt n 20 3) (fieldAt n 17 3) (fieldAt n 13 4) (fieldAt n 6 7))
  | 3 => .ok (.vfma (fieldAt n 23 3) (fieldAt n 20 3) (fieldAt n 17 3) (fieldAt n 13 4) (fieldAt n 6 7))
  | 4 => .ok (.vfms (fieldAt n 23 3) (fieldAt n 20 3) (fieldAt n 17 3) (fieldAt n 13 4) (fieldAt n 6 7))
  | 5 => .ok (.vdiv (fieldAt n 23 3) (fieldAt n 20 3) (fieldAt n 17 3) (fieldAt n 13 4) (fieldAt n 6 7))
  | 6 => if n / 2 ^ 17 % 2 ^ 3 = 0 then .ok (.vsqrt (fieldAt n 23 3) (fieldAt n 20 3) (fieldAt n 13 4) (fieldAt n 6 7)) else .error .reservedField
  | 7 => if n / 2 ^ 17 % 2 ^ 3 = 0 then .ok (.vrsqrt (fieldAt n 23 3) (fieldAt n 20 3) (fieldAt n 13 4) (fieldAt n 6 7)) else .error .reservedField
  | 8 => .ok (.vmin (fieldAt n 23 3) (fieldAt n 20 3) (fieldAt n 17 3) (fieldAt n 13 4) (fieldAt n 6 7))
  | 9 => .ok (.vmax (fieldAt n 23 3) (fieldAt n 20 3) (fieldAt n 17 3) (fieldAt n 13 4) (fieldAt n 6 7))
  | 10 => if n / 2 ^ 17 % 2 ^ 3 = 0 then .ok (.vabs (fieldAt n 23 3) (fieldAt n 20 3) (fieldAt n 13 4) (fieldAt n 6 7)) else .error .reservedField
  | 11 => if n / 2 ^ 17 % 2 ^ 3 = 0 then .ok (.vneg (fieldAt n 23 3) (fieldAt n 20 3) (fieldAt n 13 4) (fieldAt n 6 7)) else .error .reservedField
  | 12 => if n / 2 ^ 17 % 2 ^ 3 = 0 then .ok (.vexp2 (fieldAt n 23 3) (fieldAt n 20 3) (fieldAt n 13 4) (fieldAt n 6 7)) else .error .reservedField
  | 13 => if n / 2 ^ 17 % 2 ^ 3 = 0 then .ok (.vlog2 (fieldAt n 23 3) (fieldAt n 20 3) (fieldAt n 13 4) (fieldAt n 6 7)) else .error .reservedField
  | 14 => if n / 2 ^ 17 % 2 ^ 3 = 0 then .ok (.vrcp (fieldAt n 23 3) (fieldAt n 20 3) (fieldAt n 13 4) (fieldAt n 6 7)) else .error .reservedField
  | 15 => if n / 2 ^ 17 % 2 ^ 3 = 0 then .ok (.vscale (fieldAt n 23 3) (fieldAt n 20 3) (fieldAt n 13 4) (fieldAt n 6 7)) else .error .reservedField
  | 16 => .ok (.vaxpy (fieldAt n 23 3) (fieldAt n 20 3) (fieldAt n 17 3) (fieldAt n 13 4) (fieldAt n 6 7))
  | _ => .error .unassignedFunction

/-- Major 0x31 (R60, R61). -/
def major31 (n : Nat) : Except DecodeError Instr :=
  match n / 2 ^ 0 % 2 ^ 6 with
  | 0 => .ok (.viadd (fieldAt n 23 3) (fieldAt n 20 3) (fieldAt n 17 3) (fieldAt n 13 4) (fieldAt n 6 7))
  | 1 => .ok (.visub (fieldAt n 23 3) (fieldAt n 20 3) (fieldAt n 17 3) (fieldAt n 13 4) (fieldAt n 6 7))
  | 2 => .ok (.vimul (fieldAt n 23 3) (fieldAt n 20 3) (fieldAt n 17 3) (fieldAt n 13 4) (fieldAt n 6 7))
  | 3 => .ok (.vand (fieldAt n 23 3) (fieldAt n 20 3) (fieldAt n 17 3) (fieldAt n 13 4) (fieldAt n 6 7))
  | 4 => .ok (.vor (fieldAt n 23 3) (fieldAt n 20 3) (fieldAt n 17 3) (fieldAt n 13 4) (fieldAt n 6 7))
  | 5 => .ok (.vxor (fieldAt n 23 3) (fieldAt n 20 3) (fieldAt n 17 3) (fieldAt n 13 4) (fieldAt n 6 7))
  | 6 => .ok (.vshl (fieldAt n 23 3) (fieldAt n 20 3) (fieldAt n 17 3) (fieldAt n 13 4) (fieldAt n 6 7))
  | 7 => .ok (.vshr (fieldAt n 23 3) (fieldAt n 20 3) (fieldAt n 17 3) (fieldAt n 13 4) (fieldAt n 6 7))
  | 8 => .ok (.vshra (fieldAt n 23 3) (fieldAt n 20 3) (fieldAt n 17 3) (fieldAt n 13 4) (fieldAt n 6 7))
  | 9 => .ok (.vimin (fieldAt n 23 3) (fieldAt n 20 3) (fieldAt n 17 3) (fieldAt n 13 4) (fieldAt n 6 7))
  | 10 => .ok (.vimax (fieldAt n 23 3) (fieldAt n 20 3) (fieldAt n 17 3) (fieldAt n 13 4) (fieldAt n 6 7))
  | _ => .error .unassignedFunction

/-- Major 0x32 (R60, R61). -/
def major32 (n : Nat) : Except DecodeError Instr :=
  match n / 2 ^ 0 % 2 ^ 6 with
  | 0 => if n / 2 ^ 17 % 2 ^ 3 = 0 then .ok (.vcvt (fieldAt n 23 3) (fieldAt n 20 3) (fieldAt n 13 4) (fieldAt n 6 7)) else .error .reservedField
  | 1 => .ok (.vlut (fieldAt n 23 3) (fieldAt n 20 3) (fieldAt n 17 3) (fieldAt n 13 4) (fieldAt n 6 7))
  | 2 => if n / 2 ^ 17 % 2 ^ 3 = 0 then .ok (.vfill (fieldAt n 23 3) (fieldAt n 20 3) (fieldAt n 13 4) (fieldAt n 6 7)) else .error .reservedField
  | 3 => if n / 2 ^ 17 % 2 ^ 6 = 0 then .ok (.viota (fieldAt n 23 3) (fieldAt n 13 4) (fieldAt n 6 7)) else .error .reservedField
  | 4 => if n / 2 ^ 17 % 2 ^ 3 = 0 then .ok (.vcopy (fieldAt n 23 3) (fieldAt n 20 3) (fieldAt n 13 4) (fieldAt n 6 7)) else .error .reservedField
  | _ => .error .unassignedFunction

/-- Major 0x33 (R60, R61). -/
def major33 (n : Nat) : Except DecodeError Instr :=
  match n / 2 ^ 0 % 2 ^ 6 with
  | 0 => if n / 2 ^ 17 % 2 ^ 3 = 0 then .ok (.vrsum (fieldAt n 23 3) (fieldAt n 20 3) (fieldAt n 13 4) (fieldAt n 6 7)) else .error .reservedField
  | 1 => if n / 2 ^ 17 % 2 ^ 3 = 0 then .ok (.vrmax (fieldAt n 23 3) (fieldAt n 20 3) (fieldAt n 13 4) (fieldAt n 6 7)) else .error .reservedField
  | 2 => if n / 2 ^ 17 % 2 ^ 3 = 0 then .ok (.vrmin (fieldAt n 23 3) (fieldAt n 20 3) (fieldAt n 13 4) (fieldAt n 6 7)) else .error .reservedField
  | 3 => .ok (.vdot (fieldAt n 23 3) (fieldAt n 20 3) (fieldAt n 17 3) (fieldAt n 13 4) (fieldAt n 6 7))
  | 4 => .ok (.vcmp (fieldAt n 23 3) (fieldAt n 20 3) (fieldAt n 17 3) (fieldAt n 13 4) (fieldAt n 6 7))
  | 5 => .ok (.vsel (fieldAt n 23 3) (fieldAt n 20 3) (fieldAt n 17 3) (fieldAt n 13 4) (fieldAt n 6 7))
  | _ => .error .unassignedFunction

/-- Major 0x34 (R60, R61). -/
def major34 (n : Nat) : Except DecodeError Instr :=
  match n / 2 ^ 14 % 2 ^ 2 with
  | 0 => if n / 2 ^ 0 % 2 ^ 14 = 0 then .ok (.pset (fieldAt n 23 3) (fieldAt n 16 7)) else .error .reservedField
  | 1 => if n / 2 ^ 0 % 2 ^ 14 = 0 then .ok (.pget (fieldAt n 23 3) (fieldAt n 16 7)) else .error .reservedField
  | 2 => if n / 2 ^ 0 % 2 ^ 14 = 0 then .ok (.padv (fieldAt n 23 3) (fieldAt n 16 7)) else .error .reservedField
  | _ => .error .unassignedFunction

/-- Major 0x38 (R60, R61). -/
def major38 (n : Nat) : Except DecodeError Instr :=
  if n / 2 ^ 0 % 2 ^ 12 = 0 then .ok (.tcmd (fieldAt n 23 3) (fieldAt n 16 7) (fieldAt n 15 1) (fieldAt n 12 3)) else .error .reservedField

/-- Major 0x39 (R60, R61). -/
def major39 (n : Nat) : Except DecodeError Instr :=
  match n / 2 ^ 10 % 2 ^ 2 with
  | 0 => if n / 2 ^ 0 % 2 ^ 10 = 0 then .ok (.copy (fieldAt n 23 3) (fieldAt n 16 7) (fieldAt n 15 1) (fieldAt n 12 3)) else .error .reservedField
  | 1 => if n / 2 ^ 0 % 2 ^ 10 = 0 then .ok (.copyr (fieldAt n 23 3) (fieldAt n 16 7) (fieldAt n 15 1) (fieldAt n 12 3)) else .error .reservedField
  | 2 => if n / 2 ^ 0 % 2 ^ 10 = 0 then .ok (.copym (fieldAt n 23 3) (fieldAt n 16 7) (fieldAt n 15 1) (fieldAt n 12 3)) else .error .reservedField
  | _ => .error .unassignedFunction

/-- Major 0x3C (R60, R61). -/
def major3C (n : Nat) : Except DecodeError Instr :=
  match n / 2 ^ 0 % 2 ^ 5 with
  | 0 => if n / 2 ^ 5 % 2 ^ 7 = 0 then .ok (.rdom (fieldAt n 19 7) (fieldAt n 12 7)) else .error .reservedField
  | 1 => .ok (.rins (fieldAt n 19 7) (fieldAt n 12 7) (fieldAt n 5 7))
  | 2 => .ok (.rld (fieldAt n 19 7) (fieldAt n 12 7) (fieldAt n 5 7))
  | 3 => .ok (.rst (fieldAt n 19 7) (fieldAt n 12 7) (fieldAt n 5 7))
  | 4 => .ok (.rpos (fieldAt n 19 7) (fieldAt n 12 7) (fieldAt n 5 7))
  | 5 => if n / 2 ^ 5 % 2 ^ 7 = 0 then .ok (.rdel (fieldAt n 19 7) (fieldAt n 12 7)) else .error .reservedField
  | 6 => if n / 2 ^ 19 % 2 ^ 7 = 0 then .ok (.rqbox (fieldAt n 12 7) (fieldAt n 5 7)) else .error .reservedField
  | 7 => if n / 2 ^ 19 % 2 ^ 7 = 0 then .ok (.rqrad (fieldAt n 12 7) (fieldAt n 5 7)) else .error .reservedField
  | 8 => if n / 2 ^ 19 % 2 ^ 7 = 0 then .ok (.rscan (fieldAt n 12 7) (fieldAt n 5 7)) else .error .reservedField
  | _ => .error .unassignedFunction

/-- Major 0x3D (R60, R61). -/
def major3D (n : Nat) : Except DecodeError Instr :=
  match n / 2 ^ 0 % 2 ^ 5 with
  | 0 => if n / 2 ^ 5 % 2 ^ 7 = 0 then .ok (.sqtab (fieldAt n 19 7) (fieldAt n 12 7)) else .error .reservedField
  | 1 => if n / 2 ^ 5 % 2 ^ 7 = 0 then .ok (.sqcfg (fieldAt n 19 7) (fieldAt n 12 7)) else .error .reservedField
  | 2 => .ok (.sqload (fieldAt n 19 7) (fieldAt n 12 7) (fieldAt n 5 7))
  | 3 => .ok (.sqstage (fieldAt n 19 7) (fieldAt n 12 7) (fieldAt n 5 7))
  | 4 => if n / 2 ^ 5 % 2 ^ 7 = 0 then .ok (.sqend (fieldAt n 19 7) (fieldAt n 12 7)) else .error .reservedField
  | 5 => .ok (.sqdec (fieldAt n 19 7) (fieldAt n 12 7) (fieldAt n 5 7))
  | 6 => if n / 2 ^ 5 % 2 ^ 7 = 0 then .ok (.sqact (fieldAt n 19 7) (fieldAt n 12 7)) else .error .reservedField
  | 7 => if n / 2 ^ 5 % 2 ^ 7 = 0 then .ok (.sqhist (fieldAt n 19 7) (fieldAt n 12 7)) else .error .reservedField
  | _ => .error .unassignedFunction

/-- Major 0x3E (R60, R61). -/
def major3E (n : Nat) : Except DecodeError Instr :=
  match n / 2 ^ 12 % 2 ^ 7 with
  | 0 => .ok (.srd (fieldAt n 19 7) (fieldAt n 0 12))
  | 1 => .ok (.swr (fieldAt n 19 7) (fieldAt n 0 12))
  | 2 => if n / 2 ^ 19 % 2 ^ 7 = 0 then .ok (.trap (fieldAt n 0 12)) else .error .reservedField
  | 3 => if n / 2 ^ 0 % 2 ^ 12 = 0 ∧ n / 2 ^ 19 % 2 ^ 7 = 0 then .ok (.rte) else .error .reservedField
  | 4 => if n / 2 ^ 0 % 2 ^ 12 = 0 ∧ n / 2 ^ 19 % 2 ^ 7 = 0 then .ok (.halt) else .error .reservedField
  | 5 => if n / 2 ^ 0 % 2 ^ 12 = 0 ∧ n / 2 ^ 19 % 2 ^ 7 = 0 then .ok (.yield) else .error .reservedField
  | 6 => if n / 2 ^ 0 % 2 ^ 12 = 0 then .ok (.spawn (fieldAt n 19 7)) else .error .reservedField
  | 7 => if n / 2 ^ 0 % 2 ^ 12 = 0 then .ok (.spill (fieldAt n 19 7)) else .error .reservedField
  | 8 => if n / 2 ^ 0 % 2 ^ 12 = 0 then .ok (.resume (fieldAt n 19 7)) else .error .reservedField
  | 9 => if n / 2 ^ 2 % 2 ^ 10 = 0 then .ok (.pinval (fieldAt n 19 7) (fieldAt n 0 2)) else .error .reservedField
  | 10 => if n / 2 ^ 0 % 2 ^ 12 = 0 then .ok (.pheat (fieldAt n 19 7)) else .error .reservedField
  | 11 => if n / 2 ^ 0 % 2 ^ 12 = 0 then .ok (.pmove (fieldAt n 19 7)) else .error .reservedField
  | 12 => if n / 2 ^ 0 % 2 ^ 12 = 0 then .ok (.pmap (fieldAt n 19 7)) else .error .reservedField
  | 13 => if n / 2 ^ 7 % 2 ^ 5 = 0 then .ok (.cellres (fieldAt n 19 7) (fieldAt n 0 7)) else .error .reservedField
  | 14 => if n / 2 ^ 7 % 2 ^ 5 = 0 then .ok (.cellrel (fieldAt n 19 7) (fieldAt n 0 7)) else .error .reservedField
  | 15 => if n / 2 ^ 0 % 2 ^ 12 = 0 ∧ n / 2 ^ 19 % 2 ^ 7 = 0 then .ok (.home) else .error .reservedField
  | 16 => if n / 2 ^ 4 % 2 ^ 8 = 0 then .ok (.linkw (fieldAt n 19 7) (fieldAt n 0 4)) else .error .reservedField
  | _ => .error .unassignedFunction

/-- The fields of a word (as a number), before the sub-field checks. -/
def fields (n : Nat) : Except DecodeError Instr :=
  match n / 2 ^ 26 with
  | 1 => major01 n
  | 2 => major02 n
  | 3 => major03 n
  | 4 => major04 n
  | 5 => major05 n
  | 6 => major06 n
  | 7 => major07 n
  | 8 => major08 n
  | 9 => major09 n
  | 10 => major0A n
  | 11 => major0B n
  | 16 => major10 n
  | 17 => major11 n
  | 18 => major12 n
  | 19 => major13 n
  | 20 => major14 n
  | 21 => major15 n
  | 24 => major18 n
  | 25 => major19 n
  | 26 => major1A n
  | 32 => major20 n
  | 33 => major21 n
  | 34 => major22 n
  | 35 => major23 n
  | 36 => major24 n
  | 37 => major25 n
  | 38 => major26 n
  | 39 => major27 n
  | 48 => major30 n
  | 49 => major31 n
  | 50 => major32 n
  | 51 => major33 n
  | 52 => major34 n
  | 56 => major38 n
  | 57 => major39 n
  | 60 => major3C n
  | 61 => major3D n
  | 62 => major3E n
  | _ => .error .reservedMajor

/-- The instruction of a word, with every check of step 1 of R71. -/
def word (n : Nat) : Except DecodeError Instr :=
  match fields n with
  | .error e => .error e
  | .ok i => match WellFormed.check i with
    | some r => .error (.illFormed r)
    | none => .ok i

/-- h with the field x at bit p. -/
def place {w : Nat} (h : Nat) (x : BitVec w) (p : Nat) : Nat := h + x.toNat * 2 ^ p

/-- The word of an instruction as a number, from the encoding tables (R53, R61, R64, R66, R67); none for an event,
which has no word. -/
def encodeNat : Instr → Option Nat
  | .add d a b => some (place (place (place 0x04000000 d 19) a 12) b 5)
  | .sub d a b => some (place (place (place 0x04000001 d 19) a 12) b 5)
  | .and d a b => some (place (place (place 0x04000002 d 19) a 12) b 5)
  | .or d a b => some (place (place (place 0x04000003 d 19) a 12) b 5)
  | .xor d a b => some (place (place (place 0x04000004 d 19) a 12) b 5)
  | .andn d a b => some (place (place (place 0x04000005 d 19) a 12) b 5)
  | .sll d a b => some (place (place (place 0x04000006 d 19) a 12) b 5)
  | .srl d a b => some (place (place (place 0x04000007 d 19) a 12) b 5)
  | .sra d a b => some (place (place (place 0x04000008 d 19) a 12) b 5)
  | .rol d a b => some (place (place (place 0x04000009 d 19) a 12) b 5)
  | .slt d a b => some (place (place (place 0x0400000A d 19) a 12) b 5)
  | .sltz d a b => some (place (place (place 0x0400000B d 19) a 12) b 5)
  | .seq d a b => some (place (place (place 0x0400000C d 19) a 12) b 5)
  | .min d a b => some (place (place (place 0x0400000D d 19) a 12) b 5)
  | .max d a b => some (place (place (place 0x0400000E d 19) a 12) b 5)
  | .minz d a b => some (place (place (place 0x0400000F d 19) a 12) b 5)
  | .maxz d a b => some (place (place (place 0x04000010 d 19) a 12) b 5)
  | .mul d a b => some (place (place (place 0x04000011 d 19) a 12) b 5)
  | .mulh d a b => some (place (place (place 0x04000012 d 19) a 12) b 5)
  | .mulhz d a b => some (place (place (place 0x04000013 d 19) a 12) b 5)
  | .div d a b => some (place (place (place 0x04000014 d 19) a 12) b 5)
  | .divz d a b => some (place (place (place 0x04000015 d 19) a 12) b 5)
  | .rem d a b => some (place (place (place 0x04000016 d 19) a 12) b 5)
  | .remz d a b => some (place (place (place 0x04000017 d 19) a 12) b 5)
  | .clz d a => some (place (place 0x04000018 d 19) a 12)
  | .ctz d a => some (place (place 0x04000019 d 19) a 12)
  | .popc d a => some (place (place 0x0400001A d 19) a 12)
  | .brev d a => some (place (place 0x0400001B d 19) a 12)
  | .sext d a b => some (place (place (place 0x0400001C d 19) a 12) b 5)
  | .zext d a b => some (place (place (place 0x0400001D d 19) a 12) b 5)
  | .addi d a imm => some (place (place (place 0x08000000 d 19) a 12) imm 0)
  | .andi d a imm => some (place (place (place 0x0C000000 d 19) a 12) imm 0)
  | .ori d a imm => some (place (place (place 0x10000000 d 19) a 12) imm 0)
  | .xori d a imm => some (place (place (place 0x14000000 d 19) a 12) imm 0)
  | .slti d a imm => some (place (place (place 0x18000000 d 19) a 12) imm 0)
  | .sltzi d a imm => some (place (place (place 0x1C000000 d 19) a 12) imm 0)
  | .slli d a sh => some (place (place (place 0x20000000 d 19) a 12) sh 0)
  | .srli d a sh => some (place (place (place 0x20000400 d 19) a 12) sh 0)
  | .srai d a sh => some (place (place (place 0x20000800 d 19) a 12) sh 0)
  | .roli d a sh => some (place (place (place 0x20000C00 d 19) a 12) sh 0)
  | .lui d imm => some (place (place 0x24000000 d 19) imm 0)
  | .addpc d imm => some (place (place 0x28000000 d 19) imm 0)
  | .cabs d a => some (place (place 0x2C000000 d 19) a 12)
  | .crel d a => some (place (place 0x2C000200 d 19) a 12)
  | .cpack d a => some (place (place 0x2C000400 d 19) a 12)
  | .cx d a => some (place (place 0x2C000600 d 19) a 12)
  | .cy d a => some (place (place 0x2C000800 d 19) a 12)
  | .bz a off => some (place (place 0x40000000 a 16) off 0)
  | .bnz a off => some (place (place 0x40800000 a 16) off 0)
  | .bltz a off => some (place (place 0x41000000 a 16) off 0)
  | .bgez a off => some (place (place 0x41800000 a 16) off 0)
  | .bgtz a off => some (place (place 0x42000000 a 16) off 0)
  | .blez a off => some (place (place 0x42800000 a 16) off 0)
  | .bfull a off => some (place (place 0x43000000 a 16) off 0)
  | .bempty a off => some (place (place 0x43800000 a 16) off 0)
  | .jmp d imm => some (place (place 0x44000000 d 19) imm 0)
  | .jmpr d a imm => some (place (place (place 0x48000000 d 19) a 12) imm 0)
  | .callat t a n => some (place (place (place 0x4C000000 t 19) a 12) n 5)
  | .retat v => some (place 0x50000000 v 19)
  | .loop c len => some (place (place 0x54000000 c 19) len 7)
  | .ld d a size off => some (place (place (place (place 0x60000000 d 19) a 12) size 10) off 0)
  | .ldz d a size off => some (place (place (place (place 0x64000000 d 19) a 12) size 10) off 0)
  | .st d a size off => some (place (place (place (place 0x68000000 d 19) a 12) size 10) off 0)
  | .lds d a ord sc => some (place (place (place (place 0x80000000 d 19) a 12) ord 3) sc 0)
  | .ldf d a ord sc => some (place (place (place (place 0x80000020 d 19) a 12) ord 3) sc 0)
  | .sts d a ord sc => some (place (place (place (place 0x80000040 d 19) a 12) ord 3) sc 0)
  | .stf d a ord sc => some (place (place (place (place 0x80000060 d 19) a 12) ord 3) sc 0)
  | .empty a ord sc => some (place (place (place 0x80000080 a 12) ord 3) sc 0)
  | .atomFadd d a ord sc => some (place (place (place (place 0x84000000 d 19) a 12) ord 3) sc 0)
  | .atomFmin d a ord sc => some (place (place (place (place 0x84000020 d 19) a 12) ord 3) sc 0)
  | .atomFmax d a ord sc => some (place (place (place (place 0x84000040 d 19) a 12) ord 3) sc 0)
  | .atomSwap d a ord sc => some (place (place (place (place 0x84000060 d 19) a 12) ord 3) sc 0)
  | .atomCas d a ord sc => some (place (place (place (place 0x84000080 d 19) a 12) ord 3) sc 0)
  | .atomAnd d a ord sc => some (place (place (place (place 0x840000A0 d 19) a 12) ord 3) sc 0)
  | .atomOr d a ord sc => some (place (place (place (place 0x840000C0 d 19) a 12) ord 3) sc 0)
  | .atomXor d a ord sc => some (place (place (place (place 0x840000E0 d 19) a 12) ord 3) sc 0)
  | .atomFaddf d a ord sc => some (place (place (place (place 0x84000100 d 19) a 12) ord 3) sc 0)
  | .fence d kind sc => some (place (place (place 0x88000000 d 19) kind 3) sc 0)
  | .waitc tl cp st ld => some (place (place (place (place 0x88001000 tl 9) cp 6) st 3) ld 0)
  | .waitk mask => some (place 0x88002000 mask 0)
  | .mint d b => some (place (place 0x8C000000 d 19) b 5)
  | .mintLd d a b => some (place (place (place 0x8C000000 d 19) a 12) b 5)
  | .deliv a b => some (place (place 0x8C000001 a 12) b 5)
  | .revoke d a => some (place (place 0x8C000002 d 19) a 12)
  | .nstat d => some (place 0x8C000003 d 19)
  | .qbind q a => some (place (place 0x93E00000 q 19) a 12)
  | .qunbind q => some (place 0x93E00001 q 19)
  | .ticket d a => some (place (place 0x90000002 d 19) a 12)
  | .rqfill v a t => some (place (place (place 0x90000003 v 19) a 12) t 5)
  | .rqpop d a => some (place (place 0x90000004 d 19) a 12)
  | .rqpeek d a => some (place (place 0x90000005 d 19) a 12)
  | .decr a b => some (place (place 0x94000000 a 12) b 5)
  | .nextc => some (0x94000001)
  | .cinit d a b => some (place (place (place 0x94000002 d 19) a 12) b 5)
  | .barm d a b => some (place (place (place 0x98000000 d 19) a 12) b 5)
  | .barv d a b => some (place (place (place 0x98000001 d 19) a 12) b 5)
  | .bwait d a b => some (place (place (place 0x98000002 d 19) a 12) b 5)
  | .barw d a b => some (place (place (place 0x98000003 d 19) a 12) b 5)
  | .berr d a b => some (place (place (place 0x98000004 d 19) a 12) b 5)
  | .bstat d a => some (place (place 0x98000005 d 19) a 12)
  | .launch d a => some (place (place 0x9C000000 d 19) a 12)
  | .trigger => some (0x9C000001)
  | .done d a => some (place (place 0x9C000002 d 19) a 12)
  | .gsplit d a b => some (place (place (place 0x9C000003 d 19) a 12) b 5)
  | .grank d a => some (place (place 0x9C000004 d 19) a 12)
  | .vadd d a b ty n => some (place (place (place (place (place 0xC0000000 d 23) a 20) b 17) ty 13) n 6)
  | .vsub d a b ty n => some (place (place (place (place (place 0xC0000001 d 23) a 20) b 17) ty 13) n 6)
  | .vmul d a b ty n => some (place (place (place (place (place 0xC0000002 d 23) a 20) b 17) ty 13) n 6)
  | .vfma d a b ty n => some (place (place (place (place (place 0xC0000003 d 23) a 20) b 17) ty 13) n 6)
  | .vfms d a b ty n => some (place (place (place (place (place 0xC0000004 d 23) a 20) b 17) ty 13) n 6)
  | .vdiv d a b ty n => some (place (place (place (place (place 0xC0000005 d 23) a 20) b 17) ty 13) n 6)
  | .vsqrt d a ty n => some (place (place (place (place 0xC0000006 d 23) a 20) ty 13) n 6)
  | .vrsqrt d a ty n => some (place (place (place (place 0xC0000007 d 23) a 20) ty 13) n 6)
  | .vmin d a b ty n => some (place (place (place (place (place 0xC0000008 d 23) a 20) b 17) ty 13) n 6)
  | .vmax d a b ty n => some (place (place (place (place (place 0xC0000009 d 23) a 20) b 17) ty 13) n 6)
  | .vabs d a ty n => some (place (place (place (place 0xC000000A d 23) a 20) ty 13) n 6)
  | .vneg d a ty n => some (place (place (place (place 0xC000000B d 23) a 20) ty 13) n 6)
  | .vexp2 d a ty n => some (place (place (place (place 0xC000000C d 23) a 20) ty 13) n 6)
  | .vlog2 d a ty n => some (place (place (place (place 0xC000000D d 23) a 20) ty 13) n 6)
  | .vrcp d a ty n => some (place (place (place (place 0xC000000E d 23) a 20) ty 13) n 6)
  | .vscale d a ty n => some (place (place (place (place 0xC000000F d 23) a 20) ty 13) n 6)
  | .vaxpy d a b ty n => some (place (place (place (place (place 0xC0000010 d 23) a 20) b 17) ty 13) n 6)
  | .viadd d a b ty n => some (place (place (place (place (place 0xC4000000 d 23) a 20) b 17) ty 13) n 6)
  | .visub d a b ty n => some (place (place (place (place (place 0xC4000001 d 23) a 20) b 17) ty 13) n 6)
  | .vimul d a b ty n => some (place (place (place (place (place 0xC4000002 d 23) a 20) b 17) ty 13) n 6)
  | .vand d a b ty n => some (place (place (place (place (place 0xC4000003 d 23) a 20) b 17) ty 13) n 6)
  | .vor d a b ty n => some (place (place (place (place (place 0xC4000004 d 23) a 20) b 17) ty 13) n 6)
  | .vxor d a b ty n => some (place (place (place (place (place 0xC4000005 d 23) a 20) b 17) ty 13) n 6)
  | .vshl d a b ty n => some (place (place (place (place (place 0xC4000006 d 23) a 20) b 17) ty 13) n 6)
  | .vshr d a b ty n => some (place (place (place (place (place 0xC4000007 d 23) a 20) b 17) ty 13) n 6)
  | .vshra d a b ty n => some (place (place (place (place (place 0xC4000008 d 23) a 20) b 17) ty 13) n 6)
  | .vimin d a b ty n => some (place (place (place (place (place 0xC4000009 d 23) a 20) b 17) ty 13) n 6)
  | .vimax d a b ty n => some (place (place (place (place (place 0xC400000A d 23) a 20) b 17) ty 13) n 6)
  | .vcvt d a ty n => some (place (place (place (place 0xC8000000 d 23) a 20) ty 13) n 6)
  | .vlut d a b ty n => some (place (place (place (place (place 0xC8000001 d 23) a 20) b 17) ty 13) n 6)
  | .vfill d a ty n => some (place (place (place (place 0xC8000002 d 23) a 20) ty 13) n 6)
  | .viota d ty n => some (place (place (place 0xC8000003 d 23) ty 13) n 6)
  | .vcopy d a ty n => some (place (place (place (place 0xC8000004 d 23) a 20) ty 13) n 6)
  | .vrsum d a ty n => some (place (place (place (place 0xCC000000 d 23) a 20) ty 13) n 6)
  | .vrmax d a ty n => some (place (place (place (place 0xCC000001 d 23) a 20) ty 13) n 6)
  | .vrmin d a ty n => some (place (place (place (place 0xCC000002 d 23) a 20) ty 13) n 6)
  | .vdot d a b ty n => some (place (place (place (place (place 0xCC000003 d 23) a 20) b 17) ty 13) n 6)
  | .vcmp d a b ty n => some (place (place (place (place (place 0xCC000004 d 23) a 20) b 17) ty 13) n 6)
  | .vsel d a b ty n => some (place (place (place (place (place 0xCC000005 d 23) a 20) b 17) ty 13) n 6)
  | .pset p g => some (place (place 0xD0000000 p 23) g 16)
  | .pget p g => some (place (place 0xD0004000 p 23) g 16)
  | .padv p g => some (place (place 0xD0008000 p 23) g 16)
  | .tcmd k a w b => some (place (place (place (place 0xE0000000 k 23) a 16) w 15) b 12)
  | .copy k a w b => some (place (place (place (place 0xE4000000 k 23) a 16) w 15) b 12)
  | .copyr k a w b => some (place (place (place (place 0xE4000400 k 23) a 16) w 15) b 12)
  | .copym k a w b => some (place (place (place (place 0xE4000800 k 23) a 16) w 15) b 12)
  | .rdom d a => some (place (place 0xF0000000 d 19) a 12)
  | .rins d a b => some (place (place (place 0xF0000001 d 19) a 12) b 5)
  | .rld d a b => some (place (place (place 0xF0000002 d 19) a 12) b 5)
  | .rst d a b => some (place (place (place 0xF0000003 d 19) a 12) b 5)
  | .rpos d a b => some (place (place (place 0xF0000004 d 19) a 12) b 5)
  | .rdel d a => some (place (place 0xF0000005 d 19) a 12)
  | .rqbox a b => some (place (place 0xF0000006 a 12) b 5)
  | .rqrad a b => some (place (place 0xF0000007 a 12) b 5)
  | .rscan a b => some (place (place 0xF0000008 a 12) b 5)
  | .sqtab d a => some (place (place 0xF4000000 d 19) a 12)
  | .sqcfg d a => some (place (place 0xF4000001 d 19) a 12)
  | .sqload d a b => some (place (place (place 0xF4000002 d 19) a 12) b 5)
  | .sqstage d a b => some (place (place (place 0xF4000003 d 19) a 12) b 5)
  | .sqend d a => some (place (place 0xF4000004 d 19) a 12)
  | .sqdec d a b => some (place (place (place 0xF4000005 d 19) a 12) b 5)
  | .sqact d a => some (place (place 0xF4000006 d 19) a 12)
  | .sqhist d a => some (place (place 0xF4000007 d 19) a 12)
  | .srd d num => some (place (place 0xF8000000 d 19) num 0)
  | .swr d num => some (place (place 0xF8001000 d 19) num 0)
  | .trap code => some (place 0xF8002000 code 0)
  | .rte => some (0xF8003000)
  | .halt => some (0xF8004000)
  | .yield => some (0xF8005000)
  | .spawn d => some (place 0xF8006000 d 19)
  | .spill d => some (place 0xF8007000 d 19)
  | .resume d => some (place 0xF8008000 d 19)
  | .pinval d size => some (place (place 0xF8009000 d 19) size 0)
  | .pheat d => some (place 0xF800A000 d 19)
  | .pmove d => some (place 0xF800B000 d 19)
  | .pmap d => some (place 0xF800C000 d 19)
  | .cellres d n => some (place (place 0xF800D000 d 19) n 0)
  | .cellrel d n => some (place (place 0xF800E000 d 19) n 0)
  | .home => some (0xF800F000)
  | .linkw d w => some (place (place 0xF8010000 d 19) w 0)
  | _ => none

end Decode

/-- The instruction in four bytes, little-endian (R52), and the bytes after it. -/
def decode : List Byte → Except DecodeError (Instr × List Byte)
  | b0 :: b1 :: b2 :: b3 :: rest =>
    match Decode.word (b0.toNat + 2 ^ 8 * b1.toNat + 2 ^ 16 * b2.toNat + 2 ^ 24 * b3.toNat) with
    | .ok i => .ok (i, rest)
    | .error e => .error e
  | _ => .error .truncated

/-- The four bytes of a word, lowest address first (R3). -/
def wordBytes (n : Nat) : List Byte :=
  [BitVec.ofNat 8 n, BitVec.ofNat 8 (n / 2 ^ 8), BitVec.ofNat 8 (n / 2 ^ 16), BitVec.ofNat 8 (n / 2 ^ 24)]

/-- The word of a well-formed instruction; none for an event. -/
def encode (i : Instr) : Option (BitVec 32) := (Decode.encodeNat i).map (BitVec.ofNat 32)

/-- The instruction word as TRAPINFO holds it (R162); zero for an event, which has none. -/
def Instr.word (i : Instr) : Word := BitVec.ofNat 64 ((Decode.encodeNat i).getD 0)

/-- The instruction the decoder reads from a word numbered as the opcode table numbers its bits. Every instruction is
one word of 32 bits, so nbits above 32 names none. -/
def decodeTableWord (nbits w : Nat) : Option Instr :=
  if nbits ≤ 32 then
    match decode (wordBytes (w % 2 ^ nbits)) with
    | .ok (i, _) => some i
    | .error _ => none
  else none

end Sys2Proof
end

