-- ==== Sys2Proof/Machine/Store.lean ====
section
/-! DEFINITION. Sparse data by number: a list of (number, value) pairs in one canonical form: numbers strictly
rising, and no entry equal to the default that an unlisted number reads as. -/
namespace Sys2Proof.Machine

/-- A sparse array; what an unlisted number reads as is given at each use. -/
abbrev Store (α : Type) := List (Nat × α)

/-- The value at i; d where nothing is listed. -/
def Store.get {α : Type} (d : α) : Store α → Nat → α
  | [], _ => d
  | (k, v) :: r, i => if k = i then v else Store.get d r i

/-- The list without entries of number i. -/
def Store.erase {α : Type} (i : Nat) : Store α → Store α
  | [] => []
  | (k, v) :: r => if k = i then Store.erase i r else (k, v) :: Store.erase i r

/-- The list with (i, v) before the first greater number. -/
def Store.insert {α : Type} (i : Nat) (v : α) : Store α → Store α
  | [] => [(i, v)]
  | (k, w) :: r => if i < k then (i, v) :: (k, w) :: r else (k, w) :: Store.insert i v r

/-- The list with i reading as v: storing the default removes the entry. -/
def Store.set {α : Type} [DecidableEq α] (d : α) (s : Store α) (i : Nat) (v : α) : Store α :=
  if v = d then Store.erase i s else Store.insert i v (Store.erase i s)

/-- The canonical form: numbers strictly rising, all at least lo, and no entry at the default. -/
def Store.wfFrom {α : Type} [DecidableEq α] (d : α) : Nat → Store α → Bool
  | _, [] => true
  | lo, (k, v) :: r => decide (lo ≤ k) && decide (v ≠ d) && Store.wfFrom d (k + 1) r

/-- The canonical form of a whole store. -/
def Store.wf {α : Type} [DecidableEq α] (d : α) (s : Store α) : Bool := Store.wfFrom d 0 s

/-- The listed numbers. -/
def Store.keys {α : Type} (s : Store α) : List Nat := s.map (·.1)

/-- Memory: bytes by physical key (a scratchpad byte's key is core * 2^21 + offset, a bulk byte's is 2^40 + physical
address). An unlisted byte reads 0 (log entry 4, DESIGN CHOICE). -/
abbrev Memory := List Host.Cell

/-- What an unlisted byte reads as: log entry 4, DESIGN CHOICE (data undefined at reset, R16). -/
def Memory.unlisted : Byte := 0

/-- One byte. -/
def Memory.byte (m : Memory) (a : Nat) : Byte := Store.get Memory.unlisted m a

/-- m with byte a set. -/
def Memory.put (m : Memory) (a : Nat) (v : Byte) : Memory := Store.set Memory.unlisted m a v

/-- The canonical form of memory. -/
def Memory.wf (m : Memory) : Bool := Store.wf Memory.unlisted m

/-- n bytes from a, little-endian (R3). -/
def Memory.readN (m : Memory) (a : Nat) : Nat → Nat
  | 0 => 0
  | n + 1 => (m.byte a).toNat + 256 * Memory.readN m (a + 1) n

/-- m with n bytes from a set to v, little-endian (R3). -/
def Memory.writeN (m : Memory) (a : Nat) : Nat → Nat → Memory
  | 0, _ => m
  | n + 1, v => Memory.writeN (m.put a (BitVec.ofNat 8 v)) (a + 1) n (v / 256)

end Sys2Proof.Machine
end

