-- ==== Sys2Proof/Machine/Parts.lean ====
section
/-! DEFINITION. The records State is made of: slots, cores and the objects of each chapter, with their reset values. -/
namespace Sys2Proof.Machine

/-- The states of a slot (R154); reserved is a FREE slot that a placement has reserved (R220). -/
inductive Phase where
  | free | reserved | ready | parked | pageWait | saving | draining
  deriving DecidableEq, Repr

/-- What a parked slot awaits. -/
inductive Park where
  | none
  /-- A full bit of the register of this code (R73). -/
  | register (v : Nat)
  /-- Entries in the inbound queue of qn (R197). -/
  | queue (n : Nat)
  /-- A change of the full bit of the scratchpad word with this key (R296, R194). -/
  | word (key : Nat)
  /-- Counters (R304). -/
  | counters
  /-- Tokens (R305). -/
  | tokens
  /-- The completion of a .w command (R67, R128). -/
  | command (tok : Nat)
  /-- A request in the mailbox (R145). -/
  | mailbox
  /-- A push to the ready ring (R192). -/
  | ring
  /-- The answer to the request or operation of this number. -/
  | remote (op : Nat)
  /-- The answers to a release's echoes (R315). -/
  | echoes
  /-- No register awaiting a reply (R316). -/
  | replies
  deriving DecidableEq, Repr

/-- One level of the loop stack (R167). -/
structure Loop where
  start : Nat
  stop : Nat
  count : Nat
  deriving DecidableEq, Repr

/-- What a thread out of the rotation waits for at another agent (R297 to R299, R239, R240): the operation's number, the
agent, what TRAPINFO reports, the cycle of issue, the captured limit in cycles (0 none), whether a cancel has gone out, and
the source codes to pop when the instruction completes (R73), the register of a barrier wait's result, and the slot that sent
the request, whose stream a cancel follows (R265, R299). -/
structure Wait where
  op : Nat
  dst : Node
  info : Word
  start : Nat
  limit : Nat
  cancelled : Bool := false
  barrier : Bool := false
  pops : List Nat := []
  reg : Nat := 0
  slot : Nat := 0
  deriving DecidableEq, Repr

/-- A thread slot (R153, R154, R161, R303). -/
structure Slot where
  phase : Phase := .free
  park : Park := .none
  /-- The thread's number, the model's own (log entry 12, DESIGN CHOICE). -/
  uid : Nat := 0
  mode : Nat := 0
  mig : Bool := false
  guest : Bool := false
  task : Bool := false
  codelet : Bool := false
  intrap : Bool := false
  /-- Byte offset of the next instruction (R85). -/
  pc : Nat := 0
  base : Nat := 0
  limit : Nat := 0
  ctx : Nat := 0
  group : Word := 0
  kernel : Word := 0
  flags : Word := 0
  fmt : Word := 0x122
  scla : Word := 0
  sclb : Word := 0
  wlim : Word := 0
  ld : Nat := 0
  st : Nat := 0
  cp : Nat := 0
  tl : Nat := 0
  tok : BitVec 8 := 0
  touch : Word := 0
  err : Word := 0
  trapPc : Word := 0
  trapCause : Nat := 0
  trapInfo : Word := 0
  trapVec : Word := 0
  /-- p0 to p7 (R107). -/
  ptrs : Store Word := []
  /-- Registers awaiting a reply (R99). -/
  awaiting : BitVec 128 := 0
  /-- Pending boundary traps, oldest first: cause and information (R404). -/
  pend : List (Nat × Word) := []
  /-- Fault sequence (R251). -/
  seq : Nat := 0
  /-- The virtual address of the page wait (R251), and what TRAPINFO reports if it is unresolvable (R101, R320). -/
  waitVa : Word := 0
  waitInfo : Word := 0
  waitWrite : Bool := false
  loops : List Loop := []
  /-- Bindings of q0 to q3, 16 bits each: inbound queue in bits 2:0, outbound in bits 10:8, bound in bit 15 (R196), and in bit 14,
of which the manual says nothing, a binding that a RESUME on another core has undone (R198; log entry 31, DEDUCED). -/
  binds : Word := 0
  /-- Reply name of a task (R183). -/
  rep : Word := 0
  /-- Cycle of the previous issue (R158); none before the first. -/
  lastIssue : Option Nat := none
  /-- A YIELD in force: the cycle it ends at, and the slots that have not issued since (R160). -/
  yield : Option (Nat × List Nat) := none
  /-- The release of the instruction at the pc has been carried out (R315). -/
  released : Bool := false
  /-- Echoes not yet answered, and the TOUCH bits to clear when all are (R315). -/
  echoes : Nat := 0
  probed : Word := 0
  /-- The wait of a remote operation (R297, R298). -/
  wait : Option Wait := none
  /-- A BWAIT that stands in for a BARW answered RETRY: its token (R272). -/
  barwToken : Option Word := none
  /-- Status of the ended thread (R225). -/
  status : Nat := 0
  /-- A call-at task has issued RETAT (R186). -/
  returned : Bool := false
  /-- A guest's origin: core and package (R283). -/
  originCore : Nat := 0
  originPkg : Nat := 0
  carried : List Carried := []
  /-- A migrating thread's new place: package, core, slot, and whether it is the origin (R282, R285); and that it has left. -/
  leaving : Option (Nat × Nat × Nat × Bool) := none
  departed : Bool := false
  /-- Retarget or destroy notices not yet answered (R181). -/
  notices : Nat := 0
  /-- The thread was added to its kernel by JOIN (R224), and its TRIGGER was counted (R228). -/
  extra : Bool := false
  triggered : Bool := false
  /-- The package of its kernel, if another one (log entry 21, DEDUCED). -/
  kpkg : Option Nat := none
  /-- The thread has been counted as discarded (R225). -/
  discarded : Bool := false
  /-- The core whose count of its kernel holds it, if RESUME put it on another one (R166, R224). -/
  countAt : Option Nat := none
  deriving DecidableEq, Repr

/-- An evicted thread (R163): its image's physical key, and what the image does not hold. -/
structure Evicted where
  core : Nat
  slot : Nat
  key : Nat
  rest : Slot
  deriving DecidableEq, Repr

/-- A SPILL or RESUME whose issuer waits (R163, R166): its number, issuer and register, the core and slot, the image's key, SAVEBASE
as captured, and SCR. -/
structure SpillOp where
  id : Nat
  uid : Nat
  reg : Nat
  core : Nat
  slot : Nat
  key : Nat
  saveBase : Word
  scr : Bool
  resume : Bool
  deriving DecidableEq, Repr

/-- States of a landing-name entry (R169). -/
inductive NameState where
  | free
  /-- Bound to register v of a slot. -/
  | live (slot v : Nat)
  /-- Bound to register v of the image at this key. -/
  | image (key v : Nat)
  /-- Its thread is at a place (package, core, slot); register v. -/
  | forward (pkg core slot v : Nat)
  deriving DecidableEq, Repr

/-- A landing-name entry (R169). -/
structure NameEntry where
  state : NameState := .free
  salt : Nat := 0
  ctx : Nat := 0
  deriving DecidableEq, Repr

/-- A pipeline queue (R195): entries, the places that replies under way will take, and the thread of each binding. -/
structure PipeQueue where
  entries : List Word := []
  reserved : Nat := 0
  producer : Option Nat := none
  consumer : Option Nat := none
  ctx : Nat := 0
  deriving DecidableEq, Repr

/-- A cached translation (R248): physical address of the page, W and S, and its size level. -/
structure Translation where
  ctx : Nat
  va : Nat
  level : Nat
  pa : Nat
  w : Bool
  s : Bool
  deriving DecidableEq, Repr

/-- A barrier object (R233), with the context that armed it. -/
structure Barrier where
  arrived : Nat := 0
  expect : Nat := 0
  /-- 0 IDLE, 1 ARMED, 2 OPEN. -/
  state : Nat := 0
  par : Bool := false
  err : Bool := false
  code : Nat := 0
  tag : Nat := 0
  deriving DecidableEq, Repr

/-- A waiting BWAIT or BARW (R235, R272): the object, the token's parity, and the request to answer. -/
structure BarWait where
  key : Nat
  token : Bool
  req : Msg
  deriving DecidableEq, Repr

/-- A kernel-table entry (R217, R218) and what its root holds. -/
structure KernelRec where
  /-- 0 FREE, 1 QUEUED, 2 PLACING, 3 RUNNING, 4 TRIGGERED, 5 RETIRED. -/
  state : Nat := 0
  gen : Nat := 0
  packet : List Word := []
  /-- 0 device, 1 host, 2 rack scheduler, 3 board controller (R223); and the port of arrival. -/
  src : Nat := 0
  port : Nat := 0
  granted : List Nat := []
  refused : List Nat := []
  /-- Bytes of the image that every granted core has, and the packet of the copy under way (R221, R266). -/
  copied : Nat := 0
  imageMsg : Option Nat := none
  reason : Nat := 0
  reported : List Nat := []
  triggers : List Nat := []
  /-- JOINs without their LEAVE (R226). -/
  joins : Nat := 0
  status : Word := 0
  deriving DecidableEq, Repr

/-- What a tree core counts for a kernel (R224, R228). -/
structure KernelCore where
  alive : Nat := 0
  untriggered : Nat := 0
  status : Word := 0
  deriving DecidableEq, Repr

/-- A Klobry link (R280, R281): the code last recorded, up, training, the LINKW requests that wait for the boundary: their
threads, registers and codes; and the flow its shared slots served last (R275). -/
structure LinkRec where
  width : Nat := 0
  up : Bool := false
  training : Bool := false
  pending : List (Nat × Nat × Nat) := []
  turn : Nat := 0
  deriving DecidableEq, Repr

/-- A flow's reservations (R279): when each was made and its slots, oldest first; and ORD. -/
structure FlowRec where
  made : List (Nat × Nat) := []
  ord : Bool := false
  deriving DecidableEq, Repr

/-- The slots a flow holds (R279). -/
def FlowRec.held (f : FlowRec) : Nat := (f.made.map (·.2)).foldl (· + ·) 0

/-- n of a flow's slots go, the latest reservation first. -/
def dropSlots : Nat → List (Nat × Nat) → List (Nat × Nat)
  | _, [] => []
  | n, e :: r => if e.2 ≤ n then dropSlots (n - e.2) r else (e.1, e.2 - n) :: r

/-- n of a flow's slots are released (R279); the latest reservations go first (log entry 40, DESIGN CHOICE). -/
def FlowRec.release (f : FlowRec) (n : Nat) : FlowRec :=
  let m := (dropSlots n f.made.reverse).reverse
  { made := m, ord := f.ord && !m.isEmpty }

/-- What a gateway knows of an inbound flow: the next FSEQ, and those passed on beyond it (R278). -/
structure FlowIn where
  next : Nat := 0
  passed : List Nat := []
  deriving DecidableEq, Repr

/-- A packet being reassembled or held for its order (R274, R278): one of its cells, and the indexes received. -/
structure Partial where
  cell : Cell
  got : List Nat
  deriving DecidableEq, Repr

/-- The page operations (R257). -/
inductive PageKind where
  | inval | map | move | heat
  deriving DecidableEq, Repr

/-- A page operation whose thread waits (R257 to R261): its number and thread, the core, what it is, its register, its operand
pair, the acknowledgements still to come, and for PMOVE the leaf's key. -/
structure PageOp where
  id : Nat
  uid : Nat
  core : Nat
  kind : PageKind
  reg : Nat
  operand : Word
  arg : Word
  pending : Nat := 0
  leafKey : Nat := 0
  deriving DecidableEq, Repr

/-- A record that has left for another owner (R339): its domain and pool index, the old position, and the RPOS. -/
structure Departure where
  ctx : Nat
  dom : Nat
  idx : Nat
  old : List Nat
  op : Msg
  deriving DecidableEq, Repr

/-- An RDOM whose thread waits (R334): its number, thread, register, code and the answers still to come. -/
structure RdomOp where
  id : Nat
  uid : Nat
  reg : Nat
  code : Nat
  pending : Nat
  deriving DecidableEq, Repr

/-- The vector instructions (R120 to R123). -/
inductive VecOp where
  | add | sub | mul | fma | fms | div | sqrt | rsqrt | min | max | abs | neg | exp2 | log2 | rcp | scale | axpy
  | iadd | isub | imul | and | or | xor | shl | shr | shra | imin | imax
  | cvt | lut | fill | iota | copy | rsum | rmax | rmin | dot | cmp | sel
  deriving DecidableEq, Repr

/-- A vector instruction in the queue (R113): its thread, format, count and modifier, the pointers of A, B, D and the mask,
the rounding mode and the copy of INT4TAB. -/
structure VecCmd where
  uid : Nat
  op : VecOp
  ty : Nat
  count : Nat
  modifier : Nat
  pa : Word
  pb : Word
  pd : Word
  pk : Word
  rm : Nat
  int4lo : Word
  int4hi : Word
  deriving DecidableEq, Repr

/-- The sequencer's commands (R354). -/
inductive SeqOp where
  | tab | cfg | load | stage | finish | dec | act | hist
  deriving DecidableEq, Repr

/-- A sequencer command in the queue (R352): its thread, context and mode, its operands (for f 0 to 2 the offset in a), the
register and the rounding mode. -/
structure SeqCmd where
  uid : Nat
  op : SeqOp
  ctx : Nat
  mode : Nat
  a : Word
  b : Word
  reg : Nat
  rm : Nat
  deriving DecidableEq, Repr

/-- An entry of the vector queue (R113, R352). -/
inductive EngineCmd where
  | vector (v : VecCmd)
  | sequencer (q : SeqCmd)
  deriving DecidableEq, Repr

/-- A command that has executed and awaits its finishing release: its flags, result, and failure code (R114, R352), and the bytes of stage
blocks, x and TIMES, by offset and length, that a sequencer command uses (R362). -/
structure EngineDone where
  cmd : EngineCmd
  flags : Nat := 0
  result : Word := 0
  code : Option Nat := none
  uses : List (Nat × Nat) := []
  deriving DecidableEq, Repr

/-- A sample entry (R350). -/
structure Sample where
  t : Word := 0
  h : Word := 0
  tend : Word := 0
  eprev : Word := 0
  xoff : Nat := 0
  sboff : Nat := 0
  nacc : Nat := 0
  nrej : Nat := 0
  /-- 0 FREE, 1 ACTIVE, 2 ACCEPTED, 3 REJECTED, 4 DONE, 5 STALLED. -/
  st : Nat := 0
  ev : Bool := false
  errn : Word := 0
  deriving DecidableEq, Repr

/-- The solver sequencer (R347): the tableau's and the controller block's words, empty where there is none, the ring with its
newest offset first, the sample entries, and the context tag. -/
structure Sequencer where
  tab : List Word := []
  cfg : List Word := []
  ring : List Nat := []
  samples : Store Sample := []
  tag : Option Nat := none
  deriving DecidableEq, Repr

/-- The tile commands (R69). -/
inductive TileOp where
  | mzero | mma | mmas | mmad | mstore | mloadc | bload | brot | tcopy | tgather | tscatter
  deriving DecidableEq, Repr

/-- A tile command as issued (R68, R126): its thread with its context and mode, its token and barrier, the word's fields, what is
captured with it, and whether a store has met its scales since (R132). -/
structure TileCmd where
  uid : Nat
  ctx : Nat
  mode : Nat
  k : Nat
  level : Nat
  op : TileOp
  nkb : Nat
  bidx : Nat
  lat : Nat
  fmto : Nat
  rlen : Nat
  rpos : Nat
  addr0 : Word
  stride : Nat
  addr1 : Word
  fmt : Word
  scla : Word
  sclb : Word
  wlim : Word
  rm : Nat
  int4lo : Word
  int4hi : Word
  raced : Bool := false
  deriving DecidableEq, Repr

/-- A contiguous part of a move: source, destination, bytes. -/
structure Piece where
  src : Word
  dst : Word
  n : Nat
  deriving DecidableEq, Repr

/-- A part of a tensor, gather or scatter move: its source, none for a row of zeros, its destination, its bytes. -/
structure TileMove where
  src : Option Word
  dst : Word
  n : Nat
  deriving DecidableEq, Repr

/-- A command that runs on a path (R125): its start, its K-blocks done, its flags, for a BROT its k, for a move the operand it
waits for, the parts at hand and where the sources lie, for a gather or scatter the descriptor's words as read at the start and the rows
to come after those parts; whether it has begun; and, once it is over, its failure code or none. -/
structure TileRun where
  cmd : TileCmd
  start : Nat
  begun : Bool := false
  blocks : Nat := 0
  flags : Nat := 0
  ring : Nat := 0
  moves : List TileMove := []
  places : List (Nat × Nat) := []
  desc : List Word := []
  rows : List Nat := []
  ended : Option (Option Nat) := none
  deriving DecidableEq, Repr

/-- States of an operand-latch half (R127). -/
inductive HalfState where
  | empty | filling | full
  deriving DecidableEq, Repr

/-- The matrix engine (R124): the accumulator by 32-bit words, the latch's bytes (half 1 from 8192 on) and the halves' states,
RS, the queue and the two paths, and the MMAS commands that have finished and whose threads have not seen it (R132). -/
structure Matrix where
  acc : Store (BitVec 32) := []
  latch : Store Byte := []
  half0 : HalfState := .empty
  half1 : HalfState := .empty
  rs : Nat := 0
  queue : List TileCmd := []
  compute : Option TileRun := none
  move : Option TileRun := none
  unseen : List TileCmd := []
  deriving DecidableEq, Repr

/-- A record of the start log (R395): its number, the fatal cause that ended that start, and word 1. -/
structure StartRecord where
  num : Nat := 0
  fatal : Nat := 0
  results : Word := 0
  deriving DecidableEq, Repr

/-- A die's health record (R400). -/
structure Health where
  rod : Nat := 0
  sramm : Nat := 0
  eye : Nat := 0
  refr : Nat := 0
  life : Nat := 0xFFFF
  temp : Nat := 0
  warn : Bool := false
  deriving DecidableEq, Repr

/-- The device control block (R388) and what goes with it: OWNER, START, FATAL, LQANS, PKGNUM and LQBUF by their fields, DBGSTOP by
core, the start log by entry, the health records by die; whether step 11 recorded a baseline, and whether step 10 failed, so that
the rack owner's ports are down (R397). -/
structure Device where
  own : Nat := 0
  epoch : Nat := 0
  deny : Nat := 0
  startNum : Nat := 0
  startState : Nat := 0
  startStep : Nat := 0
  fatalCause : Nat := 0
  fatalCount : Nat := 0
  lqAns : Word := 0
  pkgReg : Nat := 0
  pkgValid : Bool := false
  lqBuf : List Word := [0, 0, 0, 0, 0, 0, 0, 0]
  stopped : Store Bool := []
  log : Store StartRecord := []
  health : Store Health := []
  baseline : Bool := false
  portsDown : Bool := false
  deriving DecidableEq, Repr

end Sys2Proof.Machine
end

