-- ==== Sys2Proof/Machine/State.lean ====
section
/-! DEFINITION. The machine's state as plain data, its faults and refusals, and the state after reset. -/
namespace Sys2Proof.Machine

/-- Why the machine stops. -/
inductive Fault where
  /-- Raised by step alone: the agenda names a core outside the grid. It stands for no behaviour of the part, so
  stopping is safe (log entry 1, DESIGN CHOICE). -/
  | noSuchCore
  deriving DecidableEq, Repr

/-- Why an instruction has no meaning. -/
inductive Refusal where
  /-- Raised by exec for an instruction that is not modelled yet. Safe: nothing is claimed of it. -/
  | notModelled (mnemonic : String)
  deriving DecidableEq, Repr

/-- What comes next (log entry 1, DESIGN CHOICE): an event of the part, or one cycle of a core. -/
inductive Turn where
  | event (i : Instr)
  | cycle (core : Nat)
  deriving DecidableEq, Repr

/-- A copy request in the mailbox (R143, R144): m0 to m3, and the tag of the thread that issued it. -/
structure CopyReq where
  m0 : Word
  m1 : Word
  m2 : Word
  m3 : Word
  /-- 0 COPY, 1 COPYR, 2 COPYM. -/
  op : Nat
  uid : Nat
  k : Nat
  bsel : Nat
  bidx : Nat
  ctx : Nat
  mode : Nat
  deriving DecidableEq, Repr

/-- The access that the default microcode waits for: its message, what its answer adds to the progress, the operand it is for (R138), and
whether it writes, so that it counts in ST and not in LD of slot 63 (R98, R306). -/
structure MoverWait where
  id : Nat
  gain : Nat
  operand : Nat
  write : Bool
  deriving DecidableEq, Repr

/-- A core's own state, beside its slots, registers, scratchpad and names. -/
structure CoreRec where
  /-- CYCLE.COUNT (R25), unbounded; the register shows it modulo 2^64. -/
  cycle : Nat := 0
  gated : Bool := false
  /-- The barrel's class pointers and the cycle of the last normal issue (R158). -/
  ptrUpper : Nat := 0
  ptrNormal : Nat := 0
  lastNormal : Option Nat := none
  int4lo : Word := 0x0706050403020100
  int4hi : Word := 0xFFFEFDFCFBFAF9F8
  saveBase : Word := 0
  taskCfg : Word := 0
  taskWin : Nat := 0
  tasks : List TaskPkt := []
  ready : List Nat := []
  res : Nat := 0
  qdropDecr : Nat := 0
  qdropFill : Nat := 0
  pipes : Store PipeQueue := []
  namePtr : Nat := 511
  nameRef : Nat := 0
  /-- Names whose forwarded value has not been acknowledged (R181). -/
  forwards : List Word := []
  tlb : List Translation := []
  /-- The mailbox and the copy in service (R144, R145). -/
  mailbox : Option CopyReq := none
  /-- The status slot 63 has written to m0, until the request is finished (R145). -/
  finishing : Option Word := none
  /-- The default microcode's progress (R146 to R148): the parts of the copy once its checks are made (R135: its descriptor is read at
  its start), whether a COPYR has its progress word, the pieces or bytes done and the progress a COPYR began at, the bytes that a COPYM has
  gathered, the bytes read for the next part, and the access it waits for. -/
  moverParts : List Piece := []
  moverStarted : Bool := false
  moverPos : Nat := 0
  moverFrom : Nat := 0
  moverGot : List Nat := []
  moverData : Option (List Nat) := none
  moverWait : Option MoverWait := none
  /-- Slot 63 runs the default movement microcode (R145, R394 step 7). -/
  defaultMover : Bool := false
  pageVec : Nat := 0
  moverSeq : Nat := 0
  /-- The virtual address the matrix engine's move path waits for, and a wake with OUT 1 (R251, R253). -/
  movePage : Option Nat := none
  moveFailed : Bool := false
  /-- Requests in the wait store, oldest first (R272). -/
  waiting : List Msg := []
  /-- Response entries reserved (R271). -/
  entries : Nat := 0
  /-- CALLAT packets answered RETRY and held: the packet, and the cycle it was answered (R272). -/
  held : List (Msg × Nat) := []
  /-- Accepted packets whose acceptance awaits a JOIN's acknowledgement, by the JOIN's number (R224). -/
  joining : List (Nat × Msg) := []
  /-- The region unit (R328, R335, R339, R343): its copies of live domains, ARMED, REF, departing records, held operations
  with their pool index, and ARMs set aside, counted in ARMED or not. -/
  domains : List Domain := []
  armed : Nat := 0
  regionRef : Nat := 0
  departures : List Departure := []
  heldOps : List (Nat × Msg) := []
  arms : List (Msg × Bool) := []
  /-- The vector queue, oldest first, the command that has executed (R113), and the solver sequencer (R347). -/
  queue : List EngineCmd := []
  executed : Option EngineDone := none
  seq : Sequencer := {}
  /-- The matrix engine (R124). -/
  matrix : Matrix := {}
  /-- The frame number, whether a spent quota is held until the frame-close wave comes, and the flits spent (R267). -/
  frame : Nat := 0
  stalled : Bool := false
  spentOmega : Nat := 0
  spentMesh : Nat := 0
  spentUcie : Nat := 0
  spentCell : Nat := 0
  deriving DecidableEq, Repr

/-- A context (R149, R150) as the package holds it. -/
structure CtxRec where
  /-- 0 FREE, 1 LIVE, 2 DRAINING. -/
  state : Nat := 0
  root : Word := 0
  part : Word := 0
  handler : Word := 0
  save : Word := 0
  /-- The copied partition entry, words 0 to 2, and whether it can take launches (R209). -/
  entry0 : Word := 0
  entry1 : Word := 0
  entry2 : Word := 0
  placeable : Bool := false
  deriving DecidableEq, Repr

/-- A request to another package that awaits its answer: its number, thread, issuing core and slot, package, context and
what it is (R276). -/
structure Outstanding where
  id : Nat
  uid : Nat
  core : Nat
  slot : Nat
  pkg : Nat
  ctx : Nat
  sup : Bool
  what : Abroad
  deriving DecidableEq, Repr

/-- The state of the package. -/
structure State where
  /-- What comes next, first turn first (log entry 1, DESIGN CHOICE). -/
  agenda : List Turn := []
  /-- The core whose cycle comes when the agenda is empty and no event is due (log entry 1, DESIGN CHOICE). -/
  core : Nat := 0
  /-- The issuing slot: core * 64 + slot (log entry 1, DESIGN CHOICE). -/
  cur : Nat := 0
  /-- Free values used so far (log entry 6, DESIGN CHOICE). -/
  fresh : Nat := 0
  /-- The next thread or message number (log entry 12, DESIGN CHOICE). -/
  nextId : Nat := 1
  mem : Memory := []
  /-- Full bits of scratchpad words by the key of their lowest byte; full where unlisted (R16). -/
  memFull : Store Bool := []
  /-- DIRTY bits by core * 24 + region (R152). -/
  dirty : Store Bool := []
  /-- Register files by core * 2048 + entry, and their full bits (R15, R16). -/
  regs : Store Word := []
  regFull : Store Bool := []
  /-- Slots by core * 64 + slot. -/
  slots : Store Slot := []
  evicted : List Evicted := []
  /-- SPILLs and RESUMEs in progress (R163, R166). -/
  spills : List SpillOp := []
  cores : Store CoreRec := []
  /-- Landing names by core * 512 + index (R169). -/
  names : Store NameEntry := []
  /-- Heat words by core * 4096 + index (R250). -/
  heat : Store Word := []
  /-- Messages in flight, oldest first. -/
  net : List Msg := []
  /-- Request credits in use, by cluster * 4096 + class of destination (R270). -/
  credits : Store Nat := []
  /-- Response entries of the memory-side queues, by channel group (R270). -/
  chanEntries : Store Nat := []
  /-- Requests to other packages that await an answer (R276). -/
  outstanding : List Outstanding := []
  /-- Packages unreachable from a die, as die * 64 + package (R276). -/
  unreachable : List Nat := []
  /-- The die frames F, and the die-local cluster each frame-close wave reaches next (R267). -/
  dieFrame : Store Nat := []
  waveAt : Store Nat := []
  pkgNum : Nat := 0
  offline : List Nat := []
  /-- Pager cores of a cluster, as snake positions (R11). -/
  pagers : Store (List Nat) := []
  ctxBase : Word := 0
  partBase : Word := 0
  netCfg : Word := 0x02081020_2008
  linkNote : Word := 0
  ctxs : Store CtxRec := []
  /-- CTXCMD (R152): its ID field, the command in force, the cores that have acknowledged it, and ERR. -/
  ctxCmdId : Nat := 0
  ctxCmd : Option (Nat × Nat) := none
  ctxCmdErr : Bool := false
  /-- The command in force has taken effect and awaits its acknowledgements (R151). -/
  ctxCmdDone : Bool := false
  /-- Barrier objects by key (see barrierKey), and the waits on them, oldest first (R233, R272). -/
  barriers : Store Barrier := []
  barWaits : List BarWait := []
  /-- The kernel table, the launch queue and the RETIRED entries, oldest first (R217). -/
  kernels : Store KernelRec := []
  launchQueue : List Nat := []
  retired : List Nat := []
  /-- Per kernel and core, by kernel * 1280 + core (R224). -/
  kernelCores : Store KernelCore := []
  /-- The package belongs to a pod (R392). -/
  inPod : Bool := false
  /-- Links, reservations by (ctx * 4 + die) * 64 + package, and the packets on the links, oldest first (R273 to R281). -/
  links : Store LinkRec := []
  flows : Store FlowRec := []
  sent : List Packet := []
  /-- The next FSEQ by flow, ESEQ by die * 64 + package, and PKT by die (R274). -/
  flowOut : Store Nat := []
  cellOut : Store Nat := []
  packetOut : Store Nat := []
  /-- ESEQ values accepted from a package's die, newest first, packets not yet passed on, and flows, by package * 4 + die
  and context (R276, R274, R278). -/
  accepted : Store (List Nat) := []
  partials : List Partial := []
  flowIn : Store FlowIn := []
  /-- Link and reachability events not yet delivered, oldest first (R281). -/
  linkEvents : List Word := []
  /-- Page operations whose thread waits (R257). -/
  pageOps : List PageOp := []
  /-- The live domains (R328), and the RDOMs whose thread waits (R334). -/
  domains : List Domain := []
  rdoms : List RdomOp := []
  /-- Completion notices of the host and the board controller, and the notices lost (R391). -/
  notes : List Nat := []
  bnotes : List Nat := []
  noteLost : Nat := 0
  bnoteLost : Nat := 0
  /-- The device control block (R388). -/
  dev : Device := {}
  /-- Signals to the masters, oldest first: MSI-X vector 0 or 1, an in-band interrupt (2), or a management message with its
  port and words (R391, R398, R223). -/
  signals : List (Nat × Nat × List Word) := []
  deriving DecidableEq, Repr

/-- The machine right after reset: every field at the value the spec gives, or the one that log entry 5 (DESIGN CHOICE)
names. -/
def State.reset : State := {}

end Sys2Proof.Machine
end

