-- ==== Sys2Proof/Machine/Ops.lean ====
section
/-! DEFINITION. The named operations over the state: the grid, slots, registers, memory and its full bits, counters,
taking a trap and returning from one, messages. -/
namespace Sys2Proof.Machine

/-! ## The grid (R8 to R12) -/

/-- Column of a core. -/
def coreX (c : Nat) : Nat := c % 32
/-- Row of a core. -/
def coreY (c : Nat) : Nat := c / 32
/-- The core at a place. -/
def coreAt (x y : Nat) : Nat := 32 * y + x
/-- Die of a core (R8). -/
def dieOf (c : Nat) : Nat := coreY c / 20 * 2 + coreX c / 16
/-- Package cluster of a core (R9). -/
def clusterOf (c : Nat) : Nat := coreY c / 4 * 4 + coreX c / 8
/-- Snake position of a core in its cluster (R10). -/
def snakeOf (c : Nat) : Nat :=
  let x := coreX c % 8
  let y := coreY c % 4
  if y % 2 = 0 then y * 8 + x else y * 8 + 7 - x
/-- The core at a snake position of a cluster (R10). -/
def coreOfSnake (k p : Nat) : Nat :=
  let y := p / 8
  let x := if y % 2 = 0 then p % 8 else 7 - p % 8
  coreAt (k % 4 * 8 + x) (k / 4 * 4 + y)
/-- Die of a package cluster. -/
def dieOfCluster (k : Nat) : Nat := dieOf (coreOfSnake k 0)

/-- A rectangle of cores: both corners included (R21). -/
structure Rect where
  x0 : Nat
  y0 : Nat
  x1 : Nat
  y1 : Nat
  deriving DecidableEq, Repr

/-- The core lies in the rectangle. -/
def Rect.holds (r : Rect) (c : Nat) : Bool :=
  decide (r.x0 ≤ coreX c) && decide (coreX c ≤ r.x1) && decide (r.y0 ≤ coreY c) && decide (coreY c ≤ r.y1)

/-- The cores of a rectangle in snake order (R10). -/
def Rect.snake (r : Rect) : List Nat :=
  (span r.y0 (r.y1 + 1 - r.y0)).flatMap fun y =>
    let row := (span r.x0 (r.x1 + 1 - r.x0)).map fun x => coreAt x y
    if (y - r.y0) % 2 = 0 then row else row.reverse

/-- The whole package. -/
def wholePackage : Rect := { x0 := 0, y0 := 0, x1 := 31, y1 := 39 }

/-- Physical key of a scratchpad byte. -/
def spadKey (c off : Nat) : Nat := c * 0x200000 + off
/-- Physical key of a bulk byte. -/
def bulkKey (pa : Nat) : Nat := 2 ^ 40 + pa
/-- The key is of bulk memory. -/
def isBulk (key : Nat) : Bool := decide (2 ^ 40 ≤ key)
/-- The core of a scratchpad key. -/
def keyCore (key : Nat) : Nat := key / 0x200000
/-- The offset of a scratchpad key. -/
def keyOff (key : Nat) : Nat := key % 0x200000
/-- The channel group of a bulk key (R244). -/
def keyGroup (key : Nat) : Nat := (key - 2 ^ 40) / 2 ^ 35 % 16
/-- The agent that performs an access to a key (R100). -/
def keyNode (key : Nat) : Node := if isBulk key then .chan (keyGroup key) else .core (keyCore key)

/-- The absolute space-00 address of an offset on a core (R22). -/
def addrOf (c off : Nat) : Word := pack [(coreY c, 40, 8), (coreX c, 32, 8), (off, 0, 21)]

/-! ## Slots and cores -/

namespace State

/-- The slot of thread place t = core * 64 + slot. -/
def slot (s : State) (t : Nat) : Slot := Store.get {} s.slots t
/-- s with a slot replaced. -/
def setSlot (s : State) (t : Nat) (v : Slot) : State := { s with slots := Store.set {} s.slots t v }
/-- s with a slot changed. -/
def modSlot (s : State) (t : Nat) (f : Slot → Slot) : State := s.setSlot t (f (s.slot t))
/-- A core's own state. -/
def coreRec (s : State) (c : Nat) : CoreRec := Store.get {} s.cores c
/-- s with a core's own state replaced. -/
def setCore (s : State) (c : Nat) (v : CoreRec) : State := { s with cores := Store.set {} s.cores c v }
/-- s with a core's own state changed. -/
def modCore (s : State) (c : Nat) (f : CoreRec → CoreRec) : State := s.setCore c (f (s.coreRec c))
/-- The links of the package (R273). -/
def link (s : State) (l : Nat) : LinkRec := Store.get {} s.links l
/-- The issuing slot. -/
def me (s : State) : Slot := s.slot s.cur
/-- The issuing core. -/
def here (s : State) : Nat := s.cur / 64
/-- The issuing slot's number. -/
def num (s : State) : Nat := s.cur % 64
/-- s with the issuing slot changed. -/
def modMe (s : State) (f : Slot → Slot) : State := s.modSlot s.cur f
/-- A context as the package holds it. -/
def ctx (s : State) (i : Nat) : CtxRec := Store.get {} s.ctxs i
/-- s with a context changed. -/
def modCtx (s : State) (i : Nat) (f : CtxRec → CtxRec) : State :=
  { s with ctxs := Store.set {} s.ctxs i (f (s.ctx i)) }

/-- A free value (R5, log entry 6, DESIGN CHOICE). -/
def free (s : State) : Word := Config.freeWord s.fresh
/-- s after one free value is used. -/
def freed (s : State) (n : Nat := 1) : State := { s with fresh := s.fresh + n }

/-- The core is off-line (R14). -/
def isOffline (s : State) (c : Nat) : Bool := s.offline.contains c
/-- The pager positions of a cluster; local (0, 0) and (7, 3) by default (R11). -/
def pagersOf (s : State) (k : Nat) : List Nat := Store.get [0, 24] s.pagers k
/-- The core is a pager core (R11). -/
def isPager (s : State) (c : Nat) : Bool := (s.pagersOf (clusterOf c)).contains (snakeOf c)

/-! ## Registers (R55 to R57, R73, R74) -/

/-- The register-file entry of code v in a slot's window (R55). -/
def entryOf (s : State) (t v : Nat) : Nat := t / 64 * 2048 + ((s.slot t).base + v) % 2048
/-- Register v of a slot; g0 reads zero (R57). -/
def reg (s : State) (t v : Nat) : Word := if v = 0 then 0 else Store.get 0 s.regs (s.entryOf t v)
/-- The full bit of register v; g0 is full (R57). -/
def regIsFull (s : State) (t v : Nat) : Bool := v == 0 || Store.get true s.regFull (s.entryOf t v)
/-- s with the full bit of register v set to b; g0 stays full. -/
def setRegFull (s : State) (t v : Nat) (b : Bool) : State :=
  if v = 0 then s else { s with regFull := Store.set true s.regFull (s.entryOf t v) b }
/-- s with the value of register v set; a write to g0 is discarded. -/
def setRegValue (s : State) (t v : Nat) (w : Word) : State :=
  if v = 0 then s else { s with regs := Store.set 0 s.regs (s.entryOf t v) w }
/-- A slot parked for what p says becomes READY (R154). -/
def wakeSlot (s : State) (t : Nat) (p : Park → Bool) : State :=
  let sl := s.slot t
  if sl.phase = .parked ∧ p sl.park then s.setSlot t { sl with phase := .ready, park := .none } else s
/-- Every slot of a core parked for what p says becomes READY (R154). -/
def wakeCore (s : State) (c : Nat) (p : Park → Bool) : State :=
  { s with slots := s.slots.map fun e =>
      if e.1 / 64 = c ∧ e.2.phase = .parked ∧ p e.2.park then (e.1, { e.2 with phase := .ready, park := .none }) else e }
/-- A write to register v: its value, its full bit, and a wake of the slot parked on it (R74, R99). -/
def writeReg (s : State) (t v : Nat) (w : Word) : State :=
  ((s.setRegValue t v w).setRegFull t v true).wakeSlot t (· == Park.register v)
/-- Register v becomes full with its value unchanged, and wakes the slot parked on it. -/
def fillReg (s : State) (t v : Nat) : State := (s.setRegFull t v true).wakeSlot t (· == Park.register v)
/-- Register v awaits a reply (R99). -/
def awaits (s : State) (t v : Nat) : Bool := v != 0 && (s.slot t).awaiting.getLsbD v
/-- Register v becomes empty and awaiting (R99); nothing for g0. -/
def markAwaiting (s : State) (t v : Nat) : State :=
  if v = 0 then s
  else (s.setRegFull t v false).modSlot t fun sl => { sl with awaiting := sl.awaiting ||| (1#128 <<< v) }
/-- Register v no longer awaits a reply; a FENCE waiting for that is woken (R316). -/
def clearAwaiting (s : State) (t v : Nat) : State :=
  (s.modSlot t fun sl => { sl with awaiting := sl.awaiting &&& ~~~(1#128 <<< v) }).wakeSlot t (· == .replies)

/-! ## Memory (R16, R96, R98, R152, R292) -/

/-- n bytes at a physical key. -/
def read (s : State) (key n : Nat) : Nat := s.mem.readN key n
/-- A 64-bit word at a physical key. -/
def read64 (s : State) (key : Nat) : Word := ofNat (s.read key 8)
/-- The DIRTY bit of the region of a scratchpad key is set (R152). -/
def markDirty (s : State) (key : Nat) : State :=
  if isBulk key then s
  else { s with dirty := Store.set false s.dirty (keyCore key * 24 + keyOff key / 0x10000 % 24) true }
/-- A write of n bytes at a physical key by any agent: data and DIRTY; full bits are kept (R98, R152). -/
def write (s : State) (key n v : Nat) : State :=
  { s with mem := s.mem.writeN key n v }.markDirty key
/-- A write of a 64-bit word. -/
def write64 (s : State) (key : Nat) (v : Word) : State := s.write key 8 v.toNat
/-- The full bit of the word that holds a key; a bulk word has none and reads full. -/
def isFull (s : State) (key : Nat) : Bool := Store.get true s.memFull (key / 8 * 8)
/-- The full bit of the word that holds a key is set to b; a change wakes the slots parked on it (R296). -/
def setFull (s : State) (key : Nat) (b : Bool) : State :=
  let k := key / 8 * 8
  if isBulk k || (s.isFull k == b) then s
  else { s with memFull := Store.set true s.memFull k b }.wakeCore (keyCore k) (· == Park.word k)
/-- Consecutive words written from a list. -/
def writeWords (s : State) (key : Nat) : List Word → State
  | [] => s
  | w :: r => (s.write64 key w).writeWords (key + 8) r
/-- Consecutive words read. -/
def readWords (s : State) (key : Nat) : Nat → List Word
  | 0 => []
  | n + 1 => s.read64 key :: s.readWords (key + 8) n

end State

/-! ## Addresses that hold code (R157, R85) -/

/-- The offset of an address if it is a space-00 address, absolute or relative, that resolves to core c below 0x18_0000. -/
def ownOffset (c : Nat) (a : Word) : Option Nat :=
  if fld a 62 2 ≠ 0 ∨ fld a 48 13 ≠ 0 ∨ fld a 21 11 ≠ 0 then none
  else
    let x := if bitAt a 61 then (coreX c : Int) + signed (fld a 32 8) 8 else (fld a 32 8 : Nat)
    let y := if bitAt a 61 then (coreY c : Int) + signed (fld a 40 8) 8 else (fld a 40 8 : Nat)
    if x = coreX c ∧ y = coreY c ∧ fld a 0 21 < Config.spadSize then some (fld a 0 21) else none

/-- code_addr(a) of R157 on core c: its offset. -/
def codeAddr (c : Nat) (a : Word) : Option Nat :=
  match ownOffset c a with
  | some off => if off % 4 = 0 then some off else none
  | none => none

/-! ## The program counter and loops (R85, R88, R167) -/

/-- The pc and the loop stack when sequential execution reaches pc (R167). -/
def loopEnd (pc : Nat) : List Loop → Nat × List Loop
  | [] => (pc, [])
  | l :: r =>
    if l.stop = pc then
      if 1 < l.count then (l.start, { l with count := l.count - 1 } :: r) else loopEnd pc r
    else (pc, l :: r)

/-- The slot after its instruction completes: the next pc, and nothing of a release kept. -/
def Slot.advance (sl : Slot) : Slot :=
  let n := loopEnd (sl.pc + 4) sl.loops
  { sl with pc := n.1, loops := n.2, released := false }

/-- The slot after a taken branch or jump: levels whose body does not hold the target end (R167). -/
def Slot.jump (sl : Slot) (t : Nat) : Slot :=
  { sl with pc := t, loops := sl.loops.filter fun l => decide (l.start ≤ t) && decide (t < l.stop), released := false }

/-- What stays of a slot whose thread has gone: the cycle of its last issue (R158) and the fault sequence, which no creation
resets (R156, R251; log entry 38, DEDUCED). -/
def Slot.vacated (sl : Slot) (phase : Phase := .free) : Slot := { phase := phase, lastIssue := sl.lastIssue, seq := sl.seq }

namespace State

/-- The issuing slot's instruction has completed. -/
def advance (s : State) : State := s.modMe Slot.advance
/-- The issuing slot jumps. -/
def jump (s : State) (t : Nat) : State := s.modMe (·.jump t)

/-! ## Taking a trap, ending a thread, returning (R157, R154, R160) -/

/-- The thread of a slot ends with a status: the slot drains (R154); its loop stack is cleared (R167). -/
def terminate (s : State) (t status : Nat) : State :=
  s.modSlot t fun sl => { sl with phase := .draining, park := .none, wait := none, status := status, loops := [], yield := none }

/-- take_trap(c, v) of R157 in slot t: the one place where a trap is taken. -/
def takeTrap (s : State) (t cause : Nat) (info : Word) : State :=
  let sl := s.slot t
  match (if sl.intrap then none else codeAddr (t / 64) sl.trapVec) with
  | none => s.terminate t cause
  | some _ =>
    s.setSlot t { sl with
      phase := .ready, park := .none, released := false, barwToken := none, wait := none
      trapPc := addrOf (t / 64) sl.pc, trapCause := cause, trapInfo := info, intrap := true
      pc := fld sl.trapVec 0 21 }

/-- A precise trap of slot t whose instruction waited at another agent or for a page: it is taken, or it joins the traps already
pending for the slot behind them, and waits with them while the core issues nothing (R404, R393; log entry 39, DEDUCED). -/
def lateTrap (s : State) (t cause : Nat) (info : Word) : State :=
  let sl := s.slot t
  if sl.pend.isEmpty && !Store.get false s.dev.stopped (t / 64) then s.takeTrap t cause info
  else s.setSlot t { sl with phase := .ready, park := .none, released := false, barwToken := none, wait := none
                             pend := sl.pend ++ [(cause, info)] }

/-- The return of R160 in the issuing slot to an offset: the loop stack is kept (R167), and a return to the end of a body meets
that end (log entry 16, DEDUCED). -/
def returnTrap (s : State) (off : Nat) : State := s.modMe fun sl =>
  let n := loopEnd off sl.loops
  { sl with pc := n.1, loops := n.2, released := false, intrap := false }

/-- A boundary trap becomes pending in slot t (R404). In a DRAINING slot it is the status instead (R175). -/
def pendTrap (s : State) (t cause : Nat) (info : Word) : State :=
  s.modSlot t fun sl =>
    if sl.phase = .draining then { sl with status := cause } else { sl with pend := sl.pend ++ [(cause, info)] }

/-! ## Counters (R98, R303, R306) -/

/-- LD, ST, CP or TL change in slot t, and a WAITC is reconsidered (R306). -/
def modCounters (s : State) (t : Nat) (f : Slot → Slot) : State := (s.modSlot t f).wakeSlot t (· == .counters)

/-! ## Threads by number (log entry 12, DESIGN CHOICE) -/

/-- The slot that holds a thread, if it is not evicted. -/
def findThread (s : State) (uid : Nat) : Option Nat :=
  if uid = 0 then none
  else (s.slots.keys.filter fun t => (s.slot t).uid == uid && (s.slot t).phase != .free).min?

/-- The evicted thread of a number. -/
def findEvicted (s : State) (uid : Nat) : Option Evicted := if uid = 0 then none else s.evicted.find? (·.rest.uid == uid)

/-! ## Messages (R262, R265, R270, R271) -/

/-- The die a node belongs to. -/
def nodeDie : Node → Nat
  | .core c => dieOf c
  | .chan g => g / 4
  | .router k => dieOfCluster k
  | .ctrl d | .gate d => d
  | .pkg _ => 0

/-- The link of a flow: its own, the next of its die, else the lowest on another die; none if all are down (R273). -/
def linkOf (s : State) (i d p : Nat) : Option Nat :=
  let own := (List.range 3).map fun j => 3 * d + ((i + p) % 3 + j) % 3
  match own.find? fun l => (s.link l).up with
  | some l => some l
  | none => (List.range 12).find? fun l => decide (l / 3 ≠ d) && (s.link l).up

/-- The die a message of context i from src to dst is for inside the package: another package's is that of its flow's link
(R264, R273). -/
def dieToward (s : State) (i : Nat) (src dst : Node) : Nat :=
  match dst with
  | .pkg p => match s.linkOf i (nodeDie src) p with
    | some l => l / 3
    | none => nodeDie src
  | n => nodeDie n

/-- The frame number a packet carries: its core's, or the destination die's F if it crosses a UCIe pair (R267). -/
def frameOf (s : State) (m : Msg) : Nat :=
  let d := s.dieToward m.ctx m.src m.dst
  match m.src with
  | .core c => if dieOf c = d then (s.coreRec c).frame else Store.get 0 s.dieFrame d
  | _ => Store.get 0 s.dieFrame d

/-- A message is sent. -/
def send (s : State) (m : Msg) : State :=
  { s with net := s.net ++ [{ m with id := s.nextId, frame := s.frameOf m }], nextId := s.nextId + 1 }
/-- A message by number. -/
def findMsg (s : State) (id : Nat) : Option Msg := s.net.find? (·.id == id)
/-- The cores after a message has reached its destination: a gated core leaves gating (R17). -/
def coresReached (s : State) (id : Nat) : Store CoreRec :=
  match s.findMsg id with
  | some m => match m.dst with
    | .core c => if (s.coreRec c).gated then Store.set {} s.cores c { s.coreRec c with gated := false } else s.cores
    | _ => s.cores
  | none => s.cores
/-- A message has reached its destination, and is taken out of the network. -/
def dropMsg (s : State) (id : Nat) : State := { s with net := s.net.filter (·.id != id), cores := s.coresReached id }

end State

/-- Two messages of one stream: one virtual channel, one source slot, one destination (R265). -/
def Msg.sameStream (a b : Msg) : Bool := a.resp == b.resp && a.src == b.src && a.slot == b.slot && a.dst == b.dst

/-- The first message of m's stream in a list is m itself. -/
def firstOfStream (m : Msg) : List Msg → Bool
  | [] => false
  | h :: r => if h.id = m.id then true else if h.sameStream m then false else firstOfStream m r

namespace State

/-- The message of a number, when it is next in its stream and its credit does not hold it at a router (R265, R380). -/
def arrived (s : State) (id : Nat) : Option Msg :=
  match s.findMsg id with
  | some m => if firstOfStream m s.net then some m else none
  | none => none

/-- A number for the class of a destination: a core, a channel group, or a die's gateway (R270). -/
def classOf : Node → Nat
  | .core c => c
  | .chan g => 2000 + g
  | .router k => 2100 + k
  | .ctrl d => 2200 + d
  | .gate d => 2300 + d
  | .pkg p => 2400 + p

/-- NETCFG.RQS in use (R269). -/
def rqs (s : State) : Nat := let r := fld s.netCfg 0 4; if r = 0 then 8 else r

/-- A request credit from cluster k toward dst is free (R270). -/
def creditFree (s : State) (k : Nat) (dst : Node) : Bool :=
  decide (Store.get 0 s.credits (k * 4096 + classOf dst) < s.rqs)
/-- A credit is taken. -/
def takeCredit (s : State) (k : Nat) (dst : Node) : State :=
  let i := k * 4096 + classOf dst
  { s with credits := Store.set 0 s.credits i (Store.get 0 s.credits i + 1) }
/-- A credit returns. -/
def freeCredit (s : State) (k : Nat) (dst : Node) : State :=
  let i := k * 4096 + classOf dst
  { s with credits := Store.set 0 s.credits i (Store.get 0 s.credits i - 1) }

/-- Response entries reserved at an agent (R270, R271). -/
def entriesAt (s : State) : Node → Nat
  | .core c => (s.coreRec c).entries
  | .chan g => Store.get 0 s.chanEntries g
  | _ => 0
/-- Response entries at an agent set. -/
def setEntries (s : State) (n : Nat) : Node → State
  | .core c => s.modCore c fun r => { r with entries := n }
  | .chan g => { s with chanEntries := Store.set 0 s.chanEntries g n }
  | _ => s

/-- A message is sent under a number it already has. -/
def sendAs (s : State) (m : Msg) : State := { s with net := s.net ++ [{ m with frame := s.frameOf m }] }

/-- An answer as it goes to its requester: for another package it names that package's request (see abroadAnswer). -/
def answerTo (m : Msg) (b : Body) : Body :=
  match m.src with
  | .pkg _ => match b with
    | .barrierAnswer _ v _ refused info => .fabricAnswer m.uid 0 [v, boolWord refused, info]
    | .retry none _ => .fabricAnswer m.uid 0 [0, 0, 0, 1]
    | .retry (some t) _ => .fabricAnswer m.uid 0 [0, 0, 0, 2, t]
    | .engineAnswer code flags _ => .fabricAnswer m.uid 0 [boolWord code.isSome, boolWord (flags == 0)]
    | .revoked _ _ result => .fabricAnswer m.uid 0 [ofNat result]
    | .delivered cause _ _ => .fabricAnswer m.uid cause []
    | .joinAck _ _ => .fabricAnswer m.uid 0 []
    | x => x
  | _ => b

/-- A response to a request goes out under the request's number: it holds the request's credit and its response entry
until the source's router takes the credit back (R270, R271). -/
def respond (s : State) (m : Msg) (b : Body) : State :=
  (s.dropMsg m.id).sendAs { m with src := m.dst, dst := m.src, resp := true, body := answerTo m b }

/-- The core a message came from or goes to, if any. -/
def nodeCore : Node → Option Nat
  | .core c => some c
  | _ => none

end State

end Sys2Proof.Machine
end

