-- ==== Sys2Proof/Machine/Races.lean ====
section
/-! DEFINITION. What a write to a scratchpad leaves undefined beside what it stores (R5): in a region store's pool and tables (R330), in
the words of a running sequencer command (R362), and in the accumulator of an MMAS whose scales it meets (R132). -/
namespace Sys2Proof.Machine

/-! ## Where a domain, a sequencer command and an MMAS have their bytes (R328, R349, R350, R132) -/

namespace Domain

/-- A word of the descriptor. -/
def word (d : Domain) (i : Nat) : Word := d.words.getD i 0
/-- Bricks on an axis. -/
def bricks (d : Domain) (axis : Nat) : Nat := fld (d.word 4) (32 + 8 * axis) 8
/-- NX * NY * NZ. -/
def total (d : Domain) : Nat := d.bricks 0 * d.bricks 1 * d.bricks 2
/-- MODE: a table mapping. -/
def mapped (d : Domain) : Bool := bitAt (d.word 4) 56
/-- POOL. -/
def pool (d : Domain) : Nat := fld (d.word 6) 0 21
/-- CAP. -/
def cap (d : Domain) : Nat := fld (d.word 6) 32 13
/-- HOME. -/
def home (d : Domain) : Nat := fld (d.word 7) 0 21
/-- HCAP. -/
def hcap (d : Domain) : Nat := fld (d.word 7) 32 13
/-- MAPOFF. -/
def mapOff (d : Domain) : Nat := fld (d.word 8) 0 21

end Domain

namespace State

/-- The rectangle of a PART word or a partition entry (R199, R207). -/
def rectOf (w : Word) : Rect := { x0 := fld w 0 8, y0 := fld w 8 8, x1 := fld w 16 8, y1 := fld w 24 8 }

/-- A partition's cores: on-line user cores of the context's rectangle (R207). -/
def inPartition (s : State) (i c : Nat) : Bool :=
  (rectOf (s.ctx i).part).holds c && !s.isPager c && !s.isOffline c

end State

/-- The owners of a domain in the order of their ordinals (R329). -/
def State.owners (s : State) (d : Domain) : List Nat :=
  (rectOf (d.word 5)).snake.filter fun c => !s.isPager c && !s.isOffline c && (d.ctx == 0 || s.inPartition d.ctx c)

namespace Sequencer

/-- A word of the tableau. -/
def t (q : Sequencer) (i : Nat) : Word := q.tab.getD i 0
/-- S, 0 where there is no tableau. -/
def stages (q : Sequencer) : Nat := fld (q.t 0) 0 4
/-- A word of the controller block. -/
def k (q : Sequencer) (i : Nat) : Word := q.cfg.getD i 0
/-- N. -/
def elems (q : Sequencer) : Nat := fld (q.k 8) 0 17
/-- The sample format P. -/
def fmt (q : Sequencer) : Nat := fld (q.k 8) 20 4
/-- Its width in bytes. -/
def width (q : Sequencer) : Nat := widthOf q.fmt / 8
/-- The vector pitch V. -/
def pitch (q : Sequencer) : Nat := (q.elems * q.width + 1023) / 1024 * 1024
/-- TIMES. -/
def times (q : Sequencer) : Nat := fld (q.k 9) 0 21
/-- A sample entry. -/
def sample (q : Sequencer) (i : Nat) : Sample := Store.get {} q.samples i

end Sequencer

/-- The samples of a range operand, ascending (R352). -/
def rangeOf (w : Word) : List Nat := span (fld w 0 8) (fld w 8 8 + 1)

/-- The items (their numbers) of a table of count items of a size from an offset that n bytes from another offset touch. -/
def itemsHit (base size count o n : Nat) : List Nat :=
  let lo := (o - base) / size
  span lo (min ((o + n - base + size - 1) / size) count - lo)

namespace State

/-- The domains whose pool and tables a core holds, as an owner (R330). -/
def heldDomains (s : State) (c : Nat) : List Domain := (s.coreRec c).domains.filter fun d => (s.owners d).contains c

/-- The records and home entries that n bytes at an offset of a core touch: offset and length (R330). -/
def recordsHit (s : State) (c o n : Nat) : List (Nat × Nat) :=
  (s.heldDomains c).flatMap fun d =>
    ((itemsHit d.pool 128 d.cap o n).map fun i => (d.pool + 128 * i, 128)) ++ ((itemsHit d.home 8 d.hcap o n).map fun e => (d.home + 8 * e, 8))

/-- The owner-table entries that n bytes at an offset of a core touch: domain and brick (R329, R330). -/
def bricksHit (s : State) (c o n : Nat) : List (Domain × Nat) :=
  ((s.heldDomains c).filter (·.mapped)).flatMap fun d => (itemsHit d.mapOff 2 d.total o n).map fun b => (d, b)

/-- n bytes at an offset meet a stage block, x or TIMES that the command that has executed and is not finished uses (R362). -/
def sequencerHit (s : State) (c o n : Nat) : Bool :=
  (s.coreRec c).executed.any fun d => d.uses.any fun r => decide (r.1 < o + n) && decide (o < r.1 + r.2)

/-- A command is an MMAS one of whose scale words n bytes at an offset meet (R132). -/
def scaleHit (o n : Nat) (q : TileCmd) : Bool :=
  let meets (a len : Nat) : Bool := decide (a < o + n) && decide (o < a + len)
  q.op == .mmas && (meets (fld q.scla 0 21) (256 * q.nkb) || meets (fld q.sclb 0 21) (4 * q.nkb))

/-- A store to n bytes at an offset of a core races with an MMAS that has finished, since its thread has not seen that (R132). -/
def unseenHit (s : State) (c o n : Nat) : Bool := (s.coreRec c).matrix.unseen.any (scaleHit o n)

/-- The MMAS commands of a core, issued and not seen to be over, that a store to n bytes at an offset races with (R132). -/
def scalesHit (s : State) (c o n : Nat) : Bool :=
  let m := (s.coreRec c).matrix
  m.queue.any (scaleHit o n) || (m.compute.any fun r => scaleHit o n r.cmd) || s.unseenHit c o n

/-- s with a core's matrix engine changed. -/
def modMatrix (s : State) (c : Nat) (f : Matrix → Matrix) : State := s.modCore c fun r => { r with matrix := f r.matrix }

/-- Of core c's finished MMAS, those that p selects are seen to be over: a store races with them no more (R132). -/
def forgetTiles (s : State) (c : Nat) (p : TileCmd → Bool) : State :=
  if (s.coreRec c).matrix.unseen.any p then s.modMatrix c fun m => { m with unseen := m.unseen.filter fun q => !p q } else s

/-- The issuing thread sees that those of its commands that p selects are over (R132). -/
def seeTiles (s : State) (p : TileCmd → Bool) : State := s.forgetTiles s.here fun q => q.uid == s.me.uid && p q

/-- The accumulator becomes undefined: free values (R139, R5). -/
def spoilAcc (s : State) (c : Nat) : State :=
  (s.modMatrix c fun m => { m with
    acc := (List.range 2048).foldl (fun (a : Store (BitVec 32)) i => Store.set 0 a i (BitVec.ofNat 32 (fld (Config.freeWord (s.fresh + i / 2)) (32 * (i % 2)) 32))) [] }).freed 1024

/-- A write of n bytes at a key, by an instruction if instr, leaves nothing else undefined. -/
def undisturbed (s : State) (instr : Bool) (key n : Nat) : Bool :=
  let c := keyCore key
  let o := keyOff key
  isBulk key || n == 0 || ((s.recordsHit c o n).isEmpty && (s.bricksHit c o n).isEmpty
    && (!instr || (!s.sequencerHit c o n && !s.scalesHit c o n)))

/-- n bytes at a key become free values (R5). -/
def freeBytes (s : State) (key n : Nat) : State :=
  ((List.range n).foldl (fun (x : State) i => x.write (key + i) 1 (fld (Config.freeWord (s.fresh + i / 8)) (8 * (i % 8)) 8)) s).freed
    ((n + 7) / 8)

/-- A brick's owner, as core c knows it, becomes some ordinal (R330, R5). -/
def freeBrick (s : State) (c : Nat) (e : Domain × Nat) : State :=
  let v := fld s.free 0 16 % max 1 (s.owners e.1).length
  ((s.freed.write (spadKey c (e.1.mapOff + 2 * e.2)) 2 v).modCore c fun r =>
    { r with domains := r.domains.map fun d => if d.ctx = e.1.ctx ∧ d.dom = e.1.dom then { d with table := d.table.set e.2 v } else d })

/-- The commands that a store meets race with it (R132). -/
def markRaces (o n : Nat) (m : Matrix) : Matrix :=
  let f (q : TileCmd) : TileCmd := if scaleHit o n q then { q with raced := true } else q
  { m with queue := m.queue.map f, compute := m.compute.map fun r => { r with cmd := f r.cmd } }

/-- What a write of n bytes at a key, by an instruction if instr, leaves undefined: whole records, handles and owner-table entries
(R330); for an instruction's, the words it stores to where a sequencer command uses them (R362), and the accumulator of an MMAS, when
that finishes, or at once if it has and its thread has not seen that (R132). Which moments count is log entry 51 (DEDUCED). -/
def disturb (s : State) (instr : Bool) (key n : Nat) : State :=
  if s.undisturbed instr key n then s else
  let c := keyCore key
  let o := keyOff key
  let s1 := (s.recordsHit c o n ++ (if instr && s.sequencerHit c o n then [(o / 8 * 8, (o + n + 7) / 8 * 8 - o / 8 * 8)] else [])).foldl
    (fun (x : State) r => x.freeBytes (spadKey c r.1) r.2) s
  let s2 := (s.bricksHit c o n).foldl (fun (x : State) e => x.freeBrick c e) s1
  let s3 := if instr && s.scalesHit c o n then s2.modMatrix c (markRaces o n) else s2
  if instr && s.unseenHit c o n then s3.spoilAcc c else s3

/-- An instruction's write of n bytes at a physical key. -/
def store (s : State) (key n v : Nat) : State := (s.write key n v).disturb true key n
/-- An instruction's write of a 64-bit word. -/
def store64 (s : State) (key : Nat) (v : Word) : State := s.store key 8 v.toNat

/-- A write of n bytes at a physical key by an agent beside the region unit. -/
def put (s : State) (key n v : Nat) : State := (s.write key n v).disturb false key n
/-- An agent's write of a 64-bit word. -/
def put64 (s : State) (key : Nat) (v : Word) : State := s.put key 8 v.toNat
/-- An agent's write of consecutive words. -/
def putWords (s : State) (key : Nat) : List Word → State
  | [] => s
  | w :: r => (s.put64 key w).putWords (key + 8) r

end State

end Sys2Proof.Machine
end

