-- ==== Sys2Proof/Machine/Image.lean ====
section
/-! DEFINITION. Special registers of a slot as words, the image of an evicted thread (R164), and operations on a thread
wherever it is: in its slot, or in its image (R163). -/
namespace Sys2Proof.Machine

/-- The bits of a slot's special register that hold fields; the others read 0 whatever is stored (R4). -/
def fieldMask (n : Nat) : Word :=
  if n = 0x003 then 0x38FFF03FF
  else if n = 0x008 then Flag.mask
  else if n = 0x009 then 0xFFF
  else if n = 0x00C ∨ n = 0x011 then 0xFFFFFF
  else allOnes

/-- SLOT (R153). -/
def slotWord (n : Nat) (sl : Slot) : Word :=
  pack [(n, 0, 6), (sl.mode, 8, 2), (boolNat sl.mig, 10, 1), (boolNat sl.guest, 11, 1), (boolNat sl.task, 12, 1),
    (boolNat sl.codelet, 13, 1), (boolNat sl.intrap, 14, 1)]
/-- CNT (R303). -/
def cntWord (sl : Slot) : Word := pack [(sl.ld, 0, 6), (sl.st, 8, 6), (sl.cp, 16, 6), (sl.tl, 24, 6)]
/-- WINDOW (R55). -/
def windowWord (sl : Slot) : Word := pack [(sl.base, 0, 11), (sl.limit, 16, 8)]

/-- The state word of an image (R164). -/
def imageState (sl : Slot) : Word :=
  let st := match sl.phase with
    | .pageWait => 3
    | .parked => match sl.park with
      | .register _ => 1
      | _ => 2
    | _ => 0
  let p1 := match sl.pend with
    | [] => 0
    | h :: _ => h.1
  let p2 := match sl.pend with
    | _ :: h :: _ => h.1
    | _ => 0
  pack [(st, 0, 2), (p1, 8, 8), (p2, 16, 8)]

/-- The image's words 0x000 to 0x0B8 (R164). -/
def imageHead (c n : Nat) (sl : Slot) : List Word :=
  [addrOf c sl.pc, imageState sl, slotWord n sl, ofNat sl.ctx, sl.kernel, sl.group, pack [(sl.limit, 16, 8)], sl.flags,
    sl.fmt, sl.scla, sl.sclb, sl.wlim, cntWord sl, sl.tok.setWidth 64, sl.touch, sl.err, sl.trapPc, ofNat sl.trapCause,
    sl.trapInfo, sl.trapVec, sl.binds, (match sl.pend with | [] => 0 | h :: _ => h.2), ofNat sl.seq, 0]

/-- p0 to p7 as words. -/
def ptrWords (sl : Slot) : List Word := (List.range 8).map (Store.get 0 sl.ptrs)

/-- The slot an image describes; `rest` gives what an image does not hold. A register's reserved bits are 0 whatever the image
holds there (R4). The PC word's bits 20:2 are the pc: one that is no multiple of 4 is never formed (R52; log entry 41, DEDUCED). -/
def imageSlot (s : State) (key : Nat) (rest : Slot) : Slot :=
  let w (o : Nat) : Word := s.read64 (key + o)
  let st := fld (w 8) 0 2
  let sw := w 0x10
  let cnt := w 0x60
  let pend := if fld (w 8) 8 8 = 0 then [] else
    (fld (w 8) 8 8, w 0xA8) :: (if fld (w 8) 16 8 = 0 then [] else [(fld (w 8) 16 8, 0)])
  { rest with
    phase := if st = 0 then .ready else if st = 3 then .pageWait else .parked
    park := match st with
      | 1 => (match rest.park with | .register v => .register v | _ => .none)
      | 2 => (match rest.park with | .register _ => .none | p => p)
      | _ => .none
    pc := fld (w 0) 2 19 * 4, mode := fld sw 8 2, mig := bitAt sw 10, guest := bitAt sw 11, task := bitAt sw 12
    codelet := bitAt sw 13, intrap := bitAt sw 14, ctx := fld (w 0x18) 0 9, kernel := w 0x20 &&& fieldMask 0x003, group := w 0x28
    limit := fld (w 0x30) 16 8, flags := w 0x38 &&& fieldMask 0x008, fmt := w 0x40 &&& fieldMask 0x009
    scla := w 0x48, sclb := w 0x50, wlim := w 0x58 &&& fieldMask 0x00C
    ld := fld cnt 0 6, st := fld cnt 8 6, cp := fld cnt 16 6, tl := fld cnt 24 6
    tok := (w 0x68).setWidth 8, touch := w 0x70, err := w 0x78 &&& fieldMask 0x011, trapPc := w 0x80, trapCause := fld (w 0x88) 0 8
    trapInfo := w 0x90, trapVec := w 0x98, binds := w 0xA0, pend := pend, seq := fld (w 0xB0) 0 8
    ptrs := (List.range 8).foldl (fun (a : Store Word) i => Store.set 0 a i (w (0xC0 + 8 * i))) []
    awaiting := BitVec.ofNat 128 (s.read (key + 0x110) 16) }

namespace State

/-- The image's head, pointers and marks are written; the registers are not touched. -/
def writeHead (s : State) (key c n : Nat) (sl : Slot) : State :=
  ((s.putWords key (imageHead c n sl)).putWords (key + 0xC0) (ptrWords sl)).put (key + 0x110) 16 sl.awaiting.toNat

/-- A thread, in its slot or its image, is changed (R163). -/
def modThread (s : State) (uid : Nat) (f : Slot → Slot) : State :=
  match s.findThread uid with
  | some t => s.modSlot t f
  | none => match s.findEvicted uid with
    | some e =>
      let sl := f (imageSlot s e.key e.rest)
      { s.writeHead e.key e.core e.slot sl with
        evicted := s.evicted.map fun x => if x.rest.uid = uid then { x with rest := sl } else x }
    | none => s

/-- The thread's slot record, wherever it is. -/
def thread (s : State) (uid : Nat) : Option Slot :=
  match s.findThread uid with
  | some t => some (s.slot t)
  | none => (s.findEvicted uid).map fun e => imageSlot s e.key e.rest

/-- The core that holds the thread or spilled it. -/
def threadCore (s : State) (uid : Nat) : Option Nat :=
  match s.findThread uid with
  | some t => some (t / 64)
  | none => (s.findEvicted uid).map (·.core)

/-- Register v of a thread is written and made full (R163, R173). -/
def writeThreadReg (s : State) (uid v : Nat) (w : Word) : State :=
  if v = 0 then s else
  match s.findThread uid with
  | some t => s.writeReg t v w
  | none => match s.findEvicted uid with
    | some e =>
      let s1 := s.put64 (e.key + 0x120 + 8 * v) w
      let k := e.key + 0x100 + v / 8
      let s2 := s1.put k 1 (s1.read k 1 ||| 2 ^ (v % 8))
      s2.modThread uid fun sl => if sl.park = .register v then { sl with phase := .ready, park := .none } else sl
    | none => s

/-- Register v of a thread becomes full with its value unchanged, in its slot or its image (R177, R163). -/
def fillThreadReg (s : State) (uid v : Nat) : State :=
  if v = 0 then s else
  match s.findThread uid with
  | some t => s.fillReg t v
  | none => match s.findEvicted uid with
    | some e =>
      let k := e.key + 0x100 + v / 8
      (s.put k 1 (s.read k 1 ||| 2 ^ (v % 8))).modThread uid fun sl =>
        if sl.park = .register v then { sl with phase := .ready, park := .none } else sl
    | none => s

/-- A thread parked for what p says becomes ready, in its slot or its image. -/
def wakeThread (s : State) (uid : Nat) (p : Park → Bool) : State :=
  s.modThread uid fun sl => if sl.phase = .parked ∧ p sl.park then { sl with phase := .ready, park := .none } else sl

/-- Counters or tokens of a thread change, and its WAITC or WAITK is reconsidered (R306). -/
def modThreadCounters (s : State) (uid : Nat) (f : Slot → Slot) : State :=
  (s.modThread uid f).wakeThread uid (fun p => p == .counters || p == .tokens)

/-- A boundary trap becomes pending for a thread (R404, R175). -/
def pendThread (s : State) (uid cause : Nat) (info : Word) : State :=
  s.modThread uid fun sl =>
    if sl.phase = .draining then { sl with status := cause } else { sl with pend := sl.pend ++ [(cause, info)] }

/-- A trap falls due for a thread that waits: taken in its slot, after the traps that are pending there, or pending in its image
(R157, R299, R404). -/
def trapThread (s : State) (uid cause : Nat) (info : Word) : State :=
  match s.findThread uid with
  | some t => s.lateTrap t cause info
  | none => (s.pendThread uid cause info).modThread uid fun sl => { sl with phase := .ready, park := .none, wait := none }

end State

end Sys2Proof.Machine
end

