-- ==== Sys2Proof/Machine/Address.lean ====
section
/-! DEFINITION. Addresses: the resolution of R93, rectangles (R199), the walk of R245 and the translation hardware
(R248), page faults without traps (R251), and the stops an instruction can meet. -/
namespace Sys2Proof.Machine

/-- Why an instruction does not complete in its turn. -/
inductive Stop where
  /-- A precise trap (R157). -/
  | trap (cause : Nat) (info : Word)
  /-- A park (R73); info is what a codelet's trap 0x0C reports (R78). -/
  | park (p : Park) (info : Word)
  /-- A forfeit (R77). -/
  | forfeit
  /-- A trapless page fault (R251): virtual address, access, reason and level, and TRAPINFO if it is unresolvable (R101, R320). -/
  | page (va access reason level : Nat) (info : Word)
  /-- The precise trap 0x05 of a page that does not permit the access (R101): the walk under context i has been made (R250). -/
  | denied (i va : Nat) (info : Word)
  deriving DecidableEq, Repr

/-- Where an address leads (R93). -/
inductive Loc where
  | spad (c off : Nat)
  | bulk (va : Nat)
  | fabric (p : Nat) (addr : Word)
  deriving DecidableEq, Repr

/-- The rights an access takes: context and supervisor (R403). -/
structure Rights where
  ctx : Nat
  sup : Bool
  deriving DecidableEq, Repr

/-- A slot's own context and mode (R153). -/
def Slot.rights (sl : Slot) : Rights := { ctx := sl.ctx, sup := sl.mode != 0 }

namespace State

/-- The peer exception of R212: c lies in a partition that context i's partition marks, and that marks it in return. -/
def peerPartition (s : State) (i c : Nat) : Bool :=
  let own := fld (s.ctx i).part 32 4
  s.ctxs.any fun e =>
    e.1 != 0 && e.2.state != 0 && s.inPartition e.1 c && bitAt (s.ctx i).entry1 (32 + fld e.2.part 32 4) && bitAt e.2.entry1 (32 + own)

/-- resolve(a, n) of R93, made by core c with the rights r; peer admits the cores of R212. -/
def resolve (s : State) (c : Nat) (r : Rights) (a : Word) (n : Nat) (peer : Bool := false) : Except Stop Loc :=
  let spad (a : Word) : Except Stop Loc :=
    if fld a 48 13 ≠ 0 ∨ fld a 21 11 ≠ 0 then .error (.trap 0x04 a) else
    let x : Int := if bitAt a 61 then (coreX c : Int) + signed (fld a 32 8) 8 else (fld a 32 8 : Nat)
    let y : Int := if bitAt a 61 then (coreY c : Int) + signed (fld a 40 8) 8 else (fld a 40 8 : Nat)
    let off := fld a 0 21
    if x < 0 ∨ x > 31 ∨ y < 0 ∨ y > 39 ∨ off ≥ Config.spadSize then .error (.trap 0x04 a) else
    let t := coreAt x.toNat y.toNat
    if off % n ≠ 0 then .error (.trap 0x03 a)
    else if s.isOffline t then .error (.trap 0x04 a)
    else if !r.sup && (s.isPager t || !(s.inPartition r.ctx t || (peer && s.peerPartition r.ctx t))) then
      .error (.trap 0x05 a)
    else .ok (.spad t off)
  let bulk (a : Word) : Except Stop Loc :=
    if fld a 48 14 ≠ 0 then .error (.trap 0x04 a)
    else if a.toNat % n ≠ 0 then .error (.trap 0x03 a)
    else .ok (.bulk (fld a 0 48))
  match fld a 62 2 with
  | 3 => .error (.trap 0x04 a)
  | 2 =>
    if fld a 54 7 ≠ 0 then .error (.trap 0x04 a)
    else if fld a 48 6 ≠ s.pkgNum then
      if a.toNat % n ≠ 0 then .error (.trap 0x03 a)
      else if !bitAt a 61 && (fld a 21 11 != 0 || decide (fld a 32 8 > 31) || decide (fld a 40 8 > 39)
          || decide (fld a 0 21 ≥ Config.spadSize)) then .error (.trap 0x04 a)
      else .ok (.fabric (fld a 48 6) a)
    else if bitAt a 61 then
      if a.toNat % n ≠ 0 then .error (.trap 0x03 a) else .ok (.bulk (fld a 0 48))
    else match spad (ofNat (fld a 0 48)) with
      | .error (.trap k _) => .error (.trap k a)
      | o => o
  | 1 => bulk a
  | _ => spad a

/-- The rectangle a register names, resolved at core c (R199). -/
def resolveRect (c : Nat) (w word : Word) : Except Stop Rect :=
  if fld w 33 31 ≠ 0 then .error (.trap 0x01 word) else
  let cx (v : Nat) : Int := if bitAt w 32 then (coreX c : Int) + signed v 8 else (v : Nat)
  let cy (v : Nat) : Int := if bitAt w 32 then (coreY c : Int) + signed v 8 else (v : Nat)
  let x0 := cx (fld w 0 8)
  let y0 := cy (fld w 8 8)
  let x1 := cx (fld w 16 8)
  let y1 := cy (fld w 24 8)
  if x0 < 0 ∨ y0 < 0 ∨ x1 > 31 ∨ y1 > 39 ∨ x1 < 0 ∨ y1 < 0 ∨ x0 > x1 ∨ y0 > y1 then .error (.trap 0x04 w)
  else .ok { x0 := x0.toNat, y0 := y0.toNat, x1 := x1.toNat, y1 := y1.toNat }

/-! ## Translation (R245 to R250) -/

end State

/-- Bytes an entry spans at a level (R245). -/
def spanBits (level : Nat) : Nat := if level = 1 then 16 else if level = 2 then 22 else if level = 3 then 31 else 40

/-- Index of a virtual address at a level (R245). -/
def tableIndex (va level : Nat) : Nat :=
  if level = 4 then va / 2 ^ 40 % 256 else if level = 1 then va / 2 ^ 16 % 64 else va / 2 ^ spanBits level % 512

/-- A table entry is malformed at a level (R247); the entry has V = 1. -/
def malformed (e : Word) (level : Nat) : Bool :=
  fld e 6 3 != 0 || fld e 62 2 != 0 ||
  (if bitAt e 1 then
    level == 4 || fld e 9 30 * 512 % 2 ^ spanBits level != 0 || (!bitAt e 5 && fld e 39 23 != 0)
      || decide (fld e 39 5 > 31) || decide (fld e 44 6 > 39)
  else
    level == 1 || (fld e 9 30 * 512) % (if level = 2 then 512 else 4096) != 0 || fld e 2 4 != 0 || fld e 39 23 != 0)

/-- ROOT is malformed (R245). -/
def malformedRoot (root : Word) : Bool := fld root 0 11 != 0 || fld root 39 25 != 0

/-- What a walk finds. -/
inductive Walk where
  | leaf (e : Word) (level key : Nat)
  | fault (reason level : Nat)
  deriving DecidableEq, Repr

namespace State

/-- The walk from table t down the levels given (R245). -/
def walkFrom (s : State) (va t : Nat) : List Nat → Walk
  | [] => .fault 2 1
  | lvl :: r =>
    let key := bulkKey (t + 8 * tableIndex va lvl)
    let e := s.read64 key
    if !bitAt e 0 then .fault 0 lvl
    else if malformed e lvl then .fault 2 lvl
    else if bitAt e 1 then (if bitAt e 4 then .fault 1 lvl else .leaf e lvl key)
    else s.walkFrom va (fld e 9 30 * 512) r

/-- walk(ctx, va) of R245. -/
def walk (s : State) (i va : Nat) : Walk :=
  let root := (s.ctx i).root
  if malformedRoot root then .fault 2 4 else s.walkFrom va root.toNat [4, 3, 2, 1]

/-- A walk may be made under context i: it is LIVE or DRAINING here, and context 0 always is live (R245, R149). -/
def mayWalk (s : State) (i : Nat) : Bool := i == 0 || (s.ctx i).state != 0

/-- A message from an agent of a core on the response channel. -/
def agentSend (s : State) (src dst : Node) (ctx : Nat) (sup : Bool) (b : Body) : State :=
  s.send { id := 0, src := src, dst := dst, resp := true, ctx := ctx, sup := sup, body := b }

/-- The heat update of a walk by an agent that returned leaf e (R250); an agent that is no core counts for its die (log entry 43,
DEDUCED). -/
def sendHeatFrom (s : State) (src : Node) (e : Word) : State :=
  if bitAt e 5 then s.agentSend src (.core (coreAt (fld e 39 5) (fld e 44 6))) 0 true (.heat (fld e 50 12) (nodeDie src)) else s
/-- The heat update of a walk by core c that returned leaf e (R250). -/
def sendHeat (s : State) (c : Nat) (e : Word) : State := s.sendHeatFrom (.core c) e
/-- A leaf does not permit the access under the rights r (R101). -/
def denies (r : Rights) (write : Bool) (e : Word) : Bool := (write && !bitAt e 2) || (!r.sup && bitAt e 3)

/-- The heat updates of an agent's walks of n pages of 64 KiB from a virtual address on, until one faults or is denied (R250). -/
def sendHeatPages (s : State) (src : Node) (r : Rights) (write : Bool) (va : Nat) : Nat → State
  | 0 => s
  | n + 1 => match s.walk r.ctx va with
    | .leaf e _ _ =>
      if denies r write e then s.sendHeatFrom src e
      else (s.sendHeatFrom src e).sendHeatPages src r write (va / 0x10000 * 0x10000 + 0x10000) n
    | .fault _ _ => s

/-- The heat updates of an agent's walks over n bytes under the rights r, one for each page of 64 KiB (R250). -/
def sendHeats (s : State) (src : Node) (r : Rights) (write : Bool) (va n : Nat) : State :=
  if !s.mayWalk r.ctx then s else s.sendHeatPages src r write va ((va % 0x10000 + n + 0xFFFF) / 0x10000)

/-- A translation matches (R248). -/
def hit (i va : Nat) (t : Translation) : Bool := t.ctx == i && t.va / 2 ^ spanBits t.level == va / 2 ^ spanBits t.level

/-- The translation of a virtual address by core c under context i: the cached one, or that of a walk, which is then
cached (R248; log entry 14, DESIGN CHOICE) and updates the heat (R250). -/
def translate (s : State) (c i va : Nat) : Except (Nat × Nat) (Translation × State) :=
  match (s.coreRec c).tlb.find? (hit i va) with
  | some t => .ok (t, s)
  | none => match s.walk i va with
    | .fault reason level => .error (reason, level)
    | .leaf e level _ =>
      let t : Translation :=
        { ctx := i, va := va / 2 ^ spanBits level * 2 ^ spanBits level, level := level, pa := fld e 9 30 * 512, w := bitAt e 2, s := bitAt e 3 }
      .ok (t, (s.modCore c fun r =>
        { r with tlb := (if r.tlb.length < Config.translations then r.tlb else r.tlb.drop 1) ++ [t] }).sendHeat c e)

/-- s after core c has translated a virtual address under context i. -/
def walked (s : State) (c i va : Nat) : State :=
  match s.translate c i va with
  | .ok (_, s') => s'
  | .error _ => s

/-- The physical key of a virtual address through a translation. -/
def through (t : Translation) (va : Nat) : Nat := bulkKey (t.pa + va % 2 ^ spanBits t.level)

/-- On-line pager cores of a cluster, in ascending snake position (R251). -/
def pagersOn (s : State) (k : Nat) : List Nat :=
  ((List.range 32).filter fun p => (s.pagersOf k).contains p && !s.isOffline (coreOfSnake k p)).map (coreOfSnake k)

/-- The pager cores that serve core c: its cluster's, else those of the lowest cluster of its die that has any (R13). -/
def pagersFor (s : State) (c : Nat) : List Nat :=
  if !(s.pagersOn (clusterOf c)).isEmpty then s.pagersOn (clusterOf c)
  else match (List.range 40).find? fun k => dieOfCluster k == dieOf c && !(s.pagersOn k).isEmpty with
    | some k => s.pagersOn k
    | none => []

/-- The pager core a fault's packet goes to (R251). -/
def pagerCore (s : State) (c va : Nat) : Option Nat :=
  let l := s.pagersFor c
  if l.isEmpty then none else l[va / 2 ^ 16 % l.length]?

/-- A translated access of core c at a virtual address under the rights r: its key, or the stop of R101 and R251.
access: 0 load, 1 store or ATOM, 2 engine read, 3 engine write (R252). -/
def bulkAccess (s : State) (c : Nat) (r : Rights) (va access : Nat) : Except Stop (Nat × State) :=
  match s.translate c r.ctx va with
  | .error (reason, level) =>
    if s.isPager c || (s.pagersFor c).isEmpty then .error (.trap 0x06 (ofNat va))
    else .error (.page va access reason level (ofNat va))
  | .ok (t, s') =>
    if (access % 2 = 1 ∧ !t.w) ∨ (!r.sup ∧ t.s) then .error (.denied r.ctx va (ofNat va)) else .ok (through t va, s')

/-- The fault packet of waiter w of core c to a pager core (R251, R252). PAGEVEC's bits 20:2 are the entry: a pc that is no multiple of 4
is never formed (R52; log entry 41, DEDUCED). -/
def sendFault (s : State) (c w seq i va access reason level : Nat) : State :=
  match s.pagerCore c va with
  | none => s
  | some p =>
    let wake := pack [(w, 0, 7), (seq, 8, 8), (coreX c, 32, 8), (coreY c, 40, 8)]
    let args : Args :=
      { a0 := ofNat va, a1 := pack [(i, 0, 9), (access, 9, 2), (reason, 12, 2), (level, 16, 3)], a2 := addrOf c 0, a3 := wake }
    let pkt : TaskPkt :=
      { entry := (s.coreRec p).pageVec / 4 * 4, args := args, rep := 0, fmt := 0x122, scla := 0, sclb := 0, ctx := 0, mode := 1,
        kernel := 0, group := 0 }
    s.send { id := 0, src := .core c, dst := .core p, ctx := 0, sup := true, body := .fault pkt }

/-- The issuing slot enters page wait (R101, R251). -/
def enterPageWait (s : State) (i va access reason level : Nat) (info : Word) : State :=
  let t := s.cur
  let seq := ((s.slot t).seq + 1) % 256
  (s.modSlot t fun sl =>
    { sl with phase := .pageWait, park := .none, seq := seq, waitVa := ofNat va, waitInfo := info, waitWrite := access % 2 == 1 }).sendFault
    (t / 64) (t % 64) seq i va access reason level

/-! ## TOUCH (R103) and the rights of a slot (R403, R145) -/

/-- The TOUCH bit of a physical key. -/
def touchBit (key : Nat) : Nat := if isBulk key then 40 + keyGroup key else clusterOf (keyCore key)
/-- The TOUCH bit of another package. -/
def touchFabric (p : Nat) : Nat := 56 + p % 8
/-- A TOUCH bit of the issuing slot is set. -/
def touch (s : State) (b : Nat) : State := s.modMe fun sl => { sl with touch := sl.touch ||| (1#64 <<< b) }

/-- The rights that slot t accesses memory with: in slot 63 those of the copy in service, else its own (R145, R403). -/
def rightsOf (s : State) (t : Nat) : Rights :=
  if t % 64 = 63 then
    match (s.coreRec (t / 64)).mailbox with
    | some q => { ctx := q.ctx, sup := q.mode != 0 }
    | none => (s.slot t).rights
  else (s.slot t).rights

/-- The rights that the issuing slot accesses memory with. -/
def rights (s : State) : Rights := s.rightsOf s.cur
/-- The issuing slot's own rights: what it does beside memory, a barrier, a delivery, a message, goes under these (R145 gives a copy's
rights to memory accesses alone; log entry 17, DEDUCED). -/
def ownRights (s : State) : Rights := s.me.rights

/-! ## How an instruction ends -/

/-- The issuing slot parks (R154). -/
def parkMe (s : State) (p : Park) : State := s.modMe fun sl => { sl with phase := .parked, park := p }

/-- What a stop does: a trap is taken; a park leaves the rotation, or is the trap 0x0C of a codelet; a forfeit uses
the turn; a page fault enters page wait (R73, R77, R78, R101, R157). -/
def stop (s : State) : Stop → State
  | .trap c v => s.takeTrap s.cur c v
  | .park p v =>
    if s.me.codelet then s.takeTrap s.cur 0x0C v else (s.modMe fun sl => { sl with released := false }).parkMe p
  | .forfeit => s
  | .page va access reason level info => s.enterPageWait s.rights.ctx va access reason level info
  | .denied i va info => (s.walked s.here i va).takeTrap s.cur 0x05 info

/-- What follows an access that has been translated, whose walk stays made when a trap is taken: the heat update has gone out (R250). -/
def keepWalk (s : State) (r : Except Stop State) : Except Stop State :=
  match r with
  | .error (.trap c v) => .ok (s.takeTrap s.cur c v)
  | x => x

/-- The outcome of an instruction's body: its own state, or the stop it meets. -/
def finish (s : State) (r : Except Stop State) : Host.Outcome State Fault Refusal :=
  match r with
  | .ok s' => .next s'
  | .error e => .next (s.stop e)

end State

end Sys2Proof.Machine
end

