-- ==== Sys2Proof/Machine/Operands.lean ====
section
/-! DEFINITION. Register operands: the window check (R56), queue codes (R58, R197), the mailbox codes of slot 63 (R145),
reading every source at issue (R73) and writing a destination (R74, R75). -/
namespace Sys2Proof.Machine

/-- The number of the inbound queue of qn, 7 for none (R196). -/
def Slot.inQueue (sl : Slot) (n : Nat) : Nat := fld sl.binds (16 * n) 3
/-- The number of the outbound queue of qn, 7 for none (R196). -/
def Slot.outQueue (sl : Slot) (n : Nat) : Nat := fld sl.binds (16 * n + 8) 3
/-- qn is bound (R196). -/
def Slot.isBound (sl : Slot) (n : Nat) : Bool := bitAt sl.binds (16 * n + 15)
/-- The queue register that code v names in this slot: qn while it is bound (R58). -/
def Slot.queueOf (sl : Slot) (v : Nat) : Option Nat :=
  if 124 ≤ v ∧ v < 128 ∧ sl.isBound (v - 124) then some (v - 124) else none

/-- A RESUME on another core has undone the binding of qn (R198). -/
def Slot.lostBind (sl : Slot) (n : Nat) : Bool := bitAt sl.binds (16 * n + 14)
/-- Code v names a queue register whose binding a RESUME on another core has undone (R198). -/
def Slot.lost (sl : Slot) (v : Nat) : Bool := decide (124 ≤ v) && decide (v < 128) && sl.lostBind (v - 124)

namespace State

/-- A pipeline queue of a core (R195). -/
def pipe (s : State) (c n : Nat) : PipeQueue := Store.get {} (s.coreRec c).pipes n
/-- s with a pipeline queue changed. -/
def modPipe (s : State) (c n : Nat) (f : PipeQueue → PipeQueue) : State :=
  s.modCore c fun r => { r with pipes := Store.set {} r.pipes n (f (Store.get {} r.pipes n)) }

/-- Code v names a mailbox register of the issuing slot (R145). -/
def isMail (s : State) (v : Nat) : Bool := s.num == 63 && decide (120 ≤ v) && decide (v < 124)

/-- The check of one register code: inside the window, or a bound queue, or a mailbox register (R56, R58, R145). -/
def checkCode (s : State) (v : Nat) : Except Stop Unit :=
  if (s.me.queueOf v).isSome || s.isMail v || decide (v < s.me.limit) then .ok ()
  else if 124 ≤ v ∧ v < 128 then .error (.trap 0x09 (ofNat v))
  else .error (.trap 0x02 (ofNat v))

/-- Step 3 of R71 for a list of codes: the first that fails gives the trap, the sources in field order and then the destinations (log
entry 44, DESIGN CHOICE: the manual gives no order). -/
def checkCodes (s : State) : List Nat → Except Stop Unit
  | [] => .ok ()
  | v :: r => match s.checkCode v with
    | .ok _ => s.checkCodes r
    | .error e => .error e

/-- How often a list names the queue register qn. -/
def namings (s : State) (n : Nat) (l : List Nat) : Nat := countIf (fun v => s.me.queueOf v == some n) l

/-- A source without an inbound queue, or a destination without an outbound one, is the trap 0x01 (R197), and so is the code of a
binding that a RESUME on another core has undone (R198). -/
def checkQueues (s : State) (word : Word) (srcs dsts : List Nat) : Except Stop Unit :=
  if (srcs ++ dsts).any s.me.lost || srcs.any (fun v => match s.me.queueOf v with | some n => s.me.inQueue n == 7 | none => false) ||
    dsts.any (fun v => match s.me.queueOf v with | some n => s.me.outQueue n == 7 | none => false)
  then .error (.trap 0x01 word) else .ok ()

/-- The value of source v, whose earlier namings in the instruction are `before`; the stop it meets if it cannot be
read (R73, R197, R145). -/
def readSource (s : State) (all before : List Nat) (v : Nat) : Except Stop Word :=
  match s.me.queueOf v with
  | some n =>
    let q := s.me.inQueue n
    let es := (s.pipe s.here q).entries
    if es.length < s.namings n all then .error (.park (.queue q) (ofNat v))
    else .ok (es.getD (s.namings n before) 0)
  | none =>
    if s.isMail v then
      match (s.coreRec s.here).mailbox with
      | some m => .ok (if v = 120 then m.m0 else if v = 121 then m.m1 else if v = 122 then m.m2 else m.m3)
      | none => .error (.park .mailbox (ofNat v))
    else if s.regIsFull s.cur v then .ok (s.reg s.cur v)
    else .error (.park (.register v) (ofNat v))

/-- Every source of a list, in field order (R73, R197). -/
def readSources (s : State) (all : List Nat) : List Nat → List Nat → Except Stop (List Word)
  | _, [] => .ok []
  | before, v :: r => match s.readSource all before v with
    | .error e => .error e
    | .ok w => match s.readSources all (before ++ [v]) r with
      | .error e => .error e
      | .ok ws => .ok (w :: ws)

/-- Steps 3 and 4 of R71 for an instruction's registers, and the values of its sources. -/
def operands (s : State) (word : Word) (srcs dsts : List Nat) : Except Stop (List Word) :=
  match s.checkCodes (srcs ++ dsts) with
  | .error e => .error e
  | .ok _ => match s.checkQueues word srcs dsts with
    | .error e => .error e
    | .ok _ => s.readSources srcs [] srcs

/-- A run of registers that holds the code of a bound queue is the trap 0x01 (R58). -/
def checkRun (s : State) (word : Word) (codes : List Nat) : Except Stop Unit :=
  if codes.any fun v => (s.me.queueOf v).isSome then .error (.trap 0x01 word) else .ok ()

/-- As `operands`, where `run` names the sources that form a run or pair (R56, R58, R73). A bound queue's code in a run traps before any
source is read, so before the instruction can park (log entry 44, DESIGN CHOICE: R68 and R71 leave the order open). -/
def runOperands (s : State) (word : Word) (srcs run dsts : List Nat) : Except Stop (List Word) :=
  match s.checkCodes (srcs ++ dsts) with
  | .error e => .error e
  | .ok _ => match s.checkRun word run with
    | .error e => .error e
    | .ok _ => match s.checkQueues word srcs dsts with
      | .error e => .error e
      | .ok _ => s.readSources srcs [] srcs

/-- A destination can be written: no reply is awaited (R75), its outbound queue has room (R197). -/
def destReady (s : State) (d : Nat) : Except Stop Unit :=
  match s.me.queueOf d with
  | some n =>
    let q := s.pipe s.here (s.me.outQueue n)
    if q.entries.length + q.reserved < 16 then .ok () else .error .forfeit
  | none => if s.isMail d then .ok () else if s.awaits s.cur d then .error .forfeit else .ok ()

/-- One entry is pushed on a pipeline queue, waking a slot parked on it (R197). -/
def pushPipe (s : State) (c n : Nat) (w : Word) : State :=
  (s.modPipe c n fun q => { q with entries := q.entries ++ [w] }).wakeCore c (· == Park.queue n)

/-- The pops of an instruction that completes (R73, R197). -/
def consume (s : State) : List Nat → State
  | [] => s
  | v :: r => match s.me.queueOf v with
    | some n => (s.modPipe s.here (s.me.inQueue n) fun q => { q with entries := q.entries.drop 1 }).consume r
    | none => s.consume r

/-- A result goes to destination d: a window register, an outbound queue, or a mailbox register of slot 63, where code
120 finishes the request in service, unless a fault has ended it, and the others discard (R74, R145, R197). With no request in service a write to code 120 has
nothing to finish and is discarded (log entry 45, DESIGN CHOICE). -/
def writeDest (s : State) (d : Nat) (w : Word) : State :=
  match s.me.queueOf d with
  | some n => s.pushPipe s.here (s.me.outQueue n) w
  | none =>
    if s.isMail d then
      if d = 120 ∧ (s.coreRec s.here).mailbox.isSome then
        (s.modCore s.here fun r => { r with finishing := some (r.finishing.getD w) }).parkMe .mailbox
      else s
    else s.writeReg s.cur d w

/-- An instruction with a result completes in its turn. -/
def complete (s : State) (srcs : List Nat) (d : Nat) (w : Word) : State := ((s.consume srcs).advance).writeDest d w

/-- An instruction without a result completes in its turn. -/
def completeNone (s : State) (srcs : List Nat) : State := (s.consume srcs).advance

/-- A value that arrives for a pipeline queue; one that holds 16 entries loses it (R195; log entry 15, DEDUCED). -/
def pushReply (s : State) (c n : Nat) (w : Word) : State :=
  if (s.pipe c n).entries.length < 16 then s.pushPipe c n w else s

/-- The place kept on an outbound queue for a reply to code v of a thread is given up (R195). -/
def unreserve (s : State) (uid v : Nat) : State :=
  match s.thread uid, s.threadCore uid with
  | some sl, some c => match sl.queueOf v with
    | some n => s.modPipe c (sl.outQueue n) fun q => { q with reserved := q.reserved - 1 }
    | none => s
  | _, _ => s

/-- A value arrives for register v of a thread: a reply or a completion (R99, R197). A bound queue code takes it as a push, until its
binding ends (R198); a mailbox code of slot 63 takes it as a write (log entry 15, DEDUCED). A queue code whose binding has ended since
is a register of the window, or of none, and then the value is lost (R56; log entry 63, DESIGN CHOICE). -/
def arriveReg (s : State) (uid v : Nat) (w : Word) : State :=
  match s.thread uid, s.threadCore uid with
  | some sl, some c =>
    match sl.queueOf v with
    | some n => s.pushReply c (sl.outQueue n) w
    | none =>
      if 124 ≤ v ∧ sl.limit ≤ v then s else
      if 120 ≤ v ∧ v < 124 ∧ (s.findThread uid).any (· % 64 == 63) then
        if v = 120 ∧ (s.coreRec c).mailbox.isSome then s.modCore c fun r => { r with finishing := some (r.finishing.getD w) } else s
      else s.writeThreadReg uid v w
  | _, _ => s

/-- The reply to a load: the value, the full bit, the mark, and LD or ST (R99, R318). -/
def applyReply (s : State) (uid v : Nat) (w : Word) (st : Bool) : State :=
  (((s.unreserve uid v).arriveReg uid v w).modThreadCounters uid fun sl =>
    let a := sl.awaiting &&& ~~~(1#128 <<< v)
    if st then { sl with awaiting := a, st := sl.st - 1 } else { sl with awaiting := a, ld := sl.ld - 1 }).wakeThread uid
      (· == .replies)

/-- The issuing slot leaves the rotation until an agent answers operation op (R297, R257); the limit is captured from
WLIM when it applies (R298). -/
def waitFor (s : State) (op : Nat) (dst : Node) (info : Word) (limited barrier : Bool) (pops : List Nat) : State :=
  let w : Wait :=
    { op := op, dst := dst, info := info, start := (s.coreRec s.here).cycle
      limit := if limited then fld s.me.wlim 0 24 * 1024 else 0, barrier := barrier, pops := pops, slot := s.num }
  s.modMe fun sl => { sl with phase := .parked, park := .remote op, wait := some w }

/-- The pops of a thread's completed instruction (R73). -/
def popFor (s : State) (c : Nat) (sl : Slot) : List Nat → State
  | [] => s
  | v :: r => match sl.queueOf v with
    | some n => (s.modPipe c (sl.inQueue n) fun q => { q with entries := q.entries.drop 1 }).popFor c sl r
    | none => s.popFor c sl r

/-- A waiting thread's instruction completes: its pops, the next pc, and it rejoins (R297, R300). -/
def resumeThread (s : State) (uid : Nat) : State :=
  let s1 := match s.thread uid, s.threadCore uid with
    | some sl, some c => s.popFor c sl (match sl.wait with | some w => w.pops | none => [])
    | _, _ => s
  s1.modThread uid fun sl => { sl.advance with phase := .ready, park := .none, wait := none }

/-- A waiting thread issues its instruction again (R272, R282). -/
def retryThread (s : State) (uid : Nat) : State :=
  s.modThread uid fun sl => { sl with phase := .ready, park := .none, wait := none }

/-- The thread waits for operation op. -/
def waitsFor (s : State) (uid op : Nat) : Bool :=
  match s.thread uid with
  | some sl => sl.park == .remote op
  | none => false

/-- The register operation of one destination: check, read, compute, write (R73 to R76). -/
def compute (s : State) (word : Word) (srcs : List Nat) (d : Nat) (f : List Word → Word) : Except Stop State :=
  match s.operands word srcs [d] with
  | .error e => .error e
  | .ok vs => match s.destReady d with
    | .error e => .error e
    | .ok _ => .ok (s.complete srcs d (f vs))

end State

/-- The n-th operand value. -/
def arg (vs : List Word) (n : Nat) : Word := vs.getD n 0

end Sys2Proof.Machine
end

