-- ==== Sys2Proof/Machine/Net.lean ====
section
/-! DEFINITION. Requests and responses on the networks: quotas and frames (R267), credits (R270), response entries
(R271), requests to other packages (R273, R276, R402), and the events that move them. -/
namespace Sys2Proof.Machine

namespace State

/-! ## Frames and quotas (R267) -/

/-- The four networks a core injects into. -/
inductive Carrier where
  | omega | mesh | ucie | cell
  deriving DecidableEq, Repr

/-- The package cluster of a die-local cluster (R9). -/
def clusterOfDie (d j : Nat) : Nat := (d / 2 * 5 + j / 2) * 4 + d % 2 * 2 + j % 2

/-- The cluster whose router a node of die d attaches to: a die's gateway, and its UCIe ports, to that of die-local cluster 4 (R264). For
a memory-side queue and a launch controller, of which the rule says nothing, none (log entry 2, DESIGN CHOICE). -/
def attachedTo (d : Nat) : Node → Option Nat
  | .core t => some (clusterOf t)
  | .router k => some k
  | .gate _ | .pkg _ => some (clusterOfDie d 4)
  | _ => none

/-- A message from core c to a node of die d crosses a cluster mesh: its routers differ on the one die, or, to another die, that of its
side differs from the UCIe port's on either die (R264). -/
def crossesMesh (c d : Nat) (dst : Node) : Bool :=
  if dieOf c = d then attachedTo d dst != some (clusterOf c)
  else clusterOf c != clusterOfDie (dieOf c) 4 || attachedTo d dst != some (clusterOfDie d 4)

/-- The networks a message of context i from core c toward dst enters: the omega always, the mesh if it crosses one, a UCIe pair
to another die, and the gateway's cells to another package, of the die that serves the flow's link (R262, R264, R273). -/
def carriers (s : State) (i c : Nat) (dst : Node) : List Carrier :=
  let d := s.dieToward i (.core c) dst
  [.omega] ++ (if crossesMesh c d dst then [.mesh] else []) ++ (if dieOf c = d then [] else [.ucie])
    ++ (match dst with | .pkg _ => [.cell] | _ => [])

/-- The partition entry's word 2 that covers core c: that of a context not FREE whose partition holds it (R211); context 0 has no
partition of its own (R149). -/
def quotaWord (s : State) (c : Nat) : Word :=
  match s.ctxs.find? fun e => e.1 != 0 && e.2.state != 0 && s.inPartition e.1 c with
  | some e => e.2.entry2
  | none => 0

/-- The quota of a network: the partition's figure, or the default where that is 0; a default of 0 is 1 (R267, R269). -/
def quota (s : State) (c : Nat) : Carrier → Nat
  | .omega => let q := fld (s.quotaWord c) 0 8; if q ≠ 0 then q else max 1 (fld s.netCfg 16 8)
  | .mesh => let q := fld (s.quotaWord c) 8 8; if q ≠ 0 then q else max 1 (fld s.netCfg 24 8)
  | .ucie => let q := fld (s.quotaWord c) 16 8; if q ≠ 0 then q else max 1 (fld s.netCfg 32 8)
  | .cell => let q := fld (s.quotaWord c) 24 8; if q ≠ 0 then q else max 1 (fld s.netCfg 40 8)

/-- Flits spent on a network in the core's frame. -/
def spent (r : CoreRec) : Carrier → Nat
  | .omega => r.spentOmega
  | .mesh => r.spentMesh
  | .ucie => r.spentUcie
  | .cell => r.spentCell

/-- Flits spent on a network, set. -/
def setSpent (r : CoreRec) (n : Nat) : Carrier → CoreRec
  | .omega => { r with spentOmega := n }
  | .mesh => { r with spentMesh := n }
  | .ucie => { r with spentUcie := n }
  | .cell => { r with spentCell := n }

/-- The core's frame number is at least 7 ahead of its die's (R267). -/
def farAhead (s : State) (c : Nat) : Bool :=
  let a := ((s.coreRec c).frame + 16 - Store.get 0 s.dieFrame (dieOf c)) % 16
  a == 7

/-- The core can inject into every network of a list: no spent quota of theirs is held until the wave reaches the core (R267). -/
def canInject (s : State) (c : Nat) (l : List Carrier) : Bool :=
  l.all fun k => decide (spent (s.coreRec c) k < s.quota c k) || !(s.farAhead c || (s.coreRec c).stalled)

/-- n flits enter each network of a list: a quota that is spent advances the frame and is refilled; while the frame is 7 ahead it is
held (R267). -/
def inject (s : State) (c n : Nat) : List Carrier → State
  | [] => s
  | k :: r =>
    let m := spent (s.coreRec c) k + n
    let s' := if m < s.quota c k then s.modCore c fun x => setSpent x m k
      else if s.farAhead c then s.modCore c fun x => { setSpent x m k with stalled := true }
      else s.modCore c fun x => { setSpent x 0 k with frame := (x.frame + 1) % 16 }
    s'.inject c n r

/-- The issuing slot sends a message of context i toward dst that takes no credit, after which the state is t: its flits enter the
networks; where they cannot, the slot forfeits (R267, R77). -/
def sendFlits (s : State) (i : Nat) (dst : Node) (flits : Nat) (t : State) : Except Stop State :=
  let l := s.carriers i s.here dst
  if s.canInject s.here l then .ok (t.inject s.here flits l) else .error .forfeit

/-! ## Requests (R270) -/

/-- The issuing slot has a CALLAT to dst that was answered RETRY and is held (R272). -/
def holds (s : State) (dst : Node) : Bool := (s.coreRec s.here).held.any fun h => h.1.slot == s.num && h.1.dst == dst

/-- The issuing slot sends a request under the rights r: it takes a credit and its flits; without either, or behind a held CALLAT, it
forfeits (R270, R267, R272, R77). -/
def requestAs (s : State) (r : Rights) (dst : Node) (b : Body) : Except Stop State :=
  let k := clusterOf s.here
  let l := s.carriers r.ctx s.here dst
  if !s.creditFree k dst || !s.canInject s.here l || s.holds dst then .error .forfeit
  else .ok (((s.takeCredit k dst).send
    { id := 0, uid := s.me.uid, src := .core s.here, slot := s.num, dst := dst, ctx := r.ctx, sup := r.sup, credit := some (k, dst)
      body := b }).inject s.here b.flits l)

/-- The issuing slot sends a request under the rights it accesses memory with. -/
def request (s : State) (dst : Node) (b : Body) : Except Stop State := s.requestAs s.rights dst b

/-- The number that the next message gets. -/
def nextMsg (s : State) : Nat := s.nextId

/-- A package is unreachable from a core's die; every other one is, from a package whose links step 9 has not trained (R276, R397). -/
def isUnreachable (s : State) (c p : Nat) : Bool := !s.inPod || s.unreachable.contains (dieOf c * 64 + p)

/-- The answer the die's gateway gives to a request of core c when its package is unreachable, or when its answer has
come back with a cause (R276, R277, R172, R175, R241). -/
def abroadAnswer (what : Abroad) (cause : Nat) (data : List Word) : Body :=
  match what with
  | .store addr => .ack cause (if cause = 0 then 0 else addr)
  | .line dst name => .lineData dst data name cause
  | .deliver name origin => .delivered cause name origin
  | .barrier reg wait =>
    if cause ≠ 0 then .barrierAnswer reg 0x8000000000030000 wait false 0
    else if data.getD 3 0 = 0 then .barrierAnswer reg (data.headD 0) wait (data.getD 1 0 != 0) (data.getD 2 0)
    else .retry (if data.getD 3 0 = 1 then none else some (data.getD 4 0)) none
  | .engine code flags fin =>
    .engineAnswer (if cause ≠ 0 ∨ data.headD 0 ≠ 0 then code else none) (if cause = 0 ∧ data.getD 1 0 ≠ 0 then 0 else flags) fin
  | .copy => .copyAnswer cause ((data.drop 1).flatMap (fun w => (List.range 8).map fun i => fld w (8 * i) 8) |>.take (data.headD 0).toNat)
  | .revoke name reg => .revoked name reg (if cause = 0 then (data.headD 0).toNat else cause)
  | .migrant => .noticeAck 0
  | .join reg v => .joinAck reg v
  | .migrate addr => .migrateAnswer (if cause = 0 then (data.headD 0).toNat else cause) (data.getD 1 0).toNat (data.getD 2 0).toNat addr none
  | .home after addr =>
    .migrateAnswer (if cause = 0 then (data.headD 0).toNat else cause) (data.getD 1 0).toNat (data.getD 2 0).toNat addr (some after)

/-- What goes to another package on the response channel: a delivery (R173), and what R271 sends there. -/
def abroadResp (b : Body) : Bool :=
  match b with
  | .deliver _ _ _ | .migrant _ _ _ => true
  | _ => false

/-- A request of core c to package p is recorded and sent to the gateway; if the package is unreachable its answer is
the cause 0x0E (R276). A guest's record is sent all the same: it is no request, and goes once the package can be reached. -/
def sendAbroad (s : State) (c slot uid p : Nat) (r : Rights) (what : Abroad) (b : Body) : State :=
  if s.isUnreachable c p && what != .migrant then
    s.send { id := 0, uid := uid, src := .gate (dieOf c), slot := slot, dst := .core c, resp := true, ctx := r.ctx, sup := r.sup,
             body := abroadAnswer what 0x0E [] }
  else
    let o : Outstanding := { id := s.nextId, uid := uid, core := c, slot := slot, pkg := p, ctx := r.ctx, sup := r.sup, what := what }
    { s with outstanding := s.outstanding ++ [o] }.send
      { id := 0, uid := uid, src := .core c, slot := slot, dst := .pkg p, resp := abroadResp b, ctx := r.ctx, sup := r.sup, body := b }

/-- The issuing slot's request to another package under the rights r: it forfeits while its quotas do not admit it (R267). -/
def requestAbroadAs (s : State) (r : Rights) (p : Nat) (what : Abroad) (b : Body) : Except Stop State :=
  let l := s.carriers r.ctx s.here (.pkg p)
  if !s.canInject s.here l then .error .forfeit
  else .ok ((s.sendAbroad s.here s.num s.me.uid p r what b).inject s.here b.flits l)

/-- The issuing slot's request to another package under the rights it accesses memory with. -/
def requestAbroad (s : State) (p : Nat) (what : Abroad) (b : Body) : Except Stop State := s.requestAbroadAs s.rights p what b

/-- Requests to other packages, by number, are withdrawn: what is left of them in this package goes no further. -/
def withdraw (s : State) (ids : List Nat) : State :=
  { s with net := s.net.filter fun x => !(ids.contains x.id && (match x.dst with | .pkg _ => true | _ => false))
           sent := s.sent.filter fun e => !ids.contains e.msg.id, outstanding := s.outstanding.filter fun o => !ids.contains o.id }

/-- The answer of the gateway to a request of this package (R276, R402). -/
def answerOutstanding (s : State) (o : Outstanding) (cause : Nat) (data : List Word) : State :=
  s.sendAs { id := o.id, uid := o.uid, src := .gate (dieOf o.core), slot := o.slot, dst := .core o.core, resp := true, ctx := o.ctx, sup := o.sup
             body := abroadAnswer o.what cause data }

/-- Outstanding requests fail: they are withdrawn, and each is answered with cause 0x0E (R276, R241). -/
def failAbroad (s : State) (fails : Outstanding → Bool) : State :=
  let l := s.outstanding.filter fails
  l.foldl (fun x o => x.answerOutstanding o 0x0E []) (s.withdraw (l.map (·.id)))

/-- Register d of the issuing slot awaits a reply; an outbound queue keeps a place for it (R195, R197), a mailbox code does not
(R99, R145). -/
def awaitDest (s : State) (d : Nat) : State :=
  match s.me.queueOf d with
  | some n => s.modPipe s.here (s.me.outQueue n) fun q => { q with reserved := q.reserved + 1 }
  | none => if s.isMail d then s else s.markAwaiting s.cur d

/-! ## The wait stores (R272) -/

/-- The agent keeps a wait store, and it has room. -/
def waitRoom (s : State) (c : Nat) : Bool := decide ((s.coreRec c).waiting.length < Config.coreWaitStore)

/-- A request moves into core c's wait store: its credit goes back on the response channel and its response entry is
released (R272). -/
def moveToWait (s : State) (c : Nat) (m : Msg) : State :=
  let s1 := (s.dropMsg m.id).modCore c fun r =>
    { r with waiting := r.waiting ++ [{ m with credit := none, started := false }], entries := r.entries - boolNat m.started }
  match m.credit with
  | some k => s1.send { id := 0, src := m.dst, dst := m.src, slot := 64, resp := true, credit := some k, body := .credit }
  | none => s1

/-- A message is replaced in place. -/
def setMsg (s : State) (m : Msg) : State := { s with net := s.net.map fun x => if x.id = m.id then m else x }

end State

/-! ## Events -/

/-- A request that takes a credit, that is, one that holds a buffer slot until it is performed (R270). -/
def Msg.isRequest (m : Msg) : Bool := m.credit.isSome && !m.resp

/-- REQUEST_START (R271): a buffered request, next in its stream, reserves an entry of the response queue of 16. Agents
other than cores and memory-side queues have no such limit. -/
def startRequest (m : Nat) (s : State) : State :=
  match s.arrived m with
  | some x =>
    if x.isRequest && !x.started && decide (s.entriesAt x.dst < Config.responseEntries) then
      (({ s with cores := s.coresReached m } : State).setMsg { x with started := true }).setEntries (s.entriesAt x.dst + 1) x.dst
    else s
  | none => s

/-- REQUEST_START (R271). -/
def execRequestStart (m : Nat) (s : State) : Host.Outcome State Fault Refusal := .next (startRequest m s)

/-- CREDIT_RETURN (R380, R270): the source cluster's router takes the credit back as the response passes it, and the
response has left its queue. -/
def returnCredit (m : Nat) (s : State) : State :=
  match s.findMsg m with
  | some x =>
    if x.resp && (x.credit.isSome || x.started) then
      let s1 := match x.credit with
        | some k => s.freeCredit k.1 k.2
        | none => s
      let s2 := if x.started then s1.setEntries (s1.entriesAt x.src - 1) x.src else s1
      if x.body = .credit then s2.dropMsg m else s2.setMsg { x with credit := none, started := false }
    else s
  | none => s

/-- A response that has arrived: it has left its queue, and its router has taken the credit (R271, R380). -/
def State.response (s : State) (m : Nat) : Option Msg :=
  match s.arrived m with
  | some x => if x.resp && x.credit.isNone && !x.started then some x else none
  | none => none

/-- A request that may be performed: next in its stream, and started if it takes a credit (R271). -/
def State.performable (s : State) (m : Nat) : Option Msg :=
  match s.arrived m with
  | some x => if !x.resp && (x.started || x.credit.isNone) then some x else none
  | none => none

/-- One step of the frame-close wave at a core (R267): a core behind F takes F and refills; a core whose quota was held refills it and
advances, unless its frame is still 7 ahead. -/
def waveAtCore (f c : Nat) (s : State) : State :=
  let r := s.coreRec c
  let behind := (f + 16 - r.frame) % 16
  if 1 ≤ behind ∧ behind ≤ 7 then
    s.setCore c { r with frame := f, spentOmega := 0, spentMesh := 0, spentUcie := 0, spentCell := 0, stalled := false }
  else if s.farAhead c then s
  else [State.Carrier.omega, .mesh, .ucie, .cell].foldl (fun x k =>
    if x.quota c k ≤ State.spent (x.coreRec c) k ∧ !x.farAhead c then
      x.modCore c fun y => { State.setSpent y 0 k with frame := (y.frame + 1) % 16 }
    else x) (s.setCore c { r with stalled := false })

/-- The die's routers in its own snake order: position i of ten (R267, R10). -/
def routerSnake (i : Nat) : Nat := if i / 2 % 2 = 0 then i else i / 2 * 2 + (1 - i % 2)

/-- FRAME_CLOSE_WAVE (R267): the wave of die d reaches its next cluster router; after the tenth, F grows by 1. -/
def closeWave (d : Nat) (s : State) : State :=
  if 4 ≤ d then s else
  let i := Store.get 0 s.waveAt d
  let f := Store.get 0 s.dieFrame d
  let k := State.clusterOfDie d (routerSnake i)
  let s1 := (List.range 32).foldl (fun x p => waveAtCore f (coreOfSnake k p) x) s
  if i + 1 < 10 then { s1 with waveAt := Store.set 0 s1.waveAt d (i + 1) }
  else { s1 with waveAt := Store.set 0 s1.waveAt d 0, dieFrame := Store.set 0 s1.dieFrame d ((f + 1) % 16) }

/-- FRAME_CLOSE_WAVE (R267). -/
def execFrameCloseWave (d : Nat) (s : State) : Host.Outcome State Fault Refusal := .next (closeWave d s)

end Sys2Proof.Machine
end

