-- ==== Sys2Proof/Machine/LoadStore.lean ====
section
/-! DEFINITION. Loads and stores (R92 to R103), and the events that perform and answer them (R99, R100, R105). -/
namespace Sys2Proof.Machine

/-- The size in bytes of a size field (R54). -/
def sizeOf2 (size : BitVec 2) : Nat := 2 ^ size.toNat

/-- A value of n bytes, sign- or zero-extended (R97). -/
def extend (sx : Bool) (n v : Nat) : Word := if sx then ofInt (signed v (8 * n)) else ofNat v

namespace State

/-- The status of the copy in service on core c is set (R145). -/
def copyStatus (s : State) (c : Nat) (status : Nat) : State := s.modCore c fun r => { r with finishing := some (ofNat status) }

/-- The copy in service fails with a cause at an operand (R138); op: 0 COPY, 1 COPYR, 2 COPYM. -/
def copyFail (s : State) (c op cause operand : Nat) : State := s.copyStatus c (cause * 256 + operand * 16 + 12 + op)

/-- The core and the copy in service of a thread that is its slot 63 (R145). -/
def moverOf (s : State) (uid : Nat) : Option (Nat × CopyReq) :=
  match s.findThread uid with
  | some t => if t % 64 = 63 then (s.coreRec (t / 64)).mailbox.map fun q => (t / 64, q) else none
  | none => none

/-- A fault falls due for a thread after its instruction issued: in slot 63 with a copy in service it ends the request at that operand,
and a slot that is READY goes on with the next request (R145; log entry 17, DEDUCED); else the trap becomes what t makes of it. -/
def lateFault (s : State) (uid cause operand : Nat) (t : State → State) : State :=
  match s.moverOf uid with
  | some (c, q) => (s.copyFail c q.op cause operand).modThread uid fun sl =>
      if sl.phase = .ready then { sl with phase := .parked, park := .mailbox } else sl
  | none => t s

/-- A fault of a memory access: in slot 63 with a copy in service it ends the request with the code of R138 instead of a
trap, and the slot goes on after the instruction (R145; log entry 17, DEDUCED). operand: 5 source, 6 destination. -/
def memStop (s : State) (operand : Nat) (e : Stop) : Except Stop State :=
  let ends (x : State) (q : CopyReq) (c : Nat) : State := ((x.copyFail s.here q.op c operand).advance).parkMe .mailbox
  match (if s.num = 63 then (s.coreRec s.here).mailbox else none), e with
  | some q, .trap c _ => .ok (ends s q c)
  | some q, .denied i va _ => .ok (ends (s.walked s.here i va) q 0x05)
  | _, _ => .error e

/-- The names of the issuing core that are LIVE for a slot: those of its registers, and sinks (R282, R169). -/
def liveNames (s : State) (c n : Nat) : List (Nat × NameEntry) :=
  s.names.filter fun e => e.1 / 512 == c && (match e.2.state with | .live slot _ => slot == n | _ => false)

/-- The issuing guest asks its origin core for a slot; it goes on there after the instruction, or issues it again (R285,
R284). -/
def askHome (s : State) (after : Bool) (addr : Word) : Except Stop State :=
  let sl := s.me
  if sl.ld + sl.st + sl.tl + sl.cp ≠ 0 then .error .forfeit
  else
    match s.requestAbroad sl.originPkg (.home after addr) (.homeAsk sl.originCore) with
    | .error e => .error e
    | .ok s1 => .ok (s1.waitFor s.nextId (.pkg sl.originPkg) addr false false [])

/-- A fabric load of its origin package takes a guest home (R284). -/
def loadHome (s : State) (addr : Word) : Except Stop State :=
  match s.askHome false addr with
  | .error e => .error e
  | .ok s1 => .ok (s1.touch (touchFabric s.me.originPkg))

/-- A fabric load of package p (R102, R282, R284): a thread that cannot migrate traps 0x0F; a guest's load of its origin
package goes home; a migratable one waits until its counters are 0 and asks the target package for a guest slot, out of the
rotation until the answer (log entry 18, DEDUCED). The load that so issues sets its TOUCH bit (R103), which stays set if the target
refuses (log entry 55, DESIGN CHOICE). -/
def migrateLoad (s : State) (p : Nat) (addr : Word) : Except Stop State :=
  let sl := s.me
  if !sl.mig then .error (.trap 0x0F addr)
  else if sl.guest && sl.originPkg == p then s.loadHome addr
  else if sl.ld + sl.st + sl.tl + sl.cp ≠ 0 then .error .forfeit
  else if sl.intrap || (List.range 8).any (fun i => Store.get 0 sl.ptrs i != 0) || (List.range 4).any sl.isBound
      || decide (4 < (s.liveNames s.here s.num).length + sl.carried.length) then .error (.trap 0x0F addr)
  else if s.isUnreachable s.here p then .error (.trap 0x0E addr)
  else
    match s.requestAbroad p (.migrate addr) (.migrateAsk addr) with
    | .error e => .error e
    | .ok s1 => .ok ((s1.waitFor s.nextId (.pkg p) addr false false []).touch (touchFabric p))

end State

/-- The posted or awaited part of a load once its key is known: local, or remote with the counter, the mark and TOUCH
(R95, R98, R99, R103). -/
def loadAt (s : State) (srcs : List Nat) (d key n : Nat) (sx : Bool) : Except Stop State :=
  match s.destReady d with
  | .error e => .error e
  | .ok _ =>
    if keyNode key = .core s.here then .ok (s.complete srcs d (extend sx n (s.read key n)))
    else if 63 ≤ s.me.ld then .error .forfeit
    else match s.request (keyNode key) (.load key n sx d) with
      | .error e => .error e
      | .ok s1 =>
        .ok ((((((s1.touch (State.touchBit key)).modMe fun sl => { sl with ld := sl.ld + 1 }).consume srcs).awaitDest d)).advance)

/-- LD and LDZ (R92, R93, R97). -/
def load (word : Word) (d a : RegCode) (size : BitVec 2) (off : BitVec 10) (sx : Bool) (s : State) : Except Stop State :=
  match s.operands word [a.toNat] [d.toNat] with
  | .error e => .error e
  | .ok vs =>
    let n := sizeOf2 size
    let addr := arg vs 0 + imm off * ofNat n
    match s.resolve s.here s.rights addr n with
    | .error e => s.memStop 5 e
    | .ok (.spad c o) => loadAt s [a.toNat] d.toNat (spadKey c o) n sx
    | .ok (.bulk va) => match s.bulkAccess s.here s.rights va 0 with
      | .error e => s.memStop 5 e
      | .ok (key, s1) => loadAt s1 [a.toNat] d.toNat key n sx
    | .ok (.fabric p addr) => match s.migrateLoad p addr with
      | .error e => s.memStop 5 e
      | .ok s1 => .ok s1

/-- LD (R97). -/
def execLd (d a : RegCode) (size : BitVec 2) (off : BitVec 10) (s : State) : Host.Outcome State Fault Refusal :=
  s.finish (load (Instr.ld d a size off).word d a size off true s)

/-- LDZ (R97). -/
def execLdz (d a : RegCode) (size : BitVec 2) (off : BitVec 10) (s : State) : Host.Outcome State Fault Refusal :=
  s.finish (load (Instr.ldz d a size off).word d a size off false s)

/-- A posted request of the issuing slot: ST counts it, TOUCH marks it, and the slot goes on (R98, R100, R103). -/
def post (s : State) (srcs : List Nat) (key : Nat) (b : Body) : Except Stop State :=
  if 63 ≤ s.me.st then .error .forfeit
  else match s.request (keyNode key) b with
    | .error e => .error e
    | .ok s1 =>
      .ok (((s1.touch (State.touchBit key)).modMe fun sl => { sl with st := sl.st + 1 }).completeNone srcs)

/-- A store once its key is known (R95, R98, R100). -/
def storeAt (s : State) (srcs : List Nat) (key n : Nat) (v : Word) : Except Stop State :=
  if keyNode key = .core s.here then .ok ((s.store key n v.toNat).completeNone srcs)
  else post s srcs key (.store key n v)

/-- A posted write of a fabric store (R102, R98, R103). -/
def postAbroad (s : State) (srcs : List Nat) (p : Nat) (addr : Word) (n : Nat) (v : Word) : Except Stop State :=
  if 63 ≤ s.me.st then .error .forfeit
  else match s.requestAbroad p (.store addr) (.fabric addr (.store n v)) with
    | .error e => .error e
    | .ok s1 =>
      .ok (((s1.touch (State.touchFabric p)).modMe fun sl => { sl with st := sl.st + 1 }).completeNone srcs)

/-- ST (R92, R93, R97). The stored register is d. -/
def store (word : Word) (d a : RegCode) (size : BitVec 2) (off : BitVec 10) (s : State) : Except Stop State :=
  match s.operands word [a.toNat, d.toNat] [] with
  | .error e => .error e
  | .ok vs =>
    let n := sizeOf2 size
    let addr := arg vs 0 + imm off * ofNat n
    let srcs := [a.toNat, d.toNat]
    match s.resolve s.here s.rights addr n with
    | .error e => s.memStop 6 e
    | .ok (.spad c o) => storeAt s srcs (spadKey c o) n (arg vs 1)
    | .ok (.bulk va) => match s.bulkAccess s.here s.rights va 1 with
      | .error e => s.memStop 6 e
      | .ok (key, s1) => storeAt s1 srcs key n (arg vs 1)
    | .ok (.fabric p addr) => postAbroad s srcs p addr n (arg vs 1)

/-- ST (R97). -/
def execSt (d a : RegCode) (size : BitVec 2) (off : BitVec 10) (s : State) : Host.Outcome State Fault Refusal :=
  s.finish (store (Instr.st d a size off).word d a size off s)

/-! ## Events -/

/-- INBOUND_REQUEST (R105, R381): a remote load, store or line load is performed at its bank or channel. -/
def inbound (m : Nat) (s : State) : State :=
  match s.performable m with
  | some x => match x.body with
    | .load key n sx reg => s.respond x (.value reg (extend sx n (s.read key n)) false false)
    | .store key n v => (s.store key n v.toNat).respond x (.ack 0 0)
    | .line key dst name => s.respond x (.lineData dst (s.readWords key 16) name 0)
    | _ => s
  | none => s

/-- INBOUND_REQUEST (R105). -/
def execInboundRequest (m : Nat) (s : State) : Host.Outcome State Fault Refusal := .next (inbound m s)

/-- LOAD_REPLY (R99, R318): the reply writes its register, clears the mark, decrements its counter and wakes. -/
def loadReply (m : Nat) (s : State) : State :=
  match s.response m with
  | some x => match x.body with
    | .value reg v st wake =>
      let s1 := (s.dropMsg m).applyReply x.uid reg v st
      if wake && s1.waitsFor x.uid m then s1.retryThread x.uid else s1
    | _ => s
  | none => s

/-- LOAD_REPLY (R99). -/
def execLoadReply (m : Nat) (s : State) : Host.Outcome State Fault Refusal := .next (loadReply m s)

/-- STORE_ACK (R100, R277): the acknowledgement decrements ST; a failure becomes a boundary trap, or ends the copy in service (R145). -/
def storeAck (m : Nat) (s : State) : State :=
  match s.response m with
  | some x => match x.body with
    | .ack cause info =>
      let s1 := (s.dropMsg m).modThreadCounters x.uid fun sl => { sl with st := sl.st - 1 }
      if cause = 0 then s1 else s1.lateFault x.uid cause 6 fun y => y.pendThread x.uid cause info
    | _ => s
  | none => s

/-- STORE_ACK (R100). -/
def execStoreAck (m : Nat) (s : State) : Host.Outcome State Fault Refusal := .next (storeAck m s)

end Sys2Proof.Machine
end

