-- ==== Sys2Proof/Machine/Fence.lean ====
section
/-! DEFINITION. Releases in the probe form (R315), FENCE (R316), and the waits on counters and tokens (R304 to R306). -/
namespace Sys2Proof.Machine

/-- A scope of a release (R314): a level, or a rectangle. -/
inductive Scope where
  | core | clu | die | pkg | pod
  | rect (r : Rect)
  deriving DecidableEq, Repr

/-- The level scope of an sc field (R63). -/
def scopeOf (sc : BitVec 3) : Scope :=
  match sc.toNat with
  | 0 => .core
  | 1 => .clu
  | 2 => .die
  | 3 => .pkg
  | _ => .pod

/-- Core t lies inside the scope S of core c (R314). -/
def Scope.holds (S : Scope) (c t : Nat) : Bool :=
  match S with
  | .core => t == c
  | .clu => clusterOf t == clusterOf c
  | .die => dieOf t == dieOf c
  | .pkg | .pod => true
  | .rect r => r.holds t

/-- The destinations inside S of a TOUCH bit, for a thread of core c, and whether S holds all of them (R314, R315). -/
def probeOf (S : Scope) (c b : Nat) : List (Node × Nat) × Bool :=
  if b < 40 then
    match S with
    | .core => ([], false)
    | _ =>
      let inside := ((List.range 32).map (coreOfSnake b)).filter (S.holds c)
      (inside.map fun t => (Node.core t, 0), inside.length == 32)
  else if b < 56 then
    let g := b - 40
    match S with
    | .die => if g / 4 = dieOf c then ([(.chan g, 0)], true) else ([], false)
    | .pkg | .pod => ([(.chan g, 0)], true)
    | _ => ([], false)
  else match S with
    | .pod => ([(.gate (dieOf c), b - 56)], true)
    | _ => ([], false)

namespace State

/-- The TOUCH bits of the issuing slot that a release of scope S probes. -/
def probeBits (s : State) (S : Scope) : List Nat :=
  (List.range 64).filter fun b => bitAt s.me.touch b && !(probeOf S s.here b).1.isEmpty

/-- The echoes of a release (R315); an off-line core holds no request and gets none. -/
def probeEchoes (s : State) (S : Scope) : List (Node × Nat) :=
  (s.probeBits S).flatMap fun b => (probeOf S s.here b).1.filter fun e =>
    match e.1 with
    | .core t => !s.isOffline t
    | _ => true

/-- The bits that are cleared once every echo is answered: those whose destinations all lie inside S (R315). -/
def probeCleared (s : State) (S : Scope) : Word :=
  (s.probeBits S).foldl (fun w b => if (probeOf S s.here b).2 then w ||| (1#64 <<< b) else w) 0

/-- Echoes are sent on the request channel, behind the slot's requests (R315). -/
def sendEchoes (s : State) : List (Node × Nat) → State
  | [] => s
  | e :: r =>
    (s.send { id := 0, uid := s.me.uid, src := .core s.here, slot := s.num, dst := e.1, ctx := s.me.ctx, sup := s.me.mode != 0, body := .echo e.2 }).sendEchoes r

/-- The release of scope S in its probe form, at an instruction that reports `info` for a codelet that would park
(R315). none: it is complete, and the instruction goes on; some: the slot is parked until its echoes are answered. -/
def release (s : State) (S : Scope) (info : Word) : Except Stop (Option State) :=
  let es := s.probeEchoes S
  if s.me.released || es.isEmpty then .ok none
  else if s.me.codelet then .error (.trap 0x0C info)
  else
    let clr := s.probeCleared S
    .ok (some (((s.sendEchoes es).modMe fun sl => { sl with echoes := es.length, probed := clr }).parkMe .echoes))

end State

/-- FENCE's body after its scope is known (R316). -/
def fenceAt (word : Word) (srcs : List Nat) (kind : BitVec 2) (S : Scope) (s : State) : Except Stop State :=
  match (if kind.getLsbD 1 then s.release S word else .ok none) with
  | .error e => .error e
  | .ok (some s1) => .ok s1
  | .ok none =>
    if kind.getLsbD 0 && s.me.awaiting != 0 then
      if s.me.codelet then .error (.trap 0x0C word) else .ok (s.parkMe .replies)
    else .ok (s.completeNone srcs)

/-- FENCE (R316). -/
def fence (word : Word) (d : RegCode) (kind : BitVec 2) (sc : BitVec 3) (s : State) : Except Stop State :=
  if sc = 5 then
    match s.operands word [d.toNat] [] with
    | .error e => .error e
    | .ok vs => match State.resolveRect s.here (arg vs 0) word with
      | .error e => .error e
      | .ok r => fenceAt word [d.toNat] kind (.rect r) s
  else fenceAt word [] kind (scopeOf sc) s

/-- FENCE (R316). -/
def execFence (d : RegCode) (kind : BitVec 2) (sc : BitVec 3) (s : State) : Host.Outcome State Fault Refusal :=
  s.finish (fence (Instr.fence d kind sc).word d kind sc s)

/-- The counters of a slot are within the operands of a WAITC; 7 admits any (R304). -/
def waitcDone (sl : Slot) (tl cp st ld : BitVec 3) : Bool :=
  (ld == 7 || decide (sl.ld ≤ ld.toNat)) && (st == 7 || decide (sl.st ≤ st.toNat)) &&
  (cp == 7 || decide (sl.cp ≤ cp.toNat)) && (tl == 7 || decide (sl.tl ≤ tl.toNat))

/-- WAITC (R304): the park is reconsidered at each change of the counters (R306). With TL at 0 the thread sees its tile commands over
(R132). -/
def execWaitc (tl cp st ld : BitVec 3) (s : State) : Host.Outcome State Fault Refusal :=
  s.finish (if waitcDone s.me tl cp st ld then .ok ((s.seeTiles fun _ => tl == 0).completeNone [])
    else .error (.park .counters (Instr.waitc tl cp st ld).word))

/-- WAITK (R305): the thread sees the commands of its tokens over (R132). -/
def execWaitk (mask : BitVec 8) (s : State) : Host.Outcome State Fault Refusal :=
  s.finish (if s.me.tok &&& mask = 0 then .ok ((s.seeTiles fun q => mask.getLsbD q.k).completeNone [])
    else .error (.park .tokens (Instr.waitk mask).word))

/-! ## Events -/

/-- The agent may answer an echo: every request of the slot that arrived before it has been performed; at a gateway, no
request of the slot to a package of the class awaits an answer (R315). -/
def echoReady (s : State) (x : Msg) (cls : Nat) : Bool :=
  match x.dst, x.src with
  | .core c, _ => !(s.coreRec c).waiting.any fun w => w.src == x.src && w.slot == x.slot
  | .gate _, .core c => !s.outstanding.any fun o => o.core == c && o.slot == x.slot && o.pkg % 8 == cls
  | _, _ => true

/-- ECHO (R315). -/
def echoAt (m : Nat) (s : State) : State :=
  match s.performable m with
  | some x => match x.body with
    | .echo cls => if echoReady s x cls then s.respond x .echoAnswer else s
    | _ => s
  | none => s

/-- ECHO (R315). -/
def execEcho (m : Nat) (s : State) : Host.Outcome State Fault Refusal := .next (echoAt m s)

/-- ECHO_ANSWER (R315): the last answer completes the release and clears the covered TOUCH bits. -/
def echoAnswer (m : Nat) (s : State) : State :=
  match s.response m with
  | some x => match x.body with
    | .echoAnswer =>
      (s.dropMsg m).modThread x.uid fun sl =>
        if sl.echoes ≤ 1 then
          if sl.park = .echoes ∧ sl.phase = .parked then
            { sl with echoes := 0, touch := sl.touch &&& ~~~sl.probed, probed := 0, released := true, phase := .ready, park := .none }
          else { sl with echoes := 0, touch := sl.touch &&& ~~~sl.probed, probed := 0, released := true }
        else { sl with echoes := sl.echoes - 1 }
    | _ => s
  | none => s

/-- ECHO_ANSWER (R315). -/
def execEchoAnswer (m : Nat) (s : State) : Host.Outcome State Fault Refusal := .next (echoAnswer m s)

end Sys2Proof.Machine
end

