-- ==== Sys2Proof/Machine/FullEmpty.lean ====
section
/-! DEFINITION. The full/empty operations (R292 to R302), and the events of their remote waits. -/
namespace Sys2Proof.Machine

/-- The operation can complete on a word with this full bit (R292). -/
def FeOp.can (op : FeOp) (full : Bool) : Bool :=
  match op with
  | .lds | .ldf => full
  | .sts => !full
  | .stf | .empty => true

/-- The operation reads a value (LDS, LDF). -/
def FeOp.reads : FeOp → Bool
  | .lds | .ldf => true
  | _ => false

/-- The operation waits for an answer when it is remote (R295). -/
def FeOp.waits : FeOp → Bool
  | .lds | .ldf | .sts => true
  | _ => false

/-- The one step of an operation at the bank (R292, R294): data and full bit. -/
def State.feApply (s : State) (op : FeOp) (key : Nat) (v : Word) : State :=
  match op with
  | .lds => s.setFull key false
  | .ldf => s
  | .sts | .stf => (s.store64 key v).setFull key true
  | .empty => s.setFull key false

/-- resolve_fe(g[a]) of R293. -/
def State.resolveFe (s : State) (a : Word) : Except Stop (Nat × Nat) :=
  match s.resolve s.here s.rights a 8 with
  | .error (.trap c _) => .error (.trap c a)
  | .error e => .error e
  | .ok (.spad c o) => .ok (c, o)
  | .ok _ => .error (.trap 0x04 a)

/-- A full/empty operation once its word is known and its release done (R294, R295). -/
def feAt (s : State) (op : FeOp) (srcs : List Nat) (d : Nat) (a v : Word) (c o : Nat) : Except Stop State :=
  let key := spadKey c o
  match (if op.reads then s.destReady d else .ok ()) with
  | .error e => .error e
  | .ok _ =>
    if c = s.here then
      if op.can (s.isFull key) then
        let s1 := s.feApply op key v
        if op.reads then .ok (s1.complete srcs d (s.read64 key)) else .ok (s1.completeNone srcs)
      else .error (.park (.word key) a)
    else if op.waits then
      match s.request (.core c) (.fe op key v d a) with
      | .error e => .error e
      | .ok s1 => .ok ((s1.touch (State.touchBit key)).waitFor s.nextId (.core c) a true false srcs)
    else post s srcs key (.fe op key v d a)

/-- A full/empty operation (R294): sources, resolution, the codelet's trap (R301), the release (R317), the step. -/
def fe (word : Word) (op : FeOp) (srcs dsts : List Nat) (ord : BitVec 2) (sc : BitVec 3) (s : State) : Except Stop State :=
  match s.operands word srcs dsts with
  | .error e => .error e
  | .ok vs =>
    let a := arg vs 0
    match s.resolveFe a with
    | .error e => s.memStop (if op.reads then 5 else 6) e
    | .ok (c, o) =>
      if op.waits && decide (c ≠ s.here) && s.me.codelet then .error (.trap 0x0C a)
      else match (if ord.getLsbD 1 then s.release (scopeOf sc) a else .ok none) with
        | .error e => .error e
        | .ok (some s1) => .ok s1
        | .ok none => feAt s op srcs (dsts.headD 0) a (arg vs 1) c o

/-- LDS (R294). -/
def execLds (d a : RegCode) (ord : BitVec 2) (sc : BitVec 3) (s : State) : Host.Outcome State Fault Refusal :=
  s.finish (fe (Instr.lds d a ord sc).word .lds [a.toNat] [d.toNat] ord sc s)

/-- LDF (R294). -/
def execLdf (d a : RegCode) (ord : BitVec 2) (sc : BitVec 3) (s : State) : Host.Outcome State Fault Refusal :=
  s.finish (fe (Instr.ldf d a ord sc).word .ldf [a.toNat] [d.toNat] ord sc s)

/-- STS (R294). -/
def execSts (d a : RegCode) (ord : BitVec 2) (sc : BitVec 3) (s : State) : Host.Outcome State Fault Refusal :=
  s.finish (fe (Instr.sts d a ord sc).word .sts [a.toNat, d.toNat] [] ord sc s)

/-- STF (R294). -/
def execStf (d a : RegCode) (ord : BitVec 2) (sc : BitVec 3) (s : State) : Host.Outcome State Fault Refusal :=
  s.finish (fe (Instr.stf d a ord sc).word .stf [a.toNat, d.toNat] [] ord sc s)

/-- EMPTY (R294). -/
def execEmpty (a : RegCode) (ord : BitVec 2) (sc : BitVec 3) (s : State) : Host.Outcome State Fault Refusal :=
  s.finish (fe (Instr.empty a ord sc).word .empty [a.toNat] [] ord sc s)

/-! ## Events -/

/-- The answer to an applied operation: the value, the acknowledgement of an STS, or that of a posted write (R297). -/
def feReply (s : State) (op : FeOp) (key reg : Nat) : Body :=
  if op.reads then .feAnswer reg (some (s.read64 key)) else if op.waits then .feAnswer reg none else .ack 0 0

/-- FE_REMOTE_REQUEST (R297, R272): the step at the owner; if it cannot complete, the wait store, or RETRY if that is
full. -/
def feRemote (m : Nat) (s : State) : State :=
  match s.performable m with
  | some x => match x.body with
    | .fe op key v reg _ =>
      if op.can (s.isFull key) then (s.feApply op key v).respond x (feReply s op key reg)
      else if s.waitRoom (keyCore key) then s.moveToWait (keyCore key) x
      else s.respond x (.retry none none)
    | _ => s
  | none => s

/-- FE_REMOTE_REQUEST (R297). -/
def execFeRemoteRequest (m : Nat) (s : State) : Host.Outcome State Fault Refusal := .next (feRemote m s)

/-- A waiting request parked on the word of a key. -/
def waitsOnWord (key : Nat) (x : Msg) : Bool :=
  match x.body with
  | .fe _ k _ _ _ => k == key
  | _ => false

/-- A full/empty request of core c's wait store is served: it is the first on its word, it can complete, and a response
entry is reserved for it (R297, R272). -/
def feServe (c : Nat) (x : Msg) (s : State) : State :=
  match x.body with
  | .fe op key v reg _ =>
    if ((s.coreRec c).waiting.find? (waitsOnWord key)).any (·.id == x.id) && op.can (s.isFull key)
        && decide ((s.coreRec c).entries < Config.responseEntries) then
      ((s.modCore c fun r =>
        { r with waiting := r.waiting.filter (·.id != x.id), entries := r.entries + 1 }).feApply op key v).sendAs
        { x with src := x.dst, dst := x.src, resp := true, started := true, body := feReply s op key reg }
    else s
  | _ => s

/-- FE_ANSWER (R297): the value goes to g[d], or the STS is acknowledged, and the thread rejoins after the operation. -/
def feAnswer (m : Nat) (s : State) : State :=
  match s.response m with
  | some x => match x.body with
    | .feAnswer reg v =>
      let s1 := (s.dropMsg m)
      if s1.waitsFor x.uid m then
        let s2 := match v with
          | some w => s1.arriveReg x.uid reg w
          | none => s1
        s2.resumeThread x.uid
      else s1
    | _ => s
  | none => s

/-- FE_ANSWER (R297). -/
def execFeAnswer (m : Nat) (s : State) : Host.Outcome State Fault Refusal := .next (feAnswer m s)

/-- A wait of thread u has passed its limit, no cancel has gone out, and its core issues: while DBGSTOP holds the core the limit is not
taken (R299, R240, R393). -/
def waitExpired (u : Nat) (barrier : Bool) (s : State) : Option (Nat × Slot × Wait) :=
  match s.thread u, s.threadCore u with
  | some sl, some c => match sl.wait with
    | some w =>
      if w.barrier == barrier && !w.cancelled && !Store.get false s.dev.stopped c && decide (w.limit ≠ 0) && decide (w.limit < (s.coreRec c).cycle - w.start)
      then some (c, sl, w) else none
    | none => none
  | _, _ => none

/-- The cancel of an expired wait goes to the agent that holds the request, behind it in its slot's stream, be the thread evicted or
not (R299, R300, R265). -/
def sendCancel (u : Nat) (barrier : Bool) (s : State) : State :=
  match waitExpired u barrier s with
  | some (c, sl, w) =>
    (s.modThread u fun x => { x with wait := some { w with cancelled := true } }).send
      { id := 0, uid := u, src := .core c, slot := w.slot, dst := w.dst, ctx := sl.ctx, sup := sl.mode != 0,
        body := .cancel w.op }
  | none => s

/-- FE_WAIT_LIMIT (R299). -/
def execFeWaitLimit (u : Nat) (s : State) : Host.Outcome State Fault Refusal := .next (sendCancel u false s)

/-- CANCEL_REQUEST (R299): a request still parked is removed and answered CANCELLED; otherwise the cancel is dropped. -/
def cancelAt (m : Nat) (s : State) : State :=
  match s.performable m with
  | some x => match x.body, x.dst with
    | .cancel op, .core c =>
      match (s.coreRec c).waiting.find? (·.id == op) with
      | some w => match w.body with
        | .fe op' _ _ _ info =>
          ((s.dropMsg m).modCore c fun r => { r with waiting := r.waiting.filter (·.id != op) }).sendAs
            { w with src := w.dst, dst := w.src, resp := true, body := .cancelled info op'.reads }
        | _ => s.dropMsg m
      | none => s.dropMsg m
    | _, _ => s
  | none => s

/-- CANCELLED_ANSWER (R299): the thread takes trap 0x07, TRAPINFO g[a]; in slot 63 it ends the copy in service (R145). -/
def cancelledAnswer (m : Nat) (s : State) : State :=
  match s.response m with
  | some x => match x.body with
    | .cancelled info reads =>
      if s.waitsFor x.uid m then
        let s1 := s.dropMsg m
        let s2 := if (s1.moverOf x.uid).isSome then
            s1.modThread x.uid fun sl => { sl.advance with phase := .ready, park := .none, wait := none }
          else s1
        s2.lateFault x.uid 0x07 (if reads then 5 else 6) fun y => y.trapThread x.uid 0x07 info
      else s.dropMsg m
    | _ => s
  | none => s

/-- CANCELLED_ANSWER (R299). -/
def execCancelledAnswer (m : Nat) (s : State) : Host.Outcome State Fault Refusal := .next (cancelledAnswer m s)

end Sys2Proof.Machine
end

