-- ==== Sys2Proof/Machine/Atom.lean ====
section
/-! DEFINITION. ATOM (R318 to R320) and the event that performs it at another bank or channel. -/
namespace Sys2Proof.Machine

/-- f(old, v, n) of R319; the floating-point operations follow R38: to nearest, no flags. -/
def atomFn (op : AtomOp) (old v n : Word) : Word :=
  match op with
  | .fadd => ofNat (fpAdd 0 0 old.toNat v.toNat).1
  | .fmin => ofNat (minMaxBits 0 false old.toNat v.toNat).1
  | .fmax => ofNat (minMaxBits 0 true old.toNat v.toNat).1
  | .swap => v
  | .cas => if old = v then n else old
  | .and => old &&& v
  | .or => old ||| v
  | .xor => old ^^^ v
  | .faddf => ofNat ((fpAdd 1 0 (fld old 0 32) (fld v 0 32)).1 + (fpAdd 1 0 (fld old 32 32) (fld v 32 32)).1 * 2 ^ 32)

/-- An ATOM once its word is known and its release done (R318). -/
def atomAt (s : State) (op : AtomOp) (srcs : List Nat) (d key : Nat) (a v n : Word) (acq : Bool) : Except Stop State :=
  match s.destReady d with
  | .error e => .error e
  | .ok _ =>
    if keyNode key = .core s.here then
      let old := s.read64 key
      .ok ((s.store64 key (atomFn op old v n)).complete srcs d old)
    else if acq && s.me.codelet then .error (.trap 0x0C a)
    else if 63 ≤ s.me.st then .error .forfeit
    else match s.request (keyNode key) (.atom op key v n d acq) with
      | .error e => .error e
      | .ok s1 =>
        let s2 := ((((s1.touch (State.touchBit key)).modMe fun sl => { sl with st := sl.st + 1 }).consume srcs).awaitDest d).advance
        .ok (if acq then s2.waitFor s.nextId (keyNode key) a false false [] else s2)

/-- The word an ATOM addresses (R318, R320): its key, and the state after the translation. -/
def atomTarget (s : State) (a : Word) : Except Stop (Nat × State) :=
  match s.resolve s.here s.rights a 8 with
  | .error (.trap c _) => .error (.trap c a)
  | .error e => .error e
  | .ok (.spad c o) => .ok (spadKey c o, s)
  | .ok (.bulk va) => match s.bulkAccess s.here s.rights va 1 with
    | .error (.trap c _) => .error (.trap c a)
    | .error (.denied i va _) => .error (.denied i va a)
    | .error (.page va access reason level _) => .error (.page va access reason level a)
    | .error e => .error e
    | .ok r => .ok r
  | .ok (.fabric _ _) => .error (.trap 0x04 a)

/-- An ATOM: sources, target, release, step (R318). -/
def atom (word : Word) (op : AtomOp) (d a : RegCode) (ord : BitVec 2) (sc : BitVec 3) (s : State) : Except Stop State :=
  let pair := if op = .cas then [d.toNat, d.toNat + 1] else []
  let srcs := if op = .cas then [a.toNat] else [a.toNat, d.toNat]
  match s.runOperands word (srcs ++ pair) pair [d.toNat] with
  | .error e => .error e
  | .ok vs =>
    let x := arg vs 0
    match atomTarget s x with
    | .error e => s.memStop 6 e
    | .ok (key, s0) =>
      match (if ord.getLsbD 1 then s0.release (scopeOf sc) x else .ok none) with
      | .error e => s0.keepWalk (.error e)
      | .ok (some s1) => .ok s1
      | .ok none => s0.keepWalk (atomAt s0 op (srcs ++ pair) d.toNat key x (arg vs 1) (arg vs 2) (ord.getLsbD 0))

/-- ATOM.FADD (R318, R319). -/
def execAtomFadd (d a : RegCode) (ord : BitVec 2) (sc : BitVec 3) (s : State) : Host.Outcome State Fault Refusal :=
  s.finish (atom (Instr.atomFadd d a ord sc).word .fadd d a ord sc s)

/-- ATOM.FMIN (R318, R319). -/
def execAtomFmin (d a : RegCode) (ord : BitVec 2) (sc : BitVec 3) (s : State) : Host.Outcome State Fault Refusal :=
  s.finish (atom (Instr.atomFmin d a ord sc).word .fmin d a ord sc s)

/-- ATOM.FMAX (R318, R319). -/
def execAtomFmax (d a : RegCode) (ord : BitVec 2) (sc : BitVec 3) (s : State) : Host.Outcome State Fault Refusal :=
  s.finish (atom (Instr.atomFmax d a ord sc).word .fmax d a ord sc s)

/-- ATOM.SWAP (R318, R319). -/
def execAtomSwap (d a : RegCode) (ord : BitVec 2) (sc : BitVec 3) (s : State) : Host.Outcome State Fault Refusal :=
  s.finish (atom (Instr.atomSwap d a ord sc).word .swap d a ord sc s)

/-- ATOM.CAS (R318, R319). -/
def execAtomCas (d a : RegCode) (ord : BitVec 2) (sc : BitVec 3) (s : State) : Host.Outcome State Fault Refusal :=
  s.finish (atom (Instr.atomCas d a ord sc).word .cas d a ord sc s)

/-- ATOM.AND (R318, R319). -/
def execAtomAnd (d a : RegCode) (ord : BitVec 2) (sc : BitVec 3) (s : State) : Host.Outcome State Fault Refusal :=
  s.finish (atom (Instr.atomAnd d a ord sc).word .and d a ord sc s)

/-- ATOM.OR (R318, R319). -/
def execAtomOr (d a : RegCode) (ord : BitVec 2) (sc : BitVec 3) (s : State) : Host.Outcome State Fault Refusal :=
  s.finish (atom (Instr.atomOr d a ord sc).word .or d a ord sc s)

/-- ATOM.XOR (R318, R319). -/
def execAtomXor (d a : RegCode) (ord : BitVec 2) (sc : BitVec 3) (s : State) : Host.Outcome State Fault Refusal :=
  s.finish (atom (Instr.atomXor d a ord sc).word .xor d a ord sc s)

/-- ATOM.FADDF (R318, R319). -/
def execAtomFaddf (d a : RegCode) (ord : BitVec 2) (sc : BitVec 3) (s : State) : Host.Outcome State Fault Refusal :=
  s.finish (atom (Instr.atomFaddf d a ord sc).word .faddf d a ord sc s)

/-- ATOM_REQUEST (R318): the step at the owning bank or channel; the old value is returned. -/
def atomRequest (m : Nat) (s : State) : State :=
  match s.performable m with
  | some x => match x.body with
    | .atom op key v n reg acq =>
      (s.store64 key (atomFn op (s.read64 key) v n)).respond x (.value reg (s.read64 key) true acq)
    | _ => s
  | none => s

/-- ATOM_REQUEST (R318). -/
def execAtomRequest (m : Nat) (s : State) : Host.Outcome State Fault Refusal := .next (atomRequest m s)

end Sys2Proof.Machine
end

