-- ==== Sys2Proof/Machine/Landing.lean ====
section
/-! DEFINITION. Landing names (R168 to R181): minting, line loads, deliveries, revocation, and the events of names. -/
namespace Sys2Proof.Machine

/-- A value has the layout of a landing name (R168). The ranges of X and Y are a check of their own, as R174 and R175 make it (log
entry 11). -/
def isName (w : Word) : Bool := fld w 54 10 == 0x304 && fld w 16 16 == 0

/-- A name's coordinates lie in the grid (R174, R175). -/
def nameInGrid (w : Word) : Bool := decide (fld w 40 8 ≤ 39) && decide (fld w 32 8 ≤ 31)

/-- The core a name names. -/
def nameCore (w : Word) : Nat := coreAt (fld w 32 8) (fld w 40 8)
/-- The package a name names. -/
def namePkg (w : Word) : Nat := fld w 48 6

namespace State

/-- A landing-name entry (R169). -/
def name (s : State) (c i : Nat) : NameEntry := Store.get {} s.names (c * 512 + i)
/-- s with an entry replaced. -/
def setName (s : State) (c i : Nat) (e : NameEntry) : State := { s with names := Store.set {} s.names (c * 512 + i) e }
/-- The entry becomes FREE and its salt advances (R169). -/
def freeName (s : State) (c i : Nat) : State :=
  s.setName c i { state := .free, salt := ((s.name c i).salt + 1) % 128, ctx := 0 }

/-- The name of an entry (R171). -/
def nameOf (s : State) (c i : Nat) : Word :=
  pack [(3, 62, 2), (1, 56, 4), (s.pkgNum, 48, 6), (coreY c, 40, 8), (coreX c, 32, 8), ((s.name c i).salt, 9, 7), (i, 0, 9)]

/-- The name is of core c of this package. -/
def isOwnName (s : State) (c : Nat) (w : Word) : Bool := namePkg w == s.pkgNum && nameInGrid w && nameCore w == c

/-- deliver(name, value, from) of R173 at the table of core c: the cause, 0 for accepted, and the state. -/
def deliver (s : State) (c : Nat) (nm v : Word) (r : Rights) : Nat × State :=
  let i := fld nm 0 9
  let e := s.name c i
  let refuse (k : Nat) : Nat × State := (k, s.modCore c fun x => { x with nameRef := (x.nameRef + 1) % 65536 })
  if e.state = .free ∨ e.salt ≠ fld nm 9 7 then refuse 0x08
  else if !r.sup && r.ctx != e.ctx then refuse 0x05
  else
    let s1 := match e.state with
      | .free => s
      | .live slot reg => s.writeReg (c * 64 + slot) reg v
      | .image key reg =>
        match s.evicted.find? (fun x : Evicted => x.key == key) with
        | some x => s.writeThreadReg x.rest.uid reg v
        | none =>
          if reg = 0 then s else
          let k := key + 0x100 + reg / 8
          let s1 := s.put64 (key + 0x120 + 8 * reg) v
          s1.put k 1 (s1.read k 1 ||| 2 ^ (reg % 8))
      | .forward p core slot reg =>
        (s.modCore c fun x => { x with forwards := x.forwards ++ [nm] }).agentSend (.core c)
          (if p = s.pkgNum then .core core else .pkg p) r.ctx r.sup (.forward (core * 64 + slot) reg v nm)
    (0, s1.freeName c i)

/-- A delivery sent from core c to the core of a name, on the response channel (R173). A value that an agent cannot send is
refused with 0x04 (R175): none. -/
def sendDelivery (s : State) (c slot uid : Nat) (r : Rights) (nm v : Word) (o : Origin) : State :=
  if namePkg nm = s.pkgNum then
    s.send { id := 0, uid := uid, src := .core c, slot := slot, dst := .core (nameCore nm), resp := true, ctx := r.ctx, sup := r.sup,
             body := .deliver nm v o }
  else s.sendAbroad c slot uid (namePkg nm) r (.deliver nm o) (.deliver nm v o)

/-- The first FREE entry after the pointer, wrapping (R170). -/
def freeEntry (s : State) (c : Nat) : Option Nat :=
  ((List.range 512).map fun i => ((s.coreRec c).namePtr + 1 + i) % 512).find? fun i => (s.name c i).state == .free

/-- The checks of R171 beyond that of the word, in its order; the code of a binding that a RESUME on another core has undone traps as
R198 has it. -/
def mintChecks (s : State) (word : Word) (d b : Nat) : Except Stop Unit :=
  if (s.me.queueOf b).isSome || s.isMail b || s.me.lost b then .error (.trap 0x01 word)
  else if b ≠ 0 && s.names.any (fun e => e.1 / 512 == s.here && e.2.state == .live s.num b) then .error (.trap 0x01 (ofNat b))
  else if s.awaits s.cur b then .error .forfeit
  else s.destReady d

/-- Entry i is minted for register b of the issuing slot (R171). -/
def mint (s : State) (i b : Nat) : State :=
  ((s.setName s.here i { state := .live s.num b, salt := (s.name s.here i).salt, ctx := s.me.ctx }).modCore s.here
    fun r => { r with namePtr := i }).setRegFull s.cur b false

end State

/-- The first check of R171 names the word alone, and is made at step 1 of R71. -/
def mintAlike (d b : RegCode) : Bool := d == b && d != 0

/-- MINT (R171). -/
def mintBody (word : Word) (d b : RegCode) (s : State) : Except Stop State :=
  if mintAlike d b then .error (.trap 0x01 word) else
  match s.checkCodes [b.toNat, d.toNat] with
  | .error e => .error e
  | .ok _ => match s.checkQueues word [] [d.toNat] with
    | .error e => .error e
    | .ok _ => match s.mintChecks word d.toNat b.toNat with
      | .error e => .error e
      | .ok _ => match s.freeEntry s.here with
        | none => .ok (s.complete [] d.toNat 0)
        | some i => .ok ((s.mint i b.toNat).complete [] d.toNat (s.nameOf s.here i))

/-- MINT (R171). -/
def execMint (d b : RegCode) (s : State) : Host.Outcome State Fault Refusal := s.finish (mintBody (Instr.mint d b).word d b s)

/-- The destination of a MINT.LD: an offset of the own core, a multiple of 128 not past 0x17_FF80 (R172 step 3). -/
def lineDest (c : Nat) (a : Word) : Except Stop Nat :=
  match ownOffset c a with
  | none => .error (.trap 0x04 a)
  | some off => if 0x17FF80 < off then .error (.trap 0x04 a) else if off % 128 ≠ 0 then .error (.trap 0x03 a) else .ok off

/-- The line load after its source is known: forfeits, a full table, the name, the request (R172 steps 4 to 6). -/
def lineFrom (s : State) (srcs : List Nat) (d b tb : Nat) (req : Word → Except Stop State) : Except Stop State :=
  if 63 ≤ s.me.ld then .error .forfeit
  else match s.freeEntry s.here with
    | none => match req 0 with
      | .error e => .error e
      | .ok _ => .ok (s.complete srcs d 0)
    | some i => match req (s.nameOf s.here i) with
      | .error e => .error e
      | .ok s1 =>
        .ok (((s1.mint i b).touch tb).modMe (fun sl => { sl with ld := sl.ld + 1 }) |>.complete srcs d (s.nameOf s.here i))

/-- Where MINT.LD's line lies (R172): its key in this package and the state after the walk, or none in another package. -/
def State.lineSource (s : State) : Loc → Except Stop (Option (Nat × State))
  | .spad c o => .ok (some (spadKey c o, s))
  | .bulk va => (s.bulkAccess s.here s.rights va 0).map some
  | .fabric _ _ => .ok none

/-- MINT.LD (R172). A trap of its destination comes after the source's walk, which stays made (R250); in slot 63 a fault of either ends
the copy in service (R145). -/
def mintLd (word : Word) (d a b : RegCode) (s : State) : Except Stop State :=
  if mintAlike d b then .error (.trap 0x01 word) else
  let run := [a.toNat, a.toNat + 1]
  match s.runOperands word run run [b.toNat, d.toNat] with
  | .error e => .error e
  | .ok vs => match s.mintChecks word d.toNat b.toNat with
    | .error e => .error e
    | .ok _ => match s.resolve s.here s.rights (arg vs 0) 128 with
      | .error e => s.memStop 5 e
      | .ok loc =>
        match s.lineSource loc with
        | .error e => s.memStop 5 e
        | .ok k => match lineDest s.here (arg vs 1) with
          | .error e => let s1 := (k.map (·.2)).getD s; s1.keepWalk (s1.memStop 6 e)
          | .ok off =>
            let dst := spadKey s.here off
            match k, loc with
            | some (key, s1), _ =>
              if keyNode key = .core s.here then
                match s1.freeEntry s.here with
                | none => .ok (s1.complete run d.toNat 0)
                | some i =>
                  let nm := s1.nameOf s.here i
                  let s2 := ((s1.mint i b.toNat).writeWords dst (s1.readWords key 16)).disturb true dst 128
                  .ok ((s2.deliver s.here nm 128 s.ownRights).2.complete run d.toNat nm)
              else lineFrom s1 run d.toNat b.toNat (State.touchBit key) fun nm => s1.request (keyNode key) (.line key dst nm)
            | none, .fabric p addr =>
              lineFrom s run d.toNat b.toNat (State.touchFabric p) fun nm =>
                s.requestAbroad p (.line dst nm) (.fabric addr (.line dst nm))
            | none, _ => .error .forfeit

/-- MINT.LD (R172). -/
def execMintLd (d a b : RegCode) (s : State) : Host.Outcome State Fault Refusal :=
  s.finish (mintLd (Instr.mintLd d a b).word d a b s)

/-- The name check of DELIV and of every agent that delivers: 0x04 unless it is a name in the grid whose core, if of this package,
is on-line (R174, R175). -/
def State.nameUsable (s : State) (nm : Word) : Bool :=
  isName nm && nameInGrid nm && !(namePkg nm == s.pkgNum && s.isOffline (nameCore nm))

/-- A user thread's delivery to a core of this package outside its partition, or to a pager core: the check of R93, which R212 keeps
for DELIV. -/
def State.deliverBarred (s : State) (nm : Word) : Bool :=
  s.me.mode == 0 && namePkg nm == s.pkgNum && (s.isPager (nameCore nm) || !s.inPartition s.me.ctx (nameCore nm))

/-- DELIV (R174, R212). -/
def deliv (word : Word) (a b : RegCode) (s : State) : Except Stop State :=
  let srcs := [a.toNat, b.toNat]
  match s.operands word srcs [] with
  | .error e => .error e
  | .ok vs =>
    let nm := arg vs 0
    if !s.nameUsable nm then .error (.trap 0x04 nm)
    else if s.deliverBarred nm then .error (.trap 0x05 nm)
    else if s.me.st ≠ 0 then .error .forfeit
    else if s.isOwnName s.here nm then
      let r := s.deliver s.here nm (arg vs 1) s.ownRights
      if r.1 = 0 then .ok (r.2.completeNone srcs) else .ok (r.2.takeTrap s.cur r.1 nm)
    else
      s.sendFlits s.me.ctx (if namePkg nm = s.pkgNum then .core (nameCore nm) else .pkg (namePkg nm)) 1
        (((s.modMe fun sl => { sl with st := sl.st + 1 }).sendDelivery s.here s.num s.me.uid s.ownRights nm (arg vs 1) .deliv).completeNone srcs)

/-- DELIV (R174). -/
def execDeliv (a b : RegCode) (s : State) : Host.Outcome State Fault Refusal := s.finish (deliv (Instr.deliv a b).word a b s)

/-- REVOKE at the own table (R177): the code, and the state. -/
def State.revokeAt (s : State) (c slot : Nat) (sup : Bool) (nm : Word) : Nat × State :=
  let i := fld nm 0 9
  let e := s.name c i
  if e.salt ≠ fld nm 9 7 then (1, s) else
  match e.state with
  | .live n v =>
    if n = slot ∨ sup then (0, (s.fillReg (c * 64 + n) v).freeName c i) else (2, s)
  | _ => (1, s)

/-- A guest's revoke goes to the entry's core as a request (R177). -/
def State.sendRevoke (s : State) (nm : Word) (d : Nat) : Except Stop State :=
  if namePkg nm = s.pkgNum then
    s.sendFlits s.me.ctx (.core (nameCore nm)) 1
      (s.send { id := 0, uid := s.me.uid, src := .core s.here, slot := s.num, dst := .core (nameCore nm), ctx := s.me.ctx
                sup := s.me.mode != 0, body := .revoke nm d })
  else s.requestAbroadAs s.ownRights (namePkg nm) (.revoke nm d) (.revoke nm d)

/-- REVOKE (R177). -/
def revoke (word : Word) (d a : RegCode) (s : State) : Except Stop State :=
  match s.operands word [a.toNat] [d.toNat] with
  | .error e => .error e
  | .ok vs =>
    let nm := arg vs 0
    if !isName nm then .error (.trap 0x04 nm)
    else if s.isOwnName s.here nm then
      match s.destReady d.toNat with
      | .error e => .error e
      | .ok _ =>
        let r := s.revokeAt s.here s.num (s.me.mode != 0) nm
        .ok (r.2.complete [a.toNat] d.toNat (ofNat r.1))
    else if s.me.guest && s.me.carried.any (·.name == nm) then
      match s.destReady d.toNat with
      | .error e => .error e
      | .ok _ =>
        if 63 ≤ s.me.ld then .error .forfeit
        else
          match s.sendRevoke nm d.toNat with
          | .error e => .error e
          | .ok s1 => .ok ((((s1.modMe fun sl => { sl with ld := sl.ld + 1 }).consume [a.toNat]).awaitDest d.toNat).advance)
    else .error (.trap 0x04 nm)

/-- REVOKE (R177). -/
def execRevoke (d a : RegCode) (s : State) : Host.Outcome State Fault Refusal := s.finish (revoke (Instr.revoke d a).word d a s)

/-- The word NSTAT returns (R178). -/
def State.nstat (s : State) : Word :=
  let entries := (List.range 512).map (s.name s.here)
  pack [(countIf (fun e : NameEntry => e.state != .free) entries, 0, 10),
    (countIf (fun e : NameEntry => match e.state with | .live n _ => n == s.num | _ => false) entries, 16, 10),
    ((s.coreRec s.here).nameRef, 32, 16)]

/-- NSTAT (R178). -/
def execNstat (d : RegCode) (s : State) : Host.Outcome State Fault Refusal :=
  s.finish (s.compute (Instr.nstat d).word [] d.toNat fun _ => s.nstat)

/-! ## Events -/

/-- DELIVERY (R173): a delivery is applied at the named table in one step, and answered. -/
def delivery (m : Nat) (s : State) : State :=
  match s.arrived m with
  | some x => match x.body, x.dst with
    | .deliver nm v o, .core c =>
      let r := s.deliver c nm v { ctx := x.ctx, sup := x.sup }
      r.2.respond x (.delivered r.1 nm o)
    | _, _ => s
  | none => s

/-- DELIVERY (R173). -/
def execDelivery (m : Nat) (s : State) : Host.Outcome State Fault Refusal := .next (delivery m s)

/-- LINE_REPLY (R172): the line is written, then the name delivered under the issuing thread's rights with 128, or with the negated
cause; LD decrements. -/
def lineReply (m : Nat) (s : State) : State :=
  match s.response m with
  | some x => match x.body, x.dst with
    | .lineData dst data nm cause, .core c =>
      let s1 := s.dropMsg m
      let s2 := if cause = 0 then (s1.writeWords dst data).disturb true dst 128 else s1
      let s3 := (s2.deliver c nm (if cause = 0 then 128 else negNat cause)
        (((s.thread x.uid).map Slot.rights).getD { ctx := x.ctx, sup := x.sup })).2
      s3.modThreadCounters x.uid fun sl => { sl with ld := sl.ld - 1 }
    | _, _ => s
  | none => s

/-- LINE_REPLY (R172). -/
def execLineReply (m : Nat) (s : State) : Host.Outcome State Fault Refusal := .next (lineReply m s)

/-- A thread carries a name no more: its delivery has been accepted, so that its entry is FREE (R181, R169). -/
def State.dropName (s : State) (uid : Nat) (nm : Word) : State :=
  s.modThread uid fun sl => { sl with carried := sl.carried.filter (·.name != nm) }

/-- REVOKE_REQUEST (R177): a guest's revoke at the name's core. The entry of a carried name is FORWARD toward the guest,
which stands for LIVE here (log entry 19, DEDUCED); the result returns as a load reply, and its arrival is this event again: it
writes g[d], decrements LD and, for 0, makes the bound register full, in the slot or in the image. With the name's package unreachable
(R276) there is no result: g[d] gets a free value, and the cause is a boundary trap 0x0E (log entry 46, DESIGN CHOICE). -/
def revokeRequest (m : Nat) (s : State) : State :=
  match s.findMsg m with
  | some x => match x.body, x.dst with
    | .revoke nm reg, .core c =>
      match s.performable m with
      | none => s
      | some _ =>
        let i := fld nm 0 9
        let e := s.name c i
        let hit := e.salt == fld nm 9 7 && (match e.state with | .forward _ _ _ _ => true | _ => false)
        let s1 := if hit then s.freeName c i else s
        s1.respond x (.revoked nm reg (if hit then 0 else 1))
    | .revoked nm reg result, .core _ =>
      match s.response m with
      | none => s
      | some _ =>
        if result = 0x0E then (((s.dropMsg m).freed).applyReply x.uid reg s.free false).pendThread x.uid 0x0E nm else
        let s1 := (s.dropMsg m).applyReply x.uid reg (ofNat result) false
        if result = 0 then
          let v := match s1.thread x.uid with
            | some sl => ((sl.carried.find? (·.name == nm)).map (·.reg)).getD 0
            | none => 0
          (s1.fillThreadReg x.uid v).dropName x.uid nm
        else s1
    | _, _ => s
  | none => s

/-- REVOKE_REQUEST (R177). -/
def execRevokeRequest (m : Nat) (s : State) : Host.Outcome State Fault Refusal := .next (revokeRequest m s)

/-- A notice's answer arrives at the thread's core: one fewer outstanding (R181). -/
def noticeAnswered (m : Nat) (x : Msg) (s : State) : State :=
  (s.dropMsg m).modThread x.uid fun sl => { sl with notices := sl.notices - 1 }

/-- The answer to a notice. -/
def answerNotice (x : Msg) (nm : Word) (s : State) : State :=
  (s.dropMsg x.id).sendAs { x with src := x.dst, dst := x.src, resp := true, body := .noticeAck nm }

/-- RETARGET_NOTICE (R181, R169): a FORWARD entry's target becomes the place given. It is answered only when no forwarded
value of the name is unacknowledged; the arrival of the answer is this event again. -/
def retargetNotice (m : Nat) (s : State) : State :=
  match s.arrived m with
  | some x => match x.body, x.dst with
    | .retarget nm p core slot, .core c =>
      if (s.coreRec c).forwards.contains nm then s else
      let i := fld nm 0 9
      let e := s.name c i
      let s1 := match e.state with
        | .forward _ _ _ v => if e.salt = fld nm 9 7 then s.setName c i { e with state := .forward p core slot v } else s
        | _ => s
      answerNotice x nm s1
    | .noticeAck _, _ => noticeAnswered m x s
    | _, _ => s
  | none => s

/-- RETARGET_NOTICE (R181). -/
def execRetargetNotice (m : Nat) (s : State) : Host.Outcome State Fault Refusal := .next (retargetNotice m s)

/-- RETURN_NOTICE (R181, R169): a FORWARD entry of a core where its thread has arrived goes back to LIVE. -/
def returnNotice (m : Nat) (s : State) : State :=
  match s.arrived m with
  | some x => match x.body, x.dst with
    | .returned nm slot, .core c =>
      let i := fld nm 0 9
      let e := s.name c i
      let s1 := match e.state with
        | .forward _ _ _ v => if e.salt = fld nm 9 7 then s.setName c i { e with state := .live slot v } else s
        | _ => s
      s1.dropMsg m
    | _, _ => s
  | none => s

/-- RETURN_NOTICE (R181). -/
def execReturnNotice (m : Nat) (s : State) : Host.Outcome State Fault Refusal := .next (returnNotice m s)

/-- DESTROY_NOTICE (R181, R169): a retiring guest's name is freed at its core and answered; the arrival of the answer is
this event again. -/
def destroyNotice (m : Nat) (s : State) : State :=
  match s.arrived m with
  | some x => match x.body, x.dst with
    | .destroy nm, .core c =>
      let i := fld nm 0 9
      let e := s.name c i
      let s1 := match e.state with
        | .forward _ _ _ _ => if e.salt = fld nm 9 7 then s.freeName c i else s
        | _ => s
      answerNotice x nm s1
    | .noticeAck _, _ => noticeAnswered m x s
    | _, _ => s
  | none => s

/-- DESTROY_NOTICE (R181). -/
def execDestroyNotice (m : Nat) (s : State) : Host.Outcome State Fault Refusal := .next (destroyNotice m s)

/-- The thread of core c that a forwarded value of a name is for: the one that carries the name, in a slot or an image, else the one in
the place it was sent to (R181). -/
def State.carrierOf (s : State) (c slot : Nat) (nm : Word) : Nat :=
  match s.slots.find? fun e => e.1 / 64 == c && e.2.phase != .free && e.2.carried.any (·.name == nm) with
  | some e => e.2.uid
  | none => match s.evicted.find? fun e => e.core == c && e.rest.carried.any (·.name == nm) with
    | some e => e.rest.uid
    | none => (s.slot (c * 64 + slot)).uid

/-- FORWARDED_VALUE (R181): a forwarded delivery writes the guest's register and sets its full bit, in its slot or its image, and is
acknowledged; while the place is only reserved it waits for the thread. The arrival of the acknowledgement is this event again. -/
def forwardedValue (m : Nat) (s : State) : State :=
  match s.arrived m with
  | some x => match x.body, x.dst with
    | .forward place reg v nm, .core c =>
      let u := s.carrierOf c (place % 64) nm
      if u = 0 ∧ (s.slot (c * 64 + place % 64)).phase = .reserved then s
      else (((s.writeThreadReg u reg v).dropName u nm).dropMsg m).sendAs { x with src := x.dst, dst := x.src, resp := true, body := .forwardAck nm }
    | .forwardAck nm, .core c => (s.dropMsg m).modCore c fun r => { r with forwards := r.forwards.erase nm }
    | _, _ => s
  | none => s

/-- FORWARDED_VALUE (R181). -/
def execForwardedValue (m : Nat) (s : State) : Host.Outcome State Fault Refusal := .next (forwardedValue m s)

end Sys2Proof.Machine
end

