-- ==== Sys2Proof/Machine/Threads.lean ====
section
/-! DEFINITION. Creating threads: windows and slots (R155), and the state a new thread starts with (R156). -/
namespace Sys2Proof.Machine

/-- What a creator gives a new thread. -/
structure NewThread where
  pc : Nat
  limit : Nat
  mode : Nat
  ctx : Nat
  kernel : Word := 0
  group : Word := 0
  mig : Bool := false
  args : List Word := []
  task : Bool := false
  extra : Bool := false
  kpkg : Option Nat := none
  deriving DecidableEq, Repr

namespace State

/-- The windows in use on a core, as base and limit. -/
def windows (s : State) (c : Nat) : List (Nat × Nat) :=
  (s.slots.filter fun e => e.1 / 64 == c && e.2.phase != .free).map fun e => (e.2.base, e.2.limit)

/-- First-fit: the lowest multiple of 8 whose run of `limit` entries is free (R155). -/
def freeWindow (s : State) (c limit : Nat) : Option Nat :=
  let ws := s.windows c
  ((List.range 256).map (8 * ·)).find? fun b =>
    decide (b + limit ≤ Config.regEntries) && ws.all fun w => decide (b + limit ≤ w.1) || decide (w.1 + w.2 ≤ b)

/-- A general slot: 0 to 59 ascending, 60 to 62 only when those are all in use (R155). -/
def freeSlot (s : State) (c : Nat) : Option Nat :=
  (List.range 63).find? fun n => (s.slot (c * 64 + n)).phase == .free

/-- A run of registers becomes 0 and full (R156). -/
def clearRegs (s : State) (t : Nat) : Nat → State
  | 0 => s
  | v + 1 => ((s.setRegValue t v 0).setRegFull t v true).clearRegs t v

/-- Registers g1, g2, … from a creator. -/
def giveArgs (s : State) (t : Nat) : Nat → List Word → State
  | _, [] => s
  | v, w :: r => ((s.setRegValue t v w).setRegFull t v true).giveArgs t (v + 1) r

/-- TRAPVEC of a new thread (R156): the context's HANDLER offset on the own core, or 0. -/
def newTrapVec (s : State) (c i : Nat) : Word :=
  let h := fld (s.ctx i).handler 0 21
  if h = 0 then 0 else addrOf c h

/-- A thread is created in slot t with its window at `base` (R156). The slot's last issue and its fault sequence are the slot's own, and
stay (R158, R251). -/
def createAt (s : State) (t base : Nat) (n : NewThread) : State :=
  let sl : Slot :=
    { (s.slot t).vacated with
      phase := .ready, uid := s.nextId, mode := n.mode, mig := n.mig, pc := n.pc, base := base, limit := n.limit, ctx := n.ctx
      group := n.group, kernel := n.kernel, task := n.task, extra := n.extra, kpkg := n.kpkg, trapVec := s.newTrapVec (t / 64) n.ctx }
  ((({ s with nextId := s.nextId + 1 }.setSlot t sl).clearRegs t n.limit).giveArgs t 1 n.args)

/-! ## Kernels as threads see them (R213, R224) -/

/-- A kernel-table entry. -/
def kernelRec (s : State) (k : Nat) : KernelRec := Store.get {} s.kernels k
/-- s with an entry changed. -/
def modKernel (s : State) (k : Nat) (f : KernelRec → KernelRec) : State :=
  { s with kernels := Store.set {} s.kernels k (f (s.kernelRec k)) }
/-- What a core counts for a kernel. -/
def kernelCore (s : State) (k c : Nat) : KernelCore := Store.get {} s.kernelCores (k * 1280 + c)
/-- s with that changed. -/
def modKernelCore (s : State) (k c : Nat) (f : KernelCore → KernelCore) : State :=
  { s with kernelCores := Store.set {} s.kernelCores (k * 1280 + c) (f (s.kernelCore k c)) }

end State

/-- The ID of a kernel identifier (R213). -/
def kernelId (w : Word) : Nat := fld w 0 10
/-- KERNEL.V. -/
def kernelV (w : Word) : Bool := bitAt w 31
/-- KERNEL.TRIG. -/
def kernelTrig (w : Word) : Bool := bitAt w 32
/-- KERNEL.LNCH. -/
def kernelLnch (w : Word) : Bool := bitAt w 33
/-- Bits 31:0 of KERNEL. -/
def kernelIdent (w : Word) : Word := ofNat (fld w 0 32)
/-- A word of a launch packet. -/
def KernelRec.word (k : KernelRec) (i : Nat) : Word := k.packet.getD i 0
/-- The rectangle of a launch packet's word 1 (R214). -/
def packetRect (w1 : Word) : Rect := { x0 := fld w1 0 8, y0 := fld w1 8 8, x1 := fld w1 16 8, y1 := fld w1 24 8 }
/-- The die of the root controller (R220). -/
def KernelRec.rootDie (k : KernelRec) : Nat := dieOf (coreAt (fld (k.word 1) 0 8) (fld (k.word 1) 8 8))

namespace State

/-- The identifier names an entry whose kernel has members. -/
def kernelLive (s : State) (w : Word) : Bool :=
  let k := s.kernelRec (kernelId w)
  kernelV w && k.gen == fld w 16 12 && (k.state == 3 || k.state == 4)

/-- A message of core c to the root of a kernel (R224, R229): its launch controller, or the kernel's package. -/
def toRoot (s : State) (c uid : Nat) (kpkg : Option Nat) (w : Word) (b : Body) : State :=
  let dst : Node := match kpkg with | some p => .pkg p | none => .ctrl (s.kernelRec (kernelId w)).rootDie
  s.send { id := 0, uid := uid, src := .core c, slot := 64, dst := dst, resp := true, sup := true, body := b }

/-- JOIN (R224): core c registers a member of kernel w; its number is s.nextId. After the acknowledgement thread uid, if any,
gets v in register reg. -/
def sendJoin (s : State) (c uid : Nat) (kpkg : Option Nat) (w : Word) (reg v : Nat) : State :=
  match kpkg with
  | some p => s.sendAbroad c 64 uid p { ctx := 0, sup := true } (.join reg v) (.join w reg v)
  | none => s.toRoot c uid none w (.join w reg v)

/-- The kernel of a packet or thread counts its members by JOIN from here. -/
def joins (s : State) (kpkg : Option Nat) (w : Word) : Bool := kernelV w && (kpkg.isSome || s.kernelLive w)

end State

end Sys2Proof.Machine
end

