-- ==== Sys2Proof/Machine/Tasks.lean ====
section
/-! DEFINITION. Call-at tasks (R183 to R187), codelets (R188 to R192), reorder rings (R193, R194), and their events. -/
namespace Sys2Proof.Machine

/-! ## Call-at tasks -/

/-- A packet enters the own core's task queue. For a packet of a kernel a JOIN goes out, and the caller retires only after its
acknowledgement (R224). -/
def State.enqueueOwn (s : State) (c : Nat) (pkt : TaskPkt) : State :=
  let s1 := s.modCore c fun r => { r with tasks := r.tasks ++ [pkt] }
  if s.joins pkt.kpkg pkt.kernel then
    let call : Msg := { id := s.nextId, uid := s.me.uid, src := .core c, dst := .core c, body := .callat pkt }
    (s1.modCore c fun r => { r with joining := r.joining ++ [(s.nextId, call)] }).sendJoin c 0 pkt.kpkg pkt.kernel 0 0
  else s1

/-- CALLAT (R183). -/
def callat (word : Word) (t a n : RegCode) (s : State) : Except Stop State :=
  let run := [a.toNat, a.toNat + 1, a.toNat + 2, a.toNat + 3]
  let srcs := run ++ [n.toNat, t.toNat]
  match s.runOperands word srcs run [] with
  | .error e => .error e
  | .ok vs =>
    let tgt := arg vs 5
    let rep := arg vs 4
    match s.resolve s.here s.rights tgt 4 with
    | .error e => s.memStop 6 e
    | .ok (.spad c off) =>
      if rep ≠ 0 && !isName rep then .error (.trap 0x04 rep)
      else
        let sl := s.me
        let pkt : TaskPkt :=
          { entry := off, args := { a0 := arg vs 0, a1 := arg vs 1, a2 := arg vs 2, a3 := arg vs 3 }, rep := rep, fmt := sl.fmt
            scla := sl.scla, sclb := sl.sclb, ctx := sl.ctx, mode := sl.mode, kernel := sl.kernel, group := sl.group
            kpkg := sl.kpkg }
        if c = s.here then
          if 64 ≤ (s.coreRec c).tasks.length then .error .forfeit
          else
            .ok ((s.enqueueOwn c pkt).completeNone srcs)
        else post s srcs (spadKey c off) (.callat pkt)
    | .ok _ => s.memStop 6 (.trap 0x04 tgt)

/-- CALLAT (R183). -/
def execCallat (t a n : RegCode) (s : State) : Host.Outcome State Fault Refusal :=
  s.finish (callat (Instr.callat t a n).word t a n s)

/-- RETAT (R186). -/
def retat (word : Word) (v : RegCode) (s : State) : Except Stop State :=
  match s.operands word [v.toNat] [] with
  | .error e => .error e
  | .ok vs =>
    let sl := s.me
    let rep := sl.rep
    if !sl.task then .error (.trap 0x01 word)
    else if sl.st ≠ 0 then .error .forfeit
    else if rep ≠ 0 && !s.nameUsable rep then .error (.trap 0x04 rep)
    else
      let s1 := s.consume [v.toNat]
      let gone (x : State) (status : Nat) : State := (x.terminate x.cur status).modMe fun sl => { sl with returned := true }
      if rep = 0 then .ok (gone s1 0)
      else if s.isOwnName s.here rep then
        let r := s1.deliver s.here rep (arg vs 0) s.ownRights
        .ok (gone r.2 r.1)
      else
        s.sendFlits sl.ctx (if namePkg rep = s.pkgNum then .core (nameCore rep) else .pkg (namePkg rep)) 1
          (gone ((s1.modMe fun sl => { sl with st := sl.st + 1 }).sendDelivery s.here s.num sl.uid s.ownRights rep (arg vs 0) .retat) 0)

/-- RETAT (R186). The check of SLOT.TASK comes before g[v] is read. -/
def execRetat (v : RegCode) (s : State) : Host.Outcome State Fault Refusal :=
  let word := (Instr.retat v).word
  s.finish (match s.checkCodes [v.toNat] with
    | .error e => .error e
    | .ok _ => if s.me.task then retat word v s else .error (.trap 0x01 word))

/-! ## Codelets -/

/-- Fields of a codelet record's word 0 (R188). -/
def codCount (w : Word) : Nat := fld w 0 32
/-- Its entry offset. -/
def codPc (w : Word) : Nat := fld w 32 21
/-- Its state: 0 IDLE, 1 ARMED, 2 READY. -/
def codSt (w : Word) : Nat := fld w 62 2
/-- Word 0 with COUNT and ST replaced. -/
def codSet (w : Word) (count st : Nat) : Word := setFld (setFld w 0 32 count) 62 2 st

namespace State

/-- The address of a record is pushed on the ready ring, waking the slots parked on it (R189, R192). -/
def pushReady (s : State) (c off : Nat) : State :=
  (s.modCore c fun r => { r with ready := r.ready ++ [off] }).wakeCore c (· == .ring)

/-- A decrement of m at the record at offset off of core c (R189, R191). -/
def decrAt (s : State) (c off m : Nat) : State :=
  let key := spadKey c off
  let w := s.read64 key
  if codSt w = 1 then
    if m < codCount w then s.store64 key (codSet w (codCount w - m) 1)
    else (s.store64 key (codSet w 0 2)).pushReady c off
  else s.modCore c fun r => { r with qdropDecr := (r.qdropDecr + 1) % 65536 }

/-- An address of a task or ring structure: it resolves to scratchpad by R93 with n = 16, else 0x04 with g[a]. -/
def resolveSpad (s : State) (a : Word) (n : Nat) (peer : Bool) : Except Stop (Nat × Nat) :=
  match s.resolve s.here s.rights a n peer with
  | .error e => .error e
  | .ok (.spad c off) => .ok (c, off)
  | .ok _ => .error (.trap 0x04 a)

/-- A block of the own core: 0x04 elsewhere, then 0x03 off a multiple of al (R334, R342, R354). -/
def ownBlock (s : State) (a : Word) (al : Nat) : Except Stop Nat :=
  match s.resolveSpad a 1 false with
  | .error e => .error e
  | .ok (c, off) => if c ≠ s.here then .error (.trap 0x04 a) else if off % al ≠ 0 then .error (.trap 0x03 a) else .ok off

/-- As `resolveSpad`, and on the own core (R190, R194). -/
def resolveOwn (s : State) (a : Word) (n : Nat) : Except Stop Nat :=
  match s.resolveSpad a n false with
  | .error e => .error e
  | .ok (c, off) => if c = s.here then .ok off else .error (.trap 0x04 a)

end State

/-- CINIT (R190, R189). -/
def cinit (word : Word) (d a b : RegCode) (s : State) : Except Stop State :=
  let srcs := [a.toNat, b.toNat]
  match s.operands word srcs [d.toNat] with
  | .error e => .error e
  | .ok vs => match s.resolveOwn (arg vs 0) 16 with
    | .error e => s.memStop 6 e
    | .ok off =>
      let key := spadKey s.here off
      let w := s.read64 key
      let n := fld (arg vs 1) 0 32
      if fld w 53 9 ≠ 0 ∨ codSt w = 3 ∨ codPc w % 4 ≠ 0 ∨ Config.spadSize ≤ codPc w then .error (.trap 0x01 (arg vs 0))
      else match s.destReady d.toNat with
        | .error e => .error e
        | .ok _ =>
          if codSt w ≠ 0 then .ok (s.complete srcs d.toNat 2)
          else if 256 ≤ (s.coreRec s.here).res then .ok (s.complete srcs d.toNat 1)
          else
            let s1 := s.modCore s.here fun r => { r with res := r.res + 1 }
            let s2 := if n = 0 then (s1.store64 key (codSet w 0 2)).pushReady s.here off else s1.store64 key (codSet w n 1)
            .ok (s2.complete srcs d.toNat 0)

/-- CINIT (R190). -/
def execCinit (d a b : RegCode) (s : State) : Host.Outcome State Fault Refusal := s.finish (cinit (Instr.cinit d a b).word d a b s)

/-- DECR (R191). -/
def decr (word : Word) (a b : RegCode) (s : State) : Except Stop State :=
  let srcs := [a.toNat, b.toNat]
  match s.operands word srcs [] with
  | .error e => .error e
  | .ok vs => match s.resolveSpad (arg vs 0) 16 false with
    | .error e => s.memStop 6 e
    | .ok (c, off) =>
      if s.me.st ≠ 0 then .error .forfeit
      else if c = s.here then .ok ((s.decrAt c off (fld (arg vs 1) 0 32)).completeNone srcs)
      else post s srcs (spadKey c off) (.decr (spadKey c off) (fld (arg vs 1) 0 32))

/-- DECR (R191). -/
def execDecr (a b : RegCode) (s : State) : Host.Outcome State Fault Refusal := s.finish (decr (Instr.decr a b).word a b s)

/-- NEXTC (R192): the running codelet ends before anything else. A record whose PC field is not a multiple of 4 starts at
the multiple below it (log entry 20, DEDUCED). The packet is read once the record is IDLE. While g1, which it would write, awaits a reply,
it forfeits (R75). TRAPINFO's r is the record's address in absolute form (log entry 66, DESIGN CHOICE). -/
def nextc (s : State) : State :=
  if s.awaits s.cur 1 && !(s.coreRec s.here).ready.isEmpty then s else
  let s0 := s.modMe fun sl => { sl with codelet := false }
  let c := s.here
  match (s.coreRec c).ready with
  | [] => (s0.modMe fun sl => { sl with released := false }).parkMe .ring
  | off :: rest =>
    let key := spadKey c off
    let w := s.read64 key
    let ar := s.read64 (key + 8)
    let s1 := (s0.store64 key (codSet w (codCount w) 0)).modCore c fun r => { r with ready := rest, res := r.res - 1 }
    match ownOffset c ar with
    | none => s1.takeTrap s.cur 0x04 (addrOf c off)
    | some ao =>
      if Config.spadSize < ao + 24 ∨ ao % 8 ≠ 0 then s1.takeTrap s.cur 0x04 (addrOf c off)
      else
        let k := spadKey c ao
        let s2 := s1.modMe fun sl =>
          { sl.jump (codPc w / 4 * 4) with
            fmt := s1.read64 k &&& 0xFFF, scla := s1.read64 (k + 8), sclb := s1.read64 (k + 16), flags := 0, codelet := true }
        s2.writeReg s.cur 1 ar

/-- NEXTC (R192). -/
def execNextc (s : State) : Host.Outcome State Fault Refusal := .next (nextc s)

/-! ## Reorder rings -/

namespace Ring
/-- TAIL and HEAD, the slot count, and the malformed header of R193. -/
def tail (w0 : Word) : Nat := fld w0 0 32
/-- HEAD. -/
def head (w1 : Word) : Nat := fld w1 0 32
/-- The slot count 2^LOG. -/
def size (w0 : Word) : Nat := 2 ^ fld w0 32 4
/-- A reserved bit set, or LOG outside 1 to 12. -/
def bad (w0 w1 : Word) : Bool :=
  fld w0 36 28 != 0 || fld w1 32 32 != 0 || decide (fld w0 32 4 < 1) || decide (12 < fld w0 32 4)
/-- Tickets out: TAIL - HEAD modulo 2^32. -/
def out (w0 w1 : Word) : Nat := (tail w0 + 2 ^ 32 - head w1) % 2 ^ 32
/-- Key of the slot of ticket t. Slots past offset 0x18_0000, of which R193 says nothing, lie at the keys that follow (log entry 65, DESIGN
CHOICE). -/
def slotKey (key t : Nat) (w0 : Word) : Nat := key + 16 + 8 * (t % size w0)
end Ring

namespace State

/-- TICKET's step at the ring (R194). -/
def ticketAt (s : State) (key : Nat) : Word × State :=
  let w0 := s.read64 key
  let w1 := s.read64 (key + 8)
  if Ring.bad w0 w1 then (0xFFFFFFFFFFFFFFFE, s)
  else if Ring.size w0 ≤ Ring.out w0 w1 then (allOnes, s)
  else (ofNat (Ring.tail w0), s.store64 key (setFld w0 0 32 (Ring.tail w0 + 1)))

/-- RQFILL's step at the ring (R194). -/
def fillAt (s : State) (key : Nat) (v : Word) (t : Nat) : State :=
  let w0 := s.read64 key
  let w1 := s.read64 (key + 8)
  let k := Ring.slotKey key t w0
  if Ring.bad w0 w1 || decide (Ring.out w0 w1 ≤ (t + 2 ^ 32 - Ring.head w1) % 2 ^ 32) || s.isFull k then
    s.modCore (keyCore key) fun r => { r with qdropFill := (r.qdropFill + 1) % 65536 }
  else (s.store64 k v).setFull k true

end State

/-- TICKET (R194): a remote one is as a load. -/
def ticket (word : Word) (d a : RegCode) (s : State) : Except Stop State :=
  match s.operands word [a.toNat] [d.toNat] with
  | .error e => .error e
  | .ok vs => match s.resolveSpad (arg vs 0) 16 true with
    | .error e => s.memStop 5 e
    | .ok (c, off) => match s.destReady d.toNat with
      | .error e => .error e
      | .ok _ =>
        let key := spadKey c off
        if c = s.here then
          let r := s.ticketAt key
          .ok (r.2.complete [a.toNat] d.toNat r.1)
        else if 63 ≤ s.me.ld then .error .forfeit
        else match s.request (.core c) (.ticket key d.toNat) with
          | .error e => .error e
          | .ok s1 =>
            .ok ((((s1.touch (State.touchBit key)).modMe fun sl => { sl with ld := sl.ld + 1 }).consume [a.toNat]).awaitDest d.toNat).advance

/-- TICKET (R194). -/
def execTicket (d a : RegCode) (s : State) : Host.Outcome State Fault Refusal := s.finish (ticket (Instr.ticket d a).word d a s)

/-- RQFILL (R194): v names the value, a the ring, t the ticket. -/
def rqfill (word : Word) (v a t : RegCode) (s : State) : Except Stop State :=
  let srcs := [a.toNat, t.toNat, v.toNat]
  match s.operands word srcs [] with
  | .error e => .error e
  | .ok vs => match s.resolveSpad (arg vs 0) 16 true with
    | .error e => s.memStop 6 e
    | .ok (c, off) =>
      let key := spadKey c off
      if s.me.st ≠ 0 then .error .forfeit
      else if c = s.here then .ok ((s.fillAt key (arg vs 2) (fld (arg vs 1) 0 32)).completeNone srcs)
      else post s srcs key (.rqfill key (arg vs 2) (fld (arg vs 1) 0 32))

/-- RQFILL (R194). -/
def execRqfill (v a t : RegCode) (s : State) : Host.Outcome State Fault Refusal := s.finish (rqfill (Instr.rqfill v a t).word v a t s)

/-- RQPOP and RQPEEK's operands: the ring on the own core, well-formed (R194); or how the instruction ends. -/
def ringOwn (word : Word) (d a : RegCode) (s : State) : Except (Except Stop State) Nat :=
  match s.operands word [a.toNat] [d.toNat] with
  | .error e => .error (.error e)
  | .ok vs => match s.resolveOwn (arg vs 0) 16 with
    | .error e => .error (s.memStop 5 e)
    | .ok off =>
      let key := spadKey s.here off
      if Ring.bad (s.read64 key) (s.read64 (key + 8)) then .error (.error (.trap 0x01 word))
      else match s.destReady d.toNat with
        | .error e => .error (.error e)
        | .ok _ => .ok key

/-- RQPOP (R194). -/
def rqpop (word : Word) (d a : RegCode) (s : State) : Except Stop State :=
  match ringOwn word d a s with
  | .error r => r
  | .ok key =>
    let w1 := s.read64 (key + 8)
    let k := Ring.slotKey key (Ring.head w1) (s.read64 key)
    if s.isFull k then
      .ok (((s.setFull k false).store64 (key + 8) (setFld w1 0 32 (Ring.head w1 + 1))).complete [a.toNat] d.toNat (s.read64 k))
    else .error (.park (.word k) word)

/-- RQPOP (R194). -/
def execRqpop (d a : RegCode) (s : State) : Host.Outcome State Fault Refusal := s.finish (rqpop (Instr.rqpop d a).word d a s)

/-- Consecutive full slots from HEAD (R194 RQPEEK). -/
def peekCount (s : State) (key : Nat) : Nat :=
  let w0 := s.read64 key
  let h := Ring.head (s.read64 (key + 8))
  (((List.range (Ring.size w0)).find? fun i => !s.isFull (Ring.slotKey key (h + i) w0))).getD (Ring.size w0)

/-- RQPEEK (R194). -/
def execRqpeek (d a : RegCode) (s : State) : Host.Outcome State Fault Refusal :=
  s.finish (match ringOwn (Instr.rqpeek d a).word d a s with
    | .error r => r
    | .ok key => .ok (s.complete [a.toNat] d.toNat (ofNat (peekCount s key))))

/-! ## Pipeline queues (R195, R196, R198) -/

/-- The bindings of qn are ended for a thread: its queues lose a binding, and one without any loses its entries (R195). -/
def unbindOne (s : State) (c uid : Nat) (sl : Slot) (n : Nat) : State :=
  let drop (x : State) (q : Nat) (prod : Bool) : State :=
    if 4 ≤ q then x else x.modPipe c q fun p =>
      let p := if prod then (if p.producer = some uid then { p with producer := none, reserved := 0 } else p)
        else (if p.consumer = some uid then { p with consumer := none } else p)
      if p.producer.isNone && p.consumer.isNone then {} else p
  if sl.isBound n then drop (drop s (sl.inQueue n) false) (sl.outQueue n) true else s

/-- QBIND (R196). The index q counts from q0; the d field is 124 + q. The checks come in the order 0x01, 0x05, 0x0F (log entry 61, DESIGN
CHOICE), and a direction that the same slot holds through another queue register is held (log entry 62, DESIGN CHOICE). -/
def qbind (word : Word) (q : BitVec 2) (a : RegCode) (s : State) : Except Stop State :=
  match s.operands word [a.toNat] [] with
  | .error e => .error e
  | .ok vs =>
    let g := arg vs 0
    let n := q.toNat
    let i := fld g 0 3
    let o := fld g 8 3
    let sl := s.me
    let ill : Except Stop State := .error (.trap 0x01 g)
    let held (qn : Nat) (prod : Bool) : Bool :=
      decide (qn < 4) && (if prod then (s.pipe s.here qn).producer.isSome else (s.pipe s.here qn).consumer.isSome)
    let other (qn : Nat) : Bool :=
      let p := s.pipe s.here qn
      decide (qn < 4) && (p.producer.isSome || p.consumer.isSome) && p.ctx != sl.ctx
    if fld g 3 5 ≠ 0 ∨ fld g 11 53 ≠ 0 ∨ (4 ≤ i ∧ i ≤ 6) ∨ (4 ≤ o ∧ o ≤ 6) ∨ (i = 7 ∧ o = 7) then ill
    else if sl.isBound n || held i false || held o true then ill
    else if other i || other o then .error (.trap 0x05 g)
    else if sl.mig then .error (.trap 0x0F g)
    else
      let bind (x : State) (qn : Nat) (prod : Bool) : State :=
        if 4 ≤ qn then x else x.modPipe s.here qn fun p =>
          if prod then { p with producer := some sl.uid, ctx := sl.ctx } else { p with consumer := some sl.uid, ctx := sl.ctx }
      .ok (((bind (bind (s.consume [a.toNat]) i false) o true).modMe fun x =>
        { x with binds := setFld x.binds (16 * n) 16 (i + o * 2 ^ 8 + 2 ^ 15) }).advance)

/-- QBIND (R196). -/
def execQbind (q : BitVec 2) (a : RegCode) (s : State) : Host.Outcome State Fault Refusal := s.finish (qbind (Instr.qbind q a).word q a s)

/-- QUNBIND (R196). -/
def execQunbind (q : BitVec 2) (s : State) : Host.Outcome State Fault Refusal :=
  .next (((unbindOne s s.here s.me.uid s.me q.toNat).modMe fun x => { x with binds := setFld x.binds (16 * q.toNat) 16 0 }).completeNone [])

/-! ## Events -/

/-- Packets of a core's wait store that wait for the task queue. -/
def waitingCall (x : Msg) : Bool :=
  match x.body with
  | .callat _ => true
  | _ => false

/-- A packet enters the task queue of core c; its request, already out of the net, is answered, or first a JOIN is sent for
a packet of a kernel (R187, R224). -/
def acceptTask (c : Nat) (x : Msg) (pkt : TaskPkt) (s : State) : State :=
  let s1 := s.modCore c fun r => { r with tasks := r.tasks ++ [pkt] }
  if s.joins pkt.kpkg pkt.kernel then
    (s1.modCore c fun r => { r with joining := r.joining ++ [(s.nextId, x)] }).sendJoin c 0 pkt.kpkg pkt.kernel 0 0
  else s1.sendAs { x with src := x.dst, dst := x.src, resp := true, body := .ack 0 0 }

/-- CALLAT_ACCEPT (R187, R183, R272): into the queue in order of arrival; if it is full, into the wait store, or RETRY. -/
def callatAccept (m : Nat) (s : State) : State :=
  match s.performable m with
  | some x => match x.body, x.dst with
    | .callat pkt, .core c =>
      let r := s.coreRec c
      if r.tasks.length < 64 && !r.waiting.any waitingCall then acceptTask c x pkt (s.dropMsg m)
      else if s.waitRoom c then s.moveToWait c x
      else s.respond x (.retry none (some pkt))
    | _, _ => s
  | none => s

/-- CALLAT_ACCEPT (R187). -/
def execCallatAccept (m : Nat) (s : State) : Host.Outcome State Fault Refusal := .next (callatAccept m s)

/-- A waiting packet is taken from the wait store: the oldest, once an entry of the queue and a response entry are free
(R187, R272). -/
def callServe (c : Nat) (x : Msg) (s : State) : State :=
  let r := s.coreRec c
  match x.body with
  | .callat pkt =>
    if (r.waiting.find? waitingCall).any (·.id == x.id) && decide (r.tasks.length < 64)
        && decide (r.entries < Config.responseEntries) then
      acceptTask c { x with started := true } pkt
        (s.modCore c fun r => { r with waiting := r.waiting.filter (·.id != x.id), entries := r.entries + 1 })
    else s
  | _ => s

/-- FAULT_PACKET (R252): a fault packet is queued as a supervisor task, or waits in its buffer slot while the queue is full, or while
packets that came before it wait for the queue (R187). -/
def faultPacket (m : Nat) (s : State) : State :=
  match s.arrived m with
  | some x => match x.body, x.dst with
    | .fault pkt, .core c =>
      if (s.coreRec c).tasks.length < 64 && !(s.coreRec c).waiting.any waitingCall then (s.dropMsg m).modCore c fun r => { r with tasks := r.tasks ++ [pkt] } else s
    | _, _ => s
  | none => s

/-- FAULT_PACKET (R252). -/
def execFaultPacket (m : Nat) (s : State) : Host.Outcome State Fault Refusal := .next (faultPacket m s)

/-- CALLAT_RESEND (R272): a held packet is sent again once a credit is free, 1024 cycles have passed and the core's quotas admit its flits
(R267). -/
def callatResend (m : Nat) (s : State) : State :=
  match s.cores.find? fun e => e.2.held.any fun h => h.1.id == m with
  | some (c, r) => match r.held.find? fun h => h.1.id == m with
    | some h =>
      let l := s.carriers h.1.ctx c h.1.dst
      if s.creditFree (clusterOf c) h.1.dst && s.canInject c l && decide (1024 ≤ r.cycle - h.2) then
        (((s.modCore c fun x => { x with held := x.held.filter fun y => y.1.id != m }).takeCredit (clusterOf c) h.1.dst).sendAs
          { h.1 with credit := some (clusterOf c, h.1.dst), started := false }).inject c h.1.body.flits l
      else s
    | none => s
  | none => s

/-- CALLAT_RESEND (R272). -/
def execCallatResend (m : Nat) (s : State) : Host.Outcome State Fault Refusal := .next (callatResend m s)

/-- RETRY_ANSWER (R272): the request is reissued whole, or a BARW goes on as a BWAIT of its token, or a CALLAT is held. -/
def retryAnswer (m : Nat) (s : State) : State :=
  match s.response m with
  | some x => match x.body, x.dst with
    | .retry _ (some pkt), .core c =>
      (s.dropMsg m).modCore c fun r =>
        { r with held := r.held ++ [({ x with src := x.dst, dst := x.src, resp := false, body := .callat pkt }, r.cycle)] }
    | .retry tok none, _ =>
      if s.waitsFor x.uid m then ((s.dropMsg m).retryThread x.uid).modThread x.uid fun sl => { sl with barwToken := tok }
      else s.dropMsg m
    | _, _ => s
  | none => s

/-- RETRY_ANSWER (R272). -/
def execRetryAnswer (m : Nat) (s : State) : Host.Outcome State Fault Refusal := .next (retryAnswer m s)

/-- DECR_REQUEST (R191). -/
def decrRequest (m : Nat) (s : State) : State :=
  match s.performable m with
  | some x => match x.body with
    | .decr key n => (s.decrAt (keyCore key) (keyOff key) n).respond x (.ack 0 0)
    | _ => s
  | none => s

/-- DECR_REQUEST (R191). Two decrements of one record that meet in a switch may travel as one (R263); that changes no
outcome, so each is applied by itself. -/
def execDecrRequest (m : Nat) (s : State) : Host.Outcome State Fault Refusal := .next (decrRequest m s)

/-- TICKET_REQUEST (R194). -/
def ticketRequest (m : Nat) (s : State) : State :=
  match s.performable m with
  | some x => match x.body with
    | .ticket key reg => let r := s.ticketAt key; r.2.respond x (.value reg r.1 false false)
    | _ => s
  | none => s

/-- TICKET_REQUEST (R194). -/
def execTicketRequest (m : Nat) (s : State) : Host.Outcome State Fault Refusal := .next (ticketRequest m s)

/-- RQFILL_REQUEST (R194). -/
def rqfillRequest (m : Nat) (s : State) : State :=
  match s.performable m with
  | some x => match x.body with
    | .rqfill key v t => (s.fillAt key v t).respond x (.ack 0 0)
    | _ => s
  | none => s

/-- RQFILL_REQUEST (R194). -/
def execRqfillRequest (m : Nat) (s : State) : Host.Outcome State Fault Refusal := .next (rqfillRequest m s)

end Sys2Proof.Machine
end

