-- ==== Sys2Proof/Machine/Barrier.lean ====
section
/-! DEFINITION. Barriers (R232 to R243): objects, phases, the instructions of major 0x26, engine arrivals, and the events
at barrier homes. -/
namespace Sys2Proof.Machine

/-! ## Objects (R20, R232, R234) -/

/-- The level and index of a barrier object: 1 core, 2 cluster, 3 die, 4 package, 5 pod. -/
structure BarName where
  level : Nat
  index : Nat
  deriving DecidableEq, Repr

/-- Barrier objects of a level (R20). -/
def barrierCount (level : Nat) : Nat := if level ≤ 2 then 16 else if level ≤ 4 then 8 else 4

/-- The key of an object, for an agent of core c. -/
def barrierKey (c : Nat) (n : BarName) : Nat :=
  match n.level with
  | 1 => c * 16 + n.index
  | 2 => 0x10000 + clusterOf c * 16 + n.index
  | 3 => 0x20000 + dieOf c * 16 + n.index
  | 4 => 0x30000 + n.index
  | _ => 0x40000 + n.index

/-- The home of an object, for an agent of core c (R232). The pod's home in its package is the launch controller of die 0
(log entry 22, DEDUCED). -/
def State.barrierHome (s : State) (c level : Nat) : Node :=
  match level with
  | 1 => .core c
  | 2 => .router (clusterOf c)
  | 3 => .ctrl (dieOf c)
  | 4 => .ctrl 0
  | _ => if s.pkgNum = 0 then .ctrl 0 else .pkg 0

/-- The smallest level whose unit holds a rectangle (R203). -/
def rectLevel (r : Rect) : Nat :=
  let a := coreAt r.x0 r.y0
  let b := coreAt r.x1 r.y1
  if a = b then 1 else if clusterOf a = clusterOf b then 2 else if dieOf a = dieOf b then 3 else 4

/-- The rectangle of GROUP (R202). -/
def groupRect (g : Word) : Rect := { x0 := fld g 32 8, y0 := fld g 40 8, x1 := fld g 48 8, y1 := fld g 56 8 }
/-- GROUP.TPC (R202). -/
def groupTpc (g : Word) : Nat := fld g 17 6

/-- The object that g[a] names in a thread of this GROUP (R234). -/
def barrierName (group a : Word) : Except Stop BarName :=
  let level := fld a 8 3
  let idx := fld a 0 4
  let ill : Except Stop BarName := .error (.trap 0x01 a)
  if fld a 4 4 ≠ 0 ∨ fld a 11 53 ≠ 0 ∨ level = 6 ∨ level = 7 then ill
  else if level = 0 then
    if groupTpc group = 0 then ill else .ok { level := rectLevel (groupRect group), index := fld group 28 4 }
  else if barrierCount level ≤ idx then ill
  else .ok { level := level, index := idx }

/-- The object as BSTAT shows it (R233). -/
def barrierWord (b : Barrier) : Word :=
  pack [(b.arrived, 0, 22), (b.expect, 22, 22), (b.state, 44, 2), (boolNat b.par, 46, 1), (boolNat b.err, 47, 1), (b.code, 48, 16)]

/-! ## Phases (R235, R238) -/

/-- The result "not armed". -/
def notArmed : Word := 0x8000000000010000
/-- The result "wait limit reached". -/
def limitReached : Word := 0x8000000000020000
/-- The result of an error phase. -/
def errorResult (code : Nat) : Word := ofNat (0x8000000000000000 + code % 65536)

/-- What one operation does to an object: the object, its result, and the result that the waiters of the old parity are
released with, if any. -/
structure BarStep where
  obj : Barrier
  result : Word
  release : Option Word := none
  deriving DecidableEq, Repr

/-- An arm with count n by context i; by an instruction, or by a launch in any state (R235, R236). -/
def Barrier.arm (b : Barrier) (n i : Nat) (launch : Bool) : BarStep :=
  if launch then
    { obj := { arrived := 0, expect := n, state := 1, par := b.par, err := false, code := 0, tag := i }, result := 0, release := some notArmed }
  else if b.state = 1 ∧ 0 < b.arrived then { obj := b, result := 1 }
  else if n = 0 then { obj := {}, result := 0, release := some notArmed }
  else if b.state = 1 then { obj := { b with expect := n }, result := 0 }
  else { obj := { arrived := 0, expect := n, state := 1, par := b.par, err := false, code := 0, tag := i }, result := 0 }

/-- An arrival of weight w: the result is the token, or the non-normal result (R235, R237). -/
def Barrier.arrive (b : Barrier) (w : Nat) : BarStep :=
  if b.state = 0 then { obj := b, result := notArmed }
  else if b.state = 2 ∧ b.err then { obj := b, result := errorResult b.code }
  else
    let a := (if b.state = 1 then b.arrived else 0) + w
    if b.expect ≤ a then { obj := { b with state := 2, arrived := 0, par := !b.par }, result := boolWord b.par, release := some 0 }
    else { obj := { b with state := 1, arrived := a }, result := boolWord b.par }

/-- An arrival with an error code (R235). -/
def Barrier.arriveError (b : Barrier) (code : Nat) : BarStep :=
  if b.state = 0 then { obj := b, result := notArmed }
  else if b.state = 2 ∧ b.err then { obj := b, result := errorResult b.code }
  else
    { obj := { b with state := 2, err := true, code := code % 65536, arrived := 0, par := !b.par }
      result := errorResult code, release := some (errorResult code) }

/-- The result of a wait with token t, if it completes at once (R235, R238). -/
def Barrier.waitNow (b : Barrier) (t : Bool) : Option Word :=
  if b.state = 0 then some notArmed
  else if b.err then some (errorResult b.code)
  else if b.par ≠ t then some 0
  else none

namespace State

/-- A barrier object. -/
def barrier (s : State) (key : Nat) : Barrier := Store.get {} s.barriers key
/-- s with an object replaced. -/
def setBarrier (s : State) (key : Nat) (b : Barrier) : State := { s with barriers := Store.set {} s.barriers key b }

/-- One waiter is released with a result: a thread of the home core at once, another by a wake (R235, R239). -/
def wakeWaiter (s : State) (v : Word) (w : BarWait) : State :=
  match w.req.body with
  | .barrier _ _ _ reg info =>
    if w.req.src = w.req.dst then
      if s.waitsFor w.req.uid w.req.id then (s.arriveReg w.req.uid reg v).resumeThread w.req.uid else s
    else s.sendAs { w.req with src := w.req.dst, dst := w.req.src, resp := true, credit := none, started := false
                               body := answerTo w.req (.barrierAnswer reg v true false info) }
  | _ => s

/-- The waiters of an object with a parity are released with a result, in order. -/
def wakeWaiters (s : State) (key : Nat) (par : Bool) (v : Word) : State :=
  (s.barWaits.filter fun w => w.key == key && w.token == par).foldl (fun x w => x.wakeWaiter v w)
    { s with barWaits := s.barWaits.filter fun w => !(w.key == key && w.token == par) }

/-- A step takes effect at an object. -/
def applyBarrier (s : State) (key : Nat) (t : BarStep) : State :=
  let par := (s.barrier key).par
  let s1 := s.setBarrier key t.obj
  match t.release with
  | some v => s1.wakeWaiters key par v
  | none => s1

/-- An object refuses a user operation of another context (R234). -/
def barrierRefuses (s : State) (key i : Nat) (sup : Bool) : Bool :=
  !sup && (s.barrier key).state != 0 && (s.barrier key).tag != i

/-- An operation with operand n by context i: the state, the result, and the token of a wait that goes on (R235, R237). -/
def barrierOp (s : State) (op : BarOp) (key n i : Nat) : State × Word × Option Bool :=
  let b := s.barrier key
  match op with
  | .arm => let t := b.arm n i false; (s.applyBarrier key t, t.result, none)
  | .arrive => let t := b.arrive n; (s.applyBarrier key t, t.result, none)
  | .err => let t := b.arriveError n; (s.applyBarrier key t, t.result, none)
  | .stat => (s, barrierWord b, none)
  | .wait =>
    match b.waitNow (n % 2 == 1) with
    | some v => (s, v, none)
    | none => (s, 0, some (n % 2 == 1))
  | .arriveWait =>
    let t := b.arrive n
    let s1 := s.applyBarrier key t
    if 1 < t.result.toNat then (s1, t.result, none)
    else match t.obj.waitNow b.par with
      | some v => (s1, v, none)
      | none => (s1, 0, some b.par)

/-- The issuing thread's wait names the register of its result. -/
def waitReg (s : State) (d : Nat) : State := s.modMe fun sl => { sl with wait := sl.wait.map fun w => { w with reg := d } }

/-- The wait of an operation would not complete at once, decided without changing the object (R239). -/
def barrierParks (s : State) (op : BarOp) (key n : Nat) : Bool := (s.barrierOp op key n 0).2.2.isSome

end State

/-! ## The instructions (R237, R239) -/

/-- The operation parks: BWAIT and BARW. -/
def BarOp.waits : BarOp → Bool
  | .wait | .arriveWait => true
  | _ => false

/-- The operation is an arrival, a release of its object's scope (R242). -/
def BarOp.arrives : BarOp → Bool
  | .arrive | .arriveWait | .err => true
  | _ => false

/-- The operand of an operation from g[b], with b = 0 for BARV and BARW meaning weight 1 (R237). -/
def barrierOperand (word : Word) (op : BarOp) (b : Nat) (v : Word) : Except Stop Nat :=
  let ill : Except Stop Nat := .error (.trap 0x01 word)
  match op with
  | .arm => if fld v 22 42 ≠ 0 then ill else .ok v.toNat
  | .arrive | .arriveWait => if b = 0 then .ok 1 else if fld v 22 42 ≠ 0 ∨ v = 0 then ill else .ok v.toNat
  | .wait => if fld v 1 63 ≠ 0 then ill else .ok v.toNat
  | .err => if fld v 16 48 ≠ 0 ∨ v = 0 then ill else .ok v.toNat
  | .stat => .ok 0

/-- An operation on an object of the own core (R239); a codelet's that would park reports its word (R78). -/
def barrierHere (s : State) (word : Word) (op : BarOp) (srcs : List Nat) (d key n : Nat) (a : Word) : Except Stop State :=
  if s.barrierRefuses key s.me.ctx (s.me.mode != 0) then .error (.trap 0x05 a)
  else if s.me.codelet && s.barrierParks op key n then .error (.trap 0x0C word)
  else match s.destReady d with
    | .error e => .error e
    | .ok _ =>
      let r := s.barrierOp op key n s.me.ctx
      match r.2.2 with
      | none => .ok (r.1.complete srcs d r.2.1)
      | some t =>
        let req : Msg :=
          { id := r.1.nextId, uid := s.me.uid, src := .core s.here, slot := s.num, dst := .core s.here, ctx := s.me.ctx
            sup := s.me.mode != 0, body := .barrier op key n d a }
        let s2 : State := { r.1 with nextId := r.1.nextId + 1, barWaits := r.1.barWaits ++ [{ key := key, token := t, req := req }] }
        .ok ((s2.waitFor r.1.nextId (.core s.here) a true true srcs).waitReg d)

/-- An operation is sent to another home under the slot's own rights: as a load, or out of the rotation until the answer (R239). -/
def barrierAway (s : State) (op : BarOp) (srcs : List Nat) (d key n : Nat) (a : Word) (home : Node) : Except Stop State :=
  if op.waits && s.me.codelet then .error (.trap 0x0C a)
  else match s.destReady d with
    | .error e => .error e
    | .ok _ =>
      let body : Body := .barrier op key n d a
      let sent : Except Stop State := match home with
        | .pkg p => s.requestAbroadAs s.ownRights p (.barrier d op.waits) body
        | h => s.requestAs s.ownRights h body
      if op.waits then
        match sent with
        | .error e => .error e
        | .ok s1 => .ok (((s1.modMe fun sl => { sl with barwToken := none }).waitFor s.nextId home a true true srcs).waitReg d)
      else if 63 ≤ s.me.ld then .error .forfeit
      else match sent with
        | .error e => .error e
        | .ok s1 => .ok ((((s1.modMe fun sl => { sl with ld := sl.ld + 1 }).consume srcs).awaitDest d).advance)

/-- An instruction of major 0x26. A BARW whose arrival was counted before a RETRY goes on as a BWAIT of its token (R272). -/
def barrierInstr (word : Word) (op0 : BarOp) (d a b : Nat) (s : State) : Except Stop State :=
  let readsB := match op0 with
    | .stat => false
    | .arrive | .arriveWait => decide (b ≠ 0)
    | _ => true
  let srcs := if readsB then [a, b] else [a]
  match s.operands word srcs [d] with
  | .error e => .error e
  | .ok vs => match barrierName s.me.group (arg vs 0) with
    | .error e => .error e
    | .ok name => match barrierOperand word op0 b (arg vs 1) with
      | .error e => .error e
      | .ok n0 =>
        let tok := match op0 with
          | .arriveWait => s.me.barwToken
          | _ => none
        let op := if tok.isSome then BarOp.wait else op0
        let n := match tok with | some t => t.toNat | none => n0
        if op.arrives && s.me.st != 0 then .error .forfeit
        else
          let key := barrierKey s.here name
          let home := s.barrierHome s.here name.level
          if home = .core s.here then barrierHere s word op srcs d key n (arg vs 0) else barrierAway s op srcs d key n (arg vs 0) home

/-- BARM (R237). -/
def execBarm (d a b : RegCode) (s : State) : Host.Outcome State Fault Refusal :=
  s.finish (barrierInstr (Instr.barm d a b).word .arm d.toNat a.toNat b.toNat s)
/-- BARV (R237). -/
def execBarv (d a b : RegCode) (s : State) : Host.Outcome State Fault Refusal :=
  s.finish (barrierInstr (Instr.barv d a b).word .arrive d.toNat a.toNat b.toNat s)
/-- BWAIT (R237). -/
def execBwait (d a b : RegCode) (s : State) : Host.Outcome State Fault Refusal :=
  s.finish (barrierInstr (Instr.bwait d a b).word .wait d.toNat a.toNat b.toNat s)
/-- BARW (R237). -/
def execBarw (d a b : RegCode) (s : State) : Host.Outcome State Fault Refusal :=
  s.finish (barrierInstr (Instr.barw d a b).word .arriveWait d.toNat a.toNat b.toNat s)
/-- BERR (R237). -/
def execBerr (d a b : RegCode) (s : State) : Host.Outcome State Fault Refusal :=
  s.finish (barrierInstr (Instr.berr d a b).word .err d.toNat a.toNat b.toNat s)
/-- BSTAT (R237). -/
def execBstat (d a : RegCode) (s : State) : Host.Outcome State Fault Refusal :=
  s.finish (barrierInstr (Instr.bstat d a).word .stat d.toNat a.toNat 0 s)

/-! ## Engine arrivals (R243, R140) -/

/-- A failure code is recorded in ERR (R140). -/
def recordErr (code : Nat) (sl : Slot) : Slot :=
  let n := fld sl.err 16 8
  { sl with err := pack [(if n = 0 then code else fld sl.err 0 16, 0, 16), (min 255 (n + 1), 16, 8)] }

/-- An engine's arrival at an object: a discarded failure gives its code back (R243). -/
def State.engineAt (s : State) (key : Nat) (code : Option Nat) : State × Option Nat :=
  let b := s.barrier key
  if b.state = 0 then (s, code)
  else (s.applyBarrier key (match code with | none => b.arrive 1 | some k => b.arriveError k), none)

/-- An object is in its error phase (R235). -/
def State.barrierErred (s : State) (key : Nat) : Bool := (s.barrier key).state == 2 && (s.barrier key).err

/-- The arrival of a finished command or copy of thread uid at a level and index, from core c (R128, R145, R243). The flags and the token
are those of a tile command that arrives at another package's object: its finishing release waits for the answer, since only the home
knows the phase (R50; log entry 27, DEDUCED). -/
def State.engineArrive (s : State) (c uid level index : Nat) (code : Option Nat) (flags : Nat := 0) (fin : Option Nat := none) : State :=
  let key := barrierKey c { level := level, index := index }
  match s.barrierHome c level with
  | .core _ =>
    let r := s.engineAt key code
    match r.2 with
    | none => r.1
    | some k => r.1.modThread uid (recordErr k)
  | .pkg p => s.sendAbroad c 64 uid p { ctx := 0, sup := true } (.engine code flags fin) (.engineArrive key code)
  | h => s.send { id := 0, uid := uid, src := .core c, slot := 64, dst := h, sup := true, body := .engineArrive key code }

/-! ## Events -/

/-- The waits held at a home. -/
def State.waitsAt (s : State) (h : Node) : Nat := countIf (fun w : BarWait => w.req.dst == h && w.req.src != h) s.barWaits

/-- BARRIER_OPERATION (R235, R234, R239, R272): an operation is applied at its home; a wait that goes on is held there, its
credit given back, or is answered RETRY when the home's wait store is full. -/
def barrierOperation (m : Nat) (s : State) : State :=
  match s.performable m with
  | some x => match x.body with
    | .barrier op key n reg info =>
      if s.barrierRefuses key x.ctx x.sup then s.respond x (.barrierAnswer reg 0 op.waits true info)
      else
        let r := s.barrierOp op key n x.ctx
        match r.2.2 with
        | none => r.1.respond x (.barrierAnswer reg r.2.1 op.waits false info)
        | some t =>
          if s.waitsAt x.dst < Config.homeWaitStore then
            let s1 := r.1.dropMsg m
            let s2 := { s1 with barWaits := s1.barWaits ++ [{ key := key, token := t, req := { x with credit := none, started := false } }] }
            match x.credit with
            | some k => s2.send { id := 0, src := x.dst, dst := x.src, slot := 64, resp := true, credit := some k, body := .credit }
            | none => s2
          else r.1.respond x (.retry (if op = .arriveWait then some (boolWord t) else none) none)
    | .engineArrive key code =>
      let r := s.engineAt key code
      let abroad := match x.src with | .pkg _ => true | _ => false
      if r.2.isNone && !abroad then r.1.dropMsg m else r.1.respond x (.engineAnswer r.2 (boolNat (abroad && !s.barrierErred key)) none)
    | _ => s
  | none => s

/-- BARRIER_OPERATION (R235). -/
def execBarrierOperation (m : Nat) (s : State) : Host.Outcome State Fault Refusal := .next (barrierOperation m s)

/-- The finishing release of a tile command of core c at its thread: token k is free, TL decrements, the flags are ORed, and a thread
parked under `.w`, which so sees that the command is over, goes on (R128, R50, R132). -/
def State.tileRelease (s : State) (c uid k flags : Nat) : State :=
  let s1 := (s.modThreadCounters uid fun sl =>
    { sl with tok := sl.tok &&& ~~~(1#8 <<< k), tl := sl.tl - 1, flags := orFlags sl.flags flags }).wakeThread uid (· == .command k)
  if (s.thread uid).any fun sl => sl.phase == .parked && sl.park == .command k then s1.forgetTiles c fun q => q.uid == uid && q.k == k else s1

/-- BARRIER_REPLY (R239, R234): the result goes to g[d]; the thread goes on, or LD is decremented; a refusal is a boundary
trap 0x05, unless the wait has ended by its limit, whose result stands (R240). A discarded failed arrival is recorded in ERR (R243), and
a command that arrived at another package's object makes its finishing release (R50, R128). -/
def barrierReply (m : Nat) (s : State) : State :=
  match s.response m with
  | some x => match x.body with
    | .barrierAnswer reg v wait refused info =>
      let s1 := s.dropMsg m
      let there := !wait || s1.waitsFor x.uid m
      let s2 := if wait then (if there then (s1.arriveReg x.uid reg v).resumeThread x.uid else s1)
        else s1.applyReply x.uid reg v false
      if refused && there then s2.pendThread x.uid 0x05 info else s2
    | .engineAnswer code flags fin =>
      let s1 := match code with
        | some k => (s.dropMsg m).modThread x.uid (recordErr k)
        | none => s.dropMsg m
      match fin with
      | some k => s1.tileRelease (match x.dst with | .core c => c | _ => 0) x.uid k flags
      | none => s1
    | _ => s
  | none => s

/-- BARRIER_REPLY (R239). -/
def execBarrierReply (m : Nat) (s : State) : Host.Outcome State Fault Refusal := .next (barrierReply m s)

/-- BARRIER_WAIT_LIMIT (R240, R272): the thread goes on with the wait-limit result, and the wait is cancelled at its home; a later
release is dropped. -/
def barrierLimit (u : Nat) (s : State) : State :=
  match waitExpired u true s with
  | some (c, sl, w) =>
    let s1 := (s.arriveReg u w.reg limitReached).resumeThread u
    if w.dst = .core c then { s1 with barWaits := s1.barWaits.filter fun y => y.req.id != w.op }
    else ({ s1 with outstanding := s1.outstanding.filter fun o => o.id != w.op } : State).send
      { id := 0, uid := u, src := .core c, slot := w.slot, dst := w.dst, ctx := sl.ctx, sup := sl.mode != 0, body := .cancel w.op }
  | none => s

/-- BARRIER_WAIT_LIMIT (R240). -/
def execBarrierWaitLimit (u : Nat) (s : State) : Host.Outcome State Fault Refusal := .next (barrierLimit u s)

/-- POD_HOME_LOST (R241): the operations outstanding at a pod home that is unreachable complete with the link-lost result. -/
def podHomeLost (s : State) : State :=
  s.failAbroad fun o => s.isUnreachable o.core o.pkg && (match o.what with | .barrier _ _ | .engine _ _ _ => true | _ => false)

/-- POD_HOME_LOST (R241). -/
def execPodHomeLost (s : State) : Host.Outcome State Fault Refusal := .next (podHomeLost s)

/-- CANCEL_REQUEST (R299, R240, R272): a parked full/empty request is removed and answered CANCELLED, a barrier wait removed;
otherwise the cancel is dropped. Another package names a wait by its own number for it. -/
def cancelRequest (m : Nat) (s : State) : State :=
  match s.performable m with
  | some x => match x.body, x.dst with
    | .cancel _, .core _ => cancelAt m s
    | .cancel op, _ =>
      let meant (w : BarWait) : Bool := match x.src with
        | .pkg _ => w.req.src == x.src && w.req.uid == op
        | _ => w.req.id == op
      { s.dropMsg m with barWaits := s.barWaits.filter fun w => !meant w }
    | _, _ => s
  | none => s

/-- CANCEL_REQUEST (R299). -/
def execCancelRequest (m : Nat) (s : State) : Host.Outcome State Fault Refusal := .next (cancelRequest m s)

end Sys2Proof.Machine
end

