-- ==== Sys2Proof/Machine/Scalar.lean ====
section
/-! DEFINITION. The scalar instructions without memory access: integer, immediate, constant and coordinate (R79 to R87). -/
namespace Sys2Proof.Machine

namespace Alu

/-- x + y modulo 2^64 (R79). -/
def add (x y : Word) : Word := x + y
/-- x - y modulo 2^64 (R79). -/
def sub (x y : Word) : Word := x - y
/-- x AND y (R79). -/
def and (x y : Word) : Word := x &&& y
/-- x OR y (R79). -/
def or (x y : Word) : Word := x ||| y
/-- x XOR y (R79). -/
def xor (x y : Word) : Word := x ^^^ y
/-- x AND NOT y (R79). -/
def andn (x y : Word) : Word := x &&& ~~~y
/-- x shifted left by y mod 64 (R79). -/
def sll (x y : Word) : Word := x <<< (y.toNat % 64)
/-- x shifted right by y mod 64, zeros in (R79). -/
def srl (x y : Word) : Word := x >>> (y.toNat % 64)
/-- x shifted right by y mod 64, copies of bit 63 in (R79). -/
def sra (x y : Word) : Word := x.sshiftRight (y.toNat % 64)
/-- x rotated left by y mod 64 (R79). -/
def rol (x y : Word) : Word := x.rotateLeft (y.toNat % 64)
/-- 1 if x < y, signed (R79). -/
def slt (x y : Word) : Word := boolWord (x.slt y)
/-- 1 if x < y, unsigned (R79). -/
def sltz (x y : Word) : Word := boolWord (x.ult y)
/-- 1 if x = y (R79). -/
def seq (x y : Word) : Word := boolWord (x == y)
/-- The smaller, signed (R79). -/
def min (x y : Word) : Word := if x.slt y then x else y
/-- The larger, signed (R79). -/
def max (x y : Word) : Word := if x.slt y then y else x
/-- The smaller, unsigned (R79). -/
def minz (x y : Word) : Word := if x.ult y then x else y
/-- The larger, unsigned (R79). -/
def maxz (x y : Word) : Word := if x.ult y then y else x
/-- Bits 63:0 of the product (R79). -/
def mul (x y : Word) : Word := x * y
/-- Bits 127:64 of the signed product (R79). -/
def mulh (x y : Word) : Word := ofInt (x.toInt * y.toInt / 2 ^ 64)
/-- Bits 127:64 of the unsigned product (R79). -/
def mulhz (x y : Word) : Word := ofNat (x.toNat * y.toNat / 2 ^ 64)
/-- The signed quotient, truncated; all ones for y = 0 (R79, R51). -/
def div (x y : Word) : Word := if y = 0 then allOnes else x.sdiv y
/-- The unsigned quotient; all ones for y = 0 (R79, R51). -/
def divz (x y : Word) : Word := if y = 0 then allOnes else x / y
/-- The signed remainder, with the sign of x; x for y = 0 (R79, R51). -/
def rem (x y : Word) : Word := if y = 0 then x else x.srem y
/-- The unsigned remainder; x for y = 0 (R79, R51). -/
def remz (x y : Word) : Word := if y = 0 then x else x % y
/-- Leading zeros; 64 for 0 (R79). -/
def clz (x : Word) : Word := if x = 0 then 64 else ofNat (63 - x.toNat.log2)
/-- Trailing zeros; 64 for 0 (R79). -/
def ctz (x : Word) : Word := ofNat (((List.range 64).find? (bitAt x)).getD 64)
/-- One bits (R79). -/
def popc (x : Word) : Word := ofNat (countIf (bitAt x) (List.range 64))
/-- Bit i moved to bit 63 - i (R79). -/
def brev (x : Word) : Word := x.reverse
/-- sext(bits(x, k, 0), k + 1) with k = bits(y, 5, 0) (R79). -/
def sext (x y : Word) : Word := ofInt (signed x.toNat (fld y 0 6 + 1))
/-- zext(bits(x, k, 0), k + 1) with k = bits(y, 5, 0) (R79). -/
def zext (x y : Word) : Word := ofNat (x.toNat % 2 ^ (fld y 0 6 + 1))

end Alu

/-- A two-source register operation (R73, R79). -/
def binary (word : Word) (d a b : RegCode) (f : Word → Word → Word) (s : State) : Except Stop State :=
  s.compute word [a.toNat, b.toNat] d.toNat fun vs => f (arg vs 0) (arg vs 1)

/-- A one-source register operation (R73, R79). -/
def unary (word : Word) (d a : RegCode) (f : Word → Word) (s : State) : Except Stop State :=
  s.compute word [a.toNat] d.toNat fun vs => f (arg vs 0)

/-- ADD (R79). -/
def execAdd (d a b : RegCode) (s : State) : Host.Outcome State Fault Refusal :=
  s.finish (binary (Instr.add d a b).word d a b (Alu.add) s)

/-- SUB (R79). -/
def execSub (d a b : RegCode) (s : State) : Host.Outcome State Fault Refusal :=
  s.finish (binary (Instr.sub d a b).word d a b (Alu.sub) s)

/-- AND (R79). -/
def execAnd (d a b : RegCode) (s : State) : Host.Outcome State Fault Refusal :=
  s.finish (binary (Instr.and d a b).word d a b (Alu.and) s)

/-- OR (R79). -/
def execOr (d a b : RegCode) (s : State) : Host.Outcome State Fault Refusal :=
  s.finish (binary (Instr.or d a b).word d a b (Alu.or) s)

/-- XOR (R79). -/
def execXor (d a b : RegCode) (s : State) : Host.Outcome State Fault Refusal :=
  s.finish (binary (Instr.xor d a b).word d a b (Alu.xor) s)

/-- ANDN (R79). -/
def execAndn (d a b : RegCode) (s : State) : Host.Outcome State Fault Refusal :=
  s.finish (binary (Instr.andn d a b).word d a b (Alu.andn) s)

/-- SLL (R79). -/
def execSll (d a b : RegCode) (s : State) : Host.Outcome State Fault Refusal :=
  s.finish (binary (Instr.sll d a b).word d a b (Alu.sll) s)

/-- SRL (R79). -/
def execSrl (d a b : RegCode) (s : State) : Host.Outcome State Fault Refusal :=
  s.finish (binary (Instr.srl d a b).word d a b (Alu.srl) s)

/-- SRA (R79). -/
def execSra (d a b : RegCode) (s : State) : Host.Outcome State Fault Refusal :=
  s.finish (binary (Instr.sra d a b).word d a b (Alu.sra) s)

/-- ROL (R79). -/
def execRol (d a b : RegCode) (s : State) : Host.Outcome State Fault Refusal :=
  s.finish (binary (Instr.rol d a b).word d a b (Alu.rol) s)

/-- SLT (R79). -/
def execSlt (d a b : RegCode) (s : State) : Host.Outcome State Fault Refusal :=
  s.finish (binary (Instr.slt d a b).word d a b (Alu.slt) s)

/-- SLTZ (R79). -/
def execSltz (d a b : RegCode) (s : State) : Host.Outcome State Fault Refusal :=
  s.finish (binary (Instr.sltz d a b).word d a b (Alu.sltz) s)

/-- SEQ (R79). -/
def execSeq (d a b : RegCode) (s : State) : Host.Outcome State Fault Refusal :=
  s.finish (binary (Instr.seq d a b).word d a b (Alu.seq) s)

/-- MIN (R79). -/
def execMin (d a b : RegCode) (s : State) : Host.Outcome State Fault Refusal :=
  s.finish (binary (Instr.min d a b).word d a b (Alu.min) s)

/-- MAX (R79). -/
def execMax (d a b : RegCode) (s : State) : Host.Outcome State Fault Refusal :=
  s.finish (binary (Instr.max d a b).word d a b (Alu.max) s)

/-- MINZ (R79). -/
def execMinz (d a b : RegCode) (s : State) : Host.Outcome State Fault Refusal :=
  s.finish (binary (Instr.minz d a b).word d a b (Alu.minz) s)

/-- MAXZ (R79). -/
def execMaxz (d a b : RegCode) (s : State) : Host.Outcome State Fault Refusal :=
  s.finish (binary (Instr.maxz d a b).word d a b (Alu.maxz) s)

/-- MUL (R79). -/
def execMul (d a b : RegCode) (s : State) : Host.Outcome State Fault Refusal :=
  s.finish (binary (Instr.mul d a b).word d a b (Alu.mul) s)

/-- MULH (R79). -/
def execMulh (d a b : RegCode) (s : State) : Host.Outcome State Fault Refusal :=
  s.finish (binary (Instr.mulh d a b).word d a b (Alu.mulh) s)

/-- MULHZ (R79). -/
def execMulhz (d a b : RegCode) (s : State) : Host.Outcome State Fault Refusal :=
  s.finish (binary (Instr.mulhz d a b).word d a b (Alu.mulhz) s)

/-- DIV (R79). -/
def execDiv (d a b : RegCode) (s : State) : Host.Outcome State Fault Refusal :=
  s.finish (binary (Instr.div d a b).word d a b (Alu.div) s)

/-- DIVZ (R79). -/
def execDivz (d a b : RegCode) (s : State) : Host.Outcome State Fault Refusal :=
  s.finish (binary (Instr.divz d a b).word d a b (Alu.divz) s)

/-- REM (R79). -/
def execRem (d a b : RegCode) (s : State) : Host.Outcome State Fault Refusal :=
  s.finish (binary (Instr.rem d a b).word d a b (Alu.rem) s)

/-- REMZ (R79). -/
def execRemz (d a b : RegCode) (s : State) : Host.Outcome State Fault Refusal :=
  s.finish (binary (Instr.remz d a b).word d a b (Alu.remz) s)

/-- CLZ (R79). -/
def execClz (d a : RegCode) (s : State) : Host.Outcome State Fault Refusal :=
  s.finish (unary (Instr.clz d a).word d a (Alu.clz) s)

/-- CTZ (R79). -/
def execCtz (d a : RegCode) (s : State) : Host.Outcome State Fault Refusal :=
  s.finish (unary (Instr.ctz d a).word d a (Alu.ctz) s)

/-- POPC (R79). -/
def execPopc (d a : RegCode) (s : State) : Host.Outcome State Fault Refusal :=
  s.finish (unary (Instr.popc d a).word d a (Alu.popc) s)

/-- BREV (R79). -/
def execBrev (d a : RegCode) (s : State) : Host.Outcome State Fault Refusal :=
  s.finish (unary (Instr.brev d a).word d a (Alu.brev) s)

/-- SEXT (R79). -/
def execSext (d a b : RegCode) (s : State) : Host.Outcome State Fault Refusal :=
  s.finish (binary (Instr.sext d a b).word d a b (Alu.sext) s)

/-- ZEXT (R79). -/
def execZext (d a b : RegCode) (s : State) : Host.Outcome State Fault Refusal :=
  s.finish (binary (Instr.zext d a b).word d a b (Alu.zext) s)

/-- ADDI (R81). -/
def execAddi (d a : RegCode) (v : BitVec 12) (s : State) : Host.Outcome State Fault Refusal :=
  s.finish (unary (Instr.addi d a v).word d a (fun x => Alu.add x (imm v)) s)

/-- ANDI (R81). -/
def execAndi (d a : RegCode) (v : BitVec 12) (s : State) : Host.Outcome State Fault Refusal :=
  s.finish (unary (Instr.andi d a v).word d a (fun x => Alu.and x (imm v)) s)

/-- ORI (R81). -/
def execOri (d a : RegCode) (v : BitVec 12) (s : State) : Host.Outcome State Fault Refusal :=
  s.finish (unary (Instr.ori d a v).word d a (fun x => Alu.or x (imm v)) s)

/-- XORI (R81). -/
def execXori (d a : RegCode) (v : BitVec 12) (s : State) : Host.Outcome State Fault Refusal :=
  s.finish (unary (Instr.xori d a v).word d a (fun x => Alu.xor x (imm v)) s)

/-- SLTI (R81). -/
def execSlti (d a : RegCode) (v : BitVec 12) (s : State) : Host.Outcome State Fault Refusal :=
  s.finish (unary (Instr.slti d a v).word d a (fun x => Alu.slt x (imm v)) s)

/-- SLTZI (R81). -/
def execSltzi (d a : RegCode) (v : BitVec 12) (s : State) : Host.Outcome State Fault Refusal :=
  s.finish (unary (Instr.sltzi d a v).word d a (fun x => Alu.sltz x (imm v)) s)

/-- SLLI (R82). -/
def execSlli (d a : RegCode) (v : BitVec 6) (s : State) : Host.Outcome State Fault Refusal :=
  s.finish (unary (Instr.slli d a v).word d a (fun x => Alu.sll x (v.setWidth 64)) s)

/-- SRLI (R82). -/
def execSrli (d a : RegCode) (v : BitVec 6) (s : State) : Host.Outcome State Fault Refusal :=
  s.finish (unary (Instr.srli d a v).word d a (fun x => Alu.srl x (v.setWidth 64)) s)

/-- SRAI (R82). -/
def execSrai (d a : RegCode) (v : BitVec 6) (s : State) : Host.Outcome State Fault Refusal :=
  s.finish (unary (Instr.srai d a v).word d a (fun x => Alu.sra x (v.setWidth 64)) s)

/-- ROLI (R82). -/
def execRoli (d a : RegCode) (v : BitVec 6) (s : State) : Host.Outcome State Fault Refusal :=
  s.finish (unary (Instr.roli d a v).word d a (fun x => Alu.rol x (v.setWidth 64)) s)

/-- LUI (R83). -/
def execLui (d : RegCode) (v : BitVec 19) (s : State) : Host.Outcome State Fault Refusal :=
  s.finish (s.compute (Instr.lui d v).word [] d.toNat fun _ => imm v <<< 12)

/-- ADDPC (R84): no range check. -/
def execAddpc (d : RegCode) (v : BitVec 19) (s : State) : Host.Outcome State Fault Refusal :=
  s.finish (s.compute (Instr.addpc d v).word [] d.toNat fun _ =>
    addrOf s.here (((s.me.pc : Int) + 4 * v.toInt) % 2 ^ 21).toNat)

namespace Coord

/-- The absolute place a relative address names, if it is in the grid (R86, R87). -/
def absolute (c : Nat) (x : Word) : Option (Nat × Nat) :=
  let ax := (coreX c : Int) + signed (fld x 32 8) 8
  let ay := (coreY c : Int) + signed (fld x 40 8) 8
  if 0 ≤ ax ∧ ax ≤ 31 ∧ 0 ≤ ay ∧ ay ≤ 39 then some (ax.toNat, ay.toNat) else none

/-- CABS (R86): the absolute form of a relative address. -/
def cabs (c : Nat) (x : Word) : Except Stop Word :=
  if fld x 61 3 = 1 then
    match absolute c x with
    | some p => .ok (setFld (setFld (setFld x 32 8 p.1) 40 8 p.2) 61 1 0)
    | none => .error (.trap 0x04 x)
  else .ok x

/-- CREL (R86): the relative form of an absolute address. -/
def crel (c : Nat) (x : Word) : Word :=
  if fld x 61 3 = 0 then
    setFld (setFld (setFld x 32 8 (fld x 32 8 + 256 - coreX c)) 40 8 (fld x 40 8 + 256 - coreY c)) 61 1 1
  else x

/-- CPACK (R86). -/
def cpack (x : Word) : Word := pack [(fld x 0 8, 32, 8), (fld x 8 8, 40, 8), (fld x 16 1, 61, 1)]

/-- The place a scratchpad address names, for CX and CY (R86): none if x is not a scratchpad address. The relative form
is that of space 00 alone: in space 10 bit 61 says bulk. -/
def place (c : Nat) (x : Word) : Except Stop (Option (Nat × Nat)) :=
  if fld x 62 2 = 0 ∧ bitAt x 61 then
    match absolute c x with
    | some p => .ok (some p)
    | none => .error (.trap 0x04 x)
  else if fld x 62 2 = 0 ∨ (fld x 62 2 = 2 ∧ !bitAt x 61) then .ok (some (fld x 32 8, fld x 40 8))
  else .ok none

end Coord

/-- A one-source operation that may trap on the value (R87). -/
def unaryTrap (word : Word) (d a : RegCode) (f : Word → Except Stop Word) (s : State) : Except Stop State :=
  match s.operands word [a.toNat] [d.toNat] with
  | .error e => .error e
  | .ok vs => match f (arg vs 0) with
    | .error e => .error e
    | .ok w => match s.destReady d.toNat with
      | .error e => .error e
      | .ok _ => .ok (s.complete [a.toNat] d.toNat w)

/-- CABS (R86, R87). -/
def execCabs (d a : RegCode) (s : State) : Host.Outcome State Fault Refusal :=
  s.finish (unaryTrap (Instr.cabs d a).word d a (Coord.cabs s.here) s)

/-- CREL (R86). -/
def execCrel (d a : RegCode) (s : State) : Host.Outcome State Fault Refusal :=
  s.finish (unary (Instr.crel d a).word d a (Coord.crel s.here) s)

/-- CPACK (R86). -/
def execCpack (d a : RegCode) (s : State) : Host.Outcome State Fault Refusal :=
  s.finish (unary (Instr.cpack d a).word d a Coord.cpack s)

/-- CX (R86, R87). -/
def execCx (d a : RegCode) (s : State) : Host.Outcome State Fault Refusal :=
  s.finish (unaryTrap (Instr.cx d a).word d a
    (fun x => (Coord.place s.here x).map fun p => match p with | some q => ofNat q.1 | none => allOnes) s)

/-- CY (R86, R87). -/
def execCy (d a : RegCode) (s : State) : Host.Outcome State Fault Refusal :=
  s.finish (unaryTrap (Instr.cy d a).word d a
    (fun x => (Coord.place s.here x).map fun p => match p with | some q => ofNat q.2 | none => allOnes) s)

end Sys2Proof.Machine
end

