-- ==== Sys2Proof/Machine/Branch.lean ====
section
/-! DEFINITION. Branches, jumps and LOOP (R85, R88 to R91, R167), and the two events of a fetch (R71, R85). -/
namespace Sys2Proof.Machine

/-- The offset a branch or jump of the issuing slot names: its own offset plus 4 times the field (R52, R89). -/
def State.target {w : Nat} (s : State) (off : BitVec w) : Int := (s.me.pc : Int) + 4 * off.toInt

/-- The target lies in the scratchpad (R89, R90). -/
def inCode (t : Int) : Bool := decide (0 ≤ t) && decide (t < Config.spadSize)

/-- A branch: taken if the condition holds, with its target checked; else execution goes on (R88, R89). -/
def branch (s : State) (srcs : List Nat) (off : BitVec 16) (cond : Bool) : Except Stop State :=
  if cond then
    if inCode (s.target off) then .ok ((s.consume srcs).jump (s.target off).toNat)
    else .error (.trap 0x04 (ofInt (s.target off)))
  else .ok (s.completeNone srcs)

/-- A branch on the value of a register (R88). -/
def branchOn (word : Word) (a : RegCode) (off : BitVec 16) (p : Word → Bool) (s : State) : Except Stop State :=
  match s.operands word [a.toNat] [] with
  | .error e => .error e
  | .ok vs => branch s [a.toNat] off (p (arg vs 0))

/-- The full bit that BFULL and BEMPTY read: of a window register, of a mailbox register, or whether the inbound queue
of a bound queue code holds an entry (R88). -/
def State.fullTest (s : State) (v : Nat) : Bool :=
  match s.me.queueOf v with
  | some n => !(s.pipe s.here (s.me.inQueue n)).entries.isEmpty
  | none => if s.isMail v then (s.coreRec s.here).mailbox.isSome else s.regIsFull s.cur v

/-- A branch on a full bit: it never parks and never pops (R88). -/
def branchFull (word : Word) (a : RegCode) (off : BitVec 16) (want : Bool) (s : State) : Except Stop State :=
  match s.checkCodes [a.toNat] with
  | .error e => .error e
  | .ok _ => match s.checkQueues word [a.toNat] [] with
    | .error e => .error e
    | .ok _ => branch s [] off (s.fullTest a.toNat == want)

/-- BZ (R88). -/
def execBz (a : RegCode) (off : BitVec 16) (s : State) : Host.Outcome State Fault Refusal :=
  s.finish (branchOn (Instr.bz a off).word a off ((· == 0)) s)

/-- BNZ (R88). -/
def execBnz (a : RegCode) (off : BitVec 16) (s : State) : Host.Outcome State Fault Refusal :=
  s.finish (branchOn (Instr.bnz a off).word a off ((· != 0)) s)

/-- BLTZ (R88). -/
def execBltz (a : RegCode) (off : BitVec 16) (s : State) : Host.Outcome State Fault Refusal :=
  s.finish (branchOn (Instr.bltz a off).word a off ((·.msb)) s)

/-- BGEZ (R88). -/
def execBgez (a : RegCode) (off : BitVec 16) (s : State) : Host.Outcome State Fault Refusal :=
  s.finish (branchOn (Instr.bgez a off).word a off ((!·.msb)) s)

/-- BGTZ (R88). -/
def execBgtz (a : RegCode) (off : BitVec 16) (s : State) : Host.Outcome State Fault Refusal :=
  s.finish (branchOn (Instr.bgtz a off).word a off (fun x => !x.msb && x != 0) s)

/-- BLEZ (R88). -/
def execBlez (a : RegCode) (off : BitVec 16) (s : State) : Host.Outcome State Fault Refusal :=
  s.finish (branchOn (Instr.blez a off).word a off (fun x => x.msb || x == 0) s)

/-- BFULL (R88). -/
def execBfull (a : RegCode) (off : BitVec 16) (s : State) : Host.Outcome State Fault Refusal :=
  s.finish (branchFull (Instr.bfull a off).word a off true s)

/-- BEMPTY (R88). -/
def execBempty (a : RegCode) (off : BitVec 16) (s : State) : Host.Outcome State Fault Refusal :=
  s.finish (branchFull (Instr.bempty a off).word a off false s)

/-- A jump with its link written to d; the target was computed before (R90, R91). -/
def State.jumpLink (s : State) (srcs : List Nat) (d t : Nat) : State :=
  ((s.consume srcs).jump t).writeDest d (addrOf s.here (s.me.pc + 4))

/-- JMP (R90). -/
def jumpTo (word : Word) (d : RegCode) (v : BitVec 19) (s : State) : Except Stop State :=
  match s.operands word [] [d.toNat] with
  | .error e => .error e
  | .ok _ =>
    if inCode (s.target v) then
      match s.destReady d.toNat with
      | .error e => .error e
      | .ok _ => .ok (s.jumpLink [] d.toNat (s.target v).toNat)
    else .error (.trap 0x04 (ofInt (s.target v)))

/-- JMP (R90). -/
def execJmp (d : RegCode) (v : BitVec 19) (s : State) : Host.Outcome State Fault Refusal :=
  s.finish (jumpTo (Instr.jmp d v).word d v s)

/-- JMPR's body (R91). -/
def jumpReg (word : Word) (d a : RegCode) (v : BitVec 12) (s : State) : Except Stop State :=
  match s.operands word [a.toNat] [d.toNat] with
  | .error e => .error e
  | .ok vs =>
    let t := arg vs 0 + imm v
    match ownOffset s.here t with
    | none => .error (.trap 0x04 t)
    | some off =>
      if t.toNat % 4 ≠ 0 then .error (.trap 0x03 t)
      else match s.destReady d.toNat with
        | .error e => .error e
        | .ok _ => .ok (s.jumpLink [a.toNat] d.toNat off)

/-- JMPR (R91). -/
def execJmpr (d a : RegCode) (v : BitVec 12) (s : State) : Host.Outcome State Fault Refusal :=
  s.finish (jumpReg (Instr.jmpr d a v).word d a v s)

/-- LOOP's body (R167): privilege first (step 2 of R71); then g[c]; then the depth and the end of the body. TRAPINFO of
the trap 0x04 is the offset of the body's last word (log entry 16, DEDUCED). -/
def loopBody (word : Word) (c : RegCode) (len : BitVec 12) (s : State) : Except Stop State :=
  if s.me.mode ≠ 2 then .error (.trap 0x0D word) else
  match s.operands word [c.toNat] [] with
  | .error e => .error e
  | .ok vs =>
    let last := s.me.pc + 4 * len.toNat
    if 4 ≤ s.me.loops.length then .error (.trap 0x01 word)
    else if 0x17FFFC < last then .error (.trap 0x04 (ofNat last))
    else if arg vs 0 = 0 then
      .ok ((s.consume [c.toNat]).modMe fun sl =>
        let n := loopEnd (last + 4) sl.loops
        { sl with pc := n.1, loops := n.2, released := false })
    else
      .ok ((s.consume [c.toNat]).modMe fun sl =>
        { sl with pc := sl.pc + 4, loops := { start := sl.pc + 4, stop := last + 4, count := (arg vs 0).toNat } :: sl.loops, released := false })

/-- LOOP (R167). -/
def execLoop (c : RegCode) (len : BitVec 12) (s : State) : Host.Outcome State Fault Refusal :=
  s.finish (loopBody (Instr.loop c len).word c len s)

/-- What TRAPINFO holds for a word that names no instruction: the word (R71). For a QBIND with a d field below 124 it is what g[a] holds
(R196), full or not, since the field is checked before any register is read (R71); the word where a names no register of the window
(log entry 53, DEDUCED). -/
def illegalInfo (n : Nat) (s : State) : Word :=
  let a := n / 2 ^ 12 % 2 ^ 7
  if n / 2 ^ 26 = 0x24 ∧ n % 2 ^ 12 = 0 ∧ n / 2 ^ 19 % 2 ^ 7 < 124 ∧ a < s.me.limit ∧ s.me.queueOf a = none then s.reg s.cur a else ofNat n

/-- ILLEGAL_ENCODING (R71): a word that names no instruction is the trap 0x01, before any register is read. -/
def illegalBody (w : BitVec 32) (s : State) : Except Stop State := .error (.trap 0x01 (illegalInfo w.toNat s))

/-- ILLEGAL_ENCODING (R71). -/
def execIllegalEncoding (w : BitVec 32) (s : State) : Host.Outcome State Fault Refusal := s.finish (illegalBody w s)

/-- FALL_THROUGH_PAST_SCRATCHPAD (R85): the issuing slot's pc has passed offset 0x17_FFFC. -/
def execFallThrough (s : State) : Host.Outcome State Fault Refusal :=
  s.finish (.error (.trap 0x04 (addrOf s.here Config.spadSize)))

end Sys2Proof.Machine
end

