-- ==== Sys2Proof/Machine/Kernel.lean ====
section
/-! DEFINITION. Kernels (R213 to R231): packets, LAUNCH, TRIGGER and DONE, the launch queue and the kernel table,
placement, reports, membership, and the completion notices of R391. -/
namespace Sys2Proof.Machine

/-! ## Packets (R214, R215) -/

/-- An address a packet may name for IMG or REPORT: space 00 or 01, or space 10 of this package. -/
def packetAddr (pkg : Nat) (a : Word) : Bool :=
  let sp := fld a 62 2
  sp == 0 || sp == 1 || (sp == 2 && fld a 48 6 == pkg)

/-- The packet is malformed (R215) in package pkg. -/
def malformedPacket (pkg : Nat) (w : List Word) : Bool :=
  let a := w.getD 0 0
  let b := w.getD 1 0
  let img := w.getD 2 0
  let l := w.getD 3 0
  let dname := w.getD 6 0
  let rep := w.getD 7 0
  let r := packetRect b
  let badRect := decide (31 < r.x1) || decide (39 < r.y1) || decide (r.x1 < r.x0) || decide (r.y1 < r.y0)
  fld a 21 3 != 0 || fld a 30 2 != 0 || fld a 38 2 != 0 || fld a 44 4 != 0 || fld a 57 7 != 0
  || fld b 60 1 != 0 || fld b 61 2 != 0 || fld l 21 11 != 0 || fld l 53 11 != 0
  || fld a 0 21 % 4 != 0 || decide (Config.spadSize ≤ fld a 0 21)
  || fld a 32 6 == 0 || (bitAt a 28 && decide (1 < fld a 24 4))
  || badRect || (!badRect && decide (barrierCount (rectLevel r) ≤ fld a 40 4))
  || fld l 0 21 % 8 != 0 || fld l 32 21 % 8 != 0 || decide (Config.spadSize < fld l 32 21 + fld l 0 21)
  || (fld l 0 21 != 0 && img == 0) || (img != 0 && !packetAddr pkg img)
  || (dname != 0 && !isName dname) || rep.toNat % 64 != 0 || (rep != 0 && !packetAddr pkg rep)

namespace KernelRec
/-- The context (R214). -/
def ctx (k : KernelRec) : Nat := fld (k.word 0) 48 9
/-- Threads per core. -/
def tpc (k : KernelRec) : Nat := fld (k.word 0) 32 6
/-- The window in registers. -/
def limit (k : KernelRec) : Nat := 8 * (fld (k.word 0) 24 4 + 1)
/-- The rectangle. -/
def rect (k : KernelRec) : Rect := packetRect (k.word 1)
/-- ALL. -/
def all (k : KernelRec) : Bool := bitAt (k.word 0) 29
/-- ILEN. -/
def ilen (k : KernelRec) : Nat := fld (k.word 3) 0 21
/-- IOFF. -/
def ioff (k : KernelRec) : Nat := fld (k.word 3) 32 21
/-- The corner core, from which the root resolves an address (log entry 23, DEDUCED). -/
def corner (k : KernelRec) : Nat := coreAt (k.rect.x0 % 32) (k.rect.y0 % 40)
/-- The rights of the work done for the kernel (R403). -/
def rights (k : KernelRec) : Rights := { ctx := k.ctx, sup := k.ctx == 0 }
/-- The identifier of entry i (R217). -/
def ident (k : KernelRec) (i : Nat) : Word := ofNat (0x80000000 + k.gen * 2 ^ 16 + i)
end KernelRec

/-! ## Status words (R225) -/

/-- The status word of one retired thread. -/
def threadStatus (cause : Nat) : Word := pack [(cause, 0, 8), (boolNat (cause != 0), 8, 16), (1, 24, 24), (1, 63, 1)]
/-- The status word of one discarded thread. -/
def discardStatus : Word := pack [(1, 24, 24), (1, 61, 1), (1, 63, 1)]
/-- The status word of a refused launch. -/
def refusalStatus (reason : Nat) : Word := pack [(reason, 0, 8), (1, 62, 1), (1, 63, 1)]
/-- combine(s, t) of R225. -/
def combine (a b : Word) : Word :=
  pack [(max (fld a 0 8) (fld b 0 8), 0, 8), (min 0xFFFF (fld a 8 16 + fld b 8 16), 8, 16),
    (min 0xFFFFFF (fld a 24 24 + fld b 24 24), 24, 24), (fld a 61 1 ||| fld b 61 1, 61, 1), (1, 63, 1)]

/-! ## LAUNCH, TRIGGER and DONE -/

/-- LAUNCH (R216). -/
def launch (word : Word) (d a : RegCode) (s : State) : Except Stop State :=
  match s.operands word [a.toNat] [d.toNat] with
  | .error e => .error e
  | .ok vs =>
    let p := arg vs 0
    match s.resolve s.here s.rights p 8 with
    | .error e => .error e
    | .ok loc => match (match loc with | .spad c off => if c = s.here then some off else none | _ => none) with
      | none => .error (.trap 0x04 p)
      | some off =>
        if p.toNat % 64 ≠ 0 then .error (.trap 0x03 p)
        else
          let w := s.readWords (spadKey s.here off) 8
          let b := w.getD 1 0
          let rel : Except Stop Word :=
            if bitAt b 60 then
              (State.resolveRect s.here (setFld (ofNat (fld b 0 32)) 32 1 1) word).map fun r =>
                setFld (setFld b 0 32 (r.x0 + r.y0 * 2 ^ 8 + r.x1 * 2 ^ 16 + r.y1 * 2 ^ 24)) 60 1 0
            else .ok b
          match rel with
          | .error e => .error e
          | .ok b1 =>
            let pk := w.set 1 b1
            if malformedPacket s.pkgNum pk then .error (.trap 0x01 p)
            else if s.me.mode = 0 ∧ fld (pk.getD 0 0) 48 9 ≠ s.me.ctx then .error (.trap 0x0D word)
            else match s.destReady d.toNat with
              | .error e => .error e
              | .ok _ =>
                if s.me.st ≠ 0 ∨ 63 ≤ s.me.ld then .error .forfeit
                else match s.requestAs s.ownRights (.ctrl 0) (.launch pk d.toNat) with
                  | .error e => .error e
                  | .ok s1 =>
                    .ok ((((s1.modMe fun sl => { sl with ld := sl.ld + 1 }).consume [a.toNat]).awaitDest d.toNat).advance)

/-- LAUNCH (R216). -/
def execLaunch (d a : RegCode) (s : State) : Host.Outcome State Fault Refusal := s.finish (launch (Instr.launch d a).word d a s)

/-- A placed thread of core c is counted as triggered (R227, R228). -/
def State.countTrigger (s : State) (w : Word) (c : Nat) : State :=
  if s.kernelLive w then s.modKernelCore (kernelId w) c fun k => { k with untriggered := k.untriggered - 1 } else s

/-- TRIGGER (R227, R229). -/
def trigger (s : State) : Except Stop State :=
  let w := s.me.kernel
  if !kernelV w then .error (.trap 0x01 Instr.trigger.word)
  else if s.me.st ≠ 0 then .error .forfeit
  else if kernelLnch w && !kernelTrig w then
    let s1 := s.modMe fun sl => { sl with kernel := setFld sl.kernel 32 1 1 }
    let s2 := match s.me.kpkg with
      | some p => s1.send { id := 0, uid := 0, src := .core s.here, slot := 64, dst := .pkg p, resp := true, sup := true, body := .triggerNotice w (s.me.countAt.getD s.me.originCore) }
      | none => s1.countTrigger w (s.me.countAt.getD s.here)
    .ok (s2.completeNone [])
  else .ok (s.completeNone [])

/-- TRIGGER (R227). -/
def execTrigger (s : State) : Host.Outcome State Fault Refusal := s.finish (trigger s)

/-- DONE (R230). -/
def doneBody (word : Word) (d a : RegCode) (s : State) : Except Stop State :=
  match s.operands word [a.toNat] [d.toNat] with
  | .error e => .error e
  | .ok vs =>
    let w := arg vs 0
    if fld w 32 32 ≠ 0 ∨ !bitAt w 31 then .error (.trap 0x01 word)
    else match s.destReady d.toNat with
      | .error e => .error e
      | .ok _ =>
        if 63 ≤ s.me.ld then .error .forfeit
        else match s.requestAs s.ownRights (.ctrl 0) (.kernelQuery w d.toNat) with
          | .error e => .error e
          | .ok s1 => .ok ((((s1.modMe fun sl => { sl with ld := sl.ld + 1 }).consume [a.toNat]).awaitDest d.toNat).advance)

/-- DONE (R230). -/
def execDone (d a : RegCode) (s : State) : Host.Outcome State Fault Refusal := s.finish (doneBody (Instr.done d a).word d a s)

/-! ## Reports, status and notices (R223, R226, R391) -/

namespace State

/-- The key of an access without page-fault service (R221, R223): a translation that is missing or refused, or whose context is FREE,
gives none (R245). -/
def plainKey (s : State) (c : Nat) (r : Rights) (a : Word) (n : Nat) (write : Bool) : Option Nat :=
  match s.resolve c r a n with
  | .ok (.spad t off) => if off + n ≤ Config.spadSize then some (spadKey t off) else none
  | .ok (.bulk va) => if !s.mayWalk r.ctx then none else match s.walk r.ctx va with
    | .leaf e level _ =>
      if denies r write e then none
      else some (bulkKey (fld e 9 30 * 512 + va % 2 ^ spanBits level))
    | .fault _ _ => none
  | _ => none

/-- The heat updates of the walks that an agent makes for n bytes from an address (R250). -/
def plainHeat (s : State) (src : Node) (c : Nat) (r : Rights) (a : Word) (n : Nat) (write : Bool) : State :=
  match s.resolve c r a 1 with
  | .ok (.bulk va) => s.sendHeats src r write va n
  | _ => s

/-- The heat updates of an agent that goes on to m bytes from an address: of the pages that begin there, and of the page that the first
byte is in unless it has walked that already (R250). -/
def heatOn (s : State) (src : Node) (c : Nat) (r : Rights) (a : Word) (m : Nat) (write first : Bool) : State :=
  let skip := if first then 0 else (0x10000 - fld a 0 16) % 0x10000
  if skip < m then s.plainHeat src c r (a + ofNat skip) (m - skip) write else s

/-- The keys of n consecutive words, none if one of them faults. -/
def plainKeys (s : State) (c : Nat) (r : Rights) (a : Word) (n : Nat) (write : Bool) : Option (List Nat) :=
  (List.range n).mapM fun i => s.plainKey c r (a + ofNat (8 * i)) 8 write

/-- Words are written to the report at address a of a kernel of context ctx, rooted at a die with a corner core, from word i on; a fault
drops them (R223). -/
def writeReportAt (s : State) (die corner ctx : Nat) (a : Word) (i : Nat) (ws : List Word) : State :=
  let r : Rights := { ctx := ctx, sup := ctx == 0 }
  if a = 0 ∨ !packetAddr s.pkgNum a then s
  else
    let s1 := s.plainHeat (.ctrl die) corner r a 192 true
    match s.plainKeys corner r a 24 true with
    | none => s1
    | some keys => ((keys.drop i).zip ws).foldl (fun x e => x.put64 e.1 e.2) s1

/-- Words are written to a kernel's REPORT from word i on, or to the rack scheduler's port (R223). -/
def writeReport (s : State) (k i : Nat) (ws : List Word) : State :=
  let r := s.kernelRec k
  if r.src = 2 then (if i = 0 then { s with signals := s.signals ++ [(3, r.port, ws)] } else s)
  else s.writeReportAt r.rootDie r.corner r.ctx (r.word 7) i ws

/-- The residency report of a kernel (R223). -/
def report (s : State) (k : Nat) (threads : Nat) : State :=
  let r := s.kernelRec k
  let granted := if threads = 0 then [] else r.granted
  let map := (List.range 20).map fun i => granted.foldl (fun (w : Word) c => if c / 64 = i then w ||| (1#64 <<< (c % 64)) else w) 0
  s.writeReport k 0 ([pack [(fld (r.ident k) 0 32, 0, 32), (r.src, 32, 2), (r.reason, 40, 8)],
    pack [(granted.length, 0, 11), (threads, 16, 17), (r.refused.length, 48, 11)], 0, 0] ++ map)

/-- A kernel's word goes to its DNAME, as an agent of its context (R226); a failure code goes to DERR (R223). -/
def deliverStatus (s : State) (k : Nat) (w : Word) : State :=
  let r := s.kernelRec k
  let nm := r.word 6
  let o : Origin := .kernel r.rootDie r.corner r.ctx (if r.src = 2 then 0 else r.word 7)
  if nm = 0 then s
  else if !s.nameUsable nm then s.writeReport k 3 [0x048F]
  else if namePkg nm = s.pkgNum then
    s.send { id := 0, src := .ctrl r.rootDie, dst := .core (nameCore nm), resp := true, ctx := r.ctx, sup := r.rights.sup
             body := .deliver nm w o }
  else s.sendAbroad r.corner 64 0 (namePkg nm) r.rights (.deliver nm o) (.deliver nm w o)

/-- A completion notice for the kernel's master (R391). -/
def notice (s : State) (k : Nat) (w : Word) : State :=
  let r := s.kernelRec k
  let id := fld (r.ident k) 0 32
  match r.src with
  | 1 =>
    if 256 ≤ s.notes.length then { s with noteLost := (s.noteLost + 1) % 65536 }
    else { s with notes := s.notes ++ [id], signals := if s.notes.isEmpty then s.signals ++ [(0, 0, [])] else s.signals }
  | 2 => { s with signals := s.signals ++ [(3, r.port, [w])] }
  | 3 =>
    if 256 ≤ s.bnotes.length then { s with bnoteLost := (s.bnoteLost + 1) % 65536 }
    else { s with bnotes := s.bnotes ++ [id], signals := if s.bnotes.isEmpty then s.signals ++ [(2, 0, [])] else s.signals }
  | _ => s

/-- An entry becomes RETIRED with its word, after STATUS is written and delivered (R226). -/
def retireKernel (s : State) (k : Nat) (w : Word) : State :=
  let s1 := (s.writeReport k 2 [w]).deliverStatus k w
  let s2 := s1.modKernel k fun r => { r with state := 5, status := w }
  { s2 with retired := s2.retired ++ [k], launchQueue := s2.launchQueue.filter (· != k) }.notice k w

/-- A launch is refused whole (R222): reservations end, the report and the refusal status go out. -/
def refuseKernel (s : State) (k reason : Nat) : State :=
  let id := (s.kernelRec k).ident k
  let s1 : State := { s with slots := s.slots.filterMap fun e =>
    if e.2.phase == .reserved && e.2.kernel == id then (if e.2.vacated = {} then none else some (e.1, e.2.vacated)) else some e }
  let s2 := s1.modKernel k fun r => { r with reason := reason }
  (s2.report k 0).retireKernel k (refusalStatus reason)

/-! ## The queue and the table (R217 to R219) -/

/-- The entry a packet takes: the lowest FREE one, else the one that retired earliest (R217). -/
def kernelEntry (s : State) : Option Nat :=
  match (List.range 1024).find? fun i => (s.kernelRec i).state == 0 with
  | some i => some i
  | none => s.retired.head?

/-- A packet arrives at the controller of die 0 (R217, R390): the answer and the state. -/
def acceptPacket (s : State) (pk : List Word) (src port : Nat) : Word × State :=
  if 256 ≤ s.launchQueue.length then (allOnes, s)
  else match s.kernelEntry with
    | none => (0xFFFFFFFFFFFFFFFE, s)
    | some i =>
      let k : KernelRec := { state := 1, gen := ((s.kernelRec i).gen + 1) % 4096, packet := pk, src := src, port := port }
      let s1 : State := { s with kernels := Store.set {} s.kernels i k, retired := s.retired.filter (· != i)
                                 kernelCores := s.kernelCores.filter fun e => e.1 / 1280 != i
                                 launchQueue := s.launchQueue ++ [i] }
      (k.ident i, if src ≠ 0 && malformedPacket s.pkgNum pk then s1.refuseKernel i 8 else s1)

/-- A queued packet's prerequisite allows it (R219). -/
def depAllows (s : State) (k : KernelRec) : Bool :=
  let b := k.word 1
  if !bitAt b 63 then true
  else
    let p := s.kernelRec (fld b 32 10)
    p.state == 0 || p.gen != fld b 48 12 || p.state == 5 || (p.state == 4 && p.ctx == k.ctx)

/-- A root controller is placing a kernel (R219). -/
def rootBusy (s : State) (d : Nat) : Bool := s.kernels.any fun e => e.2.state == 2 && e.2.rootDie == d

/-- A core is eligible for a kernel (R220). -/
def eligible (s : State) (k : KernelRec) (c : Nat) : Bool :=
  k.rect.holds c && !s.isOffline c && (k.ctx == 0 || s.inPartition k.ctx c)

/-- The eligible cores, in snake order. -/
def eligibleCores (s : State) (k : KernelRec) : List Nat := k.rect.snake.filter (s.eligible k)

/-- TPC slots with their windows are reserved on a core, or none (R220, R155). -/
def reserve (s : State) (id : Word) (c limit : Nat) : Nat → Option State
  | 0 => some s
  | n + 1 => match s.freeSlot c, s.freeWindow c limit with
    | some sl, some base => (s.modSlot (c * 64 + sl) fun x => { x.vacated with phase := .reserved, base := base, limit := limit, kernel := id }).reserve id c
        limit n
    | _, _ => none

/-- Every eligible core has answered the reserve wave. -/
def allAnswered (s : State) (k : KernelRec) : Bool :=
  (s.eligibleCores k).all fun c => k.granted.contains c || k.refused.contains c

/-- A core holds a live user thread (R152). -/
def holdsUser (s : State) (c : Nat) : Bool :=
  s.slots.any fun e => e.1 / 64 == c && e.2.phase != .free && e.2.phase != .reserved && e.2.mode == 0

/-- The threads of a kernel are created on a granted core, in its reserved slots (R221, R201, R152). -/
def createThreads (s : State) (k : Nat) (c : Nat) : State :=
  let r := s.kernelRec k
  let id := r.ident k
  let rect := r.rect
  let s0 : State := if s.holdsUser c then s else { s with dirty := s.dirty.filter fun e => e.1 / 24 != c }
  let places := ((List.range 63).map (c * 64 + ·)).filter fun t => (s0.slot t).phase == .reserved && (s0.slot t).kernel == id
  let pos := (coreY c - rect.y0) * (rect.x1 + 1 - rect.x0) + (coreX c - rect.x0)
  let group (j : Nat) : Word :=
    pack [(pos * r.tpc + j, 0, 17), (r.tpc, 17, 6), (0, 23, 5), (fld (r.word 0) 40 4, 28, 4), (fld (r.word 1) 0 32, 32, 32)]
  let s1 := (places.zip (List.range places.length)).foldl (fun (x : State) e =>
    x.createAt e.1 (x.slot e.1).base
      { pc := fld (r.word 0) 0 21, limit := r.limit, mode := if r.ctx = 0 then 1 else 0, ctx := r.ctx
        kernel := setFld id 33 1 1, group := group e.2, mig := bitAt (r.word 0) 28, args := [r.word 4, r.word 5] }) s0
  s1.modKernelCore k c fun _ => { alive := places.length, untriggered := places.length, status := 0 }

/-- Bytes of one packet of a copy: one packet of R274 carries at most 16 cells of 112 bytes, and one of R262 at most 64 flits (log
entry 2, DESIGN CHOICE). -/
def copyCut : Nat := 1024

/-- The bytes that the root reads from consecutive addresses of the image, until one faults (R221). -/
def imageBytes (s : State) (k : KernelRec) (a : Word) : Nat → List Nat
  | 0 => []
  | n + 1 => match s.plainKey k.corner k.rights a 1 false with
    | none => []
    | some key => (s.mem.byte key).toNat :: s.imageBytes k (a + 1) n

/-- The image packet m has reached its last core with n bytes: every granted core has them (R221, R266). -/
def imageCame (s : State) (m n : Nat) : State :=
  match s.kernels.find? fun e => e.2.imageMsg == some m with
  | some e => s.modKernel e.1 fun x => { x with copied := x.copied + n, imageMsg := none }
  | none => s

/-! ## Membership (R224, R228, R229) -/

/-- A member of a kernel has retired on its origin core c, with its status word. -/
def memberRetired (s : State) (c : Nat) (w status : Word) (extra : Bool) (kpkg : Option Nat) : State :=
  if !kernelV w then s
  else if extra then s.toRoot c 0 kpkg w (.leave w status)
  else if s.kernelLive w then
    s.modKernelCore (kernelId w) c fun k =>
      { alive := k.alive - 1, untriggered := if kernelLnch w && !kernelTrig w then k.untriggered - 1 else k.untriggered
        status := combine k.status status }
  else s

end State

/-! ## Events -/

/-- LAUNCH_ACCEPT (R217): a device packet arrives at the launch controller of die 0 and is answered. -/
def launchAccept (m : Nat) (s : State) : State :=
  match s.performable m with
  | some x => match x.body with
    | .launch pk reg => let r := s.acceptPacket pk 0 0; r.2.respond x (.value reg r.1 false false)
    | _ => s
  | none => s

/-- LAUNCH_ACCEPT (R217). -/
def execLaunchAccept (m : Nat) (s : State) : Host.Outcome State Fault Refusal := .next (launchAccept m s)

/-- KERNEL_SCHEDULE (R219, R218, R222): the earliest eligible packet whose root is idle is sent to it, or refused. -/
def kernelSchedule (s : State) : State :=
  match s.launchQueue.find? fun k => s.depAllows (s.kernelRec k) && !s.rootBusy (s.kernelRec k).rootDie with
  | none => s
  | some k =>
    let r := s.kernelRec k
    let cx := s.ctx r.ctx
    let part := State.rectOf cx.part
    if r.ctx ≠ 0 ∧ cx.state ≠ 1 then s.refuseKernel k 1
    else if r.ctx ≠ 0 ∧ !cx.placeable then s.refuseKernel k 2
    else if r.ctx ≠ 0 ∧ !(part.holds (coreAt r.rect.x0 r.rect.y0) && part.holds (coreAt r.rect.x1 r.rect.y1)) then s.refuseKernel k 3
    else
      let s1 := s.modKernel k fun x => { x with state := 2 }
      { s1 with launchQueue := s1.launchQueue.filter (· != k) }

/-- KERNEL_SCHEDULE (R219). -/
def execKernelSchedule (s : State) : Host.Outcome State Fault Refusal := .next (kernelSchedule s)

/-- PLACEMENT_RESERVE (R220): an eligible core answers the reserve wave. -/
def placementReserve (k c : Nat) (s : State) : State :=
  let r := s.kernelRec k
  if r.state = 2 && s.eligible r c && !r.granted.contains c && !r.refused.contains c then
    match s.reserve (r.ident k) c r.limit r.tpc with
    | some s1 => s1.modKernel k fun x => { x with granted := x.granted ++ [c] }
    | none => s.modKernel k fun x => { x with refused := x.refused ++ [c] }
  else s

/-- PLACEMENT_RESERVE (R220). -/
def execPlacementReserve (k c : Nat) (s : State) : Host.Outcome State Fault Refusal := .next (placementReserve k c s)

/-- The launch goes on after the reserve wave: every core has answered, some granted, and ALL is met. -/
def placeable (r : KernelRec) (s : State) : Bool :=
  r.state == 2 && s.allAnswered r && !r.granted.isEmpty && !(r.all && !r.refused.isEmpty)

/-- IMAGE_COPY (R221): the next packet of the image leaves, under the launch's rights, along the cores that reserved, in snake order; a
fault at its first byte refuses the launch with reason 6. -/
def imageCopy (k : Nat) (s : State) : State :=
  let r := s.kernelRec k
  if placeable r s && decide (r.copied < r.ilen) && r.imageMsg.isNone && r.reason == 0 then
    let n := min State.copyCut (r.ilen - r.copied)
    let data := s.imageBytes r (r.word 2 + ofNat r.copied) n
    let s1 := s.heatOn (.ctrl r.rootDie) r.corner r.rights (r.word 2 + ofNat r.copied) (min n (data.length + 1)) false (r.copied == 0)
    if data.isEmpty then s1.modKernel k fun x => { x with reason := 6 }
    else
      let path := r.rect.snake.filter r.granted.contains
      (s1.modKernel k fun x => { x with imageMsg := some s1.nextId }).send
        { id := 0, src := .ctrl r.rootDie, dst := .core (path.headD 0), sup := true
          body := .multicast (r.ioff + r.copied) data false path }
  else s

/-- IMAGE_COPY (R221). -/
def execImageCopy (k : Nat) (s : State) : Host.Outcome State Fault Refusal := .next (imageCopy k s)

/-- PLACEMENT_COMMIT (R220 to R223, R236): commit, with threads, barrier and report, or abort. -/
def placementCommit (k : Nat) (s : State) : State :=
  let r := s.kernelRec k
  if r.state = 2 && s.allAnswered r then
    if r.reason ≠ 0 then s.refuseKernel k r.reason
    else if r.granted.isEmpty then s.refuseKernel k 4
    else if r.all && !r.refused.isEmpty then s.refuseKernel k 5
    else if r.copied < r.ilen then s
    else
      let n := r.granted.length * r.tpc
      let s1 := (r.rect.snake.filter r.granted.contains).foldl (fun x c => x.createThreads k c) s
      let key := barrierKey r.corner { level := rectLevel r.rect, index := fld (r.word 0) 40 4 }
      let s2 := s1.applyBarrier key ((s1.barrier key).arm n r.ctx true)
      (s2.modKernel k fun x => { x with state := 3 }).report k n
  else s

/-- PLACEMENT_COMMIT (R220). -/
def execPlacementCommit (k : Nat) (s : State) : Host.Outcome State Fault Refusal := .next (placementCommit k s)

/-- A JOIN of a kernel from core c, or a LEAVE, has not reached the root. -/
def membershipInFlight (k : Nat) (c : Option Nat) (s : State) : Bool :=
  s.net.any fun x => (match x.body with
    | .join w _ _ => kernelId w == k
    | .leave w _ => kernelId w == k && c.isNone
    | _ => false) && (match c with | some c => x.src == .core c | none => true)

/-- STATUS_REPORT (R224, R225): a tree core whose members have all retired sends its word up once, after its JOINs. -/
def statusReport (k c : Nat) (s : State) : State :=
  let r := s.kernelRec k
  let kc := s.kernelCore k c
  if (r.state == 3 || r.state == 4) && r.granted.contains c && !r.reported.contains c && kc.alive == 0
      && !membershipInFlight k (some c) s then
    s.modKernel k fun x => { x with reported := x.reported ++ [c], status := combine x.status kc.status }
  else s

/-- STATUS_REPORT (R224). -/
def execStatusReport (k c : Nat) (s : State) : Host.Outcome State Fault Refusal := .next (statusReport k c s)

/-- JOIN (R224): the root counts a member and acknowledges; the arrival of the acknowledgement at the core is this event
again: it answers the packet's acceptance, which a call of the own core needs no message for, or completes a SPAWN. -/
def joinAt (m : Nat) (s : State) : State :=
  match s.arrived m with
  | some x => match x.body, x.dst with
    | .join w reg v, .ctrl _ =>
      let s1 := if s.kernelLive w then s.modKernel (kernelId w) fun k => { k with joins := k.joins + 1 } else s
      s1.respond x (.joinAck reg v)
    | .joinAck reg v, .core c =>
      let s1 := s.dropMsg m
      match (s1.coreRec c).joining.find? (·.1 == m) with
      | some e =>
        let s2 := s1.modCore c fun r => { r with joining := r.joining.filter (·.1 != m) }
        if e.2.src = e.2.dst then s2 else s2.sendAs { e.2 with src := e.2.dst, dst := e.2.src, resp := true, body := .ack 0 0 }
      | none => if s1.waitsFor x.uid m then (s1.resumeThread x.uid).arriveReg x.uid reg (ofNat v) else s1
    | _, _ => s
  | none => s

/-- JOIN (R224). -/
def execJoin (m : Nat) (s : State) : Host.Outcome State Fault Refusal := .next (joinAt m s)

/-- LEAVE (R224, R225). -/
def leaveAt (m : Nat) (s : State) : State :=
  match s.arrived m with
  | some x => match x.body, x.dst with
    | .leave w status, .ctrl _ =>
      let s1 := s.dropMsg m
      if s1.kernelLive w then s1.modKernel (kernelId w) fun k => { k with joins := k.joins - 1, status := combine k.status status } else s1
    | _, _ => s
  | none => s

/-- LEAVE (R224). -/
def execLeave (m : Nat) (s : State) : Host.Outcome State Fault Refusal := .next (leaveAt m s)

/-- KERNEL_RETIRE (R226): every tree core has reported and every JOIN has its LEAVE. -/
def kernelRetire (k : Nat) (s : State) : State :=
  let r := s.kernelRec k
  if (r.state == 3 || r.state == 4) && r.granted.all r.reported.contains && r.joins == 0 && !membershipInFlight k none s then
    s.retireKernel k r.status
  else s

/-- KERNEL_RETIRE (R226). -/
def execKernelRetire (k : Nat) (s : State) : Host.Outcome State Fault Refusal := .next (kernelRetire k s)

/-- TRIGGER_REPORT (R228): a tree core reports its trigger; after the last the kernel is TRIGGERED. -/
def triggerReport (k c : Nat) (s : State) : State :=
  let r := s.kernelRec k
  if (r.state == 3 || r.state == 4) && r.granted.contains c && !r.triggers.contains c && (s.kernelCore k c).untriggered == 0 then
    s.modKernel k fun x =>
      let t := x.triggers ++ [c]
      { x with triggers := t, state := if x.granted.all t.contains then 4 else x.state }
  else s

/-- TRIGGER_REPORT (R228). -/
def execTriggerReport (k c : Nat) (s : State) : Host.Outcome State Fault Refusal := .next (triggerReport k c s)

/-- TRIGGER_NOTICE (R229): a guest's TRIGGER is counted at the core that counts it here. -/
def triggerNotice (m : Nat) (s : State) : State :=
  match s.arrived m with
  | some x => match x.body, x.dst with
    | .triggerNotice w c, .core _ => (s.dropMsg m).countTrigger w c
    | _, _ => s
  | none => s

/-- TRIGGER_NOTICE (R229). -/
def execTriggerNotice (m : Nat) (s : State) : Host.Outcome State Fault Refusal := .next (triggerNotice m s)

/-- The reply of DONE (R230). -/
def doneReply (s : State) (w : Word) (i : Nat) (sup : Bool) : Word :=
  let k := s.kernelRec (kernelId w)
  if k.state = 0 ∨ k.gen ≠ fld w 16 12 ∨ (!sup ∧ k.ctx ≠ i) then allOnes
  else if k.state = 5 then k.status
  else ofNat k.state

/-- DONE_QUERY (R230). -/
def doneQuery (m : Nat) (s : State) : State :=
  match s.performable m with
  | some x => match x.body with
    | .kernelQuery w reg => s.respond x (.value reg (doneReply s w x.ctx x.sup) false false)
    | _ => s
  | none => s

/-- DONE_QUERY (R230). -/
def execDoneQuery (m : Nat) (s : State) : Host.Outcome State Fault Refusal := .next (doneQuery m s)

/-- GUEST_RETIRE_NOTICE (R229, R224): a guest of this package has retired elsewhere; the core that counts it here does so. -/
def guestRetireNotice (m : Nat) (s : State) : State :=
  match s.arrived m with
  | some x => match x.body, x.dst with
    | .guestRetired w status c placed triggered extra, .core _ =>
      let k := setFld (setFld w 33 1 (boolNat placed)) 32 1 (boolNat triggered)
      (s.dropMsg m).memberRetired c k status extra none
    | _, _ => s
  | none => s

/-- GUEST_RETIRE_NOTICE (R229). -/
def execGuestRetireNotice (m : Nat) (s : State) : Host.Outcome State Fault Refusal := .next (guestRetireNotice m s)

end Sys2Proof.Machine
end

