-- ==== Sys2Proof/Machine/Copy.lean ====
section
/-! DEFINITION. Tensors (R135), the copies of the movement slot (R142 to R148), and the events of the default microcode. -/
namespace Sys2Proof.Machine

/-! ## Tensor descriptors (R135) -/

/-- A tensor: element size, and each element's source and destination offset in iteration order, from two bases. -/
structure Tensor where
  size : Nat
  src : Word
  dst : Word
  offsets : List (Int × Int)
  deriving DecidableEq, Repr

/-- Offsets of the elements: dimension 0 runs fastest. -/
def tensorOffsets : List (Nat × Int × Int) → List (Int × Int)
  | [] => [(0, 0)]
  | (n, ss, ds) :: r => (tensorOffsets r).flatMap fun o => (List.range n).map fun (i : Nat) => (o.1 + i * ss, o.2 + i * ds)

namespace State

/-- The tensor described at a key; its reserved fields are ignored (R4). -/
def tensorAt (s : State) (key : Nat) : Tensor :=
  let w (i : Nat) : Word := s.read64 (key + 8 * i)
  let dims := (List.range (fld (w 0) 0 4 + 1)).map fun j =>
    (fld (w (3 + 2 * j)) 0 32, signed (fld (w (4 + 2 * j)) 0 32) 32, signed (fld (w (4 + 2 * j)) 32 32) 32)
  { size := 2 ^ fld (w 0) 4 3, src := w 1, dst := w 2, offsets := tensorOffsets dims }

/-- Bytes a descriptor spans. -/
def tensorBytes (s : State) (key : Nat) : Nat := 8 * (3 + 2 * (fld (s.read64 key) 0 4 + 1))

end State

/-- A tensor's elements. -/
def Tensor.pieces (t : Tensor) : List Piece :=
  t.offsets.map fun o => { src := t.src + ofInt o.1, dst := t.dst + ofInt o.2, n := t.size }

/-- A part cut where either address passes a page of 64 KiB, and into lengths of at most lim. -/
def cutPiece (lim : Nat) : Nat → Piece → List Piece
  | 0, p => [p]
  | f + 1, p =>
    let m := min (min p.n lim) (min (0x10000 - fld p.src 0 16) (0x10000 - fld p.dst 0 16))
    if p.n ≤ m then (if p.n = 0 then [] else [p])
    else { p with n := m } :: cutPiece lim f { src := p.src + ofNat m, dst := p.dst + ofNat m, n := p.n - m }

/-- Every part of a list, cut at pages and at lim bytes. -/
def cutPieces (lim : Nat) (l : List Piece) : List Piece := l.flatMap fun p => cutPiece lim (p.n / lim + 2 * (p.n / 0x10000) + 3) p

/-- The words that the parts done and part p together write whole, of those that p touches: by their distance in words from that of
p's destination (R143, R146). -/
def wholeWords (done : List Piece) (p : Piece) : List Nat :=
  let a := p.dst.toNat
  (List.range ((a % 8 + p.n + 7) / 8)).filter fun j =>
    let w := a / 8 * 8 + 8 * j
    (decide (a ≤ w) && decide (w + 8 ≤ a + p.n)) ||
      (List.range 8).all fun b => (p :: done).any fun q => decide (q.dst.toNat ≤ w + b) && decide (w + b < q.dst.toNat + q.n)

/-- A number for a location's bytes, to tell where a destination meets a source. -/
def Loc.place : Loc → Nat
  | .spad c off => spadKey c off
  | .bulk va => 2 ^ 50 + va
  | .fabric p a => 2 ^ 60 + p * 2 ^ 50 + fld a 0 48

namespace State

/-- A range of n bytes at an address lies in one place (R146), each address a multiple of al: the cause, 0 if it does. -/
def rangeCause (s : State) (c : Nat) (r : Rights) (a : Word) (n al : Nat) : Nat :=
  match s.resolve c r a al with
  | .error (.trap k _) => k
  | .error _ => 0x04
  | .ok (.spad _ off) => if Config.spadSize < off + n then 0x04 else 0
  | .ok (.bulk va) => if 2 ^ 48 < va + n then 0x04 else 0
  | .ok (.fabric _ b) => if (if bitAt b 61 then 2 ^ 48 < fld b 0 48 + n else Config.spadSize < fld b 0 21 + n) then 0x04 else 0

/-- The first cause among the ranges of a list, 0 if none. -/
def firstCause (s : State) (c : Nat) (r : Rights) (al : Nat) : List (Word × Nat) → Nat
  | [] => 0
  | (a, n) :: l => let k := s.rangeCause c r a n al; if k ≠ 0 then k else s.firstCause c r al l

/-- Bytes read from a key. -/
def readBytes (s : State) (key n : Nat) : List Nat := (List.range n).map fun i => (s.mem.byte (key + i)).toNat

/-- Bytes written from a key, and words made full, by their distance in words from that of the key (R143). -/
def writeBytes (s : State) (key : Nat) (data words : List Nat) : State :=
  words.foldl (fun (x : State) j => x.setFull (key / 8 * 8 + 8 * j) true)
    ((data.zip (List.range data.length)).foldl (fun (x : State) e => x.write (key + e.2) 1 e.1) s)

/-- The same by an agent beside the region unit (R330). -/
def storeBytes (s : State) (key : Nat) (data words : List Nat) : State := (s.writeBytes key data words).disturb false key data.length

/-- The destination bytes of a part that meet a source of the move become free values (R135, R146). -/
def spoil (s : State) (dst : Nat) (sources : List (Nat × Nat)) : List Nat → List Nat × State
  | [] => ([], s)
  | b :: l =>
    if sources.any fun x => decide (x.1 ≤ dst) && decide (dst < x.1 + x.2) then
      let r := (s.freed).spoil (dst + 1) sources l
      (fld s.free 0 8 :: r.1, r.2)
    else
      let r := s.spoil (dst + 1) sources l
      (b :: r.1, r.2)

/-- Where the sources of a move lie. -/
def sourcePlaces (s : State) (c : Nat) (r : Rights) (l : List Piece) : List (Nat × Nat) :=
  l.filterMap fun p => match s.resolve c r p.src 1 with | .ok loc => some (loc.place, p.n) | .error _ => none

end State

/-! ## COPY, COPYR and COPYM at issue (R142, R144) -/

/-- The request's register contents are legal (R142). op: 0 COPY, 1 COPYR, 2 COPYM. -/
def copyLegal (op bsel : Nat) (m1 m2 m3 : Word) : Bool :=
  let bidx := fld m3 8 4
  let ty := fld m3 0 4
  let ten := bitAt m2 63
  fld m2 40 22 == 0 && fld m3 4 4 == 0 && fld m3 12 20 == 0 && fld m3 53 10 == 0
  && (if bsel = 0 then bidx == 0 else decide (bidx < barrierCount bsel))
  && (if op = 1 then [0, 1, 3, 2, 8, 9].contains ty else ty == 0)
  && !(ten && op == 2) && !(ten && m1 != 0)

/-- A token of the issuing slot is busy (R303). -/
def tokBusy (s : State) (k : Nat) : Bool := s.me.tok.getLsbD k

/-- A copy (R144). -/
def copyIssue (word : Word) (op : Nat) (k : BitVec 3) (a : RegCode) (w : BitVec 1) (b : BitVec 3) (s : State) : Except Stop State :=
  let run := [a.toNat, a.toNat + 1, a.toNat + 2, a.toNat + 3]
  match s.runOperands word run run [] with
  | .error e => .error e
  | .ok vs =>
    if !copyLegal op b.toNat (arg vs 1) (arg vs 2) (arg vs 3) || s.num == 63 then .error (.trap 0x01 word)
    else if w = 1 && s.me.codelet then .error (.trap 0x0C word)
    else if tokBusy s k.toNat || (s.coreRec s.here).mailbox.isSome || decide (63 ≤ s.me.cp) || s.me.st != 0 then .error .forfeit
    else
      let q : CopyReq :=
        { m0 := arg vs 0, m1 := arg vs 1, m2 := arg vs 2, m3 := arg vs 3, op := op, uid := s.me.uid, k := k.toNat, bsel := b.toNat
          bidx := fld (arg vs 3) 8 4, ctx := s.me.ctx, mode := s.me.mode }
      let s1 := (s.modMe fun sl => { sl with tok := sl.tok ||| (1#8 <<< k.toNat), cp := sl.cp + 1 }).modCore s.here
        fun r => { r with mailbox := some q }
      let s2 := (if (s.coreRec s.here).defaultMover then s1 else s1.wakeSlot (s.here * 64 + 63) (· == .mailbox)).completeNone run
      .ok (if w = 1 then s2.parkMe (.command k.toNat) else s2)

/-- COPY (R144). -/
def execCopy (k : BitVec 3) (a : RegCode) (w : BitVec 1) (b : BitVec 3) (s : State) : Host.Outcome State Fault Refusal :=
  s.finish (copyIssue (Instr.copy k a w b).word 0 k a w b s)
/-- COPYR (R144). -/
def execCopyr (k : BitVec 3) (a : RegCode) (w : BitVec 1) (b : BitVec 3) (s : State) : Host.Outcome State Fault Refusal :=
  s.finish (copyIssue (Instr.copyr k a w b).word 1 k a w b s)
/-- COPYM (R144). -/
def execCopym (k : BitVec 3) (a : RegCode) (w : BitVec 1) (b : BitVec 3) (s : State) : Host.Outcome State Fault Refusal :=
  s.finish (copyIssue (Instr.copym k a w b).word 2 k a w b s)

/-! ## The default microcode (R145 to R148) -/

/-- The rights of a copy's accesses (R145). -/
def CopyReq.rights (q : CopyReq) : Rights := { ctx := q.ctx, sup := q.mode != 0 }
/-- FILL (R143). -/
def CopyReq.fill (q : CopyReq) : Bool := bitAt q.m2 62

namespace State

/-- Slot t enters page wait for an access (R251). -/
def pageWaitAt (s : State) (t i va access reason level : Nat) (info : Word) : State :=
  { { s with cur := t }.enterPageWait i va access reason level info with cur := s.cur }

/-- The copy meets a stop at an operand: a page fault makes slot 63 wait, anything else fails the copy (R145). -/
def copyStop (s : State) (c op operand : Nat) (i : Nat) : Stop → State
  | .page va access reason level info => s.pageWaitAt (c * 64 + 63) i va access reason level info
  | .trap k _ => s.copyFail c op k operand
  | .denied i va _ => (s.walked c i va).copyFail c op 0x05 operand
  | _ => s

/-- Slot 63 has the copy's access w under way: its LD or ST counts it until its answer (R306). -/
def moverAwait (s : State) (c : Nat) (w : MoverWait) : State :=
  (s.modCore c fun r => { r with moverWait := some w }).modSlot (c * 64 + 63) fun sl =>
    if w.write then { sl with st := sl.st + 1 } else { sl with ld := sl.ld + 1 }

/-- The access of the copy that is under way, if any, is over (R306). -/
def moverDone (s : State) (c : Nat) : State :=
  match (s.coreRec c).moverWait with
  | some w => (s.modCore c fun r => { r with moverWait := none }).modSlot (c * 64 + 63) fun sl =>
      if w.write then { sl with st := sl.st - 1 } else { sl with ld := sl.ld - 1 }
  | none => s

/-- A packet of slot 63 toward a node enters the networks, after which the state is t; while the quotas do not admit it the copy waits
(R267). What stays in the core enters none. -/
def moverSend (s : State) (c : Nat) (q : CopyReq) (dst : Node) (b : Body) (t : State) : State :=
  let l := s.carriers q.ctx c dst
  if dst = .core c then t else if s.canInject c l then t.inject c b.flits l else s

/-- An access of the copy at another package is sent; the answer continues it. -/
def copyAbroad (s : State) (c : Nat) (q : CopyReq) (p : Nat) (addr : Word) (f : Fabric) (gain operand : Nat) : State :=
  let write := match f with | .read _ => false | _ => true
  s.moverSend c q (.pkg p) (.fabric addr f) <|
    (s.moverAwait c { id := s.nextId, gain := gain, operand := operand, write := write }).sendAbroad c 63 0 p q.rights .copy (.fabric addr f)

/-- The bytes at a source of the copy: read now, or a stop; an access abroad gives none and is sent. -/
def copySource (s : State) (c : Nat) (q : CopyReq) (a : Word) (n : Nat) : Except Stop (Option (List Nat) × State) :=
  match (s.coreRec c).moverData with
  | some d => .ok (some d, s)
  | none =>
    match s.resolve c q.rights a 1 with
    | .error e => .error e
    | .ok (.spad t off) => .ok (some (s.readBytes (spadKey t off) n), s)
    | .ok (.bulk va) => match s.bulkAccess c q.rights va 0 with
      | .error e => .error e
      | .ok (key, s1) => .ok (some (s1.readBytes key n), s1)
    | .ok (.fabric p b) => .ok (none, s.copyAbroad c q p b (.read n) 0 5)

/-- The next part is done. -/
def copyNext (s : State) (c n : Nat) : State :=
  (s.moverDone c).modCore c fun r => { r with moverPos := r.moverPos + n, moverData := none }

/-- COPY from its current part on, until it is done, waits or fails (R146): the parts done, and those to come. -/
def copyLoop (s : State) (c : Nat) (q : CopyReq) (done : List Piece) : List Piece → State
  | [] => s.copyStatus c 0
  | p :: l =>
    match s.copySource c q p.src p.n with
    | .error e => s.copyStop c q.op 5 q.ctx e
    | .ok (none, s1) => s1
    | .ok (some data, s1) =>
      match s1.resolve c q.rights p.dst 1 with
      | .error e => s1.copyStop c q.op 6 q.ctx e
      | .ok loc =>
        let put (x : State) : List Nat × State := x.spoil loc.place (x.sourcePlaces c q.rights (done ++ p :: l)) data
        let words := if q.fill then wholeWords done p else []
        match loc with
        | .spad t off =>
          let sp := put s1
          ((sp.2.storeBytes (spadKey t off) sp.1 words).copyNext c 1).copyLoop c q (done ++ [p]) l
        | .bulk va => match s1.bulkAccess c q.rights va 1 with
          | .error e => s1.copyStop c q.op 6 q.ctx e
          | .ok (key, s2) =>
            let sp := put s2
            ((sp.2.storeBytes key sp.1 words).copyNext c 1).copyLoop c q (done ++ [p]) l
        | .fabric p' b =>
          let sp := put s1
          sp.2.copyAbroad c q p' b (.write sp.1 words) 1 6

/-- The parts of a request, or the code of its failure (R143, R146): those of its descriptor, or the one range;
with the alignment of its addresses and its destination base. -/
def copyParts (s : State) (c : Nat) (q : CopyReq) : Except Nat (List Piece × Nat × Word) :=
  let code (cause operand : Nat) : Except Nat (List Piece × Nat × Word) := .error (cause * 256 + operand * 16 + 12 + q.op)
  if bitAt q.m2 63 then
    if fld q.m2 0 40 ≠ 0 then code 0x01 8
    else match s.resolve c q.rights q.m0 8 with
      | .error (.trap k _) => code k 0
      | .ok (.spad t off) =>
        let key := spadKey t off
        if t ≠ c ∨ Config.spadSize < off + s.tensorBytes key then code 0x04 0
        else
          let x := s.tensorAt key
          .ok (x.pieces, min x.size 8, x.dst)
      | _ => code 0x04 0
  else .ok ([{ src := q.m0, dst := if q.op = 2 then 0 else q.m1, n := fld q.m2 0 40 }], 1, q.m1)

/-- The checks of a copy are made and its parts are taken (R135: a later change of its descriptor has no effect). -/
def copyBegin (s : State) (c : Nat) (l : List Piece) : State := s.modCore c fun r => { r with moverParts := l }

/-- The greatest length of a part between two places: an access abroad is one packet. -/
def cutOf (s : State) (c : Nat) (q : CopyReq) (l : List Piece) : Nat :=
  if l.any fun p => [p.src, p.dst].any fun a => (match s.resolve c q.rights a 1 with | .ok (.fabric _ _) => true | _ => false) then copyCut
  else 0x10000

/-- COPY: the checks, the source first, then the parts (R146). -/
def copyPlain (s : State) (c : Nat) (q : CopyReq) : State :=
  let r := s.coreRec c
  if !r.moverParts.isEmpty then s.copyLoop c q (r.moverParts.take r.moverPos) (r.moverParts.drop r.moverPos)
  else if !bitAt q.m2 63 && fld q.m2 0 40 == 0 then s.copyStatus c 0 else
  match s.copyParts c q with
  | .error k => s.copyStatus c k
  | .ok (ps, al, _) =>
    let x := s.firstCause c q.rights al (ps.map fun p => (p.src, p.n))
    let y := s.firstCause c q.rights al (ps.map fun p => (p.dst, p.n))
    if x != 0 then s.copyFail c q.op x 5
    else if y != 0 then s.copyFail c q.op y 6
    else
      let all := cutPieces (s.cutOf c q ps) ps
      (s.copyBegin c all).copyLoop c q [] all

/-- The rectangle of a COPYM's m1 (R148). -/
def multicastRect (m1 : Word) : Rect := { x0 := fld m1 32 5, y0 := fld m1 40 6, x1 := fld m1 48 5, y1 := fld m1 56 6 }

/-- The cause of a COPYM's destination, 0 if it passes (R148). -/
def multicastCause (s : State) (q : CopyReq) : Nat :=
  let r := multicastRect q.m1
  if r.x1 < r.x0 ∨ r.y1 < r.y0 ∨ 39 < r.y1 then 0x04
  else if r.snake.any s.isOffline then 0x04
  else if q.mode = 0 && r.snake.any fun t => !s.inPartition q.ctx t || s.isPager t then 0x05
  else if Config.spadSize < fld q.m1 0 21 + fld q.m2 0 40 then 0x04
  else 0

/-- The packets of a COPYM: from which of its bytes on, and how many, each; they part at words of the destination. -/
def multicastPackets (off len : Nat) : List (Nat × Nat) :=
  (List.range ((off % 8 + len + copyCut - 1) / copyCut)).map fun j =>
    let a := copyCut * j - off % 8
    (a, min len (copyCut * (j + 1) - off % 8) - a)

/-- COPYM's source bytes are gathered part by part; then its packets leave along the path one after another (R148, R266; log entry 17,
DEDUCED). -/
def multicastLoop (s : State) (c : Nat) (q : CopyReq) : List Piece → State
  | [] =>
    let r := s.coreRec c
    let off := fld q.m1 0 21
    match (multicastPackets off (fld q.m2 0 40))[r.moverPos - r.moverParts.length]? with
    | none => s.copyStatus c 0
    | some e =>
      let path := (multicastRect q.m1).snake
      let b : Body := .multicast (off + e.1) ((r.moverGot.drop e.1).take e.2) q.fill path
      s.moverSend c q (.core ((path.find? (· != c)).getD c)) b <|
        (s.moverAwait c { id := s.nextId, gain := 1, operand := 6, write := true }).send
          { id := 0, src := .core c, slot := 64, dst := .core (path.headD 0), sup := true, body := b }
  | p :: l => match s.copySource c q p.src p.n with
    | .error e => s.copyStop c q.op 5 q.ctx e
    | .ok (none, s1) => s1
    | .ok (some data, s1) =>
      ((s1.modCore c fun r => { r with moverGot := r.moverGot ++ data }).copyNext c 1).multicastLoop c q l

/-- COPYM (R148); the reserved bits of m1 are ignored (R4). -/
def copyMulti (s : State) (c : Nat) (q : CopyReq) : State :=
  let r := s.coreRec c
  let len := fld q.m2 0 40
  let x := s.firstCause c q.rights 1 [(q.m0, len)]
  if !r.moverParts.isEmpty then s.multicastLoop c q (r.moverParts.drop r.moverPos)
  else if x ≠ 0 then s.copyFail c 2 x 5
  else if s.multicastCause q ≠ 0 then s.copyFail c 2 (s.multicastCause q) 6
  else if len = 0 then s.copyStatus c 0
  else
    let one : Piece := { src := q.m0, dst := q.m0, n := len }
    let all := cutPieces (s.cutOf c q [one]) [one]
    (s.copyBegin c all).multicastLoop c q all

/-- One element added: floating point by R38, integers modulo the width (R147). -/
def addElem (ty x y : Nat) : Nat := if isFloatCode ty then (fpAdd ty 0 x y).1 else (x + y) % 2 ^ widthOf ty

/-- A run of elements is added at a key, and words are made full (R147, R143). -/
def addRun (s : State) (key ty : Nat) (data words : List Nat) : State :=
  let w := widthOf ty / 8
  words.foldl (fun (x : State) j => x.setFull (key / 8 * 8 + 8 * j) true) <| (List.range (data.length / w)).foldl (fun (x : State) i =>
    let v := ((data.drop (i * w)).take w).foldr (fun b acc => b + 256 * acc) 0
    x.write (key + i * w) w (addElem ty (x.read (key + i * w) w) v)) s

/-- One run with its progress word (R147). -/
def applyRun (s : State) (key ty : Nat) (data words : List Nat) (prog count : Nat) : State :=
  ((s.addRun key ty data words).disturb false key data.length).put64 prog (ofNat count)

/-- The core a COPYR's destination lies on, and its package, if it is the scratchpad of one core (R147). -/
def copyrCore (s : State) (c : Nat) (r : Rights) (ps : List Piece) : Option (Loc × List (Nat × Nat)) :=
  let locs := ps.filterMap fun p => match s.resolve c r p.dst 1 with
    | .ok (.spad t off) => some (Loc.spad t 0, t, off)
    | .ok (.fabric k a) => if bitAt a 61 then none else some (Loc.fabric k (ofNat (fld a 21 43 * 2 ^ 21)), 0, fld a 0 21)
    | _ => none
  match locs with
  | [] => none
  | h :: _ => if locs.length = ps.length ∧ locs.all (fun x => x.1 == h.1) then some (h.1, locs.map (·.2)) else none

/-- COPYR's checks in the order of R147: the failure code, 0 if it passes; al is the alignment that the ranges are checked with, as for
COPY: in tensor mode min(2^W, 8) (R135). A tensor's element that is no whole number of TY elements counts as a LEN that is none (log entry
58, DESIGN CHOICE). -/
def copyrCode (s : State) (c : Nat) (q : CopyReq) (ps : List Piece) (al : Nat) : Nat :=
  let r : Rights := { ctx := q.ctx, sup := q.mode != 0 }
  let es := widthOf (fld q.m3 0 4) / 8
  let prog := fld q.m3 32 21
  let x := s.firstCause c r al (ps.map fun p => (p.src, p.n))
  let y := s.firstCause c r al (ps.map fun p => (p.dst, p.n))
  if x ≠ 0 then x * 256 + 0x5D
  else if y ≠ 0 then y * 256 + 0x6D
  else if !ps.isEmpty && (s.copyrCore c r ps).isNone then 0x016D
  else if ps.any (fun p => p.src.toNat % es != 0) then 0x035D
  else if ps.any (fun p => p.dst.toNat % es != 0 || p.n % es != 0) then 0x036D
  else if prog % 8 ≠ 0 then 0x037D
  else if Config.spadSize ≤ prog then 0x047D
  else 0

/-- The part at byte position pos of a list of parts, from pos on. -/
def partAt (pos : Nat) : List Piece → Option Piece
  | [] => none
  | p :: l => if pos < p.n then some { src := p.src + ofNat pos, dst := p.dst + ofNat pos, n := p.n - pos } else partAt (pos - p.n) l

/-- The parts of a list between two byte positions. -/
def partsBetween (a b : Nat) : List Piece → List Piece
  | [] => []
  | p :: l =>
    let m := min p.n a
    { src := p.src + ofNat m, dst := p.dst + ofNat m, n := min p.n b - m } :: partsBetween (a - p.n) (b - p.n) l

/-- COPYR has its progress word: n bytes are done (R147). -/
def copyrFrom (s : State) (c total n : Nat) : State :=
  if total < n then s.copyStatus c 0x017D
  else s.modCore c fun x => { x with moverStarted := true, moverPos := n, moverFrom := n, moverData := none }

/-- COPYR, once checked: the progress word (R147). A failure of its access is one of the destination (R138). -/
def copyrProgress (s : State) (c : Nat) (q : CopyReq) (home : Loc) : State :=
  let total := ((s.coreRec c).moverParts.map (·.n)).foldl (· + ·) 0
  let prog := fld q.m3 32 21
  match home with
  | .fabric p a =>
    if bitAt q.m3 63 then
      match (s.coreRec c).moverData with
      | some d => s.copyrFrom c total (d.foldr (fun b acc => b + 256 * acc) 0 % 2 ^ 40)
      | none => s.copyAbroad c q p (a + ofNat prog) (.read 8) 0 6
    else (s.modCore c fun x => { x with moverStarted := true }).copyAbroad c q p (a + ofNat prog) (.write (List.replicate 8 0) []) 0 6
  | .spad t _ =>
    if bitAt q.m3 63 then s.copyrFrom c total (s.read (spadKey t prog) 8 % 2 ^ 40)
    else (s.put64 (spadKey t prog) 0).modCore c fun x => { x with moverStarted := true }
  | .bulk _ => s

/-- COPYR's next run (R147): at most 128 bytes, within one page of either side. The bank answers it once it is applied. -/
def copyrRun (s : State) (c : Nat) (q : CopyReq) : State :=
  let r := s.coreRec c
  let ty := fld q.m3 0 4
  let prog := fld q.m3 32 21
  match partAt r.moverPos r.moverParts with
  | none => s.copyStatus c 0
  | some p0 =>
    let p : Piece := { p0 with n := min 128 (min p0.n (min (0x10000 - fld p0.src 0 16) (0x10000 - fld p0.dst 0 16))) }
    let words := if q.fill then wholeWords (partsBetween r.moverFrom r.moverPos r.moverParts) p else []
    match s.copySource c q p.src p.n with
    | .error e => s.copyStop c 1 5 q.ctx e
    | .ok (none, s1) => s1
    | .ok (some data, s1) =>
      match s1.resolve c q.rights p.dst 1 with
      | .ok (.spad t off) =>
        let b : Body := .run (spadKey t off) ty data (spadKey t prog) (r.moverPos + p.n) words
        s1.moverSend c q (.core t) b <|
          (s1.moverAwait c { id := s1.nextId, gain := p.n, operand := 6, write := true }).send
            { id := 0, src := .core c, slot := 64, dst := .core t, sup := true, body := b }
      | .ok (.fabric pk a) => s1.copyAbroad c q pk a (.run ty data prog (r.moverPos + p.n) words) p.n 6
      | .error (.trap k _) => s1.copyFail c 1 k 6
      | _ => s1.copyFail c 1 0x04 6

/-- COPYR: checks, the progress word, then one run at a time (R147). -/
def copyAdd (s : State) (c : Nat) (q : CopyReq) : State :=
  let r := s.coreRec c
  if r.moverParts.isEmpty then
    match s.copyParts c q with
    | .error k => s.copyStatus c k
    | .ok (ps, al, base) =>
      let k := s.copyrCode c q ps al
      if k != 0 then s.copyStatus c k
      else s.copyBegin c (if ps.isEmpty then [{ src := q.m0, dst := base, n := 0 }] else ps)
  else if r.moverStarted then s.copyrRun c q
  else match s.copyrCore c q.rights r.moverParts with
    | some (home, _) => s.copyrProgress c q home
    | none => s.copyStatus c 0

/-- The finishing write of R145 takes effect. -/
def copyFinished (s : State) (c : Nat) (q : CopyReq) (status : Word) : State :=
  let t := c * 64 + 63
  let s1 := (s.moverDone c).modSlot t fun sl => { sl with touch := 0 }
  let s2 := s1.modThreadCounters q.uid fun sl => { sl with tok := sl.tok &&& ~~~(1#8 <<< q.k), cp := sl.cp - 1 }
  let s3 :=
    if status = 0 then (if q.bsel = 0 then s2 else s2.engineArrive c q.uid q.bsel q.bidx none)
    else if q.bsel ≠ 0 then s2.engineArrive c q.uid q.bsel q.bidx (some (fld status 0 16))
    else s2.modThread q.uid (recordErr (fld status 0 16))
  let s4 := s3.modCore c fun r =>
    { r with mailbox := none, finishing := none, moverParts := [], moverStarted := false, moverPos := 0, moverFrom := 0, moverGot := []
             moverData := none }
  let s5 := s4.wakeThread q.uid (· == .command q.k)
  if (s.coreRec c).defaultMover then s5 else s5.wakeSlot t (· == .mailbox)

/-- The answer from another package that the copy waits for is taken: bytes read, or progress, or the failure at its
operand (R138). -/
def copyAnswered (s : State) (c : Nat) (q : CopyReq) (m gain operand : Nat) : State :=
  match s.response m with
  | some x => match x.body with
    | .copyAnswer cause data =>
      let s1 := (s.dropMsg m).moverDone c
      if cause ≠ 0 then s1.copyFail c q.op cause operand
      else if data.isEmpty then s1.copyNext c gain
      else s1.modCore c fun r => { r with moverData := some data }
    | _ => s
  | none => s

end State

/-! ## Events -/

/-- COPY_FINISH (R145 to R148): one turn of the movement slot's work. A status in m0 finishes the request once ST of slot 63
is 0; else the default microcode goes on with it. -/
def copyFinish (c : Nat) (s : State) : State :=
  let r := s.coreRec c
  match r.mailbox with
  | none => s
  | some q => match r.finishing with
    | some status => if (s.slot (c * 64 + 63)).st = 0 then s.copyFinished c q status else s
    | none =>
      if !r.defaultMover || (s.slot (c * 64 + 63)).phase == .pageWait then s
      else match r.moverWait with
        | some w => s.copyAnswered c q w.id w.gain w.operand
        | none => if q.op = 0 then s.copyPlain c q else if q.op = 1 then s.copyAdd c q else s.copyMulti c q

/-- COPY_FINISH (R145). -/
def execCopyFinish (c : Nat) (s : State) : Host.Outcome State Fault Refusal := .next (copyFinish c s)

/-- A core's copy waits for message m. -/
def State.moverWaits (s : State) (c m : Nat) : Bool := (s.coreRec c).moverWait.any fun w => w.id == m

/-- COPYR_RUN_APPLY (R147): the destination bank adds one run and writes the progress word, in one step. -/
def copyrRunApply (m : Nat) (s : State) : State :=
  match s.arrived m with
  | some x => match x.body, x.src with
    | .run key ty data prog count words, .core c =>
      let s1 := (s.applyRun key ty data words prog count).dropMsg m
      if s.moverWaits c m then s1.copyNext c data.length else s1
    | _, _ => s
  | none => s

/-- COPYR_RUN_APPLY (R147). -/
def execCopyrRunApply (m : Nat) (s : State) : Host.Outcome State Fault Refusal := .next (copyrRunApply m s)

/-- A core can take its copy of a path-based packet: it can reserve a response entry (R266, R271). -/
def State.takesCopy (s : State) (t : Nat) : Bool := decide (s.entriesAt (.core t) < Config.responseEntries)

/-- The words that bytes at a key cover whole, by their distance in words from that of the key. -/
def innerWords (key n : Nat) : List Nat := wholeWords [] { src := 0, dst := ofNat key, n := n }

/-- MULTICAST_PACKET (R266, R148, R221): the packet leaves its copy at one core, once that can take it, and goes on to the next; after the
last the next packet of the copy, or of the image, may leave. -/
def multicastPacket (m : Nat) (s : State) : State :=
  match s.arrived m with
  | some x => match x.body with
    | .multicast off data fill (t :: l) =>
      if !s.takesCopy t then s else
      let s1 := (s.storeBytes (spadKey t off) data (if fill then innerWords (spadKey t off) data.length else [])).dropMsg m
      match l, x.src with
      | [], .core c => if s.moverWaits c m then s1.copyNext c 1 else s1
      | [], _ => s1.imageCame m data.length
      | n :: _, _ => s1.sendAs { x with dst := .core n, body := .multicast off data fill l }
    | _ => s
  | none => s

/-- MULTICAST_PACKET (R266). -/
def execMulticastPacket (m : Nat) (s : State) : Host.Outcome State Fault Refusal := .next (multicastPacket m s)

end Sys2Proof.Machine
end

