-- ==== Sys2Proof/Machine/Vector.lean ====
section
/-! DEFINITION. Pointer registers (R107 to R109), vector instructions (R110 to R123), and the engine's execution of them. -/
namespace Sys2Proof.Machine

/-! ## Pointer registers (R107, R109) -/

/-- A pointer's OFF. -/
def ptrOff (p : Word) : Nat := fld p 0 21
/-- A reserved bit of a pointer is set. -/
def ptrReserved (p : Word) : Bool := fld p 21 11 != 0 || fld p 48 8 != 0 || fld p 58 6 != 0
/-- p with OFF moved on by a signed step (R108, R109). -/
def ptrStep (p : Word) (n : Int) : Word := setFld p 0 21 ((ptrOff p + n) % 2 ^ 21).toNat
/-- STRIDE, where PI applies it (R108). -/
def ptrUsed (p : Word) : Word := if bitAt p 56 then ptrStep p (signed (fld p 32 16) 16) else p
/-- SETF. -/
def ptrFills (p : Word) : Bool := bitAt p 57

/-- A pointer register of a slot. -/
def Slot.ptr (sl : Slot) (i : Nat) : Word := Store.get 0 sl.ptrs i
/-- A pointer register is set. -/
def Slot.setPtr (sl : Slot) (i : Nat) (w : Word) : Slot := { sl with ptrs := Store.set 0 sl.ptrs i w }

/-- PSET (R109). -/
def pset (word : Word) (p : PtrCode) (g : RegCode) (s : State) : Except Stop State :=
  match s.operands word [g.toNat] [] with
  | .error e => .error e
  | .ok vs =>
    if ptrReserved (arg vs 0) then .error (.trap 0x01 word)
    else .ok ((s.modMe fun sl => sl.setPtr p.toNat (arg vs 0)).completeNone [g.toNat])

/-- PSET (R109). -/
def execPset (p : BitVec 3) (g : BitVec 7) (s : State) : Host.Outcome State Fault Refusal := s.finish (pset (Instr.pset p g).word p g s)

/-- PGET (R109). -/
def execPget (p : BitVec 3) (g : BitVec 7) (s : State) : Host.Outcome State Fault Refusal :=
  s.finish (s.compute (Instr.pget p g).word [] g.toNat fun _ => s.me.ptr p.toNat)

/-- PADV (R109). -/
def padv (word : Word) (p : PtrCode) (g : RegCode) (s : State) : Except Stop State :=
  match s.operands word [g.toNat] [] with
  | .error e => .error e
  | .ok vs => .ok ((s.modMe fun sl => sl.setPtr p.toNat (ptrStep (sl.ptr p.toNat) (fld (arg vs 0) 0 21 : Nat))).completeNone [g.toNat])

/-- PADV (R109). -/
def execPadv (p : BitVec 3) (g : BitVec 7) (s : State) : Host.Outcome State Fault Refusal := s.finish (padv (Instr.padv p g).word p g s)

/-! ## Streams and modifiers (R111, R112, R120 to R123) -/

namespace VecOp

/-- The operation reads a B stream element by element. -/
def binary : VecOp → Bool
  | add | sub | mul | fma | fms | div | min | max | iadd | isub | imul | and | or | xor | shl | shr | shra | imin | imax
  | dot | cmp | sel => true
  | _ => false

/-- The operation reduces to one element. -/
def reduces : VecOp → Bool
  | rsum | rmax | rmin | dot => true
  | _ => false

/-- The accumulation format of a reduction (R123). -/
def accFormat (ty : Nat) : Nat := if ty = 0 then 0 else if isFloatCode ty then 1 else ty

/-- Format and element count of stream A. VFILL reads one element, the scalar of R122; the table of R111 names no scalar of A (log entry 48,
DEDUCED). -/
def streamA (op : VecOp) (ty m n : Nat) : Option (Nat × Nat) :=
  match op with
  | iota => none
  | fill => some (ty, 1)
  | lut => some (m % 16, n)
  | _ => some (ty, n)

/-- Format and element count of stream B, the scalar of VAXPY among them. -/
def streamB (op : VecOp) (ty n : Nat) : Option (Nat × Nat) :=
  match op with
  | axpy => some (ty, 1)
  | _ => if op.binary then some (ty, n) else none

/-- Format and element count of stream D. -/
def streamD (op : VecOp) (ty m n : Nat) : Nat × Nat :=
  match op with
  | cvt => (m % 16, n)
  | cmp => (11, n)
  | _ => if op.reduces then (accFormat ty, 1) else (ty, n)

/-- The mask of VSEL. -/
def streamK (op : VecOp) (n : Nat) : Option (Nat × Nat) := if op = sel then some (11, n) else none

/-- The table of VLUT. -/
def streamT (op : VecOp) (ty m : Nat) : Option (Nat × Nat) := if op = lut then some (ty, m / 2 ^ 16 + 1) else none

/-- The modifier is legal (R112 step 2). -/
def legal (op : VecOp) (ty m : Nat) : Bool :=
  match op with
  | scale | iota => true
  | imin | imax => decide (m < 2)
  | rmax | rmin => m == 0 || (m == 1 && !isFloatCode ty)
  | cvt => decide (m < 16) && widthOf m != 0 && m != 12
  | lut => [10, 11, 12].contains (m % 16) && m / 16 % 2 ^ 12 == 0 && decide ((m / 2 ^ 16 + 1) * widthOf ty ≤ 8 * 65536)
  | cmp => decide (m < 16) && decide (m % 8 ≤ 5) && (m < 8 || !isFloatCode ty)
  | sel => decide (m < 8)
  | _ => m == 0

end VecOp

/-- Bytes of a stream. -/
def streamBytes (x : Nat × Nat) : Nat := (widthOf x.1 * x.2 + 7) / 8

/-- The streams of an instruction with their pointers, in the order of R111; with a count of 0 every extent is 0. -/
def vecStreams (op : VecOp) (ty m n : Nat) (pa pb pd pk : Word) : List (Word × Nat × Nat) :=
  let one (p : Word) : Option (Nat × Nat) → List (Word × Nat × Nat)
    | some x => [(p, widthOf x.1 / 8, if n = 0 then 0 else streamBytes x)]
    | none => []
  one pa (op.streamA ty m n) ++ one pb (op.streamB ty n) ++ one pd (some (op.streamD ty m n)) ++ one pk (op.streamK n)
    ++ one pb (op.streamT ty m)

/-- Steps 3 and 4 of R112. Of several streams that fail one step the first in the order A, B, D, mask, table gives the trap (log entry 56,
DESIGN CHOICE). -/
def checkStreams (c : Nat) (l : List (Word × Nat × Nat)) : Except Stop Unit :=
  match l.find? fun x => decide (Config.spadSize < ptrOff x.1 + x.2.2) with
  | some x => .error (.trap 0x04 (addrOf c (ptrOff x.1)))
  | none => match l.find? fun x => ptrOff x.1 % max 1 x.2.1 != 0 with
    | some x => .error (.trap 0x03 (addrOf c (ptrOff x.1)))
    | none => .ok ()

/-! ## Issue (R112, R113) -/

/-- The vector queue of core c is full. -/
def State.queueFull (s : State) (c : Nat) : Bool := decide (2 ≤ (s.coreRec c).queue.length)

/-- A vector instruction at issue: its operand, the checks of R112, the forfeits of R113, the queue, and R108. In slot 63 too the checks
trap (R115; log entry 57, DEDUCED). -/
def vecIssue (word : Word) (op : VecOp) (d a b : Nat) (ty : BitVec 4) (n : RegCode) (s : State) : Except Stop State :=
  match s.operands word [n.toNat] [] with
  | .error e => .error e
  | .ok vs =>
    let sl := s.me
    let count := fld (arg vs 0) 0 32
    let m := fld (arg vs 0) 32 32
    let t := ty.toNat
    let k := m % 8
    let used := (if (op.streamA t m count).isSome then [a] else []) ++
      (if (op.streamB t count).isSome || op = .lut then [b] else []) ++ [d] ++ (if op = .sel then [k] else [])
    if used.any (fun i => ptrReserved (sl.ptr i)) then .error (.trap 0x01 word)
    else if !op.legal t m then .error (.trap 0x01 word)
    else match checkStreams s.here (vecStreams op t m count (sl.ptr a) (sl.ptr b) (sl.ptr d) (sl.ptr k)) with
      | .error e => .error e
      | .ok _ =>
        if s.queueFull s.here || decide (63 ≤ sl.tl) then .error .forfeit
        else
          let r := s.coreRec s.here
          let cmd : VecCmd :=
            { uid := sl.uid, op := op, ty := t, count := count, modifier := m, pa := sl.ptr a, pb := sl.ptr b, pd := sl.ptr d
              pk := sl.ptr k, rm := roundingMode sl.flags, int4lo := r.int4lo, int4hi := r.int4hi }
          let s1 := s.modCore s.here fun x => { x with queue := x.queue ++ [.vector cmd] }
          .ok ((s1.modMe fun x =>
            { used.eraseDups.foldl (fun (y : Slot) i => y.setPtr i (ptrUsed (y.ptr i))) x with tl := x.tl + 1 }).completeNone [n.toNat])

/-- VADD (R120). -/
def execVadd (d a b : BitVec 3) (ty : BitVec 4) (n : BitVec 7) (s : State) : Host.Outcome State Fault Refusal :=
  s.finish (vecIssue (Instr.vadd d a b ty n).word .add d.toNat a.toNat b.toNat ty n s)
/-- VSUB (R120). -/
def execVsub (d a b : BitVec 3) (ty : BitVec 4) (n : BitVec 7) (s : State) : Host.Outcome State Fault Refusal :=
  s.finish (vecIssue (Instr.vsub d a b ty n).word .sub d.toNat a.toNat b.toNat ty n s)
/-- VMUL (R120). -/
def execVmul (d a b : BitVec 3) (ty : BitVec 4) (n : BitVec 7) (s : State) : Host.Outcome State Fault Refusal :=
  s.finish (vecIssue (Instr.vmul d a b ty n).word .mul d.toNat a.toNat b.toNat ty n s)
/-- VFMA (R120). -/
def execVfma (d a b : BitVec 3) (ty : BitVec 4) (n : BitVec 7) (s : State) : Host.Outcome State Fault Refusal :=
  s.finish (vecIssue (Instr.vfma d a b ty n).word .fma d.toNat a.toNat b.toNat ty n s)
/-- VFMS (R120). -/
def execVfms (d a b : BitVec 3) (ty : BitVec 4) (n : BitVec 7) (s : State) : Host.Outcome State Fault Refusal :=
  s.finish (vecIssue (Instr.vfms d a b ty n).word .fms d.toNat a.toNat b.toNat ty n s)
/-- VDIV (R120). -/
def execVdiv (d a b : BitVec 3) (ty : BitVec 4) (n : BitVec 7) (s : State) : Host.Outcome State Fault Refusal :=
  s.finish (vecIssue (Instr.vdiv d a b ty n).word .div d.toNat a.toNat b.toNat ty n s)
/-- VSQRT (R120). -/
def execVsqrt (d a : BitVec 3) (ty : BitVec 4) (n : BitVec 7) (s : State) : Host.Outcome State Fault Refusal :=
  s.finish (vecIssue (Instr.vsqrt d a ty n).word .sqrt d.toNat a.toNat 0 ty n s)
/-- VRSQRT (R120). -/
def execVrsqrt (d a : BitVec 3) (ty : BitVec 4) (n : BitVec 7) (s : State) : Host.Outcome State Fault Refusal :=
  s.finish (vecIssue (Instr.vrsqrt d a ty n).word .rsqrt d.toNat a.toNat 0 ty n s)
/-- VMIN (R120). -/
def execVmin (d a b : BitVec 3) (ty : BitVec 4) (n : BitVec 7) (s : State) : Host.Outcome State Fault Refusal :=
  s.finish (vecIssue (Instr.vmin d a b ty n).word .min d.toNat a.toNat b.toNat ty n s)
/-- VMAX (R120). -/
def execVmax (d a b : BitVec 3) (ty : BitVec 4) (n : BitVec 7) (s : State) : Host.Outcome State Fault Refusal :=
  s.finish (vecIssue (Instr.vmax d a b ty n).word .max d.toNat a.toNat b.toNat ty n s)
/-- VABS (R120). -/
def execVabs (d a : BitVec 3) (ty : BitVec 4) (n : BitVec 7) (s : State) : Host.Outcome State Fault Refusal :=
  s.finish (vecIssue (Instr.vabs d a ty n).word .abs d.toNat a.toNat 0 ty n s)
/-- VNEG (R120). -/
def execVneg (d a : BitVec 3) (ty : BitVec 4) (n : BitVec 7) (s : State) : Host.Outcome State Fault Refusal :=
  s.finish (vecIssue (Instr.vneg d a ty n).word .neg d.toNat a.toNat 0 ty n s)
/-- VEXP2 (R120). -/
def execVexp2 (d a : BitVec 3) (ty : BitVec 4) (n : BitVec 7) (s : State) : Host.Outcome State Fault Refusal :=
  s.finish (vecIssue (Instr.vexp2 d a ty n).word .exp2 d.toNat a.toNat 0 ty n s)
/-- VLOG2 (R120). -/
def execVlog2 (d a : BitVec 3) (ty : BitVec 4) (n : BitVec 7) (s : State) : Host.Outcome State Fault Refusal :=
  s.finish (vecIssue (Instr.vlog2 d a ty n).word .log2 d.toNat a.toNat 0 ty n s)
/-- VRCP (R120). -/
def execVrcp (d a : BitVec 3) (ty : BitVec 4) (n : BitVec 7) (s : State) : Host.Outcome State Fault Refusal :=
  s.finish (vecIssue (Instr.vrcp d a ty n).word .rcp d.toNat a.toNat 0 ty n s)
/-- VSCALE (R120). -/
def execVscale (d a : BitVec 3) (ty : BitVec 4) (n : BitVec 7) (s : State) : Host.Outcome State Fault Refusal :=
  s.finish (vecIssue (Instr.vscale d a ty n).word .scale d.toNat a.toNat 0 ty n s)
/-- VAXPY (R120). -/
def execVaxpy (d a b : BitVec 3) (ty : BitVec 4) (n : BitVec 7) (s : State) : Host.Outcome State Fault Refusal :=
  s.finish (vecIssue (Instr.vaxpy d a b ty n).word .axpy d.toNat a.toNat b.toNat ty n s)
/-- VIADD (R121). -/
def execViadd (d a b : BitVec 3) (ty : BitVec 4) (n : BitVec 7) (s : State) : Host.Outcome State Fault Refusal :=
  s.finish (vecIssue (Instr.viadd d a b ty n).word .iadd d.toNat a.toNat b.toNat ty n s)
/-- VISUB (R121). -/
def execVisub (d a b : BitVec 3) (ty : BitVec 4) (n : BitVec 7) (s : State) : Host.Outcome State Fault Refusal :=
  s.finish (vecIssue (Instr.visub d a b ty n).word .isub d.toNat a.toNat b.toNat ty n s)
/-- VIMUL (R121). -/
def execVimul (d a b : BitVec 3) (ty : BitVec 4) (n : BitVec 7) (s : State) : Host.Outcome State Fault Refusal :=
  s.finish (vecIssue (Instr.vimul d a b ty n).word .imul d.toNat a.toNat b.toNat ty n s)
/-- VAND (R121). -/
def execVand (d a b : BitVec 3) (ty : BitVec 4) (n : BitVec 7) (s : State) : Host.Outcome State Fault Refusal :=
  s.finish (vecIssue (Instr.vand d a b ty n).word .and d.toNat a.toNat b.toNat ty n s)
/-- VOR (R121). -/
def execVor (d a b : BitVec 3) (ty : BitVec 4) (n : BitVec 7) (s : State) : Host.Outcome State Fault Refusal :=
  s.finish (vecIssue (Instr.vor d a b ty n).word .or d.toNat a.toNat b.toNat ty n s)
/-- VXOR (R121). -/
def execVxor (d a b : BitVec 3) (ty : BitVec 4) (n : BitVec 7) (s : State) : Host.Outcome State Fault Refusal :=
  s.finish (vecIssue (Instr.vxor d a b ty n).word .xor d.toNat a.toNat b.toNat ty n s)
/-- VSHL (R121). -/
def execVshl (d a b : BitVec 3) (ty : BitVec 4) (n : BitVec 7) (s : State) : Host.Outcome State Fault Refusal :=
  s.finish (vecIssue (Instr.vshl d a b ty n).word .shl d.toNat a.toNat b.toNat ty n s)
/-- VSHR (R121). -/
def execVshr (d a b : BitVec 3) (ty : BitVec 4) (n : BitVec 7) (s : State) : Host.Outcome State Fault Refusal :=
  s.finish (vecIssue (Instr.vshr d a b ty n).word .shr d.toNat a.toNat b.toNat ty n s)
/-- VSHRA (R121). -/
def execVshra (d a b : BitVec 3) (ty : BitVec 4) (n : BitVec 7) (s : State) : Host.Outcome State Fault Refusal :=
  s.finish (vecIssue (Instr.vshra d a b ty n).word .shra d.toNat a.toNat b.toNat ty n s)
/-- VIMIN (R121). -/
def execVimin (d a b : BitVec 3) (ty : BitVec 4) (n : BitVec 7) (s : State) : Host.Outcome State Fault Refusal :=
  s.finish (vecIssue (Instr.vimin d a b ty n).word .imin d.toNat a.toNat b.toNat ty n s)
/-- VIMAX (R121). -/
def execVimax (d a b : BitVec 3) (ty : BitVec 4) (n : BitVec 7) (s : State) : Host.Outcome State Fault Refusal :=
  s.finish (vecIssue (Instr.vimax d a b ty n).word .imax d.toNat a.toNat b.toNat ty n s)
/-- VCVT (R122). -/
def execVcvt (d a : BitVec 3) (ty : BitVec 4) (n : BitVec 7) (s : State) : Host.Outcome State Fault Refusal :=
  s.finish (vecIssue (Instr.vcvt d a ty n).word .cvt d.toNat a.toNat 0 ty n s)
/-- VLUT (R122). -/
def execVlut (d a b : BitVec 3) (ty : BitVec 4) (n : BitVec 7) (s : State) : Host.Outcome State Fault Refusal :=
  s.finish (vecIssue (Instr.vlut d a b ty n).word .lut d.toNat a.toNat b.toNat ty n s)
/-- VFILL (R122). -/
def execVfill (d a : BitVec 3) (ty : BitVec 4) (n : BitVec 7) (s : State) : Host.Outcome State Fault Refusal :=
  s.finish (vecIssue (Instr.vfill d a ty n).word .fill d.toNat a.toNat 0 ty n s)
/-- VIOTA (R122). -/
def execViota (d : BitVec 3) (ty : BitVec 4) (n : BitVec 7) (s : State) : Host.Outcome State Fault Refusal :=
  s.finish (vecIssue (Instr.viota d ty n).word .iota d.toNat 0 0 ty n s)
/-- VCOPY (R122). -/
def execVcopy (d a : BitVec 3) (ty : BitVec 4) (n : BitVec 7) (s : State) : Host.Outcome State Fault Refusal :=
  s.finish (vecIssue (Instr.vcopy d a ty n).word .copy d.toNat a.toNat 0 ty n s)
/-- VRSUM (R123). -/
def execVrsum (d a : BitVec 3) (ty : BitVec 4) (n : BitVec 7) (s : State) : Host.Outcome State Fault Refusal :=
  s.finish (vecIssue (Instr.vrsum d a ty n).word .rsum d.toNat a.toNat 0 ty n s)
/-- VRMAX (R123). -/
def execVrmax (d a : BitVec 3) (ty : BitVec 4) (n : BitVec 7) (s : State) : Host.Outcome State Fault Refusal :=
  s.finish (vecIssue (Instr.vrmax d a ty n).word .rmax d.toNat a.toNat 0 ty n s)
/-- VRMIN (R123). -/
def execVrmin (d a : BitVec 3) (ty : BitVec 4) (n : BitVec 7) (s : State) : Host.Outcome State Fault Refusal :=
  s.finish (vecIssue (Instr.vrmin d a ty n).word .rmin d.toNat a.toNat 0 ty n s)
/-- VDOT (R123). -/
def execVdot (d a b : BitVec 3) (ty : BitVec 4) (n : BitVec 7) (s : State) : Host.Outcome State Fault Refusal :=
  s.finish (vecIssue (Instr.vdot d a b ty n).word .dot d.toNat a.toNat b.toNat ty n s)
/-- VCMP (R123). -/
def execVcmp (d a b : BitVec 3) (ty : BitVec 4) (n : BitVec 7) (s : State) : Host.Outcome State Fault Refusal :=
  s.finish (vecIssue (Instr.vcmp d a b ty n).word .cmp d.toNat a.toNat b.toNat ty n s)
/-- VSEL (R123). -/
def execVsel (d a b : BitVec 3) (ty : BitVec 4) (n : BitVec 7) (s : State) : Host.Outcome State Fault Refusal :=
  s.finish (vecIssue (Instr.vsel d a b ty n).word .sel d.toNat a.toNat b.toNat ty n s)
/-! ## Execution (R116, R118) -/

namespace State

/-- Element i of a stream at an offset of core c (R27). -/
def elemGet (s : State) (c off w i : Nat) : Nat :=
  if w = 4 then s.read (spadKey c (off + i / 2)) 1 / 16 ^ (i % 2) % 16 else s.read (spadKey c (off + i * (w / 8))) (w / 8)

/-- Element i is written; only its bytes change, and with SETF the words it lies in become full (R118). -/
def elemPut (s : State) (c off w i v : Nat) (fill : Bool) : State :=
  let key := spadKey c (if w = 4 then off + i / 2 else off + i * (w / 8))
  let s1 := if w = 4 then
      let old := s.read key 1
      s.write key 1 (if i % 2 = 0 then old / 16 * 16 + v % 16 else old % 16 + v % 16 * 16)
    else s.write key (w / 8) v
  if fill then s1.setFull key true else s1

end State

/-- The INT8 an INT4 code stands for (R30). -/
def int4Value (lo hi : Word) (c : Nat) : Nat := if c < 8 then fld lo (8 * c) 8 else fld hi (8 * (c - 8)) 8

/-- A floating-point or integer operation on bits of a format: result and flags (R120, R121). -/
def vecApply (op : VecOp) (ty rm m x y d : Nat) : Nat × Nat :=
  let w := widthOf ty
  let wrap (v : Int) : Nat × Nat := ((v % (2 ^ w : Nat)).toNat, 0)
  let less (u : Bool) : Bool := if u then decide (x < y) else decide (signed x w < signed y w)
  match op with
  | .add => fpAdd ty rm x y
  | .sub => fpSub ty rm x y
  | .mul => fpMul ty rm x y
  | .fma => fpFma ty rm x y d
  | .fms => fpFms ty rm x y d
  | .axpy => fpFma ty rm y x d
  | .div => fpDiv ty rm x y
  | .sqrt => fpSqrt ty rm x
  | .rsqrt => fpRsqrt ty x
  | .min => minMaxBits ty false x y
  | .max => minMaxBits ty true x y
  | .abs => (x % 2 ^ (w - 1), 0)
  | .neg => (if x < 2 ^ (w - 1) then x + 2 ^ (w - 1) else x - 2 ^ (w - 1), 0)
  | .exp2 => fpExp2 ty x
  | .log2 => fpLog2 ty x
  | .rcp => fpRcp ty x
  | .scale => fpScale ty rm (signed m 32) x
  | .iadd => wrap (x + y)
  | .isub => wrap ((x : Int) - y)
  | .imul => wrap (x * y)
  | .and => (x &&& y, 0)
  | .or => (x ||| y, 0)
  | .xor => (x ^^^ y, 0)
  | .shl => wrap (x <<< (y % w) : Nat)
  | .shr => (x >>> (y % w), 0)
  | .shra => wrap (signed x w / (2 ^ (y % w) : Nat))
  | .imin => (if less (m == 1) then x else y, 0)
  | .imax => (if less (m == 1) then y else x, 0)
  | _ => (x, 0)

/-- The comparison of VCMP: the byte, and NV for a signalling NaN (R123). -/
def vecCompare (ty m x y : Nat) : Nat × Nat :=
  let w := widthOf ty
  let r : Bool × Bool × Bool × Nat :=
    if isFloatCode ty then
      let a := fpDecode ty x
      let b := fpDecode ty y
      (ltFV a b, eqFV a b, ltFV b a, snan a ||| snan b)
    else if m < 8 then (decide (signed x w < signed y w), x == y, decide (signed y w < signed x w), 0)
    else (decide (x < y), x == y, decide (y < x), 0)
  let b := match m % 8 with
    | 0 => r.2.1
    | 1 => !r.2.1
    | 2 => r.1
    | 3 => r.1 || r.2.1
    | 4 => r.2.2.1
    | _ => r.2.2.1 || r.2.1
  (boolNat b, r.2.2.2)

/-- Scalars and table entries, read once before beat 0 (R116). -/
def vecScalars (s : State) (c : Nat) (v : VecCmd) : List Nat :=
  match v.op with
  | .axpy => [s.elemGet c (ptrOff v.pb) (widthOf v.ty) 0]
  | .fill => [s.elemGet c (ptrOff v.pa) (widthOf v.ty) 0]
  | .lut => (List.range (v.modifier / 2 ^ 16 + 1)).map (s.elemGet c (ptrOff v.pb) (widthOf v.ty))
  | _ => []

/-- Element i of the result of an elementwise instruction, and its flags (R120 to R123). -/
def vecElement (s : State) (c : Nat) (v : VecCmd) (pre : List Nat) (i : Nat) : Nat × Nat :=
  let w := widthOf v.ty
  let a := s.elemGet c (ptrOff v.pa) w i
  let b := s.elemGet c (ptrOff v.pb) w i
  match v.op with
  | .axpy => vecApply .axpy v.ty v.rm 0 a (pre.headD 0) (s.elemGet c (ptrOff v.pd) w i)
  | .fill => (pre.headD 0, 0)
  | .iota => (((signed v.modifier 32 + i) % (2 ^ w : Nat)).toNat, 0)
  | .cvt => if v.ty = 12 then convert 11 (v.modifier % 16) v.rm (int4Value v.int4lo v.int4hi a) else convert v.ty (v.modifier % 16) v.rm a
  | .lut =>
    let x := s.elemGet c (ptrOff v.pa) (widthOf (v.modifier % 16)) i
    if x < pre.length then (pre.getD x 0, 0) else (if isFloatCode v.ty then canonicalNaN v.ty else 0, Flag.nv)
  | .cmp => vecCompare v.ty v.modifier a b
  | .sel => (if s.elemGet c (ptrOff v.pk) 8 i ≠ 0 then a else b, 0)
  | op => vecApply op v.ty v.rm v.modifier a b (s.elemGet c (ptrOff v.pd) w i)

/-- Elements of a beat (R116): 1024 bytes of the widest stream, INT4 as one byte. -/
def beatSize (v : VecCmd) : Nat :=
  let wid (x : Option (Nat × Nat)) : Nat := match x with | some y => max 1 (widthOf y.1 / 8) | none => 1
  1024 / max (wid (v.op.streamA v.ty v.modifier 0)) (max (wid (v.op.streamB v.ty 0))
    (max (wid (some (v.op.streamD v.ty v.modifier 0))) (wid (v.op.streamT v.ty v.modifier))))

/-- Results of consecutive elements are written. -/
def State.writeBeat (s : State) (c off w : Nat) (fill : Bool) : Nat → List Nat → State
  | _, [] => s
  | i, x :: l => (s.elemPut c off w i x fill).writeBeat c off w fill (i + 1) l

/-- Beats from element i on: every source of a beat is read before it writes (R116). -/
def vecBeats (c : Nat) (v : VecCmd) (pre : List Nat) (e : Nat) : Nat → Nat → Nat → State → State × Nat
  | 0, _, fl, s => (s, fl)
  | k + 1, i, fl, s =>
    let l := (span i (min e (v.count - i))).map (vecElement s c v pre)
    let w := widthOf (v.op.streamD v.ty v.modifier 0).1
    vecBeats c v pre e k (i + e) (l.foldl (fun f x => f ||| x.2) fl) (s.writeBeat c (ptrOff v.pd) w (ptrFills v.pd) i (l.map (·.1)))

/-- Adjacent pairs combined; a single last one passes (R49). -/
def pairUp {α : Type} (f : α → α → α) : List α → List α
  | a :: b :: l => f a b :: pairUp f l
  | l => l

/-- The pairwise tree of up to 2^n values (R49). -/
def treeOf {α : Type} (f : α → α → α) : Nat → List α → Option α
  | 0, l => l.head?
  | n + 1, l => treeOf f n (pairUp f l)

/-- The fold of the beats' trees (R49). -/
def foldBeats {α : Type} (f : α → α → α) (e : Nat) : Nat → List α → Option α
  | 0, _ => none
  | k + 1, l =>
    let l1 := l.take e
    let rest (a : α) : List α → Nat → α := fun m n => (List.range n).foldl (fun acc j => match treeOf f 10 ((m.drop (j * e)).take e) with
      | some x => f acc x
      | none => acc) a
    match treeOf f 10 l1 with
    | some a => some (rest a (l.drop e) k)
    | none => none

/-- A combination of two results with their flags. -/
def combine2 (f : Nat → Nat → Nat × Nat) (a b : Nat × Nat) : Nat × Nat :=
  let r := f a.1 b.1
  (r.1, a.2 ||| b.2 ||| r.2)

/-- The step of a reduction in its accumulation format (R123). -/
def reduceStep (op : VecOp) (f rm m x y : Nat) : Nat × Nat :=
  match op with
  | .rmax => if isFloatCode f then minMaxBits f true x y else vecApply .imax f rm m x y 0
  | .rmin => if isFloatCode f then minMaxBits f false x y else vecApply .imin f rm m x y 0
  | _ => if isFloatCode f then fpAdd f rm x y else vecApply .iadd f rm 0 x y 0

/-- The identity of a reduction over no elements (R123). -/
def reduceIdentity (op : VecOp) (f m : Nat) : Nat :=
  let w := widthOf f
  match op with
  | .rmax => if isFloatCode f then infBits (fmtOf f) true else if m = 1 then 0 else 2 ^ (w - 1)
  | .rmin => if isFloatCode f then infBits (fmtOf f) false else if m = 1 then 2 ^ w - 1 else 2 ^ (w - 1) - 1
  | _ => 0

/-- A reduction (R123, R49): its result and flags. -/
def reduce (s : State) (c : Nat) (v : VecCmd) : Nat × Nat :=
  let f := VecOp.accFormat v.ty
  let w := widthOf v.ty
  let lane (i : Nat) : Nat × Nat :=
    let a := convert v.ty f 0 (s.elemGet c (ptrOff v.pa) w i)
    if v.op = .dot then
      let b := convert v.ty f 0 (s.elemGet c (ptrOff v.pb) w i)
      let p := fpMul f v.rm a.1 b.1
      (p.1, a.2 ||| b.2 ||| p.2)
    else a
  let e := beatSize v
  (foldBeats (combine2 (reduceStep v.op f v.rm v.modifier)) e ((v.count + e - 1) / e) ((List.range v.count).map lane)).getD
    (reduceIdentity v.op f v.modifier, 0)

/-- A vector instruction executes: its writes and its flags. A result whose OFF is past the scratchpad, which only a count of
0 lets through, is not written. -/
def vecRun (s : State) (c : Nat) (v : VecCmd) : State × Nat :=
  if v.op.reduces then
    let r := reduce s c v
    let w := widthOf (VecOp.accFormat v.ty)
    if Config.spadSize < ptrOff v.pd + w / 8 then (s, r.2)
    else (s.elemPut c (ptrOff v.pd) w 0 r.1 (ptrFills v.pd), r.2)
  else
    let e := beatSize v
    vecBeats c v (if v.count = 0 then [] else vecScalars s c v) e ((v.count + e - 1) / e) 0 0 s

/-- VECTOR_EXECUTE (R113): the idle engine takes the head of the queue, a vector instruction, and executes it; its writes are those of an
agent beside the region unit (R330). -/
def vectorExecute (c : Nat) (s : State) : State :=
  let r := s.coreRec c
  match r.queue, r.executed with
  | .vector v :: l, none =>
    let x := vecRun s c v
    (x.1.disturb false (spadKey c (ptrOff v.pd)) (streamBytes (v.op.streamD v.ty v.modifier v.count))).modCore c fun k => { k with queue := l, executed := some { cmd := .vector v, flags := x.2 } }
  | _, _ => s

/-- VECTOR_EXECUTE (R113). -/
def execVectorExecute (c : Nat) (s : State) : Host.Outcome State Fault Refusal := .next (vectorExecute c s)

/-- The finishing release toward a thread: TL and FLAGS (R114, R50). -/
def State.engineDone (s : State) (uid flags : Nat) : State :=
  s.modThreadCounters uid fun sl => { sl with tl := sl.tl - 1, flags := orFlags sl.flags flags }

/-- VECTOR_FINISH (R114). -/
def vectorFinish (c : Nat) (s : State) : State :=
  match (s.coreRec c).executed with
  | some { cmd := .vector v, flags := fl, .. } => (s.modCore c fun k => { k with executed := none }).engineDone v.uid fl
  | _ => s

/-- VECTOR_FINISH (R114). -/
def execVectorFinish (c : Nat) (s : State) : Host.Outcome State Fault Refusal := .next (vectorFinish c s)

end Sys2Proof.Machine
end

