-- ==== Sys2Proof/Machine/Sequencer.lean ====
section
/-! DEFINITION. The solver sequencer (R347 to R363, R385): issue into the vector queue, execution, the finishing release. -/
namespace Sys2Proof.Machine

/-! ## Tableau and controller block (R348, R349) -/

namespace Sequencer

/-- HN. -/
def terms (q : Sequencer) : Nat := fld (q.t 0) 4 4
/-- The working format W. -/
def work (q : Sequencer) : Nat := if q.fmt = 0 then 0 else 1
/-- SAFETY, 0.9 for 0. -/
def safety (q : Sequencer) : Nat := if isZeroFV (fpDecode 0 (q.k 2).toNat) then 0x3FECCCCCCCCCCCCD else (q.k 2).toNat
/-- ALPHA, 1 / (Q + 1) for 0. -/
def alpha (q : Sequencer) : Nat :=
  if isZeroFV (fpDecode 0 (q.k 5).toNat) then (fpDiv 0 0 0x3FF0000000000000 (roundTo 0 0 false (fld (q.k 8) 24 4 + 1) 0).1).1 else (q.k 5).toNat
/-- A sample entry set. -/
def setSample (q : Sequencer) (i : Nat) (e : Sample) : Sequencer := { q with samples := Store.set {} q.samples i e }

end Sequencer

namespace State

/-- A core's sequencer. -/
def sequencer (s : State) (c : Nat) : Sequencer := (s.coreRec c).seq
/-- s with it changed. -/
def modSeq (s : State) (c : Nat) (f : Sequencer → Sequencer) : State := s.modCore c fun r => { r with seq := f r.seq }

end State

/-! ## Issue (R352, R354) -/

/-- A range operand is legal (R352). -/
def rangeLegal (w : Word) : Bool := fld w 16 48 == 0 && decide (fld w 0 8 + fld w 8 8 + 1 ≤ 256)
/-- The operands of a command: an address becomes its offset; illegal contents trap (R354). -/
def seqOperands (s : State) (word : Word) (op : SeqOp) (a b : Word) : Except Stop (Word × Word) :=
  let ill : Except Stop (Word × Word) := .error (.trap 0x01 word)
  match op with
  | .tab | .cfg | .load => match s.ownBlock a 8 with
    | .error e => .error e
    | .ok off => if op = .load ∧ (fld b 10 54 ≠ 0 ∨ fld b 8 2 = 3) then ill else .ok (ofNat off, b)
  | .stage => if !rangeLegal a || fld b 3 61 != 0 then ill else .ok (a, b)
  | .dec => if !rangeLegal a then ill else if b ≠ 0 && !isName b then .error (.trap 0x04 b) else .ok (a, b)
  | .finish | .act => if rangeLegal a then .ok (a, b) else ill
  | .hist => if a = 0x8000000000000000 ∨ (fld a 21 43 = 0 ∧ fld a 0 10 = 0) then .ok (a, b) else ill

/-- A sequencer command at issue (R352). -/
def seqIssue (word : Word) (op : SeqOp) (d a : RegCode) (b : Option RegCode) (s : State) : Except Stop State :=
  let srcs := [a.toNat] ++ (match b with | some r => [r.toNat] | none => [])
  match s.operands word srcs [d.toNat] with
  | .error e => .error e
  | .ok vs => match seqOperands s word op (arg vs 0) (arg vs 1) with
    | .error e => .error e
    | .ok (x, y) =>
      let sl := s.me
      if s.queueFull s.here || decide (63 ≤ sl.tl) then .error .forfeit
      else match s.destReady d.toNat with
        | .error e => .error e
        | .ok _ =>
          let cmd : SeqCmd :=
            { uid := sl.uid, op := op, ctx := sl.ctx, mode := sl.mode, a := x, b := y, reg := d.toNat, rm := roundingMode sl.flags }
          let s1 := s.modCore s.here fun r => { r with queue := r.queue ++ [.sequencer cmd] }
          .ok (((s1.modMe fun z => { z with tl := z.tl + 1 }).consume srcs).awaitDest d.toNat).advance

/-- SQTAB (R354). -/
def execSqtab (d a : BitVec 7) (s : State) : Host.Outcome State Fault Refusal := s.finish (seqIssue (Instr.sqtab d a).word .tab d a none s)
/-- SQCFG (R354). -/
def execSqcfg (d a : BitVec 7) (s : State) : Host.Outcome State Fault Refusal := s.finish (seqIssue (Instr.sqcfg d a).word .cfg d a none s)
/-- SQLOAD (R354). -/
def execSqload (d a b : BitVec 7) (s : State) : Host.Outcome State Fault Refusal :=
  s.finish (seqIssue (Instr.sqload d a b).word .load d a (some b) s)
/-- SQSTAGE (R355). -/
def execSqstage (d a b : BitVec 7) (s : State) : Host.Outcome State Fault Refusal :=
  s.finish (seqIssue (Instr.sqstage d a b).word .stage d a (some b) s)
/-- SQEND (R356). -/
def execSqend (d a : BitVec 7) (s : State) : Host.Outcome State Fault Refusal := s.finish (seqIssue (Instr.sqend d a).word .finish d a none s)
/-- SQDEC (R358). -/
def execSqdec (d a b : BitVec 7) (s : State) : Host.Outcome State Fault Refusal := s.finish (seqIssue (Instr.sqdec d a b).word .dec d a (some b) s)
/-- SQACT (R360). -/
def execSqact (d a : BitVec 7) (s : State) : Host.Outcome State Fault Refusal := s.finish (seqIssue (Instr.sqact d a).word .act d a none s)
/-- SQHIST (R360). -/
def execSqhist (d a : BitVec 7) (s : State) : Host.Outcome State Fault Refusal := s.finish (seqIssue (Instr.sqhist d a).word .hist d a none s)

/-! ## FP64 helpers -/

/-- The FP64 value is finite. -/
def finite64 (w : Word) : Bool :=
  match fpDecode 0 w.toNat with
  | .fin _ _ _ => true
  | _ => false
/-- x < y in FP64. -/
def lt64 (x y : Word) : Bool := ltFV (fpDecode 0 x.toNat) (fpDecode 0 y.toNat)
/-- x = y in FP64. -/
def eq64 (x y : Word) : Bool := eqFV (fpDecode 0 x.toNat) (fpDecode 0 y.toNat)
/-- x ≤ y in FP64. -/
def le64 (x y : Word) : Bool := lt64 x y || eq64 x y
/-- 1.0. -/
def one64 : Word := 0x3FF0000000000000
/-- A zero of either sign. -/
def zero64 (w : Word) : Bool := isZeroFV (fpDecode 0 w.toNat)
/-- |x|. -/
def abs64 (x : Nat) : Nat := x % 2 ^ 63
/-- FP64 operations to nearest, without their flags. -/
def add64 (x y : Nat) : Nat := (fpAdd 0 0 x y).1
/-- x - y. -/
def sub64 (x y : Nat) : Nat := (fpSub 0 0 x y).1
/-- x * y. -/
def mul64 (x y : Nat) : Nat := (fpMul 0 0 x y).1
/-- The greater of two values (R36). -/
def max64 (x y : Nat) : Nat := (minMaxBits 0 true x y).1
/-- The smaller of two values (R36). -/
def min64 (x y : Nat) : Nat := (minMaxBits 0 false x y).1

/-- pw(x, y) for x > 0 (R357). -/
def pw64 (x y : Nat) : Nat :=
  if isZeroFV (fpDecode 0 y) then one64.toNat
  else if fpDecode 0 x = .inf false ∧ negativeFV (fpDecode 0 y) then 0
  else (fpExp2 0 (mul64 y (fpLog2 0 x).1)).1

/-! ## Execution (R353 to R360) -/

/-- What a command ends with: the state, its result and flags; or its failure's cause. -/
abbrev SeqResult := Except Nat (State × Word × Nat)

/-- The words of a block of the own core, or 0x04 (R353 step 2). -/
def seqBlock (s : State) (c : Nat) (a : Word) (n : Nat) : Except Nat (List Word) :=
  if Config.spadSize < a.toNat + 8 * n then .error 0x04 else .ok (s.readWords (spadKey c a.toNat) n)

/-- SQTAB (R348); reserved bits are ignored (R4). -/
def seqTab (s : State) (c : Nat) (q : SeqCmd) : SeqResult :=
  match seqBlock s c q.a 129 with
  | .error k => .error k
  | .ok ws =>
    let w := ws.getD 0 0
    if fld w 0 4 < 1 ∨ 8 < fld w 0 4 ∨ 4 < fld w 4 4 ∨ (ws.drop 1).any (fun x => !finite64 x) then .error 0x01
    else .ok (s.modSeq c fun x => { x with tab := ws }, 0, 0)

/-- SQCFG (R349, R347); reserved bits are ignored (R4). -/
def seqCfg (s : State) (c : Nat) (q : SeqCmd) : SeqResult :=
  match seqBlock s c q.a 10 with
  | .error k => .error k
  | .ok ws =>
    let w (i : Nat) : Word := ws.getD i 0
    let n := fld (w 8) 0 17
    let qo := fld (w 8) 24 4
    if (ws.take 8).any (fun x => !finite64 x) ∨ !lt64 0 (w 0) ∨ !le64 0 (w 1) ∨ !le64 0 (w 2) ∨ !le64 (w 2) one64
        ∨ !lt64 0 (w 3) ∨ !le64 (w 3) one64 ∨ !le64 one64 (w 4) ∨ !le64 0 (w 5) ∨ !le64 0 (w 6) ∨ !le64 0 (w 7)
        ∨ n < 1 ∨ 65536 < n ∨ 2 < fld (w 8) 20 4 ∨ qo < 1 ∨ 8 < qo ∨ fld (w 9) 0 3 ≠ 0 then .error 0x01
    else .ok (s.modSeq c fun x =>
      { x with cfg := ws, tag := if x.tag.isNone && x.samples.all (fun e => e.2.st == 0) then some q.ctx else x.tag }, 0, 0)

/-- The image of a sample entry (R350). -/
def sampleImage (e : Sample) : List Word :=
  [e.t, e.h, e.tend, e.eprev, pack [(e.xoff, 0, 21), (e.sboff, 32, 21)], pack [(e.nacc, 0, 32), (e.nrej, 32, 32)],
    pack [(e.st, 0, 3), (boolNat e.ev, 3, 1)], e.errn]

/-- SQLOAD (R350, R351); reserved bits are ignored (R4). -/
def seqLoad (s : State) (c : Nat) (q : SeqCmd) : SeqResult :=
  let i := fld q.b 0 8
  let e := (s.sequencer c).sample i
  let old := ofNat e.st
  match fld q.b 8 2 with
  | 0 => match seqBlock s c q.a 8 with
    | .error k => .error k
    | .ok ws =>
      let w (i : Nat) : Word := ws.getD i 0
      if (ws.take 4).any (fun x => !finite64 x) ∨ !lt64 0 (w 3) ∨ fld (w 4) 32 10 ≠ 0
          ∨ (!eq64 (w 0) (w 2) ∧ !(if lt64 (w 0) (w 2) then lt64 0 (w 1) else lt64 (w 1) 0)) then .error 0x01
      else
        let n : Sample :=
          { t := w 0, h := w 1, tend := w 2, eprev := w 3, xoff := fld (w 4) 0 21, sboff := fld (w 4) 32 21, nacc := fld (w 5) 0 32
            nrej := fld (w 5) 32 32, st := if eq64 (w 0) (w 2) then 4 else 1, ev := false, errn := e.errn }
        .ok (s.modSeq c (·.setSample i n), old, 0)
  | 1 => match seqBlock s c q.a 8 with
    | .error k => .error k
    | .ok _ => .ok (s.writeWords (spadKey c q.a.toNat) (sampleImage e), old, 0)
  | _ => .ok (s.modSeq c (·.setSample i { e with st := 0 }), old, 0)

/-- Steps 4 to 9 of R353 for a command on a range: the samples it touches, or the cause. hist: it reads history; times: it
writes TIMES; dec: it is SQDEC. -/
def seqChecks (q : Sequencer) (range : Word) (stage : Option Nat) (hist dec : Bool) (used : Nat → Bool) : Except Nat (List Nat) :=
  let hs := (List.range q.terms).filter used
  let touched := (rangeOf range).filter fun i => (q.sample i).st == 1 && (!dec || (q.sample i).ev)
  let past (off n : Nat) : Bool := decide (Config.spadSize < off + n)
  let first (l : List Nat) : Nat := (l.find? (· != 0)).getD 0
  let h (m : Nat) : Nat := let o := q.ring.getD m 0; if o % 1024 ≠ 0 then 0x03 else if past o (256 * q.pitch) then 0x04 else 0
  let x (i : Nat) : Nat :=
    let e := q.sample i
    if e.xoff % q.width ≠ 0 then 0x03 else if past e.xoff (q.elems * q.width) then 0x04
    else if past e.sboff ((q.stages + 2) * q.pitch) then 0x04 else 0
  if q.tab.isEmpty || q.cfg.isEmpty then .error 0x01
  else if stage.any fun j => decide (q.stages ≤ j) then .error 0x01
  else if hist && decide (q.ring.length < q.terms) then .error 0x01
  else if hist && first (hs.map h) != 0 then .error (first (hs.map h))
  else if stage.isSome && past q.times 2048 then .error 0x04
  else if first (touched.map x) ≠ 0 then .error (first (touched.map x))
  else .ok touched

/-- Element e of a vector of format P at an offset, widened to W, with its flags. -/
def seqElem (s : State) (c : Nat) (q : Sequencer) (off e : Nat) : Nat × Nat :=
  convert q.fmt q.work 0 (s.read (spadKey c (off + e * q.width)) q.width)

/-- A fused chain of terms (coefficient in W, offset) from +0, with its flags (R355). -/
def seqChain (s : State) (c : Nat) (q : Sequencer) (rm e : Nat) (l : List (Nat × Nat)) : Nat × Nat :=
  l.foldl (fun acc x =>
    let v := seqElem s c q x.2 e
    let r := fpFma q.work rm x.1 v.1 acc.1
    (r.1, acc.2 ||| v.2 ||| r.2)) (0, 0)

/-- An FP64 coefficient rounded to W (R355). -/
def seqCoef (q : Sequencer) (w : Nat) : Nat := (convert 0 q.work 0 w).1

/-- The terms of a weight table: those not 0, with the offset of their vector for sample i. -/
def seqTerms (q : Sequencer) (i : Nat) (l : List (Nat × Nat)) : List (Nat × Nat) :=
  (l.filter fun x => !isZeroFV (fpDecode 0 x.1)).map fun x => (seqCoef q x.1, if x.2 < 8 then (q.sample i).sboff + x.2 * q.pitch
    else q.ring.getD (x.2 - 8) 0 + i * q.pitch)

/-- round(round(x + round(h) * acc, rm), P), with its flags. -/
def seqCombine (q : Sequencer) (rm : Nat) (h : Word) (x acc : Nat × Nat) : Nat × Nat :=
  let y := fpFma q.work rm (seqCoef q h.toNat) acc.1 x.1
  let r := convert q.work q.fmt rm y.1
  (r.1, x.2 ||| acc.2 ||| y.2 ||| r.2)

/-- SQSTAGE of one sample (R355, R385). The weights are (coefficient, vector): vector l below 8 is K_l, 8 + m is H_m. -/
def seqStageOne (c : Nat) (q : Sequencer) (j rm i : Nat) (s : State) : State × Nat :=
  let e := q.sample i
  let ts := seqTerms q i (((List.range j).map fun l => ((q.t (1 + 8 * j + l)).toNat, l))
    ++ ((List.range q.terms).map fun m => ((q.t (65 + 4 * j + m)).toNat, 8 + m)))
  let r := (List.range q.elems).foldl (fun (acc : State × Nat) k =>
    let y := seqCombine q rm e.h (seqElem acc.1 c q e.xoff k) (seqChain acc.1 c q rm k ts)
    (acc.1.write (spadKey c (e.sboff + q.stages * q.pitch + k * q.width)) q.width y.1, acc.2 ||| y.2)) (s, 0)
  (r.1.write (spadKey c (q.times + 8 * i)) 8 (fpFma 0 0 (q.t (121 + j)).toNat e.h.toNat e.t.toNat).1, r.2)

/-- The weights of SQEND: the solution's, and the differences (R356). -/
def seqWeights (q : Sequencer) : List (Nat × Nat) × List (Nat × Nat) :=
  let ls := List.range q.stages
  let ms := List.range q.terms
  let w (i : Nat) : Nat := (q.t i).toNat
  ((ls.map fun l => (w (97 + l), l)) ++ (ms.map fun m => (w (105 + m), 8 + m)),
    (ls.map fun l => (sub64 (w (97 + l)) (w (109 + l)), l)) ++ (ms.map fun m => (sub64 (w (105 + m)) (w (117 + m)), 8 + m)))

/-- SQEND of one sample (R356). -/
def seqEndOne (c : Nat) (q : Sequencer) (rm i : Nat) (s : State) : State × Nat :=
  let e := q.sample i
  let ws := seqWeights q
  let wide (v : Nat) : Nat := abs64 (convert q.fmt 0 0 v).1
  let r := (List.range q.elems).foldl (fun (acc : State × Nat × List Nat) k =>
    let y := acc.1
    let sc := seqChain y c q rm k (seqTerms q i ws.1)
    let vc := seqChain y c q rm k (seqTerms q i ws.2)
    let xn := seqCombine q rm e.h (seqElem y c q e.xoff k) sc
    let hv := (convert q.work 0 0 (fpMul q.work 0 (seqCoef q e.h.toNat) vc.1).1).1
    let x0 := y.read (spadKey c (e.xoff + k * q.width)) q.width
    let z := (fpDiv 0 0 hv (add64 (q.k 0).toNat (mul64 (q.k 1).toNat (max64 (wide x0) (wide xn.1))))).1
    (y.write (spadKey c (e.sboff + (q.stages + 1) * q.pitch + k * q.width)) q.width xn.1, acc.2.1 ||| xn.2 ||| vc.2, acc.2.2 ++ [mul64 z z])) (s, 0, [])
  let sum := (foldBeats add64 128 ((q.elems + 127) / 128) r.2.2).getD 0
  let errn := (fpSqrt 0 0 (fpDiv 0 0 sum (roundTo 0 0 false q.elems 0).1).1).1
  (r.1.modSeq c (·.setSample i { e with errn := ofNat errn, ev := true }), r.2.1)

/-- Samples done one after another. -/
def seqEach (f : Nat → State → State × Nat) : List Nat → State → Nat → State × Nat
  | [], s, fl => (s, fl)
  | i :: l, s, fl => let r := f i s; seqEach f l r.1 (fl ||| r.2)

/-- SQSTAGE (R355). -/
def seqStage (s : State) (c : Nat) (q : SeqCmd) : SeqResult :=
  let x := s.sequencer c
  let j := fld q.b 0 3
  match seqChecks x q.a (some j) true false fun m => !zero64 (x.t (65 + 4 * j + m)) with
  | .error k => .error k
  | .ok l => let r := seqEach (seqStageOne c x j q.rm) l s 0; .ok (r.1, ofNat l.length, r.2)

/-- SQEND (R356). -/
def seqEnd (s : State) (c : Nat) (q : SeqCmd) : SeqResult :=
  let x := s.sequencer c
  match seqChecks x q.a none true false fun m =>
    !zero64 (x.t (105 + m)) || !isZeroFV (fpDecode 0 (sub64 (x.t (105 + m)).toNat (x.t (117 + m)).toNat)) with
  | .error k => .error k
  | .ok l => let r := seqEach (seqEndOne c x q.rm) l s 0; .ok (r.1, ofNat l.length, r.2)

/-- The decision for one sample (R358): the entry, and whether the step is accepted. -/
def seqDecide (q : Sequencer) (e : Sample) : Sample × Bool :=
  let er := e.errn.toNat
  let nan := match fpDecode 0 er with | .nan _ => true | _ => false
  let acc := le64 e.errn one64
  let f := if isZeroFV (fpDecode 0 er) then infBits (fmtOf 0) false
    else mul64 (mul64 q.safety (pw64 er (q.alpha + 2 ^ 63))) (pw64 e.eprev.toNat (q.k 6).toNat)
  let fac := if nan then (q.k 3).toNat else min64 (if acc then (q.k 4).toNat else one64.toNat) (max64 (q.k 3).toNat f)
  let hn := mul64 e.h.toNat fac
  let t := if acc then (if eq64 e.h (ofNat (sub64 e.tend.toNat e.t.toNat)) then e.tend else ofNat (add64 e.t.toNat e.h.toNat)) else e.t
  let e1 : Sample := if acc then
      { e with ev := false, t := t, eprev := ofNat (max64 er 0x3F1A36E2EB1C432D), nacc := (e.nacc + 1) % 2 ^ 32 }
    else { e with ev := false, nrej := (e.nrej + 1) % 2 ^ 32 }
  let rest := sub64 e.tend.toNat t.toNat
  let a := ofNat (abs64 hn)
  let b := ofNat (abs64 rest)
  (if isZeroFV (fpDecode 0 rest) then { e1 with h := 0, st := 4 }
    else if lt64 a (q.k 7) && lt64 a b then { e1 with h := ofNat hn, st := 5 }
    else { e1 with h := ofNat (if le64 b a then rest else hn), st := if acc then 2 else 3 }, acc)

/-- SQDEC of one sample: x takes XN if the step is accepted (R358). -/
def seqDecOne (c : Nat) (q : Sequencer) (i : Nat) (s : State) : State × Nat :=
  let e := q.sample i
  let r := seqDecide q e
  let s1 := if r.2 then
      s.writeBytes (spadKey c e.xoff) (s.readBytes (spadKey c (e.sboff + (q.stages + 1) * q.pitch)) (q.elems * q.width)) []
    else s
  (s1.modSeq c (·.setSample i r.1), 0)

/-- SQDEC (R358, R359). -/
def seqDec (s : State) (c : Nat) (q : SeqCmd) : SeqResult :=
  let x := s.sequencer c
  match seqChecks x q.a none false true fun _ => false with
  | .error k => .error k
  | .ok l =>
    let s1 := (seqEach (seqDecOne c x) l s 0).1
    let n (st : Nat) : Nat := countIf (fun i => ((s1.sequencer c).sample i).st == st) l
    .ok (s1, pack [(n 2, 0, 9), (n 3, 16, 9), (n 4, 32, 9), (n 5, 48, 9)], 0)

/-- SQACT (R360). -/
def seqAct (s : State) (c : Nat) (q : SeqCmd) : SeqResult :=
  let l := rangeOf q.a
  let s1 := s.modSeq c fun x => l.foldl (fun (y : Sequencer) i =>
    let e := y.sample i
    if e.st = 2 ∨ e.st = 3 then y.setSample i { e with st := 1, ev := false } else y) x
  .ok (s1, ofNat (countIf (fun i => ((s1.sequencer c).sample i).st == 1) l), 0)

/-- SQHIST (R360). -/
def seqHist (s : State) (c : Nat) (q : SeqCmd) : SeqResult :=
  let r := (s.sequencer c).ring
  if bitAt q.a 63 then .ok (s.modSeq c fun x => { x with ring := [] }, ofNat r.length, 0)
  else .ok (s.modSeq c fun x => { x with ring := (q.a.toNat :: r).take 4 }, if r.length < 4 then allOnes else ofNat (r.getD 3 0), 0)

/-- f of a command (R354). -/
def SeqOp.code : SeqOp → Nat
  | .tab => 0
  | .cfg => 1
  | .load => 2
  | .stage => 3
  | .finish => 4
  | .dec => 5
  | .act => 6
  | .hist => 7

/-- A command's checks and effect (R353). -/
def seqRun (s : State) (c : Nat) (q : SeqCmd) : SeqResult :=
  if q.mode == 0 && (s.sequencer c).tag.any (· != q.ctx) then .error 0x05
  else match q.op with
    | .tab => seqTab s c q
    | .cfg => seqCfg s c q
    | .load => seqLoad s c q
    | .stage => seqStage s c q
    | .finish => seqEnd s c q
    | .dec => seqDec s c q
    | .act => seqAct s c q
    | .hist => seqHist s c q

/-- The bytes of its core that a command writes: offsets and lengths (R350, R355, R356, R358). -/
def seqWrites (s : State) (c : Nat) (q : SeqCmd) : List (Nat × Nat) :=
  let x := s.sequencer c
  let n := x.elems * x.width
  let l := (rangeOf q.a).filter fun i => (x.sample i).st == 1
  match q.op with
  | .load => if fld q.b 8 2 = 1 then [(q.a.toNat, 64)] else []
  | .stage => l.flatMap fun i => [((x.sample i).sboff + x.stages * x.pitch, n), (x.times + 8 * i, 8)]
  | .finish => l.map fun i => ((x.sample i).sboff + (x.stages + 1) * x.pitch, n)
  | .dec => (l.filter fun i => (x.sample i).ev && (seqDecide x (x.sample i)).2).map fun i => ((x.sample i).xoff, n)
  | _ => []

/-- The stage blocks, x and TIMES that a command uses, by offset and length: those of the samples it acts on (R351, R362), and for SQDEC
of those whose step it accepts (R358). -/
def seqUses (s : State) (c : Nat) (q : SeqCmd) : List (Nat × Nat) :=
  let x := s.sequencer c
  let l := (rangeOf q.a).filter fun i => (x.sample i).st == 1
  let vectors (i : Nat) : List (Nat × Nat) := [((x.sample i).sboff, (x.stages + 2) * x.pitch), ((x.sample i).xoff, x.elems * x.width)]
  match q.op with
  | .stage => l.flatMap fun i => vectors i ++ [(x.times + 8 * i, 8)]
  | .finish => l.flatMap vectors
  | .dec => (l.filter fun i => (x.sample i).ev && (seqDecide x (x.sample i)).2).flatMap vectors
  | _ => []

/-- What an agent's writes (offsets and lengths in core c) leave undefined beside what they store (R330). -/
def State.disturbAll (s : State) (c : Nat) : List (Nat × Nat) → State
  | [] => s
  | w :: l => (s.disturb false (spadKey c w.1) w.2).disturbAll c l

/-- SEQUENCER_EXECUTE (R353, R113); its writes are those of an agent beside the region unit (R330). -/
def sequencerExecute (c : Nat) (s : State) : State :=
  let r := s.coreRec c
  match r.queue, r.executed with
  | .sequencer q :: l, none =>
    match seqRun s c q with
    | .ok (s1, v, fl) => (s1.disturbAll c (seqWrites s c q)).modCore c fun k => { k with
        queue := l, executed := some { cmd := .sequencer q, flags := fl, result := v, uses := seqUses s c q } }
    | .error cause =>
      let code := cause * 256 + q.op.code * 16
      s.modCore c fun k => { k with
        queue := l, executed := some { cmd := .sequencer q, result := ofNat (2 ^ 63 + code), code := some code } }
  | _, _ => s

/-- SEQUENCER_EXECUTE (R353). -/
def execSequencerExecute (c : Nat) (s : State) : Host.Outcome State Fault Refusal := .next (sequencerExecute c s)

/-- A command's result goes to its register, full and no longer awaited (R352). -/
def State.engineResult (s : State) (uid reg : Nat) (v : Word) : State :=
  (((s.unreserve uid reg).arriveReg uid reg v).modThread uid fun sl => { sl with awaiting := sl.awaiting &&& ~~~(1#128 <<< reg) }).wakeThread uid (· == .replies)

/-- SEQUENCER_FINISH (R352, R353, R359): g[d], flags, TL; a failure in ERR; then the delivery of a decision word. -/
def sequencerFinish (c : Nat) (s : State) : State :=
  match (s.coreRec c).executed with
  | some { cmd := .sequencer q, flags := fl, result := v, code := k, .. } =>
    let s1 := ((s.modCore c fun r => { r with executed := none }).engineResult q.uid q.reg v).engineDone q.uid fl
    match k with
    | some code => s1.modThread q.uid (recordErr code)
    | none =>
      if q.op = .dec ∧ q.b ≠ 0 then
        if s1.nameUsable q.b then
          s1.sendDelivery c 64 q.uid { ctx := q.ctx, sup := q.ctx == 0 } q.b v (.sequencer c)
        else s1.modThread q.uid (recordErr 0x0450)
      else s1
  | _ => s

/-- SEQUENCER_FINISH (R352). -/
def execSequencerFinish (c : Nat) (s : State) : Host.Outcome State Fault Refusal := .next (sequencerFinish c s)

end Sys2Proof.Machine
end

