-- ==== Sys2Proof/Machine/Region.lean ====
section
/-! DEFINITION. The region store (R328 to R346, R382 to R384): domains, records and handles, the single-record
operations, queries, and their events. -/
namespace Sys2Proof.Machine

/-! ## Domains (R328, R329) -/

namespace Domain

/-- The FP32 low corner. -/
def lo (d : Domain) (axis : Nat) : Nat := if axis = 0 then fld (d.word 0) 0 32 else if axis = 1 then fld (d.word 0) 32 32 else fld (d.word 1) 0 32
/-- The FP32 high corner. -/
def hi (d : Domain) (axis : Nat) : Nat := if axis = 0 then fld (d.word 1) 32 32 else if axis = 1 then fld (d.word 2) 0 32 else fld (d.word 2) 32 32
/-- The FP32 brick scale. -/
def scale (d : Domain) (axis : Nat) : Nat := if axis = 0 then fld (d.word 3) 0 32 else if axis = 1 then fld (d.word 3) 32 32 else fld (d.word 4) 0 32
/-- The brick coordinate of an FP32 value on an axis (R329). -/
def coord (d : Domain) (axis v : Nat) : Nat :=
  let t := (fpMul 1 0 (fpSub 1 0 v (d.lo axis)).1 (d.scale axis)).1
  let n := d.bricks axis
  match fpDecode 1 t with
  | .nan _ => 0
  | .inf neg => if neg then 0 else n - 1
  | .fin neg m e =>
    let q : Nat := if 0 ≤ e then m * 2 ^ e.toNat else m / 2 ^ (-e).toNat
    if neg then 0 else min q (n - 1)
/-- The number of the brick at coordinates (i, j, k). -/
def brickAt (d : Domain) (i j k : Nat) : Nat := (k * d.bricks 1 + j) * d.bricks 0 + i
/-- The brick of a position (R329). -/
def brick (d : Domain) (x y z : Nat) : Nat := d.brickAt (d.coord 0 x) (d.coord 1 y) (d.coord 2 z)
/-- The ordinal that owns a brick, of m owners (R329). -/
def ordinal (d : Domain) (m b : Nat) : Nat := if d.mapped then d.table.getD b 0 else b * m / d.total

end Domain

namespace State

/-- The ordinal of a core. -/
def ordinalOf (s : State) (d : Domain) (c : Nat) : Nat := ((s.owners d).findIdx? (· == c)).getD 0
/-- The core of an ordinal. -/
def ownerAt (s : State) (d : Domain) (o : Nat) : Nat := (s.owners d).getD o 0
/-- The domain of a list. -/
def findDomain (l : List Domain) (i d : Nat) : Option Domain := l.find? fun x => x.ctx == i && x.dom == d
/-- A domain as core c's region unit knows it; none once RDOM has destroyed it, also where another has been created under its index
(R338). -/
def domainAt (s : State) (c i d : Nat) : Option Domain :=
  match findDomain s.domains i d with
  | some x => (s.coreRec c).domains.find? fun y => y.ctx == i && y.dom == d && y.gen == x.gen
  | none => none
/-- The domain an operation or a query issued on, of number g, as core c's region unit knows it (R338). -/
def domainOf (s : State) (c i d g : Nat) : Option Domain := (s.domainAt c i d).filter (·.gen == g)
/-- The owner of a position's brick (R329). -/
def ownerOf (s : State) (d : Domain) (x y z : Nat) : Nat := s.ownerAt d (d.ordinal (s.owners d).length (d.brick x y z))

/-! ## Records and home entries (R330 to R333) -/

/-- Key of pool slot i of a domain on core c. -/
def poolKey (c : Nat) (d : Domain) (i : Nat) : Nat := spadKey c (d.pool + 128 * i)
/-- Key of home entry e. -/
def homeKey (c : Nat) (d : Domain) (e : Nat) : Nat := spadKey c (d.home + 8 * e)
/-- The ordinal a home entry or a stub names, of m owners, and the pool index; bits that R330 leaves undefined still name an owner and a
slot of the domain (log entry 51, DEDUCED). -/
def entryOwner (m own : Nat) : Nat := own % m
/-- The pool index a home entry or a stub names. -/
def entrySlot (d : Domain) (idx : Nat) : Nat := idx % d.cap
/-- The home entry of an identifier, of m owners (R332). -/
def entryIndex (d : Domain) (m id : Nat) : Nat := id / m % d.hcap
/-- State of a record at a key: 0 FREE, 1 RESIDENT, 2 DEPARTING, 3 ARRIVING, 4 STUB (R331). -/
def recordState (s : State) (key : Nat) : Nat := s.read (key + 20) 1 % 8
/-- A record's state is set; its other bytes stay. -/
def setRecordState (s : State) (key v : Nat) : State := s.write (key + 20) 1 (s.read (key + 20) 1 / 8 * 8 + v)
/-- A FREE pool slot's STATE word becomes 0 (R331). -/
def freeRecord (s : State) (key : Nat) : State := s.write (key + 20) 4 0
/-- The first FREE pool slot. -/
def freePool (s : State) (c : Nat) (d : Domain) : Option Nat := (List.range d.cap).find? fun i => s.recordState (poolKey c d i) == 0
/-- The first FREE home entry. -/
def freeHome (s : State) (c : Nat) (d : Domain) : Option Nat :=
  (List.range d.hcap).find? fun e => fld (s.read64 (homeKey c d e)) 48 2 == 0
/-- A home entry is freed (R333). -/
def freeEntryAt (s : State) (c : Nat) (d : Domain) (e : Nat) : State :=
  let w := s.read64 (homeKey c d e)
  s.write64 (homeKey c d e) (setFld (setFld w 48 2 0) 32 16 (fld w 32 16 + 1))
/-- A home entry takes a new owner and pool index. -/
def moveEntry (s : State) (c : Nat) (d : Domain) (e ord idx : Nat) : State :=
  let w := s.read64 (homeKey c d e)
  s.write64 (homeKey c d e) (setFld (setFld w 0 16 ord) 16 12 idx)

/-! ## Messages between region units (R339, R382, R383) -/

/-- A message from the region unit of one core to another's, for a thread. -/
def unitSend (s : State) (c t uid ctx : Nat) (sup : Bool) (b : Body) : State :=
  s.send { id := 0, uid := uid, src := .core c, dst := .core t, resp := true, ctx := ctx, sup := sup, body := b }

/-- The reply to an operation goes to its issuing core, with the request's credit (R338, R380). -/
def regionReply (s : State) (c : Nat) (x : Msg) (r : RegionOp) (v : Word) (cause : Nat) (data : List Nat) : State :=
  s.send { id := 0, uid := x.uid, src := .core c, dst := .core r.core, resp := true, ctx := x.ctx, sup := x.sup, credit := r.credit
           body := .regionReply { r with credit := none } v cause data }

/-- The operation is applied, held or forwarded at pool slot i of core c (R337, R339). -/
def recordApply (s : State) (c : Nat) (x : Msg) (r : RegionOp) (i : Nat) : State :=
  match s.domainOf c r.ctx r.dom r.gen with
  | none => s.regionReply c x r 0 0x0A []
  | some d =>
    let key := poolKey c d i
    let hold (y : State) : State := y.modCore c fun k => { k with heldOps := k.heldOps ++ [(i, x)] }
    let own := addrOf c 0
    match s.recordState key with
    | 1 => match r.op with
      | .rins => s
      | .rld => s.regionReply c x r own 0 (s.readBytes key 128)
      | .rst => (s.writeBytes (key + 32) r.data []).regionReply c x r own 0 []
      | .rpos =>
        let p (n : Nat) : Nat := ((r.data.drop (4 * n)).take 4).foldr (fun b acc => b + 256 * acc) 0
        let t := s.ownerOf d (p 0) (p 1) (p 2)
        if t = c then (s.writeBytes (key + 8) r.data []).regionReply c x r own 0 []
        else if (s.coreRec c).armed ≠ 0 then hold s
        else
          let old := s.readBytes (key + 8) 12
          let s1 := (s.writeBytes (key + 8) r.data []).setRecordState key 2
          let s2 := s1.modCore c fun k => { k with departures := k.departures ++ [{ ctx := r.ctx, dom := r.dom, idx := i, old := old, op := x }] }
          s2.unitSend c t 0 r.ctx true (.move r.ctx r.dom i (s2.readBytes key 128))
      | .rdel =>
        let id := fld (s.read64 key) 0 32
        let m := (s.owners d).length
        let h := s.ownerAt d (id % m)
        let s1 := s.freeRecord key
        if h = c then (s1.freeEntryAt c d (entryIndex d m id)).regionReply c x r own 0 []
        else s1.unitSend c h x.uid x.ctx x.sup (.entryFree r (entryIndex d m id))
    | 2 => hold s
    | 3 => hold s
    | 4 =>
      let f := s.read (key + 32) 4
      s.unitSend c (s.ownerAt d (entryOwner (s.owners d).length (f % 2 ^ 16))) x.uid x.ctx x.sup
        (.region r (some (entrySlot d (f / 2 ^ 16 % 2 ^ 12))))
    | _ => s.regionReply c x r 0 0x0A []

/-- The operation of a held message. -/
def heldOp (x : Msg) : Option RegionOp :=
  match x.body with
  | .region r _ => some r
  | _ => none

/-- Held operations that p selects are applied in their order of arrival; those that must wait are held again. -/
def replay (s : State) (c : Nat) (p : Nat × Msg → Bool) : State :=
  let l := (s.coreRec c).heldOps.filter p
  (l.foldl (fun (y : State) h => match heldOp h.2 with
    | some r => y.recordApply c h.2 r h.1
    | none => y) (s.modCore c fun k => { k with heldOps := k.heldOps.filter fun h => !p h }))

/-- A held operation is on slot i of a domain. -/
def onSlot (i ctx dom : Nat) (h : Nat × Msg) : Bool :=
  h.1 == i && (match heldOp h.2 with | some r => r.ctx == ctx && r.dom == dom | none => false)

/-- A held RPOS that waits for ARMED (R339): its record is neither departing nor arriving. -/
def awaitsArmed (s : State) (c : Nat) (h : Nat × Msg) : Bool :=
  match heldOp h.2 with
  | some r => match s.domainOf c r.ctx r.dom r.gen with
    | some d => let st := s.recordState (poolKey c d h.1); st != 2 && st != 3
    | none => true
  | none => false

/-! ## Queries (R341 to R345) -/

/-- The count of a query goes to its name, as an agent of the query's context (R343); one that cannot be sent is refused
(R175). -/
def queryDeliver (s : State) (c : Nat) (q : Query) (v : Word) : State :=
  let nm := q.name
  if !s.nameUsable nm then
    s.modCore c fun r => { r with regionRef := (r.regionRef + 1) % 65536 }
  else s.sendDelivery c 64 0 { ctx := q.ctx, sup := q.ctx == 0 } nm v .query

/-- RELEASE at owner i of a query's path (R343). -/
def queryLower (s : State) (c : Nat) (q : Query) (i : Nat) : State :=
  let s1 := s.modCore c fun r => { r with armed := r.armed - 1 }
  let s2 := if (s1.coreRec c).armed = 0 then s1.replay c (s1.awaitsArmed c) else s1
  match q.path[i + 1]? with
  | some t => s2.unitSend c t 0 q.ctx false (.lower q (i + 1))
  | none => s2

/-- A record's position, of bytes 8 to 19. -/
def position (s : State) (key n : Nat) : Nat := s.read (key + 8 + 4 * n) 4

/-- a ≤ b for bits of a format; false for a NaN. -/
def leBits (code a b : Nat) : Bool := ltFV (fpDecode code a) (fpDecode code b) || eqFV (fpDecode code a) (fpDecode code b)

/-- AX, AY, AZ of a query block. -/
def queryLo (q : Query) (n : Nat) : Nat := if n = 0 then fld (q.words.getD 2 0) 0 32 else if n = 1 then fld (q.words.getD 2 0) 32 32 else fld (q.words.getD 3 0) 0 32
/-- BX, BY, BZ of a query block. -/
def queryHi (q : Query) (n : Nat) : Nat := if n = 0 then fld (q.words.getD 3 0) 32 32 else if n = 1 then fld (q.words.getD 4 0) 0 32 else fld (q.words.getD 4 0) 32 32

/-- A position matches (R343). -/
def queryMatches (q : Query) (x : Nat → Nat) : Bool :=
  match q.kind with
  | .all => true
  | .box => (List.range 3).all fun n => leBits 1 (queryLo q n) (x n) && leBits 1 (x n) (queryHi q n)
  | .radius =>
    let wide (v : Nat) : Nat := (convert 1 0 0 v).1
    let sq (n : Nat) : Nat := let dx := (fpSub 0 0 (wide (x n)) (wide (queryLo q n))).1; (fpMul 0 0 dx dx).1
    let r := wide (queryHi q 0)
    leBits 0 (fpAdd 0 0 (fpAdd 0 0 (sq 0) (sq 1)).1 (sq 2)).1 (fpMul 0 0 r r).1

/-- The entries of the matching records are written while they fit, and counted (R343). -/
def scanPool (s : State) (c : Nat) (d : Domain) (q : Query) : List Nat → Nat → Nat × State
  | [], n => (n, s)
  | i :: l, n =>
    let key := poolKey c d i
    if s.recordState key = 1 ∧ queryMatches q (s.position key) then
      if n < fld (q.words.getD 0 0) 32 16 then
        (s.writeBytes (spadKey q.core (q.buf + 32 * n)) (s.readBytes key 32) []).scanPool c d q l (n + 1)
      else s.scanPool c d q l (n + 1)
    else s.scanPool c d q l n

/-- SCAN at owner i: the last owner delivers the count, and then sends RELEASE to the first, itself included (R343, R382). -/
def queryScan (s : State) (c : Nat) (q : Query) (i count : Nat) : State :=
  let r := match s.domainOf c q.ctx q.dom q.gen with
    | some d => s.scanPool c d q (List.range d.cap) count
    | none => (count, s)
  match q.path[i + 1]? with
  | some t => r.2.unitSend c t 0 q.ctx false (.scan q (i + 1) r.1)
  | none => (r.2.queryDeliver c q (ofNat r.1)).unitSend c (q.path.headD c) 0 q.ctx false (.lower q 0)

/-- An ARM of the core that can complete: counted in ARMED if there is room, and no record of the core departing (R335,
R343). It goes on to the next owner, or the last owner sends SCAN to the first, itself included: each is a message of its own (R382). -/
def armStep (s : State) (c : Nat) (a : Msg × Bool) : State :=
  let s1 := if a.2 then s else if (s.coreRec c).armed < 255 then s.modCore c fun r => { r with armed := r.armed + 1 } else s
  let counted := a.2 || decide ((s.coreRec c).armed < 255)
  if !counted || !(s.coreRec c).departures.isEmpty then s1.modCore c fun r => { r with arms := r.arms ++ [(a.1, counted)] }
  else match a.1.body with
    | .arm q i => match q.path[i + 1]? with
      | some t => s1.unitSend c t 0 q.ctx false (.arm q (i + 1))
      | none => s1.unitSend c (q.path.headD c) 0 q.ctx false (.scan q 0 0)
    | _ => s1

/-- The ARMs set aside are tried again in order (R382). -/
def armAll (s : State) (c : Nat) : State :=
  (s.coreRec c).arms.foldl (fun (y : State) a => y.armStep c a) (s.modCore c fun r => { r with arms := [] })

/-- An ARM reaches its owner (R338, R343). -/
def armArrive (s : State) (c : Nat) (x : Msg) : State :=
  match x.body with
  | .arm q i =>
    if i = 0 ∧ (s.domainOf c q.ctx q.dom q.gen).isNone then s.queryDeliver c q 0xFFFFFFFFFFFFFFF6 else s.armStep c (x, false)
  | _ => s

end State

/-! ## RDOM (R334) -/

/-- The word's bits outside a POOL and CAP layout. -/
def offsetReserved (w : Word) : Bool := fld w 21 11 != 0 || fld w 45 19 != 0

/-- The FP32 value is finite. -/
def finite32 (v : Nat) : Bool :=
  match fpDecode 1 v with
  | .fin _ _ _ => true
  | _ => false

/-- Two ranges (offset, length) overlap. -/
def overlap (a b : Nat × Nat) : Bool := decide (a.1 < b.1 + b.2) && decide (b.1 < a.1 + a.2)

/-- The checks of a create: RECT by R199, the others the trap 0x01 with g[a] (R334). -/
def checkDomain (c : Nat) (a : Word) (d : Domain) : Except Stop Unit :=
  let w := d.word
  let bad : Except Stop Unit := .error (.trap 0x01 a)
  let rs := [(d.pool, 128 * d.cap), (d.home, 8 * d.hcap)] ++ (if d.mapped then [(d.mapOff, 2 * d.total)] else [])
  if fld (w 4) 57 7 ≠ 0 ∨ fld (w 5) 41 7 ≠ 0 ∨ fld (w 5) 51 12 ≠ 0 ∨ offsetReserved (w 6) ∨ offsetReserved (w 7) ∨ fld (w 8) 21 43 ≠ 0 then bad
  else if (List.range 3).any (fun x => !finite32 (d.lo x) || !finite32 (d.hi x) || !finite32 (d.scale x)
      || !ltFV (fpDecode 1 (d.lo x)) (fpDecode 1 (d.hi x)) || !ltFV (fpDecode 1 0) (fpDecode 1 (d.scale x)) || d.bricks x == 0) then bad
  else match State.resolveRect c (ofNat (fld (w 5) 0 32)) a with
    | .error e => .error e
    | .ok _ =>
      if d.cap < 1 ∨ 4096 < d.cap ∨ d.hcap < 1 ∨ 4096 < d.hcap ∨ d.pool % 128 ≠ 0 ∨ d.home % 8 ≠ 0
          ∨ (d.mapped ∧ (d.mapOff % 2 ≠ 0 ∨ 32768 < d.total)) then bad
      else if rs.any (fun x => decide (Config.spadSize < x.1 + x.2)) then bad
      else if overlap (rs.getD 0 (0, 0)) (rs.getD 1 (0, 0)) || overlap (rs.getD 0 (0, 0)) (rs.getD 2 (0, 0))
          || overlap (rs.getD 1 (0, 0)) (rs.getD 2 (0, 0)) then bad
      else .ok ()

namespace State

/-- A context is LIVE; context 0 always is (R149). -/
def ctxLive (s : State) (i : Nat) : Bool := i == 0 || (s.ctx i).state == 1

/-- n entries of an owner table from an address, read as scalar loads of the issuing thread, under context i (R334). -/
def readTable (s : State) (r : Rights) (a : Word) : Nat → Except State (List Nat × State)
  | 0 => .ok ([], s)
  | n + 1 =>
    let key : Except Stop (Nat × State) := match s.resolve s.here r a 2 with
      | .error e => .error e
      | .ok (.spad c off) => .ok (spadKey c off, s)
      | .ok (.bulk va) => s.bulkAccess s.here r va 0
      | .ok (.fabric _ _) => .error (.trap 0x04 a)
    match key with
    | .error (.page va access reason level info) => .error (s.enterPageWait r.ctx va access reason level info)
    | .error e => .error (s.stop e)
    | .ok (k, s1) => match s1.readTable r (a + 2) n with
      | .error e => .error e
      | .ok (l, s2) => .ok (s1.read k 2 :: l, s2)

/-- A query holds an owner of the domain armed, or a move of it is unfinished (R334 code 5). -/
def domainBusy (s : State) (d : Domain) : Bool :=
  (s.owners d).any fun c => (s.coreRec c).armed != 0 ||
    (List.range d.cap).any fun i => decide (2 ≤ s.recordState (poolKey c d i))

/-- The rectangle of the domain lies in its context's partition (R334 code 4). -/
def rectInside (s : State) (d : Domain) : Bool :=
  let a := rectOf (d.word 5)
  let b := rectOf (s.ctx d.ctx).part
  d.ctx == 0 || (decide (b.x0 ≤ a.x0) && decide (a.x1 ≤ b.x1) && decide (b.y0 ≤ a.y0) && decide (a.y1 ≤ b.y1))

/-- CAP over the domains that use core c (R330). -/
def capOn (s : State) (c : Nat) : Nat := ((s.domains.filter fun d => (s.owners d).contains c).map (·.cap)).foldl (· + ·) 0

/-- The code of an RDOM, in the order of R334; it is settled when the descriptor is sent (log entry 24, DESIGN CHOICE). -/
def rdomCode (s : State) (d : Domain) (create : Bool) : Nat :=
  let m := (s.owners d).length
  let live := (findDomain s.domains d.ctx d.dom).isSome
  if !s.ctxLive d.ctx then 1
  else if !create then
    if !live then 2 else match findDomain s.domains d.ctx d.dom with
      | some e => if s.domainBusy e then 5 else 0
      | none => 2
  else if live then 2
  else if 64 ≤ s.domains.length then 6
  else if m = 0 ∨ !s.rectInside d then 4
  else if (s.owners d).any (fun c => decide (4096 < s.capOn c + d.cap)) then 3
  else if d.mapped && d.table.any (fun o => decide (m ≤ o)) then 7
  else 0

/-- The descriptor that RDOM op sends: a create's bears op, a destroy's the number of the domain it ends. -/
def numbered (s : State) (op : Nat) (d : Domain) (create : Bool) : Domain :=
  { d with gen := if create then op else ((findDomain s.domains d.ctx d.dom).map (·.gen)).getD 0 }

/-- The descriptor goes to every on-line core, and the thread waits for their answers (R334). -/
def rdomSend (s : State) (reg : Nat) (d : Domain) (create : Bool) (srcs : List Nat) : State :=
  let code := s.rdomCode d create
  let op := s.nextId
  let l := (List.range Config.cores).filter fun c => !s.isOffline c
  let s1 : State := { s with
    nextId := s.nextId + 1
    domains := if code ≠ 0 then s.domains else if create then s.domains ++ [{ d with gen := op }]
      else s.domains.filter fun x => !(x.ctx == d.ctx && x.dom == d.dom)
    rdoms := s.rdoms ++ [{ id := op, uid := s.me.uid, reg := reg, code := code, pending := l.length }] }
  (l.foldl (fun (y : State) c => y.agentSend (.core s.here) (.core c) d.ctx true (.domain op (s.numbered op d create) create code)) s1).waitFor op (.core s.here) 0
    false false srcs

end State

/-- RDOM (R334). -/
def rdom (word : Word) (d a : RegCode) (s : State) : Except Stop State :=
  if s.me.mode = 0 then .error (.trap 0x0D word) else
  match s.operands word [a.toNat] [d.toNat] with
  | .error e => .error e
  | .ok vs => match s.ownBlock (arg vs 0) 8 with
    | .error e => .error e
    | .ok off =>
      if Config.spadSize < off + 80 then .error (.trap 0x04 (arg vs 0)) else
      let ws := s.readWords (spadKey s.here off) 10
      let w5 := ws.getD 5 0
      let dm : Domain := { ctx := fld w5 32 9, dom := fld w5 48 3, words := ws, table := [] }
      let create := bitAt w5 63
      match (if create then checkDomain s.here (arg vs 0) dm else .ok ()) with
      | .error e => .error e
      | .ok _ =>
        let src := ws.getD 9 0
        let r : Rights := { ctx := dm.ctx, sup := s.rights.sup }
        match (if create && dm.mapped && s.ctxLive dm.ctx then s.readTable r src dm.total else .ok ([], s)) with
        | .error s1 => .ok s1
        | .ok (l, s1) =>
          if s1.me.codelet then s1.keepWalk (.error (.trap 0x0C word))
          else match s1.destReady d.toNat with
            | .error e => .error e
            | .ok _ =>
              if s1.me.st ≠ 0 then .error .forfeit
              else .ok (s1.rdomSend d.toNat { dm with table := l } create [a.toNat])

/-- RDOM (R334). -/
def execRdom (d a : RegCode) (s : State) : Host.Outcome State Fault Refusal := s.finish (rdom (Instr.rdom d a).word d a s)

/-! ## Single-record operations (R336, R337) -/

/-- RINS at the owner of the image's brick (R337, R338). -/
def State.recordInsert (s : State) (c : Nat) (x : Msg) (r : RegionOp) : State :=
  match s.domainOf c r.ctx r.dom r.gen with
  | none => s.regionReply c x r 0 0x0A []
  | some d => match s.freeHome c d, s.freePool c d with
    | some e, some i =>
      let o := s.ordinalOf d c
      let gen := fld (s.read64 (State.homeKey c d e)) 32 16
      let h := pack [(3, 62, 2), (2, 56, 4), (r.dom, 48, 3), (gen, 32, 16), (e * (s.owners d).length + o, 0, 32)]
      let key := State.poolKey c d i
      let b (n k : Nat) : List Nat := (r.data.drop n).take k
      let s1 := ((s.write64 key h).writeBytes (key + 8) (b 8 12 ++ [1, 0] ++ b 22 2 ++ List.replicate 8 0 ++ b 32 96) [])
      (s1.write64 (State.homeKey c d e) (pack [(o, 0, 16), (i, 16, 12), (gen, 32, 16), (1, 48, 2)])).regionReply c x r h 0 []
    | _, _ => s.regionReply c x r 0 0x0B []

/-- An operation at its home: the entry is checked, and the operation goes to the owner, or is applied here (R340, R382). -/
def State.recordHome (s : State) (c : Nat) (x : Msg) (r : RegionOp) : State :=
  match s.domainOf c r.ctx r.dom r.gen with
  | none => s.regionReply c x r 0 0x0A []
  | some d =>
    let w := s.read64 (State.homeKey c d (fld r.handle 0 32 / (s.owners d).length))
    if fld w 48 2 ≠ 1 ∨ fld w 32 16 ≠ fld r.handle 32 16 then s.regionReply c x r 0 0x0A []
    else
      let t := s.ownerAt d (State.entryOwner (s.owners d).length (fld w 0 16))
      let i := State.entrySlot d (fld w 16 12)
      if t = c then s.recordApply c x r i
      else s.unitSend c t x.uid x.ctx x.sup (.region r (some i))

/-- The operation at the unit it was sent to: RINS at the owner, the others at the home. -/
def State.recordArrive (s : State) (c : Nat) (x : Msg) (r : RegionOp) : State :=
  if r.op = .rins then s.recordInsert c x r else s.recordHome c x r

/-- Bytes and alignment of an operation's buffer. -/
def recordBuffer : RecordOp → Nat × Nat
  | .rins => (128, 8)
  | .rld => (128, 128)
  | .rst => (96, 8)
  | .rpos => (12, 4)
  | .rdel => (0, 1)

/-- The buffer of an operation: an offset of the own core; every trap has TRAPINFO g[a] (R336). -/
def State.recordBufferAt (s : State) (op : RecordOp) (buf info : Word) : Except Stop Nat :=
  if op = .rdel then .ok 0 else
  match s.resolve s.here s.rights buf 1 with
  | .ok (.spad c off) =>
    if c ≠ s.here then .error (.trap 0x04 info)
    else if off % (recordBuffer op).2 ≠ 0 then .error (.trap 0x03 info)
    else if Config.spadSize < off + (recordBuffer op).1 then .error (.trap 0x04 info)
    else .ok off
  | _ => .error (.trap 0x04 info)

/-- The domain of an operation and the core it is sent to, or its trap (R336). -/
def State.recordTarget (s : State) (op : RecordOp) (h x : Word) (image : Nat → Nat) : Except Stop (Domain × Nat) :=
  if op = .rins then
    match s.domainAt s.here s.me.ctx (fld x 0 3) with
    | some d => if fld x 3 61 ≠ 0 then .error (.trap 0x01 h) else .ok (d, s.ownerOf d (image 0) (image 1) (image 2))
    | none => .error (.trap 0x01 h)
  else if fld h 56 8 ≠ 0xC2 ∨ fld h 51 5 ≠ 0 then .error (.trap 0x04 h)
  else match s.domainAt s.here s.me.ctx (fld h 48 3) with
    | some d =>
      let m := (s.owners d).length
      if d.hcap * m ≤ fld h 0 32 then .error (.trap 0x0A h) else .ok (d, s.ownerAt d (fld h 0 32 % m))
    | none => .error (.trap 0x0A h)

/-- An operation of a slot on its own core's unit takes no credit (R270): it is a message from the core to itself, in one stream with its
queries and with what the unit sends to itself, so that they are taken in the order of issue (R382). -/
def State.recordLocal (s : State) (r : RegionOp) : State :=
  s.unitSend s.here s.here s.me.uid s.rights.ctx s.rights.sup (.region r none)

/-- A single-record operation at issue (R336). -/
def record (word : Word) (op : RecordOp) (d a b : RegCode) (s : State) : Except Stop State :=
  let srcs := if op = .rdel then [a.toNat] else [a.toNat, b.toNat]
  match s.operands word srcs [d.toNat] with
  | .error e => .error e
  | .ok vs =>
    let h := arg vs 0
    let buf := if op = .rins then h else arg vs 1
    let image (n : Nat) : Nat := match s.recordBufferAt op buf h with
      | .ok off => s.read (spadKey s.here off + 8 + 4 * n) 4
      | .error _ => 0
    match s.recordTarget op h (arg vs 1) image with
    | .error e => .error e
    | .ok (dm, t) => match s.recordBufferAt op buf h with
      | .error e => .error e
      | .ok off =>
        if 63 ≤ s.me.ld then .error .forfeit
        else match s.destReady d.toNat with
          | .error e => .error e
          | .ok _ =>
            let data := if op = .rld then [] else s.readBytes (spadKey s.here off) (recordBuffer op).1
            let r : RegionOp :=
              { op := op, core := s.here, ctx := s.me.ctx, dom := dm.dom, handle := h, data := data, dst := off, reg := d.toNat
                gen := dm.gen }
            let s1 := (((s.modMe fun sl => { sl with ld := sl.ld + 1 }).consume srcs).awaitDest d.toNat).advance
            if t = s.here then .ok (s1.recordLocal r)
            else match s.request (.core t) (.region r none) with
              | .error e => .error e
              | .ok s2 => .ok ((((s2.modMe fun sl => { sl with ld := sl.ld + 1 }).consume srcs).awaitDest d.toNat).advance)

/-- RINS (R337). -/
def execRins (d a b : RegCode) (s : State) : Host.Outcome State Fault Refusal := s.finish (record (Instr.rins d a b).word .rins d a b s)
/-- RLD (R337). -/
def execRld (d a b : RegCode) (s : State) : Host.Outcome State Fault Refusal := s.finish (record (Instr.rld d a b).word .rld d a b s)
/-- RST (R337). -/
def execRst (d a b : RegCode) (s : State) : Host.Outcome State Fault Refusal := s.finish (record (Instr.rst d a b).word .rst d a b s)
/-- RPOS (R337). -/
def execRpos (d a b : RegCode) (s : State) : Host.Outcome State Fault Refusal := s.finish (record (Instr.rpos d a b).word .rpos d a b s)
/-- RDEL (R337). -/
def execRdel (d a : RegCode) (s : State) : Host.Outcome State Fault Refusal := s.finish (record (Instr.rdel d a).word .rdel d a 0 s)

/-! ## Queries at issue (R342) -/

/-- The owners of the bricks between two corners, by ordinal (R342). -/
def State.queryPath (s : State) (d : Domain) (lo hi : Nat → Nat) : List Nat :=
  let r (n : Nat) : List Nat := span (lo n) (hi n + 1 - lo n)
  let l := s.owners d
  let os := (r 2).flatMap fun k => (r 1).flatMap fun j => (r 0).map fun i => d.ordinal l.length (d.brickAt i j k)
  (((List.range l.length).filter fun o => os.contains o).map fun o => l.getD o 0)

/-- The path of a query (R342). -/
def State.pathOf (s : State) (d : Domain) (q : Query) : List Nat :=
  let nan (v : Nat) : Bool := match fpDecode 1 v with | .nan _ => true | _ => false
  match q.kind with
  | .all => s.queryPath d (fun _ => 0) (fun n => d.bricks n - 1)
  | .box =>
    if (List.range 3).any fun n => !State.leBits 1 (State.queryLo q n) (State.queryHi q n) then []
    else s.queryPath d (fun n => d.coord n (State.queryLo q n)) (fun n => d.coord n (State.queryHi q n))
  | .radius =>
    let r := State.queryHi q 0
    if nan r || ltFV (fpDecode 1 r) (fpDecode 1 0) then []
    else s.queryPath d (fun n => d.coord n (fpSub 1 3 (State.queryLo q n) r).1) (fun n => d.coord n (fpAdd 1 2 (State.queryLo q n) r).1)

/-- A query at issue (R342). -/
def query (word : Word) (kind : QueryKind) (a b : RegCode) (s : State) : Except Stop State :=
  let srcs := [a.toNat, b.toNat]
  match s.operands word srcs [] with
  | .error e => .error e
  | .ok vs =>
    let blk := arg vs 0
    let nm := arg vs 1
    match s.ownBlock blk 8 with
    | .error e => .error e
    | .ok off =>
      if Config.spadSize < off + 40 then .error (.trap 0x04 blk)
      else if !isName nm then .error (.trap 0x04 nm)
      else
        let ws := s.readWords (spadKey s.here off) 5
        let w (i : Nat) : Word := ws.getD i 0
        match s.domainAt s.here s.me.ctx (fld (w 0) 0 3) with
        | none => .error (.trap 0x01 word)
        | some d =>
          if fld (w 0) 3 29 ≠ 0 ∨ fld (w 0) 48 16 ≠ 0 ∨ (kind = .all ∧ (w 2 ≠ 0 ∨ w 3 ≠ 0 ∨ w 4 ≠ 0)) ∨ (kind = .radius ∧ w 4 ≠ 0) then
            .error (.trap 0x01 word)
          else match s.ownBlock (w 1) 32 with
            | .error e => .error e
            | .ok buf =>
              if Config.spadSize < buf + 32 * fld (w 0) 32 16 then .error (.trap 0x04 (w 1))
              else
                let q : Query := { kind := kind, ctx := s.me.ctx, dom := d.dom, words := ws, core := s.here, buf := buf, name := nm, path := []
                                   gen := d.gen }
                let q : Query := { q with path := s.pathOf d q }
                let s1 := s.completeNone srcs
                .ok (match q.path with
                  | [] => s1.queryDeliver s.here q 0
                  | t :: _ => s1.unitSend s.here t 0 q.ctx false (.arm q 0))

/-- RQBOX (R342). -/
def execRqbox (a b : RegCode) (s : State) : Host.Outcome State Fault Refusal := s.finish (query (Instr.rqbox a b).word .box a b s)
/-- RQRAD (R342). -/
def execRqrad (a b : RegCode) (s : State) : Host.Outcome State Fault Refusal := s.finish (query (Instr.rqrad a b).word .radius a b s)
/-- RSCAN (R342). -/
def execRscan (a b : RegCode) (s : State) : Host.Outcome State Fault Refusal := s.finish (query (Instr.rscan a b).word .all a b s)

/-! ## Events -/

/-- A request is taken by the region unit: its response entry is released (R271). -/
def State.unitTake (s : State) (c : Nat) (x : Msg) : State :=
  (s.dropMsg x.id).modCore c fun r => { r with entries := r.entries - boolNat x.started }

/-- RECORD_OPERATION (R339, R340): at the brick's owner, at the home, or at the slot. The request's credit stays with the operation until
its reply brings it back (R380). -/
def recordOperation (m : Nat) (s : State) : State :=
  match s.findMsg m with
  | some x => match x.body, x.dst with
    | .region r none, .core c =>
      match (if x.src = x.dst then s.arrived m else s.performable m) with
      | some _ =>
        let r1 := { r with credit := x.credit }
        (s.unitTake c x).recordArrive c { x with credit := none, started := false, body := .region r1 none } r1
      | none => s
    | .region r (some i), .core c =>
      match s.arrived m with
      | some _ => (s.dropMsg m).recordApply c x r i
      | none => s
    | _, _ => s
  | none => s

/-- RECORD_OPERATION (R339). -/
def execRecordOperation (m : Nat) (s : State) : Host.Outcome State Fault Refusal := .next (recordOperation m s)

/-- RECORD_MOVE (R339): a free pool slot takes the record, else it is refused; so is one of a domain the core does not know (log entry 54,
DESIGN CHOICE). -/
def recordMove (m : Nat) (s : State) : State :=
  match s.arrived m with
  | some x => match x.body, x.dst, x.src with
    | .move i dm idx data, .core c, .core a =>
      let s1 := s.dropMsg m
      match s1.domainAt c i dm with
      | none => s1.unitSend c a 0 i true (.refuse i dm idx)
      | some d => match s1.freePool c d with
        | none => s1.unitSend c a 0 i true (.refuse i dm idx)
        | some j =>
          let key := State.poolKey c d j
          ((s1.writeBytes key data []).setRecordState key 3).unitSend c a 0 i true (.accept i dm idx (s1.ordinalOf d c) j)
    | _, _, _ => s
  | none => s

/-- RECORD_MOVE (R339). -/
def execRecordMove (m : Nat) (s : State) : Host.Outcome State Fault Refusal := .next (recordMove m s)

/-- A departure from pool slot idx of a domain. -/
def departing (i dm idx : Nat) (e : Departure) : Bool := e.ctx == i && e.dom == dm && e.idx == idx

/-- The departure is over: its held operations are applied, and if it was the core's last, the ARMs go on (R339, R382). -/
def State.departed (s : State) (c i dm idx : Nat) : State :=
  let s1 := (s.modCore c fun r => { r with departures := r.departures.filter fun e => !departing i dm idx e }).replay c (State.onSlot idx i dm)
  if (s1.coreRec c).departures.isEmpty then s1.armAll c else s1

/-- RECORD_ACCEPT (R339): the slot becomes a stub, the home's entry and COMMIT go out, and the RPOS is answered. A home that is
this core updates its entry and frees the stub in the same step (R382). -/
def recordAccept (m : Nat) (s : State) : State :=
  match s.arrived m with
  | some x => match x.body, x.dst, x.src with
    | .accept i dm idx ord j, .core c, .core b =>
      let s1 := s.dropMsg m
      match s1.domainAt c i dm, (s1.coreRec c).departures.find? (departing i dm idx) with
      | some d, some e =>
        let key := State.poolKey c d idx
        let id := fld (s1.read64 key) 0 32
        let n := (s1.owners d).length
        let h := s1.ownerAt d (id % n)
        let s2 := (s1.write (key + 32) 4 (ord + j * 2 ^ 16)).setRecordState key 4
        let en := State.entryIndex d n id
        let s3 := if h = c then s2.moveEntry c d en ord j else s2.unitSend c h 0 i true (.entry i dm en ord j idx)
        let s4 := s3.unitSend c b 0 i true (.commit i dm j)
        let s5 := match State.heldOp e.op with
          | some r => s4.regionReply c e.op r (addrOf b 0) 0 []
          | none => s4
        let s6 := s5.departed c i dm idx
        if h = c then s6.freeRecord key else s6
      | _, _ => s1
    | _, _, _ => s
  | none => s

/-- RECORD_ACCEPT (R339). -/
def execRecordAccept (m : Nat) (s : State) : Host.Outcome State Fault Refusal := .next (recordAccept m s)

/-- RECORD_REFUSE (R339): the old position is restored, and the RPOS fails with 0x0B. -/
def recordRefuse (m : Nat) (s : State) : State :=
  match s.arrived m with
  | some x => match x.body, x.dst with
    | .refuse i dm idx, .core c =>
      let s1 := s.dropMsg m
      match (s1.coreRec c).departures.find? (departing i dm idx) with
      | some e =>
        let s2 := match s1.domainAt c i dm with
          | some d => (s1.writeBytes (State.poolKey c d idx + 8) e.old []).setRecordState (State.poolKey c d idx) 1
          | none => s1
        let s3 := match State.heldOp e.op with
          | some r => s2.regionReply c e.op r 0 0x0B []
          | none => s2
        s3.departed c i dm idx
      | none => s1
    | _, _ => s
  | none => s

/-- RECORD_REFUSE (R339). -/
def execRecordRefuse (m : Nat) (s : State) : Host.Outcome State Fault Refusal := .next (recordRefuse m s)

/-- RECORD_COMMIT (R339). -/
def recordCommit (m : Nat) (s : State) : State :=
  match s.arrived m with
  | some x => match x.body, x.dst with
    | .commit i dm j, .core c =>
      let s1 := s.dropMsg m
      match s1.domainAt c i dm with
      | some d =>
        let key := State.poolKey c d j
        ((s1.setRecordState key 1).write (key + 24) 4 (s1.read (key + 24) 4 + 1)).replay c (State.onSlot j i dm)
      | none => s1.replay c (State.onSlot j i dm)
    | _, _ => s
  | none => s

/-- RECORD_COMMIT (R339). -/
def execRecordCommit (m : Nat) (s : State) : Host.Outcome State Fault Refusal := .next (recordCommit m s)

/-- ENTRY_UPDATE (R339, R333): the home's entry takes the new owner, or is freed for an RDEL, and the home acknowledges; the
arrival of the acknowledgement is this event again: it frees the stub, or answers the RDEL, which fails if its domain has been destroyed
before the entry was freed (R338). -/
def entryUpdate (m : Nat) (s : State) : State :=
  match s.arrived m with
  | some x =>
    let s1 := s.dropMsg m
    match x.body, x.dst, x.src with
    | .entry i dm e ord j idx, .core c, .core a =>
      (match s1.domainAt c i dm with
        | some d => s1.moveEntry c d e ord j
        | none => s1).unitSend c a 0 i true (.entryAck i dm idx)
    | .entryAck i dm idx, .core c, _ =>
      match s1.domainAt c i dm with
      | some d => s1.freeRecord (State.poolKey c d idx)
      | none => s1
    | .entryFree r e, .core c, .core a =>
      match s1.domainOf c r.ctx r.dom r.gen with
      | some d => (s1.freeEntryAt c d e).unitSend c a x.uid x.ctx x.sup (.entryFreed r 0)
      | none => s1.unitSend c a x.uid x.ctx x.sup (.entryFreed r 0x0A)
    | .entryFreed r cause, .core c, _ => s1.regionReply c x r (if cause = 0 then addrOf c 0 else 0) cause []
    | _, _, _ => s
  | none => s

/-- ENTRY_UPDATE (R339). -/
def execEntryUpdate (m : Nat) (s : State) : Host.Outcome State Fault Refusal := .next (entryUpdate m s)

/-- REGION_REPLY (R338): an RLD's record is written, then g[d], and LD decrements; a failure becomes a boundary trap with
g[a]. -/
def regionReplyAt (m : Nat) (s : State) : State :=
  match s.response m with
  | some x => match x.body with
    | .regionReply r v cause data =>
      let s1 := (s.dropMsg m).writeBytes (spadKey r.core r.dst) data []
      let s2 := if cause = 0 then s1 else s1.pendThread x.uid cause r.handle
      s2.applyReply x.uid r.reg v false
    | _ => s
  | none => s

/-- REGION_REPLY (R338). -/
def execRegionReply (m : Nat) (s : State) : Host.Outcome State Fault Refusal := .next (regionReplyAt m s)

/-- A message of a query's path is taken: one from another core when the core can take its copy (R266), one of the unit to itself at once
(R382). -/
def State.takesPath (s : State) (c : Nat) (x : Msg) : Bool := x.src == .core c || s.takesCopy c

/-- QUERY_ARM (R343, R335, R338): an ARM arrives at a core that can take it (R266), or one set aside is tried again. -/
def queryArm (m : Nat) (s : State) : State :=
  match s.arrived m with
  | some x => match x.body, x.dst with
    | .arm _ _, .core c => if s.takesPath c x then (s.dropMsg m).armArrive c x else s
    | _, _ => s
  | none => match s.cores.find? fun e => e.2.arms.any fun a => a.1.id == m with
    | some e => s.armAll e.1
    | none => s

/-- QUERY_ARM (R343). -/
def execQueryArm (m : Nat) (s : State) : Host.Outcome State Fault Refusal := .next (queryArm m s)

/-- QUERY_SCAN (R343). -/
def execQueryScan (m : Nat) (s : State) : Host.Outcome State Fault Refusal :=
  .next (match s.arrived m with
    | some x => match x.body, x.dst with
      | .scan q i n, .core c => if s.takesPath c x then (s.dropMsg m).queryScan c q i n else s
      | _, _ => s
    | none => s)

/-- QUERY_RELEASE (R343, R335): an ARM that waited for room in ARMED goes on. -/
def execQueryRelease (m : Nat) (s : State) : Host.Outcome State Fault Refusal :=
  .next (match s.arrived m with
    | some x => match x.body, x.dst with
      | .lower q i, .core c => if s.takesPath c x then ((s.dropMsg m).queryLower c q i).armAll c else s
      | _, _ => s
    | none => s)

/-- Every owner's pool slots and home entries are cleared, and its owner table copied (R334). -/
def State.clearDomain (s : State) (c : Nat) (d : Domain) : State :=
  let s1 := (List.range d.cap).foldl (fun (y : State) i => y.freeRecord (State.poolKey c d i)) s
  let s2 := (List.range d.hcap).foldl (fun (y : State) e => y.write64 (State.homeKey c d e) 0) s1
  (d.table.zip (List.range d.table.length)).foldl (fun (y : State) e => y.write (spadKey c (d.mapOff + 2 * e.2)) 2 e.1) s2

/-- DOMAIN_DESCRIPTOR (R334): a core installs or drops the descriptor and answers. -/
def domainDescriptor (m : Nat) (s : State) : State :=
  match s.arrived m with
  | some x => match x.body, x.dst with
    | .domain op d create code, .core c =>
      let s1 := s.dropMsg m
      let s2 :=
        if code ≠ 0 then s1
        else if create then
          let s3 := s1.modCore c fun r => { r with domains := r.domains ++ [d] }
          if (s.owners d).contains c then s3.clearDomain c d else s3
        else s1.modCore c fun r => { r with domains := r.domains.filter fun e => !(e.ctx == d.ctx && e.dom == d.dom && e.gen == d.gen) }
      s2.agentSend x.dst x.src x.ctx true (.domainDone op)
    | _, _ => s
  | none => s

/-- DOMAIN_DESCRIPTOR (R334). -/
def execDomainDescriptor (m : Nat) (s : State) : Host.Outcome State Fault Refusal := .next (domainDescriptor m s)

/-- RDOM_ANSWER (R334): the last answer writes the code and the thread goes on. -/
def rdomAnswer (m : Nat) (s : State) : State :=
  match s.arrived m with
  | some x => match x.body with
    | .domainDone op =>
      let s1 := s.dropMsg m
      match s1.rdoms.find? fun (o : RdomOp) => o.id == op with
      | some o =>
        if o.pending ≤ 1 then
          let s2 : State := { s1 with rdoms := s1.rdoms.filter fun (y : RdomOp) => y.id != op }
          if s2.waitsFor o.uid op then (s2.resumeThread o.uid).arriveReg o.uid o.reg (ofNat o.code) else s2
        else { s1 with rdoms := s1.rdoms.map fun (y : RdomOp) => if y.id = op then { y with pending := y.pending - 1 } else y }
      | none => s1
    | _ => s
  | none => s

/-- RDOM_ANSWER (R334). -/
def execRdomAnswer (m : Nat) (s : State) : Host.Outcome State Fault Refusal := .next (rdomAnswer m s)

end Sys2Proof.Machine
end

