-- ==== Sys2Proof/Machine/Group.lean ====
section
/-! DEFINITION. Groups (R201 to R206): GSPLIT and GRANK. -/
namespace Sys2Proof.Machine

/-- Columns of a rectangle. -/
def Rect.width (r : Rect) : Nat := r.x1 + 1 - r.x0
/-- Rows of a rectangle. -/
def Rect.height (r : Rect) : Nat := r.y1 + 1 - r.y0
/-- GROUP.RANK (R202). -/
def groupRank (g : Word) : Nat := fld g 0 17

/-- The GROUP that GSPLIT leaves on core c for blocks of sw by sh cores and barrier index b; none for the trap 0x01 (R205). A
guest's core may lie outside the rectangle; its block is then counted from there all the same (R205, R7). -/
def splitGroup (c : Nat) (g a b : Word) : Option Word :=
  let r := groupRect g
  let sw := fld a 0 8
  let sh := fld a 8 8
  if groupTpc g = 0 ∨ fld a 16 48 ≠ 0 ∨ fld b 4 60 ≠ 0 then none
  else if sw = 0 ∨ sh = 0 ∨ r.width < sw ∨ r.height < sh then none
  else
    let nbx := (r.width + sw - 1) / sw
    let nby := (r.height + sh - 1) / sh
    if 32 < nbx * nby then none
    else
      let bx := Int.fdiv ((coreX c : Int) - r.x0) sw
      let b_y := Int.fdiv ((coreY c : Int) - r.y0) sh
      let x0 := (r.x0 : Int) + bx * sw
      let x1 := min (r.x1 : Int) (x0 + sw - 1)
      let y0 := (r.y0 : Int) + b_y * sh
      let y1 := min (r.y1 : Int) (y0 + sh - 1)
      let blk : Rect := { x0 := x0.toNat, y0 := y0.toNat, x1 := x1.toNat, y1 := y1.toNat }
      if barrierCount (rectLevel blk) ≤ fld b 0 4 then none
      else
        let rank := ((coreY c - y0) * (x1 - x0 + 1) + coreX c - x0) * groupTpc g + groupRank g % groupTpc g
        some (pack [((ofInt rank).toNat, 0, 17), (groupTpc g, 17, 6), ((ofInt (b_y * nbx + bx)).toNat, 23, 5), (fld b 0 4, 28, 4),
          ((ofInt x0).toNat, 32, 8), ((ofInt y0).toNat, 40, 8), ((ofInt x1).toNat, 48, 8), ((ofInt y1).toNat, 56, 8)])

/-- GSPLIT (R205): the issuing slot's GROUP, and g[d], become the block's. -/
def gsplit (word : Word) (d a b : RegCode) (s : State) : Except Stop State :=
  let srcs := [a.toNat, b.toNat]
  match s.operands word srcs [d.toNat] with
  | .error e => .error e
  | .ok vs => match splitGroup s.here s.me.group (arg vs 0) (arg vs 1) with
    | none => .error (.trap 0x01 word)
    | some g => match s.destReady d.toNat with
      | .error e => .error e
      | .ok _ => .ok ((s.modMe fun sl => { sl with group := g }).complete srcs d.toNat g)

/-- GSPLIT (R205). -/
def execGsplit (d a b : RegCode) (s : State) : Host.Outcome State Fault Refusal :=
  s.finish (gsplit (Instr.gsplit d a b).word d a b s)

/-- The core of a rank, as an address, or all ones (R206). -/
def rankCore (g r : Word) : Word :=
  let q := r.toNat / groupTpc g
  let rect := groupRect g
  if groupTpc g = 0 ∨ rect.width * rect.height * groupTpc g ≤ r.toNat then allOnes
  else pack [(rect.y0 + q / rect.width, 40, 8), (rect.x0 + q % rect.width, 32, 8)]

/-- GRANK (R206). -/
def execGrank (d a : RegCode) (s : State) : Host.Outcome State Fault Refusal :=
  s.finish (s.compute (Instr.grank d a).word [a.toNat] d.toNat fun vs => rankCore s.me.group (arg vs 0))

end Sys2Proof.Machine
end

