-- ==== Sys2Proof/Machine/Fetch.lean ====
section
/-! DEFINITION. One cycle of a core: the barrel's choice (R158, R160, R393), and the bytes it fetches (R52, R85). -/
namespace Sys2Proof.Machine

namespace State

/-- Slots of core c may issue: the core is on-line and its DBGSTOP bit is clear (R14, R393). -/
def mayIssue (s : State) (c : Nat) : Bool := !s.isOffline c && !Store.get false s.dev.stopped c

/-- A slot that the default microcode runs in issues nothing (R145). -/
def isMover (s : State) (t : Nat) : Bool := t % 64 == 63 && (s.coreRec (t / 64)).defaultMover

/-- Slot t is eligible in the core's cycle n (R158, R160). -/
def slotEligible (s : State) (n t : Nat) : Bool :=
  let sl := s.slot t
  sl.phase == .ready && !s.isMover t
  && (match sl.lastIssue with | some l => decide (l + 8 ≤ n) | none => true)
  && (match sl.yield with | some (e, _) => decide (e ≤ n) | none => true)

/-- The upper class of R158. -/
def isUpper (s : State) (t : Nat) : Bool := (s.slot t).mode != 0 || t % 64 == 63

/-- The first eligible slot of a class after a pointer, by ascending number, wrapping (R158). -/
def firstEligible (s : State) (c n ptr : Nat) (upper : Bool) : Option Nat :=
  (((List.range 64).map fun i => c * 64 + (ptr + 1 + i) % 64).find? fun t => s.isUpper t == upper && s.slotEligible n t)

/-- The slot that core c issues in its cycle n, if any (R158). -/
def pick (s : State) (c n : Nat) : Option Nat :=
  let r := s.coreRec c
  if !s.mayIssue c then none
  else
    let normal := s.firstEligible c n r.ptrNormal false
    let upper := s.firstEligible c n r.ptrUpper true
    let quiet := match r.lastNormal with | some l => decide (l + 8 ≤ n) | none => true
    match normal, upper with
    | some t, none => some t
    | some t, some u => if quiet then some t else some u
    | none, u => u

/-- The slot after slot t of its core has issued in cycle n: a YIELD ends with its own issue, or after every slot it waits for
(R160). -/
def yieldAfter (n t u : Nat) (sl : Slot) : Slot :=
  if u / 64 ≠ t / 64 then sl
  else if u = t then { sl with lastIssue := some n, yield := none }
  else match sl.yield with
    | some (e, l) => if l.all (· == t) then { sl with yield := none } else { sl with yield := some (e, l.filter (· != t)) }
    | none => sl

/-- Slot t of core c issues in cycle n: it becomes the issuing slot, and its class pointer moves to it (R158). -/
def issueAt (s : State) (c n t : Nat) : State :=
  let upper := s.isUpper t
  let s1 : State := { s with cur := t, slots := s.slots.map fun e => (e.1, yieldAfter n t e.1 e.2) }
  s1.modCore c fun r => if upper then { r with ptrUpper := t % 64 } else { r with ptrNormal := t % 64, lastNormal := some n }

/-- The four bytes at an offset of core c. -/
def fetchBytes (s : State) (c pc : Nat) : List Byte := (List.range 4).map fun i => s.mem.byte (spadKey c (pc + i))

/-- The word at the pc of slot t. -/
def fetchWord (s : State) (t : Nat) : BitVec 32 := BitVec.ofNat 32 (s.mem.readN (spadKey (t / 64) (s.slot t).pc) 4)

/-- Core c is idle (R17). A thread that it has spilled, and whose wait on another core's word it counts, keeps it from that (R300). -/
def coreIdle (s : State) (c : Nat) : Bool :=
  let r := s.coreRec c
  let mv := s.slot (c * 64 + 63)
  (List.range 63).all (fun n => (s.slot (c * 64 + n)).phase == .free)
  && r.mailbox.isNone && (r.defaultMover || (mv.phase == .parked && mv.park == .mailbox))
  && r.queue.isEmpty && r.executed.isNone && r.matrix.queue.isEmpty && r.matrix.compute.isNone && r.matrix.move.isNone
  && r.heldOps.isEmpty && r.departures.isEmpty && r.arms.isEmpty && r.armed == 0 && r.waiting.isEmpty
  && !(s.evicted.any fun e => e.core == c && e.rest.wait.isSome) && !s.net.any fun x => x.dst == .core c

/-- One cycle of core c passes: COUNT, unless the core is off-line, or gated and still idle (R17, R25). -/
def tick (s : State) (c : Nat) : State :=
  let r := s.coreRec c
  if s.isOffline c || (r.gated && s.coreIdle c) then s
  else s.setCore c { r with cycle := r.cycle + 1, gated := false }

/-- The issuing slot of a core's cycle, if any, and the state in which it acts. -/
def cycle (s : State) (c : Nat) : State × Option Nat :=
  let s1 := s.tick c
  let n := (s1.coreRec c).cycle
  match s1.pick c n with
  | some t => (s1.issueAt c n t, some t)
  | none => (s1, none)

end State

end Sys2Proof.Machine
end

