-- ==== Sys2Proof/Machine/Paging.lean ====
section
/-! DEFINITION. Page operations PINVAL, PMAP, PMOVE and PHEAT (R256 to R261), heat words (R250), wakes (R253, R254), and their
events. -/
namespace Sys2Proof.Machine

/-! ## The page operand (R256) -/

/-- VA of a page operand. -/
def opVa (w : Word) : Nat := fld w 0 48
/-- CTXI of a page operand. -/
def opCtx (w : Word) : Nat := fld w 48 9
/-- The level a page operand names. -/
def opLevel (w : Word) : Nat := fld w 58 2 + 1
/-- ALL of a page operand. -/
def opAll (w : Word) : Bool := bitAt w 60
/-- Size in bits of a PINVAL page size (R66). -/
def pageBits (size : Nat) : Nat := if size = 0 then 16 else if size = 1 then 22 else 31

/-- The checks of R256; bits is the page size of a PINVAL. -/
def checkOperand (kind : PageKind) (w : Word) (bits : Nat) : Except Stop Unit :=
  if fld w 62 2 ≠ 1 then .error (.trap 0x04 w)
  else if bitAt w 61 || (bitAt w 57 && kind != .heat) || (opAll w && kind != .inval)
      || (match kind with | .inval => fld w 58 2 != 0 | .map => false | _ => fld w 58 2 == 3) then .error (.trap 0x01 w)
  else if !opAll w && opVa w % 2 ^ (if kind = .inval then bits else spanBits (opLevel w)) != 0 then .error (.trap 0x03 w)
  else .ok ()

/-! ## Walks to a level (R259) -/

/-- The key of the entry for va at level lvl, from table t at the levels given; the result code of a walk that does not reach
it. -/
def State.entryFrom (s : State) (va lvl t : Nat) : List Nat → Except Word Nat
  | [] => .error 0xFFFFFFFFFFFFFFFE
  | l :: r =>
    let key := bulkKey (t + 8 * tableIndex va l)
    if l ≤ lvl then .ok key
    else
      let e := s.read64 key
      if !bitAt e 0 then .error allOnes
      else if malformed e l || bitAt e 1 then .error 0xFFFFFFFFFFFFFFFE
      else s.entryFrom va lvl (fld e 9 30 * 512) r

/-- The key of the entry a page operand names, or the result code (R259, R260). Nothing is walked under a FREE context (R245): the code
is then that of a malformed ROOT (log entry 43, DEDUCED). -/
def State.entryKey (s : State) (w : Word) : Except Word Nat :=
  let root := (s.ctx (opCtx w)).root
  if !s.mayWalk (opCtx w) || malformedRoot root then .error 0xFFFFFFFFFFFFFFFE else s.entryFrom (opVa w) (opLevel w) root.toNat [4, 3, 2, 1]

/-- The number of the heat word of a leaf: core * 4096 + slot (R250). -/
def heatOf (e : Word) : Nat := coreAt (fld e 39 5) (fld e 44 6) * 4096 + fld e 50 12

/-- The heat word of a leaf with H = 1 becomes 0. -/
def State.clearHeat (s : State) (e : Word) : State := if bitAt e 5 then { s with heat := Store.set 0 s.heat (heatOf e) 0 } else s

/-! ## The instructions -/

/-- The pair of a page instruction, its operand checked, and the trap of a codelet (R257). -/
def pageOperands (word : Word) (kind : PageKind) (d bits : Nat) (s : State) : Except Stop (Word × Word) :=
  let run := [d, d + 1]
  match s.runOperands word run run [] with
  | .error e => .error e
  | .ok vs =>
    let pick (o : Word) (r : Word × Word) : Except Stop (Word × Word) :=
      match checkOperand kind o bits with
      | .error e => .error e
      | .ok _ => if s.me.codelet then .error (.trap 0x0C word) else .ok r
    pick (if kind = .heat then arg vs 1 else arg vs 0) (arg vs 0, arg vs 1)

namespace State

/-- A page operation is recorded and its thread waits for it. -/
def startPage (s : State) (o : PageOp) : State :=
  ({ s with pageOps := s.pageOps ++ [{ o with id := s.nextId, uid := s.me.uid, core := s.here }], nextId := s.nextId + 1 } : State).waitFor
    s.nextId (.core s.here) 0 false false []

/-- An invalidation leaves along a path for operation op of a core (R258). -/
def sendInval (s : State) (op c i va bits : Nat) (all : Bool) (path : List Nat) : State :=
  s.agentSend (.core c) (.core (path.headD 0)) 0 true (.invalidate op i va bits all path)

/-- A page operation's result is written and its thread goes on. -/
def endPage (s : State) (o : PageOp) (v : Option Word) : State :=
  let s1 : State := { s with pageOps := s.pageOps.filter (·.id != o.id) }
  if s1.waitsFor o.uid o.id then
    match v with
    | some w => (s1.resumeThread o.uid).arriveReg o.uid o.reg w
    | none => s1.resumeThread o.uid
  else s1

/-- A page operation by number. -/
def pageOp (s : State) (id : Nat) : Option PageOp := s.pageOps.find? (·.id == id)

end State

/-- PINVAL (R258). -/
def pinval (word : Word) (d : RegCode) (size : BitVec 2) (s : State) : Except Stop State :=
  if s.me.mode = 0 then .error (.trap 0x0D word) else
  match pageOperands word .inval d.toNat (pageBits size.toNat) s with
  | .error e => .error e
  | .ok (o, w) => match State.resolveRect s.here w word with
    | .error e => .error e
    | .ok r =>
      if s.me.st ≠ 0 then .error .forfeit
      else
        let path := r.snake
        let op : PageOp := { id := 0, uid := 0, core := 0, kind := .inval, reg := 0, operand := o, arg := w, pending := path.length }
        .ok ((s.startPage op).sendInval s.nextId s.here (opCtx o) (opVa o) (pageBits size.toNat) (opAll o) path)

/-- PINVAL (R258). -/
def execPinval (d : RegCode) (size : BitVec 2) (s : State) : Host.Outcome State Fault Refusal :=
  s.finish (pinval (Instr.pinval d size).word d size s)

/-- PMAP (R259, R75). -/
def pmap (word : Word) (d : RegCode) (s : State) : Except Stop State :=
  if s.me.mode = 0 then .error (.trap 0x0D word) else
  match pageOperands word .map d.toNat 0 s with
  | .error e => .error e
  | .ok (o, e) =>
    if e ≠ 0 ∧ (!bitAt e 0 || malformed e (opLevel o)) then .error (.trap 0x01 e)
    else if s.me.st ≠ 0 then .error .forfeit
    else match s.destReady d.toNat with
      | .error e => .error e
      | .ok _ => .ok (s.startPage { id := 0, uid := 0, core := 0, kind := .map, reg := d.toNat, operand := o, arg := e })

/-- PMAP (R259). -/
def execPmap (d : RegCode) (s : State) : Host.Outcome State Fault Refusal := s.finish (pmap (Instr.pmap d).word d s)

/-- PHEAT (R261, R75). -/
def pheat (word : Word) (d : RegCode) (s : State) : Except Stop State :=
  if s.me.mode = 0 then .error (.trap 0x0D word) else
  match pageOperands word .heat d.toNat 0 s with
  | .error e => .error e
  | .ok (_, o) => match s.destReady d.toNat with
    | .error e => .error e
    | .ok _ => .ok (s.startPage { id := 0, uid := 0, core := 0, kind := .heat, reg := d.toNat, operand := o, arg := 0 })

/-- PHEAT (R261). -/
def execPheat (d : RegCode) (s : State) : Host.Outcome State Fault Refusal := s.finish (pheat (Instr.pheat d).word d s)

/-- PMOVE (R260, R75): the walk and the mark, then the shoot-down on every core; the result at once where the walk gives one. -/
def pmove (word : Word) (d : RegCode) (s : State) : Except Stop State :=
  if s.me.mode = 0 then .error (.trap 0x0D word) else
  match pageOperands word .move d.toNat 0 s with
  | .error e => .error e
  | .ok (o, t) =>
    let bits := spanBits (opLevel o)
    if fld t 39 25 ≠ 0 ∨ t.toNat % 2 ^ bits ≠ 0 then .error (.trap 0x01 word)
    else if s.me.st ≠ 0 then .error .forfeit
    else match s.destReady d.toNat with
    | .error e => .error e
    | .ok _ =>
      let ends (v : Word) : Except Stop State := .ok (s.complete [] d.toNat v)
      match s.entryKey o with
      | .error v => ends v
      | .ok key =>
        let e := s.read64 key
        if !bitAt e 0 then ends allOnes
        else if malformed e (opLevel o) || !bitAt e 1 then ends 0xFFFFFFFFFFFFFFFE
        else if bitAt e 4 then ends 0xFFFFFFFFFFFFFFFD
        else
          let path := wholePackage.snake
          let op : PageOp :=
            { id := 0, uid := 0, core := 0, kind := .move, reg := d.toNat, operand := o, arg := t, pending := path.length, leafKey := key }
          .ok (((s.write64 key (setFld e 4 1 1)).startPage op).sendInval s.nextId s.here (opCtx o) (opVa o) bits false path)

/-- PMOVE (R260). -/
def execPmove (d : RegCode) (s : State) : Host.Outcome State Fault Refusal := s.finish (pmove (Instr.pmove d).word d s)

/-! ## Events -/

/-- A request of core c under context i to bulk memory is in flight. -/
def bulkInFlight (s : State) (c i : Nat) : Bool :=
  s.net.any fun x => x.src == .core c && !x.resp && x.ctx == i &&
    (match x.dst with | .chan _ => true | _ => false)

/-- A cached translation is one that an invalidation removes (R258). -/
def invalidates (i va bits : Nat) (all : Bool) (t : Translation) : Bool :=
  t.ctx == i && (all || (decide (t.va < va + 2 ^ bits) && decide (va < t.va + 2 ^ spanBits t.level)))

/-- INVALIDATION (R258): a core that can take its copy (R266) drops the translations, acknowledges once its accesses through them are
performed, and the invalidation goes on along its path. -/
def invalidation (m : Nat) (s : State) : State :=
  match s.arrived m with
  | some x => match x.body, x.dst with
    | .invalidate op i va bits all path, .core c =>
      if bulkInFlight s c i || !s.takesCopy c then s
      else
        let s1 := (s.dropMsg m).modCore c fun r => { r with tlb := r.tlb.filter fun t => !invalidates i va bits all t }
        let s2 := s1.agentSend (.core c) x.src 0 true (.invalidated op)
        match path.drop 1 with
        | [] => s2
        | n :: l => s2.sendAs { x with dst := .core n, body := .invalidate op i va bits all (n :: l) }
    | _, _ => s
  | none => s

/-- INVALIDATION (R258). -/
def execInvalidation (m : Nat) (s : State) : Host.Outcome State Fault Refusal := .next (invalidation m s)

/-- INVALIDATION_ACK (R258, R260): the last acknowledgement completes a PINVAL, and lets a PMOVE copy. -/
def invalidationAck (m : Nat) (s : State) : State :=
  match s.arrived m with
  | some x => match x.body with
    | .invalidated op =>
      let s1 := s.dropMsg m
      match s1.pageOp op with
      | some o =>
        if o.pending ≤ 1 ∧ o.kind = .inval then s1.endPage o none
        else { s1 with pageOps := s1.pageOps.map fun y => if y.id = op then { y with pending := y.pending - 1 } else y }
      | none => s1
    | _ => s
  | none => s

/-- INVALIDATION_ACK (R258). -/
def execInvalidationAck (m : Nat) (s : State) : Host.Outcome State Fault Refusal := .next (invalidationAck m s)

/-- PMOVE_COPY_DONE (R260): the page is copied, the leaf rewritten with MIG 0, its heat cleared, the old leaf returned. -/
def pmoveCopyDone (id : Nat) (s : State) : State :=
  match s.pageOp id with
  | some o =>
    if o.kind = .move ∧ o.pending = 0 then
      let e := setFld (s.read64 o.leafKey) 4 1 0
      let from0 := bulkKey (fld e 9 30 * 512)
      let s1 := s.writeBytes (bulkKey o.arg.toNat) (s.readBytes from0 (2 ^ spanBits (opLevel o.operand))) []
      ((s1.write64 o.leafKey (setFld e 9 30 (o.arg.toNat / 512))).clearHeat e).endPage o (some e)
    else s
  | none => s

/-- PMOVE_COPY_DONE (R260). -/
def execPmoveCopyDone (m : Nat) (s : State) : Host.Outcome State Fault Refusal := .next (pmoveCopyDone m s)

/-- PMAP_COMPLETE (R259): the walk, the write of the entry, the result. -/
def pmapComplete (id : Nat) (s : State) : State :=
  match s.pageOp id with
  | some o =>
    if o.kind = .map then
      match s.entryKey o.operand with
      | .error v => s.endPage o (some v)
      | .ok key =>
        let old := s.read64 key
        if bitAt old 4 then s.endPage o (some 0xFFFFFFFFFFFFFFFD)
        else
          let s1 := s.write64 key o.arg
          (if bitAt o.arg 1 then s1.clearHeat o.arg else s1).endPage o (some old)
    else s
  | none => s

/-- PMAP_COMPLETE (R259). -/
def execPmapComplete (m : Nat) (s : State) : Host.Outcome State Fault Refusal := .next (pmapComplete m s)

/-- PHEAT_COMPLETE (R261): the heat word of a valid leaf with H = 1, cleared if asked; else all ones. -/
def pheatComplete (id : Nat) (s : State) : State :=
  match s.pageOp id with
  | some o =>
    if o.kind = .heat then
      match s.entryKey o.operand with
      | .error _ => s.endPage o (some allOnes)
      | .ok key =>
        let e := s.read64 key
        if !bitAt e 0 || malformed e (opLevel o.operand) || !bitAt e 1 || !bitAt e 5 then s.endPage o (some allOnes)
        else (if bitAt o.operand 57 then s.clearHeat e else s).endPage o (some (Store.get 0 s.heat (heatOf e)))
    else s
  | none => s

/-- PHEAT_COMPLETE (R261). -/
def execPheatComplete (m : Nat) (s : State) : Host.Outcome State Fault Refusal := .next (pheatComplete m s)

/-- A heat word after an update from die d (R250). -/
def heatStep (h : Word) (d : Nat) : Word :=
  let n (j : Nat) : Nat := fld h (16 + 12 * j) 12
  let halve := decide (0xFFF < n d + 1)
  let v (j : Nat) : Nat := (if halve then n j / 2 else n j) + boolNat (j == d)
  pack [(min (fld h 0 16 + 1) 0xFFFE, 0, 16), (v 0, 16, 12), (v 1, 28, 12), (v 2, 40, 12), (v 3, 52, 12)]

/-- HEAT_UPDATE (R250). -/
def heatUpdate (m : Nat) (s : State) : State :=
  match s.arrived m with
  | some x => match x.body, x.dst with
    | .heat h d, .core c =>
      let i := c * 4096 + h
      { s.dropMsg m with heat := Store.set 0 s.heat i (heatStep (Store.get 0 s.heat i) d) }
    | _, _ => s
  | none => s

/-- HEAT_UPDATE (R250). -/
def execHeatUpdate (m : Nat) (s : State) : Host.Outcome State Fault Refusal := .next (heatUpdate m s)

/-- PWAKE (R253): the write's wake message goes to the faulting core; a malformed value sends nothing. -/
def pwakeSend (m : Nat) (s : State) : State :=
  match s.arrived m with
  | some x => match x.body with
    | .pwake w =>
      let s1 := s.dropMsg m
      let slot := fld w 0 7
      let out := fld w 56 2
      if bitAt w 7 || fld w 16 16 != 0 || fld w 48 8 != 0 || fld w 58 6 != 0 || decide (64 < slot) || decide (1 < out)
          || decide (31 < fld w 32 8) || decide (39 < fld w 40 8) then s1
      else s1.agentSend x.src (.core (coreAt (fld w 32 8) (fld w 40 8))) 0 true (.wake slot (fld w 8 8) out)
    | _ => s
  | none => s

/-- PWAKE (R253). -/
def execPwake (m : Nat) (s : State) : Host.Outcome State Fault Refusal := .next (pwakeSend m s)

/-- Slot t leaves page wait: READY, or, where the default microcode goes on by itself, parked on the mailbox (R154; log entry 17,
DEDUCED). -/
def leavePageWait (t : Nat) (s : State) : State := s.modSlot t fun sl =>
  if s.isMover t then { sl with phase := .parked, park := .mailbox } else { sl with phase := .ready }

/-- A wake reaches a slot in page wait (R253, R145). -/
def wakePaged (t out : Nat) (s : State) : State :=
  let sl := s.slot t
  if out = 0 then leavePageWait t s
  else match (if t % 64 = 63 then (s.coreRec (t / 64)).mailbox else none) with
    | some q =>
      let s1 := s.copyFail (t / 64) q.op 0x06 (if sl.waitWrite then 6 else 5)
      if s.isMover t then leavePageWait t s1 else s1.modSlot t fun x => { x.advance with phase := .parked, park := .mailbox }
    | none => s.lateTrap t 0x06 sl.waitInfo

/-- A wake reaches an evicted slot in page wait: its image (R254). -/
def wakeImage (e : Evicted) (out : Nat) (s : State) : State :=
  let s1 := s.modThread e.rest.uid fun sl => { sl with phase := .ready }
  if out = 0 then s1 else s1.pendThread e.rest.uid 0x06 e.rest.waitInfo

/-- PAGE_WAKE (R253, R254): a wake that matches a page wait is applied; every other wake is dropped. -/
def pageWake (m : Nat) (s : State) : State :=
  match s.arrived m with
  | some x => match x.body, x.dst with
    | .wake n seq out, .core c =>
      let s1 := s.dropMsg m
      if n = 64 then
        if (s.coreRec c).movePage.isSome && (s.coreRec c).moverSeq == seq then
          s1.modCore c fun r => { r with movePage := none, moveFailed := out == 1 }
        else s1
      else
        let t := c * 64 + n
        if (s.slot t).phase = .pageWait ∧ (s.slot t).seq = seq then wakePaged t out s1
        else match s.evicted.find? fun e => e.core == c && e.slot == n &&
            (let sl := imageSlot s e.key e.rest; sl.phase == .pageWait && sl.seq == seq) with
          | some e => wakeImage e out s1
          | none => s1
    | _, _ => s
  | none => s

/-- PAGE_WAKE (R253). -/
def execPageWake (m : Nat) (s : State) : Host.Outcome State Fault Refusal := .next (pageWake m s)

end Sys2Proof.Machine
end

