-- ==== Sys2Proof/Machine/Link.lean ====
section
/-! DEFINITION. Klobry links (R273 to R281): flows and reservations, link widths, frames, cells, notices, and requests from
other packages (R402), with their events. -/
namespace Sys2Proof.Machine

namespace State

/-! ## Links and flows (R273, R279, R281) -/

/-- s with a link changed. -/
def modLink (s : State) (l : Nat) (f : LinkRec → LinkRec) : State := { s with links := Store.set {} s.links l (f (s.link l)) }
/-- The LINKSTAT nibble of a link (R281). -/
def linkNibble (s : State) (l : Nat) : Nat := (s.link l).width % 4 + 4 * boolNat (s.link l).up + 8 * boolNat (s.link l).training
/-- LINKSTAT (R281). -/
def linkStat (s : State) : Word := pack ((List.range 12).map fun l => (s.linkNibble l, 4 * l, 4))

/-- The number of a flow. -/
def flowKey (i d p : Nat) : Nat := (i * 4 + d) * 64 + p
/-- A flow's reservation. -/
def flow (s : State) (i d p : Nat) : FlowRec := Store.get {} s.flows (flowKey i d p)
/-- The link that carries the flow of a number (R273). -/
def flowLink (s : State) (k : Nat) : Option Nat := s.linkOf (k / 256) (k / 64 % 4) (k % 64)
/-- Slots reserved on a link (R275, R279). -/
def reservedOn (s : State) (l : Nat) : Nat := s.flows.foldl (fun n e => if s.flowLink e.1 = some l then n + e.2.held else n) 0

/-! ## Notices (R281) -/

/-- What an event is about: the link, or the package. -/
def eventKey (w : Word) : Nat := if bitAt w 16 then 16 + fld w 8 6 else fld w 0 4
/-- An event waits to be delivered; only the latest per link and per package is kept. -/
def linkEvent (s : State) (w : Word) : State :=
  { s with linkEvents := (s.linkEvents.filter fun x => eventKey x != eventKey w) ++ [w] }
/-- A link changes, with an event if its nibble does. -/
def changeLink (s : State) (l : Nat) (f : LinkRec → LinkRec) : State :=
  let s1 := s.modLink l f
  if s1.linkNibble l = s.linkNibble l then s1 else s1.linkEvent (ofNat (l + s1.linkNibble l * 16))
/-- A package becomes unreachable from a die, or reachable, with an event if that is new. -/
def setReachable (s : State) (d p : Nat) (up : Bool) : State :=
  if up = !s.unreachable.contains (d * 64 + p) then s
  else
    let s1 : State := { s with unreachable := if up then s.unreachable.filter (· != d * 64 + p) else s.unreachable ++ [d * 64 + p] }
    s1.linkEvent (ofNat (p * 256 + 2 ^ 16 + boolNat up * 2 ^ 17))

/-- The oldest event goes to NAME, which becomes 0 (R281). -/
def deliverNotice (s : State) : State :=
  match s.linkEvents with
  | [] => s
  | w :: l =>
    if s.linkNote = 0 then s
    else if !s.nameUsable s.linkNote then { s with linkNote := 0 }
    else
      let s1 : State := { s with linkNote := 0, linkEvents := l }
      let nm := s.linkNote
      if namePkg nm = s.pkgNum then
        s1.agentSend (.gate 0) (.core (nameCore nm)) 0 true (.deliver nm w (.notice w))
      else s1.sendAbroad 0 64 0 (namePkg nm) { ctx := 0, sup := true } (.deliver nm (.notice w)) (.deliver nm w (.notice w))

/-- A new name in LINKNOTE releases one held notice (R281). -/
def writeLinkNote (s : State) (nm : Word) : State := ({ s with linkNote := nm } : State).deliverNotice

end State

/-! ## CELLRES, CELLREL and LINKW -/

/-- CELLRES or CELLREL (R279). -/
def cells (word : Word) (rel : Bool) (d n : RegCode) (s : State) : Except Stop State :=
  match s.operands word [d.toNat] [d.toNat] with
  | .error e => .error e
  | .ok vs =>
    let f := arg vs 0
    let p := fld f 0 6
    if fld f 9 55 ≠ 0 ∨ fld f 6 2 ≠ 0 ∨ p = s.pkgNum then .error (.trap 0x01 f)
    else if s.me.codelet then .error (.trap 0x0C word)
    else match s.destReady d.toNat with
      | .error e => .error e
      | .ok _ =>
        let home : Node := .gate (dieOf s.here)
        s.sendFlits s.me.ctx home 1
          ((s.send { id := 0, uid := s.me.uid, src := .core s.here, slot := s.num, dst := home, ctx := s.me.ctx, sup := s.me.mode != 0,
                     body := .cells rel p n.toNat (bitAt f 8) d.toNat }).waitFor s.nextId home f false false [d.toNat])

/-- CELLRES (R279). -/
def execCellres (d n : RegCode) (s : State) : Host.Outcome State Fault Refusal :=
  s.finish (cells (Instr.cellres d n).word false d n s)
/-- CELLREL (R279). -/
def execCellrel (d n : RegCode) (s : State) : Host.Outcome State Fault Refusal :=
  s.finish (cells (Instr.cellrel d n).word true d n s)

/-- LINKW (R280). -/
def linkw (word : Word) (d : RegCode) (w : BitVec 4) (s : State) : Except Stop State :=
  if s.me.mode = 0 then .error (.trap 0x0D word) else
  match s.operands word [d.toNat] [d.toNat] with
  | .error e => .error e
  | .ok vs =>
    let l := fld (arg vs 0) 0 4
    if fld (arg vs 0) 4 60 ≠ 0 ∨ 11 < l then .error (.trap 0x01 word)
    else if s.me.codelet then .error (.trap 0x0C word)
    else match s.destReady d.toNat with
      | .error e => .error e
      | .ok _ =>
        let home : Node := .gate (l / 3)
        s.sendFlits s.me.ctx home 1
          ((s.send { id := 0, uid := s.me.uid, src := .core s.here, slot := s.num, dst := home, ctx := s.me.ctx, sup := true
                     body := .linkw l w.toNat d.toNat }).waitFor s.nextId home 0 false false [d.toNat])

/-- LINKW (R280). -/
def execLinkw (d : RegCode) (w : BitVec 4) (s : State) : Host.Outcome State Fault Refusal :=
  s.finish (linkw (Instr.linkw d w).word d w s)

/-- A gateway's answer: the thread's instruction completes with a result. -/
def gateAnswer (uid reg : Nat) (v : Word) (s : State) : State := (s.resumeThread uid).arriveReg uid reg v

/-- CELL_RESERVATION (R279): the gateway grants or releases slots, and answers. -/
def cellReservation (m : Nat) (s : State) : State :=
  match s.performable m with
  | some x => match x.body, x.dst with
    | .cells rel p n ord reg, .gate d =>
      let s1 := s.dropMsg m
      let k := State.flowKey x.ctx d p
      let f := s.flow x.ctx d p
      if rel then
        let g := f.release n
        gateAnswer x.uid reg (ofNat g.held) { s1 with flows := Store.set {} s1.flows k g }
      else match s.linkOf x.ctx d p with
        | none => gateAnswer x.uid reg 2 s1
        | some l =>
          if 52 < s.reservedOn l + n then gateAnswer x.uid reg 1 s1
          else
            gateAnswer x.uid reg 0
              { s1 with flows := Store.set {} s1.flows k { made := f.made ++ [(s1.nextId, n)], ord := ord }, nextId := s1.nextId + 1 }
    | _, _ => s
  | none => s

/-- CELL_RESERVATION (R279). -/
def execCellReservation (m : Nat) (s : State) : Host.Outcome State Fault Refusal := .next (cellReservation m s)

/-- The cells that a link has not had acknowledged go out again (R276). -/
def State.resendLink (s : State) (l : Nat) : State :=
  { s with sent := s.sent.map fun e => if e.link = l then { e with left := e.left + e.last, last := 0 } else e }

/-- A recorded code: from 3 to another it retrains the link, and 3 takes it down (R280). -/
def recordWidth (w : Nat) (k : LinkRec) : LinkRec :=
  if w = 3 then { k with width := 3, up := false, training := false }
  else if k.width = 3 then { k with width := w, up := false, training := true }
  else { k with width := w }

/-- LINKW_REQUEST (R280): for a link that is up the code waits for the boundary; else it is recorded and answered at once. -/
def linkwRequest (m : Nat) (s : State) : State :=
  match s.performable m with
  | some x => match x.body with
    | .linkw l w reg =>
      let s1 := s.dropMsg m
      if (s.link l).up then s1.modLink l fun k => { k with pending := k.pending ++ [(x.uid, reg, w)] }
      else gateAnswer x.uid reg (ofNat (s.link l).width) (s1.changeLink l (recordWidth w))
    | _ => s
  | none => s

/-- LINKW_REQUEST (R280). -/
def execLinkwRequest (m : Nat) (s : State) : Host.Outcome State Fault Refusal := .next (linkwRequest m s)

/-- LINK_WIDTH_CHANGE (R280): at the link-frame boundary the recorded code takes effect and its issuer is answered. -/
def linkWidthChange (l : Nat) (s : State) : State :=
  match (s.link l).pending with
  | [] => s
  | (uid, reg, w) :: r =>
    let old := (s.link l).width
    gateAnswer uid reg (ofNat old) ((if w = 3 then s.resendLink l else s).changeLink l fun k => { recordWidth w k with pending := r })

/-- LINK_WIDTH_CHANGE (R280). -/
def execLinkWidthChange (l : Nat) (s : State) : Host.Outcome State Fault Refusal := .next (linkWidthChange l s)

/-- LINK_DOWN (R276): a link that fails retraining is down; its cells not acknowledged go out again over its flows' next links. -/
def linkDown (l : Nat) (s : State) : State :=
  if 12 ≤ l then s else (s.resendLink l).changeLink l fun k => { k with up := false, training := false }

/-- LINK_DOWN (R276). -/
def execLinkDown (l : Nat) (s : State) : Host.Outcome State Fault Refusal := .next (linkDown l s)

/-- LINK_TRAINED (R280): a training link, or one of a pod's package that went down, comes up with its recorded width. -/
def linkTrained (l : Nat) (s : State) : State :=
  let k := s.link l
  if l < 12 ∧ !k.up ∧ (k.training ∨ (s.inPod ∧ k.width ≠ 3)) then s.changeLink l fun k => { k with up := true, training := false } else s

/-- LINK_TRAINED (R280). -/
def execLinkTrained (l : Nat) (s : State) : Host.Outcome State Fault Refusal := .next (linkTrained l s)

/-- LINK_NOTICE (R281): an event is delivered to LINKNOTE.NAME. -/
def execLinkNotice (s : State) : Host.Outcome State Fault Refusal := .next s.deliverNotice

/-- LINKNOTE_WRITE (R281). -/
def execLinknoteWrite (name : BitVec 64) (s : State) : Host.Outcome State Fault Refusal := .next (s.writeLinkNote name)

/-! ## Frames and cells (R274 to R276) -/

/-- Cells of a packet: 112 bytes of payload each (R274). -/
def cellsOf (b : Body) : Nat := (b.payload + 111) / 112

/-- CLS of a message (R274). -/
def Msg.cls (x : Msg) : Nat :=
  match x.body with
  | .migrant _ _ _ => 2
  | _ => if x.resp then 1 else 0

namespace State

/-- The number of the flow that a message to another package belongs to (R273). -/
def flowOf (x : Msg) : Nat := match x.dst with | .pkg p => flowKey x.ctx (nodeDie x.src) p | _ => 0

/-- The message is ready to enter the gateway for link l: it is for another package, its flow is carried there, and its router has
taken the credit back (R273, R380). -/
def leaves (s : State) (l : Nat) (x : Msg) : Bool :=
  match x.dst with
  | .pkg _ => x.credit.isNone && !x.started && s.flowLink (flowOf x) == some l
  | _ => false

/-- A message becomes a packet of the gateway with its numbers (R274). -/
def packetize (s : State) (l : Nat) (x : Msg) : State :=
  let k := flowOf x
  let d := nodeDie x.src
  let e := d * 64 + k % 64
  let n := cellsOf x.body
  let p : Packet :=
    { link := l, msg := x, fseq := Store.get 0 s.flowOut k, eseq := Store.get 0 s.cellOut e, num := Store.get 0 s.packetOut d, cells := n
      ord := (Store.get {} s.flows k).ord, left := n }
  { s with net := s.net.filter (·.id != x.id), sent := s.sent ++ [p], flowOut := Store.set 0 s.flowOut k ((p.fseq + 1) % 65536)
           cellOut := Store.set 0 s.cellOut e ((p.eseq + n) % 16777216), packetOut := Store.set 0 s.packetOut d ((p.num + 1) % 4096) }

end State

/-- The header of cell i of a packet but for its CRC, bits 111:0 (R274). -/
def Packet.header (own : Nat) (p : Packet) (i : Nat) : BitVec 112 :=
  BitVec.ofNat 112 (State.flowOf p.msg % 64 + own * 2 ^ 8 + State.nodeDie p.msg.src * 2 ^ 16 + p.msg.cls * 2 ^ 18 + boolNat p.ord * 2 ^ 20 + p.msg.ctx * 2 ^ 32
    + p.fseq * 2 ^ 48 + (p.eseq + i) % 2 ^ 24 * 2 ^ 64 + p.num * 2 ^ 88 + (p.cells - 1) * 2 ^ 100 + i * 2 ^ 104)

/-- A packet after n more of its cells have gone on link l. -/
def Packet.go (l n : Nat) (p : Packet) : Packet := if n = 0 then p else { p with link := l, left := p.left - n, last := p.last + n }

/-- Up to n cells go on link l from the packets of a list that sel admits, in order; the slots left over. -/
def takeSlots (l : Nat) (sel : Packet → Bool) : Nat → List Packet → Nat × List Packet
  | n, [] => (n, [])
  | n, p :: r =>
    let m := if sel p then min n p.left else 0
    let x := takeSlots l sel (n - m) r
    (x.1, p.go l m :: x.2)

/-- The frame ages of R268, oldest first: 7 to 0, then those ahead of F. -/
def agesOldestFirst : List Nat := [7, 6, 5, 4, 3, 2, 1, 0, 15, 14, 13, 12, 11, 10, 9, 8]

/-- Packets in order of age, oldest first, under die frame f (R268). -/
def byAge (f : Nat) (l : List Packet) : List Packet :=
  agesOldestFirst.flatMap fun a => l.filter fun p => (f + 16 - p.msg.frame % 16) % 16 == a

/-- The flow whose turn comes after flow t among some, round-robin (R275). -/
def nextFlow (t : Nat) (l : List Nat) : Option Nat :=
  match (l.filter (t < ·)).min? with
  | some k => some k
  | none => l.min?

/-- One shared slot of link l: of the oldest packets with cells to go, not responses, one of the next flow's (R275, R268). -/
def shareSlot (l f turn : Nat) (ps : List Packet) : Option (Nat × List Packet) :=
  let open' (p : Packet) : Bool := decide (0 < p.left) && p.msg.cls != 1
  let age (p : Packet) : Nat := (f + 16 - p.msg.frame % 16) % 16
  match (byAge f ps).find? open' with
  | none => none
  | some h => match nextFlow turn ((ps.filter fun p => open' p && age p == age h).map fun p => State.flowOf p.msg) with
    | none => none
    | some k => some (k, (takeSlots l (fun p => open' p && age p == age h && State.flowOf p.msg == k) 1 ps).2)

/-- n shared slots of link l, with the flow that each serves last. -/
def shareSlots (l f : Nat) : Nat → Nat → List Packet → Nat × List Packet
  | 0, turn, ps => (turn, ps)
  | n + 1, turn, ps => match shareSlot l f turn ps with
    | some (k, qs) => shareSlots l f n k qs
    | none => (turn, ps)

/-- The reservations that link l honours, made earliest first, up to 52 slots: flow and slots (R279). -/
def State.honoured (s : State) (l : Nat) : List (Nat × Nat) :=
  let all := (s.flows.filter fun e => s.flowLink e.1 == some l).flatMap fun e => e.2.made.map fun m => (m.1, e.1, m.2)
  let rec go : Nat → Nat → List (Nat × Nat × Nat) → List (Nat × Nat)
    | 0, _, _ => []
    | k + 1, n, l => match (l.map (·.1)).min? with
      | none => []
      | some t => match l.find? fun e => e.1 == t with
        | none => []
        | some e => (e.2.1, min n e.2.2) :: go k (n - e.2.2) (l.erase e)
  go all.length 52 all

/-- Each honoured reservation's cells go first (R275): the slots left of n, and the packets. -/
def reservedSlots (l : Nat) : Nat → List (Nat × Nat) → List Packet → Nat × List Packet
  | n, [], ps => (n, ps)
  | n, e :: r, ps =>
    let x := takeSlots l (fun p => p.msg.cls != 1 && State.flowOf p.msg == e.1) (min n e.2) ps
    reservedSlots l (n - (min n e.2 - x.1)) r x.2

/-- The packets of link l after one frame of 64 slots (R275), and the flow served last: four slots for responses alone; of the other 60
the reserved ones, then further responses, then the rest. -/
def frameCells (s : State) (l f turn : Nat) (ps : List Packet) : Nat × List Packet :=
  let a := takeSlots l (·.msg.cls == 1) 4 (byAge f ps)
  let b := reservedSlots l 60 (s.honoured l) a.2
  let c := takeSlots l (·.msg.cls == 1) b.1 b.2
  shareSlots l f c.1 turn c.2

/-- LINK_FRAME (R275, R276): the cells of the last frame not sent again are acknowledged, and so delivered: their packages are
reachable, and a packet with none left is gone; then the gateway takes what its flows have for the link, and the frame its cells
(log entry 34, DEDUCED). -/
def linkFrame (l : Nat) (s : State) : State :=
  if !(s.link l).up then s
  else
    let s1 := (s.sent.filter fun e => e.link == l && decide (0 < e.last)).foldl (fun (x : State) e =>
      x.setReachable (State.nodeDie e.msg.src) (State.flowOf e.msg % 64) true) s
    let kept := (s.sent.map fun e => if e.link = l then { e with last := 0 } else e).filter fun e => e.left != 0 || e.last != 0
    let s2 := (s.net.filter (s.leaves l)).foldl (fun (x : State) m => x.packetize l m) { s1 with sent := kept }
    let mine (e : Packet) : Bool := decide (0 < e.left) && s.flowLink (State.flowOf e.msg) == some l
    let r := frameCells s l (Store.get 0 s.dieFrame (l / 3)) (s.link l).turn (s2.sent.filter mine)
    ({ s2 with sent := s2.sent.filter (fun e => !mine e) ++ r.2 } : State).modLink l fun k => { k with turn := r.1 }

/-- LINK_FRAME (R275). -/
def execLinkFrame (l : Nat) (s : State) : Host.Outcome State Fault Refusal := .next (linkFrame l s)

/-- CELL_RESEND (R276): the cells of packet m in its link's last frame failed their CRC, or were not acknowledged: they are sent again,
with the numbers they had. -/
def cellResend (m : Nat) (s : State) : State :=
  { s with sent := s.sent.map fun e => if e.msg.id = m then { e with left := e.left + e.last, last := 0 } else e }

/-- CELL_RESEND (R276). -/
def execCellResend (m : Nat) (s : State) : Host.Outcome State Fault Refusal := .next (cellResend m s)

/-- PACKAGE_UNREACHABLE (R276): the outstanding requests of a die to a package complete with cause 0x0E; those on a pod
barrier by R241. A record, and a response, is no request: the links go on sending it. -/
def packageUnreachable (d p : Nat) (s : State) : State :=
  if 4 ≤ d ∨ 64 ≤ p ∨ p = s.pkgNum then s
  else (s.setReachable d p false).failAbroad fun o =>
    o.pkg == p && dieOf o.core == d && (match o.what with | .barrier _ _ | .engine _ _ _ | .migrant => false | _ => true)

/-- PACKAGE_UNREACHABLE (R276). -/
def execPackageUnreachable (d p : Nat) (s : State) : Host.Outcome State Fault Refusal := .next (packageUnreachable d p s)

namespace Cell
/-- A field of the header (R274). -/
def field (c : Cell) (lo w : Nat) : Nat := c.header.toNat / 2 ^ lo % 2 ^ w
/-- DPKG. -/
def dpkg (c : Cell) : Nat := c.field 0 6
/-- SPKG. -/
def spkg (c : Cell) : Nat := c.field 8 6
/-- SPKG and SDIE. -/
def source (c : Cell) : Nat := c.field 8 6 * 4 + c.field 16 2
/-- CLS. -/
def cls (c : Cell) : Nat := c.field 18 2
/-- ORD. -/
def ord (c : Cell) : Bool := c.field 20 1 == 1
/-- CTX. -/
def ctx (c : Cell) : Nat := c.field 32 9
/-- FSEQ. -/
def fseq (c : Cell) : Nat := c.field 48 16
/-- ESEQ. -/
def eseq (c : Cell) : Nat := c.field 64 24
/-- PKT. -/
def pkt (c : Cell) : Nat := c.field 88 12
/-- NC + 1. -/
def count (c : Cell) : Nat := c.field 100 4 + 1
/-- CI. -/
def index (c : Cell) : Nat := c.field 104 4
/-- The inbound flow. -/
def flow (c : Cell) : Nat := c.source * 512 + c.ctx
end Cell

/-- The class of sources of a die's gateway, beside those of the 40 clusters (R270). -/
def gateClass (d : Nat) : Nat := 40 + d

/-- The die whose gateway's class a request from another package takes a credit of toward an agent: the agent's own (R270). -/
def gateCredit (dst : Node) : Nat × Node := (gateClass (State.nodeDie dst), dst)

/-- A packet asks for what takes a request credit at its place (R270): a barrier operation. An access of memory takes its own once the
gateway has translated it (R402). -/
def takesCredit (b : Body) : Bool :=
  match b with
  | .barrier _ _ _ _ _ => true
  | _ => false

/-- A whole packet may be passed on: what takes a credit finds one free (R270). -/
def State.mayPass (s : State) (c : Cell) : Bool := !takesCredit c.body || s.creditFree (gateCredit c.dst).1 c.dst

/-- A whole packet is passed on: an answer to a request of this package, or a message to its place here. -/
def passOn (c : Cell) (s : State) : State :=
  match c.body with
  | .fabricAnswer op cause data =>
    match s.outstanding.find? (·.id == op) with
    | some o => (s.withdraw [op]).answerOutstanding o cause data
    | none => s
  | b =>
    let k := gateCredit c.dst
    let m : Msg :=
      { id := 0, uid := c.op, src := .pkg c.spkg, slot := c.slot, dst := c.dst, resp := c.cls == 1, ctx := c.ctx, sup := c.sup, body := b }
    if takesCredit b then (s.takeCredit k.1 k.2).send { m with credit := some k } else s.send m

/-- The flow after FSEQ f is passed on (R278). -/
def passedSeq (f : Nat) (w : FlowIn) : FlowIn :=
  let l := f :: w.passed
  let rec go : Nat → Nat → List Nat → FlowIn
    | 0, n, l => { next := n, passed := l }
    | k + 1, n, l => if l.contains n then go k ((n + 1) % 65536) (l.filter (· != n)) else { next := n, passed := l }
  go l.length w.next l

/-- Whole packets are passed on: an unordered flow's as they are, an ordered flow's in FSEQ order (R278). -/
def passAll : Nat → State → State
  | 0, s => s
  | n + 1, s =>
    match s.partials.find? fun p => decide (p.cell.count ≤ p.got.length) && s.mayPass p.cell &&
        (!p.cell.ord || p.cell.fseq == (Store.get {} s.flowIn p.cell.flow).next) with
    | some p =>
      let k := p.cell.flow
      passAll n (passOn p.cell
        { s with partials := s.partials.filter fun q => q != p
                 flowIn := Store.set {} s.flowIn k (passedSeq p.cell.fseq (Store.get {} s.flowIn k)) })
    | none => s

/-- CELL_RECEIVE (R274, R276, R278): duplicates are dropped, packets reassembled and passed on. -/
def cellReceive (d : Nat) (c : Cell) (s : State) : State :=
  if 4 ≤ d ∨ c.dpkg ≠ s.pkgNum ∨ c.spkg = s.pkgNum ∨ c.cls = 3 then s
  else
    let seen := Store.get [] s.accepted c.source
    if seen.contains c.eseq then s
    else
      let s1 : State := { s with accepted := Store.set [] s.accepted c.source ((c.eseq :: seen).take 4096) }
      let same (p : Partial) : Bool := p.cell.source == c.source && p.cell.pkt == c.pkt && decide (p.got.length < p.cell.count)
      let s2 : State := match s1.partials.find? same with
        | some p =>
          if p.got.contains c.index then s1
          else { s1 with partials := s1.partials.map fun q => if q = p then { p with got := c.index :: p.got } else q }
        | none => { s1 with partials := s1.partials ++ [{ cell := c, got := [c.index] }] }
      passAll (s2.partials.length + 1) s2

/-- CREDIT_RETURN (R380, R270): the credit that a router takes back may let a whole packet go on that waited for one. -/
def execCreditReturn (m : Nat) (s : State) : Host.Outcome State Fault Refusal :=
  .next (passAll (s.partials.length + 1) (returnCredit m s))

/-- CELL_RECEIVE (R274). -/
def execCellReceive (d : Nat) (cell : Cell) (s : State) : Host.Outcome State Fault Refusal := .next (cellReceive d cell s)

/-! ## Requests from other packages (R402) -/

/-- The bytes from another package's request, and whether it writes. -/
def Fabric.bytes : Fabric → Nat
  | .store n _ | .read n => n
  | .line _ _ => 128
  | .write data _ | .run _ data _ _ _ => data.length
/-- The alignment R93 asks of its address. -/
def Fabric.align : Fabric → Nat
  | .store n _ => n
  | .line _ _ => 128
  | _ => 1
/-- It writes. -/
def Fabric.writes : Fabric → Bool
  | .store _ _ | .write _ _ | .run _ _ _ _ _ => true
  | .line _ _ | .read _ => false

/-- A bulk range from another package, walked page by page by the die-0 gateway: the keys and lengths of its parts, or the cause of its
failure; each leaf's heat is updated (R402, R250). -/
def fabricPages (r : Rights) (write : Bool) : Nat → Nat → Nat → State → Except Nat (List (Nat × Nat)) × State
  | 0, _, _, s => (.ok [], s)
  | f + 1, va, n, s =>
    if n = 0 then (.ok [], s) else
    let m := min n (0x10000 - va % 0x10000)
    match s.walk r.ctx va with
    | .fault _ _ => (.error 0x06, s)
    | .leaf e level _ =>
      let s1 := s.sendHeatFrom (.gate 0) e
      if (write && !bitAt e 2) || (!r.sup && bitAt e 3) then (.error 0x05, s1)
      else match fabricPages r write f (va + m) (n - m) s1 with
        | (.ok l, s2) => (.ok ((bulkKey (fld e 9 30 * 512 + va % 2 ^ spanBits level), m) :: l), s2)
        | x => x

/-- Where an access from another package leads: its parts, or the cause of its failure (R402). -/
def fabricParts (r : Rights) (addr : Word) (f : Fabric) (s : State) : Except Nat (List (Nat × Nat)) × State :=
  if !s.mayWalk r.ctx then (.error 0x05, s)
  else match s.resolve 0 r addr f.align with
    | .error (.trap k _) => (.error k, s)
    | .error _ => (.error 0x04, s)
    | .ok (.spad t off) => if Config.spadSize < off + f.bytes then (.error 0x04, s) else (.ok [(spadKey t off, f.bytes)], s)
    | .ok (.bulk va) =>
      if 2 ^ 48 < va + f.bytes then (.error 0x04, s)
      else match f with
        | .run _ _ _ _ _ => (.error 0x01, s)
        | _ => fabricPages r f.writes (f.bytes / 0x10000 + 2) va f.bytes s
    | .ok (.fabric _ _) => (.error 0x04, s)

/-- Bytes eight to a word, lowest first. -/
def packBytes (l : List Nat) : List Word :=
  (List.range ((l.length + 7) / 8)).map fun j => ofNat (((l.drop (8 * j)).take 8).foldr (fun b acc => b + 256 * acc) 0)

/-- The bytes at some parts. -/
def readParts (s : State) (parts : List (Nat × Nat)) : List Nat := parts.flatMap fun p => s.readBytes p.1 p.2

/-- Bytes written to some parts, one after another. -/
def writeParts : List (Nat × Nat) → List Nat → State → State
  | [], _, s => s
  | p :: l, data, s => writeParts l (data.drop p.2) (s.storeBytes p.1 (data.take p.2) [])

/-- An access from another package is performed at its parts: data and state (R402). -/
def fabricAccess (parts : List (Nat × Nat)) (f : Fabric) (s : State) : List Word × State :=
  let key := (parts.headD (0, 0)).1
  match f with
  | .store n v => ([], s.store key n v.toNat)
  | .line _ _ => (packBytes (readParts s parts), s)
  | .read n => (ofNat n :: packBytes (readParts s parts), s)
  | .write data words => ([], (writeParts parts data s).writeBytes key [] words)
  | .run ty data prog count words => ([], s.applyRun key ty data words (spadKey (keyCore key) prog) count)

/-- FABRIC_REQUEST (R402): at the gateway a request from another package is checked and translated; it is answered with the cause of
its failure, or goes, with a credit of the gateway's class (R270), to the agent that performs it, where it is performed and
answered. -/
def fabricRequest (m : Nat) (s : State) : State :=
  match s.performable m with
  | some x => match x.body, x.dst with
    | .fabric addr f, .gate _ => match fabricParts { ctx := x.ctx, sup := x.sup } addr f s with
      | (.error k, s1) => s1.respond x (.fabricAnswer x.uid k [])
      | (.ok parts, s1) =>
        let k := gateCredit (keyNode (parts.headD (0, 0)).1)
        if !s.creditFree k.1 k.2 then s
        else ((s1.dropMsg m).takeCredit k.1 k.2).sendAs { x with dst := k.2, credit := some k, body := .fabricAt parts f }
    | .fabricAt parts f, _ =>
      let r := fabricAccess parts f s
      r.2.respond x (.fabricAnswer x.uid 0 r.1)
    | _, _ => s
  | none => s

/-- FABRIC_REQUEST (R402). -/
def execFabricRequest (m : Nat) (s : State) : Host.Outcome State Fault Refusal := .next (fabricRequest m s)

end Sys2Proof.Machine
end

