-- ==== Sys2Proof/Machine/Migrate.lean ====
section
/-! DEFINITION. Thread migration (R282 to R285, R181): HOME, the request for a slot, departure with the thread record, and
arrival. -/
namespace Sys2Proof.Machine

/-- HOME (R285): nothing in a slot that is not a guest, and nothing for a codelet; a guest asks its origin core for a slot. -/
def execHome (s : State) : Host.Outcome State Fault Refusal :=
  s.finish (if s.me.guest && !s.me.codelet then s.askHome true 0 else .ok (s.completeNone []))

/-! ## The record (R283) -/

/-- The record of a thread in slot t that goes on at pc, with the names it carries: the first four in the record's places, any others,
which a guest that goes home may carry, beside it (log entry 60, DESIGN CHOICE). -/
def threadRecord (s : State) (t pc : Nat) (names : List Carried) : Record :=
  let sl := s.slot t
  let org := if sl.guest then (sl.originCore, sl.originPkg) else (t / 64, s.pkgNum)
  let vec := codeAddr (t / 64) sl.trapVec
  let regs := (List.range 16).map fun v => if v < sl.limit then s.reg t v else 0
  let full := (List.range 16).foldl (fun n v => n + (if v < sl.limit && !s.regIsFull t v then 0 else 2 ^ v)) 0
  let head : List Word :=
    [pack [(pc, 0, 21), (vec.getD 0, 32, 21), (boolNat vec.isSome, 53, 1)],
     pack [(sl.ctx, 0, 9), (sl.mode, 9, 2), (coreX org.1, 11, 5), (coreY org.1, 16, 6), (org.2, 22, 6), (fld sl.kernel 0 32, 32, 32)],
     sl.group,
     pack [(fld sl.flags 0 14, 0, 14), (fld sl.fmt 0 12, 16, 12), (sl.limit / 8 - 1, 32, 4), (sl.tok.toNat, 40, 8),
       (boolNat (kernelLnch sl.kernel), 48, 1), (boolNat (kernelTrig sl.kernel), 49, 1)],
     sl.wlim, pack [(fld sl.scla 0 21, 0, 21), (fld sl.sclb 0 21, 32, 21)], sl.touch,
     pack [(full, 0, 16), (fld sl.err 0 24, 40, 24)]]
  let carried := (List.range 4).map fun i => match names[i]? with
    | some n => setFld n.name 16 4 n.reg
    | none => 0
  { words := head ++ regs ++ carried, extra := sl.extra, countAt := sl.countAt, more := names.drop 4 }

/-- The names of a record: name and register (R283). -/
def recordNames (r : Record) : List Carried :=
  (((r.words.drop 24).filter (· != 0)).map fun w => { name := setFld w 16 4 0, reg := fld w 16 4 }) ++ r.more

/-- A thread is created in slot t with a window at base from a record; home: at its origin core (R283, R285). The record's PC is a
multiple of 4, as every pc that is formed (R52; log entry 41, DEDUCED). -/
def createFrom (s : State) (t base : Nat) (r : Record) (home : Bool) : State :=
  let w (i : Nat) : Word := r.words.getD i 0
  let limit := 8 * (fld (w 3) 32 4 + 1)
  let kernel := setFld (setFld (ofNat (fld (w 1) 32 32)) 33 1 (fld (w 3) 48 1)) 32 1 (fld (w 3) 49 1)
  let org := coreAt (fld (w 1) 11 5) (fld (w 1) 16 6)
  let pkg := fld (w 1) 22 6
  let s1 := s.createAt t base
    { pc := fld (w 0) 2 19 * 4, limit := limit, mode := fld (w 1) 9 2, ctx := fld (w 1) 0 9, kernel := kernel, group := w 2, mig := true
      extra := r.extra, kpkg := if home then none else some pkg }
  let s2 := s1.modSlot t fun sl =>
    { sl with
      guest := !home, originCore := org, originPkg := pkg
      countAt := r.countAt, flags := ofNat (fld (w 3) 0 14) &&& fieldMask 0x008, fmt := ofNat (fld (w 3) 16 12)
      tok := BitVec.ofNat 8 (fld (w 3) 40 8), wlim := w 4 &&& fieldMask 0x00C
      scla := ofNat (fld (w 5) 0 21), sclb := ofNat (fld (w 5) 32 21), touch := w 6, err := ofNat (fld (w 7) 40 24)
      trapVec := if bitAt (w 0) 53 then addrOf (t / 64) (fld (w 0) 32 21) else 0 }
  (List.range 16).foldl (fun (x : State) v =>
    if v < limit then (x.setRegValue t v (w (8 + v))).setRegFull t v (bitAt (w 7) v) else x) s2

/-! ## Leaving (R181) -/

/-- The entries of the thread's names on its core become FORWARD toward its new place (R181 step 1). -/
def forwardNames (s : State) (c n p core slot : Nat) : State :=
  (s.liveNames c n).foldl (fun (x : State) e => match e.2.state with
    | .live _ v => x.setName c (e.1 % 512) { e.2 with state := .forward p core slot v }
    | _ => x) s

/-- The names a leaving thread carries: those of its core's table, and those it carried already (R181). -/
def leavingNames (s : State) (c n : Nat) : List Carried :=
  ((s.liveNames c n).map fun e => { name := s.nameOf c (e.1 % 512), reg := match e.2.state with | .live _ v => v | _ => 0 })
    ++ (s.slot (c * 64 + n)).carried

/-- The place of a name's table. -/
def nameNode (s : State) (nm : Word) : Node := if namePkg nm = s.pkgNum then .core (nameCore nm) else .pkg (namePkg nm)

/-- A slot is reserved for the thread of slot t: its names are retargeted, and it leaves when every notice is answered. -/
def prepareLeave (t p core slot : Nat) (home : Bool) (after : Bool) (s : State) : State :=
  let c := t / 64
  let n := t % 64
  let old := (s.slot t).carried
  let names := leavingNames s c n
  let s1 := forwardNames s c n p core slot
  let s2 := old.foldl (fun (x : State) k =>
    x.send { id := 0, uid := (s.slot t).uid, src := .core c, slot := n, dst := nameNode s k.name, resp := true, sup := true
             body := .retarget k.name p core slot }) s1
  s2.modSlot t fun sl =>
    let x := if after then sl.advance else sl
    { x with carried := names, notices := x.notices + old.length, leaving := some (p, core, slot, home), wait := none }

/-- The core where a migrating thread finds its slot, if the migration is not refused (R282). -/
def migrationHome (r : Rights) (addr : Word) (s : State) : Option Nat :=
  let ok (c : Nat) : Option Nat := if s.isPager c || s.isOffline c then none else some c
  if r.ctx ≠ 0 ∧ (s.ctx r.ctx).state ≠ 1 then none
  else match s.resolve 0 r addr 1 with
    | .ok (.spad c _) => ok c
    | .ok (.bulk va) => match s.walk r.ctx va with
      | .leaf e _ _ => if bitAt e 5 then ok (coreAt (fld e 39 5) (fld e 44 6)) else none
      | .fault _ _ => none
    | _ => none

/-- The heat update of the walk that migrationHome makes, by the die-0 gateway (R250, R282). -/
def migrationHeat (r : Rights) (addr : Word) (s : State) : State :=
  if r.ctx ≠ 0 ∧ (s.ctx r.ctx).state ≠ 1 then s
  else match s.resolve 0 r addr 1 with
    | .ok (.bulk va) => s.sendHeats (.gate 0) r false va 1
    | _ => s

/-- The answer to another package's request. -/
def answerAbroad (x : Msg) (cause : Nat) (data : List Word) (s : State) : State :=
  (s.dropMsg x.id).sendAs { x with src := x.dst, dst := x.src, resp := true, body := .fabricAnswer x.uid cause data }

/-- A slot of a list with a window of 16 registers is reserved on a core for a thread of a context: outcome 0 with the slot, or 1 (R282, R155). -/
def reserveFor (c ctx : Nat) (slots : List Nat) (s : State) : Nat × Nat × State :=
  match slots.find? fun n => (s.slot (c * 64 + n)).phase == .free, s.freeWindow c 16 with
  | some n, some base => (0, n, s.modSlot (c * 64 + n) fun sl => { sl.vacated with phase := .reserved, base := base, limit := 16, ctx := ctx })
  | _, _ => (1, 0, s)

/-- MIGRATION_REQUEST (R282, R285): at the target a slot is reserved or the migration refused; the answer at the thread's core is
this event again: the thread prepares to leave, asks again at its next turn, or takes its trap. -/
def migrationRequest (m : Nat) (s : State) : State :=
  match s.findMsg m with
  | some x => match x.body, x.src, x.dst with
    | .migrateAsk addr, .pkg _, _ => match s.performable m with
      | some _ =>
        let s1 := migrationHeat { ctx := x.ctx, sup := x.sup } addr s
        match migrationHome { ctx := x.ctx, sup := x.sup } addr s with
        | none => answerAbroad x 0x0F [] s1
        | some c => let r := reserveFor c x.ctx [60, 61, 62] s1; answerAbroad x 0 [ofNat r.1, ofNat c, ofNat r.2.1] r.2.2
      | none => s
    | .homeAsk c, .pkg _, _ => match s.performable m with
      | some _ => let r := reserveFor c x.ctx (List.range 63) s; answerAbroad x 0 [ofNat r.1, ofNat c, ofNat r.2.1] r.2.2
      | none => s
    | .migrateAnswer outcome core slot addr home, _, .core _ => match s.response m with
      | some _ =>
        let s1 := s.dropMsg m
        if !s1.waitsFor x.uid m then s1
        else if outcome = 0x0F ∨ outcome = 0x0E then s1.trapThread x.uid outcome addr
        else if outcome ≠ 0 then s1.retryThread x.uid
        else match s1.findThread x.uid with
          | none => s1.retryThread x.uid
          | some t =>
            let p := if home.isSome then (s.slot t).originPkg else if fld addr 62 2 = 2 then fld addr 48 6 else s.pkgNum
            prepareLeave t p core slot home.isSome (home == some true) s1
      | none => s
    | _, _, _ => s
  | none => s

/-- MIGRATION_REQUEST (R282). -/
def execMigrationRequest (m : Nat) (s : State) : Host.Outcome State Fault Refusal := .next (migrationRequest m s)

/-- The record of a leaving thread goes to its new place; a guest that goes home stays reserved until the origin has taken the thread,
which is one more notice to be answered (R282, R285). -/
def State.sendRecord (s : State) (t p place : Nat) (home : Bool) : State :=
  let sl := s.slot t
  let r := threadRecord s t sl.pc sl.carried
  if home then
    (s.sendAbroad (t / 64) (t % 64) sl.uid p sl.rights .migrant (.migrant r place true)).modSlot t fun x => { x with notices := 1 }
  else
    s.send { id := 0, uid := 0, src := .core (t / 64), slot := t % 64, dst := .pkg p, resp := true, ctx := sl.ctx, sup := sl.mode != 0
             body := .migrant r place false }

/-- The flits of a thread's record of 224 bytes (R283, R262). -/
def recordFlits : Nat := 4

/-- MIGRATION_DEPARTURE (R181, R282): once every notice is answered and the core's quotas admit its flits (R267) the record leaves, and
the slot goes to DRAINING. -/
def migrationDeparture (u : Nat) (s : State) : State :=
  match s.findThread u with
  | some t =>
    let sl := s.slot t
    match sl.leaving with
    | some (p, core, slot, home) =>
      let l := s.carriers sl.ctx (t / 64) (.pkg p)
      if sl.notices ≠ 0 ∨ sl.departed ∨ !s.canInject (t / 64) l then s
      else ((s.sendRecord t p (core * 64 + slot) home).inject (t / 64) recordFlits l).modSlot t fun x => { x with phase := .draining, park := .none, departed := true, leaving := none, loops := [] }
    | none => s
  | none => s

/-- MIGRATION_DEPARTURE (R181). -/
def execMigrationDeparture (u : Nat) (s : State) : Host.Outcome State Fault Refusal := .next (migrationDeparture u s)

/-! ## Arriving (R283, R285, R181) -/

/-- A record arrives for a reserved slot of core c: the thread is created, and its names on this core go back to LIVE by return
notices; those of other tables it goes on carrying. -/
def arriveRecord (c slot : Nat) (r : Record) (home : Bool) (s : State) : State :=
  let t := c * 64 + slot
  let names := recordNames r
  let s1 := createFrom s t (s.slot t).base r home
  let own (k : Carried) : Bool := s.isOwnName c k.name
  let s2 := s1.modSlot t fun sl => { sl with carried := names.filter fun k => !own k }
  (names.filter own).foldl (fun (x : State) k => x.agentSend (.core c) (.core c) 0 true (.returned k.name slot)) s2

/-- MIGRATION_ARRIVE (R283, R324): the record arrives at the guest slot reserved for it; the load is issued again. -/
def migrationArrive (m : Nat) (s : State) : State :=
  match s.arrived m with
  | some x => match x.body, x.dst with
    | .migrant r place false, .core c =>
      if (s.slot (c * 64 + place % 64)).phase = .reserved then arriveRecord c (place % 64) r false (s.dropMsg m) else s
    | _, _ => s
  | none => s

/-- MIGRATION_ARRIVE (R283). -/
def execMigrationArrive (m : Nat) (s : State) : Host.Outcome State Fault Refusal := .next (migrationArrive m s)

/-- HOME_ARRIVE (R285): the thread is back in a general slot of its origin core, which says so to the guest's package. -/
def homeArrive (m : Nat) (s : State) : State :=
  match s.arrived m with
  | some x => match x.body, x.dst with
    | .migrant r place true, .core c =>
      if (s.slot (c * 64 + place % 64)).phase = .reserved then arriveRecord c (place % 64) r true (answerAbroad x 0 [] s) else s
    | _, _ => s
  | none => s

/-- HOME_ARRIVE (R285). -/
def execHomeArrive (m : Nat) (s : State) : Host.Outcome State Fault Refusal := .next (homeArrive m s)

end Sys2Proof.Machine
end

