-- ==== Sys2Proof/Machine/Tile.lean ====
section
/-! DEFINITION. The matrix engine (R124 to R141): TCMD, the tile commands, the operand ring, failures, and the finishing
release. -/
namespace Sys2Proof.Machine

namespace TileOp

/-- The op code (R69). -/
def code : TileOp → Nat
  | mzero => 1
  | mma => 2
  | mmas => 3
  | mmad => 4
  | mstore => 5
  | mloadc => 6
  | bload => 7
  | brot => 8
  | tcopy => 9
  | tgather => 10
  | tscatter => 11

/-- The op of a code. -/
def ofCode (n : Nat) : Option TileOp :=
  [mzero, mma, mmas, mmad, mstore, mloadc, bload, brot, tcopy, tgather, tscatter].find? fun o => o.code == n

/-- The op runs on the move path (R124). -/
def moves (o : TileOp) : Bool := decide (7 ≤ o.code)
/-- The op multiplies. -/
def multiplies (o : TileOp) : Bool := o == mma || o == mmas || o == mmad
/-- The op uses a memory tile with a pitch (R69). -/
def tiled (o : TileOp) : Bool := o.multiplies || o == mstore || o == mloadc || o == bload
/-- The op uses ADDR0. -/
def addressed (o : TileOp) : Bool := o.tiled || o == tcopy || o == tgather || o == tscatter

end TileOp

namespace TileCmd

/-- Format of the A tile. -/
def fa (c : TileCmd) : Nat := fld c.fmt 0 4
/-- Format of the B tile. -/
def fb (c : TileCmd) : Nat := fld c.fmt 4 4
/-- Format of the accumulator. -/
def fc (c : TileCmd) : Nat := fld c.fmt 8 4
/-- Rows of the memory tile (R130), per K-block for a multiply. -/
def rows (c : TileCmd) : Nat :=
  match c.op with
  | .mmad => 32
  | .mma | .mmas => 64
  | .bload => if c.fb = 0 then 32 else 128
  | _ => if c.fc = 0 then 32 else 64
/-- Products of an output element in a K-block. -/
def depth (c : TileCmd) : Nat := if c.op = .mmad then 32 else 128
/-- Format of the memory tile. -/
def memFmt (c : TileCmd) : Nat := if c.op.multiplies then c.fa else if c.op = .bload then c.fb else c.fmto
/-- Row length in bytes of the memory tile (R130). -/
def rowBytes (c : TileCmd) : Nat := widthOf c.memFmt * (if c.op.multiplies then c.depth else 32) / 8

end TileCmd

/-! ## Issue (R68 to R70, R126, R129) -/

/-- The formats are accepted for the op (R44, R130, R131). -/
def tileFormats (c : TileCmd) : Bool :=
  let combo (ops : List TileOp) (l : List Nat) (acc : Nat) : Bool :=
    l.contains c.fa && l.contains c.fb && c.fc == acc && (ops.contains c.op || c.op == .bload)
  let cOk := c.fc == 1 || c.fc == 0 || c.fc == 9
  let conv (st : Bool) : List Nat :=
    if c.fc = 1 then (if st then [1, 2, 3, 4, 5] else [1, 2, 3]) else if c.fc = 0 then [0, 1] else [9, 10, 11]
  match c.op with
  | .mma | .mmas | .mmad | .bload =>
    combo [.mma] [2] 1 || combo [.mma] [3] 1 || combo [.mma, .mmas] [4, 5] 1 || combo [.mma] [11, 12] 9 || combo [.mmad] [0] 0
  | .mzero => cOk
  | .mstore => cOk && (conv true).contains c.fmto
  | .mloadc => cOk && (conv false).contains c.fmto
  | _ => true

/-- The command word passes R70. -/
def tileLegal (w0 w2 : Word) (c : TileCmd) : Bool :=
  let rnd := fld w0 8 3
  let o := c.op
  (rnd == 0 || decide (4 ≤ rnd)) && fld w0 11 1 == 0 && fld w0 29 3 == 0 && fld w0 42 22 == 0 && fld w2 21 43 == 0
  && (if o.multiplies then decide (1 ≤ c.nkb) else c.nkb == 0)
  && (if c.level = 0 then c.bidx == 0 else decide (c.bidx < barrierCount c.level))
  && (o.multiplies || o == .bload || o == .brot || c.lat == 0)
  && (o == .mstore || o == .mloadc || c.fmto == 0)
  && (if o = .brot then c.rlen != 0 else c.rlen == 0 && c.rpos == 0)
  && decide (c.rlen + 1 + c.rpos ≤ 32)
  && (o.addressed || c.addr0 == 0)
  && (if o.tiled then c.stride % 8 == 0 && decide (c.rowBytes ≤ c.stride) else c.stride == 0)
  && (o == .tgather || o == .tscatter || c.addr1 == 0)
  && tileFormats c

/-- The command a slot of core c builds from a tile command word (R68, R126); none for an unassigned op. -/
def tileCmd (s : State) (k level : Nat) (w0 w1 w2 w3 : Word) : Option TileCmd :=
  let sl := s.me
  let r := s.coreRec s.here
  (TileOp.ofCode (fld w0 0 8)).map fun o =>
    { uid := sl.uid, ctx := sl.ctx, mode := sl.mode, k := k, level := level, op := o, nkb := fld w0 12 8, bidx := fld w0 20 4
      lat := fld w0 24 1, fmto := fld w0 25 4, rlen := fld w0 32 5, rpos := fld w0 37 5, addr0 := w1, stride := fld w2 0 21, addr1 := w3
      fmt := sl.fmt, scla := sl.scla, sclb := sl.sclb, wlim := sl.wlim
      rm := if fld w0 8 3 = 0 then roundingMode sl.flags else fld w0 8 2, int4lo := r.int4lo, int4hi := r.int4hi }

/-- TCMD (R126): a token that is free shows that its last command is over (R132). -/
def tcmd (word : Word) (k : BitVec 3) (a : RegCode) (w : BitVec 1) (b : BitVec 3) (s : State) : Except Stop State :=
  let run := [a.toNat, a.toNat + 1, a.toNat + 2, a.toNat + 3]
  match s.runOperands word run run [] with
  | .error e => .error e
  | .ok vs => match tileCmd s k.toNat b.toNat (arg vs 0) (arg vs 1) (arg vs 2) (arg vs 3) with
    | none => .error (.trap 0x01 word)
    | some c =>
      if !tileLegal (arg vs 0) (arg vs 2) c then .error (.trap 0x01 word)
      else if w = 1 && s.me.codelet then .error (.trap 0x0C word)
      else if tokBusy s k.toNat || decide (2 ≤ (s.coreRec s.here).matrix.queue.length) || decide (63 ≤ s.me.tl) then .error .forfeit
      else
        let s1 := ((s.seeTiles fun q => q.k == k.toNat).modMe fun sl => { sl with tok := sl.tok ||| (1#8 <<< k.toNat), tl := sl.tl + 1 }).modCore s.here
          fun r => { r with matrix := { r.matrix with queue := r.matrix.queue ++ [c] } }
        let s2 := s1.completeNone run
        .ok (if w = 1 then s2.parkMe (.command k.toNat) else s2)

/-- TCMD (R126). -/
def execTcmd (k : BitVec 3) (a : RegCode) (w : BitVec 1) (b : BitVec 3) (s : State) : Host.Outcome State Fault Refusal :=
  s.finish (tcmd (Instr.tcmd k a w b).word k a w b s)

/-! ## The engine's state -/

namespace Matrix

/-- The state of a half. -/
def half (m : Matrix) (h : Nat) : HalfState := if h = 0 then m.half0 else m.half1
/-- The state of a half is set. -/
def setHalf (m : Matrix) (h : Nat) (v : HalfState) : Matrix := if h = 0 then { m with half0 := v } else { m with half1 := v }
/-- The command on a path. -/
def path (m : Matrix) (mover : Bool) : Option TileRun := if mover then m.move else m.compute
/-- The command on a path is set. -/
def setPath (m : Matrix) (mover : Bool) (r : Option TileRun) : Matrix := if mover then { m with move := r } else { m with compute := r }
/-- Element (i, j) of the accumulator in a C format (R124). -/
def acc' (m : Matrix) (fc i j : Nat) : Nat :=
  let g (n : Nat) : Nat := (Store.get 0 m.acc n).toNat
  if fc = 0 then g (2 * (32 * i + j)) + 2 ^ 32 * g (2 * (32 * i + j) + 1) else g (32 * i + j)
/-- Element (i, j) set. -/
def setAcc (m : Matrix) (fc i j v : Nat) : Matrix :=
  let p (a : Store (BitVec 32)) (n v : Nat) : Store (BitVec 32) := Store.set 0 a n (BitVec.ofNat 32 v)
  { m with acc := if fc = 0 then p (p m.acc (2 * (32 * i + j)) v) (2 * (32 * i + j) + 1) (v / 2 ^ 32) else p m.acc (32 * i + j) v }
/-- Bytes of a half written from an offset in it. -/
def fillLatch (m : Matrix) (h : Nat) : Nat → List Nat → Matrix
  | _, [] => m
  | o, b :: l => { m with latch := Store.set 0 m.latch (8192 * h + o) (BitVec.ofNat 8 b) }.fillLatch h (o + 1) l
/-- n bytes of a half from an offset in it. -/
def latchBytes (m : Matrix) (h o n : Nat) : List Nat := (List.range n).map fun i => (Store.get 0 m.latch (8192 * h + o + i)).toNat

end Matrix

namespace State

/-- A core's matrix engine. -/
def matrix (s : State) (c : Nat) : Matrix := (s.coreRec c).matrix
/-- A half becomes FULL with undefined contents: free values (R127, R5). -/
def spoilHalf (s : State) (c h : Nat) : State :=
  (s.modMatrix c fun m => (m.fillLatch h 0 ((List.range 8192).map fun i => fld (Config.freeWord (s.fresh + i / 8)) (8 * (i % 8)) 8)).setHalf h .full).freed 1024

/-- The command that op runs on its path: the one there, or the head of the queue, which starts when its path is idle
(R125). -/
def tileRun (s : State) (c : Nat) (op : TileOp) : Option (TileRun × State) :=
  let m := s.matrix c
  match m.path op.moves with
  | some r => if r.cmd.op = op ∧ r.ended = none then some (r, s) else none
  | none => match m.queue with
    | q :: l =>
      if q.op = op then
        let r : TileRun := { cmd := q, start := (s.coreRec c).cycle, ring := (m.rs + 1) % 256 }
        some (r, s.modMatrix c fun x => { x with queue := l }.setPath op.moves (some r))
      else none
    | [] => none

/-- The command on a path is changed. -/
def setRun (s : State) (c : Nat) (r : TileRun) : State := s.modMatrix c (·.setPath r.cmd.op.moves (some r))
/-- The command is over without failure. -/
def tileEnd (s : State) (c : Nat) (r : TileRun) (flags : Nat) : State := s.setRun c { r with begun := true, flags := r.flags ||| flags, ended := some none }
/-- The command fails with a cause at an operand (R138, R139). -/
def tileFail (s : State) (c : Nat) (r : TileRun) (cause operand : Nat) : State :=
  let s1 := s.setRun c { r with begun := true, ended := some (some (cause * 256 + operand * 16 + r.cmd.op.code)) }
  if r.cmd.op.multiplies || r.cmd.op == .mzero || r.cmd.op == .mloadc then s1.spoilAcc c else s1

/-- A tile address: n bytes of the own scratchpad on a boundary (R130, R137): its offset, or the cause. -/
def tileAt (s : State) (c : Nat) (q : TileCmd) (a : Word) (n al : Nat) : Except Nat Nat :=
  match s.resolve c { ctx := q.ctx, sup := q.mode != 0 } a 1 with
  | .error (.trap k _) => .error k
  | .ok (.spad t off) =>
    if t ≠ c then .error 0x04 else if Config.spadSize < off + n then .error 0x04 else if off % al ≠ 0 then .error 0x03 else .ok off
  | _ => .error 0x04

/-- The memory tile of a command (R130, R137). -/
def tileMem (s : State) (c : Nat) (q : TileCmd) : Except Nat Nat :=
  let n := if q.op.multiplies then q.rows * q.nkb else q.rows
  s.tileAt c q q.addr0 ((n - 1) * q.stride + q.rowBytes) (max 1 (widthOf q.memFmt / 8))

end State

/-! ## The compute path (R45 to R48, R130, R131) -/

/-- Element i of a run of bytes in a format. -/
def elemOf (fmt : Nat) (l : List Nat) (i : Nat) : Nat :=
  if fmt = 12 then l.getD (i / 2) 0 / 16 ^ (i % 2) % 16
  else ((l.drop (i * (widthOf fmt / 8))).take (widthOf fmt / 8)).foldr (fun b acc => b + 256 * acc) 0

/-- The integer an INT8 or INT4 element stands for (R46). -/
def tileInt (q : TileCmd) (fmt x : Nat) : Int := if fmt = 12 then signed (int4Value q.int4lo q.int4hi x) 8 else signed x 8

/-- The rounded, flushed sum of one sub-block (R45). -/
def subBlock (fc rm : Nat) (l : List (FV × FV)) : Nat × Nat :=
  let e := sumProducts rm l
  let v := flush fc (deliverFV fc rm e.1)
  (v.1, v.2 ||| e.2)

/-- An addition or multiplication with its flush (R43). -/
def flushed (fc : Nat) (r : Nat × Nat) : Nat × Nat := flush fc r

/-- One output element of a floating-point K-block without scales: its sub-blocks in ascending K (R45). -/
def mmaElem (q : TileCmd) (l : List (FV × FV)) (c : Nat) : Nat × Nat :=
  (List.range (q.depth / 32)).foldl (fun acc h =>
    let v := subBlock q.fc q.rm ((l.drop (32 * h)).take 32)
    let t := flushed q.fc (fpAdd q.fc q.rm acc.1 v.1)
    (t.1, acc.2 ||| v.2 ||| t.2)) (c, 0)

/-- One output element of an MMAS K-block, under the scales sa and sb (R48). -/
def mmasElem (q : TileCmd) (sa sb : Nat) (l : List (FV × FV)) (c : Nat) : Nat × Nat :=
  let first := subBlock 1 q.rm (l.take 32)
  let part := (List.range 3).foldl (fun acc h =>
    let v := subBlock 1 q.rm ((l.drop (32 * (h + 1))).take 32)
    let t := flushed 1 (fpAdd 1 q.rm acc.1 v.1)
    (t.1, acc.2 ||| v.2 ||| t.2)) first
  let sc := flushed 1 (fpMul 1 q.rm sa sb)
  let t := flushed 1 (fpMul 1 q.rm part.1 sc.1)
  let r := flushed 1 (fpAdd 1 q.rm c t.1)
  (r.1, part.2 ||| sc.2 ||| t.2 ||| r.2)

/-- One K-block: the new accumulator and the flags (R45, R46, R48). -/
def kBlock (s : State) (c : Nat) (q : TileCmd) (off kb : Nat) : Matrix × Nat :=
  let m := s.matrix c
  let h := (q.lat + kb) % 2
  let bs := m.latchBytes h 0 (q.depth * 32 * widthOf q.fb / 8)
  let bcols := (List.range 32).map fun j => (List.range q.depth).map fun k => elemOf q.fb bs (32 * k + j)
  let sb := s.read (spadKey c (fld q.sclb 0 21 + 4 * kb)) 4
  (List.range q.rows).foldl (fun (acc : Matrix × Nat) i =>
    let ab := s.readBytes (spadKey c (off + (kb * q.rows + i) * q.stride)) q.rowBytes
    let row := (List.range q.depth).map (elemOf q.fa ab)
    let sa := s.read (spadKey c (fld q.scla 0 21 + 4 * (64 * kb + i))) 4
    (bcols.zip (List.range 32)).foldl (fun (acc : Matrix × Nat) col =>
      let old := acc.1.acc' q.fc i col.2
      let r : Nat × Nat :=
        if q.fc = 9 then
          ((((old : Int) + ((row.zip col.1).map fun (p : Nat × Nat) => tileInt q q.fa p.1 * tileInt q q.fb p.2).foldl (· + ·) 0) % 2 ^ 32).toNat, 0)
        else
          let l := (row.zip col.1).map fun (p : Nat × Nat) => (fpDecode q.fa p.1, fpDecode q.fb p.2)
          if q.op = .mmas then mmasElem q sa sb l old else mmaElem q l old
      (acc.1.setAcc q.fc i col.2 r.1, acc.2 ||| r.2)) acc) (m, 0)

/-- The cause and operand of an MMAS scale pointer, if it fails (R132). -/
def scaleFail (q : TileCmd) : Option (Nat × Nat) :=
  let one (w : Word) (n operand : Nat) : Option (Nat × Nat) :=
    if fld w 21 43 ≠ 0 then some (0x01, operand) else if fld w 0 21 % 4 ≠ 0 then some (0x03, operand)
    else if Config.spadSize < fld w 0 21 + n then some (0x04, operand) else none
  if q.op = .mmas then (one q.scla (256 * q.nkb) 2).orElse fun _ => one q.sclb (4 * q.nkb) 3 else none

/-- A multiply goes on by one K-block, once its half is FULL (R130, R127); before its first it checks its footprint (R137), the A tile
first, then scale A, then scale B (log entry 49, DESIGN CHOICE). -/
def multiply (op : TileOp) (c : Nat) (s : State) : State :=
  match s.tileRun c op with
  | none => s
  | some (r, s1) =>
    let q := r.cmd
    match s1.tileMem c q with
    | .error k => if r.begun then s1 else s1.tileFail c r k 0
    | .ok off =>
      match (if r.begun then none else scaleFail q) with
      | some f => s1.tileFail c r f.1 f.2
      | none =>
        let r1 := { r with begun := true }
        let h := (q.lat + r.blocks) % 2
        if (s1.matrix c).half h ≠ .full then s1.setRun c r1
        else
          let x := kBlock s1 c q off r.blocks
          let s2 := s1.modMatrix c fun _ => x.1.setHalf h .empty
          let r2 := { r1 with blocks := r.blocks + 1, flags := r.flags ||| x.2 }
          if r2.blocks = q.nkb then s2.tileEnd c r2 0 else s2.setRun c r2

/-- MMA (R45, R46). -/
def execMma (c : Nat) (s : State) : Host.Outcome State Fault Refusal := .next (multiply .mma c s)
/-- MMAS (R48). -/
def execMmas (c : Nat) (s : State) : Host.Outcome State Fault Refusal := .next (multiply .mmas c s)
/-- MMAD (R45). -/
def execMmad (c : Nat) (s : State) : Host.Outcome State Fault Refusal := .next (multiply .mmad c s)

/-- MZERO (R130). -/
def execMzero (c : Nat) (s : State) : Host.Outcome State Fault Refusal :=
  .next (match s.tileRun c .mzero with
    | none => s
    | some (r, s1) => (s1.modMatrix c fun m => { m with acc := [] }).tileEnd c r 0)

/-- The elements (row, column) of a C tile. -/
def tileCells (rows : Nat) : List (Nat × Nat) := (List.range rows).flatMap fun i => (List.range 32).map fun j => (i, j)

/-- MSTORE (R130, R131). -/
def mstore (c : Nat) (s : State) : State :=
  match s.tileRun c .mstore with
  | none => s
  | some (r, s1) =>
    let q := r.cmd
    match s1.tileMem c q with
    | .error k => s1.tileFail c r k 0
    | .ok off =>
      let m := s1.matrix c
      let w := widthOf q.fmto / 8
      let x := (tileCells q.rows).foldl (fun (acc : State × Nat) e =>
        let v := convert q.fc q.fmto q.rm (m.acc' q.fc e.1 e.2)
        let key := spadKey c (off + e.1 * q.stride + e.2 * w)
        (acc.1.put key w v.1, acc.2 ||| v.2)) (s1, 0)
      x.1.tileEnd c r x.2

/-- MSTORE (R130). -/
def execMstore (c : Nat) (s : State) : Host.Outcome State Fault Refusal := .next (mstore c s)

/-- MLOADC (R130, R131). -/
def mloadc (c : Nat) (s : State) : State :=
  match s.tileRun c .mloadc with
  | none => s
  | some (r, s1) =>
    let q := r.cmd
    match s1.tileMem c q with
    | .error k => s1.tileFail c r k 0
    | .ok off =>
      let w := widthOf q.fmto / 8
      let x := (tileCells q.rows).foldl (fun (acc : Matrix × Nat) e =>
        let v := convert q.fmto q.fc q.rm (s1.read (spadKey c (off + e.1 * q.stride + e.2 * w)) w)
        let v := if q.fc = 9 then v else flush q.fc v
        (acc.1.setAcc q.fc e.1 e.2 v.1, acc.2 ||| v.2)) (s1.matrix c, 0)
      (s1.modMatrix c fun _ => x.1).tileEnd c r x.2

/-- MLOADC (R130). -/
def execMloadc (c : Nat) (s : State) : Host.Outcome State Fault Refusal := .next (mloadc c s)

/-! ## The operand latch and the ring (R127, R133, R134) -/

/-- BLOAD (R130, R127). -/
def bload (c : Nat) (s : State) : State :=
  match s.tileRun c .bload with
  | none => s
  | some (r, s1) =>
    let q := r.cmd
    if (s1.matrix c).half q.lat ≠ .empty then s1.setRun c { r with begun := true }
    else match s1.tileMem c q with
      | .error k => ((s1.spoilHalf c q.lat).modMatrix c fun m => { m with rs := 0 }).tileFail c r k 0
      | .ok off =>
        let bs := (List.range q.rows).flatMap fun i => s1.readBytes (spadKey c (off + i * q.stride)) q.rowBytes
        (s1.modMatrix c fun m => { (m.fillLatch q.lat 0 bs).setHalf q.lat .full with rs := 0 }).tileEnd c r 0

/-- BLOAD (R130). -/
def execBload (c : Nat) (s : State) : Host.Outcome State Fault Refusal := .next (bload c s)

/-- RS of a core is at least n, counted modulo 256 (R133). -/
def ringAt (s : State) (c n : Nat) : Bool := decide (((s.matrix c).rs + 256 - n % 256) % 256 ≤ 127)

/-- A BROT fails: its half and RS are as after a fill (R127, R134). -/
def brotFail (c : Nat) (r : TileRun) (cause : Nat) (s : State) : State :=
  ((s.spoilHalf c r.cmd.lat).modMatrix c fun m => { m with rs := (m.rs + 1) % 256 }).tileFail c r cause 4

/-- BROT (R133): it waits for its own half, then for its neighbours' RS, then takes the upstream's other half. -/
def brot (c : Nat) (s : State) : State :=
  match s.tileRun c .brot with
  | none => s
  | some (r, s1) =>
    let q := r.cmd
    let h := q.lat
    let p := snakeOf c
    let k := clusterOf c
    let m := s1.matrix c
    if m.half h = .full then s1.setRun c { r with begun := true }
    else if p < q.rpos ∨ q.rpos + q.rlen < p then brotFail c r 0x04 s1
    else
      let up := coreOfSnake k (if p = q.rpos then q.rpos + q.rlen else p - 1)
      let down := coreOfSnake k (if p = q.rpos + q.rlen then q.rpos else p + 1)
      if ringAt s1 up (r.ring + 255) && ringAt s1 down (r.ring + 255) then
        let bs := (s1.matrix up).latchBytes (1 - h) 0 8192
        (s1.modMatrix c fun m => { (m.fillLatch h 0 bs).setHalf h .full with rs := (m.rs + 1) % 256 }).tileEnd c r 0
      else (s1.setRun c { r with begun := true }).modMatrix c (·.setHalf h .filling)

/-- BROT (R133). -/
def execBrot (c : Nat) (s : State) : Host.Outcome State Fault Refusal := .next (brot c s)

/-- BROT_WAIT_LIMIT (R134): a BROT that waits for its neighbours past the limit fails; a WLIM of 0 sets none (R298). -/
def brotWaitLimit (c : Nat) (s : State) : State :=
  match (s.matrix c).move with
  | some r =>
    let n := fld r.cmd.wlim 0 24 * 1024
    if r.cmd.op = .brot ∧ r.ended = none ∧ (s.matrix c).half r.cmd.lat = .filling ∧ n ≠ 0 ∧ n < (s.coreRec c).cycle - r.start then
      brotFail c r 0x07 s
    else s
  | none => s

/-- BROT_WAIT_LIMIT (R134). -/
def execBrotWaitLimit (c : Nat) (s : State) : Host.Outcome State Fault Refusal := .next (brotWaitLimit c s)

/-! ## Tensor, gather and scatter moves (R135 to R137) -/

namespace State

/-- A range of a move: own scratchpad, or, if admitted, bulk; on a boundary: the cause, 0 if it passes (R136, R137). -/
def moveCause (s : State) (c : Nat) (q : TileCmd) (bulk : Bool) (al : Nat) (a : Word) (n : Nat) : Nat :=
  match s.resolve c { ctx := q.ctx, sup := q.mode != 0 } a 1 with
  | .error (.trap k _) => k
  | .ok (.spad t off) => if t ≠ c ∨ Config.spadSize < off + n then 0x04 else if off % al ≠ 0 then 0x03 else 0
  | .ok (.bulk va) => if !bulk || decide (2 ^ 48 < va + n) then 0x04 else if va % al ≠ 0 then 0x03 else 0
  | _ => 0x04

/-- The parts of a move, cut at pages. -/
def tileMoves (l : List Piece) : List TileMove := (cutPieces 0x10000 l).map fun p => { src := some p.src, dst := p.dst, n := p.n }

/-- TCOPY's parts, or the cause and operand of its failure (R135, R137). Of several failures the descriptor's is reported first, then the
source's, then the destination's; a tensor with a COUNT of 0 has no element address to check (log entry 49, DESIGN CHOICE). -/
def tcopyParts (s : State) (c : Nat) (q : TileCmd) : Except (Nat × Nat) (List TileMove × List Piece) :=
  match s.tileAt c q q.addr0 8 8 with
  | .error k => .error (k, 0)
  | .ok off =>
    let key := spadKey c off
    if Config.spadSize < off + s.tensorBytes key then .error (0x04, 0)
    else
      let t := s.tensorAt key
      let al := min t.size 8
      let bad (l : List Nat) : Nat := (l.find? (· != 0)).getD 0
      let x := bad (t.pieces.map fun p => s.moveCause c q true al p.src p.n)
      let y := bad (t.pieces.map fun p => s.moveCause c q true al p.dst p.n)
      if x ≠ 0 then .error (x, 5) else if y ≠ 0 then .error (y, 6) else .ok (tileMoves t.pieces, t.pieces)

/-- The descriptor's words of a TGATHER or TSCATTER, or the cause and operand of its failure (R136, R137). Its reserved fields are ignored
(R4). Of several failures the descriptor's is reported first, then the index array's, the source's, the destination's (log entry 49,
DESIGN CHOICE). -/
def rowParts (s : State) (c : Nat) (q : TileCmd) : Except (Nat × Nat) (List Word) :=
  match s.tileAt c q q.addr0 32 8 with
  | .error k => .error (k, 0)
  | .ok off =>
    let ws := s.readWords (spadKey c off) 4
    let w (i : Nat) : Word := ws.getD i 0
    let rb := fld (w 0) 0 16
    let n := fld (w 0) 32 16
    let gather := q.op == .tgather
    let t := s.moveCause c q true 8 (w 1) (fld (w 2) 0 32 * rb)
    let d := s.moveCause c q false 8 (w 3) (n * rb)
    let src := if gather then t else d
    let dst := if gather then d else t
    if rb % 8 ≠ 0 ∨ rb < 8 ∨ 4096 < rb then .error (0x01, 0)
    else match s.tileAt c q q.addr1 (4 * n) 4 with
      | .error k => .error (k, 1)
      | .ok _ => if src ≠ 0 then .error (src, 5) else if dst ≠ 0 then .error (dst, 6) else .ok ws

/-- The parts of row j, whose index is read now (R136). -/
def rowMoves (s : State) (c : Nat) (r : TileRun) (j : Nat) : List TileMove :=
  let q := r.cmd
  let w (i : Nat) : Word := r.desc.getD i 0
  let rb := fld (w 0) 0 16
  let gather := q.op == .tgather
  match s.tileAt c q q.addr1 (4 * fld (w 0) 32 16) 4 with
  | .error _ => []
  | .ok ix =>
    let x := s.read (spadKey c (ix + 4 * j)) 4
    let tr : Word := w 1 + ofNat (x * rb)
    let dr : Word := w 3 + ofNat (j * rb)
    if x < fld (w 2) 0 32 then tileMoves [{ src := if gather then tr else dr, dst := if gather then dr else tr, n := rb }]
    else if gather then [{ src := none, dst := dr, n := rb }] else []

/-- The key of a move's address: own scratchpad, or bulk through a translation (R136). -/
def moveKey (s : State) (c : Nat) (q : TileCmd) (a : Word) (access : Nat) : Except Stop (Nat × State) :=
  let r : Rights := { ctx := q.ctx, sup := q.mode != 0 }
  match s.resolve c r a 1 with
  | .error e => .error e
  | .ok (.spad t off) => .ok (spadKey t off, s)
  | .ok (.bulk va) => s.bulkAccess c r va access
  | .ok (.fabric _ _) => .error (.trap 0x04 a)

/-- A move meets a stop at an operand: the move path waits for its page, or the command fails (R136, R251). -/
def moveStop (s : State) (c : Nat) (r : TileRun) (operand : Nat) : Stop → State
  | .page va access reason level _ =>
    let s1 := (s.setRun c { r with ring := operand }).modCore c fun x => { x with moverSeq := (x.moverSeq + 1) % 256, movePage := some va }
    s1.sendFault c 64 (s1.coreRec c).moverSeq r.cmd.ctx va access reason level
  | .trap k _ => s.tileFail c r k operand
  | .denied i va _ => (s.walked c i va).tileFail c r 0x05 operand
  | _ => s.setRun c r

/-- The parts at hand of a move are done in order, until the last, a page wait or a failure: whether all are done. -/
def movePieces (s : State) (c : Nat) (r : TileRun) : List TileMove → Bool × State
  | [] => (true, s)
  | p :: l =>
    let r1 := { r with begun := true, moves := p :: l }
    let src : Except Stop (List Nat × State) := match p.src with
      | none => .ok (List.replicate p.n 0, s)
      | some a => (s.moveKey c r.cmd a 2).map fun k => (k.2.readBytes k.1 p.n, k.2)
    match src with
    | .error e => (false, s.moveStop c r1 5 e)
    | .ok (data, s1) => match s1.moveKey c r.cmd p.dst 3 with
      | .error e => (false, s1.moveStop c r1 6 e)
      | .ok (key, s2) =>
        let place := match s.resolve c { ctx := r.cmd.ctx, sup := r.cmd.mode != 0 } p.dst 1 with
          | .ok loc => loc.place
          | .error _ => 0
        let sp := s2.spoil place r.places data
        (sp.2.storeBytes key sp.1 []).movePieces c r l

/-- The rows to come of a gather or scatter, each with its own parts (R136); after the last the command is over. -/
def moveRows (s : State) (c : Nat) (r : TileRun) : List Nat → State
  | [] => s.tileEnd c { r with moves := [], rows := [] } 0
  | j :: l =>
    let x := s.movePieces c { r with rows := l } (s.rowMoves c r j)
    if x.1 then x.2.moveRows c r l else x.2

/-- A move goes on with its parts at hand, then its rows. -/
def moveOn (s : State) (c : Nat) (r : TileRun) : State :=
  let x := s.movePieces c r r.moves
  if x.1 then x.2.moveRows c r r.rows else x.2

/-- A tensor, gather or scatter command begins, or goes on after a page wait (R135, R136, R253). -/
def tileMove (s : State) (c : Nat) (op : TileOp) : State :=
  match s.tileRun c op with
  | none => s
  | some (r, s1) =>
    if (s1.coreRec c).movePage.isSome then s1
    else if (s1.coreRec c).moveFailed then (s1.modCore c fun x => { x with moveFailed := false }).tileFail c r 0x06 r.ring
    else if r.begun then s1.moveOn c r
    else if op = .tcopy then
      match s1.tcopyParts c r.cmd with
      | .error k => s1.tileFail c r k.1 k.2
      | .ok (l, ps) => s1.moveOn c { r with moves := l, places := s1.sourcePlaces c { ctx := r.cmd.ctx, sup := r.cmd.mode != 0 } ps }
    else
      match s1.rowParts c r.cmd with
      | .error k => s1.tileFail c r k.1 k.2
      | .ok ws => s1.moveOn c { r with desc := ws, rows := List.range (fld (ws.getD 0 0) 32 16) }

end State

/-- TCOPY (R136). -/
def execTcopy (c : Nat) (s : State) : Host.Outcome State Fault Refusal := .next (s.tileMove c .tcopy)
/-- TGATHER (R136). -/
def execTgather (c : Nat) (s : State) : Host.Outcome State Fault Refusal := .next (s.tileMove c .tgather)
/-- TSCATTER (R136). -/
def execTscatter (c : Nat) (s : State) : Host.Outcome State Fault Refusal := .next (s.tileMove c .tscatter)

/-! ## The finishing release (R128, R139) -/

/-- The object a command arrives at is in its error phase, where this package holds it (R50). -/
def State.errorPhase (s : State) (c : Nat) (q : TileCmd) : Bool :=
  q.level != 0 && s.barrierErred (barrierKey c { level := q.level, index := q.bidx })
/-- The object a command arrives at is held by another package, which alone knows its phase. -/
def State.arrivesAbroad (s : State) (c : Nat) (q : TileCmd) : Bool :=
  q.level != 0 && (match s.barrierHome c q.level with | .pkg _ => true | _ => false)

/-- What core c keeps of a finished command, beside its effects: an MMAS, until its thread sees that it is over (R132); after MZERO or
MLOADC the accumulator is no longer that of an earlier MMAS (log entry 51, DEDUCED). -/
def State.noteTile (s : State) (c : Nat) (q : TileCmd) (failed : Bool) : State :=
  if failed then s
  else if q.op == .mmas then s.modMatrix c fun m => { m with unseen := m.unseen ++ [q] }
  else if q.op == .mzero || q.op == .mloadc then s.forgetTiles c fun _ => true
  else s

/-- TILE_FINISH (R128, R139, R50). An MMAS that a store raced with leaves the accumulator undefined (R132). The finishing release of a
command that arrives at another package's object waits for that package's answer (log entry 27, DEDUCED). -/
def tileFinish (c : Nat) (mover : Bool) (s : State) : State :=
  match (s.matrix c).path mover with
  | some r => match r.ended with
    | some failed =>
      let q := r.cmd
      let s0 := s.modMatrix c (·.setPath mover none)
      let s1 := (if q.raced then s0.spoilAcc c else s0).noteTile c q failed.isSome
      if s.arrivesAbroad c q then
        s1.engineArrive c q.uid q.level q.bidx failed (if failed.isNone then r.flags else 0) (some q.k)
      else
        let s2 := s1.tileRelease c q.uid q.k (if failed.isSome || s.errorPhase c q then 0 else r.flags)
        if q.level ≠ 0 then s2.engineArrive c q.uid q.level q.bidx failed
        else match failed with
          | some code => s2.modThread q.uid (recordErr code)
          | none => s2
    | none => s
  | none => s

/-- TILE_FINISH (R128). -/
def execTileFinish (c : Nat) (mover : Bool) (s : State) : Host.Outcome State Fault Refusal := .next (tileFinish c mover s)

end Sys2Proof.Machine
end

