-- ==== Sys2Proof/Machine/System.lean ====
section
/-! DEFINITION. Special registers (R152, R153, R161 and the chapters that add others), thread control (R160), and the events of
a slot's life (R154, R185, R404). -/
namespace Sys2Proof.Machine

/-! ## Special registers -/

/-- The numbers of user special registers (R161). -/
def userSpecials : List Nat :=
  [0x000, 0x001, 0x002, 0x003, 0x004, 0x005, 0x008, 0x009, 0x00A, 0x00B, 0x00C, 0x00D, 0x00E, 0x00F, 0x010, 0x011, 0x018, 0x019,
   0x020, 0x021, 0x022, 0x023]
/-- The numbers of supervisor special registers (R152, R182, R208, R253, R269, R281, R335). -/
def supervisorSpecials : List Nat :=
  [0x100, 0x101, 0x102, 0x103, 0x104, 0x105, 0x106, 0x107, 0x108, 0x109, 0x10A, 0x10B, 0x10C, 0x10D]

/-- The check of a special register's number: an unassigned one below 0x100 first, then privilege, then an unassigned one from 0x100
on (R71, R152, R160; log entry 10, DEDUCED). -/
def checkSpecial (word : Word) (n : Nat) (s : State) : Except Stop Unit :=
  if n < 0x100 then (if userSpecials.contains n then .ok () else .error (.trap 0x01 word))
  else if s.me.mode = 0 then .error (.trap 0x0D word)
  else if supervisorSpecials.contains n then .ok () else .error (.trap 0x01 word)

namespace State

/-- COORD of core c (R24). -/
def coordWord (s : State) (c : Nat) : Word := pack [(coreX c, 32, 8), (coreY c, 40, 8), (s.pkgNum, 48, 6), (dieOf c, 56, 2)]
/-- DIRTY of core c (R152). -/
def dirtyWord (s : State) (c : Nat) : Word := pack ((List.range 24).map fun j => (boolNat (Store.get false s.dirty (c * 24 + j)), j, 1))
/-- CTXCMD (R152): OP reads 0. -/
def ctxCmdWord (s : State) : Word := pack [(s.ctxCmdId, 0, 9), (boolNat s.ctxCmd.isSome, 24, 1), (boolNat s.ctxCmdErr, 25, 1)]
/-- TASKSTAT of core c (R182). -/
def taskStat (s : State) (c : Nat) : Word :=
  let r := s.coreRec c
  pack [(r.taskWin, 0, 4), (r.tasks.length, 16, 7), (r.ready.length, 32, 9), (r.res, 48, 9)]
/-- Pool slots of core c that are not FREE (R335). -/
def poolUsed (s : State) (c : Nat) : Nat :=
  ((s.heldDomains c).map fun d =>
    countIf (fun i => s.recordState (poolKey c d i) != 0) (List.range d.cap)).foldl (· + ·) 0
/-- RGNSTAT of core c (R335). -/
def rgnStat (s : State) (c : Nat) : Word :=
  pack [(s.poolUsed c, 0, 13), ((s.coreRec c).armed, 16, 8), ((s.coreRec c).regionRef, 32, 16)]

/-- The value SRD returns for a number, for the issuing slot (R160): reserved and write-only fields are 0. -/
def readSpecial (s : State) (n : Nat) : Word :=
  let sl := s.me
  let r := s.coreRec s.here
  if n = 0x000 then slotWord s.num sl
  else if n = 0x001 then s.coordWord s.here
  else if n = 0x002 then sl.group
  else if n = 0x003 then sl.kernel
  else if n = 0x004 then ofNat sl.ctx
  else if n = 0x005 then windowWord sl
  else if n = 0x008 then sl.flags
  else if n = 0x009 then sl.fmt
  else if n = 0x00A then sl.scla
  else if n = 0x00B then sl.sclb
  else if n = 0x00C then sl.wlim
  else if n = 0x00D then cntWord sl
  else if n = 0x00E then sl.tok.setWidth 64
  else if n = 0x00F then sl.touch
  else if n = 0x010 then ofNat r.cycle
  else if n = 0x011 then sl.err
  else if n = 0x018 then r.int4lo
  else if n = 0x019 then r.int4hi
  else if n = 0x020 then sl.trapPc
  else if n = 0x021 then ofNat sl.trapCause
  else if n = 0x022 then sl.trapInfo
  else if n = 0x023 then sl.trapVec
  else if n = 0x100 then s.ctxBase
  else if n = 0x101 then r.saveBase
  else if n = 0x102 then s.dirtyWord s.here
  else if n = 0x103 then s.ctxCmdWord
  else if n = 0x104 then r.taskCfg
  else if n = 0x105 then s.taskStat s.here
  else if n = 0x106 then pack [(r.qdropDecr, 0, 16), (r.qdropFill, 16, 16)]
  else if n = 0x107 then s.partBase
  else if n = 0x108 then ofNat r.pageVec
  else if n = 0x10A then s.netCfg
  else if n = 0x10B then s.linkNote
  else if n = 0x10C then s.linkStat
  else if n = 0x10D then s.rgnStat s.here
  else 0

/-- DIRTY bits written 1 are cleared (R152). -/
def clearDirty (s : State) (c : Nat) (w : Word) : State :=
  (List.range 24).foldl (fun (x : State) j => if bitAt w j then { x with dirty := Store.set false x.dirty (c * 24 + j) false } else x) s

/-- A write to CTXCMD (R152): ID, ERR by W1C, and a command unless one is in force. ID takes its bits whatever OP is and while BUSY is 1,
and CTXCMD and CTXBASE are one register for the package (log entry 42, DESIGN CHOICE). -/
def writeCtxCmd (s : State) (w : Word) : State :=
  let op := fld w 16 2
  let s1 : State := { s with ctxCmdId := fld w 0 9, ctxCmdErr := s.ctxCmdErr && !bitAt w 25 }
  if s.ctxCmd.isSome || (op != 1 && op != 2) then s1 else { s1 with ctxCmd := some (op, fld w 0 9), ctxCmdDone := false }

/-- A write to NETCFG (R269). -/
def writeNetCfg (s : State) (w : Word) : State :=
  if s.ctxs.any fun e => e.1 != 0 && e.2.state != 0 then s else { s with netCfg := w &&& 0x0000FFFFFFFFFF0F }

/-- What SWR does for a number (R160): writable fields take their bits of w, W1C bits clear, the rest is ignored. -/
def writeSpecial (s : State) (n : Nat) (w : Word) : State :=
  let c := s.here
  if n = 0x008 then s.modMe fun sl => { sl with flags := w &&& fieldMask 0x008 }
  else if n = 0x009 then s.modMe fun sl => { sl with fmt := w &&& fieldMask 0x009 }
  else if n = 0x00A then s.modMe fun sl => { sl with scla := w }
  else if n = 0x00B then s.modMe fun sl => { sl with sclb := w }
  else if n = 0x00C then s.modMe fun sl => { sl with wlim := w &&& fieldMask 0x00C }
  else if n = 0x011 then s.modMe fun sl => { sl with err := w &&& fieldMask 0x011 }
  else if n = 0x018 then s.modCore c fun r => { r with int4lo := w }
  else if n = 0x019 then s.modCore c fun r => { r with int4hi := w }
  else if n = 0x020 then s.modMe fun sl => { sl with trapPc := w }
  else if n = 0x023 then s.modMe fun sl => { sl with trapVec := w }
  else if n = 0x100 then { s with ctxBase := w }
  else if n = 0x101 then s.modCore c fun r => { r with saveBase := w }
  else if n = 0x102 then s.clearDirty c w
  else if n = 0x103 then s.writeCtxCmd w
  else if n = 0x104 then s.modCore c fun r => { r with taskCfg := ofNat (fld w 0 60) }
  else if n = 0x105 then s.modCore c fun r => { r with taskWin := fld w 0 4 }
  else if n = 0x107 then { s with partBase := w }
  else if n = 0x108 then s.modCore c fun r => { r with pageVec := fld w 0 21 }
  else if n = 0x109 then s.agentSend (.core c) (.core c) 0 true (.pwake w)
  else if n = 0x10A then s.writeNetCfg w
  else if n = 0x10B then s.writeLinkNote w
  else s

end State

/-- The finished commands that reading a special register shows the thread: all of its commands where CNT gives TL 0, and those of the
tokens that TOK gives free (R132). -/
def shownTiles (sl : Slot) (n : Nat) (q : TileCmd) : Bool :=
  if n = 0x00D then sl.tl == 0 else if n = 0x00E then !sl.tok.getLsbD q.k else false

/-- SRD (R160). -/
def srd (word : Word) (d : RegCode) (num : BitVec 12) (s : State) : Except Stop State :=
  match checkSpecial word num.toNat s with
  | .error e => .error e
  | .ok _ => (s.seeTiles (shownTiles s.me num.toNat)).compute word [] d.toNat fun _ => s.readSpecial num.toNat

/-- SRD (R160). -/
def execSrd (d : RegCode) (num : BitVec 12) (s : State) : Host.Outcome State Fault Refusal :=
  s.finish (srd (Instr.srd d num).word d num s)

/-- SWR (R160). -/
def swr (word : Word) (d : RegCode) (num : BitVec 12) (s : State) : Except Stop State :=
  match checkSpecial word num.toNat s with
  | .error e => .error e
  | .ok _ => match s.operands word [d.toNat] [] with
    | .error e => .error e
    | .ok vs => .ok ((s.completeNone [d.toNat]).writeSpecial num.toNat (arg vs 0))

/-- SWR (R160). -/
def execSwr (d : RegCode) (num : BitVec 12) (s : State) : Host.Outcome State Fault Refusal :=
  s.finish (swr (Instr.swr d num).word d num s)

/-! ## Thread control (R160) -/

/-- TRAP (R160). -/
def execTrap (code : BitVec 12) (s : State) : Host.Outcome State Fault Refusal :=
  s.finish (.error (.trap 0x10 (code.setWidth 64)))

/-- RTE (R160): outside the handler it is illegal; a TRAPPC that holds no code address is the trap 0x04, which ends the
thread. -/
def rte (word : Word) (s : State) : Except Stop State :=
  if !s.me.intrap then .error (.trap 0x01 word)
  else match codeAddr s.here s.me.trapPc with
    | none => .error (.trap 0x04 s.me.trapPc)
    | some off => .ok (s.returnTrap off)

/-- RTE (R160). -/
def execRte (s : State) : Host.Outcome State Fault Refusal := s.finish (rte Instr.rte.word s)

/-- HALT (R160, R154). -/
def execHalt (s : State) : Host.Outcome State Fault Refusal := .next (s.terminate s.cur 0)

/-- The slots of core c that are READY, but for slot t. -/
def State.readyOthers (s : State) (t : Nat) : List Nat :=
  ((List.range Config.slots).map (t / 64 * 64 + ·)).filter fun u => u != t && (s.slot u).phase == .ready

/-- YIELD (R160): the slot waits until every slot that is READY now has issued once, or 64 cycles have passed. -/
def execYield (s : State) : Host.Outcome State Fault Refusal :=
  let l := s.readyOthers s.cur
  .next ((s.completeNone []).modMe fun sl =>
    { sl with yield := if l.isEmpty then none else some ((s.coreRec s.here).cycle + 64, l) })

/-- The thread that a SPAWN descriptor asks for, or its trap (R160). -/
def spawnChild (word : Word) (off : Nat) (s : State) : Except Stop NewThread :=
  let w0 := s.read64 (spadKey s.here off)
  let pc := fld w0 0 21
  let win := fld w0 24 4
  let mode := fld w0 29 2
  if fld w0 31 33 ≠ 0 ∨ fld w0 21 3 ≠ 0 ∨ pc % 4 ≠ 0 ∨ Config.spadSize ≤ pc ∨ mode = 3 ∨ (bitAt w0 28 ∧ 1 < win) then .error (.trap 0x01 word)
  else if s.me.mode < mode ∨ (mode = 2 ∧ s.me.mode ≠ 2) then .error (.trap 0x0D word)
  else
    .ok { pc := pc, limit := 8 * (win + 1), mode := mode, ctx := s.me.ctx, kernel := kernelMember s.me.kernel
          group := s.me.group, mig := bitAt w0 28, args := s.readWords (spadKey s.here (off + 8)) 4, kpkg := s.me.kpkg
          extra := (s.me.extra || s.me.kpkg.isSome || s.me.countAt.isSome) && s.joins s.me.kpkg s.me.kernel }
where
  /-- KERNEL of a thread that no launch placed: LNCH and TRIG are 0 (R213). -/
  kernelMember (w : Word) : Word := setFld w 32 2 0

/-- The child is created and joins its parent's kernel: counted on this core, or by a JOIN whose acknowledgement completes the SPAWN
(R160, R224). -/
def spawnAt (srcs : List Nat) (d n base : Nat) (child : NewThread) (s : State) : State :=
  let s1 := s.createAt (s.here * 64 + n) base child
  if child.extra then
    let op := s1.nextId
    (s1.sendJoin s.here s.me.uid child.kpkg child.kernel d n).waitFor op (.core s.here) 0 false false srcs
  else
    let s2 := if s.kernelLive child.kernel then s1.modKernelCore (kernelId child.kernel) s.here fun k => { k with alive := k.alive + 1 } else s1
    s2.complete srcs d (ofNat n)

/-- SPAWN (R160, R155, R156). -/
def spawn (word : Word) (d : RegCode) (s : State) : Except Stop State :=
  let srcs := [d.toNat]
  match s.operands word srcs [d.toNat] with
  | .error e => .error e
  | .ok vs => match s.resolveOwn (arg vs 0) 8 with
    | .error e => .error e
    | .ok off =>
      if Config.spadSize < off + 40 then .error (.trap 0x04 (arg vs 0))
      else match spawnChild word off s with
        | .error e => .error e
        | .ok child => match s.destReady d.toNat with
          | .error e => .error e
          | .ok _ => match s.freeSlot s.here, s.freeWindow s.here child.limit with
            | some n, some base => .ok (spawnAt srcs d.toNat n base child s)
            | _, _ => .ok (s.complete srcs d.toNat allOnes)

/-- SPAWN (R160). -/
def execSpawn (d : RegCode) (s : State) : Host.Outcome State Fault Refusal := s.finish (spawn (Instr.spawn d).word d s)

/-! ## Events of a slot -/

/-- BOUNDARY_TRAP (R404): the first pending trap of slot t is taken at its instruction boundary. A slot that is parked or in page wait
has reached none: the trap waits until the slot is READY again (log entry 39, DEDUCED), and while DBGSTOP holds the core (R393). -/
def boundaryTrap (t : Nat) (s : State) : State :=
  let sl := s.slot t
  match sl.pend with
  | [] => s
  | p :: r => if sl.phase = .ready ∧ Store.get false s.dev.stopped (t / 64) = false then (s.setSlot t { sl with pend := r }).takeTrap t p.1 p.2 else s

/-- BOUNDARY_TRAP (R404). -/
def execBoundaryTrap (t : Nat) (s : State) : Host.Outcome State Fault Refusal := .next (boundaryTrap t s)

/-- YIELD_EXPIRY (R160): 64 cycles have passed. -/
def yieldExpiry (t : Nat) (s : State) : State :=
  let sl := s.slot t
  match sl.yield with
  | some (e, _) => if e ≤ (s.coreRec (t / 64)).cycle then s.setSlot t { sl with yield := none } else s
  | none => s

/-- YIELD_EXPIRY (R160). -/
def execYieldExpiry (t : Nat) (s : State) : Host.Outcome State Fault Refusal := .next (yieldExpiry t s)

/-- TASK_DISPATCH (R185): the head of the queue goes to the lowest FREE dispatcher slot, with a window of TASKSTAT.WIN. -/
def taskDispatch (c : Nat) (s : State) : State :=
  let r := s.coreRec c
  let limit := 8 * (r.taskWin + 1)
  match r.tasks, (List.range 60).find? (fun n => bitAt r.taskCfg n && (s.slot (c * 64 + n)).phase == .free), s.freeWindow c limit with
  | p :: rest, some n, some base =>
    let t := c * 64 + n
    let s1 := (s.modCore c fun r => { r with tasks := rest }).createAt t base
      { pc := p.entry, limit := limit, mode := p.mode, ctx := p.ctx, kernel := setFld p.kernel 32 2 0, group := p.group
        args := [p.args.a0, p.args.a1, p.args.a2, p.args.a3], task := true, extra := kernelV p.kernel, kpkg := p.kpkg }
    s1.modSlot t fun sl => { sl with fmt := p.fmt &&& 0xFFF, scla := p.scla, sclb := p.sclb, rep := p.rep }
  | _, _, _ => s

/-- TASK_DISPATCH (R185). -/
def execTaskDispatch (c : Nat) (s : State) : Host.Outcome State Fault Refusal := .next (taskDispatch c s)

namespace State

/-- The names bound to slot n of core c go back to FREE (R169). -/
def freeNames (s : State) (c n : Nat) : State :=
  (s.names.filter fun e => e.1 / 512 == c && (match e.2.state with | .live k _ => k == n | _ => false)).foldl
    (fun (x : State) e => x.freeName c (e.1 % 512)) s

/-- The destroy notices of the names a guest still carries (R181). -/
def destroyCarried (s : State) (t : Nat) : State :=
  let sl := s.slot t
  let s1 := sl.carried.foldl (fun (x : State) k =>
    x.send { id := 0, uid := sl.uid, src := .core (t / 64), slot := t % 64, dst := nameNode s k.name, resp := true, sup := true
             body := .destroy k.name }) s
  s1.modSlot t fun x => { x with carried := [], notices := x.notices + sl.carried.length }

/-- The bindings of a thread's queue registers end (R198). -/
def unbindAll (s : State) (c : Nat) (sl : Slot) : State := (List.range 4).foldl (fun x n => unbindOne x c sl.uid sl n) s

/-- A task that ends without RETAT: the core delivers its status to the reply name, as an agent of its context; a refusal is not
reported (R186, R175). -/
def taskEnded (s : State) (c : Nat) (sl : Slot) : State :=
  if sl.task && !sl.returned && sl.rep != 0 && s.nameUsable sl.rep then
    s.sendDelivery c 64 0 { ctx := sl.ctx, sup := sl.ctx == 0 } sl.rep (setFld (ofNat sl.status) 63 1 1) .taskEnd
  else s

/-- A retired or discarded thread is counted with its status word: at its origin for a guest, else in its kernel (R224, R225, R229). -/
def countRetired (s : State) (c : Nat) (sl : Slot) (status : Word) : State :=
  if sl.discarded then s
  else if sl.guest then
    if kernelV sl.kernel then
      s.send { id := 0, src := .core c, dst := .pkg sl.originPkg, resp := true, sup := true
               body := .guestRetired (kernelIdent sl.kernel) status (sl.countAt.getD sl.originCore) (kernelLnch sl.kernel) (kernelTrig sl.kernel) sl.extra }
    else s
  else s.memberRetired (sl.countAt.getD c) sl.kernel status sl.extra sl.kpkg

end State

/-- A JOIN of a packet that thread u has sent to its own core awaits its acknowledgement: the thread retires only after it (R224). -/
def State.callsPending (s : State) (u : Nat) : Bool := u != 0 && s.cores.any fun e => e.2.joining.any fun j => j.2.uid == u && j.2.src == j.2.dst

/-- SLOT_RETIRE (R154, R169, R186, R198, R224): a DRAINING slot whose counters are all 0 becomes FREE. A slot that a thread has left by
migration reports nothing, and a guest's waits until the origin has taken the thread (R285); a guest's carried names are destroyed
first. -/
def slotRetire (t : Nat) (s : State) : State :=
  let sl := s.slot t
  let c := t / 64
  if sl.phase = .draining ∧ sl.ld = 0 ∧ sl.st = 0 ∧ sl.tl = 0 ∧ sl.cp = 0 then
    if sl.departed then (if sl.notices ≠ 0 then s else ((s.unbindAll c sl).forgetTiles c (·.uid == sl.uid)).setSlot t sl.vacated)
    else if !sl.carried.isEmpty then s.destroyCarried t
    else if sl.notices ≠ 0 ∨ s.callsPending sl.uid then s
    else (((((s.freeNames c (t % 64)).unbindAll c sl).taskEnded c sl).countRetired c sl (threadStatus sl.status)).forgetTiles c
      (·.uid == sl.uid)).setSlot t sl.vacated
  else s

/-- SLOT_RETIRE (R154). -/
def execSlotRetire (t : Nat) (s : State) : Host.Outcome State Fault Refusal := .next (slotRetire t s)

end Sys2Proof.Machine
end

