-- ==== Sys2Proof/Machine/Spill.lean ====
section
/-! DEFINITION. Pre-emption of one slot (R163 to R166, R179, R198, R254): SPILL and RESUME, and their completion events. -/
namespace Sys2Proof.Machine

/-- The rights under which save images are read and written (R152, log entry 26, DEDUCED). -/
def saveRights : Rights := { ctx := 0, sup := true }

/-! ## Regions (R165) -/

/-- A control word: kind 0 literal, 1 zero, 2 repeat, and the count of words. -/
def runWord (kind n : Nat) : Word := pack [(n, 0, 14), (kind, 62, 2)]

/-- The words of a region as runs. The choice among the runs a place allows is the spill engine's (R165): pick gives it. -/
def codeRuns (pick : Nat → Nat) : Nat → Nat → List Word → List Word
  | 0, _, _ => []
  | _ + 1, _, [] => []
  | f + 1, p, w :: ws =>
    let n := pick p / 4 % (w :: ws).length + 1
    let run := (w :: ws).take n
    let rest := codeRuns pick f (p + n) ((w :: ws).drop n)
    if pick p % 4 = 1 ∧ run.all (· == 0) then runWord 1 n :: rest
    else if pick p % 4 = 2 ∧ run.all (· == w) then runWord 2 n :: w :: rest
    else runWord 0 n :: (run ++ rest)

/-- The words that runs stand for; none if they are malformed (R165). -/
def decodeRuns : Nat → List Word → Option (List Word)
  | _, [] => some []
  | 0, _ => none
  | f + 1, c :: ws =>
    let n := fld c 0 14
    match fld c 62 2, ws with
    | 0, _ => if ws.length < n then none else (decodeRuns f (ws.drop n)).map (ws.take n ++ ·)
    | 1, _ => (decodeRuns f ws).map (List.replicate n 0 ++ ·)
    | 2, w :: r => (decodeRuns f r).map (List.replicate n w ++ ·)
    | _, _ => none

namespace State

/-- Key of word i of region j on core c. -/
def regionKey (c j i : Nat) : Nat := spadKey c (j * 0x10000 + 8 * i)

/-- The full bits of 64 words of a region from word i on. -/
def fullWord (s : State) (c j i : Nat) : Word :=
  pack ((List.range 64).map fun b => (boolNat (s.isFull (regionKey c j (i + b))), b, 1))

/-- The record of a region (R165); its length counts every word of the record (log entry 26, DEDUCED). -/
def regionRecord (s : State) (c j : Nat) (pick : Nat → Nat) : List Word :=
  let body := ((List.range 128).map fun i => s.fullWord c j (64 * i)) ++ codeRuns pick 8193 0 (s.readWords (regionKey c j 0) 8192)
  pack [(j, 0, 5), (body.length + 1, 16, 24)] :: body

/-- Consecutive words of a save area, until one's address does not translate (log entry 26, DEDUCED). -/
def saveWords (s : State) (c : Nat) (a : Word) : List Word → State
  | [] => s
  | w :: r => match s.plainKey c saveRights a 8 true with
    | some key => (s.put64 key w).saveWords c (a + 8) r
    | none => s

/-- Every dirty region of core c is saved from address a on, each coded with free choices (R165), by walks that count (R250). -/
def saveRegions (s : State) (c : Nat) (a : Word) : State :=
  let js := (List.range 24).filter fun j => Store.get false s.dirty (c * 24 + j)
  let ws := js.flatMap fun j => s.regionRecord c j fun p => (Config.freeWord (s.fresh + j * 8192 + p)).toNat
  ((s.freed (24 * 8192)).plainHeat (.core c) c saveRights a (8 * (ws.length + 1)) true).saveWords c a (ws ++ [allOnes])

/-- A saved word. -/
def savedWord (s : State) (c : Nat) (a : Word) : Option Word := (s.plainKey c saveRights a 8 false).map s.read64

/-- Consecutive saved words, up to the first that cannot be read. -/
def savedWords (s : State) (c : Nat) (a : Word) : Nat → List Word
  | 0 => []
  | n + 1 => match s.savedWord c a with
    | some w => w :: s.savedWords c (a + 8) n
    | none => []

/-- Words and full bits of a region from word i on. -/
def putRegion (s : State) (c j : Nat) (bits : List Word) : Nat → List Word → State
  | _, [] => s
  | i, w :: r =>
    ((s.put64 (regionKey c j i) w).setFull (regionKey c j i) (bitAt (bits.getD (i / 64) 0) (i % 64))).putRegion c j bits (i + 1) r

/-- A region is restored from its record's words, and its DIRTY bit clears; one whose runs are not 8192 words is undefined (R166,
R5). -/
def restoreRegion (s : State) (c j : Nat) (body : List Word) : State :=
  let clean (x : State) : State := { x with dirty := Store.set false x.dirty (c * 24 + j) false }
  match (if 24 ≤ j then none else some (decodeRuns 8193 (body.drop 128))) with
  | none => s
  | some (some ws) =>
    if ws.length = 8192 then clean (s.putRegion c j body 0 ws)
    else clean ((s.freed 8320).putRegion c j ((List.range 128).map fun i => Config.freeWord (s.fresh + 8192 + i)) 0
      ((List.range 8192).map fun i => Config.freeWord (s.fresh + i)))
  | some none =>
    clean ((s.freed 8320).putRegion c j ((List.range 128).map fun i => Config.freeWord (s.fresh + 8192 + i)) 0
      ((List.range 8192).map fun i => Config.freeWord (s.fresh + i)))

/-- The records from address a are restored, up to the header of all ones (R165, R166), by walks that count (R250); first: no record was
read before. -/
def restoreRegions (s : State) (c : Nat) (a : Word) (first : Bool) : Nat → State
  | 0 => s
  | f + 1 =>
    let heat (n : Nat) : State := s.heatOn (.core c) c saveRights a (8 * n) false first
    match s.savedWord c a with
    | none => heat 1
    | some h =>
      let n := fld h 16 24
      if h = allOnes then heat 1
      else ((heat (max n 1)).restoreRegion c (fld h 0 5) (s.savedWords c (a + 8) (n - 1))).restoreRegions c (a + ofNat (8 * max n 1)) false f

/-! ## Images (R164) -/

/-- Bits of a list as a number, the first lowest. -/
def bitsOf : List Bool → Nat
  | [] => 0
  | b :: r => boolNat b + 2 * bitsOf r

/-- The image of slot t is written at a key; what lies beyond LIMIT is undefined (R164, R5). -/
def writeImage (s : State) (key t : Nat) : State :=
  let sl := s.slot t
  let regs := (List.range 128).map fun v => if v < sl.limit then s.reg t v else Config.freeWord (s.fresh + v)
  let full := bitsOf ((List.range 128).map fun v => if v < sl.limit then s.regIsFull t v else bitAt (Config.freeWord (s.fresh + 128)) (v % 64))
  (((s.freed 129).writeHead key (t / 64) (t % 64) sl).put (key + 0x100) 16 full).putWords (key + 0x120)
    (regs ++ List.replicate 92 0)

/-- The image base of slot n of the issuing core, read or written as an access of the issuer under context 0 (log entry 26, DEDUCED): its
physical key. -/
def imageAt (s : State) (n access : Nat) : Except Stop (Nat × State) :=
  let a := (s.coreRec s.here).saveBase + ofNat (2048 * n)
  match s.resolve s.here saveRights a 2048 with
  | .error e => .error e
  | .ok (.spad c off) => .ok (spadKey c off, s)
  | .ok (.bulk va) => s.bulkAccess s.here saveRights va access
  | .ok (.fabric _ _) => .error (.trap 0x04 a)

/-- An image is gone: its thread, unless already counted, is discarded (R151, R225); its names and bindings end (R169, R198). -/
def dropImage (s : State) (e : Evicted) : State :=
  let sl := imageSlot s e.key e.rest
  let s1 := (s.countRetired e.core sl discardStatus).unbindAll e.core sl
  let s2 := (s1.names.filter fun x => match x.2.state with | .image k _ => k == e.key | _ => false).foldl
    (fun (x : State) y => x.freeName (y.1 / 512) (y.1 % 512)) s1
  { s2 with evicted := s2.evicted.filter fun x => x.key != e.key }

/-- The thread of slot t goes into an image at a key, and its slot is SAVING (R163, R179). A thread of a draining context is discarded
so (R225), once nothing of it is outstanding: until then it may yet be a member's caller (R224). The slot keeps context and mode while it
is SAVING (R151, R152). -/
def evict (s : State) (t key : Nat) : State :=
  let sl := s.slot t
  let s0 := match s.evicted.find? (·.key == key) with
    | some e => s.dropImage e
    | none => s
  let gone := (s.ctx sl.ctx).state == 2 && sl.ld + sl.st + sl.tl + sl.cp == 0 && !s.callsPending sl.uid
  let s1 := s0.writeImage key t
  let s2 := if gone then s1.countRetired (t / 64) sl discardStatus else s1
  let s3 : State := { s2 with
    evicted := s2.evicted ++ [{ core := t / 64, slot := t % 64, key := key, rest := { sl with discarded := sl.discarded || gone } }]
    names := s2.names.map fun e => match e.2.state with
      | .live n v => if e.1 / 512 = t / 64 ∧ n = t % 64 then (e.1, { e.2 with state := .image key v }) else e
      | _ => e }
  s3.setSlot t { sl.vacated with phase := .saving, base := sl.base, limit := sl.limit, ctx := sl.ctx, mode := sl.mode }

/-- The issuer waits for a SPILL or RESUME. -/
def startSpill (s : State) (d n key : Nat) (scr resume : Bool) : State :=
  let o : SpillOp := { id := s.nextId, uid := s.me.uid, reg := d, core := s.here, slot := n, key := key, saveBase := (s.coreRec s.here).saveBase
                       scr := scr, resume := resume }
  ({ s with nextId := s.nextId + 1, spills := s.spills ++ [o] } : State).waitFor o.id (.core s.here) 0 false false [d]

/-- A SPILL or RESUME ends: g[d] := 0, and the issuer goes on. -/
def endSpill (s : State) (o : SpillOp) : State :=
  (({ s with spills := s.spills.filter fun x => x.id != o.id } : State).resumeThread o.uid).arriveReg o.uid o.reg 0

end State

/-- The operand of SPILL and RESUME: the slot and SCR (R163). -/
def spillOperand (word : Word) (d : RegCode) (s : State) : Except Stop (Nat × Bool) :=
  if s.me.mode = 0 then .error (.trap 0x0D word) else
  match s.operands word [d.toNat] [d.toNat] with
  | .error e => .error e
  | .ok vs =>
    let g := arg vs 0
    if fld g 6 2 ≠ 0 ∨ fld g 9 55 ≠ 0 then .error (.trap 0x01 word)
    else match s.destReady d.toNat with
      | .error e => .error e
      | .ok _ => .ok (fld g 0 6, bitAt g 8)

/-- The slot is one that SPILL leaves alone (R163); so is one that leaves by migration (log entry 18, DEDUCED). -/
def unspillable (s : State) (n : Nat) : Bool :=
  let sl := s.slot (s.here * 64 + n)
  n == s.num || n == 63 || sl.mode == 2 || sl.leaving.isSome ||
    (match sl.phase with | .free | .reserved | .saving | .draining => true | _ => false)

/-- What an image access gives: the key, or the stop; a page fault is one of context 0. -/
def withImage (n access : Nat) (s : State) (f : Nat → State → Except Stop State) : Except Stop State :=
  match s.imageAt n access with
  | .error (.page va access reason level info) => .ok (s.enterPageWait 0 va access reason level info)
  | .error e => .error e
  | .ok (key, s1) => f key s1

/-- SPILL (R163). -/
def spill (word : Word) (d : RegCode) (s : State) : Except Stop State :=
  match spillOperand word d s with
  | .error e => .error e
  | .ok (n, scr) =>
    if unspillable s n then .ok (s.complete [d.toNat] d.toNat 1)
    else if s.me.codelet then .error (.trap 0x0C word)
    else withImage n 1 s fun key s1 => .ok ((s1.evict (s.here * 64 + n) key).startSpill d.toNat n key scr false)

/-- SPILL (R163). -/
def execSpill (d : RegCode) (s : State) : Host.Outcome State Fault Refusal := s.finish (spill (Instr.spill d).word d s)

/-- RESUME (R166). -/
def resume (word : Word) (d : RegCode) (s : State) : Except Stop State :=
  match spillOperand word d s with
  | .error e => .error e
  | .ok (n, scr) =>
    if (s.slot (s.here * 64 + n)).phase ≠ .free then .ok (s.complete [d.toNat] d.toNat 1)
    else withImage n 0 s fun key s1 =>
      let limit := fld (s1.read64 (key + 0x30)) 16 8
      match s1.freeWindow s.here limit with
      | none => .ok (s1.complete [d.toNat] d.toNat 1)
      | some base =>
        if s1.me.codelet then s1.keepWalk (.error (.trap 0x0C word))
        else .ok ((s1.modSlot (s.here * 64 + n) fun sl =>
          { sl.vacated with phase := .reserved, base := base, limit := limit, ctx := fld (s1.read64 (key + 0x18)) 0 9 }).startSpill d.toNat n key scr true)

/-- RESUME (R166). -/
def execResume (d : RegCode) (s : State) : Host.Outcome State Fault Refusal := s.finish (resume (Instr.resume d).word d s)

/-! ## Events -/

/-- SPILL_COMPLETE (R163): every write is acknowledged, the window is released, and the issuer goes on with 0. -/
def spillComplete (m : Nat) (s : State) : State :=
  match s.spills.find? fun o => o.id == m with
  | some o =>
    if o.resume then s
    else
      let s1 := if o.scr then s.saveRegions o.core (o.saveBase + 0x20000) else s
      (s1.modSlot (o.core * 64 + o.slot) fun sl => sl.vacated).endSpill o
  | none => s

/-- SPILL_COMPLETE (R163). -/
def execSpillComplete (m : Nat) (s : State) : Host.Outcome State Fault Refusal := .next (spillComplete m s)

/-- A restored slot waits on only for what will still be told to it: a register, an answer, its counters or tokens. Any other park is
met again when the instruction issues again (R163, R166, R254). -/
def restoredPark (sl : Slot) : Phase × Park :=
  if sl.phase = .parked then
    match sl.park with
    | .none | .queue _ | .word _ | .mailbox | .ring => (.ready, .none)
    | p => (.parked, p)
  else (.ready, .none)

/-- The bindings of a thread that is restored on another core: every queue unbound, each that was bound marked, so that its first use
traps (R198; log entry 31, DEDUCED). -/
def lostBinds (sl : Slot) : Word :=
  (List.range 4).foldl (fun w n => if sl.isBound n || sl.lostBind n then w ||| (1#64 <<< (16 * n + 14)) else w) 0

/-- The thread of an image at a key is restored into reserved slot n of core c (R166, R198, R179). On another core than the one that
spilled it, it is a new thread to every agent that still answers the image: the queues bound to it there stay held until the image is
dropped (log entry 64, DESIGN CHOICE), its kernel counts it where it did, and a guest at its origin (R229). -/
def restoreThread (c n key : Nat) (s : State) : State :=
  let t := c * 64 + n
  let e := s.evicted.find? (·.key == key)
  let own := e.any (·.core == c)
  let rest := (e.map (·.rest)).getD {}
  let img := imageSlot s key rest
  let w := s.slot t
  let p := restoredPark img
  let sl : Slot :=
    if own then { img with phase := p.1, park := p.2, base := w.base, limit := w.limit, lastIssue := w.lastIssue, yield := none }
    else { img with
      phase := .ready, park := .none, wait := none, uid := s.nextId, base := w.base, limit := w.limit, lastIssue := w.lastIssue
      yield := none, binds := lostBinds img, countAt := if rest.guest then rest.countAt else e.map fun x => x.rest.countAt.getD x.core }
  let full := s.read (key + 0x100) 16
  let s1 : State := { s with
    nextId := s.nextId + boolNat (!own)
    evicted := if own then s.evicted.filter fun x => x.key != key
      else s.evicted.map fun x => if x.key = key then { x with rest := { x.rest with discarded := true } } else x
    names := s.names.map fun y => match y.2.state with
      | .image k v => if k = key ∧ y.1 / 512 = c then (y.1, { y.2 with state := .live n v }) else y
      | _ => y }
  let s2 := (List.range w.limit).foldl (fun (x : State) v =>
    (x.setRegValue t v (s.read64 (key + 0x120 + 8 * v))).setRegFull t v (full.testBit v)) (s1.setSlot t sl)
  match (if own then none else e) with
  | some x => s2.forgetTiles x.core (·.uid == x.rest.uid)
  | none => s2

/-- RESUME_COMPLETE (R166): the image and, with SCR, the regions are restored, the issuer goes on with 0, and a pending trap is
taken. -/
def resumeComplete (m : Nat) (s : State) : State :=
  match s.spills.find? fun o => o.id == m with
  | some o =>
    if !o.resume then s
    else
      let t := o.core * 64 + o.slot
      let s1 := restoreThread o.core o.slot o.key s
      let s2 := if o.scr then s1.restoreRegions o.core (o.saveBase + 0x20000) true 32 else s1
      let s3 := s2.endSpill o
      match (s3.slot t).pend with
      | [] => s3
      | p :: r => (s3.modSlot t fun sl => { sl with pend := r }).takeTrap t p.1 p.2
  | none => s

/-- RESUME_COMPLETE (R166). -/
def execResumeComplete (m : Nat) (s : State) : Host.Outcome State Fault Refusal := .next (resumeComplete m s)

end Sys2Proof.Machine
end

