-- ==== Sys2Proof/Machine/Context.lean ====
section
/-! DEFINITION. Contexts (R149 to R152, R209): the commands of CTXCMD, a context that goes FREE, and the clock gating of idle
cores (R17). -/
namespace Sys2Proof.Machine

/-! ## The context table and the partition table -/

namespace State

/-- The walk that the launch controller of die 0 makes for n bytes of a table of context 0 counts (R250; log entry 43, DEDUCED). -/
def tableHeat (s : State) (a : Word) (n : Nat) (write : Bool) : State := s.plainHeat (.ctrl 0) 0 saveRights a n write

/-- Words of a table of context 0 from an address, read by an agent; a word that cannot be read is undefined (log entry 25, DEDUCED). -/
def tableWords (s : State) (a : Word) (n : Nat) : List Word :=
  (List.range n).map fun i => match s.plainKey 0 saveRights (a + ofNat (8 * i)) 8 false with
    | some key => s.read64 key
    | none => Config.freeWord (s.fresh + i)

/-- The address of entry i of the context table (R150). -/
def ctxEntry (s : State) (i : Nat) : Word := s.ctxBase + ofNat (64 * i)

/-- STATE of entry i in the table (R150, R151; log entry 25, DEDUCED). -/
def writeCtxState (s : State) (i v : Nat) : State :=
  let s1 := s.tableHeat (s.ctxEntry i) 8 true
  match s.plainKey 0 saveRights (s.ctxEntry i) 8 true with
  | some key => s1.put64 key (setFld (s.read64 key) 0 2 v)
  | none => s1

end State

/-- A rectangle that keeps R199: in range, corners in order. -/
def rectValid (r : Rect) : Bool := decide (r.x1 ≤ 31) && decide (r.y1 ≤ 39) && decide (r.x0 ≤ r.x1) && decide (r.y0 ≤ r.y1)

/-- Two rectangles share a core. -/
def rectsMeet (a b : Rect) : Bool :=
  decide (a.x0 ≤ b.x1) && decide (b.x0 ≤ a.x1) && decide (a.y0 ≤ b.y1) && decide (b.y0 ≤ a.y1)

/-- A partition entry of four words and a PART word admit launches for context i (R209). Context 0 is never activated and has copied
no entry (R149). -/
def partitionUsable (s : State) (i : Nat) (part : Word) (p : List Word) : Bool :=
  let w (j : Nat) : Word := p.getD j 0
  let r := State.rectOf (w 0)
  bitAt (w 0) 63 && fld (w 0) 32 31 == 0 && fld (w 1) 24 8 == 0 && fld (w 1) 48 16 == 0 && fld (w 2) 32 32 == 0 && w 3 == 0
  && fld (w 1) 0 16 != 0 && fld (w 1) 16 8 != 0 && rectValid r && fld part 0 32 == fld (w 0) 0 32
  && !s.ctxs.any fun e =>
    e.1 != 0 && e.1 != i && e.2.state != 0 && fld e.2.part 32 4 != fld part 32 4 && rectsMeet r (State.rectOf e.2.entry0)

/-- The effect of ACTIVATE on a FREE context: translations tagged with it go, and its entries are read (R151, R209). -/
def activate (i : Nat) (s : State) : State :=
  let e := s.tableWords (s.ctxEntry i) 5
  let part := e.getD 2 0
  let pa := s.partBase + ofNat (32 * fld part 32 4)
  let p := (s.freed 5).tableWords pa 4
  let rec0 : CtxRec :=
    { state := 1, root := e.getD 1 0, part := part, handler := e.getD 3 0, save := e.getD 4 0, entry0 := p.getD 0 0, entry1 := p.getD 1 0
      entry2 := p.getD 2 0, placeable := partitionUsable s i part p }
  let s0 := (s.tableHeat (s.ctxEntry i) 40 false).tableHeat pa 32 false
  let s1 : State := { s0.freed 9 with cores := s.cores.map fun c => (c.1, { c.2 with tlb := c.2.tlb.filter fun t => t.ctx != i }) }
  (s1.modCtx i fun _ => rec0).writeCtxState i 1

/-- The command in force has taken effect, refused or not; ERR stays set until software clears it (log entry 42, DESIGN CHOICE). -/
def commandDone (err : Bool) (s : State) : State := { s with ctxCmdDone := true, ctxCmdErr := s.ctxCmdErr || err }

/-- CTX_ACTIVATE (R151). Context 0 is live from start on (R149). -/
def ctxActivate (s : State) : State :=
  match s.ctxCmd with
  | some (1, i) =>
    if s.ctxCmdDone then s
    else if i = 0 ∨ (s.ctx i).state ≠ 0 then commandDone true s
    else commandDone false (activate i s)
  | _ => s

/-- CTX_ACTIVATE (R151). -/
def execCtxActivate (s : State) : Host.Outcome State Fault Refusal := .next (ctxActivate s)

/-- CTX_DRAIN (R151). A DRAIN of a DRAINING context changes nothing; one of context 0, which stays live (R149), is refused (log entry
25). -/
def ctxDrain (s : State) : State :=
  match s.ctxCmd with
  | some (2, i) =>
    if s.ctxCmdDone then s
    else if i = 0 ∨ (s.ctx i).state = 0 then commandDone true s
    else if (s.ctx i).state = 1 then commandDone false ((s.modCtx i fun c => { c with state := 2 }).writeCtxState i 2)
    else commandDone false s
  | _ => s

/-- CTX_DRAIN (R151). -/
def execCtxDrain (s : State) : Host.Outcome State Fault Refusal := .next (ctxDrain s)

/-- CTX_COMMAND_COMPLETE (R151): every core has acknowledged the command. -/
def ctxCommandComplete (s : State) : State := if s.ctxCmdDone then { s with ctxCmd := none, ctxCmdDone := false } else s

/-- CTX_COMMAND_COMPLETE (R151). -/
def execCtxCommandComplete (s : State) : Host.Outcome State Fault Refusal := .next (ctxCommandComplete s)

/-- Nothing of context i runs any more: no thread, nor a slot kept for one that comes or goes, no kernel being placed, no packet, no
message (R151, R231). -/
def ctxIdle (s : State) (i : Nat) : Bool :=
  s.slots.all (fun e => e.2.phase == .free || e.2.ctx != i) && s.kernels.all (fun k => k.2.state != 2 || k.2.ctx != i)
  && s.cores.all (fun c => c.2.tasks.all (·.ctx != i) && c.2.waiting.all (·.ctx != i) && c.2.held.all (·.1.ctx != i)
    && c.2.heldOps.all (·.2.ctx != i) && c.2.arms.all (·.1.ctx != i))
  && s.net.all (·.ctx != i) && s.outstanding.all (·.ctx != i) && s.barWaits.all (·.req.ctx != i)

/-- A context's objects return to their reset values as it goes FREE: its names in every state (R169), barriers (R233), domains (R334),
reservations (R279), sequencers tagged with it (R347). -/
def clearContext (i : Nat) (s : State) : State :=
  let s1 := (s.names.filter fun e => e.2.ctx == i && e.2.state != .free).foldl
    (fun (x : State) e => x.freeName (e.1 / 512) (e.1 % 512)) s
  { s1 with
    barriers := s1.barriers.filter fun b => b.2.tag != i
    domains := s1.domains.filter fun d => d.ctx != i
    flows := s1.flows.filter fun f => f.1 / 256 != i
    cores := s1.cores.map fun c => (c.1, { c.2 with
      domains := c.2.domains.filter fun d => d.ctx != i, seq := if c.2.seq.tag = some i then {} else c.2.seq }) }

/-- CONTEXT_FREE (R151): the last thread of a DRAINING context is gone, its images are discarded and its pages released. -/
def contextFree (i : Nat) (s : State) : State :=
  if (s.ctx i).state = 2 ∧ ctxIdle s i then
    let s1 := (s.evicted.filter fun e => (imageSlot s e.key e.rest).ctx == i).foldl (fun (x : State) e => x.dropImage e) s
    ((clearContext i s1).modCtx i fun _ => {}).writeCtxState i 0
  else s

/-- CONTEXT_FREE (R151). -/
def execContextFree (i : Nat) (s : State) : Host.Outcome State Fault Refusal := .next (contextFree i s)

/-! ## Clock gating (R17) -/

/-- CLOCK_GATE (R17). -/
def clockGate (c : Nat) (s : State) : State :=
  if s.coreIdle c && decide (c < Config.cores) then s.modCore c fun r => { r with gated := true } else s

/-- CLOCK_GATE (R17). -/
def execClockGate (c : Nat) (s : State) : Host.Outcome State Fault Refusal := .next (clockGate c s)

/-- CLOCK_UNGATE (R17): a core leaves gating as a message reaches it, or as the power controller chooses. -/
def execClockUngate (c : Nat) (s : State) : Host.Outcome State Fault Refusal := .next (s.modCore c fun r => { r with gated := false })

end Sys2Proof.Machine
end

