-- ==== Sys2Proof/Machine/Device.lean ====
section
/-! DEFINITION. The device control block (R388 to R393), ownership, launches from outside, the start sequence (R394 to R397),
device-fatal faults (R398, R399) and health (R400, R401). -/
namespace Sys2Proof.Machine

/-- The number of a master (R388). -/
def Master.code : Master → Nat
  | .host => 1
  | .rack => 2
  | .board => 3

namespace State

/-- s with the control block changed. -/
def modDev (s : State) (f : Device → Device) : State := { s with dev := f s.dev }
/-- A refused write (R388, R389). -/
def deny (s : State) : State := s.modDev fun d => { d with deny := (d.deny + 1) % 65536 }
/-- A master reaches the package: the rack scheduler unless step 10 left its ports down (R397). -/
def reaches (s : State) (m : Master) : Bool := m != .rack || !s.dev.portsDown
/-- A master is the owner. -/
def isOwner (s : State) (m : Master) : Bool := s.dev.own == m.code

end State

/-! ## Ownership (R389) -/

/-- OWN changes hands: EPOCH + 1. -/
def newOwner (o : Nat) (s : State) : State := s.modDev fun d => { d with own := o, epoch := (d.epoch + 1) % 65536 }

/-- OWN_CLAIM (R389). -/
def ownClaim (who : Master) (force : Bool) (epoch : Nat) (s : State) : State :=
  if !s.reaches who then s
  else if force then (if who = .board then newOwner who.code s else s.deny)
  else if s.dev.own = 0 ∧ epoch % 65536 = s.dev.epoch then newOwner who.code s
  else s.deny

/-- OWN_CLAIM (R389). -/
def execOwnClaim (who : Master) (force : Bool) (epoch : Nat) (s : State) : Host.Outcome State Fault Refusal :=
  .next (ownClaim who force epoch s)

/-- OWN_HAND_OVER (R389). -/
def ownHandOver (who : Master) (dst epoch : Nat) (s : State) : State :=
  if !s.reaches who then s
  else if s.isOwner who && epoch % 65536 == s.dev.epoch && dst % 4 != 0 then newOwner (dst % 4) s
  else s.deny

/-- OWN_HAND_OVER (R389). -/
def execOwnHandOver (who : Master) (dst epoch : Nat) (s : State) : Host.Outcome State Fault Refusal :=
  .next (ownHandOver who dst epoch s)

/-- OWN_RELEASE (R389). -/
def ownRelease (who : Master) (epoch : Nat) (s : State) : State :=
  if !s.reaches who then s
  else if s.isOwner who && epoch % 65536 == s.dev.epoch then newOwner 0 s
  else s.deny

/-- OWN_RELEASE (R389). -/
def execOwnRelease (who : Master) (epoch : Nat) (s : State) : Host.Outcome State Fault Refusal := .next (ownRelease who epoch s)

/-! ## Launches from outside (R390, R391) -/

/-- A packet from a master is submitted: its answer, and the state (R390). -/
def submit (who : Master) (port : Nat) (pk : List Word) (s : State) : Word × State :=
  if s.dev.startState ≠ 1 then (0xFFFFFFFFFFFFFFFD, s) else s.acceptPacket pk who.code port

/-- LQPUT_GO (R390): the packet of LQBUF; the answer goes to LQANS. -/
def lqputGo (who : Master) (s : State) : State :=
  if !s.reaches who then s
  else if !s.isOwner who then s.deny
  else
    let r := submit who 0 s.dev.lqBuf s
    r.2.modDev fun d => { d with lqAns := r.1 }

/-- LQPUT_GO (R390). -/
def execLqputGo (who : Master) (s : State) : Host.Outcome State Fault Refusal := .next (lqputGo who s)

/-- MANAGEMENT_LAUNCH (R390): the rack scheduler's packet, answered in the reply on its port. -/
def managementLaunch (port : Nat) (packet : BitVec 512) (s : State) : State :=
  if !s.reaches .rack then s
  else if !s.isOwner .rack then s.deny
  else
    let pk := (List.range 8).map fun i => packet.extractLsb' (64 * i) 64
    let r := submit .rack port pk s
    { r.2 with signals := r.2.signals ++ [(3, port, [r.1])] }

/-- MANAGEMENT_LAUNCH (R390). -/
def execManagementLaunch (port : Nat) (packet : BitVec 512) (s : State) : Host.Outcome State Fault Refusal :=
  .next (managementLaunch port packet s)

/-- NOTE_READ (R391). -/
def execNoteRead (s : State) : Host.Outcome State Fault Refusal := .next { s with notes := s.notes.drop 1 }

/-- BNOTE_READ (R391). -/
def execBnoteRead (s : State) : Host.Outcome State Fault Refusal := .next { s with bnotes := s.bnotes.drop 1 }

/-! ## Writes to the block (R388, R392, R393) -/

/-- A word of DBGSTOP is written (R393). -/
def writeDbgstop (word : Nat) (value : Word) (s : State) : State :=
  if 20 ≤ word then s
  else
    let put (x : Store Bool) (b : Nat) : Store Bool := Store.set false x (64 * word + b) (bitAt value b)
    s.modDev fun d => { d with stopped := (List.range 64).foldl put d.stopped }

/-- DBGSTOP_WRITE (R393). -/
def dbgstopWrite (who : Master) (word : Nat) (value : Word) (s : State) : State :=
  if !s.reaches who then s else if s.isOwner who then writeDbgstop word value s else s.deny

/-- DBGSTOP_WRITE (R393). -/
def execDbgstopWrite (who : Master) (word : Nat) (value : BitVec 64) (s : State) : Host.Outcome State Fault Refusal :=
  .next (dbgstopWrite who word value s)

/-- A write to OWNCMD (R388, R389). -/
def writeOwnCmd (who : Master) (v : Word) (s : State) : State :=
  match fld v 0 2 with
  | 1 => ownClaim who (bitAt v 2) (fld v 16 16) s
  | 2 => ownHandOver who (fld v 4 2) (fld v 16 16) s
  | 3 => ownRelease who (fld v 16 16) s
  | _ => s.deny

/-- REGISTER_WRITE (R388): a write of a 64-bit register of the block. Writable are OWNCMD by its own rule, PKGNUM also for the board
controller, and LQPUT, LQBUF and DBGSTOP for the owner; an owner's write to any other register is ignored. -/
def registerWrite (who : Master) (offset : Nat) (value : Word) (s : State) : State :=
  if !s.reaches who then s
  else if offset = 0x010 then writeOwnCmd who value s
  else if offset = 0x040 ∧ who = .board then setPkgNum value s
  else if !s.isOwner who then s.deny
  else if offset = 0x040 then setPkgNum value s
  else if offset = 0x038 then (if bitAt value 0 then lqputGo who s else s)
  else if 0x100 ≤ offset ∧ offset < 0x140 ∧ offset % 8 = 0 then
    s.modDev fun d => { d with lqBuf := d.lqBuf.set ((offset - 0x100) / 8) value }
  else if 0x300 ≤ offset ∧ offset < 0x3A0 ∧ offset % 8 = 0 then writeDbgstop ((offset - 0x300) / 8) value s
  else s
where
  /-- PKGNUM takes NUM and V (R392). -/
  setPkgNum (v : Word) (s : State) : State := s.modDev fun d => { d with pkgReg := fld v 0 6, pkgValid := bitAt v 8 }

/-- REGISTER_WRITE (R388). -/
def execRegisterWrite (who : Master) (offset : Nat) (value : BitVec 64) (s : State) : Host.Outcome State Fault Refusal :=
  .next (registerWrite who offset value s)

/-! ## The start sequence (R394 to R397) -/

/-- How a step runs at a start (R395). -/
inductive StepPath where
  | primary | alternate | absent | skip
  deriving DecidableEq, Repr

/-- Steps that may be skipped (R394). -/
def skippable (k : Nat) : Bool := [4, 9, 10, 11].contains k
/-- Steps with an alternate path (R394). -/
def hasAlternate (k : Nat) : Bool := [1, 3, 4, 5, 6, 7, 8].contains k

/-- The path of step k after its previous result (R395). -/
def stepPath (prev k : Nat) : StepPath :=
  if prev = 2 then (if hasAlternate k then .alternate else .absent)
  else if prev = 4 ∧ skippable k then .skip
  else .primary

/-- The result of step k on a path (R395, R392, R397). -/
def stepResult (o : StartOutcome) (valid : Bool) (k : Nat) (p : StepPath) : Nat :=
  let fails := o.fails.contains k || (k == 4 && !o.engineFaulty.isEmpty)
  if k = 9 ∧ !valid then 5
  else match p with
    | .skip => 5
    | .absent => 4
    | .primary => if fails then 2 else 1
    | .alternate => if fails then 4 else 3

/-- The movement slots: slot 63 of every on-line core, parked on its empty mailbox, with the default microcode (R145, R153, R155). -/
def startMovers (o : StartOutcome) (s : State) : State :=
  let on := (List.range Config.cores).filter fun c => !s.isOffline c
  { s with
    nextId := s.nextId + Config.cores
    slots := on.map fun c => (c * 64 + 63, { phase := .parked, park := .mailbox, uid := s.nextId + c, mode := 2, limit := o.moverWindow })
    cores := on.map fun c => (c, { s.coreRec c with defaultMover := true }) }

/-- The links after step 9 (R392, R397); a nibble that changes is an event (R281). -/
def startLinks (passed : Bool) (s : State) : State :=
  let l : LinkRec := if passed then { width := 0, up := true } else { width := 3 }
  (List.range 12).foldl (fun (x : State) i => x.changeLink i fun _ => l)
    { s with inPod := passed, pkgNum := if passed then s.dev.pkgReg else 0, unreachable := [] }

/-- The pager firmware on a core: its words, and what it sets there (R394 step 8; log entry 36, DESIGN CHOICE). -/
def loadFirmware (f : Firmware) (s : State) (c : Nat) : State :=
  (if f.offset + 8 * f.words.length ≤ Config.spadSize then s.writeWords (spadKey c f.offset) f.words else s).modCore c fun r =>
    { r with pageVec := f.pageVec % 2 ^ 21, taskCfg := ofNat (fld f.taskCfg 0 60), taskWin := f.taskWin % 16 }

/-- Step 8: the pager cores of the outcome, or the default ones, each with the firmware (R11, R394). -/
def startPagers (o : StartOutcome) (s : State) : State :=
  let s1 : State := match o.pagers with
    | none => s
    | some l => { s with pagers := l.foldl (fun (x : Store (List Nat)) e => Store.set [0, 24] x e.1 ((e.2.filter (· < 32)).take 4)) [] }
  ((List.range Config.cores).filter fun c => s1.isPager c && !s1.isOffline c).foldl (loadFirmware o.firmware) s1

/-- What step k leaves after a result (R394, R397). Step 12 makes context 0 live (R149); it reads no entry of a table, and ROOT, PART, HANDLER
and SAVE of context 0 stay 0 (log entry 59, DESIGN CHOICE). -/
def stepEffect (o : StartOutcome) (k r : Nat) (s : State) : State :=
  let passed := r == 1 || r == 3
  let off (l : List Nat) (x : State) : State :=
    { x with offline := x.offline ++ l.filter fun c => decide (c < Config.cores) && !x.offline.contains c }
  match k with
  | 3 => off o.faulty s
  | 4 => if passed then s else off o.engineFaulty s
  | 7 => if passed then startMovers o s else s
  | 8 => if passed then startPagers o s else s
  | 9 => startLinks passed s
  | 10 => s.modDev fun d => { d with portsDown := !passed }
  | 11 => s.modDev fun d => { d with baseline := passed }
  | 12 => if passed then
      { s with ctxs := Store.set {} s.ctxs 0 { s.ctx 0 with state := 1 } }.modDev fun d => { d with startState := 1, startStep := 0 }
    else s
  | _ => s

/-- The steps of a list, each by its path; a step that may not be skipped and fails ends the start (R394 to R397). -/
def startSteps (o : StartOutcome) (prev : Word) (s : State) : List Nat → State
  | [] => s
  | k :: l =>
    let r := stepResult o s.dev.pkgValid k (stepPath (fld prev (4 * k - 4) 4) k)
    let i := s.dev.startNum % 32
    let s1 := stepEffect o k r (s.modDev fun d =>
      { d with startStep := k, log := Store.set {} d.log i { Store.get {} d.log i with results := setFld (Store.get {} d.log i).results (4 * k - 4) 4 r } })
    if (r = 2 ∨ r = 4) ∧ !skippable k then s1.modDev fun d => { d with startState := 2, startStep := k }
    else startSteps o prev s1 l

/-- Off-line cores are power-gated, and those that come back count their cycles from 0 (R14, R25). -/
def leavePowerGating (s : State) : State := s.offline.foldl (fun (x : State) c => x.modCore c fun r => { r with cycle := 0 }) s

/-- START_SEQUENCE (R394 to R397): a new start, unless the device runs (log entry 35, DEDUCED). The previous record is the entry of
NUM - 1, if it is that start's. -/
def startSequence (o : StartOutcome) (s : State) : State :=
  if s.dev.startState = 1 then s
  else
    let n := (s.dev.startNum + 1) % 2 ^ 32
    let p := Store.get {} s.dev.log (s.dev.startNum % 32)
    let prev := if p.num = s.dev.startNum then p.results else 0
    let s1 : State := { leavePowerGating s with
      offline := [], pagers := []
      dev := { s.dev with
        startNum := n, startState := if s.dev.startState = 3 then 3 else 0, startStep := 1, stopped := [], health := [], baseline := false
        portsDown := false, log := Store.set {} s.dev.log (n % 32) { num := n } } }
    startSteps o prev s1 [1, 2, 3, 4, 5, 6, 7, 8, 9, 10, 11, 12]

/-- START_SEQUENCE (R394). -/
def execStartSequence (outcome : StartOutcome) (s : State) : Host.Outcome State Fault Refusal := .next (startSequence outcome s)

/-- Memory of undefined contents (R5), in canonical form. -/
def undefinedMemory (n : Nat) : Memory := (Config.freeBytes n).foldl (fun (m : Memory) c => m.put c.1 c.2) []

/-- POWER_ON (R394): everything at its reset value but the non-volatile log and its newest number; memory is undefined (R16). The
model's own agenda and numbers go on. -/
def powerOn (s : State) : State :=
  { State.reset with
    agenda := s.agenda, core := s.core, fresh := s.fresh + 1, nextId := s.nextId, mem := undefinedMemory s.fresh
    dev := { log := s.dev.log, startNum := s.dev.startNum } }

/-- POWER_ON (R394). -/
def execPowerOn (s : State) : Host.Outcome State Fault Refusal := .next (powerOn s)

/-! ## Device-fatal faults (R398, R231) -/

/-- The word of a kernel that a fatal fault ends: what its members reported, every other member discarded, DISC = 1 (R231, R225). -/
def fatalStatus (k : Nat) (s : State) : Word :=
  let r := s.kernelRec k
  let open_ := r.granted.filter fun c => !r.reported.contains c
  let w := open_.foldl (fun (w : Word) c => combine w (s.kernelCore k c).status) r.status
  let n := (open_.map fun c => (s.kernelCore k c).alive).foldl (· + ·) 0 + r.joins
  combine w (pack [(min n 0xFFFFFF, 24, 24), (1, 61, 1), (1, 63, 1)])

/-- The word of a launch that a fatal fault discards before it is committed: refused with reason 9, DISC = 1 (R222, R231; log entry 52,
DEDUCED). -/
def discardedStatus : Word := refusalStatus 9 ||| pack [(1, 61, 1)]

/-- A kernel that is not RETIRED becomes so; no delivery is made (R231, R398). One still QUEUED or PLACING is refused with reason 9, which
its report carries (R222). -/
def fatalKernel (s : State) (k : Nat) : State :=
  let early := decide ((s.kernelRec k).state ≤ 2)
  let w := if early then discardedStatus else fatalStatus k s
  let s0 := if early then (s.modKernel k fun r => { r with reason := 9 }).report k 0 else s
  let s1 := s0.modKernel k fun r => { r with state := 5, status := w }
  ({ s1 with retired := s1.retired ++ [k] } : State).notice k w

/-- DEVICE_FATAL (R398): all work is discarded and the device awaits its restart with STATE 3. Ownership, PKGNUM, LQANS, the kernel table, the
notices and the log stay (log entry 35, DEDUCED); everything else returns to its reset value, and memory is undefined. -/
def deviceFatal (cause : Nat) (s : State) : State :=
  if cause < 1 ∨ 4 < cause then s
  else
    let s1 := ((s.kernels.filter fun e => e.2.state != 0 && e.2.state != 5).map (·.1)).foldl fatalKernel s
    let d := s1.dev
    let i := d.startNum % 32
    { State.reset with
      agenda := s1.agenda, core := s1.core, fresh := s1.fresh + 1, nextId := s1.nextId, mem := undefinedMemory s1.fresh
      offline := s1.offline, pagers := s1.pagers, pkgNum := s1.pkgNum
      ctxs := s1.ctxs.filter fun e => e.1 == 0
      kernels := s1.kernels, retired := s1.retired, notes := s1.notes, bnotes := s1.bnotes, noteLost := s1.noteLost, bnoteLost := s1.bnoteLost
      signals := s1.signals ++ [(1, 0, []), (3, 0, [])]
      dev := {
        own := d.own, epoch := d.epoch, deny := d.deny, lqAns := d.lqAns, portsDown := d.portsDown, pkgReg := d.pkgReg, pkgValid := d.pkgValid, startNum := d.startNum, startState := 3
        fatalCause := cause, fatalCount := (d.fatalCount + 1) % 65536
        log := if (Store.get {} d.log i).num = d.startNum then Store.set {} d.log i { Store.get {} d.log i with fatal := cause } else d.log } }

/-- DEVICE_FATAL (R398). -/
def execDeviceFatal (cause : Nat) (s : State) : Host.Outcome State Fault Refusal := .next (deviceFatal cause s)

/-- LAUNCH_CONTROLLER_TIMEOUT (R398). -/
def execLaunchControllerTimeout (d : Nat) (s : State) : Host.Outcome State Fault Refusal := .next (if d < 4 then deviceFatal 4 s else s)

/-- TEMPERATURE_TRIP (R401). -/
def execTemperatureTrip (d : Nat) (s : State) : Host.Outcome State Fault Refusal := .next (if d < 4 then deviceFatal 3 s else s)

/-! ## Health (R400) -/

/-- HEALTH_UPDATE (R400): ROD and LIFE only with a baseline (R397). -/
def healthRecord (d : Nat) (x : Reading) (s : State) : State :=
  if d < 4 ∧ s.dev.startState = 1 then
    s.modDev fun v =>
      let old := Store.get {} v.health d
      { v with health := Store.set {} v.health d {
        rod := if v.baseline then x.rod % 65536 else 0, sramm := x.sramm % 65536, eye := x.eye % 65536, refr := x.refr % 65536
        life := if v.baseline then x.life % 65536 else 0xFFFF, temp := x.temp % 65536, warn := old.warn || decide (950 < x.temp % 65536) } }
  else s

/-- HEALTH_UPDATE (R400). -/
def execHealthUpdate (d : Nat) (reading : Reading) (s : State) : Host.Outcome State Fault Refusal := .next (healthRecord d reading s)

/-- HEALTH_RECORD_READ (R400): the read clears WARN. -/
def healthRead (d : Nat) (s : State) : State :=
  if 4 ≤ d then s
  else s.modDev fun v => { v with health := Store.set {} v.health d { Store.get {} v.health d with warn := false } }

/-- HEALTH_RECORD_READ (R400). -/
def execHealthRecordRead (d : Nat) (s : State) : Host.Outcome State Fault Refusal := .next (healthRead d s)

/-- The registers of the block as a master reads them (R388): the 64-bit register at an offset. -/
def blockWord (s : State) (offset : Nat) : Word :=
  let d := s.dev
  let h (i : Nat) : Health := Store.get {} d.health i
  let r (i : Nat) : StartRecord := Store.get {} d.log i
  let queue (l : List Nat) (lost : Nat) : Word := pack [(l.headD 0, 0, 32), (boolNat (!l.isEmpty), 32, 1), (lost, 48, 16)]
  if offset % 8 ≠ 0 then 0
  else if offset = 0x000 then 0x000000B100964557
  else if offset = 0x008 then pack [(d.own, 0, 2), (d.epoch, 16, 16), (d.deny, 32, 16)]
  else if offset = 0x018 then pack [(d.startNum, 0, 32), (d.startState, 32, 4), (d.startStep, 36, 4)]
  else if offset = 0x020 then pack [(d.fatalCause, 0, 8), (d.fatalCount, 8, 16)]
  else if offset = 0x028 then queue s.notes s.noteLost
  else if offset = 0x030 then d.lqAns
  else if offset = 0x040 then pack [(d.pkgReg, 0, 6), (boolNat d.pkgValid, 8, 1)]
  else if offset = 0x048 then queue s.bnotes s.bnoteLost
  else if 0x100 ≤ offset ∧ offset < 0x140 then d.lqBuf.getD ((offset - 0x100) / 8) 0
  else if 0x200 ≤ offset ∧ offset < 0x240 then
    let x := h ((offset - 0x200) / 16)
    if offset % 16 = 0 then pack [(x.rod, 0, 16), (x.sramm, 16, 16), (x.eye, 32, 16), (x.refr, 48, 16)]
    else pack [(x.life, 0, 16), (x.temp, 16, 16), (boolNat x.warn, 32, 1)]
  else if 0x300 ≤ offset ∧ offset < 0x3A0 then
    pack ((List.range 64).map fun b => (boolNat (Store.get false d.stopped ((offset - 0x300) * 8 + b)), b, 1))
  else if 0x400 ≤ offset ∧ offset < 0x600 then
    let x := r ((offset - 0x400) / 16)
    if offset % 16 = 0 then pack [(x.num, 0, 32), (x.fatal, 32, 8)] else x.results
  else 0

/-! ## Answers -/

/-- WAIT_STORE_SERVE (R272): a full/empty request or a CALLAT of a core's wait store is served; barrier waits are served as the barrier
releases them. -/
def waitStoreServe (m : Nat) (s : State) : State :=
  match s.cores.find? fun e => e.2.waiting.any (·.id == m) with
  | some (c, r) => match r.waiting.find? (·.id == m) with
    | some x => match x.body with
      | .fe _ _ _ _ _ => feServe c x s
      | .callat _ => callServe c x s
      | _ => s
    | none => s
  | none => s

/-- WAIT_STORE_SERVE (R272). -/
def execWaitStoreServe (m : Nat) (s : State) : Host.Outcome State Fault Refusal := .next (waitStoreServe m s)

/-- What the answer to a delivery does, by who sent it (R175, R186, R226, R281, R346, R359). -/
def deliveryDone (x : Msg) (cause : Nat) (nm : Word) (o : Origin) (s : State) : State :=
  let refused := cause != 0
  let posted (y : State) : State := y.modThreadCounters x.uid fun sl => { sl with st := sl.st - 1 }
  match o with
  | .deliv => if refused then (posted s).pendThread x.uid cause nm else posted s
  | .retat => if refused then (posted s).modThread x.uid fun sl => { sl with status := cause } else posted s
  | .taskEnd | .line => s
  | .sequencer _ => if refused then s.modThread x.uid (recordErr (cause * 256 + 0x50)) else s
  | .query => match x.dst with
    | .core c => if refused then s.modCore c fun r => { r with regionRef := (r.regionRef + 1) % 65536 } else s
    | _ => s
  | .kernel die corner ctx report => if refused then s.writeReportAt die corner ctx report 3 [ofNat (cause * 256 + 0x8F)] else s
  | .notice w =>
    if refused && !s.linkEvents.any (fun e => State.eventKey e == State.eventKey w) then { s with linkEvents := w :: s.linkEvents } else s

/-- DELIVERY_ANSWER (R175). -/
def deliveryAnswer (m : Nat) (s : State) : State :=
  match s.response m with
  | some x => match x.body with
    | .delivered cause nm o => deliveryDone x cause nm o (s.dropMsg m)
    | _ => s
  | none => s

/-- DELIVERY_ANSWER (R175). -/
def execDeliveryAnswer (m : Nat) (s : State) : Host.Outcome State Fault Refusal := .next (deliveryAnswer m s)

end Sys2Proof.Machine
end

