-- ==== Sys2Proof/Machine/Dispatch.lean ====
section
/-! DEFINITION. The meaning of every instruction and event: one arm per constructor of Instr. -/
namespace Sys2Proof.Machine

/-- What instruction or event i does in state s. -/
def exec (i : Instr) (s : State) : Host.Outcome State Fault Refusal :=
  match i with
  | .add d a b => Sys2Proof.Machine.execAdd d a b s
  | .sub d a b => Sys2Proof.Machine.execSub d a b s
  | .and d a b => Sys2Proof.Machine.execAnd d a b s
  | .or d a b => Sys2Proof.Machine.execOr d a b s
  | .xor d a b => Sys2Proof.Machine.execXor d a b s
  | .andn d a b => Sys2Proof.Machine.execAndn d a b s
  | .sll d a b => Sys2Proof.Machine.execSll d a b s
  | .srl d a b => Sys2Proof.Machine.execSrl d a b s
  | .sra d a b => Sys2Proof.Machine.execSra d a b s
  | .rol d a b => Sys2Proof.Machine.execRol d a b s
  | .slt d a b => Sys2Proof.Machine.execSlt d a b s
  | .sltz d a b => Sys2Proof.Machine.execSltz d a b s
  | .seq d a b => Sys2Proof.Machine.execSeq d a b s
  | .min d a b => Sys2Proof.Machine.execMin d a b s
  | .max d a b => Sys2Proof.Machine.execMax d a b s
  | .minz d a b => Sys2Proof.Machine.execMinz d a b s
  | .maxz d a b => Sys2Proof.Machine.execMaxz d a b s
  | .mul d a b => Sys2Proof.Machine.execMul d a b s
  | .mulh d a b => Sys2Proof.Machine.execMulh d a b s
  | .mulhz d a b => Sys2Proof.Machine.execMulhz d a b s
  | .div d a b => Sys2Proof.Machine.execDiv d a b s
  | .divz d a b => Sys2Proof.Machine.execDivz d a b s
  | .rem d a b => Sys2Proof.Machine.execRem d a b s
  | .remz d a b => Sys2Proof.Machine.execRemz d a b s
  | .clz d a => Sys2Proof.Machine.execClz d a s
  | .ctz d a => Sys2Proof.Machine.execCtz d a s
  | .popc d a => Sys2Proof.Machine.execPopc d a s
  | .brev d a => Sys2Proof.Machine.execBrev d a s
  | .sext d a b => Sys2Proof.Machine.execSext d a b s
  | .zext d a b => Sys2Proof.Machine.execZext d a b s
  | .addi d a imm => Sys2Proof.Machine.execAddi d a imm s
  | .andi d a imm => Sys2Proof.Machine.execAndi d a imm s
  | .ori d a imm => Sys2Proof.Machine.execOri d a imm s
  | .xori d a imm => Sys2Proof.Machine.execXori d a imm s
  | .slti d a imm => Sys2Proof.Machine.execSlti d a imm s
  | .sltzi d a imm => Sys2Proof.Machine.execSltzi d a imm s
  | .slli d a sh => Sys2Proof.Machine.execSlli d a sh s
  | .srli d a sh => Sys2Proof.Machine.execSrli d a sh s
  | .srai d a sh => Sys2Proof.Machine.execSrai d a sh s
  | .roli d a sh => Sys2Proof.Machine.execRoli d a sh s
  | .lui d imm => Sys2Proof.Machine.execLui d imm s
  | .addpc d imm => Sys2Proof.Machine.execAddpc d imm s
  | .cabs d a => Sys2Proof.Machine.execCabs d a s
  | .crel d a => Sys2Proof.Machine.execCrel d a s
  | .cpack d a => Sys2Proof.Machine.execCpack d a s
  | .cx d a => Sys2Proof.Machine.execCx d a s
  | .cy d a => Sys2Proof.Machine.execCy d a s
  | .bz a off => Sys2Proof.Machine.execBz a off s
  | .bnz a off => Sys2Proof.Machine.execBnz a off s
  | .bltz a off => Sys2Proof.Machine.execBltz a off s
  | .bgez a off => Sys2Proof.Machine.execBgez a off s
  | .bgtz a off => Sys2Proof.Machine.execBgtz a off s
  | .blez a off => Sys2Proof.Machine.execBlez a off s
  | .bfull a off => Sys2Proof.Machine.execBfull a off s
  | .bempty a off => Sys2Proof.Machine.execBempty a off s
  | .jmp d imm => Sys2Proof.Machine.execJmp d imm s
  | .jmpr d a imm => Sys2Proof.Machine.execJmpr d a imm s
  | .callat t a n => Sys2Proof.Machine.execCallat t a n s
  | .retat v => Sys2Proof.Machine.execRetat v s
  | .loop c len => Sys2Proof.Machine.execLoop c len s
  | .ld d a size off => Sys2Proof.Machine.execLd d a size off s
  | .ldz d a size off => Sys2Proof.Machine.execLdz d a size off s
  | .st d a size off => Sys2Proof.Machine.execSt d a size off s
  | .lds d a ord sc => Sys2Proof.Machine.execLds d a ord sc s
  | .ldf d a ord sc => Sys2Proof.Machine.execLdf d a ord sc s
  | .sts d a ord sc => Sys2Proof.Machine.execSts d a ord sc s
  | .stf d a ord sc => Sys2Proof.Machine.execStf d a ord sc s
  | .empty a ord sc => Sys2Proof.Machine.execEmpty a ord sc s
  | .atomFadd d a ord sc => Sys2Proof.Machine.execAtomFadd d a ord sc s
  | .atomFmin d a ord sc => Sys2Proof.Machine.execAtomFmin d a ord sc s
  | .atomFmax d a ord sc => Sys2Proof.Machine.execAtomFmax d a ord sc s
  | .atomSwap d a ord sc => Sys2Proof.Machine.execAtomSwap d a ord sc s
  | .atomCas d a ord sc => Sys2Proof.Machine.execAtomCas d a ord sc s
  | .atomAnd d a ord sc => Sys2Proof.Machine.execAtomAnd d a ord sc s
  | .atomOr d a ord sc => Sys2Proof.Machine.execAtomOr d a ord sc s
  | .atomXor d a ord sc => Sys2Proof.Machine.execAtomXor d a ord sc s
  | .atomFaddf d a ord sc => Sys2Proof.Machine.execAtomFaddf d a ord sc s
  | .fence d kind sc => Sys2Proof.Machine.execFence d kind sc s
  | .waitc tl cp st ld => Sys2Proof.Machine.execWaitc tl cp st ld s
  | .waitk mask => Sys2Proof.Machine.execWaitk mask s
  | .mint d b => Sys2Proof.Machine.execMint d b s
  | .mintLd d a b => Sys2Proof.Machine.execMintLd d a b s
  | .deliv a b => Sys2Proof.Machine.execDeliv a b s
  | .revoke d a => Sys2Proof.Machine.execRevoke d a s
  | .nstat d => Sys2Proof.Machine.execNstat d s
  | .qbind q a => Sys2Proof.Machine.execQbind q a s
  | .qunbind q => Sys2Proof.Machine.execQunbind q s
  | .ticket d a => Sys2Proof.Machine.execTicket d a s
  | .rqfill v a t => Sys2Proof.Machine.execRqfill v a t s
  | .rqpop d a => Sys2Proof.Machine.execRqpop d a s
  | .rqpeek d a => Sys2Proof.Machine.execRqpeek d a s
  | .decr a b => Sys2Proof.Machine.execDecr a b s
  | .nextc => Sys2Proof.Machine.execNextc s
  | .cinit d a b => Sys2Proof.Machine.execCinit d a b s
  | .barm d a b => Sys2Proof.Machine.execBarm d a b s
  | .barv d a b => Sys2Proof.Machine.execBarv d a b s
  | .bwait d a b => Sys2Proof.Machine.execBwait d a b s
  | .barw d a b => Sys2Proof.Machine.execBarw d a b s
  | .berr d a b => Sys2Proof.Machine.execBerr d a b s
  | .bstat d a => Sys2Proof.Machine.execBstat d a s
  | .launch d a => Sys2Proof.Machine.execLaunch d a s
  | .trigger => Sys2Proof.Machine.execTrigger s
  | .done d a => Sys2Proof.Machine.execDone d a s
  | .gsplit d a b => Sys2Proof.Machine.execGsplit d a b s
  | .grank d a => Sys2Proof.Machine.execGrank d a s
  | .vadd d a b ty n => Sys2Proof.Machine.execVadd d a b ty n s
  | .vsub d a b ty n => Sys2Proof.Machine.execVsub d a b ty n s
  | .vmul d a b ty n => Sys2Proof.Machine.execVmul d a b ty n s
  | .vfma d a b ty n => Sys2Proof.Machine.execVfma d a b ty n s
  | .vfms d a b ty n => Sys2Proof.Machine.execVfms d a b ty n s
  | .vdiv d a b ty n => Sys2Proof.Machine.execVdiv d a b ty n s
  | .vsqrt d a ty n => Sys2Proof.Machine.execVsqrt d a ty n s
  | .vrsqrt d a ty n => Sys2Proof.Machine.execVrsqrt d a ty n s
  | .vmin d a b ty n => Sys2Proof.Machine.execVmin d a b ty n s
  | .vmax d a b ty n => Sys2Proof.Machine.execVmax d a b ty n s
  | .vabs d a ty n => Sys2Proof.Machine.execVabs d a ty n s
  | .vneg d a ty n => Sys2Proof.Machine.execVneg d a ty n s
  | .vexp2 d a ty n => Sys2Proof.Machine.execVexp2 d a ty n s
  | .vlog2 d a ty n => Sys2Proof.Machine.execVlog2 d a ty n s
  | .vrcp d a ty n => Sys2Proof.Machine.execVrcp d a ty n s
  | .vscale d a ty n => Sys2Proof.Machine.execVscale d a ty n s
  | .vaxpy d a b ty n => Sys2Proof.Machine.execVaxpy d a b ty n s
  | .viadd d a b ty n => Sys2Proof.Machine.execViadd d a b ty n s
  | .visub d a b ty n => Sys2Proof.Machine.execVisub d a b ty n s
  | .vimul d a b ty n => Sys2Proof.Machine.execVimul d a b ty n s
  | .vand d a b ty n => Sys2Proof.Machine.execVand d a b ty n s
  | .vor d a b ty n => Sys2Proof.Machine.execVor d a b ty n s
  | .vxor d a b ty n => Sys2Proof.Machine.execVxor d a b ty n s
  | .vshl d a b ty n => Sys2Proof.Machine.execVshl d a b ty n s
  | .vshr d a b ty n => Sys2Proof.Machine.execVshr d a b ty n s
  | .vshra d a b ty n => Sys2Proof.Machine.execVshra d a b ty n s
  | .vimin d a b ty n => Sys2Proof.Machine.execVimin d a b ty n s
  | .vimax d a b ty n => Sys2Proof.Machine.execVimax d a b ty n s
  | .vcvt d a ty n => Sys2Proof.Machine.execVcvt d a ty n s
  | .vlut d a b ty n => Sys2Proof.Machine.execVlut d a b ty n s
  | .vfill d a ty n => Sys2Proof.Machine.execVfill d a ty n s
  | .viota d ty n => Sys2Proof.Machine.execViota d ty n s
  | .vcopy d a ty n => Sys2Proof.Machine.execVcopy d a ty n s
  | .vrsum d a ty n => Sys2Proof.Machine.execVrsum d a ty n s
  | .vrmax d a ty n => Sys2Proof.Machine.execVrmax d a ty n s
  | .vrmin d a ty n => Sys2Proof.Machine.execVrmin d a ty n s
  | .vdot d a b ty n => Sys2Proof.Machine.execVdot d a b ty n s
  | .vcmp d a b ty n => Sys2Proof.Machine.execVcmp d a b ty n s
  | .vsel d a b ty n => Sys2Proof.Machine.execVsel d a b ty n s
  | .pset p g => Sys2Proof.Machine.execPset p g s
  | .pget p g => Sys2Proof.Machine.execPget p g s
  | .padv p g => Sys2Proof.Machine.execPadv p g s
  | .tcmd k a w b => Sys2Proof.Machine.execTcmd k a w b s
  | .copy k a w b => Sys2Proof.Machine.execCopy k a w b s
  | .copyr k a w b => Sys2Proof.Machine.execCopyr k a w b s
  | .copym k a w b => Sys2Proof.Machine.execCopym k a w b s
  | .rdom d a => Sys2Proof.Machine.execRdom d a s
  | .rins d a b => Sys2Proof.Machine.execRins d a b s
  | .rld d a b => Sys2Proof.Machine.execRld d a b s
  | .rst d a b => Sys2Proof.Machine.execRst d a b s
  | .rpos d a b => Sys2Proof.Machine.execRpos d a b s
  | .rdel d a => Sys2Proof.Machine.execRdel d a s
  | .rqbox a b => Sys2Proof.Machine.execRqbox a b s
  | .rqrad a b => Sys2Proof.Machine.execRqrad a b s
  | .rscan a b => Sys2Proof.Machine.execRscan a b s
  | .sqtab d a => Sys2Proof.Machine.execSqtab d a s
  | .sqcfg d a => Sys2Proof.Machine.execSqcfg d a s
  | .sqload d a b => Sys2Proof.Machine.execSqload d a b s
  | .sqstage d a b => Sys2Proof.Machine.execSqstage d a b s
  | .sqend d a => Sys2Proof.Machine.execSqend d a s
  | .sqdec d a b => Sys2Proof.Machine.execSqdec d a b s
  | .sqact d a => Sys2Proof.Machine.execSqact d a s
  | .sqhist d a => Sys2Proof.Machine.execSqhist d a s
  | .srd d num => Sys2Proof.Machine.execSrd d num s
  | .swr d num => Sys2Proof.Machine.execSwr d num s
  | .trap code => Sys2Proof.Machine.execTrap code s
  | .rte => Sys2Proof.Machine.execRte s
  | .halt => Sys2Proof.Machine.execHalt s
  | .yield => Sys2Proof.Machine.execYield s
  | .spawn d => Sys2Proof.Machine.execSpawn d s
  | .spill d => Sys2Proof.Machine.execSpill d s
  | .resume d => Sys2Proof.Machine.execResume d s
  | .pinval d size => Sys2Proof.Machine.execPinval d size s
  | .pheat d => Sys2Proof.Machine.execPheat d s
  | .pmove d => Sys2Proof.Machine.execPmove d s
  | .pmap d => Sys2Proof.Machine.execPmap d s
  | .cellres d n => Sys2Proof.Machine.execCellres d n s
  | .cellrel d n => Sys2Proof.Machine.execCellrel d n s
  | .home => Sys2Proof.Machine.execHome s
  | .linkw d w => Sys2Proof.Machine.execLinkw d w s
  | .loadReply m => Sys2Proof.Machine.execLoadReply m s
  | .storeAck m => Sys2Proof.Machine.execStoreAck m s
  | .inboundRequest m => Sys2Proof.Machine.execInboundRequest m s
  | .requestStart m => Sys2Proof.Machine.execRequestStart m s
  | .creditReturn m => Sys2Proof.Machine.execCreditReturn m s
  | .waitStoreServe m => Sys2Proof.Machine.execWaitStoreServe m s
  | .retryAnswer m => Sys2Proof.Machine.execRetryAnswer m s
  | .callatResend m => Sys2Proof.Machine.execCallatResend m s
  | .feRemoteRequest m => Sys2Proof.Machine.execFeRemoteRequest m s
  | .feAnswer m => Sys2Proof.Machine.execFeAnswer m s
  | .feWaitLimit u => Sys2Proof.Machine.execFeWaitLimit u s
  | .cancelRequest m => Sys2Proof.Machine.execCancelRequest m s
  | .cancelledAnswer m => Sys2Proof.Machine.execCancelledAnswer m s
  | .atomRequest m => Sys2Proof.Machine.execAtomRequest m s
  | .echo m => Sys2Proof.Machine.execEcho m s
  | .echoAnswer m => Sys2Proof.Machine.execEchoAnswer m s
  | .boundaryTrap t => Sys2Proof.Machine.execBoundaryTrap t s
  | .slotRetire t => Sys2Proof.Machine.execSlotRetire t s
  | .spillComplete m => Sys2Proof.Machine.execSpillComplete m s
  | .resumeComplete m => Sys2Proof.Machine.execResumeComplete m s
  | .yieldExpiry t => Sys2Proof.Machine.execYieldExpiry t s
  | .vectorExecute c => Sys2Proof.Machine.execVectorExecute c s
  | .vectorFinish c => Sys2Proof.Machine.execVectorFinish c s
  | .sequencerExecute c => Sys2Proof.Machine.execSequencerExecute c s
  | .sequencerFinish c => Sys2Proof.Machine.execSequencerFinish c s
  | .mzero c => Sys2Proof.Machine.execMzero c s
  | .mma c => Sys2Proof.Machine.execMma c s
  | .mmas c => Sys2Proof.Machine.execMmas c s
  | .mmad c => Sys2Proof.Machine.execMmad c s
  | .mstore c => Sys2Proof.Machine.execMstore c s
  | .mloadc c => Sys2Proof.Machine.execMloadc c s
  | .bload c => Sys2Proof.Machine.execBload c s
  | .brot c => Sys2Proof.Machine.execBrot c s
  | .brotWaitLimit c => Sys2Proof.Machine.execBrotWaitLimit c s
  | .tcopy c => Sys2Proof.Machine.execTcopy c s
  | .tgather c => Sys2Proof.Machine.execTgather c s
  | .tscatter c => Sys2Proof.Machine.execTscatter c s
  | .tileFinish c mover => Sys2Proof.Machine.execTileFinish c mover s
  | .copyFinish c => Sys2Proof.Machine.execCopyFinish c s
  | .copyrRunApply m => Sys2Proof.Machine.execCopyrRunApply m s
  | .multicastPacket m => Sys2Proof.Machine.execMulticastPacket m s
  | .delivery m => Sys2Proof.Machine.execDelivery m s
  | .deliveryAnswer m => Sys2Proof.Machine.execDeliveryAnswer m s
  | .lineReply m => Sys2Proof.Machine.execLineReply m s
  | .revokeRequest m => Sys2Proof.Machine.execRevokeRequest m s
  | .retargetNotice m => Sys2Proof.Machine.execRetargetNotice m s
  | .returnNotice m => Sys2Proof.Machine.execReturnNotice m s
  | .destroyNotice m => Sys2Proof.Machine.execDestroyNotice m s
  | .forwardedValue m => Sys2Proof.Machine.execForwardedValue m s
  | .callatAccept m => Sys2Proof.Machine.execCallatAccept m s
  | .taskDispatch c => Sys2Proof.Machine.execTaskDispatch c s
  | .decrRequest m => Sys2Proof.Machine.execDecrRequest m s
  | .ticketRequest m => Sys2Proof.Machine.execTicketRequest m s
  | .rqfillRequest m => Sys2Proof.Machine.execRqfillRequest m s
  | .launchAccept m => Sys2Proof.Machine.execLaunchAccept m s
  | .kernelSchedule => Sys2Proof.Machine.execKernelSchedule s
  | .placementReserve k c => Sys2Proof.Machine.execPlacementReserve k c s
  | .placementCommit k => Sys2Proof.Machine.execPlacementCommit k s
  | .imageCopy k => Sys2Proof.Machine.execImageCopy k s
  | .statusReport k c => Sys2Proof.Machine.execStatusReport k c s
  | .join m => Sys2Proof.Machine.execJoin m s
  | .leave m => Sys2Proof.Machine.execLeave m s
  | .kernelRetire k => Sys2Proof.Machine.execKernelRetire k s
  | .triggerReport k c => Sys2Proof.Machine.execTriggerReport k c s
  | .triggerNotice m => Sys2Proof.Machine.execTriggerNotice m s
  | .doneQuery m => Sys2Proof.Machine.execDoneQuery m s
  | .barrierOperation m => Sys2Proof.Machine.execBarrierOperation m s
  | .barrierReply m => Sys2Proof.Machine.execBarrierReply m s
  | .barrierWaitLimit u => Sys2Proof.Machine.execBarrierWaitLimit u s
  | .podHomeLost => Sys2Proof.Machine.execPodHomeLost s
  | .heatUpdate m => Sys2Proof.Machine.execHeatUpdate m s
  | .faultPacket m => Sys2Proof.Machine.execFaultPacket m s
  | .pwake m => Sys2Proof.Machine.execPwake m s
  | .pageWake m => Sys2Proof.Machine.execPageWake m s
  | .invalidation m => Sys2Proof.Machine.execInvalidation m s
  | .invalidationAck m => Sys2Proof.Machine.execInvalidationAck m s
  | .pmoveCopyDone m => Sys2Proof.Machine.execPmoveCopyDone m s
  | .pmapComplete m => Sys2Proof.Machine.execPmapComplete m s
  | .pheatComplete m => Sys2Proof.Machine.execPheatComplete m s
  | .frameCloseWave d => Sys2Proof.Machine.execFrameCloseWave d s
  | .cellReceive d cell => Sys2Proof.Machine.execCellReceive d cell s
  | .cellResend m => Sys2Proof.Machine.execCellResend m s
  | .linkFrame l => Sys2Proof.Machine.execLinkFrame l s
  | .linkDown l => Sys2Proof.Machine.execLinkDown l s
  | .linkTrained l => Sys2Proof.Machine.execLinkTrained l s
  | .packageUnreachable d p => Sys2Proof.Machine.execPackageUnreachable d p s
  | .linkWidthChange l => Sys2Proof.Machine.execLinkWidthChange l s
  | .cellReservation m => Sys2Proof.Machine.execCellReservation m s
  | .linkNotice => Sys2Proof.Machine.execLinkNotice s
  | .linknoteWrite name => Sys2Proof.Machine.execLinknoteWrite name s
  | .fabricRequest m => Sys2Proof.Machine.execFabricRequest m s
  | .migrationRequest m => Sys2Proof.Machine.execMigrationRequest m s
  | .migrationArrive m => Sys2Proof.Machine.execMigrationArrive m s
  | .homeArrive m => Sys2Proof.Machine.execHomeArrive m s
  | .guestRetireNotice m => Sys2Proof.Machine.execGuestRetireNotice m s
  | .recordOperation m => Sys2Proof.Machine.execRecordOperation m s
  | .recordMove m => Sys2Proof.Machine.execRecordMove m s
  | .recordAccept m => Sys2Proof.Machine.execRecordAccept m s
  | .recordRefuse m => Sys2Proof.Machine.execRecordRefuse m s
  | .recordCommit m => Sys2Proof.Machine.execRecordCommit m s
  | .entryUpdate m => Sys2Proof.Machine.execEntryUpdate m s
  | .regionReply m => Sys2Proof.Machine.execRegionReply m s
  | .queryArm m => Sys2Proof.Machine.execQueryArm m s
  | .queryScan m => Sys2Proof.Machine.execQueryScan m s
  | .queryRelease m => Sys2Proof.Machine.execQueryRelease m s
  | .domainDescriptor m => Sys2Proof.Machine.execDomainDescriptor m s
  | .ctxActivate => Sys2Proof.Machine.execCtxActivate s
  | .ctxDrain => Sys2Proof.Machine.execCtxDrain s
  | .ctxCommandComplete => Sys2Proof.Machine.execCtxCommandComplete s
  | .contextFree n => Sys2Proof.Machine.execContextFree n s
  | .clockGate c => Sys2Proof.Machine.execClockGate c s
  | .clockUngate c => Sys2Proof.Machine.execClockUngate c s
  | .ownClaim who force epoch => Sys2Proof.Machine.execOwnClaim who force epoch s
  | .ownHandOver who dst epoch => Sys2Proof.Machine.execOwnHandOver who dst epoch s
  | .ownRelease who epoch => Sys2Proof.Machine.execOwnRelease who epoch s
  | .lqputGo who => Sys2Proof.Machine.execLqputGo who s
  | .noteRead => Sys2Proof.Machine.execNoteRead s
  | .bnoteRead => Sys2Proof.Machine.execBnoteRead s
  | .dbgstopWrite who word value => Sys2Proof.Machine.execDbgstopWrite who word value s
  | .registerWrite who offset value => Sys2Proof.Machine.execRegisterWrite who offset value s
  | .startSequence outcome => Sys2Proof.Machine.execStartSequence outcome s
  | .powerOn => Sys2Proof.Machine.execPowerOn s
  | .deviceFatal cause => Sys2Proof.Machine.execDeviceFatal cause s
  | .launchControllerTimeout d => Sys2Proof.Machine.execLaunchControllerTimeout d s
  | .temperatureTrip d => Sys2Proof.Machine.execTemperatureTrip d s
  | .healthUpdate d reading => Sys2Proof.Machine.execHealthUpdate d reading s
  | .illegalEncoding w => Sys2Proof.Machine.execIllegalEncoding w s
  | .fallThrough => Sys2Proof.Machine.execFallThrough s
  | .rdomAnswer m => Sys2Proof.Machine.execRdomAnswer m s
  | .linkwRequest m => Sys2Proof.Machine.execLinkwRequest m s
  | .migrationDeparture u => Sys2Proof.Machine.execMigrationDeparture u s
  | .managementLaunch port packet => Sys2Proof.Machine.execManagementLaunch port packet s
  | .healthRecordRead d => Sys2Proof.Machine.execHealthRecordRead d s

end Sys2Proof.Machine
end

