-- ==== Sys2Proof/Machine/Schedule.lean ====
section
/-! DEFINITION. What a slot does at its turn (R71, R85, R404), and the events that may be due in a state, for a run whose agenda is empty (log entry 1). Which of them come, and when, is the
hardware's timing; an agenda gives any other order. -/
namespace Sys2Proof.Machine

/-- What an event or an instruction does. -/
abbrev Action := State → Host.Outcome State Fault Refusal

/-- What the issuing slot t does: a pending boundary trap is taken before its instruction (R404); a pc past the scratchpad falls through
(R85); a word that names no instruction is illegal (R71); else its instruction executes. -/
def turn (t : Nat) : Action := fun s =>
  if !(s.slot t).pend.isEmpty then execBoundaryTrap t s
  else if Config.spadSize ≤ (s.slot t).pc then execFallThrough s
  else match decode (s.fetchBytes (t / 64) (s.slot t).pc) with
    | .ok (i, _) => exec i s
    | .error _ => execIllegalEncoding (s.fetchWord t) s

/-- The events a message can take part in. -/
def messageEvents (m : Msg) : List Action :=
  let n := m.id
  [execRequestStart n, execCreditReturn n] ++
  match m.body with
  | .load _ _ _ _ | .store _ _ _ | .line _ _ _ => [execInboundRequest n]
  | .atom _ _ _ _ _ _ => [execAtomRequest n]
  | .fe _ _ _ _ _ => [execFeRemoteRequest n]
  | .decr _ _ => [execDecrRequest n]
  | .ticket _ _ => [execTicketRequest n]
  | .rqfill _ _ _ => [execRqfillRequest n]
  | .callat _ => [execCallatAccept n]
  | .fault _ => [execFaultPacket n]
  | .value _ _ _ _ => [execLoadReply n]
  | .ack _ _ => [execStoreAck n]
  | .feAnswer _ _ => [execFeAnswer n]
  | .cancel _ => [execCancelRequest n]
  | .cancelled _ _ => [execCancelledAnswer n]
  | .retry _ _ => [execRetryAnswer n]
  | .credit => []
  | .echo _ => [execEcho n]
  | .echoAnswer => [execEchoAnswer n]
  | .lineData _ _ _ _ => [execLineReply n]
  | .deliver _ _ _ => [execDelivery n]
  | .delivered _ _ _ => [execDeliveryAnswer n]
  | .revoke _ _ | .revoked _ _ _ => [execRevokeRequest n]
  | .forward _ _ _ _ | .forwardAck _ => [execForwardedValue n]
  | .retarget _ _ _ _ => [execRetargetNotice n]
  | .noticeAck _ => [execRetargetNotice n, execDestroyNotice n]
  | .returned _ _ => [execReturnNotice n]
  | .destroy _ => [execDestroyNotice n]
  | .heat _ _ => [execHeatUpdate n]
  | .pwake _ => [execPwake n]
  | .wake _ _ _ => [execPageWake n]
  | .fabric _ _ | .fabricAt _ _ => [execFabricRequest n]
  | .migrateAsk _ | .homeAsk _ | .migrateAnswer _ _ _ _ _ => [execMigrationRequest n]
  | .migrant _ _ _ => [execMigrationArrive n, execHomeArrive n]
  | .cells _ _ _ _ _ => [execCellReservation n]
  | .linkw _ _ _ => [execLinkwRequest n]
  | .barrier _ _ _ _ _ | .engineArrive _ _ => [execBarrierOperation n]
  | .barrierAnswer _ _ _ _ _ | .engineAnswer _ _ _ => [execBarrierReply n]
  | .launch _ _ => [execLaunchAccept n]
  | .kernelQuery _ _ => [execDoneQuery n]
  | .join _ _ _ | .joinAck _ _ => [execJoin n]
  | .leave _ _ => [execLeave n]
  | .triggerNotice _ _ => [execTriggerNotice n]
  | .guestRetired _ _ _ _ _ _ => [execGuestRetireNotice n]
  | .run _ _ _ _ _ _ => [execCopyrRunApply n]
  | .multicast _ _ _ _ => [execMulticastPacket n]
  | .invalidate _ _ _ _ _ _ => [execInvalidation n]
  | .invalidated _ => [execInvalidationAck n]
  | .region _ _ => [execRecordOperation n]
  | .regionReply _ _ _ _ => [execRegionReply n]
  | .move _ _ _ _ => [execRecordMove n]
  | .accept _ _ _ _ _ => [execRecordAccept n]
  | .refuse _ _ _ => [execRecordRefuse n]
  | .commit _ _ _ => [execRecordCommit n]
  | .entry _ _ _ _ _ _ | .entryAck _ _ _ | .entryFree _ _ | .entryFreed _ _ => [execEntryUpdate n]
  | .arm _ _ => [execQueryArm n]
  | .scan _ _ _ => [execQueryScan n]
  | .lower _ _ => [execQueryRelease n]
  | .domain _ _ _ _ => [execDomainDescriptor n]
  | .domainDone _ => [execRdomAnswer n]
  | .copyAnswer _ _ => [execCopyFinish (match m.dst with | .core c => c | _ => 0)]
  | .fabricAnswer _ _ _ => []

/-- The events a core's units can take part in. -/
def coreEvents (c : Nat) (r : CoreRec) : List Action :=
  r.waiting.map (fun m => execWaitStoreServe m.id) ++ r.held.map (fun h => execCallatResend h.1.id) ++
  (if r.tasks.isEmpty then [] else [execTaskDispatch c]) ++
  (if r.queue.isEmpty && r.executed.isNone then [] else [execVectorExecute c, execVectorFinish c, execSequencerExecute c, execSequencerFinish c]) ++
  (if r.matrix.queue.isEmpty && r.matrix.compute.isNone && r.matrix.move.isNone then []
   else [execMzero c, execMma c, execMmas c, execMmad c, execMstore c, execMloadc c, execBload c, execBrot c, execBrotWaitLimit c, execTcopy c, execTgather c, execTscatter c,
     execTileFinish c false, execTileFinish c true]) ++
  (if r.mailbox.isSome then [execCopyFinish c] else [])

/-- The events a slot can take part in. -/
def slotEvents (t : Nat) (sl : Slot) : List Action :=
  (if sl.phase = .draining then [execSlotRetire t] else []) ++
  (if sl.wait.isSome then [execFeWaitLimit sl.uid, execBarrierWaitLimit sl.uid] else []) ++
  (if sl.leaving.isSome then [execMigrationDeparture sl.uid] else []) ++ (if sl.yield.isSome then [execYieldExpiry t] else [])

/-- The events a kernel can take part in. -/
def kernelEvents (s : State) (k : Nat) (r : KernelRec) : List Action :=
  (if r.state = 2 then r.rect.snake.map (execPlacementReserve k ·) ++ [execImageCopy k, execPlacementCommit k] else []) ++
  (if r.state = 3 ∨ r.state = 4 then
    r.granted.map (execStatusReport k ·) ++ r.granted.map (execTriggerReport k ·) ++ [execKernelRetire k] else []) ++
  (if s.launchQueue.contains k then [execKernelSchedule] else [])
/-- The frame-close wave of a die is due while a core of it is held back (R267). -/
def waveEvents (s : State) : List Action :=
  ((List.range 4).filter fun d => s.cores.any fun e => dieOf e.1 == d &&
    (e.2.stalled || (e.2.frame + 16 - Store.get 0 s.dieFrame d) % 16 == 7)).map
    execFrameCloseWave

/-- The events that may be due, in the order in which a run with an empty agenda tries them. -/
def dueEvents (s : State) : List Action :=
  s.net.flatMap messageEvents ++ s.cores.flatMap (fun e => coreEvents e.1 e.2) ++ s.slots.flatMap (fun e => slotEvents e.1 e.2) ++
  s.evicted.flatMap (fun e => if e.rest.wait.isSome then [execFeWaitLimit e.rest.uid, execBarrierWaitLimit e.rest.uid] else []) ++
  s.spills.flatMap (fun o => [execSpillComplete o.id, execResumeComplete o.id]) ++
  s.pageOps.flatMap (fun o => [execPmoveCopyDone o.id, execPmapComplete o.id, execPheatComplete o.id]) ++
  s.kernels.flatMap (fun e => kernelEvents s e.1 e.2) ++
  (if s.ctxCmd.isSome then [execCtxActivate, execCtxDrain, execCtxCommandComplete] else []) ++
  ((List.range 12).filter fun l => match Store.get {} s.links l with | k => !k.pending.isEmpty).map execLinkWidthChange ++
  (if s.net.any (fun m => match m.dst with | .pkg _ => true | _ => false) || !s.sent.isEmpty then (List.range 12).map execLinkFrame else []) ++
  (if s.linkEvents.isEmpty then [] else [execLinkNotice]) ++ (if s.outstanding.isEmpty then [] else [execPodHomeLost]) ++ waveEvents s

end Sys2Proof.Machine
end

