-- ==== Sys2Proof/Machine/Step.lean ====
section
/-! DEFINITION. One step (log entry 1, DESIGN CHOICE): the next turn of the agenda, or, where it is empty, the first event that is due and changes
the state, or else a cycle of State.core. -/
namespace Sys2Proof.Machine

/-- An action changes s. -/
def changes (s : State) (a : Action) : Bool :=
  match a s with
  | .next t => decide (t ≠ s)
  | _ => true

/-- The first due event that changes the state. -/
def dueEvent (s : State) : Option Action := (dueEvents s).find? (changes s)

/-- One cycle of core c: what its issuing slot does, or only the clock. -/
def runCycle (c : Nat) (s : State) : Host.Outcome State Fault Refusal :=
  if Config.cores ≤ c then .fault .noSuchCore
  else match s.cycle c with
    | (s1, some t) => turn t s1
    | (s1, none) => .next s1

/-- A turn of the agenda. -/
def runTurn (t : Turn) (s : State) : Host.Outcome State Fault Refusal :=
  match t with
  | .event i => exec i s
  | .cycle c => runCycle c s

/-- One step of the machine. -/
def step (s : State) : Host.Outcome State Fault Refusal :=
  match s.agenda with
  | t :: r => runTurn t { s with agenda := r }
  | [] => match dueEvent s with
    | some a => a s
    | none => runCycle s.core s

/-- The slot whose instruction the next cycle of State.core issues, if it issues one and has no trap pending. -/
def State.fetchSlot (s : State) : Option Nat :=
  let s1 := s.tick s.core
  match s1.pick s.core (s1.coreRec s.core).cycle with
  | some t => if (s.slot t).pend.isEmpty && decide ((s.slot t).pc < Config.spadSize) then some t else none
  | none => none

/-- The thread that withFetchWord lets run where none would issue: a supervisor thread of context 0 in slot 0 of core 0, with a window of
128 registers, at offset 0 (log entry 3, DESIGN CHOICE). -/
def State.withThread (s : State) : State :=
  { s.setSlot 0 { phase := .ready, uid := s.nextId, mode := 1, limit := 128 } with core := 0, nextId := s.nextId + 1 }

/-- s with an instruction's word placed where step fetches next, so that the next step runs exactly it: at the pc of the slot that issues
next, or of a thread created for it (log entry 3, DESIGN CHOICE). -/
def State.withFetchWord (s : State) (nbits w : Nat) : State :=
  let s1 := match s.fetchSlot with
    | some _ => s
    | none => s.withThread
  let t := s1.fetchSlot.getD 0
  { s1 with
    agenda := [.cycle s1.core]
    mem := s1.mem.writeN (spadKey (t / 64) (s1.slot t).pc) 4 (w % 2 ^ nbits) }

end Sys2Proof.Machine
end

