-- ==== Sys2Proof/Safety.lean ====
section
/-! DEFINITION. What a run's state keeps, and what a safe run is. -/
namespace Sys2Proof.Machine

/-- The invariant of memory: its list is in canonical form, so that equal memories are equal data. -/
def State.Inv (s : State) : Prop := s.mem.wf = true

/-- n steps from s end in a next state: none of them stops. -/
def SafeRun (n : Nat) (s : State) : Prop := ∃ t, Sys2Proof.core.run n s = .next t

end Sys2Proof.Machine
end

