-- ==== Sys2Proof/Values.lean ====
section
/-! DEFINITION. What statements say of floating-point numbers: the exact value of a bit pattern, and what it is to round an exact value
once to a format (R28, R29, R34, R35), in terms of rational and real numbers and of none of the model's arithmetic. -/
namespace Sys2Proof.Claims

/-- Mantissa bits of a floating-point format (R28): FP64, FP32, BF16, FP16, E4M3, E5M2. -/
def mantissaBits (code : Nat) : Nat := [52, 23, 7, 10, 3].getD code 2
/-- Exponent bits of a format (R28). -/
def exponentBits (code : Nat) : Nat := [11, 8, 8, 5, 4].getD code 5
/-- The bias of a format (R28). -/
def exponentBias (code : Nat) : Nat := 2 ^ (exponentBits code - 1) - 1

/-- The mantissa field of a pattern. -/
def mantissaOf (code bits : Nat) : Nat := bits % 2 ^ mantissaBits code
/-- The exponent field of a pattern. -/
def exponentOf (code bits : Nat) : Nat := bits / 2 ^ mantissaBits code % 2 ^ exponentBits code
/-- The sign bit of a pattern. -/
def negativeOf (code bits : Nat) : Bool := bits / 2 ^ (mantissaBits code + exponentBits code) % 2 == 1

/-- The pattern of a sign, an exponent field and a mantissa field. -/
def patternOf (code : Nat) (neg : Bool) (ex man : Nat) : Nat :=
  (if neg then 2 ^ (mantissaBits code + exponentBits code) else 0) + ex * 2 ^ mantissaBits code + man

/-- The pattern stands for a number: E4M3 has no infinity, and one NaN of either sign (R28). -/
def FinitePattern (code bits : Nat) : Prop :=
  exponentOf code bits + 1 ≠ 2 ^ exponentBits code ∨ (code = 4 ∧ mantissaOf code bits ≠ 7)
/-- The pattern is a NaN (R28). -/
def NaNPattern (code bits : Nat) : Prop :=
  exponentOf code bits + 1 = 2 ^ exponentBits code ∧ (if code = 4 then mantissaOf code bits = 7 else mantissaOf code bits ≠ 0)
/-- The pattern is a signalling NaN (R28). -/
def SignallingPattern (code bits : Nat) : Prop := NaNPattern code bits ∧ code ≠ 4 ∧ mantissaOf code bits < 2 ^ (mantissaBits code - 1)

/-- The canonical NaN of a format (R29). -/
def quietNaN (code : Nat) : Nat := [0x7FF8000000000000, 0x7FC00000, 0x7FC0, 0x7E00, 0x7F].getD code 0x7E
/-- The zero of a sign. -/
def zeroPattern (code : Nat) (neg : Bool) : Nat := patternOf code neg 0 0
/-- The infinity of a sign. -/
def infinityPattern (code : Nat) (neg : Bool) : Nat := patternOf code neg (2 ^ exponentBits code - 1) 0

/-- The exact number a finite pattern stands for (R28). -/
def patternValue (code bits : Nat) : ℚ :=
  (if negativeOf code bits then -1 else 1) *
    (if exponentOf code bits = 0 then (mantissaOf code bits : ℚ) * 2 ^ (1 - (exponentBias code : ℤ) - mantissaBits code)
     else ((2 ^ mantissaBits code + mantissaOf code bits : ℕ) : ℚ) * 2 ^ ((exponentOf code bits : ℤ) - exponentBias code - mantissaBits code))

/-- The pattern of the largest finite number of a sign (R28). -/
def largestPattern (code : Nat) (neg : Bool) : Nat :=
  if code = 4 then patternOf code neg 15 6 else patternOf code neg (2 ^ exponentBits code - 2) (2 ^ mantissaBits code - 1)

/-- y is x rounded to a multiple of u: to nearest with ties to even, toward zero, up, or down (R32, R34). -/
def RoundsTo (rm : Nat) (u x y : ℝ) : Prop :=
  (∃ k : ℤ, y = k * u) ∧
    match rm with
    | 0 => 2 * |y - x| ≤ u ∧ (2 * |y - x| = u → ∃ k : ℤ, y = 2 * k * u)
    | 1 => |y| ≤ |x| ∧ |x| < |y| + u ∧ 0 ≤ x * y
    | 2 => x ≤ y ∧ y < x + u
    | _ => y ≤ x ∧ x < y + u

/-- r is the pattern and the flags with which the exact number x, not zero, is delivered in a format: x is rounded once, to the
mantissa's last place or, below the smallest normal number, to the smallest subnormal. A result past the largest finite number is
infinite, or the largest finite number where the mode rounds toward zero or away from its sign, and always in E4M3 (R40), with OF
and NX; else NX says that the result is not x, and UF that it is not x and tiny after rounding (R35). -/
def Delivered (code rm : Nat) (x : ℝ) (r : Nat × Nat) : Prop :=
  ∃ (l : ℤ) (y z : ℝ) (nx uf : Bool), (2 : ℝ) ^ l ≤ |x| ∧ |x| < 2 ^ (l + 1) ∧
    RoundsTo rm (2 ^ (max l (1 - (exponentBias code : ℤ)) - mantissaBits code)) x y ∧ RoundsTo rm (2 ^ (l - mantissaBits code)) x z ∧
    (nx = true ↔ y ≠ x) ∧ (uf = true ↔ y ≠ x ∧ |z| < 2 ^ (1 - (exponentBias code : ℤ))) ∧
    (|y| ≤ patternValue code (largestPattern code false) →
      FinitePattern code r.1 ∧ (patternValue code r.1 : ℝ) = y ∧ (negativeOf code r.1 = true ↔ x < 0) ∧
        r.1 < 2 ^ (mantissaBits code + exponentBits code + 1) ∧ r.2 = (if nx then 0x1000 else 0) ||| (if uf then 0x800 else 0)) ∧
    (patternValue code (largestPattern code false) < |y| →
      r.2 = 0x400 ||| 0x1000 ∧ r.1 = if code = 4 ∨ rm = 1 ∨ (rm = 2 ∧ x < 0) ∨ (rm = 3 ∧ 0 < x) then largestPattern code (decide (x < 0))
        else infinityPattern code (decide (x < 0)))

/-- The same of an exact number that may be zero, whose sign is then neg. -/
def DeliveredOr (code rm : Nat) (x : ℝ) (neg : Bool) (r : Nat × Nat) : Prop :=
  (x ≠ 0 → Delivered code rm x r) ∧ (x = 0 → r = (zeroPattern code neg, 0))

/-- The pattern is an infinity (R28). -/
def InfinitePattern (code bits : Nat) : Prop := code ≠ 4 ∧ exponentOf code bits + 1 = 2 ^ exponentBits code ∧ mantissaOf code bits = 0
/-- The pattern is a zero of either sign. -/
def ZeroPattern (code bits : Nat) : Prop := exponentOf code bits = 0 ∧ mantissaOf code bits = 0

/-- r is the canonical NaN of a format, with NV just where the operation is invalid (R29, R36). -/
def DeliversNaN (code : Nat) (invalid : Prop) (r : Nat × Nat) : Prop := r.1 = quietNaN code ∧ (invalid → r.2 = 0x100) ∧ (¬ invalid → r.2 = 0)

/-- r is x + y, or x - y, rounded once (R35, R36). -/
def SumOf (code rm x y : Nat) (minus : Bool) (r : Nat × Nat) : Prop :=
  let nx := negativeOf code x
  let ny := negativeOf code y != minus
  (NaNPattern code x ∨ NaNPattern code y → DeliversNaN code (SignallingPattern code x ∨ SignallingPattern code y) r) ∧
  (InfinitePattern code x → InfinitePattern code y → (nx = ny → r = (infinityPattern code nx, 0)) ∧ (nx ≠ ny → DeliversNaN code True r)) ∧
  (InfinitePattern code x → FinitePattern code y → r = (infinityPattern code nx, 0)) ∧
  (FinitePattern code x → InfinitePattern code y → r = (infinityPattern code ny, 0)) ∧
  (FinitePattern code x → FinitePattern code y →
    DeliveredOr code rm (patternValue code x + (if minus then -1 else 1) * patternValue code y) (if nx = ny then nx else decide (rm = 3)) r)

/-- r is x * y rounded once (R35, R36). -/
def ProductOf (code rm x y : Nat) (r : Nat × Nat) : Prop :=
  let n := negativeOf code x != negativeOf code y
  (NaNPattern code x ∨ NaNPattern code y → DeliversNaN code (SignallingPattern code x ∨ SignallingPattern code y) r) ∧
  (InfinitePattern code x ∧ ZeroPattern code y ∨ ZeroPattern code x ∧ InfinitePattern code y → DeliversNaN code True r) ∧
  (InfinitePattern code x ∧ ¬ NaNPattern code y ∧ ¬ ZeroPattern code y ∨ ¬ NaNPattern code x ∧ ¬ ZeroPattern code x ∧ InfinitePattern code y →
    r = (infinityPattern code n, 0)) ∧
  (FinitePattern code x → FinitePattern code y → DeliveredOr code rm (patternValue code x * patternValue code y) n r)

/-- r is x * y + d, or d - x * y, rounded once (R35, R36, R120). -/
def FusedOf (code rm x y d : Nat) (minus : Bool) (r : Nat × Nat) : Prop :=
  let n := (negativeOf code x != negativeOf code y) != minus
  let clash := InfinitePattern code x ∧ ZeroPattern code y ∨ ZeroPattern code x ∧ InfinitePattern code y
  let big := InfinitePattern code x ∧ ¬ NaNPattern code y ∧ ¬ ZeroPattern code y ∨ ¬ NaNPattern code x ∧ ¬ ZeroPattern code x ∧ InfinitePattern code y
  (clash → DeliversNaN code True r) ∧
  (¬ clash → NaNPattern code x ∨ NaNPattern code y ∨ NaNPattern code d →
    DeliversNaN code (SignallingPattern code x ∨ SignallingPattern code y ∨ SignallingPattern code d) r) ∧
  (big → InfinitePattern code d → (n = negativeOf code d → r = (infinityPattern code n, 0)) ∧ (n ≠ negativeOf code d → DeliversNaN code True r)) ∧
  (big → FinitePattern code d → r = (infinityPattern code n, 0)) ∧
  (FinitePattern code x → FinitePattern code y → InfinitePattern code d → r = (infinityPattern code (negativeOf code d), 0)) ∧
  (FinitePattern code x → FinitePattern code y → FinitePattern code d →
    DeliveredOr code rm ((if minus then -1 else 1) * (patternValue code x * patternValue code y) + patternValue code d)
      (if n = negativeOf code d then n else decide (rm = 3)) r)

/-- r is x / y rounded once (R35, R36). -/
def QuotientOf (code rm x y : Nat) (r : Nat × Nat) : Prop :=
  let n := negativeOf code x != negativeOf code y
  (NaNPattern code x ∨ NaNPattern code y → DeliversNaN code (SignallingPattern code x ∨ SignallingPattern code y) r) ∧
  (InfinitePattern code x ∧ InfinitePattern code y ∨ ZeroPattern code x ∧ ZeroPattern code y → DeliversNaN code True r) ∧
  (InfinitePattern code x → FinitePattern code y → r = (infinityPattern code n, 0)) ∧
  (FinitePattern code x → InfinitePattern code y → r = (zeroPattern code n, 0)) ∧
  (FinitePattern code x → ¬ ZeroPattern code x → ZeroPattern code y → r = (infinityPattern code n, 0x200)) ∧
  (FinitePattern code x → FinitePattern code y → ¬ ZeroPattern code y → DeliveredOr code rm (patternValue code x / patternValue code y) n r)

/-- r is √x rounded once (R35, R36). -/
def RootOf (code rm x : Nat) (r : Nat × Nat) : Prop :=
  (NaNPattern code x → DeliversNaN code (SignallingPattern code x) r) ∧
  (ZeroPattern code x → r = (zeroPattern code (negativeOf code x), 0)) ∧
  (InfinitePattern code x → negativeOf code x = false → r = (infinityPattern code false, 0)) ∧
  (¬ NaNPattern code x → ¬ ZeroPattern code x → negativeOf code x = true → DeliversNaN code True r) ∧
  (FinitePattern code x → 0 < patternValue code x → Delivered code rm (Real.sqrt (patternValue code x)) r)

/-- r is 1/√x with an error below one unit in the last place: rounded to nearest, down or up (R37). -/
def InverseRootOf (code x : Nat) (r : Nat × Nat) : Prop :=
  (NaNPattern code x → DeliversNaN code (SignallingPattern code x) r) ∧
  (ZeroPattern code x → r = (infinityPattern code (negativeOf code x), 0x200)) ∧
  (InfinitePattern code x → negativeOf code x = false → r = (zeroPattern code false, 0)) ∧
  (¬ NaNPattern code x → ¬ ZeroPattern code x → negativeOf code x = true → DeliversNaN code True r) ∧
  (FinitePattern code x → 0 < patternValue code x →
    ∃ mode < 3, Delivered code mode (1 / Real.sqrt (patternValue code x)) r)

/-- r is x * 2^k rounded once (R120). -/
def ScaleOf (code rm x : Nat) (k : ℤ) (r : Nat × Nat) : Prop :=
  (NaNPattern code x → DeliversNaN code (SignallingPattern code x) r) ∧
  (InfinitePattern code x → r = (infinityPattern code (negativeOf code x), 0)) ∧
  (FinitePattern code x → DeliveredOr code rm (patternValue code x * 2 ^ k) (negativeOf code x) r)

/-- x is less than y as a number or an infinity; the zeros are equal (R36). -/
def LessThan (code x y : Nat) : Prop :=
  (FinitePattern code x ∧ FinitePattern code y ∧ patternValue code x < patternValue code y) ∨
  (InfinitePattern code x ∧ negativeOf code x = true ∧ ¬ NaNPattern code y ∧ ¬ (InfinitePattern code y ∧ negativeOf code y = true)) ∨
  (InfinitePattern code y ∧ negativeOf code y = false ∧ ¬ NaNPattern code x ∧ ¬ (InfinitePattern code x ∧ negativeOf code x = false))
/-- x and y are the same number or infinity. -/
def SameValue (code x y : Nat) : Prop :=
  (FinitePattern code x ∧ FinitePattern code y ∧ patternValue code x = patternValue code y) ∨
  (InfinitePattern code x ∧ InfinitePattern code y ∧ negativeOf code x = negativeOf code y)

/-- r is the smaller of x and y, or the larger; -0 is below +0 (R36). -/
def ExtremeOf (code x y : Nat) (larger : Bool) (r : Nat × Nat) : Prop :=
  let below (a b : Nat) := LessThan code a b ∨ (SameValue code a b ∧ negativeOf code a = true ∧ negativeOf code b = false)
  let signalling := SignallingPattern code x ∨ SignallingPattern code y
  (NaNPattern code x → NaNPattern code y → DeliversNaN code signalling r) ∧
  (NaNPattern code x → ¬ NaNPattern code y → r.1 = y ∧ (signalling → r.2 = 0x100) ∧ (¬ signalling → r.2 = 0)) ∧
  (¬ NaNPattern code x → NaNPattern code y → r.1 = x ∧ (signalling → r.2 = 0x100) ∧ (¬ signalling → r.2 = 0)) ∧
  (¬ NaNPattern code x → ¬ NaNPattern code y → (below x y → r = (if larger then y else x, 0)) ∧ (below y x → r = (if larger then x else y, 0)) ∧
    (x = y → r = (x, 0)))

/-- r is the number x of a format, converted to another floating-point format (R39, R40, R41). -/
def ConvertsFloat (src dst rm x : Nat) (r : Nat × Nat) : Prop :=
  (NaNPattern src x → DeliversNaN dst (SignallingPattern src x) r) ∧
  (InfinitePattern src x → r = if dst = 4 then (largestPattern 4 (negativeOf src x), 0x400 ||| 0x1000) else (infinityPattern dst (negativeOf src x), 0)) ∧
  (FinitePattern src x → DeliveredOr dst rm (patternValue src x) (negativeOf src x) r)

/-- r is the number x of a format, rounded to an integer and held in w bits (R41). -/
def ConvertsToInteger (src w rm x : Nat) (r : Nat × Nat) : Prop :=
  (NaNPattern src x → r = (0, 0x100)) ∧
  (InfinitePattern src x → r = (if negativeOf src x then 2 ^ (w - 1) else 2 ^ (w - 1) - 1, 0x100)) ∧
  (FinitePattern src x → ∃ k : ℤ, RoundsTo rm 1 (patternValue src x) k ∧
    (k < -2 ^ (w - 1) → r = (2 ^ (w - 1), 0x100)) ∧ (2 ^ (w - 1) ≤ k → r = (2 ^ (w - 1) - 1, 0x100)) ∧
    (-2 ^ (w - 1) ≤ k → k < 2 ^ (w - 1) → (r.1 : ℤ) = k % 2 ^ w ∧ r.2 = if (k : ℚ) = patternValue src x then 0 else 0x1000))

/-- r is the integer v held in w bits, saturated with SAT where it does not fit (R41). -/
def Saturates (w : Nat) (v : ℤ) (r : Nat × Nat) : Prop :=
  (v < -2 ^ (w - 1) → r = (2 ^ (w - 1), 0x2000)) ∧ (2 ^ (w - 1) ≤ v → r = (2 ^ (w - 1) - 1, 0x2000)) ∧
  (-2 ^ (w - 1) ≤ v → v < 2 ^ (w - 1) → (r.1 : ℤ) = v % 2 ^ w ∧ r.2 = 0)

/-- r is 2^x at the special operands and at zero (R37). -/
def ExponentialOf (code x : Nat) (r : Nat × Nat) : Prop :=
  (NaNPattern code x → DeliversNaN code (SignallingPattern code x) r) ∧
  (InfinitePattern code x → r = (if negativeOf code x then zeroPattern code false else infinityPattern code false, 0)) ∧
  (ZeroPattern code x → Delivered code 0 1 r)

/-- r is the base-two logarithm of x at the special operands and at the powers of two (R37). -/
def LogarithmOf (code x : Nat) (r : Nat × Nat) : Prop :=
  (NaNPattern code x → DeliversNaN code (SignallingPattern code x) r) ∧
  (ZeroPattern code x → r = (infinityPattern code true, 0x200)) ∧
  (InfinitePattern code x → negativeOf code x = false → r = (infinityPattern code false, 0)) ∧
  (¬ NaNPattern code x → ¬ ZeroPattern code x → negativeOf code x = true → DeliversNaN code True r) ∧
  (FinitePattern code x → ∀ j : ℤ, patternValue code x = 2 ^ j → DeliveredOr code 0 j false r)

/-- Values with their flags combined in a pairwise tree: one alone passes, and more are cut after the largest power of two below their
number (R49). -/
inductive TreeOf (step : Nat → Nat → Nat × Nat → Prop) : List (Nat × Nat) → Nat × Nat → Prop
  | one (a : Nat × Nat) : TreeOf step [a] a
  | node (k : Nat) (l m : List (Nat × Nat)) (a b r : Nat × Nat) (hl : l.length = 2 ^ k) (h0 : 0 < m.length) (hm : m.length ≤ 2 ^ k)
      (ha : TreeOf step l a) (hb : TreeOf step m b) (hr : step a.1 b.1 r) : TreeOf step (l ++ m) (r.1, a.2 ||| b.2 ||| r.2)

/-- The trees of beats of e values folded in order (R49). -/
inductive FoldOf (step : Nat → Nat → Nat × Nat → Prop) (e : Nat) : List (Nat × Nat) → Nat × Nat → Prop
  | first (l : List (Nat × Nat)) (a : Nat × Nat) (hl : l.length ≤ e) (ha : TreeOf step l a) : FoldOf step e l a
  | next (k : Nat) (l m : List (Nat × Nat)) (a b r : Nat × Nat) (hl : l.length = k * e) (hk : 0 < k) (h0 : 0 < m.length) (hm : m.length ≤ e)
      (ha : FoldOf step e l a) (hb : TreeOf step m b) (hr : step a.1 b.1 r) : FoldOf step e (l ++ m) (r.1, a.2 ||| b.2 ||| r.2)

end Sys2Proof.Claims
end

