-- ==== Sys2Proof/Certificates/Slice0/Obligations.lean ====
section
/-! DEFINITION. The statements for the provers: each docstring says what is stated and which rules of spec/ it rests on. -/
open Sys2Proof Sys2Proof.Machine

namespace Sys2Proof.Claims

/-- From s, instruction i reads its sources and writes f of their values to destination d, whenever the sources can be read and
the destination can be written. -/
def ResultAt (i : Instr) (srcs : List Nat) (d : Nat) (f : List Word → Word) (s : State) : Prop :=
  ∀ vs, s.operands i.word srcs [d] = .ok vs → s.destReady d = .ok () → exec i s = .next (s.complete srcs d (f vs))

/-- A two-source instruction form writes f of its sources. -/
def Binary (i : RegCode → RegCode → RegCode → Instr) (f : Word → Word → Word) : Prop :=
  ∀ d a b s, ResultAt (i d a b) [a.toNat, b.toNat] d.toNat (fun vs => f (arg vs 0) (arg vs 1)) s

/-- A one-source instruction form writes w for its source x, whenever P x w. -/
def Unary (i : RegCode → RegCode → Instr) (P : Word → Word → Prop) : Prop :=
  ∀ d a s x w, s.operands (i d a).word [a.toNat] [d.toNat] = .ok [x] → s.destReady d.toNat = .ok () → P x w →
    exec (i d a) s = .next (s.complete [a.toNat] d.toNat w)

/-- An instruction form with an immediate of w bits writes f of its source and the immediate. -/
def Immediate {w : Nat} (i : RegCode → RegCode → BitVec w → Instr) (f : Word → BitVec w → Word) : Prop :=
  ∀ d a v s, ResultAt (i d a v) [a.toNat] d.toNat (fun vs => f (arg vs 0) v) s

/-- Code v names an ordinary register of the issuing slot's window: no bound queue and no mailbox register. -/
def WindowCode (s : State) (v : Nat) : Prop := v < s.me.limit ∧ v < 128 ∧ s.me.queueOf v = none ∧ s.isMail v = false

/-- The registers of the issuing slot that only an instruction on special registers or an exception writes are equal in t and s:
all but the phase, the pc, the loops, the flags of the trap and of the release, and the waits. -/
def SameSpecials (s t : State) : Prop :=
  t.me = { s.me with
    phase := t.me.phase, park := t.me.park, pc := t.me.pc, loops := t.me.loops, released := t.me.released, trapPc := t.me.trapPc
    trapCause := t.me.trapCause, trapInfo := t.me.trapInfo, intrap := t.me.intrap, barwToken := t.me.barwToken, wait := t.me.wait
    status := t.me.status, yield := t.me.yield }

/-- Memory, its full bits and its DIRTY bits, the landing names and the network are equal in t and s. -/
def SameMemory (s t : State) : Prop :=
  (∀ a, t.mem.byte a = s.mem.byte a) ∧ t.memFull = s.memFull ∧ t.dirty = s.dirty ∧ t.names = s.names ∧ t.net = s.net

/-- t differs from s by messages sent, with the bodies and destinations of l in order. -/
def Sends (s t : State) (l : List (Node × Body)) : Prop := ∃ ms : List Msg, t.net = s.net ++ ms ∧ ms.map (fun m => (m.dst, m.body)) = l

/-- The instructions of the scalar chapter that compute a register from registers and fields (R79 to R86). -/
def registerForms (d a b : RegCode) (v : BitVec 12) (sh : BitVec 6) (u : BitVec 19) : List Instr :=
  [.add d a b, .sub d a b, .and d a b, .or d a b, .xor d a b, .andn d a b, .sll d a b, .srl d a b, .sra d a b, .rol d a b,
   .slt d a b, .sltz d a b, .seq d a b, .min d a b, .max d a b, .minz d a b, .maxz d a b, .mul d a b, .mulh d a b, .mulhz d a b,
   .div d a b, .divz d a b, .rem d a b, .remz d a b, .clz d a, .ctz d a, .popc d a, .brev d a, .sext d a b, .zext d a b,
   .addi d a v, .andi d a v, .ori d a v, .xori d a v, .slti d a v, .sltzi d a v, .slli d a sh, .srli d a sh, .srai d a sh,
   .roli d a sh, .lui d u, .addpc d u, .cabs d a, .crel d a, .cpack d a, .cx d a, .cy d a]

end Sys2Proof.Claims

open Sys2Proof.Claims

/-- After reset every full/empty bit of scratchpad words and of registers reads 1, every thread slot is FREE with FMT 0x122, no
register awaits a reply, every landing-name entry is FREE with salt 0, and every core's INT4TAB holds 0x0706_0504_0302_0100 and
0xFFFE_FDFC_FBFA_F9F8. (R16, R30, R44, R154, R169) -/
def Obligations.ResetLeavesEveryBitFull : Prop :=
  (∀ key, State.reset.isFull key = true) ∧ (∀ t v, State.reset.regIsFull t v = true) ∧
  (∀ t, (State.reset.slot t).phase = .free ∧ (State.reset.slot t).fmt = 0x122 ∧ ∀ v, State.reset.awaits t v = false) ∧
  (∀ c i, (State.reset.name c i).state = .free ∧ (State.reset.name c i).salt = 0) ∧
  ∀ c, (State.reset.coreRec c).int4lo = 0x0706050403020100 ∧ (State.reset.coreRec c).int4hi = 0xFFFEFDFCFBFAF9F8

/-- Reset memory is in the canonical form that the invariant asks for. That it lists nothing, so that every byte reads as an unlisted
one, is the model's choice (log entry 4, DESIGN CHOICE: R16 leaves the bytes of memory undefined at reset). (R16) -/
def Obligations.ResetHasCanonicalMemory : Prop := State.reset.Inv

/-- From every state whose memory is in canonical form (addresses strictly rising, no entry equal to what an unlisted byte reads
as), a step that answers a next state answers one whose memory is in canonical form. What an unlisted byte reads as is the
model's choice (log entry 4). (R3, R16) -/
def Obligations.StepKeepsMemoryCanonical : Prop :=
  ∀ s t : State, s.Inv → step s = .next t → t.Inv

/-- For every instruction that has an encoding and is well-formed, and whatever bytes follow, decoding the four bytes of its word
gives that instruction and leaves the bytes that follow. (R52, R53, R60, R61, R62) -/
def Obligations.DecodeOfEncodeIsIdentity : Prop :=
  ∀ (i : Instr) (w : BitVec 32) (r : List Byte), encode i = some w → i.wellFormed = true →
    decode (wordBytes w.toNat ++ r) = .ok (i, r)

/-- Every 32-bit word that the decoder accepts decodes to a well-formed instruction whose encoding is that word: no bit of an
accepted word is ignored, so every reserved or unused field of it is zero. (R61, R62, R71) -/
def Obligations.DecodedWordsEncodeBack : Prop :=
  ∀ (w : BitVec 32) (i : Instr) (r : List Byte), decode (wordBytes w.toNat) = .ok (i, r) →
    encode i = some w ∧ i.wellFormed = true

/-- The nop of R71 and six words of the tables of chapters 20 to 22 decode to their instructions. (R53, R61) -/
def Obligations.SpecWordsDecode : Prop :=
  decodeTableWord 32 0x04000000 = some (.add 0 0 0) ∧ decodeTableWord 32 0xF0507101 = some (.rins 10 7 8) ∧
  decodeTableWord 32 0x8C780200 = some (.mint 15 16) ∧ decodeTableWord 32 0xF090B264 = some (.rpos 18 11 19) ∧
  decodeTableWord 32 0xF000E1E6 = some (.rqbox 14 15) ∧ decodeTableWord 32 0x60B03C9C = some (.ld 22 3 3 156) ∧
  decodeTableWord 32 0x2838001B = some (.addpc 7 27)

/-- A step whose agenda starts with a cycle of a core removes that turn, passes the cycle, and, where the barrel picks slot t and t
has no pending boundary trap and a pc inside the scratchpad, is exec of the instruction that the four bytes at its pc decode to,
in the state after the pick. With an empty agenda and no event due, a step is such a cycle of State.core; an event turn is exec
of that event (log entry 1). (R71, R85, R404) -/
def Obligations.TurnRunsDecodedInstruction : Prop :=
  (∀ (s s1 : State) c r t i bs, s.agenda = .cycle c :: r → c < 1280 → ({ s with agenda := r } : State).cycle c = (s1, some t) →
    (s1.slot t).pend = [] → (s1.slot t).pc < 0x180000 → decode (s1.fetchBytes (t / 64) (s1.slot t).pc) = .ok (i, bs) →
    step s = exec i s1) ∧
  (∀ (s s1 : State) t i bs, s.agenda = [] → dueEvent s = none → s.core < 1280 → s.cycle s.core = (s1, some t) →
    (s1.slot t).pend = [] → (s1.slot t).pc < 0x180000 → decode (s1.fetchBytes (t / 64) (s1.slot t).pc) = .ok (i, bs) →
    step s = exec i s1) ∧
  (∀ (s : State) i r, s.agenda = .event i :: r → step s = exec i { s with agenda := r })

/-- Where the bytes at the pc of the picked slot do not decode and are not a QBIND word with a d below 124, the turn takes the trap
0x01 with the word in TRAPINFO; a pc of 0x18_0000 or more takes the trap 0x04 with that address of the own core. A QBIND word with a
d below 124 takes the trap 0x01 too; that TRAPINFO is then what g[a] holds, or the word where a names no register of the window, is
the model's reading (log entry 53). (R71, R85, R196) -/
def Obligations.IllegalWordsTrap : Prop :=
  (∀ (s : State) t e, t = s.cur → (s.slot t).pend = [] → (s.slot t).pc < 0x180000 → decode (s.fetchBytes (t / 64) (s.slot t).pc) = .error e →
    ¬ ((s.fetchWord t).toNat / 2 ^ 26 = 0x24 ∧ (s.fetchWord t).toNat % 2 ^ 12 = 0 ∧ (s.fetchWord t).toNat / 2 ^ 19 % 128 < 124) →
    turn t s = .next (s.takeTrap t 0x01 (ofNat (s.fetchWord t).toNat))) ∧
  (∀ (s : State) t, t = s.cur → (s.slot t).pend = [] → 0x180000 ≤ (s.slot t).pc →
    turn t s = .next (s.takeTrap t 0x04 (addrOf (t / 64) 0x180000))) ∧
  (∀ (s : State) w, ¬ (w.toNat / 2 ^ 26 = 0x24 ∧ w.toNat % 2 ^ 12 = 0 ∧ w.toNat / 2 ^ 19 % 128 < 124) →
    exec (.illegalEncoding w) s = .next (s.takeTrap s.cur 0x01 (ofNat w.toNat))) ∧
  (∀ (s : State) w, w.toNat / 2 ^ 26 = 0x24 → w.toNat % 2 ^ 12 = 0 → w.toNat / 2 ^ 19 % 128 < 124 →
    let a := w.toNat / 2 ^ 12 % 128
    (a < s.me.limit → s.me.queueOf a = none → exec (.illegalEncoding w) s = .next (s.takeTrap s.cur 0x01 (s.reg s.cur a))) ∧
    ((s.me.limit ≤ a ∨ s.me.queueOf a ≠ none) → exec (.illegalEncoding w) s = .next (s.takeTrap s.cur 0x01 (ofNat w.toNat)))) ∧
  ∀ s : State, exec .fallThrough s = .next (s.takeTrap s.cur 0x04 (addrOf s.here 0x180000))

/-- Where INTRAP is 0 and TRAPVEC is a code address of the own core, a trap with cause c and information v sets TRAPPC to the own
address of the pc, TRAPCAUSE to c, TRAPINFO to v, INTRAP to 1 and the pc to bits 20:0 of TRAPVEC, and the thread is ready; where
INTRAP is 1 or TRAPVEC is no code address the thread ends with status c (it drains). Either way memory, the registers and every
other slot keep their values. The instruction TRAP takes it with cause 0x10. (R157, R160) -/
def Obligations.TrapSavesAndEntersHandler : Prop :=
  (∀ (s : State) t c v off, (s.slot t).intrap = false → codeAddr (t / 64) (s.slot t).trapVec = some off →
    let u := s.takeTrap t c v
    (u.slot t).trapPc = addrOf (t / 64) (s.slot t).pc ∧ (u.slot t).trapCause = c ∧ (u.slot t).trapInfo = v ∧
    (u.slot t).intrap = true ∧ (u.slot t).pc = fld (s.slot t).trapVec 0 21 ∧ (u.slot t).phase = .ready) ∧
  (∀ (s : State) t c v, (s.slot t).intrap = true ∨ codeAddr (t / 64) (s.slot t).trapVec = none →
    ((s.takeTrap t c v).slot t).phase = .draining ∧ ((s.takeTrap t c v).slot t).status = c) ∧
  (∀ (s : State) t c v, (∀ u, u ≠ t → (s.takeTrap t c v).slot u = s.slot u) ∧
    s.takeTrap t c v = { s with slots := (s.takeTrap t c v).slots }) ∧
  ∀ (s : State) code, exec (.trap code) s = .next (s.takeTrap s.cur 0x10 (code.setWidth 64))

/-- With INTRAP 1 and TRAPPC a code address of the own core, outside a loop that ends there, RTE sets the pc to bits 20:0 of TRAPPC
and INTRAP to 0 and keeps TRAPPC, TRAPCAUSE and TRAPINFO. With INTRAP 0 it traps 0x01 with the instruction word; with INTRAP 1
and a TRAPPC that is no code address it traps 0x04, which ends the thread with status 0x04. (R157, R160) -/
def Obligations.ReturnFromTrap : Prop :=
  (∀ (s : State) off, s.me.intrap = true → codeAddr s.here s.me.trapPc = some off → s.me.loops = [] →
    ∃ t, exec .rte s = .next t ∧ t.me = { s.me with pc := fld s.me.trapPc 0 21, intrap := false, released := false } ∧
      t = { s with slots := t.slots } ∧ ∀ u, u ≠ s.cur → t.slot u = s.slot u) ∧
  (∀ s : State, s.me.intrap = false → exec .rte s = .next (s.takeTrap s.cur 0x01 (Instr.word .rte))) ∧
  ∀ s : State, s.me.intrap = true → codeAddr s.here s.me.trapPc = none →
    ∃ t, exec .rte s = .next t ∧ t.me.phase = .draining ∧ t.me.status = 0x04

/-- Where every code an instruction names is an ordinary register of the window and every source is full, its operands are the
source registers' values in order. A code at or past the limit that is no queue code, after codes that pass, is the trap 0x02;
an unbound queue code past the limit is the trap 0x09. Which of several codes that fail decides is the model's choice (log entry 44).
Where every code passes, an empty source after full ones parks the thread on it. A code inside the window whose queue binding a
RESUME on another core has undone is the trap 0x01 with the word (R198; log entry 31). (R55, R56, R57, R73, R198) -/
def Obligations.WindowOperandsAreRead : Prop :=
  (∀ (s : State) word srcs dsts, (∀ v ∈ srcs ++ dsts, WindowCode s v ∧ s.me.lost v = false) → (∀ v ∈ srcs, s.regIsFull s.cur v = true) →
    s.operands word srcs dsts = .ok (srcs.map (s.reg s.cur))) ∧
  (∀ (s : State) word srcs dsts p v r, srcs ++ dsts = p ++ v :: r → (∀ u ∈ p, WindowCode s u) → s.me.queueOf v = none → s.isMail v = false →
    s.me.limit ≤ v → s.operands word srcs dsts = .error (.trap (if 124 ≤ v ∧ v < 128 then 0x09 else 0x02) (ofNat v))) ∧
  (∀ (s : State) word srcs dsts p v r, srcs = p ++ v :: r → (∀ u ∈ srcs ++ dsts, WindowCode s u ∧ s.me.lost u = false) →
    (∀ u ∈ p, s.regIsFull s.cur u = true) →
    s.regIsFull s.cur v = false → s.operands word srcs dsts = .error (.park (.register v) (ofNat v))) ∧
  ∀ (s : State) word srcs dsts v, (∀ u ∈ srcs ++ dsts, WindowCode s u) → v ∈ srcs ++ dsts → s.me.lost v = true →
    s.operands word srcs dsts = .error (.trap 0x01 word)

/-- Where an instruction of a ready slot without queue sources completes with result w for a register code d of the window, register
d reads w and is full (g0 reads zero and stays full), every other register-file entry keeps its value and full bit, every other
slot and all else in the state is unchanged, and of its own slot only the pc, the loop stack and the release mark change;
outside a loop the pc moves on by 4. A bound queue code takes w as the last entry of its outbound queue instead. (R57, R58, R73,
R74, R85) -/
def Obligations.ResultReachesItsRegister : Prop :=
  (∀ (s : State) srcs d w, WindowCode s d → (∀ v ∈ srcs, s.me.queueOf v = none) → s.me.phase = .ready →
    let t := s.complete srcs d w
    t.reg s.cur d = (if d = 0 then 0 else w) ∧ t.regIsFull s.cur d = true ∧
    (∀ e, e ≠ s.entryOf s.cur d ∨ d = 0 → Store.get 0 t.regs e = Store.get 0 s.regs e ∧ Store.get true t.regFull e = Store.get true s.regFull e) ∧
    t = { s with regs := t.regs, regFull := t.regFull, slots := t.slots } ∧ (∀ u, u ≠ s.cur → t.slot u = s.slot u) ∧
    t.me = { s.me with pc := t.me.pc, loops := t.me.loops, released := false } ∧ (s.me.loops = [] → t.me.pc = s.me.pc + 4)) ∧
  ∀ (s : State) srcs d n w, s.me.queueOf d = some n → (∀ v ∈ srcs, s.me.queueOf v = none) →
    ((s.complete srcs d w).pipe s.here (s.me.outQueue n)).entries = (s.pipe s.here (s.me.outQueue n)).entries ++ [w]

/-- When an instruction that computes a register from registers and fields answers a next state, memory with its full and DIRTY
bits, the landing names and the network are unchanged, every register-file entry but the destination's keeps its value and full
bit, every other slot is unchanged but that one of the own core parked on the outbound queue that the destination pushes may be
woken, and of its own slot only the pc, the loops, what a trap or a park writes change. (R57, R73, R74, R79, R81, R82, R83, R84, R86) -/
def Obligations.RegisterFormsFrame : Prop :=
  ∀ (d a b : RegCode) v sh u, ∀ i ∈ registerForms d a b v sh u, ∀ s t : State, exec i s = .next t →
    SameMemory s t ∧ SameSpecials s t ∧
    (∀ e, e ≠ s.entryOf s.cur d.toNat → Store.get 0 t.regs e = Store.get 0 s.regs e ∧ Store.get true t.regFull e = Store.get true s.regFull e) ∧
    ∀ n, n ≠ s.cur → t.slot n = s.slot n ∨
      (n / 64 = s.here ∧ (s.slot n).phase = .parked ∧
        (∃ q, s.me.queueOf d.toNat = some q ∧ (s.slot n).park = .queue (s.me.outQueue q)) ∧
        t.slot n = { s.slot n with phase := .ready, park := .none })

/-- Where the destination d is an ordinary register that awaits the reply of a load, it cannot be written; an ADD whose operands can
be read then leaves the whole state as it is, to be issued again, and so does a second load of that register from a scratchpad.
(R75, R77) -/
def Obligations.DestinationAwaitingForfeits : Prop :=
  (∀ (s : State) d, WindowCode s d → s.awaits s.cur d = true → s.destReady d = .error .forfeit) ∧
  (∀ (s : State) (d a b : RegCode) vs, s.awaits s.cur d.toNat = true → WindowCode s d.toNat →
    s.operands (Instr.add d a b).word [a.toNat, b.toNat] [d.toNat] = .ok vs → exec (.add d a b) s = .next s) ∧
  ∀ (s : State) (d a : RegCode) sz off x c o, s.awaits s.cur d.toNat = true → WindowCode s d.toNat →
    s.operands (Instr.ld d a sz off).word [a.toNat] [d.toNat] = .ok [x] →
    s.resolve s.here s.rights (x + imm off * ofNat (2 ^ sz.toNat)) (2 ^ sz.toNat) = .ok (.spad c o) → exec (.ld d a sz off) s = .next s

/-- For each operation of major 0x01, every destination and source code and every state in which the sources can be read and the
destination can be written, the instruction completes and writes the value of the table of R79 (x and y the sources): wrapping
sums and products, shifts by y mod 64, comparisons, minima and maxima, high products, quotients and remainders with all ones and
x for y = 0 (truncated toward zero, and the most negative value by -1 wraps to itself), the counts of leading, trailing and one
bits, the reversed bits, and the extensions of bits y mod 64 down to 0 of x. No flag changes, and a word of the four unary
operations with a nonzero b field does not decode. (R79) -/
def Obligations.RegisterOperationResults : Prop :=
  (∀ (s : State) srcs d w, (s.complete srcs d w).me.flags = s.me.flags) ∧
  (∀ w : BitVec 32, w.toNat / 2 ^ 26 = 0x01 → 24 ≤ w.toNat % 32 → w.toNat % 32 ≤ 27 → w.toNat / 32 % 128 ≠ 0 →
    ∃ e, decode (wordBytes w.toNat) = .error e) ∧
  Binary .add (fun x y => x + y) ∧ Binary .sub (fun x y => x - y) ∧ Binary .and (fun x y => x &&& y) ∧ Binary .or (fun x y => x ||| y) ∧
  Binary .xor (fun x y => x ^^^ y) ∧ Binary .andn (fun x y => x &&& ~~~y) ∧ Binary .sll (fun x y => x <<< (y.toNat % 64)) ∧
  Binary .srl (fun x y => x >>> (y.toNat % 64)) ∧ Binary .sra (fun x y => x.sshiftRight (y.toNat % 64)) ∧
  Binary .rol (fun x y => (x <<< (y.toNat % 64)) ||| (x >>> ((64 - y.toNat % 64) % 64))) ∧
  Binary .slt (fun x y => if x.toInt < y.toInt then 1 else 0) ∧ Binary .sltz (fun x y => if x.toNat < y.toNat then 1 else 0) ∧
  Binary .seq (fun x y => if x = y then 1 else 0) ∧ Binary .min (fun x y => if x.toInt ≤ y.toInt then x else y) ∧
  Binary .max (fun x y => if x.toInt ≤ y.toInt then y else x) ∧ Binary .minz (fun x y => if x.toNat ≤ y.toNat then x else y) ∧
  Binary .maxz (fun x y => if x.toNat ≤ y.toNat then y else x) ∧ Binary .mul (fun x y => BitVec.ofNat 64 (x.toNat * y.toNat)) ∧
  Binary .mulh (fun x y => BitVec.ofInt 64 (x.toInt * y.toInt / 2 ^ 64)) ∧ Binary .mulhz (fun x y => BitVec.ofNat 64 (x.toNat * y.toNat / 2 ^ 64)) ∧
  Binary .div (fun x y => if y = 0 then BitVec.allOnes 64 else BitVec.ofInt 64 (x.toInt.tdiv y.toInt)) ∧
  Binary .divz (fun x y => if y = 0 then BitVec.allOnes 64 else BitVec.ofNat 64 (x.toNat / y.toNat)) ∧
  Binary .rem (fun x y => if y = 0 then x else BitVec.ofInt 64 (x.toInt.tmod y.toInt)) ∧
  Binary .remz (fun x y => if y = 0 then x else BitVec.ofNat 64 (x.toNat % y.toNat)) ∧
  Unary .clz (fun x w => ∃ n, n ≤ 64 ∧ w = BitVec.ofNat 64 n ∧ x.toNat < 2 ^ (64 - n) ∧ (n = 64 ∨ 2 ^ (63 - n) ≤ x.toNat)) ∧
  Unary .ctz (fun x w => ∃ n, n ≤ 64 ∧ w = BitVec.ofNat 64 n ∧ (∀ i, i < n → x.getLsbD i = false) ∧ (n = 64 ∨ x.getLsbD n = true)) ∧
  Unary .popc (fun x w => w = BitVec.ofNat 64 ((List.range 64).countP x.getLsbD)) ∧
  Unary .brev (fun x w => ∀ i, i < 64 → w.getLsbD i = x.getLsbD (63 - i)) ∧
  Binary .sext (fun x y => (x.setWidth (y.toNat % 64 + 1)).signExtend 64) ∧
  Binary .zext (fun x y => (x.setWidth (y.toNat % 64 + 1)).setWidth 64)

/-- For every state in which the source can be read and the destination written, each format I operation writes its result with the
sign-extended 12-bit immediate, and each constant shift the effect of its register form with the amount 0 to 63; a shift word
with a nonzero reserved field does not decode. (R81, R82) -/
def Obligations.ImmediateOperationResults : Prop :=
  (∀ w : BitVec 32, w.toNat / 2 ^ 26 = 0x08 → w.toNat / 64 % 16 ≠ 0 → ∃ e, decode (wordBytes w.toNat) = .error e) ∧
  Immediate (w := 12) .addi (fun x v => x + v.signExtend 64) ∧ Immediate (w := 12) .andi (fun x v => x &&& v.signExtend 64) ∧
  Immediate (w := 12) .ori (fun x v => x ||| v.signExtend 64) ∧ Immediate (w := 12) .xori (fun x v => x ^^^ v.signExtend 64) ∧
  Immediate (w := 12) .slti (fun x v => if x.toInt < (v.signExtend 64).toInt then 1 else 0) ∧
  Immediate (w := 12) .sltzi (fun x v => if x.toNat < (v.signExtend 64).toNat then 1 else 0) ∧
  Immediate (w := 6) .slli (fun x v => x <<< v.toNat) ∧ Immediate (w := 6) .srli (fun x v => x >>> v.toNat) ∧
  Immediate (w := 6) .srai (fun x v => x.sshiftRight v.toNat) ∧
  Immediate (w := 6) .roli (fun x v => (x <<< v.toNat) ||| (x >>> ((64 - v.toNat) % 64)))

/-- LUI writes the sign-extended immediate times 4096; ADDPC the address, on the own core, of its pc plus 4 times the immediate
modulo 2^21. CABS of an address with bits 63:61 001 writes it with the own X and Y added to the signed displacements and bit 61
clear, and other words unchanged; CREL is the reverse, modulo 256, for bits 63:61 000; CPACK packs X, Y and the relative bit; CX
and CY write the core's absolute X or Y, all ones for a word that is no scratchpad address. A relative address of CABS, CX or CY
that leaves the grid traps 0x04 with the address. (R83, R84, R86, R87) -/
def Obligations.ConstantsAndCoordinates : Prop :=
  (∀ d v s, ResultAt (.lui d v) [] d.toNat (fun _ => BitVec.ofInt 64 (v.toInt * 4096)) s) ∧
  (∀ d v s, ResultAt (.addpc d v) [] d.toNat (fun _ => addrOf s.here (((s.me.pc : Int) + 4 * v.toInt) % 2 ^ 21).toNat) s) ∧
  (∀ d a s, ResultAt (.cpack d a) [a.toNat] d.toNat (fun vs => pack [(fld (arg vs 0) 0 8, 32, 8), (fld (arg vs 0) 8 8, 40, 8), (fld (arg vs 0) 16 1, 61, 1)]) s) ∧
  (∀ d a s, ResultAt (.crel d a) [a.toNat] d.toNat (fun vs => let x := arg vs 0
    if fld x 61 3 = 0 then setFld (setFld (setFld x 32 8 (fld x 32 8 + 256 - coreX s.here)) 40 8 (fld x 40 8 + 256 - coreY s.here)) 61 1 1 else x) s) ∧
  ∀ (d a : RegCode) (s : State) (x : Word), s.destReady d.toNat = .ok () →
    let X := (coreX s.here : Int) + signed (fld x 32 8) 8
    let Y := (coreY s.here : Int) + signed (fld x 40 8) 8
    let inGrid := 0 ≤ X ∧ X ≤ 31 ∧ 0 ≤ Y ∧ Y ≤ 39
    let reads (i : Instr) := s.operands i.word [a.toNat] [d.toNat] = .ok [x]
    let writes (i : Instr) (w : Word) := exec i s = .next (s.complete [a.toNat] d.toNat w)
    let traps (i : Instr) := exec i s = .next (s.takeTrap s.cur 0x04 x)
    (reads (.cabs d a) → (fld x 61 3 = 1 → inGrid → writes (.cabs d a) (setFld (setFld (setFld x 32 8 X.toNat) 40 8 Y.toNat) 61 1 0)) ∧
      (fld x 61 3 = 1 → ¬ inGrid → traps (.cabs d a)) ∧ (fld x 61 3 ≠ 1 → writes (.cabs d a) x)) ∧
    (reads (.cx d a) → (fld x 61 3 = 1 → inGrid → writes (.cx d a) (ofNat X.toNat)) ∧ (fld x 61 3 = 1 → ¬ inGrid → traps (.cx d a)) ∧
      (fld x 61 3 = 0 ∨ fld x 61 3 = 4 → writes (.cx d a) (ofNat (fld x 32 8))) ∧
      (fld x 62 2 = 1 ∨ fld x 62 2 = 3 ∨ fld x 61 3 = 5 → writes (.cx d a) (BitVec.allOnes 64))) ∧
    (reads (.cy d a) → (fld x 61 3 = 1 → inGrid → writes (.cy d a) (ofNat Y.toNat)) ∧ (fld x 61 3 = 1 → ¬ inGrid → traps (.cy d a)) ∧
      (fld x 61 3 = 0 ∨ fld x 61 3 = 4 → writes (.cy d a) (ofNat (fld x 40 8))) ∧
      (fld x 62 2 = 1 ∨ fld x 62 2 = 3 ∨ fld x 61 3 = 5 → writes (.cy d a) (BitVec.allOnes 64)))

/-- A branch whose condition holds on the value of its register (for BFULL and BEMPTY on its full bit) continues at its own offset
plus 4 times the displacement, or traps 0x04 where that lies outside the scratchpad; one whose condition does not hold continues
with the next instruction. Nothing is written. For a window register the full bit tested is the register's, for a bound queue
whether its inbound queue holds an entry. (R88, R89) -/
def Obligations.BranchesTestTheirCondition : Prop :=
  (∀ (a : RegCode) (off : BitVec 16) (s : State) (x : Word), ∀ p ∈ [((Instr.bz a off, decide (x = 0)) : Instr × Bool), (.bnz a off, decide (x ≠ 0)),
      (.bltz a off, decide (x.toInt < 0)), (.bgez a off, decide (0 ≤ x.toInt)), (.bgtz a off, decide (0 < x.toInt)), (.blez a off, decide (x.toInt ≤ 0))],
    s.operands p.1.word [a.toNat] [] = .ok [x] →
    let t := (s.me.pc : Int) + 4 * off.toInt
    (p.2 = true → 0 ≤ t → t < 0x180000 → exec p.1 s = .next ((s.consume [a.toNat]).jump t.toNat)) ∧
    (p.2 = true → (t < 0 ∨ 0x180000 ≤ t) → exec p.1 s = .next (s.takeTrap s.cur 0x04 (BitVec.ofInt 64 t))) ∧
    (p.2 = false → exec p.1 s = .next (s.completeNone [a.toNat]))) ∧
  (∀ (a : RegCode) (off : BitVec 16) (s : State), ∀ p ∈ [((Instr.bfull a off, true) : Instr × Bool), (.bempty a off, false)],
    s.checkCode a.toNat = .ok () → s.checkQueues p.1.word [a.toNat] [] = .ok () →
    let t := (s.me.pc : Int) + 4 * off.toInt
    (s.fullTest a.toNat = p.2 → 0 ≤ t → t < 0x180000 → exec p.1 s = .next (s.jump t.toNat)) ∧
    (s.fullTest a.toNat = p.2 → (t < 0 ∨ 0x180000 ≤ t) → exec p.1 s = .next (s.takeTrap s.cur 0x04 (BitVec.ofInt 64 t))) ∧
    (s.fullTest a.toNat ≠ p.2 → exec p.1 s = .next (s.completeNone []))) ∧
  (∀ (s : State) v, WindowCode s v → s.fullTest v = s.regIsFull s.cur v) ∧
  ∀ (s : State) v n, s.me.queueOf v = some n → s.fullTest v = !(s.pipe s.here (s.me.inQueue n)).entries.isEmpty

/-- JMP continues at its offset plus 4 times the immediate, JMPR at the offset of g[a] plus the immediate on the own core; both
write the address of the next word to d, and trap 0x04 for a target outside (JMPR 0x03 for one that is not a multiple of 4). In
service mode with fewer than four levels and a body inside the scratchpad, LOOP with a count other than 0 opens a level over its
body with that count and goes on, and with count 0 goes on after the body; in another mode it traps 0x0D, at four levels 0x01. A
jump or taken branch keeps the levels whose body holds the target, and sequential execution at a body's end starts it again
while its count is above 1. (R90, R91, R167) -/
def Obligations.JumpsLinkAndLoopsPush : Prop :=
  (∀ (d : RegCode) (v : BitVec 19) (s : State), s.operands (Instr.jmp d v).word [] [d.toNat] = .ok [] →
    let t := (s.me.pc : Int) + 4 * v.toInt
    (0 ≤ t → t < 0x180000 → s.destReady d.toNat = .ok () →
      exec (.jmp d v) s = .next ((s.jump t.toNat).writeDest d.toNat (addrOf s.here (s.me.pc + 4)))) ∧
    (t < 0 ∨ 0x180000 ≤ t → exec (.jmp d v) s = .next (s.takeTrap s.cur 0x04 (BitVec.ofInt 64 t)))) ∧
  (∀ (d a : RegCode) (v : BitVec 12) (s : State) x, s.operands (Instr.jmpr d a v).word [a.toNat] [d.toNat] = .ok [x] →
    (∀ off, ownOffset s.here (x + v.signExtend 64) = some off → (x + v.signExtend 64).toNat % 4 = 0 → s.destReady d.toNat = .ok () →
      exec (.jmpr d a v) s = .next (((s.consume [a.toNat]).jump off).writeDest d.toNat (addrOf s.here (s.me.pc + 4)))) ∧
    (∀ off, ownOffset s.here (x + v.signExtend 64) = some off → (x + v.signExtend 64).toNat % 4 ≠ 0 →
      exec (.jmpr d a v) s = .next (s.takeTrap s.cur 0x03 (x + v.signExtend 64))) ∧
    (ownOffset s.here (x + v.signExtend 64) = none → exec (.jmpr d a v) s = .next (s.takeTrap s.cur 0x04 (x + v.signExtend 64)))) ∧
  (∀ (c : RegCode) (len : BitVec 12) (s : State) n, s.me.mode = 2 → s.operands (Instr.loop c len).word [c.toNat] [] = .ok [n] →
    (s.me.loops.length < 4 → s.me.pc + 4 * len.toNat ≤ 0x17FFFC → n ≠ 0 →
      exec (.loop c len) s = .next ((s.consume [c.toNat]).modMe fun sl => { sl with
        pc := sl.pc + 4, loops := { start := sl.pc + 4, stop := s.me.pc + 4 * len.toNat + 4, count := n.toNat } :: sl.loops, released := false })) ∧
    (s.me.loops = [] → s.me.pc + 4 * len.toNat ≤ 0x17FFFC → n = 0 →
      exec (.loop c len) s = .next ((s.consume [c.toNat]).modMe fun sl => { sl with pc := s.me.pc + 4 * len.toNat + 4, loops := [], released := false })) ∧
    (4 ≤ s.me.loops.length → exec (.loop c len) s = .next (s.takeTrap s.cur 0x01 (Instr.loop c len).word))) ∧
  (∀ (c : RegCode) (len : BitVec 12) (s : State), s.me.mode ≠ 2 → exec (.loop c len) s = .next (s.takeTrap s.cur 0x0D (Instr.loop c len).word)) ∧
  (∀ (sl : Slot) t, (sl.jump t).pc = t ∧ ∀ l, l ∈ (sl.jump t).loops ↔ l ∈ sl.loops ∧ l.start ≤ t ∧ t < l.stop) ∧
  (∀ (sl : Slot) l r, sl.loops = l :: r → l.stop = sl.pc + 4 → 1 < l.count →
    sl.advance.pc = l.start ∧ sl.advance.loops = { l with count := l.count - 1 } :: r) ∧
  ∀ (sl : Slot) l, sl.loops = [l] → l.stop = sl.pc + 4 → l.count ≤ 1 → sl.advance.pc = sl.pc + 4 ∧ sl.advance.loops = []

namespace Sys2Proof.Claims

/-- The address an M-format access forms (R92). -/
def accessAddr (x : Word) (off : BitVec 10) (n : Nat) : Word := x + off.signExtend 64 * BitVec.ofNat 64 n

/-- The absolute space-00 address of an offset on the core at (x, y), written out. -/
def absolute (x y off : Nat) : Word := BitVec.ofNat 64 (off + x * 2 ^ 32 + y * 2 ^ 40)

/-- The space-00 address with the fields x, y and off, in the relative form if rel, written out. -/
def spaceZero (x y off : Nat) (rel : Bool) : Word := BitVec.ofNat 64 (off + x * 2 ^ 32 + y * 2 ^ 40 + if rel then 2 ^ 61 else 0)

end Sys2Proof.Claims

/-- Where the address g[a] plus the scaled offset resolves to the issuing core, LD completes with the sign-extended and LDZ with the
zero-extended value of the 1, 2, 4 or 8 bytes there, byte i being bits 8i+7 to 8i of the value; the full bits of memory are not
looked at and no counter moves. A load whose address resolves to a fault takes that trap with the address in TRAPINFO (in a slot
other than 63). (R3, R92, R95, R97, R98, R99) -/
def Obligations.LocalLoadsExtendTheBytes : Prop :=
  (∀ (d a : RegCode) (sz : BitVec 2) off (s : State) x o, s.operands (Instr.ld d a sz off).word [a.toNat] [d.toNat] = .ok [x] →
    s.destReady d.toNat = .ok () → s.here < 1280 → o < 0x180000 → s.resolve s.here s.rights (accessAddr x off (2 ^ sz.toNat)) (2 ^ sz.toNat) = .ok (.spad s.here o) →
    exec (.ld d a sz off) s = .next (s.complete [a.toNat] d.toNat
      ((BitVec.ofNat (8 * 2 ^ sz.toNat) (s.mem.readN (s.here * 0x200000 + o) (2 ^ sz.toNat))).signExtend 64))) ∧
  (∀ (d a : RegCode) (sz : BitVec 2) off (s : State) x o, s.operands (Instr.ldz d a sz off).word [a.toNat] [d.toNat] = .ok [x] →
    s.destReady d.toNat = .ok () → s.here < 1280 → o < 0x180000 → s.resolve s.here s.rights (accessAddr x off (2 ^ sz.toNat)) (2 ^ sz.toNat) = .ok (.spad s.here o) →
    exec (.ldz d a sz off) s = .next (s.complete [a.toNat] d.toNat
      (BitVec.ofNat 64 (s.mem.readN (s.here * 0x200000 + o) (2 ^ sz.toNat))))) ∧
  (∀ (m : Memory) k n i, i < n → m.readN k n / 256 ^ i % 256 = (m.byte (k + i)).toNat) ∧
  (∀ (m : Memory) k n, m.readN k n < 256 ^ n) ∧
  ∀ (d a : RegCode) (sz : BitVec 2) off (s : State) x c v, s.num ≠ 63 →
    s.resolve s.here s.rights (accessAddr x off (2 ^ sz.toNat)) (2 ^ sz.toNat) = .error (.trap c v) →
    (s.operands (Instr.ld d a sz off).word [a.toNat] [d.toNat] = .ok [x] → exec (.ld d a sz off) s = .next (s.takeTrap s.cur c v)) ∧
    (s.operands (Instr.ldz d a sz off).word [a.toNat] [d.toNat] = .ok [x] → exec (.ldz d a sz off) s = .next (s.takeTrap s.cur c v))

namespace Sys2Proof.Claims

/-- Key k is one of the n bytes at a key, of a record, home entry or owner-table entry of the region store that these touch (R330), or of a
word that they store to and a sequencer command uses (R362). -/
def TouchedBy (s : State) (key n k : Nat) : Prop :=
  (key ≤ k ∧ k < key + n) ∨
  (∃ r ∈ s.recordsHit (keyCore key) (keyOff key) n, spadKey (keyCore key) r.1 ≤ k ∧ k < spadKey (keyCore key) r.1 + r.2) ∨
  (∃ e ∈ s.bricksHit (keyCore key) (keyOff key) n,
    spadKey (keyCore key) (e.1.mapOff + 2 * e.2) ≤ k ∧ k < spadKey (keyCore key) (e.1.mapOff + 2 * e.2) + 2) ∨
  (s.sequencerHit (keyCore key) (keyOff key) n = true ∧ spadKey (keyCore key) (keyOff key / 8 * 8) ≤ k ∧
    k < spadKey (keyCore key) ((keyOff key + n + 7) / 8 * 8))

end Sys2Proof.Claims

/-- Where the address resolves to the issuing core, ST completes: each of the 1, 2, 4 or 8 bytes from that address takes its byte of
g[d], every other byte reads as before, every full bit and every register is unchanged, the DIRTY bit of the address's region is
set and no other changes, and of the slot only the pc, the loops and the release mark change; a source that is a bound queue is
popped. A store that meets a record, a home or owner-table entry of the region store, a word that a sequencer command uses or a
scale word of an MMAS leaves these undefined beside (R330, R362, R132; which stores meet them is log entry 51, the model's reading): it
is the plain write followed by that, every byte outside what it touches still reads as before, and registers, full bits, names, the
network and every slot are as after the write; where it meets a scale word of an MMAS that has finished and that its thread has not seen
to be over, every accumulator word is a free value. (R3, R5, R92, R95, R97, R98, R132, R152, R330, R362) -/
def Obligations.LocalStoresWriteTheirBytes : Prop :=
  (∀ (d a : RegCode) (sz : BitVec 2) off (s : State) x v o, s.operands (Instr.st d a sz off).word [a.toNat, d.toNat] [] = .ok [x, v] →
    s.here < 1280 → o % 2 ^ sz.toNat = 0 → o < 0x180000 →
    s.resolve s.here s.rights (accessAddr x off (2 ^ sz.toNat)) (2 ^ sz.toNat) = .ok (.spad s.here o) →
    s.undisturbed true (s.here * 0x200000 + o) (2 ^ sz.toNat) = true →
    ∃ t, exec (.st d a sz off) s = .next t ∧
      (∀ i, i < 2 ^ sz.toNat → (t.mem.byte (s.here * 0x200000 + o + i)).toNat = v.toNat / 256 ^ i % 256) ∧
      (∀ k, (∀ i, i < 2 ^ sz.toNat → k ≠ s.here * 0x200000 + o + i) → t.mem.byte k = s.mem.byte k) ∧
      t.memFull = s.memFull ∧ t.regs = s.regs ∧ t.regFull = s.regFull ∧ t.names = s.names ∧ t.net = s.net ∧
      (∀ k, Store.get false t.dirty k = if k = s.here * 24 + o / 0x10000 then true else Store.get false s.dirty k) ∧
      t.me = { s.me with pc := t.me.pc, loops := t.me.loops, released := false } ∧ (s.me.loops = [] → t.me.pc = s.me.pc + 4) ∧
      (∀ u, u ≠ s.cur → t.slot u = s.slot u) ∧
      ((∀ w ∈ [a.toNat, d.toNat], s.me.queueOf w = none) → t.cores = s.cores)) ∧
  (∀ (d a : RegCode) (sz : BitVec 2) off (s : State) x v o, s.operands (Instr.st d a sz off).word [a.toNat, d.toNat] [] = .ok [x, v] →
    s.here < 1280 → o < 0x180000 →
    s.resolve s.here s.rights (accessAddr x off (2 ^ sz.toNat)) (2 ^ sz.toNat) = .ok (.spad s.here o) →
    exec (.st d a sz off) s = .next ((s.store (s.here * 0x200000 + o) (2 ^ sz.toNat) v.toNat).completeNone [a.toNat, d.toNat])) ∧
  ∀ (s : State) key n v, (s.undisturbed true key n = true → s.store key n v = s.write key n v) ∧
    (∀ k, ¬ TouchedBy s key n k → (s.store key n v).mem.byte k = s.mem.byte k) ∧
    (let t := s.store key n v
     t.memFull = s.memFull ∧ t.regs = s.regs ∧ t.regFull = s.regFull ∧ t.names = s.names ∧ t.net = s.net ∧ t.slots = s.slots) ∧
    (isBulk key = false → 0 < n → s.unseenHit (keyCore key) (keyOff key) n = true → ∃ f, ∀ i, i < 2048 →
      Store.get 0 ((s.store key n v).coreRec (keyCore key)).matrix.acc i = BitVec.ofNat 32 (fld (Config.freeWord (f + i / 2)) (32 * (i % 2)) 32))

/-- Where the address resolves to another core, or through a translation to bulk memory, and a request can be sent: LD and LDZ with
LD below 63 put a load request for the core or channel group into the network, set the TOUCH bit of its cluster or group, add 1 to LD,
make the ordinary register d empty and awaiting, and go on; ST with ST below 63 sends the store with its data, sets the TOUCH bit,
adds 1 to ST and goes on. At 63 both forfeit and nothing changes. A fabric ST posts its write to the other package, sets that package's
TOUCH bit and adds 1 to ST; a fabric LD or LDZ traps 0x0F in a thread that cannot migrate, and otherwise, with its counters 0, the
package reachable and its networks' quotas open, asks it for a slot, sets its TOUCH bit and leaves the rotation. No byte of memory changes at issue. (R98, R99, R100,
R101, R102, R103, R248, R270, R282) -/
def Obligations.RemoteAccessesPostRequests : Prop :=
  (∀ (d a : RegCode) (sz : BitVec 2) off (s s1 : State) x c o (sx : Bool), c ≠ s.here → c < 1280 → o < 0x180000 → WindowCode s d.toNat → s.destReady d.toNat = .ok () →
    let i := if sx then Instr.ld d a sz off else Instr.ldz d a sz off
    s.operands i.word [a.toNat] [d.toNat] = .ok [x] → s.me.queueOf a.toNat = none →
    s.resolve s.here s.rights (accessAddr x off (2 ^ sz.toNat)) (2 ^ sz.toNat) = .ok (.spad c o) →
    (s.me.ld < 63 → s.request (.core c) (.load (c * 0x200000 + o) (2 ^ sz.toNat) sx d.toNat) = .ok s1 →
      ∃ t, exec i s = .next t ∧ t.net = s1.net ∧ t.credits = s1.credits ∧ t.mem = s.mem ∧ t.me.ld = s.me.ld + 1 ∧
        t.me.touch = s.me.touch ||| (1#64 <<< clusterOf c) ∧ t.regs = s.regs ∧
        (d ≠ 0 → t.regIsFull s.cur d.toNat = false ∧ t.awaits s.cur d.toNat = true) ∧ (s.me.loops = [] → t.me.pc = s.me.pc + 4)) ∧
    (63 ≤ s.me.ld → exec i s = .next s)) ∧
  (∀ (d a : RegCode) (sz : BitVec 2) off (s s1 : State) x v c o, c ≠ s.here → c < 1280 → o < 0x180000 →
    s.operands (Instr.st d a sz off).word [a.toNat, d.toNat] [] = .ok [x, v] → (∀ w ∈ [a.toNat, d.toNat], s.me.queueOf w = none) →
    s.resolve s.here s.rights (accessAddr x off (2 ^ sz.toNat)) (2 ^ sz.toNat) = .ok (.spad c o) →
    (s.me.st < 63 → s.request (.core c) (.store (c * 0x200000 + o) (2 ^ sz.toNat) v) = .ok s1 →
      ∃ t, exec (.st d a sz off) s = .next t ∧ t.net = s1.net ∧ t.credits = s1.credits ∧ t.mem = s.mem ∧ t.me.st = s.me.st + 1 ∧
        t.me.touch = s.me.touch ||| (1#64 <<< clusterOf c) ∧ t.regs = s.regs ∧ t.regFull = s.regFull ∧ (s.me.loops = [] → t.me.pc = s.me.pc + 4)) ∧
    (63 ≤ s.me.st → exec (.st d a sz off) s = .next s)) ∧
  (∀ (d a : RegCode) (sz : BitVec 2) off (s s0 s1 : State) x va key (sx : Bool), WindowCode s d.toNat → s.awaits s.cur d.toNat = false →
    let i := if sx then Instr.ld d a sz off else Instr.ldz d a sz off
    s.operands i.word [a.toNat] [d.toNat] = .ok [x] → s.me.queueOf a.toNat = none → s.here < 1280 →
    s.resolve s.here s.rights (accessAddr x off (2 ^ sz.toNat)) (2 ^ sz.toNat) = .ok (.bulk va) →
    s.bulkAccess s.here s.rights va 0 = .ok (key, s0) →
    s.me.ld < 63 → s0.request (keyNode key) (.load key (2 ^ sz.toNat) sx d.toNat) = .ok s1 →
    ∃ t, exec i s = .next t ∧ t.net = s1.net ∧ t.credits = s1.credits ∧ t.mem = s.mem ∧ t.me.ld = s.me.ld + 1 ∧
      t.me.touch = s.me.touch ||| (1#64 <<< (40 + keyGroup key)) ∧ t.regs = s.regs ∧
      (d ≠ 0 → t.regIsFull s.cur d.toNat = false ∧ t.awaits s.cur d.toNat = true) ∧ (s.me.loops = [] → t.me.pc = s.me.pc + 4)) ∧
  (∀ (d a : RegCode) (sz : BitVec 2) off (s s0 s1 : State) x v va key,
    s.operands (Instr.st d a sz off).word [a.toNat, d.toNat] [] = .ok [x, v] → (∀ w ∈ [a.toNat, d.toNat], s.me.queueOf w = none) → s.here < 1280 →
    s.resolve s.here s.rights (accessAddr x off (2 ^ sz.toNat)) (2 ^ sz.toNat) = .ok (.bulk va) →
    s.bulkAccess s.here s.rights va 1 = .ok (key, s0) →
    s.me.st < 63 → s0.request (keyNode key) (.store key (2 ^ sz.toNat) v) = .ok s1 →
    ∃ t, exec (.st d a sz off) s = .next t ∧ t.net = s1.net ∧ t.credits = s1.credits ∧ t.mem = s.mem ∧ t.me.st = s.me.st + 1 ∧
      t.me.touch = s.me.touch ||| (1#64 <<< (40 + keyGroup key)) ∧ t.regs = s.regs ∧ t.regFull = s.regFull ∧ (s.me.loops = [] → t.me.pc = s.me.pc + 4)) ∧
  (∀ (d a : RegCode) (sz : BitVec 2) off (s s1 : State) x v p y,
    s.operands (Instr.st d a sz off).word [a.toNat, d.toNat] [] = .ok [x, v] → (∀ w ∈ [a.toNat, d.toNat], s.me.queueOf w = none) →
    s.resolve s.here s.rights (accessAddr x off (2 ^ sz.toNat)) (2 ^ sz.toNat) = .ok (.fabric p y) →
    (s.me.st < 63 → s.requestAbroad p (.store y) (.fabric y (.store (2 ^ sz.toNat) v)) = .ok s1 →
      ∃ t, exec (.st d a sz off) s = .next t ∧ t.net = s1.net ∧ t.outstanding = s1.outstanding ∧ t.mem = s.mem ∧ t.me.st = s.me.st + 1 ∧
        t.me.touch = s.me.touch ||| (1#64 <<< (56 + p % 8)) ∧ t.regs = s.regs ∧ (s.me.loops = [] → t.me.pc = s.me.pc + 4)) ∧
    (63 ≤ s.me.st → exec (.st d a sz off) s = .next s)) ∧
  (∀ (d a : RegCode) (sz : BitVec 2) off (s : State) x p y (sx : Bool), let i := if sx then Instr.ld d a sz off else Instr.ldz d a sz off
    s.operands i.word [a.toNat] [d.toNat] = .ok [x] → s.num ≠ 63 →
    s.resolve s.here s.rights (accessAddr x off (2 ^ sz.toNat)) (2 ^ sz.toNat) = .ok (.fabric p y) →
    (s.me.mig = false → exec i s = .next (s.takeTrap s.cur 0x0F y)) ∧
    (s.me.mig = true → s.me.guest = false → s.me.ld + s.me.st + s.me.tl + s.me.cp ≠ 0 → exec i s = .next s) ∧
    (s.me.mig = true → s.me.guest = false → s.me.ld + s.me.st + s.me.tl + s.me.cp = 0 → s.me.intrap = false →
      (∀ r < 8, Store.get 0 s.me.ptrs r = 0) → (∀ q < 4, s.me.isBound q = false) →
      (s.liveNames s.here s.num).length + s.me.carried.length ≤ 4 → s.isUnreachable s.here p = false →
      s.canInject s.here (s.carriers s.me.ctx s.here (.pkg p)) = true → ∃ t m, exec i s = .next t ∧ t.net = s.net ++ [m] ∧ m.dst = .pkg p ∧ m.body = .migrateAsk y ∧ m.id = s.nextId ∧ t.mem = s.mem ∧
        t.me.phase = .parked ∧ t.me.park = .remote s.nextId ∧ t.me.pc = s.me.pc ∧ t.me.touch = s.me.touch ||| (1#64 <<< (56 + p % 8)))) ∧
  (∀ (s s1 : State) dst b, s.request dst b = .ok s1 →
    (∃ m, s1.net = s.net ++ [m] ∧ m.id = s.nextId ∧ m.body = b ∧ m.dst = dst ∧ m.src = .core s.here ∧ m.resp = false ∧
      m.credit = some (clusterOf s.here, dst)) ∧ s1.nextId = s.nextId + 1 ∧ s1.mem = s.mem ∧ s1.regs = s.regs ∧ s1.slots = s.slots) ∧
  ∀ (s s1 : State) p what b, s.requestAbroad p what b = .ok s1 → s.isUnreachable s.here p = false →
    ∃ m o, s1.net = s.net ++ [m] ∧ m.id = s.nextId ∧ m.body = b ∧ m.dst = .pkg p ∧ m.src = .core s.here ∧ m.credit = none ∧
      s1.outstanding = s.outstanding ++ [o] ∧ o.id = s.nextId ∧ o.uid = s.me.uid ∧ o.pkg = p ∧ o.what = what ∧ s1.slots = s.slots

/-- A space-00 address names the core at its fields X and Y, or, with bit 61 set, at the issuing core's place moved by these as signed
numbers. It resolves to that core and its offset where the core is in the grid and on-line, the offset below 0x18_0000 and aligned, and
the access of a supervisor or to a core of the context's partition that is no pager. A place outside the grid, an offset outside, and a
bit of 60:48 or 31:21 set, are the trap 0x04, then a misaligned offset 0x03, then an off-line core 0x04, then a user access outside the
partition 0x05. Space 11 and a space-01 address with a bit of 61:48 set are the trap 0x04, a misaligned space-01 address 0x03; an aligned
one is bulk memory at bits 47:0. A fabric address with a bit of 60:54 set is the trap 0x04. With the own package number it resolves as its
low 48 bits do, in bulk memory with bit 61 set and else in a scratchpad. With another number a misaligned one is the trap 0x03, then one
with bit 61 clear and a bit of 31:21, a place or an offset outside 0x04; every other is fabric. TRAPINFO is the address. (R14, R93, R95,
R403) -/
def Obligations.AddressesResolveByTheirSpace : Prop :=
  (∀ (s : State) c (r : Rights) x y off n rel, x < 256 → y < 256 → off < 2 ^ 21 → 0 < n →
    let a := spaceZero x y off rel
    let X : Int := if rel then coreX c + signed x 8 else x
    let Y : Int := if rel then coreY c + signed y 8 else y
    let t := coreAt X.toNat Y.toNat
    ((X < 0 ∨ 31 < X ∨ Y < 0 ∨ 39 < Y ∨ 0x180000 ≤ off) → s.resolve c r a n = .error (.trap 0x04 a)) ∧
    (0 ≤ X → X ≤ 31 → 0 ≤ Y → Y ≤ 39 → off < 0x180000 →
      (off % n ≠ 0 → s.resolve c r a n = .error (.trap 0x03 a)) ∧
      (off % n = 0 → s.isOffline t = true → s.resolve c r a n = .error (.trap 0x04 a)) ∧
      (off % n = 0 → s.isOffline t = false →
        (r.sup = true ∨ (s.isPager t = false ∧ s.inPartition r.ctx t = true) → s.resolve c r a n = .ok (.spad t off)) ∧
        (r.sup = false ∧ (s.isPager t = true ∨ s.inPartition r.ctx t = false) → s.resolve c r a n = .error (.trap 0x05 a))))) ∧
  (∀ x y off, absolute x y off = spaceZero x y off false) ∧
  (∀ (s : State) c (r : Rights) a n, fld a 62 2 = 0 → fld a 48 13 ≠ 0 ∨ fld a 21 11 ≠ 0 → s.resolve c r a n = .error (.trap 0x04 a)) ∧
  (∀ (s : State) c (r : Rights) a n, fld a 62 2 = 3 → s.resolve c r a n = .error (.trap 0x04 a)) ∧
  (∀ (s : State) c (r : Rights) a n, fld a 62 2 = 1 →
    (fld a 48 14 ≠ 0 → s.resolve c r a n = .error (.trap 0x04 a)) ∧
    (fld a 48 14 = 0 → a.toNat % n ≠ 0 → s.resolve c r a n = .error (.trap 0x03 a)) ∧
    (fld a 48 14 = 0 → a.toNat % n = 0 → s.resolve c r a n = .ok (.bulk (fld a 0 48)))) ∧
  (∀ (s : State) c (r : Rights) a n, fld a 62 2 = 2 → fld a 54 7 ≠ 0 → s.resolve c r a n = .error (.trap 0x04 a)) ∧
  (∀ (s : State) c (r : Rights) a n, fld a 62 2 = 2 → fld a 54 7 = 0 → fld a 48 6 = s.pkgNum →
    (bitAt a 61 = false → let b : Word := BitVec.ofNat 64 (fld a 0 48)
      (∀ t off, s.resolve c r b n = .ok (.spad t off) → s.resolve c r a n = .ok (.spad t off)) ∧
      ∀ k v, s.resolve c r b n = .error (.trap k v) → s.resolve c r a n = .error (.trap k a)) ∧
    (bitAt a 61 = true → (a.toNat % n ≠ 0 → s.resolve c r a n = .error (.trap 0x03 a)) ∧
      (a.toNat % n = 0 → s.resolve c r a n = .ok (.bulk (fld a 0 48))))) ∧
  ∀ (s : State) c (r : Rights) a n, fld a 62 2 = 2 → fld a 54 7 = 0 → fld a 48 6 ≠ s.pkgNum →
    let outside := bitAt a 61 = false ∧ (fld a 21 11 ≠ 0 ∨ 31 < fld a 32 8 ∨ 39 < fld a 40 8 ∨ 0x180000 ≤ fld a 0 21)
    (a.toNat % n ≠ 0 → s.resolve c r a n = .error (.trap 0x03 a)) ∧
    (a.toNat % n = 0 → outside → s.resolve c r a n = .error (.trap 0x04 a)) ∧
    (a.toNat % n = 0 → ¬ outside → s.resolve c r a n = .ok (.fabric (fld a 48 6) a))

/-- A request with a credit that is first in its stream is started while its core has fewer than 16 response entries reserved, and a
message that reaches a gated core ends its gating (R17). A started load is performed: the answer, under the request's number, carries the extended value of the bytes; a started store
writes its bytes as a local ST does and is acknowledged; a line load answers with 16 words; an answer goes to the request's source
under its number. The source's router takes an answer's credit back, and then lets packets from other packages that waited for a credit
go on. A load's answer without credit writes the register of its thread, clears the awaiting mark and subtracts 1 from LD; an
acknowledgement subtracts 1 from ST, and one with a cause makes a boundary trap pending, or, in slot 63 with a copy in service, ends that
with the code of the destination operand. (R17, R99, R100, R105, R138, R145, R270, R271, R380, R381) -/
def Obligations.RequestsArePerformedAndAnswered : Prop :=
  (∀ (s : State) m x c, s.arrived m = some x → x.credit.isSome = true → x.resp = false → x.started = false → x.dst = .core c →
    (s.coreRec c).entries < 16 → exec (.requestStart m) s = .next
      ((({ s with cores := s.coresReached m } : State).setMsg { x with started := true }).setEntries ((s.coreRec c).entries + 1) (.core c))) ∧
  (∀ (s : State) m x c e, s.findMsg m = some x → x.dst = .core c →
    ({ s with cores := s.coresReached m } : State).coreRec e = if e = c then { s.coreRec c with gated := false } else s.coreRec e) ∧
  (∀ (s : State) x b, (∀ p, x.src ≠ .pkg p) →
    s.respond x b = (s.dropMsg x.id).sendAs { x with src := x.dst, dst := x.src, resp := true, body := b }) ∧
  (∀ (s : State) m x key n sx reg, s.arrived m = some x → x.resp = false → x.started = true → x.body = .load key n sx reg →
    exec (.inboundRequest m) s = .next (s.respond x (.value reg (extend sx n (s.mem.readN key n)) false false))) ∧
  (∀ (s : State) m x key n v, s.arrived m = some x → x.resp = false → x.started = true → x.body = .store key n v →
    exec (.inboundRequest m) s = .next ((s.store key n v.toNat).respond x (.ack 0 0))) ∧
  (∀ (s : State) m x key dst name, s.arrived m = some x → x.resp = false → x.started = true → x.body = .line key dst name →
    exec (.inboundRequest m) s = .next (s.respond x (.lineData dst (s.readWords key 16) name 0))) ∧
  (∀ (s : State) m x k, s.findMsg m = some x → x.resp = true → x.credit = some k → x.started = false → x.body ≠ .credit →
    let t := (s.freeCredit k.1 k.2).setMsg { x with credit := none, started := false }
    exec (.creditReturn m) s = .next (passAll (s.partials.length + 1) t) ∧ (s.partials = [] → exec (.creditReturn m) s = .next t)) ∧
  (∀ (s : State) m x reg v, s.response m = some x → x.body = .value reg v false false →
    exec (.loadReply m) s = .next ((s.dropMsg m).applyReply x.uid reg v false)) ∧
  (∀ (s : State) m x cause info, s.response m = some x → x.body = .ack cause info →
    let u := (s.dropMsg m).modThreadCounters x.uid fun sl => { sl with st := sl.st - 1 }
    (cause = 0 → exec (.storeAck m) s = .next u) ∧
    (cause ≠ 0 → u.moverOf x.uid = none → exec (.storeAck m) s = .next (u.pendThread x.uid cause info)) ∧
    ∀ c q, cause ≠ 0 → u.moverOf x.uid = some (c, q) → ∃ t, exec (.storeAck m) s = .next t ∧
      (t.coreRec c).finishing = some (BitVec.ofNat 64 (cause * 256 + 6 * 16 + 12 + q.op)) ∧ t.mem = s.mem) ∧
  (∀ (s : State) uid, s.moverOf uid = match s.findThread uid with
    | some t => if t % 64 = 63 then (s.coreRec (t / 64)).mailbox.map (fun q => (t / 64, q)) else none
    | none => none) ∧
  ∀ (s : State) uid t v w, s.findThread uid = some t → (s.slot t).uid = uid → (s.slot t).queueOf v = none → t % 64 ≠ 63 → v ≠ 0 → v < 128 → (124 ≤ v → v < (s.slot t).limit) → (s.slot t).phase = .ready →
    let u := s.applyReply uid v w false
    u.reg t v = w ∧ u.regIsFull t v = true ∧ u.awaits t v = false ∧ (u.slot t).ld = (s.slot t).ld - 1 ∧ (u.slot t).st = (s.slot t).st ∧ u.mem = s.mem

namespace Sys2Proof.Claims

/-- The release that an access with this ordering asks for is complete (R315): it asks for none, or has no echo to send or has had them answered. -/
def Released (ord : BitVec 2) (sc : BitVec 3) (info : Word) (s : State) : Prop :=
  ord.getLsbD 1 = true → s.release (scopeOf sc) info = .ok none

/-- From its sources on, an ATOM form on a word of the own core's scratchpad stores f of the old value, g[d] and g[d+1], and writes the
old value to d. A store of a word is the write of LocalStoresWriteTheirBytes. -/
def AtomStores (i : RegCode → RegCode → BitVec 2 → BitVec 3 → Instr) (cas : Bool) (f : Word → Word → Word → Word) : Prop :=
  ∀ (d a : RegCode) ord sc (s : State) vs o,
    let srcs := if cas then [a.toNat, d.toNat, d.toNat + 1] else [a.toNat, d.toNat]
    let key := s.here * 0x200000 + o
    s.runOperands (i d a ord sc).word srcs (if cas then [d.toNat, d.toNat + 1] else []) [d.toNat] = .ok vs →
    s.resolve s.here s.rights (arg vs 0) 8 = .ok (.spad s.here o) → s.here < 1280 → o < 0x180000 → s.destReady d.toNat = .ok () →
    Released ord sc (arg vs 0) s →
    exec (i d a ord sc) s = .next ((s.store64 key (f (s.read64 key) (arg vs 1) (arg vs 2))).complete srcs d.toNat (s.read64 key))

/-- From its sources on, an ATOM form on a word of another core, or of bulk memory through a translation, posts its request, adds 1 to
ST and sets the TOUCH bit of the cluster or channel group; with .acq the thread leaves the rotation until the answer, and without it
goes on. -/
def AtomSends (i : RegCode → RegCode → BitVec 2 → BitVec 3 → Instr) (op : AtomOp) : Prop :=
  ∀ (d a : RegCode) ord sc (s s0 s1 : State) vs key bit,
    let srcs := if op = .cas then [a.toNat, d.toNat, d.toNat + 1] else [a.toNat, d.toNat]
    s.runOperands (i d a ord sc).word srcs (if op = .cas then [d.toNat, d.toNat + 1] else []) [d.toNat] = .ok vs →
    ((∃ c o, s.resolve s.here s.rights (arg vs 0) 8 = .ok (.spad c o) ∧ c ≠ s.here ∧ c < 1280 ∧ o < 0x180000 ∧
        key = c * 0x200000 + o ∧ bit = clusterOf c ∧ s0 = s) ∨
      (∃ va, s.resolve s.here s.rights (arg vs 0) 8 = .ok (.bulk va) ∧ s.bulkAccess s.here s.rights va 1 = .ok (key, s0) ∧
        bit = 40 + keyGroup key ∧ s.here < 1280)) →
    s0.destReady d.toNat = .ok () → Released ord sc (arg vs 0) s0 → (ord.getLsbD 0 = true → s.me.codelet = false) → s.me.st < 63 →
    s0.request (keyNode key) (.atom op key (arg vs 1) (arg vs 2) d.toNat (ord.getLsbD 0)) = .ok s1 →
    ∃ t, exec (i d a ord sc) s = .next t ∧ t.net = s1.net ∧ t.mem = s.mem ∧ t.me.st = s.me.st + 1 ∧
      t.me.touch = s.me.touch ||| (1#64 <<< bit) ∧ (s.me.loops = [] → t.me.pc = s.me.pc + 4) ∧
      (ord.getLsbD 0 = false → t.me.phase = s.me.phase) ∧ (ord.getLsbD 0 = true → t.me.phase = .parked ∧ t.me.park = .remote s0.nextId)

end Sys2Proof.Claims

/-- On a word of the issuing core, with the release of its ordering done: LDS of a full word writes its value to d and empties it,
LDF of a full word writes its value and leaves it full, STS of an empty word stores g[d] and fills it, STF stores and fills and
EMPTY empties whatever the bit is; each stores as a local ST does. LDS and LDF of an empty word and STS of a full one park a thread that is no codelet on that
word with nothing else done. Setting a full bit changes no other word's bit, and where it changes it wakes the slots of that
core parked on the word. (R292, R293, R294, R296) -/
def Obligations.LocalFullEmptyOperations : Prop :=
  (∀ (d a : RegCode) ord sc (s : State) x o, s.resolveFe x = .ok (s.here, o) → Released ord sc x s → s.destReady d.toNat = .ok () →
    let key := s.here * 0x200000 + o
    (s.operands (Instr.lds d a ord sc).word [a.toNat] [d.toNat] = .ok [x] →
      (s.isFull key = true → exec (.lds d a ord sc) s = .next ((s.setFull key false).complete [a.toNat] d.toNat (s.read64 key))) ∧
      (s.isFull key = false → s.me.codelet = false →
        exec (.lds d a ord sc) s = .next (s.modMe fun sl => { sl with released := false, phase := .parked, park := .word key }))) ∧
    (s.operands (Instr.ldf d a ord sc).word [a.toNat] [d.toNat] = .ok [x] →
      (s.isFull key = true → exec (.ldf d a ord sc) s = .next (s.complete [a.toNat] d.toNat (s.read64 key))) ∧
      (s.isFull key = false → s.me.codelet = false →
        exec (.ldf d a ord sc) s = .next (s.modMe fun sl => { sl with released := false, phase := .parked, park := .word key })))) ∧
  (∀ (d a : RegCode) ord sc (s : State) x v o, s.resolveFe x = .ok (s.here, o) → Released ord sc x s →
    let key := s.here * 0x200000 + o
    (s.operands (Instr.sts d a ord sc).word [a.toNat, d.toNat] [] = .ok [x, v] →
      (s.isFull key = false → exec (.sts d a ord sc) s = .next (((s.store64 key v).setFull key true).completeNone [a.toNat, d.toNat])) ∧
      (s.isFull key = true → s.me.codelet = false →
        exec (.sts d a ord sc) s = .next (s.modMe fun sl => { sl with released := false, phase := .parked, park := .word key }))) ∧
    (s.operands (Instr.stf d a ord sc).word [a.toNat, d.toNat] [] = .ok [x, v] →
      exec (.stf d a ord sc) s = .next (((s.store64 key v).setFull key true).completeNone [a.toNat, d.toNat])) ∧
    (s.operands (Instr.empty a ord sc).word [a.toNat] [] = .ok [x] →
      exec (.empty a ord sc) s = .next ((s.setFull key false).completeNone [a.toNat]))) ∧
  (∀ (s : State) key b, key < 2 ^ 40 → (s.setFull key b).isFull key = b ∧ (∀ k, k / 8 ≠ key / 8 → (s.setFull key b).isFull k = s.isFull k) ∧
    (s.setFull key b).mem = s.mem) ∧
  ∀ (s : State) key b t, key < 2 ^ 40 → s.isFull key ≠ b → t / 64 = key / 0x200000 → (s.slot t).phase = .parked → (s.slot t).park = .word (key / 8 * 8) →
    ((s.setFull key b).slot t).phase = .ready

/-- LDS, LDF and STS of another core's word send the request and leave the rotation until its answer; STF and EMPTY are posted and
add 1 to ST. The owner applies a request that can complete and answers it, or keeps it in its wait store while that has room, or
answers RETRY; a stored request that is the first on its word, can complete and finds a response entry is served. An answer
writes g[d] and the thread goes on after the instruction; RETRY issues it again. A wait past its limit, on a
core that DBGSTOP does not hold, sends a cancel once, behind the request in its stream; a request still stored is then removed and
answered, and the thread traps 0x07 with its address, or, in slot 63 with a copy in service, ends that with the code of its operand.
(R138, R145, R272, R295, R297, R298, R299, R393) -/
def Obligations.RemoteFullEmptyWaitsAndAnswers : Prop :=
  (∀ (d a : RegCode) ord sc (s s1 : State) x c o, s.resolveFe x = .ok (c, o) → c ≠ s.here → Released ord sc x s → s.me.codelet = false →
    s.destReady d.toNat = .ok () → ∀ p ∈ [((Instr.lds d a ord sc, FeOp.lds) : Instr × FeOp), (.ldf d a ord sc, .ldf)],
    s.operands p.1.word [a.toNat] [d.toNat] = .ok [x] → s.request (.core c) (.fe p.2 (spadKey c o) 0 d.toNat x) = .ok s1 →
    ∃ t, exec p.1 s = .next t ∧ t.net = s1.net ∧ t.me.phase = .parked ∧ t.me.park = .remote s.nextId ∧ t.me.pc = s.me.pc ∧ t.mem = s.mem) ∧
  (∀ (d a : RegCode) ord sc (s s1 : State) x v c o, s.resolveFe x = .ok (c, o) → c ≠ s.here → Released ord sc x s → s.me.codelet = false →
    s.operands (Instr.sts d a ord sc).word [a.toNat, d.toNat] [] = .ok [x, v] → s.request (.core c) (.fe .sts (spadKey c o) v 0 x) = .ok s1 →
    ∃ t, exec (.sts d a ord sc) s = .next t ∧ t.net = s1.net ∧ t.me.phase = .parked ∧ t.me.park = .remote s.nextId ∧ t.mem = s.mem) ∧
  (∀ (d a : RegCode) ord sc (s s1 : State) x v c o, s.resolveFe x = .ok (c, o) → c ≠ s.here → c < 1280 → o < 0x180000 → Released ord sc x s → s.me.st < 63 →
    let posted (i : Instr) := ∃ t, exec i s = .next t ∧ t.net = s1.net ∧ t.credits = s1.credits ∧ t.me.st = s.me.st + 1 ∧
      t.me.touch = s.me.touch ||| (1#64 <<< clusterOf c) ∧ t.me.phase = s.me.phase ∧ (s.me.loops = [] → t.me.pc = s.me.pc + 4) ∧ t.mem = s.mem
    (s.operands (Instr.stf d a ord sc).word [a.toNat, d.toNat] [] = .ok [x, v] →
      s.request (.core c) (.fe .stf (c * 0x200000 + o) v 0 x) = .ok s1 → posted (.stf d a ord sc)) ∧
    (s.operands (Instr.empty a ord sc).word [a.toNat] [] = .ok [x] →
      s.request (.core c) (.fe .empty (c * 0x200000 + o) 0 0 x) = .ok s1 → posted (.empty a ord sc))) ∧
  (∀ (s : State) m x op key v reg info, s.arrived m = some x → x.resp = false → x.started = true → x.body = .fe op key v reg info →
    (op.can (s.isFull key) = true → exec (.feRemoteRequest m) s = .next ((s.feApply op key v).respond x (feReply s op key reg))) ∧
    (op.can (s.isFull key) = false → (s.coreRec (keyCore key)).waiting.length < 256 → exec (.feRemoteRequest m) s = .next (s.moveToWait (keyCore key) x)) ∧
    (op.can (s.isFull key) = false → 256 ≤ (s.coreRec (keyCore key)).waiting.length → exec (.feRemoteRequest m) s = .next (s.respond x (.retry none none)))) ∧
  (∀ (s : State) c m x op key v reg info, (s.cores.find? fun e => e.2.waiting.any (·.id == m)) = some (c, s.coreRec c) →
    (s.coreRec c).waiting.find? (·.id == m) = some x → x.body = .fe op key v reg info → (s.coreRec c).waiting.find? (waitsOnWord key) = some x →
    op.can (s.isFull key) = true → (s.coreRec c).entries < 16 →
    exec (.waitStoreServe m) s = .next (((s.modCore c fun r => { r with waiting := r.waiting.filter (·.id != x.id), entries := r.entries + 1 }).feApply op key v).sendAs
      { x with src := x.dst, dst := x.src, resp := true, started := true, body := feReply s op key reg })) ∧
  (∀ (s : State) m x reg w, s.response m = some x → x.body = .feAnswer reg (some w) → (s.dropMsg m).waitsFor x.uid m = true →
    exec (.feAnswer m) s = .next (((s.dropMsg m).arriveReg x.uid reg w).resumeThread x.uid)) ∧
  (∀ (s : State) m x, s.response m = some x → x.body = .retry none none → s.waitsFor x.uid m = true →
    exec (.retryAnswer m) s = .next (((s.dropMsg m).retryThread x.uid).modThread x.uid fun sl => { sl with barwToken := none })) ∧
  (∀ (s : State) u t w, s.findThread u = some t → (s.slot t).wait = some w → w.barrier = false → w.cancelled = false → 0 < w.limit →
    w.start + w.limit < (s.coreRec (t / 64)).cycle → Store.get false s.dev.stopped (t / 64) = false → ∃ v msg, exec (.feWaitLimit u) s = .next v ∧ v.net = s.net ++ [msg] ∧ msg.body = .cancel w.op ∧ msg.dst = w.dst ∧ msg.slot = w.slot) ∧
  (∀ (s : State) m x c op w o k v reg info, s.arrived m = some x → x.resp = false → x.credit = none → x.body = .cancel op → x.dst = .core c →
    (s.coreRec c).waiting.find? (·.id == op) = some w → w.body = .fe o k v reg info →
    exec (.cancelRequest m) s = .next (((s.dropMsg m).modCore c fun r => { r with waiting := r.waiting.filter (·.id != op) }).sendAs
      { w with src := w.dst, dst := w.src, resp := true, body := .cancelled info (decide (o = .lds ∨ o = .ldf)) })) ∧
  ∀ (s : State) m x info reads, s.response m = some x → x.body = .cancelled info reads → s.waitsFor x.uid m = true →
    ((s.dropMsg m).moverOf x.uid = none → exec (.cancelledAnswer m) s = .next ((s.dropMsg m).trapThread x.uid 0x07 info)) ∧
    ∀ c q, (s.dropMsg m).moverOf x.uid = some (c, q) → ∃ t, exec (.cancelledAnswer m) s = .next t ∧
      (t.coreRec c).finishing = some (BitVec.ofNat 64 (7 * 256 + (if reads then 5 else 6) * 16 + 12 + q.op)) ∧ t.mem = s.mem

/-- On an 8-byte word of the own core, with the release of its ordering done, each of the nine ATOM forms stores its function of the
old value and g[d] (and, for CAS, g[d+1]) and writes the old value to d, in one step: SWAP the operand, CAS the second operand
where the old value equals the first, AND, OR and XOR bitwise, FADD, FMIN and FMAX in FP64 and FADDF in two FP32 halves, rounded
to nearest without flags. On another core or in bulk memory each of the nine posts its request and adds 1 to ST, and with .acq
leaves the rotation; the owner applies the function and its answer carries the old value. (R38, R103, R318, R319, R320) -/
def Obligations.AtomsApplyTheirFunction : Prop :=
  AtomStores .atomSwap false (fun _ v _ => v) ∧ AtomStores .atomCas true (fun old v n => if old = v then n else old) ∧
  AtomStores .atomAnd false (fun old v _ => old &&& v) ∧ AtomStores .atomOr false (fun old v _ => old ||| v) ∧
  AtomStores .atomXor false (fun old v _ => old ^^^ v) ∧ AtomStores .atomFadd false (fun old v _ => BitVec.ofNat 64 (fpAdd 0 0 old.toNat v.toNat).1) ∧
  AtomStores .atomFmin false (fun old v _ => BitVec.ofNat 64 (minMaxBits 0 false old.toNat v.toNat).1) ∧
  AtomStores .atomFmax false (fun old v _ => BitVec.ofNat 64 (minMaxBits 0 true old.toNat v.toNat).1) ∧
  AtomStores .atomFaddf false (fun old v _ => BitVec.ofNat 64 ((fpAdd 1 0 (old.toNat % 2 ^ 32) (v.toNat % 2 ^ 32)).1
    + (fpAdd 1 0 (old.toNat / 2 ^ 32) (v.toNat / 2 ^ 32)).1 * 2 ^ 32)) ∧
  AtomSends .atomSwap .swap ∧ AtomSends .atomCas .cas ∧ AtomSends .atomAnd .and ∧ AtomSends .atomOr .or ∧ AtomSends .atomXor .xor ∧
  AtomSends .atomFadd .fadd ∧ AtomSends .atomFmin .fmin ∧ AtomSends .atomFmax .fmax ∧ AtomSends .atomFaddf .faddf ∧
  ∀ (s : State) m x op key v n reg acq, s.arrived m = some x → x.resp = false → x.started = true → x.body = .atom op key v n reg acq →
    exec (.atomRequest m) s = .next ((s.store64 key (atomFn op (s.read64 key) v n)).respond x (.value reg (s.read64 key) true acq))

namespace Sys2Proof.Claims

/-- Core t lies inside the scope S of core c, as a destination that a release of S probes (R314, R315). -/
def InScope (S : Scope) (c t : Nat) : Prop :=
  match S with
  | .core => False
  | .clu => clusterOf t = clusterOf c
  | .die => dieOf t = dieOf c
  | .pkg | .pod => True
  | .rect r => r.x0 ≤ coreX t ∧ coreX t ≤ r.x1 ∧ r.y0 ≤ coreY t ∧ coreY t ≤ r.y1

/-- Every destination of TOUCH bit b lies inside the scope S of core c (R103, R315). -/
def ProbedWhole (S : Scope) (c b : Nat) : Prop :=
  if b < 40 then ∀ t, t < 1280 → clusterOf t = b → InScope S c t
  else if b < 56 then S = .pkg ∨ S = .pod ∨ (S = .die ∧ (b - 40) / 4 = dieOf c)
  else S = .pod

end Sys2Proof.Claims

/-- FENCE of a level scope, or of the rectangle its register names, with nothing to probe, or with its echoes answered, and, where
it acquires, no register awaiting, completes; where it acquires and a register awaits it parks. WAITC completes where each
counter is within its operand (7 admits any) and WAITK where no token of its mask is outstanding; otherwise a thread that is no
codelet parks and its pc stays; a thread that so finds TL 0, or a token free, has seen those commands to be over, after which a store
races with an MMAS of them no more. A release with echoes to send parks the slot with one echo on the request channel for each
destination inside the scope that the TOUCH bits name: for a cluster bit each on-line core of that cluster inside the scope, for a
channel-group bit the group's queue where the scope is the package, the pod or the queue's die, for a fabric bit the own die's gateway
where it is the pod; `.core` names none. An echo with no earlier request waiting is answered, and the last answer clears those probed
bits whose destinations all lay inside the scope and lets the thread go on. (R132, R304, R305, R306, R314, R315, R316) -/
def Obligations.FencesAndWaitsHoldBack : Prop :=
  (∀ (kind : BitVec 2) (sc : BitVec 3) (s : State), sc ≠ 5 → (kind.getLsbD 1 = true → s.release (scopeOf sc) (Instr.fence 0 kind sc).word = .ok none) →
    ((kind.getLsbD 0 = true → s.me.awaiting = 0) → exec (.fence 0 kind sc) s = .next (s.completeNone [])) ∧
    (kind.getLsbD 0 = true → s.me.awaiting ≠ 0 → s.me.codelet = false → exec (.fence 0 kind sc) s = .next (s.parkMe .replies))) ∧
  (∀ (d : RegCode) (kind : BitVec 2) (s : State) w r, s.operands (Instr.fence d kind 5).word [d.toNat] [] = .ok [w] →
    State.resolveRect s.here w (Instr.fence d kind 5).word = .ok r →
    (kind.getLsbD 1 = true → s.release (.rect r) (Instr.fence d kind 5).word = .ok none) → (kind.getLsbD 0 = true → s.me.awaiting = 0) →
    exec (.fence d kind 5) s = .next (s.completeNone [d.toNat])) ∧
  (∀ (tl cp st ld : BitVec 3) (s : State),
    let within := (ld = 7 ∨ s.me.ld ≤ ld.toNat) ∧ (st = 7 ∨ s.me.st ≤ st.toNat) ∧ (cp = 7 ∨ s.me.cp ≤ cp.toNat) ∧ (tl = 7 ∨ s.me.tl ≤ tl.toNat)
    (within → exec (.waitc tl cp st ld) s = .next ((s.seeTiles fun _ => tl == 0).completeNone [])) ∧
    (¬ within → s.me.codelet = false →
      exec (.waitc tl cp st ld) s = .next (s.modMe fun sl => { sl with released := false, phase := .parked, park := .counters }))) ∧
  (∀ (mask : BitVec 8) (s : State), (s.me.tok &&& mask = 0 → exec (.waitk mask) s = .next ((s.seeTiles fun q => mask.getLsbD q.k).completeNone [])) ∧
    (s.me.tok &&& mask ≠ 0 → s.me.codelet = false →
      exec (.waitk mask) s = .next (s.modMe fun sl => { sl with released := false, phase := .parked, park := .tokens }))) ∧
  (∀ (s s1 : State) S info, s.release S info = .ok (some s1) →
    s1.me.phase = .parked ∧ s1.me.park = .echoes ∧ s1.me.pc = s.me.pc ∧ s1.mem = s.mem ∧ s1.me.echoes = (s.probeEchoes S).length ∧
    (∀ b, b < 64 → (s1.me.probed.getLsbD b = true ↔ s.me.touch.getLsbD b = true ∧ ProbedWhole S s.here b)) ∧
    ∃ ms : List Msg, s1.net = s.net ++ ms ∧ ms.map (fun x => (x.dst, x.body)) = (s.probeEchoes S).map (fun e => (e.1, .echo e.2)) ∧
      ∀ x ∈ ms, x.src = .core s.here ∧ x.slot = s.num ∧ x.resp = false ∧ x.credit = none) ∧
  (∀ (s : State) S e, e ∈ s.probeEchoes S ↔
    (∃ t, t < 1280 ∧ e = (.core t, 0) ∧ s.me.touch.getLsbD (clusterOf t) = true ∧ InScope S s.here t ∧ s.isOffline t = false) ∨
    (∃ g, g < 16 ∧ e = (.chan g, 0) ∧ s.me.touch.getLsbD (40 + g) = true ∧ (S = .pkg ∨ S = .pod ∨ (S = .die ∧ g / 4 = dieOf s.here))) ∨
    ∃ k, k < 8 ∧ e = (.gate (dieOf s.here), k) ∧ s.me.touch.getLsbD (56 + k) = true ∧ S = .pod) ∧
  (∀ (s : State) p, (s.seeTiles p = { s with cores := (s.seeTiles p).cores }) ∧ ∀ c, ((s.seeTiles p).coreRec c).matrix.unseen =
    if c = s.here then (s.coreRec c).matrix.unseen.filter (fun q => !(q.uid == s.me.uid && p q)) else (s.coreRec c).matrix.unseen) ∧
  (∀ (s : State) S info, s.me.released = true ∨ s.me.touch = 0 → s.release S info = .ok none) ∧
  (∀ (s : State) m x cls, s.arrived m = some x → x.resp = false → x.credit = none → x.body = .echo cls → echoReady s x cls = true →
    exec (.echo m) s = .next (s.respond x .echoAnswer)) ∧
  ∀ (s : State) m x t, s.response m = some x → x.body = .echoAnswer → s.findThread x.uid = some t → (s.slot t).echoes = 1 →
    (s.slot t).phase = .parked → (s.slot t).park = .echoes →
    ∃ u, exec (.echoAnswer m) s = .next u ∧ (u.slot t).phase = .ready ∧ (u.slot t).released = true ∧
      (u.slot t).touch = (s.slot t).touch &&& ~~~(s.slot t).probed

/-- A MINT or MINT.LD word whose d and b are one register other than 0 traps 0x01. MINT with its checks passed and entry i the first FREE one after the pointer, wrapping from 511 to 0, makes i LIVE for register b of the own slot with
its salt kept and the own context, moves the pointer to i, empties b and writes the name of i to d; with no FREE entry it writes
0. MINT.LD from the own scratchpad does that, copies 16 words to the destination and delivers 128 to the name at once under the
slot's own rights (log entry 17); from
another core it sends a line request and adds 1 to LD. REVOKE of an own LIVE name of the own slot frees it, advances its salt,
fills its register and writes 0; of a stale name 1; of another slot's name by a user 2. NSTAT writes the number of entries not FREE in bits 9:0, that of the
LIVE ones of the own slot in bits 25:16, REF in bits 47:32, and else zeros. (R168,
R169, R170, R171, R172, R177, R178) -/
def Obligations.NamesAreMintedAndRevoked : Prop :=
  (∀ (d a : RegCode) (s : State), d ≠ 0 → exec (.mint d d) s = .next (s.takeTrap s.cur 0x01 (Instr.mint d d).word) ∧
    exec (.mintLd d a d) s = .next (s.takeTrap s.cur 0x01 (Instr.mintLd d a d).word)) ∧
  (∀ (d b : RegCode) (s : State), (d ≠ b ∨ d = 0) → s.checkCodes [b.toNat, d.toNat] = .ok () → s.checkQueues (Instr.mint d b).word [] [d.toNat] = .ok () →
    s.mintChecks (Instr.mint d b).word d.toNat b.toNat = .ok () →
    (∀ i, s.freeEntry s.here = some i → exec (.mint d b) s = .next ((s.mint i b.toNat).complete [] d.toNat (s.nameOf s.here i))) ∧
    (s.freeEntry s.here = none → exec (.mint d b) s = .next (s.complete [] d.toNat 0))) ∧
  (∀ (s : State) i b, s.here < 1280 → i < 512 → let t := s.mint i b
    (t.name s.here i).state = .live s.num b ∧ (t.name s.here i).salt = (s.name s.here i).salt ∧ (t.name s.here i).ctx = s.me.ctx ∧
    (t.coreRec s.here).namePtr = i ∧ (b ≠ 0 → t.regIsFull s.cur b = false) ∧ t.mem = s.mem ∧ t.regs = s.regs ∧
    isName (s.nameOf s.here i) = true ∧ fld (s.nameOf s.here i) 0 9 = i) ∧
  (∀ (d a b : RegCode) (s : State) vs c o off i, (d ≠ b ∨ d = 0) → s.runOperands (Instr.mintLd d a b).word [a.toNat, a.toNat + 1] [a.toNat, a.toNat + 1] [b.toNat, d.toNat] = .ok vs →
    s.mintChecks (Instr.mintLd d a b).word d.toNat b.toNat = .ok () → s.resolve s.here s.rights (arg vs 0) 128 = .ok (.spad c o) → c < 1280 → o < 0x180000 →
    lineDest s.here (arg vs 1) = .ok off → s.freeEntry s.here = some i →
    (c = s.here → exec (.mintLd d a b) s = .next (((((s.mint i b.toNat).writeWords (spadKey s.here off) (s.readWords (spadKey s.here o) 16)).disturb true
      (spadKey s.here off) 128).deliver s.here (s.nameOf s.here i) 128 s.me.rights).2.complete [a.toNat, a.toNat + 1] d.toNat (s.nameOf s.here i))) ∧
    (∀ s1, c ≠ s.here → s.me.ld < 63 → s.request (.core c) (.line (spadKey c o) (spadKey s.here off) (s.nameOf s.here i)) = .ok s1 →
      exec (.mintLd d a b) s = .next ((((s1.mint i b.toNat).touch (clusterOf c)).modMe fun sl => { sl with ld := sl.ld + 1 }).complete
        [a.toNat, a.toNat + 1] d.toNat (s.nameOf s.here i)))) ∧
  (∀ (d a : RegCode) (s : State) nm, s.operands (Instr.revoke d a).word [a.toNat] [d.toNat] = .ok [nm] → isName nm = true → s.isOwnName s.here nm = true →
    s.destReady d.toNat = .ok () →
    let e := s.name s.here (fld nm 0 9)
    (∀ v, e.salt = fld nm 9 7 → e.state = .live s.num v →
      exec (.revoke d a) s = .next (((s.fillReg s.cur v).freeName s.here (fld nm 0 9)).complete [a.toNat] d.toNat 0)) ∧
    (e.salt ≠ fld nm 9 7 → exec (.revoke d a) s = .next (s.complete [a.toNat] d.toNat 1)) ∧
    (∀ n v, e.salt = fld nm 9 7 → e.state = .live n v → n ≠ s.num → s.me.mode = 0 → exec (.revoke d a) s = .next (s.complete [a.toNat] d.toNat 2))) ∧
  (∀ (s : State) c, let at_ (j : Nat) : Nat := ((s.coreRec c).namePtr + 1 + j) % 512
    (∀ i, s.freeEntry c = some i ↔ ∃ j, j < 512 ∧ i = at_ j ∧ (s.name c i).state = .free ∧ ∀ k, k < j → (s.name c (at_ k)).state ≠ .free) ∧
    (s.freeEntry c = none ↔ ∀ i, i < 512 → (s.name c i).state ≠ .free)) ∧
  (∀ d s, ResultAt (.nstat d) [] d.toNat (fun _ => s.nstat) s) ∧
  ∀ s : State, let v := s.nstat
    let live (n : Nat) (e : NameEntry) : Bool := match e.state with | .live m _ => m == n | _ => false
    fld v 0 10 = (List.range 512).countP (fun i => (s.name s.here i).state != .free) ∧ fld v 10 6 = 0 ∧
    fld v 16 10 = (List.range 512).countP (fun i => live s.num (s.name s.here i)) ∧ fld v 26 6 = 0 ∧
    fld v 32 16 = (s.coreRec s.here).nameRef % 65536 ∧ fld v 48 16 = 0

/-- Delivering v to an entry that is LIVE for register g of slot n, with the name's salt and by a supervisor or the entry's context,
is accepted: the register holds v and is full, and the entry is FREE with its salt advanced modulo 128, so the same name is then
refused with 0x08. A FREE entry or another salt is refused with 0x08 and another context with 0x05, changing nothing but REF.
DELIV to an own name completes so, or traps with the cause; to another core's name or another package's it sends the value on the
response channel and adds 1 to ST; with ST not 0 it forfeits; an unusable name traps 0x04, and a user's name of a pager core or a core
outside the partition 0x05. (R93, R169, R173, R174, R175, R176, R212) -/
def Obligations.DeliveriesFireOnce : Prop :=
  (∀ (s : State) c nm v (r : Rights) n g, c < 1280 → n < 64 → g < 128 → (s.name c (fld nm 0 9)).state = .live n g → (s.name c (fld nm 0 9)).salt = fld nm 9 7 →
    (r.sup = true ∨ r.ctx = (s.name c (fld nm 0 9)).ctx) →
    let u := s.deliver c nm v r
    u.1 = 0 ∧ (g ≠ 0 → u.2.reg (c * 64 + n) g = v) ∧ u.2.regIsFull (c * 64 + n) g = true ∧ (u.2.name c (fld nm 0 9)).state = .free ∧
    (u.2.name c (fld nm 0 9)).salt = (fld nm 9 7 + 1) % 128 ∧ u.2.mem = s.mem ∧ ∀ w q, (u.2.deliver c nm w q).1 = 0x08) ∧
  (∀ (s : State) c nm v (r : Rights), (s.name c (fld nm 0 9)).state = .free ∨ (s.name c (fld nm 0 9)).salt ≠ fld nm 9 7 →
    s.deliver c nm v r = (0x08, s.modCore c fun x => { x with nameRef := (x.nameRef + 1) % 65536 })) ∧
  (∀ (s : State) c nm v (r : Rights), (s.name c (fld nm 0 9)).state ≠ .free → (s.name c (fld nm 0 9)).salt = fld nm 9 7 → r.sup = false →
    r.ctx ≠ (s.name c (fld nm 0 9)).ctx → s.deliver c nm v r = (0x05, s.modCore c fun x => { x with nameRef := (x.nameRef + 1) % 65536 })) ∧
  ∀ (a b : RegCode) (s : State) nm v, s.operands (Instr.deliv a b).word [a.toNat, b.toNat] [] = .ok [nm, v] →
    (s.nameUsable nm = false → exec (.deliv a b) s = .next (s.takeTrap s.cur 0x04 nm)) ∧
    let barred := s.me.mode = 0 ∧ namePkg nm = s.pkgNum ∧ (s.isPager (nameCore nm) = true ∨ s.inPartition s.me.ctx (nameCore nm) = false)
    (s.nameUsable nm = true → barred → exec (.deliv a b) s = .next (s.takeTrap s.cur 0x05 nm)) ∧
    (s.nameUsable nm = true → ¬ barred → s.me.st ≠ 0 → exec (.deliv a b) s = .next s) ∧
    (s.nameUsable nm = true → ¬ barred → s.me.st = 0 → s.isOwnName s.here nm = true →
      exec (.deliv a b) s = .next (if (s.deliver s.here nm v s.me.rights).1 = 0 then (s.deliver s.here nm v s.me.rights).2.completeNone [a.toNat, b.toNat]
        else (s.deliver s.here nm v s.me.rights).2.takeTrap s.cur (s.deliver s.here nm v s.me.rights).1 nm)) ∧
    (s.nameUsable nm = true → ¬ barred → s.me.st = 0 → s.isOwnName s.here nm = false → namePkg nm = s.pkgNum →
      s.canInject s.here (s.carriers s.me.ctx s.here (.core (nameCore nm))) = true →
      ∃ t m, exec (.deliv a b) s = .next t ∧ t.net = s.net ++ [m] ∧ m.dst = .core (nameCore nm) ∧ m.body = .deliver nm v .deliv ∧ m.resp = true ∧ t.me.st = 1) ∧
    (s.nameUsable nm = true → s.me.st = 0 → namePkg nm ≠ s.pkgNum → s.isUnreachable s.here (namePkg nm) = false →
      s.canInject s.here (s.carriers s.me.ctx s.here (.pkg (namePkg nm))) = true →
      ∃ t m, exec (.deliv a b) s = .next t ∧ t.net = s.net ++ [m] ∧ m.dst = .pkg (namePkg nm) ∧ m.body = .deliver nm v .deliv ∧ m.resp = true ∧ t.me.st = 1)

/-- A delivery that arrives at its core is applied to the table in one step and answered with its cause; the answer to a DELIV
subtracts 1 from ST and a cause makes a boundary trap pending. A line reply without a cause writes the line, delivers 128 to its
name under the thread's rights and subtracts 1 from LD. A guest's revoke frees a matching FORWARD entry and answers 0: that FORWARD
stands for LIVE there is the model's reading of R177 (log entry 19, DEDUCED). A retarget notice points a matching
FORWARD entry at the new place and is answered; a return notice makes it LIVE again; a destroy notice frees it and is answered;
a forwarded value writes the guest's register, fills it and is acknowledged, after which the guest carries that name no more, and waits
while its place is only reserved.
(R172, R173, R175, R177, R181) -/
def Obligations.NameMessagesTakeEffect : Prop :=
  (∀ (s : State) m x nm v o c, s.arrived m = some x → x.body = .deliver nm v o → x.dst = .core c →
    exec (.delivery m) s = .next ((s.deliver c nm v { ctx := x.ctx, sup := x.sup }).2.respond x
      (.delivered (s.deliver c nm v { ctx := x.ctx, sup := x.sup }).1 nm o))) ∧
  (∀ (s : State) m x nm cause, s.response m = some x → x.body = .delivered cause nm .deliv →
    exec (.deliveryAnswer m) s = .next (if cause = 0 then (s.dropMsg m).modThreadCounters x.uid (fun sl => { sl with st := sl.st - 1 })
      else ((s.dropMsg m).modThreadCounters x.uid fun sl => { sl with st := sl.st - 1 }).pendThread x.uid cause nm)) ∧
  (∀ (s : State) m x dst data nm c, s.response m = some x → x.body = .lineData dst data nm 0 → x.dst = .core c →
    exec (.lineReply m) s = .next (((((s.dropMsg m).writeWords dst data).disturb true dst 128).deliver c nm 128
      (((s.thread x.uid).map Slot.rights).getD { ctx := x.ctx, sup := x.sup })).2.modThreadCounters x.uid fun sl => { sl with ld := sl.ld - 1 })) ∧
  (∀ (s : State) m x nm reg c p q r v, s.arrived m = some x → x.resp = false → x.credit = none → x.body = .revoke nm reg → x.dst = .core c →
    (s.name c (fld nm 0 9)).salt = fld nm 9 7 → (s.name c (fld nm 0 9)).state = .forward p q r v →
    exec (.revokeRequest m) s = .next ((s.freeName c (fld nm 0 9)).respond x (.revoked nm reg 0))) ∧
  (∀ (s : State) m x nm p core slot c p0 c0 n0 v, s.arrived m = some x → x.body = .retarget nm p core slot → x.dst = .core c →
    nm ∉ (s.coreRec c).forwards → (s.name c (fld nm 0 9)).salt = fld nm 9 7 → (s.name c (fld nm 0 9)).state = .forward p0 c0 n0 v →
    exec (.retargetNotice m) s = .next (answerNotice x nm (s.setName c (fld nm 0 9) { s.name c (fld nm 0 9) with state := .forward p core slot v }))) ∧
  (∀ (s : State) m x nm slot c p0 c0 n0 v, s.arrived m = some x → x.body = .returned nm slot → x.dst = .core c →
    (s.name c (fld nm 0 9)).salt = fld nm 9 7 → (s.name c (fld nm 0 9)).state = .forward p0 c0 n0 v →
    exec (.returnNotice m) s = .next ((s.setName c (fld nm 0 9) { s.name c (fld nm 0 9) with state := .live slot v }).dropMsg m)) ∧
  (∀ (s : State) m x nm c p0 c0 n0 v, s.arrived m = some x → x.body = .destroy nm → x.dst = .core c →
    (s.name c (fld nm 0 9)).salt = fld nm 9 7 → (s.name c (fld nm 0 9)).state = .forward p0 c0 n0 v →
    exec (.destroyNotice m) s = .next (answerNotice x nm (s.freeName c (fld nm 0 9)))) ∧
  (∀ (s : State) m x place reg v nm c u, s.arrived m = some x → x.body = .forward place reg v nm → x.dst = .core c →
    s.carrierOf c (place % 64) nm = u →
    (u ≠ 0 ∨ (s.slot (c * 64 + place % 64)).phase ≠ .reserved → exec (.forwardedValue m) s = .next ((((s.writeThreadReg u reg v).dropName u nm).dropMsg m).sendAs
      { x with src := x.dst, dst := x.src, resp := true, body := .forwardAck nm })) ∧
    (u = 0 → (s.slot (c * 64 + place % 64)).phase = .reserved → exec (.forwardedValue m) s = .next s)) ∧
  (∀ (s : State) uid nm, s.dropName uid nm = s.modThread uid fun sl => { sl with carried := sl.carried.filter fun e => e.name != nm }) ∧
  ∀ (s : State) m x nm c, s.arrived m = some x → x.body = .forwardAck nm → x.dst = .core c →
    exec (.forwardedValue m) s = .next ((s.dropMsg m).modCore c fun r => { r with forwards := r.forwards.erase nm })

namespace Sys2Proof.Claims

/-- The packet that a CALLAT of the issuing slot with entry off, arguments a0 to a3 and reply name rep sends (R183). -/
def packetOf (s : State) (off : Nat) (a0 a1 a2 a3 rep : Word) : TaskPkt :=
  { entry := off, args := { a0 := a0, a1 := a1, a2 := a2, a3 := a3 }, rep := rep, fmt := s.me.fmt, scla := s.me.scla, sclb := s.me.sclb,
    ctx := s.me.ctx, mode := s.me.mode, kernel := s.me.kernel, group := s.me.group, kpkg := s.me.kpkg }

end Sys2Proof.Claims

/-- CALLAT to the own core with fewer than 64 tasks appends the packet of its operands and registers; for a packet of a live kernel it
also sends a JOIN, which the caller's retirement waits for; with 64 it forfeits. To another core it is posted and adds 1 to ST. RETAT of a task with ST 0 and no reply name
ends the thread with status 0; with an own name it delivers the value and ends with the answer's cause; to another core it sends
the value and drains. In a thread that is no task it traps 0x01. A packet that arrives at a queue with room and nothing waiting
is accepted, and answered, for a kernel's packet after its JOIN; with a full queue or a call waiting before it, it moves to the wait
store while that has room; else it is answered RETRY, and the source holds it for 1024 cycles, until a credit is
free and the core's quotas admit its flits. (R267, R183, R184, R186, R187, R224, R272) -/
def Obligations.TasksAreCalledAndReturn : Prop :=
  (∀ (t a n : RegCode) (s : State) vs c off, let run := [a.toNat, a.toNat + 1, a.toNat + 2, a.toNat + 3]
    s.runOperands (Instr.callat t a n).word (run ++ [n.toNat, t.toNat]) run [] = .ok vs → s.resolve s.here s.rights (arg vs 5) 4 = .ok (.spad c off) →
    (arg vs 4 = 0 ∨ isName (arg vs 4) = true) →
    let pkt := packetOf s off (arg vs 0) (arg vs 1) (arg vs 2) (arg vs 3) (arg vs 4)
    (c = s.here → (s.coreRec c).tasks.length < 64 → s.joins s.me.kpkg s.me.kernel = false →
      exec (.callat t a n) s = .next ((s.modCore c fun r => { r with tasks := r.tasks ++ [pkt] }).completeNone (run ++ [n.toNat, t.toNat]))) ∧
    (c = s.here → (s.coreRec c).tasks.length < 64 → s.joins s.me.kpkg s.me.kernel = true → (∀ p, s.me.kpkg = some p → s.isUnreachable s.here p = false) →
      ∃ u m call, exec (.callat t a n) s = .next u ∧ (u.coreRec c).tasks = (s.coreRec c).tasks ++ [pkt] ∧ u.net = s.net ++ [m] ∧
        m.body = .join s.me.kernel 0 0 ∧ m.id = s.nextId ∧ (u.coreRec c).joining = (s.coreRec c).joining ++ [(s.nextId, call)] ∧ call.uid = s.me.uid ∧
        (∀ p, s.me.kpkg = some p → m.dst = .pkg p) ∧ (s.me.loops = [] → u.me.pc = s.me.pc + 4)) ∧
    (c = s.here → 64 ≤ (s.coreRec c).tasks.length → exec (.callat t a n) s = .next s) ∧
    (∀ s1, c ≠ s.here → c < 1280 → off < 0x180000 → s.me.st < 63 → s.request (.core c) (.callat pkt) = .ok s1 →
      ∃ u, exec (.callat t a n) s = .next u ∧ u.net = s1.net ∧ u.me.st = s.me.st + 1 ∧ u.mem = s.mem)) ∧
  (∀ (v : RegCode) (s : State) x, s.operands (Instr.retat v).word [v.toNat] [] = .ok [x] → s.me.task = true → s.me.st = 0 →
    (s.me.rep = 0 → ∃ u, exec (.retat v) s = .next u ∧ u.me.phase = .draining ∧ u.me.status = 0 ∧ u.me.returned = true ∧ u.mem = s.mem) ∧
    (s.me.rep ≠ 0 → s.nameUsable s.me.rep = true → s.isOwnName s.here s.me.rep = true →
      ∃ u, exec (.retat v) s = .next u ∧ u.me.phase = .draining ∧ u.me.status = ((s.consume [v.toNat]).deliver s.here s.me.rep x s.me.rights).1) ∧
    (s.me.rep ≠ 0 → s.nameUsable s.me.rep = true → s.isOwnName s.here s.me.rep = false → namePkg s.me.rep = s.pkgNum →
      s.canInject s.here (s.carriers s.me.ctx s.here (.core (nameCore s.me.rep))) = true →
      ∃ u m, exec (.retat v) s = .next u ∧ u.me.phase = .draining ∧ u.me.st = 1 ∧ u.net = s.net ++ [m] ∧ m.body = .deliver s.me.rep x .retat)) ∧
  (∀ (v : RegCode) (s : State), s.checkCode v.toNat = .ok () → s.me.task = false →
    exec (.retat v) s = .next (s.takeTrap s.cur 0x01 (Instr.retat v).word)) ∧
  (∀ (s : State) m x pkt c, s.arrived m = some x → x.resp = false → x.started = true → x.body = .callat pkt → x.dst = .core c →
    ((s.coreRec c).tasks.length < 64 → (s.coreRec c).waiting.any waitingCall = false → exec (.callatAccept m) s = .next (acceptTask c x pkt (s.dropMsg m))) ∧
    (64 ≤ (s.coreRec c).tasks.length ∨ (s.coreRec c).waiting.any waitingCall = true → (s.coreRec c).waiting.length < 256 →
      exec (.callatAccept m) s = .next (s.moveToWait c x)) ∧
    (64 ≤ (s.coreRec c).tasks.length ∨ (s.coreRec c).waiting.any waitingCall = true → 256 ≤ (s.coreRec c).waiting.length → exec (.callatAccept m) s = .next (s.respond x (.retry none (some pkt))))) ∧
  (∀ (s : State) c x pkt, s.joins pkt.kpkg pkt.kernel = false → acceptTask c x pkt s =
    (s.modCore c fun r => { r with tasks := r.tasks ++ [pkt] }).sendAs { x with src := x.dst, dst := x.src, resp := true, body := .ack 0 0 }) ∧
  (∀ (s : State) c x pkt, s.joins pkt.kpkg pkt.kernel = true → (∀ p, pkt.kpkg = some p → s.isUnreachable c p = false) →
    ∃ m, (acceptTask c x pkt s).net = s.net ++ [m] ∧ m.body = .join pkt.kernel 0 0 ∧ m.id = s.nextId ∧
      ((acceptTask c x pkt s).coreRec c).tasks = (s.coreRec c).tasks ++ [pkt] ∧
      ((acceptTask c x pkt s).coreRec c).joining = (s.coreRec c).joining ++ [(s.nextId, x)]) ∧
  (∀ (s : State) m x tok pkt c, s.response m = some x → x.body = .retry tok (some pkt) → x.dst = .core c →
    exec (.retryAnswer m) s = .next ((s.dropMsg m).modCore c fun r =>
      { r with held := r.held ++ [({ x with src := x.dst, dst := x.src, resp := false, body := .callat pkt }, r.cycle)] })) ∧
  ∀ (s : State) m c h, s.cores.find? (fun e => e.2.held.any fun y => y.1.id == m) = some (c, s.coreRec c) → (s.coreRec c).held.find? (fun y => y.1.id == m) = some h →
    let l := s.carriers h.1.ctx c h.1.dst
    (s.creditFree (clusterOf c) h.1.dst = true → s.canInject c l = true → 1024 ≤ (s.coreRec c).cycle - h.2 →
      exec (.callatResend m) s = .next ((((s.modCore c fun x => { x with held := x.held.filter fun y => y.1.id != m }).takeCredit (clusterOf c) h.1.dst).sendAs
        { h.1 with credit := some (clusterOf c, h.1.dst), started := false }).inject c h.1.body.flits l)) ∧
    (s.creditFree (clusterOf c) h.1.dst = false ∨ s.canInject c l = false ∨ (s.coreRec c).cycle - h.2 < 1024 → exec (.callatResend m) s = .next s)

/-- CINIT of an IDLE record with a reservation free writes 0, takes a reservation, and arms the record with the count or, for count
0, makes it READY and pushes it; a record in use gives 2 and a full ring 1. A decrement of an ARMED record by less than its
count lowers it; by its count or more makes it READY with count 0 and pushes its offset; of any other record it only counts
QDROP. DECR with ST 0 does that on the own core and posts a request to another, where it is applied and acknowledged. NEXTC ends
the running codelet; with an empty ring it parks; while g1 awaits a reply it forfeits; else it takes the oldest record, makes it IDLE,
gives back its reservation, and runs from its pc with the frame's address in g1, FMT, SCLA and SCLB from the frame, read once the record
is IDLE, FLAGS 0, as a codelet. That a record's pc counts from the multiple of 4 below it is the model's reading (log entry 20, DEDUCED). A store of a word is
the write of LocalStoresWriteTheirBytes. (R75, R188, R189, R190, R191, R192) -/
def Obligations.CodeletsCountDownAndRun : Prop :=
  (∀ (d a b : RegCode) (s : State) x y off, s.operands (Instr.cinit d a b).word [a.toNat, b.toNat] [d.toNat] = .ok [x, y] → s.resolveOwn x 16 = .ok off →
    s.destReady d.toNat = .ok () →
    let key := spadKey s.here off
    let w := s.read64 key
    let s1 := s.modCore s.here fun r => { r with res := r.res + 1 }
    fld w 53 9 = 0 → codPc w % 4 = 0 → codPc w < 0x180000 →
    (codSt w = 0 → (s.coreRec s.here).res < 256 → fld y 0 32 ≠ 0 →
      exec (.cinit d a b) s = .next ((s1.store64 key (codSet w (fld y 0 32) 1)).complete [a.toNat, b.toNat] d.toNat 0)) ∧
    (codSt w = 0 → (s.coreRec s.here).res < 256 → fld y 0 32 = 0 →
      exec (.cinit d a b) s = .next (((s1.store64 key (codSet w 0 2)).pushReady s.here off).complete [a.toNat, b.toNat] d.toNat 0)) ∧
    (codSt w = 0 → 256 ≤ (s.coreRec s.here).res → exec (.cinit d a b) s = .next (s.complete [a.toNat, b.toNat] d.toNat 1)) ∧
    (codSt w = 1 ∨ codSt w = 2 → exec (.cinit d a b) s = .next (s.complete [a.toNat, b.toNat] d.toNat 2))) ∧
  (∀ (s : State) c off m, let w := s.read64 (spadKey c off)
    (codSt w = 1 → m < codCount w → s.decrAt c off m = s.store64 (spadKey c off) (codSet w (codCount w - m) 1)) ∧
    (codSt w = 1 → codCount w ≤ m → s.decrAt c off m = (s.store64 (spadKey c off) (codSet w 0 2)).pushReady c off) ∧
    (codSt w ≠ 1 → s.decrAt c off m = s.modCore c fun r => { r with qdropDecr := (r.qdropDecr + 1) % 65536 })) ∧
  (∀ (a b : RegCode) (s : State) x y c off, s.operands (Instr.decr a b).word [a.toNat, b.toNat] [] = .ok [x, y] → s.resolveSpad x 16 false = .ok (c, off) → s.me.st = 0 →
    (c = s.here → exec (.decr a b) s = .next ((s.decrAt c off (fld y 0 32)).completeNone [a.toNat, b.toNat])) ∧
    (∀ s1, c ≠ s.here → c < 1280 → off < 0x180000 → s.request (.core c) (.decr (spadKey c off) (fld y 0 32)) = .ok s1 →
      ∃ u, exec (.decr a b) s = .next u ∧ u.net = s1.net ∧ u.me.st = 1 ∧ u.mem = s.mem)) ∧
  (∀ (s : State) m x key n, s.arrived m = some x → x.resp = false → x.started = true → x.body = .decr key n →
    exec (.decrRequest m) s = .next ((s.decrAt (keyCore key) (keyOff key) n).respond x (.ack 0 0))) ∧
  (∀ s : State, (s.coreRec s.here).ready = [] → ∃ t, exec .nextc s = .next t ∧ t.me = { s.me with codelet := false, released := false, phase := .parked, park := .ring } ∧ t.mem = s.mem) ∧
  (∀ s : State, (s.coreRec s.here).ready ≠ [] → s.awaits s.cur 1 = true → exec .nextc s = .next s) ∧
  ∀ (s : State) off rest ao, (s.coreRec s.here).ready = off :: rest → s.awaits s.cur 1 = false → ownOffset s.here (s.read64 (spadKey s.here off + 8)) = some ao → ao + 24 ≤ 0x180000 → ao % 8 = 0 →
    8 ≤ s.me.limit → s.me.phase = .ready →
    ∃ t, exec .nextc s = .next t ∧ t.me.codelet = true ∧ t.me.flags = 0 ∧ t.me.pc = codPc (s.read64 (spadKey s.here off)) / 4 * 4 ∧
      (let u := s.store64 (spadKey s.here off) (setFld (s.read64 (spadKey s.here off)) 62 2 0)
       t.reg s.cur 1 = s.read64 (spadKey s.here off + 8) ∧ t.me.fmt = u.read64 (spadKey s.here ao) &&& 0xFFF ∧
       t.me.scla = u.read64 (spadKey s.here ao + 8) ∧ t.me.sclb = u.read64 (spadKey s.here ao + 16)) ∧
      (t.coreRec s.here).ready = rest ∧ (t.coreRec s.here).res = (s.coreRec s.here).res - 1 ∧
      (s.undisturbed true (spadKey s.here off) 8 = true →
        t.read64 (spadKey s.here off) = setFld (s.read64 (spadKey s.here off)) 62 2 0 ∧
        ∀ k, (k < spadKey s.here off ∨ spadKey s.here off + 8 ≤ k) → t.mem.byte k = s.mem.byte k)

/-- At a well-formed ring TICKET gives all ones when as many tickets are out as the ring has slots, else TAIL, and TAIL grows by 1;
at a malformed ring it gives -2. A fill of a ticket that is out and whose slot is empty stores the value and fills the slot, any
other only counts QDROP. RQPOP of a full head slot writes its value, empties it and advances HEAD; of an empty one it parks. A store
of a word is the write of LocalStoresWriteTheirBytes. RQPEEK writes the number of consecutive full slots from HEAD. That
slots past the scratchpad's end lie at the keys that follow is the model's choice (log entry 65). TICKET and RQFILL act so on the own core, and on another by a
request whose answer carries the ticket or the acknowledgement. (R193, R194) -/
def Obligations.RingsIssueFillAndPop : Prop :=
  (∀ (s : State) key, let w0 := s.read64 key; let w1 := s.read64 (key + 8)
    (Ring.bad w0 w1 = true → s.ticketAt key = (BitVec.ofInt 64 (-2), s)) ∧
    (Ring.bad w0 w1 = false → 2 ^ fld w0 32 4 ≤ (fld w0 0 32 + 2 ^ 32 - fld w1 0 32) % 2 ^ 32 → s.ticketAt key = (BitVec.allOnes 64, s)) ∧
    (Ring.bad w0 w1 = false → (fld w0 0 32 + 2 ^ 32 - fld w1 0 32) % 2 ^ 32 < 2 ^ fld w0 32 4 →
      s.ticketAt key = (BitVec.ofNat 64 (fld w0 0 32), s.store64 key (setFld w0 0 32 (fld w0 0 32 + 1))))) ∧
  (∀ (s : State) key v t, let w0 := s.read64 key; let w1 := s.read64 (key + 8); let slot := key + 16 + 8 * (t % 2 ^ fld w0 32 4)
    Ring.bad w0 w1 = false →
    ((t + 2 ^ 32 - fld w1 0 32) % 2 ^ 32 < (fld w0 0 32 + 2 ^ 32 - fld w1 0 32) % 2 ^ 32 → s.isFull slot = false → s.fillAt key v t = (s.store64 slot v).setFull slot true) ∧
    ((fld w0 0 32 + 2 ^ 32 - fld w1 0 32) % 2 ^ 32 ≤ (t + 2 ^ 32 - fld w1 0 32) % 2 ^ 32 ∨ s.isFull slot = true →
      s.fillAt key v t = s.modCore (keyCore key) fun r => { r with qdropFill := (r.qdropFill + 1) % 65536 })) ∧
  (∀ (d a : RegCode) (s : State) x c off, s.operands (Instr.ticket d a).word [a.toNat] [d.toNat] = .ok [x] → s.resolveSpad x 16 true = .ok (c, off) → s.destReady d.toNat = .ok () →
    (c = s.here → exec (.ticket d a) s = .next ((s.ticketAt (spadKey c off)).2.complete [a.toNat] d.toNat (s.ticketAt (spadKey c off)).1)) ∧
    (∀ s1, c ≠ s.here → s.me.ld < 63 → s.request (.core c) (.ticket (spadKey c off) d.toNat) = .ok s1 →
      ∃ u, exec (.ticket d a) s = .next u ∧ u.net = s1.net ∧ u.me.ld = s.me.ld + 1)) ∧
  (∀ (v a t : RegCode) (s : State) x y w c off, s.operands (Instr.rqfill v a t).word [a.toNat, t.toNat, v.toNat] [] = .ok [x, y, w] → s.resolveSpad x 16 true = .ok (c, off) → s.me.st = 0 →
    (c = s.here → exec (.rqfill v a t) s = .next ((s.fillAt (spadKey c off) w (fld y 0 32)).completeNone [a.toNat, t.toNat, v.toNat])) ∧
    (∀ s1, c ≠ s.here → c < 1280 → off < 0x180000 → s.request (.core c) (.rqfill (spadKey c off) w (fld y 0 32)) = .ok s1 →
      ∃ u, exec (.rqfill v a t) s = .next u ∧ u.net = s1.net ∧ u.me.st = 1)) ∧
  (∀ (d a : RegCode) (s : State) key, ringOwn (Instr.rqpop d a).word d a s = .ok key →
    let w1 := s.read64 (key + 8); let slot := key + 16 + 8 * (fld w1 0 32 % 2 ^ fld (s.read64 key) 32 4)
    (s.isFull slot = true → exec (.rqpop d a) s = .next
      (((s.setFull slot false).store64 (key + 8) (setFld w1 0 32 (fld w1 0 32 + 1))).complete [a.toNat] d.toNat (s.read64 slot))) ∧
    (s.isFull slot = false → s.me.codelet = false → exec (.rqpop d a) s = .next (s.modMe fun sl => { sl with released := false, phase := .parked, park := .word slot }))) ∧
  (∀ (d a : RegCode) (s : State) key, ringOwn (Instr.rqpeek d a).word d a s = .ok key →
    let size := 2 ^ fld (s.read64 key) 32 4; let slot (i : Nat) := key + 16 + 8 * ((fld (s.read64 (key + 8)) 0 32 + i) % size)
    ∃ n, n ≤ size ∧ (∀ i, i < n → s.isFull (slot i) = true) ∧ (n = size ∨ s.isFull (slot n) = false) ∧
      exec (.rqpeek d a) s = .next (s.complete [a.toNat] d.toNat (BitVec.ofNat 64 n))) ∧
  (∀ word (d a : RegCode) (s : State) x off, s.operands word [a.toNat] [d.toNat] = .ok [x] → s.resolveOwn x 16 = .ok off → s.destReady d.toNat = .ok () →
    let w0 := s.read64 (spadKey s.here off); let w1 := s.read64 (spadKey s.here off + 8)
    let malformed := fld w0 36 28 ≠ 0 ∨ fld w1 32 32 ≠ 0 ∨ fld w0 32 4 = 0 ∨ 12 < fld w0 32 4
    (¬ malformed → ringOwn word d a s = .ok (spadKey s.here off)) ∧ (malformed → ringOwn word d a s = .error (.error (.trap 0x01 word)))) ∧
  (∀ (s : State) m x key reg, s.arrived m = some x → x.resp = false → x.started = true → x.body = .ticket key reg →
    exec (.ticketRequest m) s = .next ((s.ticketAt key).2.respond x (.value reg (s.ticketAt key).1 false false))) ∧
  ∀ (s : State) m x key v t, s.arrived m = some x → x.resp = false → x.started = true → x.body = .rqfill key v t →
    exec (.rqfillRequest m) s = .next ((s.fillAt key v t).respond x (.ack 0 0))

/-- QBIND of a queue register that is unbound to pipeline queues that are free, of the own context and by a thread that may not
migrate, records the binding and the thread as consumer and producer and goes on; a malformed operand (a reserved bit, a queue number
4 to 6, no queue at all), a bound queue register or a direction that is held traps 0x01, another context's queue 0x05, a migratable
thread 0x0F, the first of these that applies, and a direction held by the same slot through another register is held (log entries 61 and
62, the model's choices). QUNBIND clears the binding; a queue left without any loses its
entries. An operand that is a bound code reads the oldest entry and, when the instruction completes, removes it; with no entry
the thread parks on that queue. A destination whose outbound queue holds 16 entries, those that loads in flight will push counted
(log entry 15), forfeits. (R58, R73, R195, R196, R197) -/
def Obligations.QueuesBindPushAndPop : Prop :=
  (∀ (q : BitVec 2) (a : RegCode) (s : State) g, s.operands (Instr.qbind q a).word [a.toNat] [] = .ok [g] →
    let i := fld g 0 3; let o := fld g 8 3
    let free (n : Nat) := n = 7 ∨ (n < 4 ∧ s.pipe s.here n = {})
    (fld g 3 5 = 0 → fld g 11 53 = 0 → free i → free o → ¬ (i = 7 ∧ o = 7) → s.me.isBound q.toNat = false → s.me.mig = false →
      ∃ t, exec (.qbind q a) s = .next t ∧ t.me.isBound q.toNat = true ∧ t.me.inQueue q.toNat = i ∧ t.me.outQueue q.toNat = o ∧
        (i < 4 → (t.pipe s.here i).consumer = some s.me.uid) ∧ (o < 4 → (t.pipe s.here o).producer = some s.me.uid) ∧ t.mem = s.mem) ∧
    (fld g 3 5 ≠ 0 ∨ fld g 11 53 ≠ 0 ∨ (4 ≤ i ∧ i ≤ 6) ∨ (4 ≤ o ∧ o ≤ 6) ∨ (i = 7 ∧ o = 7) → exec (.qbind q a) s = .next (s.takeTrap s.cur 0x01 g)) ∧
    (fld g 3 5 = 0 → fld g 11 53 = 0 → free i → free o → ¬ (i = 7 ∧ o = 7) → s.me.isBound q.toNat = true → exec (.qbind q a) s = .next (s.takeTrap s.cur 0x01 g)) ∧
    (fld g 3 5 = 0 → fld g 11 53 = 0 → free i → free o → ¬ (i = 7 ∧ o = 7) → s.me.isBound q.toNat = false → s.me.mig = true → exec (.qbind q a) s = .next (s.takeTrap s.cur 0x0F g)) ∧
    (fld g 3 5 = 0 → fld g 11 53 = 0 → s.me.isBound q.toNat = false → let pi := s.pipe s.here i; let po := s.pipe s.here o
      (i < 4 → o = 7 → (pi.consumer ≠ none → exec (.qbind q a) s = .next (s.takeTrap s.cur 0x01 g)) ∧
        (pi.consumer = none → pi.producer ≠ none → pi.ctx ≠ s.me.ctx → exec (.qbind q a) s = .next (s.takeTrap s.cur 0x05 g))) ∧
      (o < 4 → i = 7 → (po.producer ≠ none → exec (.qbind q a) s = .next (s.takeTrap s.cur 0x01 g)) ∧
        (po.producer = none → po.consumer ≠ none → po.ctx ≠ s.me.ctx → exec (.qbind q a) s = .next (s.takeTrap s.cur 0x05 g))))) ∧
  (∀ (q : BitVec 2) (s : State), ∃ t, exec (.qunbind q) s = .next t ∧ t.me.isBound q.toNat = false ∧ (s.me.loops = [] → t.me.pc = s.me.pc + 4) ∧ t.mem = s.mem ∧
    (s.me.isBound q.toNat = true → s.me.inQueue q.toNat < 4 → s.pipe s.here (s.me.inQueue q.toNat) =
        { s.pipe s.here (s.me.inQueue q.toNat) with producer := none, consumer := some s.me.uid } → s.me.outQueue q.toNat = 7 →
      t.pipe s.here (s.me.inQueue q.toNat) = {})) ∧
  (∀ (s : State) word v n e r, s.me.queueOf v = some n → s.me.inQueue n ≠ 7 → s.me.lost v = false → (s.pipe s.here (s.me.inQueue n)).entries = e :: r →
    s.operands word [v] [] = .ok [e] ∧ ((s.completeNone [v]).pipe s.here (s.me.inQueue n)).entries = r) ∧
  (∀ (s : State) word v n, s.me.queueOf v = some n → s.me.inQueue n ≠ 7 → s.me.lost v = false → (s.pipe s.here (s.me.inQueue n)).entries = [] →
    s.operands word [v] [] = .error (.park (.queue (s.me.inQueue n)) (ofNat v))) ∧
  ∀ (s : State) d n, s.me.queueOf d = some n → 16 ≤ (s.pipe s.here (s.me.outQueue n)).entries.length + (s.pipe s.here (s.me.outQueue n)).reserved → s.destReady d = .error .forfeit

namespace Sys2Proof.Claims

/-- The key of the core-level object of index i at the issuing core. -/
def coreObject (s : State) (i : Nat) : Nat := s.here * 16 + i

/-- A barrier instruction form with operand word v (0 where it has none) names the core-level object i of the issuing core, may use it, and can write
its destination; an arrival finds ST 0. -/
def BarrierReady (word : Word) (op : BarOp) (b : Nat) (srcs : List Nat) (d : Nat) (s : State) (i n : Nat) : Prop :=
  ∃ vs, s.operands word srcs [d] = .ok vs ∧ barrierName s.me.group (arg vs 0) = .ok { level := 1, index := i } ∧ barrierOperand word op b (arg vs 1) = .ok n ∧
    s.barrierRefuses (coreObject s i) s.me.ctx (s.me.mode != 0) = false ∧ s.destReady d = .ok () ∧ (op.arrives = true → s.me.st = 0)

end Sys2Proof.Claims

/-- Arming with n above 0 an object that is not armed with arrivals makes it ARMED with EXPECT n and no error; one armed with
arrivals refuses with 1; n = 0 makes it IDLE and releases its waiters as not armed. An arrival whose sum stays below EXPECT adds
its weight and gives the phase's parity; one that reaches EXPECT opens the phase: ARRIVED 0, parity flipped, the old parity as
result, and the waiters of the old parity released with 0. At an IDLE object it gives not armed; in an error phase the error
result. An error arrival opens the phase with its code and releases the waiters with it. A wait with the other parity completes
with 0, with the object's own parity it goes on, at an IDLE object it is not armed, in an error phase it gives the error result.
(R233, R235, R236, R238) -/
def Obligations.BarrierPhasesTurn : Prop :=
  (∀ (b : Barrier) n i, 0 < n → ¬ (b.state = 1 ∧ 0 < b.arrived) →
    let t := b.arm n i false
    t.result = 0 ∧ t.obj.state = 1 ∧ t.obj.expect = n ∧ t.obj.arrived = 0 ∧ t.obj.par = b.par ∧ (b.state ≠ 1 → t.obj.err = false ∧ t.obj.tag = i)) ∧
  (∀ (b : Barrier) n i, b.state = 1 → 0 < b.arrived → b.arm n i false = { obj := b, result := 1 }) ∧
  (∀ (b : Barrier) i, ¬ (b.state = 1 ∧ 0 < b.arrived) → b.arm 0 i false = { obj := {}, result := 0, release := some 0x8000000000010000 }) ∧
  (∀ (b : Barrier) w, b.state = 1 ∨ (b.state = 2 ∧ b.err = false ∧ b.arrived = 0) →
    let t := b.arrive w
    (b.arrived + w < b.expect → t.obj = { b with state := 1, arrived := b.arrived + w } ∧ t.result = boolWord b.par ∧ t.release = none) ∧
    (b.expect ≤ b.arrived + w → t.obj = { b with state := 2, arrived := 0, par := !b.par } ∧ t.result = boolWord b.par ∧ t.release = some 0)) ∧
  (∀ (b : Barrier) w, b.state = 0 → b.arrive w = { obj := b, result := 0x8000000000010000 }) ∧
  (∀ (b : Barrier) w, b.state = 2 → b.err = true → b.arrive w = { obj := b, result := errorResult b.code }) ∧
  (∀ (b : Barrier) k, b.state = 1 → k < 65536 → let t := b.arriveError k
    t.obj.state = 2 ∧ t.obj.err = true ∧ t.obj.code = k ∧ t.obj.par = !b.par ∧ t.result = BitVec.ofNat 64 (0x8000000000000000 + k) ∧ t.release = some t.result) ∧
  ∀ (b : Barrier) t, (b.state = 0 → b.waitNow t = some 0x8000000000010000) ∧ (b.state ≠ 0 → b.err = true → b.waitNow t = some (errorResult b.code)) ∧
    (b.state ≠ 0 → b.err = false → b.par ≠ t → b.waitNow t = some 0) ∧ (b.state ≠ 0 → b.err = false → b.par = t → b.waitNow t = none)

/-- On a core-level object of the own core that the thread may use, BARM, BARV and BERR apply their step and write its result, BSTAT
writes the object's word, BWAIT of a phase that is over writes its result, and BARW whose arrival completes the phase writes 0;
a BWAIT that is not over leaves the rotation with a wait recorded for its token and register, and in a codelet traps 0x0C with the
word. For an object whose home is a router or controller of the package, BARM, BARV, BERR and BSTAT send the operation under the
slot's own rights and add 1 to LD, and BWAIT and BARW wait for the answer. An arrival with ST not 0 forfeits. A user BSTAT of another
context's object traps 0x05. (R78, R234, R237, R239, R242) -/
def Obligations.BarrierInstructionsAct : Prop :=
  (∀ (d a b : RegCode) (s : State) i n, let key := coreObject s i
    (BarrierReady (Instr.barm d a b).word .arm b.toNat [a.toNat, b.toNat] d.toNat s i n →
      exec (.barm d a b) s = .next ((s.applyBarrier key ((s.barrier key).arm n s.me.ctx false)).complete [a.toNat, b.toNat] d.toNat ((s.barrier key).arm n s.me.ctx false).result)) ∧
    (BarrierReady (Instr.barv d a b).word .arrive b.toNat (if b = 0 then [a.toNat] else [a.toNat, b.toNat]) d.toNat s i n →
      exec (.barv d a b) s = .next ((s.applyBarrier key ((s.barrier key).arrive n)).complete (if b = 0 then [a.toNat] else [a.toNat, b.toNat]) d.toNat
        ((s.barrier key).arrive n).result)) ∧
    (BarrierReady (Instr.berr d a b).word .err b.toNat [a.toNat, b.toNat] d.toNat s i n →
      exec (.berr d a b) s = .next ((s.applyBarrier key ((s.barrier key).arriveError n)).complete [a.toNat, b.toNat] d.toNat ((s.barrier key).arriveError n).result)) ∧
    (BarrierReady (Instr.bwait d a b).word .wait b.toNat [a.toNat, b.toNat] d.toNat s i n →
      (∀ v, (s.barrier key).waitNow (n % 2 == 1) = some v → exec (.bwait d a b) s = .next (s.complete [a.toNat, b.toNat] d.toNat v)) ∧
      ((s.barrier key).waitNow (n % 2 == 1) = none → s.me.codelet = false → ∃ t w, exec (.bwait d a b) s = .next t ∧ t.me.phase = .parked ∧ t.me.pc = s.me.pc ∧
        t.barWaits = s.barWaits ++ [w] ∧ w.key = key ∧ w.token = (n % 2 == 1) ∧ w.req.uid = s.me.uid ∧ t.mem = s.mem) ∧
      ((s.barrier key).waitNow (n % 2 == 1) = none → s.me.codelet = true → exec (.bwait d a b) s = .next (s.takeTrap s.cur 0x0C (Instr.bwait d a b).word))) ∧
    (BarrierReady (Instr.barw d a b).word .arriveWait b.toNat (if b = 0 then [a.toNat] else [a.toNat, b.toNat]) d.toNat s i n → s.me.barwToken = none →
      (s.barrier key).state = 1 → (s.barrier key).err = false → (s.barrier key).expect ≤ (s.barrier key).arrived + n →
      exec (.barw d a b) s = .next ((s.applyBarrier key ((s.barrier key).arrive n)).complete (if b = 0 then [a.toNat] else [a.toNat, b.toNat]) d.toNat 0))) ∧
  (∀ (d a : RegCode) (s : State) i n, BarrierReady (Instr.bstat d a).word .stat 0 [a.toNat] d.toNat s i n →
    exec (.bstat d a) s = .next (s.complete [a.toNat] d.toNat (barrierWord (s.barrier (coreObject s i))))) ∧
  (∀ (d a b : RegCode) (s s1 : State) vs nm n h, let two := if b = 0 then [a.toNat] else [a.toNat, b.toNat]
    ∀ p ∈ [((Instr.barm d a b, BarOp.arm, [a.toNat, b.toNat], b.toNat) : Instr × BarOp × List Nat × Nat), (.barv d a b, .arrive, two, b.toNat),
      (.berr d a b, .err, [a.toNat, b.toNat], b.toNat), (.bstat d a, .stat, [a.toNat], 0)],
    s.operands p.1.word p.2.2.1 [d.toNat] = .ok vs → barrierName s.me.group (arg vs 0) = .ok nm → barrierOperand p.1.word p.2.1 p.2.2.2 (arg vs 1) = .ok n →
    (p.2.1.arrives = true → s.me.st ≠ 0 → exec p.1 s = .next s) ∧
    ((p.2.1.arrives = true → s.me.st = 0) → s.barrierHome s.here nm.level = h → (∀ c, h ≠ .core c) → (∀ q, h ≠ .pkg q) → s.destReady d.toNat = .ok () → s.me.ld < 63 →
      s.requestAs s.me.rights h (.barrier p.2.1 (barrierKey s.here nm) n d.toNat (arg vs 0)) = .ok s1 →
      ∃ t, exec p.1 s = .next t ∧ t.net = s1.net ∧ t.me.ld = s.me.ld + 1)) ∧
  (∀ (d a b : RegCode) (s s1 : State) vs nm n h, let two := if b = 0 then [a.toNat] else [a.toNat, b.toNat]
    ∀ p ∈ [((Instr.bwait d a b, BarOp.wait, [a.toNat, b.toNat]) : Instr × BarOp × List Nat), (.barw d a b, .arriveWait, two)],
    s.operands p.1.word p.2.2 [d.toNat] = .ok vs → barrierName s.me.group (arg vs 0) = .ok nm → barrierOperand p.1.word p.2.1 b.toNat (arg vs 1) = .ok n →
    s.me.barwToken = none → (p.2.1.arrives = true → s.me.st = 0) → s.barrierHome s.here nm.level = h → (∀ c, h ≠ .core c) → (∀ q, h ≠ .pkg q) → s.destReady d.toNat = .ok () →
    s.me.codelet = false → s.requestAs s.me.rights h (.barrier p.2.1 (barrierKey s.here nm) n d.toNat (arg vs 0)) = .ok s1 →
    ∃ t, exec p.1 s = .next t ∧ t.net = s1.net ∧ t.me.phase = .parked ∧ t.me.park = .remote s.nextId ∧ t.me.pc = s.me.pc) ∧
  ∀ (d a : RegCode) (s : State) x i, s.operands (Instr.bstat d a).word [a.toNat] [d.toNat] = .ok [x] → barrierName s.me.group x = .ok { level := 1, index := i } → s.me.mode = 0 →
    (s.barrier (coreObject s i)).state ≠ 0 → (s.barrier (coreObject s i)).tag ≠ s.me.ctx → exec (.bstat d a) s = .next (s.takeTrap s.cur 0x05 x)

/-- An operation that arrives at its home is applied and answered with its result, a refused one with the refusal, and a wait that
is not over is held there with its credit given back, or answered RETRY at a full store. An answer writes the register of its
thread, which goes on after the instruction for a wait, and else gives LD back; a refusal makes the trap 0x05 pending, but for a wait that its limit has ended. A wait
past its limit, on a core that DBGSTOP does not hold, writes 0x8000_0000_0002_0000 and the thread goes on. Operations outstanding at an
unreachable pod home are answered with the link-lost result 0x8000_0000_0003_0000. An engine's arrival counts 1 at an armed object,
with a code as an error arrival; a code discarded at an IDLE object of the own core is recorded in ERR at once, and one discarded at
another home by its answer: ERR keeps the first code and counts up to 255. The answer of another package's home to a tile command's arrival
makes the command's finishing release: its token is free, TL one less, its flags ORed, and a thread parked on it goes on; that the release
waits for that answer is the model's reading (log entry 27). (R50, R128, R140, R234, R235, R239, R240, R241, R243, R272, R393) -/
def Obligations.BarrierHomesServe : Prop :=
  (∀ (s : State) m x op key n reg info, s.arrived m = some x → x.resp = false → x.started = true ∨ x.credit = none → x.body = .barrier op key n reg info →
    (s.barrierRefuses key x.ctx x.sup = true → exec (.barrierOperation m) s = .next (s.respond x (.barrierAnswer reg 0 op.waits true info))) ∧
    (s.barrierRefuses key x.ctx x.sup = false → (s.barrierOp op key n x.ctx).2.2 = none →
      exec (.barrierOperation m) s = .next ((s.barrierOp op key n x.ctx).1.respond x (.barrierAnswer reg (s.barrierOp op key n x.ctx).2.1 op.waits false info))) ∧
    (∀ t, s.barrierRefuses key x.ctx x.sup = false → (s.barrierOp op key n x.ctx).2.2 = some t → s.waitsAt x.dst < 4096 →
      ∃ u, exec (.barrierOperation m) s = .next u ∧
        u.barWaits = (s.barrierOp op key n x.ctx).1.barWaits ++ [{ key := key, token := t, req := { x with credit := none, started := false } }]) ∧
    (∀ t, s.barrierRefuses key x.ctx x.sup = false → (s.barrierOp op key n x.ctx).2.2 = some t → 4096 ≤ s.waitsAt x.dst →
      exec (.barrierOperation m) s = .next ((s.barrierOp op key n x.ctx).1.respond x (.retry (if op = .arriveWait then some (if t then 1 else 0) else none) none)))) ∧
  (∀ (s : State) m x reg v info, s.response m = some x → x.body = .barrierAnswer reg v true false info → (s.dropMsg m).waitsFor x.uid m = true →
    exec (.barrierReply m) s = .next (((s.dropMsg m).arriveReg x.uid reg v).resumeThread x.uid)) ∧
  (∀ (s : State) m x reg v info, s.response m = some x → x.body = .barrierAnswer reg v false false info →
    exec (.barrierReply m) s = .next ((s.dropMsg m).applyReply x.uid reg v false)) ∧
  (∀ (s : State) m x reg v info, s.response m = some x → x.body = .barrierAnswer reg v false true info →
    exec (.barrierReply m) s = .next (((s.dropMsg m).applyReply x.uid reg v false).pendThread x.uid 0x05 info)) ∧
  (∀ (s : State) u t w, s.findThread u = some t → (s.slot t).wait = some w → w.barrier = true → w.cancelled = false → 0 < w.limit →
    w.start + w.limit < (s.coreRec (t / 64)).cycle → Store.get false s.dev.stopped (t / 64) = false → w.dst = .core (t / 64) →
    exec (.barrierWaitLimit u) s = .next { (s.arriveReg u w.reg 0x8000000000020000).resumeThread u with
      barWaits := ((s.arriveReg u w.reg 0x8000000000020000).resumeThread u).barWaits.filter fun y => y.req.id != w.op }) ∧
  (∀ (s : State) o reg wait, s.outstanding = [o] → s.isUnreachable o.core o.pkg = true → o.what = .barrier reg wait →
    ∃ u msg, exec .podHomeLost s = .next u ∧ u.outstanding = [] ∧ msg ∈ u.net ∧ (∀ y ∈ u.net, y = msg ∨ y ∈ s.net) ∧
      (∀ y ∈ s.net, y.id ≠ o.id → y ∈ u.net) ∧ msg.id = o.id ∧ msg.uid = o.uid ∧ msg.dst = .core o.core ∧
      msg.body = .barrierAnswer reg 0x8000000000030000 wait false 0) ∧
  (∀ (s : State) c uid i k, (s.barrier (c * 16 + i)).state = 0 → s.engineArrive c uid 1 i (some k) = s.modThread uid (recordErr k)) ∧
  (∀ (s : State) m x key k, s.arrived m = some x → x.resp = false → x.started = true ∨ x.credit = none → x.body = .engineArrive key (some k) →
    (∀ p, x.src ≠ .pkg p) → (s.barrier key).state = 0 → exec (.barrierOperation m) s = .next (s.respond x (.engineAnswer (some k) 0 none))) ∧
  (∀ (s : State) m x k flags, s.response m = some x → x.body = .engineAnswer (some k) flags none →
    exec (.barrierReply m) s = .next ((s.dropMsg m).modThread x.uid (recordErr k))) ∧
  (∀ (s : State) m x c t k code flags, s.response m = some x → x.body = .engineAnswer code flags (some k) → x.dst = .core c → s.findThread x.uid = some t → (s.slot t).uid = x.uid → k < 8 →
    ∃ u, exec (.barrierReply m) s = .next u ∧ u.mem = s.mem ∧ (u.slot t).tok = (s.slot t).tok &&& ~~~(1#8 <<< k) ∧ (u.slot t).tl = (s.slot t).tl - 1 ∧
      (u.slot t).flags = orFlags (s.slot t).flags flags ∧ (∀ e, code = some e → (u.slot t).err = (recordErr e (s.slot t)).err) ∧
      ((s.slot t).phase = .parked → (s.slot t).park = .command k → (u.slot t).phase = .ready)) ∧
  (∀ (s : State) m x reg v info, s.response m = some x → x.body = .barrierAnswer reg v true true info → (s.dropMsg m).waitsFor x.uid m = false →
    exec (.barrierReply m) s = .next (s.dropMsg m)) ∧
  (∀ (sl : Slot) k, k < 65536 → fld (recordErr k sl).err 16 8 = min 255 (fld sl.err 16 8 + 1) ∧
    fld (recordErr k sl).err 0 16 = (if fld sl.err 16 8 = 0 then k else fld sl.err 0 16) ∧ recordErr k sl = { sl with err := (recordErr k sl).err }) ∧
  (∀ (s : State) key code, (s.barrier key).state = 0 → s.engineAt key code = (s, code)) ∧
  ∀ (s : State) key, (s.barrier key).state ≠ 0 → s.engineAt key none = (s.applyBarrier key ((s.barrier key).arrive 1), none) ∧
    ∀ k, s.engineAt key (some k) = (s.applyBarrier key ((s.barrier key).arriveError k), none)

namespace Sys2Proof.Claims

/-- The number of group barriers of the level of a rectangle (R20, R203): 16 inside one cluster, else 8. -/
def groupBarriers (x0 y0 x1 y1 : Nat) : Nat := if clusterOf (coreAt x0 y0) = clusterOf (coreAt x1 y1) then 16 else 8

/-- A packet's address that is neither a space-00 or space-01 address nor a space-10 address of package pkg. -/
def BadAddress (pkg : Nat) (a : Word) : Prop := a ≠ 0 ∧ fld a 62 2 ≠ 0 ∧ fld a 62 2 ≠ 1 ∧ ¬ (fld a 62 2 = 2 ∧ fld a 48 6 = pkg)

/-- The cases of R215 for a packet in package pkg, with RREL resolved. -/
def Malformed (pkg : Nat) (w : List Word) : Prop :=
  let a := w.getD 0 0; let b := w.getD 1 0; let l := w.getD 3 0
  let x0 := fld b 0 8; let y0 := fld b 8 8; let x1 := fld b 16 8; let y1 := fld b 24 8
  (fld a 21 3 ≠ 0 ∨ fld a 30 2 ≠ 0 ∨ fld a 38 2 ≠ 0 ∨ fld a 44 4 ≠ 0 ∨ fld a 57 7 ≠ 0 ∨ fld b 60 3 ≠ 0 ∨ fld l 21 11 ≠ 0 ∨ fld l 53 11 ≠ 0) ∨
  (fld a 0 21 % 4 ≠ 0 ∨ 0x180000 ≤ fld a 0 21) ∨
  (fld a 32 6 = 0 ∨ (bitAt a 28 = true ∧ 1 < fld a 24 4)) ∨
  (31 < x1 ∨ 39 < y1 ∨ x1 < x0 ∨ y1 < y0) ∨
  groupBarriers x0 y0 x1 y1 ≤ fld a 40 4 ∨
  (fld l 0 21 % 8 ≠ 0 ∨ fld l 32 21 % 8 ≠ 0 ∨ 0x180000 < fld l 32 21 + fld l 0 21) ∨
  (fld l 0 21 ≠ 0 ∧ w.getD 2 0 = 0) ∨
  BadAddress pkg (w.getD 2 0) ∨
  (w.getD 6 0 ≠ 0 ∧ isName (w.getD 6 0) = false) ∨
  (fld (w.getD 7 0) 0 6 ≠ 0 ∨ BadAddress pkg (w.getD 7 0))

end Sys2Proof.Claims

/-- LAUNCH of a well-formed packet at a 64-byte aligned own address, with REL resolved, by a supervisor or for the own context, with
ST 0 and LD below 63, sends the packet to the launch controller of die 0, adds 1 to LD and goes on; a malformed packet traps
0x01 with its address and a user's packet for another context 0x0D. DONE of a valid identifier sends its query likewise; both go under the slot's own context
and mode. TRIGGER
of a placed thread of this package's kernel sets TRIG and counts it down once, of another member goes on, and of a thread
without a kernel traps 0x01. The malformed packets are those of R215. GSPLIT makes the group of the own block the slot's GROUP and
writes it to d: inside the group's rectangle by the formulas of R205, and operands that they refuse trap 0x01. GRANK writes the
address of offset 0 of the core of a rank, counted row by row, and all ones past the last. (R20, R203, R205, R206, R213, R214, R215,
R216, R227, R230) -/
def Obligations.KernelInstructionsAct : Prop :=
  (∀ (d a : RegCode) (s : State) p off b1, s.operands (Instr.launch d a).word [a.toNat] [d.toNat] = .ok [p] →
    s.resolve s.here s.rights p 8 = .ok (.spad s.here off) → p.toNat % 64 = 0 →
    let w := s.readWords (spadKey s.here off) 8
    let b := w.getD 1 0
    ((bitAt b 60 = false ∧ b1 = b) ∨ (bitAt b 60 = true ∧ ∃ r, State.resolveRect s.here (setFld (ofNat (fld b 0 32)) 32 1 1) (Instr.launch d a).word = .ok r ∧
      b1 = setFld (setFld b 0 32 (r.x0 + r.y0 * 2 ^ 8 + r.x1 * 2 ^ 16 + r.y1 * 2 ^ 24)) 60 1 0)) →
    (malformedPacket s.pkgNum (w.set 1 b1) = true → exec (.launch d a) s = .next (s.takeTrap s.cur 0x01 p)) ∧
    (malformedPacket s.pkgNum (w.set 1 b1) = false → s.me.mode = 0 → fld ((w.set 1 b1).getD 0 0) 48 9 ≠ s.me.ctx →
      exec (.launch d a) s = .next (s.takeTrap s.cur 0x0D (Instr.launch d a).word)) ∧
    (∀ s1, malformedPacket s.pkgNum (w.set 1 b1) = false → s.me.mode ≠ 0 ∨ fld ((w.set 1 b1).getD 0 0) 48 9 = s.me.ctx → s.destReady d.toNat = .ok () → s.me.st = 0 → s.me.ld < 63 →
      s.requestAs s.me.rights (.ctrl 0) (.launch (w.set 1 b1) d.toNat) = .ok s1 →
      ∃ t, exec (.launch d a) s = .next t ∧ t.net = s1.net ∧ t.me.ld = s.me.ld + 1 ∧ t.mem = s.mem)) ∧
  (∀ (d a : RegCode) (s s1 : State) w, s.operands (Instr.done d a).word [a.toNat] [d.toNat] = .ok [w] → fld w 32 32 = 0 → bitAt w 31 = true → s.destReady d.toNat = .ok () →
    s.me.ld < 63 → s.requestAs s.me.rights (.ctrl 0) (.kernelQuery w d.toNat) = .ok s1 →
    ∃ t, exec (.done d a) s = .next t ∧ t.net = s1.net ∧ t.me.ld = s.me.ld + 1 ∧ t.mem = s.mem) ∧
  (∀ s : State, bitAt s.me.kernel 31 = false → exec .trigger s = .next (s.takeTrap s.cur 0x01 (Instr.word .trigger))) ∧
  (∀ s : State, bitAt s.me.kernel 31 = true → s.me.st = 0 → (bitAt s.me.kernel 33 = false ∨ bitAt s.me.kernel 32 = true) →
    exec .trigger s = .next (s.completeNone [])) ∧
  (∀ s : State, bitAt s.me.kernel 31 = true → s.me.st = 0 → bitAt s.me.kernel 33 = true → bitAt s.me.kernel 32 = false → s.me.kpkg = none →
    exec .trigger s = .next (((s.modMe fun sl => { sl with kernel := setFld sl.kernel 32 1 1 }).countTrigger s.me.kernel (s.me.countAt.getD s.here)).completeNone [])) ∧
  (∀ (d a b : RegCode) (s : State) x y g, s.operands (Instr.gsplit d a b).word [a.toNat, b.toNat] [d.toNat] = .ok [x, y] → splitGroup s.here s.me.group x y = some g →
    s.destReady d.toNat = .ok () → exec (.gsplit d a b) s = .next ((s.modMe fun sl => { sl with group := g }).complete [a.toNat, b.toNat] d.toNat g)) ∧
  (∀ pkg w, malformedPacket pkg w = true ↔ Malformed pkg w) ∧
  (∀ (d a b : RegCode) (s : State) x y, s.operands (Instr.gsplit d a b).word [a.toNat, b.toNat] [d.toNat] = .ok [x, y] → s.destReady d.toNat = .ok () →
    let g := s.me.group; let tpc := fld g 17 6; let gx0 := fld g 32 8; let gy0 := fld g 40 8; let gx1 := fld g 48 8; let gy1 := fld g 56 8
    let sw := fld x 0 8; let sh := fld x 8 8
    let nbx := (gx1 + 1 - gx0 + sw - 1) / sw; let nby := (gy1 + 1 - gy0 + sh - 1) / sh
    let legal := tpc ≠ 0 ∧ fld x 16 48 = 0 ∧ fld y 4 60 = 0 ∧ 0 < sw ∧ 0 < sh ∧ sw ≤ gx1 + 1 - gx0 ∧ sh ≤ gy1 + 1 - gy0 ∧ nbx * nby ≤ 32
    let bx := (coreX s.here - gx0) / sw; let b_y := (coreY s.here - gy0) / sh
    let x0 := gx0 + bx * sw; let x1 := min gx1 (x0 + sw - 1); let y0 := gy0 + b_y * sh; let y1 := min gy1 (y0 + sh - 1)
    let inside := gx0 ≤ coreX s.here ∧ coreX s.here ≤ gx1 ∧ gy0 ≤ coreY s.here ∧ coreY s.here ≤ gy1 ∧ gx1 ≤ 31 ∧ gy1 ≤ 39
    (¬ legal → exec (.gsplit d a b) s = .next (s.takeTrap s.cur 0x01 (Instr.gsplit d a b).word)) ∧
    (legal → inside → groupBarriers x0 y0 x1 y1 ≤ fld y 0 4 → exec (.gsplit d a b) s = .next (s.takeTrap s.cur 0x01 (Instr.gsplit d a b).word)) ∧
    (legal → inside → fld y 0 4 < groupBarriers x0 y0 x1 y1 →
      ∃ t, exec (.gsplit d a b) s = .next t ∧ fld t.me.group 32 8 = x0 ∧ fld t.me.group 40 8 = y0 ∧ fld t.me.group 48 8 = x1 ∧ fld t.me.group 56 8 = y1 ∧
        fld t.me.group 17 6 = tpc ∧ fld t.me.group 23 5 = b_y * nbx + bx ∧ fld t.me.group 28 4 = fld y 0 4 ∧
        fld t.me.group 0 17 = ((coreY s.here - y0) * (x1 - x0 + 1) + coreX s.here - x0) * tpc + fld g 0 17 % tpc)) ∧
  (∀ (d a : RegCode) (s : State), ResultAt (.grank d a) [a.toNat] d.toNat (fun vs => rankCore s.me.group (arg vs 0)) s) ∧
  ∀ g r : Word, 0 < groupTpc g → let q := groupRect g
    (q.width * q.height * groupTpc g ≤ r.toNat → rankCore g r = BitVec.allOnes 64) ∧
    (r.toNat < q.width * q.height * groupTpc g →
      rankCore g r = pack [(q.y0 + r.toNat / groupTpc g / q.width, 40, 8), (q.x0 + r.toNat / groupTpc g % q.width, 32, 8)])

/-- A device packet at a full queue is answered all ones; else it takes the lowest FREE entry, with GEN advanced, and its identifier
is answered. The first packet whose prerequisite and root allow it starts placing, or is refused with reason 1 for a context not
LIVE, 2 for one not placeable, 3 for a rectangle outside its partition. An eligible core with TPC slots and windows free grants them, and one without refuses. The image goes in
packets of at most 1024 bytes (log entry 2, the model's choice) along the granting cores, in snake order, one packet after another, the
walks counted in the heat up to the first fault (log entry 43, the model's choice); a fault at a packet's first byte gives reason 6. When every eligible core has answered, a launch none granted is refused with reason 4 and one
with ALL and a refusal with reason 5; else, with its image there, the threads are created, the group's barrier is armed with
their number, the entry becomes RUNNING and the report is written. (R217, R218, R219, R220, R221, R222, R223, R236, R266) -/
def Obligations.LaunchesAreQueuedAndPlaced : Prop :=
  (∀ (s : State) m x pk reg, s.arrived m = some x → x.resp = false → x.started = true ∨ x.credit = none → x.body = .launch pk reg →
    (256 ≤ s.launchQueue.length → exec (.launchAccept m) s = .next (s.respond x (.value reg (BitVec.allOnes 64) false false))) ∧
    (∀ i, s.launchQueue.length < 256 → i < 1024 → (s.kernelRec i).state = 0 → (∀ j, j < i → (s.kernelRec j).state ≠ 0) →
      ∃ t, exec (.launchAccept m) s = .next t ∧ (t.kernelRec i).state = 1 ∧ (t.kernelRec i).gen = ((s.kernelRec i).gen + 1) % 4096 ∧ (t.kernelRec i).packet = pk ∧
        t.launchQueue = s.launchQueue ++ [i] ∧ ∃ y ∈ t.net, y.id = x.id ∧ y.body = .value reg (BitVec.ofNat 64 (0x80000000 + ((s.kernelRec i).gen + 1) % 4096 * 2 ^ 16 + i)) false false)) ∧
  (∀ (s : State) k r l, s.launchQueue = k :: l → s.kernelRec k = r → s.depAllows r = true → s.rootBusy r.rootDie = false →
    (r.ctx ≠ 0 → (s.ctx r.ctx).state ≠ 1 → exec .kernelSchedule s = .next (s.refuseKernel k 1)) ∧
    (r.ctx ≠ 0 → (s.ctx r.ctx).state = 1 → (s.ctx r.ctx).placeable = false → exec .kernelSchedule s = .next (s.refuseKernel k 2)) ∧
    (r.ctx ≠ 0 → (s.ctx r.ctx).state = 1 → (s.ctx r.ctx).placeable = true → let part := State.rectOf (s.ctx r.ctx).part
      ¬ (part.holds (coreAt r.rect.x0 r.rect.y0) = true ∧ part.holds (coreAt r.rect.x1 r.rect.y1) = true) →
      exec .kernelSchedule s = .next (s.refuseKernel k 3)) ∧
    (r.ctx = 0 ∨ ((s.ctx r.ctx).state = 1 ∧ (s.ctx r.ctx).placeable = true ∧ (State.rectOf (s.ctx r.ctx).part).holds (coreAt r.rect.x0 r.rect.y0) = true ∧
        (State.rectOf (s.ctx r.ctx).part).holds (coreAt r.rect.x1 r.rect.y1) = true) → ∃ t, exec .kernelSchedule s = .next t ∧ (t.kernelRec k).state = 2 ∧ t.launchQueue = l.filter (· != k))) ∧
  (∀ (s : State) k c, let r := s.kernelRec k
    r.state = 2 → s.eligible r c = true → c ∉ r.granted → c ∉ r.refused →
    (∀ s1, s.reserve (r.ident k) c r.limit r.tpc = some s1 → exec (.placementReserve k c) s = .next (s1.modKernel k fun x => { x with granted := x.granted ++ [c] })) ∧
    (s.reserve (r.ident k) c r.limit r.tpc = none → exec (.placementReserve k c) s = .next (s.modKernel k fun x => { x with refused := x.refused ++ [c] }))) ∧
  (∀ (s : State) k, let r := s.kernelRec k
    r.state = 2 → s.allAnswered r = true → r.granted ≠ [] → (r.all = true → r.refused = []) → r.copied < r.ilen → r.imageMsg = none → r.reason = 0 →
    let n := min 1024 (r.ilen - r.copied)
    let a := r.word 2 + BitVec.ofNat 64 r.copied
    let data := s.imageBytes r a n
    let s1 := s.heatOn (.ctrl r.rootDie) r.corner r.rights a (min n (data.length + 1)) false (r.copied == 0)
    let path := r.rect.snake.filter fun c => c ∈ r.granted
    (data = [] → exec (.imageCopy k) s = .next (s1.modKernel k fun x => { x with reason := 6 })) ∧
    (data ≠ [] → ∃ t, exec (.imageCopy k) s = .next t ∧ t.mem = s.mem ∧ (t.kernelRec k).imageMsg = some s1.nextId ∧ (t.kernelRec k).copied = r.copied ∧
      Sends s1 t [(.core (path.headD 0), .multicast (r.ioff + r.copied) data false path)])) ∧
  (∀ (s : State) (r : KernelRec) a n, let data := s.imageBytes r a n
    data.length ≤ n ∧ (∀ i, i < data.length → ∃ key, s.plainKey r.corner r.rights (a + BitVec.ofNat 64 i) 1 false = some key ∧ data[i]? = some (s.mem.byte key).toNat) ∧
    (data.length < n → s.plainKey r.corner r.rights (a + BitVec.ofNat 64 data.length) 1 false = none)) ∧
  (∀ (s : State) m x d off data c k r, s.arrived m = some x → x.body = .multicast off data false [c] → x.src = .ctrl d → s.takesCopy c = true →
    s.kernels.find? (fun e => e.2.imageMsg == some m) = some (k, r) → s.undisturbed false (c * 0x200000 + off) data.length = true → (∀ b ∈ data, b < 256) →
    ∃ t, exec (.multicastPacket m) s = .next t ∧ (∀ i, i < data.length → (t.mem.byte (c * 0x200000 + off + i)).toNat = data.getD i 0) ∧
      (t.kernelRec k).imageMsg = none ∧ (t.kernelRec k).copied = (s.kernelRec k).copied + data.length) ∧
  ∀ (s : State) k, let r := s.kernelRec k
    r.state = 2 → s.allAnswered r = true → r.reason = 0 →
    (r.granted = [] → exec (.placementCommit k) s = .next (s.refuseKernel k 4)) ∧
    (r.granted ≠ [] → r.all = true → r.refused ≠ [] → exec (.placementCommit k) s = .next (s.refuseKernel k 5)) ∧
    (r.granted ≠ [] → (r.all = true → r.refused = []) → r.ilen ≤ r.copied →
      let s1 := (r.rect.snake.filter r.granted.contains).foldl (fun x c => x.createThreads k c) s
      let key := barrierKey r.corner { level := rectLevel r.rect, index := fld (r.word 0) 40 4 }
      exec (.placementCommit k) s = .next (((s1.applyBarrier key ((s1.barrier key).arm (r.granted.length * r.tpc) r.ctx true)).modKernel k
        fun x => { x with state := 3 }).report k (r.granted.length * r.tpc)))

/-- A tree core whose members have all retired reports its status once, combined into the entry's; one whose threads have all
triggered reports that, and after the last report the kernel is TRIGGERED. A JOIN at the root adds a member and is acknowledged,
which answers the held packet (that of a call at the own core is only removed) or completes the SPAWN; a LEAVE takes one and combines
its status. A kernel whose cores have all
reported and whose JOINs have all left, with no membership message in flight, retires with its word. A guest's trigger notice
and retirement are counted at the core they name, the one that counts the thread here. DONE answers all ones for a FREE entry, another GEN or another user context's kernel,
the status word when retired, and else the state. (R224, R225, R226, R227, R228, R229, R230) -/
def Obligations.KernelsTriggerAndRetire : Prop :=
  (∀ (s : State) k c, let r := s.kernelRec k
    r.state = 3 ∨ r.state = 4 → c ∈ r.granted →
    (c ∉ r.reported → (s.kernelCore k c).alive = 0 → membershipInFlight k (some c) s = false →
      exec (.statusReport k c) s = .next (s.modKernel k fun x => { x with reported := x.reported ++ [c], status := combine x.status (s.kernelCore k c).status })) ∧
    (c ∉ r.triggers → (s.kernelCore k c).untriggered = 0 → ∃ t, exec (.triggerReport k c) s = .next t ∧ (t.kernelRec k).triggers = r.triggers ++ [c] ∧
      ((∀ e ∈ r.granted, e ∈ r.triggers ++ [c]) → (t.kernelRec k).state = 4))) ∧
  (∀ (s : State) m x w reg v d, s.arrived m = some x → x.body = .join w reg v → x.dst = .ctrl d → s.kernelLive w = true →
    exec (.join m) s = .next ((s.modKernel (kernelId w) fun k => { k with joins := k.joins + 1 }).respond x (.joinAck reg v))) ∧
  (∀ (s : State) m x reg v c e, s.arrived m = some x → x.body = .joinAck reg v → x.dst = .core c → ((s.dropMsg m).coreRec c).joining.find? (·.1 == m) = some e →
    let u := (s.dropMsg m).modCore c fun r => { r with joining := r.joining.filter (·.1 != m) }
    (e.2.src = e.2.dst → exec (.join m) s = .next u) ∧
    (e.2.src ≠ e.2.dst → exec (.join m) s = .next (u.sendAs { e.2 with src := e.2.dst, dst := e.2.src, resp := true, body := .ack 0 0 }))) ∧
  (∀ (s : State) m x reg v c, s.arrived m = some x → x.body = .joinAck reg v → x.dst = .core c → (∀ e ∈ (s.coreRec c).joining, e.1 ≠ m) → (s.dropMsg m).waitsFor x.uid m = true →
    exec (.join m) s = .next (((s.dropMsg m).resumeThread x.uid).arriveReg x.uid reg (ofNat v))) ∧
  (∀ (s : State) m x w st d, s.arrived m = some x → x.body = .leave w st → x.dst = .ctrl d → s.kernelLive w = true →
    exec (.leave m) s = .next ((s.dropMsg m).modKernel (kernelId w) fun k => { k with joins := k.joins - 1, status := combine k.status st })) ∧
  (∀ (s : State) k, let r := s.kernelRec k
    r.state = 3 ∨ r.state = 4 → (∀ c ∈ r.granted, c ∈ r.reported) → r.joins = 0 → membershipInFlight k none s = false →
    exec (.kernelRetire k) s = .next (s.retireKernel k r.status)) ∧
  (∀ (s : State) k w, ((s.retireKernel k w).kernelRec k).state = 5 ∧ ((s.retireKernel k w).kernelRec k).status = w) ∧
  (∀ (s : State) m x w c e, s.arrived m = some x → x.body = .triggerNotice w c → x.dst = .core e →
    exec (.triggerNotice m) s = .next ((s.dropMsg m).countTrigger w c)) ∧
  (∀ (s : State) m x w st pl tr ex c e, s.arrived m = some x → x.body = .guestRetired w st c pl tr ex → x.dst = .core e →
    exec (.guestRetireNotice m) s = .next ((s.dropMsg m).memberRetired c (setFld (setFld w 33 1 (boolNat pl)) 32 1 (boolNat tr)) st ex none)) ∧
  (∀ (s : State) m x w reg, s.arrived m = some x → x.resp = false → x.started = true ∨ x.credit = none → x.body = .kernelQuery w reg →
    exec (.doneQuery m) s = .next (s.respond x (.value reg (doneReply s w x.ctx x.sup) false false))) ∧
  ∀ (s : State) w i sup, let k := s.kernelRec (kernelId w)
    (k.state = 0 ∨ k.gen ≠ fld w 16 12 ∨ (sup = false ∧ k.ctx ≠ i) → doneReply s w i sup = BitVec.allOnes 64) ∧
    (k.gen = fld w 16 12 → (sup = true ∨ k.ctx = i) → (k.state = 5 → doneReply s w i sup = k.status) ∧ (k.state ≠ 0 → k.state ≠ 5 → doneReply s w i sup = ofNat k.state))

namespace Sys2Proof.Claims

/-- The vector instructions with the operation each queues and the pointer registers it names as A and B, 0 where it names none (R120 to R123). -/
def vectorForms (d a b : PtrCode) (ty : BitVec 4) (n : RegCode) : List (Instr × VecOp × Nat × Nat) :=
  [(.vadd d a b ty n, .add, a.toNat, b.toNat), (.vsub d a b ty n, .sub, a.toNat, b.toNat), (.vmul d a b ty n, .mul, a.toNat, b.toNat),
   (.vfma d a b ty n, .fma, a.toNat, b.toNat), (.vfms d a b ty n, .fms, a.toNat, b.toNat), (.vdiv d a b ty n, .div, a.toNat, b.toNat),
   (.vsqrt d a ty n, .sqrt, a.toNat, 0), (.vrsqrt d a ty n, .rsqrt, a.toNat, 0), (.vmin d a b ty n, .min, a.toNat, b.toNat), (.vmax d a b ty n, .max, a.toNat, b.toNat),
   (.vabs d a ty n, .abs, a.toNat, 0), (.vneg d a ty n, .neg, a.toNat, 0), (.vexp2 d a ty n, .exp2, a.toNat, 0), (.vlog2 d a ty n, .log2, a.toNat, 0),
   (.vrcp d a ty n, .rcp, a.toNat, 0), (.vscale d a ty n, .scale, a.toNat, 0), (.vaxpy d a b ty n, .axpy, a.toNat, b.toNat)] ++
  [(.viadd d a b ty n, .iadd, a.toNat, b.toNat), (.visub d a b ty n, .isub, a.toNat, b.toNat), (.vimul d a b ty n, .imul, a.toNat, b.toNat),
   (.vand d a b ty n, .and, a.toNat, b.toNat), (.vor d a b ty n, .or, a.toNat, b.toNat), (.vxor d a b ty n, .xor, a.toNat, b.toNat),
   (.vshl d a b ty n, .shl, a.toNat, b.toNat), (.vshr d a b ty n, .shr, a.toNat, b.toNat), (.vshra d a b ty n, .shra, a.toNat, b.toNat),
   (.vimin d a b ty n, .imin, a.toNat, b.toNat), (.vimax d a b ty n, .imax, a.toNat, b.toNat)] ++
  [(.vcvt d a ty n, .cvt, a.toNat, 0), (.vlut d a b ty n, .lut, a.toNat, b.toNat), (.vfill d a ty n, .fill, a.toNat, 0), (.viota d ty n, .iota, 0, 0),
   (.vcopy d a ty n, .copy, a.toNat, 0), (.vrsum d a ty n, .rsum, a.toNat, 0), (.vrmax d a ty n, .rmax, a.toNat, 0), (.vrmin d a ty n, .rmin, a.toNat, 0),
   (.vdot d a b ty n, .dot, a.toNat, b.toNat), (.vcmp d a b ty n, .cmp, a.toNat, b.toNat), (.vsel d a b ty n, .sel, a.toNat, b.toNat)]

/-- The command that a vector instruction of the issuing slot queues with the word w of g[n] (R111, R113). -/
def vectorCommand (s : State) (op : VecOp) (ty : BitVec 4) (a b d : Nat) (w : Word) : VecCmd :=
  { uid := s.me.uid, op := op, ty := ty.toNat, count := w.toNat % 2 ^ 32, modifier := w.toNat / 2 ^ 32, pa := s.me.ptr a, pb := s.me.ptr b, pd := s.me.ptr d
    pk := s.me.ptr (w.toNat / 2 ^ 32 % 8), rm := roundingMode s.me.flags, int4lo := (s.coreRec s.here).int4lo, int4hi := (s.coreRec s.here).int4hi }

/-- The vector operations without a register pb (R120 to R123). -/
def withoutB : List VecOp := [.sqrt, .rsqrt, .abs, .neg, .exp2, .log2, .rcp, .scale, .cvt, .fill, .iota, .copy, .rsum, .rmax, .rmin]

/-- The pointer registers that an instruction uses, of those its fields and its modifier name (R108, R120 to R123). -/
def usedPointers (op : VecOp) (a b d m : Nat) : List Nat :=
  (if op = .iota then [] else [a]) ++ (if op ∈ withoutB then [] else [b]) ++ [d] ++ (if op = .sel then [m % 8] else [])

/-- The width in bits and the count of the elements of stream D: one element of the accumulation format for a reduction (R111, R123). -/
def destElements (op : VecOp) (ty m n : Nat) : Nat × Nat :=
  if op ∈ [VecOp.rsum, .rmax, .rmin, .dot] then (if ty ∈ [1, 2, 3, 4, 5] then 32 else widthOf ty, 1)
  else (if op = .cvt then widthOf (m % 16) else if op = .cmp then 8 else widthOf ty, n)

/-- The streams of an instruction, each with its pointer, the width of its elements in bits and their count (R111, R122, R123); VFILL
reads one element (log entry 48, the model's choice). -/
def streamsOf (op : VecOp) (ty m n : Nat) (pa pb pd pk : Word) : List (Word × Nat × Nat) :=
  (if op = .iota then [] else [(pa, if op = .lut then widthOf (m % 16) else widthOf ty, if op = .fill then 1 else n)]) ++
  (if op ∈ withoutB ∨ op = .lut then [] else [(pb, widthOf ty, if op = .axpy then 1 else n)]) ++
  [(pd, destElements op ty m n)] ++ (if op = .sel then [(pk, 8, n)] else []) ++ (if op = .lut then [(pb, widthOf ty, m / 2 ^ 16 + 1)] else [])

/-- The modifiers that R120 to R123 admit for an instruction of format ty. -/
def LegalModifier (op : VecOp) (ty m : Nat) : Prop :=
  match op with
  | .scale | .iota => True
  | .imin | .imax => m = 0 ∨ m = 1
  | .rmax | .rmin => m = 0 ∨ (m = 1 ∧ ty ∉ [0, 1, 2, 3, 4, 5])
  | .cvt => m ∈ [0, 1, 2, 3, 4, 5, 8, 9, 10, 11]
  | .lut => m % 2 ^ 16 ∈ [10, 11, 12] ∧ (m / 2 ^ 16 + 1) * (widthOf ty / 8) ≤ 65536
  | .cmp => m < 16 ∧ m % 8 < 6 ∧ (m < 8 ∨ ty ∉ [0, 1, 2, 3, 4, 5])
  | .sel => m < 8
  | _ => m = 0

/-- A stream ends outside the scratchpad; with a count of 0 the extent is 0 (R112 step 3). -/
def outOfRange (n : Nat) (x : Word × Nat × Nat) : Prop := 0x180000 < fld x.1 0 21 + if n = 0 then 0 else (x.2.1 * x.2.2 + 7) / 8

/-- A stream's OFF is no multiple of the element width, a byte for INT4 (R112 step 4). -/
def misaligned (x : Word × Nat × Nat) : Prop := ¬ (max 1 (x.2.1 / 8) ∣ fld x.1 0 21)

end Sys2Proof.Claims

/-- PSET of a word with no reserved bit sets the pointer register to it and goes on; a reserved bit traps 0x01. PGET writes the
pointer register to its register. PADV adds bits 20:0 of its register to OFF modulo 2^21 and leaves the other fields. (R107,
R109) -/
def Obligations.PointerRegistersMove : Prop :=
  (∀ (p : PtrCode) (g : RegCode) (s : State) x, s.operands (Instr.pset p g).word [g.toNat] [] = .ok [x] →
    (ptrReserved x = false → ∃ t, exec (.pset p g) s = .next t ∧ t.me.ptr p.toNat = x ∧ (∀ q, q ≠ p.toNat → t.me.ptr q = s.me.ptr q) ∧ t.mem = s.mem ∧ t.regs = s.regs ∧
      (s.me.loops = [] → t.me.pc = s.me.pc + 4)) ∧
    (ptrReserved x = true → exec (.pset p g) s = .next (s.takeTrap s.cur 0x01 (Instr.pset p g).word))) ∧
  (∀ (p : PtrCode) (g : RegCode) (s : State), ResultAt (.pget p g) [] g.toNat (fun _ => s.me.ptr p.toNat) s) ∧
  ∀ (p : PtrCode) (g : RegCode) (s : State) x, s.operands (Instr.padv p g).word [g.toNat] [] = .ok [x] →
    ∃ t, exec (.padv p g) s = .next t ∧ fld (t.me.ptr p.toNat) 0 21 = (fld (s.me.ptr p.toNat) 0 21 + fld x 0 21) % 2 ^ 21 ∧
      fld (t.me.ptr p.toNat) 21 43 = fld (s.me.ptr p.toNat) 21 43 ∧ (∀ q, q ≠ p.toNat → t.me.ptr q = s.me.ptr q) ∧ t.mem = s.mem ∧ t.regs = s.regs

/-- For every vector instruction whose g[n] can be read, whose used pointers have no reserved bit, whose modifier is legal and whose
streams lie aligned in the scratchpad: with fewer than two commands queued and TL below 63 it appends the command with its
operation, format, count, modifier, pointers, rounding mode and INT4TAB, adds 1 to TL, adds its signed STRIDE once to OFF modulo 2^21
of every used pointer register with PI 1 and changes no other, changes no byte of memory and no register, and goes on; at two
commands or TL 63 it forfeits. A reserved bit in a used pointer, and an illegal modifier, trap 0x01 with the word; the first stream
that ends outside the scratchpad traps 0x04, and else the first misaligned one 0x03, both with the address of its OFF. The legal
modifiers and formats of each instruction are the tables'. That stream A of VFILL is one element is log entry 48, in which order several bad streams are found log entry 56, and that slot 63 traps
with a request in service log entry 57: the model's choices. (R108,
R110, R111, R112, R113, R120, R121, R122, R123) -/
def Obligations.VectorInstructionsAreQueued : Prop :=
  ∀ (d a b : PtrCode) ty n (s : State) w, ∀ p ∈ vectorForms d a b ty n, s.operands p.1.word [n.toNat] [] = .ok [w] →
    let cmd := vectorCommand s p.2.1 ty p.2.2.1 p.2.2.2 d.toNat w
    let used := usedPointers p.2.1 p.2.2.1 p.2.2.2 d.toNat cmd.modifier
    let streams := streamsOf p.2.1 ty.toNat cmd.modifier cmd.count cmd.pa cmd.pb cmd.pd cmd.pk
    ((∃ i ∈ used, fld (s.me.ptr i) 21 11 ≠ 0 ∨ fld (s.me.ptr i) 48 8 ≠ 0 ∨ fld (s.me.ptr i) 58 6 ≠ 0) → exec p.1 s = .next (s.takeTrap s.cur 0x01 p.1.word)) ∧
    ((∀ i ∈ used, fld (s.me.ptr i) 21 11 = 0 ∧ fld (s.me.ptr i) 48 8 = 0 ∧ fld (s.me.ptr i) 58 6 = 0) →
    (¬ LegalModifier p.2.1 ty.toNat cmd.modifier → exec p.1 s = .next (s.takeTrap s.cur 0x01 p.1.word)) ∧
    (LegalModifier p.2.1 ty.toNat cmd.modifier → (∀ l x r, streams = l ++ x :: r →
      ((∀ y ∈ l, ¬ outOfRange cmd.count y) → outOfRange cmd.count x → exec p.1 s = .next (s.takeTrap s.cur 0x04 (addrOf s.here (fld x.1 0 21)))) ∧
      ((∀ y ∈ streams, ¬ outOfRange cmd.count y) → (∀ y ∈ l, ¬ misaligned y) → misaligned x →
        exec p.1 s = .next (s.takeTrap s.cur 0x03 (addrOf s.here (fld x.1 0 21))))) ∧
      ((∀ y ∈ streams, ¬ outOfRange cmd.count y ∧ ¬ misaligned y) →
      ((s.coreRec s.here).queue.length < 2 → s.me.tl < 63 →
        ∃ t, exec p.1 s = .next t ∧ (t.coreRec s.here).queue = (s.coreRec s.here).queue ++ [.vector cmd] ∧ t.me.tl = s.me.tl + 1 ∧ t.mem = s.mem ∧ t.regs = s.regs ∧
          t.regFull = s.regFull ∧ (s.me.loops = [] → t.me.pc = s.me.pc + 4) ∧
          ∀ i, (i ∈ used → bitAt (s.me.ptr i) 56 = true → (fld (t.me.ptr i) 0 21 : Int) = (fld (s.me.ptr i) 0 21 + signed (fld (s.me.ptr i) 32 16) 16) % 2 ^ 21 ∧
              fld (t.me.ptr i) 21 43 = fld (s.me.ptr i) 21 43) ∧
            (i ∉ used ∨ bitAt (s.me.ptr i) 56 = false → t.me.ptr i = s.me.ptr i)) ∧
      (2 ≤ (s.coreRec s.here).queue.length ∨ 63 ≤ s.me.tl → exec p.1 s = .next s))))

namespace Sys2Proof.Claims

/-- Element i of an array of elements of w bits at an offset of core c: a nibble for 4 bits, else bytes, little-endian (R27). -/
def elementAt (m : Memory) (c off w i : Nat) : Nat :=
  if w = 4 then (m.byte (c * 0x200000 + off + i / 2)).toNat / 16 ^ (i % 2) % 16 else m.readN (c * 0x200000 + off + i * (w / 8)) (w / 8)

/-- A byte of that element. -/
def elementByte (c off w i k : Nat) : Prop :=
  if w = 4 then k = c * 0x200000 + off + i / 2 else c * 0x200000 + off + i * (w / 8) ≤ k ∧ k < c * 0x200000 + off + (i + 1) * (w / 8)

/-- The formats that R120 to R123 admit for an operation. -/
def LegalFormat (op : VecOp) (ty : Nat) : Prop :=
  match op with
  | .iadd | .isub | .imul | .and | .or | .xor | .shl | .shr | .shra | .imin | .imax | .iota => ty ∈ [8, 9, 10, 11]
  | .cvt | .copy => ty ∈ [0, 1, 2, 3, 4, 5, 8, 9, 10, 11, 12]
  | .lut | .fill | .cmp | .sel => ty ∈ [0, 1, 2, 3, 4, 5, 8, 9, 10, 11]
  | .rsum | .rmax | .rmin => ty ∈ [0, 1, 2, 3, 8, 9]
  | _ => ty ∈ [0, 1, 2, 3]

/-- The elements of a beat: 1024 bytes of the widest stream (R116). -/
def beatElements (v : VecCmd) : Nat :=
  1024 / ((streamsOf v.op v.ty v.modifier v.count v.pa v.pb v.pd v.pk).map fun x => max 1 (x.2.1 / 8)).foldl max 1

/-- r is x converted by VCVT, an INT4 code through the command's table (R30, R39, R40, R41). -/
def ConversionOf (v : VecCmd) (a : Nat) (r : Nat × Nat) : Prop :=
  let dst := v.modifier
  let src := if v.ty = 12 then 11 else v.ty
  let x := if v.ty = 12 then fld (if a < 8 then v.int4lo else v.int4hi) (8 * (a % 8)) 8 else a
  if src = dst then r = (x, 0)
  else if src < 6 then
    (if dst < 6 then (if widthOf src = widthOf dst then r = (x, 0) else ConvertsFloat src dst v.rm x r) else ConvertsToInteger src (widthOf dst) v.rm x r)
  else if dst < 6 then DeliveredOr dst v.rm (signed x (widthOf src)) false r else Saturates (widthOf dst) (signed x (widthOf src)) r

/-- The comparison m of VCMP holds of two elements (R36, R123). -/
def Compares (ty m x y : Nat) : Prop :=
  let less (p q : Nat) : Prop := if ty < 6 then LessThan ty p q else if m < 8 then signed p (widthOf ty) < signed q (widthOf ty) else p < q
  let same : Prop := if ty < 6 then SameValue ty x y else x = y
  match m % 8 with
  | 0 => same
  | 1 => ¬ same
  | 2 => less x y
  | 3 => less x y ∨ same
  | 4 => less y x
  | _ => less y x ∨ same

/-- r is the result and the flags of element i of an elementwise command: its elements in m, scalars and table in m0, the memory before
the command (R116, R120 to R123). -/
def ElementOf (m0 m : Memory) (c : Nat) (v : VecCmd) (i : Nat) (r : Nat × Nat) : Prop :=
  let w := widthOf v.ty
  let a := elementAt m c (fld v.pa 0 21) w i
  let b := elementAt m c (fld v.pb 0 21) w i
  let d := elementAt m c (fld v.pd 0 21) w i
  match v.op with
  | .add => SumOf v.ty v.rm a b false r
  | .sub => SumOf v.ty v.rm a b true r
  | .mul => ProductOf v.ty v.rm a b r
  | .fma => FusedOf v.ty v.rm a b d false r
  | .fms => FusedOf v.ty v.rm a b d true r
  | .axpy => FusedOf v.ty v.rm (elementAt m0 c (fld v.pb 0 21) w 0) a d false r
  | .div => QuotientOf v.ty v.rm a b r
  | .sqrt => RootOf v.ty v.rm a r
  | .rsqrt => InverseRootOf v.ty a r
  | .min => ExtremeOf v.ty a b false r
  | .max => ExtremeOf v.ty a b true r
  | .abs => r = (patternOf v.ty false (exponentOf v.ty a) (mantissaOf v.ty a), 0)
  | .neg => r = (patternOf v.ty (!negativeOf v.ty a) (exponentOf v.ty a) (mantissaOf v.ty a), 0)
  | .exp2 => ExponentialOf v.ty a r
  | .log2 => LogarithmOf v.ty a r
  | .rcp => QuotientOf v.ty 0 (patternOf v.ty false (exponentBias v.ty) 0) a r
  | .scale => ScaleOf v.ty v.rm a (signed v.modifier 32) r
  | .iadd => r = ((a + b) % 2 ^ w, 0)
  | .isub => r = ((a + 2 ^ w - b) % 2 ^ w, 0)
  | .imul => r = (a * b % 2 ^ w, 0)
  | .and => r = (a &&& b, 0)
  | .or => r = (a ||| b, 0)
  | .xor => r = (a ^^^ b, 0)
  | .shl => r = (a * 2 ^ (b % w) % 2 ^ w, 0)
  | .shr => r = (a / 2 ^ (b % w), 0)
  | .shra => (r.1 : Int) = signed a w / 2 ^ (b % w) % 2 ^ w ∧ r.2 = 0
  | .imin => r = (if (if v.modifier = 1 then decide (a < b) else decide (signed a w < signed b w)) then a else b, 0)
  | .imax => r = (if (if v.modifier = 1 then decide (a < b) else decide (signed a w < signed b w)) then b else a, 0)
  | .cvt => ConversionOf v a r
  | .lut =>
    let x := elementAt m c (fld v.pa 0 21) (widthOf (v.modifier % 16)) i
    r = if x ≤ v.modifier / 2 ^ 16 then (elementAt m0 c (fld v.pb 0 21) w x, 0) else (if v.ty < 6 then quietNaN v.ty else 0, 0x100)
  | .fill => r = (elementAt m0 c (fld v.pa 0 21) w 0, 0)
  | .iota => (r.1 : Int) = (signed v.modifier 32 + i) % 2 ^ w ∧ r.2 = 0
  | .copy => r = (a, 0)
  | .sel => r = (if elementAt m c (fld v.pk 0 21) 8 i ≠ 0 then a else b, 0)
  | .cmp => (Compares v.ty v.modifier a b → r.1 = 1) ∧ (¬ Compares v.ty v.modifier a b → r.1 = 0) ∧
      (v.ty < 6 ∧ (SignallingPattern v.ty a ∨ SignallingPattern v.ty b) → r.2 = 0x100) ∧
      (¬ (v.ty < 6 ∧ (SignallingPattern v.ty a ∨ SignallingPattern v.ty b)) → r.2 = 0)
  | .rsum | .rmax | .rmin | .dot => True

/-- The accumulation format of a reduction (R123). -/
def reductionFormat (ty : Nat) : Nat := if ty ∈ [1, 2, 3, 4, 5] then 1 else ty

/-- r is x widened to the accumulation format (R123). -/
def WidenedOf (ty x : Nat) (r : Nat × Nat) : Prop := if reductionFormat ty = ty then r = (x, 0) else ConvertsFloat ty (reductionFormat ty) 0 x r

/-- r is lane i of a reduction (R123). -/
def LaneOf (m : Memory) (c : Nat) (v : VecCmd) (i : Nat) (r : Nat × Nat) : Prop :=
  ∃ a b p, WidenedOf v.ty (elementAt m c (fld v.pa 0 21) (widthOf v.ty) i) a ∧ WidenedOf v.ty (elementAt m c (fld v.pb 0 21) (widthOf v.ty) i) b ∧
    (v.op = .dot → ProductOf (reductionFormat v.ty) v.rm a.1 b.1 p) ∧ r = if v.op = .dot then (p.1, a.2 ||| b.2 ||| p.2) else a

/-- r combines two values of a reduction (R49, R123). -/
def StepOf (v : VecCmd) (x y : Nat) (r : Nat × Nat) : Prop :=
  let f := reductionFormat v.ty
  let less : Bool := if v.modifier = 1 then decide (x < y) else decide (signed x (widthOf f) < signed y (widthOf f))
  match v.op with
  | .rmax => if f < 6 then ExtremeOf f x y true r else r = (if less then y else x, 0)
  | .rmin => if f < 6 then ExtremeOf f x y false r else r = (if less then x else y, 0)
  | _ => if f < 6 then SumOf f v.rm x y false r else r = ((x + y) % 2 ^ widthOf f, 0)

/-- The result of a reduction of no elements (R123). -/
def identityOf (v : VecCmd) : Nat :=
  let f := reductionFormat v.ty
  match v.op with
  | .rmax => if f < 6 then infinityPattern f true else if v.modifier = 1 then 0 else 2 ^ (widthOf f - 1)
  | .rmin => if f < 6 then infinityPattern f false else if v.modifier = 1 then 2 ^ widthOf f - 1 else 2 ^ (widthOf f - 1) - 1
  | _ => 0

end Sys2Proof.Claims

/-- An idle engine with a vector command at the head of its queue executes it and holds it as executed with its flags; the finish
subtracts 1 from TL of its thread and adds the flags to its FLAGS. An elementwise command runs in beats of 1024 bytes of its widest
stream: element i of the destination reads as the operation's value on the elements read at the start of i's beat, scalars and table
read before the command, the flags are those of all elements, and every other byte and nibble is unchanged; with SETF the words written
become full, and no other full bit changes. A reduction writes one element, the fold of its beats' pairwise trees, and no other byte;
of no elements, the identity. Each value is computed exactly and rounded once, special values as IEEE 754 and R36 have them; VRSQRT's is
a neighbour of the exact one; of VEXP2 and VLOG2 only the special operands and exact results are stated here. That a conversion's range
is judged on the rounded integer is log entry 47, that VFILL reads one element is log entry 48, and that a region operation may see
the destination disturbed is log entry 51, the model's choices. (R28, R35, R36, R37, R41, R49, R114, R116, R118, R120, R121, R123) -/
def Obligations.VectorEngineComputes : Prop :=
  (∀ (s : State) c v l, (s.coreRec c).queue = .vector v :: l → (s.coreRec c).executed = none →
    exec (.vectorExecute c) s = .next (((vecRun s c v).1.disturb false (spadKey c (ptrOff v.pd)) (streamBytes (v.op.streamD v.ty v.modifier v.count))).modCore c
      fun k => { k with queue := l, executed := some { cmd := .vector v, flags := (vecRun s c v).2 } })) ∧
  (∀ (s : State) c v fl, (s.coreRec c).executed = some { cmd := .vector v, flags := fl } →
    exec (.vectorFinish c) s = .next ((s.modCore c fun k => { k with executed := none }).modThreadCounters v.uid
      fun sl => { sl with tl := sl.tl - 1, flags := orFlags sl.flags fl })) ∧
  (∀ (s : State) c v, c < 1280 → v.op ∉ [VecOp.rsum, .rmax, .rmin, .dot] → LegalFormat v.op v.ty → LegalModifier v.op v.ty v.modifier → v.rm < 4 → 0 < v.count →
    let w := (destElements v.op v.ty v.modifier v.count).1
    let off := fld v.pd 0 21
    let e := beatElements v
    max 1 (w / 8) ∣ off → off + (w * v.count + 7) / 8 ≤ 0x180000 →
    ∃ (t : Nat → State) (r : Nat → Nat × Nat), t 0 = s ∧ t ((v.count + e - 1) / e) = (vecRun s c v).1 ∧
      (∀ i, i < v.count → ElementOf s.mem (t (i / e)).mem c v i (r i) ∧ elementAt (t (i / e + 1)).mem c off w i = (r i).1 % 2 ^ w) ∧
      (∀ b k, (∀ i, i < v.count → i / e = b → ¬ elementByte c off w i k) → (t (b + 1)).mem.byte k = (t b).mem.byte k) ∧
      (w = 4 → ∀ b i, i / e ≠ b ∨ v.count ≤ i → elementAt (t (b + 1)).mem c off w i = elementAt (t b).mem c off w i) ∧
      (∀ b k, (bitAt v.pd 57 = true ∧ (∃ i j, i < v.count ∧ i / e = b ∧ elementByte c off w i j ∧ j / 8 = k / 8) → (t (b + 1)).isFull k = true) ∧
        (bitAt v.pd 57 = false ∨ (∀ i j, i < v.count → i / e = b → elementByte c off w i j → j / 8 ≠ k / 8) → (t (b + 1)).isFull k = (t b).isFull k)) ∧
      ∀ j, (vecRun s c v).2.testBit j = true ↔ ∃ i, i < v.count ∧ (r i).2.testBit j = true) ∧
  ∀ (s : State) c v, c < 1280 → v.op ∈ [VecOp.rsum, .rmax, .rmin, .dot] → LegalFormat v.op v.ty → LegalModifier v.op v.ty v.modifier → v.rm < 4 →
    let w := widthOf (reductionFormat v.ty)
    let off := fld v.pd 0 21
    let u := vecRun s c v
    off + w / 8 ≤ 0x180000 → ∃ r : Nat × Nat, u.2 = r.2 ∧ elementAt u.1.mem c off w 0 = r.1 % 2 ^ w ∧
      (∀ k, ¬ elementByte c off w 0 k → u.1.mem.byte k = s.mem.byte k) ∧ (v.count = 0 → r = (identityOf v, 0)) ∧
      (0 < v.count → ∃ lanes : List (Nat × Nat), lanes.length = v.count ∧ (∀ i (h : i < lanes.length), LaneOf s.mem c v i lanes[i]) ∧
        FoldOf (StepOf v) (1024 / (w / 8)) lanes r)

namespace Sys2Proof.Claims

/-- The four registers of an engine command from a. -/
def fourFrom (a : RegCode) : List Nat := [a.toNat, a.toNat + 1, a.toNat + 2, a.toNat + 3]

/-- FMT, and FMTO where the op has one, are a row's formats for the op (R44, R131). -/
def TileFormats (op fa fb fc fmto : Nat) : Prop :=
  (op ∈ [2, 7] ∧ fa = 2 ∧ fb = 2 ∧ fc = 1) ∨ (op ∈ [2, 7] ∧ fa = 3 ∧ fb = 3 ∧ fc = 1) ∨
  (op ∈ [2, 3, 7] ∧ fa ∈ [4, 5] ∧ fb ∈ [4, 5] ∧ fc = 1) ∨ (op ∈ [2, 7] ∧ fa ∈ [11, 12] ∧ fb ∈ [11, 12] ∧ fc = 9) ∨
  (op ∈ [4, 7] ∧ fa = 0 ∧ fb = 0 ∧ fc = 0) ∨ (op = 1 ∧ fc ∈ [0, 1, 9]) ∨
  (op = 5 ∧ (fc = 1 ∧ fmto ∈ [1, 2, 3, 4, 5] ∨ fc = 0 ∧ fmto ∈ [0, 1] ∨ fc = 9 ∧ fmto ∈ [9, 10, 11])) ∨
  (op = 6 ∧ (fc = 1 ∧ fmto ∈ [1, 2, 3] ∨ fc = 0 ∧ fmto ∈ [0, 1] ∨ fc = 9 ∧ fmto ∈ [9, 10, 11])) ∨ op ∈ [8, 9, 10, 11]

/-- R70's list: the tile command word w0 to w3 of TCMD with the level b under FMT is turned away. -/
def TurnedAway (fmt : Word) (b : Nat) (w0 w1 w2 w3 : Word) : Prop :=
  let op := fld w0 0 8; let nkb := fld w0 12 8; let bidx := fld w0 20 4; let fmto := fld w0 25 4; let rlen := fld w0 32 5; let rpos := fld w0 37 5
  let stride := fld w2 0 21; let fa := fld fmt 0 4; let fb := fld fmt 4 4; let fc := fld fmt 8 4
  let row := if op ∈ [2, 3] then 128 * widthOf fa / 8 else if op = 4 then 256 else if op = 7 then 32 * widthOf fb / 8 else 32 * widthOf fmto / 8
  (op < 1 ∨ 11 < op) ∨ fld w0 8 3 ∈ [1, 2, 3] ∨
  (fld w0 11 1 ≠ 0 ∨ fld w0 29 3 ≠ 0 ∨ fld w0 42 22 ≠ 0 ∨ fld w2 21 43 ≠ 0) ∨
  (op ∉ [2, 3, 4, 7, 8] ∧ fld w0 24 1 ≠ 0) ∨ (op ∉ [5, 6] ∧ fmto ≠ 0) ∨ (op ≠ 8 ∧ (rlen ≠ 0 ∨ rpos ≠ 0)) ∨ (op ∈ [1, 8] ∧ w1 ≠ 0) ∨
  (op ∉ [2, 3, 4, 5, 6, 7] ∧ stride ≠ 0) ∨ (op ∉ [10, 11] ∧ w3 ≠ 0) ∨
  (if op ∈ [2, 3, 4] then nkb = 0 else nkb ≠ 0) ∨
  (if b = 0 then bidx ≠ 0 else [0, 16, 16, 8, 8, 4].getD b 4 ≤ bidx) ∨
  ¬ TileFormats op fa fb fc fmto ∨ (op = 8 ∧ rlen = 0) ∨ 32 < rlen + 1 + rpos ∨
  (op ∈ [2, 3, 4, 5, 6, 7] ∧ (stride % 8 ≠ 0 ∨ stride < row))

/-- The command that TCMD queues for the issuing slot (R68, R126). -/
def tileCommand (s : State) (k b : Nat) (o : TileOp) (w0 w1 w2 w3 : Word) : TileCmd :=
  { uid := s.me.uid, ctx := s.me.ctx, mode := s.me.mode, k := k, level := b, op := o, nkb := fld w0 12 8, bidx := fld w0 20 4, lat := fld w0 24 1
    fmto := fld w0 25 4, rlen := fld w0 32 5, rpos := fld w0 37 5, addr0 := w1, stride := fld w2 0 21, addr1 := w3, fmt := s.me.fmt, scla := s.me.scla
    sclb := s.me.sclb, wlim := s.me.wlim, rm := if fld w0 8 3 = 0 then fld s.me.flags 0 2 else fld w0 8 3 - 4
    int4lo := (s.coreRec s.here).int4lo, int4hi := (s.coreRec s.here).int4hi }

/-- The bits of an accumulator element in a C format (R124). -/
def accWidth (fc : Nat) : Nat := if fc = 0 then 64 else 32

/-- The elements of row i of the A tile of K-block kb, from the scratchpad of core c (R130). -/
def aRow (s : State) (c : Nat) (q : TileCmd) (off kb i : Nat) : List Nat :=
  (List.range q.depth).map (elemOf q.fa (s.readBytes (c * 0x200000 + off + (kb * q.rows + i) * q.stride) q.rowBytes))

/-- The elements of column j of the B tile in half h of the latch of core c (R130). -/
def bColumn (s : State) (c : Nat) (q : TileCmd) (h j : Nat) : List Nat :=
  (List.range q.depth).map fun k => elemOf q.fb ((s.matrix c).latchBytes h 0 (q.depth * 32 * widthOf q.fb / 8)) (32 * k + j)

/-- A subnormal result flushed to a zero of its sign, with UF and NX (R43). -/
def flushedTo (code : Nat) (r : Nat × Nat) : Nat × Nat :=
  if exponentOf code r.1 = 0 ∧ mantissaOf code r.1 ≠ 0 then (r.1 - mantissaOf code r.1, r.2 ||| 0x800 ||| 0x1000) else r

/-- The product of two patterns is an infinity of a sign. -/
def InfiniteProduct (fa fb : Nat) (n : Bool) (p : Nat × Nat) : Prop :=
  (InfinitePattern fa p.1 ∧ ¬ NaNPattern fb p.2 ∧ ¬ ZeroPattern fb p.2 ∨ InfinitePattern fb p.2 ∧ ¬ NaNPattern fa p.1 ∧ ¬ ZeroPattern fa p.1) ∧
    n = (negativeOf fa p.1 != negativeOf fb p.2)

/-- r is the exact sum of the products of a sub-block, rounded once and flushed (R45). -/
def SubBlockOf (fa fb fc rm : Nat) (l : List (Nat × Nat)) (r : Nat × Nat) : Prop :=
  let invalid := (∃ p ∈ l, NaNPattern fa p.1 ∨ NaNPattern fb p.2 ∨ InfinitePattern fa p.1 ∧ ZeroPattern fb p.2 ∨ ZeroPattern fa p.1 ∧ InfinitePattern fb p.2) ∨
    ((∃ p ∈ l, InfiniteProduct fa fb false p) ∧ ∃ p ∈ l, InfiniteProduct fa fb true p)
  (invalid → r = (quietNaN fc, 0x100)) ∧
  (∀ n, ¬ invalid → (∃ p ∈ l, InfiniteProduct fa fb n p) → r = (infinityPattern fc n, 0)) ∧
  ((∀ p ∈ l, FinitePattern fa p.1 ∧ FinitePattern fb p.2) → ∃ x,
    DeliveredOr fc rm ((l.map fun p => (patternValue fa p.1 * patternValue fb p.2 : ℝ)).sum) (decide (rm = 3) || l.all fun p => negativeOf fa p.1 != negativeOf fb p.2) x ∧
    r = flushedTo fc x)

/-- r is an accumulator element after n sub-blocks, added one after another (R45). -/
def AccumulatedOver (fa fb fc rm n : Nat) (l : List (Nat × Nat)) (old r : Nat) : Prop :=
  ∃ acc : Nat → Nat, acc 0 = old ∧ acc n = r ∧ ∀ h, h < n → ∃ b x, SubBlockOf fa fb fc rm ((l.drop (32 * h)).take 32) b ∧ SumOf fc rm (acc h) b.1 false x ∧
    acc (h + 1) = (flushedTo fc x).1

/-- r is the FP32 partial of an MMAS's four sub-blocks (R48). -/
def PartialOver (fa fb rm : Nat) (l : List (Nat × Nat)) (r : Nat) : Prop :=
  ∃ part : Nat → Nat, part 3 = r ∧ (∃ b, SubBlockOf fa fb 1 rm (l.take 32) b ∧ part 0 = b.1) ∧
    ∀ h, h < 3 → ∃ b x, SubBlockOf fa fb 1 rm ((l.drop (32 * (h + 1))).take 32) b ∧ SumOf 1 rm (part h) b.1 false x ∧ part (h + 1) = (flushedTo 1 x).1

/-- R142's list: the request m1 to m3 of COPY (0), COPYR (1) or COPYM (2) with bsel b is turned away. -/
def CopyRefused (op b : Nat) (m1 m2 m3 : Word) : Prop :=
  (fld m2 40 22 ≠ 0 ∨ fld m3 4 4 ≠ 0 ∨ fld m3 12 20 ≠ 0 ∨ fld m3 53 10 ≠ 0) ∨
  (if b = 0 then fld m3 8 4 ≠ 0 else [0, 16, 16, 8, 8, 4].getD b 4 ≤ fld m3 8 4) ∨
  (if op = 1 then fld m3 0 4 ∉ [0, 1, 2, 3, 8, 9] else fld m3 0 4 ≠ 0) ∨ (bitAt m2 63 = true ∧ (op = 2 ∨ m1 ≠ 0))

/-- The value of the n bytes of one element of a list of bytes, little-endian. -/
def elementOf (data : List Nat) (w i : Nat) : Nat := ((data.drop (i * w)).take w).foldr (fun b acc => b + 256 * acc) 0

end Sys2Proof.Claims

/-- Where the four registers can be read: a word that R70 turns away traps 0x01 with the instruction word. One it admits, outside a
codelet's .w form, with the token free, fewer than two commands queued and TL below
63, appends to the engine's queue the command with the word's fields, the rounding mode and the slot's FMT, SCLA, SCLB, WLIM, makes token
k busy, adds 1 to TL, changes no byte of memory and no register, and goes on, parked on the command under .w; otherwise it forfeits; a
codelet's .w form traps 0x0C. The finishing release of a command without a barrier frees its path and token, subtracts 1
from TL, adds the flags to FLAGS, or records the code of a failure in ERR, and wakes the thread parked on it; where a store raced with
an MMAS's scale read, every accumulator word is then a free value. A finished MMAS stays noted until its thread has seen that it is over,
and MZERO and MLOADC end every note; which moments count as seeing is log entry 51, the model's choice. (R5, R44, R70, R77, R126, R128,
R131, R132, R139) -/
def Obligations.TileCommandsAreQueued : Prop :=
  (∀ (k : BitVec 3) (a : RegCode) (w : BitVec 1) (b : BitVec 3) (s : State) w0 w1 w2 w3, let i := Instr.tcmd k a w b
    s.runOperands i.word (fourFrom a) (fourFrom a) [] = .ok [w0, w1, w2, w3] →
    (TurnedAway s.me.fmt b.toNat w0 w1 w2 w3 → exec i s = .next (s.takeTrap s.cur 0x01 i.word)) ∧
    (¬ TurnedAway s.me.fmt b.toNat w0 w1 w2 w3 →
      (w = 1 → s.me.codelet = true → exec i s = .next (s.takeTrap s.cur 0x0C i.word)) ∧
      (¬ (w = 1 ∧ s.me.codelet = true) → s.me.tok.getLsbD k.toNat = true ∨ 2 ≤ (s.matrix s.here).queue.length ∨ 63 ≤ s.me.tl → exec i s = .next s) ∧
      ∀ o : TileOp, o.code = fld w0 0 8 → ¬ (w = 1 ∧ s.me.codelet = true) →
        s.me.phase = .ready → s.me.tok.getLsbD k.toNat = false → (s.matrix s.here).queue.length < 2 → s.me.tl < 63 →
          ∃ t, exec i s = .next t ∧ (t.matrix s.here).queue = (s.matrix s.here).queue ++ [tileCommand s k.toNat b.toNat o w0 w1 w2 w3] ∧
            t.me.tok.getLsbD k.toNat = true ∧ t.me.tl = s.me.tl + 1 ∧
            t.mem = s.mem ∧ t.regs = s.regs ∧ t.regFull = s.regFull ∧ (s.me.loops = [] → t.me.pc = s.me.pc + 4) ∧
            (w = 0 → t.me.phase = .ready) ∧ (w = 1 → t.me.phase = .parked ∧ t.me.park = .command k.toNat))) ∧
  (∀ o : TileOp, ∃ n, o.code = n ∧ (o, n) ∈ [(TileOp.mzero, 1), (.mma, 2), (.mmas, 3), (.mmad, 4), (.mstore, 5), (.mloadc, 6), (.bload, 7), (.brot, 8),
    (.tcopy, 9), (.tgather, 10), (.tscatter, 11)]) ∧
  (∀ (s : State) c p, let t := s.forgetTiles c p
    (t.matrix c).unseen = (s.matrix c).unseen.filter (fun q => !p q) ∧ (∀ e, e ≠ c → t.matrix e = s.matrix e) ∧ (t.matrix c).acc = (s.matrix c).acc ∧
      t.mem = s.mem ∧ t.slots = s.slots) ∧
  ∀ (s : State) c mover r, (s.matrix c).path mover = some r → r.cmd.level = 0 →
    (r.cmd.raced = true → r.ended ≠ none → ∃ t, exec (.tileFinish c mover) s = .next t ∧ (s.findThread r.cmd.uid ≠ none → t.mem = s.mem) ∧
      (t.matrix c).path mover = none ∧
      ∀ i, i < 2048 → Store.get 0 (t.matrix c).acc i = BitVec.ofNat 32 (fld (Config.freeWord (s.fresh + i / 2)) (32 * (i % 2)) 32)) ∧
    (r.cmd.raced = false →
      let s0 := s.modMatrix c (·.setPath mover none)
      let seen (u : State) : State := if (s.thread r.cmd.uid).any (fun sl => sl.phase == .parked && sl.park == .command r.cmd.k) = true
        then u.forgetTiles c fun q => q.uid == r.cmd.uid && q.k == r.cmd.k else u
      (r.ended = some none →
        let s1 := if r.cmd.op = .mmas then s0.modMatrix c fun m => { m with unseen := m.unseen ++ [r.cmd] }
          else if r.cmd.op = .mzero ∨ r.cmd.op = .mloadc then s0.forgetTiles c fun _ => true else s0
        exec (.tileFinish c mover) s = .next (seen ((s1.modThreadCounters r.cmd.uid fun sl =>
          { sl with tok := sl.tok &&& ~~~(1#8 <<< r.cmd.k), tl := sl.tl - 1, flags := orFlags sl.flags r.flags }).wakeThread r.cmd.uid (· == .command r.cmd.k)))) ∧
      ∀ code, r.ended = some (some code) → exec (.tileFinish c mover) s = .next
        ((seen ((s0.modThreadCounters r.cmd.uid fun sl =>
          { sl with tok := sl.tok &&& ~~~(1#8 <<< r.cmd.k), tl := sl.tl - 1 }).wakeThread r.cmd.uid (· == .command r.cmd.k))).modThread r.cmd.uid (recordErr code)))

/-- A command at the head of the queue starts when its path is idle. A started MZERO makes every accumulator element 0. A multiply
whose footprint passes and whose half is FULL replaces each accumulator element (i, j) of its rows by the K-block's result on
row i of A and column j of B: for INT32 the old value plus the exact sum of products modulo 2^32, else the sub-block sums of R45
or, for MMAS, of R48 under the block's scales, each sum, product and addition computed exactly, rounded once and flushed (R43); it empties the half, and the last block ends the command; at a half not FULL it
waits. MSTORE writes each element converted to FMTO at its place and no other byte, where its
writes disturb nothing of a region store (log entry 51, the model's choice); MLOADC replaces each element by the
converted memory element. BLOAD into an EMPTY half fills it with the tile's bytes and sets RS to 0. BROT in its ring, its half
free and both neighbours' RS reached, takes the upstream's other half and adds 1 to RS modulo 256; outside its ring it fails
with 0x0448, and past its wait limit with 0x0748. How the latch lays out the bytes of a
tile is log entry 28, the model's choice. (R43, R45, R46, R48, R125, R127, R130, R131, R133, R134) -/
def Obligations.MatrixCommandsCompute : Prop :=
  (∀ (s : State) c q l, (s.matrix c).path q.op.moves = none → (s.matrix c).queue = q :: l → ∃ r t, s.tileRun c q.op = some (r, t) ∧ r.cmd = q ∧ r.blocks = 0 ∧
    r.begun = false ∧ r.ended = none ∧ r.start = (s.coreRec c).cycle ∧ (t.matrix c).queue = l ∧ (t.matrix c).path q.op.moves = some r ∧ (t.matrix c).acc = (s.matrix c).acc ∧ t.mem = s.mem) ∧
  (∀ (s s1 : State) c r, s.tileRun c .mzero = some (r, s1) → ∃ t, exec (.mzero c) s = .next t ∧ (∀ fc i j, (t.matrix c).acc' fc i j = 0) ∧ t.mem = s.mem ∧
    ∃ e, (t.matrix c).path r.cmd.op.moves = some e ∧ e.ended = some none) ∧
  (∀ (s s1 : State) c r off, ∀ p ∈ [((Instr.mma c, .mma) : Instr × TileOp), (.mmas c, .mmas), (.mmad c, .mmad)], s.tileRun c p.2 = some (r, s1) →
    s1.tileMem c r.cmd = .ok off → (r.begun = false → scaleFail r.cmd = none) →
    let h := (r.cmd.lat + r.blocks) % 2
    ((s1.matrix c).half h ≠ .full → exec p.1 s = .next (s1.setRun c { r with begun := true })) ∧
    ((s1.matrix c).half h = .full → ∃ t, exec p.1 s = .next t ∧ t.mem = s.mem ∧ (t.matrix c).half h = .empty ∧
      (∀ i j, i < r.cmd.rows → j < 32 → (t.matrix c).acc' r.cmd.fc i j = ((kBlock s1 c r.cmd off r.blocks).1.acc' r.cmd.fc i j)) ∧
      ∃ e, (t.matrix c).path r.cmd.op.moves = some e ∧ e.blocks = r.blocks + 1 ∧ (e.ended = some none ↔ r.blocks + 1 = r.cmd.nkb ∨ r.ended = some none))) ∧
  (∀ (s : State) c q off kb i j, i < q.rows → j < 32 →
    let old := (s.matrix c).acc' q.fc i j
    let l := (aRow s c q off kb i).zip (bColumn s c q ((q.lat + kb) % 2) j)
    let v := (kBlock s c q off kb).1.acc' q.fc i j
    (q.fc = 9 → (v : Int) = ((old : Int) + (l.map fun (x : Nat × Nat) => tileInt q q.fa x.1 * tileInt q q.fb x.2).foldl (· + ·) 0) % 2 ^ 32) ∧
    (q.fc < 2 → q.fa < 6 → q.fb < 6 → q.op ≠ .mmas → ∃ r, v = r % 2 ^ accWidth q.fc ∧ AccumulatedOver q.fa q.fb q.fc q.rm (q.depth / 32) l old r) ∧
    (q.fc = 1 → q.fa < 6 → q.fb < 6 → q.op = .mmas → ∃ part sc t r : Nat × Nat, v = r.1 % 2 ^ accWidth q.fc ∧ PartialOver q.fa q.fb q.rm l part.1 ∧
      (∃ x, ProductOf 1 q.rm (s.mem.readN (c * 0x200000 + (fld q.scla 0 21 + 4 * (64 * kb + i))) 4) (s.mem.readN (c * 0x200000 + (fld q.sclb 0 21 + 4 * kb)) 4) x ∧
        sc = flushedTo 1 x) ∧
      (∃ x, ProductOf 1 q.rm part.1 sc.1 x ∧ t = flushedTo 1 x) ∧ ∃ x, SumOf 1 q.rm old t.1 false x ∧ r = flushedTo 1 x)) ∧
  (∀ (s s1 : State) c r off, s.tileRun c .mstore = some (r, s1) → s1.tileMem c r.cmd = .ok off →
    let q := r.cmd
    let w := widthOf q.fmto / 8
    0 < w → 32 * w ≤ q.stride → (∀ i j, i < q.rows → j < 32 → s1.undisturbed false (spadKey c (off + i * q.stride + j * w)) w = true) → ∃ t, exec (.mstore c) s = .next t ∧ (t.matrix c).acc = (s1.matrix c).acc ∧
      (∀ i j, i < q.rows → j < 32 → t.mem.readN (c * 0x200000 + off + i * q.stride + j * w) w = (convert q.fc q.fmto q.rm ((s1.matrix c).acc' q.fc i j)).1 % 2 ^ (8 * w)) ∧
      ∀ k, (∀ i j, i < q.rows → j < 32 → ¬ (c * 0x200000 + off + i * q.stride + j * w ≤ k ∧ k < c * 0x200000 + off + i * q.stride + j * w + w)) → t.mem.byte k = s.mem.byte k) ∧
  (∀ (s s1 : State) c r off, s.tileRun c .mloadc = some (r, s1) → s1.tileMem c r.cmd = .ok off →
    let q := r.cmd
    let w := widthOf q.fmto / 8
    ∃ t, exec (.mloadc c) s = .next t ∧ t.mem = s.mem ∧ ∀ i j, i < q.rows → j < 32 →
      let v := convert q.fmto q.fc q.rm (s.mem.readN (c * 0x200000 + (off + i * q.stride + j * w)) w)
      (t.matrix c).acc' q.fc i j = (if q.fc = 9 then v.1 else (flush q.fc v).1) % 2 ^ accWidth q.fc) ∧
  (∀ (s s1 : State) c r off, s.tileRun c .bload = some (r, s1) → (s1.matrix c).half r.cmd.lat = .empty → s1.tileMem c r.cmd = .ok off → r.cmd.lat < 2 →
    r.cmd.rows * r.cmd.rowBytes ≤ 8192 →
    ∃ t, exec (.bload c) s = .next t ∧ t.mem = s.mem ∧ (t.matrix c).half r.cmd.lat = .full ∧ (t.matrix c).rs = 0 ∧
      ∀ k b, k < r.cmd.rows → b < r.cmd.rowBytes →
        (t.matrix c).latchBytes r.cmd.lat (k * r.cmd.rowBytes + b) 1 = [(s.mem.byte (c * 0x200000 + off + k * r.cmd.stride + b)).toNat]) ∧
  (∀ (s s1 : State) c r, s.tileRun c .brot = some (r, s1) → (s1.matrix c).half r.cmd.lat ≠ .full → r.cmd.lat < 2 →
    let q := r.cmd
    let p := snakeOf c
    let up := coreOfSnake (clusterOf c) (if p = q.rpos then q.rpos + q.rlen else p - 1)
    let down := coreOfSnake (clusterOf c) (if p = q.rpos + q.rlen then q.rpos else p + 1)
    (p < q.rpos ∨ q.rpos + q.rlen < p → exec (.brot c) s = .next (brotFail c r 0x04 s1)) ∧
    (q.rpos ≤ p → p ≤ q.rpos + q.rlen → ringAt s1 up (r.ring + 255) = true → ringAt s1 down (r.ring + 255) = true →
      ∃ t, exec (.brot c) s = .next t ∧ t.mem = s.mem ∧ (t.matrix c).half q.lat = .full ∧ (t.matrix c).rs = ((s1.matrix c).rs + 1) % 256 ∧
        (t.matrix c).latchBytes q.lat 0 8192 = (s1.matrix up).latchBytes (1 - q.lat) 0 8192)) ∧
  (∀ (s : State) c r, (s.matrix c).move = some r → r.cmd.op = .brot → r.ended = none → (s.matrix c).half r.cmd.lat = .filling →
    0 < fld r.cmd.wlim 0 24 → fld r.cmd.wlim 0 24 * 1024 < (s.coreRec c).cycle - r.start → exec (.brotWaitLimit c) s = .next (brotFail c r 0x07 s)) ∧
  ∀ (s : State) c r cause, r.cmd.op = .brot → ∃ e, ((brotFail c r cause s).matrix c).move = some e ∧ e.ended = some (some (cause * 256 + 0x48))

/-- A tensor, gather or scatter command that begins and whose descriptor fails its checks ends with the code of cause, operand and
op; else its parts are done in order: a tensor's elements with dimension 0 fastest, or row after row. Row j of a gather or scatter
reads its index when its turn comes: an index below TROWS moves the row of that number between TABLE and row j of DENSE, another
writes zeros in a gather and nothing in a scatter. A part from the own scratchpad to the own scratchpad that meets none of the
move's sources copies its bytes to the destination and leaves every other byte; a part without a source writes zeros; after the
last part the command has ended. A command whose page operation was given up ends with cause 0x06 at the operand it waited for. A
tensor descriptor's reserved bits are ignored. Which of several failures is reported is log entry 49, the model's choice. (R4, R135,
R136, R137, R138, R253) -/
def Obligations.TensorMovesCopyTheirParts : Prop :=
  (∀ (s s1 : State) c r, ∀ p ∈ [((Instr.tcopy c, .tcopy) : Instr × TileOp), (.tgather c, .tgather), (.tscatter c, .tscatter)], s.tileRun c p.2 = some (r, s1) →
    (s1.coreRec c).movePage = none →
    ((s1.coreRec c).moveFailed = true → exec p.1 s = .next ((s1.modCore c fun x => { x with moveFailed := false }).tileFail c r 0x06 r.ring)) ∧
    ((s1.coreRec c).moveFailed = false → r.begun = true → exec p.1 s = .next (s1.moveOn c r)) ∧
    ((s1.coreRec c).moveFailed = false → r.begun = false →
      (p.2 = .tcopy → ∀ k o, s1.tcopyParts c r.cmd = .error (k, o) → exec p.1 s = .next (s1.tileFail c r k o)) ∧
      (p.2 ≠ .tcopy → ∀ k o, s1.rowParts c r.cmd = .error (k, o) → exec p.1 s = .next (s1.tileFail c r k o)) ∧
      (p.2 = .tcopy → ∀ l ps, s1.tcopyParts c r.cmd = .ok (l, ps) → exec p.1 s = .next (s1.moveOn c
        { r with moves := l, places := s1.sourcePlaces c { ctx := r.cmd.ctx, sup := r.cmd.mode != 0 } ps })) ∧
      (p.2 ≠ .tcopy → ∀ ws, s1.rowParts c r.cmd = .ok ws → exec p.1 s = .next (s1.moveOn c { r with desc := ws, rows := List.range (fld (ws.getD 0 0) 32 16) })))) ∧
  (∀ (s : State) c r (p : TileMove) o, s.resolve c { ctx := r.cmd.ctx, sup := r.cmd.mode != 0 } p.dst 1 = .ok (.spad c o) →
    r.moves = [p] → r.rows = [] → s.undisturbed false (c * 0x200000 + o) p.n = true →
    (∀ x ∈ r.places, x.1 + x.2 ≤ c * 0x200000 + o ∨ c * 0x200000 + o + p.n ≤ x.1) →
    let t := s.moveOn c r
    (p.src = none → (∀ b, b < p.n → t.mem.byte (c * 0x200000 + o + b) = 0) ∧
      (∀ k, k < c * 0x200000 + o ∨ c * 0x200000 + o + p.n ≤ k → t.mem.byte k = s.mem.byte k) ∧ ∃ e, (t.matrix c).path r.cmd.op.moves = some e ∧ e.ended = some none) ∧
    ∀ a oa, p.src = some a → s.resolve c { ctx := r.cmd.ctx, sup := r.cmd.mode != 0 } a 1 = .ok (.spad c oa) →
      (∀ b, b < p.n → t.mem.byte (c * 0x200000 + o + b) = s.mem.byte (c * 0x200000 + oa + b)) ∧
      (∀ k, k < c * 0x200000 + o ∨ c * 0x200000 + o + p.n ≤ k → t.mem.byte k = s.mem.byte k) ∧ ∃ e, (t.matrix c).path r.cmd.op.moves = some e ∧ e.ended = some none) ∧
  (∀ (s : State) c r cause operand, let t := s.tileFail c r cause operand
    ∃ e, (t.matrix c).path r.cmd.op.moves = some e ∧ e.ended = some (some (cause * 256 + operand * 16 + r.cmd.op.code)) ∧ t.mem = s.mem) ∧
  (∀ (s u : State) c r j l x, r.moves = [] → r.rows = j :: l → s.movePieces c { r with rows := l } (s.rowMoves c r j) = (x, u) →
    s.moveOn c r = if x then u.moveOn c { r with rows := l } else u) ∧
  (∀ (s : State) c r j ix, let w (i : Nat) : Word := r.desc.getD i 0
    let x := s.mem.readN (c * 0x200000 + ix + 4 * j) 4
    s.tileAt c r.cmd r.cmd.addr1 (4 * fld (w 0) 32 16) 4 = .ok ix → 0 < fld (w 0) 0 16 → fld (w 0) 0 16 ≤ 4096 →
    let row (base : Word) (n : Nat) : Word := base + BitVec.ofNat 64 (n * fld (w 0) 0 16)
    (r.cmd.op = .tgather → fld (w 2) 0 32 ≤ x → s.rowMoves c r j = [{ src := none, dst := row (w 3) j, n := fld (w 0) 0 16 }]) ∧
    (r.cmd.op ≠ .tgather → fld (w 2) 0 32 ≤ x → s.rowMoves c r j = []) ∧
    (x < fld (w 2) 0 32 → fld (row (w 1) x) 0 16 + fld (w 0) 0 16 ≤ 0x10000 → fld (row (w 3) j) 0 16 + fld (w 0) 0 16 ≤ 0x10000 →
      (r.cmd.op = .tgather → s.rowMoves c r j = [{ src := some (row (w 1) x), dst := row (w 3) j, n := fld (w 0) 0 16 }]) ∧
      (r.cmd.op ≠ .tgather → s.rowMoves c r j = [{ src := some (row (w 3) j), dst := row (w 1) x, n := fld (w 0) 0 16 }]))) ∧
  (∀ (s : State) key, let w (i : Nat) : Word := s.read64 (key + 8 * i)
    let at_ (base : Word) (l : List (Nat × Nat)) : Word := l.foldl (fun a e => a + BitVec.ofInt 64 (e.1 * signed e.2 32)) base
    let t := s.tensorAt key
    t.size = 2 ^ fld (w 0) 4 3 ∧
    (fld (w 0) 0 4 = 0 → t.pieces = (List.range (fld (w 3) 0 32)).map fun i =>
      { src := at_ (w 1) [(i, fld (w 4) 0 32)], dst := at_ (w 2) [(i, fld (w 4) 32 32)], n := 2 ^ fld (w 0) 4 3 }) ∧
    (fld (w 0) 0 4 = 1 → t.pieces = (List.range (fld (w 5) 0 32)).flatMap fun j => (List.range (fld (w 3) 0 32)).map fun i =>
      { src := at_ (w 1) [(i, fld (w 4) 0 32), (j, fld (w 6) 0 32)], dst := at_ (w 2) [(i, fld (w 4) 32 32), (j, fld (w 6) 32 32)], n := 2 ^ fld (w 0) 4 3 })) ∧
  ∀ (s u : State) key, fld (s.read64 key) 0 7 = fld (u.read64 key) 0 7 → s.read64 (key + 8) = u.read64 (key + 8) → s.read64 (key + 16) = u.read64 (key + 16) →
    (∀ j, j < 16 → fld (s.read64 (key + 8 * (3 + 2 * j))) 0 32 = fld (u.read64 (key + 8 * (3 + 2 * j))) 0 32 ∧
      s.read64 (key + 8 * (4 + 2 * j)) = u.read64 (key + 8 * (4 + 2 * j))) → s.tensorAt key = u.tensorAt key

/-- A copy with readable registers traps 0x01 where R142 turns its request away or the movement slot issues it; another, outside a
codelet's .w form, with its token free, the mailbox empty, CP below 63 and ST 0 puts the request with its thread, context and
mode into the mailbox, makes token k busy, adds 1 to CP and goes on, parked on the copy under .w; else it forfeits. The default
microcode finishes a COPY of LEN bytes inside one page from one scratchpad to a disjoint range of another place with the bytes
copied, every other byte as before, the words it writes whole full under FILL, and status 0; a range past the scratchpad's end gives
0x045C at the source and 0x046C at the destination. One run of a COPYR adds each integer element to the destination's modulo its
width, each floating-point one by R38, rounded to nearest even, and writes the count of the applied bytes to the progress word. A COPYM packet writes its bytes at the first core of its
path, once that can reserve a response entry, and goes on to the next; after its last packet (of 1024 bytes, log entry 2, the model's
choice) the copy has status 0; an inverted rectangle gives 0x046E. A status, with ST of slot 63 at 0,
frees the token, subtracts 1 from CP, empties the mailbox and wakes the thread; a status 0 arrives at the object named, if one is; another
arrives there as an error or, without a barrier, is recorded in ERR (of several, the first with their number). That it clears slot 63's TOUCH is log entry 17, the
model's choice. Which bytes a write leaves undefined beside its own is R330's; the writes here meet none. (R5, R38, R140, R142, R143, R144,
R145, R146, R147, R148, R266, R271) -/
def Obligations.CopiesAreIssuedAndFinished : Prop :=
  (∀ (k : BitVec 3) (a : RegCode) (w : BitVec 1) (b : BitVec 3) (s : State) m0 m1 m2 m3,
    ∀ p ∈ [((Instr.copy k a w b, 0) : Instr × Nat), (.copyr k a w b, 1), (.copym k a w b, 2)],
    s.runOperands p.1.word (fourFrom a) (fourFrom a) [] = .ok [m0, m1, m2, m3] →
    (CopyRefused p.2 b.toNat m1 m2 m3 ∨ s.cur % 64 = 63 → exec p.1 s = .next (s.takeTrap s.cur 0x01 p.1.word)) ∧
    (¬ CopyRefused p.2 b.toNat m1 m2 m3 → s.cur % 64 ≠ 63 →
      (w = 1 → s.me.codelet = true → exec p.1 s = .next (s.takeTrap s.cur 0x0C p.1.word)) ∧
      (¬ (w = 1 ∧ s.me.codelet = true) →
        (s.me.tok.getLsbD k.toNat = true ∨ (s.coreRec s.here).mailbox ≠ none ∨ 63 ≤ s.me.cp ∨ s.me.st ≠ 0 → exec p.1 s = .next s) ∧
        (s.me.phase = .ready → s.me.tok.getLsbD k.toNat = false → (s.coreRec s.here).mailbox = none → s.me.cp < 63 → s.me.st = 0 →
          ∃ t, exec p.1 s = .next t ∧ (t.coreRec s.here).mailbox = some { m0 := m0, m1 := m1, m2 := m2, m3 := m3, op := p.2, uid := s.me.uid, k := k.toNat, bsel := b.toNat, bidx := fld m3 8 4, ctx := s.me.ctx, mode := s.me.mode } ∧
            t.me.tok.getLsbD k.toNat = true ∧ t.me.cp = s.me.cp + 1 ∧ t.mem = s.mem ∧ t.regs = s.regs ∧ t.regFull = s.regFull ∧ (s.me.loops = [] → t.me.pc = s.me.pc + 4) ∧
            (w = 0 → t.me.phase = .ready) ∧ (w = 1 → t.me.phase = .parked ∧ t.me.park = .command k.toNat))))) ∧
  (∀ (s : State) c q n t1 o1 t2 o2, let x := s.coreRec c
    x.mailbox = some q → x.finishing = none → x.defaultMover = true → x.moverWait = none → x.moverParts = [] → x.moverData = none → (s.slot (c * 64 + 63)).phase ≠ .pageWait →
    q.op = 0 → bitAt q.m2 63 = false → fld q.m2 0 40 = n → 0 < n → fld q.m0 0 16 + n ≤ 0x10000 → fld q.m1 0 16 + n ≤ 0x10000 →
    s.resolve c { ctx := q.ctx, sup := q.mode != 0 } q.m0 1 = .ok (.spad t1 o1) → s.resolve c { ctx := q.ctx, sup := q.mode != 0 } q.m1 1 = .ok (.spad t2 o2) →
    (0x180000 < o1 + n → ∃ t, exec (.copyFinish c) s = .next t ∧ (t.coreRec c).finishing = some 0x045C ∧ t.mem = s.mem) ∧
    (o1 + n ≤ 0x180000 → 0x180000 < o2 + n → ∃ t, exec (.copyFinish c) s = .next t ∧ (t.coreRec c).finishing = some 0x046C ∧ t.mem = s.mem) ∧
    (o1 + n ≤ 0x180000 → o2 + n ≤ 0x180000 → (t1 * 0x200000 + o1 + n ≤ t2 * 0x200000 + o2 ∨ t2 * 0x200000 + o2 + n ≤ t1 * 0x200000 + o1) →
    s.undisturbed false (t2 * 0x200000 + o2) n = true → t2 * 0x200000 + o2 + n ≤ 2 ^ 40 →
    ∃ t, exec (.copyFinish c) s = .next t ∧ (t.coreRec c).finishing = some 0 ∧
      (∀ i, i < n → t.mem.byte (t2 * 0x200000 + o2 + i) = s.mem.byte (t1 * 0x200000 + o1 + i)) ∧
      (∀ k, k < t2 * 0x200000 + o2 ∨ t2 * 0x200000 + o2 + n ≤ k → t.mem.byte k = s.mem.byte k) ∧
      ∀ k, k % 8 = 0 → t.isFull k = (s.isFull k || (bitAt q.m2 62 && decide (t2 * 0x200000 + o2 ≤ k) && decide (k + 8 ≤ t2 * 0x200000 + o2 + n))))) ∧
  (∀ (s : State) m x c key ty data prog count words, s.arrived m = some x → x.body = .run key ty data prog count words → x.src = .core c → ty ∈ [0, 1, 2, 3, 8, 9] →
    let w := widthOf ty / 8
    (∀ b ∈ data, b < 256) → data.length % w = 0 → count < 2 ^ 64 → (prog + 8 ≤ key ∨ key + data.length ≤ prog) →
    s.undisturbed false key data.length = true → s.undisturbed false prog 8 = true →
    ∃ t, exec (.copyrRunApply m) s = .next t ∧ t.mem.readN prog 8 = count ∧
      (∀ i, i < data.length / w →
        (ty ∈ [8, 9] → t.mem.readN (key + i * w) w = (s.mem.readN (key + i * w) w + elementOf data w i) % 2 ^ (8 * w)) ∧
        (ty ∉ [8, 9] → ∃ r, SumOf ty 0 (s.mem.readN (key + i * w) w) (elementOf data w i) false r ∧ t.mem.readN (key + i * w) w = r.1 % 2 ^ (8 * w))) ∧
      (∀ k, (k < key ∨ key + data.length ≤ k) → (k < prog ∨ prog + 8 ≤ k) → t.mem.byte k = s.mem.byte k) ∧ t.findMsg m = none) ∧
  (∀ (s : State) c q, let x := s.coreRec c
    x.mailbox = some q → x.finishing = none → x.defaultMover = true → x.moverWait = none → x.moverParts = [] → (s.slot (c * 64 + 63)).phase ≠ .pageWait → q.op = 2 →
    (∃ t o, s.resolve c { ctx := q.ctx, sup := q.mode != 0 } q.m0 1 = .ok (.spad t o) ∧ o + fld q.m2 0 40 ≤ 0x180000) →
    (fld q.m1 48 5 < fld q.m1 32 5 ∨ fld q.m1 56 6 < fld q.m1 40 6 ∨ 39 < fld q.m1 56 6) →
    ∃ t, exec (.copyFinish c) s = .next t ∧ (t.coreRec c).finishing = some 0x046E ∧ t.mem = s.mem) ∧
  (∀ (s : State) c q, let x := s.coreRec c
    x.mailbox = some q → x.finishing = none → x.defaultMover = true → x.moverWait = none → x.moverParts ≠ [] → (s.slot (c * 64 + 63)).phase ≠ .pageWait → q.op = 2 →
    x.moverPos = x.moverParts.length + (fld q.m1 0 3 + fld q.m2 0 40 + 1023) / 1024 →
    ∃ t, exec (.copyFinish c) s = .next t ∧ (t.coreRec c).finishing = some 0 ∧ t.mem = s.mem) ∧
  (∀ (s : State) m x c off data fill l tgt, s.arrived m = some x → x.body = .multicast off data fill (tgt :: l) → x.src = .core c → (∀ b ∈ data, b < 256) →
    (s.takesCopy tgt = false → exec (.multicastPacket m) s = .next s) ∧
    (s.takesCopy tgt = true → s.undisturbed false (tgt * 0x200000 + off) data.length = true →
    ∃ t, exec (.multicastPacket m) s = .next t ∧
      (∀ i, i < data.length → (t.mem.byte (tgt * 0x200000 + off + i)).toNat = data.getD i 0) ∧
      (∀ k, k < tgt * 0x200000 + off ∨ tgt * 0x200000 + off + data.length ≤ k → t.mem.byte k = s.mem.byte k) ∧
      (∀ n r, l = n :: r → ∃ y, t.net = (s.dropMsg m).net ++ [y] ∧ y.id = m ∧ y.src = x.src ∧ y.dst = .core n ∧ y.body = .multicast off data fill (n :: r)) ∧
      (l = [] → t.net = (s.dropMsg m).net ∧ (s.moverWaits c m = true → (t.coreRec c).moverPos = (s.coreRec c).moverPos + 1 ∧ (t.coreRec c).moverWait = none)))) ∧
  (∀ (s : State) c q status, (s.coreRec c).mailbox = some q → (s.coreRec c).finishing = some status → (s.slot (c * 64 + 63)).st = 0 → (s.coreRec c).moverWait = none →
    (s.coreRec c).defaultMover = true →
    let freed := (s.modSlot (c * 64 + 63) fun sl => { sl with touch := 0 }).modThreadCounters q.uid fun sl =>
      { sl with tok := sl.tok &&& ~~~(1#8 <<< q.k), cp := sl.cp - 1 }
    let rest (u : State) : State := (u.modCore c fun r =>
      { r with mailbox := none, finishing := none, moverParts := [], moverStarted := false, moverPos := 0, moverFrom := 0, moverGot := [], moverData := none }).wakeThread
        q.uid (· == .command q.k)
    (q.bsel = 0 → exec (.copyFinish c) s = .next (rest (if status = 0 then freed else freed.modThread q.uid (recordErr (fld status 0 16))))) ∧
    (q.bsel = 1 → (freed.barrier (c * 16 + q.bidx)).state ≠ 0 → exec (.copyFinish c) s = .next (rest (freed.applyBarrier (c * 16 + q.bidx)
      (if status = 0 then (freed.barrier (c * 16 + q.bidx)).arrive 1 else (freed.barrier (c * 16 + q.bidx)).arriveError (fld status 0 16))))) ∧
    (q.bsel ≠ 0 → exec (.copyFinish c) s = .next (rest (freed.engineArrive c q.uid q.bsel q.bidx (if status = 0 then none else some (fld status 0 16)))))) ∧
  ∀ (sl : Slot) code, code < 2 ^ 16 → let r := recordErr code sl
    fld r.err 16 8 = min 255 (fld sl.err 16 8 + 1) ∧ fld r.err 0 16 = if fld sl.err 16 8 = 0 then code else fld sl.err 0 16

namespace Sys2Proof.Claims

/-- The forms of the single-record operations, with what each is and the registers it reads (R337). -/
def recordForms (d a b : RegCode) : List (Instr × RecordOp × List Nat) :=
  [(.rins d a b, .rins, [a.toNat, b.toNat]), (.rld d a b, .rld, [a.toNat, b.toNat]), (.rst d a b, .rst, [a.toNat, b.toNat]),
   (.rpos d a b, .rpos, [a.toNat, b.toNat]), (.rdel d a, .rdel, [a.toNat])]

/-- The key of pool slot i of domain d on core c. -/
def poolPlace (c : Nat) (d : Domain) (i : Nat) : Nat := c * 0x200000 + (d.pool + 128 * i)

/-- Pool slot i of a domain on core c is in state v in s (R331). -/
def RecordIs (s : State) (c : Nat) (d : Domain) (i v : Nat) : Prop := (s.mem.byte (poolPlace c d i + 20)).toNat % 8 = v

/-- Memory in t holds the bytes of a list at a key. -/
def HoldsBytes (t : State) (key : Nat) (data : List Nat) : Prop := ∀ i, i < data.length → (t.mem.byte (key + i)).toNat = data.getD i 0

/-- Memory reads the same in t and s but in n bytes at a key. -/
def SameBut (s t : State) (key n : Nat) : Prop := ∀ k, k < key ∨ key + n ≤ k → t.mem.byte k = s.mem.byte k

end Sys2Proof.Claims

/-- A single-record operation whose operands, handle or domain and buffer pass, with LD below 63 and a destination that can be
written, is sent with the source bytes read now to the owner of its image's brick or to its handle's home, adds 1 to LD, makes
the window register d empty and awaiting and goes on; to the own core's unit it takes no credit, and is a message of the core to itself.
At LD 63 it forfeits. A handle whose bits 63:56 are not 0xC2 or whose bits 55:51 are set traps 0x04 with the handle. A query with a legal
block and buffer goes on with no register or memory changed; with an empty path the count 0 is delivered, else an ARM is sent to the
first owner, itself included. In user mode RDOM traps 0x0D; a destroy sends the descriptor to every on-line core and leaves the
rotation until their answers; that its code is settled then and travels with the descriptor is log entry 24, the model's choice.
(R270, R334, R336, R337, R341, R342, R382) -/
def Obligations.RegionOperationsAreIssued : Prop :=
  (∀ (d a b : RegCode) (s : State), ∀ p ∈ recordForms d a b, ∀ vs dm t off, s.operands p.1.word p.2.2 [d.toNat] = .ok vs →
    let h := arg vs 0
    let buf := if p.2.1 = .rins then h else arg vs 1
    s.recordBufferAt p.2.1 buf h = .ok off → s.recordTarget p.2.1 h (arg vs 1) (fun n => s.mem.readN (s.here * 0x200000 + off + 8 + 4 * n) 4) = .ok (dm, t) →
    (63 ≤ s.me.ld → exec p.1 s = .next s) ∧
    (s.me.ld < 63 → s.destReady d.toNat = .ok () →
      let r : RegionOp :=
        { op := p.2.1, core := s.here, ctx := s.me.ctx, dom := dm.dom, handle := h, dst := off, reg := d.toNat
          data := if p.2.1 = .rld then [] else s.readBytes (s.here * 0x200000 + off) (recordBuffer p.2.1).1, gen := dm.gen }
      (∀ s1, t ≠ s.here → WindowCode s d.toNat → (∀ v ∈ p.2.2, s.me.queueOf v = none) → s.request (.core t) (.region r none) = .ok s1 →
        ∃ u, exec p.1 s = .next u ∧ u.net = s1.net ∧ u.mem = s.mem ∧ u.me.ld = s.me.ld + 1 ∧ u.me.touch = s.me.touch ∧ u.regs = s.regs ∧
          (d ≠ 0 → u.regIsFull s.cur d.toNat = false ∧ u.awaits s.cur d.toNat = true) ∧ (s.me.loops = [] → u.me.pc = s.me.pc + 4)) ∧
      (t = s.here → WindowCode s d.toNat → (∀ v ∈ p.2.2, s.me.queueOf v = none) →
        ∃ u, exec p.1 s = .next u ∧ (∃ y, u.net = s.net ++ [y] ∧ y.src = .core s.here ∧ y.dst = .core s.here ∧ y.credit = none ∧ y.uid = s.me.uid ∧ y.body = .region r none) ∧
          u.mem = s.mem ∧ u.me.ld = s.me.ld + 1 ∧ u.me.touch = s.me.touch ∧ u.regs = s.regs ∧
          (d ≠ 0 → u.regIsFull s.cur d.toNat = false ∧ u.awaits s.cur d.toNat = true) ∧ (s.me.loops = [] → u.me.pc = s.me.pc + 4)))) ∧
  (∀ (d a b : RegCode) (s : State), ∀ p ∈ recordForms d a b, p.2.1 ≠ .rins → ∀ vs, s.operands p.1.word p.2.2 [d.toNat] = .ok vs →
    fld (arg vs 0) 56 8 ≠ 0xC2 ∨ fld (arg vs 0) 51 5 ≠ 0 → exec p.1 s = .next (s.takeTrap s.cur 0x04 (arg vs 0))) ∧
  (∀ (a b : RegCode) (s : State) blk nm off buf dm,
    ∀ p ∈ [((Instr.rqbox a b, .box) : Instr × QueryKind), (.rqrad a b, .radius), (.rscan a b, .all)], s.operands p.1.word [a.toNat, b.toNat] [] = .ok [blk, nm] →
    s.ownBlock blk 8 = .ok off → off + 40 ≤ 0x180000 → isName nm = true →
    let ws := s.readWords (s.here * 0x200000 + off) 5
    let w0 := ws.getD 0 0
    s.domainAt s.here s.me.ctx (fld w0 0 3) = some dm → fld w0 3 29 = 0 → fld w0 48 16 = 0 →
    (p.2 = .all → ws.getD 2 0 = 0 ∧ ws.getD 3 0 = 0 ∧ ws.getD 4 0 = 0) → (p.2 = .radius → ws.getD 4 0 = 0) →
    s.ownBlock (ws.getD 1 0) 32 = .ok buf → buf + 32 * fld w0 32 16 ≤ 0x180000 →
    let q : Query := { kind := p.2, ctx := s.me.ctx, dom := dm.dom, words := ws, core := s.here, buf := buf, name := nm, path := [], gen := dm.gen }
    let q1 : Query := { q with path := s.pathOf dm q }
    (q1.path = [] → exec p.1 s = .next ((s.completeNone [a.toNat, b.toNat]).queryDeliver s.here q1 0)) ∧
    (∀ t l, q1.path = t :: l → (∀ v ∈ [a.toNat, b.toNat], s.me.queueOf v = none) →
      ∃ u, exec p.1 s = .next u ∧ Sends s u [(.core t, .arm q1 0)] ∧ u.mem = s.mem ∧ u.regs = s.regs ∧ u.regFull = s.regFull ∧ u.me.touch = s.me.touch ∧ u.me.ld = s.me.ld ∧
        (s.me.loops = [] → u.me.pc = s.me.pc + 4))) ∧
  (∀ (d a : RegCode) (s : State), s.me.mode = 0 → exec (.rdom d a) s = .next (s.takeTrap s.cur 0x0D (Instr.rdom d a).word)) ∧
  ∀ (d a : RegCode) (s : State) x off, s.me.mode ≠ 0 → s.me.codelet = false → s.operands (Instr.rdom d a).word [a.toNat] [d.toNat] = .ok [x] → s.ownBlock x 8 = .ok off →
    off + 80 ≤ 0x180000 → s.destReady d.toNat = .ok () → s.me.st = 0 →
    let ws := s.readWords (s.here * 0x200000 + off) 10
    let dm : Domain := { ctx := fld (ws.getD 5 0) 32 9, dom := fld (ws.getD 5 0) 48 3, words := ws, table := [] }
    bitAt (ws.getD 5 0) 63 = false → ∃ t o, exec (.rdom d a) s = .next t ∧ t.me.phase = .parked ∧ t.me.pc = s.me.pc ∧ t.mem = s.mem ∧ t.rdoms = s.rdoms ++ [o] ∧
      o.uid = s.me.uid ∧ o.reg = d.toNat ∧ o.code = s.rdomCode dm false ∧ o.pending = ((List.range 1280).filter fun c => !s.isOffline c).length ∧
      Sends s t (((List.range 1280).filter fun c => !s.isOffline c).map fun c => (.core c, .domain o.id { dm with gen := ((State.findDomain s.domains dm.ctx dm.dom).map (·.gen)).getD 0 } false o.code))

/-- An RINS at its owner with a FREE home entry e and pool slot i writes the handle, position, STATE RESIDENT with the image's
FLAGS, MOVES 0 and payload into slot i, makes the entry LIVE with its owner and index, and replies with the handle. An operation
at its home whose entry is not LIVE or of another GEN fails with 0x0A; a current one goes on to the owner and slot of its entry.
At a RESIDENT slot RLD replies with the 128 bytes, RST writes the payload, RPOS to a brick of the same owner writes the
position, RPOS to another owner's sends MOVE with the record and makes the slot DEPARTING where no query arms the core and is
held where one does, and RDEL frees the slot and asks the home to free its entry. At a FREE slot an operation fails with 0x0A;
at a DEPARTING or ARRIVING one it is held; at a STUB it goes to the new owner's slot. One whose domain is gone, also where another
has been created under its index, fails with 0x0A. That an entry, a handle or a stub names an owner, an entry and a slot of the domain
whatever its bits is log entry 51, the model's choice. The request's credit travels with the operation
and returns with its reply. A reply whose credit has been taken back writes the record and the value to its thread and subtracts 1
from LD; a cause makes a boundary trap with g[a] pending. (R330, R331, R332, R333, R337, R338, R339, R340, R380) -/
def Obligations.RecordsAreInsertedReadAndWritten : Prop :=
  (∀ (s : State) m y x r c d e i, s.findMsg m = some x → x.body = .region r none → x.dst = .core c → (if x.src = x.dst then s.arrived m else s.performable m) = some y → r.op = .rins →
    s.domainOf c r.ctx r.dom r.gen = some d →
    s.freeHome c d = some e → s.freePool c d = some i → r.data.length = 128 → (∀ b ∈ r.data, b < 256) → c < 1280 →
    (d.home + 8 * e + 8 ≤ d.pool + 128 * i ∨ d.pool + 128 * i + 128 ≤ d.home + 8 * e) →
    let o := s.ordinalOf d c
    let gen := fld (s.read64 (c * 0x200000 + (d.home + 8 * e))) 32 16
    let h := pack [(0xC2, 56, 8), (r.dom, 48, 3), (gen, 32, 16), (e * (s.owners d).length + o, 0, 32)]
    ∃ t, exec (.recordOperation m) s = .next t ∧ RecordIs t c d i 1 ∧ t.read64 (poolPlace c d i) = h ∧ HoldsBytes t (poolPlace c d i + 8) ((r.data.drop 8).take 12) ∧
      HoldsBytes t (poolPlace c d i + 20) [1, 0, r.data.getD 22 0, r.data.getD 23 0, 0, 0, 0, 0] ∧ HoldsBytes t (poolPlace c d i + 32) (r.data.drop 32) ∧
      t.read64 (c * 0x200000 + (d.home + 8 * e)) = pack [(o, 0, 16), (i, 16, 12), (gen, 32, 16), (1, 48, 2)] ∧
      (∃ y, t.net = (s.unitTake c x).net ++ [y] ∧ y.dst = .core r.core ∧ y.body = .regionReply { r with credit := none } h 0 [] ∧ y.credit = x.credit)) ∧
  (∀ (s : State) m y x r c d, s.findMsg m = some x → x.body = .region r none → x.dst = .core c → (if x.src = x.dst then s.arrived m else s.performable m) = some y → r.op ≠ .rins →
    s.domainOf c r.ctx r.dom r.gen = some d →
    let n := (s.owners d).length
    let w := s.read64 (c * 0x200000 + (d.home + 8 * (fld r.handle 0 32 / n)))
    let owner := s.ownerAt d (fld w 0 16 % n)
    (fld w 48 2 ≠ 1 ∨ fld w 32 16 ≠ fld r.handle 32 16 → exec (.recordOperation m) s = .next ((s.unitTake c x).regionReply c x { r with credit := x.credit } 0 0x0A [])) ∧
    (fld w 48 2 = 1 → fld w 32 16 = fld r.handle 32 16 → owner ≠ c →
      exec (.recordOperation m) s = .next ((s.unitTake c x).unitSend c owner x.uid x.ctx x.sup (.region { r with credit := x.credit } (some (fld w 16 12 % d.cap)))))) ∧
  (∀ (s : State) m y x r c, s.findMsg m = some x → x.body = .region r none → x.dst = .core c → (if x.src = x.dst then s.arrived m else s.performable m) = some y →
    s.domainOf c r.ctx r.dom r.gen = none →
    exec (.recordOperation m) s = .next ((s.unitTake c x).regionReply c x { r with credit := x.credit } 0 0x0A [])) ∧
  (∀ (s : State) m x r c i d, s.arrived m = some x → x.body = .region r (some i) → x.dst = .core c → s.domainOf c r.ctx r.dom r.gen = some d → (∀ b ∈ r.data, b < 256) →
    let key := poolPlace c d i
    let own := BitVec.ofNat 64 (c % 32 * 2 ^ 32 + c / 32 % 256 * 2 ^ 40)
    let p (n : Nat) : Nat := elementOf r.data 4 n
    let goal := s.ownerOf d (p 0) (p 1) (p 2)
    ∃ t, exec (.recordOperation m) s = .next t ∧
      (RecordIs s c d i 1 → r.op = .rld → t.mem = s.mem ∧ Sends (s.dropMsg m) t [(.core r.core, .regionReply { r with credit := none } own 0 (s.readBytes key 128))]) ∧
      (RecordIs s c d i 1 → r.op = .rst → HoldsBytes t (key + 32) r.data ∧ SameBut s t (key + 32) r.data.length ∧ Sends (s.dropMsg m) t [(.core r.core, .regionReply { r with credit := none } own 0 [])]) ∧
      (RecordIs s c d i 1 → r.op = .rpos → goal = c → HoldsBytes t (key + 8) r.data ∧ SameBut s t (key + 8) r.data.length ∧
        Sends (s.dropMsg m) t [(.core r.core, .regionReply { r with credit := none } own 0 [])]) ∧
      (RecordIs s c d i 1 → r.op = .rpos → goal ≠ c → (s.coreRec c).armed = 0 → r.data.length = 12 → RecordIs t c d i 2 ∧ HoldsBytes t (key + 8) r.data ∧
        Sends (s.dropMsg m) t [(.core goal, .move r.ctx r.dom i (t.readBytes key 128))]) ∧
      (RecordIs s c d i 1 → r.op = .rpos → goal ≠ c → (s.coreRec c).armed ≠ 0 → t.mem = s.mem ∧ (t.coreRec c).heldOps = (s.coreRec c).heldOps ++ [(i, x)]) ∧
      (RecordIs s c d i 1 → r.op = .rdel → ∀ h, h = s.ownerAt d (fld (s.read64 key) 0 32 % (s.owners d).length) → h ≠ c → RecordIs t c d i 0 ∧
        SameBut s t (key + 20) 4 ∧ Sends (s.dropMsg m) t [(.core h, .entryFree r (fld (s.read64 key) 0 32 / (s.owners d).length % d.hcap))]) ∧
      (RecordIs s c d i 0 → t.mem = s.mem ∧ Sends (s.dropMsg m) t [(.core r.core, .regionReply { r with credit := none } 0 0x0A [])]) ∧
      (RecordIs s c d i 2 ∨ RecordIs s c d i 3 → t.mem = s.mem ∧ t.net = (s.dropMsg m).net ∧ (t.coreRec c).heldOps = (s.coreRec c).heldOps ++ [(i, x)]) ∧
      (RecordIs s c d i 4 → let f := s.mem.readN (key + 32) 4
        t.mem = s.mem ∧ Sends (s.dropMsg m) t [(.core (s.ownerAt d (f % 2 ^ 16 % (s.owners d).length)), .region r (some (f / 2 ^ 16 % 2 ^ 12 % d.cap)))])) ∧
  ∀ (s : State) m x r v cause data, s.response m = some x → x.body = .regionReply r v cause data →
    (cause = 0 → exec (.regionReply m) s = .next (((s.dropMsg m).writeBytes (r.core * 0x200000 + r.dst) data []).applyReply x.uid r.reg v false)) ∧
    (cause ≠ 0 → exec (.regionReply m) s = .next ((((s.dropMsg m).writeBytes (r.core * 0x200000 + r.dst) data []).pendThread x.uid cause r.handle).applyReply x.uid r.reg v false))

/-- A MOVE that finds a FREE pool slot installs the record there in state ARRIVING and answers ACCEPT with the owner's ordinal and
the slot; with none it answers REFUSE, and so it does with the domain destroyed (log entry 54, the model's choice: R339 names a full
pool alone). With no operation held and no ARM set aside at its core,
an ACCEPT of a departing record whose home is elsewhere makes the slot a STUB that names the new owner and slot, and sends the
entry update to the home, COMMIT to the new owner and the reply with the new owner's address; a REFUSE restores the old
position, makes the record RESIDENT and replies 0x0B. A COMMIT makes the record RESIDENT and adds 1 to MOVES modulo 2^32. At the
home an entry update writes the entry's owner and index and is acknowledged, which frees the stub; the freeing for an RDEL makes
the entry FREE with GEN + 1 modulo 2^16 and is acknowledged, which answers the RDEL; where its domain is gone by then the RDEL fails with 0x0A. (R331, R333, R338, R339, R382) -/
def Obligations.RecordsMoveBetweenOwners : Prop :=
  (∀ (s : State) m x i dm idx data c a, s.arrived m = some x → x.body = .move i dm idx data → x.dst = .core c → x.src = .core a →
    (∀ d j, s.domainAt c i dm = some d → s.freePool c d = some j → data.length = 128 → (∀ b ∈ data, b < 256) →
      ∃ t, exec (.recordMove m) s = .next t ∧ RecordIs t c d j 3 ∧ (∀ k, k < 128 → k ≠ 20 → (t.mem.byte (poolPlace c d j + k)).toNat = data.getD k 0) ∧
        SameBut s t (poolPlace c d j) 128 ∧ Sends (s.dropMsg m) t [(.core a, .accept i dm idx (s.ordinalOf d c) j)]) ∧
    (s.domainAt c i dm = none ∨ (∃ d, s.domainAt c i dm = some d ∧ s.freePool c d = none) →
      ∃ t, exec (.recordMove m) s = .next t ∧ t.mem = s.mem ∧ Sends (s.dropMsg m) t [(.core a, .refuse i dm idx)])) ∧
  (∀ (s : State) m x i dm idx ord j c b d e r, s.arrived m = some x → x.body = .accept i dm idx ord j → x.dst = .core c → x.src = .core b → s.domainAt c i dm = some d →
    (s.coreRec c).departures.find? (departing i dm idx) = some e → State.heldOp e.op = some r → (s.coreRec c).heldOps = [] → (s.coreRec c).arms = [] →
    let id := fld (s.read64 (poolPlace c d idx)) 0 32
    let n := (s.owners d).length
    let h := s.ownerAt d (id % n)
    h ≠ c → ord < 2 ^ 16 → j < 2 ^ 12 → ∃ t, exec (.recordAccept m) s = .next t ∧ RecordIs t c d idx 4 ∧ t.mem.readN (poolPlace c d idx + 32) 4 = ord + j * 2 ^ 16 ∧
      (t.coreRec c).departures = (s.coreRec c).departures.filter (fun y => !departing i dm idx y) ∧
      Sends (s.dropMsg m) t [(.core h, .entry i dm (id / n % d.hcap) ord j idx), (.core b, .commit i dm j),
        (.core r.core, .regionReply { r with credit := none } (BitVec.ofNat 64 (b % 32 * 2 ^ 32 + b / 32 % 256 * 2 ^ 40)) 0 [])]) ∧
  (∀ (s : State) m x i dm idx c d e r, s.arrived m = some x → x.body = .refuse i dm idx → x.dst = .core c → s.domainAt c i dm = some d →
    (s.coreRec c).departures.find? (departing i dm idx) = some e → State.heldOp e.op = some r → (s.coreRec c).heldOps = [] → (s.coreRec c).arms = [] →
    e.old.length = 12 → (∀ b ∈ e.old, b < 256) →
    ∃ t, exec (.recordRefuse m) s = .next t ∧ RecordIs t c d idx 1 ∧ HoldsBytes t (poolPlace c d idx + 8) e.old ∧ Sends (s.dropMsg m) t [(.core r.core, .regionReply { r with credit := none } 0 0x0B [])]) ∧
  (∀ (s : State) m x i dm j c d, s.arrived m = some x → x.body = .commit i dm j → x.dst = .core c → s.domainAt c i dm = some d → (s.coreRec c).heldOps = [] →
    ∃ t, exec (.recordCommit m) s = .next t ∧ RecordIs t c d j 1 ∧ t.mem.readN (poolPlace c d j + 24) 4 = (s.mem.readN (poolPlace c d j + 24) 4 + 1) % 2 ^ 32 ∧ t.net = (s.dropMsg m).net) ∧
  (∀ (s : State) m x i dm e ord j idx c a d, s.arrived m = some x → x.body = .entry i dm e ord j idx → x.dst = .core c → x.src = .core a → s.domainAt c i dm = some d →
    let k := c * 0x200000 + (d.home + 8 * e)
    ∃ t, exec (.entryUpdate m) s = .next t ∧ fld (t.read64 k) 0 16 = ord % 2 ^ 16 ∧ fld (t.read64 k) 16 12 = j % 2 ^ 12 ∧ fld (t.read64 k) 28 36 = fld (s.read64 k) 28 36 ∧
      SameBut s t k 8 ∧ Sends (s.dropMsg m) t [(.core a, .entryAck i dm idx)]) ∧
  (∀ (s : State) m x i dm idx c d, s.arrived m = some x → x.body = .entryAck i dm idx → x.dst = .core c → s.domainAt c i dm = some d →
    ∃ t, exec (.entryUpdate m) s = .next t ∧ RecordIs t c d idx 0 ∧ SameBut s t (poolPlace c d idx + 20) 4 ∧ t.net = (s.dropMsg m).net) ∧
  (∀ (s : State) m x r e c a d, s.arrived m = some x → x.body = .entryFree r e → x.dst = .core c → x.src = .core a → s.domainOf c r.ctx r.dom r.gen = some d →
    let k := c * 0x200000 + (d.home + 8 * e)
    ∃ t, exec (.entryUpdate m) s = .next t ∧ fld (t.read64 k) 48 2 = 0 ∧ fld (t.read64 k) 32 16 = (fld (s.read64 k) 32 16 + 1) % 2 ^ 16 ∧
      fld (t.read64 k) 0 32 = fld (s.read64 k) 0 32 ∧ SameBut s t k 8 ∧ Sends (s.dropMsg m) t [(.core a, .entryFreed r 0)]) ∧
  (∀ (s : State) m x r e c a, s.arrived m = some x → x.body = .entryFree r e → x.dst = .core c → x.src = .core a → s.domainOf c r.ctx r.dom r.gen = none →
    ∃ t, exec (.entryUpdate m) s = .next t ∧ t.mem = s.mem ∧ Sends (s.dropMsg m) t [(.core a, .entryFreed r 0x0A)]) ∧
  ∀ (s : State) m x r c cause, s.arrived m = some x → x.body = .entryFreed r cause → x.dst = .core c →
    ∃ t, exec (.entryUpdate m) s = .next t ∧ t.mem = s.mem ∧ Sends (s.dropMsg m) t [(.core r.core, .regionReply { r with credit := none }
      (if cause = 0 then BitVec.ofNat 64 (c % 32 * 2 ^ 32 + c / 32 % 256 * 2 ^ 40) else 0) cause [])]

/-- An ARM at an owner with ARMED below 255 and no record departing adds 1 to ARMED and goes to the next owner, or, from the last,
starts SCAN with count 0 at the first; at 255, and while a record departs, it is set aside; at the first owner of a domain that is gone the count
0xFFFF_FFFF_FFFF_FFF6 is delivered; one from another core waits at a core that can reserve no response entry. A box matches the finite positions between
its corners, a radius those whose rounded squared distance is not above its square, RSCAN all; a NaN coordinate matches neither. SCAN at an owner whose pool does not meet the buffer adds to the count the RESIDENT records
that match and goes on to the next owner, the last delivering the count and sending RELEASE to the first; a match below CAPR writes the record's bytes 0 to 31 to its entry. RELEASE subtracts 1
from ARMED and goes on. A descriptor with code 0 of a create is installed, and at an owner every pool slot becomes FREE and
every home entry 0; of a destroy it is dropped; with another code nothing changes; each is answered. That a descriptor carries a code
settled at issue is log entry 24, the model's choice. The last answer resumes the RDOM's thread with its code in g[d]. (R266, R271,
R334, R335, R338, R341, R343, R382) -/
def Obligations.QueriesWalkAndDomainsInstall : Prop :=
  (∀ (s : State) m x q i c, s.arrived m = some x → x.body = .arm q i → x.dst = .core c → x.src ≠ .core c → 16 ≤ s.entriesAt (.core c) → exec (.queryArm m) s = .next s) ∧
  (∀ (s : State) m x q i c, s.arrived m = some x → x.body = .arm q i → x.dst = .core c → x.src = .core c ∨ s.entriesAt (.core c) < 16 →
    (i = 0 → s.domainOf c q.ctx q.dom q.gen = none → exec (.queryArm m) s = .next ((s.dropMsg m).queryDeliver c q 0xFFFFFFFFFFFFFFF6)) ∧
    (i ≠ 0 ∨ s.domainOf c q.ctx q.dom q.gen ≠ none → (s.coreRec c).armed < 255 → (s.coreRec c).departures = [] →
      (∀ t, q.path[i + 1]? = some t → ∃ u, exec (.queryArm m) s = .next u ∧ (u.coreRec c).armed = (s.coreRec c).armed + 1 ∧ u.mem = s.mem ∧
        Sends (s.dropMsg m) u [(.core t, .arm q (i + 1))]) ∧
      (∀ t l, q.path[i + 1]? = none → q.path = t :: l → ∃ u, exec (.queryArm m) s = .next u ∧ (u.coreRec c).armed = (s.coreRec c).armed + 1 ∧ u.mem = s.mem ∧
        Sends (s.dropMsg m) u [(.core t, .scan q 0 0)])) ∧
    (i ≠ 0 ∨ s.domainOf c q.ctx q.dom q.gen ≠ none → (s.coreRec c).armed < 255 → (s.coreRec c).departures ≠ [] → ∃ u, exec (.queryArm m) s = .next u ∧
      (u.coreRec c).arms = (s.coreRec c).arms ++ [(x, true)] ∧ (u.coreRec c).armed = (s.coreRec c).armed + 1 ∧ u.net = (s.dropMsg m).net ∧ u.mem = s.mem) ∧
    (i ≠ 0 ∨ s.domainOf c q.ctx q.dom q.gen ≠ none → 255 ≤ (s.coreRec c).armed → ∃ u, exec (.queryArm m) s = .next u ∧
      (u.coreRec c).arms = (s.coreRec c).arms ++ [(x, false)] ∧ (u.coreRec c).armed = (s.coreRec c).armed ∧ u.net = (s.dropMsg m).net ∧ u.mem = s.mem)) ∧
  (∀ (s : State) m x q i n c d t, s.arrived m = some x → x.body = .scan q i n → x.dst = .core c → x.src = .core c ∨ s.entriesAt (.core c) < 16 →
    s.domainOf c q.ctx q.dom q.gen = some d → q.path[i + 1]? = some t →
    let b := q.core * 0x200000 + q.buf
    let size := 32 * fld (q.words.getD 0 0) 32 16
    (b + size ≤ c * 0x200000 + d.pool ∨ c * 0x200000 + d.pool + 128 * d.cap ≤ b) →
    let count := n + (((List.range d.cap).filter fun k => s.recordState (poolPlace c d k) == 1 && State.queryMatches q (s.position (poolPlace c d k))).length)
    ∃ u, exec (.queryScan m) s = .next u ∧ Sends (s.dropMsg m) u [(.core t, .scan q (i + 1) count)] ∧ SameBut s u b size) ∧
  (∀ (s : State) m x q i n c d, s.arrived m = some x → x.body = .scan q i n → x.dst = .core c →
    (x.src ≠ .core c → 16 ≤ s.entriesAt (.core c) → exec (.queryScan m) s = .next s) ∧
    (x.src = .core c ∨ s.entriesAt (.core c) < 16 → s.domainOf c q.ctx q.dom q.gen = some d → q.path[i + 1]? = none →
      let r := (s.dropMsg m).scanPool c d q (List.range d.cap) n
      exec (.queryScan m) s = .next ((r.2.queryDeliver c q (BitVec.ofNat 64 r.1)).unitSend c (q.path.headD c) 0 q.ctx false (.lower q 0)))) ∧
  (∀ (q : Query) (x : Nat → Nat), let w (i : Nat) : Word := q.words.getD i 0
    let lo (n : Nat) : Nat := [fld (w 2) 0 32, fld (w 2) 32 32, fld (w 3) 0 32].getD n 0
    let hi (n : Nat) : Nat := [fld (w 3) 32 32, fld (w 4) 0 32, fld (w 4) 32 32].getD n 0
    (∀ n, n < 3 → x n < 2 ^ 32) →
    (q.kind = .all → State.queryMatches q x = true) ∧
    (q.kind ≠ .all → (∃ n, n < 3 ∧ NaNPattern 1 (x n)) → State.queryMatches q x = false) ∧
    (q.kind = .box → (∀ n, n < 3 → FinitePattern 1 (x n) ∧ FinitePattern 1 (lo n) ∧ FinitePattern 1 (hi n)) →
      (State.queryMatches q x = true ↔ ∀ n, n < 3 → patternValue 1 (lo n) ≤ patternValue 1 (x n) ∧ patternValue 1 (x n) ≤ patternValue 1 (hi n))) ∧
    (q.kind = .radius → let wide (v : Nat) : Nat := (convert 1 0 0 v).1
      let sq (n : Nat) : Nat := (fpMul 0 0 (fpSub 0 0 (wide (x n)) (wide (lo n))).1 (fpSub 0 0 (wide (x n)) (wide (lo n))).1).1
      let d2 := (fpAdd 0 0 (fpAdd 0 0 (sq 0) (sq 1)).1 (sq 2)).1
      let r2 := (fpMul 0 0 (wide (hi 0)) (wide (hi 0))).1
      FinitePattern 0 d2 → FinitePattern 0 r2 → (State.queryMatches q x = true ↔ patternValue 0 d2 ≤ patternValue 0 r2))) ∧
  (∀ (s : State) c d q k n, s.recordState (poolPlace c d k) = 1 → State.queryMatches q (s.position (poolPlace c d k)) = true →
    let b := q.core * 0x200000 + q.buf + 32 * n
    let r := s.scanPool c d q [k] n
    r.1 = n + 1 ∧ (n < fld (q.words.getD 0 0) 32 16 → HoldsBytes r.2 b (s.readBytes (poolPlace c d k) 32) ∧ SameBut s r.2 b 32) ∧
    (fld (q.words.getD 0 0) 32 16 ≤ n → r.2 = s)) ∧
  (∀ (s : State) m x q i c, s.arrived m = some x → x.body = .lower q i → x.dst = .core c → x.src = .core c ∨ s.entriesAt (.core c) < 16 → (s.coreRec c).arms = [] → (s.coreRec c).heldOps = [] →
    ∃ u, exec (.queryRelease m) s = .next u ∧ (u.coreRec c).armed = (s.coreRec c).armed - 1 ∧ u.mem = s.mem ∧
      (∀ t, q.path[i + 1]? = some t → Sends (s.dropMsg m) u [(.core t, .lower q (i + 1))]) ∧ (q.path[i + 1]? = none → u.net = (s.dropMsg m).net)) ∧
  (∀ (s : State) m x op d create code c, s.arrived m = some x → x.body = .domain op d create code → x.dst = .core c → ∃ u, exec (.domainDescriptor m) s = .next u ∧
    Sends (s.dropMsg m) u [(x.src, .domainDone op)] ∧
    (code ≠ 0 → u.mem = s.mem ∧ u.cores = (s.dropMsg m).cores) ∧
    (code = 0 → create = true → (u.coreRec c).domains = (s.coreRec c).domains ++ [d] ∧ (c ∉ s.owners d → u.mem = s.mem) ∧
      (∀ r a, c ∈ s.owners d → checkDomain r a d = .ok () → d.table.length ≤ d.total → (d.mapped = false → d.table = []) →
        (∀ i, i < d.cap → RecordIs u c d i 0) ∧ ∀ e, e < d.hcap → u.read64 (c * 0x200000 + (d.home + 8 * e)) = 0)) ∧
    (code = 0 → create = false → u.mem = s.mem ∧ (u.coreRec c).domains = (s.coreRec c).domains.filter fun e => !(e.ctx == d.ctx && e.dom == d.dom && e.gen == d.gen))) ∧
  ∀ (s : State) m x op o, s.arrived m = some x → x.body = .domainDone op → s.rdoms.find? (fun (y : RdomOp) => y.id == op) = some o →
    (o.pending ≤ 1 → s.waitsFor o.uid op = true → ∃ u, exec (.rdomAnswer m) s = .next u ∧
      u = ((({ s.dropMsg m with rdoms := s.rdoms.filter fun y => y.id != op } : State).resumeThread o.uid).arriveReg o.uid o.reg (BitVec.ofNat 64 o.code))) ∧
    (1 < o.pending → ∃ u, exec (.rdomAnswer m) s = .next u ∧ u.rdoms = s.rdoms.map fun (y : RdomOp) => if y.id = op then { y with pending := y.pending - 1 } else y)

namespace Sys2Proof.Claims

/-- The sequencer's instruction forms with the command each queues and the registers it reads (R354). -/
def sequencerForms (d a b : RegCode) : List (Instr × SeqOp × List Nat) :=
  [(.sqtab d a, .tab, [a.toNat]), (.sqcfg d a, .cfg, [a.toNat]), (.sqload d a b, .load, [a.toNat, b.toNat]), (.sqstage d a b, .stage, [a.toNat, b.toNat]),
   (.sqend d a, .finish, [a.toNat]), (.sqdec d a b, .dec, [a.toNat, b.toNat]), (.sqact d a, .act, [a.toNat]), (.sqhist d a, .hist, [a.toNat])]

/-- The terms of stage j for sample i: the stage derivatives and history vectors whose coefficient is not 0 (R355). -/
def stageTerms (q : Sequencer) (i j : Nat) : List (Nat × Nat) :=
  seqTerms q i (((List.range j).map fun l => ((q.t (1 + 8 * j + l)).toNat, l)) ++ ((List.range q.terms).map fun m => ((q.t (65 + 4 * j + m)).toNat, 8 + m)))

/-- The terms of the solution of SQEND for sample i, and those of its difference from the embedded solution (R356). -/
def endTerms (q : Sequencer) (i : Nat) : List (Nat × Nat) × List (Nat × Nat) :=
  let w (n : Nat) : Nat := (q.t n).toNat
  (seqTerms q i (((List.range q.stages).map fun l => (w (97 + l), l)) ++ ((List.range q.terms).map fun m => (w (105 + m), 8 + m))),
   seqTerms q i (((List.range q.stages).map fun l => ((fpSub 0 0 (w (97 + l)) (w (109 + l))).1, l)) ++
     ((List.range q.terms).map fun m => ((fpSub 0 0 (w (105 + m)) (w (117 + m))).1, 8 + m))))

/-- Element k of the new solution of sample i, read from s (R356). -/
def endElement (s : State) (c : Nat) (q : Sequencer) (rm i k : Nat) : Nat :=
  (seqCombine q rm (q.sample i).h (seqElem s c q (q.sample i).xoff k) (seqChain s c q rm k (endTerms q i).1)).1

/-- z of element k of sample i, read from s (R356). -/
def endQuotient (s : State) (c : Nat) (q : Sequencer) (rm i k : Nat) : Nat :=
  let e := q.sample i
  let size (v : Nat) : Nat := (convert q.fmt 0 0 v).1 % 2 ^ 63
  let x := s.mem.readN (c * 0x200000 + (e.xoff + k * q.width)) q.width
  let hv := (convert q.work 0 0 (fpMul q.work 0 (seqCoef q e.h.toNat) (seqChain s c q rm k (endTerms q i).2).1).1).1
  let scale := (fpAdd 0 0 (q.k 0).toNat (fpMul 0 0 (q.k 1).toNat (minMaxBits 0 true (size x) (size (endElement s c q rm i k))).1).1).1
  (fpDiv 0 0 hv scale).1

/-- The controller blocks that R349 admits. -/
def LegalBlock (ws : List Word) : Prop :=
  let v (i : Nat) : Rat := patternValue 0 (ws.getD i 0).toNat
  let w8 := ws.getD 8 0
  (∀ i, i < 8 → FinitePattern 0 (ws.getD i 0).toNat) ∧ 0 < v 0 ∧ 0 ≤ v 1 ∧ 0 ≤ v 2 ∧ v 2 ≤ 1 ∧ 0 < v 3 ∧ v 3 ≤ 1 ∧ 1 ≤ v 4 ∧ 0 ≤ v 5 ∧ 0 ≤ v 6 ∧ 0 ≤ v 7 ∧
  1 ≤ fld w8 0 17 ∧ fld w8 0 17 ≤ 65536 ∧ fld w8 20 4 ≤ 2 ∧ 1 ≤ fld w8 24 4 ∧ fld w8 24 4 ≤ 8 ∧ fld (ws.getD 9 0) 0 3 = 0

end Sys2Proof.Claims

/-- A sequencer instruction whose registers can be read and whose contents are legal, with fewer than two commands queued, TL below
63 and a destination that can be written, appends its command, with the offset of its address or its range, its register and the
rounding mode, to the core's vector queue, adds 1 to TL, makes the window register d empty and awaiting, changes no byte of
memory, and goes on; with two commands queued or TL 63 it forfeits. A range that is not legal traps 0x01 with the instruction
word, a g[b] of SQDEC that is neither 0 nor a name 0x04 with that value, and an address off a multiple of 8 on the own core
0x03. (R113, R352, R354) -/
def Obligations.SequencerCommandsAreQueued : Prop :=
  (∀ (d a b : RegCode) (s : State), ∀ p ∈ sequencerForms d a b, ∀ vs x y, s.operands p.1.word p.2.2 [d.toNat] = .ok vs →
    seqOperands s p.1.word p.2.1 (arg vs 0) (arg vs 1) = .ok (x, y) →
    (2 ≤ (s.coreRec s.here).queue.length ∨ 63 ≤ s.me.tl → exec p.1 s = .next s) ∧
    ((s.coreRec s.here).queue.length < 2 → s.me.tl < 63 → s.destReady d.toNat = .ok () → WindowCode s d.toNat → (∀ v ∈ p.2.2, s.me.queueOf v = none) →
      let q : SeqCmd := { uid := s.me.uid, op := p.2.1, ctx := s.me.ctx, mode := s.me.mode, a := x, b := y, reg := d.toNat, rm := roundingMode s.me.flags }
      ∃ t, exec p.1 s = .next t ∧ (t.coreRec s.here).queue = (s.coreRec s.here).queue ++ [.sequencer q] ∧ t.me.tl = s.me.tl + 1 ∧ t.mem = s.mem ∧ t.regs = s.regs ∧
        (d ≠ 0 → t.regIsFull s.cur d.toNat = false ∧ t.awaits s.cur d.toNat = true) ∧ (s.me.loops = [] → t.me.pc = s.me.pc + 4))) ∧
  (∀ (d a b : RegCode) (s : State), ∀ p ∈ sequencerForms d a b, ∀ vs, s.operands p.1.word p.2.2 [d.toNat] = .ok vs →
    (p.2.1 = .stage ∨ p.2.1 = .finish ∨ p.2.1 = .dec ∨ p.2.1 = .act → (fld (arg vs 0) 16 48 ≠ 0 ∨ 256 < fld (arg vs 0) 0 8 + fld (arg vs 0) 8 8 + 1) →
      exec p.1 s = .next (s.takeTrap s.cur 0x01 p.1.word)) ∧
    (p.2.1 = .dec → rangeLegal (arg vs 0) = true → arg vs 1 ≠ 0 → isName (arg vs 1) = false → exec p.1 s = .next (s.takeTrap s.cur 0x04 (arg vs 1))) ∧
    (p.2.1 = .tab ∨ p.2.1 = .cfg ∨ p.2.1 = .load → ∀ off, s.resolveSpad (arg vs 0) 1 false = .ok (s.here, off) → off % 8 ≠ 0 →
      exec p.1 s = .next (s.takeTrap s.cur 0x03 (arg vs 0))))

/-- The head command of an idle engine executes with its result and flags; a failing one writes nothing and has the result
0x8000_0000_0000_0000 + code with the code cause * 256 + 16 f; a user command from a context other than the tag fails with 0x05.
SQTAB with legal words installs them; with S of 0 or above 8 it fails 0x01. SQCFG with a legal block installs it, and with no tag
and every entry FREE takes its context as the tag; an illegal one fails 0x01, and a block past the scratchpad's end 0x04. A load makes the entry ACTIVE, or DONE where T =
TEND, with the image's fields; a free makes it FREE; both give the old ST. SQACT returns the ACCEPTED and REJECTED entries of
its range to ACTIVE, SQHIST pushes its offset or empties the ring. A stage of one sample writes every Y element as the rounded
combination of x and the fused chain, and its TIMES word, and no other byte. SQEND of one sample writes every XN element as the
rounded combination under the solution's weights, no other byte, and sets EV and ERRN, the root of the mean of the squared
quotients of round(h) * v by ATOL + RTOL * max(|x|, |XN|), each step to nearest. The engine's writes meet no pool or table here
(R330). A decision accepts where ERRN <= 1, counts NACC or
NREJ, clears EV, and gives DONE with H 0 where T has reached TEND; an accepted one copies XN to x. The finish writes the result
to g[d], adds the flags, subtracts 1 from TL, records a failure in ERR, and delivers a decision word to its name. (R347, R348,
R349, R350, R351, R352, R353, R355, R356, R358, R359, R360) -/
def Obligations.SequencerEngineComputes : Prop :=
  (∀ (s : State) c q l, (s.coreRec c).queue = .sequencer q :: l → (s.coreRec c).executed = none →
    (∀ s1 v fl, seqRun s c q = .ok (s1, v, fl) → (∀ w ∈ seqWrites s c q, s1.undisturbed false (c * 0x200000 + w.1) w.2 = true) → exec (.sequencerExecute c) s = .next (s1.modCore c fun k => { k with queue := l, executed := some { cmd := .sequencer q, flags := fl, result := v, uses := seqUses s c q } })) ∧
    (∀ cause, seqRun s c q = .error cause → exec (.sequencerExecute c) s = .next (s.modCore c fun k => { k with
      queue := l, executed := some { cmd := .sequencer q, result := BitVec.ofNat 64 (2 ^ 63 + (cause * 256 + q.op.code * 16)), code := some (cause * 256 + q.op.code * 16) } })) ∧
    (∀ t, q.mode = 0 → (s.sequencer c).tag = some t → t ≠ q.ctx → seqRun s c q = .error 0x05)) ∧
  (∀ (s : State) c q fl v us, (s.coreRec c).executed = some { cmd := .sequencer q, flags := fl, result := v, uses := us } →
    (q.op ≠ .dec ∨ q.b = 0 → exec (.sequencerFinish c) s = .next (((s.modCore c fun r => { r with executed := none }).engineResult q.uid q.reg v).engineDone q.uid fl)) ∧
    (q.op = .dec → q.b ≠ 0 → let u := ((s.modCore c fun r => { r with executed := none }).engineResult q.uid q.reg v).engineDone q.uid fl
      u.nameUsable q.b = true → exec (.sequencerFinish c) s = .next (u.sendDelivery c 64 q.uid { ctx := q.ctx, sup := q.ctx == 0 } q.b v (.sequencer c)))) ∧
  (∀ (s : State) c q fl v code us, (s.coreRec c).executed = some { cmd := .sequencer q, flags := fl, result := v, code := some code, uses := us } →
    exec (.sequencerFinish c) s = .next ((((s.modCore c fun r => { r with executed := none }).engineResult q.uid q.reg v).engineDone q.uid fl).modThread q.uid (recordErr code))) ∧
  (∀ (s : State) c q, q.mode ≠ 0 → q.op = .tab → let ws := s.readWords (c * 0x200000 + q.a.toNat) 129
    (0x180000 < q.a.toNat + 1032 → seqRun s c q = .error 0x04) ∧
    (q.a.toNat + 1032 ≤ 0x180000 → (fld (ws.getD 0 0) 0 4 = 0 ∨ 8 < fld (ws.getD 0 0) 0 4) → seqRun s c q = .error 0x01) ∧
    (q.a.toNat + 1032 ≤ 0x180000 → 1 ≤ fld (ws.getD 0 0) 0 4 → fld (ws.getD 0 0) 0 4 ≤ 8 → fld (ws.getD 0 0) 4 4 ≤ 4 → (∀ x ∈ ws.drop 1, finite64 x = true) →
      ∃ t, seqRun s c q = .ok (t, 0, 0) ∧ (t.sequencer c).tab = ws ∧ t.mem = s.mem)) ∧
  (∀ (s : State) c q, q.mode ≠ 0 → q.op = .cfg → let ws := s.readWords (c * 0x200000 + q.a.toNat) 10
    (0x180000 < q.a.toNat + 80 → seqRun s c q = .error 0x04) ∧
    (q.a.toNat + 80 ≤ 0x180000 → ¬ LegalBlock ws → seqRun s c q = .error 0x01) ∧
    (q.a.toNat + 80 ≤ 0x180000 → LegalBlock ws → ∃ t, seqRun s c q = .ok (t, 0, 0) ∧ t.mem = s.mem ∧ let x := t.sequencer c
      x.cfg = ws ∧ x.tab = (s.sequencer c).tab ∧ x.samples = (s.sequencer c).samples ∧ x.ring = (s.sequencer c).ring ∧ x.elems = fld (ws.getD 8 0) 0 17 ∧
      x.width = [8, 4, 2].getD (fld (ws.getD 8 0) 20 4) 0 ∧ (x.pitch : Int) = 1024 * ⌈(x.elems * x.width / 1024 : Rat)⌉ ∧ x.times = fld (ws.getD 9 0) 0 21 ∧
      ((s.sequencer c).tag ≠ none → x.tag = (s.sequencer c).tag) ∧
      ((s.sequencer c).tag = none → (∀ e ∈ (s.sequencer c).samples, e.2.st = 0) → x.tag = some q.ctx))) ∧
  (∀ (s : State) c q, q.mode ≠ 0 → q.op = .load → let i := fld q.b 0 8
    let ws := s.readWords (c * 0x200000 + q.a.toNat) 8
    let w (n : Nat) : Word := ws.getD n 0
    (fld q.b 8 2 = 0 → q.a.toNat + 64 ≤ 0x180000 → (∀ n, n < 4 → finite64 (w n) = true) → lt64 0 (w 3) = true → fld (w 4) 32 10 = 0 →
      (eq64 (w 0) (w 2) = true ∨ (if lt64 (w 0) (w 2) then lt64 0 (w 1) else lt64 (w 1) 0) = true) →
      ∃ t, seqRun s c q = .ok (t, BitVec.ofNat 64 ((s.sequencer c).sample i).st, 0) ∧ let e := (t.sequencer c).sample i
        e.t = w 0 ∧ e.h = w 1 ∧ e.tend = w 2 ∧ e.eprev = w 3 ∧ e.st = (if eq64 (w 0) (w 2) then 4 else 1) ∧ e.ev = false ∧ (∀ n, n ≠ i → (t.sequencer c).sample n = (s.sequencer c).sample n)) ∧
    (fld q.b 8 2 = 2 → ∃ t, seqRun s c q = .ok (t, BitVec.ofNat 64 ((s.sequencer c).sample i).st, 0) ∧ (t.sequencer c).sample i = { (s.sequencer c).sample i with st := 0 })) ∧
  (∀ (s : State) c q, q.mode ≠ 0 → q.op = .act → ∃ t, seqRun s c q = .ok (t, BitVec.ofNat 64 (((rangeOf q.a).filter fun i => ((t.sequencer c).sample i).st == 1).length), 0) ∧ t.mem = s.mem ∧
    ∀ i, (t.sequencer c).sample i = let e := (s.sequencer c).sample i
      if i ∈ rangeOf q.a ∧ (e.st = 2 ∨ e.st = 3) then { e with st := 1, ev := false } else e) ∧
  (∀ (s : State) c q, q.mode ≠ 0 → q.op = .hist → let r := (s.sequencer c).ring
    (bitAt q.a 63 = true → ∃ t, seqRun s c q = .ok (t, BitVec.ofNat 64 r.length, 0) ∧ (t.sequencer c).ring = []) ∧
    (bitAt q.a 63 = false → ∃ t v, seqRun s c q = .ok (t, v, 0) ∧ (t.sequencer c).ring = (q.a.toNat :: r).take 4 ∧ (r.length < 4 → v = BitVec.allOnes 64) ∧
      (4 ≤ r.length → v = BitVec.ofNat 64 (r.getD 3 0)))) ∧
  (∀ (s : State) c (q : Sequencer) j rm i, let e := q.sample i
    let y := c * 0x200000 + (e.sboff + q.stages * q.pitch)
    let n := q.elems * q.width
    let z := c * 0x200000 + (q.times + 8 * i)
    0 < q.width → (z + 8 ≤ y ∨ y + n ≤ z) → (∀ o ∈ e.xoff :: (stageTerms q i j).map (·.2), o + n ≤ e.sboff + q.stages * q.pitch ∨ e.sboff + q.stages * q.pitch + n ≤ o) →
    let t := (seqStageOne c q j rm i s).1
    (∀ k, k < q.elems → t.mem.readN (y + k * q.width) q.width =
      (seqCombine q rm e.h (seqElem s c q e.xoff k) (seqChain s c q rm k (stageTerms q i j))).1 % 2 ^ (8 * q.width)) ∧
    t.mem.readN z 8 = (fpFma 0 0 (q.t (121 + j)).toNat e.h.toNat e.t.toNat).1 % 2 ^ 64 ∧
    ∀ k, (k < y ∨ y + n ≤ k) → (k < z ∨ z + 8 ≤ k) → t.mem.byte k = s.mem.byte k) ∧
  (∀ (s : State) c (q : Sequencer) rm i, let e := q.sample i
    let y := c * 0x200000 + (e.sboff + (q.stages + 1) * q.pitch)
    let n := q.elems * q.width
    0 < q.width → (∀ o ∈ e.xoff :: ((endTerms q i).1 ++ (endTerms q i).2).map (·.2), o + n ≤ e.sboff + (q.stages + 1) * q.pitch ∨ e.sboff + (q.stages + 1) * q.pitch + n ≤ o) →
    let t := (seqEndOne c q rm i s).1
    (∀ k, k < q.elems → t.mem.readN (y + k * q.width) q.width = endElement s c q rm i k % 2 ^ (8 * q.width)) ∧
    (∀ k, (k < y ∨ y + n ≤ k) → t.mem.byte k = s.mem.byte k) ∧
    let squares := (List.range q.elems).map fun k => (fpMul 0 0 (endQuotient s c q rm i k) (endQuotient s c q rm i k)).1
    let sum := (foldBeats (fun a b => (fpAdd 0 0 a b).1) 128 ((q.elems + 127) / 128) squares).getD 0
    (t.sequencer c).sample i = { e with errn := BitVec.ofNat 64 (fpSqrt 0 0 (fpDiv 0 0 sum (roundTo 0 0 false q.elems 0).1).1).1, ev := true }) ∧
  (∀ (q : Sequencer) e, let r := seqDecide q e
    r.2 = le64 e.errn one64 ∧ r.1.ev = false ∧ r.1.tend = e.tend ∧ r.1.xoff = e.xoff ∧ r.1.sboff = e.sboff ∧
    (r.2 = false → r.1.t = e.t ∧ r.1.eprev = e.eprev ∧ r.1.nacc = e.nacc ∧ r.1.nrej = (e.nrej + 1) % 2 ^ 32 ∧ (r.1.st = 3 ∨ r.1.st = 4 ∨ r.1.st = 5)) ∧
    (r.2 = true → r.1.nacc = (e.nacc + 1) % 2 ^ 32 ∧ r.1.nrej = e.nrej ∧ r.1.eprev = BitVec.ofNat 64 (max64 e.errn.toNat 0x3F1A36E2EB1C432D) ∧ (r.1.st = 2 ∨ r.1.st = 4 ∨ r.1.st = 5)) ∧
    (isZeroFV (fpDecode 0 (sub64 e.tend.toNat r.1.t.toNat)) = true → r.1.h = 0 ∧ r.1.st = 4)) ∧
  ∀ (s : State) c (q : Sequencer) i, (seqDecide q (q.sample i)).2 = true → let e := q.sample i
    let t := (seqDecOne c q i s).1
    t.readBytes (c * 0x200000 + e.xoff) (q.elems * q.width) = s.readBytes (c * 0x200000 + (e.sboff + (q.stages + 1) * q.pitch)) (q.elems * q.width) ∧
      ∀ k, (k < c * 0x200000 + e.xoff ∨ c * 0x200000 + e.xoff + q.elems * q.width ≤ k) → t.mem.byte k = s.mem.byte k

/-- SRD of a user register, or outside user mode of a supervisor register, writes the register's value to d; SWR completes with it.
In user mode a number from 0x100 on traps 0x0D; an unassigned number traps 0x01. GROUP, KERNEL, CTX, FLAGS, FMT, SCLA, SCLB,
WLIM, TOK, TOUCH, CYCLE, ERR, INT4TAB and the trap registers read as the slot's and core's own; CNT shows LD, ST, CP and TL,
COORD the core's place, SLOT its number and mode. After a write a writable register reads as the written bits of its fields; a
write to a read-only register changes only the pc; DIRTY bits written 1 are cleared. A write of CTXCMD takes ID, clears ERR where bit 25
is 1, and starts its command where OP is 1 or 2 and none is in force; that ID is taken in every case is log entry 42, the model's choice.
NETCFG takes its fields while no context but 0 is LIVE or DRAINING. A read of CNT or TOK that shows commands over has seen them so (log
entry 51, the model's choice). A write changes no byte of memory, no
register-file entry and no other slot. (R24, R32, R55, R152, R153, R160, R161, R269, R303) -/
def Obligations.SpecialRegistersAreReadAndWritten : Prop :=
  (∀ (d : RegCode) (num : BitVec 12) (s : State), let n := num.toNat
    (n ∈ userSpecials ∨ (n ∈ supervisorSpecials ∧ s.me.mode ≠ 0) →
      (s.operands (Instr.srd d num).word [] [d.toNat] = .ok [] → s.destReady d.toNat = .ok () →
        (n ≠ 0x00D → n ≠ 0x00E → exec (.srd d num) s = .next (s.complete [] d.toNat (s.readSpecial n))) ∧
        (n = 0x00D → exec (.srd d num) s = .next ((s.seeTiles fun _ => s.me.tl == 0).complete [] d.toNat (s.readSpecial n))) ∧
        (n = 0x00E → exec (.srd d num) s = .next ((s.seeTiles fun q => !s.me.tok.getLsbD q.k).complete [] d.toNat (s.readSpecial n)))) ∧
      ∀ w, s.operands (Instr.swr d num).word [d.toNat] [] = .ok [w] → s.me.queueOf d.toNat = none → ∃ t, exec (.swr d num) s = .next t ∧ t.mem = s.mem ∧
        t.regs = s.regs ∧ t.regFull = s.regFull ∧ (∀ u, u ≠ s.cur → t.slot u = s.slot u) ∧ (s.me.loops = [] → t.me.pc = s.me.pc + 4) ∧
        (∀ p ∈ [((0x008 : Nat), (0x3F03 : Word)), (0x009, 0xFFF), (0x00A, allOnes), (0x00B, allOnes), (0x00C, 0xFFFFFF), (0x011, 0xFFFFFF), (0x018, allOnes), (0x019, allOnes),
            (0x020, allOnes), (0x023, allOnes), (0x100, allOnes), (0x101, allOnes), (0x104, 0xFFFFFFFFFFFFFFF), (0x107, allOnes), (0x108, 0x1FFFFF)],
          n = p.1 → t.readSpecial n = w &&& p.2) ∧
        (n = 0x102 → ∀ j, j < 24 → Store.get false t.dirty (s.here * 24 + j) = (Store.get false s.dirty (s.here * 24 + j) && !w.getLsbD j)) ∧
        (n = 0x105 → fld (t.readSpecial n) 0 4 = w.toNat % 16) ∧
        (n = 0x103 → fld (t.readSpecial n) 0 9 = fld w 0 9 ∧ bitAt (t.readSpecial n) 25 = (bitAt (s.readSpecial n) 25 && !bitAt w 25) ∧ fld (t.readSpecial n) 16 2 = 0 ∧
          (s.ctxCmd = none → fld w 16 2 = 1 ∨ fld w 16 2 = 2 → t.ctxCmd = some (fld w 16 2, fld w 0 9) ∧ bitAt (t.readSpecial n) 24 = true) ∧
          (s.ctxCmd ≠ none ∨ fld w 16 2 = 0 ∨ fld w 16 2 = 3 → t.ctxCmd = s.ctxCmd ∧ bitAt (t.readSpecial n) 24 = bitAt (s.readSpecial n) 24)) ∧
        (n = 0x10A → ((∃ e ∈ s.ctxs, e.1 ≠ 0 ∧ e.2.state ≠ 0) → t.readSpecial n = s.readSpecial n) ∧
          ((∀ e ∈ s.ctxs, e.1 ≠ 0 → e.2.state = 0) → t.readSpecial n = w &&& 0x0000FFFFFFFFFF0F)) ∧
        (n ∈ [0x000, 0x001, 0x002, 0x003, 0x004, 0x005, 0x00D, 0x00E, 0x00F, 0x010, 0x021, 0x022, 0x106, 0x10C, 0x10D] → t = s.completeNone [d.toNat])) ∧
    (0x100 ≤ n → s.me.mode = 0 → exec (.srd d num) s = .next (s.takeTrap s.cur 0x0D (Instr.srd d num).word) ∧
      exec (.swr d num) s = .next (s.takeTrap s.cur 0x0D (Instr.swr d num).word)) ∧
    (n ∉ userSpecials → n ∉ supervisorSpecials → (n < 0x100 ∨ s.me.mode ≠ 0) → exec (.srd d num) s = .next (s.takeTrap s.cur 0x01 (Instr.srd d num).word) ∧
      exec (.swr d num) s = .next (s.takeTrap s.cur 0x01 (Instr.swr d num).word))) ∧
  (∀ s : State, ∀ p ∈ [((0x002 : Nat), s.me.group), (0x003, s.me.kernel), (0x004, BitVec.ofNat 64 s.me.ctx), (0x008, s.me.flags), (0x009, s.me.fmt), (0x00A, s.me.scla), (0x00B, s.me.sclb),
      (0x00C, s.me.wlim), (0x00E, s.me.tok.setWidth 64), (0x00F, s.me.touch), (0x010, BitVec.ofNat 64 (s.coreRec s.here).cycle), (0x011, s.me.err), (0x018, (s.coreRec s.here).int4lo),
      (0x019, (s.coreRec s.here).int4hi), (0x020, s.me.trapPc), (0x021, BitVec.ofNat 64 s.me.trapCause), (0x022, s.me.trapInfo), (0x023, s.me.trapVec)], s.readSpecial p.1 = p.2) ∧
  ∀ s : State, (let v := s.readSpecial 0x00D; fld v 0 6 = s.me.ld % 64 ∧ fld v 8 6 = s.me.st % 64 ∧ fld v 16 6 = s.me.cp % 64 ∧ fld v 24 6 = s.me.tl % 64) ∧
    (let v := s.readSpecial 0x001; fld v 32 8 = s.here % 32 ∧ fld v 40 8 = s.here / 32 % 256 ∧ fld v 48 6 = s.pkgNum % 64) ∧
    (let v := s.readSpecial 0x000; fld v 0 6 = s.cur % 64 ∧ fld v 8 2 = s.me.mode % 4) ∧ (let v := s.readSpecial 0x005; fld v 0 11 = s.me.base % 2048 ∧ fld v 16 8 = s.me.limit % 256)

/-- HALT drains the slot with status 0. YIELD goes on and is held until every other READY slot has issued or 64 cycles have passed.
SPAWN of a legal descriptor, with a free slot and window, creates a READY thread there with the descriptor's pc, window, mode
and arguments in g1 to g4, the parent's context, and every other register 0 and full, and gives its slot number, or all ones
where there is none; inside a kernel the child is one more member of the core, or waits for the acknowledgement of its JOIN; a mode above the issuer's traps 0x0D. In user mode SPILL and RESUME trap 0x0D; SPILL of a slot that is not
spillable (the own, 63, of mode 2, or FREE, SAVING or DRAINING) and RESUME of one not FREE give 1. A SPILL writes the thread's window registers into its image, makes the slot SAVING
and waits; its end frees the slot and gives 0. That the image is written when SPILL issues is log entry 26, and so is a
reserved slot as not spillable; a slot leaving by migration is log entry 18: the model's choices. A restored thread's registers and full bits are the image's. A
task at the head of a queue starts in a free dispatcher slot with its entry, context, mode and arguments. A READY slot with a pending
boundary trap takes it, but for a core that DBGSTOP holds. A DRAINING slot whose counters are 0, that carries no name and waits for no
notice or JOIN becomes FREE. A slot freed and used again keeps its last issue cycle and SEQ (log entry 38, the model's choice). (R151, R154,
R155, R156, R160, R163, R164, R166, R185, R224, R393, R404) -/
def Obligations.ThreadsAreControlled : Prop :=
  (∀ s : State, exec .halt s = .next (s.terminate s.cur 0) ∧ (s.terminate s.cur 0).me.phase = .draining ∧ (s.terminate s.cur 0).me.status = 0) ∧
  (∀ s : State, ∃ t, exec .yield s = .next t ∧ t.mem = s.mem ∧ t.regs = s.regs ∧ (s.me.loops = [] → t.me.pc = s.me.pc + 4) ∧
    t.me.yield = (if s.readyOthers s.cur = [] then none else some ((s.coreRec s.here).cycle + 64, s.readyOthers s.cur))) ∧
  (∀ (s : State) t e l, (s.slot t).yield = some (e, l) → e ≤ (s.coreRec (t / 64)).cycle →
    exec (.yieldExpiry t) s = .next (s.setSlot t { s.slot t with yield := none })) ∧
  (∀ (d : RegCode) (s : State) x off, s.operands (Instr.spawn d).word [d.toNat] [d.toNat] = .ok [x] → s.resolveOwn x 8 = .ok off → off + 40 ≤ 0x180000 →
    let w0 := s.read64 (s.here * 0x200000 + off)
    fld w0 31 33 = 0 → fld w0 21 3 = 0 → fld w0 0 21 % 4 = 0 → fld w0 0 21 < 0x180000 → fld w0 29 2 ≠ 3 → (bitAt w0 28 = true → fld w0 24 4 ≤ 1) →
    (s.me.mode < fld w0 29 2 → exec (.spawn d) s = .next (s.takeTrap s.cur 0x0D (Instr.spawn d).word)) ∧
    (fld w0 29 2 ≤ s.me.mode → (fld w0 29 2 = 2 → s.me.mode = 2) → s.destReady d.toNat = .ok () → let limit := 8 * (fld w0 24 4 + 1)
      (s.freeSlot s.here = none ∨ s.freeWindow s.here limit = none → exec (.spawn d) s = .next (s.complete [d.toNat] d.toNat allOnes)) ∧
      (∀ n base, s.freeSlot s.here = some n → s.freeWindow s.here limit = some base → s.me.extra = false → s.me.kpkg = none → s.me.countAt = none → kernelV s.me.kernel = false → ∃ child : NewThread,
        exec (.spawn d) s = .next ((s.createAt (s.here * 64 + n) base child).complete [d.toNat] d.toNat (BitVec.ofNat 64 n)) ∧ child.pc = fld w0 0 21 ∧ child.limit = limit ∧ child.mode = fld w0 29 2 ∧
        child.ctx = s.me.ctx ∧ child.args = s.readWords (s.here * 0x200000 + (off + 8)) 4) ∧
      (∀ n base, s.freeSlot s.here = some n → s.freeWindow s.here limit = some base → s.me.phase = .ready → let w := setFld s.me.kernel 32 2 0
        ∃ child : NewThread, child.pc = fld w0 0 21 ∧ child.limit = limit ∧ child.mode = fld w0 29 2 ∧ child.ctx = s.me.ctx ∧ child.kernel = w ∧ child.group = s.me.group ∧
          child.args = s.readWords (s.here * 0x200000 + (off + 8)) 4 ∧ let u := s.createAt (s.here * 64 + n) base child
          (s.me.extra = false → s.me.kpkg = none → s.me.countAt = none → s.kernelLive w = true → exec (.spawn d) s = .next
            ((u.modKernelCore (fld w 0 10) s.here fun k => { k with alive := k.alive + 1 }).complete [d.toNat] d.toNat (BitVec.ofNat 64 n))) ∧
          ((s.me.extra = true ∨ s.me.countAt ≠ none) → s.me.kpkg = none → s.kernelLive s.me.kernel = true → ∃ t, exec (.spawn d) s = .next t ∧
            t.me.phase = .parked ∧ t.me.park = .remote u.nextId ∧ t.me.pc = s.me.pc ∧ t.mem = s.mem ∧ (t.slot (s.here * 64 + n)) = (u.slot (s.here * 64 + n)) ∧
            Sends u t [(.ctrl (s.kernelRec (fld w 0 10)).rootDie, .join w d.toNat n)]) ∧
          (∀ p, s.me.kpkg = some p → kernelV s.me.kernel = true → ∃ t, exec (.spawn d) s = .next t ∧ t.me.phase = .parked ∧ t.me.park = .remote u.nextId ∧ t.me.pc = s.me.pc ∧
            t.mem = s.mem ∧ (s.isUnreachable s.here p = false → Sends u t [(.pkg p, .join w d.toNat n)]))))) ∧
  (∀ (s : State) n, unspillable s n = true ↔ n = s.cur % 64 ∨ n = 63 ∨ let sl := s.slot (s.here * 64 + n)
    sl.phase = .free ∨ sl.phase = .saving ∨ sl.phase = .draining ∨ sl.mode = 2 ∨ sl.phase = .reserved ∨ sl.leaving ≠ none) ∧
  (∀ (s : State) t base (n : NewThread), n.limit ≤ 2048 → n.args.length < 2048 → let u := s.createAt t base n
    (u.slot t).phase = .ready ∧ (u.slot t).pc = n.pc ∧ (u.slot t).base = base ∧ (u.slot t).limit = n.limit ∧ (u.slot t).mode = n.mode ∧ (u.slot t).ctx = n.ctx ∧ (u.slot t).flags = 0 ∧
    (u.slot t).intrap = false ∧ (u.slot t).lastIssue = (s.slot t).lastIssue ∧ (u.slot t).seq = (s.slot t).seq ∧ u.mem = s.mem ∧
    (∀ v, 0 < v → v < n.limit → u.regIsFull t v = true ∧ u.reg t v = (if v ≤ n.args.length then n.args.getD (v - 1) 0 else 0)) ∧ ∀ k, k ≠ t → u.slot k = s.slot k) ∧
  (∀ (d : RegCode) (s : State) x n, let scr := bitAt x 8
    (s.me.mode = 0 → exec (.spill d) s = .next (s.takeTrap s.cur 0x0D (Instr.spill d).word) ∧ exec (.resume d) s = .next (s.takeTrap s.cur 0x0D (Instr.resume d).word)) ∧
    (s.me.mode ≠ 0 → s.destReady d.toNat = .ok () → fld x 6 2 = 0 → fld x 9 55 = 0 → n = fld x 0 6 → let t := s.here * 64 + n
      (s.operands (Instr.spill d).word [d.toNat] [d.toNat] = .ok [x] →
        (unspillable s n = true → exec (.spill d) s = .next (s.complete [d.toNat] d.toNat 1)) ∧
        (∀ key, unspillable s n = false → s.me.codelet = false → s.imageAt n 1 = .ok (key, s) → s.evicted.find? (fun e => e.key == key) = none → (s.ctx (s.slot t).ctx).state ≠ 2 → (s.slot t).limit ≤ 128 →
          s.undisturbed false key 2048 = true →
          ∃ u e o, exec (.spill d) s = .next u ∧ u.me.phase = .parked ∧ u.me.pc = s.me.pc ∧ (u.slot t).phase = .saving ∧ (u.slot t).ctx = (s.slot t).ctx ∧ (u.slot t).mode = (s.slot t).mode ∧ u.evicted = s.evicted ++ [e] ∧ e.core = s.here ∧ e.slot = n ∧ e.key = key ∧
            u.spills = s.spills ++ [o] ∧ o.uid = s.me.uid ∧ o.reg = d.toNat ∧ o.scr = scr ∧ (∀ v, v < (s.slot t).limit → u.read64 (key + 0x120 + 8 * v) = s.reg t v) ∧
            ∀ k, k < key ∨ key + 2048 ≤ k → u.mem.byte k = s.mem.byte k)) ∧
      (s.operands (Instr.resume d).word [d.toNat] [d.toNat] = .ok [x] →
        ((s.slot t).phase ≠ .free → exec (.resume d) s = .next (s.complete [d.toNat] d.toNat 1)) ∧
        (∀ key base, (s.slot t).phase = .free → s.me.phase = .ready → s.me.codelet = false → s.imageAt n 0 = .ok (key, s) → s.freeWindow s.here (fld (s.read64 (key + 0x30)) 16 8) = some base →
          ∃ u o, exec (.resume d) s = .next u ∧ u.me.phase = .parked ∧ (u.slot t).phase = .reserved ∧ (u.slot t).base = base ∧ (u.slot t).ctx = fld (s.read64 (key + 0x18)) 0 9 ∧ u.mem = s.mem ∧ u.spills = s.spills ++ [o] ∧ o.resume = true ∧ o.key = key)))) ∧
  (∀ (s : State) m o, s.spills.find? (fun y => y.id == m) = some o → o.scr = false →
    (o.resume = false → let k := o.core * 64 + o.slot
      exec (.spillComplete m) s = .next ((s.setSlot k { lastIssue := (s.slot k).lastIssue, seq := (s.slot k).seq }).endSpill o)) ∧
    (o.resume = true → let u := (restoreThread o.core o.slot o.key s).endSpill o
      (u.slot (o.core * 64 + o.slot)).pend = [] → exec (.resumeComplete m) s = .next u)) ∧
  (∀ (s : State) c n key v, let t := c * 64 + n
    0 < v → v < (s.slot t).limit → (s.slot t).limit ≤ 128 → let u := restoreThread c n key s
    u.reg t v = s.read64 (key + 0x120 + 8 * v) ∧ u.regIsFull t v = (s.mem.readN (key + 0x100) 16).testBit v ∧ (u.slot t).base = (s.slot t).base ∧ u.mem = s.mem) ∧
  (∀ (s : State) c p rest n base, (s.coreRec c).tasks = p :: rest → (List.range 60).find? (fun n => bitAt (s.coreRec c).taskCfg n && (s.slot (c * 64 + n)).phase == .free) = some n →
    s.freeWindow c (8 * ((s.coreRec c).taskWin + 1)) = some base → ∃ u, exec (.taskDispatch c) s = .next u ∧ (u.coreRec c).tasks = rest ∧ let sl := u.slot (c * 64 + n)
      sl.phase = .ready ∧ sl.pc = p.entry ∧ sl.ctx = p.ctx ∧ sl.mode = p.mode ∧ sl.task = true ∧ sl.rep = p.rep ∧ sl.base = base ∧ u.reg (c * 64 + n) 1 = p.args.a0 ∧
      u.reg (c * 64 + n) 2 = p.args.a1 ∧ u.reg (c * 64 + n) 3 = p.args.a2 ∧ u.reg (c * 64 + n) 4 = p.args.a3 ∧ u.mem = s.mem) ∧
  (∀ (s : State) t c v r, (s.slot t).pend = (c, v) :: r → (s.slot t).phase = .ready → Store.get false s.dev.stopped (t / 64) = false →
    exec (.boundaryTrap t) s = .next ((s.setSlot t { s.slot t with pend := r }).takeTrap t c v)) ∧
  ∀ (s : State) t, (s.slot t).phase = .draining → (s.slot t).ld = 0 → (s.slot t).st = 0 → (s.slot t).tl = 0 → (s.slot t).cp = 0 → (s.slot t).notices = 0 →
    ((s.slot t).departed = true ∨ ((s.slot t).carried = [] ∧ s.callsPending (s.slot t).uid = false)) → ∃ u, exec (.slotRetire t) s = .next u ∧ (u.slot t).phase = .free ∧
      (u.slot t).lastIssue = (s.slot t).lastIssue ∧ (u.slot t).seq = (s.slot t).seq

/-- In user mode the four page instructions trap 0x0D. With legal operands, a destination that can be written and ST 0 PINVAL sends one invalidation along its
rectangle, PMAP waits for its walk, PMOVE of a valid leaf without MIG sets MIG and sends an invalidation to every core, and
PHEAT waits for its walk; each leaves the rotation. An invalidation at a core that can take its copy, with no bulk access in flight,
removes exactly the translations of its context and span, is acknowledged, and goes on; else it waits; the last acknowledgement ends a
PINVAL. A PMAP whose old entry has MIG 1 gives FFFF_FFFF_FFFF_FFFD and writes nothing, whatever else that entry holds; another writes
its entry and gives the old one; a walk that does not get there gives its code. A PMOVE, once acknowledged, copies the page, writes the new frame with MIG 0 and gives
the old leaf. PHEAT gives the heat word of a valid leaf with H, cleared on demand, and in every other case all ones. A heat update adds 1 to MISS,
held at 0xFFFE, and to its die's count, all counts halved first at 0xFFF. A walk that fails on a core with pagers puts the slot
into page wait, adds 1 to SEQ and sends a fault packet; on a pager core it traps 0x06. A fault packet is queued as a task, where there is room
and no packet that came before it waits; that PAGEVEC's two low bits are ignored in its entry is log entry 41, the model's choice. A
wake with the slot's SEQ makes it READY, or, with OUT 1, traps 0x06, behind traps that already wait at the slot's boundary (log entry
39, the model's choice); another is dropped. (R75, R187, R250, R251, R252, R253, R256,
R257, R258, R259, R260, R261) -/
def Obligations.PagesAreMappedMovedAndWaitedFor : Prop :=
  (∀ (d : RegCode) size (s : State), s.me.mode = 0 → ∀ i ∈ [Instr.pinval d size, .pmap d, .pmove d, .pheat d], exec i s = .next (s.takeTrap s.cur 0x0D i.word)) ∧
  (∀ (d : RegCode) size (s : State) o w r, s.me.mode ≠ 0 → s.me.codelet = false → s.runOperands (Instr.pinval d size).word [d.toNat, d.toNat + 1] [d.toNat, d.toNat + 1] [] = .ok [o, w] →
    checkOperand .inval o (pageBits size.toNat) = .ok () → State.resolveRect s.here w (Instr.pinval d size).word = .ok r →
    (s.me.st ≠ 0 → exec (.pinval d size) s = .next s) ∧
    (s.me.st = 0 → ∃ t p, exec (.pinval d size) s = .next t ∧ t.me.phase = .parked ∧ t.me.pc = s.me.pc ∧ t.mem = s.mem ∧ t.pageOps = s.pageOps ++ [p] ∧ p.uid = s.me.uid ∧ p.kind = .inval ∧
      p.pending = r.snake.length ∧ Sends s t [(.core (r.snake.headD 0), .invalidate p.id (opCtx o) (opVa o) (pageBits size.toNat) (opAll o) r.snake)])) ∧
  (∀ (s : State) m x op i va bits all a l c, s.arrived m = some x → x.body = .invalidate op i va bits all (a :: l) → x.dst = .core c →
    (bulkInFlight s c i = true ∨ s.takesCopy c = false → exec (.invalidation m) s = .next s) ∧
    (bulkInFlight s c i = false → s.takesCopy c = true → ∃ t, exec (.invalidation m) s = .next t ∧ t.mem = s.mem ∧
      (∀ e, e ∈ (t.coreRec c).tlb ↔ e ∈ (s.coreRec c).tlb ∧ ¬ (e.ctx = i ∧ (all = true ∨ (e.va < va + 2 ^ bits ∧ va < e.va + 2 ^ spanBits e.level)))) ∧
      Sends (s.dropMsg m) t ((x.src, .invalidated op) :: (match l with | [] => [] | n :: r => [(.core n, .invalidate op i va bits all (n :: r))])))) ∧
  (∀ (s : State) m x op o, s.arrived m = some x → x.body = .invalidated op → s.pageOp op = some o →
    (o.pending ≤ 1 → o.kind = .inval → exec (.invalidationAck m) s = .next ((s.dropMsg m).endPage o none)) ∧
    (1 < o.pending ∨ o.kind ≠ .inval → exec (.invalidationAck m) s = .next { s.dropMsg m with pageOps := s.pageOps.map fun y => if y.id = op then { y with pending := y.pending - 1 } else y })) ∧
  (∀ (d : RegCode) (s : State) o e, s.me.mode ≠ 0 → s.me.codelet = false → s.runOperands (Instr.pmap d).word [d.toNat, d.toNat + 1] [d.toNat, d.toNat + 1] [] = .ok [o, e] → checkOperand .map o 0 = .ok () →
    (e ≠ 0 → (bitAt e 0 = false ∨ malformed e (opLevel o) = true) → exec (.pmap d) s = .next (s.takeTrap s.cur 0x01 e)) ∧
    ((e = 0 ∨ (bitAt e 0 = true ∧ malformed e (opLevel o) = false)) → s.me.st = 0 → s.destReady d.toNat = .ok () → ∃ t p, exec (.pmap d) s = .next t ∧ t.me.phase = .parked ∧ t.me.pc = s.me.pc ∧ t.mem = s.mem ∧
      t.pageOps = s.pageOps ++ [p] ∧ p.kind = .map ∧ p.uid = s.me.uid ∧ p.reg = d.toNat ∧ p.operand = o ∧ p.arg = e)) ∧
  (∀ (s : State) id o, s.pageOp id = some o → o.kind = .map →
    (∀ v, s.entryKey o.operand = .error v → exec (.pmapComplete id) s = .next (s.endPage o (some v))) ∧
    (∀ key, s.entryKey o.operand = .ok key → let old := s.read64 key
      (bitAt old 4 = true → exec (.pmapComplete id) s = .next (s.endPage o (some 0xFFFFFFFFFFFFFFFD))) ∧
      (bitAt old 4 = false → exec (.pmapComplete id) s = .next
        ((if bitAt o.arg 1 then (s.write64 key o.arg).clearHeat o.arg else s.write64 key o.arg).endPage o (some old))))) ∧
  (∀ (d : RegCode) (s : State) o f key, s.me.mode ≠ 0 → s.me.codelet = false → s.runOperands (Instr.pmove d).word [d.toNat, d.toNat + 1] [d.toNat, d.toNat + 1] [] = .ok [o, f] →
    checkOperand .move o 0 = .ok () → fld f 39 25 = 0 → f.toNat % 2 ^ spanBits (opLevel o) = 0 → s.me.st = 0 → s.destReady d.toNat = .ok () → s.entryKey o = .ok key → let e := s.read64 key
    bitAt e 0 = true → malformed e (opLevel o) = false → bitAt e 1 = true → bitAt e 4 = false →
    ∃ t p, exec (.pmove d) s = .next t ∧ t.me.phase = .parked ∧ t.read64 key = setFld e 4 1 1 ∧ (∀ k, k < key ∨ key + 8 ≤ k → t.mem.byte k = s.mem.byte k) ∧ t.pageOps = s.pageOps ++ [p] ∧ p.kind = .move ∧
      p.leafKey = key ∧ p.arg = f ∧ p.pending = wholePackage.snake.length ∧ Sends s t [(.core 0, .invalidate p.id (opCtx o) (opVa o) (spanBits (opLevel o)) false wholePackage.snake)]) ∧
  (∀ (s : State) id o, s.pageOp id = some o → o.kind = .move → o.pending = 0 →
    let e := setFld (s.read64 o.leafKey) 4 1 0
    let n := 2 ^ spanBits (opLevel o.operand)
    (o.leafKey + 8 ≤ 2 ^ 40 + o.arg.toNat ∨ 2 ^ 40 + o.arg.toNat + n ≤ o.leafKey) →
    ∃ u : State, exec (.pmoveCopyDone id) s = .next (u.endPage o (some e)) ∧ (∀ b, b < n → u.mem.byte (2 ^ 40 + o.arg.toNat + b) = s.mem.byte (2 ^ 40 + fld e 9 30 * 512 + b)) ∧
      u.read64 o.leafKey = setFld e 9 30 (o.arg.toNat / 512) ∧ (bitAt e 5 = true → Store.get 0 u.heat (heatOf e) = 0)) ∧
  (∀ (d : RegCode) (s : State) o w, s.me.mode ≠ 0 → s.me.codelet = false → s.runOperands (Instr.pheat d).word [d.toNat, d.toNat + 1] [d.toNat, d.toNat + 1] [] = .ok [w, o] → checkOperand .heat o 0 = .ok () →
    s.destReady d.toNat = .ok () → ∃ t p, exec (.pheat d) s = .next t ∧ t.me.phase = .parked ∧ t.me.pc = s.me.pc ∧ t.mem = s.mem ∧ t.pageOps = s.pageOps ++ [p] ∧ p.kind = .heat ∧ p.reg = d.toNat ∧ p.operand = o) ∧
  (∀ (s : State) id o v, s.pageOp id = some o → o.kind = .heat → s.entryKey o.operand = .error v → exec (.pheatComplete id) s = .next (s.endPage o (some allOnes))) ∧
  (∀ (s : State) id o key, s.pageOp id = some o → o.kind = .heat → s.entryKey o.operand = .ok key → let e := s.read64 key
    (bitAt e 0 = true → malformed e (opLevel o.operand) = false → bitAt e 1 = true → bitAt e 5 = true → exec (.pheatComplete id) s = .next
      ((if bitAt o.operand 57 then s.clearHeat e else s).endPage o (some (Store.get 0 s.heat (heatOf e))))) ∧
    (bitAt e 0 = false ∨ malformed e (opLevel o.operand) = true ∨ bitAt e 1 = false ∨ bitAt e 5 = false → exec (.pheatComplete id) s = .next (s.endPage o (some allOnes)))) ∧
  (∀ (s : State) m x h d c, s.arrived m = some x → x.body = .heat h d → x.dst = .core c → ∃ t, exec (.heatUpdate m) s = .next t ∧
    Store.get 0 t.heat (c * 4096 + h) = heatStep (Store.get 0 s.heat (c * 4096 + h)) d ∧ (∀ k, k ≠ c * 4096 + h → Store.get 0 t.heat k = Store.get 0 s.heat k) ∧ t.mem = s.mem) ∧
  (∀ (h : Word) d, d < 4 → fld (heatStep h d) 0 16 = min (fld h 0 16 + 1) 0xFFFE ∧ ∀ j, j < 4 →
    fld (heatStep h d) (16 + 12 * j) 12 = (if fld h (16 + 12 * d) 12 = 0xFFF then fld h (16 + 12 * j) 12 / 2 else fld h (16 + 12 * j) 12) + (if j = d then 1 else 0)) ∧
  (∀ (s : State) c (r : Rights) va access reason level, s.translate c r.ctx va = .error (reason, level) →
    (s.isPager c = true → s.bulkAccess c r va access = .error (.trap 0x06 (BitVec.ofNat 64 va))) ∧
    (s.isPager c = false → s.pagersFor c ≠ [] → s.bulkAccess c r va access = .error (.page va access reason level (BitVec.ofNat 64 va)))) ∧
  (∀ (s : State) i va access reason level info p, s.pagerCore s.here va = some p → let t := s.enterPageWait i va access reason level info
    t.me.phase = .pageWait ∧ t.me.waitInfo = info ∧ t.me.seq = (s.me.seq + 1) % 256 ∧ t.me.pc = s.me.pc ∧ t.mem = s.mem ∧ ∃ pkt, Sends s t [(.core p, .fault pkt)] ∧ pkt.entry = (s.coreRec p).pageVec / 4 * 4 ∧ pkt.mode = 1 ∧ pkt.ctx = 0 ∧
      pkt.args.a0 = BitVec.ofNat 64 va ∧ fld pkt.args.a1 0 9 = i % 512 ∧ fld pkt.args.a1 9 2 = access % 4 ∧ fld pkt.args.a3 0 7 = s.cur % 64 ∧ fld pkt.args.a3 8 8 = (s.me.seq + 1) % 256) ∧
  (∀ (s : State) m x pkt c, s.arrived m = some x → x.body = .fault pkt → x.dst = .core c →
    ((s.coreRec c).tasks.length < 64 → (∀ w ∈ (s.coreRec c).waiting, waitingCall w = false) →
      exec (.faultPacket m) s = .next ((s.dropMsg m).modCore c fun r => { r with tasks := r.tasks ++ [pkt] })) ∧
    (64 ≤ (s.coreRec c).tasks.length ∨ (∃ w ∈ (s.coreRec c).waiting, waitingCall w = true) → exec (.faultPacket m) s = .next s)) ∧
  (∀ (s : State) m x w, s.arrived m = some x → x.body = .pwake w →
    (bitAt w 7 = false → fld w 16 16 = 0 → fld w 48 8 = 0 → fld w 58 6 = 0 → fld w 0 7 ≤ 64 → fld w 56 2 ≤ 1 → fld w 32 8 ≤ 31 → fld w 40 8 ≤ 39 → ∃ t, exec (.pwake m) s = .next t ∧ t.mem = s.mem ∧
      Sends (s.dropMsg m) t [(.core (32 * fld w 40 8 + fld w 32 8), .wake (fld w 0 7) (fld w 8 8) (fld w 56 2))]) ∧
    (64 < fld w 0 7 ∨ 1 < fld w 56 2 ∨ 31 < fld w 32 8 ∨ 39 < fld w 40 8 → exec (.pwake m) s = .next (s.dropMsg m))) ∧
  ∀ (s : State) m x n seq out c, s.arrived m = some x → x.body = .wake n seq out → x.dst = .core c → n < 63 → let t := c * 64 + n
    ((s.slot t).phase = .pageWait → (s.slot t).seq = seq →
      (out = 0 → exec (.pageWake m) s = .next ((s.dropMsg m).setSlot t { s.slot t with phase := .ready })) ∧
      (out = 1 → (s.slot t).pend = [] → Store.get false s.dev.stopped c = false → exec (.pageWake m) s = .next ((s.dropMsg m).takeTrap t 0x06 (s.slot t).waitInfo)) ∧
      (out = 1 → (s.slot t).pend ≠ [] ∨ Store.get false s.dev.stopped c = true → ∃ u, exec (.pageWake m) s = .next u ∧ (u.slot t).phase = .ready ∧
        (u.slot t).pend = (s.slot t).pend ++ [(0x06, (s.slot t).waitInfo)] ∧ (u.slot t).pc = (s.slot t).pc)) ∧
    ((s.slot t).phase ≠ .pageWait ∨ (s.slot t).seq ≠ seq → s.evicted = [] → exec (.pageWake m) s = .next (s.dropMsg m))

namespace Sys2Proof.Claims

/-- Cells of the packets that sel picks which have gone on link l and are not acknowledged. -/
def frameLoad (l : Nat) (sel : Packet → Bool) (s : State) : Nat := ((s.sent.filter fun e => e.link == l && sel e).map (·.last)).sum

end Sys2Proof.Claims

/-- CELLRES and CELLREL of a flow to another package ask the die's gateway and wait; a reserved bit or the own package traps 0x01.
The gateway grants at most 52 slots of a link in all (else 1, or 2 with no link up), and a release gives what is still held (which
reservation it shortens is log entry 40, the model's choice). LINKW traps 0x0D in user mode and else asks the link's gateway; a link
that is not up takes the code at once and gives the old one, one that is up at its boundary. Code 3 takes a link down, another after 3
retrains it. A link goes down and comes up; the cells of its last frame go again when it goes down. A written notice name takes a held
event and becomes 0; that it is the oldest is the model's choice (log entry 34). A frame takes the packets ready for it from the
network, numbers them, and carries at most 64 cells, 60 of them no responses; a flow that alone has a reservation gets its slots; that
a new frame acknowledges the cells of the one before is the model's reading (log entry 34), and so is a packet's length (log entry 2).
A header reads back as it was written. A resend keeps a packet's numbers. An unreachable package's outstanding requests of the die are
answered with cause 0x0E. A cell already accepted is dropped; a whole packet is passed to its place, one of an ordered flow in its
turn, and a barrier operation when a credit of the gateway's class is free, also one that waited for it. A request from another package is refused at the gateway,
or goes on, with a credit, to the agent that performs and answers it. The wave gives a core behind F the frame F and full quotas, and
after ten clusters F grows by 1 modulo 16. (R267, R270, R273, R274, R275, R276, R278, R279, R280, R281, R402) -/
def Obligations.LinksCarryCells : Prop :=
  (∀ (d n : RegCode) (s : State) f, ∀ p ∈ [((Instr.cellres d n, false) : Instr × Bool), (.cellrel d n, true)], s.operands p.1.word [d.toNat] [d.toNat] = .ok [f] →
    (fld f 9 55 ≠ 0 ∨ fld f 6 2 ≠ 0 ∨ fld f 0 6 = s.pkgNum → exec p.1 s = .next (s.takeTrap s.cur 0x01 f)) ∧
    (fld f 9 55 = 0 → fld f 6 2 = 0 → fld f 0 6 ≠ s.pkgNum → s.me.codelet = false → s.destReady d.toNat = .ok () → ∃ t, exec p.1 s = .next t ∧ t.me.phase = .parked ∧ t.me.pc = s.me.pc ∧ t.mem = s.mem ∧
      Sends s t [(.gate (dieOf s.here), .cells p.2 (fld f 0 6) n.toNat (bitAt f 8) d.toNat)])) ∧
  (∀ (s : State) m x rel p n ord reg d, s.performable m = some x → x.body = .cells rel p n ord reg → x.dst = .gate d → let f := s.flow x.ctx d p
    let k := (x.ctx * 4 + d) * 64 + p
    (rel = true → exec (.cellReservation m) s = .next (gateAnswer x.uid reg (BitVec.ofNat 64 (f.held - n))
      { s.dropMsg m with flows := Store.set {} s.flows k (f.release n) })) ∧
    (rel = false → s.linkOf x.ctx d p = none → exec (.cellReservation m) s = .next (gateAnswer x.uid reg 2 (s.dropMsg m))) ∧
    (∀ l, rel = false → s.linkOf x.ctx d p = some l →
      (52 < s.reservedOn l + n → exec (.cellReservation m) s = .next (gateAnswer x.uid reg 1 (s.dropMsg m))) ∧
      (s.reservedOn l + n ≤ 52 → exec (.cellReservation m) s = .next (gateAnswer x.uid reg 0 { s.dropMsg m with flows := Store.set {} s.flows k { made := f.made ++ [(s.nextId, n)], ord := ord }, nextId := s.nextId + 1 })))) ∧
  (∀ (f : FlowRec) n, (f.release n).held = f.held - n ∧ (f.release n).ord = (f.ord && decide ((f.release n).made ≠ [])) ∧
    ((∀ e ∈ f.made, 0 < e.2) → ((f.release n).made = [] ↔ f.held ≤ n)) ∧ ∀ t k o, ({ made := f.made ++ [(t, k)], ord := o } : FlowRec).held = f.held + k) ∧
  (∀ (d : RegCode) (w : BitVec 4) (s : State) v, (s.me.mode = 0 → exec (.linkw d w) s = .next (s.takeTrap s.cur 0x0D (Instr.linkw d w).word)) ∧
    (s.me.mode ≠ 0 → s.operands (Instr.linkw d w).word [d.toNat] [d.toNat] = .ok [v] →
      (fld v 4 60 ≠ 0 ∨ 11 < fld v 0 4 → exec (.linkw d w) s = .next (s.takeTrap s.cur 0x01 (Instr.linkw d w).word)) ∧
      (fld v 4 60 = 0 → fld v 0 4 ≤ 11 → s.me.codelet = false → s.destReady d.toNat = .ok () → ∃ t, exec (.linkw d w) s = .next t ∧ t.me.phase = .parked ∧ t.me.pc = s.me.pc ∧ t.mem = s.mem ∧
        Sends s t [(.gate (fld v 0 4 / 3), .linkw (fld v 0 4) w.toNat d.toNat)]))) ∧
  (∀ (s : State) m x l w reg, s.performable m = some x → x.body = .linkw l w reg →
    ((s.link l).up = true → exec (.linkwRequest m) s = .next ((s.dropMsg m).modLink l fun k => { k with pending := k.pending ++ [(x.uid, reg, w)] })) ∧
    ((s.link l).up = false → exec (.linkwRequest m) s = .next (gateAnswer x.uid reg (BitVec.ofNat 64 (s.link l).width) ((s.dropMsg m).changeLink l (recordWidth w))))) ∧
  (∀ (s : State) l uid reg w r, (s.link l).pending = (uid, reg, w) :: r →
    (w ≠ 3 → exec (.linkWidthChange l) s = .next (gateAnswer uid reg (BitVec.ofNat 64 (s.link l).width) (s.changeLink l fun k => { recordWidth w k with pending := r }))) ∧
    (w = 3 → exec (.linkWidthChange l) s = .next (gateAnswer uid reg (BitVec.ofNat 64 (s.link l).width) ((s.resendLink l).changeLink l fun k => { recordWidth w k with pending := r })))) ∧
  (∀ (s : State) l, (∀ e ∈ (s.resendLink l).sent, e.link = l → e.last = 0) ∧ (s.resendLink l).sent.length = s.sent.length ∧
    ∀ j (h : j < s.sent.length), s.sent[j].link ≠ l → (s.resendLink l).sent[j]? = some s.sent[j]) ∧
  (∀ (k : LinkRec) w, (w = 3 → (recordWidth w k).width = 3 ∧ (recordWidth w k).up = false ∧ (recordWidth w k).training = false) ∧
    (w ≠ 3 → k.width = 3 → (recordWidth w k).width = w ∧ (recordWidth w k).up = false ∧ (recordWidth w k).training = true) ∧ (w ≠ 3 → k.width ≠ 3 → recordWidth w k = { k with width := w })) ∧
  (∀ (s : State) l, l < 12 → (∃ t, exec (.linkDown l) s = .next t ∧ (t.link l).up = false ∧ (t.link l).training = false ∧ (∀ k, k ≠ l → t.link k = s.link k) ∧ t.mem = s.mem ∧ t.sent = (s.resendLink l).sent ∧
      ((s.link l).up = true → ∃ w, w ∈ t.linkEvents ∧ fld w 0 4 = l ∧ bitAt w 6 = false)) ∧
    ((s.link l).up = false → (s.link l).training = true → ∃ t, exec (.linkTrained l) s = .next t ∧ (t.link l).up = true ∧ (t.link l).training = false ∧ (t.link l).width = (s.link l).width ∧ t.mem = s.mem)) ∧
  (∀ (s : State) nm w l, s.linkEvents = w :: l → nm ≠ 0 → (({ s with linkNote := nm } : State).nameUsable nm = true) → namePkg nm = s.pkgNum →
    (∃ t, exec (.linknoteWrite nm) s = .next t ∧ t.linkNote = 0 ∧ t.linkEvents = l ∧ Sends s t [(.core (nameCore nm), .deliver nm w (.notice w))]) ∧
    (s.linkNote = nm → ∃ t, exec .linkNotice s = .next t ∧ t.linkNote = 0 ∧ t.linkEvents = l ∧ Sends s t [(.core (nameCore nm), .deliver nm w (.notice w))])) ∧
  (∀ (s : State) l, (s.link l).up = true → ∃ t, exec (.linkFrame l) s = .next t ∧ t.mem = s.mem ∧
    t.net = s.net.filter (fun x => !s.net.any fun y => s.leaves l y && y.id == x.id) ∧
    (∀ e ∈ s.sent, e.link = l → 0 < e.last → State.nodeDie e.msg.src * 64 + State.flowOf e.msg % 64 ∉ t.unreachable) ∧
    ((∀ e ∈ s.sent, e.last = 0 ∨ e.link = l) → Claims.frameLoad l (fun _ => true) t ≤ 64 ∧ Claims.frameLoad l (fun e => e.msg.cls != 1) t ≤ 60)) ∧
  (∀ (s : State) l k f, (s.link l).up = true → s.flows = [(k, f)] → s.flowLink k = some l → f.held ≤ 52 → (∀ x ∈ s.net, s.leaves l x = false) → (∀ e ∈ s.sent, e.last = 0) →
    ∃ t, exec (.linkFrame l) s = .next t ∧
      min f.held ((s.sent.filter fun e => e.msg.cls != 1 && State.flowOf e.msg == k).map (·.left)).sum ≤ Claims.frameLoad l (fun e => e.msg.cls != 1 && State.flowOf e.msg == k) t) ∧
  (∀ (s : State) l x p, (s.link l).up = true → s.net = [x] → x.dst = .pkg p → p < 64 → State.nodeDie x.src < 4 → x.credit = none → x.started = false →
    s.linkOf x.ctx (State.nodeDie x.src) p = some l → s.sent = [] → s.flows = [] → cellsOf x.body ≤ 16 →
    let k := (x.ctx * 4 + State.nodeDie x.src) * 64 + p
    let g := State.nodeDie x.src * 64 + p
    ∃ t e, exec (.linkFrame l) s = .next t ∧ t.sent = [e] ∧ t.net = [] ∧ e.msg = x ∧ e.link = l ∧ e.left = 0 ∧ e.last = cellsOf x.body ∧ e.cells = cellsOf x.body ∧ e.ord = false ∧
      e.fseq = Store.get 0 s.flowOut k ∧ e.eseq = Store.get 0 s.cellOut g ∧ e.num = Store.get 0 s.packetOut (State.nodeDie x.src) ∧
      Store.get 0 t.flowOut k = (e.fseq + 1) % 65536 ∧ Store.get 0 t.cellOut g = (e.eseq + e.cells) % 16777216 ∧ Store.get 0 t.packetOut (State.nodeDie x.src) = (e.num + 1) % 4096) ∧
  (∀ (c : Cell) (e : Packet) own i, c.header = (e.header own i).setWidth 128 → own < 64 → State.nodeDie e.msg.src < 4 → e.msg.ctx < 512 → e.fseq < 65536 → e.num < 4096 →
    1 ≤ e.cells → e.cells ≤ 16 → i < 16 → c.dpkg = State.flowOf e.msg % 64 ∧ c.spkg = own ∧ c.source = own * 4 + State.nodeDie e.msg.src ∧ c.cls = e.msg.cls ∧ c.ord = e.ord ∧
      c.ctx = e.msg.ctx ∧ c.fseq = e.fseq ∧ c.eseq = (e.eseq + i) % 16777216 ∧ c.pkt = e.num ∧ c.count = e.cells ∧ c.index = i) ∧
  (∀ (s : State) m, ∃ t, exec (.cellResend m) s = .next t ∧ t.mem = s.mem ∧ t.net = s.net ∧ t.sent.length = s.sent.length ∧ ∀ j (h : j < s.sent.length), let e := s.sent[j]
    ∃ e', t.sent[j]? = some e' ∧ e'.msg = e.msg ∧ e'.fseq = e.fseq ∧ e'.eseq = e.eseq ∧ e'.num = e.num ∧ e'.cells = e.cells ∧ e'.left + e'.last = e.left + e.last ∧
      (e.msg.id = m → e'.last = 0) ∧ (e.msg.id ≠ m → e' = e)) ∧
  (∀ (s : State) d p, d < 4 → p < 64 → p ≠ s.pkgNum →
    let mine (o : Outstanding) : Bool := o.pkg == p && dieOf o.core == d && (match o.what with | .barrier _ _ | .engine _ _ _ | .migrant => false | _ => true)
    let ids := (s.outstanding.filter mine).map (·.id)
    ∃ t ms, exec (.packageUnreachable d p) s = .next t ∧ d * 64 + p ∈ t.unreachable ∧ t.outstanding = s.outstanding.filter (fun o => !ids.contains o.id) ∧
      t.sent = s.sent.filter (fun e => !ids.contains e.msg.id) ∧
      t.net = s.net.filter (fun x => !(ids.contains x.id && match x.dst with | .pkg _ => true | _ => false)) ++ ms ∧
      ms.map (fun x => (x.dst, x.body)) = (s.outstanding.filter mine).map (fun o => (.core o.core, State.abroadAnswer o.what 0x0E []))) ∧
  (∀ (s : State) d (c : Cell), d < 4 → c.dpkg = s.pkgNum → c.spkg ≠ s.pkgNum → c.cls ≠ 3 →
    (c.eseq ∈ Store.get [] s.accepted c.source → exec (.cellReceive d c) s = .next s) ∧
    (c.eseq ∉ Store.get [] s.accepted c.source → s.partials = [] → ∃ t, exec (.cellReceive d c) s = .next t ∧ c.eseq ∈ Store.get [] t.accepted c.source ∧ t.mem = s.mem ∧
      ((1 < c.count ∨ (c.ord = true ∧ c.fseq ≠ (Store.get {} s.flowIn c.flow).next) ∨
          ((∃ nm n i p r, c.body = .barrier nm n i p r) ∧ s.rqs ≤ Store.get 0 s.credits ((40 + State.nodeDie c.dst) * 4096 + State.classOf c.dst))) →
        t.net = s.net ∧ t.partials = [{ cell := c, got := [c.index] }]) ∧
      (c.count = 1 → c.ord = false ∨ c.fseq = (Store.get {} s.flowIn c.flow).next → (∀ op k l, c.body ≠ .fabricAnswer op k l) → (∀ nm n i p r, c.body ≠ .barrier nm n i p r) →
        t.partials = [] ∧ Sends s t [(c.dst, c.body)]))) ∧
  (∀ (s : State) (p : Partial) nm n i r v, s.partials = [p] → p.cell.count ≤ p.got.length → p.cell.ord = false → p.cell.body = .barrier nm n i r v →
    let k := (40 + State.nodeDie p.cell.dst) * 4096 + State.classOf p.cell.dst
    (s.rqs ≤ Store.get 0 s.credits k → passAll 2 s = s) ∧
    (Store.get 0 s.credits k < s.rqs → (passAll 2 s).partials = [] ∧ Sends s (passAll 2 s) [(p.cell.dst, p.cell.body)] ∧ (passAll 2 s).mem = s.mem)) ∧
  (∀ (s : State) m x addr f d, s.performable m = some x → x.body = .fabric addr f → x.dst = .gate d → let r := fabricParts { ctx := x.ctx, sup := x.sup } addr f s
    (∀ k, r.1 = .error k → exec (.fabricRequest m) s = .next (r.2.respond x (.fabricAnswer x.uid k []))) ∧
    (∀ parts, r.1 = .ok parts → let n := keyNode (parts.headD (0, 0)).1
      (s.rqs ≤ Store.get 0 s.credits ((40 + State.nodeDie n) * 4096 + State.classOf n) → exec (.fabricRequest m) s = .next s) ∧
      (Store.get 0 s.credits ((40 + State.nodeDie n) * 4096 + State.classOf n) < s.rqs → exec (.fabricRequest m) s =
        .next (((r.2.dropMsg m).takeCredit (40 + State.nodeDie n) n).sendAs { x with dst := n, credit := some (40 + State.nodeDie n, n), body := .fabricAt parts f })))) ∧
  (∀ (s : State) m x parts f, s.performable m = some x → x.body = .fabricAt parts f →
    exec (.fabricRequest m) s = .next ((fabricAccess parts f s).2.respond x (.fabricAnswer x.uid 0 (fabricAccess parts f s).1))) ∧
  (∀ (r : Rights) addr (f : Fabric) (s : State), (r.ctx ≠ 0 → (s.ctx r.ctx).state = 0 → fabricParts r addr f s = (.error 0x05, s)) ∧
    (r.ctx = 0 ∨ (s.ctx r.ctx).state ≠ 0 → f = .store 1 0 ∨ (∃ n, f = .read n ∧ 0 < n ∧ n ≤ 0x10000) →
      (∀ k i, s.resolve 0 r addr 1 = .error (.trap k i) → (fabricParts r addr f s).1 = .error k) ∧
      (∀ t o, s.resolve 0 r addr 1 = .ok (.spad t o) → (fabricParts r addr f s).1 = if 0x180000 < o + f.bytes then .error 0x04 else .ok [(t * 0x200000 + o, f.bytes)]) ∧
      (∀ va, s.resolve 0 r addr 1 = .ok (.bulk va) → va % 0x10000 + f.bytes ≤ 0x10000 → va + f.bytes ≤ 2 ^ 48 →
        (∀ a b, s.walk r.ctx va = .fault a b → (fabricParts r addr f s).1 = .error 0x06) ∧
        (∀ e lv a, s.walk r.ctx va = .leaf e lv a → (fabricParts r addr f s).1 =
          if (f.writes = true ∧ bitAt e 2 = false) ∨ (r.sup = false ∧ bitAt e 3 = true) then .error 0x05
          else .ok [(bulkKey (fld e 9 30 * 512 + va % 2 ^ spanBits lv), f.bytes)])) ∧
      (∀ va e lv a b d, s.resolve 0 r addr 1 = .ok (.bulk va) → 0x10000 < va % 0x10000 + f.bytes → va + f.bytes ≤ 2 ^ 48 → f.writes = false → s.walk r.ctx va = .leaf e lv a →
        (r.sup = true ∨ bitAt e 3 = false) → s.walk r.ctx (va + (0x10000 - va % 0x10000)) = .fault b d → (fabricParts r addr f s).1 = .error 0x06))) ∧
  (∀ key n (s : State) v, fabricAccess [(key, n)] (.store n v) s = ([], s.store key n v.toNat) ∧ (fabricAccess [(key, n)] (.read n) s).2 = s ∧
    (fabricAccess [(key, n)] (.read n) s).1.headD 0 = BitVec.ofNat 64 n ∧
    ∀ i, i < n → fld ((fabricAccess [(key, n)] (.read n) s).1.getD (i / 8 + 1) 0) (8 * (i % 8)) 8 = (s.mem.byte (key + i)).toNat) ∧
  ∀ (s : State) d, d < 4 → let i := Store.get 0 s.waveAt d
    let f := Store.get 0 s.dieFrame d
    ∃ t, exec (.frameCloseWave d) s = .next t ∧ Store.get 0 t.waveAt d = (if i + 1 < 10 then i + 1 else 0) ∧ Store.get 0 t.dieFrame d = (if i + 1 < 10 then f else (f + 1) % 16) ∧ t.mem = s.mem ∧
      ∀ p, p < 32 → let c := coreOfSnake (State.clusterOfDie d (routerSnake i)) p
        let b := (f + 16 - (s.coreRec c).frame) % 16
        1 ≤ b → b ≤ 7 → (t.coreRec c).frame = f ∧ (t.coreRec c).spentOmega = 0 ∧ (t.coreRec c).spentMesh = 0 ∧ (t.coreRec c).spentUcie = 0 ∧ (t.coreRec c).spentCell = 0 ∧ (t.coreRec c).stalled = false

/-- HOME in a slot that is no guest, and for a codelet, does nothing; a guest with its counters at 0 and its quotas open asks its origin core for a slot and
waits, and forfeits otherwise. At a target that may take it, a request reserves a guest slot and is answered with core and slot, or
with outcome 1 where none is free; HOME's request does the same for a general slot; that the slot is reserved with a window of 16
registers and that outcome 1 stands for none free is the model's reading (log entry 34). A refused one is answered 0x0F, and that
answer traps the thread. A leaving thread whose notices are answered, with its quotas open, sends its
record and drains; which names beyond four it takes along is log entry 60, the model's choice. A record that arrives for its
reserved slot creates the READY thread there with the record's pc, mode, context, FLAGS and registers; the origin answers one that
comes home. ACTIVATE of a FREE context other than 0 makes it LIVE with the words of its entry and drops the translations tagged with
it; of another it sets ERR. DRAIN of a LIVE one makes it DRAINING; of a FREE one it sets ERR; of a DRAINING one it changes nothing.
That a command for context 0 sets ERR is the model's reading (log entry 25), and that ERR stays set until software clears it its
choice (log entry 42). The command ends once every core has acknowledged. A DRAINING context with nothing left goes FREE. An idle core
may be gated, and leaves gating; that CLOCK_GATE does nothing to a busy core is the model's choice (log entries 9 and 36).
(R149, R151, R17, R181, R282, R283, R285) -/
def Obligations.ThreadsMigrateAndContextsTurn : Prop :=
  (∀ s : State, (s.me.guest = false ∨ s.me.codelet = true → exec .home s = .next (s.completeNone [])) ∧
    (s.me.guest = true → s.me.codelet = false → s.me.ld + s.me.st + s.me.tl + s.me.cp ≠ 0 → exec .home s = .next s) ∧
    (s.me.guest = true → s.me.codelet = false → s.me.ld = 0 → s.me.st = 0 → s.me.tl = 0 → s.me.cp = 0 → s.isUnreachable s.here s.me.originPkg = false →
      s.canInject s.here (s.carriers s.rights.ctx s.here (.pkg s.me.originPkg)) = true → ∃ t, exec .home s = .next t ∧ t.me.phase = .parked ∧ t.mem = s.mem ∧
      Sends s t [(.pkg s.me.originPkg, .homeAsk s.me.originCore)])) ∧
  (∀ (s : State) m x addr p, s.performable m = some x → x.src = .pkg p → x.body = .migrateAsk addr →
    let r : Rights := { ctx := x.ctx, sup := x.sup }
    let s1 := migrationHeat r addr s
    (migrationHome r addr s = none → exec (.migrationRequest m) s = .next (answerAbroad x 0x0F [] s1)) ∧
    (∀ c, migrationHome r addr s = some c →
      (∀ n base, [60, 61, 62].find? (fun n => (s.slot (c * 64 + n)).phase == .free) = some n → s.freeWindow c 16 = some base → exec (.migrationRequest m) s =
        .next (answerAbroad x 0 [0, BitVec.ofNat 64 c, BitVec.ofNat 64 n] (s1.setSlot (c * 64 + n)
          { phase := .reserved, base := base, limit := 16, ctx := x.ctx, lastIssue := (s.slot (c * 64 + n)).lastIssue, seq := (s.slot (c * 64 + n)).seq }))) ∧
      ([60, 61, 62].find? (fun n => (s.slot (c * 64 + n)).phase == .free) = none ∨ s.freeWindow c 16 = none →
        exec (.migrationRequest m) s = .next (answerAbroad x 0 [1, BitVec.ofNat 64 c, 0] s1)))) ∧
  (∀ (r : Rights) addr (s : State), (s.ctx r.ctx).state ≠ 1 → r.ctx ≠ 0 → migrationHome r addr s = none) ∧
  (∀ (r : Rights) addr (s : State), r.ctx = 0 ∨ (s.ctx r.ctx).state = 1 →
    (∀ k, s.resolve 0 r addr 1 = .error k → migrationHome r addr s = none) ∧
    (∀ c o, s.resolve 0 r addr 1 = .ok (.spad c o) → migrationHome r addr s = if s.isPager c = true ∨ s.isOffline c = true then none else some c) ∧
    (∀ va a b, s.resolve 0 r addr 1 = .ok (.bulk va) → s.walk r.ctx va = .fault a b → migrationHome r addr s = none) ∧
    ∀ va e a b, s.resolve 0 r addr 1 = .ok (.bulk va) → s.walk r.ctx va = .leaf e a b → let c := 32 * fld e 44 6 + fld e 39 5
      migrationHome r addr s = if bitAt e 5 = false ∨ s.isPager c = true ∨ s.isOffline c = true then none else some c) ∧
  (∀ (s : State) m x c p, s.performable m = some x → x.src = .pkg p → x.body = .homeAsk c →
    (∀ n base, (List.range 63).find? (fun n => (s.slot (c * 64 + n)).phase == .free) = some n → s.freeWindow c 16 = some base → exec (.migrationRequest m) s =
      .next (answerAbroad x 0 [0, BitVec.ofNat 64 c, BitVec.ofNat 64 n] (s.setSlot (c * 64 + n)
        { phase := .reserved, base := base, limit := 16, ctx := x.ctx, lastIssue := (s.slot (c * 64 + n)).lastIssue, seq := (s.slot (c * 64 + n)).seq }))) ∧
    ((List.range 63).find? (fun n => (s.slot (c * 64 + n)).phase == .free) = none ∨ s.freeWindow c 16 = none →
      exec (.migrationRequest m) s = .next (answerAbroad x 0 [1, BitVec.ofNat 64 c, 0] s))) ∧
  (∀ (s : State) m x outcome core slot addr home c, s.findMsg m = some x → s.response m = some x → x.dst = .core c → x.body = .migrateAnswer outcome core slot addr home → s.waitsFor x.uid m = true →
    outcome = 0x0F → exec (.migrationRequest m) s = .next ((s.dropMsg m).trapThread x.uid 0x0F addr)) ∧
  (∀ (s : State) u t p core slot home, s.findThread u = some t → (s.slot t).leaving = some (p, core, slot, home) → (s.slot t).notices = 0 → (s.slot t).departed = false →
    s.canInject (t / 64) (s.carriers (s.slot t).ctx (t / 64) (.pkg p)) = true → ∃ v, exec (.migrationDeparture u) s = .next v ∧ (v.slot t).phase = .draining ∧ (v.slot t).departed = true ∧ v.mem = s.mem ∧ (v.slot t).notices = (if home then 1 else 0) ∧
      Sends s v [(.pkg p, .migrant (threadRecord s t (s.slot t).pc (s.slot t).carried) (core * 64 + slot) home)]) ∧
  (∀ (s : State) m x (r : Record) slot home c, slot < 64 → s.arrived m = some x → x.body = .migrant r (c * 64 + slot) home → x.dst = .core c → (s.slot (c * 64 + slot)).phase = .reserved →
    let w (i : Nat) : Word := r.words.getD i 0
    let e := if home then Instr.homeArrive m else .migrationArrive m
    ∃ t, exec e s = .next t ∧ t.mem = s.mem ∧ let sl := t.slot (c * 64 + slot)
      sl.phase = .ready ∧ sl.pc = fld (w 0) 2 19 * 4 ∧ sl.mode = fld (w 1) 9 2 ∧ sl.ctx = fld (w 1) 0 9 ∧ sl.guest = !home ∧ sl.mig = true ∧ sl.flags = BitVec.ofNat 64 (fld (w 3) 0 14) &&& 0x3F03 ∧ sl.group = w 2 ∧
      sl.base = (s.slot (c * 64 + slot)).base ∧ sl.limit = 8 * (fld (w 3) 32 4 + 1) ∧
      (home = true → ∃ y ∈ t.net, y.id = x.id ∧ y.dst = x.src ∧ y.body = .fabricAnswer x.uid 0 []) ∧ ∀ v, 0 < v → v < 16 → v < 8 * (fld (w 3) 32 4 + 1) → t.reg (c * 64 + slot) v = w (8 + v) ∧
        t.regIsFull (c * 64 + slot) v = bitAt (w 7) v) ∧
  (∀ (s : State) i, s.ctxCmdDone = false →
    (s.ctxCmd = some (1, i) → (i = 0 ∨ (s.ctx i).state ≠ 0 → exec .ctxActivate s = .next (commandDone true s)) ∧
      (i ≠ 0 → (s.ctx i).state = 0 → ∃ t, exec .ctxActivate s = .next t ∧ (t.ctx i).state = 1 ∧ (t.ctx i).root = (s.tableWords (s.ctxBase + BitVec.ofNat 64 (64 * i)) 5).getD 1 0 ∧
        (t.ctx i).handler = (s.tableWords (s.ctxBase + BitVec.ofNat 64 (64 * i)) 5).getD 3 0 ∧ t.ctxCmdDone = true ∧ t.ctxCmdErr = s.ctxCmdErr ∧ (∀ c, ∀ e ∈ (t.coreRec c).tlb, e.ctx ≠ i) ∧ ∀ j, j ≠ i → t.ctx j = s.ctx j)) ∧
    (s.ctxCmd = some (2, i) → (i = 0 ∨ (s.ctx i).state = 0 → exec .ctxDrain s = .next (commandDone true s)) ∧
      (i ≠ 0 → (s.ctx i).state = 2 → exec .ctxDrain s = .next (commandDone false s)) ∧
      (i ≠ 0 → (s.ctx i).state = 1 → ∃ t, exec .ctxDrain s = .next t ∧ (t.ctx i).state = 2 ∧ t.ctxCmdDone = true ∧ t.ctxCmdErr = s.ctxCmdErr ∧ ∀ j, j ≠ i → t.ctx j = s.ctx j))) ∧
  (∀ (s : State) e, commandDone e s = { s with ctxCmdDone := true, ctxCmdErr := s.ctxCmdErr || e }) ∧
  (∀ s : State, s.ctxCmdDone = true → exec .ctxCommandComplete s = .next { s with ctxCmd := none, ctxCmdDone := false }) ∧
  (∀ (s : State) i, (s.ctx i).state = 2 → ctxIdle s i = true → ∃ t, exec (.contextFree i) s = .next t ∧ (t.ctx i).state = 0 ∧ ∀ b ∈ t.barriers, b.2.tag ≠ i) ∧
  ∀ (s : State) c, (s.coreIdle c = true → c < 1280 → exec (.clockGate c) s = .next (s.modCore c fun r => { r with gated := true })) ∧ (s.coreIdle c = false → exec (.clockGate c) s = .next s) ∧
    exec (.clockUngate c) s = .next (s.modCore c fun r => { r with gated := false })

namespace Sys2Proof.Claims

/-- A master reaches the package: the rack scheduler unless step 10 left its ports down (R397). -/
def Reaches (s : State) (m : Master) : Prop := m ≠ .rack ∨ s.dev.portsDown = false

/-- s with one more refused write (R388). -/
def Denied (s : State) : State := { s with dev := { s.dev with deny := (s.dev.deny + 1) % 65536 } }

/-- s with owner o and the next EPOCH (R389). -/
def OwnedBy (s : State) (o : Nat) : State := { s with dev := { s.dev with own := o, epoch := (s.dev.epoch + 1) % 65536 } }

/-- What a packet of 8 words from a master on a port is answered, and the state it leaves (R390). -/
def Submitted (s : State) (m : Master) (port : Nat) (pk : List Word) : Word × State :=
  if s.dev.startState = 1 then s.acceptPacket pk m.code port else (0xFFFFFFFFFFFFFFFD, s)

end Sys2Proof.Claims

/-- A claim is accepted with OWN 0 and a matching EPOCH, or with FORCE from the board controller; a hand over or a release from the
owner with a matching EPOCH; each makes the new OWN and EPOCH + 1, and everything else is counted in DENY. The owner's LQPUT and
management launch are answered by the rule of the launch queue, or 0xFFFF_FFFF_FFFF_FFFD while STATE is not 1, after a failed step too.
A read of NOTE or
BNOTE removes its oldest notice. The owner's write of a DBGSTOP word sets the bits of its 64 cores; PKGNUM is written by the
owner and the board controller. A start with no failure after a record that runs every step on its primary path counts NUM, ends
with STATE 1 and STEP 0, context 0 LIVE, slot 63 of every core parked in mode 2 and the pager firmware on the pager cores (what that
firmware sets is log entry 36, the model's choice); a failed step 1 ends with STATE 2. That a running device ignores a start is the
model's reading (log entry 35). Power-on keeps only the log and NUM. A fatal fault of cause 1 to 4 makes STATE 3, sets FATAL, keeps
OWNER, ends all work and every other context, and retires every kernel with DISC; that it keeps EPOCH, DENY, LQANS, PKGNUM and NUM too
is the model's reading (log entry 35), and so is the DISC of a launch not yet placed (log entry 52). A controller's timeout is cause 4,
a temperature trip cause 3. A reading is recorded while STATE is 1, ROD and LIFE only with a baseline, and WARN stays until the
record is read. (R388, R389, R390, R391, R392, R393, R394, R396, R397, R398, R400, R401) -/
def Obligations.DeviceIsOwnedStartedAndWatched : Prop :=
  (∀ (s : State) (m : Master) force epoch dst word (v : BitVec 64) off, Reaches s m → let due := epoch % 65536 = s.dev.epoch
    let mine := s.dev.own = m.code
    (force = true → m = .board → exec (.ownClaim m force epoch) s = .next (OwnedBy s 3)) ∧
    (force = true → m ≠ .board → exec (.ownClaim m force epoch) s = .next (Denied s)) ∧
    (force = false → s.dev.own = 0 → due → exec (.ownClaim m force epoch) s = .next (OwnedBy s m.code)) ∧
    (force = false → (s.dev.own ≠ 0 ∨ ¬due) → exec (.ownClaim m force epoch) s = .next (Denied s)) ∧
    (mine → due → 1 ≤ dst → dst ≤ 3 → exec (.ownHandOver m dst epoch) s = .next (OwnedBy s dst)) ∧
    (¬mine ∨ ¬due ∨ dst = 0 → exec (.ownHandOver m dst epoch) s = .next (Denied s)) ∧
    (mine → due → exec (.ownRelease m epoch) s = .next (OwnedBy s 0)) ∧ (¬mine ∨ ¬due → exec (.ownRelease m epoch) s = .next (Denied s)) ∧
    (mine → let r := Submitted s m 0 s.dev.lqBuf
      exec (.lqputGo m) s = .next { r.2 with dev := { r.2.dev with lqAns := r.1 } }) ∧
    (mine → word < 20 → ∃ t, exec (.dbgstopWrite m word v) s = .next t ∧ (∀ b, b < 64 → Store.get false t.dev.stopped (64 * word + b) = v.getLsbD b) ∧
      (∀ c, c / 64 ≠ word → Store.get false t.dev.stopped c = Store.get false s.dev.stopped c) ∧ t.slots = s.slots ∧ t.mem = s.mem) ∧
    (¬mine → exec (.lqputGo m) s = .next (Denied s) ∧ exec (.dbgstopWrite m word v) s = .next (Denied s) ∧
      (off ≠ 0x010 → off ≠ 0x040 ∨ m ≠ .board → exec (.registerWrite m off v) s = .next (Denied s))) ∧
    (mine ∨ m = .board → exec (.registerWrite m 0x040 v) s = .next { s with dev := { s.dev with pkgReg := fld v 0 6, pkgValid := v.getLsbD 8 } }) ∧
    (mine → ∀ i, i < 8 → exec (.registerWrite m (0x100 + 8 * i) v) s = .next { s with dev := { s.dev with lqBuf := s.dev.lqBuf.set i v } })) ∧
  (∀ (s : State) port (pk : BitVec 512), s.dev.portsDown = false →
    (s.dev.own = 2 → let r := Submitted s .rack port ((List.range 8).map fun i => pk.extractLsb' (64 * i) 64)
      exec (.managementLaunch port pk) s = .next { r.2 with signals := r.2.signals ++ [(3, port, [r.1])] }) ∧
    (s.dev.own ≠ 2 → exec (.managementLaunch port pk) s = .next (Denied s))) ∧
  (∀ s : State, exec .noteRead s = .next { s with notes := s.notes.tail } ∧ exec .bnoteRead s = .next { s with bnotes := s.bnotes.tail }) ∧
  (∀ (s : State) (o : StartOutcome), (s.dev.startState = 1 → exec (.startSequence o) s = .next s) ∧
    (s.dev.startState ≠ 1 → (Store.get {} s.dev.log (s.dev.startNum % 32)).results = 0 → o.faulty = [] → o.engineFaulty = [] →
      (o.fails = [] → ∃ t, exec (.startSequence o) s = .next t ∧ t.dev.startState = 1 ∧ t.dev.startStep = 0 ∧ t.dev.startNum = (s.dev.startNum + 1) % 2 ^ 32 ∧ t.dev.baseline = true ∧ t.dev.portsDown = false ∧
        t.inPod = s.dev.pkgValid ∧ t.pkgNum = (if s.dev.pkgValid then s.dev.pkgReg else 0) ∧ (t.ctx 0).state = 1 ∧
        (∀ c, c < 1280 → let sl := t.slot (c * 64 + 63)
          sl.phase = .parked ∧ sl.park = .mailbox ∧ sl.mode = 2) ∧ (o.firmware.words = [] → t.mem = s.mem) ∧
        ∀ c, c < 1280 → t.isPager c = true → (t.coreRec c).pageVec = o.firmware.pageVec % 2 ^ 21 ∧ (o.firmware.offset + 8 * o.firmware.words.length ≤ 0x180000 →
          ∀ j, j < o.firmware.words.length → t.mem.readN (c * 0x200000 + o.firmware.offset + 8 * j) 8 = (o.firmware.words.getD j 0).toNat)) ∧
      (o.fails = [1] → ∃ t, exec (.startSequence o) s = .next t ∧ t.dev.startState = 2 ∧ t.dev.startStep = 1 ∧ t.dev.startNum = (s.dev.startNum + 1) % 2 ^ 32 ∧ t.dev.portsDown = false ∧
        (∀ c ∈ s.offline, (t.coreRec c).cycle = 0) ∧ t.slots = s.slots ∧ t.mem = s.mem))) ∧
  (∀ s : State, ∃ t, exec .powerOn s = .next t ∧ t.slots = [] ∧ t.regs = [] ∧ t.net = [] ∧ t.kernels = [] ∧ t.ctxs = State.reset.ctxs ∧ t.dev = { log := s.dev.log, startNum := s.dev.startNum }) ∧
  (∀ (s : State) k, 1 ≤ k → k ≤ 4 → ∃ t, exec (.deviceFatal k) s = .next t ∧ t.dev.startState = 3 ∧ t.dev.fatalCause = k ∧ t.dev.fatalCount = (s.dev.fatalCount + 1) % 65536 ∧ t.dev.own = s.dev.own ∧
    t.dev.epoch = s.dev.epoch ∧ t.dev.deny = s.dev.deny ∧ t.dev.lqAns = s.dev.lqAns ∧ t.dev.pkgReg = s.dev.pkgReg ∧ t.dev.pkgValid = s.dev.pkgValid ∧ t.dev.startNum = s.dev.startNum ∧ t.slots = [] ∧ t.net = [] ∧ t.spills = [] ∧
    (∀ i, i ≠ 0 → (t.ctx i).state = 0) ∧ ∀ i, (s.kernelRec i).state ≠ 0 → (s.kernelRec i).state ≠ 5 → (t.kernelRec i).state = 5 ∧ bitAt (t.kernelRec i).status 61 = true) ∧
  (∀ (s : State) d, d < 4 → exec (.launchControllerTimeout d) s = exec (.deviceFatal 4) s ∧ exec (.temperatureTrip d) s = exec (.deviceFatal 3) s) ∧
  ∀ (s : State) d (x : Reading), d < 4 → (s.dev.startState ≠ 1 → exec (.healthUpdate d x) s = .next s) ∧
    (s.dev.startState = 1 → ∃ t, exec (.healthUpdate d x) s = .next t ∧ t.mem = s.mem ∧ (∀ e, e ≠ d → Store.get {} t.dev.health e = Store.get {} s.dev.health e) ∧ let h := Store.get {} t.dev.health d
      h.rod = (if s.dev.baseline then x.rod % 65536 else 0) ∧ h.sramm = x.sramm % 65536 ∧ h.eye = x.eye % 65536 ∧ h.refr = x.refr % 65536 ∧ h.temp = x.temp % 65536 ∧
      h.life = (if s.dev.baseline then x.life % 65536 else 0xFFFF) ∧ h.warn = ((Store.get {} s.dev.health d).warn || decide (950 < x.temp % 65536))) ∧
    ∃ t, exec (.healthRecordRead d) s = .next t ∧ Store.get {} t.dev.health d = { Store.get {} s.dev.health d with warn := false } ∧ t.mem = s.mem ∧
      ∀ e, e ≠ d → Store.get {} t.dev.health e = Store.get {} s.dev.health e
end

