-- ==== Sys2Proof/Laws/Store.lean ====
section
/-! SUPPORT. Sparse data: read after write, and the canonical form that every write keeps. -/
namespace Sys2Proof.Machine

/-! ## Read after write -/

theorem Store.get_erase_self {α : Type} (d : α) (s : Store α) (i : Nat) : Store.get d (Store.erase i s) i = d := by
  induction s with
  | nil => rfl
  | cons e r ih =>
    obtain ⟨k, v⟩ := e
    by_cases h : k = i <;> simp [Store.erase, Store.get, h, ih]

theorem Store.get_erase_ne {α : Type} (d : α) (s : Store α) {i j : Nat} (h : j ≠ i) :
    Store.get d (Store.erase i s) j = Store.get d s j := by
  induction s with
  | nil => rfl
  | cons e r ih =>
    obtain ⟨k, v⟩ := e
    by_cases hk : k = i
    · subst hk; simp [Store.erase, Store.get, Ne.symm h, ih]
    · simp [Store.erase, Store.get, hk, ih]

theorem Store.get_insert_self {α : Type} (d : α) (s : Store α) (i : Nat) (v : α) (h : ∀ k ∈ s.keys, k ≠ i) :
    Store.get d (Store.insert i v s) i = v := by
  induction s with
  | nil => simp [Store.insert, Store.get]
  | cons e r ih =>
    obtain ⟨k, w⟩ := e
    have hk : k ≠ i := h k (by simp [Store.keys])
    have hr : ∀ k ∈ Store.keys r, k ≠ i := fun k hm => h k (by simp [Store.keys] at hm ⊢; exact .inr hm)
    by_cases hlt : i < k
    · simp [Store.insert, hlt, Store.get]
    · simp [Store.insert, hlt, Store.get, hk, ih hr]

theorem Store.get_insert_ne {α : Type} (d : α) (s : Store α) (v : α) {i j : Nat} (h : j ≠ i) :
    Store.get d (Store.insert i v s) j = Store.get d s j := by
  induction s with
  | nil => simp [Store.insert, Store.get, Ne.symm h]
  | cons e r ih =>
    obtain ⟨k, w⟩ := e
    by_cases hlt : i < k
    · simp [Store.insert, hlt, Store.get, Ne.symm h]
    · simp [Store.insert, hlt, Store.get, ih]

theorem Store.keys_erase {α : Type} (s : Store α) (i : Nat) : ∀ k ∈ (Store.erase i s).keys, k ≠ i := by
  induction s with
  | nil => simp [Store.erase, Store.keys]
  | cons e r ih =>
    obtain ⟨k, v⟩ := e
    by_cases hk : k = i
    · simpa [Store.erase, hk] using ih
    · intro j hj
      simp only [Store.erase, hk, if_false, Store.keys, List.map_cons, List.mem_cons] at hj
      rcases hj with rfl | hj
      · exact hk
      · exact ih j hj

@[simp] theorem Store.get_set_self {α : Type} [DecidableEq α] (d : α) (s : Store α) (i : Nat) (v : α) :
    Store.get d (Store.set d s i v) i = v := by
  by_cases h : v = d
  · simp [Store.set, h, Store.get_erase_self]
  · simp only [Store.set, h, if_false]
    exact Store.get_insert_self d _ i v (Store.keys_erase s i)

theorem Store.get_set_ne {α : Type} [DecidableEq α] (d : α) (s : Store α) (v : α) {i j : Nat} (h : j ≠ i) :
    Store.get d (Store.set d s i v) j = Store.get d s j := by
  by_cases hv : v = d
  · simp [Store.set, hv, Store.get_erase_ne d s h]
  · simp [Store.set, hv, Store.get_insert_ne d _ v h, Store.get_erase_ne d s h]

theorem Store.get_set {α : Type} [DecidableEq α] (d : α) (s : Store α) (v : α) (i j : Nat) :
    Store.get d (Store.set d s i v) j = if j = i then v else Store.get d s j := by
  by_cases h : j = i
  · subst h; simp
  · simp [h, Store.get_set_ne d s v h]

@[simp] theorem Store.get_nil {α : Type} (d : α) (i : Nat) : Store.get d [] i = d := rfl

/-- A change of every entry that keeps the numbers and the default. -/
theorem Store.get_map {α : Type} (d : α) (s : Store α) (f : Nat × α → Nat × α) (i : Nat) (hk : ∀ e, (f e).1 = e.1)
    (hd : (f (i, d)).2 = d) : Store.get d (s.map f) i = (f (i, Store.get d s i)).2 := by
  induction s with
  | nil => exact hd.symm
  | cons e r ih =>
    obtain ⟨k, v⟩ := e
    have h1 : f (k, v) = (k, (f (k, v)).2) := Prod.ext (hk _) rfl
    rw [List.map_cons, h1]
    by_cases h : k = i
    · subst h; simp [Store.get]
    · simp [Store.get, h, ih]

/-! ## The canonical form -/

theorem Store.wfFrom_mono {α : Type} [DecidableEq α] {d : α} {s : Store α} {lo hi : Nat} (h : lo ≤ hi)
    (hw : Store.wfFrom d hi s = true) : Store.wfFrom d lo s = true := by
  cases s with
  | nil => rfl
  | cons e r =>
    obtain ⟨k, v⟩ := e
    simp only [Store.wfFrom, Bool.and_eq_true, decide_eq_true_eq] at hw ⊢
    exact ⟨⟨Nat.le_trans h hw.1.1, hw.1.2⟩, hw.2⟩

theorem Store.wfFrom_erase {α : Type} [DecidableEq α] {d : α} (i : Nat) : ∀ {s : Store α} {lo : Nat},
    Store.wfFrom d lo s = true → Store.wfFrom d lo (Store.erase i s) = true
  | [], _, _ => rfl
  | (k, v) :: r, lo, h => by
    simp only [Store.wfFrom, Bool.and_eq_true, decide_eq_true_eq] at h
    have ih := Store.wfFrom_erase i (s := r) h.2
    by_cases hk : k = i
    · simpa [Store.erase, hk] using Store.wfFrom_mono (Nat.le_succ_of_le h.1.1) ih
    · simp [Store.erase, hk, Store.wfFrom, h.1.1, h.1.2, ih]

theorem Store.wfFrom_insert {α : Type} [DecidableEq α] {d : α} (i : Nat) {v : α} (hv : v ≠ d) : ∀ {s : Store α} {lo : Nat},
    lo ≤ i → (∀ k ∈ s.keys, k ≠ i) → Store.wfFrom d lo s = true → Store.wfFrom d lo (Store.insert i v s) = true
  | [], lo, hl, _, _ => by simp [Store.insert, Store.wfFrom, hl, hv]
  | (k, w) :: r, lo, hl, hk, h => by
    simp only [Store.wfFrom, Bool.and_eq_true, decide_eq_true_eq] at h
    have hki : k ≠ i := hk k (by simp [Store.keys])
    by_cases hlt : i < k
    · simp [Store.insert, hlt, Store.wfFrom, hl, hv, h.1.2, h.2, Nat.succ_le_of_lt hlt]
    · have hr : ∀ k ∈ Store.keys r, k ≠ i := fun k hm => hk k (by simp [Store.keys] at hm ⊢; exact .inr hm)
      simp [Store.insert, hlt, Store.wfFrom, h.1.1, h.1.2, Store.wfFrom_insert i hv (by omega) hr h.2]

/-- Every write keeps the canonical form. -/
theorem Store.wf_set {α : Type} [DecidableEq α] {d : α} {s : Store α} (i : Nat) (v : α) (h : s.wf d = true) :
    (Store.set d s i v).wf d = true := by
  by_cases hv : v = d
  · simpa [Store.set, hv, Store.wf] using Store.wfFrom_erase i h
  · simpa [Store.set, hv, Store.wf] using
      Store.wfFrom_insert i hv (Nat.zero_le i) (Store.keys_erase s i) (Store.wfFrom_erase i h)

/-! ## Memory -/

@[simp] theorem Memory.byte_put_self (m : Memory) (a : Nat) (v : Byte) : (m.put a v).byte a = v := Store.get_set_self _ m a v

theorem Memory.byte_put_ne (m : Memory) (v : Byte) {a b : Nat} (h : b ≠ a) : (m.put a v).byte b = m.byte b :=
  Store.get_set_ne _ m v h

theorem Memory.wf_put {m : Memory} (a : Nat) (v : Byte) (h : m.wf = true) : (m.put a v).wf = true := Store.wf_set a v h

/-- A write of n bytes keeps the canonical form. -/
theorem Memory.wf_writeN {m : Memory} (a n v : Nat) (h : m.wf = true) : (m.writeN a n v).wf = true := by
  induction n generalizing m a v with
  | zero => exact h
  | succ n ih => exact ih (a + 1) (v / 256) (Memory.wf_put a _ h)

/-- A write of n bytes changes no byte outside them. -/
theorem Memory.byte_writeN_outside (m : Memory) (a n v b : Nat) (h : b < a ∨ a + n ≤ b) : (m.writeN a n v).byte b = m.byte b := by
  induction n generalizing m a v with
  | zero => rfl
  | succ n ih => rw [Memory.writeN, ih _ _ _ (by omega), Memory.byte_put_ne _ _ (by omega)]

/-- Byte k of the n written from a is byte k of the value, little-endian (R3). -/
theorem Memory.byte_writeN_inside (m : Memory) (a n v k : Nat) (h : k < n) :
    (m.writeN a n v).byte (a + k) = BitVec.ofNat 8 (v / 256 ^ k) := by
  induction n generalizing m a v k with
  | zero => omega
  | succ n ih =>
    rw [Memory.writeN]
    cases k with
    | zero => rw [Memory.byte_writeN_outside _ _ _ _ _ (by omega)]; simp
    | succ k =>
      have := ih (m.put a (BitVec.ofNat 8 v)) (a + 1) (v / 256) k (by omega)
      rw [show a + (k + 1) = a + 1 + k by omega, this, Nat.div_div_eq_div_mul, Nat.pow_succ, Nat.mul_comm]

/-- Reading depends on the bytes read alone. -/
theorem Memory.readN_congr (m m' : Memory) (a n : Nat) (h : ∀ k, k < n → m.byte (a + k) = m'.byte (a + k)) :
    m.readN a n = m'.readN a n := by
  induction n generalizing a with
  | zero => rfl
  | succ n ih =>
    have h0 := h 0 (by omega)
    rw [Nat.add_zero] at h0
    rw [Memory.readN, Memory.readN, h0,
      ih (a + 1) (fun k hk => by rw [show a + 1 + k = a + (k + 1) by omega]; exact h (k + 1) (by omega))]

/-- Reading what was written. -/
theorem Memory.readN_writeN_self (m : Memory) (a n v : Nat) : (m.writeN a n v).readN a n = v % 256 ^ n := by
  induction n generalizing m a v with
  | zero => simp [Memory.readN, Nat.mod_one]
  | succ n ih =>
    rw [Memory.readN, show (m.writeN a (n + 1) v).readN (a + 1) n = v / 256 % 256 ^ n from ih _ _ _,
      show (m.writeN a (n + 1) v).byte a = BitVec.ofNat 8 v by
        have := Memory.byte_writeN_inside m a (n + 1) v 0 (by omega); simpa using this]
    rw [BitVec.toNat_ofNat, show 256 ^ (n + 1) = 256 * 256 ^ n by rw [Nat.pow_add_one, Nat.mul_comm], Nat.mod_mul]

/-- Reading beside what was written. -/
theorem Memory.readN_writeN_disjoint (m : Memory) (a n v b k : Nat) (h : b + k ≤ a ∨ a + n ≤ b) :
    (m.writeN a n v).readN b k = m.readN b k :=
  Memory.readN_congr _ _ _ _ fun j hj => Memory.byte_writeN_outside m a n v (b + j) (by omega)

theorem Memory.readN_lt (m : Memory) (a n : Nat) : m.readN a n < 256 ^ n := by
  induction n generalizing a with
  | zero => simp [Memory.readN]
  | succ n ih =>
    have h1 := ih (a + 1)
    have h2 := (m.byte a).isLt
    rw [Memory.readN, Nat.pow_succ, Nat.mul_comm]
    omega

/-- The empty list is canonical. -/
theorem Memory.wf_nil : Memory.wf [] = true := rfl

end Sys2Proof.Machine
end

