-- ==== Sys2Proof/Laws/State.lean ====
section
/-! SUPPORT. What the plain updates of State leave: one lemma for each field and update, true by rfl, so that no proof unfolds a record
update. Generated from the fields of State. -/
namespace Sys2Proof.Machine

open State

/-! ### setSlot -/

@[simp] theorem State.setSlot_agenda (s : State) (t : Nat) (v : Slot) : (s.setSlot t v).agenda = s.agenda := rfl
@[simp] theorem State.setSlot_core (s : State) (t : Nat) (v : Slot) : (s.setSlot t v).core = s.core := rfl
@[simp] theorem State.setSlot_cur (s : State) (t : Nat) (v : Slot) : (s.setSlot t v).cur = s.cur := rfl
@[simp] theorem State.setSlot_fresh (s : State) (t : Nat) (v : Slot) : (s.setSlot t v).fresh = s.fresh := rfl
@[simp] theorem State.setSlot_nextId (s : State) (t : Nat) (v : Slot) : (s.setSlot t v).nextId = s.nextId := rfl
@[simp] theorem State.setSlot_mem (s : State) (t : Nat) (v : Slot) : (s.setSlot t v).mem = s.mem := rfl
@[simp] theorem State.setSlot_memFull (s : State) (t : Nat) (v : Slot) : (s.setSlot t v).memFull = s.memFull := rfl
@[simp] theorem State.setSlot_dirty (s : State) (t : Nat) (v : Slot) : (s.setSlot t v).dirty = s.dirty := rfl
@[simp] theorem State.setSlot_regs (s : State) (t : Nat) (v : Slot) : (s.setSlot t v).regs = s.regs := rfl
@[simp] theorem State.setSlot_regFull (s : State) (t : Nat) (v : Slot) : (s.setSlot t v).regFull = s.regFull := rfl
@[simp] theorem State.setSlot_evicted (s : State) (t : Nat) (v : Slot) : (s.setSlot t v).evicted = s.evicted := rfl
@[simp] theorem State.setSlot_spills (s : State) (t : Nat) (v : Slot) : (s.setSlot t v).spills = s.spills := rfl
@[simp] theorem State.setSlot_cores (s : State) (t : Nat) (v : Slot) : (s.setSlot t v).cores = s.cores := rfl
@[simp] theorem State.setSlot_names (s : State) (t : Nat) (v : Slot) : (s.setSlot t v).names = s.names := rfl
@[simp] theorem State.setSlot_heat (s : State) (t : Nat) (v : Slot) : (s.setSlot t v).heat = s.heat := rfl
@[simp] theorem State.setSlot_net (s : State) (t : Nat) (v : Slot) : (s.setSlot t v).net = s.net := rfl
@[simp] theorem State.setSlot_credits (s : State) (t : Nat) (v : Slot) : (s.setSlot t v).credits = s.credits := rfl
@[simp] theorem State.setSlot_chanEntries (s : State) (t : Nat) (v : Slot) : (s.setSlot t v).chanEntries = s.chanEntries := rfl
@[simp] theorem State.setSlot_outstanding (s : State) (t : Nat) (v : Slot) : (s.setSlot t v).outstanding = s.outstanding := rfl
@[simp] theorem State.setSlot_unreachable (s : State) (t : Nat) (v : Slot) : (s.setSlot t v).unreachable = s.unreachable := rfl
@[simp] theorem State.setSlot_dieFrame (s : State) (t : Nat) (v : Slot) : (s.setSlot t v).dieFrame = s.dieFrame := rfl
@[simp] theorem State.setSlot_waveAt (s : State) (t : Nat) (v : Slot) : (s.setSlot t v).waveAt = s.waveAt := rfl
@[simp] theorem State.setSlot_pkgNum (s : State) (t : Nat) (v : Slot) : (s.setSlot t v).pkgNum = s.pkgNum := rfl
@[simp] theorem State.setSlot_offline (s : State) (t : Nat) (v : Slot) : (s.setSlot t v).offline = s.offline := rfl
@[simp] theorem State.setSlot_pagers (s : State) (t : Nat) (v : Slot) : (s.setSlot t v).pagers = s.pagers := rfl
@[simp] theorem State.setSlot_ctxBase (s : State) (t : Nat) (v : Slot) : (s.setSlot t v).ctxBase = s.ctxBase := rfl
@[simp] theorem State.setSlot_partBase (s : State) (t : Nat) (v : Slot) : (s.setSlot t v).partBase = s.partBase := rfl
@[simp] theorem State.setSlot_netCfg (s : State) (t : Nat) (v : Slot) : (s.setSlot t v).netCfg = s.netCfg := rfl
@[simp] theorem State.setSlot_linkNote (s : State) (t : Nat) (v : Slot) : (s.setSlot t v).linkNote = s.linkNote := rfl
@[simp] theorem State.setSlot_ctxs (s : State) (t : Nat) (v : Slot) : (s.setSlot t v).ctxs = s.ctxs := rfl
@[simp] theorem State.setSlot_ctxCmdId (s : State) (t : Nat) (v : Slot) : (s.setSlot t v).ctxCmdId = s.ctxCmdId := rfl
@[simp] theorem State.setSlot_ctxCmd (s : State) (t : Nat) (v : Slot) : (s.setSlot t v).ctxCmd = s.ctxCmd := rfl
@[simp] theorem State.setSlot_ctxCmdErr (s : State) (t : Nat) (v : Slot) : (s.setSlot t v).ctxCmdErr = s.ctxCmdErr := rfl
@[simp] theorem State.setSlot_ctxCmdDone (s : State) (t : Nat) (v : Slot) : (s.setSlot t v).ctxCmdDone = s.ctxCmdDone := rfl
@[simp] theorem State.setSlot_barriers (s : State) (t : Nat) (v : Slot) : (s.setSlot t v).barriers = s.barriers := rfl
@[simp] theorem State.setSlot_barWaits (s : State) (t : Nat) (v : Slot) : (s.setSlot t v).barWaits = s.barWaits := rfl
@[simp] theorem State.setSlot_kernels (s : State) (t : Nat) (v : Slot) : (s.setSlot t v).kernels = s.kernels := rfl
@[simp] theorem State.setSlot_launchQueue (s : State) (t : Nat) (v : Slot) : (s.setSlot t v).launchQueue = s.launchQueue := rfl
@[simp] theorem State.setSlot_retired (s : State) (t : Nat) (v : Slot) : (s.setSlot t v).retired = s.retired := rfl
@[simp] theorem State.setSlot_kernelCores (s : State) (t : Nat) (v : Slot) : (s.setSlot t v).kernelCores = s.kernelCores := rfl
@[simp] theorem State.setSlot_inPod (s : State) (t : Nat) (v : Slot) : (s.setSlot t v).inPod = s.inPod := rfl
@[simp] theorem State.setSlot_links (s : State) (t : Nat) (v : Slot) : (s.setSlot t v).links = s.links := rfl
@[simp] theorem State.setSlot_flows (s : State) (t : Nat) (v : Slot) : (s.setSlot t v).flows = s.flows := rfl
@[simp] theorem State.setSlot_sent (s : State) (t : Nat) (v : Slot) : (s.setSlot t v).sent = s.sent := rfl
@[simp] theorem State.setSlot_accepted (s : State) (t : Nat) (v : Slot) : (s.setSlot t v).accepted = s.accepted := rfl
@[simp] theorem State.setSlot_partials (s : State) (t : Nat) (v : Slot) : (s.setSlot t v).partials = s.partials := rfl
@[simp] theorem State.setSlot_flowIn (s : State) (t : Nat) (v : Slot) : (s.setSlot t v).flowIn = s.flowIn := rfl
@[simp] theorem State.setSlot_flowOut (s : State) (t : Nat) (v : Slot) : (s.setSlot t v).flowOut = s.flowOut := rfl
@[simp] theorem State.setSlot_cellOut (s : State) (t : Nat) (v : Slot) : (s.setSlot t v).cellOut = s.cellOut := rfl
@[simp] theorem State.setSlot_packetOut (s : State) (t : Nat) (v : Slot) : (s.setSlot t v).packetOut = s.packetOut := rfl
@[simp] theorem State.setSlot_linkEvents (s : State) (t : Nat) (v : Slot) : (s.setSlot t v).linkEvents = s.linkEvents := rfl
@[simp] theorem State.setSlot_pageOps (s : State) (t : Nat) (v : Slot) : (s.setSlot t v).pageOps = s.pageOps := rfl
@[simp] theorem State.setSlot_domains (s : State) (t : Nat) (v : Slot) : (s.setSlot t v).domains = s.domains := rfl
@[simp] theorem State.setSlot_rdoms (s : State) (t : Nat) (v : Slot) : (s.setSlot t v).rdoms = s.rdoms := rfl
@[simp] theorem State.setSlot_notes (s : State) (t : Nat) (v : Slot) : (s.setSlot t v).notes = s.notes := rfl
@[simp] theorem State.setSlot_bnotes (s : State) (t : Nat) (v : Slot) : (s.setSlot t v).bnotes = s.bnotes := rfl
@[simp] theorem State.setSlot_noteLost (s : State) (t : Nat) (v : Slot) : (s.setSlot t v).noteLost = s.noteLost := rfl
@[simp] theorem State.setSlot_bnoteLost (s : State) (t : Nat) (v : Slot) : (s.setSlot t v).bnoteLost = s.bnoteLost := rfl
@[simp] theorem State.setSlot_dev (s : State) (t : Nat) (v : Slot) : (s.setSlot t v).dev = s.dev := rfl
@[simp] theorem State.setSlot_signals (s : State) (t : Nat) (v : Slot) : (s.setSlot t v).signals = s.signals := rfl

/-! ### setCore -/

@[simp] theorem State.setCore_agenda (s : State) (c : Nat) (v : CoreRec) : (s.setCore c v).agenda = s.agenda := rfl
@[simp] theorem State.setCore_core (s : State) (c : Nat) (v : CoreRec) : (s.setCore c v).core = s.core := rfl
@[simp] theorem State.setCore_cur (s : State) (c : Nat) (v : CoreRec) : (s.setCore c v).cur = s.cur := rfl
@[simp] theorem State.setCore_fresh (s : State) (c : Nat) (v : CoreRec) : (s.setCore c v).fresh = s.fresh := rfl
@[simp] theorem State.setCore_nextId (s : State) (c : Nat) (v : CoreRec) : (s.setCore c v).nextId = s.nextId := rfl
@[simp] theorem State.setCore_mem (s : State) (c : Nat) (v : CoreRec) : (s.setCore c v).mem = s.mem := rfl
@[simp] theorem State.setCore_memFull (s : State) (c : Nat) (v : CoreRec) : (s.setCore c v).memFull = s.memFull := rfl
@[simp] theorem State.setCore_dirty (s : State) (c : Nat) (v : CoreRec) : (s.setCore c v).dirty = s.dirty := rfl
@[simp] theorem State.setCore_regs (s : State) (c : Nat) (v : CoreRec) : (s.setCore c v).regs = s.regs := rfl
@[simp] theorem State.setCore_regFull (s : State) (c : Nat) (v : CoreRec) : (s.setCore c v).regFull = s.regFull := rfl
@[simp] theorem State.setCore_slots (s : State) (c : Nat) (v : CoreRec) : (s.setCore c v).slots = s.slots := rfl
@[simp] theorem State.setCore_evicted (s : State) (c : Nat) (v : CoreRec) : (s.setCore c v).evicted = s.evicted := rfl
@[simp] theorem State.setCore_spills (s : State) (c : Nat) (v : CoreRec) : (s.setCore c v).spills = s.spills := rfl
@[simp] theorem State.setCore_names (s : State) (c : Nat) (v : CoreRec) : (s.setCore c v).names = s.names := rfl
@[simp] theorem State.setCore_heat (s : State) (c : Nat) (v : CoreRec) : (s.setCore c v).heat = s.heat := rfl
@[simp] theorem State.setCore_net (s : State) (c : Nat) (v : CoreRec) : (s.setCore c v).net = s.net := rfl
@[simp] theorem State.setCore_credits (s : State) (c : Nat) (v : CoreRec) : (s.setCore c v).credits = s.credits := rfl
@[simp] theorem State.setCore_chanEntries (s : State) (c : Nat) (v : CoreRec) : (s.setCore c v).chanEntries = s.chanEntries := rfl
@[simp] theorem State.setCore_outstanding (s : State) (c : Nat) (v : CoreRec) : (s.setCore c v).outstanding = s.outstanding := rfl
@[simp] theorem State.setCore_unreachable (s : State) (c : Nat) (v : CoreRec) : (s.setCore c v).unreachable = s.unreachable := rfl
@[simp] theorem State.setCore_dieFrame (s : State) (c : Nat) (v : CoreRec) : (s.setCore c v).dieFrame = s.dieFrame := rfl
@[simp] theorem State.setCore_waveAt (s : State) (c : Nat) (v : CoreRec) : (s.setCore c v).waveAt = s.waveAt := rfl
@[simp] theorem State.setCore_pkgNum (s : State) (c : Nat) (v : CoreRec) : (s.setCore c v).pkgNum = s.pkgNum := rfl
@[simp] theorem State.setCore_offline (s : State) (c : Nat) (v : CoreRec) : (s.setCore c v).offline = s.offline := rfl
@[simp] theorem State.setCore_pagers (s : State) (c : Nat) (v : CoreRec) : (s.setCore c v).pagers = s.pagers := rfl
@[simp] theorem State.setCore_ctxBase (s : State) (c : Nat) (v : CoreRec) : (s.setCore c v).ctxBase = s.ctxBase := rfl
@[simp] theorem State.setCore_partBase (s : State) (c : Nat) (v : CoreRec) : (s.setCore c v).partBase = s.partBase := rfl
@[simp] theorem State.setCore_netCfg (s : State) (c : Nat) (v : CoreRec) : (s.setCore c v).netCfg = s.netCfg := rfl
@[simp] theorem State.setCore_linkNote (s : State) (c : Nat) (v : CoreRec) : (s.setCore c v).linkNote = s.linkNote := rfl
@[simp] theorem State.setCore_ctxs (s : State) (c : Nat) (v : CoreRec) : (s.setCore c v).ctxs = s.ctxs := rfl
@[simp] theorem State.setCore_ctxCmdId (s : State) (c : Nat) (v : CoreRec) : (s.setCore c v).ctxCmdId = s.ctxCmdId := rfl
@[simp] theorem State.setCore_ctxCmd (s : State) (c : Nat) (v : CoreRec) : (s.setCore c v).ctxCmd = s.ctxCmd := rfl
@[simp] theorem State.setCore_ctxCmdErr (s : State) (c : Nat) (v : CoreRec) : (s.setCore c v).ctxCmdErr = s.ctxCmdErr := rfl
@[simp] theorem State.setCore_ctxCmdDone (s : State) (c : Nat) (v : CoreRec) : (s.setCore c v).ctxCmdDone = s.ctxCmdDone := rfl
@[simp] theorem State.setCore_barriers (s : State) (c : Nat) (v : CoreRec) : (s.setCore c v).barriers = s.barriers := rfl
@[simp] theorem State.setCore_barWaits (s : State) (c : Nat) (v : CoreRec) : (s.setCore c v).barWaits = s.barWaits := rfl
@[simp] theorem State.setCore_kernels (s : State) (c : Nat) (v : CoreRec) : (s.setCore c v).kernels = s.kernels := rfl
@[simp] theorem State.setCore_launchQueue (s : State) (c : Nat) (v : CoreRec) : (s.setCore c v).launchQueue = s.launchQueue := rfl
@[simp] theorem State.setCore_retired (s : State) (c : Nat) (v : CoreRec) : (s.setCore c v).retired = s.retired := rfl
@[simp] theorem State.setCore_kernelCores (s : State) (c : Nat) (v : CoreRec) : (s.setCore c v).kernelCores = s.kernelCores := rfl
@[simp] theorem State.setCore_inPod (s : State) (c : Nat) (v : CoreRec) : (s.setCore c v).inPod = s.inPod := rfl
@[simp] theorem State.setCore_links (s : State) (c : Nat) (v : CoreRec) : (s.setCore c v).links = s.links := rfl
@[simp] theorem State.setCore_flows (s : State) (c : Nat) (v : CoreRec) : (s.setCore c v).flows = s.flows := rfl
@[simp] theorem State.setCore_sent (s : State) (c : Nat) (v : CoreRec) : (s.setCore c v).sent = s.sent := rfl
@[simp] theorem State.setCore_accepted (s : State) (c : Nat) (v : CoreRec) : (s.setCore c v).accepted = s.accepted := rfl
@[simp] theorem State.setCore_partials (s : State) (c : Nat) (v : CoreRec) : (s.setCore c v).partials = s.partials := rfl
@[simp] theorem State.setCore_flowIn (s : State) (c : Nat) (v : CoreRec) : (s.setCore c v).flowIn = s.flowIn := rfl
@[simp] theorem State.setCore_flowOut (s : State) (c : Nat) (v : CoreRec) : (s.setCore c v).flowOut = s.flowOut := rfl
@[simp] theorem State.setCore_cellOut (s : State) (c : Nat) (v : CoreRec) : (s.setCore c v).cellOut = s.cellOut := rfl
@[simp] theorem State.setCore_packetOut (s : State) (c : Nat) (v : CoreRec) : (s.setCore c v).packetOut = s.packetOut := rfl
@[simp] theorem State.setCore_linkEvents (s : State) (c : Nat) (v : CoreRec) : (s.setCore c v).linkEvents = s.linkEvents := rfl
@[simp] theorem State.setCore_pageOps (s : State) (c : Nat) (v : CoreRec) : (s.setCore c v).pageOps = s.pageOps := rfl
@[simp] theorem State.setCore_domains (s : State) (c : Nat) (v : CoreRec) : (s.setCore c v).domains = s.domains := rfl
@[simp] theorem State.setCore_rdoms (s : State) (c : Nat) (v : CoreRec) : (s.setCore c v).rdoms = s.rdoms := rfl
@[simp] theorem State.setCore_notes (s : State) (c : Nat) (v : CoreRec) : (s.setCore c v).notes = s.notes := rfl
@[simp] theorem State.setCore_bnotes (s : State) (c : Nat) (v : CoreRec) : (s.setCore c v).bnotes = s.bnotes := rfl
@[simp] theorem State.setCore_noteLost (s : State) (c : Nat) (v : CoreRec) : (s.setCore c v).noteLost = s.noteLost := rfl
@[simp] theorem State.setCore_bnoteLost (s : State) (c : Nat) (v : CoreRec) : (s.setCore c v).bnoteLost = s.bnoteLost := rfl
@[simp] theorem State.setCore_dev (s : State) (c : Nat) (v : CoreRec) : (s.setCore c v).dev = s.dev := rfl
@[simp] theorem State.setCore_signals (s : State) (c : Nat) (v : CoreRec) : (s.setCore c v).signals = s.signals := rfl

/-! ### modCtx -/

@[simp] theorem State.modCtx_agenda (s : State) (i : Nat) (f : CtxRec → CtxRec) : (s.modCtx i f).agenda = s.agenda := rfl
@[simp] theorem State.modCtx_core (s : State) (i : Nat) (f : CtxRec → CtxRec) : (s.modCtx i f).core = s.core := rfl
@[simp] theorem State.modCtx_cur (s : State) (i : Nat) (f : CtxRec → CtxRec) : (s.modCtx i f).cur = s.cur := rfl
@[simp] theorem State.modCtx_fresh (s : State) (i : Nat) (f : CtxRec → CtxRec) : (s.modCtx i f).fresh = s.fresh := rfl
@[simp] theorem State.modCtx_nextId (s : State) (i : Nat) (f : CtxRec → CtxRec) : (s.modCtx i f).nextId = s.nextId := rfl
@[simp] theorem State.modCtx_mem (s : State) (i : Nat) (f : CtxRec → CtxRec) : (s.modCtx i f).mem = s.mem := rfl
@[simp] theorem State.modCtx_memFull (s : State) (i : Nat) (f : CtxRec → CtxRec) : (s.modCtx i f).memFull = s.memFull := rfl
@[simp] theorem State.modCtx_dirty (s : State) (i : Nat) (f : CtxRec → CtxRec) : (s.modCtx i f).dirty = s.dirty := rfl
@[simp] theorem State.modCtx_regs (s : State) (i : Nat) (f : CtxRec → CtxRec) : (s.modCtx i f).regs = s.regs := rfl
@[simp] theorem State.modCtx_regFull (s : State) (i : Nat) (f : CtxRec → CtxRec) : (s.modCtx i f).regFull = s.regFull := rfl
@[simp] theorem State.modCtx_slots (s : State) (i : Nat) (f : CtxRec → CtxRec) : (s.modCtx i f).slots = s.slots := rfl
@[simp] theorem State.modCtx_evicted (s : State) (i : Nat) (f : CtxRec → CtxRec) : (s.modCtx i f).evicted = s.evicted := rfl
@[simp] theorem State.modCtx_spills (s : State) (i : Nat) (f : CtxRec → CtxRec) : (s.modCtx i f).spills = s.spills := rfl
@[simp] theorem State.modCtx_cores (s : State) (i : Nat) (f : CtxRec → CtxRec) : (s.modCtx i f).cores = s.cores := rfl
@[simp] theorem State.modCtx_names (s : State) (i : Nat) (f : CtxRec → CtxRec) : (s.modCtx i f).names = s.names := rfl
@[simp] theorem State.modCtx_heat (s : State) (i : Nat) (f : CtxRec → CtxRec) : (s.modCtx i f).heat = s.heat := rfl
@[simp] theorem State.modCtx_net (s : State) (i : Nat) (f : CtxRec → CtxRec) : (s.modCtx i f).net = s.net := rfl
@[simp] theorem State.modCtx_credits (s : State) (i : Nat) (f : CtxRec → CtxRec) : (s.modCtx i f).credits = s.credits := rfl
@[simp] theorem State.modCtx_chanEntries (s : State) (i : Nat) (f : CtxRec → CtxRec) : (s.modCtx i f).chanEntries = s.chanEntries := rfl
@[simp] theorem State.modCtx_outstanding (s : State) (i : Nat) (f : CtxRec → CtxRec) : (s.modCtx i f).outstanding = s.outstanding := rfl
@[simp] theorem State.modCtx_unreachable (s : State) (i : Nat) (f : CtxRec → CtxRec) : (s.modCtx i f).unreachable = s.unreachable := rfl
@[simp] theorem State.modCtx_dieFrame (s : State) (i : Nat) (f : CtxRec → CtxRec) : (s.modCtx i f).dieFrame = s.dieFrame := rfl
@[simp] theorem State.modCtx_waveAt (s : State) (i : Nat) (f : CtxRec → CtxRec) : (s.modCtx i f).waveAt = s.waveAt := rfl
@[simp] theorem State.modCtx_pkgNum (s : State) (i : Nat) (f : CtxRec → CtxRec) : (s.modCtx i f).pkgNum = s.pkgNum := rfl
@[simp] theorem State.modCtx_offline (s : State) (i : Nat) (f : CtxRec → CtxRec) : (s.modCtx i f).offline = s.offline := rfl
@[simp] theorem State.modCtx_pagers (s : State) (i : Nat) (f : CtxRec → CtxRec) : (s.modCtx i f).pagers = s.pagers := rfl
@[simp] theorem State.modCtx_ctxBase (s : State) (i : Nat) (f : CtxRec → CtxRec) : (s.modCtx i f).ctxBase = s.ctxBase := rfl
@[simp] theorem State.modCtx_partBase (s : State) (i : Nat) (f : CtxRec → CtxRec) : (s.modCtx i f).partBase = s.partBase := rfl
@[simp] theorem State.modCtx_netCfg (s : State) (i : Nat) (f : CtxRec → CtxRec) : (s.modCtx i f).netCfg = s.netCfg := rfl
@[simp] theorem State.modCtx_linkNote (s : State) (i : Nat) (f : CtxRec → CtxRec) : (s.modCtx i f).linkNote = s.linkNote := rfl
@[simp] theorem State.modCtx_ctxCmdId (s : State) (i : Nat) (f : CtxRec → CtxRec) : (s.modCtx i f).ctxCmdId = s.ctxCmdId := rfl
@[simp] theorem State.modCtx_ctxCmd (s : State) (i : Nat) (f : CtxRec → CtxRec) : (s.modCtx i f).ctxCmd = s.ctxCmd := rfl
@[simp] theorem State.modCtx_ctxCmdErr (s : State) (i : Nat) (f : CtxRec → CtxRec) : (s.modCtx i f).ctxCmdErr = s.ctxCmdErr := rfl
@[simp] theorem State.modCtx_ctxCmdDone (s : State) (i : Nat) (f : CtxRec → CtxRec) : (s.modCtx i f).ctxCmdDone = s.ctxCmdDone := rfl
@[simp] theorem State.modCtx_barriers (s : State) (i : Nat) (f : CtxRec → CtxRec) : (s.modCtx i f).barriers = s.barriers := rfl
@[simp] theorem State.modCtx_barWaits (s : State) (i : Nat) (f : CtxRec → CtxRec) : (s.modCtx i f).barWaits = s.barWaits := rfl
@[simp] theorem State.modCtx_kernels (s : State) (i : Nat) (f : CtxRec → CtxRec) : (s.modCtx i f).kernels = s.kernels := rfl
@[simp] theorem State.modCtx_launchQueue (s : State) (i : Nat) (f : CtxRec → CtxRec) : (s.modCtx i f).launchQueue = s.launchQueue := rfl
@[simp] theorem State.modCtx_retired (s : State) (i : Nat) (f : CtxRec → CtxRec) : (s.modCtx i f).retired = s.retired := rfl
@[simp] theorem State.modCtx_kernelCores (s : State) (i : Nat) (f : CtxRec → CtxRec) : (s.modCtx i f).kernelCores = s.kernelCores := rfl
@[simp] theorem State.modCtx_inPod (s : State) (i : Nat) (f : CtxRec → CtxRec) : (s.modCtx i f).inPod = s.inPod := rfl
@[simp] theorem State.modCtx_links (s : State) (i : Nat) (f : CtxRec → CtxRec) : (s.modCtx i f).links = s.links := rfl
@[simp] theorem State.modCtx_flows (s : State) (i : Nat) (f : CtxRec → CtxRec) : (s.modCtx i f).flows = s.flows := rfl
@[simp] theorem State.modCtx_sent (s : State) (i : Nat) (f : CtxRec → CtxRec) : (s.modCtx i f).sent = s.sent := rfl
@[simp] theorem State.modCtx_accepted (s : State) (i : Nat) (f : CtxRec → CtxRec) : (s.modCtx i f).accepted = s.accepted := rfl
@[simp] theorem State.modCtx_partials (s : State) (i : Nat) (f : CtxRec → CtxRec) : (s.modCtx i f).partials = s.partials := rfl
@[simp] theorem State.modCtx_flowIn (s : State) (i : Nat) (f : CtxRec → CtxRec) : (s.modCtx i f).flowIn = s.flowIn := rfl
@[simp] theorem State.modCtx_flowOut (s : State) (i : Nat) (f : CtxRec → CtxRec) : (s.modCtx i f).flowOut = s.flowOut := rfl
@[simp] theorem State.modCtx_cellOut (s : State) (i : Nat) (f : CtxRec → CtxRec) : (s.modCtx i f).cellOut = s.cellOut := rfl
@[simp] theorem State.modCtx_packetOut (s : State) (i : Nat) (f : CtxRec → CtxRec) : (s.modCtx i f).packetOut = s.packetOut := rfl
@[simp] theorem State.modCtx_linkEvents (s : State) (i : Nat) (f : CtxRec → CtxRec) : (s.modCtx i f).linkEvents = s.linkEvents := rfl
@[simp] theorem State.modCtx_pageOps (s : State) (i : Nat) (f : CtxRec → CtxRec) : (s.modCtx i f).pageOps = s.pageOps := rfl
@[simp] theorem State.modCtx_domains (s : State) (i : Nat) (f : CtxRec → CtxRec) : (s.modCtx i f).domains = s.domains := rfl
@[simp] theorem State.modCtx_rdoms (s : State) (i : Nat) (f : CtxRec → CtxRec) : (s.modCtx i f).rdoms = s.rdoms := rfl
@[simp] theorem State.modCtx_notes (s : State) (i : Nat) (f : CtxRec → CtxRec) : (s.modCtx i f).notes = s.notes := rfl
@[simp] theorem State.modCtx_bnotes (s : State) (i : Nat) (f : CtxRec → CtxRec) : (s.modCtx i f).bnotes = s.bnotes := rfl
@[simp] theorem State.modCtx_noteLost (s : State) (i : Nat) (f : CtxRec → CtxRec) : (s.modCtx i f).noteLost = s.noteLost := rfl
@[simp] theorem State.modCtx_bnoteLost (s : State) (i : Nat) (f : CtxRec → CtxRec) : (s.modCtx i f).bnoteLost = s.bnoteLost := rfl
@[simp] theorem State.modCtx_dev (s : State) (i : Nat) (f : CtxRec → CtxRec) : (s.modCtx i f).dev = s.dev := rfl
@[simp] theorem State.modCtx_signals (s : State) (i : Nat) (f : CtxRec → CtxRec) : (s.modCtx i f).signals = s.signals := rfl

/-! ### send -/

@[simp] theorem State.send_agenda (s : State) (m : Msg) : (s.send m).agenda = s.agenda := rfl
@[simp] theorem State.send_core (s : State) (m : Msg) : (s.send m).core = s.core := rfl
@[simp] theorem State.send_cur (s : State) (m : Msg) : (s.send m).cur = s.cur := rfl
@[simp] theorem State.send_fresh (s : State) (m : Msg) : (s.send m).fresh = s.fresh := rfl
@[simp] theorem State.send_mem (s : State) (m : Msg) : (s.send m).mem = s.mem := rfl
@[simp] theorem State.send_memFull (s : State) (m : Msg) : (s.send m).memFull = s.memFull := rfl
@[simp] theorem State.send_dirty (s : State) (m : Msg) : (s.send m).dirty = s.dirty := rfl
@[simp] theorem State.send_regs (s : State) (m : Msg) : (s.send m).regs = s.regs := rfl
@[simp] theorem State.send_regFull (s : State) (m : Msg) : (s.send m).regFull = s.regFull := rfl
@[simp] theorem State.send_slots (s : State) (m : Msg) : (s.send m).slots = s.slots := rfl
@[simp] theorem State.send_evicted (s : State) (m : Msg) : (s.send m).evicted = s.evicted := rfl
@[simp] theorem State.send_spills (s : State) (m : Msg) : (s.send m).spills = s.spills := rfl
@[simp] theorem State.send_cores (s : State) (m : Msg) : (s.send m).cores = s.cores := rfl
@[simp] theorem State.send_names (s : State) (m : Msg) : (s.send m).names = s.names := rfl
@[simp] theorem State.send_heat (s : State) (m : Msg) : (s.send m).heat = s.heat := rfl
@[simp] theorem State.send_credits (s : State) (m : Msg) : (s.send m).credits = s.credits := rfl
@[simp] theorem State.send_chanEntries (s : State) (m : Msg) : (s.send m).chanEntries = s.chanEntries := rfl
@[simp] theorem State.send_outstanding (s : State) (m : Msg) : (s.send m).outstanding = s.outstanding := rfl
@[simp] theorem State.send_unreachable (s : State) (m : Msg) : (s.send m).unreachable = s.unreachable := rfl
@[simp] theorem State.send_dieFrame (s : State) (m : Msg) : (s.send m).dieFrame = s.dieFrame := rfl
@[simp] theorem State.send_waveAt (s : State) (m : Msg) : (s.send m).waveAt = s.waveAt := rfl
@[simp] theorem State.send_pkgNum (s : State) (m : Msg) : (s.send m).pkgNum = s.pkgNum := rfl
@[simp] theorem State.send_offline (s : State) (m : Msg) : (s.send m).offline = s.offline := rfl
@[simp] theorem State.send_pagers (s : State) (m : Msg) : (s.send m).pagers = s.pagers := rfl
@[simp] theorem State.send_ctxBase (s : State) (m : Msg) : (s.send m).ctxBase = s.ctxBase := rfl
@[simp] theorem State.send_partBase (s : State) (m : Msg) : (s.send m).partBase = s.partBase := rfl
@[simp] theorem State.send_netCfg (s : State) (m : Msg) : (s.send m).netCfg = s.netCfg := rfl
@[simp] theorem State.send_linkNote (s : State) (m : Msg) : (s.send m).linkNote = s.linkNote := rfl
@[simp] theorem State.send_ctxs (s : State) (m : Msg) : (s.send m).ctxs = s.ctxs := rfl
@[simp] theorem State.send_ctxCmdId (s : State) (m : Msg) : (s.send m).ctxCmdId = s.ctxCmdId := rfl
@[simp] theorem State.send_ctxCmd (s : State) (m : Msg) : (s.send m).ctxCmd = s.ctxCmd := rfl
@[simp] theorem State.send_ctxCmdErr (s : State) (m : Msg) : (s.send m).ctxCmdErr = s.ctxCmdErr := rfl
@[simp] theorem State.send_ctxCmdDone (s : State) (m : Msg) : (s.send m).ctxCmdDone = s.ctxCmdDone := rfl
@[simp] theorem State.send_barriers (s : State) (m : Msg) : (s.send m).barriers = s.barriers := rfl
@[simp] theorem State.send_barWaits (s : State) (m : Msg) : (s.send m).barWaits = s.barWaits := rfl
@[simp] theorem State.send_kernels (s : State) (m : Msg) : (s.send m).kernels = s.kernels := rfl
@[simp] theorem State.send_launchQueue (s : State) (m : Msg) : (s.send m).launchQueue = s.launchQueue := rfl
@[simp] theorem State.send_retired (s : State) (m : Msg) : (s.send m).retired = s.retired := rfl
@[simp] theorem State.send_kernelCores (s : State) (m : Msg) : (s.send m).kernelCores = s.kernelCores := rfl
@[simp] theorem State.send_inPod (s : State) (m : Msg) : (s.send m).inPod = s.inPod := rfl
@[simp] theorem State.send_links (s : State) (m : Msg) : (s.send m).links = s.links := rfl
@[simp] theorem State.send_flows (s : State) (m : Msg) : (s.send m).flows = s.flows := rfl
@[simp] theorem State.send_sent (s : State) (m : Msg) : (s.send m).sent = s.sent := rfl
@[simp] theorem State.send_accepted (s : State) (m : Msg) : (s.send m).accepted = s.accepted := rfl
@[simp] theorem State.send_partials (s : State) (m : Msg) : (s.send m).partials = s.partials := rfl
@[simp] theorem State.send_flowIn (s : State) (m : Msg) : (s.send m).flowIn = s.flowIn := rfl
@[simp] theorem State.send_flowOut (s : State) (m : Msg) : (s.send m).flowOut = s.flowOut := rfl
@[simp] theorem State.send_cellOut (s : State) (m : Msg) : (s.send m).cellOut = s.cellOut := rfl
@[simp] theorem State.send_packetOut (s : State) (m : Msg) : (s.send m).packetOut = s.packetOut := rfl
@[simp] theorem State.send_linkEvents (s : State) (m : Msg) : (s.send m).linkEvents = s.linkEvents := rfl
@[simp] theorem State.send_pageOps (s : State) (m : Msg) : (s.send m).pageOps = s.pageOps := rfl
@[simp] theorem State.send_domains (s : State) (m : Msg) : (s.send m).domains = s.domains := rfl
@[simp] theorem State.send_rdoms (s : State) (m : Msg) : (s.send m).rdoms = s.rdoms := rfl
@[simp] theorem State.send_notes (s : State) (m : Msg) : (s.send m).notes = s.notes := rfl
@[simp] theorem State.send_bnotes (s : State) (m : Msg) : (s.send m).bnotes = s.bnotes := rfl
@[simp] theorem State.send_noteLost (s : State) (m : Msg) : (s.send m).noteLost = s.noteLost := rfl
@[simp] theorem State.send_bnoteLost (s : State) (m : Msg) : (s.send m).bnoteLost = s.bnoteLost := rfl
@[simp] theorem State.send_dev (s : State) (m : Msg) : (s.send m).dev = s.dev := rfl
@[simp] theorem State.send_signals (s : State) (m : Msg) : (s.send m).signals = s.signals := rfl

/-! ### sendAs -/

@[simp] theorem State.sendAs_agenda (s : State) (m : Msg) : (s.sendAs m).agenda = s.agenda := rfl
@[simp] theorem State.sendAs_core (s : State) (m : Msg) : (s.sendAs m).core = s.core := rfl
@[simp] theorem State.sendAs_cur (s : State) (m : Msg) : (s.sendAs m).cur = s.cur := rfl
@[simp] theorem State.sendAs_fresh (s : State) (m : Msg) : (s.sendAs m).fresh = s.fresh := rfl
@[simp] theorem State.sendAs_nextId (s : State) (m : Msg) : (s.sendAs m).nextId = s.nextId := rfl
@[simp] theorem State.sendAs_mem (s : State) (m : Msg) : (s.sendAs m).mem = s.mem := rfl
@[simp] theorem State.sendAs_memFull (s : State) (m : Msg) : (s.sendAs m).memFull = s.memFull := rfl
@[simp] theorem State.sendAs_dirty (s : State) (m : Msg) : (s.sendAs m).dirty = s.dirty := rfl
@[simp] theorem State.sendAs_regs (s : State) (m : Msg) : (s.sendAs m).regs = s.regs := rfl
@[simp] theorem State.sendAs_regFull (s : State) (m : Msg) : (s.sendAs m).regFull = s.regFull := rfl
@[simp] theorem State.sendAs_slots (s : State) (m : Msg) : (s.sendAs m).slots = s.slots := rfl
@[simp] theorem State.sendAs_evicted (s : State) (m : Msg) : (s.sendAs m).evicted = s.evicted := rfl
@[simp] theorem State.sendAs_spills (s : State) (m : Msg) : (s.sendAs m).spills = s.spills := rfl
@[simp] theorem State.sendAs_cores (s : State) (m : Msg) : (s.sendAs m).cores = s.cores := rfl
@[simp] theorem State.sendAs_names (s : State) (m : Msg) : (s.sendAs m).names = s.names := rfl
@[simp] theorem State.sendAs_heat (s : State) (m : Msg) : (s.sendAs m).heat = s.heat := rfl
@[simp] theorem State.sendAs_credits (s : State) (m : Msg) : (s.sendAs m).credits = s.credits := rfl
@[simp] theorem State.sendAs_chanEntries (s : State) (m : Msg) : (s.sendAs m).chanEntries = s.chanEntries := rfl
@[simp] theorem State.sendAs_outstanding (s : State) (m : Msg) : (s.sendAs m).outstanding = s.outstanding := rfl
@[simp] theorem State.sendAs_unreachable (s : State) (m : Msg) : (s.sendAs m).unreachable = s.unreachable := rfl
@[simp] theorem State.sendAs_dieFrame (s : State) (m : Msg) : (s.sendAs m).dieFrame = s.dieFrame := rfl
@[simp] theorem State.sendAs_waveAt (s : State) (m : Msg) : (s.sendAs m).waveAt = s.waveAt := rfl
@[simp] theorem State.sendAs_pkgNum (s : State) (m : Msg) : (s.sendAs m).pkgNum = s.pkgNum := rfl
@[simp] theorem State.sendAs_offline (s : State) (m : Msg) : (s.sendAs m).offline = s.offline := rfl
@[simp] theorem State.sendAs_pagers (s : State) (m : Msg) : (s.sendAs m).pagers = s.pagers := rfl
@[simp] theorem State.sendAs_ctxBase (s : State) (m : Msg) : (s.sendAs m).ctxBase = s.ctxBase := rfl
@[simp] theorem State.sendAs_partBase (s : State) (m : Msg) : (s.sendAs m).partBase = s.partBase := rfl
@[simp] theorem State.sendAs_netCfg (s : State) (m : Msg) : (s.sendAs m).netCfg = s.netCfg := rfl
@[simp] theorem State.sendAs_linkNote (s : State) (m : Msg) : (s.sendAs m).linkNote = s.linkNote := rfl
@[simp] theorem State.sendAs_ctxs (s : State) (m : Msg) : (s.sendAs m).ctxs = s.ctxs := rfl
@[simp] theorem State.sendAs_ctxCmdId (s : State) (m : Msg) : (s.sendAs m).ctxCmdId = s.ctxCmdId := rfl
@[simp] theorem State.sendAs_ctxCmd (s : State) (m : Msg) : (s.sendAs m).ctxCmd = s.ctxCmd := rfl
@[simp] theorem State.sendAs_ctxCmdErr (s : State) (m : Msg) : (s.sendAs m).ctxCmdErr = s.ctxCmdErr := rfl
@[simp] theorem State.sendAs_ctxCmdDone (s : State) (m : Msg) : (s.sendAs m).ctxCmdDone = s.ctxCmdDone := rfl
@[simp] theorem State.sendAs_barriers (s : State) (m : Msg) : (s.sendAs m).barriers = s.barriers := rfl
@[simp] theorem State.sendAs_barWaits (s : State) (m : Msg) : (s.sendAs m).barWaits = s.barWaits := rfl
@[simp] theorem State.sendAs_kernels (s : State) (m : Msg) : (s.sendAs m).kernels = s.kernels := rfl
@[simp] theorem State.sendAs_launchQueue (s : State) (m : Msg) : (s.sendAs m).launchQueue = s.launchQueue := rfl
@[simp] theorem State.sendAs_retired (s : State) (m : Msg) : (s.sendAs m).retired = s.retired := rfl
@[simp] theorem State.sendAs_kernelCores (s : State) (m : Msg) : (s.sendAs m).kernelCores = s.kernelCores := rfl
@[simp] theorem State.sendAs_inPod (s : State) (m : Msg) : (s.sendAs m).inPod = s.inPod := rfl
@[simp] theorem State.sendAs_links (s : State) (m : Msg) : (s.sendAs m).links = s.links := rfl
@[simp] theorem State.sendAs_flows (s : State) (m : Msg) : (s.sendAs m).flows = s.flows := rfl
@[simp] theorem State.sendAs_sent (s : State) (m : Msg) : (s.sendAs m).sent = s.sent := rfl
@[simp] theorem State.sendAs_accepted (s : State) (m : Msg) : (s.sendAs m).accepted = s.accepted := rfl
@[simp] theorem State.sendAs_partials (s : State) (m : Msg) : (s.sendAs m).partials = s.partials := rfl
@[simp] theorem State.sendAs_flowIn (s : State) (m : Msg) : (s.sendAs m).flowIn = s.flowIn := rfl
@[simp] theorem State.sendAs_flowOut (s : State) (m : Msg) : (s.sendAs m).flowOut = s.flowOut := rfl
@[simp] theorem State.sendAs_cellOut (s : State) (m : Msg) : (s.sendAs m).cellOut = s.cellOut := rfl
@[simp] theorem State.sendAs_packetOut (s : State) (m : Msg) : (s.sendAs m).packetOut = s.packetOut := rfl
@[simp] theorem State.sendAs_linkEvents (s : State) (m : Msg) : (s.sendAs m).linkEvents = s.linkEvents := rfl
@[simp] theorem State.sendAs_pageOps (s : State) (m : Msg) : (s.sendAs m).pageOps = s.pageOps := rfl
@[simp] theorem State.sendAs_domains (s : State) (m : Msg) : (s.sendAs m).domains = s.domains := rfl
@[simp] theorem State.sendAs_rdoms (s : State) (m : Msg) : (s.sendAs m).rdoms = s.rdoms := rfl
@[simp] theorem State.sendAs_notes (s : State) (m : Msg) : (s.sendAs m).notes = s.notes := rfl
@[simp] theorem State.sendAs_bnotes (s : State) (m : Msg) : (s.sendAs m).bnotes = s.bnotes := rfl
@[simp] theorem State.sendAs_noteLost (s : State) (m : Msg) : (s.sendAs m).noteLost = s.noteLost := rfl
@[simp] theorem State.sendAs_bnoteLost (s : State) (m : Msg) : (s.sendAs m).bnoteLost = s.bnoteLost := rfl
@[simp] theorem State.sendAs_dev (s : State) (m : Msg) : (s.sendAs m).dev = s.dev := rfl
@[simp] theorem State.sendAs_signals (s : State) (m : Msg) : (s.sendAs m).signals = s.signals := rfl

/-! ### dropMsg -/

@[simp] theorem State.dropMsg_agenda (s : State) (id : Nat) : (s.dropMsg id).agenda = s.agenda := rfl
@[simp] theorem State.dropMsg_core (s : State) (id : Nat) : (s.dropMsg id).core = s.core := rfl
@[simp] theorem State.dropMsg_cur (s : State) (id : Nat) : (s.dropMsg id).cur = s.cur := rfl
@[simp] theorem State.dropMsg_fresh (s : State) (id : Nat) : (s.dropMsg id).fresh = s.fresh := rfl
@[simp] theorem State.dropMsg_nextId (s : State) (id : Nat) : (s.dropMsg id).nextId = s.nextId := rfl
@[simp] theorem State.dropMsg_mem (s : State) (id : Nat) : (s.dropMsg id).mem = s.mem := rfl
@[simp] theorem State.dropMsg_memFull (s : State) (id : Nat) : (s.dropMsg id).memFull = s.memFull := rfl
@[simp] theorem State.dropMsg_dirty (s : State) (id : Nat) : (s.dropMsg id).dirty = s.dirty := rfl
@[simp] theorem State.dropMsg_regs (s : State) (id : Nat) : (s.dropMsg id).regs = s.regs := rfl
@[simp] theorem State.dropMsg_regFull (s : State) (id : Nat) : (s.dropMsg id).regFull = s.regFull := rfl
@[simp] theorem State.dropMsg_slots (s : State) (id : Nat) : (s.dropMsg id).slots = s.slots := rfl
@[simp] theorem State.dropMsg_evicted (s : State) (id : Nat) : (s.dropMsg id).evicted = s.evicted := rfl
@[simp] theorem State.dropMsg_spills (s : State) (id : Nat) : (s.dropMsg id).spills = s.spills := rfl
@[simp] theorem State.dropMsg_names (s : State) (id : Nat) : (s.dropMsg id).names = s.names := rfl
@[simp] theorem State.dropMsg_heat (s : State) (id : Nat) : (s.dropMsg id).heat = s.heat := rfl
@[simp] theorem State.dropMsg_credits (s : State) (id : Nat) : (s.dropMsg id).credits = s.credits := rfl
@[simp] theorem State.dropMsg_chanEntries (s : State) (id : Nat) : (s.dropMsg id).chanEntries = s.chanEntries := rfl
@[simp] theorem State.dropMsg_outstanding (s : State) (id : Nat) : (s.dropMsg id).outstanding = s.outstanding := rfl
@[simp] theorem State.dropMsg_unreachable (s : State) (id : Nat) : (s.dropMsg id).unreachable = s.unreachable := rfl
@[simp] theorem State.dropMsg_dieFrame (s : State) (id : Nat) : (s.dropMsg id).dieFrame = s.dieFrame := rfl
@[simp] theorem State.dropMsg_waveAt (s : State) (id : Nat) : (s.dropMsg id).waveAt = s.waveAt := rfl
@[simp] theorem State.dropMsg_pkgNum (s : State) (id : Nat) : (s.dropMsg id).pkgNum = s.pkgNum := rfl
@[simp] theorem State.dropMsg_offline (s : State) (id : Nat) : (s.dropMsg id).offline = s.offline := rfl
@[simp] theorem State.dropMsg_pagers (s : State) (id : Nat) : (s.dropMsg id).pagers = s.pagers := rfl
@[simp] theorem State.dropMsg_ctxBase (s : State) (id : Nat) : (s.dropMsg id).ctxBase = s.ctxBase := rfl
@[simp] theorem State.dropMsg_partBase (s : State) (id : Nat) : (s.dropMsg id).partBase = s.partBase := rfl
@[simp] theorem State.dropMsg_netCfg (s : State) (id : Nat) : (s.dropMsg id).netCfg = s.netCfg := rfl
@[simp] theorem State.dropMsg_linkNote (s : State) (id : Nat) : (s.dropMsg id).linkNote = s.linkNote := rfl
@[simp] theorem State.dropMsg_ctxs (s : State) (id : Nat) : (s.dropMsg id).ctxs = s.ctxs := rfl
@[simp] theorem State.dropMsg_ctxCmdId (s : State) (id : Nat) : (s.dropMsg id).ctxCmdId = s.ctxCmdId := rfl
@[simp] theorem State.dropMsg_ctxCmd (s : State) (id : Nat) : (s.dropMsg id).ctxCmd = s.ctxCmd := rfl
@[simp] theorem State.dropMsg_ctxCmdErr (s : State) (id : Nat) : (s.dropMsg id).ctxCmdErr = s.ctxCmdErr := rfl
@[simp] theorem State.dropMsg_ctxCmdDone (s : State) (id : Nat) : (s.dropMsg id).ctxCmdDone = s.ctxCmdDone := rfl
@[simp] theorem State.dropMsg_barriers (s : State) (id : Nat) : (s.dropMsg id).barriers = s.barriers := rfl
@[simp] theorem State.dropMsg_barWaits (s : State) (id : Nat) : (s.dropMsg id).barWaits = s.barWaits := rfl
@[simp] theorem State.dropMsg_kernels (s : State) (id : Nat) : (s.dropMsg id).kernels = s.kernels := rfl
@[simp] theorem State.dropMsg_launchQueue (s : State) (id : Nat) : (s.dropMsg id).launchQueue = s.launchQueue := rfl
@[simp] theorem State.dropMsg_retired (s : State) (id : Nat) : (s.dropMsg id).retired = s.retired := rfl
@[simp] theorem State.dropMsg_kernelCores (s : State) (id : Nat) : (s.dropMsg id).kernelCores = s.kernelCores := rfl
@[simp] theorem State.dropMsg_inPod (s : State) (id : Nat) : (s.dropMsg id).inPod = s.inPod := rfl
@[simp] theorem State.dropMsg_links (s : State) (id : Nat) : (s.dropMsg id).links = s.links := rfl
@[simp] theorem State.dropMsg_flows (s : State) (id : Nat) : (s.dropMsg id).flows = s.flows := rfl
@[simp] theorem State.dropMsg_sent (s : State) (id : Nat) : (s.dropMsg id).sent = s.sent := rfl
@[simp] theorem State.dropMsg_accepted (s : State) (id : Nat) : (s.dropMsg id).accepted = s.accepted := rfl
@[simp] theorem State.dropMsg_partials (s : State) (id : Nat) : (s.dropMsg id).partials = s.partials := rfl
@[simp] theorem State.dropMsg_flowIn (s : State) (id : Nat) : (s.dropMsg id).flowIn = s.flowIn := rfl
@[simp] theorem State.dropMsg_flowOut (s : State) (id : Nat) : (s.dropMsg id).flowOut = s.flowOut := rfl
@[simp] theorem State.dropMsg_cellOut (s : State) (id : Nat) : (s.dropMsg id).cellOut = s.cellOut := rfl
@[simp] theorem State.dropMsg_packetOut (s : State) (id : Nat) : (s.dropMsg id).packetOut = s.packetOut := rfl
@[simp] theorem State.dropMsg_linkEvents (s : State) (id : Nat) : (s.dropMsg id).linkEvents = s.linkEvents := rfl
@[simp] theorem State.dropMsg_pageOps (s : State) (id : Nat) : (s.dropMsg id).pageOps = s.pageOps := rfl
@[simp] theorem State.dropMsg_domains (s : State) (id : Nat) : (s.dropMsg id).domains = s.domains := rfl
@[simp] theorem State.dropMsg_rdoms (s : State) (id : Nat) : (s.dropMsg id).rdoms = s.rdoms := rfl
@[simp] theorem State.dropMsg_notes (s : State) (id : Nat) : (s.dropMsg id).notes = s.notes := rfl
@[simp] theorem State.dropMsg_bnotes (s : State) (id : Nat) : (s.dropMsg id).bnotes = s.bnotes := rfl
@[simp] theorem State.dropMsg_noteLost (s : State) (id : Nat) : (s.dropMsg id).noteLost = s.noteLost := rfl
@[simp] theorem State.dropMsg_bnoteLost (s : State) (id : Nat) : (s.dropMsg id).bnoteLost = s.bnoteLost := rfl
@[simp] theorem State.dropMsg_dev (s : State) (id : Nat) : (s.dropMsg id).dev = s.dev := rfl
@[simp] theorem State.dropMsg_signals (s : State) (id : Nat) : (s.dropMsg id).signals = s.signals := rfl

/-! ### freed -/

@[simp] theorem State.freed_agenda (s : State) (n : Nat) : (s.freed n).agenda = s.agenda := rfl
@[simp] theorem State.freed_core (s : State) (n : Nat) : (s.freed n).core = s.core := rfl
@[simp] theorem State.freed_cur (s : State) (n : Nat) : (s.freed n).cur = s.cur := rfl
@[simp] theorem State.freed_nextId (s : State) (n : Nat) : (s.freed n).nextId = s.nextId := rfl
@[simp] theorem State.freed_mem (s : State) (n : Nat) : (s.freed n).mem = s.mem := rfl
@[simp] theorem State.freed_memFull (s : State) (n : Nat) : (s.freed n).memFull = s.memFull := rfl
@[simp] theorem State.freed_dirty (s : State) (n : Nat) : (s.freed n).dirty = s.dirty := rfl
@[simp] theorem State.freed_regs (s : State) (n : Nat) : (s.freed n).regs = s.regs := rfl
@[simp] theorem State.freed_regFull (s : State) (n : Nat) : (s.freed n).regFull = s.regFull := rfl
@[simp] theorem State.freed_slots (s : State) (n : Nat) : (s.freed n).slots = s.slots := rfl
@[simp] theorem State.freed_evicted (s : State) (n : Nat) : (s.freed n).evicted = s.evicted := rfl
@[simp] theorem State.freed_spills (s : State) (n : Nat) : (s.freed n).spills = s.spills := rfl
@[simp] theorem State.freed_cores (s : State) (n : Nat) : (s.freed n).cores = s.cores := rfl
@[simp] theorem State.freed_names (s : State) (n : Nat) : (s.freed n).names = s.names := rfl
@[simp] theorem State.freed_heat (s : State) (n : Nat) : (s.freed n).heat = s.heat := rfl
@[simp] theorem State.freed_net (s : State) (n : Nat) : (s.freed n).net = s.net := rfl
@[simp] theorem State.freed_credits (s : State) (n : Nat) : (s.freed n).credits = s.credits := rfl
@[simp] theorem State.freed_chanEntries (s : State) (n : Nat) : (s.freed n).chanEntries = s.chanEntries := rfl
@[simp] theorem State.freed_outstanding (s : State) (n : Nat) : (s.freed n).outstanding = s.outstanding := rfl
@[simp] theorem State.freed_unreachable (s : State) (n : Nat) : (s.freed n).unreachable = s.unreachable := rfl
@[simp] theorem State.freed_dieFrame (s : State) (n : Nat) : (s.freed n).dieFrame = s.dieFrame := rfl
@[simp] theorem State.freed_waveAt (s : State) (n : Nat) : (s.freed n).waveAt = s.waveAt := rfl
@[simp] theorem State.freed_pkgNum (s : State) (n : Nat) : (s.freed n).pkgNum = s.pkgNum := rfl
@[simp] theorem State.freed_offline (s : State) (n : Nat) : (s.freed n).offline = s.offline := rfl
@[simp] theorem State.freed_pagers (s : State) (n : Nat) : (s.freed n).pagers = s.pagers := rfl
@[simp] theorem State.freed_ctxBase (s : State) (n : Nat) : (s.freed n).ctxBase = s.ctxBase := rfl
@[simp] theorem State.freed_partBase (s : State) (n : Nat) : (s.freed n).partBase = s.partBase := rfl
@[simp] theorem State.freed_netCfg (s : State) (n : Nat) : (s.freed n).netCfg = s.netCfg := rfl
@[simp] theorem State.freed_linkNote (s : State) (n : Nat) : (s.freed n).linkNote = s.linkNote := rfl
@[simp] theorem State.freed_ctxs (s : State) (n : Nat) : (s.freed n).ctxs = s.ctxs := rfl
@[simp] theorem State.freed_ctxCmdId (s : State) (n : Nat) : (s.freed n).ctxCmdId = s.ctxCmdId := rfl
@[simp] theorem State.freed_ctxCmd (s : State) (n : Nat) : (s.freed n).ctxCmd = s.ctxCmd := rfl
@[simp] theorem State.freed_ctxCmdErr (s : State) (n : Nat) : (s.freed n).ctxCmdErr = s.ctxCmdErr := rfl
@[simp] theorem State.freed_ctxCmdDone (s : State) (n : Nat) : (s.freed n).ctxCmdDone = s.ctxCmdDone := rfl
@[simp] theorem State.freed_barriers (s : State) (n : Nat) : (s.freed n).barriers = s.barriers := rfl
@[simp] theorem State.freed_barWaits (s : State) (n : Nat) : (s.freed n).barWaits = s.barWaits := rfl
@[simp] theorem State.freed_kernels (s : State) (n : Nat) : (s.freed n).kernels = s.kernels := rfl
@[simp] theorem State.freed_launchQueue (s : State) (n : Nat) : (s.freed n).launchQueue = s.launchQueue := rfl
@[simp] theorem State.freed_retired (s : State) (n : Nat) : (s.freed n).retired = s.retired := rfl
@[simp] theorem State.freed_kernelCores (s : State) (n : Nat) : (s.freed n).kernelCores = s.kernelCores := rfl
@[simp] theorem State.freed_inPod (s : State) (n : Nat) : (s.freed n).inPod = s.inPod := rfl
@[simp] theorem State.freed_links (s : State) (n : Nat) : (s.freed n).links = s.links := rfl
@[simp] theorem State.freed_flows (s : State) (n : Nat) : (s.freed n).flows = s.flows := rfl
@[simp] theorem State.freed_sent (s : State) (n : Nat) : (s.freed n).sent = s.sent := rfl
@[simp] theorem State.freed_accepted (s : State) (n : Nat) : (s.freed n).accepted = s.accepted := rfl
@[simp] theorem State.freed_partials (s : State) (n : Nat) : (s.freed n).partials = s.partials := rfl
@[simp] theorem State.freed_flowIn (s : State) (n : Nat) : (s.freed n).flowIn = s.flowIn := rfl
@[simp] theorem State.freed_flowOut (s : State) (n : Nat) : (s.freed n).flowOut = s.flowOut := rfl
@[simp] theorem State.freed_cellOut (s : State) (n : Nat) : (s.freed n).cellOut = s.cellOut := rfl
@[simp] theorem State.freed_packetOut (s : State) (n : Nat) : (s.freed n).packetOut = s.packetOut := rfl
@[simp] theorem State.freed_linkEvents (s : State) (n : Nat) : (s.freed n).linkEvents = s.linkEvents := rfl
@[simp] theorem State.freed_pageOps (s : State) (n : Nat) : (s.freed n).pageOps = s.pageOps := rfl
@[simp] theorem State.freed_domains (s : State) (n : Nat) : (s.freed n).domains = s.domains := rfl
@[simp] theorem State.freed_rdoms (s : State) (n : Nat) : (s.freed n).rdoms = s.rdoms := rfl
@[simp] theorem State.freed_notes (s : State) (n : Nat) : (s.freed n).notes = s.notes := rfl
@[simp] theorem State.freed_bnotes (s : State) (n : Nat) : (s.freed n).bnotes = s.bnotes := rfl
@[simp] theorem State.freed_noteLost (s : State) (n : Nat) : (s.freed n).noteLost = s.noteLost := rfl
@[simp] theorem State.freed_bnoteLost (s : State) (n : Nat) : (s.freed n).bnoteLost = s.bnoteLost := rfl
@[simp] theorem State.freed_dev (s : State) (n : Nat) : (s.freed n).dev = s.dev := rfl
@[simp] theorem State.freed_signals (s : State) (n : Nat) : (s.freed n).signals = s.signals := rfl

/-! ### takeCredit -/

@[simp] theorem State.takeCredit_agenda (s : State) (k : Nat) (n : Node) : (s.takeCredit k n).agenda = s.agenda := rfl
@[simp] theorem State.takeCredit_core (s : State) (k : Nat) (n : Node) : (s.takeCredit k n).core = s.core := rfl
@[simp] theorem State.takeCredit_cur (s : State) (k : Nat) (n : Node) : (s.takeCredit k n).cur = s.cur := rfl
@[simp] theorem State.takeCredit_fresh (s : State) (k : Nat) (n : Node) : (s.takeCredit k n).fresh = s.fresh := rfl
@[simp] theorem State.takeCredit_nextId (s : State) (k : Nat) (n : Node) : (s.takeCredit k n).nextId = s.nextId := rfl
@[simp] theorem State.takeCredit_mem (s : State) (k : Nat) (n : Node) : (s.takeCredit k n).mem = s.mem := rfl
@[simp] theorem State.takeCredit_memFull (s : State) (k : Nat) (n : Node) : (s.takeCredit k n).memFull = s.memFull := rfl
@[simp] theorem State.takeCredit_dirty (s : State) (k : Nat) (n : Node) : (s.takeCredit k n).dirty = s.dirty := rfl
@[simp] theorem State.takeCredit_regs (s : State) (k : Nat) (n : Node) : (s.takeCredit k n).regs = s.regs := rfl
@[simp] theorem State.takeCredit_regFull (s : State) (k : Nat) (n : Node) : (s.takeCredit k n).regFull = s.regFull := rfl
@[simp] theorem State.takeCredit_slots (s : State) (k : Nat) (n : Node) : (s.takeCredit k n).slots = s.slots := rfl
@[simp] theorem State.takeCredit_evicted (s : State) (k : Nat) (n : Node) : (s.takeCredit k n).evicted = s.evicted := rfl
@[simp] theorem State.takeCredit_spills (s : State) (k : Nat) (n : Node) : (s.takeCredit k n).spills = s.spills := rfl
@[simp] theorem State.takeCredit_cores (s : State) (k : Nat) (n : Node) : (s.takeCredit k n).cores = s.cores := rfl
@[simp] theorem State.takeCredit_names (s : State) (k : Nat) (n : Node) : (s.takeCredit k n).names = s.names := rfl
@[simp] theorem State.takeCredit_heat (s : State) (k : Nat) (n : Node) : (s.takeCredit k n).heat = s.heat := rfl
@[simp] theorem State.takeCredit_net (s : State) (k : Nat) (n : Node) : (s.takeCredit k n).net = s.net := rfl
@[simp] theorem State.takeCredit_chanEntries (s : State) (k : Nat) (n : Node) : (s.takeCredit k n).chanEntries = s.chanEntries := rfl
@[simp] theorem State.takeCredit_outstanding (s : State) (k : Nat) (n : Node) : (s.takeCredit k n).outstanding = s.outstanding := rfl
@[simp] theorem State.takeCredit_unreachable (s : State) (k : Nat) (n : Node) : (s.takeCredit k n).unreachable = s.unreachable := rfl
@[simp] theorem State.takeCredit_dieFrame (s : State) (k : Nat) (n : Node) : (s.takeCredit k n).dieFrame = s.dieFrame := rfl
@[simp] theorem State.takeCredit_waveAt (s : State) (k : Nat) (n : Node) : (s.takeCredit k n).waveAt = s.waveAt := rfl
@[simp] theorem State.takeCredit_pkgNum (s : State) (k : Nat) (n : Node) : (s.takeCredit k n).pkgNum = s.pkgNum := rfl
@[simp] theorem State.takeCredit_offline (s : State) (k : Nat) (n : Node) : (s.takeCredit k n).offline = s.offline := rfl
@[simp] theorem State.takeCredit_pagers (s : State) (k : Nat) (n : Node) : (s.takeCredit k n).pagers = s.pagers := rfl
@[simp] theorem State.takeCredit_ctxBase (s : State) (k : Nat) (n : Node) : (s.takeCredit k n).ctxBase = s.ctxBase := rfl
@[simp] theorem State.takeCredit_partBase (s : State) (k : Nat) (n : Node) : (s.takeCredit k n).partBase = s.partBase := rfl
@[simp] theorem State.takeCredit_netCfg (s : State) (k : Nat) (n : Node) : (s.takeCredit k n).netCfg = s.netCfg := rfl
@[simp] theorem State.takeCredit_linkNote (s : State) (k : Nat) (n : Node) : (s.takeCredit k n).linkNote = s.linkNote := rfl
@[simp] theorem State.takeCredit_ctxs (s : State) (k : Nat) (n : Node) : (s.takeCredit k n).ctxs = s.ctxs := rfl
@[simp] theorem State.takeCredit_ctxCmdId (s : State) (k : Nat) (n : Node) : (s.takeCredit k n).ctxCmdId = s.ctxCmdId := rfl
@[simp] theorem State.takeCredit_ctxCmd (s : State) (k : Nat) (n : Node) : (s.takeCredit k n).ctxCmd = s.ctxCmd := rfl
@[simp] theorem State.takeCredit_ctxCmdErr (s : State) (k : Nat) (n : Node) : (s.takeCredit k n).ctxCmdErr = s.ctxCmdErr := rfl
@[simp] theorem State.takeCredit_ctxCmdDone (s : State) (k : Nat) (n : Node) : (s.takeCredit k n).ctxCmdDone = s.ctxCmdDone := rfl
@[simp] theorem State.takeCredit_barriers (s : State) (k : Nat) (n : Node) : (s.takeCredit k n).barriers = s.barriers := rfl
@[simp] theorem State.takeCredit_barWaits (s : State) (k : Nat) (n : Node) : (s.takeCredit k n).barWaits = s.barWaits := rfl
@[simp] theorem State.takeCredit_kernels (s : State) (k : Nat) (n : Node) : (s.takeCredit k n).kernels = s.kernels := rfl
@[simp] theorem State.takeCredit_launchQueue (s : State) (k : Nat) (n : Node) : (s.takeCredit k n).launchQueue = s.launchQueue := rfl
@[simp] theorem State.takeCredit_retired (s : State) (k : Nat) (n : Node) : (s.takeCredit k n).retired = s.retired := rfl
@[simp] theorem State.takeCredit_kernelCores (s : State) (k : Nat) (n : Node) : (s.takeCredit k n).kernelCores = s.kernelCores := rfl
@[simp] theorem State.takeCredit_inPod (s : State) (k : Nat) (n : Node) : (s.takeCredit k n).inPod = s.inPod := rfl
@[simp] theorem State.takeCredit_links (s : State) (k : Nat) (n : Node) : (s.takeCredit k n).links = s.links := rfl
@[simp] theorem State.takeCredit_flows (s : State) (k : Nat) (n : Node) : (s.takeCredit k n).flows = s.flows := rfl
@[simp] theorem State.takeCredit_sent (s : State) (k : Nat) (n : Node) : (s.takeCredit k n).sent = s.sent := rfl
@[simp] theorem State.takeCredit_accepted (s : State) (k : Nat) (n : Node) : (s.takeCredit k n).accepted = s.accepted := rfl
@[simp] theorem State.takeCredit_partials (s : State) (k : Nat) (n : Node) : (s.takeCredit k n).partials = s.partials := rfl
@[simp] theorem State.takeCredit_flowIn (s : State) (k : Nat) (n : Node) : (s.takeCredit k n).flowIn = s.flowIn := rfl
@[simp] theorem State.takeCredit_flowOut (s : State) (k : Nat) (n : Node) : (s.takeCredit k n).flowOut = s.flowOut := rfl
@[simp] theorem State.takeCredit_cellOut (s : State) (k : Nat) (n : Node) : (s.takeCredit k n).cellOut = s.cellOut := rfl
@[simp] theorem State.takeCredit_packetOut (s : State) (k : Nat) (n : Node) : (s.takeCredit k n).packetOut = s.packetOut := rfl
@[simp] theorem State.takeCredit_linkEvents (s : State) (k : Nat) (n : Node) : (s.takeCredit k n).linkEvents = s.linkEvents := rfl
@[simp] theorem State.takeCredit_pageOps (s : State) (k : Nat) (n : Node) : (s.takeCredit k n).pageOps = s.pageOps := rfl
@[simp] theorem State.takeCredit_domains (s : State) (k : Nat) (n : Node) : (s.takeCredit k n).domains = s.domains := rfl
@[simp] theorem State.takeCredit_rdoms (s : State) (k : Nat) (n : Node) : (s.takeCredit k n).rdoms = s.rdoms := rfl
@[simp] theorem State.takeCredit_notes (s : State) (k : Nat) (n : Node) : (s.takeCredit k n).notes = s.notes := rfl
@[simp] theorem State.takeCredit_bnotes (s : State) (k : Nat) (n : Node) : (s.takeCredit k n).bnotes = s.bnotes := rfl
@[simp] theorem State.takeCredit_noteLost (s : State) (k : Nat) (n : Node) : (s.takeCredit k n).noteLost = s.noteLost := rfl
@[simp] theorem State.takeCredit_bnoteLost (s : State) (k : Nat) (n : Node) : (s.takeCredit k n).bnoteLost = s.bnoteLost := rfl
@[simp] theorem State.takeCredit_dev (s : State) (k : Nat) (n : Node) : (s.takeCredit k n).dev = s.dev := rfl
@[simp] theorem State.takeCredit_signals (s : State) (k : Nat) (n : Node) : (s.takeCredit k n).signals = s.signals := rfl

/-! ### freeCredit -/

@[simp] theorem State.freeCredit_agenda (s : State) (k : Nat) (n : Node) : (s.freeCredit k n).agenda = s.agenda := rfl
@[simp] theorem State.freeCredit_core (s : State) (k : Nat) (n : Node) : (s.freeCredit k n).core = s.core := rfl
@[simp] theorem State.freeCredit_cur (s : State) (k : Nat) (n : Node) : (s.freeCredit k n).cur = s.cur := rfl
@[simp] theorem State.freeCredit_fresh (s : State) (k : Nat) (n : Node) : (s.freeCredit k n).fresh = s.fresh := rfl
@[simp] theorem State.freeCredit_nextId (s : State) (k : Nat) (n : Node) : (s.freeCredit k n).nextId = s.nextId := rfl
@[simp] theorem State.freeCredit_mem (s : State) (k : Nat) (n : Node) : (s.freeCredit k n).mem = s.mem := rfl
@[simp] theorem State.freeCredit_memFull (s : State) (k : Nat) (n : Node) : (s.freeCredit k n).memFull = s.memFull := rfl
@[simp] theorem State.freeCredit_dirty (s : State) (k : Nat) (n : Node) : (s.freeCredit k n).dirty = s.dirty := rfl
@[simp] theorem State.freeCredit_regs (s : State) (k : Nat) (n : Node) : (s.freeCredit k n).regs = s.regs := rfl
@[simp] theorem State.freeCredit_regFull (s : State) (k : Nat) (n : Node) : (s.freeCredit k n).regFull = s.regFull := rfl
@[simp] theorem State.freeCredit_slots (s : State) (k : Nat) (n : Node) : (s.freeCredit k n).slots = s.slots := rfl
@[simp] theorem State.freeCredit_evicted (s : State) (k : Nat) (n : Node) : (s.freeCredit k n).evicted = s.evicted := rfl
@[simp] theorem State.freeCredit_spills (s : State) (k : Nat) (n : Node) : (s.freeCredit k n).spills = s.spills := rfl
@[simp] theorem State.freeCredit_cores (s : State) (k : Nat) (n : Node) : (s.freeCredit k n).cores = s.cores := rfl
@[simp] theorem State.freeCredit_names (s : State) (k : Nat) (n : Node) : (s.freeCredit k n).names = s.names := rfl
@[simp] theorem State.freeCredit_heat (s : State) (k : Nat) (n : Node) : (s.freeCredit k n).heat = s.heat := rfl
@[simp] theorem State.freeCredit_net (s : State) (k : Nat) (n : Node) : (s.freeCredit k n).net = s.net := rfl
@[simp] theorem State.freeCredit_chanEntries (s : State) (k : Nat) (n : Node) : (s.freeCredit k n).chanEntries = s.chanEntries := rfl
@[simp] theorem State.freeCredit_outstanding (s : State) (k : Nat) (n : Node) : (s.freeCredit k n).outstanding = s.outstanding := rfl
@[simp] theorem State.freeCredit_unreachable (s : State) (k : Nat) (n : Node) : (s.freeCredit k n).unreachable = s.unreachable := rfl
@[simp] theorem State.freeCredit_dieFrame (s : State) (k : Nat) (n : Node) : (s.freeCredit k n).dieFrame = s.dieFrame := rfl
@[simp] theorem State.freeCredit_waveAt (s : State) (k : Nat) (n : Node) : (s.freeCredit k n).waveAt = s.waveAt := rfl
@[simp] theorem State.freeCredit_pkgNum (s : State) (k : Nat) (n : Node) : (s.freeCredit k n).pkgNum = s.pkgNum := rfl
@[simp] theorem State.freeCredit_offline (s : State) (k : Nat) (n : Node) : (s.freeCredit k n).offline = s.offline := rfl
@[simp] theorem State.freeCredit_pagers (s : State) (k : Nat) (n : Node) : (s.freeCredit k n).pagers = s.pagers := rfl
@[simp] theorem State.freeCredit_ctxBase (s : State) (k : Nat) (n : Node) : (s.freeCredit k n).ctxBase = s.ctxBase := rfl
@[simp] theorem State.freeCredit_partBase (s : State) (k : Nat) (n : Node) : (s.freeCredit k n).partBase = s.partBase := rfl
@[simp] theorem State.freeCredit_netCfg (s : State) (k : Nat) (n : Node) : (s.freeCredit k n).netCfg = s.netCfg := rfl
@[simp] theorem State.freeCredit_linkNote (s : State) (k : Nat) (n : Node) : (s.freeCredit k n).linkNote = s.linkNote := rfl
@[simp] theorem State.freeCredit_ctxs (s : State) (k : Nat) (n : Node) : (s.freeCredit k n).ctxs = s.ctxs := rfl
@[simp] theorem State.freeCredit_ctxCmdId (s : State) (k : Nat) (n : Node) : (s.freeCredit k n).ctxCmdId = s.ctxCmdId := rfl
@[simp] theorem State.freeCredit_ctxCmd (s : State) (k : Nat) (n : Node) : (s.freeCredit k n).ctxCmd = s.ctxCmd := rfl
@[simp] theorem State.freeCredit_ctxCmdErr (s : State) (k : Nat) (n : Node) : (s.freeCredit k n).ctxCmdErr = s.ctxCmdErr := rfl
@[simp] theorem State.freeCredit_ctxCmdDone (s : State) (k : Nat) (n : Node) : (s.freeCredit k n).ctxCmdDone = s.ctxCmdDone := rfl
@[simp] theorem State.freeCredit_barriers (s : State) (k : Nat) (n : Node) : (s.freeCredit k n).barriers = s.barriers := rfl
@[simp] theorem State.freeCredit_barWaits (s : State) (k : Nat) (n : Node) : (s.freeCredit k n).barWaits = s.barWaits := rfl
@[simp] theorem State.freeCredit_kernels (s : State) (k : Nat) (n : Node) : (s.freeCredit k n).kernels = s.kernels := rfl
@[simp] theorem State.freeCredit_launchQueue (s : State) (k : Nat) (n : Node) : (s.freeCredit k n).launchQueue = s.launchQueue := rfl
@[simp] theorem State.freeCredit_retired (s : State) (k : Nat) (n : Node) : (s.freeCredit k n).retired = s.retired := rfl
@[simp] theorem State.freeCredit_kernelCores (s : State) (k : Nat) (n : Node) : (s.freeCredit k n).kernelCores = s.kernelCores := rfl
@[simp] theorem State.freeCredit_inPod (s : State) (k : Nat) (n : Node) : (s.freeCredit k n).inPod = s.inPod := rfl
@[simp] theorem State.freeCredit_links (s : State) (k : Nat) (n : Node) : (s.freeCredit k n).links = s.links := rfl
@[simp] theorem State.freeCredit_flows (s : State) (k : Nat) (n : Node) : (s.freeCredit k n).flows = s.flows := rfl
@[simp] theorem State.freeCredit_sent (s : State) (k : Nat) (n : Node) : (s.freeCredit k n).sent = s.sent := rfl
@[simp] theorem State.freeCredit_accepted (s : State) (k : Nat) (n : Node) : (s.freeCredit k n).accepted = s.accepted := rfl
@[simp] theorem State.freeCredit_partials (s : State) (k : Nat) (n : Node) : (s.freeCredit k n).partials = s.partials := rfl
@[simp] theorem State.freeCredit_flowIn (s : State) (k : Nat) (n : Node) : (s.freeCredit k n).flowIn = s.flowIn := rfl
@[simp] theorem State.freeCredit_flowOut (s : State) (k : Nat) (n : Node) : (s.freeCredit k n).flowOut = s.flowOut := rfl
@[simp] theorem State.freeCredit_cellOut (s : State) (k : Nat) (n : Node) : (s.freeCredit k n).cellOut = s.cellOut := rfl
@[simp] theorem State.freeCredit_packetOut (s : State) (k : Nat) (n : Node) : (s.freeCredit k n).packetOut = s.packetOut := rfl
@[simp] theorem State.freeCredit_linkEvents (s : State) (k : Nat) (n : Node) : (s.freeCredit k n).linkEvents = s.linkEvents := rfl
@[simp] theorem State.freeCredit_pageOps (s : State) (k : Nat) (n : Node) : (s.freeCredit k n).pageOps = s.pageOps := rfl
@[simp] theorem State.freeCredit_domains (s : State) (k : Nat) (n : Node) : (s.freeCredit k n).domains = s.domains := rfl
@[simp] theorem State.freeCredit_rdoms (s : State) (k : Nat) (n : Node) : (s.freeCredit k n).rdoms = s.rdoms := rfl
@[simp] theorem State.freeCredit_notes (s : State) (k : Nat) (n : Node) : (s.freeCredit k n).notes = s.notes := rfl
@[simp] theorem State.freeCredit_bnotes (s : State) (k : Nat) (n : Node) : (s.freeCredit k n).bnotes = s.bnotes := rfl
@[simp] theorem State.freeCredit_noteLost (s : State) (k : Nat) (n : Node) : (s.freeCredit k n).noteLost = s.noteLost := rfl
@[simp] theorem State.freeCredit_bnoteLost (s : State) (k : Nat) (n : Node) : (s.freeCredit k n).bnoteLost = s.bnoteLost := rfl
@[simp] theorem State.freeCredit_dev (s : State) (k : Nat) (n : Node) : (s.freeCredit k n).dev = s.dev := rfl
@[simp] theorem State.freeCredit_signals (s : State) (k : Nat) (n : Node) : (s.freeCredit k n).signals = s.signals := rfl

/-! ### modSlot -/

@[simp] theorem State.modSlot_mem (s : State) (t : Nat) (f : Slot → Slot) : (s.modSlot t f).mem = s.mem := rfl
@[simp] theorem State.modSlot_memFull (s : State) (t : Nat) (f : Slot → Slot) : (s.modSlot t f).memFull = s.memFull := rfl
@[simp] theorem State.modSlot_dirty (s : State) (t : Nat) (f : Slot → Slot) : (s.modSlot t f).dirty = s.dirty := rfl
@[simp] theorem State.modSlot_regs (s : State) (t : Nat) (f : Slot → Slot) : (s.modSlot t f).regs = s.regs := rfl
@[simp] theorem State.modSlot_regFull (s : State) (t : Nat) (f : Slot → Slot) : (s.modSlot t f).regFull = s.regFull := rfl
@[simp] theorem State.modSlot_cores (s : State) (t : Nat) (f : Slot → Slot) : (s.modSlot t f).cores = s.cores := rfl
@[simp] theorem State.modSlot_names (s : State) (t : Nat) (f : Slot → Slot) : (s.modSlot t f).names = s.names := rfl
@[simp] theorem State.modSlot_net (s : State) (t : Nat) (f : Slot → Slot) : (s.modSlot t f).net = s.net := rfl
@[simp] theorem State.modSlot_cur (s : State) (t : Nat) (f : Slot → Slot) : (s.modSlot t f).cur = s.cur := rfl
@[simp] theorem State.modSlot_fresh (s : State) (t : Nat) (f : Slot → Slot) : (s.modSlot t f).fresh = s.fresh := rfl
@[simp] theorem State.modSlot_nextId (s : State) (t : Nat) (f : Slot → Slot) : (s.modSlot t f).nextId = s.nextId := rfl
@[simp] theorem State.modSlot_ctxs (s : State) (t : Nat) (f : Slot → Slot) : (s.modSlot t f).ctxs = s.ctxs := rfl
@[simp] theorem State.modSlot_offline (s : State) (t : Nat) (f : Slot → Slot) : (s.modSlot t f).offline = s.offline := rfl

/-! ### modMe -/

@[simp] theorem State.modMe_mem (s : State) (f : Slot → Slot) : (s.modMe f).mem = s.mem := rfl
@[simp] theorem State.modMe_memFull (s : State) (f : Slot → Slot) : (s.modMe f).memFull = s.memFull := rfl
@[simp] theorem State.modMe_dirty (s : State) (f : Slot → Slot) : (s.modMe f).dirty = s.dirty := rfl
@[simp] theorem State.modMe_regs (s : State) (f : Slot → Slot) : (s.modMe f).regs = s.regs := rfl
@[simp] theorem State.modMe_regFull (s : State) (f : Slot → Slot) : (s.modMe f).regFull = s.regFull := rfl
@[simp] theorem State.modMe_cores (s : State) (f : Slot → Slot) : (s.modMe f).cores = s.cores := rfl
@[simp] theorem State.modMe_names (s : State) (f : Slot → Slot) : (s.modMe f).names = s.names := rfl
@[simp] theorem State.modMe_net (s : State) (f : Slot → Slot) : (s.modMe f).net = s.net := rfl
@[simp] theorem State.modMe_cur (s : State) (f : Slot → Slot) : (s.modMe f).cur = s.cur := rfl
@[simp] theorem State.modMe_fresh (s : State) (f : Slot → Slot) : (s.modMe f).fresh = s.fresh := rfl
@[simp] theorem State.modMe_nextId (s : State) (f : Slot → Slot) : (s.modMe f).nextId = s.nextId := rfl
@[simp] theorem State.modMe_ctxs (s : State) (f : Slot → Slot) : (s.modMe f).ctxs = s.ctxs := rfl
@[simp] theorem State.modMe_offline (s : State) (f : Slot → Slot) : (s.modMe f).offline = s.offline := rfl

/-! ### modCore -/

@[simp] theorem State.modCore_mem (s : State) (c : Nat) (f : CoreRec → CoreRec) : (s.modCore c f).mem = s.mem := rfl
@[simp] theorem State.modCore_memFull (s : State) (c : Nat) (f : CoreRec → CoreRec) : (s.modCore c f).memFull = s.memFull := rfl
@[simp] theorem State.modCore_dirty (s : State) (c : Nat) (f : CoreRec → CoreRec) : (s.modCore c f).dirty = s.dirty := rfl
@[simp] theorem State.modCore_regs (s : State) (c : Nat) (f : CoreRec → CoreRec) : (s.modCore c f).regs = s.regs := rfl
@[simp] theorem State.modCore_regFull (s : State) (c : Nat) (f : CoreRec → CoreRec) : (s.modCore c f).regFull = s.regFull := rfl
@[simp] theorem State.modCore_slots (s : State) (c : Nat) (f : CoreRec → CoreRec) : (s.modCore c f).slots = s.slots := rfl
@[simp] theorem State.modCore_names (s : State) (c : Nat) (f : CoreRec → CoreRec) : (s.modCore c f).names = s.names := rfl
@[simp] theorem State.modCore_net (s : State) (c : Nat) (f : CoreRec → CoreRec) : (s.modCore c f).net = s.net := rfl
@[simp] theorem State.modCore_cur (s : State) (c : Nat) (f : CoreRec → CoreRec) : (s.modCore c f).cur = s.cur := rfl
@[simp] theorem State.modCore_fresh (s : State) (c : Nat) (f : CoreRec → CoreRec) : (s.modCore c f).fresh = s.fresh := rfl
@[simp] theorem State.modCore_nextId (s : State) (c : Nat) (f : CoreRec → CoreRec) : (s.modCore c f).nextId = s.nextId := rfl
@[simp] theorem State.modCore_ctxs (s : State) (c : Nat) (f : CoreRec → CoreRec) : (s.modCore c f).ctxs = s.ctxs := rfl
@[simp] theorem State.modCore_offline (s : State) (c : Nat) (f : CoreRec → CoreRec) : (s.modCore c f).offline = s.offline := rfl

/-! ### modPipe -/

@[simp] theorem State.modPipe_mem (s : State) (c n : Nat) (f : PipeQueue → PipeQueue) : (s.modPipe c n f).mem = s.mem := rfl
@[simp] theorem State.modPipe_memFull (s : State) (c n : Nat) (f : PipeQueue → PipeQueue) : (s.modPipe c n f).memFull = s.memFull := rfl
@[simp] theorem State.modPipe_dirty (s : State) (c n : Nat) (f : PipeQueue → PipeQueue) : (s.modPipe c n f).dirty = s.dirty := rfl
@[simp] theorem State.modPipe_regs (s : State) (c n : Nat) (f : PipeQueue → PipeQueue) : (s.modPipe c n f).regs = s.regs := rfl
@[simp] theorem State.modPipe_regFull (s : State) (c n : Nat) (f : PipeQueue → PipeQueue) : (s.modPipe c n f).regFull = s.regFull := rfl
@[simp] theorem State.modPipe_slots (s : State) (c n : Nat) (f : PipeQueue → PipeQueue) : (s.modPipe c n f).slots = s.slots := rfl
@[simp] theorem State.modPipe_names (s : State) (c n : Nat) (f : PipeQueue → PipeQueue) : (s.modPipe c n f).names = s.names := rfl
@[simp] theorem State.modPipe_net (s : State) (c n : Nat) (f : PipeQueue → PipeQueue) : (s.modPipe c n f).net = s.net := rfl
@[simp] theorem State.modPipe_cur (s : State) (c n : Nat) (f : PipeQueue → PipeQueue) : (s.modPipe c n f).cur = s.cur := rfl
@[simp] theorem State.modPipe_fresh (s : State) (c n : Nat) (f : PipeQueue → PipeQueue) : (s.modPipe c n f).fresh = s.fresh := rfl
@[simp] theorem State.modPipe_nextId (s : State) (c n : Nat) (f : PipeQueue → PipeQueue) : (s.modPipe c n f).nextId = s.nextId := rfl
@[simp] theorem State.modPipe_ctxs (s : State) (c n : Nat) (f : PipeQueue → PipeQueue) : (s.modPipe c n f).ctxs = s.ctxs := rfl
@[simp] theorem State.modPipe_offline (s : State) (c n : Nat) (f : PipeQueue → PipeQueue) : (s.modPipe c n f).offline = s.offline := rfl

/-! ### advance -/

@[simp] theorem State.advance_mem (s : State) : (s.advance).mem = s.mem := rfl
@[simp] theorem State.advance_memFull (s : State) : (s.advance).memFull = s.memFull := rfl
@[simp] theorem State.advance_dirty (s : State) : (s.advance).dirty = s.dirty := rfl
@[simp] theorem State.advance_regs (s : State) : (s.advance).regs = s.regs := rfl
@[simp] theorem State.advance_regFull (s : State) : (s.advance).regFull = s.regFull := rfl
@[simp] theorem State.advance_cores (s : State) : (s.advance).cores = s.cores := rfl
@[simp] theorem State.advance_names (s : State) : (s.advance).names = s.names := rfl
@[simp] theorem State.advance_net (s : State) : (s.advance).net = s.net := rfl
@[simp] theorem State.advance_cur (s : State) : (s.advance).cur = s.cur := rfl
@[simp] theorem State.advance_fresh (s : State) : (s.advance).fresh = s.fresh := rfl
@[simp] theorem State.advance_nextId (s : State) : (s.advance).nextId = s.nextId := rfl
@[simp] theorem State.advance_ctxs (s : State) : (s.advance).ctxs = s.ctxs := rfl
@[simp] theorem State.advance_offline (s : State) : (s.advance).offline = s.offline := rfl

/-! ### jump -/

@[simp] theorem State.jump_mem (s : State) (t : Nat) : (s.jump t).mem = s.mem := rfl
@[simp] theorem State.jump_memFull (s : State) (t : Nat) : (s.jump t).memFull = s.memFull := rfl
@[simp] theorem State.jump_dirty (s : State) (t : Nat) : (s.jump t).dirty = s.dirty := rfl
@[simp] theorem State.jump_regs (s : State) (t : Nat) : (s.jump t).regs = s.regs := rfl
@[simp] theorem State.jump_regFull (s : State) (t : Nat) : (s.jump t).regFull = s.regFull := rfl
@[simp] theorem State.jump_cores (s : State) (t : Nat) : (s.jump t).cores = s.cores := rfl
@[simp] theorem State.jump_names (s : State) (t : Nat) : (s.jump t).names = s.names := rfl
@[simp] theorem State.jump_net (s : State) (t : Nat) : (s.jump t).net = s.net := rfl
@[simp] theorem State.jump_cur (s : State) (t : Nat) : (s.jump t).cur = s.cur := rfl
@[simp] theorem State.jump_fresh (s : State) (t : Nat) : (s.jump t).fresh = s.fresh := rfl
@[simp] theorem State.jump_nextId (s : State) (t : Nat) : (s.jump t).nextId = s.nextId := rfl
@[simp] theorem State.jump_ctxs (s : State) (t : Nat) : (s.jump t).ctxs = s.ctxs := rfl
@[simp] theorem State.jump_offline (s : State) (t : Nat) : (s.jump t).offline = s.offline := rfl

/-! ### parkMe -/

@[simp] theorem State.parkMe_mem (s : State) (p : Park) : (s.parkMe p).mem = s.mem := rfl
@[simp] theorem State.parkMe_memFull (s : State) (p : Park) : (s.parkMe p).memFull = s.memFull := rfl
@[simp] theorem State.parkMe_dirty (s : State) (p : Park) : (s.parkMe p).dirty = s.dirty := rfl
@[simp] theorem State.parkMe_regs (s : State) (p : Park) : (s.parkMe p).regs = s.regs := rfl
@[simp] theorem State.parkMe_regFull (s : State) (p : Park) : (s.parkMe p).regFull = s.regFull := rfl
@[simp] theorem State.parkMe_cores (s : State) (p : Park) : (s.parkMe p).cores = s.cores := rfl
@[simp] theorem State.parkMe_names (s : State) (p : Park) : (s.parkMe p).names = s.names := rfl
@[simp] theorem State.parkMe_net (s : State) (p : Park) : (s.parkMe p).net = s.net := rfl
@[simp] theorem State.parkMe_cur (s : State) (p : Park) : (s.parkMe p).cur = s.cur := rfl
@[simp] theorem State.parkMe_fresh (s : State) (p : Park) : (s.parkMe p).fresh = s.fresh := rfl
@[simp] theorem State.parkMe_nextId (s : State) (p : Park) : (s.parkMe p).nextId = s.nextId := rfl
@[simp] theorem State.parkMe_ctxs (s : State) (p : Park) : (s.parkMe p).ctxs = s.ctxs := rfl
@[simp] theorem State.parkMe_offline (s : State) (p : Park) : (s.parkMe p).offline = s.offline := rfl

/-! ### terminate -/

@[simp] theorem State.terminate_mem (s : State) (t v : Nat) : (s.terminate t v).mem = s.mem := rfl
@[simp] theorem State.terminate_memFull (s : State) (t v : Nat) : (s.terminate t v).memFull = s.memFull := rfl
@[simp] theorem State.terminate_dirty (s : State) (t v : Nat) : (s.terminate t v).dirty = s.dirty := rfl
@[simp] theorem State.terminate_regs (s : State) (t v : Nat) : (s.terminate t v).regs = s.regs := rfl
@[simp] theorem State.terminate_regFull (s : State) (t v : Nat) : (s.terminate t v).regFull = s.regFull := rfl
@[simp] theorem State.terminate_cores (s : State) (t v : Nat) : (s.terminate t v).cores = s.cores := rfl
@[simp] theorem State.terminate_names (s : State) (t v : Nat) : (s.terminate t v).names = s.names := rfl
@[simp] theorem State.terminate_net (s : State) (t v : Nat) : (s.terminate t v).net = s.net := rfl
@[simp] theorem State.terminate_cur (s : State) (t v : Nat) : (s.terminate t v).cur = s.cur := rfl
@[simp] theorem State.terminate_fresh (s : State) (t v : Nat) : (s.terminate t v).fresh = s.fresh := rfl
@[simp] theorem State.terminate_nextId (s : State) (t v : Nat) : (s.terminate t v).nextId = s.nextId := rfl
@[simp] theorem State.terminate_ctxs (s : State) (t v : Nat) : (s.terminate t v).ctxs = s.ctxs := rfl
@[simp] theorem State.terminate_offline (s : State) (t v : Nat) : (s.terminate t v).offline = s.offline := rfl

/-! ### pendTrap -/

@[simp] theorem State.pendTrap_mem (s : State) (t c : Nat) (w : Word) : (s.pendTrap t c w).mem = s.mem := rfl
@[simp] theorem State.pendTrap_memFull (s : State) (t c : Nat) (w : Word) : (s.pendTrap t c w).memFull = s.memFull := rfl
@[simp] theorem State.pendTrap_dirty (s : State) (t c : Nat) (w : Word) : (s.pendTrap t c w).dirty = s.dirty := rfl
@[simp] theorem State.pendTrap_regs (s : State) (t c : Nat) (w : Word) : (s.pendTrap t c w).regs = s.regs := rfl
@[simp] theorem State.pendTrap_regFull (s : State) (t c : Nat) (w : Word) : (s.pendTrap t c w).regFull = s.regFull := rfl
@[simp] theorem State.pendTrap_cores (s : State) (t c : Nat) (w : Word) : (s.pendTrap t c w).cores = s.cores := rfl
@[simp] theorem State.pendTrap_names (s : State) (t c : Nat) (w : Word) : (s.pendTrap t c w).names = s.names := rfl
@[simp] theorem State.pendTrap_net (s : State) (t c : Nat) (w : Word) : (s.pendTrap t c w).net = s.net := rfl
@[simp] theorem State.pendTrap_cur (s : State) (t c : Nat) (w : Word) : (s.pendTrap t c w).cur = s.cur := rfl
@[simp] theorem State.pendTrap_fresh (s : State) (t c : Nat) (w : Word) : (s.pendTrap t c w).fresh = s.fresh := rfl
@[simp] theorem State.pendTrap_nextId (s : State) (t c : Nat) (w : Word) : (s.pendTrap t c w).nextId = s.nextId := rfl
@[simp] theorem State.pendTrap_ctxs (s : State) (t c : Nat) (w : Word) : (s.pendTrap t c w).ctxs = s.ctxs := rfl
@[simp] theorem State.pendTrap_offline (s : State) (t c : Nat) (w : Word) : (s.pendTrap t c w).offline = s.offline := rfl

/-! ### returnTrap -/

@[simp] theorem State.returnTrap_mem (s : State) (off : Nat) : (s.returnTrap off).mem = s.mem := rfl
@[simp] theorem State.returnTrap_memFull (s : State) (off : Nat) : (s.returnTrap off).memFull = s.memFull := rfl
@[simp] theorem State.returnTrap_dirty (s : State) (off : Nat) : (s.returnTrap off).dirty = s.dirty := rfl
@[simp] theorem State.returnTrap_regs (s : State) (off : Nat) : (s.returnTrap off).regs = s.regs := rfl
@[simp] theorem State.returnTrap_regFull (s : State) (off : Nat) : (s.returnTrap off).regFull = s.regFull := rfl
@[simp] theorem State.returnTrap_cores (s : State) (off : Nat) : (s.returnTrap off).cores = s.cores := rfl
@[simp] theorem State.returnTrap_names (s : State) (off : Nat) : (s.returnTrap off).names = s.names := rfl
@[simp] theorem State.returnTrap_net (s : State) (off : Nat) : (s.returnTrap off).net = s.net := rfl
@[simp] theorem State.returnTrap_cur (s : State) (off : Nat) : (s.returnTrap off).cur = s.cur := rfl
@[simp] theorem State.returnTrap_fresh (s : State) (off : Nat) : (s.returnTrap off).fresh = s.fresh := rfl
@[simp] theorem State.returnTrap_nextId (s : State) (off : Nat) : (s.returnTrap off).nextId = s.nextId := rfl
@[simp] theorem State.returnTrap_ctxs (s : State) (off : Nat) : (s.returnTrap off).ctxs = s.ctxs := rfl
@[simp] theorem State.returnTrap_offline (s : State) (off : Nat) : (s.returnTrap off).offline = s.offline := rfl

/-! ### touch -/

@[simp] theorem State.touch_mem (s : State) (b : Nat) : (s.touch b).mem = s.mem := rfl
@[simp] theorem State.touch_memFull (s : State) (b : Nat) : (s.touch b).memFull = s.memFull := rfl
@[simp] theorem State.touch_dirty (s : State) (b : Nat) : (s.touch b).dirty = s.dirty := rfl
@[simp] theorem State.touch_regs (s : State) (b : Nat) : (s.touch b).regs = s.regs := rfl
@[simp] theorem State.touch_regFull (s : State) (b : Nat) : (s.touch b).regFull = s.regFull := rfl
@[simp] theorem State.touch_cores (s : State) (b : Nat) : (s.touch b).cores = s.cores := rfl
@[simp] theorem State.touch_names (s : State) (b : Nat) : (s.touch b).names = s.names := rfl
@[simp] theorem State.touch_net (s : State) (b : Nat) : (s.touch b).net = s.net := rfl
@[simp] theorem State.touch_cur (s : State) (b : Nat) : (s.touch b).cur = s.cur := rfl
@[simp] theorem State.touch_fresh (s : State) (b : Nat) : (s.touch b).fresh = s.fresh := rfl
@[simp] theorem State.touch_nextId (s : State) (b : Nat) : (s.touch b).nextId = s.nextId := rfl
@[simp] theorem State.touch_ctxs (s : State) (b : Nat) : (s.touch b).ctxs = s.ctxs := rfl
@[simp] theorem State.touch_offline (s : State) (b : Nat) : (s.touch b).offline = s.offline := rfl

/-! ### waitFor -/

@[simp] theorem State.waitFor_mem (s : State) (op : Nat) (dst : Node) (info : Word) (l b : Bool) (ps : List Nat) : (s.waitFor op dst info l b ps).mem = s.mem := rfl
@[simp] theorem State.waitFor_memFull (s : State) (op : Nat) (dst : Node) (info : Word) (l b : Bool) (ps : List Nat) : (s.waitFor op dst info l b ps).memFull = s.memFull := rfl
@[simp] theorem State.waitFor_dirty (s : State) (op : Nat) (dst : Node) (info : Word) (l b : Bool) (ps : List Nat) : (s.waitFor op dst info l b ps).dirty = s.dirty := rfl
@[simp] theorem State.waitFor_regs (s : State) (op : Nat) (dst : Node) (info : Word) (l b : Bool) (ps : List Nat) : (s.waitFor op dst info l b ps).regs = s.regs := rfl
@[simp] theorem State.waitFor_regFull (s : State) (op : Nat) (dst : Node) (info : Word) (l b : Bool) (ps : List Nat) : (s.waitFor op dst info l b ps).regFull = s.regFull := rfl
@[simp] theorem State.waitFor_cores (s : State) (op : Nat) (dst : Node) (info : Word) (l b : Bool) (ps : List Nat) : (s.waitFor op dst info l b ps).cores = s.cores := rfl
@[simp] theorem State.waitFor_names (s : State) (op : Nat) (dst : Node) (info : Word) (l b : Bool) (ps : List Nat) : (s.waitFor op dst info l b ps).names = s.names := rfl
@[simp] theorem State.waitFor_net (s : State) (op : Nat) (dst : Node) (info : Word) (l b : Bool) (ps : List Nat) : (s.waitFor op dst info l b ps).net = s.net := rfl
@[simp] theorem State.waitFor_cur (s : State) (op : Nat) (dst : Node) (info : Word) (l b : Bool) (ps : List Nat) : (s.waitFor op dst info l b ps).cur = s.cur := rfl
@[simp] theorem State.waitFor_fresh (s : State) (op : Nat) (dst : Node) (info : Word) (l b : Bool) (ps : List Nat) : (s.waitFor op dst info l b ps).fresh = s.fresh := rfl
@[simp] theorem State.waitFor_nextId (s : State) (op : Nat) (dst : Node) (info : Word) (l b : Bool) (ps : List Nat) : (s.waitFor op dst info l b ps).nextId = s.nextId := rfl
@[simp] theorem State.waitFor_ctxs (s : State) (op : Nat) (dst : Node) (info : Word) (l b : Bool) (ps : List Nat) : (s.waitFor op dst info l b ps).ctxs = s.ctxs := rfl
@[simp] theorem State.waitFor_offline (s : State) (op : Nat) (dst : Node) (info : Word) (l b : Bool) (ps : List Nat) : (s.waitFor op dst info l b ps).offline = s.offline := rfl

/-! ### respond -/

@[simp] theorem State.respond_mem (s : State) (m : Msg) (b : Body) : (s.respond m b).mem = s.mem := rfl
@[simp] theorem State.respond_memFull (s : State) (m : Msg) (b : Body) : (s.respond m b).memFull = s.memFull := rfl
@[simp] theorem State.respond_dirty (s : State) (m : Msg) (b : Body) : (s.respond m b).dirty = s.dirty := rfl
@[simp] theorem State.respond_regs (s : State) (m : Msg) (b : Body) : (s.respond m b).regs = s.regs := rfl
@[simp] theorem State.respond_regFull (s : State) (m : Msg) (b : Body) : (s.respond m b).regFull = s.regFull := rfl
@[simp] theorem State.respond_slots (s : State) (m : Msg) (b : Body) : (s.respond m b).slots = s.slots := rfl
@[simp] theorem State.respond_names (s : State) (m : Msg) (b : Body) : (s.respond m b).names = s.names := rfl
@[simp] theorem State.respond_cur (s : State) (m : Msg) (b : Body) : (s.respond m b).cur = s.cur := rfl
@[simp] theorem State.respond_fresh (s : State) (m : Msg) (b : Body) : (s.respond m b).fresh = s.fresh := rfl
@[simp] theorem State.respond_nextId (s : State) (m : Msg) (b : Body) : (s.respond m b).nextId = s.nextId := rfl
@[simp] theorem State.respond_ctxs (s : State) (m : Msg) (b : Body) : (s.respond m b).ctxs = s.ctxs := rfl
@[simp] theorem State.respond_offline (s : State) (m : Msg) (b : Body) : (s.respond m b).offline = s.offline := rfl

/-! ### Slots, cores and contexts after an update -/

@[simp] theorem State.slot_setSlot_self (s : State) (t : Nat) (v : Slot) : (s.setSlot t v).slot t = v := Store.get_set_self _ _ _ _

theorem State.slot_setSlot_ne (s : State) (v : Slot) {t u : Nat} (h : u ≠ t) : (s.setSlot t v).slot u = s.slot u :=
  Store.get_set_ne _ _ _ h

@[simp] theorem State.slot_modSlot_self (s : State) (t : Nat) (f : Slot → Slot) : (s.modSlot t f).slot t = f (s.slot t) :=
  slot_setSlot_self _ _ _

theorem State.slot_modSlot_ne (s : State) (f : Slot → Slot) {t u : Nat} (h : u ≠ t) : (s.modSlot t f).slot u = s.slot u :=
  slot_setSlot_ne _ _ h

@[simp] theorem State.me_modMe (s : State) (f : Slot → Slot) : (s.modMe f).me = f s.me := slot_modSlot_self _ _ _

theorem State.slot_modMe_ne (s : State) (f : Slot → Slot) {u : Nat} (h : u ≠ s.cur) : (s.modMe f).slot u = s.slot u :=
  slot_modSlot_ne _ _ h

@[simp] theorem State.coreRec_setCore_self (s : State) (c : Nat) (v : CoreRec) : (s.setCore c v).coreRec c = v :=
  Store.get_set_self _ _ _ _

theorem State.coreRec_setCore_ne (s : State) (v : CoreRec) {c d : Nat} (h : d ≠ c) : (s.setCore c v).coreRec d = s.coreRec d :=
  Store.get_set_ne _ _ _ h

@[simp] theorem State.coreRec_modCore_self (s : State) (c : Nat) (f : CoreRec → CoreRec) :
    (s.modCore c f).coreRec c = f (s.coreRec c) := coreRec_setCore_self _ _ _

theorem State.coreRec_modCore_ne (s : State) (f : CoreRec → CoreRec) {c d : Nat} (h : d ≠ c) :
    (s.modCore c f).coreRec d = s.coreRec d := coreRec_setCore_ne _ _ h

@[simp] theorem State.ctx_modCtx_self (s : State) (i : Nat) (f : CtxRec → CtxRec) : (s.modCtx i f).ctx i = f (s.ctx i) :=
  Store.get_set_self _ _ _ _

theorem State.ctx_modCtx_ne (s : State) (f : CtxRec → CtxRec) {i j : Nat} (h : j ≠ i) : (s.modCtx i f).ctx j = s.ctx j :=
  Store.get_set_ne _ _ _ h

@[simp] theorem State.slot_setCore (s : State) (c : Nat) (v : CoreRec) (t : Nat) : (s.setCore c v).slot t = s.slot t := rfl
@[simp] theorem State.slot_modCore (s : State) (c : Nat) (f : CoreRec → CoreRec) (t : Nat) : (s.modCore c f).slot t = s.slot t := rfl
@[simp] theorem State.coreRec_setSlot (s : State) (t : Nat) (v : Slot) (c : Nat) : (s.setSlot t v).coreRec c = s.coreRec c := rfl
@[simp] theorem State.coreRec_modSlot (s : State) (t : Nat) (f : Slot → Slot) (c : Nat) : (s.modSlot t f).coreRec c = s.coreRec c := rfl
@[simp] theorem State.coreRec_modMe (s : State) (f : Slot → Slot) (c : Nat) : (s.modMe f).coreRec c = s.coreRec c := rfl
@[simp] theorem State.here_modMe (s : State) (f : Slot → Slot) : (s.modMe f).here = s.here := rfl
@[simp] theorem State.here_modCore (s : State) (c : Nat) (f : CoreRec → CoreRec) : (s.modCore c f).here = s.here := rfl
@[simp] theorem State.me_modCore (s : State) (c : Nat) (f : CoreRec → CoreRec) : (s.modCore c f).me = s.me := rfl
@[simp] theorem State.num_modMe (s : State) (f : Slot → Slot) : (s.modMe f).num = s.num := rfl

end Sys2Proof.Machine
end

