-- ==== Sys2Proof/Laws/Ops.lean ====
section
/-! SUPPORT. The shared operations, each said once: how an instruction ends, what a trap leaves, what reading operands, consuming
sources and writing a destination do. -/
namespace Sys2Proof.Machine

open State

/-! ## How an instruction ends -/

@[simp] theorem State.finish_ok (s t : State) : s.finish (.ok t) = .next t := rfl
@[simp] theorem State.finish_error (s : State) (e : Stop) : s.finish (.error e) = .next (s.stop e) := rfl
@[simp] theorem State.stop_trap (s : State) (c : Nat) (v : Word) : s.stop (.trap c v) = s.takeTrap s.cur c v := rfl
@[simp] theorem State.stop_forfeit (s : State) : s.stop .forfeit = s := rfl
@[simp] theorem State.stop_page (s : State) (va access reason level : Nat) (info : Word) :
    s.stop (.page va access reason level info) = s.enterPageWait s.rights.ctx va access reason level info := rfl
@[simp] theorem State.stop_denied (s : State) (i va : Nat) (info : Word) :
    s.stop (.denied i va info) = (s.walked s.here i va).takeTrap s.cur 0x05 info := rfl

theorem State.stop_park (s : State) (p : Park) (v : Word) (h : s.me.codelet = false) :
    s.stop (.park p v) = (s.modMe fun sl => { sl with released := false }).parkMe p := by simp [State.stop, h]

theorem State.stop_park_codelet (s : State) (p : Park) (v : Word) (h : s.me.codelet = true) :
    s.stop (.park p v) = s.takeTrap s.cur 0x0C v := by simp [State.stop, h]

/-- An instruction always answers a next state: the one its body gives, or the one its stop leaves. -/
theorem State.finish_next (s : State) (r : Except Stop State) :
    ∃ t, s.finish r = .next t ∧ (r = .ok t ∨ ∃ e, r = .error e ∧ t = s.stop e) := by
  cases r with
  | ok t => exact ⟨t, rfl, .inl rfl⟩
  | error e => exact ⟨s.stop e, rfl, .inr ⟨e, rfl, rfl⟩⟩

/-! ## Traps -/

/-- A trap changes the slots alone. -/
theorem State.takeTrap_frame (s : State) (t c : Nat) (v : Word) : s.takeTrap t c v = { s with slots := (s.takeTrap t c v).slots } := by
  unfold State.takeTrap; dsimp only; split <;> rfl

@[simp] theorem State.takeTrap_mem (s : State) (t c : Nat) (v : Word) : (s.takeTrap t c v).mem = s.mem := by rw [takeTrap_frame]
@[simp] theorem State.takeTrap_cores (s : State) (t c : Nat) (v : Word) : (s.takeTrap t c v).cores = s.cores := by rw [takeTrap_frame]
@[simp] theorem State.takeTrap_regs (s : State) (t c : Nat) (v : Word) : (s.takeTrap t c v).regs = s.regs := by rw [takeTrap_frame]
@[simp] theorem State.takeTrap_cur (s : State) (t c : Nat) (v : Word) : (s.takeTrap t c v).cur = s.cur := by rw [takeTrap_frame]
@[simp] theorem State.takeTrap_net (s : State) (t c : Nat) (v : Word) : (s.takeTrap t c v).net = s.net := by rw [takeTrap_frame]

/-- A precise trap taken late changes the slots alone. -/
theorem State.lateTrap_frame (s : State) (t c : Nat) (v : Word) : s.lateTrap t c v = { s with slots := (s.lateTrap t c v).slots } := by
  unfold State.lateTrap; dsimp only; split
  · exact takeTrap_frame _ _ _ _
  · rfl

/-- A precise trap whose slot has no trap pending, on a core that issues, is taken at once (R404, R393). -/
theorem State.lateTrap_now (s : State) (t c : Nat) (v : Word) (hp : (s.slot t).pend = []) (hs : Store.get false s.dev.stopped (t / 64) = false) :
    s.lateTrap t c v = s.takeTrap t c v := by simp [State.lateTrap, hp, hs]

/-- A trap changes its own slot alone. -/
theorem State.takeTrap_slot_ne (s : State) (c : Nat) (v : Word) {t u : Nat} (h : u ≠ t) : (s.takeTrap t c v).slot u = s.slot u := by
  unfold State.takeTrap; dsimp only
  split
  · exact slot_modSlot_ne _ _ h
  · exact slot_setSlot_ne _ _ h

/-- A trap outside a handler whose vector is a code address enters the handler (R157). -/
theorem State.takeTrap_enters (s : State) (t c : Nat) (v : Word) {off : Nat} (hi : (s.slot t).intrap = false)
    (hv : codeAddr (t / 64) (s.slot t).trapVec = some off) :
    (s.takeTrap t c v).slot t = { s.slot t with
      phase := .ready, park := .none, released := false, barwToken := none, wait := none
      trapPc := addrOf (t / 64) (s.slot t).pc, trapCause := c, trapInfo := v, intrap := true
      pc := fld (s.slot t).trapVec 0 21 } := by
  simp [State.takeTrap, hi, hv]

/-- A trap inside a handler, or with a vector that is no code address, ends the thread (R157). -/
theorem State.takeTrap_ends (s : State) (t c : Nat) (v : Word)
    (h : (s.slot t).intrap = true ∨ codeAddr (t / 64) (s.slot t).trapVec = none) : s.takeTrap t c v = s.terminate t c := by
  by_cases hi : (s.slot t).intrap = true
  · simp [State.takeTrap, hi]
  · simp [State.takeTrap, hi, h.resolve_left hi]

/-! ## Threads by number -/

theorem Store.mem_keys_of_get {α : Type} {d : α} {s : Store α} {i : Nat} (h : Store.get d s i ≠ d) : i ∈ s.keys := by
  induction s with
  | nil => exact absurd rfl h
  | cons e r ih =>
    obtain ⟨k, v⟩ := e
    by_cases hk : k = i
    · simp [Store.keys, hk]
    · simp only [Store.get, hk, if_false] at h
      have := ih h
      simp only [Store.keys, List.map_cons, List.mem_cons] at this ⊢
      exact .inr this

/-- Slot t holds the thread of number uid. -/
def State.Holds (s : State) (uid t : Nat) : Prop := (s.slot t).uid = uid ∧ (s.slot t).phase ≠ .free

/-- A thread is found in the first slot that holds its number; which one depends on the slots' values alone. -/
theorem State.findThread_iff (s : State) (uid t : Nat) :
    s.findThread uid = some t ↔ uid ≠ 0 ∧ s.Holds uid t ∧ ∀ u, s.Holds uid u → t ≤ u := by
  have hm : ∀ u, u ∈ s.slots.keys.filter (fun t => (s.slot t).uid == uid && (s.slot t).phase != .free) ↔ s.Holds uid u := by
    intro u
    simp only [List.mem_filter, Bool.and_eq_true, beq_iff_eq, bne_iff_ne, ne_eq, State.Holds]
    constructor
    · exact fun h => h.2
    · refine fun h => ⟨?_, h⟩
      apply Store.mem_keys_of_get (d := ({} : Slot))
      intro e
      have hp : (s.slot u).phase = .free := by unfold State.slot; rw [e]
      exact h.2 hp
  unfold State.findThread
  by_cases h0 : uid = 0
  · simp [h0]
  · rw [if_neg h0, List.min?_eq_some_iff]
    simp only [hm, ne_eq, h0, not_false_eq_true, true_and]

theorem State.findThread_congr {s t : State} (uid : Nat) (h : ∀ u, s.Holds uid u ↔ t.Holds uid u) : s.findThread uid = t.findThread uid := by
  have : ∀ k, s.findThread uid = some k ↔ t.findThread uid = some k := by
    intro k; rw [findThread_iff, findThread_iff]; simp only [h]
  cases hs : s.findThread uid with
  | some k => exact ((this k).mp hs).symm
  | none =>
    cases ht : t.findThread uid with
    | none => rfl
    | some k => rw [(this k).mpr ht] at hs; contradiction

/-- A change of a slot that keeps its number and leaves it held or not finds every thread where it was. -/
theorem State.findThread_setSlot (s : State) (n : Nat) (v : Slot) (uid : Nat)
    (hu : v.uid = (s.slot n).uid) (hp : v.phase = .free ↔ (s.slot n).phase = .free) : (s.setSlot n v).findThread uid = s.findThread uid := by
  apply findThread_congr
  intro u
  unfold State.Holds
  by_cases h : u = n
  · subst h; rw [slot_setSlot_self, hu, ne_eq, hp]
  · rw [slot_setSlot_ne _ _ h]

/-! ## Wakes and registers -/

/-- A wake changes the slots alone. -/
theorem State.wakeSlot_frame (s : State) (t : Nat) (p : Park → Bool) : s.wakeSlot t p = { s with slots := (s.wakeSlot t p).slots } := by
  unfold State.wakeSlot; dsimp only; split <;> rfl

theorem State.wakeSlot_slot_ne (s : State) (p : Park → Bool) {t u : Nat} (h : u ≠ t) : (s.wakeSlot t p).slot u = s.slot u := by
  unfold State.wakeSlot; dsimp only; split
  · exact slot_setSlot_ne _ _ h
  · rfl

/-- A slot that is not parked for it is not woken. -/
theorem State.wakeSlot_of_not (s : State) (t : Nat) (p : Park → Bool) (h : ¬((s.slot t).phase = .parked ∧ p (s.slot t).park = true)) :
    s.wakeSlot t p = s := by
  unfold State.wakeSlot; dsimp only; rw [if_neg h]

/-- A wake on a core leaves every slot as it is, or READY where it was parked for what the wake says. -/
theorem State.wakeCore_slot (s : State) (c t : Nat) (p : Park → Bool) :
    (s.wakeCore c p).slot t = if t / 64 = c ∧ (s.slot t).phase = .parked ∧ p (s.slot t).park = true
      then { s.slot t with phase := .ready, park := .none } else s.slot t := by
  unfold State.wakeCore State.slot
  rw [Store.get_map]
  · dsimp only; split <;> rfl
  · intro e; dsimp only; split <;> rfl
  · dsimp only; split
    · rename_i h; exact absurd h.2.1 (by decide)
    · rfl

theorem State.setRegValue_frame (s : State) (t v : Nat) (w : Word) : s.setRegValue t v w = { s with regs := (s.setRegValue t v w).regs } := by
  unfold State.setRegValue; split <;> rfl

theorem State.setRegFull_frame (s : State) (t v : Nat) (b : Bool) : s.setRegFull t v b = { s with regFull := (s.setRegFull t v b).regFull } := by
  unfold State.setRegFull; split <;> rfl

/-- A register write changes the register file and the slot it may wake. -/
theorem State.writeReg_frame (s : State) (t v : Nat) (w : Word) :
    s.writeReg t v w = { s with regs := (s.writeReg t v w).regs, regFull := (s.writeReg t v w).regFull, slots := (s.writeReg t v w).slots } := by
  unfold State.writeReg
  rw [wakeSlot_frame, setRegFull_frame, setRegValue_frame]

/-- A register write leaves every other entry of the register file as it is, and every entry where the register is g0. -/
theorem State.writeReg_entry (s : State) (t v : Nat) (w : Word) (e : Nat) (h : e ≠ s.entryOf t v ∨ v = 0) :
    Store.get 0 (s.writeReg t v w).regs e = Store.get 0 s.regs e ∧
    Store.get true (s.writeReg t v w).regFull e = Store.get true s.regFull e := by
  unfold State.writeReg
  rw [wakeSlot_frame]
  by_cases hv : v = 0
  · simp [State.setRegFull, State.setRegValue, hv]
  · have he := h.resolve_right hv
    simp only [State.setRegFull, State.setRegValue, hv, if_false]
    exact ⟨Store.get_set_ne _ _ _ he, Store.get_set_ne _ _ _ he⟩

/-- A register written reads its value and is full; g0 reads zero. -/
theorem State.writeReg_self (s : State) (t v : Nat) (w : Word) (hb : ((s.writeReg t v w).slot t).base = (s.slot t).base) :
    (s.writeReg t v w).reg t v = (if v = 0 then 0 else w) ∧ (s.writeReg t v w).regIsFull t v = true := by
  by_cases hv : v = 0
  · simp [State.reg, State.regIsFull, hv]
  · have he : (s.writeReg t v w).entryOf t v = s.entryOf t v := by simp only [State.entryOf, hb]
    have h1 : (s.writeReg t v w).regs = Store.set 0 s.regs (s.entryOf t v) w := by
      unfold State.writeReg; rw [wakeSlot_frame]; simp [State.setRegFull, State.setRegValue, hv]
    have h2 : (s.writeReg t v w).regFull = Store.set true s.regFull (s.entryOf t v) true := by
      unfold State.writeReg; rw [wakeSlot_frame]; simp only [State.setRegFull, State.setRegValue, hv, if_false]; rfl
    simp [State.reg, State.regIsFull, hv, he, h1, h2]

/-- The window base of a slot is not changed by a register write. -/
theorem State.writeReg_base (s : State) (t v : Nat) (w : Word) (u : Nat) : ((s.writeReg t v w).slot u).base = (s.slot u).base := by
  unfold State.writeReg
  have h : ∀ x : State, x.slots = s.slots → ((x.wakeSlot t (· == Park.register v)).slot u).base = (s.slot u).base := by
    intro x hx
    have hs : ∀ n, x.slot n = s.slot n := fun n => by simp [State.slot, hx]
    unfold State.wakeSlot; dsimp only; split
    · by_cases hu : u = t
      · subst hu; simp [hs]
      · rw [slot_setSlot_ne _ _ hu, hs]
    · rw [hs]
  apply h
  rw [setRegFull_frame, setRegValue_frame]

/-! ## Operands -/

/-- An ordinary register of the window passes the window check (R56). -/
theorem State.checkCode_ok (s : State) (v : Nat) (h : v < s.me.limit) : s.checkCode v = .ok () := by simp [State.checkCode, h]

theorem State.checkCodes_ok (s : State) (l : List Nat) (h : ∀ v ∈ l, v < s.me.limit) : s.checkCodes l = .ok () := by
  induction l with
  | nil => rfl
  | cons v r ih =>
    rw [State.checkCodes, checkCode_ok s v (h v (by simp))]
    exact ih fun u hu => h u (by simp [hu])

/-- The first code of a list that fails its check decides the trap. -/
theorem State.checkCodes_error (s : State) (p r : List Nat) (v : Nat) (e : Stop) (h : ∀ u ∈ p, s.checkCode u = .ok ())
    (he : s.checkCode v = .error e) : s.checkCodes (p ++ v :: r) = .error e := by
  induction p with
  | nil => simp [State.checkCodes, he]
  | cons u p ih => simp [State.checkCodes, h u (by simp), ih fun w hw => h w (by simp [hw])]

/-- A code below 124 is no queue code, bound or lost. -/
theorem Slot.lost_low (sl : Slot) {v : Nat} (h : v < 124) : sl.lost v = false := by
  simp [Slot.lost, Nat.not_le_of_lt h]

theorem Slot.queueOf_low (sl : Slot) {v : Nat} (h : v < 124) : sl.queueOf v = none := by
  simp [Slot.queueOf, Nat.not_le_of_lt h]

/-- Codes that are no queue codes, bound or lost, pass the queue check (R197, R198). -/
theorem State.checkQueues_ok (s : State) (word : Word) (a b : List Nat) (h : ∀ v ∈ a ++ b, s.me.queueOf v = none)
    (hl : ∀ v ∈ a ++ b, s.me.lost v = false) : s.checkQueues word a b = .ok () := by
  have ha : ∀ v ∈ a, s.me.queueOf v = none := fun v hv => h v (by simp [hv])
  have hb : ∀ v ∈ b, s.me.queueOf v = none := fun v hv => h v (by simp [hv])
  unfold State.checkQueues
  rw [if_neg]
  simp only [Bool.or_eq_true, List.any_eq_true, not_or, not_exists, not_and]
  exact ⟨⟨fun v hv => by simp [hl v hv], fun v hv => by simp [ha v hv]⟩, fun v hv => by simp [hb v hv]⟩

/-- The code of a lost binding among an instruction's registers is the trap 0x01 (R198). -/
theorem State.checkQueues_lost (s : State) (word : Word) (a b : List Nat) (v : Nat) (hv : v ∈ a ++ b) (hl : s.me.lost v = true) :
    s.checkQueues word a b = .error (.trap 0x01 word) := by
  unfold State.checkQueues
  rw [if_pos]
  simp only [Bool.or_eq_true, List.any_eq_true]
  exact .inl (.inl ⟨v, hv, hl⟩)

/-- An ordinary register is read when full, and parks the reader when empty (R73). -/
theorem State.readSource_register (s : State) (all before : List Nat) (v : Nat) (hq : s.me.queueOf v = none) (hm : s.isMail v = false) :
    s.readSource all before v = if s.regIsFull s.cur v then .ok (s.reg s.cur v) else .error (.park (.register v) (ofNat v)) := by
  simp [State.readSource, hq, hm]

theorem State.readSources_ok (s : State) (all : List Nat) (l : List Nat) (hq : ∀ v ∈ l, s.me.queueOf v = none)
    (hm : ∀ v ∈ l, s.isMail v = false) (hf : ∀ v ∈ l, s.regIsFull s.cur v = true) (before : List Nat) :
    s.readSources all before l = .ok (l.map (s.reg s.cur)) := by
  induction l generalizing before with
  | nil => rfl
  | cons v r ih =>
    rw [State.readSources, readSource_register _ _ _ _ (hq v (by simp)) (hm v (by simp)), if_pos (hf v (by simp))]
    simp only
    rw [ih (fun u hu => hq u (by simp [hu])) (fun u hu => hm u (by simp [hu])) (fun u hu => hf u (by simp [hu]))]
    rfl

/-- Registers of the window, all sources full: their values are the operands. -/
theorem State.operands_ok (s : State) (word : Word) (srcs dsts : List Nat) (hl : ∀ v ∈ srcs ++ dsts, v < s.me.limit)
    (hq : ∀ v ∈ srcs ++ dsts, s.me.queueOf v = none) (ho : ∀ v ∈ srcs ++ dsts, s.me.lost v = false) (hm : ∀ v ∈ srcs, s.isMail v = false)
    (hf : ∀ v ∈ srcs, s.regIsFull s.cur v = true) : s.operands word srcs dsts = .ok (srcs.map (s.reg s.cur)) := by
  simp only [State.operands, checkCodes_ok s _ hl, checkQueues_ok s _ _ _ hq ho]
  exact readSources_ok s srcs srcs (fun v hv => hq v (by simp [hv])) hm hf []

/-- Consuming sources that are no queue codes does nothing. -/
theorem State.consume_none (s : State) (l : List Nat) (h : ∀ v ∈ l, s.me.queueOf v = none) : s.consume l = s := by
  induction l with
  | nil => rfl
  | cons v r ih => rw [State.consume, h v (by simp)]; exact ih fun u hu => h u (by simp [hu])

/-- Consuming sources changes the cores' queues alone. -/
theorem State.consume_frame (s : State) (l : List Nat) : s.consume l = { s with cores := (s.consume l).cores } := by
  induction l generalizing s with
  | nil => rfl
  | cons v r ih =>
    unfold State.consume
    split
    · rw [ih]; rfl
    · rw [ih]

@[simp] theorem State.consume_mem (s : State) (l : List Nat) : (s.consume l).mem = s.mem := by rw [consume_frame]
@[simp] theorem State.consume_slots (s : State) (l : List Nat) : (s.consume l).slots = s.slots := by rw [consume_frame]
@[simp] theorem State.consume_regs (s : State) (l : List Nat) : (s.consume l).regs = s.regs := by rw [consume_frame]
@[simp] theorem State.consume_regFull (s : State) (l : List Nat) : (s.consume l).regFull = s.regFull := by rw [consume_frame]
@[simp] theorem State.consume_cur (s : State) (l : List Nat) : (s.consume l).cur = s.cur := by rw [consume_frame]
@[simp] theorem State.consume_net (s : State) (l : List Nat) : (s.consume l).net = s.net := by rw [consume_frame]
@[simp] theorem State.consume_names (s : State) (l : List Nat) : (s.consume l).names = s.names := by rw [consume_frame]
@[simp] theorem State.consume_slot (s : State) (l : List Nat) (t : Nat) : (s.consume l).slot t = s.slot t := by rw [consume_frame]; rfl
@[simp] theorem State.consume_me (s : State) (l : List Nat) : (s.consume l).me = s.me := by rw [consume_frame]; rfl

@[simp] theorem State.consume_here (s : State) (l : List Nat) : (s.consume l).here = s.here := by rw [consume_frame]; rfl
@[simp] theorem State.consume_num (s : State) (l : List Nat) : (s.consume l).num = s.num := by rw [consume_frame]; rfl

/-! ## The next instruction -/

@[simp] theorem State.advance_me (s : State) : s.advance.me = s.me.advance := me_modMe s _
theorem State.advance_slot_ne (s : State) {u : Nat} (h : u ≠ s.cur) : s.advance.slot u = s.slot u := slot_modMe_ne s _ h
@[simp] theorem State.advance_here (s : State) : s.advance.here = s.here := rfl
@[simp] theorem State.advance_num (s : State) : s.advance.num = s.num := rfl
@[simp] theorem State.advance_coreRec (s : State) (c : Nat) : s.advance.coreRec c = s.coreRec c := rfl
@[simp] theorem Slot.advance_queueOf (sl : Slot) (v : Nat) : sl.advance.queueOf v = sl.queueOf v := rfl
@[simp] theorem Slot.advance_inQueue (sl : Slot) (n : Nat) : sl.advance.inQueue n = sl.inQueue n := rfl
@[simp] theorem Slot.advance_outQueue (sl : Slot) (n : Nat) : sl.advance.outQueue n = sl.outQueue n := rfl
@[simp] theorem State.advance_isMail (s : State) (v : Nat) : s.advance.isMail v = s.isMail v := rfl
@[simp] theorem State.advance_entryOf (s : State) (v : Nat) : s.advance.entryOf s.cur v = s.entryOf s.cur v := by
  have : (s.advance.slot s.cur).base = (s.slot s.cur).base := by
    show (s.advance.me).base = _
    rw [advance_me]; rfl
  simp only [State.entryOf, this]

/-- Outside a loop an instruction moves the pc by 4, and everything else of the slot but the release mark stays. -/
theorem Slot.advance_straight (sl : Slot) (h : sl.loops = []) : sl.advance = { sl with pc := sl.pc + 4, released := false } := by
  simp [Slot.advance, h, loopEnd]

/-! ## Pipeline queues -/

@[simp] theorem State.pipe_modPipe_self (s : State) (c n : Nat) (f : PipeQueue → PipeQueue) : (s.modPipe c n f).pipe c n = f (s.pipe c n) := by
  unfold State.pipe State.modPipe
  rw [coreRec_modCore_self]
  exact Store.get_set_self _ _ _ _

theorem State.pipe_modPipe_ne (s : State) (c : Nat) (f : PipeQueue → PipeQueue) {n m : Nat} (h : m ≠ n) : (s.modPipe c n f).pipe c m = s.pipe c m := by
  unfold State.pipe State.modPipe
  rw [coreRec_modCore_self]
  exact Store.get_set_ne _ _ _ h

@[simp] theorem State.wakeCore_coreRec (s : State) (c : Nat) (p : Park → Bool) (d : Nat) : (s.wakeCore c p).coreRec d = s.coreRec d := rfl
@[simp] theorem State.wakeCore_pipe (s : State) (c : Nat) (p : Park → Bool) (d n : Nat) : (s.wakeCore c p).pipe d n = s.pipe d n := rfl

/-- A push appends to its queue. -/
@[simp] theorem State.pushPipe_pipe (s : State) (c n : Nat) (w : Word) :
    ((s.pushPipe c n w).pipe c n).entries = (s.pipe c n).entries ++ [w] := by simp [State.pushPipe]

/-! ## Destinations -/

/-- A destination register that awaits no reply can be written (R75). -/
theorem State.destReady_register (s : State) (d : Nat) (hq : s.me.queueOf d = none) (hm : s.isMail d = false) :
    s.destReady d = if s.awaits s.cur d then .error .forfeit else .ok () := by
  simp [State.destReady, hq, hm]

/-- A result for an ordinary register is a register write. -/
theorem State.writeDest_register (s : State) (d : Nat) (w : Word) (hq : s.me.queueOf d = none) (hm : s.isMail d = false) :
    s.writeDest d w = s.writeReg s.cur d w := by simp [State.writeDest, hq, hm]

end Sys2Proof.Machine
end

