-- ==== Sys2Proof/Laws/Exec.lean ====
section
/-! SUPPORT. No instruction stops. -/
namespace Sys2Proof.Machine

/-- exec answers a next state for every instruction and every state: no meaning ends in a fault or a refusal. -/
theorem exec_next (i : Instr) (s : State) : ∃ t, exec i s = .next t := by
  have h (r : Except Stop State) : ∃ t, s.finish r = .next t := (s.finish_next r).imp fun _ h => h.1
  cases i <;> first | exact ⟨_, rfl⟩ | exact h _

end Sys2Proof.Machine
end

