-- ==== Sys2Proof/Laws/Float.lean ====
section
/-! SUPPORT. What the model's floating-point arithmetic delivers, in the terms of Values: rounding (R34, R35, R40), the exact sum, difference,
product, fused product, quotient and square root of finite patterns, conversions (R39 to R41) and the sums of a sub-block (R45). -/
namespace Sys2Proof.Machine
open Sys2Proof.Claims

/-- The number X that m * 2^e stands for where it is rounded at 2^q: that number itself, or one between its neighbours, m being odd and far below
2^q. -/
def Near (m : Nat) (e q : Int) (X : ℝ) : Prop :=
  X = m * 2 ^ e ∨ (m % 2 = 1 ∧ e + 2 ≤ q ∧ ((m : ℝ) - 1) * 2 ^ e < X ∧ X < (m + 1) * 2 ^ e)

/-- Where X lies beside the multiples of 2^q. -/
theorem near_parts (m : Nat) (e q : Int) (X : ℝ) (h : Near m e q X) (hq : e < q) :
    let r := (q - e).toNat
    let n := m / 2 ^ r
    let rest := m % 2 ^ r
    let u : ℝ := 2 ^ q
    (rest = 0 ∧ X = n * u) ∨ (0 < rest ∧ rest < 2 ^ (r - 1) ∧ n * u < X ∧ X < n * u + u / 2) ∨ (rest = 2 ^ (r - 1) ∧ X = n * u + u / 2) ∨
      (2 ^ (r - 1) < rest ∧ n * u + u / 2 < X ∧ X < n * u + u) := by
  intro r n rest u
  have hr : (r : ℤ) = q - e := Int.toNat_of_nonneg (by omega)
  have hr1 : 1 ≤ r := by omega
  obtain ⟨k, hk⟩ : ∃ k, r = k + 1 := ⟨r - 1, by omega⟩
  have hw : (0 : ℝ) < 2 ^ e := by positivity
  have hu : u = 2 * 2 ^ k * 2 ^ e := by
    have : q = ((k + 1 : ℕ) : ℤ) + e := by omega
    simp only [u, this]; rw [zpow_add₀ (by norm_num), zpow_natCast, pow_succ]; ring
  have hm : m = n * (2 * 2 ^ k) + rest := by
    have := Nat.div_add_mod m (2 ^ r); rw [hk, pow_succ] at this
    simp only [n, rest, hk, pow_succ]; nlinarith
  have hrest : rest < 2 * 2 ^ k := by simp only [rest, hk, pow_succ]; rw [mul_comm 2]; exact Nat.mod_lt _ (by positivity)
  have hmR : (m : ℝ) = n * (2 * 2 ^ k) + rest := by exact_mod_cast hm
  have hrestR : (rest : ℝ) < 2 * 2 ^ k := by exact_mod_cast hrest
  have e1 : r - 1 = k := by omega
  rw [e1]
  rcases h with h | ⟨hodd, hq2, h1, h2⟩
  · rcases Nat.lt_trichotomy rest (2 ^ k) with c | c | c
    · rcases Nat.eq_zero_or_pos rest with z | z
      · left; refine ⟨z, ?_⟩; rw [h, hmR, z, hu]; push_cast; ring
      · right; left
        have c' : (rest : ℝ) < 2 ^ k := by exact_mod_cast c
        have z' : (0 : ℝ) < rest := by exact_mod_cast z
        refine ⟨z, c, ?_, ?_⟩ <;> rw [h, hmR, hu] <;> nlinarith
    · right; right; left
      have c' : (rest : ℝ) = 2 ^ k := by exact_mod_cast c
      refine ⟨c, ?_⟩; rw [h, hmR, hu, c']; ring
    · right; right; right
      have c' : (2 : ℝ) ^ k < rest := by exact_mod_cast c
      refine ⟨c, ?_, ?_⟩ <;> rw [h, hmR, hu] <;> nlinarith
  · obtain ⟨j, hj⟩ : ∃ j, k = j + 1 := ⟨k - 1, by omega⟩
    have ro : rest % 2 = 1 := by
      have : m % 2 = rest % 2 := by rw [hm, Nat.add_mod]; simp [Nat.mul_mod]
      omega
    have h2k : 2 ^ k = 2 * 2 ^ j := by rw [hj, pow_succ]; ring
    rcases Nat.lt_trichotomy rest (2 ^ k) with c | c | c
    · right; left
      have c1 : rest + 1 ≤ 2 ^ k := c
      have c' : (rest : ℝ) + 1 ≤ 2 ^ k := by exact_mod_cast c1
      have z : 0 < rest := by omega
      have z' : (1 : ℝ) ≤ rest := by exact_mod_cast z
      refine ⟨z, c, lt_of_le_of_lt ?_ h1, lt_of_lt_of_le h2 ?_⟩ <;> rw [hmR, hu] <;> nlinarith
    · exfalso; omega
    · right; right; right
      have c1 : 2 ^ k + 1 ≤ rest := c
      have c' : (2 : ℝ) ^ k + 1 ≤ rest := by exact_mod_cast c1
      have d1 : rest + 1 ≤ 2 * 2 ^ k := hrest
      have d' : (rest : ℝ) + 1 ≤ 2 * 2 ^ k := by exact_mod_cast d1
      refine ⟨c, lt_of_le_of_lt ?_ h1, lt_of_lt_of_le h2 ?_⟩ <;> rw [hmR, hu] <;> nlinarith

/-- The sign of a number as a factor. -/
def signR (neg : Bool) : ℝ := if neg then -1 else 1

/-- A multiple of the place is its own rounding. -/
theorem rounds_self (rm : Nat) (neg : Bool) (n : Nat) (u : ℝ) (hu : 0 < u) : RoundsTo rm u (signR neg * (n * u)) (signR neg * (n * u)) := by
  refine ⟨⟨if neg then -(n : ℤ) else n, by cases neg <;> simp [signR]⟩, ?_⟩
  split
  · simp only [sub_self, abs_zero, mul_zero]; exact ⟨hu.le, fun h => absurd h hu.ne⟩
  · exact ⟨le_refl _, by linarith, mul_self_nonneg _⟩
  · exact ⟨le_refl _, by linarith⟩
  · exact ⟨le_refl _, by linarith⟩

theorem signR_cases (neg : Bool) : (neg = false ∧ signR neg = 1) ∨ (neg = true ∧ signR neg = -1) := by cases neg <;> simp [signR]

theorem multiple_sign (neg : Bool) (n : Nat) (u : ℝ) : ∃ k : ℤ, signR neg * (n * u) = k * u :=
  ⟨if neg then -(n : ℤ) else n, by cases neg <;> simp [signR]⟩

/-- The lower neighbour, in a mode that takes it. -/
theorem rounds_floor (rm : Nat) (neg : Bool) (n : Nat) (u X : ℝ) (hX : 0 < X) (hm : rm = 1 ∨ (rm = 2 ∧ neg = true) ∨ (rm ≠ 0 ∧ rm ≠ 1 ∧ rm ≠ 2 ∧ neg = false))
    (hu : 0 < u) (h1 : n * u ≤ X) (h2 : X < n * u + u) : RoundsTo rm u (signR neg * X) (signR neg * (n * u)) := by
  have hn : (0 : ℝ) ≤ n * u := by positivity
  refine ⟨multiple_sign _ _ _, ?_⟩
  rcases hm with rfl | ⟨rfl, rfl⟩ | ⟨c0, c1, c2, rfl⟩
  · have ha : ∀ y : ℝ, |signR neg * y| = |y| := by intro y; cases neg <;> simp [signR]
    simp only [ha, abs_of_nonneg hn, abs_of_pos hX]
    refine ⟨h1, h2, ?_⟩
    rcases signR_cases neg with ⟨-, h⟩ | ⟨-, h⟩ <;> rw [h] <;> nlinarith
  · simp only [signR]; constructor <;> simp <;> linarith
  · split
    · omega
    · omega
    · omega
    · simp only [signR]; constructor <;> simp <;> linarith

/-- The upper neighbour, in a mode that takes it. -/
theorem rounds_ceil (rm : Nat) (neg : Bool) (n : Nat) (u X : ℝ) (hm : (rm = 2 ∧ neg = false) ∨ (rm ≠ 0 ∧ rm ≠ 1 ∧ rm ≠ 2 ∧ neg = true))
    (h1 : X ≤ n * u) (h2 : n * u < X + u) : RoundsTo rm u (signR neg * X) (signR neg * (n * u)) := by
  refine ⟨multiple_sign _ _ _, ?_⟩
  rcases hm with ⟨rfl, rfl⟩ | ⟨c0, c1, c2, rfl⟩
  · simp only [signR]; constructor <;> simp <;> linarith
  · split
    · omega
    · omega
    · omega
    · simp only [signR]; constructor <;> simp <;> linarith

/-- The nearest multiple, the even one of two. -/
theorem rounds_near (neg : Bool) (n : Nat) (u X : ℝ) (h : 2 * |n * u - X| ≤ u) (ht : 2 * |n * u - X| = u → n % 2 = 0) :
    RoundsTo 0 u (signR neg * X) (signR neg * (n * u)) := by
  have ha : |signR neg * (n * u) - signR neg * X| = |n * u - X| := by
    rw [← mul_sub, abs_mul]; cases neg <;> simp [signR]
  refine ⟨multiple_sign _ _ _, ?_⟩
  simp only [ha]
  refine ⟨h, fun e => ?_⟩
  obtain ⟨j, hj⟩ : ∃ j, n = 2 * j := ⟨n / 2, by have := ht e; omega⟩
  refine ⟨if neg then -(j : ℤ) else j, ?_⟩
  rw [hj]; cases neg <;> simp [signR]

/-- The directed modes, between two multiples. -/
theorem rounds_directed (rm : Nat) (neg : Bool) (n rest H : Nat) (u X : ℝ) (h0 : rm ≠ 0) (hr : rest ≠ 0) (hX : 0 < X) (hu : 0 < u)
    (h1 : n * u < X) (h2 : X < n * u + u) :
    RoundsTo rm u (signR neg * X) (signR neg * ((if roundsUp rm neg n rest H then n + 1 else n : ℕ) * u)) := by
  have c1 : ((n + 1 : ℕ) : ℝ) * u = n * u + u := by push_cast; ring
  have hc : rm = 1 ∨ rm = 2 ∨ (rm ≠ 0 ∧ rm ≠ 1 ∧ rm ≠ 2) := by omega
  rcases hc with rfl | rfl | ⟨a0, a1, a2⟩
  · exact rounds_floor _ _ _ _ _ hX (Or.inl rfl) hu h1.le h2
  · cases neg
    · simp only [roundsUp, Bool.not_false, bne_iff_ne.mpr hr, Bool.and_self, if_true]
      exact rounds_ceil _ _ _ _ _ (Or.inl ⟨rfl, rfl⟩) (by linarith) (by linarith)
    · exact rounds_floor _ _ _ _ _ hX (Or.inr (Or.inl ⟨rfl, rfl⟩)) hu h1.le h2
  · have e : roundsUp rm neg n rest H = neg := by unfold roundsUp; split <;> simp_all
    rw [e]
    cases neg
    · exact rounds_floor _ _ _ _ _ hX (Or.inr (Or.inr ⟨a0, a1, a2, rfl⟩)) hu h1.le h2
    · exact rounds_ceil _ _ _ _ _ (Or.inr ⟨a0, a1, a2, rfl⟩) (by simp only [if_true]; linarith) (by simp only [if_true]; linarith)

/-- roundAt rounds the number to the place of 2^q by the mode, and says whether that changed it. -/
theorem roundAt_rounds (rm : Nat) (neg : Bool) (m : Nat) (e q : Int) (X : ℝ) (hX : 0 < X) (h : Near m e q X) :
    let r := roundAt rm neg m e q
    RoundsTo rm (2 ^ q) (signR neg * X) (signR neg * (r.1 * 2 ^ q)) ∧ (r.2 = true ↔ (r.1 : ℝ) * 2 ^ q ≠ X) := by
  have hu : (0 : ℝ) < 2 ^ q := by positivity
  by_cases hq : q ≤ e
  · have e1 : roundAt rm neg m e q = (m <<< (e - q).toNat, false) := by unfold roundAt; rw [if_pos hq]
    have hx : X = (m <<< (e - q).toNat : ℕ) * (2 : ℝ) ^ q := by
      rcases h with h | h
      · rw [h, Nat.shiftLeft_eq]; push_cast
        rw [mul_assoc, ← zpow_natCast, ← zpow_add₀ (by norm_num)]; congr 2; omega
      · omega
    rw [e1]; dsimp only; rw [← hx]
    exact ⟨by rw [hx]; exact rounds_self _ _ _ _ hu, by simp⟩
  · have hq : e < q := by omega
    have hp := near_parts m e q X h hq
    have e1 : roundAt rm neg m e q = (if roundsUp rm neg (m / 2 ^ (q - e).toNat) (m % 2 ^ (q - e).toNat) (2 ^ ((q - e).toNat - 1))
        then m / 2 ^ (q - e).toNat + 1 else m / 2 ^ (q - e).toNat, m % 2 ^ (q - e).toNat != 0) := by
      unfold roundAt; rw [if_neg (by omega)]; simp only [Nat.shiftRight_eq_div_pow]
    rw [e1]; clear e1 h; dsimp only at hp ⊢
    generalize m / 2 ^ (q - e).toNat = n, m % 2 ^ (q - e).toNat = rest, hH : 2 ^ ((q - e).toNat - 1) = H, (2 : ℝ) ^ q = u at *
    have hH0 : 0 < H := by rw [← hH]; positivity
    have hn : (0 : ℝ) ≤ n * u := by positivity
    have hc : rm = 0 ∨ rm = 1 ∨ rm = 2 ∨ (rm ≠ 0 ∧ rm ≠ 1 ∧ rm ≠ 2) := by omega
    have c1 : ((n + 1 : ℕ) : ℝ) * u = n * u + u := by push_cast; ring
    rcases hp with ⟨z, hx⟩ | ⟨z, zh, x1, x2⟩ | ⟨z, hx⟩ | ⟨zh, x1, x2⟩
    · -- exact
      have hb : roundsUp rm neg n rest H = false := by
        rcases hc with rfl | rfl | rfl | ⟨h0, h1, h2⟩
        · simp [roundsUp, z, hH0.ne]
        · rfl
        · simp [roundsUp, z]
        · unfold roundsUp; split <;> simp_all
      rw [hb]; simp only [Bool.false_eq_true, if_false, z, bne_self_eq_false, false_iff, ne_eq, not_not]
      rw [hx]; exact ⟨rounds_self _ _ _ _ hu, rfl⟩
    all_goals
      have zr : rest ≠ 0 := by omega
      have h1 : n * u < X := by linarith
      have h2 : X < n * u + u := by linarith
      refine ⟨?_, ?_⟩
      rotate_left
      · simp only [bne_iff_ne.mpr zr, true_iff]; split <;> (try rw [c1]) <;> intro hh <;> linarith
      by_cases h0 : rm = 0
      rotate_left
      · exact rounds_directed _ _ _ _ _ _ _ h0 zr hX hu h1 h2
      subst h0
    · have e : roundsUp 0 neg n rest H = false := by simp [roundsUp]; omega
      rw [e]
      exact rounds_near _ _ _ _ (by rw [if_neg (by simp), abs_of_neg (by linarith)]; linarith) (by rw [if_neg (by simp), abs_of_neg (by linarith)]; intro; linarith)
    · by_cases hp : n % 2 = 1
      · have e : roundsUp 0 neg n rest H = true := by simp [roundsUp, z, hp]
        rw [e]
        exact rounds_near _ _ _ _ (by rw [if_pos rfl, c1, abs_of_pos (by linarith)]; linarith) (by intro; rw [if_pos rfl]; omega)
      · have e : roundsUp 0 neg n rest H = false := by simp [roundsUp, z]; omega
        rw [e]
        exact rounds_near _ _ _ _ (by rw [if_neg (by simp), abs_of_neg (by linarith)]; linarith) (by intro; rw [if_neg (by simp)]; omega)
    · have e : roundsUp 0 neg n rest H = true := by simp [roundsUp, zh]
      rw [e]
      exact rounds_near _ _ _ _ (by rw [if_pos rfl, c1, abs_of_pos (by linarith)]; linarith) (by rw [if_pos rfl, c1, abs_of_pos (by linarith)]; intro; linarith)
theorem fmtOf_eq (code : Nat) (h : code < 6) :
    fmtOf code = { expBits := exponentBits code, manBits := mantissaBits code, bias := exponentBias code, ieee := decide (code ≠ 4) } := by
  interval_cases code <;> rfl

/-- The fields of a pattern of fields. -/
theorem patternOf_fields (code : Nat) (neg : Bool) (ex man : Nat) (he : ex < 2 ^ exponentBits code) (hm : man < 2 ^ mantissaBits code) :
    mantissaOf code (patternOf code neg ex man) = man ∧ exponentOf code (patternOf code neg ex man) = ex ∧
      negativeOf code (patternOf code neg ex man) = neg ∧ patternOf code neg ex man < 2 ^ (mantissaBits code + exponentBits code + 1) := by
  unfold mantissaOf exponentOf negativeOf patternOf
  generalize mantissaBits code = M, exponentBits code = E at *
  have h2 : 0 < 2 ^ M := by positivity
  have hE : 0 < 2 ^ E := by positivity
  obtain ⟨b, hb, hv⟩ : ∃ b, b < 2 ∧ (if neg then 2 ^ (M + E) else 0) = b * 2 ^ E * 2 ^ M ∧ (neg = true ↔ b = 1) := by
    cases neg
    · exact ⟨0, by norm_num, by simp⟩
    · exact ⟨1, by norm_num, by simp [pow_add, mul_comm]⟩
  rw [hv.1]
  have e1 : (b * 2 ^ E * 2 ^ M + ex * 2 ^ M + man) = man + (b * 2 ^ E + ex) * 2 ^ M := by ring
  have d1 : (man + (b * 2 ^ E + ex) * 2 ^ M) / 2 ^ M = b * 2 ^ E + ex := by
    rw [Nat.add_mul_div_right _ _ h2, Nat.div_eq_of_lt hm, zero_add]
  rw [e1, pow_add 2 M E, ← Nat.div_div_eq_div_mul, d1, Nat.add_mul_mod_self_right, Nat.mod_eq_of_lt hm]
  have d2 : (b * 2 ^ E + ex) % 2 ^ E = ex := by rw [add_comm, Nat.add_mul_mod_self_right, Nat.mod_eq_of_lt he]
  have d3 : (b * 2 ^ E + ex) / 2 ^ E = b := by rw [add_comm, Nat.add_mul_div_right _ _ hE, Nat.div_eq_of_lt he, zero_add]
  rw [d2, d3]
  refine ⟨rfl, rfl, ?_, ?_⟩
  · have : b = 0 ∨ b = 1 := by omega
    rcases this with rfl | rfl <;> simp_all
  · have a1 : b * 2 ^ E + ex + 1 ≤ 2 * 2 ^ E := by nlinarith
    have a2 : (b * 2 ^ E + ex + 1) * 2 ^ M ≤ 2 * 2 ^ E * 2 ^ M := Nat.mul_le_mul_right _ a1
    rw [pow_succ, pow_add]; nlinarith

/-- Its value. -/
theorem patternOf_value (code : Nat) (neg : Bool) (ex man : Nat) (he : ex < 2 ^ exponentBits code) (hm : man < 2 ^ mantissaBits code) :
    patternValue code (patternOf code neg ex man) = (if neg then -1 else 1) *
      (((if ex = 0 then man else (2 ^ mantissaBits code + man) * 2 ^ (ex - 1) : ℕ) : ℚ) * 2 ^ (1 - (exponentBias code : ℤ) - mantissaBits code)) := by
  obtain ⟨h1, h2, h3, -⟩ := patternOf_fields code neg ex man he hm
  unfold patternValue; rw [h1, h2, h3]
  congr 1
  by_cases h : ex = 0
  · simp [h]
  · rw [if_neg h, if_neg h]; push_cast
    rw [mul_assoc, ← zpow_natCast (2 : ℚ) (ex - 1), ← zpow_add₀ (by norm_num : (2 : ℚ) ≠ 0)]; congr 2; omega

/-- The largest finite number of a format, counted in its smallest subnormals. -/
def topCount (code : Nat) : Nat := if code = 4 then 14 * 2 ^ 14 else (2 ^ (mantissaBits code + 1) - 1) * 2 ^ (2 ^ exponentBits code - 3)

theorem width_facts (code : Nat) (h : code < 6) : 2 ≤ mantissaBits code ∧ 4 ≤ exponentBits code ∧ 16 ≤ 2 ^ exponentBits code := by
  interval_cases code <;> decide

theorem signBit_pattern (code : Nat) (h : code < 6) (neg : Bool) (x : Nat) (ex man : Nat) (hx : x = ex * 2 ^ mantissaBits code + man) :
    signBit (fmtOf code) neg + x = patternOf code neg ex man := by
  rw [fmtOf_eq code h]; unfold signBit patternOf; rw [hx]; ring

theorem maxBits_eq (code : Nat) (h : code < 6) (neg : Bool) : maxBits (fmtOf code) neg = largestPattern code neg := by
  interval_cases code <;> cases neg <;> decide
theorem infBits_eq (code : Nat) (h : code < 6) (neg : Bool) : infBits (fmtOf code) neg = infinityPattern code neg := by
  interval_cases code <;> cases neg <;> decide

/-- What a pattern and flags say of k smallest subnormals of a sign. -/
def Encodes (code rm : Nat) (neg : Bool) (k fl : Nat) (r : Nat × Nat) : Prop :=
  (k ≤ topCount code → FinitePattern code r.1 ∧
      patternValue code r.1 = (if neg then -1 else 1) * ((k : ℚ) * 2 ^ (1 - (exponentBias code : ℤ) - mantissaBits code)) ∧
      negativeOf code r.1 = neg ∧ r.1 < 2 ^ (mantissaBits code + exponentBits code + 1) ∧ r.2 = fl) ∧
    (topCount code < k → r.2 = 0x400 ||| 0x1000 ∧ r.1 = if code = 4 ∨ rm = 1 ∨ (rm = 2 ∧ neg = true) ∨ (rm = 3 ∧ neg = false)
      then largestPattern code neg else infinityPattern code neg)

/-- A finite pattern of fields encodes its count. -/
theorem encodes_pattern (code rm : Nat) (neg : Bool) (ex man fl k : Nat) (he : ex < 2 ^ exponentBits code) (hm : man < 2 ^ mantissaBits code)
    (hk : k = if ex = 0 then man else (2 ^ mantissaBits code + man) * 2 ^ (ex - 1)) (ht : k ≤ topCount code)
    (hf : ex + 1 ≠ 2 ^ exponentBits code ∨ (code = 4 ∧ man ≠ 7)) : Encodes code rm neg k fl (patternOf code neg ex man, fl) := by
  obtain ⟨h1, h2, h3, h4⟩ := patternOf_fields code neg ex man he hm
  refine ⟨fun _ => ⟨?_, ?_, h3, h4, rfl⟩, fun h => absurd h (by omega)⟩
  · unfold FinitePattern; rw [h1, h2]; exact hf
  · rw [patternOf_value code neg ex man he hm, hk]

/-- What encodeRounded answers where rounding carried nothing out. -/
theorem encodeRounded_plain (code rm : Nat) (neg : Bool) (n fl d : Nat) (hc : code < 6) (hn : n < 2 ^ (mantissaBits code + 1))
    (hd : n < 2 ^ mantissaBits code → d = 0) :
    Encodes code rm neg (n * 2 ^ d) fl (encodeRounded code rm neg n (1 - (exponentBias code : ℤ) - mantissaBits code + d) fl) := by
  obtain ⟨hM, hE, hE2⟩ := width_facts code hc
  have h0 : 0 < 2 ^ mantissaBits code := by positivity
  have hnc : (n == 2 ^ (mantissaBits code + 1)) = false := by simp; omega
  have hp : 2 ^ (mantissaBits code + 1) = 2 * 2 ^ mantissaBits code := by rw [pow_succ]; ring
  have htop : 2 * 2 ^ mantissaBits code ≤ topCount code + 1 := by
    unfold topCount; split
    · rename_i h; subst h; decide
    · have : 1 ≤ 2 ^ (2 ^ exponentBits code - 3) := Nat.one_le_two_pow
      have : 2 * 2 ^ mantissaBits code - 1 ≤ (2 * 2 ^ mantissaBits code - 1) * 2 ^ (2 ^ exponentBits code - 3) := Nat.le_mul_of_pos_right _ this
      rw [hp]; omega
  have f1 : (fmtOf code).manBits = mantissaBits code := by rw [fmtOf_eq code hc]
  have f2 : (fmtOf code).expBits = exponentBits code := by rw [fmtOf_eq code hc]
  have f3 : (fmtOf code).bias = exponentBias code := by rw [fmtOf_eq code hc]
  have f4 : (fmtOf code).ieee = decide (code ≠ 4) := by rw [fmtOf_eq code hc]
  unfold encodeRounded; simp only [maxBits_eq code hc, infBits_eq code hc, f1, f2, f3, f4, hnc, Bool.false_eq_true, if_false]
  by_cases hs : n < 2 ^ mantissaBits code
  · rw [if_pos hs, hd hs, signBit_pattern code hc neg n 0 n (by ring), pow_zero, mul_one]
    exact encodes_pattern _ _ _ _ _ _ _ (by positivity) hs (by simp) (by omega) (Or.inl (by omega))
  · rw [if_neg hs]
    have hex : (1 - (exponentBias code : ℤ) - mantissaBits code + d + mantissaBits code + exponentBias code).toNat = d + 1 := by omega
    rw [hex]
    have hpat : signBit (fmtOf code) neg + (d + 1) * 2 ^ mantissaBits code + (n - 2 ^ mantissaBits code) =
        patternOf code neg (d + 1) (n - 2 ^ mantissaBits code) := by rw [add_assoc]; exact signBit_pattern code hc neg _ _ _ rfl
    rw [hpat]
    have big (h : topCount code < n * 2 ^ d) (b : Nat) (hb : b = if code = 4 ∨ rm = 1 ∨ (rm = 2 ∧ neg = true) ∨ (rm = 3 ∧ neg = false)
        then largestPattern code neg else infinityPattern code neg) : Encodes code rm neg (n * 2 ^ d) fl (b, Flag.of ||| Flag.nx) :=
      ⟨fun h' => absurd h' (by omega), fun _ => ⟨rfl, hb⟩⟩
    have fin (h : d + 1 < 2 ^ exponentBits code) (ht : n * 2 ^ d ≤ topCount code) (hf : d + 1 + 1 ≠ 2 ^ exponentBits code ∨ (code = 4 ∧ n - 2 ^ mantissaBits code ≠ 7)) :
        Encodes code rm neg (n * 2 ^ d) fl (patternOf code neg (d + 1) (n - 2 ^ mantissaBits code), fl) :=
      encodes_pattern _ _ _ _ _ _ _ h (by omega) (by simp; omega) ht hf
    by_cases h4 : code = 4
    · subst h4
      have e1 : mantissaBits 4 = 3 := rfl
      have e2 : exponentBits 4 = 4 := rfl
      have e3 : topCount 4 = 14 * 2 ^ 14 := rfl
      simp only [e1, e2, e3] at *
      rw [if_neg (by decide)]
      have hd14 : d ≤ 13 ∨ d = 14 ∨ 15 ≤ d := by omega
      split
      · rename_i h
        refine big ?_ _ (by simp)
        rcases h with h | ⟨h, h'⟩
        · have : 2 ^ 15 ≤ 2 ^ d := Nat.pow_le_pow_right (by norm_num) (by omega)
          have : 8 * 2 ^ 15 ≤ n * 2 ^ d := Nat.mul_le_mul (by omega) this
          omega
        · rw [h', show d = 14 by omega]; norm_num
      · rename_i h
        refine fin (by omega) ?_ (by
          by_cases e : d = 14
          · exact Or.inr ⟨trivial, by omega⟩
          · left; omega)
        rcases hd14 with c | c | c
        · have : 2 ^ d ≤ 2 ^ 13 := Nat.pow_le_pow_right (by norm_num) c
          have : n * 2 ^ d ≤ 15 * 2 ^ 13 := Nat.mul_le_mul (by omega) this
          omega
        · have : n ≤ 14 := by omega
          rw [c]; omega
        · omega
    · simp only [ne_eq, h4, not_false_eq_true, decide_true, if_true]
      have e3 : topCount code = (2 * 2 ^ mantissaBits code - 1) * 2 ^ (2 ^ exponentBits code - 3) := by unfold topCount; rw [if_neg h4, hp]
      have hE3 : 2 ^ (2 ^ exponentBits code - 2) = 2 * 2 ^ (2 ^ exponentBits code - 3) := by
        rw [← pow_succ']; congr 1; omega
      have hpos : 0 < 2 ^ (2 ^ exponentBits code - 3) := by positivity
      by_cases h : 2 ^ exponentBits code - 1 ≤ d + 1
      · rw [if_pos h]
        refine big ?_ _ ?_
        · have a : 2 ^ (2 ^ exponentBits code - 2) ≤ 2 ^ d := Nat.pow_le_pow_right (by norm_num) (by omega)
          have b : 2 ^ mantissaBits code * (2 * 2 ^ (2 ^ exponentBits code - 3)) ≤ n * 2 ^ d := Nat.mul_le_mul (by omega) (hE3 ▸ a)
          rw [e3]
          have c : (2 * 2 ^ mantissaBits code - 1) * 2 ^ (2 ^ exponentBits code - 3) < 2 * 2 ^ mantissaBits code * 2 ^ (2 ^ exponentBits code - 3) :=
            Nat.mul_lt_mul_of_pos_right (by omega) hpos
          nlinarith
        · simp only [h4, false_or]
          by_cases q1 : rm = 1 <;> by_cases q2 : rm = 2 <;> by_cases q3 : rm = 3 <;> cases neg <;> simp_all
      · rw [if_neg h]
        refine fin (by omega) ?_ (Or.inl (by omega))
        rw [e3]
        exact Nat.mul_le_mul (by omega) (Nat.pow_le_pow_right (by norm_num) (by omega))

/-- What encodeRounded answers for n * 2^d smallest subnormals. -/
theorem encodeRounded_value (code rm : Nat) (neg : Bool) (n fl d : Nat) (hc : code < 6)
    (hn : n ≤ 2 ^ (mantissaBits code + 1)) (hd : n < 2 ^ mantissaBits code → d = 0) :
    Encodes code rm neg (n * 2 ^ d) fl (encodeRounded code rm neg n (1 - (exponentBias code : ℤ) - mantissaBits code + d) fl) := by
  by_cases h : n = 2 ^ (mantissaBits code + 1)
  · have h0 : 0 < 2 ^ mantissaBits code := by positivity
    have h1 : (2 ^ mantissaBits code == 2 ^ (mantissaBits code + 1)) = false := by rw [pow_succ]; simp
    have e1 : encodeRounded code rm neg n (1 - (exponentBias code : ℤ) - mantissaBits code + d) fl =
        encodeRounded code rm neg (2 ^ mantissaBits code) (1 - (exponentBias code : ℤ) - mantissaBits code + (d + 1 : ℕ)) fl := by
      unfold encodeRounded; rw [fmtOf_eq code hc]; simp only [h, beq_self_eq_true, if_true, h1, Bool.false_eq_true, if_false]
      push_cast; simp only [add_assoc]
    have e2 : n * 2 ^ d = 2 ^ mantissaBits code * 2 ^ (d + 1) := by rw [h, pow_succ, pow_succ]; ring
    rw [e1, e2]
    exact encodeRounded_plain _ _ _ _ _ _ hc (by rw [pow_succ]; omega) (fun h => absurd h (lt_irrefl _))
  · exact encodeRounded_plain _ _ _ _ _ _ hc (by omega) hd

theorem topCount_value (code : Nat) (h : code < 6) :
    patternValue code (largestPattern code false) = (topCount code : ℚ) * 2 ^ (1 - (exponentBias code : ℤ) - mantissaBits code) := by
  obtain ⟨hM, hE, hE2⟩ := width_facts code h
  have h0 : 0 < 2 ^ mantissaBits code := by positivity
  unfold largestPattern topCount
  by_cases h4 : code = 4
  · subst h4; rw [if_pos rfl, if_pos rfl, patternOf_value 4 false 15 6 (by decide) (by decide)]; simp; left
    have : mantissaBits 4 = 3 := rfl
    rw [this]; norm_num
  · rw [if_neg h4, if_neg h4, patternOf_value code false _ _ (by omega) (by omega)]
    have : 2 ^ mantissaBits code + (2 ^ mantissaBits code - 1) = 2 ^ (mantissaBits code + 1) - 1 := by rw [pow_succ]; omega
    rw [if_neg (show ¬ (2 ^ exponentBits code - 2 = 0) by omega), this, show 2 ^ exponentBits code - 2 - 1 = 2 ^ exponentBits code - 3 by omega]; simp

/-- A nonzero number, or one between the neighbours of m * 2^e where m is odd and has two bits more than the mantissa. -/
def Exact (code m : Nat) (e : Int) (X : ℝ) : Prop :=
  m ≠ 0 ∧ (X = m * 2 ^ e ∨ (m % 2 = 1 ∧ mantissaBits code + 2 ≤ m.log2 ∧ ((m : ℝ) - 1) * 2 ^ e < X ∧ X < (m + 1) * 2 ^ e))

/-- Its exponent. -/
theorem Exact.exponent {code m : Nat} {e : Int} {X : ℝ} (h : Exact code m e X) : (2 : ℝ) ^ ((m.log2 : ℤ) + e) ≤ X ∧ X < 2 ^ ((m.log2 : ℤ) + e + 1) := by
  obtain ⟨h0, h⟩ := h
  have he : (0 : ℝ) < 2 ^ e := by positivity
  have h1 : 2 ^ m.log2 ≤ m := Nat.log2_self_le h0
  have h2 : m < 2 ^ (m.log2 + 1) := Nat.lt_log2_self
  have r1 : (2 : ℝ) ^ m.log2 ≤ m := by exact_mod_cast h1
  have r2 : (m : ℝ) + 1 ≤ 2 ^ (m.log2 + 1) := by exact_mod_cast h2
  have e1 : (2 : ℝ) ^ ((m.log2 : ℤ) + e) = 2 ^ m.log2 * 2 ^ e := by rw [zpow_add₀ (by norm_num), zpow_natCast]
  have e2 : (2 : ℝ) ^ ((m.log2 : ℤ) + e + 1) = 2 ^ (m.log2 + 1) * 2 ^ e := by
    rw [show (m.log2 : ℤ) + e + 1 = ((m.log2 + 1 : ℕ) : ℤ) + e by push_cast; ring, zpow_add₀ (by norm_num), zpow_natCast]
  rw [e1, e2]
  rcases h with h | ⟨ho, hl, h3, h4⟩
  · rw [h]; constructor <;> nlinarith
  · have h5 : 2 ^ m.log2 + 1 ≤ m := by
      have : 2 ^ m.log2 ≠ m := by
        intro c; obtain ⟨k, hk⟩ : ∃ k, m.log2 = k + 1 := ⟨m.log2 - 1, by omega⟩
        rw [hk, pow_succ] at c; omega
      omega
    have r3 : (2 : ℝ) ^ m.log2 + 1 ≤ m := by exact_mod_cast h5
    constructor <;> nlinarith

theorem Exact.near {code m : Nat} {e q : Int} {X : ℝ} (h : Exact code m e X) (hq : (m.log2 : ℤ) + e - mantissaBits code ≤ q) : Near m e q X := by
  rcases h.2 with h | ⟨h1, h2, h3, h4⟩
  · exact Or.inl h
  · exact Or.inr ⟨h1, by omega, h3, h4⟩


/-- A rounding lies less than one place away. -/
theorem rounds_within {rm : Nat} {u x y : ℝ} (h : RoundsTo rm u x y) (hu : 0 < u) : |y - x| < u := by
  obtain ⟨-, h⟩ := h
  rw [abs_lt]
  split at h
  · have := (abs_le.1 (show |y - x| ≤ u / 2 by linarith [h.1])); constructor <;> linarith [this.1, this.2]
  · obtain ⟨h1, h2, h3⟩ := h
    rcases lt_trichotomy x 0 with c | c | c
    · have hy : y ≤ 0 := by by_contra g; push Not at g; nlinarith
      rw [abs_of_nonpos hy, abs_of_neg c] at h1 h2; constructor <;> linarith
    · subst c; rw [abs_zero] at h1; have := abs_nonneg y; have hy : y = 0 := abs_eq_zero.1 (by linarith)
      subst hy; simp [hu]
    · have hy : 0 ≤ y := by by_contra g; push Not at g; nlinarith
      rw [abs_of_nonneg hy, abs_of_pos c] at h1 h2; constructor <;> linarith
  · constructor <;> linarith [h.1, h.2]
  · constructor <;> linarith [h.1, h.2]

theorem signR_abs (neg : Bool) (y : ℝ) : |signR neg * y| = |y| := by cases neg <;> simp [signR]
theorem signR_ne (neg : Bool) (x y : ℝ) : signR neg * x ≠ signR neg * y ↔ x ≠ y := by cases neg <;> simp [signR]

/-- The base-two logarithm against a power of two. -/
theorem log2_place (n : Nat) (q t : Int) (hn : n ≠ 0) : (q + (n.log2 : Int) < t) ↔ (n : ℝ) * 2 ^ q < 2 ^ t := by
  have hq : (0 : ℝ) < 2 ^ q := by positivity
  constructor
  · intro h
    have h2 : n < 2 ^ (n.log2 + 1) := Nat.lt_log2_self
    have r : (n : ℝ) < 2 ^ (n.log2 + 1) := by exact_mod_cast h2
    have e1 : (2 : ℝ) ^ (((n.log2 + 1 : ℕ) : ℤ) + q) ≤ 2 ^ t := zpow_le_zpow_right₀ (by norm_num) (by push_cast; omega)
    rw [zpow_add₀ (by norm_num), zpow_natCast] at e1
    nlinarith
  · intro h
    by_contra g
    push Not at g
    have h1 : 2 ^ n.log2 ≤ n := Nat.log2_self_le hn
    have r : (2 : ℝ) ^ n.log2 ≤ n := by exact_mod_cast h1
    have e1 : (2 : ℝ) ^ t ≤ 2 ^ (((n.log2 : ℕ) : ℤ) + q) := zpow_le_zpow_right₀ (by norm_num) (by omega)
    rw [zpow_add₀ (by norm_num), zpow_natCast] at e1
    nlinarith

/-- The model's rounding delivers a number of the sign (R35). -/
theorem roundTo_delivered (code rm : Nat) (neg : Bool) (m : Nat) (e : Int) (X : ℝ) (hc : code < 6) (h : Exact code m e X) :
    Delivered code rm (signR neg * X) (roundTo code rm neg m e) := by
  obtain ⟨hM, -, -⟩ := width_facts code hc
  obtain ⟨hl, hu⟩ := h.exponent
  have hX : 0 < X := lt_of_lt_of_le (by positivity) hl
  set L : Int := (m.log2 : Int) + e with hL
  set M := mantissaBits code with hMd
  set B := exponentBias code with hB
  obtain ⟨d, hd⟩ : ∃ d : Nat, max (L - M) (1 - (B : ℤ) - M) = 1 - (B : ℤ) - M + d := ⟨(max (L - M) (1 - (B : ℤ) - M) - (1 - (B : ℤ) - M)).toNat, by omega⟩
  obtain ⟨R, hX1⟩ := roundAt_rounds rm neg m e (max (L - M) (1 - (B : ℤ) - M)) X hX (h.near (by omega))
  obtain ⟨RU, -⟩ := roundAt_rounds rm neg m e (L - M) X hX (h.near (by omega))
  set r := roundAt rm neg m e (max (L - M) (1 - (B : ℤ) - M)) with hr
  set ru := roundAt rm neg m e (L - M) with hru
  have hr0 : roundTo code rm neg m e = encodeRounded code rm neg r.1 (max (L - M) (1 - (B : ℤ) - M))
      (Flag.when r.2 Flag.nx ||| Flag.when (r.2 && decide (L - M + (ru.1.log2 : Int) < 1 - B)) Flag.uf) := by
    unfold roundTo; rw [fmtOf_eq code hc, if_neg h.1]
  have uq : (0 : ℝ) < 2 ^ (max (L - M) (1 - (B : ℤ) - M)) := by positivity
  have uu : (0 : ℝ) < 2 ^ (L - M) := by positivity
  have lM : (2 : ℝ) ^ M * 2 ^ (L - M) = 2 ^ L := by rw [← zpow_natCast, ← zpow_add₀ (by norm_num)]; congr 1; ring
  have n1 := abs_lt.1 (show |(r.1 : ℝ) * 2 ^ (max (L - M) (1 - (B : ℤ) - M)) - X| < _ by
    have := rounds_within R uq; rwa [← mul_sub, signR_abs] at this)
  have n2 := abs_lt.1 (show |(ru.1 : ℝ) * 2 ^ (L - M) - X| < _ by
    have := rounds_within RU uu; rwa [← mul_sub, signR_abs] at this)
  have pM : (1 : ℝ) < 2 ^ M := one_lt_pow₀ (by norm_num) (by omega)
  have hru0 : ru.1 ≠ 0 := by
    intro c; rw [c] at n2; simp at n2; nlinarith [n2.1]
  have hn : r.1 ≤ 2 ^ (M + 1) := by
    have t : (2 : ℝ) ^ (L + 1) ≤ 2 ^ (M + 1) * 2 ^ (max (L - M) (1 - (B : ℤ) - M)) := by
      rw [← zpow_natCast, ← zpow_add₀ (by norm_num)]; exact zpow_le_zpow_right₀ (by norm_num) (by push_cast; omega)
    have : (r.1 : ℝ) < ((2 ^ (M + 1) + 1 : ℕ) : ℝ) := by
      push_cast; nlinarith [n1.2]
    have := Nat.cast_lt.1 this
    omega
  have hd0 : r.1 < 2 ^ M → d = 0 := by
    intro c
    by_contra g
    have q : max (L - M) (1 - (B : ℤ) - M) = L - M := by omega
    rw [q] at n1
    have : (r.1 : ℝ) + 1 ≤ 2 ^ M := by exact_mod_cast c
    nlinarith [n1.1]
  have EN := encodeRounded_value code rm neg r.1 (Flag.when r.2 Flag.nx ||| Flag.when (r.2 && decide (L - M + (ru.1.log2 : Int) < 1 - B)) Flag.uf) d hc hn hd0
  rw [← hMd, ← hB, ← hd, ← hr0] at EN
  have eps : (2 : ℝ) ^ (max (L - M) (1 - (B : ℤ) - M)) = 2 ^ d * 2 ^ (1 - (B : ℤ) - M) := by
    rw [hd, add_comm, zpow_add₀ (by norm_num), zpow_natCast]
  have ep : (0 : ℝ) < 2 ^ (1 - (B : ℤ) - M) := by positivity
  have hmax : max L (1 - (B : ℤ)) - M = max (L - M) (1 - (B : ℤ) - M) := by omega
  have hneg : signR neg * X < 0 ↔ neg = true := by cases neg <;> simp [signR, hX, hX.le]
  have hpos : 0 < signR neg * X ↔ neg = false := by cases neg <;> simp [signR, hX, hX.le]
  have hdec : decide (signR neg * X < 0) = neg := by rw [Bool.eq_iff_iff]; simp [hneg]
  have habs : |signR neg * ((r.1 : ℝ) * 2 ^ (max (L - M) (1 - (B : ℤ) - M)))| = ((r.1 * 2 ^ d : ℕ) : ℝ) * 2 ^ (1 - (B : ℤ) - M) := by
    rw [signR_abs, abs_of_nonneg (by positivity), eps]; push_cast; ring
  have top : (patternValue code (largestPattern code false) : ℝ) = (topCount code : ℝ) * 2 ^ (1 - (B : ℤ) - M) := by
    rw [topCount_value code hc]; push_cast; rfl
  refine ⟨L, signR neg * (r.1 * 2 ^ (max (L - M) (1 - (B : ℤ) - M))), signR neg * (ru.1 * 2 ^ (L - M)), r.2,
    r.2 && decide (L - M + (ru.1.log2 : Int) < 1 - B), ?_, ?_, ?_, RU, ?_, ?_, ?_, ?_⟩
  · rw [signR_abs, abs_of_pos hX]; exact hl
  · rw [signR_abs, abs_of_pos hX]; exact hu
  · rw [hmax]; exact R
  · rw [signR_ne]; exact hX1
  · rw [signR_ne, signR_abs, abs_of_nonneg (by positivity), Bool.and_eq_true, decide_eq_true_eq, hX1, log2_place _ _ _ hru0]
  · rw [habs, top]
    intro c
    have c' : r.1 * 2 ^ d ≤ topCount code := by
      have := le_of_mul_le_mul_right c ep; exact_mod_cast this
    obtain ⟨a1, a2, a3, a4, a5⟩ := EN.1 c'
    refine ⟨a1, ?_, ?_, a4, ?_⟩
    · rw [a2, eps, ← hMd, ← hB]; cases neg <;> simp [signR] <;> ring
    · rw [a3, hneg]
    · rw [a5]; rfl
  · rw [habs, top]
    intro c
    have c' : topCount code < r.1 * 2 ^ d := by
      have := lt_of_mul_lt_mul_right c ep.le; exact_mod_cast this
    obtain ⟨a1, a2⟩ := EN.2 c'
    refine ⟨a1, ?_⟩
    rw [a2, hdec]; simp only [hneg, hpos]


/-- An exact value the model computed stands for the real number x, whose sign neg is where it is zero. -/
def Stands (x : ℝ) (neg : Bool) : FV → Prop
  | .fin n m e => x = signR n * (m * 2 ^ e) ∧ (m = 0 → n = neg)
  | _ => False

theorem Stands.delivered {code rm : Nat} {x : ℝ} {neg : Bool} {v : FV} (hc : code < 6) (h : Stands x neg v) :
    DeliveredOr code rm x neg (deliverFV code rm v) := by
  cases v with
  | nan s => exact h.elim
  | inf s => exact h.elim
  | fin n m e =>
    obtain ⟨h1, h2⟩ := h
    have he : (0 : ℝ) < 2 ^ e := by positivity
    by_cases hm : m = 0
    · subst hm
      have := h2 rfl; subst this
      have hx : x = 0 := by rw [h1]; simp
      refine ⟨fun g => absurd hx g, fun _ => ?_⟩
      unfold deliverFV roundTo zeroPattern; simp only [if_true]
      have := signBit_pattern code hc n 0 0 0 (by simp); simpa using this
    · refine ⟨fun _ => ?_, fun g => ?_⟩
      · rw [h1]; exact roundTo_delivered code rm n m e _ hc ⟨hm, Or.inl rfl⟩
      · rw [h1] at g; exfalso; cases n <;> simp [signR, hm, he.ne'] at g

/-- A finite pattern as an exact value (R28). -/
theorem fpDecode_stands (code bits : Nat) (hc : code < 6) (h : FinitePattern code bits) :
    ∃ n m e, fpDecode code bits = .fin n m e ∧ (patternValue code bits : ℝ) = signR n * (m * 2 ^ e) ∧ negativeOf code bits = n := by
  obtain ⟨hM, hE, hE2⟩ := width_facts code hc
  have h1 : ¬ (exponentOf code bits + 1 = 2 ^ exponentBits code ∧ code ≠ 4) := by
    rintro ⟨a, b⟩; rcases h with h | h
    · exact h a
    · exact b h.1
  have h2 : ¬ (exponentOf code bits + 1 = 2 ^ exponentBits code ∧ mantissaOf code bits + 1 = 2 ^ mantissaBits code) := by
    rintro ⟨a, b⟩; rcases h with h | ⟨h, h'⟩
    · exact h a
    · subst h; have : 2 ^ mantissaBits 4 = 8 := rfl
      omega
  have key : fpDecode code bits = if exponentOf code bits = 0 then .fin (negativeOf code bits) (mantissaOf code bits) (1 - (exponentBias code : Int) - mantissaBits code)
      else .fin (negativeOf code bits) (2 ^ mantissaBits code + mantissaOf code bits) ((exponentOf code bits : Int) - exponentBias code - mantissaBits code) := by
    unfold fpDecode; rw [fmtOf_eq code hc]
    simp only [decide_eq_true_eq]
    show (if exponentOf code bits + 1 = 2 ^ exponentBits code ∧ code ≠ 4 then _ else
      if exponentOf code bits + 1 = 2 ^ exponentBits code ∧ mantissaOf code bits + 1 = 2 ^ mantissaBits code then _ else _) = _
    rw [if_neg h1, if_neg h2]; rfl
  by_cases h0 : exponentOf code bits = 0
  · rw [if_pos h0] at key
    refine ⟨_, _, _, key, ?_, rfl⟩
    unfold patternValue; rw [if_pos h0]; cases negativeOf code bits <;> simp [signR]
  · rw [if_neg h0] at key
    refine ⟨_, _, _, key, ?_, rfl⟩
    unfold patternValue; rw [if_neg h0]; cases negativeOf code bits <;> simp [signR]

theorem signed_shift (n : Bool) (m : Nat) (e0 e : Int) (h : e0 ≤ e) :
    (((if n then -1 else 1) * ((m <<< (e - e0).toNat : Nat) : Int) : Int) : ℝ) * 2 ^ e0 = signR n * (m * 2 ^ e) := by
  have : (2 : ℝ) ^ e = 2 ^ (e - e0).toNat * 2 ^ e0 := by
    rw [← zpow_natCast, ← zpow_add₀ (by norm_num)]; congr 1; omega
  rw [this, Nat.shiftLeft_eq]; cases n <;> simp [signR] <;> ring

theorem addFin_stands (rm : Nat) (na : Bool) (ma : Nat) (ea : Int) (nb : Bool) (mb : Nat) (eb : Int) :
    Stands (signR na * (ma * 2 ^ ea) + signR nb * (mb * 2 ^ eb)) (if na = nb then na else decide (rm = 3)) (addFin rm na ma ea nb mb eb) := by
  have A := signed_shift na ma (min ea eb) ea (min_le_left _ _)
  have B := signed_shift nb mb (min ea eb) eb (min_le_right _ _)
  obtain ⟨I, hI⟩ : ∃ I, (if na then (-1 : Int) else 1) * ((ma <<< (ea - min ea eb).toNat : Nat) : Int) = I := ⟨_, rfl⟩
  obtain ⟨J, hJ⟩ : ∃ J, (if nb then (-1 : Int) else 1) * ((mb <<< (eb - min ea eb).toNat : Nat) : Int) = J := ⟨_, rfl⟩
  have U : addFin rm na ma ea nb mb eb = if I + J = 0 then .fin (if na == nb then na else zeroNeg rm) 0 (min ea eb)
      else .fin (decide (I + J < 0)) (I + J).natAbs (min ea eb) := by rw [← hI, ← hJ]; rfl
  rw [hI] at A
  rw [hJ] at B
  rw [U]
  have hs : signR na * (ma * 2 ^ ea) + signR nb * (mb * 2 ^ eb) = ((I + J : Int) : ℝ) * 2 ^ (min ea eb) := by
    rw [← A, ← B]; push_cast; ring
  rw [hs]
  by_cases h : I + J = 0
  · simp only [h, if_true]
    refine ⟨by simp, fun _ => ?_⟩
    unfold zeroNeg; cases na <;> cases nb <;> simp <;> (by_cases c : rm = 3 <;> simp [c])
  · simp only [h, if_false]
    refine ⟨?_, fun g => by omega⟩
    rw [← mul_assoc]; congr 1
    by_cases g : I + J < 0
    · simp only [g, decide_true, signR, if_true]
      have : ((I + J).natAbs : Int) = -(I + J) := by omega
      have : (((I + J).natAbs : Int) : ℝ) = -((I + J : Int) : ℝ) := by rw [this]; push_cast; ring
      rw [← Int.cast_natCast (R := ℝ), this]; ring
    · simp only [g, decide_false, signR, Bool.false_eq_true, if_false]
      have : ((I + J).natAbs : Int) = (I + J) := by omega
      rw [← Int.cast_natCast (R := ℝ), this]; ring

theorem signR_not (a : Bool) : signR (!a) = -signR a := by cases a <;> simp [signR]
theorem signR_xor (a b : Bool) : signR (a != b) = signR a * signR b := by cases a <;> cases b <;> simp [signR]

theorem mul_parts (a b : Bool) (ma mb : Nat) (ea eb : Int) :
    signR (a != b) * ((ma * mb : Nat) * 2 ^ (ea + eb)) = signR a * (ma * 2 ^ ea) * (signR b * (mb * 2 ^ eb)) := by
  rw [signR_xor, zpow_add₀ (by norm_num)]; push_cast; ring

section
variable (code rm x y d : Nat) (hc : code < 6) (hx : FinitePattern code x) (hy : FinitePattern code y) (hd : FinitePattern code d)
include hc hx

theorem pattern_zero : (patternValue code x : ℝ) = 0 ↔ ∀ n m e, fpDecode code x = .fin n m e → m = 0 := by
  obtain ⟨n, m, e, h1, h2, h3⟩ := fpDecode_stands code x hc hx
  have he : (2 : ℝ) ^ e ≠ 0 := by positivity
  rw [h1, h2]
  constructor
  · intro h n' m' e' h'
    cases h'
    cases n <;> simpa [signR, he] using h
  · intro h
    rw [h n m e rfl]; simp

include hy

/-- The sum of two finite patterns (R35). -/
theorem fpAdd_delivered : DeliveredOr code rm (patternValue code x + patternValue code y)
    (if negativeOf code x = negativeOf code y then negativeOf code x else decide (rm = 3)) (fpAdd code rm x y) := by
  obtain ⟨n, m, e, h1, h2, h3⟩ := fpDecode_stands code x hc hx
  obtain ⟨n', m', e', h1', h2', h3'⟩ := fpDecode_stands code y hc hy
  have S := (addFin_stands rm n m e n' m' e').delivered (rm := rm) hc
  unfold fpAdd; rw [h1, h1', h2, h2', h3, h3']
  simpa [addFV, snan] using S

/-- The difference of two finite patterns (R35). -/
theorem fpSub_delivered : DeliveredOr code rm (patternValue code x - patternValue code y)
    (if negativeOf code x = negativeOf code y then decide (rm = 3) else negativeOf code x) (fpSub code rm x y) := by
  obtain ⟨n, m, e, h1, h2, h3⟩ := fpDecode_stands code x hc hx
  obtain ⟨n', m', e', h1', h2', h3'⟩ := fpDecode_stands code y hc hy
  have S := (addFin_stands rm n m e (!n') m' e').delivered (rm := rm) hc
  have k : signR n * (m * 2 ^ e) - signR n' * (m' * 2 ^ e') = signR n * (m * 2 ^ e) + signR (!n') * (m' * 2 ^ e') := by
    cases n' <;> simp [signR] <;> ring
  have z : (if n = n' then decide (rm = 3) else n) = if n = !n' then n else decide (rm = 3) := by cases n <;> cases n' <;> simp
  unfold fpSub; rw [h1, h1', h2, h2', h3, h3', k, z]
  simpa [addFV, snan, negFV] using S

/-- The product of two finite patterns (R35). -/
theorem fpMul_delivered : DeliveredOr code rm (patternValue code x * patternValue code y)
    (negativeOf code x != negativeOf code y) (fpMul code rm x y) := by
  obtain ⟨n, m, e, h1, h2, h3⟩ := fpDecode_stands code x hc hx
  obtain ⟨n', m', e', h1', h2', h3'⟩ := fpDecode_stands code y hc hy
  have S : Stands (signR n * (m * 2 ^ e) * (signR n' * (m' * 2 ^ e'))) (n != n') (.fin (n != n') (m * m') (e + e')) :=
    ⟨(mul_parts _ _ _ _ _ _).symm, fun _ => rfl⟩
  have := S.delivered (rm := rm) hc
  unfold fpMul; rw [h1, h1', h2, h2', h3, h3']
  simpa [mulFV, snan] using this

include hd

/-- The fused product and sum (R35). -/
theorem fpFma_delivered : DeliveredOr code rm (patternValue code x * patternValue code y + patternValue code d)
    (if (negativeOf code x != negativeOf code y) = negativeOf code d then negativeOf code d else decide (rm = 3)) (fpFma code rm x y d) := by
  obtain ⟨n, m, e, h1, h2, h3⟩ := fpDecode_stands code x hc hx
  obtain ⟨n', m', e', h1', h2', h3'⟩ := fpDecode_stands code y hc hy
  obtain ⟨k, l, f, g1, g2, g3⟩ := fpDecode_stands code d hc hd
  have S := (addFin_stands rm (n != n') (m * m') (e + e') k l f).delivered (rm := rm) hc
  rw [mul_parts] at S
  have z : (if (n != n') = k then k else decide (rm = 3)) = if (n != n') = k then (n != n') else decide (rm = 3) := by
    by_cases c : (n != n') = k <;> simp [c]
  unfold fpFma; rw [h1, h1', h2, h2', h3, h3', g1, g2, g3, z]
  simpa [fmaFV, mulFV, addFV, snan] using S

/-- The addend less the product, fused (R120). -/
theorem fpFms_delivered : DeliveredOr code rm (patternValue code d - patternValue code x * patternValue code y)
    (if (negativeOf code x != negativeOf code y) = negativeOf code d then decide (rm = 3) else negativeOf code d) (fpFms code rm x y d) := by
  obtain ⟨n, m, e, h1, h2, h3⟩ := fpDecode_stands code x hc hx
  obtain ⟨n', m', e', h1', h2', h3'⟩ := fpDecode_stands code y hc hy
  obtain ⟨k, l, f, g1, g2, g3⟩ := fpDecode_stands code d hc hd
  have S := (addFin_stands rm ((!n) != n') (m * m') (e + e') k l f).delivered (rm := rm) hc
  rw [mul_parts] at S
  have w : signR k * (l * 2 ^ f) - signR n * (m * 2 ^ e) * (signR n' * (m' * 2 ^ e')) =
      signR (!n) * (m * 2 ^ e) * (signR n' * (m' * 2 ^ e')) + signR k * (l * 2 ^ f) := by rw [signR_not]; ring
  have z : (if (n != n') = k then decide (rm = 3) else k) = if ((!n) != n') = k then ((!n) != n') else decide (rm = 3) := by
    cases n <;> cases n' <;> cases k <;> simp
  unfold fpFms; rw [h1, h1', h2, h2', h3, h3', g1, g2, g3, w, z]
  simpa [fmaFV, mulFV, addFV, snan, negFV] using S

end

/-- The quotient with its sticky bit (R35). -/
theorem div_exact (code ma mb : Nat) (ea eb : Int) (ha : ma ≠ 0) (hb : mb ≠ 0) :
    let k := mantissaBits code + 5 + mb.log2
    let n := ma <<< k
    Exact code (2 * (n / mb) + boolNat (n % mb != 0)) (ea - eb - k - 1) (ma * 2 ^ ea / (mb * 2 ^ eb)) := by
  intro k n
  have hb0 : 0 < mb := Nat.pos_of_ne_zero hb
  have hbR : (0 : ℝ) < mb := by exact_mod_cast hb0
  have hn : n = ma * 2 ^ k := Nat.shiftLeft_eq _ _
  have hq : 2 ^ (mantissaBits code + 4) ≤ n / mb := by
    rw [Nat.le_div_iff_mul_le hb0, hn]
    have h2 : mb < 2 ^ (mb.log2 + 1) := Nat.lt_log2_self
    calc 2 ^ (mantissaBits code + 4) * mb ≤ 2 ^ (mantissaBits code + 4) * 2 ^ (mb.log2 + 1) := Nat.mul_le_mul (le_refl _) h2.le
      _ = 1 * 2 ^ k := by rw [← pow_add, one_mul]; congr 1; omega
      _ ≤ ma * 2 ^ k := Nat.mul_le_mul (by omega) (le_refl _)
  have hp : 0 < 2 ^ (mantissaBits code + 4) := by positivity
  have hX : (ma : ℝ) * 2 ^ ea / (mb * 2 ^ eb) = (2 * n / mb : ℝ) * 2 ^ (ea - eb - k - 1) := by
    rw [hn, zpow_sub₀ (by norm_num), zpow_sub₀ (by norm_num), zpow_sub₀ (by norm_num), zpow_natCast]
    push_cast; field_simp
  have hdm : (n : ℝ) = mb * (n / mb : ℕ) + (n % mb : ℕ) := by exact_mod_cast (Nat.div_add_mod n mb).symm
  have he : (0 : ℝ) < 2 ^ (ea - eb - k - 1) := by positivity
  rw [hX]
  by_cases h0 : n % mb = 0
  · have hz : (n % mb != 0) = false := by simp [h0]
    rw [hz]
    refine ⟨by have : boolNat false = 0 := rfl
               omega, Or.inl ?_⟩
    rw [h0] at hdm
    rw [hdm]; simp [boolNat]; left; field_simp
  · have hz : (n % mb != 0) = true := by simp [h0]
    rw [hz]
    have e1 : boolNat true = 1 := rfl
    rw [e1]
    refine ⟨by omega, Or.inr ⟨by omega, ?_, ?_, ?_⟩⟩
    · rw [Nat.le_log2 (by omega)]
      have : 2 ^ (mantissaBits code + 2) ≤ 2 ^ (mantissaBits code + 4) := Nat.pow_le_pow_right (by norm_num) (by omega)
      omega
    · apply mul_lt_mul_of_pos_right _ he
      rw [lt_div_iff₀ hbR, hdm]
      have : (0 : ℝ) < (n % mb : ℕ) := by exact_mod_cast Nat.pos_of_ne_zero h0
      push_cast; nlinarith
    · apply mul_lt_mul_of_pos_right _ he
      rw [div_lt_iff₀ hbR, hdm]
      have : ((n % mb : ℕ) : ℝ) < mb := by exact_mod_cast Nat.mod_lt _ hb0
      push_cast; nlinarith

/-- The integer square root. -/
theorem isqrt_spec (n : Nat) : isqrt n * isqrt n ≤ n ∧ n < (isqrt n + 1) * (isqrt n + 1) := by
  have loop : ∀ t r, r * r ≤ n → n < (r + 2 ^ t) * (r + 2 ^ t) →
      let z := (List.range t).reverse.foldl (fun r i => if (r + 2 ^ i) * (r + 2 ^ i) ≤ n then r + 2 ^ i else r) r
      z * z ≤ n ∧ n < (z + 1) * (z + 1) := by
    intro t
    induction t with
    | zero => intro r h1 h2; simpa using ⟨h1, h2⟩
    | succ t ih =>
      intro r h1 h2
      rw [List.range_succ, List.reverse_append]
      simp only [List.reverse_singleton, List.singleton_append, List.foldl_cons]
      by_cases c : (r + 2 ^ t) * (r + 2 ^ t) ≤ n
      · rw [if_pos c]; refine ih _ c ?_
        rw [pow_succ] at h2
        have : r + 2 ^ t + 2 ^ t = r + 2 ^ t * 2 := by ring
        rw [this]; exact h2
      · rw [if_neg c]; exact ih _ h1 (by omega)
  refine loop _ 0 (by omega) ?_
  have h2 : n < 2 ^ (n.log2 + 1) := Nat.lt_log2_self
  have h3 : 2 ^ (n.log2 + 1) ≤ 2 ^ (n.log2 / 2 + 1 + (n.log2 / 2 + 1)) := Nat.pow_le_pow_right (by norm_num) (by omega)
  rw [zero_add, ← pow_add]; omega

/-- The square root with its sticky bit (R35). -/
theorem sqrt_exact (code m : Nat) (e : Int) (h : m ≠ 0) :
    Exact code (sqrtFin (mantissaBits code + 1) m e).1 (sqrtFin (mantissaBits code + 1) m e).2 (Real.sqrt (m * 2 ^ e)) := by
  obtain ⟨k, hk, hk2, hU⟩ : ∃ k : Nat, 2 * mantissaBits code + 8 ≤ k ∧ (e - k) % 2 = 0 ∧ sqrtFin (mantissaBits code + 1) m e =
      (2 * isqrt (m <<< k) + boolNat (isqrt (m <<< k) * isqrt (m <<< k) != m <<< k), (e - k) / 2 - 1) := by
    by_cases c : (e - (2 * (mantissaBits code + 1) + 6 : ℕ)) % 2 = 0
    · refine ⟨2 * (mantissaBits code + 1) + 6, by omega, c, ?_⟩
      unfold sqrtFin; simp only [c, if_true]
    · refine ⟨2 * (mantissaBits code + 1) + 6 + 1, by omega, by push_cast; push_cast at c; omega, ?_⟩
      unfold sqrtFin; simp only [c, if_false]
  obtain ⟨j, hj⟩ : ∃ j : Int, e - k = 2 * j := ⟨(e - k) / 2, by omega⟩
  rw [hU, hj, show 2 * j / 2 - 1 = j - 1 by omega]
  obtain ⟨s1, s2⟩ := isqrt_spec (m <<< k)
  have hn : m <<< k = m * 2 ^ k := Nat.shiftLeft_eq _ _
  generalize hr : isqrt (m <<< k) = r at *
  generalize hN : m <<< k = n at *
  have hjp : (0 : ℝ) < 2 ^ j := by positivity
  have hX : Real.sqrt (m * 2 ^ e) = Real.sqrt n * 2 ^ j := by
    have : (m : ℝ) * 2 ^ e = n * (2 ^ j) ^ 2 := by
      rw [hn, show e = k + (j + j) by omega, zpow_add₀ (by norm_num), zpow_add₀ (by norm_num), zpow_natCast]; push_cast; ring
    rw [this, Real.sqrt_mul (by positivity), Real.sqrt_sq hjp.le]
  have hj1 : (2 : ℝ) ^ j = 2 * 2 ^ (j - 1) := by rw [zpow_sub₀ (by norm_num)]; ring
  have hje : (0 : ℝ) < 2 ^ (j - 1) := by positivity
  have big : 2 ^ (2 * mantissaBits code + 8) ≤ n := by
    rw [hn]; calc 2 ^ (2 * mantissaBits code + 8) ≤ 1 * 2 ^ k := by rw [one_mul]; exact Nat.pow_le_pow_right (by norm_num) hk
      _ ≤ m * 2 ^ k := Nat.mul_le_mul (by omega) (le_refl _)
  have hrb : 2 ^ (mantissaBits code + 4) ≤ r := by
    by_contra c
    have : (r + 1) * (r + 1) ≤ 2 ^ (mantissaBits code + 4) * 2 ^ (mantissaBits code + 4) := Nat.mul_le_mul (by omega) (by omega)
    rw [← pow_add, show mantissaBits code + 4 + (mantissaBits code + 4) = 2 * mantissaBits code + 8 by omega] at this
    omega
  have hp : 0 < 2 ^ (mantissaBits code + 4) := by positivity
  rw [hX, hj1]
  by_cases h0 : r * r = n
  · have hz : (r * r != n) = false := by simp [h0]
    rw [hz]
    refine ⟨by simp [boolNat]; omega, Or.inl ?_⟩
    have : (n : ℝ) = (r : ℝ) ^ 2 := by rw [← h0]; push_cast; ring
    rw [this, Real.sqrt_sq (by positivity)]; simp [boolNat]; ring
  · have hz : (r * r != n) = true := by simp [h0]
    have e1 : boolNat true = 1 := rfl
    rw [hz, e1]
    have l1 : (r : ℝ) < Real.sqrt n := by
      apply Real.lt_sqrt_of_sq_lt; have : r * r < n := by omega
      rw [sq]; exact_mod_cast this
    have l2 : Real.sqrt n < r + 1 := by
      rw [Real.sqrt_lt' (by positivity), sq]; exact_mod_cast s2
    refine ⟨by omega, Or.inr ⟨by omega, ?_, ?_, ?_⟩⟩
    · rw [Nat.le_log2 (by omega)]
      have : 2 ^ (mantissaBits code + 2) ≤ 2 ^ (mantissaBits code + 4) := Nat.pow_le_pow_right (by norm_num) (by omega)
      omega
    · push_cast; nlinarith
    · push_cast; nlinarith

section
variable (code rm x y : Nat) (hc : code < 6) (hx : FinitePattern code x)
include hc hx

/-- The square root of a finite positive pattern (R35). -/
theorem fpSqrt_delivered (h : 0 < patternValue code x) : Delivered code rm (Real.sqrt (patternValue code x)) (fpSqrt code rm x) := by
  obtain ⟨n, m, e, h1, h2, h3⟩ := fpDecode_stands code x hc hx
  have h' : (0 : ℝ) < patternValue code x := by exact_mod_cast h
  have he : (0 : ℝ) < 2 ^ e := by positivity
  rw [h2] at h'
  have hm : m ≠ 0 := by rintro rfl; simp at h'
  have hn : n = false := by
    cases n
    · rfl
    · simp [signR] at h'; nlinarith [show (0 : ℝ) ≤ m by positivity]
  subst hn
  have E := roundTo_delivered code rm false _ _ _ hc (sqrt_exact code m e hm)
  have k : signR false * Real.sqrt (m * 2 ^ e) = Real.sqrt (patternValue code x) := by rw [h2]; simp [signR]
  rw [k] at E
  have M : (fmtOf code).manBits = mantissaBits code := by rw [fmtOf_eq code hc]
  unfold fpSqrt sqrtFV; rw [h1]; simpa [hm, M, deliverFV] using E

/-- The quotient of two finite patterns (R35). -/
theorem fpDiv_delivered (hy : FinitePattern code y) (h : patternValue code y ≠ 0) :
    DeliveredOr code rm (patternValue code x / patternValue code y) (negativeOf code x != negativeOf code y) (fpDiv code rm x y) := by
  obtain ⟨n, m, e, h1, h2, h3⟩ := fpDecode_stands code x hc hx
  obtain ⟨n', m', e', h1', h2', h3'⟩ := fpDecode_stands code y hc hy
  have hm' : m' ≠ 0 := by
    rintro rfl
    apply h; have : (patternValue code y : ℝ) = 0 := by rw [h2']; simp
    exact_mod_cast this
  have M : (fmtOf code).manBits = mantissaBits code := by rw [fmtOf_eq code hc]
  have q : signR n * (m * 2 ^ e) / (signR n' * (m' * 2 ^ e')) = signR (n != n') * (m * 2 ^ e / (m' * 2 ^ e')) := by
    cases n <;> cases n' <;> simp [signR] <;> ring
  have U : fpDiv code rm x y = deliverFV code rm (.fin (n != n') (2 * (m <<< (mantissaBits code + 5 + m'.log2) / m') +
      boolNat (m <<< (mantissaBits code + 5 + m'.log2) % m' != 0)) (e - e' - (mantissaBits code + 5 + m'.log2 : ℕ) - 1)) := by
    unfold fpDiv divFV; rw [h1, h1']; simp [hm', M, snan]
  rw [U, h2, h2', h3, h3', q]
  by_cases hm : m = 0
  · subst hm
    refine Stands.delivered hc ⟨by simp [boolNat], fun _ => rfl⟩
  · refine ⟨fun _ => roundTo_delivered code rm _ _ _ _ hc (div_exact code m m' e e' hm hm'), fun g => ?_⟩
    exfalso
    have e1 : (0 : ℝ) < 2 ^ e := by positivity
    have e2 : (0 : ℝ) < 2 ^ e' := by positivity
    cases n <;> cases n' <;> simp [signR, hm, hm', e1.ne', e2.ne'] at g

end

/-- The real number of a finite value. -/
noncomputable def FV.real : FV → ℝ
  | .fin n m e => signR n * (m * 2 ^ e)
  | _ => 0
/-- The value is a number. -/
def FV.isFin : FV → Bool
  | .fin _ _ _ => true
  | _ => false

theorem addFV_real (rm : Nat) (a b : FV) (ha : a.isFin = true) (hb : b.isFin = true) :
    (addFV rm a b).1.isFin = true ∧ (addFV rm a b).1.real = a.real + b.real := by
  cases a with
  | nan s => simp [FV.isFin] at ha
  | inf s => simp [FV.isFin] at ha
  | fin n m e =>
    cases b with
    | nan s => simp [FV.isFin] at hb
    | inf s => simp [FV.isFin] at hb
    | fin n' m' e' =>
      have S := addFin_stands rm n m e n' m' e'
      show FV.isFin (addFin rm n m e n' m' e') = true ∧ FV.real (addFin rm n m e n' m' e') = _
      cases h : addFin rm n m e n' m' e' with
      | nan s => rw [h] at S; exact S.elim
      | inf s => rw [h] at S; exact S.elim
      | fin k l f => rw [h] at S; exact ⟨rfl, S.1.symm⟩

theorem sum_real (l : List FV) (h : ∀ v ∈ l, v.isFin = true) (a : FV) (ha : a.isFin = true) :
    (l.foldl (fun a v => (addFV 0 a v).1) a).isFin = true ∧ (l.foldl (fun a v => (addFV 0 a v).1) a).real = a.real + (l.map FV.real).sum := by
  induction l generalizing a with
  | nil => simp [ha]
  | cons v l ih =>
    obtain ⟨h1, h2⟩ := addFV_real 0 a v ha (h v (by simp))
    obtain ⟨h3, h4⟩ := ih (fun v hv => h v (by simp [hv])) _ h1
    simp only [List.foldl_cons, List.map_cons, List.sum_cons]
    exact ⟨h3, by rw [h4, h2]; ring⟩

theorem isZeroFV_real (v : FV) (h : v.isFin = true) : isZeroFV v = true ↔ v.real = 0 := by
  cases v with
  | nan s => simp [FV.isFin] at h
  | inf s => simp [FV.isFin] at h
  | fin n m e =>
    have : (2 : ℝ) ^ e ≠ 0 := by positivity
    cases n <;> simp [isZeroFV, FV.real, signR, this]

/-- The sum of a sub-block of finite patterns, rounded once and flushed (R45). -/
theorem subBlock_delivered (fa fb fc rm : Nat) (l : List (Nat × Nat)) (ha : fa < 6) (hb : fb < 6) (hc : fc < 6)
    (h : ∀ p ∈ l, FinitePattern fa p.1 ∧ FinitePattern fb p.2) :
    ∃ r, DeliveredOr fc rm ((l.map fun p => (patternValue fa p.1 * patternValue fb p.2 : ℝ)).sum)
      (decide (rm = 3) || l.all fun p => negativeOf fa p.1 != negativeOf fb p.2) r ∧
      subBlock fc rm (l.map fun p => (fpDecode fa p.1, fpDecode fb p.2)) = flush fc r := by
  obtain ⟨ps, hps⟩ : ∃ ps, ((l.map fun p => (fpDecode fa p.1, fpDecode fb p.2)).map fun p => (mulFV p.1 p.2).1) = ps := ⟨_, rfl⟩
  have P : ∀ v ∈ ps, ∃ p ∈ l, v.isFin = true ∧ negativeFV v = (negativeOf fa p.1 != negativeOf fb p.2) := by
    intro v hv
    rw [← hps] at hv
    simp only [List.map_map, List.mem_map, Function.comp] at hv
    obtain ⟨p, hp, rfl⟩ := hv
    obtain ⟨n, m, e, h1, h2, h3⟩ := fpDecode_stands fa p.1 ha (h p hp).1
    obtain ⟨n', m', e', h1', h2', h3'⟩ := fpDecode_stands fb p.2 hb (h p hp).2
    refine ⟨p, hp, ?_, ?_⟩
    · rw [h1, h1']; rfl
    · rw [h1, h1', h3, h3']; rfl
  have F : ∀ v ∈ ps, v.isFin = true := fun v hv => let ⟨_, _, h, _⟩ := P v hv; h
  have S : (ps.map FV.real).sum = (l.map fun p => (patternValue fa p.1 * patternValue fb p.2 : ℝ)).sum := by
    rw [← hps]; simp only [List.map_map]
    congr 1
    apply List.map_congr_left
    intro p hp
    obtain ⟨n, m, e, h1, h2, h3⟩ := fpDecode_stands fa p.1 ha (h p hp).1
    obtain ⟨n', m', e', h1', h2', h3'⟩ := fpDecode_stands fb p.2 hb (h p hp).2
    simp only [Function.comp, h1, h1', h2, h2']
    exact mul_parts _ _ _ _ _ _
  have A : (ps.all fun v => match v with | .fin n _ _ => n | _ => false) = l.all fun p => negativeOf fa p.1 != negativeOf fb p.2 := by
    rw [← hps]; simp only [List.map_map, List.all_map]
    rw [Bool.eq_iff_iff, List.all_eq_true, List.all_eq_true]
    have key : ∀ p ∈ l, (match (mulFV (fpDecode fa p.1) (fpDecode fb p.2)).1 with | .fin n _ _ => n | _ => false) = (negativeOf fa p.1 != negativeOf fb p.2) := by
      intro p hp
      obtain ⟨n, m, e, h1, h2, h3⟩ := fpDecode_stands fa p.1 ha (h p hp).1
      obtain ⟨n', m', e', h1', h2', h3'⟩ := fpDecode_stands fb p.2 hb (h p hp).2
      rw [h1, h1', h3, h3']; rfl
    constructor
    · intro g p hp; rw [← key p hp]; exact g p hp
    · intro g p hp; have := g p hp; rw [← key p hp] at this; exact this
  have n1 : (ps.any fun v => match v with | .nan _ => true | _ => false) = false := by
    rw [List.any_eq_false]; intro v hv; have := F v hv; cases v <;> simp_all [FV.isFin]
  have n2 : (ps.any fun v => v == .inf false) = false := by
    rw [List.any_eq_false]; intro v hv; have := F v hv; cases v <;> simp_all [FV.isFin]
  have n3 : (ps.any fun v => v == .inf true) = false := by
    rw [List.any_eq_false]; intro v hv; have := F v hv; cases v <;> simp_all [FV.isFin]
  obtain ⟨T1, T2⟩ := sum_real ps F (.fin false 0 0) rfl
  generalize hT : ps.foldl (fun a v => (addFV 0 a v).1) (.fin false 0 0) = T at *
  have Z := isZeroFV_real T T1
  have T3 : T.real = (ps.map FV.real).sum := by rw [T2]; simp [FV.real]
  have U : sumProducts rm (l.map fun p => (fpDecode fa p.1, fpDecode fb p.2)) =
      if isZeroFV T then (.fin ((rm == 3) || l.all fun p => negativeOf fa p.1 != negativeOf fb p.2) 0 0, 0) else (T, 0) := by
    unfold sumProducts
    simp only [hps, n2, n3, hT, Bool.and_false, Bool.or_false, Bool.false_eq_true, if_false]
    rw [← A]
    exact if_neg (by rw [Bool.not_eq_true]; exact n1)
  unfold subBlock
  rw [U]
  by_cases hz : isZeroFV T = true
  · rw [if_pos hz]
    refine ⟨_, Stands.delivered (v := .fin ((rm == 3) || l.all fun p => negativeOf fa p.1 != negativeOf fb p.2) 0 0) hc ⟨?_, fun _ => ?_⟩, by simp⟩
    · rw [← S, ← T3, Z.1 hz]; simp
    · by_cases c : rm = 3 <;> simp [c]
  · rw [if_neg hz]
    refine ⟨_, Stands.delivered (v := T) hc ?_, by simp⟩
    cases T with
    | nan s => simp [FV.isFin] at T1
    | inf s => simp [FV.isFin] at T1
    | fin n m e =>
      refine ⟨by rw [← S, ← T3]; rfl, fun g => ?_⟩
      exfalso; apply hz; simp [isZeroFV, g]

/-- What the flush does to a pattern (R43). -/
theorem flush_eq (code : Nat) (r : Nat × Nat) (hc : code < 6) : flush code r =
    if exponentOf code r.1 = 0 ∧ mantissaOf code r.1 ≠ 0 then (r.1 - mantissaOf code r.1, r.2 ||| 0x800 ||| 0x1000) else r := by
  unfold flush; rw [fmtOf_eq code hc]; rfl

/-- The order of two finite patterns (R36). -/
theorem ltFV_value (code x y : Nat) (hc : code < 6) (hx : FinitePattern code x) (hy : FinitePattern code y) :
    ltFV (fpDecode code x) (fpDecode code y) = true ↔ patternValue code x < patternValue code y := by
  obtain ⟨n, m, e, h1, h2, h3⟩ := fpDecode_stands code x hc hx
  obtain ⟨n', m', e', h1', h2', h3'⟩ := fpDecode_stands code y hc hy
  have A := signed_shift n m (min e e') e (min_le_left _ _)
  have B := signed_shift n' m' (min e e') e' (min_le_right _ _)
  have hp : (0 : ℝ) < 2 ^ (min e e') := by positivity
  rw [← Rat.cast_lt (K := ℝ), h1, h1', h2, h2', ← A, ← B]
  unfold ltFV
  simp only [decide_eq_true_eq]
  constructor
  · intro h; exact mul_lt_mul_of_pos_right (by exact_mod_cast h) hp
  · intro h; have := lt_of_mul_lt_mul_right h hp.le; exact_mod_cast this

/-- A finite pattern converted to a format of another width (R39, R40). -/
theorem convert_delivered (src dst rm x : Nat) (hs : src < 6) (hd : dst < 6) (hw : widthOf src ≠ widthOf dst) (hx : FinitePattern src x) :
    DeliveredOr dst rm (patternValue src x) (negativeOf src x) (convert src dst rm x) := by
  obtain ⟨n, m, e, h1, h2, h3⟩ := fpDecode_stands src x hs hx
  have S : Stands (patternValue src x) n (.fin n m e) := ⟨h2, fun _ => rfl⟩
  have := S.delivered (rm := rm) hd
  have hne : src ≠ dst := by rintro rfl; exact hw rfl
  unfold convert
  rw [if_neg hne, if_pos (show isFloatCode src = true by simpa [isFloatCode] using hs), if_pos (show isFloatCode dst = true by simpa [isFloatCode] using hd), if_neg hw, h1, h3]
  simpa [snan] using this

/-- An integer converted to a floating-point format (R41). -/
theorem convert_integer (src dst rm x : Nat) (hs : 8 ≤ src) (hd : dst < 6) :
    DeliveredOr dst rm (signed x (widthOf src) : ℝ) false (convert src dst rm x) := by
  have hne : src ≠ dst := by omega
  have U : convert src dst rm x = roundTo dst rm (decide (signed x (widthOf src) < 0)) (signed x (widthOf src)).natAbs 0 := by
    unfold convert
    rw [if_neg hne, if_neg (show ¬ isFloatCode src = true by simp [isFloatCode]; omega), if_pos (show isFloatCode dst = true by simpa [isFloatCode] using hd)]
  rw [U]
  generalize signed x (widthOf src) = v
  have S : Stands (v : ℝ) false (.fin (decide (v < 0)) v.natAbs 0) := by
    refine ⟨?_, fun g => by simp; omega⟩
    by_cases g : v < 0
    · have : ((v.natAbs : Int) : ℝ) = -((v : Int) : ℝ) := by rw [show (v.natAbs : Int) = -v by omega]; push_cast; ring
      simp only [g, decide_true, signR, if_true]; rw [← Int.cast_natCast (R := ℝ), this]; simp
    · have : ((v.natAbs : Int) : ℝ) = ((v : Int) : ℝ) := by rw [show (v.natAbs : Int) = v by omega]
      simp only [g, decide_false, signR, Bool.false_eq_true, if_false]; rw [← Int.cast_natCast (R := ℝ), this]; simp
  simpa [deliverFV] using S.delivered (rm := rm) hd

end Sys2Proof.Machine
end

