-- ==== Sys2Proof/Laws/FloatCases.lean ====
section
/-! SUPPORT. Each floating-point operation on patterns, special values among them, in the terms of Values (R29, R34 to R37, R120). -/
namespace Sys2Proof.Machine
open Sys2Proof.Claims

/-- What a pattern decodes to (R28). -/
inductive Reads (code bits : Nat) : FV → Prop
  | nan (h : NaNPattern code bits) (s : Bool) (hs : s = true ↔ SignallingPattern code bits) : Reads code bits (.nan s)
  | inf (h : InfinitePattern code bits) : Reads code bits (.inf (negativeOf code bits))
  | fin (h : FinitePattern code bits) (m : Nat) (e : Int) (hv : (patternValue code bits : ℝ) = signR (negativeOf code bits) * (m * 2 ^ e))
      (hz : m = 0 ↔ ZeroPattern code bits) : Reads code bits (.fin (negativeOf code bits) m e)

theorem finite_not (code bits : Nat) (h : FinitePattern code bits) : ¬ NaNPattern code bits ∧ ¬ InfinitePattern code bits := by
  unfold FinitePattern at h
  constructor
  · rintro ⟨a, b⟩
    rcases h with h | ⟨h, h'⟩
    · exact h a
    · rw [if_pos h] at b; exact h' b
  · rintro ⟨a, b, c⟩
    rcases h with h | ⟨h, h'⟩
    · exact h b
    · exact a h

theorem infinite_not (code bits : Nat) (h : InfinitePattern code bits) : ¬ NaNPattern code bits ∧ ¬ ZeroPattern code bits := by
  obtain ⟨a, b, c⟩ := h
  constructor
  · rintro ⟨_, g⟩; rw [if_neg a] at g; exact g c
  · rintro ⟨g, _⟩; rw [g] at b
    have : 2 ≤ 2 ^ exponentBits code := by
      have : exponentBits code ≠ 0 := by
        intro e; rw [e] at b; unfold exponentBits at e; rcases code with _ | _ | _ | _ | _ | n <;> simp_all
      calc 2 = 2 ^ 1 := rfl
        _ ≤ _ := Nat.pow_le_pow_right (by norm_num) (by omega)
    omega

theorem zero_finite (code bits : Nat) (hc : code < 6) (h : ZeroPattern code bits) : FinitePattern code bits := by
  obtain ⟨-, -, hE⟩ := width_facts code hc
  left; rw [h.1]; omega

theorem fpDecode_reads (code bits : Nat) (hc : code < 6) : Reads code bits (fpDecode code bits) := by
  obtain ⟨hM, hE, hE2⟩ := width_facts code hc
  by_cases f : FinitePattern code bits
  · obtain ⟨n, m, e, h1, h2, h3⟩ := fpDecode_stands code bits hc f
    rw [h1, ← h3]
    refine .fin f m e (h3 ▸ h2) ?_
    have e0 : (0 : ℝ) < 2 ^ e := by positivity
    have z : m = 0 ↔ (patternValue code bits : ℝ) = 0 := by rw [h2]; cases n <;> simp [signR, e0.ne']
    have z2 : (patternValue code bits : ℝ) = 0 ↔ patternValue code bits = 0 := by exact_mod_cast Iff.rfl
    rw [z, z2]
    have p1 : (2 : ℚ) ^ (1 - (exponentBias code : ℤ) - mantissaBits code) ≠ 0 := by positivity
    have p2 : (2 : ℚ) ^ ((exponentOf code bits : ℤ) - exponentBias code - mantissaBits code) ≠ 0 := by positivity
    have sn : (if negativeOf code bits = true then (-1 : ℚ) else 1) ≠ 0 := by cases negativeOf code bits <;> simp
    unfold patternValue ZeroPattern
    rw [mul_eq_zero, or_iff_right sn]
    by_cases g : exponentOf code bits = 0
    · rw [if_pos g, mul_eq_zero, or_iff_left p1]; simp [g]
    · rw [if_neg g, mul_eq_zero, or_iff_left p2]
      have : 0 < 2 ^ mantissaBits code := by positivity
      constructor
      · intro c; have := Nat.cast_eq_zero.1 c; omega
      · intro c; exact absurd c.1 g
  · have hx : exponentOf code bits + 1 = 2 ^ exponentBits code := by
      by_contra c; exact f (Or.inl c)
    have key : fpDecode code bits = if code ≠ 4 then (if mantissaOf code bits = 0 then .inf (negativeOf code bits)
        else .nan (decide (mantissaOf code bits < 2 ^ (mantissaBits code - 1)))) else .nan false := by
      unfold fpDecode; rw [fmtOf_eq code hc]
      simp only [decide_eq_true_eq]
      show (if exponentOf code bits + 1 = 2 ^ exponentBits code ∧ code ≠ 4 then _ else
        if exponentOf code bits + 1 = 2 ^ exponentBits code ∧ mantissaOf code bits + 1 = 2 ^ mantissaBits code then _ else _) = _
      by_cases c : code = 4
      · rw [if_neg (fun g => g.2 c), if_neg (not_not.2 c), if_pos]
        refine ⟨hx, ?_⟩
        have : mantissaOf code bits = 7 := by by_contra g; exact f (Or.inr ⟨c, g⟩)
        rw [this, c]; rfl
      · rw [if_pos ⟨hx, c⟩, if_pos c]; rfl
    rw [key]
    by_cases c : code = 4
    · rw [if_neg (not_not.2 c)]
      have m7 : mantissaOf code bits = 7 := by by_contra g; exact f (Or.inr ⟨c, g⟩)
      refine .nan ⟨hx, by rw [if_pos c]; exact m7⟩ _ ?_
      simp [SignallingPattern, c]
    · rw [if_pos c]
      by_cases g : mantissaOf code bits = 0
      · rw [if_pos g]; exact .inf ⟨c, hx, g⟩
      · rw [if_neg g]
        have nn : NaNPattern code bits := ⟨hx, by rw [if_neg c]; exact g⟩
        refine .nan nn _ ?_
        simp [SignallingPattern, nn, c]

section
variable (code : Nat) (hc : code < 6)
include hc

theorem deliver_nan (rm : Nat) (s : Bool) : deliverFV code rm (.nan s) = (quietNaN code, 0) := by
  interval_cases code <;> rfl

theorem deliver_inf (rm : Nat) (n : Bool) (h4 : code ≠ 4) : deliverFV code rm (.inf n) = (infinityPattern code n, 0) := by
  unfold deliverFV; rw [← infBits_eq code hc n, fmtOf_eq code hc]; simp [h4]

end

theorem nan_not (code bits : Nat) (hc : code < 6) (h : NaNPattern code bits) :
    ¬ FinitePattern code bits ∧ ¬ InfinitePattern code bits ∧ ¬ ZeroPattern code bits :=
  ⟨fun f => (finite_not _ _ f).1 h, fun i => (infinite_not _ _ i).1 h, fun z => (finite_not _ _ (zero_finite _ _ hc z)).1 h⟩

/-- Every pattern is a NaN, an infinity or a number. -/
theorem pattern_kind (code bits : Nat) (hc : code < 6) :
    (NaNPattern code bits ∧ ¬ InfinitePattern code bits ∧ ¬ FinitePattern code bits ∧ ¬ ZeroPattern code bits ∧
      ∃ s, (s = true ↔ SignallingPattern code bits) ∧ fpDecode code bits = .nan s) ∨
    (¬ NaNPattern code bits ∧ ¬ SignallingPattern code bits ∧ InfinitePattern code bits ∧ ¬ FinitePattern code bits ∧ ¬ ZeroPattern code bits ∧
      fpDecode code bits = .inf (negativeOf code bits)) ∨
    (¬ NaNPattern code bits ∧ ¬ SignallingPattern code bits ∧ ¬ InfinitePattern code bits ∧ FinitePattern code bits ∧
      ∃ m e, (patternValue code bits : ℝ) = signR (negativeOf code bits) * ((m : Nat) * 2 ^ (e : Int)) ∧ (m = 0 ↔ ZeroPattern code bits) ∧
        fpDecode code bits = .fin (negativeOf code bits) m e) := by
  have R := fpDecode_reads code bits hc
  generalize hv : fpDecode code bits = v at *
  cases R with
  | nan h s hs => exact Or.inl ⟨h, (nan_not _ _ hc h).2.1, (nan_not _ _ hc h).1, (nan_not _ _ hc h).2.2, s, hs, rfl⟩
  | inf h =>
    exact Or.inr (Or.inl ⟨(infinite_not _ _ h).1, fun s => (infinite_not _ _ h).1 s.1, h, fun f => (finite_not _ _ f).2 h, (infinite_not _ _ h).2, rfl⟩)
  | fin h m e hv' hz =>
    exact Or.inr (Or.inr ⟨(finite_not _ _ h).1, fun s => (finite_not _ _ h).1 s.1, (finite_not _ _ h).2, h, m, e, hv', hz, rfl⟩)


/-- A signalling NaN and nothing else sets NV. -/
theorem snan_reads (code bits : Nat) (hc : code < 6) :
    (SignallingPattern code bits → snan (fpDecode code bits) = 0x100) ∧ (¬ SignallingPattern code bits → snan (fpDecode code bits) = 0) := by
  rcases pattern_kind code bits hc with ⟨a1, a2, a3, a4, s, hs, h⟩ | ⟨a1, a2, a3, a4, a5, h⟩ | ⟨a1, a2, a3, a4, m, e, hv, hz, h⟩
  · rw [h]; cases s <;> simp_all [snan, Flag.nv]
  · rw [h]; exact ⟨fun g => absurd g a2, fun _ => rfl⟩
  · rw [h]; exact ⟨fun g => absurd g a2, fun _ => rfl⟩

theorem nan_one (code x : Nat) (hc : code < 6) : DeliversNaN code (SignallingPattern code x) (quietNaN code, snan (fpDecode code x)) :=
  ⟨rfl, (snan_reads code x hc).1, (snan_reads code x hc).2⟩

theorem nan_pair (code x y : Nat) (hc : code < 6) :
    DeliversNaN code (SignallingPattern code x ∨ SignallingPattern code y) (quietNaN code, snan (fpDecode code x) ||| snan (fpDecode code y)) := by
  obtain ⟨a, b⟩ := snan_reads code x hc
  obtain ⟨c, d⟩ := snan_reads code y hc
  refine ⟨rfl, fun h => ?_, fun h => ?_⟩
  · by_cases p : SignallingPattern code x <;> by_cases q : SignallingPattern code y <;> simp_all
  · rw [not_or] at h; rw [b h.1, d h.2]; rfl

theorem nan_three (code x y z : Nat) (hc : code < 6) :
    DeliversNaN code (SignallingPattern code x ∨ SignallingPattern code y ∨ SignallingPattern code z)
      (quietNaN code, snan (fpDecode code x) ||| snan (fpDecode code y) ||| snan (fpDecode code z)) := by
  obtain ⟨a, b⟩ := snan_reads code x hc
  obtain ⟨c, d⟩ := snan_reads code y hc
  obtain ⟨e, f⟩ := snan_reads code z hc
  refine ⟨rfl, fun h => ?_, fun h => ?_⟩
  · by_cases p : SignallingPattern code x <;> by_cases q : SignallingPattern code y <;> by_cases r : SignallingPattern code z <;> simp_all
  · rw [not_or, not_or] at h; rw [b h.1, d h.2.1, f h.2.2]; rfl

theorem nan_always (code : Nat) : DeliversNaN code True (quietNaN code, Flag.nv) := ⟨rfl, fun _ => rfl, fun h => absurd trivial h⟩

section
variable (code rm x y d : Nat) (hc : code < 6) (h4 : code ≠ 4)
include hc h4

/-- VADD's rule. -/
theorem fpAdd_sum : SumOf code rm x y false (fpAdd code rm x y) := by
  have F := fpAdd_delivered code rm x y hc
  have N := nan_pair code x y hc
  unfold SumOf
  simp only [Bool.bne_false]
  rcases pattern_kind code x hc with ⟨a1, a2, a3, a4, s, hs, h⟩ | ⟨a1, a2, a3, a4, a5, h⟩ | ⟨a1, a2, a3, a4, m, e, hv, hz, h⟩ <;>
  rcases pattern_kind code y hc with ⟨b1, b2, b3, b4, t, ht, g⟩ | ⟨b1, b2, b3, b4, b5, g⟩ | ⟨b1, b2, b3, b4, m', e', gv, gz, g⟩ <;>
  simp only [a1, a2, a3, a4, b1, b2, b3, b4, or_true, or_self, true_implies, false_implies, implies_true, true_and, and_true, or_false, false_or] at N F ⊢
  iterate 3 · unfold fpAdd; rw [h, g] at N ⊢; simpa [addFV, deliver_nan code hc] using N
  · unfold fpAdd; rw [h, g] at N ⊢; simpa [addFV, deliver_nan code hc] using N
  · unfold fpAdd; rw [h, g]
    refine ⟨fun c => ?_, fun c => ?_⟩
    · simp [addFV, c, deliver_inf code hc _ _ h4, snan]
    · simpa [addFV, c, deliver_nan code hc] using nan_always code
  · unfold fpAdd; rw [h, g]; simp [addFV, deliver_inf code hc _ _ h4, snan]
  · unfold fpAdd; rw [h, g] at N ⊢; simpa [addFV, deliver_nan code hc] using N
  · unfold fpAdd; rw [h, g]; simp [addFV, deliver_inf code hc _ _ h4, snan]
  · simpa using F

/-- VSUB's rule. -/
theorem fpSub_sum : SumOf code rm x y true (fpSub code rm x y) := by
  have F := fpSub_delivered code rm x y hc
  have N := nan_pair code x y hc
  unfold SumOf
  simp only [Bool.bne_true]
  rcases pattern_kind code x hc with ⟨a1, a2, a3, a4, s, hs, h⟩ | ⟨a1, a2, a3, a4, a5, h⟩ | ⟨a1, a2, a3, a4, m, e, hv, hz, h⟩ <;>
  rcases pattern_kind code y hc with ⟨b1, b2, b3, b4, t, ht, g⟩ | ⟨b1, b2, b3, b4, b5, g⟩ | ⟨b1, b2, b3, b4, m', e', gv, gz, g⟩ <;>
  simp only [a1, a2, a3, a4, b1, b2, b3, b4, or_true, or_self, true_implies, false_implies, implies_true, true_and, and_true, or_false, false_or] at N F ⊢
  iterate 3 · unfold fpSub; rw [h, g] at N ⊢; simpa [addFV, negFV, deliver_nan code hc, snan] using N
  · unfold fpSub; rw [h, g] at N ⊢; simpa [addFV, negFV, deliver_nan code hc, snan] using N
  · unfold fpSub; rw [h, g]
    refine ⟨fun c => ?_, fun c => ?_⟩
    · simp [addFV, negFV, c, deliver_inf code hc _ _ h4, snan]
    · have c' : (negativeOf code x == !negativeOf code y) = false := by simpa using c
      simpa [addFV, negFV, c', deliver_nan code hc] using nan_always code
  · unfold fpSub; rw [h, g]; simp [addFV, negFV, deliver_inf code hc _ _ h4, snan]
  · unfold fpSub; rw [h, g] at N ⊢; simpa [addFV, negFV, deliver_nan code hc, snan] using N
  · unfold fpSub; rw [h, g]; simp [addFV, negFV, deliver_inf code hc _ _ h4, snan]
  · have z : (if negativeOf code x = !negativeOf code y then negativeOf code x else decide (rm = 3)) =
        if negativeOf code x = negativeOf code y then decide (rm = 3) else negativeOf code x := by
      cases negativeOf code x <;> cases negativeOf code y <;> simp
    rw [z]; simpa [sub_eq_add_neg] using F

/-- VMUL's rule. -/
theorem fpMul_product : ProductOf code rm x y (fpMul code rm x y) := by
  have F := fpMul_delivered code rm x y hc
  have N := nan_pair code x y hc
  unfold ProductOf
  rcases pattern_kind code x hc with ⟨a1, a2, a3, a4, s, hs, h⟩ | ⟨a1, a2, a3, a4, a5, h⟩ | ⟨a1, a2, a3, a4, m, e, hv, hz, h⟩ <;>
  rcases pattern_kind code y hc with ⟨b1, b2, b3, b4, t, ht, g⟩ | ⟨b1, b2, b3, b4, b5, g⟩ | ⟨b1, b2, b3, b4, m', e', gv, gz, g⟩ <;>
  simp only [a1, a2, a3, a4, b1, b2, b3, b4, or_true, true_or, or_self, true_implies, false_implies, implies_true, true_and, and_true, or_false, false_or,
    and_false, false_and, not_true, not_false_iff, and_self] at N F ⊢
  iterate 3 · unfold fpMul; rw [h, g] at N ⊢; simpa [mulFV, deliver_nan code hc] using N
  · unfold fpMul; rw [h, g] at N ⊢; simpa [mulFV, deliver_nan code hc] using N
  · unfold fpMul; rw [h, g]; simp [mulFV, deliver_inf code hc _ _ h4, snan, a5, b5]
  · unfold fpMul; rw [h, g]
    refine ⟨fun c => ?_, fun c => ?_⟩
    · have c' : m' = 0 := gz.2 c
      simpa [mulFV, c', deliver_nan code hc] using nan_always code
    · have c' : m' ≠ 0 := fun k => c (gz.1 k)
      simp [mulFV, c', deliver_inf code hc _ _ h4, snan]
  · unfold fpMul; rw [h, g] at N ⊢; simpa [mulFV, deliver_nan code hc] using N
  · unfold fpMul; rw [h, g]
    refine ⟨fun c => ?_, fun c => ?_⟩
    · have c' : m = 0 := hz.2 c
      simpa [mulFV, c', deliver_nan code hc] using nan_always code
    · have c' : m ≠ 0 := fun k => c (hz.1 k)
      simp [mulFV, c', deliver_inf code hc _ _ h4, snan]
      congr 1; cases negativeOf code x <;> cases negativeOf code y <;> rfl
  · exact F

/-- VDIV's rule. -/
theorem fpDiv_quotient : QuotientOf code rm x y (fpDiv code rm x y) := by
  have F := fpDiv_delivered code rm x y hc
  have N := nan_pair code x y hc
  unfold QuotientOf
  rcases pattern_kind code x hc with ⟨a1, a2, a3, a4, s, hs, h⟩ | ⟨a1, a2, a3, a4, a5, h⟩ | ⟨a1, a2, a3, a4, m, e, hv, hz, h⟩ <;>
  rcases pattern_kind code y hc with ⟨b1, b2, b3, b4, t, ht, g⟩ | ⟨b1, b2, b3, b4, b5, g⟩ | ⟨b1, b2, b3, b4, m', e', gv, gz, g⟩ <;>
  simp only [a1, a2, a3, a4, b1, b2, b3, b4, or_true, true_or, or_self, true_implies, false_implies, implies_true, true_and, and_true, or_false, false_or,
    and_false, false_and, not_true, not_false_iff, and_self] at N F ⊢
  iterate 3 · unfold fpDiv; rw [h, g] at N ⊢; simpa [divFV, deliver_nan code hc] using N
  · unfold fpDiv; rw [h, g] at N ⊢; simpa [divFV, deliver_nan code hc] using N
  · unfold fpDiv; rw [h, g]; simpa [divFV, deliver_nan code hc, a5, b5] using nan_always code
  · unfold fpDiv; rw [h, g]; simp [divFV, deliver_inf code hc _ _ h4, snan, a5]
  · unfold fpDiv; rw [h, g] at N ⊢; simpa [divFV, deliver_nan code hc] using N
  · unfold fpDiv; rw [h, g]
    have z := signBit_pattern code hc (negativeOf code x != negativeOf code y) 0 0 0 (by simp)
    refine ⟨fun c => absurd c.2 b5, ?_, fun _ c => absurd c b5⟩
    simp only [divFV, deliverFV, roundTo, snan, if_true, zeroPattern, ← z]; rfl
  · refine ⟨fun c => ?_, fun c1 c2 => ?_, fun c => ?_⟩
    · unfold fpDiv; rw [h, g]; simpa [divFV, hz.2 c.1, gz.2 c.2, deliver_nan code hc] using nan_always code
    · have k : m ≠ 0 := fun k => c1 (hz.1 k)
      unfold fpDiv; rw [h, g]; simp [divFV, k, gz.2 c2, deliver_inf code hc _ _ h4, snan, Flag.dz]
    · refine F ?_
      intro k
      have : (patternValue code y : ℝ) = 0 := by exact_mod_cast k
      rw [gv] at this
      have e0 : (0 : ℝ) < 2 ^ e' := by positivity
      apply c; rw [← gz]; revert this; cases negativeOf code y <;> simp [signR, e0.ne']

/-- VSQRT's rule. -/
theorem fpSqrt_root : RootOf code rm x (fpSqrt code rm x) := by
  have F := fpSqrt_delivered code rm x hc
  have N := nan_one code x hc
  unfold RootOf
  rcases pattern_kind code x hc with ⟨a1, a2, a3, a4, s, hs, h⟩ | ⟨a1, a2, a3, a4, a5, h⟩ | ⟨a1, a2, a3, a4, m, e, hv, hz, h⟩ <;>
  simp only [a1, a2, a3, a4, true_implies, false_implies, implies_true, true_and, and_true, not_true, not_false_iff] at N F ⊢
  · unfold fpSqrt; rw [h] at N ⊢; simpa [sqrtFV, deliver_nan code hc, snan] using N
  · unfold fpSqrt; rw [h]
    refine ⟨fun c => absurd c a5, fun c => ?_, fun _ c => ?_⟩
    · simp [sqrtFV, c, deliver_inf code hc _ _ h4]
    · simpa [sqrtFV, c, deliver_nan code hc] using nan_always code
  · refine ⟨fun c => ?_, fun c n => ?_, F⟩
    · unfold fpSqrt; rw [h]
      have z := signBit_pattern code hc (negativeOf code x) 0 0 0 (by simp)
      simp only [sqrtFV, hz.2 c, deliverFV, roundTo, if_true, zeroPattern, ← z]; rfl
    · have k : m ≠ 0 := fun k => c (hz.1 k)
      unfold fpSqrt; rw [h]; simpa [sqrtFV, k, n, deliver_nan code hc] using nan_always code

/-- VSCALE's rule. -/
theorem fpScale_scale (k : Int) : ScaleOf code rm x k (fpScale code rm k x) := by
  have N := nan_one code x hc
  unfold ScaleOf
  rcases pattern_kind code x hc with ⟨a1, a2, a3, a4, s, hs, h⟩ | ⟨a1, a2, a3, a4, a5, h⟩ | ⟨a1, a2, a3, a4, m, e, hv, hz, h⟩ <;>
  simp only [a1, a2, a3, a4, true_implies, false_implies, implies_true, true_and, and_true] at N ⊢
  · unfold fpScale; rw [h] at N ⊢
    have : canonicalNaN code = quietNaN code := by interval_cases code <;> rfl
    rw [← this] at N; unfold DeliversNaN at *; rw [← this]; exact ⟨rfl, N.2.1, N.2.2⟩
  · unfold fpScale; rw [h]; simp only [infBits_eq code hc]
  · have S : Stands (patternValue code x * 2 ^ k) (negativeOf code x) (.fin (negativeOf code x) m (e + k)) :=
      ⟨by rw [hv, zpow_add₀ (by norm_num)]; ring, fun _ => rfl⟩
    unfold fpScale; rw [h]; exact S.delivered hc



/-- The exact product of two patterns, the first's sign turned or not. -/
theorem product_kind (minus : Bool) (P : FV × Nat) (hP : P = mulFV (if minus then negFV (fpDecode code x) else fpDecode code x) (fpDecode code y)) :
    let n := (negativeOf code x != negativeOf code y) != minus
    let clash := InfinitePattern code x ∧ ZeroPattern code y ∨ ZeroPattern code x ∧ InfinitePattern code y
    let big := InfinitePattern code x ∧ ¬ NaNPattern code y ∧ ¬ ZeroPattern code y ∨ ¬ NaNPattern code x ∧ ¬ ZeroPattern code x ∧ InfinitePattern code y
    let nan := NaNPattern code x ∨ NaNPattern code y
    let both := FinitePattern code x ∧ FinitePattern code y
    (nan ∧ ¬ clash ∧ ¬ big ∧ ¬ both ∧ P = (.nan false, snan (fpDecode code x) ||| snan (fpDecode code y))) ∨
    (¬ nan ∧ clash ∧ ¬ big ∧ ¬ both ∧ P = (.nan false, Flag.nv)) ∨
    (¬ nan ∧ ¬ clash ∧ big ∧ ¬ both ∧ P = (.inf n, 0)) ∨
    (¬ nan ∧ ¬ clash ∧ ¬ big ∧ both ∧ P.2 = 0 ∧ P.1.isFin = true) := by
  intro n clash big nan both
  have na : ∀ v, snan (negFV v) = snan v := by intro v; cases v <;> rfl
  subst hP
  simp only [n, clash, big, nan, both]
  rcases pattern_kind code x hc with ⟨a1, a2, a3, a4, s, hs, h⟩ | ⟨a1, a2, a3, a4, a5, h⟩ | ⟨a1, a2, a3, a4, m, e, hv, hz, h⟩ <;>
  rcases pattern_kind code y hc with ⟨b1, b2, b3, b4, t, ht, g⟩ | ⟨b1, b2, b3, b4, b5, g⟩ | ⟨b1, b2, b3, b4, m', e', gv, gz, g⟩ <;>
  rw [h, g]
  · left; refine ⟨Or.inl a1, by tauto, by tauto, by tauto, ?_⟩; cases minus <;> rfl
  · left; refine ⟨Or.inl a1, by tauto, by tauto, by tauto, ?_⟩; cases minus <;> rfl
  · left; refine ⟨Or.inl a1, by tauto, by tauto, by tauto, ?_⟩; cases minus <;> rfl
  · left; refine ⟨Or.inr b1, by tauto, by tauto, by tauto, ?_⟩; cases minus <;> rfl
  · right; right; left; refine ⟨by tauto, by tauto, by tauto, by tauto, ?_⟩
    cases minus <;> cases negativeOf code x <;> cases negativeOf code y <;> rfl
  · by_cases c : m' = 0
    · right; left; refine ⟨by tauto, by tauto, by tauto, by tauto, ?_⟩; cases minus <;> simp [mulFV, negFV, c]
    · right; right; left; refine ⟨by tauto, by tauto, by tauto, by tauto, ?_⟩
      cases minus <;> simp [mulFV, negFV, c, snan]
  · left; refine ⟨Or.inr b1, by tauto, by tauto, by tauto, ?_⟩; cases minus <;> rfl
  · by_cases c : m = 0
    · right; left; refine ⟨by tauto, by tauto, by tauto, by tauto, ?_⟩; cases minus <;> simp [mulFV, negFV, c]
    · right; right; left; refine ⟨by tauto, by tauto, by tauto, by tauto, ?_⟩
      cases minus <;> cases negativeOf code x <;> cases negativeOf code y <;> simp [mulFV, negFV, c, snan]
  · right; right; right; refine ⟨by tauto, by tauto, by tauto, by tauto, ?_, ?_⟩ <;> cases minus <;> simp [mulFV, negFV, snan, FV.isFin]

/-- VFMA's and VAXPY's rule, and VFMS's. -/
theorem fpFma_fused (minus : Bool) : FusedOf code rm x y d minus (if minus then fpFms code rm x y d else fpFma code rm x y d) := by
  have F0 := fpFma_delivered code rm x y d hc
  have F1 := fpFms_delivered code rm x y d hc
  have N := nan_three code x y d hc
  have A := nan_always code
  have I : ∀ n, deliverFV code rm (.inf n) = (infinityPattern code n, 0) := fun n => deliver_inf code hc rm n h4
  have Q : ∀ b, deliverFV code rm (.nan b) = (quietNaN code, 0) := fun b => deliver_nan code hc rm b
  obtain ⟨P, hP⟩ : ∃ P, P = mulFV (if minus then negFV (fpDecode code x) else fpDecode code x) (fpDecode code y) := ⟨_, rfl⟩
  have U : (if minus then fpFms code rm x y d else fpFma code rm x y d) =
      ((deliverFV code rm (addFV rm P.1 (fpDecode code d)).1).1, (deliverFV code rm (addFV rm P.1 (fpDecode code d)).1).2 ||| (P.2 ||| (addFV rm P.1 (fpDecode code d)).2)) := by
    rw [hP]; cases minus <;> rfl
  have sx := snan_reads code x hc
  have sy := snan_reads code y hc
  have gx : SignallingPattern code x → NaNPattern code x := fun h => h.1
  have gy : SignallingPattern code y → NaNPattern code y := fun h => h.1
  have gd : SignallingPattern code d → NaNPattern code d := fun h => h.1
  have sd := snan_reads code d hc
  unfold FusedOf
  have K := product_kind code x y hc h4 minus P hP
  clear hP
  simp only at K ⊢
  rw [← or_assoc (a := NaNPattern code x)]
  generalize hclash : (InfinitePattern code x ∧ ZeroPattern code y ∨ ZeroPattern code x ∧ InfinitePattern code y) = clash at *
  generalize hbig : (InfinitePattern code x ∧ ¬ NaNPattern code y ∧ ¬ ZeroPattern code y ∨ ¬ NaNPattern code x ∧ ¬ ZeroPattern code x ∧ InfinitePattern code y) = big at *
  generalize hnan : (NaNPattern code x ∨ NaNPattern code y) = nan at *
  obtain ⟨n, hn⟩ : ∃ n, n = ((negativeOf code x != negativeOf code y) != minus) := ⟨_, rfl⟩
  rw [← hn] at K ⊢
  have zx : ¬ nan → snan (fpDecode code x) = 0 := fun h => sx.2 fun g => h (hnan ▸ Or.inl (gx g))
  have zy : ¬ nan → snan (fpDecode code y) = 0 := fun h => sy.2 fun g => h (hnan ▸ Or.inr (gy g))
  clear sx sy gx gy hnan hclash hbig
  rcases K with ⟨k1, k2, k3, k4, rfl⟩ | ⟨k1, k2, k3, k4, rfl⟩ | ⟨k1, k2, k3, k4, rfl⟩ | ⟨k1, k2, k3, k4, k5, k6⟩
  -- a NaN factor
  · refine ⟨fun h => absurd h k2, fun _ _ => ?_, fun h => absurd h k3, fun h => absurd h k3, fun a b => absurd ⟨a, b⟩ k4, fun a b => absurd ⟨a, b⟩ k4⟩
    rw [U]; clear U F0 F1 sd gd
    rcases pattern_kind code d hc with ⟨c1, c2, c3, c4, u, hu, f⟩ | ⟨c1, c2, c3, c4, c5, f⟩ | ⟨c1, c2, c3, c4, l, k, fv, fz, f⟩ <;>
    rw [f] at N ⊢
    · simpa [addFV, Q, snan, Nat.or_assoc] using N
    · simpa [addFV, Q, snan] using N
    · simpa [addFV, Q, snan] using N
  -- an infinity times zero
  · refine ⟨fun _ => ?_, fun h => absurd k2 h, fun h => absurd h k3, fun h => absurd h k3, fun a b => absurd ⟨a, b⟩ k4, fun a b => absurd ⟨a, b⟩ k4⟩
    rw [U]; clear U F0 F1 sd gd N
    rcases pattern_kind code d hc with ⟨c1, c2, c3, c4, u, hu, f⟩ | ⟨c1, c2, c3, c4, c5, f⟩ | ⟨c1, c2, c3, c4, l, k, fv, fz, f⟩ <;> rw [f]
    · cases u <;> simpa [addFV, Q, snan] using A
    · simpa [addFV, Q, snan] using A
    · simpa [addFV, Q, snan] using A
  -- an infinite product
  · rw [zx k1, zy k1] at N
    rw [U]; clear U F0 F1 sd gd zx zy
    rcases pattern_kind code d hc with ⟨c1, c2, c3, c4, u, hu, f⟩ | ⟨c1, c2, c3, c4, c5, f⟩ | ⟨c1, c2, c3, c4, l, k, fv, fz, f⟩ <;> rw [f] at N ⊢
    · refine ⟨fun h => absurd h k2, fun _ _ => ?_, fun _ h => absurd h c2, fun _ h => absurd h c3, fun a b => absurd ⟨a, b⟩ k4, fun a b => absurd ⟨a, b⟩ k4⟩
      simpa [addFV, Q, snan] using N
    · refine ⟨fun h => absurd h k2, fun _ h => absurd h (by rintro (h | h); exacts [k1 h, c1 h]), fun _ _ => ⟨fun c => ?_, fun c => ?_⟩, fun _ h => absurd h c4,
        fun a b => absurd ⟨a, b⟩ k4, fun a b => absurd ⟨a, b⟩ k4⟩
      · simp [addFV, c, I, snan]
      · simpa [addFV, c, Q] using A
    · refine ⟨fun h => absurd h k2, fun _ h => absurd h (by rintro (h | h); exacts [k1 h, c1 h]), fun _ h => absurd h c3, fun _ _ => ?_,
        fun a b => absurd ⟨a, b⟩ k4, fun a b => absurd ⟨a, b⟩ k4⟩
      simp [addFV, I, snan]
  -- a number
  · rw [zx k1, zy k1] at N
    clear sd gd zx zy
    rcases pattern_kind code d hc with ⟨c1, c2, c3, c4, u, hu, f⟩ | ⟨c1, c2, c3, c4, c5, f⟩ | ⟨c1, c2, c3, c4, l, k, fv, fz, f⟩
    · refine ⟨fun h => absurd h k2, fun _ _ => ?_, fun _ h => absurd h c2, fun _ h => absurd h c3, fun _ _ h => absurd h c2, fun _ _ h => absurd h c3⟩
      rw [U, f, k5]; rw [f] at N
      cases hp : P.1 <;> rw [hp] at k6 <;> simp [FV.isFin] at k6
      simpa [addFV, Q, snan] using N
    · refine ⟨fun h => absurd h k2, fun _ h => absurd h (by rintro (h | h); exacts [k1 h, c1 h]), fun h => absurd h k3, fun _ h => absurd h c4,
        fun _ _ _ => ?_, fun _ _ h => absurd h c4⟩
      rw [U, f, k5]
      cases hp : P.1 <;> rw [hp] at k6 <;> simp [FV.isFin] at k6
      simp [addFV, I, snan]
    · refine ⟨fun h => absurd h k2, fun _ h => absurd h (by rintro (h | h); exacts [k1 h, c1 h]), fun h => absurd h k3, fun h => absurd h k3,
        fun _ _ h => absurd h c3, fun q1 q2 q3 => ?_⟩
      clear U
      cases minus
      · have z : (if n = negativeOf code d then n else decide (rm = 3)) =
            if (negativeOf code x != negativeOf code y) = negativeOf code d then negativeOf code d else decide (rm = 3) := by
          rw [hn, Bool.bne_false]; split <;> simp_all
        rw [z]; simpa using F0 q1 q2 q3
      · have z : (if n = negativeOf code d then n else decide (rm = 3)) =
            if (negativeOf code x != negativeOf code y) = negativeOf code d then decide (rm = 3) else negativeOf code d := by
          rw [hn]; cases (negativeOf code x != negativeOf code y) <;> cases negativeOf code d <;> simp
        rw [z]; simpa [sub_eq_add_neg, add_comm] using F1 q1 q2 q3

/-- VRCP's rule: one divided by the operand, to nearest (R37). -/
theorem fpRcp_quotient : QuotientOf code 0 (patternOf code false (exponentBias code) 0) x (fpRcp code x) := by
  have e : fpRcp code x = fpDiv code 0 (patternOf code false (exponentBias code) 0) x := by
    unfold fpRcp patternOf; rw [fmtOf_eq code hc]; simp [signBit]
  rw [e]; exact fpDiv_quotient code 0 _ x hc h4

/-- VRSQRT's rule (R37). -/
theorem fpRsqrt_inverseRoot : InverseRootOf code x (fpRsqrt code x) := by
  have N := nan_one code x hc
  have cn : canonicalNaN code = quietNaN code := by interval_cases code <;> rfl
  unfold InverseRootOf
  rcases pattern_kind code x hc with ⟨a1, a2, a3, a4, s, hs, h⟩ | ⟨a1, a2, a3, a4, a5, h⟩ | ⟨a1, a2, a3, a4, m, e, hv, hz, h⟩
  · refine ⟨fun _ => ?_, fun g => absurd g a4, fun g => absurd g a2, fun g => absurd a1 g, fun g => absurd g a3⟩
    rw [h] at N; unfold fpRsqrt; rw [h]; simp only; rw [cn]; exact N
  · refine ⟨fun g => absurd g a1, fun g => absurd g a5, fun _ g => ?_, fun _ _ g => ?_, fun g => absurd g a4⟩
    · unfold fpRsqrt; rw [h, g]
      have z := signBit_pattern code hc false 0 0 0 (by simp)
      simp only [zeroPattern, ← z, signBit]; rfl
    · unfold fpRsqrt; rw [h, g]; simp only [if_true]; rw [cn]; exact nan_always code
  · refine ⟨fun g => absurd g a1, fun g => ?_, fun g => absurd g a3, fun _ g n => ?_, fun _ hp => ?_⟩
    · unfold fpRsqrt; rw [h]; simp only [hz.2 g, if_true, infBits_eq code hc]; rfl
    · have k : m ≠ 0 := fun k => g (hz.1 k)
      unfold fpRsqrt; rw [h]; simp only [k, n, if_true, if_false]; rw [cn]; exact nan_always code
    · have hp' : (0 : ℝ) < patternValue code x := by exact_mod_cast hp
      have he : (0 : ℝ) < 2 ^ e := by positivity
      have hm : m ≠ 0 := by rintro rfl; rw [hv] at hp'; simp at hp'
      have hn : negativeOf code x = false := by
        cases g : negativeOf code x
        · rfl
        · rw [hv, g] at hp'; simp [signR] at hp'; nlinarith [show (0 : ℝ) ≤ m by positivity]
      rw [hn] at hv h
      have hv' : (patternValue code x : ℝ) = m * 2 ^ e := by rw [hv]; simp [signR]
      obtain ⟨k, hk, hk2, hU⟩ : ∃ k : Nat, 4 * (mantissaBits code + 1) + 8 + m.log2 ≤ k ∧ (e + k) % 2 = 0 ∧ fpRsqrt code x =
          if (isqrt (2 ^ k / m) * isqrt (2 ^ k / m) * m == 2 ^ k) = true then roundTo code 0 false (isqrt (2 ^ k / m)) (-(e + k) / 2)
          else neighbour code 0 x false (2 * isqrt (2 ^ k / m) + 1) (-(e + k) / 2 - 1) := by
        have M : (fmtOf code).manBits = mantissaBits code := by rw [fmtOf_eq code hc]
        by_cases c : (e + (4 * (mantissaBits code + 1) + 8 + m.log2 : ℕ)) % 2 = 0
        · refine ⟨4 * (mantissaBits code + 1) + 8 + m.log2, le_refl _, c, ?_⟩
          unfold fpRsqrt; rw [h]; simp only [hm, if_false, M, c, if_true, Bool.false_eq_true]
        · refine ⟨4 * (mantissaBits code + 1) + 8 + m.log2 + 1, by omega, by push_cast; push_cast at c; omega, ?_⟩
          unfold fpRsqrt; rw [h]; simp only [hm, if_false, M, c, Bool.false_eq_true]
      obtain ⟨j, hj⟩ : ∃ j : Int, -(e + k) = 2 * j := ⟨-(e + k) / 2, by omega⟩
      rw [hj, show 2 * j / 2 = j by omega] at hU
      obtain ⟨s1, s2⟩ := isqrt_spec (2 ^ k / m)
      have hm0 : 0 < m := Nat.pos_of_ne_zero hm
      have q1 : 2 ^ k / m * m ≤ 2 ^ k := Nat.div_mul_le_self _ _
      have q2 : 2 ^ k < (2 ^ k / m + 1) * m := by
        have e1 := Nat.div_add_mod (2 ^ k) m
        have e2 := Nat.mod_lt (2 ^ k) hm0
        nlinarith
      generalize hr : isqrt (2 ^ k / m) = r at *
      have mR : (0 : ℝ) < m := by exact_mod_cast hm0
      have hj0 : (0 : ℝ) < 2 ^ j := by positivity
      have hX : 1 / Real.sqrt (patternValue code x) = Real.sqrt (2 ^ k / m) * 2 ^ j := by
        have e1 : Real.sqrt (2 ^ k / m) * 2 ^ j = Real.sqrt (2 ^ k / m * (2 ^ j) ^ 2) := by
          rw [Real.sqrt_mul (by positivity), Real.sqrt_sq hj0.le]
        have e2 : (2 : ℝ) ^ k / m * (2 ^ j) ^ 2 = ((m : ℝ) * 2 ^ e)⁻¹ := by
          have e3 : ((2 : ℝ) ^ j) ^ 2 = (2 ^ e)⁻¹ * (2 ^ k)⁻¹ := by
            rw [sq, ← zpow_add₀ (by norm_num), show j + j = -e + -(k : ℤ) by omega, zpow_add₀ (by norm_num), zpow_neg, zpow_neg, zpow_natCast]
          rw [e3]; field_simp
        rw [e1, e2, hv', Real.sqrt_inv, one_div]
      have t1 : r * r * m ≤ 2 ^ k := le_trans (Nat.mul_le_mul_right _ s1) q1
      have t2 : 2 ^ k < (r + 1) * (r + 1) * m := lt_of_lt_of_le q2 (Nat.mul_le_mul_right _ s2)
      have u2 : Real.sqrt (2 ^ k / m) < r + 1 := by
        rw [Real.sqrt_lt' (by positivity), div_lt_iff₀ mR, sq]; exact_mod_cast t2
      rw [hX, hU]
      by_cases hx : r * r * m = 2 ^ k
      · have hb : (r * r * m == 2 ^ k) = true := by simp [hx]
        rw [if_pos hb]
        have w : Real.sqrt (2 ^ k / m) = r := by
          have : (2 : ℝ) ^ k / m = (r : ℝ) ^ 2 := by
            rw [div_eq_iff mR.ne', sq]; exact_mod_cast hx.symm
          rw [this, Real.sqrt_sq (by positivity)]
        have r0 : r ≠ 0 := by rintro rfl; simp at hx; exact absurd hx.symm (by positivity)
        refine ⟨0, by norm_num, ?_⟩
        have D := roundTo_delivered code 0 false r j (r * 2 ^ j) hc ⟨r0, Or.inl rfl⟩
        rw [w]; simpa [signR] using D
      · have hb : ¬ (r * r * m == 2 ^ k) = true := by simp [hx]
        rw [if_neg hb]
        have u1 : (r : ℝ) < Real.sqrt (2 ^ k / m) := by
          apply Real.lt_sqrt_of_sq_lt
          rw [lt_div_iff₀ mR, sq]; exact_mod_cast (by omega : r * r * m < 2 ^ k)
        have big : 2 ^ (mantissaBits code + 4) ≤ r := by
          by_contra c
          have h2 : m < 2 ^ (m.log2 + 1) := Nat.lt_log2_self
          have g1 : (r + 1) * (r + 1) ≤ 2 ^ (mantissaBits code + 4) * 2 ^ (mantissaBits code + 4) := Nat.mul_le_mul (by omega) (by omega)
          have g2 : (r + 1) * (r + 1) * m ≤ 2 ^ (mantissaBits code + 4) * 2 ^ (mantissaBits code + 4) * 2 ^ (m.log2 + 1) := Nat.mul_le_mul g1 h2.le
          rw [← pow_add, ← pow_add] at g2
          have g3 : 2 ^ (mantissaBits code + 4 + (mantissaBits code + 4) + (m.log2 + 1)) ≤ 2 ^ k := Nat.pow_le_pow_right (by norm_num) (by omega)
          omega
        have hp2 : 0 < 2 ^ (mantissaBits code + 4) := by positivity
        have hj1 : (2 : ℝ) ^ j = 2 * 2 ^ (j - 1) := by rw [zpow_sub₀ (by norm_num)]; ring
        have hje : (0 : ℝ) < 2 ^ (j - 1) := by positivity
        have E : Exact code (2 * r + 1) (j - 1) (Real.sqrt (2 ^ k / m) * 2 ^ j) := by
          refine ⟨by omega, Or.inr ⟨by omega, ?_, ?_, ?_⟩⟩
          · rw [Nat.le_log2 (by omega)]
            have : 2 ^ (mantissaBits code + 2) ≤ 2 ^ (mantissaBits code + 4) := Nat.pow_le_pow_right (by norm_num) (by omega)
            omega
          · rw [hj1]; push_cast; nlinarith
          · rw [hj1]; push_cast; nlinarith
        unfold neighbour
        by_cases pk : Config.elementary 0 code (ofNat x) % 2 = 0
        · refine ⟨1, by norm_num, ?_⟩
          have D := roundTo_delivered code 1 false _ _ _ hc E
          simpa [pk, signR] using D
        · refine ⟨2, by norm_num, ?_⟩
          have D := roundTo_delivered code 2 false _ _ _ hc E
          simpa [pk, signR] using D

omit h4 in
/-- The order of the model's values (R36). -/
theorem ltFV_lessThan : ltFV (fpDecode code x) (fpDecode code y) = true ↔ LessThan code x y := by
  have F := ltFV_value code x y hc
  unfold LessThan
  rcases pattern_kind code x hc with ⟨a1, a2, a3, a4, s, hs, h⟩ | ⟨a1, a2, a3, a4, a5, h⟩ | ⟨a1, a2, a3, a4, m, e, hv, hz, h⟩ <;>
  rcases pattern_kind code y hc with ⟨b1, b2, b3, b4, t, ht, g⟩ | ⟨b1, b2, b3, b4, b5, g⟩ | ⟨b1, b2, b3, b4, m', e', gv, gz, g⟩ <;>
  simp only [a1, a2, a3, a4, b1, b2, b3, b4, true_implies, false_implies, true_and, and_true, false_and, and_false, or_false, false_or,
    not_true, not_false_iff, not_and] at F ⊢
  · rw [h, g]; simp [ltFV]
  · rw [h, g]; simp [ltFV]
  · rw [h, g]; simp [ltFV]
  · rw [h, g]; simp [ltFV]
  · rw [h, g]; cases negativeOf code x <;> cases negativeOf code y <;> simp [ltFV]
  · rw [h, g]; simp [ltFV]
  · rw [h, g]; simp [ltFV]
  · rw [h, g]; simp [ltFV]
  · exact F

omit h4 in
/-- Equality of the model's values. -/
theorem eqFV_sameValue : eqFV (fpDecode code x) (fpDecode code y) = true ↔ SameValue code x y := by
  have F := ltFV_value code x y hc
  have F' := ltFV_value code y x hc
  unfold SameValue
  rcases pattern_kind code x hc with ⟨a1, a2, a3, a4, s, hs, h⟩ | ⟨a1, a2, a3, a4, a5, h⟩ | ⟨a1, a2, a3, a4, m, e, hv, hz, h⟩ <;>
  rcases pattern_kind code y hc with ⟨b1, b2, b3, b4, t, ht, g⟩ | ⟨b1, b2, b3, b4, b5, g⟩ | ⟨b1, b2, b3, b4, m', e', gv, gz, g⟩ <;>
  simp only [a1, a2, a3, a4, b1, b2, b3, b4, true_implies, false_implies, true_and, and_true, false_and, and_false, or_false, false_or] at F F' ⊢
  · rw [h, g]; simp [eqFV]
  · rw [h, g]; simp [eqFV]
  · rw [h, g]; simp [eqFV]
  · rw [h, g]; simp [eqFV]
  · rw [h, g]; cases negativeOf code x <;> cases negativeOf code y <;> simp [eqFV, ltFV]
  · rw [h, g]; cases negativeOf code x <;> simp [eqFV, ltFV]
  · rw [h, g]; simp [eqFV]
  · rw [h, g]; cases negativeOf code y <;> simp [eqFV, ltFV]
  · rw [h, g] at F F' ⊢
    unfold eqFV
    simp only [Bool.and_eq_true, Bool.not_eq_true', ← Bool.not_eq_true, F, F', not_lt]
    constructor
    · intro ⟨p, q⟩; exact le_antisymm q p
    · intro p; rw [p]; exact ⟨le_refl _, le_refl _⟩

omit h4 in
/-- No two patterns are each below the other. -/
theorem below_asymm (h1 : LessThan code x y ∨ (SameValue code x y ∧ negativeOf code x = true ∧ negativeOf code y = false))
    (h2 : LessThan code y x ∨ (SameValue code y x ∧ negativeOf code y = true ∧ negativeOf code x = false)) : False := by
  unfold LessThan SameValue at h1 h2
  rcases pattern_kind code x hc with ⟨a1, a2, a3, a4, s, hs, h⟩ | ⟨a1, a2, a3, a4, a5, h⟩ | ⟨a1, a2, a3, a4, m, e, hv, hz, h⟩ <;>
  rcases pattern_kind code y hc with ⟨b1, b2, b3, b4, t, ht, g⟩ | ⟨b1, b2, b3, b4, b5, g⟩ | ⟨b1, b2, b3, b4, m', e', gv, gz, g⟩ <;>
  simp only [a1, a2, a3, a4, b1, b2, b3, b4, true_and, and_true, false_and, and_false, or_false, false_or, not_true, not_false_iff, not_and] at h1 h2
  · revert h1 h2; cases negativeOf code x <;> cases negativeOf code y <;> simp
  · revert h1 h2; cases negativeOf code x <;> simp
  · revert h1 h2; cases negativeOf code y <;> simp
  · rcases h1 with h1 | ⟨h1, p1, q1⟩ <;> rcases h2 with h2 | ⟨h2, p2, q2⟩
    · exact lt_asymm h1 h2
    · rw [h2] at h1; exact lt_irrefl _ h1
    · rw [h1] at h2; exact lt_irrefl _ h2
    · rw [p1] at q2; exact absurd q2 (by decide)

omit h4 in
/-- VMIN's and VMAX's rule (R36). -/
theorem minMax_extreme (larger : Bool) : ExtremeOf code x y larger (minMaxBits code larger x y) := by
  have N := nan_pair code x y hc
  have cn : canonicalNaN code = quietNaN code := by interval_cases code <;> rfl
  have A := below_asymm code x y hc
  have B : ¬ NaNPattern code x → ¬ NaNPattern code y → (belowFV (fpDecode code x) (fpDecode code y) = true ↔
      (LessThan code x y ∨ (SameValue code x y ∧ negativeOf code x = true ∧ negativeOf code y = false))) := by
    intro nx ny
    have L := ltFV_lessThan code x y hc
    have E := eqFV_sameValue code x y hc
    have G : ∀ z, ¬ NaNPattern code z → negativeFV (fpDecode code z) = negativeOf code z := by
      intro z nz
      rcases pattern_kind code z hc with ⟨a1, a2, a3, a4, s, hs, h⟩ | ⟨a1, a2, a3, a4, a5, h⟩ | ⟨a1, a2, a3, a4, m, e, hv, hz, h⟩
      · exact absurd a1 nz
      · rw [h]; rfl
      · rw [h]; rfl
    unfold belowFV
    rw [G x nx, G y ny]
    simp only [Bool.or_eq_true, Bool.and_eq_true, L, E, Bool.not_eq_true', and_assoc]
  unfold ExtremeOf
  simp only
  rcases pattern_kind code x hc with ⟨a1, a2, a3, a4, s, hs, h⟩ | ⟨a1, a2, a3, a4, a5, h⟩ | ⟨a1, a2, a3, a4, m, e, hv, hz, h⟩ <;>
  rcases pattern_kind code y hc with ⟨b1, b2, b3, b4, t, ht, g⟩ | ⟨b1, b2, b3, b4, b5, g⟩ | ⟨b1, b2, b3, b4, m', e', gv, gz, g⟩ <;>
  simp only [a1, b1, not_true, not_false_iff, true_implies, false_implies, and_true, true_and] at B ⊢
  · unfold minMaxBits; rw [h, g] at N ⊢; simp only; rw [cn]; exact N
  · unfold minMaxBits; rw [h, g] at N ⊢; exact ⟨rfl, N.2.1, N.2.2⟩
  · unfold minMaxBits; rw [h, g] at N ⊢; exact ⟨rfl, N.2.1, N.2.2⟩
  · unfold minMaxBits; rw [h, g] at N ⊢; exact ⟨rfl, N.2.1, N.2.2⟩
  all_goals try (unfold minMaxBits; rw [h, g] at N ⊢; exact ⟨rfl, N.2.1, N.2.2⟩)
  all_goals
    have U : minMaxBits code larger x y = (if belowFV (fpDecode code x) (fpDecode code y) then (if larger then y else x) else (if larger then x else y), 0) := by
      unfold minMaxBits; rw [h, g]; simp [snan]
    rw [U]
    refine ⟨fun q => ?_, fun q => ?_, fun q => ?_⟩
    · rw [if_pos (B.2 q)]
    · rw [if_neg (fun p => A (B.1 p) q)]
    · subst q; simp

omit h4 in
/-- VCMP's conditions on floating-point elements (R36, R123). -/
theorem vecCompare_float (m : Nat) :
    let less := LessThan code x y
    let same := SameValue code x y
    let more := LessThan code y x
    let holds := match m with
      | 0 => same
      | 1 => ¬ same
      | 2 => less
      | 3 => less ∨ same
      | 4 => more
      | _ => more ∨ same
    m < 8 → (holds → (vecCompare code m x y).1 = 1) ∧ (¬ holds → (vecCompare code m x y).1 = 0) ∧
      (SignallingPattern code x ∨ SignallingPattern code y → (vecCompare code m x y).2 = 0x100) ∧
      (¬ (SignallingPattern code x ∨ SignallingPattern code y) → (vecCompare code m x y).2 = 0) := by
  have N := nan_pair code x y hc
  have L := ltFV_lessThan code x y hc
  have L' := ltFV_lessThan code y x hc
  have E := eqFV_sameValue code x y hc
  have hi : isFloatCode code = true := by simpa [isFloatCode] using hc
  intro less same more holds
  have hh : holds = match m with
    | 0 => same
    | 1 => ¬ same
    | 2 => less
    | 3 => less ∨ same
    | 4 => more
    | _ => more ∨ same := rfl
  clear_value holds
  intro hm
  refine ⟨?_, ?_, N.2.1 |> fun h g => ?_, N.2.2 |> fun h g => ?_⟩
  · intro h
    unfold vecCompare; simp only [hi, if_true]
    rw [hh] at h
    interval_cases m <;> simp only [less, same, more, ← L, ← L', ← E] at h ⊢ <;> simp_all [boolNat]
  · intro h
    unfold vecCompare; simp only [hi, if_true]
    rw [hh] at h
    interval_cases m <;> simp only [less, same, more, ← L, ← L', ← E] at h ⊢ <;> simp_all [boolNat]
  · unfold vecCompare; simp only [hi, if_true]; exact h g
  · unfold vecCompare; simp only [hi, if_true]; exact h g

end
/-- A value of a format converted to another format of another width (R39, R40). -/
theorem convert_float (src dst rm x : Nat) (hs : src < 6) (hd : dst < 6) (hw : widthOf src ≠ widthOf dst) :
    ConvertsFloat src dst rm x (convert src dst rm x) := by
  have F := convert_delivered src dst rm x hs hd hw
  have hne : src ≠ dst := by rintro rfl; exact hw rfl
  have U : convert src dst rm x = ((deliverFV dst rm (fpDecode src x)).1, (deliverFV dst rm (fpDecode src x)).2 ||| snan (fpDecode src x)) := by
    unfold convert
    rw [if_neg hne, if_pos (show isFloatCode src = true by simpa [isFloatCode] using hs), if_pos (show isFloatCode dst = true by simpa [isFloatCode] using hd), if_neg hw]
  obtain ⟨s1, s2⟩ := snan_reads src x hs
  unfold ConvertsFloat
  rcases pattern_kind src x hs with ⟨a1, a2, a3, a4, s, hs', h⟩ | ⟨a1, a2, a3, a4, a5, h⟩ | ⟨a1, a2, a3, a4, m, e, hv, hz, h⟩
  · refine ⟨fun _ => ?_, fun g => absurd g a2, fun g => absurd g a3⟩
    rw [U, h, deliver_nan dst hd]; rw [h] at s1 s2
    exact ⟨rfl, fun g => by simp [s1 g], fun g => by simp [s2 g]⟩
  · refine ⟨fun g => absurd g a1, fun _ => ?_, fun g => absurd g a4⟩
    rw [U, h]
    by_cases c : dst = 4
    · subst c; rw [if_pos rfl, ← maxBits_eq 4 (by norm_num)]; simp [deliverFV, fmtOf, snan, Flag.of, Flag.nx]
    · rw [if_neg c, deliver_inf dst hd _ _ c]; simp [snan]
  · exact ⟨fun g => absurd g a1, fun g => absurd g a3, F⟩

/-- The place of a zero. -/
theorem fpDecode_zero (code x : Nat) (n : Bool) (e : Int) (hc : code < 6) (h : fpDecode code x = .fin n 0 e) : e ≤ 0 := by
  unfold fpDecode at h; rw [fmtOf_eq code hc] at h
  simp only [decide_eq_true_eq] at h
  have : 0 < 2 ^ mantissaBits code := by positivity
  have hb : 1 ≤ exponentBias code := by interval_cases code <;> decide
  split at h
  · split at h <;> cases h
  · split at h
    · cases h
    · split at h
      · simp only [FV.fin.injEq] at h; omega
      · simp only [FV.fin.injEq] at h; omega

theorem saturate_spec (w : Nat) (v : ℤ) (fl : Nat) (hw : 1 ≤ w) :
    (v < -2 ^ (w - 1) → saturate w v fl = (2 ^ (w - 1), fl)) ∧ (2 ^ (w - 1) ≤ v → saturate w v fl = (2 ^ (w - 1) - 1, fl)) ∧
    (-2 ^ (w - 1) ≤ v → v < 2 ^ (w - 1) → ((saturate w v fl).1 : ℤ) = v % 2 ^ w ∧ (saturate w v fl).2 = 0) := by
  obtain ⟨k, rfl⟩ : ∃ k, w = k + 1 := ⟨w - 1, by omega⟩
  have hp : (2 : ℤ) ^ (k + 1) = 2 * 2 ^ k := by ring
  have h0 : (0 : ℤ) < 2 ^ k := by positivity
  have hN : 0 < 2 ^ k := by positivity
  unfold saturate
  simp only [Nat.add_sub_cancel]
  push_cast
  refine ⟨fun h => ?_, fun h => ?_, fun h1 h2 => ?_⟩
  · rw [if_pos h]
    have : (-2 ^ k : ℤ) % 2 ^ (k + 1) = 2 ^ k := by
      rw [hp, ← Int.add_emod_right, show -2 ^ k + 2 * 2 ^ k = (2 : ℤ) ^ k by ring]
      exact Int.emod_eq_of_lt h0.le (by omega)
    rw [this]; norm_cast
  · rw [if_neg (by omega), if_pos (by omega)]
    have : ((2 : ℤ) ^ k - 1).toNat = 2 ^ k - 1 := by
      zify [hN]; rw [Int.toNat_of_nonneg (by omega)]
    rw [this]
  · rw [if_neg (by omega), if_neg (by omega)]
    refine ⟨?_, rfl⟩
    have : 0 ≤ v % 2 ^ (k + 1) := Int.emod_nonneg _ (by positivity)
    exact Int.toNat_of_nonneg this

/-- An integer converted to another integer format (R41). -/
theorem convert_saturates (src dst rm x : Nat) (hs : 8 ≤ src) (hd : 8 ≤ dst) (hd' : dst < 12) (hne : src ≠ dst) :
    Saturates (widthOf dst) (signed x (widthOf src)) (convert src dst rm x) := by
  have U : convert src dst rm x = saturate (widthOf dst) (signed x (widthOf src)) Flag.sat := by
    unfold convert
    rw [if_neg hne, if_neg (show ¬ isFloatCode src = true by simp [isFloatCode]; omega), if_neg (show ¬ isFloatCode dst = true by simp [isFloatCode]; omega)]
  rw [U]
  exact saturate_spec _ _ _ (by interval_cases dst <;> decide)

/-- A floating-point value converted to an integer format (R41; log entry 47). -/
theorem convert_toInteger (src dst rm x : Nat) (hs : src < 6) (hd : 8 ≤ dst) (hd' : dst < 12) :
    ConvertsToInteger src (widthOf dst) rm x (convert src dst rm x) := by
  have U : convert src dst rm x = floatToInt (widthOf dst) rm (fpDecode src x) := by
    unfold convert
    rw [if_neg (by omega), if_pos (show isFloatCode src = true by simpa [isFloatCode] using hs), if_neg (show ¬ isFloatCode dst = true by simp [isFloatCode]; omega)]
  rw [U]
  have hw : 1 ≤ widthOf dst ∧ widthOf dst ≤ 64 := by interval_cases dst <;> decide
  generalize widthOf dst = w at *
  obtain ⟨k, rfl⟩ : ∃ k, w = k + 1 := ⟨w - 1, by omega⟩
  have h63 : (2 : ℤ) ^ k ≤ 2 ^ 63 := pow_le_pow_right₀ (by norm_num) (by omega)
  have h0 : (0 : ℤ) < 2 ^ k := by positivity
  unfold ConvertsToInteger
  rcases pattern_kind src x hs with ⟨a1, a2, a3, a4, s, hs', h⟩ | ⟨a1, a2, a3, a4, a5, h⟩ | ⟨a1, a2, a3, a4, m, e, hv, hz, h⟩
  · exact ⟨fun _ => by rw [h]; rfl, fun g => absurd g a2, fun g => absurd g a3⟩
  · refine ⟨fun g => absurd g a1, fun _ => ?_, fun g => absurd g a4⟩
    rw [h]
    have S := saturate_spec (k + 1) (if negativeOf src x then -(2 ^ (k + 1) : ℕ) else (2 ^ (k + 1) : ℕ)) Flag.nv (by omega)
    simp only [Nat.add_sub_cancel] at S ⊢
    have hp : ((2 ^ (k + 1) : ℕ) : ℤ) = 2 * 2 ^ k := by push_cast; ring
    show saturate (k + 1) _ Flag.nv = _
    cases hn : negativeOf src x
    · rw [hn] at S; simp only [Bool.false_eq_true, if_false] at S ⊢; exact S.2.1 (by omega)
    · rw [hn] at S; simp only [if_true] at S ⊢; exact S.1 (by omega)
  · refine ⟨fun g => absurd g a1, fun g => absurd g a3, fun _ => ?_⟩
    generalize hn : negativeOf src x = n at *
    have he : (0 : ℝ) < 2 ^ e := by positivity
    by_cases hm : m = 0
    · subst hm
      have e0 := fpDecode_zero src x n e hs h
      have X0 : (patternValue src x : ℝ) = 0 := by rw [hv]; simp
      have X0' : patternValue src x = 0 := by exact_mod_cast X0
      refine ⟨0, ?_, ?_⟩
      · rw [X0]; simpa [signR] using rounds_self rm false 0 1 one_pos
      simp only [Nat.add_sub_cancel]
      refine ⟨fun g => by omega, fun g => by omega, fun _ _ => ?_⟩
      · rw [X0', h]
        have r0 : (roundAt rm n 0 e 0) = (0, false) := by
          unfold roundAt
          by_cases c : 0 ≤ e
          · rw [if_pos c]; simp
          · rw [if_neg c]
            have : roundsUp rm n 0 0 (2 ^ ((0 - e).toNat - 1)) = false := by
              unfold roundsUp; rcases rm with _ | _ | _ | r <;> simp
            simp only [Nat.zero_shiftRight, Nat.zero_mod, this]; rfl
        have c70 : ¬ ((Nat.log2 0 : Nat) : Int) + e > 70 := by rw [Nat.log2_zero]; simp; omega
        unfold floatToInt
        simp only [c70, if_false, r0]
        have S := (saturate_spec (k + 1) 0 Flag.nv (by omega)).2.2 (by simp) (by simp)
        cases n <;> simpa [Flag.when] using S
    · have hX : (0 : ℝ) < m * 2 ^ e := by have : (0 : ℝ) < m := by exact_mod_cast Nat.pos_of_ne_zero hm
                                          positivity
      obtain ⟨R, I⟩ := roundAt_rounds rm n m e 0 (m * 2 ^ e) hX (Or.inl rfl)
      simp only [zpow_zero, mul_one] at R I
      rw [← hv] at R
      generalize hr : roundAt rm n m e 0 = r at *
      have C : ((if n then -(r.1 : Int) else r.1 : Int) : ℝ) = signR n * r.1 := by cases n <;> simp [signR]
      refine ⟨if n then -(r.1 : Int) else r.1, by rw [C]; exact R, ?_⟩
      have W := abs_lt.1 (rounds_within R one_pos)
      have S := saturate_spec (k + 1) (if n then -(r.1 : Int) else r.1) Flag.nv (by omega)
      simp only [Nat.add_sub_cancel] at S ⊢
      have V : floatToInt (k + 1) rm (fpDecode src x) = (let o := saturate (k + 1) (if n then -(r.1 : Int) else r.1) Flag.nv
          (o.1, if o.2 ≠ 0 then o.2 else Flag.when r.2 Flag.nx)) := by
        rw [h]; unfold floatToInt; simp only [hr]
        by_cases c : (m.log2 : Int) + e > 70
        · rw [if_pos c]
          have big : (2 : ℝ) ^ (71 : ℤ) ≤ m * 2 ^ e := by
            have h1 : 2 ^ m.log2 ≤ m := Nat.log2_self_le hm
            have h2 : (2 : ℝ) ^ m.log2 ≤ m := by exact_mod_cast h1
            calc (2 : ℝ) ^ (71 : ℤ) ≤ 2 ^ ((m.log2 : ℤ) + e) := zpow_le_zpow_right₀ (by norm_num) (by omega)
              _ = 2 ^ m.log2 * 2 ^ e := by rw [zpow_add₀ (by norm_num), zpow_natCast]
              _ ≤ m * 2 ^ e := by nlinarith
          have rb : (2 : ℝ) ^ 70 ≤ r.1 := by
            rw [hv] at W
            have e71 : (2 : ℝ) ^ (71 : ℤ) = 2 ^ 71 := by norm_cast
            rw [e71] at big
            cases n
            · simp only [signR, Bool.false_eq_true, if_false, one_mul] at W; linarith [W.1]
            · simp only [signR, if_true, neg_mul, one_mul] at W; linarith [W.2]
          have rb' : 2 ^ 70 ≤ r.1 := by exact_mod_cast rb
          have T := saturate_spec (k + 1) (if n then -((2 ^ 70 : ℕ) : Int) else ((2 ^ 70 : ℕ) : Int)) Flag.nv (by omega)
          simp only [Nat.add_sub_cancel] at T
          cases n
          · simp only [Bool.false_eq_true, if_false] at S T ⊢
            have q1 := S.2.1 (by omega)
            have q2 := T.2.1 (by norm_num; omega)
            rw [q1, q2]; simp [Flag.nv]
          · simp only [if_true] at S T ⊢
            have q1 := S.1 (by omega)
            have q2 := T.1 (by norm_num; omega)
            rw [q1, q2]; simp [Flag.nv]
        · rw [if_neg c]
      rw [V]
      refine ⟨fun g => ?_, fun g => ?_, fun g1 g2 => ?_⟩
      · simp only [S.1 g]; simp [Flag.nv]
      · simp only [S.2.1 g]; simp [Flag.nv]
      · obtain ⟨q1, q2⟩ := S.2.2 g1 g2
        refine ⟨q1, ?_⟩
        simp only [q2, ne_eq, not_true, if_false]
        have same : ((((if n then -(r.1 : Int) else r.1 : Int) : ℚ)) = patternValue src x) ↔ (r.1 : ℝ) = m * 2 ^ e := by
          rw [← Rat.cast_inj (α := ℝ), Rat.cast_intCast, C, hv]; cases n <;> simp [signR]
        by_cases c : (r.1 : ℝ) = m * 2 ^ e
        · rw [if_pos (same.2 c)]
          have : r.2 = false := by rw [Bool.eq_false_iff]; intro t; exact (I.1 t) c
          rw [this]; rfl
        · rw [if_neg (fun t => c (same.1 t)), I.2 c]; rfl

section
variable (code x : Nat) (hc : code < 6) (h4 : code ≠ 4)
include hc h4

omit h4 in
/-- VEXP2's special cases (R37). -/
theorem fpExp2_exponential : ExponentialOf code x (fpExp2 code x) := by
  have N := nan_one code x hc
  have cn : canonicalNaN code = quietNaN code := by interval_cases code <;> rfl
  have z := signBit_pattern code hc false 0 0 0 (by simp)
  have z' : zeroPattern code false = 0 := by unfold zeroPattern; rw [← z]; simp [signBit]
  unfold ExponentialOf
  rcases pattern_kind code x hc with ⟨a1, a2, a3, a4, s, hs, h⟩ | ⟨a1, a2, a3, a4, a5, h⟩ | ⟨a1, a2, a3, a4, m, e, hv, hz, h⟩
  · refine ⟨fun _ => ?_, fun g => absurd g a2, fun g => absurd g a4⟩
    rw [h] at N; unfold fpExp2; rw [h]; simp only; rw [cn]; exact N
  · refine ⟨fun g => absurd g a1, fun _ => ?_, fun g => absurd g a5⟩
    unfold fpExp2; rw [h, z']; simp only [infBits_eq code hc]
    cases negativeOf code x <;> rfl
  · refine ⟨fun g => absurd g a1, fun g => absurd g a3, fun g => ?_⟩
    have D := roundTo_delivered code 0 false 1 0 1 hc ⟨by norm_num, Or.inl (by norm_num)⟩
    unfold fpExp2; rw [h]; simp only [hz.2 g, if_true]; simpa [signR] using D

/-- VLOG2's special cases and powers of two (R37). -/
theorem fpLog2_logarithm : LogarithmOf code x (fpLog2 code x) := by
  have N := nan_one code x hc
  have cn : canonicalNaN code = quietNaN code := by interval_cases code <;> rfl
  have z := signBit_pattern code hc false 0 0 0 (by simp)
  have z' : zeroPattern code false = 0 := by unfold zeroPattern; rw [← z]; simp [signBit]
  unfold LogarithmOf
  rcases pattern_kind code x hc with ⟨a1, a2, a3, a4, s, hs, h⟩ | ⟨a1, a2, a3, a4, a5, h⟩ | ⟨a1, a2, a3, a4, m, e, hv, hz, h⟩
  · refine ⟨fun _ => ?_, fun g => absurd g a4, fun g => absurd g a2, fun g => absurd a1 g, fun g => absurd g a3⟩
    rw [h] at N; unfold fpLog2; rw [h]; simp only; rw [cn]; exact N
  · refine ⟨fun g => absurd g a1, fun g => absurd g a5, fun _ g => ?_, fun _ _ g => ?_, fun g => absurd g a4⟩
    · unfold fpLog2; rw [h, g]; simp only [infBits_eq code hc]; rfl
    · unfold fpLog2; rw [h, g]; simp only [if_true]; rw [cn]; exact nan_always code
  · refine ⟨fun g => absurd g a1, fun g => ?_, fun g => absurd g a3, fun _ g n => ?_, fun _ j hj => ?_⟩
    · unfold fpLog2; rw [h]; simp only [hz.2 g, if_true, infBits_eq code hc]; rfl
    · have k : m ≠ 0 := fun k => g (hz.1 k)
      unfold fpLog2; rw [h]; simp only [k, n, if_true, if_false]; rw [cn]; exact nan_always code
    · have hj' : (patternValue code x : ℝ) = 2 ^ j := by rw [hj]; push_cast; rfl
      have he : (0 : ℝ) < 2 ^ e := by positivity
      have hj0 : (0 : ℝ) < 2 ^ j := by positivity
      have hm : m ≠ 0 := by rintro rfl; rw [hv] at hj'; simp at hj'; exact absurd hj'.symm hj0.ne'
      have hn : negativeOf code x = false := by
        cases g : negativeOf code x
        · rfl
        · rw [hv, g] at hj'; simp [signR] at hj'; nlinarith [show (0 : ℝ) ≤ m by positivity]
      rw [hn] at hv h
      rw [hv] at hj'
      simp only [signR, Bool.false_eq_true, if_false, one_mul] at hj'
      have l1 : 2 ^ m.log2 ≤ m := Nat.log2_self_le hm
      have l2 : m < 2 ^ (m.log2 + 1) := Nat.lt_log2_self
      have r1 : (2 : ℝ) ^ ((m.log2 : ℤ) + e) ≤ 2 ^ j := by
        rw [← hj', zpow_add₀ (by norm_num), zpow_natCast]
        have : (2 : ℝ) ^ m.log2 ≤ m := by exact_mod_cast l1
        nlinarith
      have r2 : (2 : ℝ) ^ j < 2 ^ ((m.log2 : ℤ) + 1 + e) := by
        rw [← hj', zpow_add₀ (by norm_num), show (m.log2 : ℤ) + 1 = ((m.log2 + 1 : ℕ) : ℤ) by push_cast; rfl, zpow_natCast]
        have : (m : ℝ) < 2 ^ (m.log2 + 1) := by exact_mod_cast l2
        nlinarith
      have q1 := (zpow_le_zpow_iff_right₀ (by norm_num : (1 : ℝ) < 2)).1 r1
      have q2 := (zpow_lt_zpow_iff_right₀ (by norm_num : (1 : ℝ) < 2)).1 r2
      have ej : e + (m.log2 : ℤ) = j := by omega
      have pm : m = 2 ^ m.log2 := by
        have : (m : ℝ) = 2 ^ m.log2 := by
          have e1 : (2 : ℝ) ^ j = 2 ^ m.log2 * 2 ^ e := by rw [← ej, add_comm, zpow_add₀ (by norm_num), zpow_natCast]
          rw [e1] at hj'; exact mul_right_cancel₀ he.ne' hj'
        exact_mod_cast this
      have U : fpLog2 code x = if j = 0 then (0, 0) else roundTo code 0 (decide (j < 0)) j.natAbs 0 := by
        unfold fpLog2; rw [h]; simp only [hm, if_false, Bool.false_eq_true]
        rw [if_pos pm, ej]
      rw [U]
      by_cases j0 : j = 0
      · subst j0; rw [if_pos rfl]
        exact ⟨fun g => absurd (by simp) g, fun _ => by rw [z']⟩
      · rw [if_neg j0]
        have S : Stands (j : ℝ) false (.fin (decide (j < 0)) j.natAbs 0) := by
          refine ⟨?_, fun g => by simp; omega⟩
          by_cases g : j < 0
          · have : ((j.natAbs : Int) : ℝ) = -((j : Int) : ℝ) := by rw [show (j.natAbs : Int) = -j by omega]; push_cast; ring
            simp only [g, decide_true, signR, if_true]; rw [← Int.cast_natCast (R := ℝ), this]; simp
          · have : ((j.natAbs : Int) : ℝ) = ((j : Int) : ℝ) := by rw [show (j.natAbs : Int) = j by omega]
            simp only [g, decide_false, signR, Bool.false_eq_true, if_false]; rw [← Int.cast_natCast (R := ℝ), this]; simp
        simpa [deliverFV] using S.delivered (rm := 0) hc

end

end Sys2Proof.Machine
end

