-- ==== Sys2Proof/Laws/MemoryCore.lean ====
section
/-! SUPPORT. Memory keeps its canonical form, one lemma per operation: the named operations, translation, operands, the network, loads, fences,
  full/empty, ATOM, names and threads. -/
namespace Sys2Proof.Machine

open State

/-- A body that answers a state answers one whose memory is in canonical form. -/
def Keeps (r : Except Stop State) : Prop := ∀ t, r = .ok t → t.mem.wf = true
/-- An outcome that is a next state has its memory in canonical form. -/
def KeepsNext (r : Host.Outcome State Fault Refusal) : Prop := ∀ t, r = .next t → t.mem.wf = true
@[simp] theorem keeps_ok (t : State) : Keeps (.ok t) ↔ t.mem.wf = true := by simp [Keeps]
@[simp] theorem keeps_error (e : Stop) : Keeps (.error e) ↔ True := by simp [Keeps]
@[simp] theorem keepsNext_next (t : State) : KeepsNext (.next t) ↔ t.mem.wf = true := by simp [KeepsNext]
@[simp] theorem keepsNext_fault (e : Fault) : KeepsNext (.fault e) ↔ True := by simp [KeepsNext]
theorem Keeps.of {r : Except Stop State} {t} (h : Keeps r) (e : r = .ok t) : t.mem.wf = true := h t e
theorem foldl_wf {α : Type} (f : State → α → State) (l : List α) (s : State) (h : s.mem.wf = true) (hf : ∀ s x, s.mem.wf = true → (f s x).mem.wf =
  true) :
    (l.foldl f s).mem.wf = true := by
  induction l generalizing s with
  | nil => exact h
  | cons x r ih => exact ih _ (hf _ _ h)
theorem Keeps.ok {t : State} (h : t.mem.wf = true) : Keeps (.ok t) := by simp [Keeps, h]
theorem Keeps.error {e : Stop} : Keeps (.error e) := by simp [Keeps]
theorem KeepsNext.next {t : State} (h : t.mem.wf = true) : KeepsNext (.next t) := by simp [KeepsNext, h]
theorem KeepsNext.fault {e : Fault} : KeepsNext (.fault e) := by simp [KeepsNext]

/-! ## State.lean -/

theorem State.reset_wf : State.reset.mem.wf = true := rfl

/-! ## Ops.lean -/

theorem State.setSlot_wf (s : State) (t : Nat) (v : Slot) (hw : s.mem.wf = true) : (State.setSlot s t v).mem.wf = true := by
  unfold State.setSlot; exact hw

theorem State.modSlot_wf (s : State) (t : Nat) (f : Slot → Slot) (hw : s.mem.wf = true) : (State.modSlot s t f).mem.wf = true := by
  unfold State.modSlot; with_reducible repeat' first | assumption | apply State.setSlot_wf

theorem State.setCore_wf (s : State) (c : Nat) (v : CoreRec) (hw : s.mem.wf = true) : (State.setCore s c v).mem.wf = true := by
  unfold State.setCore; exact hw

theorem State.modCore_wf (s : State) (c : Nat) (f : CoreRec → CoreRec) (hw : s.mem.wf = true) : (State.modCore s c f).mem.wf = true := by
  unfold State.modCore; with_reducible repeat' first | assumption | apply State.setCore_wf

theorem State.modMe_wf (s : State) (f : Slot → Slot) (hw : s.mem.wf = true) : (State.modMe s f).mem.wf = true := by
  unfold State.modMe; with_reducible repeat' first | assumption | apply State.modSlot_wf

theorem State.modCtx_wf (s : State) (i : Nat) (f : CtxRec → CtxRec) (hw : s.mem.wf = true) : (State.modCtx s i f).mem.wf = true := by
  unfold State.modCtx; exact hw

theorem State.freed_wf (s : State) (n : Nat) (hw : s.mem.wf = true) : (State.freed s n).mem.wf = true := by
  unfold State.freed; exact hw

theorem State.setRegFull_wf (s : State) (t v : Nat) (b : Bool) (hw : s.mem.wf = true) : (State.setRegFull s t v b).mem.wf = true := by
  unfold State.setRegFull; repeat' first | with_reducible assumption | refine Keeps.of ?_ (by with_reducible assumption) | split

theorem State.setRegValue_wf (s : State) (t v : Nat) (w : Word) (hw : s.mem.wf = true) : (State.setRegValue s t v w).mem.wf = true := by
  unfold State.setRegValue; repeat' first | with_reducible assumption | refine Keeps.of ?_ (by with_reducible assumption) | split

theorem State.wakeSlot_wf (s : State) (t : Nat) (p : Park → Bool) (hw : s.mem.wf = true) : (State.wakeSlot s t p).mem.wf = true := by
  unfold State.wakeSlot; repeat' first
    | (with_reducible first | assumption | apply State.setSlot_wf) | refine Keeps.of ?_ (by with_reducible assumption) | split | dsimp only

theorem State.wakeCore_wf (s : State) (c : Nat) (p : Park → Bool) (hw : s.mem.wf = true) : (State.wakeCore s c p).mem.wf = true := by
  unfold State.wakeCore; exact hw

theorem State.writeReg_wf (s : State) (t v : Nat) (w : Word) (hw : s.mem.wf = true) : (State.writeReg s t v w).mem.wf = true := by
  unfold State.writeReg; with_reducible repeat' first | assumption | apply State.setRegFull_wf | apply State.setRegValue_wf | apply State.wakeSlot_wf

theorem State.fillReg_wf (s : State) (t v : Nat) (hw : s.mem.wf = true) : (State.fillReg s t v).mem.wf = true := by
  unfold State.fillReg; with_reducible repeat' first | assumption | apply State.setRegFull_wf | apply State.wakeSlot_wf

theorem State.markAwaiting_wf (s : State) (t v : Nat) (hw : s.mem.wf = true) : (State.markAwaiting s t v).mem.wf = true := by
  unfold State.markAwaiting; repeat' first
    | (with_reducible first
      | assumption | apply State.modSlot_wf | apply State.setRegFull_wf)
    | refine Keeps.of ?_ (by with_reducible assumption) | split

theorem State.clearAwaiting_wf (s : State) (t v : Nat) (hw : s.mem.wf = true) : (State.clearAwaiting s t v).mem.wf = true := by
  unfold State.clearAwaiting; with_reducible repeat' first | assumption | apply State.modSlot_wf | apply State.wakeSlot_wf

theorem State.markDirty_wf (s : State) (key : Nat) (hw : s.mem.wf = true) : (State.markDirty s key).mem.wf = true := by
  unfold State.markDirty; repeat' first | with_reducible assumption | refine Keeps.of ?_ (by with_reducible assumption) | split

theorem State.write_wf (s : State) (key n v : Nat) (hw : s.mem.wf = true) : (State.write s key n v).mem.wf = true := by
  unfold State.write; repeat' first
    | (with_reducible first | assumption | apply State.markDirty_wf) | refine Keeps.of ?_ (by with_reducible assumption) | apply Memory.wf_writeN

theorem State.write64_wf (s : State) (key : Nat) (v : Word) (hw : s.mem.wf = true) : (State.write64 s key v).mem.wf = true := by
  unfold State.write64; with_reducible repeat' first | assumption | apply State.write_wf

theorem State.setFull_wf (s : State) (key : Nat) (b : Bool) (hw : s.mem.wf = true) : (State.setFull s key b).mem.wf = true := by
  unfold State.setFull; repeat' first
    | (with_reducible first | assumption | apply State.wakeCore_wf) | refine Keeps.of ?_ (by with_reducible assumption) | split | dsimp only

theorem State.writeWords_wf (s : State) (key : Nat) (l : List Word) (h : s.mem.wf = true) : (s.writeWords key l).mem.wf = true := by
  induction l generalizing s key with
  | nil => exact h
  | cons w r ih => exact ih _ _ (State.write64_wf _ _ _ h)

theorem State.advance_wf (s : State) (hw : s.mem.wf = true) : (State.advance s).mem.wf = true := by
  unfold State.advance; with_reducible repeat' first | assumption | apply State.modMe_wf

theorem State.jump_wf (s : State) (t : Nat) (hw : s.mem.wf = true) : (State.jump s t).mem.wf = true := by
  unfold State.jump; with_reducible repeat' first | assumption | apply State.modMe_wf

theorem State.terminate_wf (s : State) (t status : Nat) (hw : s.mem.wf = true) : (State.terminate s t status).mem.wf = true := by
  unfold State.terminate; with_reducible repeat' first | assumption | apply State.modSlot_wf

theorem State.takeTrap_wf (s : State) (t cause : Nat) (info : Word) (hw : s.mem.wf = true) : (State.takeTrap s t cause info).mem.wf = true := by
  unfold State.takeTrap; repeat' first
    | (with_reducible first
      | assumption | apply State.setSlot_wf | apply State.terminate_wf)
    | refine Keeps.of ?_ (by with_reducible assumption) | split | dsimp only

theorem State.lateTrap_wf (s : State) (t cause : Nat) (info : Word) (hw : s.mem.wf = true) : (State.lateTrap s t cause info).mem.wf = true := by
  unfold State.lateTrap; repeat' first
    | (with_reducible first | assumption | apply State.setSlot_wf | apply State.takeTrap_wf)
    | refine Keeps.of ?_ (by with_reducible assumption) | split | dsimp only | intros

theorem State.returnTrap_wf (s : State) (off : Nat) (hw : s.mem.wf = true) : (State.returnTrap s off).mem.wf = true := by
  unfold State.returnTrap; with_reducible repeat' first | assumption | apply State.modMe_wf

theorem State.pendTrap_wf (s : State) (t cause : Nat) (info : Word) (hw : s.mem.wf = true) : (State.pendTrap s t cause info).mem.wf = true := by
  unfold State.pendTrap; with_reducible repeat' first | assumption | apply State.modSlot_wf

theorem State.modCounters_wf (s : State) (t : Nat) (f : Slot → Slot) (hw : s.mem.wf = true) : (State.modCounters s t f).mem.wf = true := by
  unfold State.modCounters; with_reducible repeat' first | assumption | apply State.modSlot_wf | apply State.wakeSlot_wf

theorem State.send_wf (s : State) (m : Msg) (hw : s.mem.wf = true) : (State.send s m).mem.wf = true := by
  unfold State.send; exact hw

theorem State.dropMsg_wf (s : State) (id : Nat) (hw : s.mem.wf = true) : (State.dropMsg s id).mem.wf = true := by
  unfold State.dropMsg; exact hw

theorem State.takeCredit_wf (s : State) (k : Nat) (dst : Node) (hw : s.mem.wf = true) : (State.takeCredit s k dst).mem.wf = true := by
  unfold State.takeCredit; exact hw

theorem State.freeCredit_wf (s : State) (k : Nat) (dst : Node) (hw : s.mem.wf = true) : (State.freeCredit s k dst).mem.wf = true := by
  unfold State.freeCredit; exact hw

theorem State.setEntries_wf (s : State) (n : Nat) (d : Node) (h : s.mem.wf = true) : (s.setEntries n d).mem.wf = true := by
  cases d <;> exact h

theorem State.sendAs_wf (s : State) (m : Msg) (hw : s.mem.wf = true) : (State.sendAs s m).mem.wf = true := by
  unfold State.sendAs; exact hw

theorem State.respond_wf (s : State) (m : Msg) (b : Body) (hw : s.mem.wf = true) : (State.respond s m b).mem.wf = true := by
  unfold State.respond; with_reducible repeat' first | assumption | apply State.dropMsg_wf | apply State.sendAs_wf

/-! ## Races.lean -/

theorem State.modMatrix_wf (s : State) (c : Nat) (f : Matrix → Matrix) (hw : s.mem.wf = true) : (State.modMatrix s c f).mem.wf = true := hw

theorem State.spoilAcc_wf (s : State) (c : Nat) (hw : s.mem.wf = true) : (State.spoilAcc s c).mem.wf = true := hw

theorem State.forgetTiles_wf (s : State) (c : Nat) (p : TileCmd → Bool) (hw : s.mem.wf = true) : (State.forgetTiles s c p).mem.wf = true := by
  unfold State.forgetTiles; split <;> exact hw

theorem State.seeTiles_wf (s : State) (p : TileCmd → Bool) (hw : s.mem.wf = true) : (State.seeTiles s p).mem.wf = true :=
  State.forgetTiles_wf _ _ _ hw

theorem State.freeBytes_wf (s : State) (key n : Nat) (hw : s.mem.wf = true) : (State.freeBytes s key n).mem.wf = true := by
  unfold State.freeBytes; repeat' first
    | (with_reducible first | assumption | apply State.freed_wf | apply State.write_wf | apply foldl_wf)
    | refine Keeps.of ?_ (by with_reducible assumption) | split | dsimp only | intros

theorem State.freeBrick_wf (s : State) (c : Nat) (e : Domain × Nat) (hw : s.mem.wf = true) : (State.freeBrick s c e).mem.wf = true := by
  unfold State.freeBrick
  exact State.modCore_wf _ _ _ (State.write_wf _ _ _ _ (State.freed_wf _ _ hw))

theorem State.disturb_wf (s : State) (instr : Bool) (key n : Nat) (hw : s.mem.wf = true) : (State.disturb s instr key n).mem.wf = true := by
  unfold State.disturb; repeat' first
    | (with_reducible first | assumption | apply State.freeBrick_wf | apply State.freeBytes_wf | apply State.modMatrix_wf | apply State.spoilAcc_wf | apply foldl_wf)
    | refine Keeps.of ?_ (by with_reducible assumption) | split | dsimp only | intros

theorem State.store_wf (s : State) (key n v : Nat) (hw : s.mem.wf = true) : (State.store s key n v).mem.wf = true := by
  unfold State.store; repeat' first
    | (with_reducible first | assumption | apply State.disturb_wf | apply State.write_wf)
    | refine Keeps.of ?_ (by with_reducible assumption) | split | dsimp only | intros

theorem State.store64_wf (s : State) (key : Nat) (v : Word) (hw : s.mem.wf = true) : (State.store64 s key v).mem.wf = true := by
  unfold State.store64; repeat' first
    | (with_reducible first | assumption | apply State.store_wf | apply store_wf)
    | refine Keeps.of ?_ (by with_reducible assumption) | split | dsimp only | intros

theorem State.put_wf (s : State) (key n v : Nat) (hw : s.mem.wf = true) : (State.put s key n v).mem.wf = true :=
  State.disturb_wf _ _ _ _ (State.write_wf _ _ _ _ hw)

theorem State.put64_wf (s : State) (key : Nat) (v : Word) (hw : s.mem.wf = true) : (State.put64 s key v).mem.wf = true :=
  State.put_wf _ _ _ _ hw

theorem State.putWords_wf (s : State) (key : Nat) (l : List Word) (h : s.mem.wf = true) : (s.putWords key l).mem.wf = true := by
  induction l generalizing s key with
  | nil => exact h
  | cons w r ih => exact ih _ _ (State.put64_wf _ _ _ h)

/-! ## Image.lean -/

theorem State.writeHead_wf (s : State) (key c n : Nat) (sl : Slot) (hw : s.mem.wf = true) : (State.writeHead s key c n sl).mem.wf = true := by
  unfold State.writeHead; repeat' first
    | (with_reducible first | assumption | apply State.putWords_wf | apply State.put_wf)
    | refine Keeps.of ?_ (by with_reducible assumption) | split | dsimp only | intros

theorem State.modThread_wf (s : State) (uid : Nat) (f : Slot → Slot) (hw : s.mem.wf = true) : (State.modThread s uid f).mem.wf = true := by
  unfold State.modThread; repeat' first
    | (with_reducible first
      | assumption | apply State.modSlot_wf | apply State.writeHead_wf)
    | refine Keeps.of ?_ (by with_reducible assumption) | split

theorem State.writeThreadReg_wf (s : State) (uid v : Nat) (w : Word) (hw : s.mem.wf = true) : (State.writeThreadReg s uid v w).mem.wf = true := by
  unfold State.writeThreadReg; repeat' first
    | (with_reducible first | assumption | apply State.modThread_wf | apply State.put64_wf | apply State.put_wf | apply State.writeReg_wf)
    | refine Keeps.of ?_ (by with_reducible assumption) | split | dsimp only | intros

theorem State.fillThreadReg_wf (s : State) (uid v : Nat) (hw : s.mem.wf = true) : (State.fillThreadReg s uid v).mem.wf = true := by
  unfold State.fillThreadReg; repeat' first
    | (with_reducible first | assumption | apply State.fillReg_wf | apply State.modThread_wf | apply State.put_wf)
    | refine Keeps.of ?_ (by with_reducible assumption) | split | dsimp only | intros

theorem State.wakeThread_wf (s : State) (uid : Nat) (p : Park → Bool) (hw : s.mem.wf = true) : (State.wakeThread s uid p).mem.wf = true := by
  unfold State.wakeThread; with_reducible repeat' first | assumption | apply State.modThread_wf

theorem State.modThreadCounters_wf (s : State) (uid : Nat) (f : Slot → Slot) (hw : s.mem.wf = true) : (State.modThreadCounters s uid f).mem.wf = true
  := by
  unfold State.modThreadCounters; with_reducible repeat' first | assumption | apply State.modThread_wf | apply State.wakeThread_wf

theorem State.pendThread_wf (s : State) (uid cause : Nat) (info : Word) (hw : s.mem.wf = true) : (State.pendThread s uid cause info).mem.wf = true :=
  by
  unfold State.pendThread; with_reducible repeat' first | assumption | apply State.modThread_wf

theorem State.trapThread_wf (s : State) (uid cause : Nat) (info : Word) (hw : s.mem.wf = true) : (State.trapThread s uid cause info).mem.wf = true := by
  unfold State.trapThread; repeat' first
    | (with_reducible first | assumption | apply State.lateTrap_wf | apply State.modThread_wf | apply State.pendThread_wf)
    | refine Keeps.of ?_ (by with_reducible assumption) | split | dsimp only | intros

/-! ## Address.lean -/

theorem State.agentSend_wf (s : State) (src dst : Node) (ctx : Nat) (sup : Bool) (b : Body) (hw : s.mem.wf = true) : (State.agentSend s src dst ctx
  sup b).mem.wf = true := by
  unfold State.agentSend; with_reducible repeat' first | assumption | apply State.send_wf

theorem State.sendHeatFrom_wf (s : State) (src : Node) (e : Word) (hw : s.mem.wf = true) : (State.sendHeatFrom s src e).mem.wf = true := by
  unfold State.sendHeatFrom; repeat' first
    | (with_reducible first | assumption | apply State.agentSend_wf)
    | refine Keeps.of ?_ (by with_reducible assumption) | split | dsimp only | intros

theorem State.sendHeat_wf (s : State) (c : Nat) (e : Word) (hw : s.mem.wf = true) : (State.sendHeat s c e).mem.wf = true := by
  unfold State.sendHeat; repeat' first
    | (with_reducible first | assumption | apply State.sendHeatFrom_wf)
    | refine Keeps.of ?_ (by with_reducible assumption) | split | dsimp only | intros

theorem State.sendHeatPages_wf (src : Node) (r : Rights) (write : Bool) (n : Nat) (s : State) (va : Nat) (hw : s.mem.wf = true) :
    (State.sendHeatPages s src r write va n).mem.wf = true := by
  induction n generalizing s va with
  | zero => exact hw
  | succ n ih =>
    unfold State.sendHeatPages
    split
    · split
      · exact State.sendHeatFrom_wf _ _ _ hw
      · exact ih _ _ (State.sendHeatFrom_wf _ _ _ hw)
    · exact hw

theorem State.sendHeats_wf (s : State) (src : Node) (r : Rights) (write : Bool) (va n : Nat) (hw : s.mem.wf = true) :
    (State.sendHeats s src r write va n).mem.wf = true := by
  unfold State.sendHeats
  split
  · exact hw
  · exact State.sendHeatPages_wf _ _ _ _ _ _ hw

theorem State.translate_wf {s : State} {c i va : Nat} {a} {t : State} (h : s.mem.wf = true) (e : s.translate c i va = .ok (a, t)) : t.mem.wf = true
  := by
  unfold State.translate at e
  repeat' split at e
  all_goals (first | contradiction | (cases e; repeat' first
    | (with_reducible first
      | assumption | apply State.modCore_wf | apply State.sendHeat_wf | apply Keeps.ok | apply Keeps.error | apply KeepsNext.fault)
    | refine Keeps.of ?_ (by with_reducible assumption) | split | dsimp only | intros))

theorem State.walked_wf (s : State) (c i va : Nat) (hw : s.mem.wf = true) : (State.walked s c i va).mem.wf = true := by
  unfold State.walked; repeat' first
    | (with_reducible first | assumption)
    | refine State.translate_wf ?_ (by with_reducible assumption)
    | refine Keeps.of ?_ (by with_reducible assumption) | split | dsimp only | intros

theorem State.bulkAccess_wf {s : State} {c : Nat} {r : Rights} {va access : Nat} {a} {t : State} (h : s.mem.wf = true) (e : s.bulkAccess c r va
  access = .ok (a, t)) : t.mem.wf = true := by
  unfold State.bulkAccess at e
  repeat' split at e
  all_goals (first | contradiction | (cases e; repeat' first
    | (with_reducible first
      | assumption | apply Keeps.ok | apply Keeps.error)
    | refine State.translate_wf ?_ (by with_reducible assumption) | refine Keeps.of ?_ (by with_reducible assumption) | split | dsimp only | intros))

theorem State.sendFault_wf (s : State) (c w seq i va access reason level : Nat) (hw : s.mem.wf = true) : (State.sendFault s c w seq i va access
  reason level).mem.wf = true := by
  unfold State.sendFault; repeat' first
    | (with_reducible first | assumption | apply State.send_wf | apply KeepsNext.fault) | refine Keeps.of ?_ (by with_reducible assumption) | split

theorem State.enterPageWait_wf (s : State) (i va access reason level : Nat) (info : Word) (hw : s.mem.wf = true) : (State.enterPageWait s i va access reason level info).mem.wf = true := by
  unfold State.enterPageWait; repeat' first
    | (with_reducible first | assumption | apply State.modSlot_wf | apply State.sendFault_wf)
    | refine Keeps.of ?_ (by with_reducible assumption) | split | dsimp only | intros

theorem State.touch_wf (s : State) (b : Nat) (hw : s.mem.wf = true) : (State.touch s b).mem.wf = true := by
  unfold State.touch; with_reducible repeat' first | assumption | apply State.modMe_wf

theorem State.parkMe_wf (s : State) (p : Park) (hw : s.mem.wf = true) : (State.parkMe s p).mem.wf = true := by
  unfold State.parkMe; with_reducible repeat' first | assumption | apply State.modMe_wf

theorem State.stop_wf (s : State) (e : Stop) (h : s.mem.wf = true) : (s.stop e).mem.wf = true := by
  cases e <;> unfold State.stop <;> repeat' first
    | (with_reducible first
      | assumption | apply State.enterPageWait_wf | apply State.modMe_wf | apply State.parkMe_wf | apply State.takeTrap_wf | apply State.walked_wf)
    | refine Keeps.of ?_ (by with_reducible assumption) | split

theorem State.keepWalk_wf (s : State) (r : Except Stop State) (hw : s.mem.wf = true) (hr : Keeps r) : Keeps (State.keepWalk s r) := by
  unfold State.keepWalk
  split
  · exact Keeps.ok (State.takeTrap_wf _ _ _ _ hw)
  · exact hr

theorem State.finish_wf (s : State) (r : Except Stop State) (h : s.mem.wf = true) (hr : Keeps r) : KeepsNext (s.finish r) := by
  cases r <;> simp_all [State.finish, State.stop_wf]

/-! ## Operands.lean -/

theorem State.modPipe_wf (s : State) (c n : Nat) (f : PipeQueue → PipeQueue) (hw : s.mem.wf = true) : (State.modPipe s c n f).mem.wf = true := by
  unfold State.modPipe; with_reducible repeat' first | assumption | apply State.modCore_wf

theorem State.pushPipe_wf (s : State) (c n : Nat) (w : Word) (hw : s.mem.wf = true) : (State.pushPipe s c n w).mem.wf = true := by
  unfold State.pushPipe; with_reducible repeat' first | assumption | apply State.modPipe_wf | apply State.wakeCore_wf

theorem State.consume_wf (s : State) (l : List Nat) (h : s.mem.wf = true) : (s.consume l).mem.wf = true := by
  induction l generalizing s with
  | nil => exact h
  | cons v r ih => unfold State.consume; split <;> exact ih _ h

theorem State.writeDest_wf (s : State) (d : Nat) (w : Word) (hw : s.mem.wf = true) : (State.writeDest s d w).mem.wf = true := by
  unfold State.writeDest; repeat' first
    | (with_reducible first
      | assumption | apply State.modCore_wf | apply State.parkMe_wf | apply State.pushPipe_wf | apply State.writeReg_wf)
    | refine Keeps.of ?_ (by with_reducible assumption) | split

theorem State.complete_wf (s : State) (srcs : List Nat) (d : Nat) (w : Word) (hw : s.mem.wf = true) : (State.complete s srcs d w).mem.wf = true := by
  unfold State.complete; with_reducible repeat' first | assumption | apply State.advance_wf | apply State.consume_wf | apply State.writeDest_wf

theorem State.completeNone_wf (s : State) (srcs : List Nat) (hw : s.mem.wf = true) : (State.completeNone s srcs).mem.wf = true := by
  unfold State.completeNone; with_reducible repeat' first | assumption | apply State.advance_wf | apply State.consume_wf

theorem State.pushReply_wf (s : State) (c n : Nat) (w : Word) (hw : s.mem.wf = true) : (State.pushReply s c n w).mem.wf = true := by
  unfold State.pushReply; repeat' first
    | (with_reducible first | assumption | apply State.pushPipe_wf)
    | refine Keeps.of ?_ (by with_reducible assumption) | split | dsimp only | intros

theorem State.unreserve_wf (s : State) (uid v : Nat) (hw : s.mem.wf = true) : (State.unreserve s uid v).mem.wf = true := by
  unfold State.unreserve; repeat' first
    | (with_reducible first | assumption | apply State.modPipe_wf)
    | refine Keeps.of ?_ (by with_reducible assumption) | split | dsimp only | intros

theorem State.arriveReg_wf (s : State) (uid v : Nat) (w : Word) (hw : s.mem.wf = true) : (State.arriveReg s uid v w).mem.wf = true := by
  unfold State.arriveReg; repeat' first
    | (with_reducible first | assumption | apply State.modCore_wf | apply State.pushReply_wf | apply State.writeThreadReg_wf)
    | refine Keeps.of ?_ (by with_reducible assumption) | split | dsimp only | intros

theorem State.applyReply_wf (s : State) (uid v : Nat) (w : Word) (st : Bool) (hw : s.mem.wf = true) : (State.applyReply s uid v w st).mem.wf = true := by
  unfold State.applyReply; repeat' first
    | (with_reducible first | assumption | apply State.arriveReg_wf | apply State.modThreadCounters_wf | apply State.unreserve_wf | apply State.wakeThread_wf)
    | refine Keeps.of ?_ (by with_reducible assumption) | split | dsimp only | intros

theorem State.waitFor_wf (s : State) (op : Nat) (dst : Node) (info : Word) (limited barrier : Bool) (pops : List Nat) (hw : s.mem.wf = true) :
  (State.waitFor s op dst info limited barrier pops).mem.wf = true := by
  unfold State.waitFor; with_reducible repeat' first | assumption | apply State.modMe_wf

theorem State.popFor_wf (s : State) (c : Nat) (sl : Slot) (l : List Nat) (h : s.mem.wf = true) : (s.popFor c sl l).mem.wf = true := by
  induction l generalizing s with
  | nil => exact h
  | cons v r ih => unfold State.popFor; split <;> exact ih _ h

theorem State.resumeThread_wf (s : State) (uid : Nat) (hw : s.mem.wf = true) : (State.resumeThread s uid).mem.wf = true := by
  unfold State.resumeThread; repeat' first
    | (with_reducible first
      | assumption | apply State.advance_wf | apply State.modThread_wf | apply State.popFor_wf)
    | refine Keeps.of ?_ (by with_reducible assumption) | split

theorem State.retryThread_wf (s : State) (uid : Nat) (hw : s.mem.wf = true) : (State.retryThread s uid).mem.wf = true := by
  unfold State.retryThread; with_reducible repeat' first | assumption | apply State.modThread_wf

theorem State.compute_wf (s : State) (word : Word) (srcs : List Nat) (d : Nat) (f : List Word → Word) (hw : s.mem.wf = true) : Keeps (State.compute s
  word srcs d f) := by
  unfold State.compute; repeat' first
    | (with_reducible first
      | assumption | apply State.complete_wf | apply Keeps.ok | apply Keeps.error)
    | refine Keeps.of ?_ (by with_reducible assumption) | split

/-! ## Net.lean -/

theorem State.inject_wf (s : State) (c n : Nat) (l : List Carrier) (h : s.mem.wf = true) : (s.inject c n l).mem.wf = true := by
  induction l generalizing s with
  | nil => exact h
  | cons w r ih => unfold State.inject; apply ih; dsimp only; (repeat' split) <;> simp [h]

theorem State.sendFlits_wf (s : State) (i : Nat) (dst : Node) (flits : Nat) (t : State) (hw : t.mem.wf = true) :
    Keeps (State.sendFlits s i dst flits t) := by
  unfold State.sendFlits; dsimp only; split
  · exact Keeps.ok (State.inject_wf _ _ _ _ hw)
  · exact Keeps.error

theorem State.requestAs_wf (s : State) (r : Rights) (dst : Node) (b : Body) (hw : s.mem.wf = true) : Keeps (State.requestAs s r dst b) := by
  unfold State.requestAs; repeat' first
    | (with_reducible first | assumption | apply Keeps.error | apply Keeps.ok | apply State.inject_wf | apply State.send_wf | apply State.takeCredit_wf)
    | refine Keeps.of ?_ (by with_reducible assumption) | split | dsimp only | intros

theorem State.request_wf (s : State) (dst : Node) (b : Body) (hw : s.mem.wf = true) : Keeps (State.request s dst b) := by
  unfold State.request; repeat' first
    | (with_reducible first | assumption | apply Keeps.error | apply Keeps.ok | apply State.requestAs_wf)
    | refine Keeps.of ?_ (by with_reducible assumption) | split | dsimp only | intros

theorem State.sendAbroad_wf (s : State) (c slot uid p : Nat) (r : Rights) (what : Abroad) (b : Body) (hw : s.mem.wf = true) : (State.sendAbroad s c
  slot uid p r what b).mem.wf = true := by
  unfold State.sendAbroad; repeat' first
    | (with_reducible first | assumption | apply State.send_wf | apply KeepsNext.next) | refine Keeps.of ?_ (by with_reducible assumption) | split

theorem State.requestAbroadAs_wf (s : State) (r : Rights) (p : Nat) (what : Abroad) (b : Body) (hw : s.mem.wf = true) : Keeps (State.requestAbroadAs s r p what b) := by
  unfold State.requestAbroadAs; repeat' first
    | (with_reducible first | assumption | apply Keeps.error | apply Keeps.ok | apply State.inject_wf | apply State.sendAbroad_wf)
    | refine Keeps.of ?_ (by with_reducible assumption) | split | dsimp only | intros

theorem State.requestAbroad_wf (s : State) (p : Nat) (what : Abroad) (b : Body) (hw : s.mem.wf = true) : Keeps (State.requestAbroad s p what b) := by
  unfold State.requestAbroad; repeat' first
    | (with_reducible first | assumption | apply Keeps.error | apply Keeps.ok | apply State.requestAbroadAs_wf)
    | refine Keeps.of ?_ (by with_reducible assumption) | split | dsimp only | intros

theorem State.withdraw_wf (s : State) (ids : List Nat) (hw : s.mem.wf = true) : (State.withdraw s ids).mem.wf = true := by
  unfold State.withdraw; repeat' first
    | (with_reducible first | assumption)
    | refine Keeps.of ?_ (by with_reducible assumption) | split | dsimp only | intros

theorem State.answerOutstanding_wf (s : State) (o : Outstanding) (cause : Nat) (data : List Word) (hw : s.mem.wf = true) : (State.answerOutstanding s o cause data).mem.wf = true := by
  unfold State.answerOutstanding; repeat' first
    | (with_reducible first | assumption | apply State.sendAs_wf)
    | refine Keeps.of ?_ (by with_reducible assumption) | split | dsimp only | intros

theorem State.failAbroad_wf (s : State) (fails : Outstanding → Bool) (hw : s.mem.wf = true) : (State.failAbroad s fails).mem.wf = true := by
  unfold State.failAbroad; repeat' first
    | (with_reducible first | assumption | apply State.answerOutstanding_wf | apply State.withdraw_wf | apply foldl_wf)
    | refine Keeps.of ?_ (by with_reducible assumption) | split | dsimp only | intros

theorem State.awaitDest_wf (s : State) (d : Nat) (hw : s.mem.wf = true) : (State.awaitDest s d).mem.wf = true := by
  unfold State.awaitDest; repeat' first
    | (with_reducible first | assumption | apply State.markAwaiting_wf | apply State.modPipe_wf)
    | refine Keeps.of ?_ (by with_reducible assumption) | split | dsimp only | intros

theorem State.moveToWait_wf (s : State) (c : Nat) (m : Msg) (hw : s.mem.wf = true) : (State.moveToWait s c m).mem.wf = true := by
  unfold State.moveToWait; repeat' first
    | (with_reducible first
      | assumption | apply State.dropMsg_wf | apply State.modCore_wf | apply State.send_wf)
    | refine Keeps.of ?_ (by with_reducible assumption) | split

theorem State.setMsg_wf (s : State) (m : Msg) (hw : s.mem.wf = true) : (State.setMsg s m).mem.wf = true := by
  unfold State.setMsg; exact hw

theorem startRequest_wf (m : Nat) (s : State) (hw : s.mem.wf = true) : (startRequest m s).mem.wf = true := by
  unfold startRequest; repeat' first
    | (with_reducible first
      | assumption | apply State.setEntries_wf | apply State.setMsg_wf)
    | refine Keeps.of ?_ (by with_reducible assumption) | split

theorem execRequestStart_wf (m : Nat) (s : State) (hw : s.mem.wf = true) : KeepsNext (execRequestStart m s) := by
  unfold execRequestStart; with_reducible repeat' first | assumption | apply startRequest_wf | apply KeepsNext.next

theorem returnCredit_wf (m : Nat) (s : State) (hw : s.mem.wf = true) : (returnCredit m s).mem.wf = true := by
  unfold returnCredit; repeat' first
    | (with_reducible first
      | assumption | apply State.dropMsg_wf | apply State.freeCredit_wf | apply State.setEntries_wf | apply State.setMsg_wf)
    | refine Keeps.of ?_ (by with_reducible assumption) | split

theorem waveAtCore_wf (f c : Nat) (s : State) (hw : s.mem.wf = true) : (waveAtCore f c s).mem.wf = true := by
  unfold waveAtCore; repeat' first
    | (with_reducible first
      | assumption | apply State.modCore_wf | apply State.setCore_wf | apply foldl_wf)
    | refine Keeps.of ?_ (by with_reducible assumption) | split | dsimp only | intros

theorem closeWave_wf (d : Nat) (s : State) (hw : s.mem.wf = true) : (closeWave d s).mem.wf = true := by
  unfold closeWave; repeat' first
    | (with_reducible first
      | assumption | apply waveAtCore_wf | apply foldl_wf)
    | refine Keeps.of ?_ (by with_reducible assumption) | split | dsimp only | intros

theorem execFrameCloseWave_wf (d : Nat) (s : State) (hw : s.mem.wf = true) : KeepsNext (execFrameCloseWave d s) := by
  unfold execFrameCloseWave; with_reducible repeat' first | assumption | apply closeWave_wf | apply KeepsNext.next

/-! ## LoadStore.lean -/

theorem State.copyStatus_wf (s : State) (c : Nat) (status : Nat) (hw : s.mem.wf = true) : (State.copyStatus s c status).mem.wf = true := by
  unfold State.copyStatus; repeat' first
    | (with_reducible first | assumption | apply State.modCore_wf)
    | refine Keeps.of ?_ (by with_reducible assumption) | split | dsimp only | intros

theorem State.copyFail_wf (s : State) (c op cause operand : Nat) (hw : s.mem.wf = true) : (State.copyFail s c op cause operand).mem.wf = true := by
  unfold State.copyFail; repeat' first
    | (with_reducible first | assumption | apply State.copyStatus_wf)
    | refine Keeps.of ?_ (by with_reducible assumption) | split | dsimp only | intros

theorem State.lateFault_wf (s : State) (uid cause operand : Nat) (t : State → State) (hw : s.mem.wf = true) (ht : (t s).mem.wf = true) :
    (State.lateFault s uid cause operand t).mem.wf = true := by
  unfold State.lateFault
  split
  · exact State.modThread_wf _ _ _ (State.copyFail_wf _ _ _ _ _ hw)
  · exact ht

theorem State.memStop_wf (s : State) (operand : Nat) (e : Stop) (hw : s.mem.wf = true) : Keeps (State.memStop s operand e) := by
  unfold State.memStop; repeat' first
    | (with_reducible first | assumption | apply Keeps.error | apply Keeps.ok | apply State.advance_wf | apply State.copyFail_wf | apply State.parkMe_wf | apply State.walked_wf)
    | refine Keeps.of ?_ (by with_reducible assumption) | split | dsimp only | intros

theorem State.askHome_wf (s : State) (after : Bool) (addr : Word) (hw : s.mem.wf = true) : Keeps (State.askHome s after addr) := by
  unfold State.askHome; repeat' first
    | (with_reducible first
      | assumption | apply State.requestAbroad_wf | apply State.waitFor_wf | apply Keeps.ok | apply Keeps.error | apply KeepsNext.next)
    | refine Keeps.of ?_ (by with_reducible assumption) | split | dsimp only

theorem State.loadHome_wf (s : State) (addr : Word) (hw : s.mem.wf = true) : Keeps (State.loadHome s addr) := by
  unfold State.loadHome; repeat' first
    | (with_reducible first | assumption | apply Keeps.error | apply Keeps.ok | apply State.askHome_wf | apply State.touch_wf)
    | refine Keeps.of ?_ (by with_reducible assumption) | split | dsimp only | intros

theorem State.migrateLoad_wf (s : State) (p : Nat) (addr : Word) (hw : s.mem.wf = true) : Keeps (State.migrateLoad s p addr) := by
  unfold State.migrateLoad; repeat' first
    | (with_reducible first | assumption | apply Keeps.error | apply Keeps.ok | apply State.loadHome_wf | apply State.requestAbroad_wf | apply State.touch_wf | apply State.waitFor_wf)
    | refine Keeps.of ?_ (by with_reducible assumption) | split | dsimp only | intros

theorem loadAt_wf (s : State) (srcs : List Nat) (d key n : Nat) (sx : Bool) (hw : s.mem.wf = true) : Keeps (loadAt s srcs d key n sx) := by
  unfold loadAt; repeat' first
    | (with_reducible first
      | assumption | apply State.advance_wf | apply State.awaitDest_wf | apply State.complete_wf | apply State.consume_wf | apply State.modMe_wf
      | apply State.request_wf | apply State.touch_wf | apply Keeps.ok | apply Keeps.error)
    | refine Keeps.of ?_ (by with_reducible assumption) | split

theorem load_wf (word : Word) (d a : RegCode) (size : BitVec 2) (off : BitVec 10) (sx : Bool) (s : State) (hw : s.mem.wf = true) : Keeps (load word d
  a size off sx s) := by
  unfold load; repeat' first
    | (with_reducible first
      | assumption | apply State.memStop_wf | apply State.migrateLoad_wf | apply loadAt_wf | apply Keeps.ok | apply Keeps.error)
    | refine State.bulkAccess_wf ?_ (by with_reducible assumption) | refine Keeps.of ?_ (by with_reducible assumption) | split | dsimp only

theorem execLd_wf (d a : RegCode) (size : BitVec 2) (off : BitVec 10) (s : State) (hw : s.mem.wf = true) : KeepsNext (execLd d a size off s) := by
  unfold execLd; with_reducible repeat' first | assumption | apply State.finish_wf | apply load_wf

theorem execLdz_wf (d a : RegCode) (size : BitVec 2) (off : BitVec 10) (s : State) (hw : s.mem.wf = true) : KeepsNext (execLdz d a size off s) := by
  unfold execLdz; with_reducible repeat' first | assumption | apply State.finish_wf | apply load_wf

theorem post_wf (s : State) (srcs : List Nat) (key : Nat) (b : Body) (hw : s.mem.wf = true) : Keeps (post s srcs key b) := by
  unfold post; repeat' first
    | (with_reducible first
      | assumption | apply State.completeNone_wf | apply State.modMe_wf | apply State.request_wf | apply State.touch_wf | apply Keeps.ok
      | apply Keeps.error)
    | refine Keeps.of ?_ (by with_reducible assumption) | split

theorem storeAt_wf (s : State) (srcs : List Nat) (key n : Nat) (v : Word) (hw : s.mem.wf = true) : Keeps (storeAt s srcs key n v) := by
  unfold storeAt
  split
  · exact Keeps.ok (State.completeNone_wf _ _ (State.store_wf _ _ _ _ hw))
  · exact post_wf _ _ _ _ hw

theorem postAbroad_wf (s : State) (srcs : List Nat) (p : Nat) (addr : Word) (n : Nat) (v : Word) (hw : s.mem.wf = true) : Keeps (postAbroad s srcs p
  addr n v) := by
  unfold postAbroad; repeat' first
    | (with_reducible first
      | assumption | apply State.completeNone_wf | apply State.modMe_wf | apply State.requestAbroad_wf | apply State.touch_wf | apply Keeps.ok
      | apply Keeps.error)
    | refine Keeps.of ?_ (by with_reducible assumption) | split

theorem store_wf (word : Word) (d a : RegCode) (size : BitVec 2) (off : BitVec 10) (s : State) (hw : s.mem.wf = true) : Keeps (store word d a size
  off s) := by
  unfold store; repeat' first
    | (with_reducible first
      | assumption | apply State.memStop_wf | apply postAbroad_wf | apply storeAt_wf | apply Keeps.ok | apply Keeps.error)
    | refine State.bulkAccess_wf ?_ (by with_reducible assumption) | refine Keeps.of ?_ (by with_reducible assumption) | split | dsimp only

theorem execSt_wf (d a : RegCode) (size : BitVec 2) (off : BitVec 10) (s : State) (hw : s.mem.wf = true) : KeepsNext (execSt d a size off s) := by
  unfold execSt; with_reducible repeat' first | assumption | apply State.finish_wf | apply store_wf

theorem inbound_wf (m : Nat) (s : State) (hw : s.mem.wf = true) : (inbound m s).mem.wf = true := by
  unfold inbound; repeat' first
    | (with_reducible first | assumption | apply State.respond_wf | apply State.store_wf | apply load_wf | apply store_wf)
    | refine Keeps.of ?_ (by with_reducible assumption) | split | dsimp only | intros

theorem execInboundRequest_wf (m : Nat) (s : State) (hw : s.mem.wf = true) : KeepsNext (execInboundRequest m s) := by
  unfold execInboundRequest; with_reducible repeat' first | assumption | apply inbound_wf | apply KeepsNext.next

theorem loadReply_wf (m : Nat) (s : State) (hw : s.mem.wf = true) : (loadReply m s).mem.wf = true := by
  unfold loadReply; repeat' first
    | (with_reducible first
      | assumption | apply State.applyReply_wf | apply State.dropMsg_wf | apply State.retryThread_wf)
    | refine Keeps.of ?_ (by with_reducible assumption) | split | dsimp only

theorem execLoadReply_wf (m : Nat) (s : State) (hw : s.mem.wf = true) : KeepsNext (execLoadReply m s) := by
  unfold execLoadReply; with_reducible repeat' first | assumption | apply loadReply_wf | apply KeepsNext.next

theorem storeAck_wf (m : Nat) (s : State) (hw : s.mem.wf = true) : (storeAck m s).mem.wf = true := by
  unfold storeAck
  split
  · split
    · have h1 (f : Slot → Slot) (u : Nat) : ((s.dropMsg m).modThreadCounters u f).mem.wf = true := State.modThreadCounters_wf _ _ _ (State.dropMsg_wf _ _ hw)
      dsimp only; split
      · exact h1 _ _
      · exact State.lateFault_wf _ _ _ _ _ (h1 _ _) (State.pendThread_wf _ _ _ _ (h1 _ _))
    · exact hw
  · exact hw

theorem execStoreAck_wf (m : Nat) (s : State) (hw : s.mem.wf = true) : KeepsNext (execStoreAck m s) := by
  unfold execStoreAck; with_reducible repeat' first | assumption | apply storeAck_wf | apply KeepsNext.next

/-! ## Fence.lean -/

theorem State.sendEchoes_wf (s : State) (l : List (Node × Nat)) (h : s.mem.wf = true) : (s.sendEchoes l).mem.wf = true := by
  induction l generalizing s with
  | nil => exact h
  | cons w r ih => unfold State.sendEchoes; exact ih _ h

theorem State.release_wf {s : State} {S : Scope} {info : Word} {t : State} (h : s.mem.wf = true) (e : s.release S info = .ok (some t)) : t.mem.wf =
  true := by
  unfold State.release at e; dsimp only at e
  repeat' split at e
  all_goals (first | contradiction | (injection e with e; first | contradiction | (injection e with e; subst e; repeat' first
    | (with_reducible first
      | assumption | apply State.modMe_wf | apply State.parkMe_wf | apply State.sendEchoes_wf | apply Keeps.ok | apply Keeps.error)
    | refine Keeps.of ?_ (by with_reducible assumption) | split | dsimp only | intros)))

theorem releaseIf_wf {b : Bool} {s : State} {S : Scope} {info : Word} {t : State} (h : s.mem.wf = true) (e : (if b = true then s.release S info else
  .ok none) = .ok (some t)) : t.mem.wf = true := by
  cases b
  · simp at e
  · exact State.release_wf h e

theorem fenceAt_wf (word : Word) (srcs : List Nat) (kind : BitVec 2) (S : Scope) (s : State) (h : s.mem.wf = true) : Keeps (fenceAt word srcs kind S
  s) := by
  unfold fenceAt
  generalize he : (if kind.getLsbD 1 = true then s.release S word else .ok none) = e
  match e, he with
  | .error _, _ => exact Keeps.error
  | .ok (some s1), he => exact Keeps.ok (releaseIf_wf h he)
  | .ok none, _ =>
    show Keeps (if kind.getLsbD 0 && s.me.awaiting != 0 then
      if s.me.codelet then .error (.trap 0x0C word) else .ok (s.parkMe .replies)
    else .ok (s.completeNone srcs))
    split
    · split
      · exact Keeps.error
      · exact Keeps.ok (State.parkMe_wf _ _ h)
    · exact Keeps.ok (State.completeNone_wf _ _ h)

theorem fence_wf (word : Word) (d : RegCode) (kind : BitVec 2) (sc : BitVec 3) (s : State) (hw : s.mem.wf = true) : Keeps (fence word d kind sc s) :=
  by
  unfold fence; repeat' first
    | (with_reducible first
      | assumption | apply fenceAt_wf | apply Keeps.ok | apply Keeps.error)
    | refine Keeps.of ?_ (by with_reducible assumption) | split

theorem execFence_wf (d : RegCode) (kind : BitVec 2) (sc : BitVec 3) (s : State) (hw : s.mem.wf = true) : KeepsNext (execFence d kind sc s) := by
  unfold execFence; with_reducible repeat' first | assumption | apply State.finish_wf | apply fence_wf

theorem execWaitc_wf (tl cp st ld : BitVec 3) (s : State) (hw : s.mem.wf = true) : KeepsNext (execWaitc tl cp st ld s) := by
  unfold execWaitc
  refine State.finish_wf _ _ hw ?_
  split
  · exact Keeps.ok (State.completeNone_wf _ _ (State.seeTiles_wf _ _ hw))
  · exact Keeps.error

theorem execWaitk_wf (mask : BitVec 8) (s : State) (hw : s.mem.wf = true) : KeepsNext (execWaitk mask s) := by
  unfold execWaitk
  refine State.finish_wf _ _ hw ?_
  split
  · exact Keeps.ok (State.completeNone_wf _ _ (State.seeTiles_wf _ _ hw))
  · exact Keeps.error

theorem echoAt_wf (m : Nat) (s : State) (hw : s.mem.wf = true) : (echoAt m s).mem.wf = true := by
  unfold echoAt; repeat' first
    | (with_reducible first | assumption | apply State.respond_wf) | refine Keeps.of ?_ (by with_reducible assumption) | split

theorem execEcho_wf (m : Nat) (s : State) (hw : s.mem.wf = true) : KeepsNext (execEcho m s) := by
  unfold execEcho; with_reducible repeat' first | assumption | apply echoAt_wf | apply KeepsNext.next

theorem echoAnswer_wf (m : Nat) (s : State) (hw : s.mem.wf = true) : (echoAnswer m s).mem.wf = true := by
  unfold echoAnswer; repeat' first
    | (with_reducible first
      | assumption | apply State.dropMsg_wf | apply State.modThread_wf | apply State.touch_wf)
    | refine Keeps.of ?_ (by with_reducible assumption) | split

theorem execEchoAnswer_wf (m : Nat) (s : State) (hw : s.mem.wf = true) : KeepsNext (execEchoAnswer m s) := by
  unfold execEchoAnswer; with_reducible repeat' first | assumption | apply echoAnswer_wf | apply KeepsNext.next

/-! ## FullEmpty.lean -/

theorem State.feApply_wf (s : State) (op : FeOp) (key : Nat) (v : Word) (hw : s.mem.wf = true) : (State.feApply s op key v).mem.wf = true := by
  unfold State.feApply; repeat' first
    | (with_reducible first | assumption | apply State.setFull_wf | apply State.store64_wf)
    | refine Keeps.of ?_ (by with_reducible assumption) | split | dsimp only | intros

theorem feAt_wf (s : State) (op : FeOp) (srcs : List Nat) (d : Nat) (a v : Word) (c o : Nat) (hw : s.mem.wf = true) : Keeps (feAt s op srcs d a v c
  o) := by
  unfold feAt; repeat' first
    | (with_reducible first
      | assumption | apply State.complete_wf | apply State.completeNone_wf | apply State.feApply_wf | apply State.request_wf | apply State.touch_wf
      | apply State.waitFor_wf | apply post_wf | apply Keeps.ok | apply Keeps.error | apply KeepsNext.next)
    | refine Keeps.of ?_ (by with_reducible assumption) | split | dsimp only

theorem fe_wf (word : Word) (op : FeOp) (srcs dsts : List Nat) (ord : BitVec 2) (sc : BitVec 3) (s : State) (h : s.mem.wf = true) : Keeps (fe word op
  srcs dsts ord sc s) := by
  unfold fe; dsimp only
  cases s.operands word srcs dsts with
  | error e => exact Keeps.error
  | ok vs =>
    dsimp only
    cases s.resolveFe (arg vs 0) with
    | error e => exact State.memStop_wf _ _ _ h
    | ok p =>
      obtain ⟨c, o⟩ := p
      dsimp only
      split
      · exact Keeps.error
      · generalize he : (if ord.getLsbD 1 = true then s.release (scopeOf sc) (arg vs 0) else .ok none) = e
        match e, he with
        | .error _, _ => exact Keeps.error
        | .ok (some s1), he => exact Keeps.ok (releaseIf_wf h he)
        | .ok none, _ => exact feAt_wf _ _ _ _ _ _ _ _ h

theorem execLds_wf (d a : RegCode) (ord : BitVec 2) (sc : BitVec 3) (s : State) (hw : s.mem.wf = true) : KeepsNext (execLds d a ord sc s) := by
  unfold execLds; with_reducible repeat' first | assumption | apply State.finish_wf | apply fe_wf

theorem execLdf_wf (d a : RegCode) (ord : BitVec 2) (sc : BitVec 3) (s : State) (hw : s.mem.wf = true) : KeepsNext (execLdf d a ord sc s) := by
  unfold execLdf; with_reducible repeat' first | assumption | apply State.finish_wf | apply fe_wf

theorem execSts_wf (d a : RegCode) (ord : BitVec 2) (sc : BitVec 3) (s : State) (hw : s.mem.wf = true) : KeepsNext (execSts d a ord sc s) := by
  unfold execSts; with_reducible repeat' first | assumption | apply State.finish_wf | apply fe_wf

theorem execStf_wf (d a : RegCode) (ord : BitVec 2) (sc : BitVec 3) (s : State) (hw : s.mem.wf = true) : KeepsNext (execStf d a ord sc s) := by
  unfold execStf; with_reducible repeat' first | assumption | apply State.finish_wf | apply fe_wf

theorem execEmpty_wf (a : RegCode) (ord : BitVec 2) (sc : BitVec 3) (s : State) (hw : s.mem.wf = true) : KeepsNext (execEmpty a ord sc s) := by
  unfold execEmpty; with_reducible repeat' first | assumption | apply State.finish_wf | apply fe_wf

theorem feRemote_wf (m : Nat) (s : State) (hw : s.mem.wf = true) : (feRemote m s).mem.wf = true := by
  unfold feRemote; repeat' first
    | (with_reducible first
      | assumption | apply State.feApply_wf | apply State.moveToWait_wf | apply State.respond_wf | apply fe_wf)
    | refine Keeps.of ?_ (by with_reducible assumption) | split

theorem execFeRemoteRequest_wf (m : Nat) (s : State) (hw : s.mem.wf = true) : KeepsNext (execFeRemoteRequest m s) := by
  unfold execFeRemoteRequest; with_reducible repeat' first | assumption | apply feRemote_wf | apply KeepsNext.next

theorem feServe_wf (c : Nat) (x : Msg) (s : State) (hw : s.mem.wf = true) : (feServe c x s).mem.wf = true := by
  unfold feServe; repeat' first
    | (with_reducible first
      | assumption | apply State.feApply_wf | apply State.modCore_wf | apply State.sendAs_wf | apply fe_wf)
    | refine Keeps.of ?_ (by with_reducible assumption) | split

theorem feAnswer_wf (m : Nat) (s : State) (hw : s.mem.wf = true) : (feAnswer m s).mem.wf = true := by
  unfold feAnswer; repeat' first
    | (with_reducible first
      | assumption | apply State.arriveReg_wf | apply State.dropMsg_wf | apply State.resumeThread_wf)
    | refine Keeps.of ?_ (by with_reducible assumption) | split | dsimp only

theorem execFeAnswer_wf (m : Nat) (s : State) (hw : s.mem.wf = true) : KeepsNext (execFeAnswer m s) := by
  unfold execFeAnswer; with_reducible repeat' first | assumption | apply feAnswer_wf | apply KeepsNext.next

theorem sendCancel_wf (u : Nat) (barrier : Bool) (s : State) (hw : s.mem.wf = true) : (sendCancel u barrier s).mem.wf = true := by
  unfold sendCancel; repeat' first
    | (with_reducible first | assumption | apply State.modThread_wf | apply State.send_wf) | refine Keeps.of ?_ (by with_reducible assumption) | split

theorem execFeWaitLimit_wf (u : Nat) (s : State) (hw : s.mem.wf = true) : KeepsNext (execFeWaitLimit u s) := by
  unfold execFeWaitLimit; with_reducible repeat' first | assumption | apply sendCancel_wf | apply KeepsNext.next

theorem cancelAt_wf (m : Nat) (s : State) (hw : s.mem.wf = true) : (cancelAt m s).mem.wf = true := by
  unfold cancelAt; repeat' first
    | (with_reducible first
      | assumption | apply State.dropMsg_wf | apply State.modCore_wf | apply State.sendAs_wf | apply fe_wf)
    | refine Keeps.of ?_ (by with_reducible assumption) | split

theorem cancelledAnswer_wf (m : Nat) (s : State) (hw : s.mem.wf = true) : (cancelledAnswer m s).mem.wf = true := by
  unfold cancelledAnswer
  have h1 : (s.dropMsg m).mem.wf = true := State.dropMsg_wf _ _ hw
  split
  · split
    · split
      · have h2 (b : Bool) (u : Nat) (f : Slot → Slot) : (if b = true then (s.dropMsg m).modThread u f else s.dropMsg m).mem.wf = true := by
          split
          · exact State.modThread_wf _ _ _ h1
          · exact h1
        exact State.lateFault_wf _ _ _ _ _ (h2 _ _ _) (State.trapThread_wf _ _ _ _ (h2 _ _ _))
      · exact h1
    · exact hw
  · exact hw

theorem execCancelledAnswer_wf (m : Nat) (s : State) (hw : s.mem.wf = true) : KeepsNext (execCancelledAnswer m s) := by
  unfold execCancelledAnswer; with_reducible repeat' first | assumption | apply cancelledAnswer_wf | apply KeepsNext.next

/-! ## Atom.lean -/

theorem atomAt_wf (s : State) (op : AtomOp) (srcs : List Nat) (d key : Nat) (a v n : Word) (acq : Bool) (hw : s.mem.wf = true) : Keeps (atomAt s op srcs d key a v n acq) := by
  unfold atomAt; repeat' first
    | (with_reducible first | assumption | apply Keeps.error | apply Keeps.ok | apply State.advance_wf | apply State.awaitDest_wf | apply State.complete_wf | apply State.consume_wf | apply State.modMe_wf | apply State.request_wf | apply State.store64_wf | apply State.touch_wf | apply State.waitFor_wf | apply atom_wf)
    | refine Keeps.of ?_ (by with_reducible assumption) | split | dsimp only | intros

theorem atomTarget_wf {s : State} {a : Word} {k} {t : State} (h : s.mem.wf = true) (e : atomTarget s a = .ok (k, t)) : t.mem.wf = true := by
  unfold atomTarget at e
  repeat' split at e
  all_goals (first | contradiction | (cases e; repeat' first
    | (with_reducible first
      | assumption | apply Keeps.ok | apply Keeps.error)
    | refine State.bulkAccess_wf ?_ (by with_reducible assumption) | refine Keeps.of ?_ (by with_reducible assumption) | split | dsimp only
    | intros))

theorem atom_wf (word : Word) (op : AtomOp) (d a : RegCode) (ord : BitVec 2) (sc : BitVec 3) (s : State) (h : s.mem.wf = true) : Keeps (atom word op
  d a ord sc s) := by
  unfold atom; dsimp only
  split
  · exact Keeps.error
  · rename_i vs _
    cases ht : atomTarget s (arg vs 0) with
    | error e => exact State.memStop_wf _ _ _ h
    | ok p =>
      obtain ⟨key, s0⟩ := p
      have h0 := atomTarget_wf h ht
      dsimp only
      generalize he : (if ord.getLsbD 1 = true then s0.release (scopeOf sc) (arg vs 0) else .ok none) = e
      match e, he with
      | .error _, _ => exact State.keepWalk_wf _ _ h0 Keeps.error
      | .ok (some s1), he => exact Keeps.ok (releaseIf_wf h0 he)
      | .ok none, _ => exact State.keepWalk_wf _ _ h0 (atomAt_wf _ _ _ _ _ _ _ _ _ h0)

theorem execAtomFadd_wf (d a : RegCode) (ord : BitVec 2) (sc : BitVec 3) (s : State) (hw : s.mem.wf = true) : KeepsNext (execAtomFadd d a ord sc s)
  := by
  unfold execAtomFadd; with_reducible repeat' first | assumption | apply State.finish_wf | apply atom_wf

theorem execAtomFmin_wf (d a : RegCode) (ord : BitVec 2) (sc : BitVec 3) (s : State) (hw : s.mem.wf = true) : KeepsNext (execAtomFmin d a ord sc s)
  := by
  unfold execAtomFmin; with_reducible repeat' first | assumption | apply State.finish_wf | apply atom_wf

theorem execAtomFmax_wf (d a : RegCode) (ord : BitVec 2) (sc : BitVec 3) (s : State) (hw : s.mem.wf = true) : KeepsNext (execAtomFmax d a ord sc s)
  := by
  unfold execAtomFmax; with_reducible repeat' first | assumption | apply State.finish_wf | apply atom_wf

theorem execAtomSwap_wf (d a : RegCode) (ord : BitVec 2) (sc : BitVec 3) (s : State) (hw : s.mem.wf = true) : KeepsNext (execAtomSwap d a ord sc s)
  := by
  unfold execAtomSwap; with_reducible repeat' first | assumption | apply State.finish_wf | apply atom_wf

theorem execAtomCas_wf (d a : RegCode) (ord : BitVec 2) (sc : BitVec 3) (s : State) (hw : s.mem.wf = true) : KeepsNext (execAtomCas d a ord sc s) :=
  by
  unfold execAtomCas; with_reducible repeat' first | assumption | apply State.finish_wf | apply atom_wf

theorem execAtomAnd_wf (d a : RegCode) (ord : BitVec 2) (sc : BitVec 3) (s : State) (hw : s.mem.wf = true) : KeepsNext (execAtomAnd d a ord sc s) :=
  by
  unfold execAtomAnd; with_reducible repeat' first | assumption | apply State.finish_wf | apply atom_wf

theorem execAtomOr_wf (d a : RegCode) (ord : BitVec 2) (sc : BitVec 3) (s : State) (hw : s.mem.wf = true) : KeepsNext (execAtomOr d a ord sc s) := by
  unfold execAtomOr; with_reducible repeat' first | assumption | apply State.finish_wf | apply atom_wf

theorem execAtomXor_wf (d a : RegCode) (ord : BitVec 2) (sc : BitVec 3) (s : State) (hw : s.mem.wf = true) : KeepsNext (execAtomXor d a ord sc s) :=
  by
  unfold execAtomXor; with_reducible repeat' first | assumption | apply State.finish_wf | apply atom_wf

theorem execAtomFaddf_wf (d a : RegCode) (ord : BitVec 2) (sc : BitVec 3) (s : State) (hw : s.mem.wf = true) : KeepsNext (execAtomFaddf d a ord sc s)
  := by
  unfold execAtomFaddf; with_reducible repeat' first | assumption | apply State.finish_wf | apply atom_wf

theorem atomRequest_wf (m : Nat) (s : State) (hw : s.mem.wf = true) : (atomRequest m s).mem.wf = true := by
  unfold atomRequest; repeat' first
    | (with_reducible first | assumption | apply State.respond_wf | apply State.store64_wf | apply atom_wf)
    | refine Keeps.of ?_ (by with_reducible assumption) | split | dsimp only | intros

theorem execAtomRequest_wf (m : Nat) (s : State) (hw : s.mem.wf = true) : KeepsNext (execAtomRequest m s) := by
  unfold execAtomRequest; with_reducible repeat' first | assumption | apply atomRequest_wf | apply KeepsNext.next

/-! ## Landing.lean -/

theorem State.setName_wf (s : State) (c i : Nat) (e : NameEntry) (hw : s.mem.wf = true) : (State.setName s c i e).mem.wf = true := by
  unfold State.setName; exact hw

theorem State.freeName_wf (s : State) (c i : Nat) (hw : s.mem.wf = true) : (State.freeName s c i).mem.wf = true := by
  unfold State.freeName; with_reducible repeat' first | assumption | apply State.setName_wf

theorem State.deliver_wf (s : State) (c : Nat) (nm v : Word) (r : Rights) (h : s.mem.wf = true) : (s.deliver c nm v r).2.mem.wf = true := by
  unfold State.deliver; repeat' first
    | (with_reducible first
      | assumption | apply State.agentSend_wf | apply State.freeName_wf | apply State.modCore_wf | apply State.put_wf | apply State.put64_wf
      | apply State.writeReg_wf | apply State.writeThreadReg_wf)
    | refine Keeps.of ?_ (by with_reducible assumption) | split | dsimp only

theorem State.sendDelivery_wf (s : State) (c slot uid : Nat) (r : Rights) (nm v : Word) (o : Origin) (hw : s.mem.wf = true) : (State.sendDelivery s c
  slot uid r nm v o).mem.wf = true := by
  unfold State.sendDelivery; repeat' first
    | (with_reducible first
      | assumption | apply State.deliver_wf | apply State.send_wf | apply State.sendAbroad_wf)
    | refine Keeps.of ?_ (by with_reducible assumption) | split

theorem State.mint_wf (s : State) (i b : Nat) (hw : s.mem.wf = true) : (State.mint s i b).mem.wf = true := by
  unfold State.mint; with_reducible repeat' first | assumption | apply State.modCore_wf | apply State.setName_wf | apply State.setRegFull_wf

theorem mintBody_wf (word : Word) (d b : RegCode) (s : State) (hw : s.mem.wf = true) : Keeps (mintBody word d b s) := by
  unfold mintBody; repeat' first
    | (with_reducible first
      | assumption | apply State.complete_wf | apply State.mint_wf | apply Keeps.ok | apply Keeps.error)
    | refine Keeps.of ?_ (by with_reducible assumption) | split

theorem execMint_wf (d b : RegCode) (s : State) (hw : s.mem.wf = true) : KeepsNext (execMint d b s) := by
  unfold execMint; with_reducible repeat' first | assumption | apply State.finish_wf | apply State.mint_wf | apply mintBody_wf

theorem lineFrom_wf (s : State) (srcs : List Nat) (d b tb : Nat) (req : Word → Except Stop State) (h : s.mem.wf = true) (hr : ∀ w, Keeps (req w)) :
  Keeps (lineFrom s srcs d b tb req) := by
  unfold lineFrom; repeat' split
  all_goals try (simp; done)
  · simp [h, State.complete_wf]
  · have := (hr _).of (by assumption); simp [*, State.complete_wf, State.mint_wf]

theorem State.lineSource_wf {s : State} (h : s.mem.wf = true) {loc : Loc} {e : Nat × State} (hk : s.lineSource loc = .ok (some e)) :
    e.2.mem.wf = true := by
  cases loc with
  | spad c o => cases hk; exact h
  | bulk va =>
    cases hb : s.bulkAccess s.here s.rights va 0 with
    | error e => simp [lineSource, hb, Except.map] at hk
    | ok p => obtain rfl : p = e := by simpa [lineSource, hb, Except.map] using hk
              exact State.bulkAccess_wf h hb
  | fabric _ _ => simp [lineSource] at hk

theorem mintLd_wf (word : Word) (d a b : RegCode) (s : State) (h : s.mem.wf = true) : Keeps (mintLd word d a b s) := by
  unfold mintLd; dsimp only
  split; exact Keeps.error
  split; exact Keeps.error
  split; exact Keeps.error
  split; exact State.memStop_wf _ _ _ h
  rename_i loc _
  split; exact State.memStop_wf _ _ _ h
  rename_i k hk
  have hs : ∀ e ∈ k, e.2.mem.wf = true := fun e he => State.lineSource_wf h (hk.trans (by rw [he]))
  have hg : ((k.map (·.2)).getD s).mem.wf = true := by
    cases k with
    | none => exact h
    | some e => exact hs e rfl
  split; exact State.keepWalk_wf _ _ hg (State.memStop_wf _ _ _ hg)
  rcases k with _ | ⟨key, s1⟩
  · cases loc with
    | fabric p addr =>
      apply lineFrom_wf _ _ _ _ _ _ h
      intro w; exact State.requestAbroad_wf _ _ _ _ h
    | _ => exact Keeps.error
  · have h1 := hs _ rfl
    dsimp only
    split
    · split
      · exact Keeps.ok (State.complete_wf _ _ _ _ h1)
      · exact Keeps.ok (State.complete_wf _ _ _ _ (State.deliver_wf _ _ _ _ _ (State.disturb_wf _ _ _ _ (State.writeWords_wf _ _ _ (State.mint_wf _ _ _ h1)))))
    · apply lineFrom_wf _ _ _ _ _ _ h1
      intro w; exact State.request_wf _ _ _ h1

theorem execMintLd_wf (d a b : RegCode) (s : State) (hw : s.mem.wf = true) : KeepsNext (execMintLd d a b s) := by
  unfold execMintLd; with_reducible repeat' first | assumption | apply State.finish_wf | apply mintLd_wf

theorem deliv_wf (word : Word) (a b : RegCode) (s : State) (hw : s.mem.wf = true) : Keeps (deliv word a b s) := by
  unfold deliv; repeat' first
    | (with_reducible first | assumption | apply Keeps.error | apply Keeps.ok | apply State.completeNone_wf | apply State.deliver_wf | apply State.modMe_wf | apply State.sendDelivery_wf | apply State.sendFlits_wf | apply State.takeTrap_wf)
    | refine Keeps.of ?_ (by with_reducible assumption) | split | dsimp only | intros

theorem execDeliv_wf (a b : RegCode) (s : State) (hw : s.mem.wf = true) : KeepsNext (execDeliv a b s) := by
  unfold execDeliv; with_reducible repeat' first | assumption | apply State.finish_wf | apply deliv_wf

theorem State.revokeAt_wf (s : State) (c slot : Nat) (sup : Bool) (nm : Word) (h : s.mem.wf = true) : (s.revokeAt c slot sup nm).2.mem.wf = true := by
  unfold State.revokeAt; repeat' first
    | (with_reducible first
      | assumption | apply State.fillReg_wf | apply State.freeName_wf)
    | refine Keeps.of ?_ (by with_reducible assumption) | split | dsimp only

theorem State.sendRevoke_wf (s : State) (nm : Word) (d : Nat) (hw : s.mem.wf = true) : Keeps (State.sendRevoke s nm d) := by
  unfold State.sendRevoke; repeat' first
    | (with_reducible first | assumption | apply Keeps.error | apply Keeps.ok | apply State.requestAbroadAs_wf | apply State.sendFlits_wf | apply State.send_wf | apply revoke_wf)
    | refine Keeps.of ?_ (by with_reducible assumption) | split | dsimp only | intros

theorem revoke_wf (word : Word) (d a : RegCode) (s : State) (hw : s.mem.wf = true) : Keeps (revoke word d a s) := by
  unfold revoke; repeat' first
    | (with_reducible first | assumption | apply Keeps.error | apply Keeps.ok | apply State.advance_wf | apply State.awaitDest_wf | apply State.complete_wf | apply State.consume_wf | apply State.modMe_wf | apply State.revokeAt_wf | apply State.sendRevoke_wf)
    | refine Keeps.of ?_ (by with_reducible assumption) | split | dsimp only | intros

theorem execRevoke_wf (d a : RegCode) (s : State) (hw : s.mem.wf = true) : KeepsNext (execRevoke d a s) := by
  unfold execRevoke; with_reducible repeat' first | assumption | apply State.finish_wf | apply revoke_wf

theorem execNstat_wf (d : RegCode) (s : State) (hw : s.mem.wf = true) : KeepsNext (execNstat d s) := by
  unfold execNstat; with_reducible repeat' first | assumption | apply State.compute_wf | apply State.finish_wf

theorem delivery_wf (m : Nat) (s : State) (hw : s.mem.wf = true) : (delivery m s).mem.wf = true := by
  unfold delivery; repeat' first
    | (with_reducible first | assumption | apply State.deliver_wf | apply State.respond_wf)
    | refine Keeps.of ?_ (by with_reducible assumption) | split | dsimp only | intros

theorem execDelivery_wf (m : Nat) (s : State) (hw : s.mem.wf = true) : KeepsNext (execDelivery m s) := by
  unfold execDelivery; with_reducible repeat' first | assumption | apply delivery_wf | apply KeepsNext.next

theorem lineReply_wf (m : Nat) (s : State) (hw : s.mem.wf = true) : (lineReply m s).mem.wf = true := by
  unfold lineReply; repeat' first
    | (with_reducible first | assumption | apply State.deliver_wf | apply State.disturb_wf | apply State.dropMsg_wf | apply State.modThreadCounters_wf | apply State.writeWords_wf)
    | refine Keeps.of ?_ (by with_reducible assumption) | split | dsimp only | intros

theorem execLineReply_wf (m : Nat) (s : State) (hw : s.mem.wf = true) : KeepsNext (execLineReply m s) := by
  unfold execLineReply; with_reducible repeat' first | assumption | apply lineReply_wf | apply KeepsNext.next

theorem State.dropName_wf (s : State) (uid : Nat) (nm : Word) (hw : s.mem.wf = true) : (State.dropName s uid nm).mem.wf = true := by
  unfold State.dropName; repeat' first
    | (with_reducible first | assumption | apply State.modThread_wf)
    | refine Keeps.of ?_ (by with_reducible assumption) | split | dsimp only | intros

theorem revokeRequest_wf (m : Nat) (s : State) (hw : s.mem.wf = true) : (revokeRequest m s).mem.wf = true := by
  unfold revokeRequest; repeat' first
    | (with_reducible first | assumption | apply State.applyReply_wf | apply State.dropMsg_wf | apply State.dropName_wf | apply State.fillThreadReg_wf | apply State.freeName_wf | apply State.freed_wf | apply State.modThread_wf | apply State.pendThread_wf | apply State.respond_wf | apply revoke_wf)
    | refine Keeps.of ?_ (by with_reducible assumption) | split | dsimp only | intros

theorem execRevokeRequest_wf (m : Nat) (s : State) (hw : s.mem.wf = true) : KeepsNext (execRevokeRequest m s) := by
  unfold execRevokeRequest; with_reducible repeat' first | assumption | apply revokeRequest_wf | apply KeepsNext.next

theorem noticeAnswered_wf (m : Nat) (x : Msg) (s : State) (hw : s.mem.wf = true) : (noticeAnswered m x s).mem.wf = true := by
  unfold noticeAnswered; with_reducible repeat' first | assumption | apply State.dropMsg_wf | apply State.modThread_wf

theorem answerNotice_wf (x : Msg) (nm : Word) (s : State) (hw : s.mem.wf = true) : (answerNotice x nm s).mem.wf = true := by
  unfold answerNotice; with_reducible repeat' first | assumption | apply State.dropMsg_wf | apply State.sendAs_wf

theorem retargetNotice_wf (m : Nat) (s : State) (hw : s.mem.wf = true) : (retargetNotice m s).mem.wf = true := by
  unfold retargetNotice; repeat' first
    | (with_reducible first
      | assumption | apply State.setName_wf | apply answerNotice_wf | apply noticeAnswered_wf)
    | refine Keeps.of ?_ (by with_reducible assumption) | split

theorem execRetargetNotice_wf (m : Nat) (s : State) (hw : s.mem.wf = true) : KeepsNext (execRetargetNotice m s) := by
  unfold execRetargetNotice; with_reducible repeat' first | assumption | apply retargetNotice_wf | apply KeepsNext.next

theorem returnNotice_wf (m : Nat) (s : State) (hw : s.mem.wf = true) : (returnNotice m s).mem.wf = true := by
  unfold returnNotice; repeat' first
    | (with_reducible first
      | assumption | apply State.dropMsg_wf | apply State.setName_wf)
    | refine Keeps.of ?_ (by with_reducible assumption) | split

theorem execReturnNotice_wf (m : Nat) (s : State) (hw : s.mem.wf = true) : KeepsNext (execReturnNotice m s) := by
  unfold execReturnNotice; with_reducible repeat' first | assumption | apply returnNotice_wf | apply KeepsNext.next

theorem destroyNotice_wf (m : Nat) (s : State) (hw : s.mem.wf = true) : (destroyNotice m s).mem.wf = true := by
  unfold destroyNotice; repeat' first
    | (with_reducible first
      | assumption | apply State.freeName_wf | apply answerNotice_wf | apply noticeAnswered_wf)
    | refine Keeps.of ?_ (by with_reducible assumption) | split

theorem execDestroyNotice_wf (m : Nat) (s : State) (hw : s.mem.wf = true) : KeepsNext (execDestroyNotice m s) := by
  unfold execDestroyNotice; with_reducible repeat' first | assumption | apply destroyNotice_wf | apply KeepsNext.next

theorem forwardedValue_wf (m : Nat) (s : State) (hw : s.mem.wf = true) : (forwardedValue m s).mem.wf = true := by
  unfold forwardedValue; repeat' first
    | (with_reducible first | assumption | apply State.dropMsg_wf | apply State.dropName_wf | apply State.modCore_wf | apply State.sendAs_wf | apply State.writeThreadReg_wf)
    | refine Keeps.of ?_ (by with_reducible assumption) | split | dsimp only | intros

theorem execForwardedValue_wf (m : Nat) (s : State) (hw : s.mem.wf = true) : KeepsNext (execForwardedValue m s) := by
  unfold execForwardedValue; with_reducible repeat' first | assumption | apply forwardedValue_wf | apply KeepsNext.next

/-! ## Threads.lean -/

theorem State.clearRegs_wf (s : State) (t n : Nat) (h : s.mem.wf = true) : (s.clearRegs t n).mem.wf = true := by
  induction n generalizing s with
  | zero => exact h
  | succ n ih => unfold State.clearRegs; apply ih; with_reducible repeat' first | assumption | apply State.setRegFull_wf | apply State.setRegValue_wf

theorem State.giveArgs_wf (s : State) (t n : Nat) (l : List Word) (h : s.mem.wf = true) : (s.giveArgs t n l).mem.wf = true := by
  induction l generalizing s n with
  | nil => exact h
  | cons w l ih => unfold State.giveArgs; apply ih; with_reducible repeat' first | assumption | apply State.setRegFull_wf | apply State.setRegValue_wf

theorem State.createAt_wf (s : State) (t base : Nat) (n : NewThread) (hw : s.mem.wf = true) : (State.createAt s t base n).mem.wf = true := by
  unfold State.createAt; with_reducible repeat' first | assumption | apply State.clearRegs_wf | apply State.giveArgs_wf | apply State.setSlot_wf

theorem State.modKernel_wf (s : State) (k : Nat) (f : KernelRec → KernelRec) (hw : s.mem.wf = true) : (State.modKernel s k f).mem.wf = true := by
  unfold State.modKernel; exact hw

theorem State.modKernelCore_wf (s : State) (k c : Nat) (f : KernelCore → KernelCore) (hw : s.mem.wf = true) : (State.modKernelCore s k c f).mem.wf =
  true := by
  unfold State.modKernelCore; exact hw

theorem State.toRoot_wf (s : State) (c uid : Nat) (kpkg : Option Nat) (w : Word) (b : Body) (hw : s.mem.wf = true) : (State.toRoot s c uid kpkg w
  b).mem.wf = true := by
  unfold State.toRoot; with_reducible repeat' first | assumption | apply State.send_wf

theorem State.sendJoin_wf (s : State) (c uid : Nat) (kpkg : Option Nat) (w : Word) (reg v : Nat) (hw : s.mem.wf = true) : (State.sendJoin s c uid
  kpkg w reg v).mem.wf = true := by
  unfold State.sendJoin; repeat' first
    | (with_reducible first
      | assumption | apply State.sendAbroad_wf | apply State.toRoot_wf)
    | refine Keeps.of ?_ (by with_reducible assumption) | split

end Sys2Proof.Machine
end

