-- ==== Sys2Proof/Laws/MemoryTasks.lean ====
section
/-! SUPPORT. Memory keeps its canonical form, one lemma per operation: tasks, barriers, the scalar and branch families, kernels and copies. -/
namespace Sys2Proof.Machine

open State

/-! ## Tasks.lean -/

theorem State.enqueueOwn_wf (s : State) (c : Nat) (pkt : TaskPkt) (hw : s.mem.wf = true) : (State.enqueueOwn s c pkt).mem.wf = true := by
  unfold State.enqueueOwn; repeat' first
    | (with_reducible first | assumption | apply State.modCore_wf | apply State.sendJoin_wf | apply callat_wf)
    | refine Keeps.of ?_ (by with_reducible assumption) | split | dsimp only | intros

theorem callat_wf (word : Word) (t a n : RegCode) (s : State) (hw : s.mem.wf = true) : Keeps (callat word t a n s) := by
  unfold callat; repeat' first
    | (with_reducible first | assumption | apply Keeps.error | apply Keeps.ok | apply State.completeNone_wf | apply State.enqueueOwn_wf | apply State.memStop_wf | apply post_wf)
    | refine Keeps.of ?_ (by with_reducible assumption) | split | dsimp only | intros

theorem execCallat_wf (t a n : RegCode) (s : State) (hw : s.mem.wf = true) : KeepsNext (execCallat t a n s) := by
  unfold execCallat; with_reducible repeat' first | assumption | apply State.finish_wf | apply callat_wf

theorem retat_wf (word : Word) (v : RegCode) (s : State) (hw : s.mem.wf = true) : Keeps (retat word v s) := by
  unfold retat; repeat' first
    | (with_reducible first | assumption | apply Keeps.error | apply Keeps.ok | apply State.consume_wf | apply State.deliver_wf | apply State.modMe_wf | apply State.sendDelivery_wf | apply State.sendFlits_wf | apply State.terminate_wf)
    | refine Keeps.of ?_ (by with_reducible assumption) | split | dsimp only | intros

theorem execRetat_wf (v : RegCode) (s : State) (hw : s.mem.wf = true) : KeepsNext (execRetat v s) := by
  unfold execRetat; repeat' first
    | (with_reducible first
      | assumption | apply State.finish_wf | apply retat_wf | apply Keeps.ok | apply Keeps.error)
    | refine Keeps.of ?_ (by with_reducible assumption) | split

theorem State.pushReady_wf (s : State) (c off : Nat) (hw : s.mem.wf = true) : (State.pushReady s c off).mem.wf = true := by
  unfold State.pushReady; with_reducible repeat' first | assumption | apply State.modCore_wf | apply State.wakeCore_wf

theorem State.decrAt_wf (s : State) (c off m : Nat) (hw : s.mem.wf = true) : (State.decrAt s c off m).mem.wf = true := by
  unfold State.decrAt; repeat' first
    | (with_reducible first | assumption | apply State.modCore_wf | apply State.pushReady_wf | apply State.store64_wf)
    | refine Keeps.of ?_ (by with_reducible assumption) | split | dsimp only | intros

theorem cinit_wf (word : Word) (d a b : RegCode) (s : State) (hw : s.mem.wf = true) : Keeps (cinit word d a b s) := by
  unfold cinit; repeat' first
    | (with_reducible first | assumption | apply State.memStop_wf | apply Keeps.error | apply Keeps.ok | apply State.complete_wf | apply State.modCore_wf | apply State.pushReady_wf | apply State.store64_wf)
    | refine Keeps.of ?_ (by with_reducible assumption) | split | dsimp only | intros

theorem execCinit_wf (d a b : RegCode) (s : State) (hw : s.mem.wf = true) : KeepsNext (execCinit d a b s) := by
  unfold execCinit; with_reducible repeat' first | assumption | apply State.finish_wf | apply cinit_wf

theorem decr_wf (word : Word) (a b : RegCode) (s : State) (hw : s.mem.wf = true) : Keeps (decr word a b s) := by
  unfold decr; repeat' first
    | (with_reducible first | assumption | apply Keeps.error | apply Keeps.ok | apply State.completeNone_wf | apply State.decrAt_wf | apply State.memStop_wf | apply post_wf)
    | refine Keeps.of ?_ (by with_reducible assumption) | split | dsimp only | intros

theorem execDecr_wf (a b : RegCode) (s : State) (hw : s.mem.wf = true) : KeepsNext (execDecr a b s) := by
  unfold execDecr; with_reducible repeat' first | assumption | apply State.finish_wf | apply decr_wf

theorem nextc_wf (s : State) (hw : s.mem.wf = true) : (nextc s).mem.wf = true := by
  unfold nextc; repeat' first
    | (with_reducible first | assumption | apply State.jump_wf | apply State.modCore_wf | apply State.modMe_wf | apply State.parkMe_wf | apply State.store64_wf | apply State.takeTrap_wf | apply State.writeReg_wf)
    | refine Keeps.of ?_ (by with_reducible assumption) | split | dsimp only | intros

theorem execNextc_wf (s : State) (hw : s.mem.wf = true) : KeepsNext (execNextc s) := by
  unfold execNextc; with_reducible repeat' first | assumption | apply nextc_wf | apply KeepsNext.next

theorem State.ticketAt_wf (s : State) (key : Nat) (h : s.mem.wf = true) : (s.ticketAt key).2.mem.wf = true := by
  unfold State.ticketAt; repeat' first
    | (with_reducible first | assumption | apply State.store64_wf) | refine Keeps.of ?_ (by with_reducible assumption) | split | dsimp only

theorem State.fillAt_wf (s : State) (key : Nat) (v : Word) (t : Nat) (hw : s.mem.wf = true) : (State.fillAt s key v t).mem.wf = true := by
  unfold State.fillAt; repeat' first
    | (with_reducible first | assumption | apply State.modCore_wf | apply State.setFull_wf | apply State.store64_wf)
    | refine Keeps.of ?_ (by with_reducible assumption) | split | dsimp only | intros

theorem ticket_wf (word : Word) (d a : RegCode) (s : State) (hw : s.mem.wf = true) : Keeps (ticket word d a s) := by
  unfold ticket; repeat' first
    | (with_reducible first | assumption | apply Keeps.error | apply Keeps.ok | apply State.advance_wf | apply State.awaitDest_wf | apply State.complete_wf | apply State.consume_wf | apply State.memStop_wf | apply State.modMe_wf | apply State.request_wf | apply State.ticketAt_wf | apply State.touch_wf)
    | refine Keeps.of ?_ (by with_reducible assumption) | split | dsimp only | intros

theorem execTicket_wf (d a : RegCode) (s : State) (hw : s.mem.wf = true) : KeepsNext (execTicket d a s) := by
  unfold execTicket; with_reducible repeat' first | assumption | apply State.finish_wf | apply ticket_wf

theorem rqfill_wf (word : Word) (v a t : RegCode) (s : State) (hw : s.mem.wf = true) : Keeps (rqfill word v a t s) := by
  unfold rqfill; repeat' first
    | (with_reducible first | assumption | apply Keeps.error | apply Keeps.ok | apply State.completeNone_wf | apply State.fillAt_wf | apply State.memStop_wf | apply post_wf)
    | refine Keeps.of ?_ (by with_reducible assumption) | split | dsimp only | intros

theorem execRqfill_wf (v a t : RegCode) (s : State) (hw : s.mem.wf = true) : KeepsNext (execRqfill v a t s) := by
  unfold execRqfill; with_reducible repeat' first | assumption | apply State.finish_wf | apply rqfill_wf

theorem ringOwn_wf {word : Word} {d a : RegCode} {s : State} {r : Except Stop State} (h : s.mem.wf = true) (e : ringOwn word d a s = .error r) :
    Keeps r := by
  unfold ringOwn at e
  repeat' split at e
  all_goals first | contradiction | (cases e; first | exact Keeps.error | exact State.memStop_wf _ _ _ h) | (dsimp only at e; split at e) | skip
  all_goals first | contradiction | (cases e; exact Keeps.error) | (split at e <;> first | contradiction | (cases e; exact Keeps.error))

theorem rqpop_wf (word : Word) (d a : RegCode) (s : State) (hw : s.mem.wf = true) : Keeps (rqpop word d a s) := by
  unfold rqpop
  split
  · exact ringOwn_wf hw (by assumption)
  · dsimp only
    split
    · exact Keeps.ok (State.complete_wf _ _ _ _ (State.store64_wf _ _ _ (State.setFull_wf _ _ _ hw)))
    · exact Keeps.error

theorem execRqpop_wf (d a : RegCode) (s : State) (hw : s.mem.wf = true) : KeepsNext (execRqpop d a s) := by
  unfold execRqpop; with_reducible repeat' first | assumption | apply State.finish_wf | apply rqpop_wf

theorem execRqpeek_wf (d a : RegCode) (s : State) (hw : s.mem.wf = true) : KeepsNext (execRqpeek d a s) := by
  unfold execRqpeek
  refine State.finish_wf _ _ hw ?_
  split
  · exact ringOwn_wf hw (by assumption)
  · exact Keeps.ok (State.complete_wf _ _ _ _ hw)

theorem unbindOne_wf (s : State) (c uid : Nat) (sl : Slot) (n : Nat) (hw : s.mem.wf = true) : (unbindOne s c uid sl n).mem.wf = true := by
  unfold unbindOne; repeat' first
    | (with_reducible first | assumption | apply State.modPipe_wf) | refine Keeps.of ?_ (by with_reducible assumption) | split | dsimp only

theorem qbind_wf (word : Word) (q : BitVec 2) (a : RegCode) (s : State) (hw : s.mem.wf = true) : Keeps (qbind word q a s) := by
  unfold qbind; repeat' first
    | (with_reducible first
      | assumption | apply State.advance_wf | apply State.consume_wf | apply State.modMe_wf | apply State.modPipe_wf | apply Keeps.ok
      | apply Keeps.error)
    | refine Keeps.of ?_ (by with_reducible assumption) | split | dsimp only

theorem execQbind_wf (q : BitVec 2) (a : RegCode) (s : State) (hw : s.mem.wf = true) : KeepsNext (execQbind q a s) := by
  unfold execQbind; with_reducible repeat' first | assumption | apply State.finish_wf | apply qbind_wf

theorem execQunbind_wf (q : BitVec 2) (s : State) (hw : s.mem.wf = true) : KeepsNext (execQunbind q s) := by
  unfold execQunbind; with_reducible repeat' first
    | assumption | apply State.completeNone_wf | apply State.modMe_wf | apply unbindOne_wf | apply KeepsNext.next

theorem acceptTask_wf (c : Nat) (x : Msg) (pkt : TaskPkt) (s : State) (hw : s.mem.wf = true) : (acceptTask c x pkt s).mem.wf = true := by
  unfold acceptTask; repeat' first
    | (with_reducible first
      | assumption | apply State.modCore_wf | apply State.sendAs_wf | apply State.sendJoin_wf | apply KeepsNext.next)
    | refine Keeps.of ?_ (by with_reducible assumption) | split

theorem callatAccept_wf (m : Nat) (s : State) (hw : s.mem.wf = true) : (callatAccept m s).mem.wf = true := by
  unfold callatAccept; repeat' first
    | (with_reducible first
      | assumption | apply State.dropMsg_wf | apply State.moveToWait_wf | apply State.respond_wf | apply acceptTask_wf | apply callat_wf)
    | refine Keeps.of ?_ (by with_reducible assumption) | split | dsimp only

theorem execCallatAccept_wf (m : Nat) (s : State) (hw : s.mem.wf = true) : KeepsNext (execCallatAccept m s) := by
  unfold execCallatAccept; with_reducible repeat' first | assumption | apply callatAccept_wf | apply KeepsNext.next

theorem callServe_wf (c : Nat) (x : Msg) (s : State) (hw : s.mem.wf = true) : (callServe c x s).mem.wf = true := by
  unfold callServe; repeat' first
    | (with_reducible first
      | assumption | apply State.modCore_wf | apply acceptTask_wf | apply callat_wf)
    | refine Keeps.of ?_ (by with_reducible assumption) | split | dsimp only

theorem faultPacket_wf (m : Nat) (s : State) (hw : s.mem.wf = true) : (faultPacket m s).mem.wf = true := by
  unfold faultPacket; repeat' first
    | (with_reducible first
      | assumption | apply State.dropMsg_wf | apply State.modCore_wf | apply KeepsNext.fault)
    | refine Keeps.of ?_ (by with_reducible assumption) | split

theorem execFaultPacket_wf (m : Nat) (s : State) (hw : s.mem.wf = true) : KeepsNext (execFaultPacket m s) := by
  unfold execFaultPacket; with_reducible repeat' first | assumption | apply faultPacket_wf | apply KeepsNext.next

theorem callatResend_wf (m : Nat) (s : State) (hw : s.mem.wf = true) : (callatResend m s).mem.wf = true := by
  unfold callatResend; repeat' first
    | (with_reducible first | assumption | apply State.cycle_wf | apply State.inject_wf | apply State.modCore_wf | apply State.sendAs_wf | apply State.takeCredit_wf)
    | refine Keeps.of ?_ (by with_reducible assumption) | split | dsimp only | intros

theorem execCallatResend_wf (m : Nat) (s : State) (hw : s.mem.wf = true) : KeepsNext (execCallatResend m s) := by
  unfold execCallatResend; with_reducible repeat' first | assumption | apply callatResend_wf | apply KeepsNext.next

theorem retryAnswer_wf (m : Nat) (s : State) (hw : s.mem.wf = true) : (retryAnswer m s).mem.wf = true := by
  unfold retryAnswer; repeat' first
    | (with_reducible first
      | assumption | apply State.dropMsg_wf | apply State.modCore_wf | apply State.modThread_wf | apply State.retryThread_wf | apply callat_wf)
    | refine Keeps.of ?_ (by with_reducible assumption) | split

theorem execRetryAnswer_wf (m : Nat) (s : State) (hw : s.mem.wf = true) : KeepsNext (execRetryAnswer m s) := by
  unfold execRetryAnswer; with_reducible repeat' first | assumption | apply retryAnswer_wf | apply KeepsNext.next

theorem decrRequest_wf (m : Nat) (s : State) (hw : s.mem.wf = true) : (decrRequest m s).mem.wf = true := by
  unfold decrRequest; repeat' first
    | (with_reducible first
      | assumption | apply State.decrAt_wf | apply State.respond_wf | apply decr_wf)
    | refine Keeps.of ?_ (by with_reducible assumption) | split

theorem execDecrRequest_wf (m : Nat) (s : State) (hw : s.mem.wf = true) : KeepsNext (execDecrRequest m s) := by
  unfold execDecrRequest; with_reducible repeat' first | assumption | apply decrRequest_wf | apply KeepsNext.next

theorem ticketRequest_wf (m : Nat) (s : State) (hw : s.mem.wf = true) : (ticketRequest m s).mem.wf = true := by
  unfold ticketRequest; repeat' first
    | (with_reducible first
      | assumption | apply State.respond_wf | apply State.ticketAt_wf | apply ticket_wf)
    | refine Keeps.of ?_ (by with_reducible assumption) | split

theorem execTicketRequest_wf (m : Nat) (s : State) (hw : s.mem.wf = true) : KeepsNext (execTicketRequest m s) := by
  unfold execTicketRequest; with_reducible repeat' first | assumption | apply ticketRequest_wf | apply KeepsNext.next

theorem rqfillRequest_wf (m : Nat) (s : State) (hw : s.mem.wf = true) : (rqfillRequest m s).mem.wf = true := by
  unfold rqfillRequest; repeat' first
    | (with_reducible first
      | assumption | apply State.fillAt_wf | apply State.respond_wf | apply rqfill_wf)
    | refine Keeps.of ?_ (by with_reducible assumption) | split

theorem execRqfillRequest_wf (m : Nat) (s : State) (hw : s.mem.wf = true) : KeepsNext (execRqfillRequest m s) := by
  unfold execRqfillRequest; with_reducible repeat' first | assumption | apply rqfillRequest_wf | apply KeepsNext.next

/-! ## Barrier.lean -/

theorem State.setBarrier_wf (s : State) (key : Nat) (b : Barrier) (hw : s.mem.wf = true) : (State.setBarrier s key b).mem.wf = true := by
  unfold State.setBarrier; exact hw

theorem State.wakeWaiter_wf (s : State) (v : Word) (w : BarWait) (hw : s.mem.wf = true) : (State.wakeWaiter s v w).mem.wf = true := by
  unfold State.wakeWaiter; repeat' first
    | (with_reducible first
      | assumption | apply State.arriveReg_wf | apply State.resumeThread_wf | apply State.sendAs_wf)
    | refine Keeps.of ?_ (by with_reducible assumption) | split

theorem State.wakeWaiters_wf (s : State) (key : Nat) (par : Bool) (v : Word) (hw : s.mem.wf = true) : (State.wakeWaiters s key par v).mem.wf = true
  := by
  unfold State.wakeWaiters; repeat' first
    | (with_reducible first
      | assumption | apply State.wakeWaiter_wf | apply foldl_wf)
    | refine Keeps.of ?_ (by with_reducible assumption) | split | dsimp only | intros

theorem State.applyBarrier_wf (s : State) (key : Nat) (t : BarStep) (hw : s.mem.wf = true) : (State.applyBarrier s key t).mem.wf = true := by
  unfold State.applyBarrier; repeat' first
    | (with_reducible first
      | assumption | apply State.setBarrier_wf | apply State.wakeWaiters_wf)
    | refine State.release_wf ?_ (by with_reducible assumption) | refine Keeps.of ?_ (by with_reducible assumption) | split

theorem State.barrierOp_wf (s : State) (op : BarOp) (key n i : Nat) (h : s.mem.wf = true) : (s.barrierOp op key n i).1.mem.wf = true := by
  unfold State.barrierOp; repeat' first
    | (with_reducible first | assumption | apply State.applyBarrier_wf) | refine Keeps.of ?_ (by with_reducible assumption) | split | dsimp only

theorem State.waitReg_wf (s : State) (d : Nat) (hw : s.mem.wf = true) : (State.waitReg s d).mem.wf = true := by
  unfold State.waitReg; with_reducible repeat' first | assumption | apply State.modMe_wf

theorem barrierHere_wf (s : State) (word : Word) (op : BarOp) (srcs : List Nat) (d key n : Nat) (a : Word) (hw : s.mem.wf = true) : Keeps (barrierHere s word op srcs d key n a) := by
  unfold barrierHere; repeat' first
    | (with_reducible first | assumption | apply Keeps.error | apply Keeps.ok | apply State.barrierOp_wf | apply State.complete_wf | apply State.waitFor_wf | apply State.waitReg_wf)
    | refine Keeps.of ?_ (by with_reducible assumption) | split | dsimp only | intros

theorem barrierAway_wf (s : State) (op : BarOp) (srcs : List Nat) (d key n : Nat) (a : Word) (home : Node) (hw : s.mem.wf = true) : Keeps (barrierAway s op srcs d key n a home) := by
  unfold barrierAway; repeat' first
    | (with_reducible first | assumption | apply Keeps.error | apply Keeps.ok | apply State.advance_wf | apply State.awaitDest_wf | apply State.consume_wf | apply State.modMe_wf | apply State.requestAbroadAs_wf | apply State.requestAs_wf | apply State.waitFor_wf | apply State.waitReg_wf)
    | refine Keeps.of ?_ (by with_reducible assumption) | split | dsimp only | intros

theorem barrierInstr_wf (word : Word) (op0 : BarOp) (d a b : Nat) (s : State) (hw : s.mem.wf = true) : Keeps (barrierInstr word op0 d a b s) := by
  unfold barrierInstr; repeat' first
    | (with_reducible first | assumption | apply Keeps.error | apply Keeps.ok | apply barrierAway_wf | apply barrierHere_wf)
    | refine Keeps.of ?_ (by with_reducible assumption) | split | dsimp only | intros

theorem execBarm_wf (d a b : RegCode) (s : State) (hw : s.mem.wf = true) : KeepsNext (execBarm d a b s) := by
  unfold execBarm; with_reducible repeat' first | assumption | apply State.finish_wf | apply barrierInstr_wf

theorem execBarv_wf (d a b : RegCode) (s : State) (hw : s.mem.wf = true) : KeepsNext (execBarv d a b s) := by
  unfold execBarv; with_reducible repeat' first | assumption | apply State.finish_wf | apply barrierInstr_wf

theorem execBwait_wf (d a b : RegCode) (s : State) (hw : s.mem.wf = true) : KeepsNext (execBwait d a b s) := by
  unfold execBwait; with_reducible repeat' first | assumption | apply State.finish_wf | apply barrierInstr_wf

theorem execBarw_wf (d a b : RegCode) (s : State) (hw : s.mem.wf = true) : KeepsNext (execBarw d a b s) := by
  unfold execBarw; with_reducible repeat' first | assumption | apply State.finish_wf | apply barrierInstr_wf

theorem execBerr_wf (d a b : RegCode) (s : State) (hw : s.mem.wf = true) : KeepsNext (execBerr d a b s) := by
  unfold execBerr; with_reducible repeat' first | assumption | apply State.finish_wf | apply barrierInstr_wf

theorem execBstat_wf (d a : RegCode) (s : State) (hw : s.mem.wf = true) : KeepsNext (execBstat d a s) := by
  unfold execBstat; with_reducible repeat' first | assumption | apply State.finish_wf | apply barrierInstr_wf

theorem State.engineAt_wf (s : State) (key : Nat) (code : Option Nat) (h : s.mem.wf = true) : (s.engineAt key code).1.mem.wf = true := by
  unfold State.engineAt; repeat' first
    | (with_reducible first | assumption | apply State.applyBarrier_wf) | refine Keeps.of ?_ (by with_reducible assumption) | split | dsimp only

theorem State.engineArrive_wf (s : State) (c uid level index : Nat) (code : Option Nat) (flags : Nat) (fin : Option Nat) (hw : s.mem.wf = true) : (State.engineArrive s c uid level index code flags fin).mem.wf = true := by
  unfold State.engineArrive; repeat' first
    | (with_reducible first | assumption | apply State.engineAt_wf | apply State.modThread_wf | apply State.sendAbroad_wf | apply State.send_wf)
    | refine Keeps.of ?_ (by with_reducible assumption) | split | dsimp only | intros

theorem barrierOperation_wf (m : Nat) (s : State) (hw : s.mem.wf = true) : (barrierOperation m s).mem.wf = true := by
  unfold barrierOperation; repeat' first
    | (with_reducible first
      | assumption | apply State.barrierOp_wf | apply State.dropMsg_wf | apply State.engineArrive_wf | apply State.engineAt_wf
      | apply State.respond_wf | apply State.send_wf)
    | refine Keeps.of ?_ (by with_reducible assumption) | split | dsimp only

theorem execBarrierOperation_wf (m : Nat) (s : State) (hw : s.mem.wf = true) : KeepsNext (execBarrierOperation m s) := by
  unfold execBarrierOperation; with_reducible repeat' first | assumption | apply barrierOperation_wf | apply KeepsNext.next

theorem State.tileRelease_wf (s : State) (c uid k flags : Nat) (hw : s.mem.wf = true) : (State.tileRelease s c uid k flags).mem.wf = true := by
  unfold State.tileRelease; repeat' first
    | (with_reducible first | assumption | apply State.forgetTiles_wf | apply State.modThreadCounters_wf | apply State.wakeThread_wf)
    | refine Keeps.of ?_ (by with_reducible assumption) | split | dsimp only | intros

theorem barrierReply_wf (m : Nat) (s : State) (hw : s.mem.wf = true) : (barrierReply m s).mem.wf = true := by
  unfold barrierReply; repeat' first
    | (with_reducible first | assumption | apply State.applyReply_wf | apply State.arriveReg_wf | apply State.dropMsg_wf | apply State.modThread_wf | apply State.pendThread_wf | apply State.resumeThread_wf | apply State.tileRelease_wf)
    | refine Keeps.of ?_ (by with_reducible assumption) | split | dsimp only | intros

theorem execBarrierReply_wf (m : Nat) (s : State) (hw : s.mem.wf = true) : KeepsNext (execBarrierReply m s) := by
  unfold execBarrierReply; with_reducible repeat' first | assumption | apply barrierReply_wf | apply KeepsNext.next

theorem barrierLimit_wf (u : Nat) (s : State) (hw : s.mem.wf = true) : (barrierLimit u s).mem.wf = true := by
  unfold barrierLimit; repeat' first
    | (with_reducible first
      | assumption | apply State.arriveReg_wf | apply State.resumeThread_wf | apply State.send_wf)
    | refine Keeps.of ?_ (by with_reducible assumption) | split

theorem execBarrierWaitLimit_wf (u : Nat) (s : State) (hw : s.mem.wf = true) : KeepsNext (execBarrierWaitLimit u s) := by
  unfold execBarrierWaitLimit; with_reducible repeat' first | assumption | apply barrierLimit_wf | apply KeepsNext.next

theorem podHomeLost_wf (s : State) (hw : s.mem.wf = true) : (podHomeLost s).mem.wf = true := by
  unfold podHomeLost; repeat' first
    | (with_reducible first | assumption | apply State.failAbroad_wf)
    | refine Keeps.of ?_ (by with_reducible assumption) | split | dsimp only | intros

theorem execPodHomeLost_wf (s : State) (hw : s.mem.wf = true) : KeepsNext (execPodHomeLost s) := by
  unfold execPodHomeLost; with_reducible repeat' first | assumption | apply podHomeLost_wf | apply KeepsNext.next

theorem cancelRequest_wf (m : Nat) (s : State) (hw : s.mem.wf = true) : (cancelRequest m s).mem.wf = true := by
  unfold cancelRequest; repeat' first
    | (with_reducible first | assumption | apply State.dropMsg_wf | apply cancelAt_wf) | refine Keeps.of ?_ (by with_reducible assumption) | split

theorem execCancelRequest_wf (m : Nat) (s : State) (hw : s.mem.wf = true) : KeepsNext (execCancelRequest m s) := by
  unfold execCancelRequest; with_reducible repeat' first | assumption | apply cancelRequest_wf | apply KeepsNext.next

/-! ## Scalar.lean -/

theorem binary_wf (word : Word) (d a b : RegCode) (f : Word → Word → Word) (s : State) (hw : s.mem.wf = true) : Keeps (binary word d a b f s) := by
  unfold binary; with_reducible repeat' first | assumption | apply State.compute_wf

theorem unary_wf (word : Word) (d a : RegCode) (f : Word → Word) (s : State) (hw : s.mem.wf = true) : Keeps (unary word d a f s) := by
  unfold unary; with_reducible repeat' first | assumption | apply State.compute_wf

theorem execAdd_wf (d a b : RegCode) (s : State) (hw : s.mem.wf = true) : KeepsNext (execAdd d a b s) := by
  unfold execAdd; with_reducible repeat' first | assumption | apply State.finish_wf | apply binary_wf

theorem execSub_wf (d a b : RegCode) (s : State) (hw : s.mem.wf = true) : KeepsNext (execSub d a b s) := by
  unfold execSub; with_reducible repeat' first | assumption | apply State.finish_wf | apply binary_wf

theorem execAnd_wf (d a b : RegCode) (s : State) (hw : s.mem.wf = true) : KeepsNext (execAnd d a b s) := by
  unfold execAnd; with_reducible repeat' first | assumption | apply State.finish_wf | apply binary_wf

theorem execOr_wf (d a b : RegCode) (s : State) (hw : s.mem.wf = true) : KeepsNext (execOr d a b s) := by
  unfold execOr; with_reducible repeat' first | assumption | apply State.finish_wf | apply binary_wf

theorem execXor_wf (d a b : RegCode) (s : State) (hw : s.mem.wf = true) : KeepsNext (execXor d a b s) := by
  unfold execXor; with_reducible repeat' first | assumption | apply State.finish_wf | apply binary_wf

theorem execAndn_wf (d a b : RegCode) (s : State) (hw : s.mem.wf = true) : KeepsNext (execAndn d a b s) := by
  unfold execAndn; with_reducible repeat' first | assumption | apply State.finish_wf | apply binary_wf

theorem execSll_wf (d a b : RegCode) (s : State) (hw : s.mem.wf = true) : KeepsNext (execSll d a b s) := by
  unfold execSll; with_reducible repeat' first | assumption | apply State.finish_wf | apply binary_wf

theorem execSrl_wf (d a b : RegCode) (s : State) (hw : s.mem.wf = true) : KeepsNext (execSrl d a b s) := by
  unfold execSrl; with_reducible repeat' first | assumption | apply State.finish_wf | apply binary_wf

theorem execSra_wf (d a b : RegCode) (s : State) (hw : s.mem.wf = true) : KeepsNext (execSra d a b s) := by
  unfold execSra; with_reducible repeat' first | assumption | apply State.finish_wf | apply binary_wf

theorem execRol_wf (d a b : RegCode) (s : State) (hw : s.mem.wf = true) : KeepsNext (execRol d a b s) := by
  unfold execRol; with_reducible repeat' first | assumption | apply State.finish_wf | apply binary_wf

theorem execSlt_wf (d a b : RegCode) (s : State) (hw : s.mem.wf = true) : KeepsNext (execSlt d a b s) := by
  unfold execSlt; with_reducible repeat' first | assumption | apply State.finish_wf | apply binary_wf

theorem execSltz_wf (d a b : RegCode) (s : State) (hw : s.mem.wf = true) : KeepsNext (execSltz d a b s) := by
  unfold execSltz; with_reducible repeat' first | assumption | apply State.finish_wf | apply binary_wf

theorem execSeq_wf (d a b : RegCode) (s : State) (hw : s.mem.wf = true) : KeepsNext (execSeq d a b s) := by
  unfold execSeq; with_reducible repeat' first | assumption | apply State.finish_wf | apply binary_wf

theorem execMin_wf (d a b : RegCode) (s : State) (hw : s.mem.wf = true) : KeepsNext (execMin d a b s) := by
  unfold execMin; with_reducible repeat' first | assumption | apply State.finish_wf | apply binary_wf

theorem execMax_wf (d a b : RegCode) (s : State) (hw : s.mem.wf = true) : KeepsNext (execMax d a b s) := by
  unfold execMax; with_reducible repeat' first | assumption | apply State.finish_wf | apply binary_wf

theorem execMinz_wf (d a b : RegCode) (s : State) (hw : s.mem.wf = true) : KeepsNext (execMinz d a b s) := by
  unfold execMinz; with_reducible repeat' first | assumption | apply State.finish_wf | apply binary_wf

theorem execMaxz_wf (d a b : RegCode) (s : State) (hw : s.mem.wf = true) : KeepsNext (execMaxz d a b s) := by
  unfold execMaxz; with_reducible repeat' first | assumption | apply State.finish_wf | apply binary_wf

theorem execMul_wf (d a b : RegCode) (s : State) (hw : s.mem.wf = true) : KeepsNext (execMul d a b s) := by
  unfold execMul; with_reducible repeat' first | assumption | apply State.finish_wf | apply binary_wf

theorem execMulh_wf (d a b : RegCode) (s : State) (hw : s.mem.wf = true) : KeepsNext (execMulh d a b s) := by
  unfold execMulh; with_reducible repeat' first | assumption | apply State.finish_wf | apply binary_wf

theorem execMulhz_wf (d a b : RegCode) (s : State) (hw : s.mem.wf = true) : KeepsNext (execMulhz d a b s) := by
  unfold execMulhz; with_reducible repeat' first | assumption | apply State.finish_wf | apply binary_wf

theorem execDiv_wf (d a b : RegCode) (s : State) (hw : s.mem.wf = true) : KeepsNext (execDiv d a b s) := by
  unfold execDiv; with_reducible repeat' first | assumption | apply State.finish_wf | apply binary_wf

theorem execDivz_wf (d a b : RegCode) (s : State) (hw : s.mem.wf = true) : KeepsNext (execDivz d a b s) := by
  unfold execDivz; with_reducible repeat' first | assumption | apply State.finish_wf | apply binary_wf

theorem execRem_wf (d a b : RegCode) (s : State) (hw : s.mem.wf = true) : KeepsNext (execRem d a b s) := by
  unfold execRem; with_reducible repeat' first | assumption | apply State.finish_wf | apply binary_wf

theorem execRemz_wf (d a b : RegCode) (s : State) (hw : s.mem.wf = true) : KeepsNext (execRemz d a b s) := by
  unfold execRemz; with_reducible repeat' first | assumption | apply State.finish_wf | apply binary_wf

theorem execClz_wf (d a : RegCode) (s : State) (hw : s.mem.wf = true) : KeepsNext (execClz d a s) := by
  unfold execClz; with_reducible repeat' first | assumption | apply State.finish_wf | apply unary_wf

theorem execCtz_wf (d a : RegCode) (s : State) (hw : s.mem.wf = true) : KeepsNext (execCtz d a s) := by
  unfold execCtz; with_reducible repeat' first | assumption | apply State.finish_wf | apply unary_wf

theorem execPopc_wf (d a : RegCode) (s : State) (hw : s.mem.wf = true) : KeepsNext (execPopc d a s) := by
  unfold execPopc; with_reducible repeat' first | assumption | apply State.finish_wf | apply unary_wf

theorem execBrev_wf (d a : RegCode) (s : State) (hw : s.mem.wf = true) : KeepsNext (execBrev d a s) := by
  unfold execBrev; with_reducible repeat' first | assumption | apply State.finish_wf | apply unary_wf

theorem execSext_wf (d a b : RegCode) (s : State) (hw : s.mem.wf = true) : KeepsNext (execSext d a b s) := by
  unfold execSext; with_reducible repeat' first | assumption | apply State.finish_wf | apply binary_wf

theorem execZext_wf (d a b : RegCode) (s : State) (hw : s.mem.wf = true) : KeepsNext (execZext d a b s) := by
  unfold execZext; with_reducible repeat' first | assumption | apply State.finish_wf | apply binary_wf

theorem execAddi_wf (d a : RegCode) (v : BitVec 12) (s : State) (hw : s.mem.wf = true) : KeepsNext (execAddi d a v s) := by
  unfold execAddi; with_reducible repeat' first | assumption | apply State.finish_wf | apply unary_wf

theorem execAndi_wf (d a : RegCode) (v : BitVec 12) (s : State) (hw : s.mem.wf = true) : KeepsNext (execAndi d a v s) := by
  unfold execAndi; with_reducible repeat' first | assumption | apply State.finish_wf | apply unary_wf

theorem execOri_wf (d a : RegCode) (v : BitVec 12) (s : State) (hw : s.mem.wf = true) : KeepsNext (execOri d a v s) := by
  unfold execOri; with_reducible repeat' first | assumption | apply State.finish_wf | apply unary_wf

theorem execXori_wf (d a : RegCode) (v : BitVec 12) (s : State) (hw : s.mem.wf = true) : KeepsNext (execXori d a v s) := by
  unfold execXori; with_reducible repeat' first | assumption | apply State.finish_wf | apply unary_wf

theorem execSlti_wf (d a : RegCode) (v : BitVec 12) (s : State) (hw : s.mem.wf = true) : KeepsNext (execSlti d a v s) := by
  unfold execSlti; with_reducible repeat' first | assumption | apply State.finish_wf | apply unary_wf

theorem execSltzi_wf (d a : RegCode) (v : BitVec 12) (s : State) (hw : s.mem.wf = true) : KeepsNext (execSltzi d a v s) := by
  unfold execSltzi; with_reducible repeat' first | assumption | apply State.finish_wf | apply unary_wf

theorem execSlli_wf (d a : RegCode) (v : BitVec 6) (s : State) (hw : s.mem.wf = true) : KeepsNext (execSlli d a v s) := by
  unfold execSlli; with_reducible repeat' first | assumption | apply State.finish_wf | apply unary_wf

theorem execSrli_wf (d a : RegCode) (v : BitVec 6) (s : State) (hw : s.mem.wf = true) : KeepsNext (execSrli d a v s) := by
  unfold execSrli; with_reducible repeat' first | assumption | apply State.finish_wf | apply unary_wf

theorem execSrai_wf (d a : RegCode) (v : BitVec 6) (s : State) (hw : s.mem.wf = true) : KeepsNext (execSrai d a v s) := by
  unfold execSrai; with_reducible repeat' first | assumption | apply State.finish_wf | apply unary_wf

theorem execRoli_wf (d a : RegCode) (v : BitVec 6) (s : State) (hw : s.mem.wf = true) : KeepsNext (execRoli d a v s) := by
  unfold execRoli; with_reducible repeat' first | assumption | apply State.finish_wf | apply unary_wf

theorem execLui_wf (d : RegCode) (v : BitVec 19) (s : State) (hw : s.mem.wf = true) : KeepsNext (execLui d v s) := by
  unfold execLui; with_reducible repeat' first | assumption | apply State.compute_wf | apply State.finish_wf

theorem execAddpc_wf (d : RegCode) (v : BitVec 19) (s : State) (hw : s.mem.wf = true) : KeepsNext (execAddpc d v s) := by
  unfold execAddpc; with_reducible repeat' first | assumption | apply State.compute_wf | apply State.finish_wf

theorem unaryTrap_wf (word : Word) (d a : RegCode) (f : Word → Except Stop Word) (s : State) (hw : s.mem.wf = true) : Keeps (unaryTrap word d a f s)
  := by
  unfold unaryTrap; repeat' first
    | (with_reducible first
      | assumption | apply State.complete_wf | apply Keeps.ok | apply Keeps.error)
    | refine Keeps.of ?_ (by with_reducible assumption) | split

theorem execCabs_wf (d a : RegCode) (s : State) (hw : s.mem.wf = true) : KeepsNext (execCabs d a s) := by
  unfold execCabs; with_reducible repeat' first | assumption | apply State.finish_wf | apply unaryTrap_wf

theorem execCrel_wf (d a : RegCode) (s : State) (hw : s.mem.wf = true) : KeepsNext (execCrel d a s) := by
  unfold execCrel; with_reducible repeat' first | assumption | apply State.finish_wf | apply unary_wf

theorem execCpack_wf (d a : RegCode) (s : State) (hw : s.mem.wf = true) : KeepsNext (execCpack d a s) := by
  unfold execCpack; with_reducible repeat' first | assumption | apply State.finish_wf | apply unary_wf

theorem execCx_wf (d a : RegCode) (s : State) (hw : s.mem.wf = true) : KeepsNext (execCx d a s) := by
  unfold execCx; with_reducible repeat' first | assumption | apply State.finish_wf | apply unaryTrap_wf

theorem execCy_wf (d a : RegCode) (s : State) (hw : s.mem.wf = true) : KeepsNext (execCy d a s) := by
  unfold execCy; with_reducible repeat' first | assumption | apply State.finish_wf | apply unaryTrap_wf

/-! ## Branch.lean -/

theorem branch_wf (s : State) (srcs : List Nat) (off : BitVec 16) (cond : Bool) (hw : s.mem.wf = true) : Keeps (branch s srcs off cond) := by
  unfold branch; repeat' first
    | (with_reducible first
      | assumption | apply State.completeNone_wf | apply State.consume_wf | apply State.jump_wf | apply Keeps.ok | apply Keeps.error)
    | refine Keeps.of ?_ (by with_reducible assumption) | split

theorem branchOn_wf (word : Word) (a : RegCode) (off : BitVec 16) (p : Word → Bool) (s : State) (hw : s.mem.wf = true) : Keeps (branchOn word a off p
  s) := by
  unfold branchOn; repeat' first
    | (with_reducible first
      | assumption | apply branch_wf | apply Keeps.ok | apply Keeps.error)
    | refine Keeps.of ?_ (by with_reducible assumption) | split

theorem branchFull_wf (word : Word) (a : RegCode) (off : BitVec 16) (want : Bool) (s : State) (hw : s.mem.wf = true) : Keeps (branchFull word a off
  want s) := by
  unfold branchFull; repeat' first
    | (with_reducible first
      | assumption | apply branch_wf | apply Keeps.ok | apply Keeps.error)
    | refine Keeps.of ?_ (by with_reducible assumption) | split

theorem execBz_wf (a : RegCode) (off : BitVec 16) (s : State) (hw : s.mem.wf = true) : KeepsNext (execBz a off s) := by
  unfold execBz; with_reducible repeat' first | assumption | apply State.finish_wf | apply branchOn_wf

theorem execBnz_wf (a : RegCode) (off : BitVec 16) (s : State) (hw : s.mem.wf = true) : KeepsNext (execBnz a off s) := by
  unfold execBnz; with_reducible repeat' first | assumption | apply State.finish_wf | apply branchOn_wf

theorem execBltz_wf (a : RegCode) (off : BitVec 16) (s : State) (hw : s.mem.wf = true) : KeepsNext (execBltz a off s) := by
  unfold execBltz; with_reducible repeat' first | assumption | apply State.finish_wf | apply branchOn_wf

theorem execBgez_wf (a : RegCode) (off : BitVec 16) (s : State) (hw : s.mem.wf = true) : KeepsNext (execBgez a off s) := by
  unfold execBgez; with_reducible repeat' first | assumption | apply State.finish_wf | apply branchOn_wf

theorem execBgtz_wf (a : RegCode) (off : BitVec 16) (s : State) (hw : s.mem.wf = true) : KeepsNext (execBgtz a off s) := by
  unfold execBgtz; with_reducible repeat' first | assumption | apply State.finish_wf | apply branchOn_wf

theorem execBlez_wf (a : RegCode) (off : BitVec 16) (s : State) (hw : s.mem.wf = true) : KeepsNext (execBlez a off s) := by
  unfold execBlez; with_reducible repeat' first | assumption | apply State.finish_wf | apply branchOn_wf

theorem execBfull_wf (a : RegCode) (off : BitVec 16) (s : State) (hw : s.mem.wf = true) : KeepsNext (execBfull a off s) := by
  unfold execBfull; with_reducible repeat' first | assumption | apply State.finish_wf | apply branchFull_wf

theorem execBempty_wf (a : RegCode) (off : BitVec 16) (s : State) (hw : s.mem.wf = true) : KeepsNext (execBempty a off s) := by
  unfold execBempty; with_reducible repeat' first | assumption | apply State.finish_wf | apply branchFull_wf

theorem State.jumpLink_wf (s : State) (srcs : List Nat) (d t : Nat) (hw : s.mem.wf = true) : (State.jumpLink s srcs d t).mem.wf = true := by
  unfold State.jumpLink; with_reducible repeat' first | assumption | apply State.consume_wf | apply State.jump_wf | apply State.writeDest_wf

theorem jumpTo_wf (word : Word) (d : RegCode) (v : BitVec 19) (s : State) (hw : s.mem.wf = true) : Keeps (jumpTo word d v s) := by
  unfold jumpTo; repeat' first
    | (with_reducible first
      | assumption | apply State.jumpLink_wf | apply Keeps.ok | apply Keeps.error)
    | refine Keeps.of ?_ (by with_reducible assumption) | split

theorem execJmp_wf (d : RegCode) (v : BitVec 19) (s : State) (hw : s.mem.wf = true) : KeepsNext (execJmp d v s) := by
  unfold execJmp; with_reducible repeat' first | assumption | apply State.finish_wf | apply jumpTo_wf

theorem jumpReg_wf (word : Word) (d a : RegCode) (v : BitVec 12) (s : State) (hw : s.mem.wf = true) : Keeps (jumpReg word d a v s) := by
  unfold jumpReg; repeat' first
    | (with_reducible first
      | assumption | apply State.jumpLink_wf | apply Keeps.ok | apply Keeps.error)
    | refine Keeps.of ?_ (by with_reducible assumption) | split | dsimp only

theorem execJmpr_wf (d a : RegCode) (v : BitVec 12) (s : State) (hw : s.mem.wf = true) : KeepsNext (execJmpr d a v s) := by
  unfold execJmpr; with_reducible repeat' first | assumption | apply State.finish_wf | apply jumpReg_wf

theorem loopBody_wf (word : Word) (c : RegCode) (len : BitVec 12) (s : State) (hw : s.mem.wf = true) : Keeps (loopBody word c len s) := by
  unfold loopBody; repeat' first
    | (with_reducible first
      | assumption | apply State.consume_wf | apply State.modMe_wf | apply State.stop_wf | apply Keeps.ok | apply Keeps.error)
    | refine Keeps.of ?_ (by with_reducible assumption) | split | dsimp only

theorem execLoop_wf (c : RegCode) (len : BitVec 12) (s : State) (hw : s.mem.wf = true) : KeepsNext (execLoop c len s) := by
  unfold execLoop; with_reducible repeat' first | assumption | apply State.finish_wf | apply loopBody_wf

theorem illegalBody_wf (w : BitVec 32) (s : State) (_hw : s.mem.wf = true) : Keeps (illegalBody w s) := by
  unfold illegalBody; repeat' first
    | (with_reducible first
      | assumption | apply Keeps.ok | apply Keeps.error)
    | refine Keeps.of ?_ (by with_reducible assumption) | split | dsimp only

theorem execIllegalEncoding_wf (w : BitVec 32) (s : State) (hw : s.mem.wf = true) : KeepsNext (execIllegalEncoding w s) := by
  unfold execIllegalEncoding; with_reducible repeat' first | assumption | apply State.finish_wf | apply illegalBody_wf

theorem execFallThrough_wf (s : State) (hw : s.mem.wf = true) : KeepsNext (execFallThrough s) := by
  unfold execFallThrough; with_reducible repeat' first | assumption | apply State.finish_wf | apply Keeps.ok | apply Keeps.error

/-! ## Kernel.lean -/

theorem launch_wf (word : Word) (d a : RegCode) (s : State) (hw : s.mem.wf = true) : Keeps (launch word d a s) := by
  unfold launch; repeat' first
    | (with_reducible first | assumption | apply Keeps.error | apply Keeps.ok | apply State.advance_wf | apply State.awaitDest_wf | apply State.consume_wf | apply State.modMe_wf | apply State.requestAs_wf)
    | refine Keeps.of ?_ (by with_reducible assumption) | split | dsimp only | intros

theorem execLaunch_wf (d a : RegCode) (s : State) (hw : s.mem.wf = true) : KeepsNext (execLaunch d a s) := by
  unfold execLaunch; with_reducible repeat' first | assumption | apply State.finish_wf | apply launch_wf

theorem State.countTrigger_wf (s : State) (w : Word) (c : Nat) (hw : s.mem.wf = true) : (State.countTrigger s w c).mem.wf = true := by
  unfold State.countTrigger; repeat' first
    | (with_reducible first | assumption | apply State.modKernelCore_wf) | refine Keeps.of ?_ (by with_reducible assumption) | split

theorem trigger_wf (s : State) (hw : s.mem.wf = true) : Keeps (trigger s) := by
  unfold trigger; repeat' first
    | (with_reducible first
      | assumption | apply State.completeNone_wf | apply State.countTrigger_wf | apply State.modMe_wf | apply State.send_wf | apply Keeps.ok
      | apply Keeps.error)
    | refine Keeps.of ?_ (by with_reducible assumption) | split | dsimp only

theorem execTrigger_wf (s : State) (hw : s.mem.wf = true) : KeepsNext (execTrigger s) := by
  unfold execTrigger; with_reducible repeat' first | assumption | apply State.finish_wf | apply trigger_wf

theorem doneBody_wf (word : Word) (d a : RegCode) (s : State) (hw : s.mem.wf = true) : Keeps (doneBody word d a s) := by
  unfold doneBody; repeat' first
    | (with_reducible first | assumption | apply Keeps.error | apply Keeps.ok | apply State.advance_wf | apply State.awaitDest_wf | apply State.consume_wf | apply State.modMe_wf | apply State.requestAs_wf)
    | refine Keeps.of ?_ (by with_reducible assumption) | split | dsimp only | intros

theorem execDone_wf (d a : RegCode) (s : State) (hw : s.mem.wf = true) : KeepsNext (execDone d a s) := by
  unfold execDone; with_reducible repeat' first | assumption | apply State.finish_wf | apply doneBody_wf

theorem State.plainHeat_wf (s : State) (src : Node) (c : Nat) (r : Rights) (a : Word) (n : Nat) (write : Bool) (hw : s.mem.wf = true) : (State.plainHeat s src c r a n write).mem.wf = true := by
  unfold State.plainHeat; repeat' first
    | (with_reducible first | assumption | apply State.sendHeats_wf | apply State.write_wf)
    | refine Keeps.of ?_ (by with_reducible assumption) | split | dsimp only | intros

theorem State.heatOn_wf (s : State) (src : Node) (c : Nat) (r : Rights) (a : Word) (m : Nat) (write first : Bool) (hw : s.mem.wf = true) : (State.heatOn s src c r a m write first).mem.wf = true := by
  unfold State.heatOn; repeat' first
    | (with_reducible first | assumption | apply State.plainHeat_wf | apply State.write_wf)
    | refine Keeps.of ?_ (by with_reducible assumption) | split | dsimp only | intros

theorem State.writeReportAt_wf (s : State) (die corner ctx : Nat) (a : Word) (i : Nat) (ws : List Word) (hw : s.mem.wf = true) : (State.writeReportAt s die corner ctx a i ws).mem.wf = true := by
  unfold State.writeReportAt; repeat' first
    | (with_reducible first | assumption | apply State.plainHeat_wf | apply State.put64_wf | apply foldl_wf)
    | refine Keeps.of ?_ (by with_reducible assumption) | split | dsimp only | intros

theorem State.writeReport_wf (s : State) (k i : Nat) (ws : List Word) (hw : s.mem.wf = true) : (State.writeReport s k i ws).mem.wf = true := by
  unfold State.writeReport; repeat' first
    | (with_reducible first | assumption | apply State.writeReportAt_wf)
    | refine Keeps.of ?_ (by with_reducible assumption) | split | dsimp only | intros

theorem State.report_wf (s : State) (k : Nat) (threads : Nat) (hw : s.mem.wf = true) : (State.report s k threads).mem.wf = true := by
  unfold State.report; repeat' first
    | (with_reducible first | assumption | apply State.writeReport_wf | apply foldl_wf)
    | refine Keeps.of ?_ (by with_reducible assumption) | split | dsimp only | intros

theorem State.deliverStatus_wf (s : State) (k : Nat) (w : Word) (hw : s.mem.wf = true) : (State.deliverStatus s k w).mem.wf = true := by
  unfold State.deliverStatus; repeat' first
    | (with_reducible first | assumption | apply State.deliver_wf | apply State.sendAbroad_wf | apply State.send_wf | apply State.writeReport_wf)
    | refine Keeps.of ?_ (by with_reducible assumption) | split | dsimp only | intros

theorem State.notice_wf (s : State) (k : Nat) (w : Word) (hw : s.mem.wf = true) : (State.notice s k w).mem.wf = true := by
  unfold State.notice; repeat' first | with_reducible assumption | refine Keeps.of ?_ (by with_reducible assumption) | split | dsimp only

theorem State.retireKernel_wf (s : State) (k : Nat) (w : Word) (hw : s.mem.wf = true) : (State.retireKernel s k w).mem.wf = true := by
  unfold State.retireKernel; repeat' first
    | (with_reducible first | assumption | apply State.deliverStatus_wf | apply State.modKernel_wf | apply State.notice_wf | apply State.writeReport_wf)
    | refine Keeps.of ?_ (by with_reducible assumption) | split | dsimp only | intros

theorem State.refuseKernel_wf (s : State) (k reason : Nat) (hw : s.mem.wf = true) : (State.refuseKernel s k reason).mem.wf = true := by
  unfold State.refuseKernel; with_reducible repeat' first
    | assumption | apply State.modKernel_wf | apply State.report_wf | apply State.retireKernel_wf

theorem State.acceptPacket_wf (s : State) (pk : List Word) (src port : Nat) (h : s.mem.wf = true) : (s.acceptPacket pk src port).2.mem.wf = true := by
  unfold State.acceptPacket; repeat' first
    | (with_reducible first | assumption | apply State.refuseKernel_wf) | refine Keeps.of ?_ (by with_reducible assumption) | split

theorem State.reserve_wf {s : State} {id : Word} {c limit n : Nat} {t : State} (h : s.mem.wf = true) (e : s.reserve id c limit n = some t) : t.mem.wf
  = true := by
  induction n generalizing s with
  | zero => cases e; exact h
  | succ n ih => unfold State.reserve at e; split at e; (exact ih (by simpa using h) e); contradiction

theorem State.createThreads_wf (s : State) (k : Nat) (c : Nat) (hw : s.mem.wf = true) : (State.createThreads s k c).mem.wf = true := by
  unfold State.createThreads; repeat' first
    | (with_reducible first
      | assumption | apply State.createAt_wf | apply State.modKernelCore_wf | apply foldl_wf)
    | refine Keeps.of ?_ (by with_reducible assumption) | split | dsimp only | intros

theorem State.imageCame_wf (s : State) (m n : Nat) (hw : s.mem.wf = true) : (State.imageCame s m n).mem.wf = true := by
  unfold State.imageCame; repeat' first
    | (with_reducible first | assumption | apply State.modKernel_wf)
    | refine Keeps.of ?_ (by with_reducible assumption) | split | dsimp only | intros

theorem foldl_write_wf {α : Type} (k : α → Nat) (n : Nat) (v : α → Nat) (l : List α) (s : State) (h : s.mem.wf = true) :
    (l.foldl (fun s x => s.write (k x) n (v x)) s).mem.wf = true := by
  induction l generalizing s with
  | nil => exact h
  | cons x r ih => exact ih _ (State.write_wf _ _ _ _ h)

theorem State.memberRetired_wf (s : State) (c : Nat) (w status : Word) (extra : Bool) (kpkg : Option Nat) (hw : s.mem.wf = true) :
  (State.memberRetired s c w status extra kpkg).mem.wf = true := by
  unfold State.memberRetired; repeat' first
    | (with_reducible first
      | assumption | apply State.modKernelCore_wf | apply State.toRoot_wf)
    | refine Keeps.of ?_ (by with_reducible assumption) | split

theorem launchAccept_wf (m : Nat) (s : State) (hw : s.mem.wf = true) : (launchAccept m s).mem.wf = true := by
  unfold launchAccept; repeat' first
    | (with_reducible first
      | assumption | apply State.acceptPacket_wf | apply State.respond_wf | apply launch_wf)
    | refine Keeps.of ?_ (by with_reducible assumption) | split

theorem execLaunchAccept_wf (m : Nat) (s : State) (hw : s.mem.wf = true) : KeepsNext (execLaunchAccept m s) := by
  unfold execLaunchAccept; with_reducible repeat' first | assumption | apply launchAccept_wf | apply KeepsNext.next

theorem kernelSchedule_wf (s : State) (hw : s.mem.wf = true) : (kernelSchedule s).mem.wf = true := by
  unfold kernelSchedule; repeat' first
    | (with_reducible first
      | assumption | apply State.modKernel_wf | apply State.refuseKernel_wf)
    | refine Keeps.of ?_ (by with_reducible assumption) | split | dsimp only

theorem execKernelSchedule_wf (s : State) (hw : s.mem.wf = true) : KeepsNext (execKernelSchedule s) := by
  unfold execKernelSchedule; with_reducible repeat' first | assumption | apply kernelSchedule_wf | apply KeepsNext.next

theorem placementReserve_wf (k c : Nat) (s : State) (hw : s.mem.wf = true) : (placementReserve k c s).mem.wf = true := by
  unfold placementReserve; repeat' first
    | (with_reducible first
      | assumption | apply State.modKernel_wf)
    | refine State.reserve_wf ?_ (by with_reducible assumption) | refine Keeps.of ?_ (by with_reducible assumption) | split | dsimp only

theorem execPlacementReserve_wf (k c : Nat) (s : State) (hw : s.mem.wf = true) : KeepsNext (execPlacementReserve k c s) := by
  unfold execPlacementReserve; with_reducible repeat' first | assumption | apply placementReserve_wf | apply KeepsNext.next

theorem imageCopy_wf (k : Nat) (s : State) (hw : s.mem.wf = true) : (imageCopy k s).mem.wf = true := by
  unfold imageCopy; repeat' first
    | (with_reducible first | assumption | apply State.heatOn_wf | apply State.modKernel_wf | apply State.send_wf)
    | refine Keeps.of ?_ (by with_reducible assumption) | split | dsimp only | intros

theorem execImageCopy_wf (k : Nat) (s : State) (hw : s.mem.wf = true) : KeepsNext (execImageCopy k s) := by
  unfold execImageCopy; with_reducible repeat' first | assumption | apply imageCopy_wf | apply KeepsNext.next

theorem placementCommit_wf (k : Nat) (s : State) (hw : s.mem.wf = true) : (placementCommit k s).mem.wf = true := by
  unfold placementCommit; repeat' first
    | (with_reducible first
      | assumption | apply State.applyBarrier_wf | apply State.createThreads_wf | apply State.modKernel_wf | apply State.refuseKernel_wf
      | apply State.report_wf | apply foldl_wf)
    | refine Keeps.of ?_ (by with_reducible assumption) | split | dsimp only | intros

theorem execPlacementCommit_wf (k : Nat) (s : State) (hw : s.mem.wf = true) : KeepsNext (execPlacementCommit k s) := by
  unfold execPlacementCommit; with_reducible repeat' first | assumption | apply placementCommit_wf | apply KeepsNext.next

theorem statusReport_wf (k c : Nat) (s : State) (hw : s.mem.wf = true) : (statusReport k c s).mem.wf = true := by
  unfold statusReport; repeat' first
    | (with_reducible first | assumption | apply State.modKernel_wf) | refine Keeps.of ?_ (by with_reducible assumption) | split | dsimp only

theorem execStatusReport_wf (k c : Nat) (s : State) (hw : s.mem.wf = true) : KeepsNext (execStatusReport k c s) := by
  unfold execStatusReport; with_reducible repeat' first | assumption | apply statusReport_wf | apply KeepsNext.next

theorem joinAt_wf (m : Nat) (s : State) (hw : s.mem.wf = true) : (joinAt m s).mem.wf = true := by
  unfold joinAt; repeat' first
    | (with_reducible first | assumption | apply State.arriveReg_wf | apply State.dropMsg_wf | apply State.modCore_wf | apply State.modKernel_wf | apply State.respond_wf | apply State.resumeThread_wf | apply State.sendAs_wf)
    | refine Keeps.of ?_ (by with_reducible assumption) | split | dsimp only | intros

theorem execJoin_wf (m : Nat) (s : State) (hw : s.mem.wf = true) : KeepsNext (execJoin m s) := by
  unfold execJoin; with_reducible repeat' first | assumption | apply joinAt_wf | apply KeepsNext.next

theorem leaveAt_wf (m : Nat) (s : State) (hw : s.mem.wf = true) : (leaveAt m s).mem.wf = true := by
  unfold leaveAt; repeat' first
    | (with_reducible first
      | assumption | apply State.dropMsg_wf | apply State.modKernel_wf)
    | refine Keeps.of ?_ (by with_reducible assumption) | split | dsimp only

theorem execLeave_wf (m : Nat) (s : State) (hw : s.mem.wf = true) : KeepsNext (execLeave m s) := by
  unfold execLeave; with_reducible repeat' first | assumption | apply leaveAt_wf | apply KeepsNext.next

theorem kernelRetire_wf (k : Nat) (s : State) (hw : s.mem.wf = true) : (kernelRetire k s).mem.wf = true := by
  unfold kernelRetire; repeat' first
    | (with_reducible first | assumption | apply State.retireKernel_wf) | refine Keeps.of ?_ (by with_reducible assumption) | split | dsimp only

theorem execKernelRetire_wf (k : Nat) (s : State) (hw : s.mem.wf = true) : KeepsNext (execKernelRetire k s) := by
  unfold execKernelRetire; with_reducible repeat' first | assumption | apply kernelRetire_wf | apply KeepsNext.next

theorem triggerReport_wf (k c : Nat) (s : State) (hw : s.mem.wf = true) : (triggerReport k c s).mem.wf = true := by
  unfold triggerReport; repeat' first
    | (with_reducible first | assumption | apply State.modKernel_wf) | refine Keeps.of ?_ (by with_reducible assumption) | split | dsimp only

theorem execTriggerReport_wf (k c : Nat) (s : State) (hw : s.mem.wf = true) : KeepsNext (execTriggerReport k c s) := by
  unfold execTriggerReport; with_reducible repeat' first | assumption | apply triggerReport_wf | apply KeepsNext.next

theorem triggerNotice_wf (m : Nat) (s : State) (hw : s.mem.wf = true) : (triggerNotice m s).mem.wf = true := by
  unfold triggerNotice; repeat' first
    | (with_reducible first
      | assumption | apply State.countTrigger_wf | apply State.dropMsg_wf)
    | refine Keeps.of ?_ (by with_reducible assumption) | split

theorem execTriggerNotice_wf (m : Nat) (s : State) (hw : s.mem.wf = true) : KeepsNext (execTriggerNotice m s) := by
  unfold execTriggerNotice; with_reducible repeat' first | assumption | apply triggerNotice_wf | apply KeepsNext.next

theorem doneQuery_wf (m : Nat) (s : State) (hw : s.mem.wf = true) : (doneQuery m s).mem.wf = true := by
  unfold doneQuery; repeat' first
    | (with_reducible first | assumption | apply State.respond_wf) | refine Keeps.of ?_ (by with_reducible assumption) | split

theorem execDoneQuery_wf (m : Nat) (s : State) (hw : s.mem.wf = true) : KeepsNext (execDoneQuery m s) := by
  unfold execDoneQuery; with_reducible repeat' first | assumption | apply doneQuery_wf | apply KeepsNext.next

theorem guestRetireNotice_wf (m : Nat) (s : State) (hw : s.mem.wf = true) : (guestRetireNotice m s).mem.wf = true := by
  unfold guestRetireNotice; repeat' first
    | (with_reducible first
      | assumption | apply State.dropMsg_wf | apply State.memberRetired_wf)
    | refine Keeps.of ?_ (by with_reducible assumption) | split

theorem execGuestRetireNotice_wf (m : Nat) (s : State) (hw : s.mem.wf = true) : KeepsNext (execGuestRetireNotice m s) := by
  unfold execGuestRetireNotice; with_reducible repeat' first | assumption | apply guestRetireNotice_wf | apply KeepsNext.next

/-! ## Copy.lean -/

theorem State.writeBytes_wf (s : State) (key : Nat) (data words : List Nat) (hw : s.mem.wf = true) :
    (State.writeBytes s key data words).mem.wf = true := by
  unfold State.writeBytes
  exact foldl_wf _ _ _ (foldl_wf _ _ _ hw fun x e h => State.write_wf _ _ _ _ h) fun x e h => State.setFull_wf _ _ _ h

theorem State.storeBytes_wf (s : State) (key : Nat) (data words : List Nat) (hw : s.mem.wf = true) :
    (State.storeBytes s key data words).mem.wf = true := State.disturb_wf _ _ _ _ (State.writeBytes_wf _ _ _ _ hw)

theorem State.spoil_wf (s : State) (dst : Nat) (src : List (Nat × Nat)) (l : List Nat) (h : s.mem.wf = true) : (s.spoil dst src l).2.mem.wf = true :=
  by
  induction l generalizing s dst with
  | nil => exact h
  | cons b l ih => unfold State.spoil; split; exact ih _ _ h; exact ih _ _ h

theorem copyIssue_wf (word : Word) (op : Nat) (k : BitVec 3) (a : RegCode) (w : BitVec 1) (b : BitVec 3) (s : State) (hw : s.mem.wf = true) : Keeps
  (copyIssue word op k a w b s) := by
  unfold copyIssue; repeat' first
    | (with_reducible first
      | assumption | apply State.completeNone_wf | apply State.modCore_wf | apply State.modMe_wf | apply State.parkMe_wf | apply State.wakeSlot_wf
      | apply Keeps.ok | apply Keeps.error)
    | refine Keeps.of ?_ (by with_reducible assumption) | split | dsimp only

theorem execCopy_wf (k : BitVec 3) (a : RegCode) (w : BitVec 1) (b : BitVec 3) (s : State) (hw : s.mem.wf = true) : KeepsNext (execCopy k a w b s) :=
  by
  unfold execCopy; with_reducible repeat' first | assumption | apply State.finish_wf | apply copyIssue_wf

theorem execCopyr_wf (k : BitVec 3) (a : RegCode) (w : BitVec 1) (b : BitVec 3) (s : State) (hw : s.mem.wf = true) : KeepsNext (execCopyr k a w b s)
  := by
  unfold execCopyr; with_reducible repeat' first | assumption | apply State.finish_wf | apply copyIssue_wf

theorem execCopym_wf (k : BitVec 3) (a : RegCode) (w : BitVec 1) (b : BitVec 3) (s : State) (hw : s.mem.wf = true) : KeepsNext (execCopym k a w b s)
  := by
  unfold execCopym; with_reducible repeat' first | assumption | apply State.finish_wf | apply copyIssue_wf

theorem State.pageWaitAt_wf (s : State) (t i va access reason level : Nat) (info : Word) (hw : s.mem.wf = true) : (State.pageWaitAt s t i va access reason level info).mem.wf = true := by
  unfold State.pageWaitAt; repeat' first
    | (with_reducible first | assumption | apply State.enterPageWait_wf)
    | refine Keeps.of ?_ (by with_reducible assumption) | split | dsimp only | intros

theorem State.copyStop_wf (s : State) (c op operand i : Nat) (e : Stop) (h : s.mem.wf = true) : (s.copyStop c op operand i e).mem.wf = true := by
  cases e <;> unfold State.copyStop <;> with_reducible repeat' first | assumption | apply State.copyFail_wf | apply State.pageWaitAt_wf | apply State.walked_wf

theorem State.moverAwait_wf (s : State) (c : Nat) (w : MoverWait) (hw : s.mem.wf = true) : (State.moverAwait s c w).mem.wf = true := by
  unfold State.moverAwait; repeat' first
    | (with_reducible first | assumption | apply State.modCore_wf | apply State.modSlot_wf | apply State.write_wf)
    | refine Keeps.of ?_ (by with_reducible assumption) | split | dsimp only | intros

theorem State.moverDone_wf (s : State) (c : Nat) (hw : s.mem.wf = true) : (State.moverDone s c).mem.wf = true := by
  unfold State.moverDone; repeat' first
    | (with_reducible first | assumption | apply State.modCore_wf | apply State.modSlot_wf | apply State.write_wf)
    | refine Keeps.of ?_ (by with_reducible assumption) | split | dsimp only | intros

theorem State.moverSend_wf (s : State) (c : Nat) (q : CopyReq) (dst : Node) (b : Body) (t : State) (hw : s.mem.wf = true) (ht : t.mem.wf = true) :
    (State.moverSend s c q dst b t).mem.wf = true := by
  unfold State.moverSend
  dsimp only
  split
  · exact ht
  · split
    · exact State.inject_wf _ _ _ _ ht
    · exact hw

theorem State.copyAbroad_wf (s : State) (c : Nat) (q : CopyReq) (p : Nat) (addr : Word) (f : Fabric) (gain operand : Nat) (hw : s.mem.wf = true) : (State.copyAbroad s c q p addr f gain operand).mem.wf = true := by
  unfold State.copyAbroad; repeat' first
    | (with_reducible first | assumption | apply State.moverAwait_wf | apply State.moverSend_wf | apply State.sendAbroad_wf | apply State.write_wf)
    | refine Keeps.of ?_ (by with_reducible assumption) | split | dsimp only | intros

theorem State.copySource_wf {s : State} {c : Nat} {q : CopyReq} {a : Word} {n : Nat} {d} {t : State} (h : s.mem.wf = true) (e : s.copySource c q a n
  = .ok (d, t)) : t.mem.wf = true := by
  unfold State.copySource at e
  split at e
  · cases e; exact h
  · split at e
    · contradiction
    · cases e; exact h
    · split at e
      · contradiction
      · cases e; exact State.bulkAccess_wf h (by assumption)
    · cases e; exact State.copyAbroad_wf _ _ _ _ _ _ _ _ h

theorem State.copyNext_wf (s : State) (c n : Nat) (hw : s.mem.wf = true) : (State.copyNext s c n).mem.wf = true := by
  unfold State.copyNext; repeat' first
    | (with_reducible first | assumption | apply State.modCore_wf | apply State.moverDone_wf)
    | refine Keeps.of ?_ (by with_reducible assumption) | split | dsimp only | intros

theorem State.copyLoop_wf (s : State) (c : Nat) (q : CopyReq) (done l : List Piece) (h : s.mem.wf = true) : (s.copyLoop c q done l).mem.wf = true := by
  induction l generalizing s done with
  | nil => unfold State.copyLoop; exact State.copyStatus_wf _ _ _ h
  | cons p l ih =>
    unfold State.copyLoop; dsimp only
    split
    · exact State.copyStop_wf _ _ _ _ _ _ h
    · exact State.copySource_wf h (by assumption)
    · rename_i data s1 hs
      have h1 := State.copySource_wf h hs
      split
      · exact State.copyStop_wf _ _ _ _ _ _ h1
      · split
        · exact ih _ _ (State.copyNext_wf _ _ _ (State.storeBytes_wf _ _ _ _ (State.spoil_wf _ _ _ _ h1)))
        · split
          · exact State.copyStop_wf _ _ _ _ _ _ h1
          · have h2 := State.bulkAccess_wf h1 (by assumption)
            exact ih _ _ (State.copyNext_wf _ _ _ (State.storeBytes_wf _ _ _ _ (State.spoil_wf _ _ _ _ h2)))
        · exact State.copyAbroad_wf _ _ _ _ _ _ _ _ (State.spoil_wf _ _ _ _ h1)

theorem State.copyBegin_wf (s : State) (c : Nat) (l : List Piece) (hw : s.mem.wf = true) : (State.copyBegin s c l).mem.wf = true := by
  unfold State.copyBegin; repeat' first
    | (with_reducible first | assumption | apply State.modCore_wf)
    | refine Keeps.of ?_ (by with_reducible assumption) | split | dsimp only | intros

theorem State.copyPlain_wf (s : State) (c : Nat) (q : CopyReq) (hw : s.mem.wf = true) : (State.copyPlain s c q).mem.wf = true := by
  unfold State.copyPlain; repeat' first
    | (with_reducible first | assumption | apply State.copyBegin_wf | apply State.copyFail_wf | apply State.copyLoop_wf | apply State.copyStatus_wf)
    | refine Keeps.of ?_ (by with_reducible assumption) | split | dsimp only | intros

theorem State.multicastLoop_wf (s : State) (c : Nat) (q : CopyReq) (l : List Piece) (h : s.mem.wf = true) :
    (s.multicastLoop c q l).mem.wf = true := by
  induction l generalizing s with
  | nil =>
    unfold State.multicastLoop; dsimp only
    split
    · exact State.copyStatus_wf _ _ _ h
    · exact State.moverSend_wf _ _ _ _ _ _ h (State.send_wf _ _ (State.moverAwait_wf _ _ _ h))
  | cons p l ih =>
    unfold State.multicastLoop
    split
    · exact State.copyStop_wf _ _ _ _ _ _ h
    · exact State.copySource_wf h (by assumption)
    · exact ih _ (State.copyNext_wf _ _ _ (State.modCore_wf _ _ _ (State.copySource_wf h (by assumption))))

theorem State.copyMulti_wf (s : State) (c : Nat) (q : CopyReq) (hw : s.mem.wf = true) : (State.copyMulti s c q).mem.wf = true := by
  unfold State.copyMulti; dsimp only
  repeat' split
  all_goals with_reducible first
    | (apply State.multicastLoop_wf; first | exact hw | exact State.copyBegin_wf _ _ _ hw)
    | exact State.copyFail_wf _ _ _ _ _ hw
    | exact State.copyStatus_wf _ _ _ hw

theorem State.addRun_wf (s : State) (key ty : Nat) (data words : List Nat) (hw : s.mem.wf = true) : (State.addRun s key ty data words).mem.wf = true := by
  unfold State.addRun; repeat' first
    | (with_reducible first | assumption | apply State.setFull_wf | apply State.write_wf | apply foldl_wf)
    | refine Keeps.of ?_ (by with_reducible assumption) | split | dsimp only | intros

theorem State.applyRun_wf (s : State) (key ty : Nat) (data words : List Nat) (prog count : Nat) (hw : s.mem.wf = true) : (State.applyRun s key ty data words prog count).mem.wf = true := by
  unfold State.applyRun; repeat' first
    | (with_reducible first | assumption | apply State.addRun_wf | apply State.disturb_wf | apply State.put64_wf)
    | refine Keeps.of ?_ (by with_reducible assumption) | split | dsimp only | intros

theorem State.copyrFrom_wf (s : State) (c total n : Nat) (hw : s.mem.wf = true) : (State.copyrFrom s c total n).mem.wf = true := by
  unfold State.copyrFrom; repeat' first
    | (with_reducible first | assumption | apply State.copyStatus_wf | apply State.modCore_wf)
    | refine Keeps.of ?_ (by with_reducible assumption) | split | dsimp only | intros

theorem State.copyrProgress_wf (s : State) (c : Nat) (q : CopyReq) (home : Loc) (hw : s.mem.wf = true) : (State.copyrProgress s c q home).mem.wf = true := by
  unfold State.copyrProgress; repeat' first
    | (with_reducible first | assumption | apply State.copyAbroad_wf | apply State.copyrFrom_wf | apply State.modCore_wf | apply State.put64_wf | apply State.write_wf | apply foldl_wf)
    | refine Keeps.of ?_ (by with_reducible assumption) | split | dsimp only | intros

theorem State.copyrRun_wf (s : State) (c : Nat) (q : CopyReq) (hw : s.mem.wf = true) : (State.copyrRun s c q).mem.wf = true := by
  unfold State.copyrRun; repeat' first
    | (with_reducible first | assumption | apply State.copyAbroad_wf | apply State.copyFail_wf | apply State.copyStatus_wf | apply State.copyStop_wf | apply State.moverAwait_wf | apply State.moverSend_wf | apply State.send_wf | apply State.write_wf)
    | refine State.copySource_wf ?_ (by with_reducible assumption)
    | refine Keeps.of ?_ (by with_reducible assumption) | split | dsimp only | intros

theorem State.copyAdd_wf (s : State) (c : Nat) (q : CopyReq) (hw : s.mem.wf = true) : (State.copyAdd s c q).mem.wf = true := by
  unfold State.copyAdd; repeat' first
    | (with_reducible first | assumption | apply State.copyBegin_wf | apply State.copyStatus_wf | apply State.copyrProgress_wf | apply State.copyrRun_wf)
    | refine Keeps.of ?_ (by with_reducible assumption) | split | dsimp only | intros

theorem State.copyFinished_wf (s : State) (c : Nat) (q : CopyReq) (status : Word) (hw : s.mem.wf = true) : (State.copyFinished s c q status).mem.wf = true := by
  unfold State.copyFinished; repeat' first
    | (with_reducible first | assumption | apply State.engineArrive_wf | apply State.modCore_wf | apply State.modSlot_wf | apply State.modThreadCounters_wf | apply State.modThread_wf | apply State.moverDone_wf | apply State.touch_wf | apply State.wakeSlot_wf | apply State.wakeThread_wf)
    | refine Keeps.of ?_ (by with_reducible assumption) | split | dsimp only | intros

theorem State.copyAnswered_wf (s : State) (c : Nat) (q : CopyReq) (m gain operand : Nat) (hw : s.mem.wf = true) : (State.copyAnswered s c q m gain operand).mem.wf = true := by
  unfold State.copyAnswered; repeat' first
    | (with_reducible first | assumption | apply State.copyFail_wf | apply State.copyNext_wf | apply State.dropMsg_wf | apply State.modCore_wf | apply State.moverDone_wf)
    | refine Keeps.of ?_ (by with_reducible assumption) | split | dsimp only | intros

theorem copyFinish_wf (c : Nat) (s : State) (hw : s.mem.wf = true) : (copyFinish c s).mem.wf = true := by
  unfold copyFinish; repeat' first
    | (with_reducible first
      | assumption | apply State.copyAdd_wf | apply State.copyAnswered_wf | apply State.copyFinished_wf | apply State.copyMulti_wf
      | apply State.copyPlain_wf)
    | refine Keeps.of ?_ (by with_reducible assumption) | split | dsimp only

theorem execCopyFinish_wf (c : Nat) (s : State) (hw : s.mem.wf = true) : KeepsNext (execCopyFinish c s) := by
  unfold execCopyFinish; with_reducible repeat' first | assumption | apply copyFinish_wf | apply KeepsNext.next

theorem copyrRunApply_wf (m : Nat) (s : State) (hw : s.mem.wf = true) : (copyrRunApply m s).mem.wf = true := by
  unfold copyrRunApply; repeat' first
    | (with_reducible first | assumption | apply State.applyRun_wf | apply State.copyNext_wf | apply State.dropMsg_wf)
    | refine Keeps.of ?_ (by with_reducible assumption) | split | dsimp only | intros

theorem execCopyrRunApply_wf (m : Nat) (s : State) (hw : s.mem.wf = true) : KeepsNext (execCopyrRunApply m s) := by
  unfold execCopyrRunApply; with_reducible repeat' first | assumption | apply copyrRunApply_wf | apply KeepsNext.next

theorem multicastPacket_wf (m : Nat) (s : State) (hw : s.mem.wf = true) : (multicastPacket m s).mem.wf = true := by
  unfold multicastPacket
  split
  · split
    · split
      · exact hw
      · have h1 (k : Nat) (data words : List Nat) : ((s.storeBytes k data words).dropMsg m).mem.wf = true :=
          State.dropMsg_wf _ _ (State.storeBytes_wf _ _ _ _ hw)
        dsimp only
        split
        · split
          · exact State.copyNext_wf _ _ _ (h1 _ _ _)
          · exact h1 _ _ _
        · exact State.imageCame_wf _ _ _ (h1 _ _ _)
        · exact State.sendAs_wf _ _ (h1 _ _ _)
    · exact hw
  · exact hw

theorem execMulticastPacket_wf (m : Nat) (s : State) (hw : s.mem.wf = true) : KeepsNext (execMulticastPacket m s) := by
  unfold execMulticastPacket; with_reducible repeat' first | assumption | apply multicastPacket_wf | apply KeepsNext.next

end Sys2Proof.Machine
end

