-- ==== Sys2Proof/Laws/MemoryUnits.lean ====
section
/-! SUPPORT. Memory keeps its canonical form, one lemma per operation: the vector unit, the sequencer and the region engine. -/
namespace Sys2Proof.Machine

open State

/-! ## Vector.lean -/

theorem pset_wf (word : Word) (p : PtrCode) (g : RegCode) (s : State) (hw : s.mem.wf = true) : Keeps (pset word p g s) := by
  unfold pset; repeat' first
    | (with_reducible first
      | assumption | apply State.completeNone_wf | apply State.modMe_wf | apply Keeps.ok | apply Keeps.error)
    | refine Keeps.of ?_ (by with_reducible assumption) | split

theorem execPset_wf (p : BitVec 3) (g : BitVec 7) (s : State) (hw : s.mem.wf = true) : KeepsNext (execPset p g s) := by
  unfold execPset; with_reducible repeat' first | assumption | apply State.finish_wf | apply pset_wf

theorem execPget_wf (p : BitVec 3) (g : BitVec 7) (s : State) (hw : s.mem.wf = true) : KeepsNext (execPget p g s) := by
  unfold execPget; with_reducible repeat' first | assumption | apply State.compute_wf | apply State.finish_wf

theorem padv_wf (word : Word) (p : PtrCode) (g : RegCode) (s : State) (hw : s.mem.wf = true) : Keeps (padv word p g s) := by
  unfold padv; repeat' first
    | (with_reducible first
      | assumption | apply State.completeNone_wf | apply State.modMe_wf | apply Keeps.ok | apply Keeps.error)
    | refine Keeps.of ?_ (by with_reducible assumption) | split

theorem execPadv_wf (p : BitVec 3) (g : BitVec 7) (s : State) (hw : s.mem.wf = true) : KeepsNext (execPadv p g s) := by
  unfold execPadv; with_reducible repeat' first | assumption | apply State.finish_wf | apply padv_wf

theorem vecIssue_wf (word : Word) (op : VecOp) (d a b : Nat) (ty : BitVec 4) (n : RegCode) (s : State) (hw : s.mem.wf = true) : Keeps (vecIssue word
  op d a b ty n s) := by
  unfold vecIssue; repeat' first
    | (with_reducible first
      | assumption | apply State.completeNone_wf | apply State.modCore_wf | apply State.modMe_wf | apply Keeps.ok | apply Keeps.error
      | apply foldl_wf)
    | refine Keeps.of ?_ (by with_reducible assumption) | split | dsimp only

theorem execVadd_wf (d a b : BitVec 3) (ty : BitVec 4) (n : BitVec 7) (s : State) (hw : s.mem.wf = true) : KeepsNext (execVadd d a b ty n s) := by
  unfold execVadd; with_reducible repeat' first | assumption | apply State.finish_wf | apply vecIssue_wf

theorem execVsub_wf (d a b : BitVec 3) (ty : BitVec 4) (n : BitVec 7) (s : State) (hw : s.mem.wf = true) : KeepsNext (execVsub d a b ty n s) := by
  unfold execVsub; with_reducible repeat' first | assumption | apply State.finish_wf | apply vecIssue_wf

theorem execVmul_wf (d a b : BitVec 3) (ty : BitVec 4) (n : BitVec 7) (s : State) (hw : s.mem.wf = true) : KeepsNext (execVmul d a b ty n s) := by
  unfold execVmul; with_reducible repeat' first | assumption | apply State.finish_wf | apply vecIssue_wf

theorem execVfma_wf (d a b : BitVec 3) (ty : BitVec 4) (n : BitVec 7) (s : State) (hw : s.mem.wf = true) : KeepsNext (execVfma d a b ty n s) := by
  unfold execVfma; with_reducible repeat' first | assumption | apply State.finish_wf | apply vecIssue_wf

theorem execVfms_wf (d a b : BitVec 3) (ty : BitVec 4) (n : BitVec 7) (s : State) (hw : s.mem.wf = true) : KeepsNext (execVfms d a b ty n s) := by
  unfold execVfms; with_reducible repeat' first | assumption | apply State.finish_wf | apply vecIssue_wf

theorem execVdiv_wf (d a b : BitVec 3) (ty : BitVec 4) (n : BitVec 7) (s : State) (hw : s.mem.wf = true) : KeepsNext (execVdiv d a b ty n s) := by
  unfold execVdiv; with_reducible repeat' first | assumption | apply State.finish_wf | apply vecIssue_wf

theorem execVsqrt_wf (d a : BitVec 3) (ty : BitVec 4) (n : BitVec 7) (s : State) (hw : s.mem.wf = true) : KeepsNext (execVsqrt d a ty n s) := by
  unfold execVsqrt; with_reducible repeat' first | assumption | apply State.finish_wf | apply vecIssue_wf

theorem execVrsqrt_wf (d a : BitVec 3) (ty : BitVec 4) (n : BitVec 7) (s : State) (hw : s.mem.wf = true) : KeepsNext (execVrsqrt d a ty n s) := by
  unfold execVrsqrt; with_reducible repeat' first | assumption | apply State.finish_wf | apply vecIssue_wf

theorem execVmin_wf (d a b : BitVec 3) (ty : BitVec 4) (n : BitVec 7) (s : State) (hw : s.mem.wf = true) : KeepsNext (execVmin d a b ty n s) := by
  unfold execVmin; with_reducible repeat' first | assumption | apply State.finish_wf | apply vecIssue_wf

theorem execVmax_wf (d a b : BitVec 3) (ty : BitVec 4) (n : BitVec 7) (s : State) (hw : s.mem.wf = true) : KeepsNext (execVmax d a b ty n s) := by
  unfold execVmax; with_reducible repeat' first | assumption | apply State.finish_wf | apply vecIssue_wf

theorem execVabs_wf (d a : BitVec 3) (ty : BitVec 4) (n : BitVec 7) (s : State) (hw : s.mem.wf = true) : KeepsNext (execVabs d a ty n s) := by
  unfold execVabs; with_reducible repeat' first | assumption | apply State.finish_wf | apply vecIssue_wf

theorem execVneg_wf (d a : BitVec 3) (ty : BitVec 4) (n : BitVec 7) (s : State) (hw : s.mem.wf = true) : KeepsNext (execVneg d a ty n s) := by
  unfold execVneg; with_reducible repeat' first | assumption | apply State.finish_wf | apply vecIssue_wf

theorem execVexp2_wf (d a : BitVec 3) (ty : BitVec 4) (n : BitVec 7) (s : State) (hw : s.mem.wf = true) : KeepsNext (execVexp2 d a ty n s) := by
  unfold execVexp2; with_reducible repeat' first | assumption | apply State.finish_wf | apply vecIssue_wf

theorem execVlog2_wf (d a : BitVec 3) (ty : BitVec 4) (n : BitVec 7) (s : State) (hw : s.mem.wf = true) : KeepsNext (execVlog2 d a ty n s) := by
  unfold execVlog2; with_reducible repeat' first | assumption | apply State.finish_wf | apply vecIssue_wf

theorem execVrcp_wf (d a : BitVec 3) (ty : BitVec 4) (n : BitVec 7) (s : State) (hw : s.mem.wf = true) : KeepsNext (execVrcp d a ty n s) := by
  unfold execVrcp; with_reducible repeat' first | assumption | apply State.finish_wf | apply vecIssue_wf

theorem execVscale_wf (d a : BitVec 3) (ty : BitVec 4) (n : BitVec 7) (s : State) (hw : s.mem.wf = true) : KeepsNext (execVscale d a ty n s) := by
  unfold execVscale; with_reducible repeat' first | assumption | apply State.finish_wf | apply vecIssue_wf

theorem execVaxpy_wf (d a b : BitVec 3) (ty : BitVec 4) (n : BitVec 7) (s : State) (hw : s.mem.wf = true) : KeepsNext (execVaxpy d a b ty n s) := by
  unfold execVaxpy; with_reducible repeat' first | assumption | apply State.finish_wf | apply vecIssue_wf

theorem execViadd_wf (d a b : BitVec 3) (ty : BitVec 4) (n : BitVec 7) (s : State) (hw : s.mem.wf = true) : KeepsNext (execViadd d a b ty n s) := by
  unfold execViadd; with_reducible repeat' first | assumption | apply State.finish_wf | apply vecIssue_wf

theorem execVisub_wf (d a b : BitVec 3) (ty : BitVec 4) (n : BitVec 7) (s : State) (hw : s.mem.wf = true) : KeepsNext (execVisub d a b ty n s) := by
  unfold execVisub; with_reducible repeat' first | assumption | apply State.finish_wf | apply vecIssue_wf

theorem execVimul_wf (d a b : BitVec 3) (ty : BitVec 4) (n : BitVec 7) (s : State) (hw : s.mem.wf = true) : KeepsNext (execVimul d a b ty n s) := by
  unfold execVimul; with_reducible repeat' first | assumption | apply State.finish_wf | apply vecIssue_wf

theorem execVand_wf (d a b : BitVec 3) (ty : BitVec 4) (n : BitVec 7) (s : State) (hw : s.mem.wf = true) : KeepsNext (execVand d a b ty n s) := by
  unfold execVand; with_reducible repeat' first | assumption | apply State.finish_wf | apply vecIssue_wf

theorem execVor_wf (d a b : BitVec 3) (ty : BitVec 4) (n : BitVec 7) (s : State) (hw : s.mem.wf = true) : KeepsNext (execVor d a b ty n s) := by
  unfold execVor; with_reducible repeat' first | assumption | apply State.finish_wf | apply vecIssue_wf

theorem execVxor_wf (d a b : BitVec 3) (ty : BitVec 4) (n : BitVec 7) (s : State) (hw : s.mem.wf = true) : KeepsNext (execVxor d a b ty n s) := by
  unfold execVxor; with_reducible repeat' first | assumption | apply State.finish_wf | apply vecIssue_wf

theorem execVshl_wf (d a b : BitVec 3) (ty : BitVec 4) (n : BitVec 7) (s : State) (hw : s.mem.wf = true) : KeepsNext (execVshl d a b ty n s) := by
  unfold execVshl; with_reducible repeat' first | assumption | apply State.finish_wf | apply vecIssue_wf

theorem execVshr_wf (d a b : BitVec 3) (ty : BitVec 4) (n : BitVec 7) (s : State) (hw : s.mem.wf = true) : KeepsNext (execVshr d a b ty n s) := by
  unfold execVshr; with_reducible repeat' first | assumption | apply State.finish_wf | apply vecIssue_wf

theorem execVshra_wf (d a b : BitVec 3) (ty : BitVec 4) (n : BitVec 7) (s : State) (hw : s.mem.wf = true) : KeepsNext (execVshra d a b ty n s) := by
  unfold execVshra; with_reducible repeat' first | assumption | apply State.finish_wf | apply vecIssue_wf

theorem execVimin_wf (d a b : BitVec 3) (ty : BitVec 4) (n : BitVec 7) (s : State) (hw : s.mem.wf = true) : KeepsNext (execVimin d a b ty n s) := by
  unfold execVimin; with_reducible repeat' first | assumption | apply State.finish_wf | apply vecIssue_wf

theorem execVimax_wf (d a b : BitVec 3) (ty : BitVec 4) (n : BitVec 7) (s : State) (hw : s.mem.wf = true) : KeepsNext (execVimax d a b ty n s) := by
  unfold execVimax; with_reducible repeat' first | assumption | apply State.finish_wf | apply vecIssue_wf

theorem execVcvt_wf (d a : BitVec 3) (ty : BitVec 4) (n : BitVec 7) (s : State) (hw : s.mem.wf = true) : KeepsNext (execVcvt d a ty n s) := by
  unfold execVcvt; with_reducible repeat' first | assumption | apply State.finish_wf | apply vecIssue_wf

theorem execVlut_wf (d a b : BitVec 3) (ty : BitVec 4) (n : BitVec 7) (s : State) (hw : s.mem.wf = true) : KeepsNext (execVlut d a b ty n s) := by
  unfold execVlut; with_reducible repeat' first | assumption | apply State.finish_wf | apply vecIssue_wf

theorem execVfill_wf (d a : BitVec 3) (ty : BitVec 4) (n : BitVec 7) (s : State) (hw : s.mem.wf = true) : KeepsNext (execVfill d a ty n s) := by
  unfold execVfill; with_reducible repeat' first | assumption | apply State.finish_wf | apply vecIssue_wf

theorem execViota_wf (d : BitVec 3) (ty : BitVec 4) (n : BitVec 7) (s : State) (hw : s.mem.wf = true) : KeepsNext (execViota d ty n s) := by
  unfold execViota; with_reducible repeat' first | assumption | apply State.finish_wf | apply vecIssue_wf

theorem execVcopy_wf (d a : BitVec 3) (ty : BitVec 4) (n : BitVec 7) (s : State) (hw : s.mem.wf = true) : KeepsNext (execVcopy d a ty n s) := by
  unfold execVcopy; with_reducible repeat' first | assumption | apply State.finish_wf | apply vecIssue_wf

theorem execVrsum_wf (d a : BitVec 3) (ty : BitVec 4) (n : BitVec 7) (s : State) (hw : s.mem.wf = true) : KeepsNext (execVrsum d a ty n s) := by
  unfold execVrsum; with_reducible repeat' first | assumption | apply State.finish_wf | apply vecIssue_wf

theorem execVrmax_wf (d a : BitVec 3) (ty : BitVec 4) (n : BitVec 7) (s : State) (hw : s.mem.wf = true) : KeepsNext (execVrmax d a ty n s) := by
  unfold execVrmax; with_reducible repeat' first | assumption | apply State.finish_wf | apply vecIssue_wf

theorem execVrmin_wf (d a : BitVec 3) (ty : BitVec 4) (n : BitVec 7) (s : State) (hw : s.mem.wf = true) : KeepsNext (execVrmin d a ty n s) := by
  unfold execVrmin; with_reducible repeat' first | assumption | apply State.finish_wf | apply vecIssue_wf

theorem execVdot_wf (d a b : BitVec 3) (ty : BitVec 4) (n : BitVec 7) (s : State) (hw : s.mem.wf = true) : KeepsNext (execVdot d a b ty n s) := by
  unfold execVdot; with_reducible repeat' first | assumption | apply State.finish_wf | apply vecIssue_wf

theorem execVcmp_wf (d a b : BitVec 3) (ty : BitVec 4) (n : BitVec 7) (s : State) (hw : s.mem.wf = true) : KeepsNext (execVcmp d a b ty n s) := by
  unfold execVcmp; with_reducible repeat' first | assumption | apply State.finish_wf | apply vecIssue_wf

theorem execVsel_wf (d a b : BitVec 3) (ty : BitVec 4) (n : BitVec 7) (s : State) (hw : s.mem.wf = true) : KeepsNext (execVsel d a b ty n s) := by
  unfold execVsel; with_reducible repeat' first | assumption | apply State.finish_wf | apply vecIssue_wf

theorem State.elemPut_wf (s : State) (c off w i v : Nat) (fill : Bool) (h : s.mem.wf = true) : (State.elemPut s c off w i v fill).mem.wf = true := by
  unfold State.elemPut
  generalize spadKey c (if w = 4 then off + i / 2 else off + i * (w / 8)) = key
  dsimp only
  repeat' split
  all_goals first | (with_reducible exact State.write_wf _ _ _ _ h) | (with_reducible exact State.setFull_wf _ _ _ (State.write_wf _ _ _ _ h))

theorem State.writeBeat_wf (s : State) (c off w : Nat) (fill : Bool) (i : Nat) (l : List Nat) (h : s.mem.wf = true) : (s.writeBeat c off w fill i
  l).mem.wf = true := by
  induction l generalizing s i with
  | nil => exact h
  | cons x l ih => unfold State.writeBeat; apply ih; with_reducible repeat' first | assumption | apply State.elemPut_wf

theorem vecBeats_wf (c : Nat) (v : VecCmd) (pre : List Nat) (e k i fl : Nat) (s : State) (h : s.mem.wf = true) : (vecBeats c v pre e k i fl
  s).1.mem.wf = true := by
  induction k generalizing s i fl with
  | zero => exact h
  | succ k ih => unfold vecBeats; apply ih; with_reducible repeat' first | assumption | apply State.writeBeat_wf

theorem vecRun_wf (s : State) (c : Nat) (v : VecCmd) (h : s.mem.wf = true) : (vecRun s c v).1.mem.wf = true := by
  unfold vecRun; repeat' first
    | (with_reducible first
      | assumption | apply State.elemPut_wf | apply vecBeats_wf)
    | refine Keeps.of ?_ (by with_reducible assumption) | split | dsimp only

theorem vectorExecute_wf (c : Nat) (s : State) (hw : s.mem.wf = true) : (vectorExecute c s).mem.wf = true := by
  unfold vectorExecute; repeat' first
    | (with_reducible first | assumption | apply State.disturb_wf | apply State.modCore_wf | apply vecRun_wf)
    | refine Keeps.of ?_ (by with_reducible assumption) | split | dsimp only | intros

theorem execVectorExecute_wf (c : Nat) (s : State) (hw : s.mem.wf = true) : KeepsNext (execVectorExecute c s) := by
  unfold execVectorExecute; with_reducible repeat' first | assumption | apply vectorExecute_wf | apply KeepsNext.next

theorem State.engineDone_wf (s : State) (uid flags : Nat) (hw : s.mem.wf = true) : (State.engineDone s uid flags).mem.wf = true := by
  unfold State.engineDone; with_reducible repeat' first | assumption | apply State.modThreadCounters_wf

theorem vectorFinish_wf (c : Nat) (s : State) (hw : s.mem.wf = true) : (vectorFinish c s).mem.wf = true := by
  unfold vectorFinish; repeat' first
    | (with_reducible first
      | assumption | apply State.engineDone_wf | apply State.modCore_wf)
    | refine Keeps.of ?_ (by with_reducible assumption) | split

theorem execVectorFinish_wf (c : Nat) (s : State) (hw : s.mem.wf = true) : KeepsNext (execVectorFinish c s) := by
  unfold execVectorFinish; with_reducible repeat' first | assumption | apply vectorFinish_wf | apply KeepsNext.next

/-! ## Sequencer.lean -/

theorem State.modSeq_wf (s : State) (c : Nat) (f : Sequencer → Sequencer) (hw : s.mem.wf = true) : (State.modSeq s c f).mem.wf = true := by
  unfold State.modSeq; with_reducible repeat' first | assumption | apply State.modCore_wf

theorem seqIssue_wf (word : Word) (op : SeqOp) (d a : RegCode) (b : Option RegCode) (s : State) (hw : s.mem.wf = true) : Keeps (seqIssue word op d a
  b s) := by
  unfold seqIssue; repeat' first
    | (with_reducible first
      | assumption | apply State.advance_wf | apply State.awaitDest_wf | apply State.consume_wf | apply State.modCore_wf | apply State.modMe_wf
      | apply Keeps.ok | apply Keeps.error)
    | refine Keeps.of ?_ (by with_reducible assumption) | split | dsimp only

theorem execSqtab_wf (d a : BitVec 7) (s : State) (hw : s.mem.wf = true) : KeepsNext (execSqtab d a s) := by
  unfold execSqtab; with_reducible repeat' first | assumption | apply State.finish_wf | apply seqIssue_wf

theorem execSqcfg_wf (d a : BitVec 7) (s : State) (hw : s.mem.wf = true) : KeepsNext (execSqcfg d a s) := by
  unfold execSqcfg; with_reducible repeat' first | assumption | apply State.finish_wf | apply seqIssue_wf

theorem execSqload_wf (d a b : BitVec 7) (s : State) (hw : s.mem.wf = true) : KeepsNext (execSqload d a b s) := by
  unfold execSqload; with_reducible repeat' first | assumption | apply State.finish_wf | apply load_wf | apply seqIssue_wf

theorem execSqstage_wf (d a b : BitVec 7) (s : State) (hw : s.mem.wf = true) : KeepsNext (execSqstage d a b s) := by
  unfold execSqstage; with_reducible repeat' first | assumption | apply State.finish_wf | apply seqIssue_wf

theorem execSqend_wf (d a : BitVec 7) (s : State) (hw : s.mem.wf = true) : KeepsNext (execSqend d a s) := by
  unfold execSqend; with_reducible repeat' first | assumption | apply State.finish_wf | apply seqIssue_wf

theorem execSqdec_wf (d a b : BitVec 7) (s : State) (hw : s.mem.wf = true) : KeepsNext (execSqdec d a b s) := by
  unfold execSqdec; with_reducible repeat' first | assumption | apply State.finish_wf | apply seqIssue_wf

theorem execSqact_wf (d a : BitVec 7) (s : State) (hw : s.mem.wf = true) : KeepsNext (execSqact d a s) := by
  unfold execSqact; with_reducible repeat' first | assumption | apply State.finish_wf | apply seqIssue_wf

theorem execSqhist_wf (d a : BitVec 7) (s : State) (hw : s.mem.wf = true) : KeepsNext (execSqhist d a s) := by
  unfold execSqhist; with_reducible repeat' first | assumption | apply State.finish_wf | apply seqIssue_wf

def SeqKeeps (r : SeqResult) : Prop := ∀ x, r = .ok x → x.1.mem.wf = true
theorem SeqKeeps.ok {x : State × Word × Nat} (h : x.1.mem.wf = true) : SeqKeeps (.ok x) := by intro y e; cases e; exact h
theorem SeqKeeps.error {e : Nat} : SeqKeeps (.error e) := by intro y e; cases e
theorem SeqKeeps.ite {p : Prop} [Decidable p] {a b : SeqResult} (ha : SeqKeeps a) (hb : SeqKeeps b) : SeqKeeps (if p then a else b) := by
  split <;> assumption

theorem seqTab_wf (s : State) (c : Nat) (q : SeqCmd) (h : s.mem.wf = true) : SeqKeeps (seqTab s c q) := by
  unfold seqTab; split; exact SeqKeeps.error
  dsimp only; split; exact SeqKeeps.error
  exact SeqKeeps.ok (State.modSeq_wf _ _ _ h)

theorem seqCfg_wf (s : State) (c : Nat) (q : SeqCmd) (h : s.mem.wf = true) : SeqKeeps (seqCfg s c q) := by
  unfold seqCfg; split; exact SeqKeeps.error
  dsimp only; split; exact SeqKeeps.error
  exact SeqKeeps.ok (State.modSeq_wf _ _ _ h)

theorem seqLoad_wf (s : State) (c : Nat) (q : SeqCmd) (h : s.mem.wf = true) : SeqKeeps (seqLoad s c q) := by
  unfold seqLoad
  match fld q.b 8 2 with
  | 0 =>
    dsimp only
    cases seqBlock s c q.a 8 with
    | error e => exact SeqKeeps.error
    | ok ws => exact SeqKeeps.ite SeqKeeps.error (SeqKeeps.ok (State.modSeq_wf _ _ _ h))
  | 1 =>
    dsimp only
    cases seqBlock s c q.a 8 with
    | error e => exact SeqKeeps.error
    | ok ws => exact SeqKeeps.ok (State.writeWords_wf _ _ _ h)
  | n + 2 => exact SeqKeeps.ok (State.modSeq_wf _ _ _ h)

theorem foldl_fst_wf {α β : Type} (f : State × β → α → State × β) (l : List α) (p : State × β) (h : p.1.mem.wf = true) (hf : ∀ p x, p.1.mem.wf = true
  → (f p x).1.mem.wf = true) :
    (l.foldl f p).1.mem.wf = true := by
  induction l generalizing p with
  | nil => exact h
  | cons x r ih => exact ih _ (hf _ _ h)

theorem seqStageOne_wf (c : Nat) (q : Sequencer) (j rm i : Nat) (s : State) (h : s.mem.wf = true) : (seqStageOne c q j rm i s).1.mem.wf = true := by
  unfold seqStageOne; dsimp only; apply State.write_wf; apply foldl_fst_wf _ _ _ h; intro p x hp; dsimp only; apply State.write_wf; exact hp

theorem seqEndOne_wf (c : Nat) (q : Sequencer) (rm i : Nat) (s : State) (h : s.mem.wf = true) : (seqEndOne c q rm i s).1.mem.wf = true := by
  unfold seqEndOne; dsimp only; apply State.modSeq_wf; apply foldl_fst_wf _ _ _ h; intro p x hp; dsimp only; apply State.write_wf; exact hp

theorem seqEach_wf (f : Nat → State → State × Nat) (hf : ∀ i s, s.mem.wf = true → (f i s).1.mem.wf = true) (l : List Nat) (s : State) (fl : Nat) (h :
  s.mem.wf = true) : (seqEach f l s fl).1.mem.wf = true := by
  induction l generalizing s fl with
  | nil => exact h
  | cons i l ih => unfold seqEach; exact ih _ _ (hf _ _ h)

theorem seqStage_wf (s : State) (c : Nat) (q : SeqCmd) (h : s.mem.wf = true) : SeqKeeps (seqStage s c q) := by
  unfold seqStage; dsimp only; split; exact SeqKeeps.error
  exact SeqKeeps.ok (seqEach_wf _ (fun i t ht => seqStageOne_wf _ _ _ _ i t ht) _ _ _ h)

theorem seqEnd_wf (s : State) (c : Nat) (q : SeqCmd) (h : s.mem.wf = true) : SeqKeeps (seqEnd s c q) := by
  unfold seqEnd; dsimp only; split; exact SeqKeeps.error
  exact SeqKeeps.ok (seqEach_wf _ (fun i t ht => seqEndOne_wf _ _ _ i t ht) _ _ _ h)

theorem seqDecOne_wf (c : Nat) (q : Sequencer) (i : Nat) (s : State) (h : s.mem.wf = true) : (seqDecOne c q i s).1.mem.wf = true := by
  unfold seqDecOne; repeat' first
    | (with_reducible first
      | assumption | apply State.modSeq_wf | apply State.writeBytes_wf)
    | refine Keeps.of ?_ (by with_reducible assumption) | split

theorem seqDec_wf (s : State) (c : Nat) (q : SeqCmd) (h : s.mem.wf = true) : SeqKeeps (seqDec s c q) := by
  unfold seqDec; dsimp only; split; exact SeqKeeps.error
  exact SeqKeeps.ok (seqEach_wf _ (fun i t ht => seqDecOne_wf _ _ i t ht) _ _ _ h)

theorem seqAct_wf (s : State) (c : Nat) (q : SeqCmd) (h : s.mem.wf = true) : SeqKeeps (seqAct s c q) := by
  unfold seqAct; dsimp only
  exact SeqKeeps.ok (State.modSeq_wf _ _ _ h)

theorem seqHist_wf (s : State) (c : Nat) (q : SeqCmd) (h : s.mem.wf = true) : SeqKeeps (seqHist s c q) := by
  unfold seqHist; dsimp only; split
  · exact SeqKeeps.ok (State.modSeq_wf _ _ _ h)
  · exact SeqKeeps.ok (State.modSeq_wf _ _ _ h)

theorem seqRun_wf (s : State) (c : Nat) (q : SeqCmd) (h : s.mem.wf = true) : SeqKeeps (seqRun s c q) := by
  unfold seqRun; split; exact SeqKeeps.error
  split
  · exact seqTab_wf s c q h
  · exact seqCfg_wf s c q h
  · exact seqLoad_wf s c q h
  · exact seqStage_wf s c q h
  · exact seqEnd_wf s c q h
  · exact seqDec_wf s c q h
  · exact seqAct_wf s c q h
  · exact seqHist_wf s c q h

theorem State.disturbAll_wf (s : State) (c : Nat) (l : List (Nat × Nat)) (hw : s.mem.wf = true) : (s.disturbAll c l).mem.wf = true := by
  induction l generalizing s with
  | nil => rw [State.disturbAll]; exact hw
  | cons w l ih => rw [State.disturbAll]; exact ih _ (State.disturb_wf _ _ _ _ hw)

theorem sequencerExecute_wf (c : Nat) (s : State) (h : s.mem.wf = true) : (sequencerExecute c s).mem.wf = true := by
  unfold sequencerExecute; dsimp only
  split
  · split
    · exact State.modCore_wf _ _ _ (State.disturbAll_wf _ _ _ (seqRun_wf _ _ _ h _ (by assumption)))
    · exact State.modCore_wf _ _ _ h
  · exact h

theorem execSequencerExecute_wf (c : Nat) (s : State) (hw : s.mem.wf = true) : KeepsNext (execSequencerExecute c s) := by
  unfold execSequencerExecute; with_reducible repeat' first | assumption | apply sequencerExecute_wf | apply KeepsNext.next

theorem State.engineResult_wf (s : State) (uid reg : Nat) (v : Word) (hw : s.mem.wf = true) : (State.engineResult s uid reg v).mem.wf = true := by
  unfold State.engineResult; repeat' first
    | (with_reducible first | assumption | apply State.arriveReg_wf | apply State.modThread_wf | apply State.unreserve_wf | apply State.wakeThread_wf)
    | refine Keeps.of ?_ (by with_reducible assumption) | split | dsimp only | intros

theorem sequencerFinish_wf (c : Nat) (s : State) (hw : s.mem.wf = true) : (sequencerFinish c s).mem.wf = true := by
  unfold sequencerFinish; repeat' first
    | (with_reducible first
      | assumption | apply State.engineDone_wf | apply State.engineResult_wf | apply State.modCore_wf | apply State.modThread_wf
      | apply State.sendDelivery_wf)
    | refine Keeps.of ?_ (by with_reducible assumption) | split | dsimp only

theorem execSequencerFinish_wf (c : Nat) (s : State) (hw : s.mem.wf = true) : KeepsNext (execSequencerFinish c s) := by
  unfold execSequencerFinish; with_reducible repeat' first | assumption | apply sequencerFinish_wf | apply KeepsNext.next

/-! ## Region.lean -/

theorem State.setRecordState_wf (s : State) (key v : Nat) (hw : s.mem.wf = true) : (State.setRecordState s key v).mem.wf = true := by
  unfold State.setRecordState; with_reducible repeat' first | assumption | apply State.write_wf

theorem State.freeRecord_wf (s : State) (key : Nat) (hw : s.mem.wf = true) : (State.freeRecord s key).mem.wf = true := by
  unfold State.freeRecord; with_reducible repeat' first | assumption | apply State.write_wf

theorem State.freeEntryAt_wf (s : State) (c : Nat) (d : Domain) (e : Nat) (hw : s.mem.wf = true) : (State.freeEntryAt s c d e).mem.wf = true := by
  unfold State.freeEntryAt; with_reducible repeat' first | assumption | apply State.write64_wf

theorem State.moveEntry_wf (s : State) (c : Nat) (d : Domain) (e ord idx : Nat) (hw : s.mem.wf = true) : (State.moveEntry s c d e ord idx).mem.wf =
  true := by
  unfold State.moveEntry; with_reducible repeat' first | assumption | apply State.write64_wf

theorem State.unitSend_wf (s : State) (c t uid ctx : Nat) (sup : Bool) (b : Body) (hw : s.mem.wf = true) : (State.unitSend s c t uid ctx sup
  b).mem.wf = true := by
  unfold State.unitSend; with_reducible repeat' first | assumption | apply State.send_wf

theorem State.regionReply_wf (s : State) (c : Nat) (x : Msg) (r : RegionOp) (v : Word) (cause : Nat) (data : List Nat) (hw : s.mem.wf = true) : (State.regionReply s c x r v cause data).mem.wf = true := by
  unfold State.regionReply; repeat' first
    | (with_reducible first | assumption | apply State.send_wf)
    | refine Keeps.of ?_ (by with_reducible assumption) | split | dsimp only | intros

theorem State.recordApply_wf (s : State) (c : Nat) (x : Msg) (r : RegionOp) (i : Nat) (hw : s.mem.wf = true) : (State.recordApply s c x r i).mem.wf =
  true := by
  unfold State.recordApply; repeat' first
    | (with_reducible first
      | assumption | apply State.freeEntryAt_wf | apply State.freeRecord_wf | apply State.modCore_wf | apply State.regionReply_wf
      | apply State.setRecordState_wf | apply State.unitSend_wf | apply State.writeBytes_wf)
    | refine Keeps.of ?_ (by with_reducible assumption) | split | dsimp only

theorem State.replay_wf (s : State) (c : Nat) (p : Nat × Msg → Bool) (hw : s.mem.wf = true) : (State.replay s c p).mem.wf = true := by
  unfold State.replay; repeat' first
    | (with_reducible first
      | assumption | apply State.modCore_wf | apply State.recordApply_wf | apply foldl_wf)
    | refine Keeps.of ?_ (by with_reducible assumption) | split | dsimp only | intros

theorem State.queryDeliver_wf (s : State) (c : Nat) (q : Query) (v : Word) (hw : s.mem.wf = true) : (State.queryDeliver s c q v).mem.wf = true := by
  unfold State.queryDeliver; repeat' first
    | (with_reducible first
      | assumption | apply State.modCore_wf | apply State.sendDelivery_wf)
    | refine Keeps.of ?_ (by with_reducible assumption) | split | dsimp only

theorem State.queryLower_wf (s : State) (c : Nat) (q : Query) (i : Nat) (hw : s.mem.wf = true) : (State.queryLower s c q i).mem.wf = true := by
  unfold State.queryLower; repeat' first
    | (with_reducible first
      | assumption | apply State.modCore_wf | apply State.replay_wf | apply State.unitSend_wf)
    | refine Keeps.of ?_ (by with_reducible assumption) | split | dsimp only

theorem State.scanPool_wf (s : State) (c : Nat) (d : Domain) (q : Query) (l : List Nat) (n : Nat) (h : s.mem.wf = true) : (s.scanPool c d q l
  n).2.mem.wf = true := by
  induction l generalizing s n with
  | nil => exact h
  | cons i l ih => unfold State.scanPool; dsimp only; repeat' split
                   all_goals (apply ih; first | assumption | repeat' first
                     | (with_reducible first
                       | assumption | apply State.writeBytes_wf)
                     | refine Keeps.of ?_ (by with_reducible assumption) | split | dsimp only | intros)

theorem State.queryScan_wf (s : State) (c : Nat) (q : Query) (i count : Nat) (hw : s.mem.wf = true) : (State.queryScan s c q i count).mem.wf = true
  := by
  unfold State.queryScan; repeat' first
    | (with_reducible first
      | assumption | apply State.queryDeliver_wf | apply State.queryLower_wf | apply State.scanPool_wf | apply State.unitSend_wf)
    | refine Keeps.of ?_ (by with_reducible assumption) | split | dsimp only

theorem State.armStep_wf (s : State) (c : Nat) (a : Msg × Bool) (hw : s.mem.wf = true) : (State.armStep s c a).mem.wf = true := by
  unfold State.armStep; repeat' first
    | (with_reducible first
      | assumption | apply State.modCore_wf | apply State.queryScan_wf | apply State.unitSend_wf)
    | refine Keeps.of ?_ (by with_reducible assumption) | split | dsimp only

theorem State.armAll_wf (s : State) (c : Nat) (hw : s.mem.wf = true) : (State.armAll s c).mem.wf = true := by
  unfold State.armAll; repeat' first
    | (with_reducible first
      | assumption | apply State.armStep_wf | apply State.modCore_wf | apply foldl_wf)
    | refine Keeps.of ?_ (by with_reducible assumption) | split | dsimp only | intros

theorem State.armArrive_wf (s : State) (c : Nat) (x : Msg) (hw : s.mem.wf = true) : (State.armArrive s c x).mem.wf = true := by
  unfold State.armArrive; repeat' first
    | (with_reducible first
      | assumption | apply State.armStep_wf | apply State.queryDeliver_wf)
    | refine Keeps.of ?_ (by with_reducible assumption) | split

theorem State.readTable_wf {s : State} {r : Rights} {a : Word} {n : Nat} (h : s.mem.wf = true) :
    (∀ l t, s.readTable r a n = .ok (l, t) → t.mem.wf = true) ∧ (∀ t, s.readTable r a n = .error t → t.mem.wf = true) := by
  induction n generalizing s a with
  | zero => exact ⟨fun _ _ e => by cases e; exact h, fun _ e => by cases e⟩
  | succ n ih =>
    unfold State.readTable; dsimp only
    split
    · exact ⟨fun _ _ e => (by cases e), fun _ e => by cases e; exact State.enterPageWait_wf _ _ _ _ _ _ _ h⟩
    · exact ⟨fun _ _ e => (by cases e), fun _ e => by cases e; exact State.stop_wf _ _ h⟩
    · rename_i k s1 hk
      have h1 : s1.mem.wf = true := by
        repeat' split at hk
        all_goals (first | contradiction | (cases hk; assumption) | exact State.bulkAccess_wf h hk)
      have hi := ih (a := a + 2) h1
      split
      · exact ⟨fun _ _ e => (by cases e), fun _ e => by cases e; exact hi.2 _ (by assumption)⟩
      · exact ⟨fun _ _ e => by cases e; exact hi.1 _ _ (by assumption), fun _ e => (by cases e)⟩

theorem State.rdomSend_wf (s : State) (reg : Nat) (d : Domain) (create : Bool) (srcs : List Nat) (hw : s.mem.wf = true) : (State.rdomSend s reg d
  create srcs).mem.wf = true := by
  unfold State.rdomSend; repeat' first
    | (with_reducible first
      | assumption | apply State.agentSend_wf | apply State.waitFor_wf | apply KeepsNext.next | apply foldl_wf)
    | refine Keeps.of ?_ (by with_reducible assumption) | split | dsimp only | intros

theorem rdom_wf (word : Word) (d a : RegCode) (s : State) (h : s.mem.wf = true) : Keeps (rdom word d a s) := by
  unfold rdom; dsimp only
  split; exact Keeps.error
  split; exact Keeps.error
  split; exact Keeps.error
  split; exact Keeps.error
  split; exact Keeps.error
  split
  · rename_i s1 e
    split at e
    · exact Keeps.ok ((State.readTable_wf h).2 _ e)
    · cases e
  · rename_i l s1 e
    have h1 : s1.mem.wf = true := by
      split at e
      · exact (State.readTable_wf h).1 _ _ e
      · cases e; exact h
    split; exact State.keepWalk_wf _ _ h1 Keeps.error
    split; exact Keeps.error
    split; exact Keeps.error
    exact Keeps.ok (State.rdomSend_wf _ _ _ _ _ h1)

theorem execRdom_wf (d a : RegCode) (s : State) (hw : s.mem.wf = true) : KeepsNext (execRdom d a s) := by
  unfold execRdom; with_reducible repeat' first | assumption | apply State.finish_wf | apply rdom_wf

theorem State.recordInsert_wf (s : State) (c : Nat) (x : Msg) (r : RegionOp) (hw : s.mem.wf = true) : (State.recordInsert s c x r).mem.wf = true := by
  unfold State.recordInsert; repeat' first
    | (with_reducible first
      | assumption | apply State.regionReply_wf | apply State.write64_wf | apply State.writeBytes_wf)
    | refine Keeps.of ?_ (by with_reducible assumption) | split

theorem State.recordHome_wf (s : State) (c : Nat) (x : Msg) (r : RegionOp) (hw : s.mem.wf = true) : (State.recordHome s c x r).mem.wf = true := by
  unfold State.recordHome; repeat' first
    | (with_reducible first
      | assumption | apply State.recordApply_wf | apply State.regionReply_wf | apply State.unitSend_wf)
    | refine Keeps.of ?_ (by with_reducible assumption) | split | dsimp only

theorem State.recordArrive_wf (s : State) (c : Nat) (x : Msg) (r : RegionOp) (hw : s.mem.wf = true) : (State.recordArrive s c x r).mem.wf = true := by
  unfold State.recordArrive; repeat' first
    | (with_reducible first
      | assumption | apply State.recordHome_wf | apply State.recordInsert_wf)
    | refine Keeps.of ?_ (by with_reducible assumption) | split

theorem State.recordLocal_wf (s : State) (r : RegionOp) (hw : s.mem.wf = true) : (State.recordLocal s r).mem.wf = true :=
  State.unitSend_wf _ _ _ _ _ _ _ hw

theorem record_wf (word : Word) (op : RecordOp) (d a b : RegCode) (s : State) (hw : s.mem.wf = true) : Keeps (record word op d a b s) := by
  unfold record; repeat' first
    | (with_reducible first
      | assumption | apply State.advance_wf | apply State.awaitDest_wf | apply State.consume_wf | apply State.modMe_wf | apply State.recordLocal_wf
      | apply State.request_wf | apply Keeps.ok | apply Keeps.error)
    | refine Keeps.of ?_ (by with_reducible assumption) | split | dsimp only

theorem execRins_wf (d a b : RegCode) (s : State) (hw : s.mem.wf = true) : KeepsNext (execRins d a b s) := by
  unfold execRins; with_reducible repeat' first | assumption | apply State.finish_wf | apply record_wf

theorem execRld_wf (d a b : RegCode) (s : State) (hw : s.mem.wf = true) : KeepsNext (execRld d a b s) := by
  unfold execRld; with_reducible repeat' first | assumption | apply State.finish_wf | apply record_wf

theorem execRst_wf (d a b : RegCode) (s : State) (hw : s.mem.wf = true) : KeepsNext (execRst d a b s) := by
  unfold execRst; with_reducible repeat' first | assumption | apply State.finish_wf | apply record_wf

theorem execRpos_wf (d a b : RegCode) (s : State) (hw : s.mem.wf = true) : KeepsNext (execRpos d a b s) := by
  unfold execRpos; with_reducible repeat' first | assumption | apply State.finish_wf | apply record_wf

theorem execRdel_wf (d a : RegCode) (s : State) (hw : s.mem.wf = true) : KeepsNext (execRdel d a s) := by
  unfold execRdel; with_reducible repeat' first | assumption | apply State.finish_wf | apply record_wf

theorem query_wf (word : Word) (kind : QueryKind) (a b : RegCode) (s : State) (hw : s.mem.wf = true) : Keeps (query word kind a b s) := by
  unfold query; repeat' first
    | (with_reducible first
      | assumption | apply State.armArrive_wf | apply State.completeNone_wf | apply State.queryDeliver_wf | apply State.unitSend_wf
      | apply Keeps.ok | apply Keeps.error | apply KeepsNext.next)
    | refine Keeps.of ?_ (by with_reducible assumption) | split | dsimp only

theorem execRqbox_wf (a b : RegCode) (s : State) (hw : s.mem.wf = true) : KeepsNext (execRqbox a b s) := by
  unfold execRqbox; with_reducible repeat' first | assumption | apply State.finish_wf | apply query_wf

theorem execRqrad_wf (a b : RegCode) (s : State) (hw : s.mem.wf = true) : KeepsNext (execRqrad a b s) := by
  unfold execRqrad; with_reducible repeat' first | assumption | apply State.finish_wf | apply query_wf

theorem execRscan_wf (a b : RegCode) (s : State) (hw : s.mem.wf = true) : KeepsNext (execRscan a b s) := by
  unfold execRscan; with_reducible repeat' first | assumption | apply State.finish_wf | apply query_wf

theorem State.unitTake_wf (s : State) (c : Nat) (x : Msg) (hw : s.mem.wf = true) : (State.unitTake s c x).mem.wf = true := by
  unfold State.unitTake; repeat' first
    | (with_reducible first
      | assumption | apply State.dropMsg_wf | apply State.modCore_wf | apply State.send_wf)
    | refine Keeps.of ?_ (by with_reducible assumption) | split

theorem recordOperation_wf (m : Nat) (s : State) (hw : s.mem.wf = true) : (recordOperation m s).mem.wf = true := by
  unfold recordOperation; repeat' first
    | (with_reducible first
      | assumption | apply State.dropMsg_wf | apply State.recordApply_wf | apply State.recordArrive_wf | apply State.unitTake_wf)
    | refine Keeps.of ?_ (by with_reducible assumption) | split

theorem execRecordOperation_wf (m : Nat) (s : State) (hw : s.mem.wf = true) : KeepsNext (execRecordOperation m s) := by
  unfold execRecordOperation; with_reducible repeat' first | assumption | apply recordOperation_wf | apply KeepsNext.next

theorem recordMove_wf (m : Nat) (s : State) (hw : s.mem.wf = true) : (recordMove m s).mem.wf = true := by
  unfold recordMove; repeat' first
    | (with_reducible first
      | assumption | apply State.dropMsg_wf | apply State.setRecordState_wf | apply State.unitSend_wf | apply State.writeBytes_wf)
    | refine Keeps.of ?_ (by with_reducible assumption) | split | dsimp only

theorem execRecordMove_wf (m : Nat) (s : State) (hw : s.mem.wf = true) : KeepsNext (execRecordMove m s) := by
  unfold execRecordMove; with_reducible repeat' first | assumption | apply recordMove_wf | apply KeepsNext.next

theorem State.departed_wf (s : State) (c i dm idx : Nat) (hw : s.mem.wf = true) : (State.departed s c i dm idx).mem.wf = true := by
  unfold State.departed; repeat' first
    | (with_reducible first
      | assumption | apply State.armAll_wf | apply State.modCore_wf | apply State.replay_wf)
    | refine Keeps.of ?_ (by with_reducible assumption) | split | dsimp only

theorem recordAccept_wf (m : Nat) (s : State) (hw : s.mem.wf = true) : (recordAccept m s).mem.wf = true := by
  unfold recordAccept; repeat' first
    | (with_reducible first
      | assumption | apply State.departed_wf | apply State.dropMsg_wf | apply State.freeRecord_wf | apply State.moveEntry_wf
      | apply State.regionReply_wf | apply State.setRecordState_wf | apply State.unitSend_wf | apply State.write_wf)
    | refine Keeps.of ?_ (by with_reducible assumption) | split | dsimp only

theorem execRecordAccept_wf (m : Nat) (s : State) (hw : s.mem.wf = true) : KeepsNext (execRecordAccept m s) := by
  unfold execRecordAccept; with_reducible repeat' first | assumption | apply recordAccept_wf | apply KeepsNext.next

theorem recordRefuse_wf (m : Nat) (s : State) (h : s.mem.wf = true) : (recordRefuse m s).mem.wf = true := by
  unfold recordRefuse
  split
  · split
    · rename_i x _ _ _ i dm idx c _ _
      have h1 := State.dropMsg_wf s m h
      dsimp only
      split
      · rename_i e _
        have h2 : (match (s.dropMsg m).domainAt c i dm with
          | some d => ((s.dropMsg m).writeBytes (State.poolKey c d idx + 8) e.old []).setRecordState (State.poolKey c d idx) 1
          | none => s.dropMsg m).mem.wf = true := by
          split
          · exact State.setRecordState_wf _ _ _ (State.writeBytes_wf _ _ _ _ h1)
          · exact h1
        split
        · exact State.departed_wf _ _ _ _ _ (State.regionReply_wf _ _ _ _ _ _ _ h2)
        · exact State.departed_wf _ _ _ _ _ h2
      · exact h1
    · exact h
  · exact h

theorem execRecordRefuse_wf (m : Nat) (s : State) (hw : s.mem.wf = true) : KeepsNext (execRecordRefuse m s) := by
  unfold execRecordRefuse; with_reducible repeat' first | assumption | apply recordRefuse_wf | apply KeepsNext.next

theorem recordCommit_wf (m : Nat) (s : State) (hw : s.mem.wf = true) : (recordCommit m s).mem.wf = true := by
  unfold recordCommit; repeat' first
    | (with_reducible first
      | assumption | apply State.dropMsg_wf | apply State.replay_wf | apply State.setRecordState_wf | apply State.write_wf)
    | refine Keeps.of ?_ (by with_reducible assumption) | split | dsimp only

theorem execRecordCommit_wf (m : Nat) (s : State) (hw : s.mem.wf = true) : KeepsNext (execRecordCommit m s) := by
  unfold execRecordCommit; with_reducible repeat' first | assumption | apply recordCommit_wf | apply KeepsNext.next

theorem entryUpdate_wf (m : Nat) (s : State) (hw : s.mem.wf = true) : (entryUpdate m s).mem.wf = true := by
  unfold entryUpdate; repeat' first
    | (with_reducible first
      | assumption | apply State.dropMsg_wf | apply State.freeEntryAt_wf | apply State.freeRecord_wf | apply State.moveEntry_wf
      | apply State.regionReply_wf | apply State.unitSend_wf)
    | refine Keeps.of ?_ (by with_reducible assumption) | split | dsimp only

theorem execEntryUpdate_wf (m : Nat) (s : State) (hw : s.mem.wf = true) : KeepsNext (execEntryUpdate m s) := by
  unfold execEntryUpdate; with_reducible repeat' first | assumption | apply entryUpdate_wf | apply KeepsNext.next

theorem regionReplyAt_wf (m : Nat) (s : State) (hw : s.mem.wf = true) : (regionReplyAt m s).mem.wf = true := by
  unfold regionReplyAt; repeat' first
    | (with_reducible first
      | assumption | apply State.applyReply_wf | apply State.dropMsg_wf | apply State.pendThread_wf | apply State.regionReply_wf
      | apply State.writeBytes_wf)
    | refine Keeps.of ?_ (by with_reducible assumption) | split

theorem execRegionReply_wf (m : Nat) (s : State) (hw : s.mem.wf = true) : KeepsNext (execRegionReply m s) := by
  unfold execRegionReply; with_reducible repeat' first | assumption | apply regionReplyAt_wf | apply KeepsNext.next

theorem queryArm_wf (m : Nat) (s : State) (hw : s.mem.wf = true) : (queryArm m s).mem.wf = true := by
  unfold queryArm; repeat' first
    | (with_reducible first
      | assumption | apply State.armAll_wf | apply State.armArrive_wf | apply State.dropMsg_wf)
    | refine Keeps.of ?_ (by with_reducible assumption) | split

theorem execQueryArm_wf (m : Nat) (s : State) (hw : s.mem.wf = true) : KeepsNext (execQueryArm m s) := by
  unfold execQueryArm; with_reducible repeat' first | assumption | apply queryArm_wf | apply KeepsNext.next

theorem execQueryScan_wf (m : Nat) (s : State) (hw : s.mem.wf = true) : KeepsNext (execQueryScan m s) := by
  unfold execQueryScan; repeat' first
    | (with_reducible first
      | assumption | apply State.dropMsg_wf | apply State.queryScan_wf | apply KeepsNext.next)
    | refine Keeps.of ?_ (by with_reducible assumption) | split

theorem execQueryRelease_wf (m : Nat) (s : State) (hw : s.mem.wf = true) : KeepsNext (execQueryRelease m s) := by
  unfold execQueryRelease; repeat' first
    | (with_reducible first
      | assumption | apply State.armAll_wf | apply State.dropMsg_wf | apply State.queryLower_wf | apply KeepsNext.next)
    | refine Keeps.of ?_ (by with_reducible assumption) | split

theorem foldl_free_wf (k : Nat → Nat) (l : List Nat) (s : State) (h : s.mem.wf = true) : (l.foldl (fun (s : State) x => s.freeRecord (k x)) s).mem.wf
  = true := by
  induction l generalizing s with
  | nil => exact h
  | cons x r ih => exact ih _ (State.freeRecord_wf _ _ h)

theorem foldl_write64_wf (k : Nat → Nat) (l : List Nat) (s : State) (h : s.mem.wf = true) : (l.foldl (fun (s : State) x => s.write64 (k x) 0)
  s).mem.wf = true := by
  induction l generalizing s with
  | nil => exact h
  | cons x r ih => exact ih _ (State.write64_wf _ _ _ h)

theorem State.clearDomain_wf (s : State) (c : Nat) (d : Domain) (h : s.mem.wf = true) : (State.clearDomain s c d).mem.wf = true :=
  foldl_write_wf (fun e : Nat × Nat => spadKey c (d.mapOff + 2 * e.2)) 2 (fun e => e.1) _ _
    (foldl_write64_wf (fun e => State.homeKey c d e) _ _ (foldl_free_wf (fun i => State.poolKey c d i) _ _ h))

theorem domainDescriptor_wf (m : Nat) (s : State) (hw : s.mem.wf = true) : (domainDescriptor m s).mem.wf = true := by
  unfold domainDescriptor; repeat' first
    | (with_reducible first
      | assumption | apply State.agentSend_wf | apply State.clearDomain_wf | apply State.dropMsg_wf | apply State.modCore_wf)
    | refine Keeps.of ?_ (by with_reducible assumption) | split

theorem execDomainDescriptor_wf (m : Nat) (s : State) (hw : s.mem.wf = true) : KeepsNext (execDomainDescriptor m s) := by
  unfold execDomainDescriptor; with_reducible repeat' first | assumption | apply domainDescriptor_wf | apply KeepsNext.next

theorem rdomAnswer_wf (m : Nat) (s : State) (hw : s.mem.wf = true) : (rdomAnswer m s).mem.wf = true := by
  unfold rdomAnswer; repeat' first
    | (with_reducible first
      | assumption | apply State.arriveReg_wf | apply State.dropMsg_wf | apply State.resumeThread_wf)
    | refine Keeps.of ?_ (by with_reducible assumption) | split | dsimp only

theorem execRdomAnswer_wf (m : Nat) (s : State) (hw : s.mem.wf = true) : KeepsNext (execRdomAnswer m s) := by
  unfold execRdomAnswer; with_reducible repeat' first | assumption | apply rdomAnswer_wf | apply KeepsNext.next

/-! ## Group.lean -/

theorem gsplit_wf (word : Word) (d a b : RegCode) (s : State) (hw : s.mem.wf = true) : Keeps (gsplit word d a b s) := by
  unfold gsplit; repeat' first
    | (with_reducible first
      | assumption | apply State.complete_wf | apply State.modMe_wf | apply Keeps.ok | apply Keeps.error)
    | refine Keeps.of ?_ (by with_reducible assumption) | split | dsimp only

theorem execGsplit_wf (d a b : RegCode) (s : State) (hw : s.mem.wf = true) : KeepsNext (execGsplit d a b s) := by
  unfold execGsplit; with_reducible repeat' first | assumption | apply State.finish_wf | apply gsplit_wf

theorem execGrank_wf (d a : RegCode) (s : State) (hw : s.mem.wf = true) : KeepsNext (execGrank d a s) := by
  unfold execGrank; with_reducible repeat' first | assumption | apply State.compute_wf | apply State.finish_wf

end Sys2Proof.Machine
end

