-- ==== Sys2Proof/Laws/MemoryLinks.lean ====
section
/-! SUPPORT. Memory keeps its canonical form, one lemma per operation: page operations, links, migration and the tile engine. -/
namespace Sys2Proof.Machine

open State

/-! ## Paging.lean -/

theorem State.clearHeat_wf (s : State) (e : Word) (hw : s.mem.wf = true) : (State.clearHeat s e).mem.wf = true := by
  unfold State.clearHeat; repeat' first | with_reducible assumption | refine Keeps.of ?_ (by with_reducible assumption) | split

theorem State.startPage_wf (s : State) (o : PageOp) (hw : s.mem.wf = true) : (State.startPage s o).mem.wf = true := by
  unfold State.startPage; with_reducible repeat' first | assumption | apply State.waitFor_wf

theorem State.sendInval_wf (s : State) (op c i va bits : Nat) (all : Bool) (path : List Nat) (hw : s.mem.wf = true) : (State.sendInval s op c i va
  bits all path).mem.wf = true := by
  unfold State.sendInval; with_reducible repeat' first | assumption | apply State.agentSend_wf

theorem State.endPage_wf (s : State) (o : PageOp) (v : Option Word) (hw : s.mem.wf = true) : (State.endPage s o v).mem.wf = true := by
  unfold State.endPage; repeat' first
    | (with_reducible first
      | assumption | apply State.arriveReg_wf | apply State.resumeThread_wf)
    | refine Keeps.of ?_ (by with_reducible assumption) | split | dsimp only

theorem pinval_wf (word : Word) (d : RegCode) (size : BitVec 2) (s : State) (hw : s.mem.wf = true) : Keeps (pinval word d size s) := by
  unfold pinval; repeat' first
    | (with_reducible first
      | assumption | apply State.sendInval_wf | apply State.startPage_wf | apply Keeps.ok | apply Keeps.error | apply KeepsNext.next)
    | refine Keeps.of ?_ (by with_reducible assumption) | split

theorem execPinval_wf (d : RegCode) (size : BitVec 2) (s : State) (hw : s.mem.wf = true) : KeepsNext (execPinval d size s) := by
  unfold execPinval; with_reducible repeat' first | assumption | apply State.finish_wf | apply pinval_wf

theorem pmap_wf (word : Word) (d : RegCode) (s : State) (hw : s.mem.wf = true) : Keeps (pmap word d s) := by
  unfold pmap; repeat' first
    | (with_reducible first
      | assumption | apply State.startPage_wf | apply Keeps.ok | apply Keeps.error)
    | refine Keeps.of ?_ (by with_reducible assumption) | split

theorem execPmap_wf (d : RegCode) (s : State) (hw : s.mem.wf = true) : KeepsNext (execPmap d s) := by
  unfold execPmap; with_reducible repeat' first | assumption | apply State.finish_wf | apply pmap_wf

theorem pheat_wf (word : Word) (d : RegCode) (s : State) (hw : s.mem.wf = true) : Keeps (pheat word d s) := by
  unfold pheat; repeat' first
    | (with_reducible first
      | assumption | apply State.startPage_wf | apply Keeps.ok | apply Keeps.error)
    | refine Keeps.of ?_ (by with_reducible assumption) | split

theorem execPheat_wf (d : RegCode) (s : State) (hw : s.mem.wf = true) : KeepsNext (execPheat d s) := by
  unfold execPheat; with_reducible repeat' first | assumption | apply State.finish_wf | apply pheat_wf

theorem pmove_wf (word : Word) (d : RegCode) (s : State) (hw : s.mem.wf = true) : Keeps (pmove word d s) := by
  unfold pmove; repeat' first
    | (with_reducible first
      | assumption | apply State.complete_wf | apply State.sendInval_wf | apply State.startPage_wf | apply State.write64_wf | apply Keeps.ok
      | apply Keeps.error | apply KeepsNext.next)
    | refine Keeps.of ?_ (by with_reducible assumption) | split | dsimp only

theorem execPmove_wf (d : RegCode) (s : State) (hw : s.mem.wf = true) : KeepsNext (execPmove d s) := by
  unfold execPmove; with_reducible repeat' first | assumption | apply State.finish_wf | apply pmove_wf

theorem invalidation_wf (m : Nat) (s : State) (hw : s.mem.wf = true) : (invalidation m s).mem.wf = true := by
  unfold invalidation; repeat' first
    | (with_reducible first
      | assumption | apply State.agentSend_wf | apply State.dropMsg_wf | apply State.modCore_wf | apply State.sendAs_wf)
    | refine Keeps.of ?_ (by with_reducible assumption) | split

theorem execInvalidation_wf (m : Nat) (s : State) (hw : s.mem.wf = true) : KeepsNext (execInvalidation m s) := by
  unfold execInvalidation; with_reducible repeat' first | assumption | apply invalidation_wf | apply KeepsNext.next

theorem invalidationAck_wf (m : Nat) (s : State) (hw : s.mem.wf = true) : (invalidationAck m s).mem.wf = true := by
  unfold invalidationAck; repeat' first
    | (with_reducible first
      | assumption | apply State.dropMsg_wf | apply State.endPage_wf)
    | refine Keeps.of ?_ (by with_reducible assumption) | split | dsimp only

theorem execInvalidationAck_wf (m : Nat) (s : State) (hw : s.mem.wf = true) : KeepsNext (execInvalidationAck m s) := by
  unfold execInvalidationAck; with_reducible repeat' first | assumption | apply invalidationAck_wf | apply KeepsNext.next

theorem pmoveCopyDone_wf (id : Nat) (s : State) (hw : s.mem.wf = true) : (pmoveCopyDone id s).mem.wf = true := by
  unfold pmoveCopyDone; repeat' first
    | (with_reducible first
      | assumption | apply State.clearHeat_wf | apply State.endPage_wf | apply State.write64_wf | apply State.writeBytes_wf)
    | refine Keeps.of ?_ (by with_reducible assumption) | split

theorem execPmoveCopyDone_wf (m : Nat) (s : State) (hw : s.mem.wf = true) : KeepsNext (execPmoveCopyDone m s) := by
  unfold execPmoveCopyDone; with_reducible repeat' first | assumption | apply pmoveCopyDone_wf | apply KeepsNext.next

theorem pmapComplete_wf (id : Nat) (s : State) (hw : s.mem.wf = true) : (pmapComplete id s).mem.wf = true := by
  unfold pmapComplete; repeat' first
    | (with_reducible first
      | assumption | apply State.clearHeat_wf | apply State.endPage_wf | apply State.write64_wf | apply Keeps.ok | apply Keeps.error)
    | refine Keeps.of ?_ (by with_reducible assumption) | split | dsimp only

theorem execPmapComplete_wf (m : Nat) (s : State) (hw : s.mem.wf = true) : KeepsNext (execPmapComplete m s) := by
  unfold execPmapComplete; with_reducible repeat' first | assumption | apply pmapComplete_wf | apply KeepsNext.next

theorem pheatComplete_wf (id : Nat) (s : State) (hw : s.mem.wf = true) : (pheatComplete id s).mem.wf = true := by
  unfold pheatComplete; repeat' first
    | (with_reducible first
      | assumption | apply State.clearHeat_wf | apply State.endPage_wf | apply Keeps.ok | apply Keeps.error)
    | refine Keeps.of ?_ (by with_reducible assumption) | split | dsimp only

theorem execPheatComplete_wf (m : Nat) (s : State) (hw : s.mem.wf = true) : KeepsNext (execPheatComplete m s) := by
  unfold execPheatComplete; with_reducible repeat' first | assumption | apply pheatComplete_wf | apply KeepsNext.next

theorem heatUpdate_wf (m : Nat) (s : State) (hw : s.mem.wf = true) : (heatUpdate m s).mem.wf = true := by
  unfold heatUpdate; repeat' first
    | (with_reducible first | assumption | apply State.dropMsg_wf) | refine Keeps.of ?_ (by with_reducible assumption) | split

theorem execHeatUpdate_wf (m : Nat) (s : State) (hw : s.mem.wf = true) : KeepsNext (execHeatUpdate m s) := by
  unfold execHeatUpdate; with_reducible repeat' first | assumption | apply heatUpdate_wf | apply KeepsNext.next

theorem pwakeSend_wf (m : Nat) (s : State) (hw : s.mem.wf = true) : (pwakeSend m s).mem.wf = true := by
  unfold pwakeSend; repeat' first
    | (with_reducible first
      | assumption | apply State.agentSend_wf | apply State.dropMsg_wf)
    | refine Keeps.of ?_ (by with_reducible assumption) | split | dsimp only

theorem execPwake_wf (m : Nat) (s : State) (hw : s.mem.wf = true) : KeepsNext (execPwake m s) := by
  unfold execPwake; with_reducible repeat' first | assumption | apply pwakeSend_wf | apply KeepsNext.next

theorem leavePageWait_wf (t : Nat) (s : State) (hw : s.mem.wf = true) : (leavePageWait t s).mem.wf = true := by
  unfold leavePageWait; repeat' first
    | (with_reducible first | assumption | apply State.modSlot_wf)
    | refine Keeps.of ?_ (by with_reducible assumption) | split | dsimp only | intros

theorem wakePaged_wf (t out : Nat) (s : State) (hw : s.mem.wf = true) : (wakePaged t out s).mem.wf = true := by
  unfold wakePaged; repeat' first
    | (with_reducible first | assumption | apply State.advance_wf | apply State.copyFail_wf | apply State.lateTrap_wf | apply State.modSlot_wf | apply leavePageWait_wf)
    | refine Keeps.of ?_ (by with_reducible assumption) | split | dsimp only | intros

theorem wakeImage_wf (e : Evicted) (out : Nat) (s : State) (hw : s.mem.wf = true) : (wakeImage e out s).mem.wf = true := by
  unfold wakeImage; repeat' first
    | (with_reducible first
      | assumption | apply State.modThread_wf | apply State.pendThread_wf)
    | refine Keeps.of ?_ (by with_reducible assumption) | split

theorem pageWake_wf (m : Nat) (s : State) (hw : s.mem.wf = true) : (pageWake m s).mem.wf = true := by
  unfold pageWake; repeat' first
    | (with_reducible first
      | assumption | apply State.dropMsg_wf | apply State.modCore_wf | apply wakeImage_wf | apply wakePaged_wf)
    | refine Keeps.of ?_ (by with_reducible assumption) | split | dsimp only

theorem execPageWake_wf (m : Nat) (s : State) (hw : s.mem.wf = true) : KeepsNext (execPageWake m s) := by
  unfold execPageWake; with_reducible repeat' first | assumption | apply pageWake_wf | apply KeepsNext.next

/-! ## Link.lean -/

theorem State.modLink_wf (s : State) (l : Nat) (f : LinkRec → LinkRec) (hw : s.mem.wf = true) : (State.modLink s l f).mem.wf = true := by
  unfold State.modLink; exact hw

theorem State.linkEvent_wf (s : State) (w : Word) (hw : s.mem.wf = true) : (State.linkEvent s w).mem.wf = true := by
  unfold State.linkEvent; exact hw

theorem State.changeLink_wf (s : State) (l : Nat) (f : LinkRec → LinkRec) (hw : s.mem.wf = true) : (State.changeLink s l f).mem.wf = true := by
  unfold State.changeLink; repeat' first
    | (with_reducible first
      | assumption | apply State.linkEvent_wf | apply State.modLink_wf)
    | refine Keeps.of ?_ (by with_reducible assumption) | split | dsimp only

theorem State.setReachable_wf (s : State) (d p : Nat) (up : Bool) (hw : s.mem.wf = true) : (State.setReachable s d p up).mem.wf = true := by
  unfold State.setReachable; repeat' first
    | (with_reducible first | assumption | apply State.linkEvent_wf) | refine Keeps.of ?_ (by with_reducible assumption) | split

theorem State.deliverNotice_wf (s : State) (hw : s.mem.wf = true) : (State.deliverNotice s).mem.wf = true := by
  unfold State.deliverNotice; repeat' first
    | (with_reducible first
      | assumption | apply State.agentSend_wf | apply State.deliver_wf | apply State.notice_wf | apply State.sendAbroad_wf)
    | refine Keeps.of ?_ (by with_reducible assumption) | split | dsimp only

theorem State.writeLinkNote_wf (s : State) (nm : Word) (hw : s.mem.wf = true) : (State.writeLinkNote s nm).mem.wf = true := by
  unfold State.writeLinkNote; with_reducible repeat' first | assumption | apply State.deliverNotice_wf

theorem cells_wf (word : Word) (rel : Bool) (d n : RegCode) (s : State) (hw : s.mem.wf = true) : Keeps (cells word rel d n s) := by
  unfold cells; repeat' first
    | (with_reducible first | assumption | apply Keeps.error | apply Keeps.ok | apply State.sendFlits_wf | apply State.send_wf | apply State.waitFor_wf)
    | refine Keeps.of ?_ (by with_reducible assumption) | split | dsimp only | intros

theorem execCellres_wf (d n : RegCode) (s : State) (hw : s.mem.wf = true) : KeepsNext (execCellres d n s) := by
  unfold execCellres; with_reducible repeat' first | assumption | apply State.finish_wf | apply cells_wf

theorem execCellrel_wf (d n : RegCode) (s : State) (hw : s.mem.wf = true) : KeepsNext (execCellrel d n s) := by
  unfold execCellrel; with_reducible repeat' first | assumption | apply State.finish_wf | apply cells_wf

theorem linkw_wf (word : Word) (d : RegCode) (w : BitVec 4) (s : State) (hw : s.mem.wf = true) : Keeps (linkw word d w s) := by
  unfold linkw; repeat' first
    | (with_reducible first | assumption | apply Keeps.error | apply Keeps.ok | apply State.sendFlits_wf | apply State.send_wf | apply State.waitFor_wf)
    | refine Keeps.of ?_ (by with_reducible assumption) | split | dsimp only | intros

theorem execLinkw_wf (d : RegCode) (w : BitVec 4) (s : State) (hw : s.mem.wf = true) : KeepsNext (execLinkw d w s) := by
  unfold execLinkw; with_reducible repeat' first | assumption | apply State.finish_wf | apply linkw_wf

theorem gateAnswer_wf (uid reg : Nat) (v : Word) (s : State) (hw : s.mem.wf = true) : (gateAnswer uid reg v s).mem.wf = true := by
  unfold gateAnswer; with_reducible repeat' first | assumption | apply State.arriveReg_wf | apply State.resumeThread_wf

theorem cellReservation_wf (m : Nat) (s : State) (hw : s.mem.wf = true) : (cellReservation m s).mem.wf = true := by
  unfold cellReservation; repeat' first
    | (with_reducible first
      | assumption | apply State.dropMsg_wf | apply cells_wf | apply gateAnswer_wf)
    | refine Keeps.of ?_ (by with_reducible assumption) | split

theorem execCellReservation_wf (m : Nat) (s : State) (hw : s.mem.wf = true) : KeepsNext (execCellReservation m s) := by
  unfold execCellReservation; with_reducible repeat' first | assumption | apply cellReservation_wf | apply KeepsNext.next

theorem State.resendLink_wf (s : State) (l : Nat) (hw : s.mem.wf = true) : (State.resendLink s l).mem.wf = true := by
  unfold State.resendLink; repeat' first
    | (with_reducible first | assumption)
    | refine Keeps.of ?_ (by with_reducible assumption) | split | dsimp only | intros

theorem linkwRequest_wf (m : Nat) (s : State) (hw : s.mem.wf = true) : (linkwRequest m s).mem.wf = true := by
  unfold linkwRequest; repeat' first
    | (with_reducible first
      | assumption | apply State.changeLink_wf | apply State.dropMsg_wf | apply State.modLink_wf | apply gateAnswer_wf | apply linkw_wf)
    | refine Keeps.of ?_ (by with_reducible assumption) | split

theorem execLinkwRequest_wf (m : Nat) (s : State) (hw : s.mem.wf = true) : KeepsNext (execLinkwRequest m s) := by
  unfold execLinkwRequest; with_reducible repeat' first | assumption | apply linkwRequest_wf | apply KeepsNext.next

theorem linkWidthChange_wf (l : Nat) (s : State) (hw : s.mem.wf = true) : (linkWidthChange l s).mem.wf = true := by
  unfold linkWidthChange; repeat' first
    | (with_reducible first | assumption | apply State.changeLink_wf | apply State.resendLink_wf | apply gateAnswer_wf)
    | refine Keeps.of ?_ (by with_reducible assumption) | split | dsimp only | intros

theorem execLinkWidthChange_wf (l : Nat) (s : State) (hw : s.mem.wf = true) : KeepsNext (execLinkWidthChange l s) := by
  unfold execLinkWidthChange; with_reducible repeat' first | assumption | apply linkWidthChange_wf | apply KeepsNext.next

theorem linkDown_wf (l : Nat) (s : State) (hw : s.mem.wf = true) : (linkDown l s).mem.wf = true := by
  unfold linkDown; repeat' first
    | (with_reducible first | assumption | apply State.changeLink_wf | apply State.resendLink_wf)
    | refine Keeps.of ?_ (by with_reducible assumption) | split | dsimp only | intros

theorem execLinkDown_wf (l : Nat) (s : State) (hw : s.mem.wf = true) : KeepsNext (execLinkDown l s) := by
  unfold execLinkDown; with_reducible repeat' first | assumption | apply linkDown_wf | apply KeepsNext.next

theorem linkTrained_wf (l : Nat) (s : State) (hw : s.mem.wf = true) : (linkTrained l s).mem.wf = true := by
  unfold linkTrained; repeat' first
    | (with_reducible first | assumption | apply State.changeLink_wf) | refine Keeps.of ?_ (by with_reducible assumption) | split | dsimp only

theorem execLinkTrained_wf (l : Nat) (s : State) (hw : s.mem.wf = true) : KeepsNext (execLinkTrained l s) := by
  unfold execLinkTrained; with_reducible repeat' first | assumption | apply linkTrained_wf | apply KeepsNext.next

theorem execLinkNotice_wf (s : State) (hw : s.mem.wf = true) : KeepsNext (execLinkNotice s) := by
  unfold execLinkNotice; with_reducible repeat' first | assumption | apply State.deliverNotice_wf | apply KeepsNext.next

theorem execLinknoteWrite_wf (name : BitVec 64) (s : State) (hw : s.mem.wf = true) : KeepsNext (execLinknoteWrite name s) := by
  unfold execLinknoteWrite; with_reducible repeat' first | assumption | apply State.writeLinkNote_wf | apply KeepsNext.next

theorem State.packetize_wf (s : State) (l : Nat) (x : Msg) (hw : s.mem.wf = true) : (State.packetize s l x).mem.wf = true := by
  unfold State.packetize; repeat' first
    | (with_reducible first | assumption | apply cells_wf)
    | refine Keeps.of ?_ (by with_reducible assumption) | split | dsimp only | intros

theorem linkFrame_wf (l : Nat) (s : State) (hw : s.mem.wf = true) : (linkFrame l s).mem.wf = true := by
  unfold linkFrame
  split
  · exact hw
  · dsimp only
    apply State.modLink_wf
    refine foldl_wf _ _ _ ?_ fun x m h => State.packetize_wf _ _ _ h
    exact foldl_wf _ _ _ hw fun x e h => State.setReachable_wf _ _ _ _ h

theorem execLinkFrame_wf (l : Nat) (s : State) (hw : s.mem.wf = true) : KeepsNext (execLinkFrame l s) := by
  unfold execLinkFrame; with_reducible repeat' first | assumption | apply linkFrame_wf | apply KeepsNext.next

theorem cellResend_wf (m : Nat) (s : State) (hw : s.mem.wf = true) : (cellResend m s).mem.wf = true := by
  unfold cellResend; repeat' first | with_reducible assumption | refine Keeps.of ?_ (by with_reducible assumption) | split

theorem execCellResend_wf (m : Nat) (s : State) (hw : s.mem.wf = true) : KeepsNext (execCellResend m s) := by
  unfold execCellResend; with_reducible repeat' first | assumption | apply cellResend_wf | apply KeepsNext.next

theorem packageUnreachable_wf (d p : Nat) (s : State) (hw : s.mem.wf = true) : (packageUnreachable d p s).mem.wf = true := by
  unfold packageUnreachable
  split
  · exact hw
  · exact State.failAbroad_wf _ _ (State.setReachable_wf _ _ _ _ hw)

theorem execPackageUnreachable_wf (d p : Nat) (s : State) (hw : s.mem.wf = true) : KeepsNext (execPackageUnreachable d p s) := by
  unfold execPackageUnreachable; with_reducible repeat' first | assumption | apply packageUnreachable_wf | apply KeepsNext.next

theorem passOn_wf (c : Cell) (s : State) (hw : s.mem.wf = true) : (passOn c s).mem.wf = true := by
  unfold passOn; repeat' first
    | (with_reducible first | assumption | apply State.answerOutstanding_wf | apply State.send_wf | apply State.takeCredit_wf | apply State.withdraw_wf)
    | refine Keeps.of ?_ (by with_reducible assumption) | split | dsimp only | intros

theorem passAll_wf (n : Nat) (s : State) (h : s.mem.wf = true) : (passAll n s).mem.wf = true := by
  induction n generalizing s with
  | zero => exact h
  | succ n ih => unfold passAll; split; (apply ih; exact passOn_wf _ _ h); exact h

theorem cellReceive_wf (d : Nat) (c : Cell) (s : State) (hw : s.mem.wf = true) : (cellReceive d c s).mem.wf = true := by
  unfold cellReceive; repeat' first
    | (with_reducible first | assumption | apply passAll_wf) | refine Keeps.of ?_ (by with_reducible assumption) | split | dsimp only

theorem execCreditReturn_wf (m : Nat) (s : State) (hw : s.mem.wf = true) : KeepsNext (execCreditReturn m s) := by
  unfold execCreditReturn; with_reducible repeat' first | assumption | apply returnCredit_wf | apply passAll_wf | apply KeepsNext.next

theorem execCellReceive_wf (d : Nat) (cell : Cell) (s : State) (hw : s.mem.wf = true) : KeepsNext (execCellReceive d cell s) := by
  unfold execCellReceive; with_reducible repeat' first | assumption | apply cellReceive_wf | apply KeepsNext.next

theorem fabricPages_wf (r : Rights) (write : Bool) (f va n : Nat) (s : State) (hw : s.mem.wf = true) :
    (fabricPages r write f va n s).2.mem.wf = true := by
  induction f generalizing va n s with
  | zero => exact hw
  | succ f ih =>
    unfold fabricPages; dsimp only
    split
    · exact hw
    · split
      · exact hw
      · rename_i e level _ _
        have h1 := State.sendHeatFrom_wf s (.gate 0) e hw
        have h2 := ih (va + min n (0x10000 - va % 0x10000)) (n - min n (0x10000 - va % 0x10000)) _ h1
        split
        · exact h1
        · split
          · rename_i h; rw [h] at h2; exact h2
          · exact h2

theorem fabricParts_wf (r : Rights) (addr : Word) (f : Fabric) (s : State) (hw : s.mem.wf = true) :
    (fabricParts r addr f s).2.mem.wf = true := by
  unfold fabricParts
  repeat' split
  all_goals first | exact hw | exact fabricPages_wf _ _ _ _ _ _ hw

theorem writeParts_wf (l : List (Nat × Nat)) (data : List Nat) (s : State) (hw : s.mem.wf = true) : (writeParts l data s).mem.wf = true := by
  induction l generalizing data s with
  | nil => exact hw
  | cons p l ih => exact ih _ _ (State.storeBytes_wf _ _ _ _ hw)

theorem fabricAccess_wf (parts : List (Nat × Nat)) (f : Fabric) (s : State) (hw : s.mem.wf = true) : (fabricAccess parts f s).2.mem.wf = true := by
  unfold fabricAccess; repeat' first
    | (with_reducible first | assumption | apply State.applyRun_wf | apply State.store_wf | apply State.writeBytes_wf | apply State.write_wf | apply store_wf | apply writeParts_wf)
    | refine Keeps.of ?_ (by with_reducible assumption) | split | dsimp only | intros

theorem fabricRequest_wf (m : Nat) (s : State) (hw : s.mem.wf = true) : (fabricRequest m s).mem.wf = true := by
  unfold fabricRequest
  split
  · rename_i x _
    split
    · rename_i addr f _ _ _
      have h1 := fabricParts_wf { ctx := x.ctx, sup := x.sup } addr f s hw
      split
      · rename_i k s1 e; rw [e] at h1; exact State.respond_wf _ _ _ h1
      · rename_i parts s1 e
        rw [e] at h1
        dsimp only
        split
        · exact hw
        · exact State.sendAs_wf _ _ (State.takeCredit_wf _ _ _ (State.dropMsg_wf _ _ h1))
    · dsimp only; exact State.respond_wf _ _ _ (fabricAccess_wf _ _ _ hw)
    · exact hw
  · exact hw

theorem execFabricRequest_wf (m : Nat) (s : State) (hw : s.mem.wf = true) : KeepsNext (execFabricRequest m s) := by
  unfold execFabricRequest; with_reducible repeat' first | assumption | apply fabricRequest_wf | apply KeepsNext.next

/-! ## Migrate.lean -/

theorem execHome_wf (s : State) (hw : s.mem.wf = true) : KeepsNext (execHome s) := by
  unfold execHome; repeat' first
    | (with_reducible first
      | assumption | apply State.askHome_wf | apply State.completeNone_wf | apply State.finish_wf | apply Keeps.ok | apply Keeps.error)
    | refine Keeps.of ?_ (by with_reducible assumption) | split

theorem createFrom_wf (s : State) (t base : Nat) (r : Record) (home : Bool) (hw : s.mem.wf = true) : (createFrom s t base r home).mem.wf = true := by
  unfold createFrom; repeat' first
    | (with_reducible first
      | assumption | apply State.createAt_wf | apply State.modSlot_wf | apply State.setRegFull_wf | apply State.setRegValue_wf
      | apply State.touch_wf | apply foldl_wf)
    | refine Keeps.of ?_ (by with_reducible assumption) | split | dsimp only | intros

theorem forwardNames_wf (s : State) (c n p core slot : Nat) (hw : s.mem.wf = true) : (forwardNames s c n p core slot).mem.wf = true := by
  unfold forwardNames; repeat' first
    | (with_reducible first
      | assumption | apply State.setName_wf | apply foldl_wf)
    | refine Keeps.of ?_ (by with_reducible assumption) | split | dsimp only | intros

theorem prepareLeave_wf (t p core slot : Nat) (home : Bool) (after : Bool) (s : State) (hw : s.mem.wf = true) : (prepareLeave t p core slot home
  after s).mem.wf = true := by
  unfold prepareLeave; repeat' first
    | (with_reducible first
      | assumption | apply State.advance_wf | apply State.modSlot_wf | apply State.send_wf | apply forwardNames_wf | apply foldl_wf)
    | refine Keeps.of ?_ (by with_reducible assumption) | split | dsimp only | intros

theorem migrationHeat_wf (r : Rights) (addr : Word) (s : State) (hw : s.mem.wf = true) : (migrationHeat r addr s).mem.wf = true := by
  unfold migrationHeat; repeat' first
    | (with_reducible first | assumption | apply State.sendHeats_wf)
    | refine Keeps.of ?_ (by with_reducible assumption) | split | dsimp only | intros

theorem answerAbroad_wf (x : Msg) (cause : Nat) (data : List Word) (s : State) (hw : s.mem.wf = true) : (answerAbroad x cause data s).mem.wf = true
  := by
  unfold answerAbroad; with_reducible repeat' first | assumption | apply State.dropMsg_wf | apply State.sendAs_wf

theorem reserveFor_wf (c ctx : Nat) (slots : List Nat) (s : State) (h : s.mem.wf = true) : (reserveFor c ctx slots s).2.2.mem.wf = true := by
  unfold reserveFor; repeat' first
    | (with_reducible first | assumption | apply State.setSlot_wf | apply State.modSlot_wf) | refine Keeps.of ?_ (by with_reducible assumption) | split

theorem migrationRequest_wf (m : Nat) (s : State) (hw : s.mem.wf = true) : (migrationRequest m s).mem.wf = true := by
  unfold migrationRequest; repeat' first
    | (with_reducible first | assumption | apply State.dropMsg_wf | apply State.retryThread_wf | apply State.trapThread_wf | apply answerAbroad_wf | apply migrationHeat_wf | apply prepareLeave_wf | apply reserveFor_wf)
    | refine Keeps.of ?_ (by with_reducible assumption) | split | dsimp only | intros

theorem execMigrationRequest_wf (m : Nat) (s : State) (hw : s.mem.wf = true) : KeepsNext (execMigrationRequest m s) := by
  unfold execMigrationRequest; with_reducible repeat' first | assumption | apply migrationRequest_wf | apply KeepsNext.next

theorem State.sendRecord_wf (s : State) (t p place : Nat) (home : Bool) (hw : s.mem.wf = true) : (State.sendRecord s t p place home).mem.wf = true := by
  unfold State.sendRecord; repeat' first
    | (with_reducible first | assumption | apply State.modSlot_wf | apply State.sendAbroad_wf | apply State.send_wf)
    | refine Keeps.of ?_ (by with_reducible assumption) | split | dsimp only | intros

theorem migrationDeparture_wf (u : Nat) (s : State) (hw : s.mem.wf = true) : (migrationDeparture u s).mem.wf = true := by
  unfold migrationDeparture
  split
  · dsimp only
    split
    · split
      · exact hw
      · exact State.modSlot_wf _ _ _ (State.inject_wf _ _ _ _ (State.sendRecord_wf _ _ _ _ _ hw))
    · exact hw
  · exact hw

theorem execMigrationDeparture_wf (u : Nat) (s : State) (hw : s.mem.wf = true) : KeepsNext (execMigrationDeparture u s) := by
  unfold execMigrationDeparture; with_reducible repeat' first | assumption | apply migrationDeparture_wf | apply KeepsNext.next

theorem arriveRecord_wf (c slot : Nat) (r : Record) (home : Bool) (s : State) (hw : s.mem.wf = true) : (arriveRecord c slot r home s).mem.wf = true
  := by
  unfold arriveRecord; repeat' first
    | (with_reducible first
      | assumption | apply State.agentSend_wf | apply State.modSlot_wf | apply createFrom_wf | apply foldl_wf)
    | refine Keeps.of ?_ (by with_reducible assumption) | split | dsimp only | intros

theorem migrationArrive_wf (m : Nat) (s : State) (hw : s.mem.wf = true) : (migrationArrive m s).mem.wf = true := by
  unfold migrationArrive; repeat' first
    | (with_reducible first | assumption | apply State.dropMsg_wf | apply arriveRecord_wf) | refine Keeps.of ?_ (by with_reducible assumption) | split

theorem execMigrationArrive_wf (m : Nat) (s : State) (hw : s.mem.wf = true) : KeepsNext (execMigrationArrive m s) := by
  unfold execMigrationArrive; with_reducible repeat' first | assumption | apply migrationArrive_wf | apply KeepsNext.next

theorem homeArrive_wf (m : Nat) (s : State) (hw : s.mem.wf = true) : (homeArrive m s).mem.wf = true := by
  unfold homeArrive; repeat' first
    | (with_reducible first | assumption | apply answerAbroad_wf | apply arriveRecord_wf)
    | refine Keeps.of ?_ (by with_reducible assumption) | split | dsimp only | intros

theorem execHomeArrive_wf (m : Nat) (s : State) (hw : s.mem.wf = true) : KeepsNext (execHomeArrive m s) := by
  unfold execHomeArrive; with_reducible repeat' first | assumption | apply homeArrive_wf | apply KeepsNext.next

/-! ## Tile.lean -/

theorem tcmd_wf (word : Word) (k : BitVec 3) (a : RegCode) (w : BitVec 1) (b : BitVec 3) (s : State) (hw : s.mem.wf = true) : Keeps (tcmd word k a w
  b s) := by
  unfold tcmd; repeat' first
    | (with_reducible first
      | assumption | apply State.seeTiles_wf | apply State.completeNone_wf | apply State.modCore_wf | apply State.modMe_wf | apply State.parkMe_wf | apply Keeps.ok
      | apply Keeps.error)
    | refine Keeps.of ?_ (by with_reducible assumption) | split | dsimp only

theorem execTcmd_wf (k : BitVec 3) (a : RegCode) (w : BitVec 1) (b : BitVec 3) (s : State) (hw : s.mem.wf = true) : KeepsNext (execTcmd k a w b s) :=
  by
  unfold execTcmd; with_reducible repeat' first | assumption | apply State.finish_wf | apply tcmd_wf

theorem State.spoilHalf_wf (s : State) (c i : Nat) (h : s.mem.wf = true) : (State.spoilHalf s c i).mem.wf = true := by
  unfold State.spoilHalf; exact State.freed_wf _ _ (State.modMatrix_wf _ _ _ h)

theorem State.tileRun_wf {s : State} {c : Nat} {op : TileOp} {a} {t : State} (h : s.mem.wf = true) (e : s.tileRun c op = some (a, t)) : t.mem.wf =
  true := by
  unfold State.tileRun at e; dsimp only at e
  repeat' split at e
  all_goals (first | contradiction | (cases e; repeat' first
    | (with_reducible first
      | assumption | apply State.modMatrix_wf)
    | refine Keeps.of ?_ (by with_reducible assumption) | split | dsimp only | intros))

theorem State.setRun_wf (s : State) (c : Nat) (r : TileRun) (hw : s.mem.wf = true) : (State.setRun s c r).mem.wf = true := by
  unfold State.setRun; with_reducible repeat' first | assumption | apply State.modMatrix_wf

theorem State.tileEnd_wf (s : State) (c : Nat) (r : TileRun) (flags : Nat) (hw : s.mem.wf = true) : (State.tileEnd s c r flags).mem.wf = true := by
  unfold State.tileEnd; with_reducible repeat' first | assumption | apply State.setRun_wf

theorem State.tileFail_wf (s : State) (c : Nat) (r : TileRun) (cause operand : Nat) (hw : s.mem.wf = true) : (State.tileFail s c r cause
  operand).mem.wf = true := by
  unfold State.tileFail; repeat' first
    | (with_reducible first
      | assumption | apply State.setRun_wf | apply State.spoilAcc_wf)
    | refine Keeps.of ?_ (by with_reducible assumption) | split

theorem multiply_wf (op : TileOp) (c : Nat) (s : State) (hw : s.mem.wf = true) : (multiply op c s).mem.wf = true := by
  unfold multiply; repeat' first
    | (with_reducible first
      | assumption | apply State.modMatrix_wf | apply State.setRun_wf | apply State.tileEnd_wf | apply State.tileFail_wf | apply Keeps.ok
      | apply Keeps.error)
    | refine State.tileRun_wf ?_ (by with_reducible assumption) | refine Keeps.of ?_ (by with_reducible assumption) | split | dsimp only

theorem execMma_wf (c : Nat) (s : State) (hw : s.mem.wf = true) : KeepsNext (execMma c s) := by
  unfold execMma; with_reducible repeat' first | assumption | apply multiply_wf | apply KeepsNext.next

theorem execMmas_wf (c : Nat) (s : State) (hw : s.mem.wf = true) : KeepsNext (execMmas c s) := by
  unfold execMmas; with_reducible repeat' first | assumption | apply multiply_wf | apply KeepsNext.next

theorem execMmad_wf (c : Nat) (s : State) (hw : s.mem.wf = true) : KeepsNext (execMmad c s) := by
  unfold execMmad; with_reducible repeat' first | assumption | apply multiply_wf | apply KeepsNext.next

theorem execMzero_wf (c : Nat) (s : State) (hw : s.mem.wf = true) : KeepsNext (execMzero c s) := by
  unfold execMzero; repeat' first
    | (with_reducible first
      | assumption | apply State.modMatrix_wf | apply State.tileEnd_wf | apply KeepsNext.next)
    | refine State.tileRun_wf ?_ (by with_reducible assumption) | refine Keeps.of ?_ (by with_reducible assumption) | split

theorem mstore_wf (c : Nat) (s : State) (h : s.mem.wf = true) : (mstore c s).mem.wf = true := by
  unfold mstore; split
  · exact h
  · rename_i r s1 e
    have h1 := State.tileRun_wf h e
    dsimp only; split
    · exact State.tileFail_wf _ _ _ _ _ h1
    · apply State.tileEnd_wf; apply foldl_fst_wf _ _ _ h1; intro p x hp; exact State.disturb_wf _ _ _ _ (State.write_wf _ _ _ _ hp)

theorem execMstore_wf (c : Nat) (s : State) (hw : s.mem.wf = true) : KeepsNext (execMstore c s) := by
  unfold execMstore; with_reducible repeat' first | assumption | apply mstore_wf | apply KeepsNext.next

theorem mloadc_wf (c : Nat) (s : State) (hw : s.mem.wf = true) : (mloadc c s).mem.wf = true := by
  unfold mloadc; repeat' first
    | (with_reducible first
      | assumption | apply State.modMatrix_wf | apply State.tileEnd_wf | apply State.tileFail_wf | apply Keeps.ok | apply Keeps.error
      | apply foldl_wf)
    | refine State.tileRun_wf ?_ (by with_reducible assumption) | refine Keeps.of ?_ (by with_reducible assumption) | split | dsimp only

theorem execMloadc_wf (c : Nat) (s : State) (hw : s.mem.wf = true) : KeepsNext (execMloadc c s) := by
  unfold execMloadc; with_reducible repeat' first | assumption | apply mloadc_wf | apply KeepsNext.next

theorem bload_wf (c : Nat) (s : State) (h : s.mem.wf = true) : (bload c s).mem.wf = true := by
  unfold bload; split
  · exact h
  · rename_i r s1 e
    have h1 := State.tileRun_wf h e
    dsimp only; split
    · exact State.setRun_wf _ _ _ h1
    · split
      · exact State.tileFail_wf _ _ _ _ _ (State.modMatrix_wf _ _ _ (State.spoilHalf_wf _ _ _ h1))
      · exact State.tileEnd_wf _ _ _ _ (State.modMatrix_wf _ _ _ h1)

theorem execBload_wf (c : Nat) (s : State) (hw : s.mem.wf = true) : KeepsNext (execBload c s) := by
  unfold execBload; with_reducible repeat' first | assumption | apply bload_wf | apply KeepsNext.next

theorem brotFail_wf (c : Nat) (r : TileRun) (cause : Nat) (s : State) (h : s.mem.wf = true) : (brotFail c r cause s).mem.wf = true := by
  unfold brotFail; exact State.tileFail_wf _ _ _ _ _ (State.modMatrix_wf _ _ _ (State.spoilHalf_wf _ _ _ h))

theorem brot_wf (c : Nat) (s : State) (hw : s.mem.wf = true) : (brot c s).mem.wf = true := by
  unfold brot; repeat' first
    | (with_reducible first
      | assumption | apply State.modMatrix_wf | apply State.setRun_wf | apply State.tileEnd_wf | apply brotFail_wf)
    | refine State.tileRun_wf ?_ (by with_reducible assumption) | refine Keeps.of ?_ (by with_reducible assumption) | split | dsimp only

theorem execBrot_wf (c : Nat) (s : State) (hw : s.mem.wf = true) : KeepsNext (execBrot c s) := by
  unfold execBrot; with_reducible repeat' first | assumption | apply brot_wf | apply KeepsNext.next

theorem brotWaitLimit_wf (c : Nat) (s : State) (hw : s.mem.wf = true) : (brotWaitLimit c s).mem.wf = true := by
  unfold brotWaitLimit; repeat' first
    | (with_reducible first | assumption | apply brot_wf | apply brotFail_wf) | refine Keeps.of ?_ (by with_reducible assumption) | split | dsimp only

theorem execBrotWaitLimit_wf (c : Nat) (s : State) (hw : s.mem.wf = true) : KeepsNext (execBrotWaitLimit c s) := by
  unfold execBrotWaitLimit; with_reducible repeat' first | assumption | apply brotWaitLimit_wf | apply KeepsNext.next

theorem State.moveKey_wf {s : State} {c : Nat} {q : TileCmd} {a0 : Word} {access : Nat} {a} {t : State} (h : s.mem.wf = true) (e : s.moveKey c q a0
  access = .ok (a, t)) : t.mem.wf = true := by
  unfold State.moveKey at e; dsimp only at e
  split at e
  · contradiction
  · cases e; exact h
  · exact State.bulkAccess_wf h e
  · contradiction

theorem State.moveStop_wf (s : State) (c : Nat) (r : TileRun) (operand : Nat) (e : Stop) (h : s.mem.wf = true) : (s.moveStop c r operand e).mem.wf =
  true := by
  cases e <;> unfold State.moveStop <;> with_reducible repeat' first
    | assumption | apply State.modCore_wf | apply State.sendFault_wf | apply State.setRun_wf | apply State.tileFail_wf | apply State.walked_wf

theorem State.movePieces_wf (s : State) (c : Nat) (r : TileRun) (l : List TileMove) (h : s.mem.wf = true) :
    (s.movePieces c r l).2.mem.wf = true := by
  induction l generalizing s with
  | nil => exact h
  | cons p l ih =>
    unfold State.movePieces; dsimp only
    split
    · exact State.moveStop_wf _ _ _ _ _ h
    · rename_i data s1 hk
      have h1 : s1.mem.wf = true := by
        split at hk
        · cases hk; exact h
        · rename_i a _
          cases hm : s.moveKey c r.cmd a 2 with
          | error e => rw [hm] at hk; contradiction
          | ok k => rw [hm] at hk; cases hk; exact State.moveKey_wf h (a := k.1) (t := k.2) hm
      split
      · exact State.moveStop_wf _ _ _ _ _ h1
      · rename_i key s2 h2
        exact ih _ (State.storeBytes_wf _ _ _ _ (State.spoil_wf _ _ _ _ (State.moveKey_wf h1 h2)))

theorem State.moveRows_wf (s : State) (c : Nat) (r : TileRun) (l : List Nat) (h : s.mem.wf = true) : (s.moveRows c r l).mem.wf = true := by
  induction l generalizing s with
  | nil => exact State.tileEnd_wf _ _ _ _ h
  | cons j l ih =>
    unfold State.moveRows; dsimp only
    have h1 := State.movePieces_wf s c { r with rows := l } (s.rowMoves c r j) h
    split
    · exact ih _ h1
    · exact h1

theorem State.moveOn_wf (s : State) (c : Nat) (r : TileRun) (h : s.mem.wf = true) : (s.moveOn c r).mem.wf = true := by
  unfold State.moveOn; dsimp only
  have h1 := State.movePieces_wf s c r r.moves h
  split
  · exact State.moveRows_wf _ _ _ _ h1
  · exact h1



theorem State.tileMove_wf (s : State) (c : Nat) (op : TileOp) (hw : s.mem.wf = true) : (State.tileMove s c op).mem.wf = true := by
  unfold State.tileMove
  split
  · exact hw
  · rename_i r s1 e
    have h1 := State.tileRun_wf hw e
    repeat' split
    all_goals with_reducible repeat' first | assumption | apply State.modCore_wf | apply State.moveOn_wf | apply State.tileFail_wf

theorem execTcopy_wf (c : Nat) (s : State) (hw : s.mem.wf = true) : KeepsNext (execTcopy c s) := by
  unfold execTcopy; with_reducible repeat' first | assumption | apply State.tileMove_wf | apply KeepsNext.next

theorem execTgather_wf (c : Nat) (s : State) (hw : s.mem.wf = true) : KeepsNext (execTgather c s) := by
  unfold execTgather; with_reducible repeat' first | assumption | apply State.tileMove_wf | apply KeepsNext.next

theorem execTscatter_wf (c : Nat) (s : State) (hw : s.mem.wf = true) : KeepsNext (execTscatter c s) := by
  unfold execTscatter; with_reducible repeat' first | assumption | apply State.tileMove_wf | apply KeepsNext.next

theorem State.noteTile_wf (s : State) (c : Nat) (q : TileCmd) (failed : Bool) (hw : s.mem.wf = true) : (State.noteTile s c q failed).mem.wf = true := by
  unfold State.noteTile
  split
  · exact hw
  · split
    · exact hw
    · split
      · exact State.forgetTiles_wf _ _ _ hw
      · exact hw

theorem tileFinish_wf (c : Nat) (mover : Bool) (s : State) (hw : s.mem.wf = true) : (tileFinish c mover s).mem.wf = true := by
  unfold tileFinish
  split
  · split
    · rename_i r _ _ failed _
      dsimp only
      have h0 := State.modMatrix_wf s c (·.setPath mover none) hw
      have h1 : ((if r.cmd.raced then (s.modMatrix c (·.setPath mover none)).spoilAcc c else s.modMatrix c (·.setPath mover none)).noteTile c r.cmd
          failed.isSome).mem.wf = true := by
        refine State.noteTile_wf _ _ _ _ ?_
        split
        · exact State.spoilAcc_wf _ _ h0
        · exact h0
      split
      · exact State.engineArrive_wf _ _ _ _ _ _ _ _ h1
      · have h2 (f : Nat) := State.tileRelease_wf _ c r.cmd.uid r.cmd.k f h1
        split
        · exact State.engineArrive_wf _ _ _ _ _ _ _ _ (h2 _)
        · split
          · exact State.modThread_wf _ _ _ (h2 _)
          · exact h2 _
    · exact hw
  · exact hw

theorem execTileFinish_wf (c : Nat) (mover : Bool) (s : State) (hw : s.mem.wf = true) : KeepsNext (execTileFinish c mover s) := by
  unfold execTileFinish; with_reducible repeat' first | assumption | apply tileFinish_wf | apply KeepsNext.next

end Sys2Proof.Machine
end

