-- ==== Sys2Proof/Laws/MemoryDevice.lean ====
section
/-! SUPPORT. Memory keeps its canonical form, one lemma per operation: system instructions, save images, contexts and the device. -/
namespace Sys2Proof.Machine

open State

/-! ## System.lean -/

theorem State.clearDirty_wf (s : State) (c : Nat) (w : Word) (hw : s.mem.wf = true) : (State.clearDirty s c w).mem.wf = true := by
  unfold State.clearDirty; repeat' first
    | (with_reducible first | assumption | apply foldl_wf) | refine Keeps.of ?_ (by with_reducible assumption) | split | dsimp only | intros

theorem State.writeCtxCmd_wf (s : State) (w : Word) (hw : s.mem.wf = true) : (State.writeCtxCmd s w).mem.wf = true := by
  unfold State.writeCtxCmd; repeat' first | with_reducible assumption | refine Keeps.of ?_ (by with_reducible assumption) | split | dsimp only

theorem State.writeNetCfg_wf (s : State) (w : Word) (hw : s.mem.wf = true) : (State.writeNetCfg s w).mem.wf = true := by
  unfold State.writeNetCfg; repeat' first | with_reducible assumption | refine Keeps.of ?_ (by with_reducible assumption) | split

theorem ite_wf (p : Prop) [Decidable p] (s t : State) (hs : s.mem.wf = true) (ht : t.mem.wf = true) : (if p then s else t).mem.wf = true := by
  split <;> assumption

theorem State.writeSpecial_wf (s : State) (n : Nat) (w : Word) (h : s.mem.wf = true) : (State.writeSpecial s n w).mem.wf = true := by
  unfold State.writeSpecial; dsimp only
  iterate 21 (refine ite_wf _ _ _ ?_ ?_; (first
    | exact h | exact State.clearDirty_wf _ _ _ h | exact State.writeCtxCmd_wf _ _ h | exact State.agentSend_wf _ _ _ _ _ _ h
    | exact State.writeNetCfg_wf _ _ h | exact State.writeLinkNote_wf _ _ h))
  exact h

theorem srd_wf (word : Word) (d : RegCode) (num : BitVec 12) (s : State) (hw : s.mem.wf = true) : Keeps (srd word d num s) := by
  unfold srd; repeat' first
    | (with_reducible first
      | assumption | apply State.compute_wf | apply State.seeTiles_wf | apply Keeps.ok | apply Keeps.error)
    | refine Keeps.of ?_ (by with_reducible assumption) | split

theorem execSrd_wf (d : RegCode) (num : BitVec 12) (s : State) (hw : s.mem.wf = true) : KeepsNext (execSrd d num s) := by
  unfold execSrd; with_reducible repeat' first | assumption | apply State.finish_wf | apply srd_wf

theorem swr_wf (word : Word) (d : RegCode) (num : BitVec 12) (s : State) (hw : s.mem.wf = true) : Keeps (swr word d num s) := by
  unfold swr; repeat' first
    | (with_reducible first
      | assumption | apply State.completeNone_wf | apply State.writeSpecial_wf | apply Keeps.ok | apply Keeps.error)
    | refine Keeps.of ?_ (by with_reducible assumption) | split

theorem execSwr_wf (d : RegCode) (num : BitVec 12) (s : State) (hw : s.mem.wf = true) : KeepsNext (execSwr d num s) := by
  unfold execSwr; with_reducible repeat' first | assumption | apply State.finish_wf | apply swr_wf

theorem execTrap_wf (code : BitVec 12) (s : State) (hw : s.mem.wf = true) : KeepsNext (execTrap code s) := by
  unfold execTrap; with_reducible repeat' first | assumption | apply State.finish_wf | apply Keeps.ok | apply Keeps.error

theorem rte_wf (word : Word) (s : State) (hw : s.mem.wf = true) : Keeps (rte word s) := by
  unfold rte; repeat' first
    | (with_reducible first
      | assumption | apply State.returnTrap_wf | apply Keeps.ok | apply Keeps.error)
    | refine Keeps.of ?_ (by with_reducible assumption) | split

theorem execRte_wf (s : State) (hw : s.mem.wf = true) : KeepsNext (execRte s) := by
  unfold execRte; with_reducible repeat' first | assumption | apply State.finish_wf | apply rte_wf

theorem execHalt_wf (s : State) (hw : s.mem.wf = true) : KeepsNext (execHalt s) := by
  unfold execHalt; with_reducible repeat' first | assumption | apply State.terminate_wf | apply KeepsNext.next

theorem execYield_wf (s : State) (hw : s.mem.wf = true) : KeepsNext (execYield s) := by
  unfold execYield; with_reducible repeat' first | assumption | apply State.completeNone_wf | apply State.modMe_wf | apply KeepsNext.next

theorem spawnAt_wf (srcs : List Nat) (d n base : Nat) (child : NewThread) (s : State) (hw : s.mem.wf = true) : (spawnAt srcs d n base child s).mem.wf
  = true := by
  unfold spawnAt; repeat' first
    | (with_reducible first
      | assumption | apply State.complete_wf | apply State.createAt_wf | apply State.modKernelCore_wf | apply State.sendJoin_wf
      | apply State.waitFor_wf | apply KeepsNext.next)
    | refine Keeps.of ?_ (by with_reducible assumption) | split

theorem spawn_wf (word : Word) (d : RegCode) (s : State) (hw : s.mem.wf = true) : Keeps (spawn word d s) := by
  unfold spawn; repeat' first
    | (with_reducible first
      | assumption | apply State.complete_wf | apply spawnAt_wf | apply Keeps.ok | apply Keeps.error)
    | refine Keeps.of ?_ (by with_reducible assumption) | split | dsimp only

theorem execSpawn_wf (d : RegCode) (s : State) (hw : s.mem.wf = true) : KeepsNext (execSpawn d s) := by
  unfold execSpawn; with_reducible repeat' first | assumption | apply State.finish_wf | apply spawn_wf

theorem boundaryTrap_wf (t : Nat) (s : State) (hw : s.mem.wf = true) : (boundaryTrap t s).mem.wf = true := by
  unfold boundaryTrap; repeat' first
    | (with_reducible first
      | assumption | apply State.setSlot_wf | apply State.takeTrap_wf)
    | refine Keeps.of ?_ (by with_reducible assumption) | split | dsimp only

theorem execBoundaryTrap_wf (t : Nat) (s : State) (hw : s.mem.wf = true) : KeepsNext (execBoundaryTrap t s) := by
  unfold execBoundaryTrap; with_reducible repeat' first | assumption | apply boundaryTrap_wf | apply KeepsNext.next

theorem yieldExpiry_wf (t : Nat) (s : State) (hw : s.mem.wf = true) : (yieldExpiry t s).mem.wf = true := by
  unfold yieldExpiry; repeat' first
    | (with_reducible first | assumption | apply State.setSlot_wf) | refine Keeps.of ?_ (by with_reducible assumption) | split | dsimp only

theorem execYieldExpiry_wf (t : Nat) (s : State) (hw : s.mem.wf = true) : KeepsNext (execYieldExpiry t s) := by
  unfold execYieldExpiry; with_reducible repeat' first | assumption | apply yieldExpiry_wf | apply KeepsNext.next

theorem taskDispatch_wf (c : Nat) (s : State) (hw : s.mem.wf = true) : (taskDispatch c s).mem.wf = true := by
  unfold taskDispatch; repeat' first
    | (with_reducible first
      | assumption | apply State.createAt_wf | apply State.modCore_wf | apply State.modSlot_wf)
    | refine Keeps.of ?_ (by with_reducible assumption) | split | dsimp only

theorem execTaskDispatch_wf (c : Nat) (s : State) (hw : s.mem.wf = true) : KeepsNext (execTaskDispatch c s) := by
  unfold execTaskDispatch; with_reducible repeat' first | assumption | apply taskDispatch_wf | apply KeepsNext.next

theorem State.freeNames_wf (s : State) (c n : Nat) (hw : s.mem.wf = true) : (State.freeNames s c n).mem.wf = true := by
  unfold State.freeNames; repeat' first
    | (with_reducible first
      | assumption | apply State.freeName_wf | apply foldl_wf)
    | refine Keeps.of ?_ (by with_reducible assumption) | split | dsimp only | intros

theorem State.destroyCarried_wf (s : State) (t : Nat) (hw : s.mem.wf = true) : (State.destroyCarried s t).mem.wf = true := by
  unfold State.destroyCarried; repeat' first
    | (with_reducible first
      | assumption | apply State.modSlot_wf | apply State.send_wf | apply foldl_wf)
    | refine Keeps.of ?_ (by with_reducible assumption) | split | dsimp only | intros

theorem State.unbindAll_wf (s : State) (c : Nat) (sl : Slot) (hw : s.mem.wf = true) : (State.unbindAll s c sl).mem.wf = true := by
  unfold State.unbindAll; repeat' first
    | (with_reducible first
      | assumption | apply unbindOne_wf | apply foldl_wf)
    | refine Keeps.of ?_ (by with_reducible assumption) | split | dsimp only | intros

theorem State.taskEnded_wf (s : State) (c : Nat) (sl : Slot) (hw : s.mem.wf = true) : (State.taskEnded s c sl).mem.wf = true := by
  unfold State.taskEnded; repeat' first
    | (with_reducible first | assumption | apply State.sendDelivery_wf) | refine Keeps.of ?_ (by with_reducible assumption) | split

theorem State.countRetired_wf (s : State) (c : Nat) (sl : Slot) (status : Word) (hw : s.mem.wf = true) : (State.countRetired s c sl status).mem.wf =
  true := by
  unfold State.countRetired; repeat' first
    | (with_reducible first
      | assumption | apply State.memberRetired_wf | apply State.send_wf)
    | refine Keeps.of ?_ (by with_reducible assumption) | split

theorem slotRetire_wf (t : Nat) (s : State) (hw : s.mem.wf = true) : (slotRetire t s).mem.wf = true := by
  unfold slotRetire; repeat' first
    | (with_reducible first
      | assumption | apply State.countRetired_wf | apply State.departed_wf | apply State.destroyCarried_wf | apply State.freeNames_wf | apply State.forgetTiles_wf
      | apply State.setSlot_wf | apply State.taskEnded_wf | apply State.unbindAll_wf)
    | refine Keeps.of ?_ (by with_reducible assumption) | split | dsimp only

theorem execSlotRetire_wf (t : Nat) (s : State) (hw : s.mem.wf = true) : KeepsNext (execSlotRetire t s) := by
  unfold execSlotRetire; with_reducible repeat' first | assumption | apply slotRetire_wf | apply KeepsNext.next

/-! ## Spill.lean -/

theorem State.saveWords_wf (s : State) (c : Nat) (a : Word) (l : List Word) (h : s.mem.wf = true) : (s.saveWords c a l).mem.wf = true := by
  induction l generalizing s a with
  | nil => exact h
  | cons w l ih =>
    unfold State.saveWords; split
    · exact ih _ _ (State.put64_wf _ _ _ h)
    · exact h

theorem State.saveRegions_wf (s : State) (c : Nat) (a : Word) (hw : s.mem.wf = true) : (State.saveRegions s c a).mem.wf = true := by
  unfold State.saveRegions; with_reducible repeat' first | assumption | apply State.freed_wf | apply State.saveWords_wf | apply State.plainHeat_wf

theorem State.putRegion_wf (s : State) (c j : Nat) (bits : List Word) (i : Nat) (l : List Word) (h : s.mem.wf = true) : (s.putRegion c j bits i
  l).mem.wf = true := by
  induction l generalizing s i with
  | nil => exact h
  | cons w l ih => unfold State.putRegion; apply ih; with_reducible repeat' first | assumption | apply State.setFull_wf | apply State.put64_wf

theorem State.restoreRegion_wf (s : State) (c j : Nat) (body : List Word) (h : s.mem.wf = true) : (State.restoreRegion s c j body).mem.wf = true := by
  unfold State.restoreRegion; dsimp only
  have hc : ∀ x : State, x.mem.wf = true → ({ x with dirty := Store.set false x.dirty (c * 24 + j) false } : State).mem.wf = true := fun x hx => hx
  have h2 := State.freed_wf s 8320 h
  generalize (List.range 128).map (fun i => Config.freeWord (s.fresh + 8192 + i)) = la
  generalize (List.range 8192).map (fun i => Config.freeWord (s.fresh + i)) = lb
  revert h2; generalize s.freed 8320 = s2; intro h2
  generalize (if 24 ≤ j then none else some (decodeRuns 8193 (body.drop 128))) = o
  match o with
  | none => exact h
  | some (some ws) =>
    dsimp only
    generalize ws.length = n
    by_cases hn : n = 8192
    · rw [if_pos hn]; exact hc _ (State.putRegion_wf _ _ _ _ _ _ h)
    · rw [if_neg hn]; exact hc _ (State.putRegion_wf _ _ _ _ _ _ h2)
  | some none => exact hc _ (State.putRegion_wf _ _ _ _ _ _ h2)

theorem State.restoreRegions_wf (s : State) (c : Nat) (a : Word) (first : Bool) (n : Nat) (h : s.mem.wf = true) :
    (s.restoreRegions c a first n).mem.wf = true := by
  induction n generalizing s a first with
  | zero => exact h
  | succ n ih =>
    unfold State.restoreRegions; dsimp only; split
    · exact State.heatOn_wf _ _ _ _ _ _ _ _ h
    · split
      · exact State.heatOn_wf _ _ _ _ _ _ _ _ h
      · exact ih _ _ _ (State.restoreRegion_wf _ _ _ _ (State.heatOn_wf _ _ _ _ _ _ _ _ h))

theorem State.writeImage_wf (s : State) (key t : Nat) (hw : s.mem.wf = true) : (State.writeImage s key t).mem.wf = true := by
  unfold State.writeImage; with_reducible repeat' first
    | assumption | apply State.freed_wf | apply State.put_wf | apply State.putWords_wf | apply State.writeHead_wf | apply State.writeWords_wf

theorem State.imageAt_wf {s : State} {n access : Nat} {a} {t : State} (h : s.mem.wf = true) (e : s.imageAt n access = .ok (a, t)) : t.mem.wf = true
  := by
  unfold State.imageAt at e; dsimp only at e
  split at e
  · contradiction
  · cases e; exact h
  · exact State.bulkAccess_wf h e
  · contradiction

theorem State.dropImage_wf (s : State) (e : Evicted) (hw : s.mem.wf = true) : (State.dropImage s e).mem.wf = true := by
  unfold State.dropImage; repeat' first
    | (with_reducible first
      | assumption | apply State.countRetired_wf | apply State.freeName_wf | apply State.unbindAll_wf | apply foldl_wf)
    | refine Keeps.of ?_ (by with_reducible assumption) | split | dsimp only | intros

theorem State.evict_wf (s : State) (t key : Nat) (hw : s.mem.wf = true) : (State.evict s t key).mem.wf = true := by
  unfold State.evict; repeat' first
    | (with_reducible first
      | assumption | apply State.countRetired_wf | apply State.dropImage_wf | apply State.setSlot_wf | apply State.writeImage_wf)
    | refine Keeps.of ?_ (by with_reducible assumption) | split

theorem State.startSpill_wf (s : State) (d n key : Nat) (scr resume : Bool) (hw : s.mem.wf = true) : (State.startSpill s d n key scr resume).mem.wf =
  true := by
  unfold State.startSpill; with_reducible repeat' first | assumption | apply State.waitFor_wf

theorem State.endSpill_wf (s : State) (o : SpillOp) (hw : s.mem.wf = true) : (State.endSpill s o).mem.wf = true := by
  unfold State.endSpill; with_reducible repeat' first | assumption | apply State.arriveReg_wf | apply State.resumeThread_wf

theorem withImage_wf (n access : Nat) (s : State) (f : Nat → State → Except Stop State) (h : s.mem.wf = true) (hf : ∀ k s, s.mem.wf = true → Keeps (f
  k s)) : Keeps (withImage n access s f) := by
  unfold withImage; repeat' split
  · repeat' first
    | (with_reducible first
      | assumption | apply State.enterPageWait_wf | apply Keeps.ok | apply Keeps.error)
    | refine State.imageAt_wf ?_ (by with_reducible assumption) | refine Keeps.of ?_ (by with_reducible assumption) | split | dsimp only | intros
  · repeat' first
    | (with_reducible first
      | assumption | apply State.enterPageWait_wf | apply Keeps.ok | apply Keeps.error)
    | refine State.imageAt_wf ?_ (by with_reducible assumption) | refine Keeps.of ?_ (by with_reducible assumption) | split | dsimp only | intros
  · exact hf _ _ (State.imageAt_wf h (by assumption))

theorem spill_wf (word : Word) (d : RegCode) (s : State) (hw : s.mem.wf = true) : Keeps (spill word d s) := by
  unfold spill; repeat' first
    | (with_reducible first
      | assumption | apply State.complete_wf | apply State.evict_wf | apply State.startSpill_wf | apply withImage_wf | apply Keeps.ok
      | apply Keeps.error)
    | refine Keeps.of ?_ (by with_reducible assumption) | split | dsimp only | intros

theorem execSpill_wf (d : RegCode) (s : State) (hw : s.mem.wf = true) : KeepsNext (execSpill d s) := by
  unfold execSpill; with_reducible repeat' first | assumption | apply State.finish_wf | apply spill_wf

theorem resume_wf (word : Word) (d : RegCode) (s : State) (hw : s.mem.wf = true) : Keeps (resume word d s) := by
  unfold resume; repeat' first
    | (with_reducible first
      | assumption | apply State.keepWalk_wf | apply State.complete_wf | apply State.modSlot_wf | apply State.startSpill_wf | apply withImage_wf | apply Keeps.ok
      | apply Keeps.error)
    | refine Keeps.of ?_ (by with_reducible assumption) | split | dsimp only | intros

theorem execResume_wf (d : RegCode) (s : State) (hw : s.mem.wf = true) : KeepsNext (execResume d s) := by
  unfold execResume; with_reducible repeat' first | assumption | apply State.finish_wf | apply resume_wf

theorem spillComplete_wf (m : Nat) (s : State) (hw : s.mem.wf = true) : (spillComplete m s).mem.wf = true := by
  unfold spillComplete; repeat' first
    | (with_reducible first | assumption | apply State.endSpill_wf | apply State.modSlot_wf | apply State.saveRegions_wf | apply resume_wf)
    | refine Keeps.of ?_ (by with_reducible assumption) | split | dsimp only | intros

theorem execSpillComplete_wf (m : Nat) (s : State) (hw : s.mem.wf = true) : KeepsNext (execSpillComplete m s) := by
  unfold execSpillComplete; with_reducible repeat' first | assumption | apply spillComplete_wf | apply KeepsNext.next

theorem restoreThread_wf (c n key : Nat) (s : State) (hw : s.mem.wf = true) : (restoreThread c n key s).mem.wf = true := by
  unfold restoreThread; repeat' first
    | (with_reducible first
      | assumption | apply State.forgetTiles_wf | apply State.setRegFull_wf | apply State.setRegValue_wf | apply State.setSlot_wf | apply KeepsNext.next | apply foldl_wf)
    | refine Keeps.of ?_ (by with_reducible assumption) | split | dsimp only | intros

theorem resumeComplete_wf (m : Nat) (s : State) (hw : s.mem.wf = true) : (resumeComplete m s).mem.wf = true := by
  unfold resumeComplete; repeat' first
    | (with_reducible first
      | assumption | apply State.endSpill_wf | apply State.modSlot_wf | apply State.restoreRegions_wf | apply State.takeTrap_wf
      | apply restoreThread_wf | apply resume_wf)
    | refine Keeps.of ?_ (by with_reducible assumption) | split | dsimp only

theorem execResumeComplete_wf (m : Nat) (s : State) (hw : s.mem.wf = true) : KeepsNext (execResumeComplete m s) := by
  unfold execResumeComplete; with_reducible repeat' first | assumption | apply resumeComplete_wf | apply KeepsNext.next

/-! ## Context.lean -/

theorem State.tableHeat_wf (s : State) (a : Word) (n : Nat) (write : Bool) (hw : s.mem.wf = true) : (s.tableHeat a n write).mem.wf = true :=
  State.plainHeat_wf _ _ _ _ _ _ _ hw

theorem State.writeCtxState_wf (s : State) (i v : Nat) (hw : s.mem.wf = true) : (State.writeCtxState s i v).mem.wf = true := by
  unfold State.writeCtxState; repeat' first
    | (with_reducible first | assumption | apply State.put64_wf | apply State.tableHeat_wf) | refine Keeps.of ?_ (by with_reducible assumption) | split

theorem activate_wf (i : Nat) (s : State) (hw : s.mem.wf = true) : (activate i s).mem.wf = true := by
  unfold activate; with_reducible repeat' first | assumption | apply State.freed_wf | apply State.modCtx_wf | apply State.writeCtxState_wf | apply State.tableHeat_wf

theorem commandDone_wf (err : Bool) (s : State) (hw : s.mem.wf = true) : (commandDone err s).mem.wf = true := by
  unfold commandDone; exact hw

theorem ctxActivate_wf (s : State) (hw : s.mem.wf = true) : (ctxActivate s).mem.wf = true := by
  unfold ctxActivate; repeat' first
    | (with_reducible first | assumption | apply activate_wf | apply commandDone_wf) | refine Keeps.of ?_ (by with_reducible assumption) | split

theorem execCtxActivate_wf (s : State) (hw : s.mem.wf = true) : KeepsNext (execCtxActivate s) := by
  unfold execCtxActivate; with_reducible repeat' first | assumption | apply ctxActivate_wf | apply KeepsNext.next

theorem ctxDrain_wf (s : State) (hw : s.mem.wf = true) : (ctxDrain s).mem.wf = true := by
  unfold ctxDrain; repeat' first
    | (with_reducible first
      | assumption | apply State.modCtx_wf | apply State.writeCtxState_wf | apply commandDone_wf)
    | refine Keeps.of ?_ (by with_reducible assumption) | split

theorem execCtxDrain_wf (s : State) (hw : s.mem.wf = true) : KeepsNext (execCtxDrain s) := by
  unfold execCtxDrain; with_reducible repeat' first | assumption | apply ctxDrain_wf | apply KeepsNext.next

theorem ctxCommandComplete_wf (s : State) (hw : s.mem.wf = true) : (ctxCommandComplete s).mem.wf = true := by
  unfold ctxCommandComplete; repeat' first | with_reducible assumption | refine Keeps.of ?_ (by with_reducible assumption) | split

theorem execCtxCommandComplete_wf (s : State) (hw : s.mem.wf = true) : KeepsNext (execCtxCommandComplete s) := by
  unfold execCtxCommandComplete; with_reducible repeat' first | assumption | apply ctxCommandComplete_wf | apply KeepsNext.next

theorem clearContext_wf (i : Nat) (s : State) (hw : s.mem.wf = true) : (clearContext i s).mem.wf = true := by
  unfold clearContext; repeat' first
    | (with_reducible first
      | assumption | apply State.freeName_wf | apply foldl_wf)
    | refine Keeps.of ?_ (by with_reducible assumption) | split | dsimp only | intros

theorem contextFree_wf (i : Nat) (s : State) (hw : s.mem.wf = true) : (contextFree i s).mem.wf = true := by
  unfold contextFree; repeat' first
    | (with_reducible first
      | assumption | apply State.dropImage_wf | apply State.modCtx_wf | apply State.writeCtxState_wf | apply clearContext_wf | apply foldl_wf)
    | refine Keeps.of ?_ (by with_reducible assumption) | split

theorem execContextFree_wf (i : Nat) (s : State) (hw : s.mem.wf = true) : KeepsNext (execContextFree i s) := by
  unfold execContextFree; with_reducible repeat' first | assumption | apply contextFree_wf | apply KeepsNext.next

theorem clockGate_wf (c : Nat) (s : State) (hw : s.mem.wf = true) : (clockGate c s).mem.wf = true := by
  unfold clockGate; repeat' first
    | (with_reducible first | assumption | apply State.modCore_wf) | refine Keeps.of ?_ (by with_reducible assumption) | split

theorem execClockGate_wf (c : Nat) (s : State) (hw : s.mem.wf = true) : KeepsNext (execClockGate c s) := by
  unfold execClockGate; with_reducible repeat' first | assumption | apply clockGate_wf | apply KeepsNext.next

theorem execClockUngate_wf (c : Nat) (s : State) (hw : s.mem.wf = true) : KeepsNext (execClockUngate c s) := by
  unfold execClockUngate; with_reducible repeat' first | assumption | apply State.modCore_wf | apply KeepsNext.next

/-! ## Device.lean -/

theorem State.modDev_wf (s : State) (f : Device → Device) (hw : s.mem.wf = true) : (State.modDev s f).mem.wf = true := by
  unfold State.modDev; exact hw

theorem State.deny_wf (s : State) (hw : s.mem.wf = true) : (State.deny s).mem.wf = true := by
  unfold State.deny; with_reducible repeat' first | assumption | apply State.modDev_wf

theorem newOwner_wf (o : Nat) (s : State) (hw : s.mem.wf = true) : (newOwner o s).mem.wf = true := by
  unfold newOwner; with_reducible repeat' first | assumption | apply State.modDev_wf

theorem ownClaim_wf (who : Master) (force : Bool) (epoch : Nat) (s : State) (hw : s.mem.wf = true) : (ownClaim who force epoch s).mem.wf = true := by
  unfold ownClaim; repeat' first
    | (with_reducible first | assumption | apply State.deny_wf | apply newOwner_wf) | refine Keeps.of ?_ (by with_reducible assumption) | split

theorem execOwnClaim_wf (who : Master) (force : Bool) (epoch : Nat) (s : State) (hw : s.mem.wf = true) : KeepsNext (execOwnClaim who force epoch s)
  := by
  unfold execOwnClaim; with_reducible repeat' first | assumption | apply ownClaim_wf | apply KeepsNext.next

theorem ownHandOver_wf (who : Master) (dst epoch : Nat) (s : State) (hw : s.mem.wf = true) : (ownHandOver who dst epoch s).mem.wf = true := by
  unfold ownHandOver; repeat' first
    | (with_reducible first | assumption | apply State.deny_wf | apply newOwner_wf) | refine Keeps.of ?_ (by with_reducible assumption) | split

theorem execOwnHandOver_wf (who : Master) (dst epoch : Nat) (s : State) (hw : s.mem.wf = true) : KeepsNext (execOwnHandOver who dst epoch s) := by
  unfold execOwnHandOver; with_reducible repeat' first | assumption | apply ownHandOver_wf | apply KeepsNext.next

theorem ownRelease_wf (who : Master) (epoch : Nat) (s : State) (hw : s.mem.wf = true) : (ownRelease who epoch s).mem.wf = true := by
  unfold ownRelease; repeat' first
    | (with_reducible first | assumption | apply State.deny_wf | apply newOwner_wf) | refine Keeps.of ?_ (by with_reducible assumption) | split

theorem execOwnRelease_wf (who : Master) (epoch : Nat) (s : State) (hw : s.mem.wf = true) : KeepsNext (execOwnRelease who epoch s) := by
  unfold execOwnRelease; with_reducible repeat' first | assumption | apply ownRelease_wf | apply KeepsNext.next

theorem submit_wf (who : Master) (port : Nat) (pk : List Word) (s : State) (h : s.mem.wf = true) : (submit who port pk s).2.mem.wf = true := by
  unfold submit; repeat' first
    | (with_reducible first | assumption | apply State.acceptPacket_wf) | refine Keeps.of ?_ (by with_reducible assumption) | split

theorem lqputGo_wf (who : Master) (s : State) (hw : s.mem.wf = true) : (lqputGo who s).mem.wf = true := by
  unfold lqputGo; repeat' first
    | (with_reducible first
      | assumption | apply State.deny_wf | apply State.modDev_wf | apply submit_wf)
    | refine Keeps.of ?_ (by with_reducible assumption) | split

theorem execLqputGo_wf (who : Master) (s : State) (hw : s.mem.wf = true) : KeepsNext (execLqputGo who s) := by
  unfold execLqputGo; with_reducible repeat' first | assumption | apply lqputGo_wf | apply KeepsNext.next

theorem managementLaunch_wf (port : Nat) (packet : BitVec 512) (s : State) (hw : s.mem.wf = true) : (managementLaunch port packet s).mem.wf = true :=
  by
  unfold managementLaunch; repeat' first
    | (with_reducible first | assumption | apply State.deny_wf | apply submit_wf) | refine Keeps.of ?_ (by with_reducible assumption) | split

theorem execManagementLaunch_wf (port : Nat) (packet : BitVec 512) (s : State) (hw : s.mem.wf = true) : KeepsNext (execManagementLaunch port packet
  s) := by
  unfold execManagementLaunch; with_reducible repeat' first | assumption | apply managementLaunch_wf | apply KeepsNext.next

theorem execNoteRead_wf (s : State) (hw : s.mem.wf = true) : KeepsNext (execNoteRead s) := by
  unfold execNoteRead; with_reducible repeat' first | assumption | apply KeepsNext.next

theorem execBnoteRead_wf (s : State) (hw : s.mem.wf = true) : KeepsNext (execBnoteRead s) := by
  unfold execBnoteRead; with_reducible repeat' first | assumption | apply KeepsNext.next

theorem writeDbgstop_wf (word : Nat) (value : Word) (s : State) (hw : s.mem.wf = true) : (writeDbgstop word value s).mem.wf = true := by
  unfold writeDbgstop; repeat' first
    | (with_reducible first | assumption | apply State.modDev_wf | apply foldl_wf) | refine Keeps.of ?_ (by with_reducible assumption) | split

theorem dbgstopWrite_wf (who : Master) (word : Nat) (value : Word) (s : State) (hw : s.mem.wf = true) : (dbgstopWrite who word value s).mem.wf = true
  := by
  unfold dbgstopWrite; repeat' first
    | (with_reducible first | assumption | apply State.deny_wf | apply writeDbgstop_wf) | refine Keeps.of ?_ (by with_reducible assumption) | split

theorem execDbgstopWrite_wf (who : Master) (word : Nat) (value : BitVec 64) (s : State) (hw : s.mem.wf = true) : KeepsNext (execDbgstopWrite who word
  value s) := by
  unfold execDbgstopWrite; with_reducible repeat' first | assumption | apply dbgstopWrite_wf | apply KeepsNext.next

theorem writeOwnCmd_wf (who : Master) (v : Word) (s : State) (hw : s.mem.wf = true) : (writeOwnCmd who v s).mem.wf = true := by
  unfold writeOwnCmd; repeat' first
    | (with_reducible first
      | assumption | apply State.deny_wf | apply ownClaim_wf | apply ownHandOver_wf | apply ownRelease_wf)
    | refine Keeps.of ?_ (by with_reducible assumption) | split

theorem registerWrite_wf (who : Master) (offset : Nat) (value : Word) (s : State) (h : s.mem.wf = true) : (registerWrite who offset value s).mem.wf =
  true := by
  unfold registerWrite
  iterate 4 (refine ite_wf _ _ _ ?_ ?_; (first | exact h | exact writeOwnCmd_wf _ _ _ h | exact State.deny_wf _ h))
  refine ite_wf _ _ _ h ?_
  refine ite_wf _ _ _ (ite_wf _ _ _ (lqputGo_wf _ _ h) h) ?_
  refine ite_wf _ _ _ h ?_
  exact ite_wf _ _ _ (writeDbgstop_wf _ _ _ h) h

theorem execRegisterWrite_wf (who : Master) (offset : Nat) (value : BitVec 64) (s : State) (hw : s.mem.wf = true) : KeepsNext (execRegisterWrite who
  offset value s) := by
  unfold execRegisterWrite; with_reducible repeat' first | assumption | apply registerWrite_wf | apply KeepsNext.next

theorem startMovers_wf (o : StartOutcome) (s : State) (hw : s.mem.wf = true) : (startMovers o s).mem.wf = true := by
  unfold startMovers; exact hw

theorem startLinks_wf (passed : Bool) (s : State) (hw : s.mem.wf = true) : (startLinks passed s).mem.wf = true := by
  unfold startLinks; repeat' first
    | (with_reducible first | assumption | apply State.changeLink_wf | apply foldl_wf)
    | refine Keeps.of ?_ (by with_reducible assumption) | split | dsimp only | intros

theorem loadFirmware_wf (f : Firmware) (s : State) (c : Nat) (hw : s.mem.wf = true) : (loadFirmware f s c).mem.wf = true := by
  unfold loadFirmware; repeat' first
    | (with_reducible first | assumption | apply State.modCore_wf | apply State.writeWords_wf)
    | refine Keeps.of ?_ (by with_reducible assumption) | split | dsimp only | intros

theorem startPagers_wf (o : StartOutcome) (s : State) (hw : s.mem.wf = true) : (startPagers o s).mem.wf = true := by
  unfold startPagers; repeat' first
    | (with_reducible first | assumption | apply foldl_wf | apply loadFirmware_wf)
    | refine Keeps.of ?_ (by with_reducible assumption) | split | dsimp only | intros

theorem stepEffect_wf (o : StartOutcome) (k r : Nat) (s : State) (hw : s.mem.wf = true) : (stepEffect o k r s).mem.wf = true := by
  unfold stepEffect; repeat' first
    | (with_reducible first | assumption | apply State.modDev_wf | apply startLinks_wf | apply startMovers_wf | apply startPagers_wf)
    | refine Keeps.of ?_ (by with_reducible assumption) | split | dsimp only | intros

theorem startSteps_wf (o : StartOutcome) (prev : Word) (s : State) (l : List Nat) (h : s.mem.wf = true) : (startSteps o prev s l).mem.wf = true := by
  induction l generalizing s with
  | nil => exact h
  | cons k l ih => unfold startSteps; dsimp only; split; repeat' first
    | (with_reducible first
      | assumption | apply State.modDev_wf | apply stepEffect_wf)
    | refine Keeps.of ?_ (by with_reducible assumption) | split | dsimp only | intros; apply ih; repeat' first | with_reducible assumption
    | with_reducible apply State.modDev_wf | with_reducible apply stepEffect_wf | refine Keeps.of ?_ (by with_reducible assumption) | split
    | dsimp only | intros

theorem leavePowerGating_wf (s : State) (hw : s.mem.wf = true) : (leavePowerGating s).mem.wf = true := by
  unfold leavePowerGating; repeat' first
    | (with_reducible first | assumption | apply State.cycle_wf | apply State.modCore_wf | apply foldl_wf)
    | refine Keeps.of ?_ (by with_reducible assumption) | split | dsimp only | intros

theorem startSequence_wf (o : StartOutcome) (s : State) (hw : s.mem.wf = true) : (startSequence o s).mem.wf = true := by
  unfold startSequence; repeat' first
    | (with_reducible first | assumption | apply leavePowerGating_wf | apply startSteps_wf)
    | refine Keeps.of ?_ (by with_reducible assumption) | split | dsimp only | intros

theorem execStartSequence_wf (outcome : StartOutcome) (s : State) (hw : s.mem.wf = true) : KeepsNext (execStartSequence outcome s) := by
  unfold execStartSequence; with_reducible repeat' first | assumption | apply startSequence_wf | apply KeepsNext.next

theorem undefinedMemory_wf (n : Nat) : (undefinedMemory n).wf = true := by
  unfold undefinedMemory
  generalize Config.freeBytes n = l
  have : ∀ m : Memory, m.wf = true → (l.foldl (fun (m : Memory) c => m.put c.1 c.2) m).wf = true := by
    induction l with
    | nil => exact fun m h => h
    | cons e r ih => exact fun m h => ih _ (Memory.wf_put _ _ h)
  exact this [] rfl

theorem powerOn_wf (s : State) : (powerOn s).mem.wf = true := undefinedMemory_wf _

theorem execPowerOn_wf (s : State) (_hw : s.mem.wf = true) : KeepsNext (execPowerOn s) := by
  unfold execPowerOn; with_reducible repeat' first | assumption | apply powerOn_wf | apply KeepsNext.next

theorem fatalKernel_wf (s : State) (k : Nat) (hw : s.mem.wf = true) : (fatalKernel s k).mem.wf = true := by
  unfold fatalKernel; repeat' first
    | (with_reducible first | assumption | apply State.modKernel_wf | apply State.notice_wf | apply State.report_wf)
    | refine Keeps.of ?_ (by with_reducible assumption) | split | dsimp only | intros

theorem deviceFatal_wf (cause : Nat) (s : State) (h : s.mem.wf = true) : (deviceFatal cause s).mem.wf = true := by
  unfold deviceFatal; split
  · exact h
  · exact undefinedMemory_wf _

theorem execDeviceFatal_wf (cause : Nat) (s : State) (hw : s.mem.wf = true) : KeepsNext (execDeviceFatal cause s) := by
  unfold execDeviceFatal; with_reducible repeat' first | assumption | apply deviceFatal_wf | apply KeepsNext.next

theorem execLaunchControllerTimeout_wf (d : Nat) (s : State) (hw : s.mem.wf = true) : KeepsNext (execLaunchControllerTimeout d s) := by
  unfold execLaunchControllerTimeout; repeat' first
    | (with_reducible first | assumption | apply deviceFatal_wf | apply KeepsNext.next) | refine Keeps.of ?_ (by with_reducible assumption) | split

theorem execTemperatureTrip_wf (d : Nat) (s : State) (hw : s.mem.wf = true) : KeepsNext (execTemperatureTrip d s) := by
  unfold execTemperatureTrip; repeat' first
    | (with_reducible first | assumption | apply deviceFatal_wf | apply KeepsNext.next) | refine Keeps.of ?_ (by with_reducible assumption) | split

theorem healthRecord_wf (d : Nat) (x : Reading) (s : State) (hw : s.mem.wf = true) : (healthRecord d x s).mem.wf = true := by
  unfold healthRecord; repeat' first
    | (with_reducible first | assumption | apply State.modDev_wf) | refine Keeps.of ?_ (by with_reducible assumption) | split

theorem execHealthUpdate_wf (d : Nat) (reading : Reading) (s : State) (hw : s.mem.wf = true) : KeepsNext (execHealthUpdate d reading s) := by
  unfold execHealthUpdate; with_reducible repeat' first | assumption | apply healthRecord_wf | apply KeepsNext.next

theorem healthRead_wf (d : Nat) (s : State) (hw : s.mem.wf = true) : (healthRead d s).mem.wf = true := by
  unfold healthRead; repeat' first
    | (with_reducible first | assumption | apply State.modDev_wf) | refine Keeps.of ?_ (by with_reducible assumption) | split

theorem execHealthRecordRead_wf (d : Nat) (s : State) (hw : s.mem.wf = true) : KeepsNext (execHealthRecordRead d s) := by
  unfold execHealthRecordRead; with_reducible repeat' first | assumption | apply healthRead_wf | apply KeepsNext.next

theorem waitStoreServe_wf (m : Nat) (s : State) (hw : s.mem.wf = true) : (waitStoreServe m s).mem.wf = true := by
  unfold waitStoreServe; repeat' first
    | (with_reducible first
      | assumption | apply callServe_wf | apply callat_wf | apply fe_wf | apply feServe_wf)
    | refine Keeps.of ?_ (by with_reducible assumption) | split

theorem execWaitStoreServe_wf (m : Nat) (s : State) (hw : s.mem.wf = true) : KeepsNext (execWaitStoreServe m s) := by
  unfold execWaitStoreServe; with_reducible repeat' first | assumption | apply waitStoreServe_wf | apply KeepsNext.next

theorem deliveryDone_wf (x : Msg) (cause : Nat) (nm : Word) (o : Origin) (s : State) (hw : s.mem.wf = true) : (deliveryDone x cause nm o s).mem.wf =
  true := by
  unfold deliveryDone; repeat' first
    | (with_reducible first
      | assumption | apply State.modCore_wf | apply State.modThread_wf | apply State.modThreadCounters_wf | apply State.notice_wf
      | apply State.pendThread_wf | apply State.writeReportAt_wf | apply deliv_wf | apply query_wf | apply retat_wf)
    | refine Keeps.of ?_ (by with_reducible assumption) | split | dsimp only

theorem deliveryAnswer_wf (m : Nat) (s : State) (hw : s.mem.wf = true) : (deliveryAnswer m s).mem.wf = true := by
  unfold deliveryAnswer; repeat' first
    | (with_reducible first | assumption | apply State.dropMsg_wf | apply deliveryDone_wf) | refine Keeps.of ?_ (by with_reducible assumption) | split

theorem execDeliveryAnswer_wf (m : Nat) (s : State) (hw : s.mem.wf = true) : KeepsNext (execDeliveryAnswer m s) := by
  unfold execDeliveryAnswer; with_reducible repeat' first | assumption | apply deliveryAnswer_wf | apply KeepsNext.next

end Sys2Proof.Machine
end

