-- ==== Sys2Proof/Laws/MemoryStep.lean ====
section
/-! SUPPORT. Memory keeps its canonical form, one lemma per operation: every instruction and every turn. -/
namespace Sys2Proof.Machine

open State

/-! ## Dispatch.lean -/

theorem exec_wf (i : Instr) (s : State) (hw : s.mem.wf = true) : KeepsNext (exec i s) := by
  unfold exec; repeat' first
    | (with_reducible first
      | assumption | apply State.mint_wf | apply State.queryScan_wf | apply State.regionReply_wf | apply atomRequest_wf | apply barrierOperation_wf
      | apply barrierReply_wf | apply bload_wf | apply boundaryTrap_wf | apply brot_wf | apply brotWaitLimit_wf | apply callat_wf
      | apply callatAccept_wf | apply callatResend_wf | apply cancelRequest_wf | apply cancelledAnswer_wf | apply cellReceive_wf
      | apply cellResend_wf | apply cellReservation_wf | apply cinit_wf | apply clockGate_wf | apply contextFree_wf | apply copyFinish_wf
      | apply copyrRunApply_wf | apply ctxActivate_wf | apply ctxCommandComplete_wf | apply ctxDrain_wf | apply dbgstopWrite_wf | apply decr_wf
      | apply decrRequest_wf | apply deliv_wf | apply delivery_wf | apply deliveryAnswer_wf | apply destroyNotice_wf | apply deviceFatal_wf
      | apply domainDescriptor_wf | apply doneQuery_wf | apply echoAnswer_wf | apply entryUpdate_wf | apply execAdd_wf | apply execAddi_wf
      | apply execAddpc_wf | apply execAnd_wf | apply execAndi_wf | apply execAndn_wf | apply execAtomAnd_wf | apply execAtomCas_wf
      | apply execAtomFadd_wf | apply execAtomFaddf_wf | apply execAtomFmax_wf | apply execAtomFmin_wf | apply execAtomOr_wf
      | apply execAtomRequest_wf | apply execAtomSwap_wf | apply execAtomXor_wf | apply execBarm_wf | apply execBarrierOperation_wf
      | apply execBarrierReply_wf | apply execBarrierWaitLimit_wf | apply execBarv_wf | apply execBarw_wf | apply execBempty_wf | apply execBerr_wf
      | apply execBfull_wf | apply execBgez_wf | apply execBgtz_wf | apply execBlez_wf | apply execBload_wf | apply execBltz_wf
      | apply execBnoteRead_wf | apply execBnz_wf | apply execBoundaryTrap_wf | apply execBrev_wf | apply execBrot_wf | apply execBrotWaitLimit_wf
      | apply execBstat_wf | apply execBwait_wf | apply execBz_wf | apply execCabs_wf | apply execCallat_wf | apply execCallatAccept_wf
      | apply execCallatResend_wf | apply execCancelRequest_wf | apply execCancelledAnswer_wf | apply execCellReceive_wf | apply execCellResend_wf
      | apply execCellReservation_wf | apply execCellrel_wf | apply execCellres_wf | apply execCinit_wf | apply execClockGate_wf
      | apply execClockUngate_wf | apply execClz_wf | apply execContextFree_wf | apply execCopy_wf | apply execCopyFinish_wf | apply execCopym_wf
      | apply execCopyr_wf | apply execCopyrRunApply_wf | apply execCpack_wf | apply execCreditReturn_wf | apply execCrel_wf
      | apply execCtxActivate_wf | apply execCtxCommandComplete_wf | apply execCtxDrain_wf | apply execCtz_wf | apply execCx_wf | apply execCy_wf
      | apply execDbgstopWrite_wf | apply execDecr_wf | apply execDecrRequest_wf | apply execDeliv_wf | apply execDelivery_wf
      | apply execDeliveryAnswer_wf | apply execDestroyNotice_wf | apply execDeviceFatal_wf | apply execDiv_wf | apply execDivz_wf
      | apply execDomainDescriptor_wf | apply execDone_wf | apply execDoneQuery_wf | apply execEcho_wf | apply execEchoAnswer_wf
      | apply execEmpty_wf | apply execEntryUpdate_wf | apply execFabricRequest_wf | apply execFallThrough_wf | apply execFaultPacket_wf
      | apply execFeAnswer_wf | apply execFeRemoteRequest_wf | apply execFeWaitLimit_wf | apply execFence_wf | apply execForwardedValue_wf
      | apply execFrameCloseWave_wf | apply execGrank_wf | apply execGsplit_wf | apply execGuestRetireNotice_wf | apply execHalt_wf
      | apply execHealthRecordRead_wf | apply execHealthUpdate_wf | apply execHeatUpdate_wf | apply execHome_wf | apply execHomeArrive_wf
      | apply execIllegalEncoding_wf | apply execImageCopy_wf | apply execInboundRequest_wf | apply execInvalidation_wf
      | apply execInvalidationAck_wf | apply execJmp_wf | apply execJmpr_wf | apply execJoin_wf | apply execKernelRetire_wf
      | apply execKernelSchedule_wf | apply execLaunch_wf | apply execLaunchAccept_wf | apply execLaunchControllerTimeout_wf | apply execLd_wf
      | apply execLdf_wf | apply execLds_wf | apply execLdz_wf | apply execLeave_wf | apply execLineReply_wf | apply execLinkDown_wf
      | apply execLinkFrame_wf | apply execLinkNotice_wf | apply execLinkTrained_wf | apply execLinkWidthChange_wf | apply execLinknoteWrite_wf
      | apply execLinkw_wf | apply execLinkwRequest_wf | apply execLoadReply_wf | apply execLoop_wf | apply execLqputGo_wf | apply execLui_wf
      | apply execManagementLaunch_wf | apply execMax_wf | apply execMaxz_wf | apply execMigrationArrive_wf | apply execMigrationDeparture_wf
      | apply execMigrationRequest_wf | apply execMin_wf | apply execMint_wf | apply execMintLd_wf | apply execMinz_wf | apply execMloadc_wf
      | apply execMma_wf | apply execMmad_wf | apply execMmas_wf | apply execMstore_wf | apply execMul_wf | apply execMulh_wf | apply execMulhz_wf
      | apply execMulticastPacket_wf | apply execMzero_wf | apply execNextc_wf | apply execNoteRead_wf | apply execNstat_wf | apply execOr_wf
      | apply execOri_wf | apply execOwnClaim_wf | apply execOwnHandOver_wf | apply execOwnRelease_wf | apply execPackageUnreachable_wf
      | apply execPadv_wf | apply execPageWake_wf | apply execPget_wf | apply execPheat_wf | apply execPheatComplete_wf | apply execPinval_wf
      | apply execPlacementCommit_wf | apply execPlacementReserve_wf | apply execPmap_wf | apply execPmapComplete_wf | apply execPmove_wf
      | apply execPmoveCopyDone_wf | apply execPodHomeLost_wf | apply execPopc_wf | apply execPowerOn_wf | apply execPset_wf | apply execPwake_wf
      | apply execQbind_wf | apply execQueryArm_wf | apply execQueryRelease_wf | apply execQueryScan_wf | apply execQunbind_wf | apply execRdel_wf
      | apply execRdom_wf | apply execRdomAnswer_wf | apply execRecordAccept_wf | apply execRecordCommit_wf | apply execRecordMove_wf
      | apply execRecordOperation_wf | apply execRecordRefuse_wf | apply execRegionReply_wf | apply execRegisterWrite_wf | apply execRem_wf
      | apply execRemz_wf | apply execRequestStart_wf | apply execResume_wf | apply execResumeComplete_wf | apply execRetargetNotice_wf
      | apply execRetat_wf | apply execRetryAnswer_wf | apply execReturnNotice_wf | apply execRevoke_wf | apply execRevokeRequest_wf
      | apply execRins_wf | apply execRld_wf | apply execRol_wf | apply execRoli_wf | apply execRpos_wf | apply execRqbox_wf | apply execRqfill_wf
      | apply execRqfillRequest_wf | apply execRqpeek_wf | apply execRqpop_wf | apply execRqrad_wf | apply execRscan_wf | apply execRst_wf
      | apply execRte_wf | apply execSeq_wf | apply execSequencerExecute_wf | apply execSequencerFinish_wf | apply execSext_wf | apply execSll_wf
      | apply execSlli_wf | apply execSlotRetire_wf | apply execSlt_wf | apply execSlti_wf | apply execSltz_wf | apply execSltzi_wf
      | apply execSpawn_wf | apply execSpill_wf | apply execSpillComplete_wf | apply execSqact_wf | apply execSqcfg_wf | apply execSqdec_wf
      | apply execSqend_wf | apply execSqhist_wf | apply execSqload_wf | apply execSqstage_wf | apply execSqtab_wf | apply execSra_wf
      | apply execSrai_wf | apply execSrd_wf | apply execSrl_wf | apply execSrli_wf | apply execSt_wf | apply execStartSequence_wf
      | apply execStatusReport_wf | apply execStf_wf | apply execStoreAck_wf | apply execSts_wf | apply execSub_wf | apply execSwr_wf
      | apply execTaskDispatch_wf | apply execTcmd_wf | apply execTcopy_wf | apply execTemperatureTrip_wf | apply execTgather_wf
      | apply execTicket_wf | apply execTicketRequest_wf | apply execTileFinish_wf | apply execTrap_wf | apply execTrigger_wf
      | apply execTriggerNotice_wf | apply execTriggerReport_wf | apply execTscatter_wf | apply execVabs_wf | apply execVadd_wf | apply execVand_wf
      | apply execVaxpy_wf | apply execVcmp_wf | apply execVcopy_wf | apply execVcvt_wf | apply execVdiv_wf | apply execVdot_wf
      | apply execVectorExecute_wf | apply execVectorFinish_wf | apply execVexp2_wf | apply execVfill_wf | apply execVfma_wf | apply execVfms_wf
      | apply execViadd_wf | apply execVimax_wf | apply execVimin_wf | apply execVimul_wf | apply execViota_wf | apply execVisub_wf
      | apply execVlog2_wf | apply execVlut_wf | apply execVmax_wf | apply execVmin_wf | apply execVmul_wf | apply execVneg_wf | apply execVor_wf
      | apply execVrcp_wf | apply execVrmax_wf | apply execVrmin_wf | apply execVrsqrt_wf | apply execVrsum_wf | apply execVscale_wf
      | apply execVsel_wf | apply execVshl_wf | apply execVshr_wf | apply execVshra_wf | apply execVsqrt_wf | apply execVsub_wf | apply execVxor_wf
      | apply execWaitStoreServe_wf | apply execWaitc_wf | apply execWaitk_wf | apply execXor_wf | apply execXori_wf | apply execYield_wf
      | apply execYieldExpiry_wf | apply execZext_wf | apply fabricRequest_wf | apply faultPacket_wf | apply feAnswer_wf | apply fence_wf
      | apply forwardedValue_wf | apply gsplit_wf | apply guestRetireNotice_wf | apply heatUpdate_wf | apply homeArrive_wf | apply imageCopy_wf
      | apply invalidation_wf | apply invalidationAck_wf | apply kernelRetire_wf | apply kernelSchedule_wf | apply launch_wf
      | apply launchAccept_wf | apply lineReply_wf | apply linkDown_wf | apply linkFrame_wf | apply linkTrained_wf | apply linkWidthChange_wf
      | apply linkw_wf | apply linkwRequest_wf | apply loadReply_wf | apply lqputGo_wf | apply managementLaunch_wf | apply migrationArrive_wf
      | apply migrationDeparture_wf | apply migrationRequest_wf | apply mintLd_wf | apply mloadc_wf | apply mstore_wf | apply multicastPacket_wf
      | apply nextc_wf | apply ownClaim_wf | apply ownHandOver_wf | apply ownRelease_wf | apply packageUnreachable_wf | apply padv_wf
      | apply pageWake_wf | apply pheat_wf | apply pheatComplete_wf | apply pinval_wf | apply placementCommit_wf | apply placementReserve_wf
      | apply pmap_wf | apply pmapComplete_wf | apply pmove_wf | apply pmoveCopyDone_wf | apply podHomeLost_wf | apply powerOn_wf | apply pset_wf
      | apply qbind_wf | apply queryArm_wf | apply rdom_wf | apply rdomAnswer_wf | apply recordAccept_wf | apply recordCommit_wf
      | apply recordMove_wf | apply recordOperation_wf | apply recordRefuse_wf | apply registerWrite_wf | apply resume_wf | apply resumeComplete_wf
      | apply retargetNotice_wf | apply retat_wf | apply retryAnswer_wf | apply returnNotice_wf | apply revoke_wf | apply revokeRequest_wf
      | apply rqfill_wf | apply rqfillRequest_wf | apply rqpop_wf | apply rte_wf | apply sequencerExecute_wf | apply sequencerFinish_wf
      | apply slotRetire_wf | apply spawn_wf | apply spill_wf | apply spillComplete_wf | apply srd_wf | apply startSequence_wf
      | apply statusReport_wf | apply storeAck_wf | apply swr_wf | apply taskDispatch_wf | apply tcmd_wf | apply ticket_wf | apply ticketRequest_wf
      | apply tileFinish_wf | apply trigger_wf | apply triggerNotice_wf | apply triggerReport_wf | apply vectorExecute_wf | apply vectorFinish_wf
      | apply waitStoreServe_wf | apply yieldExpiry_wf | apply KeepsNext.next | apply KeepsNext.fault)
    | refine Keeps.of ?_ (by with_reducible assumption) | split

/-! ## Fetch.lean -/

theorem State.issueAt_wf (s : State) (c n t : Nat) (hw : s.mem.wf = true) : (State.issueAt s c n t).mem.wf = true := by
  unfold State.issueAt; with_reducible repeat' first | assumption | apply State.modCore_wf

theorem State.tick_wf (s : State) (c : Nat) (hw : s.mem.wf = true) : (State.tick s c).mem.wf = true := by
  unfold State.tick; repeat' first
    | (with_reducible first | assumption | apply State.setCore_wf) | refine Keeps.of ?_ (by with_reducible assumption) | split | dsimp only

theorem State.cycle_wf (s : State) (c : Nat) (h : s.mem.wf = true) : (s.cycle c).1.mem.wf = true := by
  unfold State.cycle; repeat' first
    | (with_reducible first
      | assumption | apply State.issueAt_wf | apply State.tick_wf)
    | refine Keeps.of ?_ (by with_reducible assumption) | split | dsimp only

/-! ## Schedule.lean -/

theorem turn_wf (t : Nat) (s : State) (h : s.mem.wf = true) : KeepsNext (turn t s) := by
  unfold turn; split
  · exact execBoundaryTrap_wf _ _ h
  · split
    · exact execFallThrough_wf _ h
    · split
      · exact exec_wf _ _ h
      · exact execIllegalEncoding_wf _ _ h

/-! ## Step.lean -/

theorem runCycle_wf (c : Nat) (s : State) (h : s.mem.wf = true) : KeepsNext (runCycle c s) := by
  unfold runCycle; split
  · exact KeepsNext.fault
  · have h1 := State.cycle_wf s c h
    split
    · rename_i s1 t e; rw [e] at h1; exact turn_wf _ _ h1
    · rename_i s1 e; rw [e] at h1; exact KeepsNext.next h1

theorem runTurn_wf (t : Turn) (s : State) (hw : s.mem.wf = true) : KeepsNext (runTurn t s) := by
  unfold runTurn; repeat' first
    | (with_reducible first
      | assumption | apply State.cycle_wf | apply exec_wf | apply runCycle_wf)
    | refine Keeps.of ?_ (by with_reducible assumption) | split

theorem State.withThread_wf (s : State) (hw : s.mem.wf = true) : (State.withThread s).mem.wf = true := by
  unfold State.withThread; with_reducible repeat' first | assumption | apply State.setSlot_wf

theorem State.withFetchWord_wf (s : State) (nbits w : Nat) (hw : s.mem.wf = true) : (State.withFetchWord s nbits w).mem.wf = true := by
  unfold State.withFetchWord; repeat' first
    | (with_reducible first
      | assumption | apply State.cycle_wf | apply State.withThread_wf)
    | refine Keeps.of ?_ (by with_reducible assumption) | apply Memory.wf_writeN | split

end Sys2Proof.Machine
end

