-- ==== Sys2Proof/Laws/Races.lean ====
section
/-! SUPPORT. What an instruction's write leaves beside what it stores: nothing where it meets no record, table or running command, and
else memory, its DIRTY bits, free values and the cores' own state alone. -/
namespace Sys2Proof.Machine

open State

/-- A write changes memory and the DIRTY bits alone. -/
theorem State.write_frame (s : State) (key n v : Nat) : s.write key n v = { s with mem := (s.write key n v).mem, dirty := (s.write key n v).dirty } := by
  unfold State.write State.markDirty; split <;> rfl

theorem State.write_mem (s : State) (key n v : Nat) : (s.write key n v).mem = s.mem.writeN key n v := by
  unfold State.write State.markDirty; split <;> rfl

/-- What a write would leave undefined does not depend on memory. -/
theorem State.undisturbed_write (s : State) (key n v : Nat) (i : Bool) (k m : Nat) :
    (s.write key n v).undisturbed i k m = s.undisturbed i k m := by rw [write_frame]; rfl

/-- A write that meets nothing leaves nothing undefined (R5). -/
theorem State.disturb_of_undisturbed (s : State) (i : Bool) (key n : Nat) (h : s.undisturbed i key n = true) : s.disturb i key n = s := by
  unfold State.disturb; rw [if_pos h]

/-- An instruction's store that meets no record, table or running command is a plain write. -/
theorem State.store_of_undisturbed (s : State) (key n v : Nat) (h : s.undisturbed true key n = true) : s.store key n v = s.write key n v := by
  unfold State.store; exact disturb_of_undisturbed _ _ _ _ (by rw [undisturbed_write]; exact h)

theorem State.store64_of_undisturbed (s : State) (key : Nat) (v : Word) (h : s.undisturbed true key 8 = true) : s.store64 key v = s.write64 key v :=
  store_of_undisturbed _ _ _ _ h

/-- Bulk memory holds no pool, table or scales. -/
theorem State.undisturbed_bulk (s : State) (i : Bool) (key n : Nat) (h : isBulk key = true) : s.undisturbed i key n = true := by
  simp [State.undisturbed, h]

/-- A step that changes memory, the DIRTY bits, free values and the cores' own state alone. -/
def OnlyData (s t : State) : Prop := t = { s with mem := t.mem, dirty := t.dirty, fresh := t.fresh, cores := t.cores }

theorem OnlyData.refl (s : State) : OnlyData s s := rfl

theorem OnlyData.trans {s t u : State} (h : OnlyData s t) (k : OnlyData t u) : OnlyData s u := by
  unfold OnlyData at *; rw [k, h]

theorem OnlyData.foldl {α : Type} (f : State → α → State) (hf : ∀ x a, OnlyData x (f x a)) (l : List α) (s : State) : OnlyData s (l.foldl f s) := by
  induction l generalizing s with
  | nil => exact .refl s
  | cons a l ih => exact (hf s a).trans (ih _)

theorem State.write_onlyData (s : State) (key n v : Nat) : OnlyData s (s.write key n v) := by
  unfold OnlyData State.write State.markDirty; split <;> rfl

theorem State.freed_onlyData (s : State) (n : Nat) : OnlyData s (s.freed n) := rfl
theorem State.modCore_onlyData (s : State) (c : Nat) (f : CoreRec → CoreRec) : OnlyData s (s.modCore c f) := rfl

theorem State.modMatrix_onlyData (s : State) (c : Nat) (f : Matrix → Matrix) : OnlyData s (s.modMatrix c f) := rfl
theorem State.spoilAcc_onlyData (s : State) (c : Nat) : OnlyData s (s.spoilAcc c) := rfl

/-- Seeing that commands are over changes the cores' own state alone. -/
theorem State.forgetTiles_onlyData (s : State) (c : Nat) (p : TileCmd → Bool) : OnlyData s (s.forgetTiles c p) := by
  unfold State.forgetTiles; split
  · exact modMatrix_onlyData _ _ _
  · exact .refl s

/-- A core with no MMAS that its thread has yet to see over is left as it is. -/
theorem State.forgetTiles_none (s : State) (c : Nat) (p : TileCmd → Bool) (h : (s.coreRec c).matrix.unseen = []) : s.forgetTiles c p = s := by
  unfold State.forgetTiles; rw [h]; rfl

theorem State.freeBytes_onlyData (s : State) (key n : Nat) : OnlyData s (s.freeBytes key n) :=
  (OnlyData.foldl _ (fun x i => x.write_onlyData (key + i) 1 (fld (Config.freeWord (s.fresh + i / 8)) (8 * (i % 8)) 8)) _ _).trans (freed_onlyData _ _)

theorem State.freeBrick_onlyData (s : State) (c : Nat) (e : Domain × Nat) : OnlyData s (s.freeBrick c e) := by
  unfold State.freeBrick
  exact ((s.freed_onlyData 1).trans (write_onlyData _ _ _ _)).trans (modCore_onlyData _ _ _)

/-- What a write leaves undefined is memory, an owner as a core knows it, and a mark of a command: nothing else changes. -/
theorem State.disturb_onlyData (s : State) (i : Bool) (key n : Nat) : OnlyData s (s.disturb i key n) := by
  unfold State.disturb
  split
  · exact .refl s
  · generalize keyCore key = c, keyOff key = o
    dsimp only
    have h1 (l : List (Nat × Nat)) : OnlyData s (l.foldl (fun (x : State) r => x.freeBytes (spadKey c r.1) r.2) s) :=
      OnlyData.foldl _ (fun x r => x.freeBytes_onlyData _ _) _ _
    have h2 (l : List (Domain × Nat)) (x : State) : OnlyData x (l.foldl (fun (x : State) e => x.freeBrick c e) x) :=
      OnlyData.foldl _ (fun x e => x.freeBrick_onlyData _ _) _ _
    have h3 (l : List (Nat × Nat)) (m : List (Domain × Nat)) (x : Bool) : OnlyData s (if x = true then
        (m.foldl (fun (x : State) e => x.freeBrick c e) (l.foldl (fun (x : State) r => x.freeBytes (spadKey c r.1) r.2) s)).modMatrix c (markRaces o n)
        else m.foldl (fun (x : State) e => x.freeBrick c e) (l.foldl (fun (x : State) r => x.freeBytes (spadKey c r.1) r.2) s)) := by
      split
      · exact ((h1 _).trans (h2 _ _)).trans (modMatrix_onlyData _ _ _)
      · exact (h1 _).trans (h2 _ _)
    split
    · exact (h3 _ _ _).trans (spoilAcc_onlyData _ _)
    · exact h3 _ _ _

theorem State.put_onlyData (s : State) (key n v : Nat) : OnlyData s (s.put key n v) :=
  (s.write_onlyData key n v).trans (State.disturb_onlyData _ _ _ _)

/-- An agent's write that meets no record or table is a plain write. -/
theorem State.put_of_undisturbed (s : State) (key n v : Nat) (h : s.undisturbed false key n = true) : s.put key n v = s.write key n v := by
  unfold State.put; exact disturb_of_undisturbed _ _ _ _ (by rw [undisturbed_write]; exact h)

theorem State.putWords_onlyData (ws : List Word) (s : State) (key : Nat) : OnlyData s (s.putWords key ws) := by
  induction ws generalizing s key with
  | nil => exact .refl s
  | cons w r ih => exact (put_onlyData s key 8 w.toNat).trans (ih _ _)

theorem State.store_onlyData (s : State) (key n v : Nat) : OnlyData s (s.store key n v) :=
  (s.write_onlyData key n v).trans (State.disturb_onlyData _ _ _ _)

end Sys2Proof.Machine
end

