-- ==== Sys2Proof/Laws/Reductions.lean ====
section
/-! SUPPORT. The order in which reductions combine their elements: the model's tree and fold are the rule's (R49). -/
namespace Sys2Proof.Machine
open Sys2Proof.Claims

theorem pairUp_append {α : Type} (f : α → α → α) (l1 l2 : List α) (h : l1.length % 2 = 0) : pairUp f (l1 ++ l2) = pairUp f l1 ++ pairUp f l2 := by
  induction l1 using pairUp.induct with
  | case1 a b l ih => simp only [List.cons_append, pairUp]; rw [ih (by simp at h; omega)]
  | case2 l hl =>
    match l, hl with
    | [], _ => simp [pairUp]
    | [a], _ => simp at h
    | a :: b :: l, hl => exact absurd rfl (hl a b l)

theorem pairUp_length {α : Type} (f : α → α → α) (l : List α) : (pairUp f l).length = (l.length + 1) / 2 := by
  induction l using pairUp.induct with
  | case1 a b l ih => simp only [pairUp, List.length_cons]; omega
  | case2 l hl =>
    match l, hl with
    | [], _ => simp [pairUp]
    | [a], _ => simp [pairUp]
    | a :: b :: l, hl => exact absurd rfl (hl a b l)

/-- The tree of one element is that element. -/
theorem treeOf_one {α : Type} (f : α → α → α) (n : Nat) (a : α) : treeOf f n [a] = some a := by
  induction n with
  | zero => rfl
  | succ n ih => simpa [treeOf, pairUp] using ih

/-- The tree of more elements combines the trees of its parts. -/
theorem treeOf_split {α : Type} (f : α → α → α) (k : Nat) : ∀ n (l1 l2 : List α) a b, k < n → l1.length = 2 ^ k → 0 < l2.length → l2.length ≤ 2 ^ k →
    treeOf f k l1 = some a → treeOf f k l2 = some b → treeOf f n (l1 ++ l2) = some (f a b) := by
  induction k with
  | zero =>
    intro n l1 l2 a b hk h1 h2 h3 ha hb
    obtain ⟨n, rfl⟩ : ∃ m, n = m + 1 := ⟨n - 1, by omega⟩
    match l1, h1 with
    | [x], _ =>
      match l2, h2, h3 with
      | [y], _, _ =>
        simp [treeOf] at ha hb; subst ha hb
        simp only [treeOf, List.cons_append, List.nil_append, pairUp]; exact treeOf_one f n _
      | x :: y :: l, _, h3 => simp at h3
    | [], h1 => simp at h1
    | x :: y :: l, h1 => simp at h1
  | succ k ih =>
    intro n l1 l2 a b hk h1 h2 h3 ha hb
    obtain ⟨n, rfl⟩ : ∃ m, n = m + 1 := ⟨n - 1, by omega⟩
    have e : l1.length % 2 = 0 := by rw [h1, pow_succ]; omega
    rw [treeOf, pairUp_append f l1 l2 e]
    rw [pow_succ] at h1 h3
    exact ih n _ _ a b (by omega) (by rw [pairUp_length]; omega) (by rw [pairUp_length]; omega) (by rw [pairUp_length]; omega) ha hb

/-- A tree of enough levels answers the same. -/
theorem treeOf_levels {α : Type} (f : α → α → α) : ∀ n m (l : List α), l.length ≤ 2 ^ n → n ≤ m → treeOf f m l = treeOf f n l := by
  intro n
  induction n with
  | zero =>
    intro m l h _
    match l, h with
    | [], _ =>
      induction m with
      | zero => rfl
      | succ m ih => simpa [treeOf, pairUp] using ih (by omega)
    | [a], _ => rw [treeOf_one, treeOf_one]
    | x :: y :: l, h => simp at h
  | succ n ih =>
    intro m l h hm
    obtain ⟨m, rfl⟩ : ∃ k, m = k + 1 := ⟨m - 1, by omega⟩
    rw [treeOf, treeOf]
    exact ih m _ (by rw [pairUp_length]; rw [pow_succ] at h; omega) (by omega)

section
variable (step : Nat → Nat → Nat × Nat → Prop) (g : Nat → Nat → Nat × Nat) (hg : ∀ x y, step x y (g x y))
include hg

/-- The model's tree is the rule's. -/
theorem treeOf_rule : ∀ n (l : List (Nat × Nat)), l.length = n → 0 < n → n ≤ 1024 → ∃ a, treeOf (combine2 g) 10 l = some a ∧ TreeOf step l a := by
  intro n
  induction n using Nat.strongRecOn with
  | ind n ih =>
    intro l hl h0 h1
    by_cases h : n = 1
    · match l, hl with
      | [a], _ => exact ⟨a, treeOf_one _ _ _, .one a⟩
      | [], hl => simp at hl; omega
      | x :: y :: l, hl => simp at hl; omega
    · have hk1 : 2 ^ (n - 1).log2 ≤ n - 1 := Nat.log2_self_le (by omega)
      have hk2 : n - 1 < 2 ^ ((n - 1).log2 + 1) := Nat.lt_log2_self
      generalize (n - 1).log2 = k at *
      rw [pow_succ] at hk2
      have k10 : k < 10 := by
        by_contra c
        have : 2 ^ 10 ≤ 2 ^ k := Nat.pow_le_pow_right (by norm_num) (by omega)
        omega
      have hp : 0 < 2 ^ k := by positivity
      have t1 : (l.take (2 ^ k)).length = 2 ^ k := by rw [List.length_take]; omega
      have t2 : (l.drop (2 ^ k)).length = n - 2 ^ k := by rw [List.length_drop]; omega
      obtain ⟨a, a1, a2⟩ := ih (2 ^ k) (by omega) _ t1 (by omega) (by omega)
      obtain ⟨b, b1, b2⟩ := ih (n - 2 ^ k) (by omega) _ t2 (by omega) (by omega)
      rw [treeOf_levels _ k 10 _ (by omega) (by omega)] at a1 b1
      have S := treeOf_split (combine2 g) k 10 _ _ a b k10 t1 (by omega) (by omega) a1 b1
      rw [List.take_append_drop] at S
      have T := TreeOf.node k _ _ a b (g a.1 b.1) t1 (by omega) (by omega) a2 b2 (hg _ _)
      rw [List.take_append_drop] at T
      exact ⟨_, S, T⟩

/-- The model's fold of beats is the rule's (R49). -/
theorem foldBeats_rule (e : Nat) (h0 : 0 < e) (h1 : e ≤ 1024) (l : List (Nat × Nat)) (hl : 0 < l.length) :
    ∃ a, foldBeats (combine2 g) e ((l.length + e - 1) / e) l = some a ∧ FoldOf step e l a := by
  obtain ⟨K, hK, k1, k2⟩ : ∃ K, (l.length + e - 1) / e = K + 1 ∧ K * e < l.length ∧ l.length ≤ (K + 1) * e := by
    refine ⟨(l.length - 1) / e, ?_, ?_, ?_⟩
    · rw [show l.length + e - 1 = l.length - 1 + e by omega, Nat.add_div_right _ h0]
    · have := Nat.div_mul_le_self (l.length - 1) e; omega
    · have a := Nat.div_add_mod (l.length - 1) e
      have b := Nat.mod_lt (l.length - 1) h0
      have c : ((l.length - 1) / e + 1) * e = e * ((l.length - 1) / e) + e := by ring
      omega
  rw [hK]
  obtain ⟨a, a1, a2⟩ := treeOf_rule step g hg _ (l.take e) rfl (by rw [List.length_take]; omega) (by rw [List.length_take]; omega)
  have U : foldBeats (combine2 g) e (K + 1) l = some ((List.range K).foldl (fun acc j => match treeOf (combine2 g) 10 (((l.drop e).drop (j * e)).take e) with
      | some x => combine2 g acc x
      | none => acc) a) := by
    unfold foldBeats; simp only [a1]; congr 2; funext acc j; cases treeOf (combine2 g) 10 (((l.drop e).drop (j * e)).take e) <;> rfl
  rw [U]
  refine ⟨_, rfl, ?_⟩
  have key : ∀ j, j ≤ K → FoldOf step e (l.take ((j + 1) * e)) ((List.range j).foldl (fun acc j => match treeOf (combine2 g) 10 (((l.drop e).drop (j * e)).take e) with
      | some x => combine2 g acc x
      | none => acc) a) := by
    intro j
    induction j with
    | zero => intro _; simpa using FoldOf.first _ a (by rw [List.length_take]; omega) a2
    | succ j ih =>
      intro hj
      have F := ih (by omega)
      rw [List.range_succ, List.foldl_append]
      simp only [List.foldl_cons, List.foldl_nil]
      have d1 : (l.drop e).drop (j * e) = l.drop ((j + 1) * e) := by rw [List.drop_drop]; congr 1; ring
      have hje : (j + 1) * e ≤ K * e := Nat.mul_le_mul_right _ hj
      have len : (((l.drop e).drop (j * e)).take e).length = min e (l.length - (j + 1) * e) := by rw [d1, List.length_take, List.length_drop]
      obtain ⟨b, b1, b2⟩ := treeOf_rule step g hg _ (((l.drop e).drop (j * e)).take e) rfl (by omega) (by omega)
      rw [b1]
      have e1 : l.take ((j + 1 + 1) * e) = l.take ((j + 1) * e) ++ (((l.drop e).drop (j * e)).take e) := by
        rw [d1, show (j + 1 + 1) * e = (j + 1) * e + e by ring, List.take_add]
      rw [e1]
      exact FoldOf.next (j + 1) _ _ _ b _ (by rw [List.length_take]; omega) (by omega) (by omega) (by omega) F b2 (hg _ _)
  have := key K (le_refl _)
  rwa [List.take_of_length_le k2] at this

end

end Sys2Proof.Machine
end

