-- ==== Sys2Proof/Tests/Slice0.lean ====
section
/-! SUPPORT. Tests: ill-formed terms and rejected words, a decoded word of every constructor, one step on small states, and for every
statement with hypotheses the named witnesses that meet them. -/
open Sys2Proof Sys2Proof.Machine Sys2Proof.Claims

set_option Elab.async false

namespace Sys2Proof.Tests

/-- A supervisor thread of context 0 in slot 0 of core 0 with the whole window, at offset 0, is the issuer. -/
def base : State := State.reset.withThread

/-- base with register values. -/
def regs (l : List (Nat × Word)) : State := l.foldl (fun s e => s.writeReg 0 e.1 e.2) base

/-- The issuing slot of s changed. -/
def mine (s : State) (f : Slot → Slot) : State := s.modMe f

/-- Core 0 of s changed. -/
def own (s : State) (f : CoreRec → CoreRec) : State := s.modCore 0 f

/-- f holds of the next state. -/
def after (o : Host.Outcome State Fault Refusal) (f : State → Bool) : Bool :=
  match o with
  | .next t => f t
  | _ => false

theorem ok_of {ε α : Type} {e : Except ε α} {x : α} (h : (match e with | .ok y => some y | .error _ => none) = some x) :
    e = .ok x := by
  cases e <;> simp_all

theorem error_of {ε α : Type} {e : Except ε α} {x : ε} (h : (match e with | .error y => some y | .ok _ => none) = some x) :
    e = .error x := by
  cases e <;> simp_all

theorem next_of {o : Host.Outcome State Fault Refusal} (h : after o (fun _ => true) = true) : ∃ t, o = .next t := by
  cases o <;> simp_all [after]

theorem okay_of {ε α : Type} {e : Except ε α} (h : (match e with | .ok _ => true | .error _ => false) = true) : ∃ x, e = .ok x := by
  cases e <;> simp_all

theorem released_of {ord : BitVec 2} {sc : BitVec 3} {info : Word} {s : State}
    (h : (ord.getLsbD 1 = false) ∨ (match s.release (scopeOf sc) info with | .ok none => true | _ => false) = true) :
    Released ord sc info s := by
  intro h1
  cases h with
  | inl h => simp_all
  | inr h => generalize s.release (scopeOf sc) info = e at h ⊢; rcases e with e | e <;> simp_all; cases e <;> simp_all

/-- The network of s replaced. -/
def net (l : List Msg) (s : State) : State := { s with net := l }

/-- A request of base's thread to core 1, started or not, and an answer to it. -/
def ask (b : Body) (started : Bool := true) : Msg := { id := 9, uid := 1, src := .core 0, slot := 0, dst := .core 1, started := started, body := b }
def answer (b : Body) : Msg := { id := 9, uid := 1, src := .core 1, dst := .core 0, resp := true, body := b }

/-! ## Ill-formed terms: one for each check, refused by WellFormed.check -/

theorem test_illformed_ordering : (WellFormed.check (.lds 1 2 1 5) = some .scope ∧ WellFormed.check (.sts 1 2 0 1) = some .scopeOfPlain ∧
    WellFormed.check (.lds 1 2 2 0) = some .ordering ∧ WellFormed.check (.sts 1 2 1 0) = some .ordering) := by decide

theorem test_illformed_fence : WellFormed.check (.fence 0 0 1) = some .fenceField ∧ WellFormed.check (.fence 0 1 6) = some .fenceField ∧
    WellFormed.check (.fence 1 1 1) = some .fenceRegister ∧ WellFormed.check (.waitk 0) = some .emptyMask := by decide

theorem test_illformed_fields : WellFormed.check (.mintLd 1 0 0) = some .noSource ∧ WellFormed.check (.loop 1 0) = some .emptyBody ∧
    WellFormed.check (.tcmd 0 8 0 6) = some .barrierLevel ∧ WellFormed.check (.pinval 8 3) = some .pageSize ∧
    WellFormed.check (.cellres 1 0) = some .slotCount ∧ WellFormed.check (.cellrel 1 65) = some .slotCount ∧
    WellFormed.check (.linkw 1 4) = some .widthCode := by decide

theorem test_illformed_format : WellFormed.check (.vadd 0 1 2 4 8) = some .format ∧ WellFormed.check (.viadd 0 1 2 0 8) = some .format ∧
    WellFormed.check (.vrsum 0 1 10 8) = some .format ∧ WellFormed.check (.vcmp 0 1 2 12 8) = some .format ∧
    WellFormed.check (.vcvt 0 1 6 8) = some .format := by decide

/-! ## Words the decoder rejects, by name -/

/-- The reason a word is rejected. -/
def rejected (w : Nat) : Option DecodeError := match decode (wordBytes w) with | .error e => some e | .ok _ => none

theorem test_reject_short : (match decode [1, 2, 3] with | .error e => some e | .ok _ => none) = some .truncated := by decide
theorem test_reject_major : rejected 0b111111_00000000000000000000000000 = some .reservedMajor ∧ rejected 0 = some .reservedMajor := by decide
theorem test_reject_function : rejected 0b001011_0000001_0000010_111_000000000 = some .unassignedFunction := by decide
theorem test_reject_reserved : rejected 0b001000_0000001_0000010_00_0001_000011 = some .reservedField ∧
    rejected 0b010101_0000001_000000000100_0000001 = some .reservedField := by decide
theorem test_reject_illformed : rejected 0b010101_0000001_000000000000_0000000 = some (.illFormed .emptyBody) ∧
    rejected 0b100000_0000100_0001001_0000010_01_000 = some (.illFormed .ordering) := by decide

/-- The worked words of R72, of R183 and of the tile chapter. -/
theorem test_decode_worked_words : decodeTableWord 32 0x042860E0 = some (.add 5 6 7) ∧ decodeTableWord 32 0x60188803 = some (.ld 3 8 2 3) ∧
    decodeTableWord 32 0x80209051 = some (.sts 4 9 2 1) ∧ decodeTableWord 32 0x4005FFFD = some (.bz 5 0xFFFD) ∧
    decodeTableWord 32 0xE114A000 = some (.tcmd 2 20 1 2) ∧ decodeTableWord 32 0xE0940000 = some (.tcmd 1 20 0 0) ∧
    decodeTableWord 32 0xE0148000 = some (.tcmd 0 20 1 0) ∧ decodeTableWord 32 0x4C40A120 = some (.callat 8 10 9) := by decide

/-- QBIND with a d field below 124 (R196). -/
theorem test_reject_queue_code : rejected 0b100100_0000001_0000010_0000000_00000 = some .badQueueCode := by decide

/-! ## Decoding: a word of every constructor, its fields from the tables of R53, R60 to R67, R172 and R196 -/

theorem test_decode_major_01_1 :
    decodeTableWord 32 0b000001_1000101_0100110_1010011_00000 = some (.add 0x45 0x26 0x53) ∧
    decodeTableWord 32 0b000001_1000101_0100110_1010011_00001 = some (.sub 0x45 0x26 0x53) ∧
    decodeTableWord 32 0b000001_1000101_0100110_1010011_00010 = some (.and 0x45 0x26 0x53) ∧
    decodeTableWord 32 0b000001_1000101_0100110_1010011_00011 = some (.or 0x45 0x26 0x53) ∧
    decodeTableWord 32 0b000001_1000101_0100110_1010011_00100 = some (.xor 0x45 0x26 0x53) ∧
    decodeTableWord 32 0b000001_1000101_0100110_1010011_00101 = some (.andn 0x45 0x26 0x53) ∧
    decodeTableWord 32 0b000001_1000101_0100110_1010011_00110 = some (.sll 0x45 0x26 0x53) ∧
    decodeTableWord 32 0b000001_1000101_0100110_1010011_00111 = some (.srl 0x45 0x26 0x53) ∧
    decodeTableWord 32 0b000001_1000101_0100110_1010011_01000 = some (.sra 0x45 0x26 0x53) ∧
    decodeTableWord 32 0b000001_1000101_0100110_1010011_01001 = some (.rol 0x45 0x26 0x53) ∧
    decodeTableWord 32 0b000001_1000101_0100110_1010011_01010 = some (.slt 0x45 0x26 0x53) ∧
    decodeTableWord 32 0b000001_1000101_0100110_1010011_01011 = some (.sltz 0x45 0x26 0x53) := by
  decide

theorem test_decode_major_01_2 :
    decodeTableWord 32 0b000001_1000101_0100110_1010011_01100 = some (.seq 0x45 0x26 0x53) ∧
    decodeTableWord 32 0b000001_1000101_0100110_1010011_01101 = some (.min 0x45 0x26 0x53) ∧
    decodeTableWord 32 0b000001_1000101_0100110_1010011_01110 = some (.max 0x45 0x26 0x53) ∧
    decodeTableWord 32 0b000001_1000101_0100110_1010011_01111 = some (.minz 0x45 0x26 0x53) ∧
    decodeTableWord 32 0b000001_1000101_0100110_1010011_10000 = some (.maxz 0x45 0x26 0x53) ∧
    decodeTableWord 32 0b000001_1000101_0100110_1010011_10001 = some (.mul 0x45 0x26 0x53) ∧
    decodeTableWord 32 0b000001_1000101_0100110_1010011_10010 = some (.mulh 0x45 0x26 0x53) ∧
    decodeTableWord 32 0b000001_1000101_0100110_1010011_10011 = some (.mulhz 0x45 0x26 0x53) ∧
    decodeTableWord 32 0b000001_1000101_0100110_1010011_10100 = some (.div 0x45 0x26 0x53) ∧
    decodeTableWord 32 0b000001_1000101_0100110_1010011_10101 = some (.divz 0x45 0x26 0x53) ∧
    decodeTableWord 32 0b000001_1000101_0100110_1010011_10110 = some (.rem 0x45 0x26 0x53) ∧
    decodeTableWord 32 0b000001_1000101_0100110_1010011_10111 = some (.remz 0x45 0x26 0x53) := by
  decide

theorem test_decode_major_01_3 :
    decodeTableWord 32 0b000001_1000101_0100110_0000000_11000 = some (.clz 0x45 0x26) ∧
    decodeTableWord 32 0b000001_1000101_0100110_0000000_11001 = some (.ctz 0x45 0x26) ∧
    decodeTableWord 32 0b000001_1000101_0100110_0000000_11010 = some (.popc 0x45 0x26) ∧
    decodeTableWord 32 0b000001_1000101_0100110_0000000_11011 = some (.brev 0x45 0x26) ∧
    decodeTableWord 32 0b000001_1000101_0100110_1010011_11100 = some (.sext 0x45 0x26 0x53) ∧
    decodeTableWord 32 0b000001_1000101_0100110_1010011_11101 = some (.zext 0x45 0x26 0x53) := by
  decide

theorem test_decode_major_02 :
    decodeTableWord 32 0b000010_1000101_0100110_101000110101 = some (.addi 0x45 0x26 0xA35) := by
  decide

theorem test_decode_major_03 :
    decodeTableWord 32 0b000011_1000101_0100110_101000110101 = some (.andi 0x45 0x26 0xA35) := by
  decide

theorem test_decode_major_04 :
    decodeTableWord 32 0b000100_1000101_0100110_101000110101 = some (.ori 0x45 0x26 0xA35) := by
  decide

theorem test_decode_major_05 :
    decodeTableWord 32 0b000101_1000101_0100110_101000110101 = some (.xori 0x45 0x26 0xA35) := by
  decide

theorem test_decode_major_06 :
    decodeTableWord 32 0b000110_1000101_0100110_101000110101 = some (.slti 0x45 0x26 0xA35) := by
  decide

theorem test_decode_major_07 :
    decodeTableWord 32 0b000111_1000101_0100110_101000110101 = some (.sltzi 0x45 0x26 0xA35) := by
  decide

theorem test_decode_major_08 :
    decodeTableWord 32 0b001000_1000101_0100110_00_0000_101011 = some (.slli 0x45 0x26 0x2B) ∧
    decodeTableWord 32 0b001000_1000101_0100110_01_0000_101011 = some (.srli 0x45 0x26 0x2B) ∧
    decodeTableWord 32 0b001000_1000101_0100110_10_0000_101011 = some (.srai 0x45 0x26 0x2B) ∧
    decodeTableWord 32 0b001000_1000101_0100110_11_0000_101011 = some (.roli 0x45 0x26 0x2B) := by
  decide

theorem test_decode_major_09 :
    decodeTableWord 32 0b001001_1000101_1011010001101011100 = some (.lui 0x45 0x5A35C) := by
  decide

theorem test_decode_major_0A :
    decodeTableWord 32 0b001010_1000101_1011010001101011100 = some (.addpc 0x45 0x5A35C) := by
  decide

theorem test_decode_major_0B :
    decodeTableWord 32 0b001011_1000101_0100110_000_000000000 = some (.cabs 0x45 0x26) ∧
    decodeTableWord 32 0b001011_1000101_0100110_001_000000000 = some (.crel 0x45 0x26) ∧
    decodeTableWord 32 0b001011_1000101_0100110_010_000000000 = some (.cpack 0x45 0x26) ∧
    decodeTableWord 32 0b001011_1000101_0100110_011_000000000 = some (.cx 0x45 0x26) ∧
    decodeTableWord 32 0b001011_1000101_0100110_100_000000000 = some (.cy 0x45 0x26) := by
  decide

theorem test_decode_major_10 :
    decodeTableWord 32 0b010000_000_0100110_1001101000110101 = some (.bz 0x26 0x9A35) ∧
    decodeTableWord 32 0b010000_001_0100110_1001101000110101 = some (.bnz 0x26 0x9A35) ∧
    decodeTableWord 32 0b010000_010_0100110_1001101000110101 = some (.bltz 0x26 0x9A35) ∧
    decodeTableWord 32 0b010000_011_0100110_1001101000110101 = some (.bgez 0x26 0x9A35) ∧
    decodeTableWord 32 0b010000_100_0100110_1001101000110101 = some (.bgtz 0x26 0x9A35) ∧
    decodeTableWord 32 0b010000_101_0100110_1001101000110101 = some (.blez 0x26 0x9A35) ∧
    decodeTableWord 32 0b010000_110_0100110_1001101000110101 = some (.bfull 0x26 0x9A35) ∧
    decodeTableWord 32 0b010000_111_0100110_1001101000110101 = some (.bempty 0x26 0x9A35) := by
  decide

theorem test_decode_major_11 :
    decodeTableWord 32 0b010001_1000101_1011010001101011100 = some (.jmp 0x45 0x5A35C) := by
  decide

theorem test_decode_major_12 :
    decodeTableWord 32 0b010010_1000101_0100110_101000110101 = some (.jmpr 0x45 0x26 0xA35) := by
  decide

theorem test_decode_major_13 :
    decodeTableWord 32 0b010011_1000101_0100110_0101011_00000 = some (.callat 0x45 0x26 0x2B) := by
  decide

theorem test_decode_major_14 :
    decodeTableWord 32 0b010100_1000101_0000000000000000000 = some (.retat 0x45) := by
  decide

theorem test_decode_major_15 :
    decodeTableWord 32 0b010101_1000101_101000110101_0000000 = some (.loop 0x45 0xA35) := by
  decide

theorem test_decode_major_18 :
    decodeTableWord 32 0b011000_1000101_0100110_10_1000110101 = some (.ld 0x45 0x26 2 0x235) := by
  decide

theorem test_decode_major_19 :
    decodeTableWord 32 0b011001_1000101_0100110_10_1000110101 = some (.ldz 0x45 0x26 2 0x235) := by
  decide

theorem test_decode_major_1A :
    decodeTableWord 32 0b011010_1000101_0100110_10_1000110101 = some (.st 0x45 0x26 2 0x235) := by
  decide

theorem test_decode_major_20 :
    decodeTableWord 32 0b100000_1000101_0100110_0000000_01_011 = some (.lds 0x45 0x26 1 3) ∧
    decodeTableWord 32 0b100000_1000101_0100110_0000001_01_011 = some (.ldf 0x45 0x26 1 3) ∧
    decodeTableWord 32 0b100000_1000101_0100110_0000010_10_011 = some (.sts 0x45 0x26 2 3) ∧
    decodeTableWord 32 0b100000_1000101_0100110_0000011_10_011 = some (.stf 0x45 0x26 2 3) ∧
    decodeTableWord 32 0b100000_0000000_0100110_0000100_10_011 = some (.empty 0x26 2 3) := by
  decide

theorem test_decode_major_21 :
    decodeTableWord 32 0b100001_1000101_0100110_0000000_01_011 = some (.atomFadd 0x45 0x26 1 3) ∧
    decodeTableWord 32 0b100001_1000101_0100110_0000001_01_011 = some (.atomFmin 0x45 0x26 1 3) ∧
    decodeTableWord 32 0b100001_1000101_0100110_0000010_01_011 = some (.atomFmax 0x45 0x26 1 3) ∧
    decodeTableWord 32 0b100001_1000101_0100110_0000011_01_011 = some (.atomSwap 0x45 0x26 1 3) ∧
    decodeTableWord 32 0b100001_1000101_0100110_0000100_01_011 = some (.atomCas 0x45 0x26 1 3) ∧
    decodeTableWord 32 0b100001_1000101_0100110_0000101_01_011 = some (.atomAnd 0x45 0x26 1 3) ∧
    decodeTableWord 32 0b100001_1000101_0100110_0000110_01_011 = some (.atomOr 0x45 0x26 1 3) ∧
    decodeTableWord 32 0b100001_1000101_0100110_0000111_01_011 = some (.atomXor 0x45 0x26 1 3) ∧
    decodeTableWord 32 0b100001_1000101_0100110_0001000_01_011 = some (.atomFaddf 0x45 0x26 1 3) := by
  decide

theorem test_decode_major_22 :
    decodeTableWord 32 0b100010_1000101_0000000_0000000_10_101 = some (.fence 0x45 2 5) ∧
    decodeTableWord 32 0b100010_0000000_0000001_111_001_100_010 = some (.waitc 7 1 4 2) ∧
    decodeTableWord 32 0b100010_0000000_0000010_0000_10100110 = some (.waitk 0xA6) := by
  decide

theorem test_decode_major_23 :
    decodeTableWord 32 0b100011_1000101_0000000_1010011_00000 = some (.mint 0x45 0x53) ∧
    decodeTableWord 32 0b100011_1000101_0100110_1010011_00000 = some (.mintLd 0x45 0x26 0x53) ∧
    decodeTableWord 32 0b100011_0000000_0100110_1010011_00001 = some (.deliv 0x26 0x53) ∧
    decodeTableWord 32 0b100011_1000101_0100110_0000000_00010 = some (.revoke 0x45 0x26) ∧
    decodeTableWord 32 0b100011_1000101_00000000000000_00011 = some (.nstat 0x45) := by
  decide

theorem test_decode_major_24 :
    decodeTableWord 32 0b100100_1111110_0100110_0000000_00000 = some (.qbind 2 0x26) ∧
    decodeTableWord 32 0b100100_1111110_00000000000000_00001 = some (.qunbind 2) ∧
    decodeTableWord 32 0b100100_1000101_0100110_0000000_00010 = some (.ticket 0x45 0x26) ∧
    decodeTableWord 32 0b100100_1000101_0100110_1000101_00011 = some (.rqfill 0x45 0x26 0x45) ∧
    decodeTableWord 32 0b100100_1000101_0100110_0000000_00100 = some (.rqpop 0x45 0x26) ∧
    decodeTableWord 32 0b100100_1000101_0100110_0000000_00101 = some (.rqpeek 0x45 0x26) := by
  decide

theorem test_decode_major_25 :
    decodeTableWord 32 0b100101_0000000_0100110_1010011_00000 = some (.decr 0x26 0x53) ∧
    decodeTableWord 32 0b100101_000000000000000000000_00001 = some (.nextc) ∧
    decodeTableWord 32 0b100101_1000101_0100110_1010011_00010 = some (.cinit 0x45 0x26 0x53) := by
  decide

theorem test_decode_major_26 :
    decodeTableWord 32 0b100110_1000101_0100110_1010011_00000 = some (.barm 0x45 0x26 0x53) ∧
    decodeTableWord 32 0b100110_1000101_0100110_1010011_00001 = some (.barv 0x45 0x26 0x53) ∧
    decodeTableWord 32 0b100110_1000101_0100110_1010011_00010 = some (.bwait 0x45 0x26 0x53) ∧
    decodeTableWord 32 0b100110_1000101_0100110_1010011_00011 = some (.barw 0x45 0x26 0x53) ∧
    decodeTableWord 32 0b100110_1000101_0100110_1010011_00100 = some (.berr 0x45 0x26 0x53) ∧
    decodeTableWord 32 0b100110_1000101_0100110_0000000_00101 = some (.bstat 0x45 0x26) := by
  decide

theorem test_decode_major_27 :
    decodeTableWord 32 0b100111_1000101_0100110_0000000_00000 = some (.launch 0x45 0x26) ∧
    decodeTableWord 32 0b100111_000000000000000000000_00001 = some (.trigger) ∧
    decodeTableWord 32 0b100111_1000101_0100110_0000000_00010 = some (.done 0x45 0x26) ∧
    decodeTableWord 32 0b100111_1000101_0100110_1010011_00011 = some (.gsplit 0x45 0x26 0x53) ∧
    decodeTableWord 32 0b100111_1000101_0100110_0000000_00100 = some (.grank 0x45 0x26) := by
  decide

theorem test_decode_major_30_1 :
    decodeTableWord 32 0b110000_110_011_101_0010_0101011_000000 = some (.vadd 6 3 5 2 0x2B) ∧
    decodeTableWord 32 0b110000_110_011_101_0010_0101011_000001 = some (.vsub 6 3 5 2 0x2B) ∧
    decodeTableWord 32 0b110000_110_011_101_0010_0101011_000010 = some (.vmul 6 3 5 2 0x2B) ∧
    decodeTableWord 32 0b110000_110_011_101_0010_0101011_000011 = some (.vfma 6 3 5 2 0x2B) ∧
    decodeTableWord 32 0b110000_110_011_101_0010_0101011_000100 = some (.vfms 6 3 5 2 0x2B) ∧
    decodeTableWord 32 0b110000_110_011_101_0010_0101011_000101 = some (.vdiv 6 3 5 2 0x2B) ∧
    decodeTableWord 32 0b110000_110_011_000_0010_0101011_000110 = some (.vsqrt 6 3 2 0x2B) ∧
    decodeTableWord 32 0b110000_110_011_000_0010_0101011_000111 = some (.vrsqrt 6 3 2 0x2B) ∧
    decodeTableWord 32 0b110000_110_011_101_0010_0101011_001000 = some (.vmin 6 3 5 2 0x2B) ∧
    decodeTableWord 32 0b110000_110_011_101_0010_0101011_001001 = some (.vmax 6 3 5 2 0x2B) ∧
    decodeTableWord 32 0b110000_110_011_000_0010_0101011_001010 = some (.vabs 6 3 2 0x2B) ∧
    decodeTableWord 32 0b110000_110_011_000_0010_0101011_001011 = some (.vneg 6 3 2 0x2B) := by
  decide

theorem test_decode_major_30_2 :
    decodeTableWord 32 0b110000_110_011_000_0010_0101011_001100 = some (.vexp2 6 3 2 0x2B) ∧
    decodeTableWord 32 0b110000_110_011_000_0010_0101011_001101 = some (.vlog2 6 3 2 0x2B) ∧
    decodeTableWord 32 0b110000_110_011_000_0010_0101011_001110 = some (.vrcp 6 3 2 0x2B) ∧
    decodeTableWord 32 0b110000_110_011_000_0010_0101011_001111 = some (.vscale 6 3 2 0x2B) ∧
    decodeTableWord 32 0b110000_110_011_101_0010_0101011_010000 = some (.vaxpy 6 3 5 2 0x2B) := by
  decide

theorem test_decode_major_31 :
    decodeTableWord 32 0b110001_110_011_101_1001_0101011_000000 = some (.viadd 6 3 5 9 0x2B) ∧
    decodeTableWord 32 0b110001_110_011_101_1001_0101011_000001 = some (.visub 6 3 5 9 0x2B) ∧
    decodeTableWord 32 0b110001_110_011_101_1001_0101011_000010 = some (.vimul 6 3 5 9 0x2B) ∧
    decodeTableWord 32 0b110001_110_011_101_1001_0101011_000011 = some (.vand 6 3 5 9 0x2B) ∧
    decodeTableWord 32 0b110001_110_011_101_1001_0101011_000100 = some (.vor 6 3 5 9 0x2B) ∧
    decodeTableWord 32 0b110001_110_011_101_1001_0101011_000101 = some (.vxor 6 3 5 9 0x2B) ∧
    decodeTableWord 32 0b110001_110_011_101_1001_0101011_000110 = some (.vshl 6 3 5 9 0x2B) ∧
    decodeTableWord 32 0b110001_110_011_101_1001_0101011_000111 = some (.vshr 6 3 5 9 0x2B) ∧
    decodeTableWord 32 0b110001_110_011_101_1001_0101011_001000 = some (.vshra 6 3 5 9 0x2B) ∧
    decodeTableWord 32 0b110001_110_011_101_1001_0101011_001001 = some (.vimin 6 3 5 9 0x2B) ∧
    decodeTableWord 32 0b110001_110_011_101_1001_0101011_001010 = some (.vimax 6 3 5 9 0x2B) := by
  decide

theorem test_decode_major_32 :
    decodeTableWord 32 0b110010_110_011_000_1001_0101011_000000 = some (.vcvt 6 3 9 0x2B) ∧
    decodeTableWord 32 0b110010_110_011_101_1001_0101011_000001 = some (.vlut 6 3 5 9 0x2B) ∧
    decodeTableWord 32 0b110010_110_011_000_1001_0101011_000010 = some (.vfill 6 3 9 0x2B) ∧
    decodeTableWord 32 0b110010_110_000000_1001_0101011_000011 = some (.viota 6 9 0x2B) ∧
    decodeTableWord 32 0b110010_110_011_000_1001_0101011_000100 = some (.vcopy 6 3 9 0x2B) := by
  decide

theorem test_decode_major_33 :
    decodeTableWord 32 0b110011_110_011_000_1000_0101011_000000 = some (.vrsum 6 3 8 0x2B) ∧
    decodeTableWord 32 0b110011_110_011_000_1000_0101011_000001 = some (.vrmax 6 3 8 0x2B) ∧
    decodeTableWord 32 0b110011_110_011_000_1000_0101011_000010 = some (.vrmin 6 3 8 0x2B) ∧
    decodeTableWord 32 0b110011_110_011_101_0010_0101011_000011 = some (.vdot 6 3 5 2 0x2B) ∧
    decodeTableWord 32 0b110011_110_011_101_1001_0101011_000100 = some (.vcmp 6 3 5 9 0x2B) ∧
    decodeTableWord 32 0b110011_110_011_101_1001_0101011_000101 = some (.vsel 6 3 5 9 0x2B) := by
  decide

theorem test_decode_major_34 :
    decodeTableWord 32 0b110100_110_0100110_00_00000000000000 = some (.pset 6 0x26) ∧
    decodeTableWord 32 0b110100_110_0100110_01_00000000000000 = some (.pget 6 0x26) ∧
    decodeTableWord 32 0b110100_110_0100110_10_00000000000000 = some (.padv 6 0x26) := by
  decide

theorem test_decode_major_38 :
    decodeTableWord 32 0b111000_110_0100110_1_101_000000000000 = some (.tcmd 6 0x26 1 5) := by
  decide

theorem test_decode_major_39 :
    decodeTableWord 32 0b111001_110_0100110_1_101_00_0000000000 = some (.copy 6 0x26 1 5) ∧
    decodeTableWord 32 0b111001_110_0100110_1_101_01_0000000000 = some (.copyr 6 0x26 1 5) ∧
    decodeTableWord 32 0b111001_110_0100110_1_101_10_0000000000 = some (.copym 6 0x26 1 5) := by
  decide

theorem test_decode_major_3C :
    decodeTableWord 32 0b111100_1000101_0100110_0000000_00000 = some (.rdom 0x45 0x26) ∧
    decodeTableWord 32 0b111100_1000101_0100110_1010011_00001 = some (.rins 0x45 0x26 0x53) ∧
    decodeTableWord 32 0b111100_1000101_0100110_1010011_00010 = some (.rld 0x45 0x26 0x53) ∧
    decodeTableWord 32 0b111100_1000101_0100110_1010011_00011 = some (.rst 0x45 0x26 0x53) ∧
    decodeTableWord 32 0b111100_1000101_0100110_1010011_00100 = some (.rpos 0x45 0x26 0x53) ∧
    decodeTableWord 32 0b111100_1000101_0100110_0000000_00101 = some (.rdel 0x45 0x26) ∧
    decodeTableWord 32 0b111100_0000000_0100110_1010011_00110 = some (.rqbox 0x26 0x53) ∧
    decodeTableWord 32 0b111100_0000000_0100110_1010011_00111 = some (.rqrad 0x26 0x53) ∧
    decodeTableWord 32 0b111100_0000000_0100110_1010011_01000 = some (.rscan 0x26 0x53) := by
  decide

theorem test_decode_major_3D :
    decodeTableWord 32 0b111101_1000101_0100110_0000000_00000 = some (.sqtab 0x45 0x26) ∧
    decodeTableWord 32 0b111101_1000101_0100110_0000000_00001 = some (.sqcfg 0x45 0x26) ∧
    decodeTableWord 32 0b111101_1000101_0100110_1010011_00010 = some (.sqload 0x45 0x26 0x53) ∧
    decodeTableWord 32 0b111101_1000101_0100110_1010011_00011 = some (.sqstage 0x45 0x26 0x53) ∧
    decodeTableWord 32 0b111101_1000101_0100110_0000000_00100 = some (.sqend 0x45 0x26) ∧
    decodeTableWord 32 0b111101_1000101_0100110_1010011_00101 = some (.sqdec 0x45 0x26 0x53) ∧
    decodeTableWord 32 0b111101_1000101_0100110_0000000_00110 = some (.sqact 0x45 0x26) ∧
    decodeTableWord 32 0b111101_1000101_0100110_0000000_00111 = some (.sqhist 0x45 0x26) := by
  decide

theorem test_decode_major_3E_1 :
    decodeTableWord 32 0b111110_1000101_0000000_101000110101 = some (.srd 0x45 0xA35) ∧
    decodeTableWord 32 0b111110_1000101_0000001_101000110101 = some (.swr 0x45 0xA35) ∧
    decodeTableWord 32 0b111110_0000000_0000010_101000110101 = some (.trap 0xA35) ∧
    decodeTableWord 32 0b111110_0000000_0000011_000000000000 = some (.rte) ∧
    decodeTableWord 32 0b111110_0000000_0000100_000000000000 = some (.halt) ∧
    decodeTableWord 32 0b111110_0000000_0000101_000000000000 = some (.yield) ∧
    decodeTableWord 32 0b111110_1000101_0000110_000000000000 = some (.spawn 0x45) ∧
    decodeTableWord 32 0b111110_1000101_0000111_000000000000 = some (.spill 0x45) ∧
    decodeTableWord 32 0b111110_1000101_0001000_000000000000 = some (.resume 0x45) ∧
    decodeTableWord 32 0b111110_1000101_0001001_0000000000_10 = some (.pinval 0x45 2) ∧
    decodeTableWord 32 0b111110_1000101_0001010_000000000000 = some (.pheat 0x45) ∧
    decodeTableWord 32 0b111110_1000101_0001011_000000000000 = some (.pmove 0x45) := by
  decide

theorem test_decode_major_3E_2 :
    decodeTableWord 32 0b111110_1000101_0001100_000000000000 = some (.pmap 0x45) ∧
    decodeTableWord 32 0b111110_1000101_0001101_00000_0101011 = some (.cellres 0x45 0x2B) ∧
    decodeTableWord 32 0b111110_1000101_0001110_00000_0101011 = some (.cellrel 0x45 0x2B) ∧
    decodeTableWord 32 0b111110_0000000_0001111_000000000000 = some (.home) ∧
    decodeTableWord 32 0b111110_1000101_0010000_00000000_0010 = some (.linkw 0x45 2) := by
  decide

/-! ## Witnesses: the core statements -/

/-- base with the nop at its pc, on the agenda or not. -/
def atNop (l : List Turn) : State := { base with mem := base.mem.writeN 0 4 0x04000000, agenda := l }
/-- The same at the last word of the scratchpad. -/
def atLast (l : List Turn) : State := { mine base fun sl => { sl with pc := 0x17FFFC } with mem := base.mem.writeN 0x17FFFC 4 0x04000000, agenda := l }
/-- base with a handler at 0x100. -/
def handled : State := mine base fun sl => { sl with trapVec := 0x100 }
theorem witness_StepKeepsMemoryCanonical :
    State.reset.Inv ∧
    (∃ t, step (State.reset.withFetchWord 32 0x04000000) = .next t) ∧
    (State.reset.withFetchWord 32 0x04000000).Inv :=
  ⟨by unfold State.Inv; decide +kernel,
   next_of (by decide +kernel),
   by unfold State.Inv; decide +kernel⟩

theorem witness_DecodeOfEncodeIsIdentity :
    encode (.add 3 1 2) = some 0x04181040 ∧
    (Instr.add 3 1 2).wellFormed = true :=
  ⟨by decide +kernel,
   by decide +kernel⟩

theorem witness_DecodedWordsEncodeBack :
    decode (wordBytes (0x04000000 : BitVec 32).toNat) = .ok (.add 0 0 0, []) :=
  ok_of (by decide +kernel)

theorem witness_TurnRunsDecodedInstruction :
    (atNop [.cycle 0]).agenda = .cycle 0 :: [] ∧
    ({ atNop [.cycle 0] with agenda := [] } : State).cycle 0 = ((({ atNop [.cycle 0] with agenda := [] } : State).cycle 0).1, some 0) ∧
    ((({ atNop [.cycle 0] with agenda := [] } : State).cycle 0).1.slot 0).pend = [] ∧
    ((({ atNop [.cycle 0] with agenda := [] } : State).cycle 0).1.slot 0).pc < 0x180000 ∧
    decode ((({ atNop [.cycle 0] with agenda := [] } : State).cycle 0).1.fetchBytes (0 / 64) ((({ atNop [.cycle 0] with agenda := [] } : State).cycle 0).1.slot 0).pc) = .ok (.add 0 0 0, []) :=
  ⟨by decide +kernel,
   by decide +kernel,
   by decide +kernel,
   by decide +kernel,
   ok_of (by decide +kernel)⟩

theorem witness_TurnRunsDecodedInstruction_last_word :
    ((atLast []).cycle 0).2 = some 0 ∧
    (((atLast []).cycle 0).1.slot 0).pc < 0x180000 ∧
    decode (((atLast []).cycle 0).1.fetchBytes (0 / 64) (((atLast []).cycle 0).1.slot 0).pc) = .ok (.add 0 0 0, []) :=
  ⟨by decide +kernel,
   by decide +kernel,
   ok_of (by decide +kernel)⟩

theorem witness_TurnRunsDecodedInstruction_idle_agenda :
    (atNop []).agenda = [] ∧
    dueEvent (atNop []) = none ∧
    (atNop []).core < 1280 ∧
    (atNop []).cycle (atNop []).core = (((atNop []).cycle 0).1, some 0) ∧
    (((atNop []).cycle 0).1.slot 0).pend = [] ∧
    (((atNop []).cycle 0).1.slot 0).pc < 0x180000 ∧
    decode (((atNop []).cycle 0).1.fetchBytes (0 / 64) (((atNop []).cycle 0).1.slot 0).pc) = .ok (.add 0 0 0, []) := by
  and_intros <;> decide +kernel

theorem witness_TurnRunsDecodedInstruction_event :
    (atNop [.event .noteRead]).agenda = .event .noteRead :: [] :=
  by decide +kernel

theorem witness_IllegalWordsTrap :
    0 = base.cur ∧
    (base.slot 0).pend = [] ∧
    (base.slot 0).pc < 0x180000 ∧
    decode (base.fetchBytes (0 / 64) (base.slot 0).pc) = .error .reservedMajor ∧
    (¬ ((base.fetchWord 0).toNat / 2 ^ 26 = 0x24 ∧ (base.fetchWord 0).toNat % 2 ^ 12 = 0 ∧ (base.fetchWord 0).toNat / 2 ^ 19 % 128 < 124)) ∧
    ((let s := mine base fun sl => { sl with pc := 0x180000 }; (s.slot 0).pend = [] ∧ 0x180000 ≤ (s.slot 0).pc)) ∧
    (¬ ((0x00000000 : BitVec 32).toNat / 2 ^ 26 = 0x24 ∧ (0x00000000 : BitVec 32).toNat % 2 ^ 12 = 0 ∧ (0x00000000 : BitVec 32).toNat / 2 ^ 19 % 128 < 124)) := by
  and_intros <;> decide +kernel

theorem witness_TrapSavesAndEntersHandler :
    (handled.slot 0).intrap = false ∧
    codeAddr (0 / 64) (handled.slot 0).trapVec = some 0x100 ∧
    (((mine base fun sl => { sl with intrap := true }).slot 0).intrap = true ∨ codeAddr (0 / 64) ((mine base fun sl => { sl with intrap := true }).slot 0).trapVec = none) ∧
    codeAddr 0 ((mine base fun sl => { sl with trapVec := 0x102 }).slot 0).trapVec = none :=
  ⟨by decide +kernel,
   by decide +kernel,
   by decide +kernel,
   by decide +kernel⟩

theorem witness_ReturnFromTrap :
    (mine base fun sl => { sl with intrap := true, trapPc := 0x17FFFC }).me.intrap = true ∧
    codeAddr (mine base fun sl => { sl with intrap := true, trapPc := 0x17FFFC }).here (mine base fun sl => { sl with intrap := true, trapPc := 0x17FFFC }).me.trapPc = some 0x17FFFC ∧
    (mine base fun sl => { sl with intrap := true, trapPc := 0x17FFFC }).me.loops = [] ∧
    base.me.intrap = false ∧
    (mine base fun sl => { sl with intrap := true, trapPc := 2 }).me.intrap = true ∧
    codeAddr (mine base fun sl => { sl with intrap := true, trapPc := 2 }).here (mine base fun sl => { sl with intrap := true, trapPc := 2 }).me.trapPc = none :=
  ⟨by decide +kernel,
   by decide +kernel,
   by decide +kernel,
   by decide +kernel,
   by decide +kernel,
   by decide +kernel⟩

/-- The last code of a window of 16. -/
theorem witness_WindowOperandsAreRead :
    (∀ v ∈ [1, 2] ++ [15], WindowCode (mine base fun sl => { sl with limit := 16 }) v) ∧
    (∀ v ∈ [1, 2], (mine base fun sl => { sl with limit := 16 }).regIsFull (mine base fun sl => { sl with limit := 16 }).cur v = true) :=
  ⟨by unfold WindowCode; decide +kernel,
   by decide +kernel⟩

theorem witness_WindowOperandsAreRead_past_the_limit :
    [1] ++ [16] = [1] ++ 16 :: [] ∧
    (∀ u ∈ [1], WindowCode (mine base fun sl => { sl with limit := 16 }) u) ∧
    (mine base fun sl => { sl with limit := 16 }).me.queueOf 16 = none ∧
    (mine base fun sl => { sl with limit := 16 }).isMail 16 = false ∧
    (mine base fun sl => { sl with limit := 16 }).me.limit ≤ 16 ∧
    (mine base fun sl => { sl with limit := 16 }).me.queueOf 124 = none ∧
    (mine base fun sl => { sl with limit := 16 }).isMail 124 = false ∧
    (mine base fun sl => { sl with limit := 16 }).me.limit ≤ 124 := by
  and_intros
  all_goals first
    | decide +kernel
    | (unfold WindowCode; decide +kernel)

theorem witness_WindowOperandsAreRead_empty_source :
    [1, 2] = [1] ++ 2 :: [] ∧
    (∀ u ∈ [1, 2] ++ [3], WindowCode (base.setRegFull 0 2 false) u) ∧
    (∀ u ∈ [1], (base.setRegFull 0 2 false).regIsFull (base.setRegFull 0 2 false).cur u = true) ∧
    (base.setRegFull 0 2 false).regIsFull (base.setRegFull 0 2 false).cur 2 = false :=
  ⟨by decide +kernel,
   by unfold WindowCode; decide +kernel,
   by decide +kernel,
   by decide +kernel⟩

theorem witness_ResultReachesItsRegister :
    WindowCode base 0 ∧
    WindowCode base 123 ∧
    (∀ v ∈ [1, 2], base.me.queueOf v = none) ∧
    base.me.phase = .ready ∧
    base.me.loops = [] :=
  ⟨by unfold WindowCode; decide +kernel,
   by unfold WindowCode; decide +kernel,
   by decide +kernel,
   by decide +kernel,
   by decide +kernel⟩

/-- base with register code 124 bound to a pair of queues. -/
def bound : State := mine base fun sl => { sl with binds := 0x8605 }
theorem witness_ResultReachesItsRegister_queue :
    bound.me.queueOf 124 = some 0 ∧
    (∀ v ∈ [1, 2], bound.me.queueOf v = none) ∧
    (mine base fun sl => { sl with binds := 0x8605000000000000 }).me.queueOf 127 = some 3 :=
  ⟨by decide +kernel,
   by decide +kernel,
   by decide +kernel⟩

theorem witness_RegisterFormsFrame :
    Instr.cy 3 1 ∈ registerForms 3 1 2 0 0 0 ∧
    (∃ t, exec (.cy 3 1) base = .next t) ∧
    (∃ t, exec (.add 3 1 2) base = .next t) ∧
    (0 : Nat) ≠ base.entryOf base.cur (3 : RegCode).toNat ∧
    1 ≠ base.cur :=
  ⟨by decide +kernel,
   next_of (by decide +kernel),
   next_of (by decide +kernel),
   by decide +kernel,
   by decide +kernel⟩

theorem witness_DestinationAwaitingForfeits :
    WindowCode (base.markAwaiting 0 3) 3 ∧
    (base.markAwaiting 0 3).awaits (base.markAwaiting 0 3).cur 3 = true ∧
    (base.markAwaiting 0 3).operands (Instr.add 3 1 2).word [1, 2] [3] = .ok [0, 0] ∧
    (base.markAwaiting 0 3).operands (Instr.ld 3 1 3 0).word [1] [3] = .ok [0] ∧
    (base.markAwaiting 0 3).resolve (base.markAwaiting 0 3).here (base.markAwaiting 0 3).rights (0 + imm (0 : BitVec 10) * ofNat (2 ^ (3 : BitVec 2).toNat)) (2 ^ (3 : BitVec 2).toNat) = .ok (.spad 0 0) :=
  ⟨by unfold WindowCode; decide +kernel,
   by decide +kernel,
   ok_of (by decide +kernel),
   ok_of (by decide +kernel),
   ok_of (by decide +kernel)⟩

/-! ## Witnesses: scalar instructions -/

/-- Two sources at their largest and zero; g127 is the last register. -/
theorem witness_RegisterOperationResults :
    (regs [(1, BitVec.allOnes 64), (127, 0)]).operands (Instr.div 126 1 127).word [1, 127] [126] = .ok [BitVec.allOnes 64, 0] ∧
    (regs [(1, BitVec.allOnes 64), (127, 0)]).destReady 126 = .ok () ∧
    (regs [(1, 0)]).operands (Instr.clz 0 1).word [1] [0] = .ok [0] ∧
    (regs [(1, 0)]).destReady 0 = .ok () ∧
    (∃ n, n ≤ 64 ∧ (64 : Word) = BitVec.ofNat 64 n ∧ (0 : Word).toNat < 2 ^ (64 - n) ∧ (n = 64 ∨ 2 ^ (63 - n) ≤ (0 : Word).toNat)) ∧
    ((0x04000FF8 : BitVec 32).toNat / 2 ^ 26 = 0x01 ∧ 24 ≤ (0x04000FF8 : BitVec 32).toNat % 32 ∧ (0x04000FF8 : BitVec 32).toNat % 32 ≤ 27 ∧ (0x04000FF8 : BitVec 32).toNat / 32 % 128 ≠ 0) :=
  ⟨ok_of (by decide +kernel),
   ok_of (by decide +kernel),
   ok_of (by decide +kernel),
   ok_of (by decide +kernel),
   ⟨64, by decide⟩,
   by decide +kernel⟩

theorem witness_ImmediateOperationResults :
    (regs [(1, 5)]).operands (Instr.slti 3 1 0x800).word [1] [3] = .ok [5] ∧
    (regs [(1, 5)]).operands (Instr.roli 3 1 63).word [1] [3] = .ok [5] ∧
    (regs [(1, 5)]).destReady 3 = .ok () ∧
    ((0x20000040 : BitVec 32).toNat / 2 ^ 26 = 0x08 ∧ (0x20000040 : BitVec 32).toNat / 64 % 16 ≠ 0) :=
  ⟨ok_of (by decide +kernel),
   ok_of (by decide +kernel),
   ok_of (by decide +kernel),
   by decide +kernel⟩

/-- Register 1 holds an absolute address, a relative one that stays, one that leaves the grid, a bulk one. -/
theorem witness_ConstantsAndCoordinates :
    base.operands (Instr.lui 3 0).word [] [3] = .ok [] ∧
    base.operands (Instr.addpc 3 0x40000).word [] [3] = .ok [] ∧
    base.destReady (3 : RegCode).toNat = .ok () ∧
    (regs [(1, 0x200000FF00000000)]).operands (Instr.cabs 3 1).word [(1 : RegCode).toNat] [(3 : RegCode).toNat] = .ok [0x200000FF00000000] ∧
    (fld (0x200000FF00000000 : Word) 61 3 = 1 ∧ ¬ (0 ≤ (coreX 0 : Int) + signed (fld (0x200000FF00000000 : Word) 32 8) 8)) ∧
    (regs [(1, 0x2000271F00000000)]).operands (Instr.cx 3 1).word [(1 : RegCode).toNat] [(3 : RegCode).toNat] = .ok [0x2000271F00000000] ∧
    (fld (0x2000271F00000000 : Word) 61 3 = 1 ∧ (coreX 0 : Int) + signed (fld (0x2000271F00000000 : Word) 32 8) 8 = 31 ∧ (coreY 0 : Int) + signed (fld (0x2000271F00000000 : Word) 40 8) 8 = 39) ∧
    (regs [(1, 0x0000271F00000000)]).operands (Instr.cy 3 1).word [(1 : RegCode).toNat] [(3 : RegCode).toNat] = .ok [0x0000271F00000000] ∧
    fld (0x0000271F00000000 : Word) 61 3 = 0 ∧
    fld (0x8000000000000000 : Word) 61 3 = 4 ∧
    (fld (0x4000000000000000 : Word) 62 2 = 1 ∧ fld (0xC000000000000000 : Word) 62 2 = 3 ∧ fld (0xA000000000000000 : Word) 61 3 = 5) ∧
    fld (0x4000000000000000 : Word) 61 3 ≠ 1 := by
  and_intros <;> decide +kernel

/-- Targets at both ends of the scratchpad and one past each. -/
theorem witness_BranchesTestTheirCondition :
    (regs [(1, 0)]).operands (Instr.bz 1 0x7FFF).word [(1 : RegCode).toNat] [] = .ok [0] ∧
    ((Instr.bz 1 0x7FFF, decide ((0 : Word) = 0)) : Instr × Bool).2 = true ∧
    (base.me.pc : Int) + 4 * (0 : BitVec 16).toInt = 0 ∧
    (base.me.pc : Int) + 4 * (0xFFFF : BitVec 16).toInt < 0 ∧
    ((mine base fun sl => { sl with pc := 0x17FFFC }).me.pc : Int) + 4 * (1 : BitVec 16).toInt = 0x180000 ∧
    decide ((0 : Word) ≠ 0) = false ∧
    base.checkCode (1 : RegCode).toNat = .ok () ∧
    base.checkQueues (Instr.bfull 1 1).word [(1 : RegCode).toNat] [] = .ok () ∧
    base.fullTest (1 : RegCode).toNat = true ∧
    (base.setRegFull 0 1 false).fullTest (1 : RegCode).toNat = false ∧
    WindowCode base 1 ∧
    bound.me.queueOf 124 = some 0 := by
  and_intros <;> decide +kernel

theorem witness_JumpsLinkAndLoopsPush :
    base.operands (Instr.jmp 1 0).word [] [(1 : RegCode).toNat] = .ok [] ∧
    base.destReady (1 : RegCode).toNat = .ok () ∧
    (base.me.pc : Int) + 4 * (0x5FFFF : BitVec 19).toInt < 0 ∧
    (base.me.pc : Int) + 4 * (0x3FFFF : BitVec 19).toInt = 0xFFFFC ∧
    ((mine base fun sl => { sl with pc := 0x17FFFC }).me.pc : Int) + 4 * (1 : BitVec 19).toInt = 0x180000 ∧
    (regs [(2, 0x17FFFC)]).operands (Instr.jmpr 1 2 0).word [(2 : RegCode).toNat] [(1 : RegCode).toNat] = .ok [0x17FFFC] ∧
    (ownOffset base.here (0x17FFFC + (0 : BitVec 12).signExtend 64) = some 0x17FFFC ∧ (0x17FFFC + (0 : BitVec 12).signExtend 64 : Word).toNat % 4 = 0) ∧
    (ownOffset base.here (0x17FFFC + (2 : BitVec 12).signExtend 64) = some 0x17FFFE ∧ (0x17FFFC + (2 : BitVec 12).signExtend 64 : Word).toNat % 4 ≠ 0) ∧
    ownOffset base.here (0x17FFFC + (4 : BitVec 12).signExtend 64) = none := by
  and_intros <;> decide +kernel

/-- A service-mode slot with l in register 1. -/
def service (w : Word) : State := mine (regs [(1, w)]) fun sl => { sl with mode := 2 }
/-- The same inside four loops. -/
def looped : State := mine (service 1) fun sl => { sl with loops := List.replicate 4 { start := 0, stop := 8, count := 2 } }
theorem witness_JumpsLinkAndLoopsPush_loop :
    (service 1).me.mode = 2 ∧
    (service 1).operands (Instr.loop 1 4095).word [(1 : RegCode).toNat] [] = .ok [1] ∧
    ((service 1).me.loops.length < 4 ∧ (service 1).me.pc + 4 * (4095 : BitVec 12).toNat ≤ 0x17FFFC ∧ (1 : Word) ≠ 0) ∧
    (service 0).operands (Instr.loop 1 4095).word [(1 : RegCode).toNat] [] = .ok [0] ∧
    (service 0).me.loops = [] ∧
    looped.operands (Instr.loop 1 1).word [(1 : RegCode).toNat] [] = .ok [1] ∧
    4 ≤ looped.me.loops.length ∧
    base.me.mode ≠ 2 ∧
    (({ loops := [{ start := 0, stop := 4, count := 2 }] } : Slot).loops = [{ start := 0, stop := 4, count := 2 }] ∧ (4 = ({ loops := [{ start := 0, stop := 4, count := 2 }] } : Slot).pc + 4) ∧ 1 < 2) := by
  and_intros <;> decide +kernel

/-! ## Witnesses: loads, stores, addresses and requests -/

/-- The last doubleword of the own scratchpad. -/
theorem witness_LocalLoadsExtendTheBytes :
    (regs [(1, 0x180000)]).operands (Instr.ld 3 1 3 0x3FF).word [(1 : RegCode).toNat] [(3 : RegCode).toNat] = .ok [0x180000] ∧
    (regs [(1, 0x180000)]).operands (Instr.ldz 3 1 3 0x3FF).word [(1 : RegCode).toNat] [(3 : RegCode).toNat] = .ok [0x180000] ∧
    base.destReady (3 : RegCode).toNat = .ok () ∧
    (base.here < 1280 ∧ 0x17FFF8 < 0x180000) ∧
    base.resolve base.here base.rights (accessAddr 0x180000 0x3FF (2 ^ (3 : BitVec 2).toNat)) (2 ^ (3 : BitVec 2).toNat) = .ok (.spad base.here 0x17FFF8) ∧
    base.num ≠ 63 ∧
    base.resolve base.here base.rights (accessAddr 0x180000 0 (2 ^ (3 : BitVec 2).toNat)) (2 ^ (3 : BitVec 2).toNat) = .error (.trap 0x04 0x180000) ∧
    (regs [(1, 0x180000)]).operands (Instr.ld 3 1 3 0).word [(1 : RegCode).toNat] [(3 : RegCode).toNat] = .ok [0x180000] := by
  and_intros <;> decide +kernel

theorem witness_LocalStoresWriteTheirBytes :
    (regs [(1, 0x180000), (2, 7)]).operands (Instr.st 2 1 3 0x3FF).word [(1 : RegCode).toNat, (2 : RegCode).toNat] [] = .ok [0x180000, 7] ∧
    0x17FFF8 % 2 ^ (3 : BitVec 2).toNat = 0 ∧
    base.resolve base.here base.rights (accessAddr 0x180000 0x3FF (2 ^ (3 : BitVec 2).toNat)) (2 ^ (3 : BitVec 2).toNat) = .ok (.spad base.here 0x17FFF8) ∧
    base.me.loops = [] ∧
    (∀ w ∈ [(1 : RegCode).toNat, (2 : RegCode).toNat], base.me.queueOf w = none) :=
  ⟨ok_of (by decide +kernel),
   by decide +kernel,
   ok_of (by decide +kernel),
   by decide +kernel,
   by decide +kernel⟩

/-- Register 1 holds offset 0 of core 1, register 2 a datum. -/
def far : State := regs [(1, 0x100000000), (2, 7)]
/-- The same with the counters LD and ST at 63. -/
def farFull : State := mine far fun sl => { sl with ld := 63, st := 63 }
theorem witness_RemoteAccessesPostRequests :
    (1 ≠ far.here ∧ 1 < 1280) ∧
    WindowCode far (3 : RegCode).toNat ∧
    far.destReady (3 : RegCode).toNat = .ok () ∧
    far.operands (Instr.ld 3 1 3 0).word [(1 : RegCode).toNat] [(3 : RegCode).toNat] = .ok [0x100000000] ∧
    far.operands (Instr.st 2 1 3 0).word [(1 : RegCode).toNat, (2 : RegCode).toNat] [] = .ok [0x100000000, 7] ∧
    far.me.queueOf (1 : RegCode).toNat = none ∧
    (∀ w ∈ [(1 : RegCode).toNat, (2 : RegCode).toNat], far.me.queueOf w = none) ∧
    far.resolve far.here far.rights (accessAddr 0x100000000 0 (2 ^ (3 : BitVec 2).toNat)) (2 ^ (3 : BitVec 2).toNat) = .ok (.spad 1 0) ∧
    (far.me.ld < 63 ∧ far.me.st < 63 ∧ far.me.loops = []) ∧
    (∃ x, far.request (.core 1) (.load (1 * 0x200000 + 0) (2 ^ (3 : BitVec 2).toNat) true (3 : RegCode).toNat) = .ok x) ∧
    (∃ x, far.request (.core 1) (.store (1 * 0x200000 + 0) (2 ^ (3 : BitVec 2).toNat) 7) = .ok x) := by
  and_intros
  all_goals first
    | decide +kernel
    | exact ok_of (by decide +kernel)
    | exact okay_of (by decide +kernel)

theorem witness_RemoteAccessesPostRequests_full :
    (63 ≤ farFull.me.ld ∧ 63 ≤ farFull.me.st) ∧
    farFull.destReady (3 : RegCode).toNat = .ok () ∧
    farFull.operands (Instr.ldz 3 1 3 0).word [(1 : RegCode).toNat] [(3 : RegCode).toNat] = .ok [0x100000000] ∧
    farFull.operands (Instr.st 2 1 3 0).word [(1 : RegCode).toNat, (2 : RegCode).toNat] [] = .ok [0x100000000, 7] ∧
    farFull.resolve farFull.here farFull.rights (accessAddr 0x100000000 0 (2 ^ (3 : BitVec 2).toNat)) (2 ^ (3 : BitVec 2).toNat) = .ok (.spad 1 0) :=
  ⟨by decide +kernel,
   ok_of (by decide +kernel),
   ok_of (by decide +kernel),
   ok_of (by decide +kernel),
   ok_of (by decide +kernel)⟩

/-- The corner core (31, 39); an off-line core; context 1 with the partition of core (0, 1) alone. -/
theorem witness_AddressesResolveByTheirSpace :
    (31 < 256 ∧ 39 < 256 ∧ 0x17FFF8 < 2 ^ 21 ∧ 0x17FFF8 < 0x180000 ∧ 0x17FFF8 % 8 = 0 ∧ 0x17FFF9 % 8 ≠ 0) ∧
    base.isOffline (coreAt 31 39) = false ∧
    ({ base with offline := [1279] } : State).isOffline (coreAt 31 39) = true ∧
    ((let s : State := { base with ctxs := Store.set {} base.ctxs 1 { state := 1, part := 0x01000100 } }; s.isPager (coreAt 0 1) = false ∧ s.inPartition 1 (coreAt 0 1) = true ∧ s.inPartition 1 (coreAt 0 2) = false ∧ s.isPager (coreAt 0 0) = true)) ∧
    fld (0xC000000000000000 : Word) 62 2 = 3 ∧
    (fld (0x4001000000000000 : Word) 62 2 = 1 ∧ fld (0x4001000000000000 : Word) 48 14 ≠ 0) ∧
    (fld (0x4000FFFFFFFFFFF8 : Word) 62 2 = 1 ∧ fld (0x4000FFFFFFFFFFF8 : Word) 48 14 = 0 ∧ (0x4000FFFFFFFFFFF8 : Word).toNat % 8 = 0) ∧
    (fld (0x4000000000000001 : Word) 48 14 = 0 ∧ (0x4000000000000001 : Word).toNat % 8 ≠ 0) ∧
    (fld (0x8000000100000000 : Word) 62 2 = 2 ∧ fld (0x8000000100000000 : Word) 54 7 = 0 ∧ fld (0x8000000100000000 : Word) 48 6 = base.pkgNum ∧ bitAt (0x8000000100000000 : Word) 61 = false) ∧
    base.resolve 0 base.rights (ofNat (fld (0x8000000100000000 : Word) 0 48)) 8 = .ok (.spad 1 0) ∧
    (fld (0xA03F000000000000 : Word) 62 2 = 2 ∧ fld (0xA03F000000000000 : Word) 54 7 = 0 ∧ fld (0xA03F000000000000 : Word) 48 6 ≠ base.pkgNum ∧ (0xA03F000000000000 : Word).toNat % 8 = 0 ∧ bitAt (0xA03F000000000000 : Word) 61 = true) := by
  and_intros <;> decide +kernel

/-- A request with a credit, not started. -/
def credited (b : Body) : Msg := { ask b false with credit := some (0, .core 1) }
theorem witness_RequestsArePerformedAndAnswered :
    (net [credited (.load 0x200000 8 true 3)] base).arrived 9 = some (credited (.load 0x200000 8 true 3)) ∧
    ((credited (.load 0x200000 8 true 3)).credit.isSome = true ∧ (credited (.load 0x200000 8 true 3)).resp = false ∧ (credited (.load 0x200000 8 true 3)).started = false) ∧
    (({ base with cores := [(1, { entries := 15 })] } : State).coreRec 1).entries < 16 ∧
    (net [ask (.load 0x200000 8 true 3)] base).arrived 9 = some (ask (.load 0x200000 8 true 3)) ∧
    (net [ask (.store 0x200000 8 7)] base).arrived 9 = some (ask (.store 0x200000 8 7)) ∧
    (net [ask (.line 0x200000 0 0)] base).arrived 9 = some (ask (.line 0x200000 0 0)) ∧
    ((ask (.line 0x200000 0 0)).resp = false ∧ (ask (.line 0x200000 0 0)).started = true) ∧
    ((let x := { answer (.ack 0 0) with credit := some (0, .core 1) }; (net [x] base).findMsg 9 = some x ∧ x.resp = true ∧ x.started = false ∧ x.body ≠ .credit)) ∧
    (net [answer (.value 3 7 false false)] base).response 9 = some (answer (.value 3 7 false false)) ∧
    (net [answer (.ack 0 0)] base).response 9 = some (answer (.ack 0 0)) ∧
    (net [answer (.ack 0x05 8)] base).response 9 = some (answer (.ack 0x05 8)) ∧
    (base.findThread 1 = some 0 ∧ (base.slot 0).uid = 1 ∧ (base.slot 0).queueOf 127 = none ∧ 0 % 64 ≠ 63 ∧ (base.slot 0).phase = .ready) := by
  and_intros <;> decide +kernel

/-! ## Witnesses: full/empty, ATOM, fences and waits -/

/-- Register 1 holds offset 8, register 2 a datum; the word at 8 is empty, the one at 0 full. -/
def words : State := (regs [(1, 8), (2, 7), (4, 0)]).setFull 8 false
theorem witness_LocalFullEmptyOperations :
    words.resolveFe 8 = .ok (words.here, 8) ∧
    words.resolveFe 0 = .ok (words.here, 0) ∧
    Released 0 0 8 words ∧
    Released 2 1 8 words ∧
    words.destReady (3 : RegCode).toNat = .ok () ∧
    words.operands (Instr.lds 3 1 0 0).word [(1 : RegCode).toNat] [(3 : RegCode).toNat] = .ok [8] ∧
    words.operands (Instr.ldf 3 4 0 0).word [(4 : RegCode).toNat] [(3 : RegCode).toNat] = .ok [0] ∧
    (words.isFull (words.here * 0x200000 + 8) = false ∧ words.isFull (words.here * 0x200000 + 0) = true ∧ words.me.codelet = false) ∧
    words.operands (Instr.sts 2 1 0 0).word [(1 : RegCode).toNat, (2 : RegCode).toNat] [] = .ok [8, 7] ∧
    words.operands (Instr.stf 2 1 0 0).word [(1 : RegCode).toNat, (2 : RegCode).toNat] [] = .ok [8, 7] ∧
    words.operands (Instr.empty 1 0 0).word [(1 : RegCode).toNat] [] = .ok [8] ∧
    words.operands (Instr.sts 2 4 0 0).word [(4 : RegCode).toNat, (2 : RegCode).toNat] [] = .ok [0, 7] ∧
    ((let s := mine words fun sl => { sl with phase := .parked, park := .word 8 }; 8 < 2 ^ 40 ∧ s.isFull 8 ≠ true ∧ 0 / 64 = 8 / 0x200000 ∧ (s.slot 0).phase = .parked ∧ (s.slot 0).park = .word (8 / 8 * 8))) := by
  and_intros
  all_goals first
    | decide +kernel
    | exact ok_of (by decide +kernel)
    | exact released_of (by decide +kernel)

/-- The thread waits for operation 9 at core 1 since cycle 0, with a limit of 1024 cycles; the clock shows c. -/
def waiting (c : Nat) : State := { mine far fun sl => { sl with phase := .parked, park := .remote 9, wait := some { op := 9, dst := .core 1, info := 0x100000000, start := 0, limit := 1024 } } with cores := [(0, { cycle := c })] }
/-- Core 1 holds l in its wait store. -/
def stored (l : List Msg) : State := { base with cores := [(1, { waiting := l })], memFull := [(0x200000, false)] }
theorem witness_RemoteFullEmptyWaitsAndAnswers :
    far.resolveFe 0x100000000 = .ok (1, 0) ∧
    1 ≠ far.here ∧
    Released 0 0 0x100000000 far ∧
    far.me.codelet = false ∧
    far.destReady (3 : RegCode).toNat = .ok () ∧
    far.operands (Instr.lds 3 1 0 0).word [(1 : RegCode).toNat] [(3 : RegCode).toNat] = .ok [0x100000000] ∧
    far.operands (Instr.ldf 3 1 0 0).word [(1 : RegCode).toNat] [(3 : RegCode).toNat] = .ok [0x100000000] ∧
    (∃ x, far.request (.core 1) (.fe .lds (spadKey 1 0) 0 (3 : RegCode).toNat 0x100000000) = .ok x) ∧
    far.operands (Instr.sts 2 1 0 0).word [(1 : RegCode).toNat, (2 : RegCode).toNat] [] = .ok [0x100000000, 7] ∧
    (∃ x, far.request (.core 1) (.fe .sts (spadKey 1 0) 7 0 0x100000000) = .ok x) := by
  and_intros
  all_goals first
    | decide +kernel
    | exact ok_of (by decide +kernel)
    | exact released_of (by decide +kernel)
    | exact okay_of (by decide +kernel)

theorem witness_RemoteFullEmptyWaitsAndAnswers_owner :
    (net [ask (.fe .lds 0x200000 0 3 0x100000000)] base).arrived 9 = some (ask (.fe .lds 0x200000 0 3 0x100000000)) ∧
    FeOp.lds.can (base.isFull 0x200000) = true ∧
    FeOp.lds.can ((stored []).isFull 0x200000) = false ∧
    ((stored []).coreRec (keyCore 0x200000)).waiting.length < 256 ∧
    256 ≤ ((stored (List.replicate 256 (ask .credit))).coreRec (keyCore 0x200000)).waiting.length :=
  ⟨by decide +kernel,
   by decide +kernel,
   by decide +kernel,
   by decide +kernel,
   by decide +kernel⟩

theorem witness_RemoteFullEmptyWaitsAndAnswers_served :
    ((stored [ask (.fe .sts 0x200000 7 0 0x100000000)]).cores.find? fun e => e.2.waiting.any (·.id == 9)) = some (1, (stored [ask (.fe .sts 0x200000 7 0 0x100000000)]).coreRec 1) ∧
    ((stored [ask (.fe .sts 0x200000 7 0 0x100000000)]).coreRec 1).waiting.find? (·.id == 9) = some (ask (.fe .sts 0x200000 7 0 0x100000000)) ∧
    ((stored [ask (.fe .sts 0x200000 7 0 0x100000000)]).coreRec 1).waiting.find? (waitsOnWord 0x200000) = some (ask (.fe .sts 0x200000 7 0 0x100000000)) ∧
    FeOp.sts.can ((stored [ask (.fe .sts 0x200000 7 0 0x100000000)]).isFull 0x200000) = true ∧
    ((stored [ask (.fe .sts 0x200000 7 0 0x100000000)]).coreRec 1).entries < 16 ∧
    ((let x : Msg := { ask (.cancel 8) with started := false }; let w : Msg := { ask (.fe .sts 0x200000 7 0 0x100000000) with id := 8 }; (net [x] (stored [w])).arrived 9 = some x ∧ x.resp = false ∧ x.credit = none ∧ x.dst = .core 1 ∧ ((net [x] (stored [w])).coreRec 1).waiting.find? (·.id == 8) = some w)) :=
  ⟨by decide +kernel,
   by decide +kernel,
   by decide +kernel,
   by decide +kernel,
   by decide +kernel,
   by decide +kernel⟩

theorem witness_RemoteFullEmptyWaitsAndAnswers_answers :
    (net [answer (.feAnswer 3 (some 7))] (waiting 0)).response 9 = some (answer (.feAnswer 3 (some 7))) ∧
    ((net [answer (.feAnswer 3 (some 7))] (waiting 0)).dropMsg 9).waitsFor 1 9 = true ∧
    (net [answer (.retry none none)] (waiting 0)).response 9 = some (answer (.retry none none)) ∧
    (net [answer (.cancelled 0x100000000 true)] (waiting 0)).response 9 = some (answer (.cancelled 0x100000000 true)) ∧
    ((waiting 0).waitsFor 1 9 = true ∧ ((net [answer (.cancelled 0x100000000 true)] (waiting 0)).dropMsg 9).moverOf 1 = none) ∧
    (waiting 1025).findThread 1 = some 0 ∧
    ((waiting 1025).slot 0).wait = some { op := 9, dst := .core 1, info := 0x100000000, start := 0, limit := 1024 } ∧
    0 + 1024 < ((waiting 1025).coreRec (0 / 64)).cycle := by
  and_intros <;> decide +kernel

theorem witness_AtomsApplyTheirFunction :
    words.runOperands (Instr.atomSwap 2 4 0 0).word [(4 : RegCode).toNat, (2 : RegCode).toNat] [] [(2 : RegCode).toNat] = .ok [0, 7] ∧
    words.runOperands (Instr.atomCas 4 1 3 4).word [(1 : RegCode).toNat, (4 : RegCode).toNat, (4 : RegCode).toNat + 1] [(4 : RegCode).toNat, (4 : RegCode).toNat + 1] [(4 : RegCode).toNat] = .ok [8, 0, 0] ∧
    words.resolve words.here words.rights (arg [0, 7] 0) 8 = .ok (.spad words.here 0) ∧
    words.destReady (2 : RegCode).toNat = .ok () ∧
    Released 3 4 0 words ∧
    far.runOperands (Instr.atomSwap 2 1 0 0).word [(1 : RegCode).toNat, (2 : RegCode).toNat] [] [(2 : RegCode).toNat] = .ok [0x100000000, 7] ∧
    far.resolve far.here far.rights 0x100000000 8 = .ok (.spad 1 0) ∧
    (far.me.st < 63 ∧ (0 : BitVec 2).getLsbD 0 = false) ∧
    (∃ x, far.request (.core 1) (.atom .swap (1 * 0x200000 + 0) 7 0 (2 : RegCode).toNat false) = .ok x) ∧
    (net [ask (.atom .cas 0x200000 0 7 2 false)] base).arrived 9 = some (ask (.atom .cas 0x200000 0 7 2 false)) := by
  and_intros
  all_goals first
    | decide +kernel
    | exact ok_of (by decide +kernel)
    | exact released_of (by decide +kernel)
    | exact okay_of (by decide +kernel)

/-- The thread has touched cluster 1, so that a release to the package has an echo to send. -/
def touched : State := mine base fun sl => { sl with touch := 2 }
theorem witness_FencesAndWaitsHoldBack :
    (0 : BitVec 3) ≠ 5 ∧
    base.release (scopeOf 0) (Instr.fence 0 2 0).word = .ok none ∧
    base.me.awaiting = 0 ∧
    ((base.markAwaiting 0 3).me.awaiting ≠ 0 ∧ (base.markAwaiting 0 3).me.codelet = false ∧ (1 : BitVec 2).getLsbD 0 = true) ∧
    (regs [(1, 0x01010000)]).operands (Instr.fence 1 3 5).word [(1 : RegCode).toNat] [] = .ok [0x01010000] ∧
    (∃ x, State.resolveRect base.here 0x01010000 (Instr.fence 1 3 5).word = .ok x) ∧
    (∃ x, touched.release (scopeOf 3) 0 = .ok x) ∧
    touched.release (scopeOf 3) 0 ≠ .ok none ∧
    (touched.me.released = false ∧ base.me.touch = 0) ∧
    (mine base fun sl => { sl with ld := 63, tok := 0x80 }).me.tok &&& 0x80 ≠ 0 ∧
    (¬ ((0 : BitVec 3) = 7 ∨ (mine base fun sl => { sl with ld := 1 }).me.ld ≤ (0 : BitVec 3).toNat)) ∧
    ((6 : BitVec 3) = 7 ∨ base.me.ld ≤ (6 : BitVec 3).toNat) ∧
    ((let x : Msg := { ask (.echo 0) with started := false }; (net [x] base).arrived 9 = some x ∧ x.credit = none ∧ echoReady (net [x] base) x 0 = true)) ∧
    ((let s := mine base fun sl => { sl with phase := .parked, park := .echoes, echoes := 1 }; (net [answer .echoAnswer] s).response 9 = some (answer .echoAnswer) ∧ (net [answer .echoAnswer] s).findThread 1 = some 0 ∧ (s.slot 0).echoes = 1 ∧ (s.slot 0).park = .echoes)) := by
  and_intros
  all_goals first
    | decide +kernel
    | exact ok_of (by decide +kernel)
    | exact okay_of (by decide +kernel)

/-! ## Witnesses: landing names -/

/-- Every entry of core 0's table is in use. -/
def noNames : State := { base with names := (List.range' 0 512).map fun i => (i, { state := .live 1 3 }) }

/-- Register 1 holds the name of entry 0 of core 0, register 2 that of core 1, register 3 a datum; entry 0 is bound to register 4. -/
def named : State := { regs [(1, 0xC100000000000000), (2, 0xC100000100000000), (3, 7)] with names := [(0, { state := .live 0 4 }), (1, { state := .forward 1 2 60 5 })] }
/-- Register 6 and 7 hold the operands of a MINT.LD from offset 0 of core 0 or core 1 to the last line of the scratchpad. -/
def line (a : Word) : State := regs [(6, a), (7, 0x17FF80)]
theorem witness_NamesAreMintedAndRevoked :
    base.checkCodes [(5 : RegCode).toNat, (4 : RegCode).toNat] = .ok () ∧
    base.checkQueues (Instr.mint 4 5).word [] [(4 : RegCode).toNat] = .ok () ∧
    base.mintChecks (Instr.mint 4 5).word (4 : RegCode).toNat (5 : RegCode).toNat = .ok () ∧
    base.freeEntry base.here = some 0 ∧
    noNames.mintChecks (Instr.mint 4 5).word (4 : RegCode).toNat (5 : RegCode).toNat = .ok () ∧
    noNames.freeEntry noNames.here = none ∧
    (base.here < 1280 ∧ 511 < 512 ∧ (5 : Nat) ≠ 0) := by
  and_intros <;> decide +kernel

theorem witness_NamesAreMintedAndRevoked_line :
    (line 0).runOperands (Instr.mintLd 4 6 5).word [(6 : RegCode).toNat, (6 : RegCode).toNat + 1] [(6 : RegCode).toNat, (6 : RegCode).toNat + 1] [(5 : RegCode).toNat, (4 : RegCode).toNat] = .ok [0, 0x17FF80] ∧
    (line 0x100000000).runOperands (Instr.mintLd 4 6 5).word [(6 : RegCode).toNat, (6 : RegCode).toNat + 1] [(6 : RegCode).toNat, (6 : RegCode).toNat + 1] [(5 : RegCode).toNat, (4 : RegCode).toNat] = .ok [0x100000000, 0x17FF80] ∧
    (line 0).mintChecks (Instr.mintLd 4 6 5).word (4 : RegCode).toNat (5 : RegCode).toNat = .ok () ∧
    (line 0).resolve (line 0).here (line 0).rights (arg [0, 0x17FF80] 0) 128 = .ok (.spad 0 0) ∧
    (line 0).resolve (line 0).here (line 0).rights (arg [0x100000000, 0x17FF80] 0) 128 = .ok (.spad 1 0) ∧
    lineDest (line 0).here (arg [0, 0x17FF80] 1) = .ok 0x17FF80 ∧
    ((line 0).freeEntry (line 0).here = some 0 ∧ (line 0).me.ld < 63) ∧
    (∃ x, (line 0x100000000).request (.core 1) (.line (spadKey 1 0) (spadKey (line 0x100000000).here 0x17FF80) ((line 0x100000000).nameOf (line 0x100000000).here 0)) = .ok x) := by
  and_intros
  all_goals first
    | decide +kernel
    | exact ok_of (by decide +kernel)
    | exact okay_of (by decide +kernel)

theorem witness_NamesAreMintedAndRevoked_revoke :
    named.operands (Instr.revoke 8 1).word [(1 : RegCode).toNat] [(8 : RegCode).toNat] = .ok [0xC100000000000000] ∧
    (isName 0xC100000000000000 = true ∧ named.isOwnName named.here 0xC100000000000000 = true) ∧
    named.destReady (8 : RegCode).toNat = .ok () ∧
    ((named.name named.here (fld (0xC100000000000000 : Word) 0 9)).salt = fld (0xC100000000000000 : Word) 9 7 ∧ (named.name named.here (fld (0xC100000000000000 : Word) 0 9)).state = .live named.num 4) ∧
    (isName 0xC100000000000200 = true ∧ (named.name named.here (fld (0xC100000000000200 : Word) 0 9)).salt ≠ fld (0xC100000000000200 : Word) 9 7) ∧
    ((let s := mine { named with names := [(0, { state := .live 5 4 })] } fun sl => { sl with mode := 0 }; (s.name s.here 0).state = .live 5 4 ∧ 5 ≠ s.num ∧ s.me.mode = 0)) ∧
    base.operands (Instr.nstat 3).word [] [(3 : RegCode).toNat] = .ok [] := by
  and_intros <;> decide +kernel

theorem witness_DeliveriesFireOnce :
    (0 < 1280 ∧ 0 < 64 ∧ 4 < 128) ∧
    ((named.name 0 (fld (0xC100000000000000 : Word) 0 9)).state = .live 0 4 ∧ (named.name 0 (fld (0xC100000000000000 : Word) 0 9)).salt = fld (0xC100000000000000 : Word) 9 7) ∧
    named.rights.sup = true ∧
    (base.name 0 (fld (0xC100000000000000 : Word) 0 9)).state = .free ∧
    (named.name 0 (fld (0xC100000000000200 : Word) 0 9)).salt ≠ fld (0xC100000000000200 : Word) 9 7 ∧
    (({ ctx := 1, sup := false } : Rights).sup = false ∧ ({ ctx := 1, sup := false } : Rights).ctx ≠ (named.name 0 (fld (0xC100000000000000 : Word) 0 9)).ctx) ∧
    named.operands (Instr.deliv 1 3).word [(1 : RegCode).toNat, (3 : RegCode).toNat] [] = .ok [0xC100000000000000, 7] ∧
    named.operands (Instr.deliv 2 3).word [(2 : RegCode).toNat, (3 : RegCode).toNat] [] = .ok [0xC100000100000000, 7] ∧
    named.operands (Instr.deliv 3 3).word [(3 : RegCode).toNat, (3 : RegCode).toNat] [] = .ok [7, 7] ∧
    (named.nameUsable 0xC100000000000000 = true ∧ named.nameUsable 0xC100000100000000 = true ∧ named.nameUsable 7 = false) ∧
    (named.me.st = 0 ∧ named.isOwnName named.here 0xC100000000000000 = true ∧ named.isOwnName named.here 0xC100000100000000 = false ∧ namePkg 0xC100000100000000 = named.pkgNum) ∧
    (mine named fun sl => { sl with st := 1 }).me.st ≠ 0 ∧
    named.canInject named.here (named.carriers named.me.ctx named.here (.core (nameCore 0xC100000100000000))) = true := by
  and_intros <;> decide +kernel

/-- A message to core 0. -/
def toMe (b : Body) : Msg := { id := 9, uid := 1, src := .core 1, slot := 0, dst := .core 0, body := b }
theorem witness_NameMessagesTakeEffect :
    (net [{ toMe (.deliver 0xC100000000000000 7 .deliv) with resp := true }] named).arrived 9 = some { toMe (.deliver 0xC100000000000000 7 .deliv) with resp := true } ∧
    (net [answer (.delivered 0 0xC100000100000000 .deliv)] named).response 9 = some (answer (.delivered 0 0xC100000100000000 .deliv)) ∧
    (net [answer (.delivered 8 0xC100000100000000 .deliv)] named).response 9 = some (answer (.delivered 8 0xC100000100000000 .deliv)) ∧
    (net [answer (.lineData 0x17FF80 (List.replicate 16 7) 0xC100000000000000 0)] named).response 9 = some (answer (.lineData 0x17FF80 (List.replicate 16 7) 0xC100000000000000 0)) ∧
    (net [toMe (.revoke 0xC100000000000001 3)] named).arrived 9 = some (toMe (.revoke 0xC100000000000001 3)) ∧
    ((named.name 0 (fld (0xC100000000000001 : Word) 0 9)).salt = fld (0xC100000000000001 : Word) 9 7 ∧ (named.name 0 (fld (0xC100000000000001 : Word) 0 9)).state = .forward 1 2 60 5) ∧
    (net [toMe (.retarget 0xC100000000000001 1 3 61)] named).arrived 9 = some (toMe (.retarget 0xC100000000000001 1 3 61)) ∧
    0xC100000000000001 ∉ (named.coreRec 0).forwards ∧
    (net [toMe (.returned 0xC100000000000001 5)] named).arrived 9 = some (toMe (.returned 0xC100000000000001 5)) ∧
    (net [toMe (.destroy 0xC100000000000001)] named).arrived 9 = some (toMe (.destroy 0xC100000000000001)) ∧
    (net [toMe (.forward 60 3 7 0xC100000100000000)] named).arrived 9 = some (toMe (.forward 60 3 7 0xC100000100000000)) ∧
    (net [toMe (.forwardAck 0xC100000000000001)] named).arrived 9 = some (toMe (.forwardAck 0xC100000000000001)) := by
  and_intros <;> decide +kernel

/-! ## Witnesses: tasks, codelets, rings and queues -/

/-- Registers 1 to 4 are arguments, 5 is 0 (no reply name), 6 the entry on core 0 or 1. -/
def caller (a : Word) : State := regs [(1, 1), (2, 2), (3, 3), (4, 4), (5, 0), (6, a)]
/-- A core's task queue is full. -/
def fullTasks : List TaskPkt := List.replicate 64 { entry := 0, args := {}, rep := 0, fmt := 0x122, scla := 0, sclb := 0, ctx := 0, mode := 0, kernel := 0, group := 0 }
def oneTask : TaskPkt := { entry := 0x40, args := {}, rep := 0, fmt := 0x122, scla := 0, sclb := 0, ctx := 0, mode := 0, kernel := 0, group := 0 }
theorem witness_TasksAreCalledAndReturn_call :
    (caller 0x40).runOperands (Instr.callat 6 1 5).word ([1, 2, 3, 4] ++ [5, 6]) [1, 2, 3, 4] [] = .ok [1, 2, 3, 4, 0, 0x40] ∧
    (caller 0x40).resolve (caller 0x40).here (caller 0x40).rights (arg [1, 2, 3, 4, 0, 0x40] 5) 4 = .ok (.spad (caller 0x40).here 0x40) ∧
    (arg [1, 2, 3, 4, 0, 0x40] 4 = 0 ∨ isName (arg [1, 2, 3, 4, 0, 0x40] 4) = true) ∧
    (((caller 0x40).coreRec 0).tasks.length < 64 ∧ (caller 0x40).joins (caller 0x40).me.kpkg (caller 0x40).me.kernel = false) ∧
    64 ≤ ((own (caller 0x40) fun r => { r with tasks := fullTasks }).coreRec 0).tasks.length ∧
    (caller 0x100000040).runOperands (Instr.callat 6 1 5).word ([1, 2, 3, 4] ++ [5, 6]) [1, 2, 3, 4] [] = .ok [1, 2, 3, 4, 0, 0x100000040] ∧
    (caller 0x100000040).resolve 0 (caller 0x100000040).rights 0x100000040 4 = .ok (.spad 1 0x40) ∧
    (caller 0x100000040).me.st < 63 ∧
    (∃ x, (caller 0x100000040).request (.core 1) (.callat (packetOf (caller 0x100000040) 0x40 1 2 3 4 0)) = .ok x) := by
  and_intros
  all_goals first
    | decide +kernel
    | exact ok_of (by decide +kernel)
    | exact okay_of (by decide +kernel)

/-- The thread is a task with this reply name; register 3 is its value. -/
def tasked (nm : Word) : State := mine named fun sl => { sl with task := true, rep := nm }
theorem witness_TasksAreCalledAndReturn_return :
    (tasked 0).operands (Instr.retat 3).word [(3 : RegCode).toNat] [] = .ok [7] ∧
    ((tasked 0).me.task = true ∧ (tasked 0).me.st = 0 ∧ (tasked 0).me.rep = 0) ∧
    ((tasked 0xC100000000000000).me.rep ≠ 0 ∧ (tasked 0xC100000000000000).nameUsable 0xC100000000000000 = true ∧ (tasked 0xC100000000000000).isOwnName 0 0xC100000000000000 = true) ∧
    ((tasked 0xC100000100000000).nameUsable 0xC100000100000000 = true ∧ (tasked 0xC100000100000000).isOwnName 0 0xC100000100000000 = false ∧ namePkg 0xC100000100000000 = (tasked 0xC100000100000000).pkgNum) ∧
    base.checkCode (3 : RegCode).toNat = .ok () ∧
    base.me.task = false :=
  ⟨ok_of (by decide +kernel),
   by decide +kernel,
   by decide +kernel,
   by decide +kernel,
   ok_of (by decide +kernel),
   by decide +kernel⟩

theorem witness_TasksAreCalledAndReturn_accept :
    (net [ask (.callat oneTask)] base).arrived 9 = some (ask (.callat oneTask)) ∧
    (((net [ask (.callat oneTask)] base).coreRec 1).tasks.length < 64 ∧ ((net [ask (.callat oneTask)] base).coreRec 1).waiting.any waitingCall = false) ∧
    ((let s : State := { base with cores := [(1, { tasks := fullTasks })] }; 64 ≤ (s.coreRec 1).tasks.length ∧ (s.coreRec 1).waiting.length < 256)) ∧
    ((let s : State := { base with cores := [(1, { tasks := fullTasks, waiting := List.replicate 256 (ask (.callat oneTask)) })] }; 64 ≤ (s.coreRec 1).tasks.length ∧ 256 ≤ (s.coreRec 1).waiting.length)) ∧
    base.joins oneTask.kpkg oneTask.kernel = false ∧
    (net [answer (.retry none (some oneTask))] base).response 9 = some (answer (.retry none (some oneTask))) ∧
    ((let s : State := { base with cores := [(0, { cycle := 1024, held := [(ask (.callat oneTask), 0)] })] }; s.cores.find? (fun e => e.2.held.any fun y => y.1.id == 9) = some (0, s.coreRec 0) ∧ (s.coreRec 0).held.find? (fun y => y.1.id == 9) = some (ask (.callat oneTask), 0) ∧ s.creditFree (clusterOf 0) (ask (.callat oneTask)).dst = true ∧ 1024 ≤ (s.coreRec 0).cycle - 0)) := by
  and_intros <;> decide +kernel

/-- Register 1 is a codelet record's address, register 2 the count; the record has entry 0x40, this count and state. -/
def record (count st : Nat) (y : Word) : State := (regs [(1, 0x1000), (2, y)]).write64 0x1000 (codSet 0x4000000000 count st)
theorem witness_CodeletsCountDownAndRun :
    (record 0 0 3).operands (Instr.cinit 4 1 2).word [(1 : RegCode).toNat, (2 : RegCode).toNat] [(4 : RegCode).toNat] = .ok [0x1000, 3] ∧
    (record 0 0 3).resolveOwn 0x1000 16 = .ok 0x1000 ∧
    (record 0 0 3).destReady (4 : RegCode).toNat = .ok () ∧
    (fld ((record 0 0 3).read64 (spadKey 0 0x1000)) 53 9 = 0 ∧ codPc ((record 0 0 3).read64 (spadKey 0 0x1000)) = 0x40 ∧ codSt ((record 0 0 3).read64 (spadKey 0 0x1000)) = 0) ∧
    (((record 0 0 3).coreRec 0).res < 256 ∧ fld (3 : Word) 0 32 ≠ 0 ∧ fld (0 : Word) 0 32 = 0) ∧
    256 ≤ ((own (record 0 0 3) fun r => { r with res := 256 }).coreRec 0).res ∧
    (codSt ((record 2 1 3).read64 (spadKey 0 0x1000)) = 1 ∧ 1 < codCount ((record 2 1 3).read64 (spadKey 0 0x1000)) ∧ codCount ((record 2 1 3).read64 (spadKey 0 0x1000)) ≤ 2) ∧
    codSt ((record 2 2 3).read64 (spadKey 0 0x1000)) = 2 ∧
    (record 2 1 1).operands (Instr.decr 1 2).word [(1 : RegCode).toNat, (2 : RegCode).toNat] [] = .ok [0x1000, 1] ∧
    (record 2 1 1).resolveSpad 0x1000 16 false = .ok (0, 0x1000) ∧
    (record 2 1 1).me.st = 0 ∧
    far.operands (Instr.decr 1 2).word [(1 : RegCode).toNat, (2 : RegCode).toNat] [] = .ok [0x100000000, 7] ∧
    far.resolveSpad 0x100000000 16 false = .ok (1, 0) ∧
    (∃ x, far.request (.core 1) (.decr (spadKey 1 0) (fld 7 0 32)) = .ok x) ∧
    (net [ask (.decr 0x200000 1)] base).arrived 9 = some (ask (.decr 0x200000 1)) ∧
    (base.coreRec base.here).ready = [] ∧
    ((let s := own ((record 0 2 0).write64 0x1008 0x2000) fun r => { r with ready := [0x1000], res := 1 }; (s.coreRec s.here).ready = 0x1000 :: [] ∧ ownOffset s.here (s.read64 (spadKey s.here 0x1000 + 8)) = some 0x2000 ∧ 0x2000 + 24 ≤ 0x180000 ∧ 0x2000 % 8 = 0 ∧ 8 ≤ s.me.limit ∧ s.me.phase = .ready)) := by
  and_intros
  all_goals first
    | decide +kernel
    | exact ok_of (by decide +kernel)
    | exact okay_of (by decide +kernel)

/-- Register 1 is the address of a ring of two slots with this TAIL and HEAD; the slots of tickets 0 and 1 are full or not. -/
def ring (tail head : Nat) (f0 f1 : Bool) : State := (((regs [(1, 0x1000), (2, 0), (3, 7)]).write64 0x1000 (ofNat (2 ^ 32 + tail))).write64 0x1008 (ofNat head) |>.setFull 0x1010 f0).setFull 0x1018 f1
theorem witness_RingsIssueFillAndPop :
    Ring.bad ((ring 0 0 true true).read64 0x1000) ((ring 0 0 true true).read64 0x1008) = false ∧
    (Ring.bad (0 : Word) 0 = true ∧ Ring.bad (0xD00000000 : Word) 0 = true) ∧
    2 ^ fld ((ring 2 0 false false).read64 0x1000) 32 4 ≤ (fld ((ring 2 0 false false).read64 0x1000) 0 32 + 2 ^ 32 - fld ((ring 2 0 false false).read64 0x1008) 0 32) % 2 ^ 32 ∧
    (fld ((ring 0 0 false false).read64 0x1000) 0 32 + 2 ^ 32 - fld ((ring 0 0 false false).read64 0x1008) 0 32) % 2 ^ 32 < 2 ^ fld ((ring 0 0 false false).read64 0x1000) 32 4 ∧
    (0 + 2 ^ 32 - fld ((ring 1 0 false false).read64 0x1008) 0 32) % 2 ^ 32 < (fld ((ring 1 0 false false).read64 0x1000) 0 32 + 2 ^ 32 - fld ((ring 1 0 false false).read64 0x1008) 0 32) % 2 ^ 32 ∧
    (ring 1 0 false false).isFull (0x1000 + 16 + 8 * (0 % 2 ^ fld ((ring 1 0 false false).read64 0x1000) 32 4)) = false ∧
    (ring 1 0 true false).isFull (0x1000 + 16 + 8 * (0 % 2 ^ fld ((ring 1 0 true false).read64 0x1000) 32 4)) = true ∧
    (ring 1 0 false false).operands (Instr.ticket 4 1).word [(1 : RegCode).toNat] [(4 : RegCode).toNat] = .ok [0x1000] ∧
    (ring 1 0 false false).resolveSpad 0x1000 16 true = .ok (0, 0x1000) ∧
    (ring 1 0 false false).destReady (4 : RegCode).toNat = .ok () ∧
    far.operands (Instr.ticket 4 1).word [(1 : RegCode).toNat] [(4 : RegCode).toNat] = .ok [0x100000000] ∧
    far.resolveSpad 0x100000000 16 true = .ok (1, 0) ∧
    (∃ x, far.request (.core 1) (.ticket (spadKey 1 0) (4 : RegCode).toNat) = .ok x) ∧
    (ring 1 0 false false).operands (Instr.rqfill 3 1 2).word [(1 : RegCode).toNat, (2 : RegCode).toNat, (3 : RegCode).toNat] [] = .ok [0x1000, 0, 7] ∧
    (ring 1 0 false false).me.st = 0 ∧
    far.operands (Instr.rqfill 2 1 0).word [(1 : RegCode).toNat, (0 : RegCode).toNat, (2 : RegCode).toNat] [] = .ok [0x100000000, 0, 7] ∧
    (∃ x, far.request (.core 1) (.rqfill (spadKey 1 0) 7 (fld 0 0 32)) = .ok x) ∧
    ringOwn (Instr.rqpop 4 1).word 4 1 (ring 1 0 true false) = .ok 0x1000 ∧
    ringOwn (Instr.rqpop 4 1).word 4 1 (ring 1 0 false false) = .ok 0x1000 ∧
    ringOwn (Instr.rqpeek 4 1).word 4 1 (ring 1 0 true false) = .ok 0x1000 ∧
    (net [ask (.ticket 0x200000 4)] base).arrived 9 = some (ask (.ticket 0x200000 4)) ∧
    (net [ask (.rqfill 0x200000 7 0)] base).arrived 9 = some (ask (.rqfill 0x200000 7 0)) := by
  and_intros
  all_goals first
    | decide +kernel
    | exact ok_of (by decide +kernel)
    | exact okay_of (by decide +kernel)

/-- Register code 124 is bound inbound to queue 3, which holds l; or outbound to queue 3. -/
def queued (l : List Word) : State := own (mine base fun sl => { sl with binds := 0x8703 }) fun r => { r with pipes := [(3, { entries := l, consumer := some 1 })] }
def pushing : State := own (mine base fun sl => { sl with binds := 0x8307 }) fun r => { r with pipes := [(3, { entries := List.replicate 16 0, producer := some 1 })] }
theorem witness_QueuesBindPushAndPop :
    (regs [(1, 0x703)]).operands (Instr.qbind 3 1).word [(1 : RegCode).toNat] [] = .ok [0x703] ∧
    (fld (0x703 : Word) 3 5 = 0 ∧ fld (0x703 : Word) 11 53 = 0 ∧ fld (0x703 : Word) 0 3 = 3 ∧ fld (0x703 : Word) 8 3 = 7) ∧
    (base.pipe base.here 3 = {} ∧ base.me.isBound (3 : BitVec 2).toNat = false ∧ base.me.mig = false) ∧
    (fld (0x708 : Word) 3 5 ≠ 0 ∧ fld (0x800 : Word) 11 53 ≠ 0 ∧ fld (0x707 : Word) 0 3 = 7 ∧ fld (0x707 : Word) 8 3 = 7) ∧
    bound.me.isBound (0 : BitVec 2).toNat = true ∧
    (mine base fun sl => { sl with mig := true }).me.mig = true ∧
    ((queued []).me.isBound (0 : BitVec 2).toNat = true ∧ (queued []).me.inQueue (0 : BitVec 2).toNat = 3 ∧ (queued []).me.outQueue (0 : BitVec 2).toNat = 7) ∧
    (queued []).pipe (queued []).here 3 = { (queued []).pipe (queued []).here 3 with producer := none, consumer := some (queued []).me.uid } ∧
    ((queued [7]).me.queueOf 124 = some 0 ∧ (queued [7]).me.inQueue 0 ≠ 7 ∧ ((queued [7]).pipe (queued [7]).here ((queued [7]).me.inQueue 0)).entries = 7 :: []) ∧
    ((queued []).pipe (queued []).here ((queued []).me.inQueue 0)).entries = [] ∧
    (pushing.me.queueOf 124 = some 0 ∧ 16 ≤ (pushing.pipe pushing.here (pushing.me.outQueue 0)).entries.length) := by
  and_intros <;> decide +kernel

/-! ## Witnesses: barriers -/

theorem witness_BarrierPhasesTurn :
    (¬ (({} : Barrier).state = 1 ∧ 0 < ({} : Barrier).arrived)) ∧
    (({ state := 1, expect := 2, arrived := 1 } : Barrier).state = 1 ∧ 0 < ({ state := 1, expect := 2, arrived := 1 } : Barrier).arrived) ∧
    (({ state := 2, expect := 2 } : Barrier).state = 1 ∨ (({ state := 2, expect := 2 } : Barrier).state = 2 ∧ ({ state := 2, expect := 2 } : Barrier).err = false ∧ ({ state := 2, expect := 2 } : Barrier).arrived = 0)) ∧
    (0 + 1 < ({ state := 1, expect := 2 } : Barrier).expect ∧ ({ state := 1, expect := 2, arrived := 1 } : Barrier).expect ≤ 1 + 1) ∧
    (({} : Barrier).state = 0 ∧ ({ state := 2, err := true } : Barrier).err = true ∧ 65535 < 65536) ∧
    (({ state := 1 } : Barrier).state ≠ 0 ∧ ({ state := 1 } : Barrier).err = false ∧ ({ state := 1 } : Barrier).par ≠ true ∧ ({ state := 1 } : Barrier).par = false) :=
  ⟨by decide +kernel,
   by decide +kernel,
   by decide +kernel,
   by decide +kernel,
   by decide +kernel,
   by decide +kernel⟩

/-- Register 1 names the core-level object 15, register 3 the die-level object 0, register 2 is the operand; the object is armed for one arrival. -/
def armed : State := { regs [(1, 0x10F), (2, 1), (3, 0x300)] with barriers := [(15, { state := 1, expect := 1 })] }
theorem ready_of {word op b srcs d s i n vs} (h1 : s.operands word srcs [d] = .ok vs)
    (h2 : barrierName s.me.group (arg vs 0) = .ok { level := 1, index := i }) (h3 : barrierOperand word op b (arg vs 1) = .ok n)
    (h4 : s.barrierRefuses (coreObject s i) s.me.ctx (s.me.mode != 0) = false) (h5 : s.destReady d = .ok ())
    (h6 : op.arrives = true → s.me.st = 0) : BarrierReady word op b srcs d s i n := ⟨vs, h1, h2, h3, h4, h5, h6⟩
theorem witness_BarrierInstructionsAct :
    BarrierReady (Instr.barm 4 1 2).word .arm (2 : RegCode).toNat [(1 : RegCode).toNat, (2 : RegCode).toNat] (4 : RegCode).toNat armed 15 1 ∧
    BarrierReady (Instr.barv 4 1 0).word .arrive (0 : RegCode).toNat [(1 : RegCode).toNat] (4 : RegCode).toNat armed 15 1 ∧
    BarrierReady (Instr.berr 4 1 2).word .err (2 : RegCode).toNat [(1 : RegCode).toNat, (2 : RegCode).toNat] (4 : RegCode).toNat armed 15 1 ∧
    BarrierReady (Instr.bwait 4 1 2).word .wait (2 : RegCode).toNat [(1 : RegCode).toNat, (2 : RegCode).toNat] (4 : RegCode).toNat armed 15 1 ∧
    BarrierReady (Instr.bwait 4 1 0).word .wait (0 : RegCode).toNat [(1 : RegCode).toNat, (0 : RegCode).toNat] (4 : RegCode).toNat armed 15 0 ∧
    BarrierReady (Instr.barw 4 1 0).word .arriveWait (0 : RegCode).toNat [(1 : RegCode).toNat] (4 : RegCode).toNat armed 15 1 ∧
    BarrierReady (Instr.bstat 4 1).word .stat 0 [(1 : RegCode).toNat] (4 : RegCode).toNat armed 15 0 ∧
    ((armed.barrier (coreObject armed 15)).waitNow (1 % 2 == 1) = some 0 ∧ (armed.barrier (coreObject armed 15)).waitNow (0 % 2 == 1) = none ∧ armed.me.codelet = false) ∧
    (armed.me.barwToken = none ∧ (armed.barrier (coreObject armed 15)).state = 1 ∧ (armed.barrier (coreObject armed 15)).err = false ∧ (armed.barrier (coreObject armed 15)).expect ≤ (armed.barrier (coreObject armed 15)).arrived + 1) := by
  and_intros
  all_goals first
    | decide +kernel
    | (refine ready_of (vs := [0x10F, 1]) (ok_of ?_) (ok_of ?_) (ok_of ?_) ?_ (ok_of ?_) ?_ <;> decide +kernel)
    | (refine ready_of (vs := [0x10F]) (ok_of ?_) (ok_of ?_) (ok_of ?_) ?_ (ok_of ?_) ?_ <;> decide +kernel)
    | (refine ready_of (vs := [0x10F, 0]) (ok_of ?_) (ok_of ?_) (ok_of ?_) ?_ (ok_of ?_) ?_ <;> decide +kernel)

theorem witness_BarrierInstructionsAct_remote :
    armed.operands (Instr.barv 4 3 2).word [(3 : RegCode).toNat, (2 : RegCode).toNat] [(4 : RegCode).toNat] = .ok [0x300, 1] ∧
    barrierName armed.me.group (arg [0x300, 1] 0) = .ok { level := 3, index := 0 } ∧
    barrierOperand (Instr.barv 4 3 2).word .arrive (2 : RegCode).toNat (arg [0x300, 1] 1) = .ok 1 ∧
    (armed.me.st = 0 ∧ armed.barrierHome armed.here 3 = .ctrl 0 ∧ armed.me.ld < 63) ∧
    armed.destReady (4 : RegCode).toNat = .ok () ∧
    (∃ x, armed.request (.ctrl 0) (.barrier .arrive (barrierKey armed.here { level := 3, index := 0 }) 1 (4 : RegCode).toNat (arg [0x300, 1] 0)) = .ok x) ∧
    armed.operands (Instr.bwait 4 3 2).word [(3 : RegCode).toNat, (2 : RegCode).toNat] [(4 : RegCode).toNat] = .ok [0x300, 1] ∧
    barrierOperand (Instr.bwait 4 3 2).word .wait (2 : RegCode).toNat (arg [0x300, 1] 1) = .ok 1 ∧
    (∃ x, armed.request (.ctrl 0) (.barrier .wait (barrierKey armed.here { level := 3, index := 0 }) 1 (4 : RegCode).toNat (arg [0x300, 1] 0)) = .ok x) ∧
    (BarOp.arrive.arrives = true ∧ (mine armed fun sl => { sl with st := 1 }).me.st ≠ 0) ∧
    ((let s := mine { armed with barriers := [(15, { state := 1, expect := 1, tag := 1 })] } fun sl => { sl with mode := 0 }; s.me.mode = 0 ∧ (s.barrier (coreObject s 15)).state ≠ 0 ∧ (s.barrier (coreObject s 15)).tag ≠ s.me.ctx)) := by
  and_intros
  all_goals first
    | decide +kernel
    | exact ok_of (by decide +kernel)
    | exact okay_of (by decide +kernel)

/-- An operation on the die-level object 0 by context 1 without supervisor rights. -/
def barAsk (op : BarOp) (n : Nat) : Msg := { id := 9, uid := 1, src := .core 0, slot := 0, dst := .ctrl 0, ctx := 1, started := true, body := .barrier op 0x20000 n 4 0x300 }
/-- The object is armed by context tag. -/
def dieArmed (tag : Nat) : State := { base with barriers := [(0x20000, { state := 1, expect := 2, tag := tag })] }
/-- The thread waits for barrier operation 9 of core object 15, past its limit. -/
def barWaiting : State := { mine armed fun sl => { sl with phase := .parked, park := .remote 9, wait := some { op := 9, dst := .core 0, info := 0x10F, start := 0, limit := 1, barrier := true, reg := 4 } } with cores := [(0, { cycle := 2 })] }
theorem witness_BarrierHomesServe :
    (net [barAsk .arrive 1] (dieArmed 1)).arrived 9 = some (barAsk .arrive 1) ∧
    ((dieArmed 2).barrierRefuses 0x20000 1 false = true ∧ (dieArmed 1).barrierRefuses 0x20000 1 false = false) ∧
    (((dieArmed 1).barrierOp .arrive 0x20000 1 1).2.2 = none ∧ ((dieArmed 1).barrierOp .wait 0x20000 0 1).2.2 = some false ∧ (dieArmed 1).waitsAt (.ctrl 0) < 4096) ∧
    (net [answer (.barrierAnswer 4 0 true false 0x300)] barWaiting).response 9 = some (answer (.barrierAnswer 4 0 true false 0x300)) ∧
    ((net [answer (.barrierAnswer 4 0 true false 0x300)] barWaiting).dropMsg 9).waitsFor 1 9 = true ∧
    (net [answer (.barrierAnswer 4 0 false false 0x300)] base).response 9 = some (answer (.barrierAnswer 4 0 false false 0x300)) ∧
    (net [answer (.barrierAnswer 4 0 false true 0x300)] base).response 9 = some (answer (.barrierAnswer 4 0 false true 0x300)) ∧
    (barWaiting.findThread 1 = some 0 ∧ 0 + 1 < (barWaiting.coreRec (0 / 64)).cycle) ∧
    (barWaiting.slot 0).wait = some { op := 9, dst := .core (0 / 64), info := 0x10F, start := 0, limit := 1, barrier := true, reg := 4 } ∧
    ((let s : State := { base with outstanding := [{ id := 9, uid := 1, core := 0, slot := 0, pkg := 1, ctx := 0, sup := true, what := .barrier 4 true }], unreachable := [1] }; s.isUnreachable 0 1 = true)) ∧
    ((base.barrier 15).state = 0 ∧ (armed.barrier 15).state ≠ 0) := by
  and_intros <;> decide +kernel

/-! ## Witnesses: kernels and groups -/

/-- Register 1 is the address of a launch packet for entry 0, one thread a core, context 0, with this word 1. -/
def packeted (w0 w1 : Word) : State := ((regs [(1, 0x1000), (2, 0x202), (3, 0), (4, 0x80000000)]).write64 0x1000 w0).write64 0x1008 w1
/-- The words of the packet over cores (0, 0) to (1, 1). -/
def packet : List Word := [0x100000000, 0x01010000, 0, 0, 0, 0, 0, 0]
theorem witness_KernelInstructionsAct_launch :
    (packeted 0x100000000 0x01010000).operands (Instr.launch 5 1).word [(1 : RegCode).toNat] [(5 : RegCode).toNat] = .ok [0x1000] ∧
    (packeted 0x100000000 0x01010000).resolve 0 (packeted 0 0).rights 0x1000 8 = .ok (.spad 0 0x1000) ∧
    (0x1000 : Word).toNat % 64 = 0 ∧
    ((packeted 0x100000000 0x01010000).readWords (spadKey 0 0x1000) 8 = packet ∧ bitAt (0x01010000 : Word) 60 = false) ∧
    (malformedPacket 0 (packet.set 1 0x01010000) = false ∧ malformedPacket 0 (([0, 0x01010000, 0, 0, 0, 0, 0, 0] : List Word).set 1 0x01010000) = true) ∧
    bitAt (((packeted 0x100000000 0x1000000001010000).readWords (spadKey 0 0x1000) 8).getD 1 0) 60 = true ∧
    State.resolveRect 0 (setFld (ofNat (fld (0x1000000001010000 : Word) 0 32)) 32 1 1) (Instr.launch 5 1).word = .ok { x0 := 0, y0 := 0, x1 := 1, y1 := 1 } ∧
    ((mine (packeted 0x1000100000000 0x01010000) fun sl => { sl with mode := 0 }).me.mode = 0 ∧ fld ((([0x1000100000000, 0x01010000, 0, 0, 0, 0, 0, 0] : List Word).set 1 0x01010000).getD 0 0) 48 9 ≠ 0) ∧
    malformedPacket 0 (([0x1000100000000, 0x01010000, 0, 0, 0, 0, 0, 0] : List Word).set 1 0x01010000) = false ∧
    ((packeted 0x100000000 0x01010000).me.mode ≠ 0 ∧ (packeted 0x100000000 0x01010000).me.st = 0 ∧ (packeted 0x100000000 0x01010000).me.ld < 63) ∧
    (packeted 0x100000000 0x01010000).destReady (5 : RegCode).toNat = .ok () ∧
    (∃ x, (packeted 0x100000000 0x01010000).request (.ctrl 0) (.launch (packet.set 1 0x01010000) (5 : RegCode).toNat) = .ok x) := by
  and_intros
  all_goals first
    | decide +kernel
    | exact ok_of (by decide +kernel)
    | exact okay_of (by decide +kernel)

theorem witness_KernelInstructionsAct_others :
    (packeted 0 0).operands (Instr.done 5 4).word [(4 : RegCode).toNat] [(5 : RegCode).toNat] = .ok [0x80000000] ∧
    (fld (0x80000000 : Word) 32 32 = 0 ∧ bitAt (0x80000000 : Word) 31 = true) ∧
    (∃ x, (packeted 0 0).request (.ctrl 0) (.kernelQuery 0x80000000 (5 : RegCode).toNat) = .ok x) ∧
    bitAt base.me.kernel 31 = false ∧
    ((let s := mine base fun sl => { sl with kernel := 0x280000000 }; bitAt s.me.kernel 31 = true ∧ s.me.st = 0 ∧ bitAt s.me.kernel 33 = true ∧ bitAt s.me.kernel 32 = false ∧ s.me.kpkg = none)) ∧
    ((let s := mine base fun sl => { sl with kernel := 0x80000000 }; bitAt s.me.kernel 31 = true ∧ s.me.st = 0 ∧ bitAt s.me.kernel 33 = false)) ∧
    ((let s := mine base fun sl => { sl with kernel := 0x380000000 }; bitAt s.me.kernel 31 = true ∧ bitAt s.me.kernel 32 = true)) ∧
    (mine (packeted 0 0) fun sl => { sl with group := 0x0303000000020000 }).operands (Instr.gsplit 5 2 3).word [(2 : RegCode).toNat, (3 : RegCode).toNat] [(5 : RegCode).toNat] = .ok [0x202, 0] ∧
    (splitGroup 0 0x0303000000020000 0x202 0).isSome = true ∧
    (packeted 0 0).operands (Instr.grank 5 3).word [(3 : RegCode).toNat] [(5 : RegCode).toNat] = .ok [0] ∧
    0 < groupTpc 0x0303000000020000 ∧
    ((let q := groupRect 0x0303000000020000; q.width * q.height * groupTpc 0x0303000000020000 ≤ (16 : Word).toNat ∧ (15 : Word).toNat < q.width * q.height * groupTpc 0x0303000000020000)) := by
  and_intros
  all_goals first
    | decide +kernel
    | exact ok_of (by decide +kernel)
    | exact okay_of (by decide +kernel)

/-- A packet on its way to the launch controller of die 0. -/
def launchMsg : Msg := { id := 9, uid := 1, src := .core 0, slot := 0, dst := .ctrl 0, started := true, body := .launch packet 5 }
/-- The kernel table with one entry; the launch queue. -/
def tabled (r : KernelRec) (l : List Nat) : State := { base with kernels := [(0, r)], launchQueue := l }
/-- A packet whose cores are (1, 1) alone, of context i, with ALL or not. -/
def one (i all img : Nat) : List Word := [ofNat (2 ^ 32 + i * 2 ^ 48 + all * 2 ^ 29), 0x01010101, 0, ofNat img, 0, 0, 0, 0]
theorem witness_LaunchesAreQueuedAndPlaced :
    (net [launchMsg] base).arrived 9 = some launchMsg ∧
    256 ≤ ({ base with launchQueue := List.range 256 } : State).launchQueue.length ∧
    (base.launchQueue.length < 256 ∧ 0 < 1024 ∧ (base.kernelRec 0).state = 0 ∧ ∀ j, j < 0 → (base.kernelRec j).state ≠ 0) ∧
    ((tabled { state := 1, packet := one 1 0 0 } [0]).launchQueue = 0 :: [] ∧ (tabled { state := 1, packet := one 1 0 0 } [0]).depAllows { state := 1, packet := one 1 0 0 } = true ∧ (tabled { state := 1, packet := one 1 0 0 } [0]).rootBusy ({ state := 1, packet := one 1 0 0 } : KernelRec).rootDie = false) ∧
    (({ state := 1, packet := one 1 0 0 } : KernelRec).ctx ≠ 0 ∧ ((tabled { state := 1, packet := one 1 0 0 } [0]).ctx 1).state ≠ 1) ∧
    ({ state := 1, packet := one 0 0 0 } : KernelRec).ctx = 0 ∧
    ((let s := tabled { state := 2, packet := one 0 0 0 } []; (s.kernelRec 0).state = 2 ∧ s.eligible (s.kernelRec 0) 33 = true ∧ 33 ∉ (s.kernelRec 0).granted ∧ 33 ∉ (s.kernelRec 0).refused ∧ (s.reserve ((s.kernelRec 0).ident 0) 33 (s.kernelRec 0).limit (s.kernelRec 0).tpc).isSome = true)) ∧
    ((let s : State := { tabled { state := 2, packet := one 0 0 0 } [] with slots := [(33 * 64, { phase := .ready, limit := 2048 })] }; s.reserve ((s.kernelRec 0).ident 0) 33 (s.kernelRec 0).limit (s.kernelRec 0).tpc = none)) ∧
    ((let s := tabled { state := 2, packet := one 0 0 8, granted := [33] } []; (s.kernelRec 0).state = 2 ∧ s.allAnswered (s.kernelRec 0) = true ∧ (s.kernelRec 0).granted ≠ [] ∧ (s.kernelRec 0).refused = [] ∧ (s.kernelRec 0).copied < (s.kernelRec 0).ilen ∧ (s.kernelRec 0).imageMsg = none ∧ (s.kernelRec 0).reason = 0)) ∧
    ((let s := tabled { state := 2, packet := one 0 0 0, refused := [33] } []; (s.kernelRec 0).state = 2 ∧ s.allAnswered (s.kernelRec 0) = true ∧ (s.kernelRec 0).reason = 0 ∧ (s.kernelRec 0).granted = [])) ∧
    ((let s := tabled { state := 2, packet := [0x120000000, 0x02010101, 0, 0, 0, 0, 0, 0], refused := [33], granted := [65] } []; s.allAnswered (s.kernelRec 0) = true ∧ (s.kernelRec 0).granted ≠ [] ∧ (s.kernelRec 0).all = true ∧ (s.kernelRec 0).refused ≠ [])) ∧
    ((let s := tabled { state := 2, packet := one 0 1 0, granted := [33] } []; s.allAnswered (s.kernelRec 0) = true ∧ (s.kernelRec 0).granted ≠ [] ∧ (s.kernelRec 0).refused = [] ∧ (s.kernelRec 0).ilen = 0)) := by
  and_intros <;> decide +kernel

/-- A running kernel with identifier 0x80000000 placed on core (1, 1). -/
def running (r : KernelRec) : State := tabled { r with packet := one 0 0 0, granted := [33] } []
def toRoot0 (b : Body) : Msg := { id := 9, src := .core 33, dst := .ctrl 0, resp := true, sup := true, body := b }
theorem witness_KernelsTriggerAndRetire :
    ((let s := running { state := 3 }; ((s.kernelRec 0).state = 3 ∨ (s.kernelRec 0).state = 4) ∧ 33 ∈ (s.kernelRec 0).granted ∧ 33 ∉ (s.kernelRec 0).reported ∧ (s.kernelCore 0 33).alive = 0 ∧ membershipInFlight 0 (some 33) s = false)) ∧
    ((let s := running { state := 3 }; 33 ∉ (s.kernelRec 0).triggers ∧ (s.kernelCore 0 33).untriggered = 0 ∧ ∀ e ∈ (s.kernelRec 0).granted, e ∈ (s.kernelRec 0).triggers ++ [33])) ∧
    ((net [toRoot0 (.join 0x80000000 5 7)] (running { state := 3 })).arrived 9 = some (toRoot0 (.join 0x80000000 5 7)) ∧ (running { state := 3 }).kernelLive 0x80000000 = true) ∧
    ((let x : Msg := { toMe (.joinAck 5 7) with resp := true }; let s := net [x] (waiting 0); s.arrived 9 = some x ∧ (∀ e ∈ (s.coreRec 0).joining, e.1 ≠ 9) ∧ (s.dropMsg 9).waitsFor 1 9 = true)) ∧
    (net [toRoot0 (.leave 0x80000000 (threadStatus 0))] (running { state := 4 })).arrived 9 = some (toRoot0 (.leave 0x80000000 (threadStatus 0))) ∧
    ((let s := running { state := 4, reported := [33] }; (∀ c ∈ (s.kernelRec 0).granted, c ∈ (s.kernelRec 0).reported) ∧ (s.kernelRec 0).joins = 0 ∧ membershipInFlight 0 none s = false)) ∧
    (net [{ toMe (.triggerNotice 0x80000000 0) with resp := true }] base).arrived 9 = some { toMe (.triggerNotice 0x80000000 0) with resp := true } ∧
    (net [{ toMe (.guestRetired 0x80000000 (threadStatus 0) 33 true false false) with resp := true }] base).arrived 9 = some { toMe (.guestRetired 0x80000000 (threadStatus 0) 33 true false false) with resp := true } ∧
    ((let x : Msg := { launchMsg with body := .kernelQuery 0x80000000 5 }; (net [x] base).arrived 9 = some x)) ∧
    ((let s := running { state := 5 }; (s.kernelRec (kernelId 0x80000000)).gen = fld (0x80000000 : Word) 16 12 ∧ (s.kernelRec (kernelId 0x80000000)).state = 5 ∧ (s.kernelRec (kernelId 0x80000000)).ctx = 0)) ∧
    ((base.kernelRec (kernelId 0x80000000)).state = 0 ∧ ((running { state := 3 }).kernelRec (kernelId 0x80000000)).gen ≠ fld (0x80010000 : Word) 16 12 ∧ ((running { state := 3 }).kernelRec (kernelId 0x80000000)).ctx ≠ 1) := by
  and_intros <;> decide +kernel

/-! ## Witnesses: pointers and the vector engine -/

/-- A vector command of the issuing thread over l elements. -/
def vec (op : VecOp) (ty l : Nat) : VecCmd := { uid := 1, op := op, ty := ty, count := l, modifier := 0, pa := 0, pb := 0, pd := 0x1000, pk := 0, rm := 0, int4lo := 0, int4hi := 0 }
/-- Register 1 is a count of 4, register 2 the same with every modifier bit set. -/
def counted : State := regs [(1, 4), (2, 0xFFFFFFFF00000004)]
theorem witness_PointerRegistersMove :
    (regs [(1, 0x17FFF8)]).operands (Instr.pset 7 1).word [(1 : RegCode).toNat] [] = .ok [0x17FFF8] ∧
    (ptrReserved 0x17FFF8 = false ∧ (∃ w, ptrReserved w = true)) ∧
    base.operands (Instr.pget 7 1).word [] [(1 : RegCode).toNat] = .ok [] ∧
    (regs [(1, 0x1FFFFF)]).operands (Instr.padv 7 1).word [(1 : RegCode).toNat] [] = .ok [0x1FFFFF] :=
  ⟨ok_of (by decide +kernel),
   ⟨by decide, BitVec.allOnes 64, by decide⟩,
   ok_of (by decide +kernel),
   ok_of (by decide +kernel)⟩

theorem witness_VectorInstructionsAreQueued :
    (Instr.vsel 1 2 3 0 1, VecOp.sel, (2 : PtrCode).toNat, (3 : PtrCode).toNat) ∈ vectorForms 1 2 3 0 1 ∧
    counted.operands (Instr.vadd 1 2 3 0 1).word [(1 : RegCode).toNat] [] = .ok [4] ∧
    (∀ i, ptrReserved (counted.me.ptr i) = false) ∧
    VecOp.add.legal (0 : BitVec 4).toNat (vectorCommand counted .add 0 2 3 1 4).modifier = true ∧
    ((let q := vectorCommand counted .add 0 2 3 1 4; checkStreams counted.here (vecStreams .add 0 q.modifier q.count q.pa q.pb q.pd q.pk)) = .ok ()) ∧
    ((counted.coreRec counted.here).queue.length < 2 ∧ counted.me.tl < 63) ∧
    (2 ≤ ((own counted fun r => { r with queue := [.vector (vec .add 0 4), .vector (vec .add 0 4)] }).coreRec 0).queue.length ∧ 63 ≤ (mine counted fun sl => { sl with tl := 63 }).me.tl) ∧
    counted.operands (Instr.vadd 1 2 3 0 2).word [(2 : RegCode).toNat] [] = .ok [0xFFFFFFFF00000004] ∧
    VecOp.add.legal (0 : BitVec 4).toNat (vectorCommand counted .add 0 2 3 1 0xFFFFFFFF00000004).modifier = false := by
  and_intros
  all_goals first
    | decide +kernel
    | exact ok_of (by decide +kernel)
    | exact fun i => by have h : counted.me.ptrs = [] := (by decide +kernel); simp only [Slot.ptr, h, Store.get]; decide

theorem witness_VectorEngineComputes :
    (((own base fun r => { r with queue := [.vector (vec .add 0 4)] }).coreRec 0).queue = .vector (vec .add 0 4) :: [] ∧ ((own base fun r => { r with queue := [.vector (vec .add 0 4)] }).coreRec 0).executed = none) ∧
    ((own base fun r => { r with executed := some { cmd := .vector (vec .add 0 4), flags := 1 } }).coreRec 0).executed = some { cmd := .vector (vec .add 0 4), flags := 1 } ∧
    ((vec .iadd 11 64).op.reduces = false ∧ 0 < (vec .iadd 11 64).count ∧ (vec .iadd 11 64).count ≤ beatSize (vec .iadd 11 64)) ∧
    ((let v := vec .iadd 11 64; let w := widthOf (v.op.streamD v.ty v.modifier 0).1; 8 ≤ w ∧ w % 8 = 0 ∧ ptrOff v.pd + v.count * (w / 8) ≤ 0x180000)) ∧
    (255 < 2 ^ widthOf 11 ∧ signed 128 (widthOf 11) < signed 127 (widthOf 11) ∧ 11 ∈ [8, 9, 10, 11]) :=
  ⟨by decide +kernel,
   by decide +kernel,
   by decide +kernel,
   by decide +kernel,
   by decide +kernel⟩

/-! ## Witnesses: tile commands and copies -/

/-- A tile command of the issuing thread as TCMD would build it. -/
def tile (op : TileOp) : TileCmd := { uid := 1, ctx := 0, mode := 1, k := 0, level := 0, op := op, nkb := 0, bidx := 0, lat := 0, fmto := 0, rlen := 0, rpos := 0, addr0 := 0, stride := 0, addr1 := 0, fmt := 0x122, scla := 0, sclb := 0, wlim := 0, rm := 0, int4lo := 0x0706050403020100, int4hi := 0xFFFEFDFCFBFAF9F8 }
/-- Core 0's engine holds this command at the head of its queue. -/
def tiled (q : TileCmd) (m : Matrix) (s : State) : State := own s fun r => { r with matrix := { m with queue := [q] } }
/-- The command starts in s and f holds of the run and the state then. -/
def starts (s : State) (op : TileOp) (f : TileRun → State → Bool) : Bool := match s.tileRun 0 op with | some (r, s1) => f r s1 | none => false
/-- The memory tile's footprint passes, at offset off. -/
def footprint (s : State) (q : TileCmd) (off : Nat) : Bool := match s.tileMem 0 q with | .ok o => o == off | .error _ => false
/-- The registers of an MZERO, and of one with a reserved bit. -/
def tileRegs (w : Word) : State := regs [(1, w), (2, 0), (3, 0), (4, 0)]
theorem witness_TileCommandsAreQueued :
    (tileRegs 1).runOperands (Instr.tcmd 0 1 1 0).word (fourFrom 1) (fourFrom 1) [] = .ok [1, 0, 0, 0] ∧
    (tileRegs 1).me.fmt = 0x122 ∧
    (TurnedAway 0x122 0 0 0 0 0 ∧ ¬ TurnedAway 0x122 (0 : BitVec 3).toNat 1 0 0 0 ∧ TurnedAway 0x122 0 0x801 0 0 0) ∧
    (TileOp.mzero.code = fld (1 : Word) 0 8 ∧ tileCommand (tileRegs 1) 0 0 .mzero 1 0 0 0 = tile .mzero) ∧
    (¬ TurnedAway 0x144 3 0x1703 0x1000 128 0 ∧ TurnedAway 0x144 3 0x1703 0x1000 120 0 ∧ ¬ TurnedAway 0x122 0 0x1F00000008 0 0 0 ∧ TurnedAway 0x122 0 0x3F00000008 0 0 0) ∧
    (¬ ((1 : BitVec 1) = 1 ∧ (tileRegs 1).me.codelet = true)) ∧
    ((tileRegs 1).me.phase = .ready ∧ (tileRegs 1).me.tok.getLsbD (0 : BitVec 3).toNat = false ∧ ((tileRegs 1).matrix (tileRegs 1).here).queue.length < 2 ∧ (tileRegs 1).me.tl < 63) ∧
    ((mine base fun sl => { sl with tok := 1 }).me.tok.getLsbD (0 : BitVec 3).toNat = true ∧ (mine base fun sl => { sl with codelet := true }).me.codelet = true) ∧
    ((let s := own base fun x => { x with matrix := { compute := some { cmd := tile .mzero, start := 0, ended := some none } } }; (s.matrix 0).path false = some { cmd := tile .mzero, start := 0, ended := some none } ∧ (tile .mzero).level = 0)) := by
  and_intros
  all_goals first
    | decide +kernel
    | simp +decide [TurnedAway, TileFormats]

theorem witness_MatrixCommandsCompute :
    (((tiled (tile .mzero) {} base).matrix 0).path (tile .mzero).op.moves = none ∧ ((tiled (tile .mzero) {} base).matrix 0).queue = tile .mzero :: []) ∧
    starts (tiled (tile .mzero) {} base) .mzero (fun _ _ => true) = true ∧
    ((let q := { tile .mma with nkb := 1, stride := 256 }; starts (tiled q { half0 := .full } base) .mma fun r s1 => footprint s1 q 0 && !r.begun && (scaleFail q).isNone && (s1.matrix 0).half 0 == .full) = true) ∧
    ((let q := { tile .mmad with nkb := 1, stride := 256, fmt := 0 }; starts (tiled q {} base) .mmad fun _ s1 => footprint s1 q 0 && (s1.matrix 0).half 0 != .full) = true) ∧
    ((let q := { tile .mmas with nkb := 1, stride := 128, fmt := 0x144, scla := 0x1000, sclb := 0x2000 }; starts (tiled q { half0 := .full } base) .mmas fun _ s1 => footprint s1 q 0 && (scaleFail q).isNone && (s1.matrix 0).half 0 == .full) = true) ∧
    ((let q := { tile .mstore with stride := 128, fmto := 1 }; starts (tiled q {} base) .mstore fun _ s1 => footprint s1 q 0 && decide (32 * (widthOf q.fmto / 8) ≤ q.stride)) = true) ∧
    ((let q := { tile .mloadc with stride := 128, fmto := 1 }; starts (tiled q {} base) .mloadc fun _ s1 => footprint s1 q 0) = true) ∧
    ((let q := { tile .bload with stride := 64 }; starts (tiled q {} base) .bload fun _ s1 => footprint s1 q 0 && (s1.matrix 0).half 0 == .empty && decide (q.rows * q.rowBytes ≤ 8192)) = true) ∧
    ((let q := { tile .brot with rlen := 31 }; starts (tiled q {} base) .brot fun r s1 => (s1.matrix 0).half 0 != .full && ringAt s1 (coreOfSnake 0 31) (r.ring + 255) && ringAt s1 (coreOfSnake 0 1) (r.ring + 255)) = true) ∧
    ((let q := { tile .brot with rlen := 1, rpos := 1 }; starts (tiled q {} base) .brot fun _ s1 => (s1.matrix 0).half 0 != .full && decide (snakeOf 0 < q.rpos)) = true) ∧
    ((let r : TileRun := { cmd := { tile .brot with rlen := 1, wlim := 1 }, start := 0 }; let s := own base fun x => { x with cycle := 1025, matrix := { half0 := .filling, move := some r } }; (s.matrix 0).move = some r ∧ r.ended = none ∧ (s.matrix 0).half r.cmd.lat = .filling ∧ 0 < fld r.cmd.wlim 0 24 ∧ fld r.cmd.wlim 0 24 * 1024 < (s.coreRec 0).cycle - r.start)) ∧
    (63 < (tile .mma).rows ∧ (tile .mma).fc ≠ 9 ∧ ({ tile .mma with fmt := 0x9BB } : TileCmd).fc = 9) := by
  and_intros <;> decide +kernel

/-- Two elements of 8 bytes from 0x1000 to 0x2000; a table of two rows of 8 bytes there and an index list of zeros at 0x100. -/
def tensor : State := ((((base.write64 0 0x30).write64 8 0x1000).write64 16 0x2000).write64 24 2).write64 32 0x800000008
def table : State := (((base.write64 0 0x200000008).write64 8 0x1000).write64 16 2).write64 24 0x2000
/-- An answer holds a value. -/
def isOk {ε α : Type} (e : Except ε α) : Bool := match e with | .ok _ => true | .error _ => false
theorem witness_TensorMovesCopyTheirParts :
    starts (tiled (tile .tcopy) {} tensor) .tcopy (fun r s1 => (s1.coreRec 0).movePage.isNone && !(s1.coreRec 0).moveFailed && !r.begun && isOk (s1.tcopyParts 0 r.cmd)) = true ∧
    starts (tiled { tile .tcopy with addr0 := 0x180000 } {} base) .tcopy (fun r s1 => !isOk (s1.tcopyParts 0 r.cmd)) = true ∧
    ((let q := { tile .tgather with addr1 := 0x100 }; starts (tiled q {} table) .tgather fun r s1 => isOk (s1.rowParts 0 r.cmd) && isOk (s1.tileAt 0 q q.addr0 32 8)) = true) ∧
    ((let q := { tile .tscatter with addr1 := 0x100 }; starts (tiled q {} table) .tscatter fun r s1 => isOk (s1.rowParts 0 r.cmd)) = true) ∧
    starts (tiled (tile .tscatter) {} base) .tscatter (fun r s1 => !isOk (s1.rowParts 0 r.cmd)) = true ∧
    starts (tiled (tile .tcopy) {} (own tensor fun x => { x with moveFailed := true })) .tcopy (fun _ s1 => (s1.coreRec 0).moveFailed) = true ∧
    starts (own base fun x => { x with matrix := { move := some { cmd := tile .tcopy, start := 0, begun := true } } }) .tcopy (fun r _ => r.begun) = true ∧
    base.resolve 0 { ctx := (tile .tcopy).ctx, sup := (tile .tcopy).mode != 0 } 0x2000 1 = .ok (.spad 0 0x2000) ∧
    base.resolve 0 { ctx := (tile .tcopy).ctx, sup := (tile .tcopy).mode != 0 } 0x1000 1 = .ok (.spad 0 0x1000) ∧
    (∀ x ∈ [((0x1000 : Nat), (8 : Nat))], x.1 + x.2 ≤ 0 * 0x200000 + 0x2000 ∨ 0 * 0x200000 + 0x2000 + 8 ≤ x.1) := by
  and_intros <;> decide +kernel

/-- Registers 1 to 4 hold a COPY of 8 bytes from offset 0 to core 1. -/
def copying : State := regs [(1, 0), (2, 0x100000000), (3, 8), (4, 0)]
def request (n : Word) : CopyReq := { m0 := 0, m1 := 0x100000000, m2 := n, m3 := 0, op := 0, uid := 1, k := 0, bsel := 0, bidx := 0, ctx := 0, mode := 1 }
/-- Core 0's movement slot runs the default microcode with this request. -/
def moving (n : Word) : State := own base fun r => { r with mailbox := some (request n), defaultMover := true }
theorem witness_CopiesAreIssuedAndFinished :
    copying.runOperands (Instr.copy 0 1 1 0).word (fourFrom 1) (fourFrom 1) [] = .ok [0, 0x100000000, 8, 0] ∧
    (¬ CopyRefused 0 (0 : BitVec 3).toNat 0x100000000 8 0 ∧ CopyRefused 0 0 0x100000000 (BitVec.allOnes 64) 0 ∧ ¬ CopyRefused 1 5 0 8 0x309 ∧ CopyRefused 1 5 0 8 0x409) ∧
    copying.cur % 64 ≠ 63 ∧
    ({ copying with cur := 63 } : State).cur % 64 = 63 ∧
    (copying.me.phase = .ready ∧ copying.me.tok.getLsbD (0 : BitVec 3).toNat = false ∧ (copying.coreRec copying.here).mailbox = none ∧ copying.me.cp < 63 ∧ copying.me.st = 0) ∧
    (((moving 8).coreRec 0).mailbox ≠ none ∧ 63 ≤ (mine copying fun sl => { sl with cp := 63 }).me.cp) ∧
    ((let x := (moving 0x10000).coreRec 0; x.mailbox = some (request 0x10000) ∧ x.finishing = none ∧ x.defaultMover = true ∧ x.moverWait = none ∧ x.moverParts = [] ∧ x.moverData = none ∧ ((moving 0x10000).slot 63).phase ≠ .pageWait)) ∧
    (bitAt (0x10000 : Word) 63 = false ∧ bitAt (0x10000 : Word) 62 = false ∧ fld (0x10000 : Word) 0 40 = 0x10000 ∧ fld (0 : Word) 0 16 + 0x10000 ≤ 0x10000 ∧ fld (0x100000000 : Word) 0 16 + 0x10000 ≤ 0x10000) ∧
    (moving 0x10000).resolve 0 { ctx := 0, sup := true } 0 1 = .ok (.spad 0 0) ∧
    (moving 0x10000).resolve 0 { ctx := 0, sup := true } 0x100000000 1 = .ok (.spad 1 0) ∧
    0 * 0x200000 + 0 + 0x10000 ≤ 1 * 0x200000 + 0 ∧
    (net [ask (.run 0x200000 8 [1, 0, 0, 0, 0, 0, 0, 0] 0x1000 8 [])] base).arrived 9 = some (ask (.run 0x200000 8 [1, 0, 0, 0, 0, 0, 0, 0] 0x1000 8 [])) ∧
    ([1, 0, 0, 0, 0, 0, 0, 0].length % (widthOf 8 / 8) = 0 ∧ 0x1000 + 8 ≤ 0x200000 ∧ 8 ∈ [8, 9]) ∧
    (net [ask (.multicast 0x1000 [1, 255] false [1, 2])] base).arrived 9 = some (ask (.multicast 0x1000 [1, 255] false [1, 2])) ∧
    (net [ask (.multicast 0x1000 [1, 255] false [1])] (own base fun r => { r with moverWait := some { id := 9, gain := 0, operand := 6, write := true } })).arrived 9 = some (ask (.multicast 0x1000 [1, 255] false [1])) ∧
    (((own base fun r => { r with moverWait := some { id := 9, gain := 0, operand := 6, write := true } }).moverWaits 0 9) = true ∧ ∀ b ∈ [1, 255], b < 256) ∧
    ((let s := own (moving 8) fun r => { r with finishing := some 0 }; (s.coreRec 0).mailbox = some (request 8) ∧ (s.coreRec 0).finishing = some 0 ∧ (s.slot (0 * 64 + 63)).st = 0 ∧ (request 8).bsel = 0)) := by
  and_intros
  all_goals first
    | decide +kernel
    | (dsimp only [CopyRefused]; decide +kernel)

/-! ## Witnesses: the region store -/

/-- A domain of context 0 with index 1: two bricks along x, owned by cores (1, 1) and (2, 1), with four records and four home entries each. -/
def dom1 : Domain := { ctx := 0, dom := 1, table := [], words := [0, 0x4000000000000000, 0x3F8000003F800000, 0x3F8000003F800000, 0x000101023F800000, 0x8001000001020101, 0x400001000, 0x400008000, 0, 0] }
/-- s in which the domain is live at cores 0, 33 and 34. -/
def live (s : State) : State := { s with domains := [dom1], cores := [(0, { domains := [dom1] }), (33, { domains := [dom1] }), (34, { domains := [dom1] })] }
/-- Register 1 is an image's address, 2 the domain, 3 a handle, 4 and 5 the addresses of query blocks, 6 a name, 7 a bad handle. -/
def regioned : State := live ((((((regs [(1, 0x2000), (2, 1), (3, 0xC201000000000000), (4, 0x3000), (5, 0x3100), (6, 0xC100000000000000), (7, 0xC301000000000000)]).writeWords 0x3000
  [0x200000001, 0x4000, 0, 0x4000000000000000, 0x3F8000003F800000]).writeWords 0x3100 [0x200000001, 0x4000, 0x40400000, 0x4000000000000000, 0x3F8000003F800000]).writeWords 0x3200 [0x200000001, 0x4000, 0, 0, 0])))
/-- The same thread on core (1, 1). -/
def issuer33 : State := live ((((({ base with cur := 2112 } : State).setSlot 2112 { phase := .ready, uid := 2, mode := 1, limit := 128 }).writeReg 2112 3 0xC201000000000000).writeReg 2112 4 0x10100003000).writeReg 2112 6 0xC100000000000000 |>.writeWords (33 * 0x200000 + 0x3000)
  [0x200000001, 0x10100004000, 0, 0x4000000000000000, 0x3F8000003F800000])
/-- A message to core (1, 1) and a record operation. -/
def to33 (b : Body) : Msg := { id := 9, uid := 1, src := .core 0, slot := 0, dst := .core 33, started := true, body := b }
def recOp (op : RecordOp) (data : List Nat) : RegionOp := { op := op, core := 0, ctx := 0, dom := 1, handle := 0xC201000000000000, data := data, dst := 0x2000, reg := 4 }
/-- Pool slot 0 of core (1, 1) holds a record of this identifier in state v. -/
def holding (v id : Nat) : State := (regioned.write (poolPlace 33 dom1 0) 8 id).write (poolPlace 33 dom1 0 + 20) 1 v
/-- A position in the second brick. -/
def pos2 : List Nat := [0, 0, 0xC0, 0x3F, 0, 0, 0, 0, 0, 0, 0, 0]
theorem witness_RegionOperationsAreIssued :
    (Instr.rins 8 1 2, RecordOp.rins, [(1 : RegCode).toNat, (2 : RegCode).toNat]) ∈ recordForms 8 1 2 ∧
    regioned.operands (Instr.rins 8 1 2).word [(1 : RegCode).toNat, (2 : RegCode).toNat] [(8 : RegCode).toNat] = .ok [0x2000, 1] ∧
    regioned.recordBufferAt .rins 0x2000 0x2000 = .ok 0x2000 ∧
    regioned.recordTarget .rins 0x2000 1 (fun n => regioned.mem.readN (regioned.here * 0x200000 + 0x2000 + 8 + 4 * n) 4) = .ok (dom1, 33) ∧
    regioned.operands (Instr.rdel 8 3).word [(3 : RegCode).toNat] [(8 : RegCode).toNat] = .ok [0xC201000000000000] ∧
    regioned.recordBufferAt .rdel 0 0xC201000000000000 = .ok 0 ∧
    regioned.recordTarget .rdel 0xC201000000000000 0 (fun _ => 0) = .ok (dom1, 33) ∧
    regioned.destReady (8 : RegCode).toNat = .ok () ∧
    (regioned.me.ld < 63 ∧ 33 ≠ regioned.here ∧ 63 ≤ (mine regioned fun sl => { sl with ld := 63 }).me.ld) ∧
    WindowCode regioned (8 : RegCode).toNat ∧
    (∃ x, regioned.request (.core 33) (.region { op := .rins, core := 0, ctx := 0, dom := 1, handle := 0x2000, data := regioned.readBytes (0 * 0x200000 + 0x2000) 128, dst := 0x2000, reg := 8 } none) = .ok x) ∧
    issuer33.operands (Instr.rdel 8 3).word [(3 : RegCode).toNat] [(8 : RegCode).toNat] = .ok [0xC201000000000000] ∧
    issuer33.recordTarget .rdel 0xC201000000000000 0 (fun _ => 0) = .ok (dom1, 33) ∧
    issuer33.here = 33 ∧
    regioned.operands (Instr.rdel 8 7).word [(7 : RegCode).toNat] [(8 : RegCode).toNat] = .ok [0xC301000000000000] ∧
    fld (0xC301000000000000 : Word) 56 8 ≠ 0xC2 := by
  and_intros
  all_goals first
    | decide +kernel
    | exact ok_of (by decide +kernel)
    | exact okay_of (by decide +kernel)

theorem witness_RegionOperationsAreIssued_queries :
    regioned.operands (Instr.rqbox 4 6).word [(4 : RegCode).toNat, (6 : RegCode).toNat] [] = .ok [0x3000, 0xC100000000000000] ∧
    regioned.ownBlock 0x3000 8 = .ok 0x3000 ∧
    isName 0xC100000000000000 = true ∧
    ((let ws := regioned.readWords (0 * 0x200000 + 0x3000) 5; regioned.domainAt 0 0 (fld (ws.getD 0 0) 0 3) = some dom1 ∧ fld (ws.getD 0 0) 3 29 = 0 ∧ fld (ws.getD 0 0) 48 16 = 0 ∧ fld (ws.getD 0 0) 32 16 = 2)) ∧
    regioned.ownBlock ((regioned.readWords (0 * 0x200000 + 0x3000) 5).getD 1 0) 32 = .ok 0x4000 ∧
    regioned.pathOf dom1 { kind := .box, ctx := 0, dom := 1, words := regioned.readWords (0 * 0x200000 + 0x3000) 5, core := 0, buf := 0x4000, name := 0xC100000000000000, path := [] } = [33, 34] ∧
    regioned.operands (Instr.rqbox 5 6).word [(5 : RegCode).toNat, (6 : RegCode).toNat] [] = .ok [0x3100, 0xC100000000000000] ∧
    regioned.pathOf dom1 { kind := .box, ctx := 0, dom := 1, words := regioned.readWords (0 * 0x200000 + 0x3100) 5, core := 0, buf := 0x4000, name := 0xC100000000000000, path := [] } = [] ∧
    ((let ws := regioned.readWords (0 * 0x200000 + 0x3200) 5; ws.getD 2 0 = 0 ∧ ws.getD 3 0 = 0 ∧ ws.getD 4 0 = 0)) ∧
    issuer33.operands (Instr.rqbox 4 6).word [(4 : RegCode).toNat, (6 : RegCode).toNat] [] = .ok [0x10100003000, 0xC100000000000000] ∧
    issuer33.ownBlock 0x10100003000 8 = .ok 0x3000 ∧
    issuer33.ownBlock ((issuer33.readWords (issuer33.here * 0x200000 + 0x3000) 5).getD 1 0) 32 = .ok 0x4000 ∧
    issuer33.pathOf dom1 { kind := .box, ctx := 0, dom := 1, words := issuer33.readWords (issuer33.here * 0x200000 + 0x3000) 5, core := 33, buf := 0x4000, name := 0xC100000000000000, path := [] } = issuer33.here :: [34] ∧
    ((mine regioned fun sl => { sl with mode := 0 }).me.mode = 0 ∧ regioned.me.mode ≠ 0 ∧ regioned.me.codelet = false ∧ regioned.me.st = 0) ∧
    regioned.operands (Instr.rdom 8 1).word [(1 : RegCode).toNat] [(8 : RegCode).toNat] = .ok [0x2000] ∧
    regioned.ownBlock 0x2000 8 = .ok 0x2000 ∧
    bitAt ((regioned.readWords (0 * 0x200000 + 0x2000) 10).getD 5 0) 63 = false := by
  and_intros <;> decide +kernel

theorem witness_RecordsAreInsertedReadAndWritten :
    (net [to33 (.region (recOp .rins (List.replicate 128 7)) none)] regioned).findMsg 9 = some (to33 (.region (recOp .rins (List.replicate 128 7)) none)) ∧
    (net [to33 (.region (recOp .rins (List.replicate 128 7)) none)] regioned).performable 9 = some (to33 (.region (recOp .rins (List.replicate 128 7)) none)) ∧
    (regioned.domainAt 33 0 1 = some dom1 ∧ regioned.freeHome 33 dom1 = some 0 ∧ regioned.freePool 33 dom1 = some 0) ∧
    ((List.replicate 128 7).length = 128 ∧ (∀ b ∈ List.replicate 128 7, b < 256) ∧ dom1.pool + 128 * 3 + 128 ≤ dom1.home + 8 * 0) ∧
    (net [to33 (.region (recOp .rld []) none)] regioned).performable 9 = some (to33 (.region (recOp .rld []) none)) ∧
    fld (regioned.read64 (33 * 0x200000 + (dom1.home + 8 * (fld (0xC201000000000000 : Word) 0 32 / (regioned.owners dom1).length)))) 48 2 ≠ 1 ∧
    ((let s := regioned.write64 (33 * 0x200000 + 0x8000) 0x0001000000000001; let w := s.read64 (33 * 0x200000 + 0x8000); fld w 48 2 = 1 ∧ fld w 32 16 = fld (0xC201000000000000 : Word) 32 16 ∧ s.ownerAt dom1 (fld w 0 16) ≠ 33)) := by
  and_intros <;> decide +kernel

theorem witness_RecordsAreInsertedReadAndWritten_at_owner :
    (net [to33 (.region (recOp .rpos pos2) (some 0))] (holding 1 1)).arrived 9 = some (to33 (.region (recOp .rpos pos2) (some 0))) ∧
    ((holding 1 1).domainAt 33 0 1 = some dom1 ∧ pos2.length = 12 ∧ ∀ b ∈ pos2, b < 256) ∧
    ((let p (n : Nat) : Nat := elementOf pos2 4 n; (holding 1 1).ownerOf dom1 (p 0) (p 1) (p 2) = 34)) ∧
    ((let p (n : Nat) : Nat := elementOf (List.replicate 12 0) 4 n; (holding 1 1).ownerOf dom1 (p 0) (p 1) (p 2) = 33)) ∧
    (RecordIs (holding 1 1) 33 dom1 0 1 ∧ RecordIs (holding 0 1) 33 dom1 0 0 ∧ RecordIs (holding 2 1) 33 dom1 0 2 ∧ RecordIs (holding 3 1) 33 dom1 0 3 ∧ RecordIs (holding 4 1) 33 dom1 0 4) ∧
    (((holding 1 1).coreRec 33).armed = 0 ∧ (({ holding 1 1 with cores := [(33, { armed := 1, domains := [dom1] })] } : State).coreRec 33).armed ≠ 0) ∧
    (holding 1 1).ownerAt dom1 (fld ((holding 1 1).read64 (poolPlace 33 dom1 0)) 0 32 % ((holding 1 1).owners dom1).length) ≠ 33 ∧
    (net [toMe (.regionReply (recOp .rld []) 0 0 [1, 2])] regioned).arrived 9 = some (toMe (.regionReply (recOp .rld []) 0 0 [1, 2])) ∧
    (net [toMe (.regionReply (recOp .rld []) 0 0x0A [])] regioned).arrived 9 = some (toMe (.regionReply (recOp .rld []) 0 0x0A [])) := by
  and_intros
  all_goals first
    | decide +kernel
    | (unfold RecordIs; decide +kernel)

/-- Core (1, 1) with a departing record of the given identifier, which another core's RPOS moves. -/
def leaving : State := { holding 2 1 with cores := [(33, { domains := [dom1], departures := [{ ctx := 0, dom := 1, idx := 0, old := List.replicate 12 0, op := to33 (.region (recOp .rpos pos2) (some 0)) }] }), (34, { domains := [dom1] })] }
def to33From34 (b : Body) : Msg := { id := 9, src := .core 34, dst := .core 33, body := b }
theorem witness_RecordsMoveBetweenOwners :
    (net [to33From34 (.move 0 1 0 (List.replicate 128 7))] regioned).arrived 9 = some (to33From34 (.move 0 1 0 (List.replicate 128 7))) ∧
    (regioned.domainAt 33 0 1 = some dom1 ∧ regioned.freePool 33 dom1 = some 0 ∧ base.domainAt 33 0 1 = none) ∧
    ((((holding 1 0).write (poolPlace 33 dom1 1 + 20) 1 1).write (poolPlace 33 dom1 2 + 20) 1 1).write (poolPlace 33 dom1 3 + 20) 1 1).freePool 33 dom1 = none ∧
    (net [to33From34 (.accept 0 1 0 1 3)] leaving).arrived 9 = some (to33From34 (.accept 0 1 0 1 3)) ∧
    (leaving.coreRec 33).departures.find? (departing 0 1 0) = some { ctx := 0, dom := 1, idx := 0, old := List.replicate 12 0, op := to33 (.region (recOp .rpos pos2) (some 0)) } ∧
    State.heldOp (to33 (.region (recOp .rpos pos2) (some 0))) = some (recOp .rpos pos2) ∧
    ((leaving.coreRec 33).heldOps = [] ∧ (leaving.coreRec 33).arms = [] ∧ leaving.domainAt 33 0 1 = some dom1) ∧
    leaving.ownerAt dom1 (fld (leaving.read64 (poolPlace 33 dom1 0)) 0 32 % (leaving.owners dom1).length) ≠ 33 ∧
    (net [to33From34 (.refuse 0 1 0)] leaving).arrived 9 = some (to33From34 (.refuse 0 1 0)) ∧
    ((net [to33From34 (.commit 0 1 3)] regioned).arrived 9 = some (to33From34 (.commit 0 1 3)) ∧ (regioned.coreRec 33).heldOps = []) ∧
    (net [to33From34 (.entry 0 1 3 1 3 0)] regioned).arrived 9 = some (to33From34 (.entry 0 1 3 1 3 0)) ∧
    (net [to33From34 (.entryAck 0 1 3)] regioned).arrived 9 = some (to33From34 (.entryAck 0 1 3)) ∧
    (net [to33From34 (.entryFree (recOp .rdel []) 3)] regioned).arrived 9 = some (to33From34 (.entryFree (recOp .rdel []) 3)) ∧
    (net [to33From34 (.entryFreed (recOp .rdel []) 0)] regioned).arrived 9 = some (to33From34 (.entryFreed (recOp .rdel []) 0)) ∧
    (net [to33From34 (.entryFreed (recOp .rdel []) 0x0A)] regioned).arrived 9 = some (to33From34 (.entryFreed (recOp .rdel []) 0x0A)) := by
  and_intros <;> decide +kernel

def query : Query := { kind := .all, ctx := 0, dom := 1, words := [0x200000001, 0x4000, 0, 0, 0], core := 0, buf := 0x4000, name := 0xC100000000000000, path := [33, 34] }
/-- The thread of core 0 waits for operation 8, an RDOM with n answers to come. -/
def rdomWaiting (n : Nat) : State := { mine regioned fun sl => { sl with phase := .parked, park := .remote 8 } with rdoms := [{ id := 8, uid := 1, reg := 4, code := 0, pending := n }] }
theorem witness_QueriesWalkAndDomainsInstall :
    ((net [to33 (.arm query 0)] base).arrived 9 = some (to33 (.arm query 0)) ∧ base.domainAt 33 query.ctx query.dom = none) ∧
    (regioned.domainAt 33 query.ctx query.dom ≠ none ∧ (regioned.coreRec 33).armed < 255 ∧ (regioned.coreRec 33).departures = [] ∧ query.path[0 + 1]? = some 34) ∧
    (query.path[1 + 1]? = none ∧ query.path = 33 :: [34] ∧ 33 ≠ 34) ∧
    255 ≤ (({ regioned with cores := [(33, { armed := 255, domains := [dom1] })] } : State).coreRec 33).armed ∧
    (net [to33 (.scan query 0 3)] regioned).arrived 9 = some (to33 (.scan query 0 3)) ∧
    query.core * 0x200000 + query.buf + 32 * fld (query.words.getD 0 0) 32 16 ≤ 33 * 0x200000 + dom1.pool ∧
    ((holding 1 0).recordState (poolPlace 33 dom1 0) = 1 ∧ State.queryMatches query ((holding 1 0).position (poolPlace 33 dom1 0)) = true) ∧
    (1 < fld (query.words.getD 0 0) 32 16 ∧ fld (query.words.getD 0 0) 32 16 ≤ 2) ∧
    ((net [to33 (.lower query 0)] regioned).arrived 9 = some (to33 (.lower query 0)) ∧ (regioned.coreRec 33).arms = [] ∧ (regioned.coreRec 33).heldOps = []) ∧
    (net [to33 (.domain 8 dom1 true 0)] base).arrived 9 = some (to33 (.domain 8 dom1 true 0)) ∧
    (net [to33 (.domain 8 dom1 false 0)] regioned).arrived 9 = some (to33 (.domain 8 dom1 false 0)) ∧
    (net [to33 (.domain 8 dom1 true 5)] base).arrived 9 = some (to33 (.domain 8 dom1 true 5)) ∧
    (33 ∈ base.owners dom1 ∧ 0 ∉ base.owners dom1 ∧ dom1.table.length ≤ dom1.total) ∧
    checkDomain 0 0 dom1 = .ok () ∧
    (net [toMe (.domainDone 8)] (rdomWaiting 1)).arrived 9 = some (toMe (.domainDone 8)) ∧
    ((rdomWaiting 1).rdoms.find? (fun (y : RdomOp) => y.id == 8) = some { id := 8, uid := 1, reg := 4, code := 0, pending := 1 } ∧ (rdomWaiting 1).waitsFor 1 8 = true) ∧
    ((rdomWaiting 2).rdoms.find? (fun (y : RdomOp) => y.id == 8) = some { id := 8, uid := 1, reg := 4, code := 0, pending := 2 } ∧ 1 < 2) := by
  and_intros <;> decide +kernel

/-! ## Witnesses: the solver sequencer -/

/-- Register 1 is an address, 2 a load operand, 3 a range, 4 0, 5 a word that is no name, 6 a range past 256, 7 the address 0x1004, 8 the history's clear. -/
def seqRegs : State := regs [(1, 0x1000), (2, 0xFF), (3, 0x00FF), (4, 0), (5, 7), (6, 0x0101), (7, 0x1004), (8, 0x8000000000000000), (9, 0xFF01)]
def seqCmd (op : SeqOp) (a b : Word) : SeqCmd := { uid := 1, op := op, ctx := 0, mode := 1, a := a, b := b, reg := 12, rm := 0 }
theorem witness_SequencerCommandsAreQueued :
    (Instr.sqdec 12 3 4, SeqOp.dec, [(3 : RegCode).toNat, (4 : RegCode).toNat]) ∈ sequencerForms 12 3 4 ∧
    seqRegs.operands (Instr.sqdec 12 3 4).word [(3 : RegCode).toNat, (4 : RegCode).toNat] [(12 : RegCode).toNat] = .ok [0xFF, 0] ∧
    seqOperands seqRegs (Instr.sqdec 12 3 4).word .dec (arg [0xFF, 0] 0) (arg [0xFF, 0] 1) = .ok (0xFF, 0) ∧
    seqRegs.operands (Instr.sqtab 12 1).word [(1 : RegCode).toNat] [(12 : RegCode).toNat] = .ok [0x1000] ∧
    seqOperands seqRegs (Instr.sqtab 12 1).word .tab (arg [0x1000] 0) (arg [0x1000] 1) = .ok (0x1000, 0) ∧
    seqOperands seqRegs (Instr.sqload 12 1 2).word .load (arg [0x1000, 0xFF] 0) (arg [0x1000, 0xFF] 1) = .ok (0x1000, 0xFF) ∧
    seqOperands seqRegs (Instr.sqhist 12 8).word .hist (arg [0x8000000000000000] 0) (arg [0x8000000000000000] 1) = .ok (0x8000000000000000, 0) ∧
    (2 ≤ ((own seqRegs fun r => { r with queue := [.sequencer (seqCmd .act 0 0), .sequencer (seqCmd .act 0 0)] }).coreRec 0).queue.length ∧ 63 ≤ (mine seqRegs fun sl => { sl with tl := 63 }).me.tl) ∧
    ((seqRegs.coreRec seqRegs.here).queue.length < 2 ∧ seqRegs.me.tl < 63 ∧ (12 : RegCode) ≠ 0) ∧
    seqRegs.destReady (12 : RegCode).toNat = .ok () ∧
    WindowCode seqRegs (12 : RegCode).toNat ∧
    seqRegs.operands (Instr.sqact 12 9).word [(9 : RegCode).toNat] [(12 : RegCode).toNat] = .ok [0xFF01] ∧
    256 < fld (arg [0xFF01] 0) 0 8 + fld (arg [0xFF01] 0) 8 8 + 1 ∧
    seqRegs.operands (Instr.sqdec 12 3 5).word [(3 : RegCode).toNat, (5 : RegCode).toNat] [(12 : RegCode).toNat] = .ok [0xFF, 7] ∧
    (rangeLegal (arg [0xFF, 7] 0) = true ∧ arg [0xFF, 7] 1 ≠ 0 ∧ isName (arg [0xFF, 7] 1) = false) ∧
    seqRegs.operands (Instr.sqcfg 12 7).word [(7 : RegCode).toNat] [(12 : RegCode).toNat] = .ok [0x1004] ∧
    seqRegs.resolveSpad (arg [0x1004] 0) 1 false = .ok (seqRegs.here, 0x1004) := by
  and_intros <;> decide +kernel

/-- A tableau of one stage, a controller block of four FP64 elements, and sample 0 with its stage block at 0x1000 and ST v. -/
def solver (v : Nat) : Sequencer := { tab := 1 :: List.replicate 128 0, cfg := [0, 0, 0, 0, 0, 0, 0, 0, 4, 0x8000], samples := [(0, { sboff := 0x1000, st := v })] }
def seqState (q : Sequencer) (s : State) : State := own s fun r => { r with seq := q }
/-- An image from 0x1000: T 0, H 1, TEND 2, EPREV 1. -/
def image : State := base.writeWords 0x1000 [0, 0x3FF0000000000000, 0x4000000000000000, 0x3FF0000000000000, 0, 0, 0, 0]
theorem witness_SequencerEngineComputes :
    ((let s := own base fun r => { r with queue := [.sequencer (seqCmd .hist 0x2000 0)] }; (s.coreRec 0).queue = .sequencer (seqCmd .hist 0x2000 0) :: [] ∧ (s.coreRec 0).executed = none)) ∧
    (∃ x, seqRun (own base fun r => { r with queue := [.sequencer (seqCmd .hist 0x2000 0)] }) 0 (seqCmd .hist 0x2000 0) = .ok x) ∧
    seqRun base 0 (seqCmd .tab 0x17FFF8 0) = .error 0x04 ∧
    ((let q := { seqCmd .act 0 0 with mode := 0, ctx := 1 }; let s := seqState { tag := some 2 } base; q.mode = 0 ∧ (s.sequencer 0).tag = some 2 ∧ 2 ≠ q.ctx)) ∧
    ((let e : EngineDone := { cmd := .sequencer (seqCmd .dec 0 0), flags := 1, result := 7 }; ((own base fun r => { r with executed := some e }).coreRec 0).executed = some e ∧ (seqCmd .dec 0 0).b = 0)) ∧
    ((let q := seqCmd .dec 0 0xC100000000000000; let s := own base fun r => { r with executed := some { cmd := .sequencer q, flags := 1, result := 7 } }; (((s.modCore 0 fun r => { r with executed := none }).engineResult q.uid q.reg 7).engineDone q.uid 1).nameUsable q.b = true ∧ q.b ≠ 0)) ∧
    ((let e : EngineDone := { cmd := .sequencer (seqCmd .tab 0 0), result := 7, code := some 0x100 }; ((own base fun r => { r with executed := some e }).coreRec 0).executed = some e)) ∧
    ((seqCmd .tab 0 0).mode ≠ 0 ∧ 0x180000 < (seqCmd .tab 0x17FFF8 0).a.toNat + 1032 ∧ (seqCmd .tab 0x17FBF8 0).a.toNat + 1032 ≤ 0x180000 ∧ fld (((base.readWords (0 * 0x200000 + 0x17FBF8) 129)).getD 0 0) 0 4 = 0) ∧
    ((let ws := (base.write64 0x1000 8).readWords (0 * 0x200000 + 0x1000) 129; fld (ws.getD 0 0) 8 56 = 0 ∧ 1 ≤ fld (ws.getD 0 0) 0 4 ∧ fld (ws.getD 0 0) 0 4 ≤ 8 ∧ fld (ws.getD 0 0) 4 4 ≤ 4)) ∧
    (∀ x ∈ ((base.write64 0x1000 8).readWords (0 * 0x200000 + 0x1000) 129).drop 1, finite64 x = true) ∧
    ((let ws := image.readWords (0 * 0x200000 + 0x1000) 8; let w (n : Nat) : Word := ws.getD n 0; fld (0xFF : Word) 8 2 = 0 ∧ 0x1000 + 64 ≤ 0x180000 ∧ (∀ n, n < 4 → finite64 (w n) = true) ∧ lt64 0 (w 3) = true ∧ fld (w 4) 21 11 = 0 ∧ fld (w 4) 53 11 = 0 ∧ fld (w 4) 32 10 = 0 ∧ fld (w 6) 4 60 = 0 ∧ lt64 (w 0) (w 2) = true ∧ lt64 0 (w 1) = true)) ∧
    (fld (0x2FF : Word) 8 2 = 2 ∧ (seqCmd .act 0xFF 0).mode ≠ 0 ∧ bitAt (0x8000000000000000 : Word) 63 = true ∧ bitAt (0x1FFC00 : Word) 63 = false ∧ (solver 2).ring.length < 4 ∧ 4 ≤ ({ ring := [1, 2, 3, 4] } : Sequencer).ring.length) ∧
    ((let q := solver 1; let e := q.sample 0; 0 < q.width ∧ 0 * 0x200000 + (e.sboff + q.stages * q.pitch) + q.elems * q.width ≤ 0 * 0x200000 + (q.times + 8 * 0) ∧ ∀ o ∈ e.xoff :: (stageTerms q 0 0).map (·.2), o + q.elems * q.width ≤ e.sboff + q.stages * q.pitch)) ∧
    ((seqDecide (solver 1) ((solver 1).sample 0)).2 = true ∧ (seqDecide (solver 1) { errn := 0x4000000000000000 }).2 = false) := by
  refine ⟨?_, okay_of ?_, error_of ?_, ?_, ?_, ?_, ?_, ?_, ?_, List.all_eq_true.mp ?_, ?_, ?_, ?_, ?_⟩ <;> decide +kernel

/-! ## Witnesses: special registers and threads -/

theorem witness_SpecialRegistersAreReadAndWritten :
    ((0x000 : BitVec 12).toNat ∈ userSpecials ∧ (0x10D : BitVec 12).toNat ∈ supervisorSpecials ∧ base.me.mode ≠ 0) ∧
    base.operands (Instr.srd 3 0x10D).word [] [(3 : RegCode).toNat] = .ok [] ∧
    base.destReady (3 : RegCode).toNat = .ok () ∧
    (regs [(3, BitVec.allOnes 64)]).operands (Instr.swr 3 0x008).word [(3 : RegCode).toNat] [] = .ok [BitVec.allOnes 64] ∧
    (base.me.queueOf (3 : RegCode).toNat = none ∧ base.me.loops = []) ∧
    (0x100 ≤ (0x100 : BitVec 12).toNat ∧ (mine base fun sl => { sl with mode := 0 }).me.mode = 0) ∧
    ((0x0FF : BitVec 12).toNat ∉ userSpecials ∧ (0x0FF : BitVec 12).toNat ∉ supervisorSpecials ∧ (0xFFF : BitVec 12).toNat ∉ supervisorSpecials) := by
  and_intros <;> decide +kernel

/-- Register 1 is a descriptor's address for entry 0x40, 16 registers and mode m; register 2 names slot 5, register 3 slot 0. -/
def spawner (m : Nat) : State := (regs [(1, 0x1000), (2, 5), (3, 0)]).write64 0x1000 (ofNat (0x40 + 2 ^ 24 + m * 2 ^ 29))
/-- Slot 5 holds a user thread of context 0; the save area of core 0 starts at 0x40000. -/
def spillable : State := (own (spawner 1) fun r => { r with saveBase := 0x40000 }).setSlot 5 { phase := .ready, uid := 7, limit := 128, base := 128 }
def spillOp (resume : Bool) : SpillOp := { id := 9, uid := 1, reg := 3, core := 0, slot := 5, key := 0x42800, saveBase := 0x40000, scr := false, resume := resume }
/-- Core 0 may dispatch tasks to slot 8 with windows of 16, and has one task. -/
def dispatching : State := own base fun r => { r with taskCfg := 0x100, taskWin := 1, tasks := [oneTask] }
theorem witness_ThreadsAreControlled :
    ((mine (own base fun r => { r with cycle := 64 }) fun sl => { sl with yield := some (64, [1]) }).me.yield = some (64, [1]) ∧ 64 ≤ ((own base fun r => { r with cycle := 64 }).coreRec (0 / 64)).cycle) ∧
    (spawner 1).operands (Instr.spawn 1).word [(1 : RegCode).toNat] [(1 : RegCode).toNat] = .ok [0x1000] ∧
    (spawner 1).resolveOwn 0x1000 8 = .ok 0x1000 ∧
    ((let w0 := (spawner 1).read64 (0 * 0x200000 + 0x1000); fld w0 31 33 = 0 ∧ fld w0 21 3 = 0 ∧ fld w0 0 21 % 4 = 0 ∧ fld w0 0 21 < 0x180000 ∧ fld w0 29 2 ≠ 3 ∧ bitAt w0 28 = false ∧ fld w0 29 2 ≤ (spawner 1).me.mode)) ∧
    ((spawner 1).me.mode < fld ((spawner 2).read64 (0 * 0x200000 + 0x1000)) 29 2 ∧ fld ((mine (spawner 2) fun sl => { sl with mode := 2 }).read64 0x1000) 29 2 = 2) ∧
    (spawner 1).destReady (1 : RegCode).toNat = .ok () ∧
    ((spawner 1).freeSlot 0 = some 1 ∧ (spawner 1).freeWindow 0 (8 * (fld ((spawner 1).read64 0x1000) 24 4 + 1)) = some 128 ∧ (spawner 1).me.extra = false ∧ (spawner 1).me.kpkg = none ∧ (spawner 1).me.countAt = none ∧ kernelV (spawner 1).me.kernel = false) ∧
    (mine (spawner 1) fun sl => { sl with limit := 2048 }).freeWindow 0 16 = none ∧
    (({ pc := 0, limit := 2048, mode := 0, ctx := 0, args := [1, 2, 3, 4] } : NewThread).limit ≤ 2048 ∧ ({ pc := 0, limit := 2048, mode := 0, ctx := 0, args := [1, 2, 3, 4] } : NewThread).args.length < 2048) := by
  and_intros <;> decide +kernel

theorem witness_ThreadsAreControlled_spill :
    ((mine base fun sl => { sl with mode := 0 }).me.mode = 0 ∧ spillable.me.mode ≠ 0 ∧ fld (5 : Word) 6 2 = 0 ∧ fld (5 : Word) 9 55 = 0 ∧ 5 = fld (5 : Word) 0 6) ∧
    spillable.operands (Instr.spill 2).word [(2 : RegCode).toNat] [(2 : RegCode).toNat] = .ok [5] ∧
    spillable.operands (Instr.spill 3).word [(3 : RegCode).toNat] [(3 : RegCode).toNat] = .ok [0] ∧
    spillable.destReady (2 : RegCode).toNat = .ok () ∧
    (unspillable spillable 0 = true ∧ unspillable spillable 5 = false ∧ spillable.me.codelet = false ∧ (spillable.ctx (spillable.slot (spillable.here * 64 + 5)).ctx).state ≠ 2 ∧ (spillable.slot (spillable.here * 64 + 5)).limit ≤ 128) ∧
    spillable.imageAt 5 1 = .ok (0x42800, spillable) ∧
    spillable.evicted.find? (fun e => e.key == 0x42800) = none ∧
    (spawner 1).operands (Instr.resume 2).word [(2 : RegCode).toNat] [(2 : RegCode).toNat] = .ok [5] ∧
    (((spawner 1).slot (0 * 64 + 5)).phase = .free ∧ (spillable.slot (0 * 64 + 5)).phase ≠ .free ∧ (spawner 1).me.phase = .ready) ∧
    ((let s := (own (spawner 1) fun r => { r with saveBase := 0x40000 }).write64 0x42830 0x100000; s.freeWindow 0 (fld (s.read64 (0x42800 + 0x30)) 16 8) = some 128)) ∧
    (∃ x, ((own (spawner 1) fun r => { r with saveBase := 0x40000 }).write64 0x42830 0x100000).imageAt 5 0 = .ok x) ∧
    ((let s : State := { base with spills := [spillOp false] }; s.spills.find? (fun y => y.id == 9) = some (spillOp false) ∧ (spillOp false).scr = false ∧ (spillOp false).resume = false)) ∧
    ((let s : State := { base.setSlot 5 { phase := .reserved, base := 128, limit := 16 } with spills := [spillOp true] }; (((restoreThread 0 5 0x42800 s).endSpill (spillOp true)).slot 5).pend = [] ∧ 15 < (s.slot 5).limit ∧ (s.slot 5).limit ≤ 128)) ∧
    ((dispatching.coreRec 0).tasks = oneTask :: [] ∧ (List.range 60).find? (fun n => bitAt (dispatching.coreRec 0).taskCfg n && (dispatching.slot (0 * 64 + n)).phase == .free) = some 8 ∧ dispatching.freeWindow 0 (8 * ((dispatching.coreRec 0).taskWin + 1)) = some 128) ∧
    (((mine base fun sl => { sl with pend := [(8, 7)] }).slot 0).pend = (8, 7) :: [] ∧ (base.slot 0).phase = .ready) ∧
    ((let s := mine base fun sl => { sl with phase := .draining }; (s.slot 0).phase = .draining ∧ (s.slot 0).ld = 0 ∧ (s.slot 0).st = 0 ∧ (s.slot 0).tl = 0 ∧ (s.slot 0).cp = 0 ∧ (s.slot 0).carried = [] ∧ (s.slot 0).notices = 0)) := by
  and_intros
  all_goals first
    | decide +kernel
    | exact ok_of (by decide +kernel)
    | exact okay_of (by decide +kernel)

/-! ## Witnesses: pages -/

/-- Context 0's tables map the page of virtual address 0 by this leaf. -/
def paged (leaf : Word) (s : State) : State := { ((((s.write64 (2 ^ 40 + 0x10000) 0x20001).write64 (2 ^ 40 + 0x20000) 0x30001).write64 (2 ^ 40 + 0x30000) 0x40001).write64 (2 ^ 40 + 0x40000) leaf) with ctxs := [(0, { state := 1, root := 0x10000 })] }
/-- Registers 1, 2: operand and rectangle; 3, 4: operand and entry; 5, 6: operand and frame; 7, 8: heat word and operand; 9, 10: operand and a bad entry. -/
def pageRegs : State := regs [(1, 0x4000000000000000), (2, 0x01010000), (3, 0x4000000000000000), (4, 0x50007), (5, 0x4000000000000000), (6, 0x60000), (8, 0x4000000000000000), (9, 0x4000000000000000), (10, 2)]
def pageOp (kind : PageKind) (arg : Word) (n : Nat) : PageOp := { id := 9, uid := 1, core := 0, kind := kind, reg := 4, operand := 0x4000000000000000, arg := arg, pending := n, leafKey := 2 ^ 40 + 0x40000 }
def opState (o : PageOp) (s : State) : State := { s with pageOps := [o] }
theorem witness_PagesAreMappedMovedAndWaitedFor_issue :
    ((mine base fun sl => { sl with mode := 0 }).me.mode = 0 ∧ pageRegs.me.mode ≠ 0 ∧ pageRegs.me.codelet = false ∧ pageRegs.me.st = 0 ∧ (mine pageRegs fun sl => { sl with st := 1 }).me.st ≠ 0) ∧
    pageRegs.runOperands (Instr.pinval 1 2).word [(1 : RegCode).toNat, (1 : RegCode).toNat + 1] [(1 : RegCode).toNat, (1 : RegCode).toNat + 1] [] = .ok [0x4000000000000000, 0x01010000] ∧
    checkOperand .inval 0x4000000000000000 (pageBits (2 : BitVec 2).toNat) = .ok () ∧
    State.resolveRect pageRegs.here 0x01010000 (Instr.pinval 1 2).word = .ok { x0 := 0, y0 := 0, x1 := 1, y1 := 1 } ∧
    pageRegs.runOperands (Instr.pmap 3).word [(3 : RegCode).toNat, (3 : RegCode).toNat + 1] [(3 : RegCode).toNat, (3 : RegCode).toNat + 1] [] = .ok [0x4000000000000000, 0x50007] ∧
    checkOperand .map 0x4000000000000000 0 = .ok () ∧
    (bitAt (0x50007 : Word) 0 = true ∧ malformed 0x50007 (opLevel 0x4000000000000000) = false ∧ bitAt (2 : Word) 0 = false ∧ (2 : Word) ≠ 0) ∧
    pageRegs.runOperands (Instr.pmap 9).word [(9 : RegCode).toNat, (9 : RegCode).toNat + 1] [(9 : RegCode).toNat, (9 : RegCode).toNat + 1] [] = .ok [0x4000000000000000, 2] ∧
    (paged 0x50007 pageRegs).runOperands (Instr.pmove 5).word [(5 : RegCode).toNat, (5 : RegCode).toNat + 1] [(5 : RegCode).toNat, (5 : RegCode).toNat + 1] [] = .ok [0x4000000000000000, 0x60000] ∧
    checkOperand .move 0x4000000000000000 0 = .ok () ∧
    (fld (0x60000 : Word) 39 25 = 0 ∧ (0x60000 : Word).toNat % 2 ^ spanBits (opLevel 0x4000000000000000) = 0) ∧
    (paged 0x50007 pageRegs).entryKey 0x4000000000000000 = .ok (2 ^ 40 + 0x40000) ∧
    ((let e := (paged 0x50007 pageRegs).read64 (2 ^ 40 + 0x40000); bitAt e 0 = true ∧ malformed e (opLevel 0x4000000000000000) = false ∧ bitAt e 1 = true ∧ bitAt e 4 = false)) ∧
    pageRegs.runOperands (Instr.pheat 7).word [(7 : RegCode).toNat, (7 : RegCode).toNat + 1] [(7 : RegCode).toNat, (7 : RegCode).toNat + 1] [] = .ok [0, 0x4000000000000000] ∧
    checkOperand .heat 0x4000000000000000 0 = .ok () := by
  and_intros <;> decide +kernel

theorem witness_PagesAreMappedMovedAndWaitedFor_completion :
    ((let x := toMe (.invalidate 8 0 0 16 false [0, 1]); (net [x] base).arrived 9 = some x ∧ bulkInFlight (net [x] base) 0 0 = false)) ∧
    ((let o := { pageOp .inval 0 1 with id := 8 }; (net [toMe (.invalidated 8)] (opState o base)).arrived 9 = some (toMe (.invalidated 8)) ∧ (opState o base).pageOp 8 = some o)) ∧
    (1 < (pageOp .inval 0 2).pending ∧ (pageOp .move 0 0).kind ≠ .inval) ∧
    (opState (pageOp .map 0x60007 0) (paged 0x50007 base)).pageOp 9 = some (pageOp .map 0x60007 0) ∧
    (opState (pageOp .map 0x60007 0) (paged 0x50007 base)).entryKey 0x4000000000000000 = .ok (2 ^ 40 + 0x40000) ∧
    base.entryKey 0x4000000000000000 = .error 0xFFFFFFFFFFFFFFFF ∧
    ((let e := (paged 0x50017 base).read64 (2 ^ 40 + 0x40000); bitAt e 0 = true ∧ bitAt e 1 = true ∧ bitAt e 4 = true)) ∧
    (opState (pageOp .move 0x60000 0) (paged 0x50017 base)).pageOp 9 = some (pageOp .move 0x60000 0) ∧
    (pageOp .move 0x60000 0).leafKey + 8 ≤ 2 ^ 40 + (pageOp .move 0x60000 0).arg.toNat ∧
    ((let e := (paged 0x50027 base).read64 (2 ^ 40 + 0x40000); bitAt e 0 = true ∧ malformed e 1 = false ∧ bitAt e 1 = true ∧ bitAt e 5 = true)) ∧
    ((opState (pageOp .heat 0 0) (paged 0x50027 base)).pageOp 9 = some (pageOp .heat 0 0) ∧ bitAt ((paged 0x50007 base).read64 (2 ^ 40 + 0x40000)) 5 = false) ∧
    ((net [toMe (.heat 4095 3)] base).arrived 9 = some (toMe (.heat 4095 3)) ∧ 3 < 4) := by
  and_intros <;> decide +kernel

/-- The issuer is on core (1, 1), which has pagers. -/
def at33 : State := ({ base with cur := 2112 } : State).setSlot 2112 { phase := .ready, uid := 2, limit := 128 }
/-- Slot 0 waits for a page at sequence 5. -/
def pageWaiting : State := mine base fun sl => { sl with phase := .pageWait, seq := 5 }
theorem witness_PagesAreMappedMovedAndWaitedFor_waits :
    at33.translate 33 0 0x10000 = .error (0, 4) ∧
    (base.isPager 0 = true ∧ at33.isPager 33 = false ∧ at33.pagersFor 33 ≠ [] ∧ (at33.pagerCore at33.here 0x10000).isSome = true) ∧
    ((net [toMe (.fault oneTask)] base).arrived 9 = some (toMe (.fault oneTask)) ∧ (base.coreRec 0).tasks.length < 64) ∧
    (net [toMe (.pwake 0x0100271F00000040)] base).arrived 9 = some (toMe (.pwake 0x0100271F00000040)) ∧
    ((let w : Word := 0x0100271F00000040; bitAt w 7 = false ∧ fld w 16 16 = 0 ∧ fld w 48 8 = 0 ∧ fld w 58 6 = 0 ∧ fld w 0 7 = 64 ∧ fld w 56 2 = 1 ∧ fld w 32 8 = 31 ∧ fld w 40 8 = 39)) ∧
    (64 < fld (0x41 : Word) 0 7 ∧ 1 < fld (0x0200000000000000 : Word) 56 2 ∧ 31 < fld (0x2000000000 : Word) 32 8 ∧ 39 < fld (0x280000000000 : Word) 40 8) ∧
    ((net [toMe (.wake 0 5 1)] pageWaiting).arrived 9 = some (toMe (.wake 0 5 1)) ∧ (pageWaiting.slot (0 * 64 + 0)).phase = .pageWait ∧ (pageWaiting.slot (0 * 64 + 0)).seq = 5) ∧
    ((base.slot (0 * 64 + 0)).phase ≠ .pageWait ∧ (pageWaiting.slot (0 * 64 + 0)).seq ≠ 4 ∧ base.evicted = []) := by
  and_intros <;> decide +kernel

/-! ## Witnesses: links, migration and contexts -/

/-- The package belongs to a pod; link 1 is up, link 11 at width code 3. -/
def podded (s : State) : State := { s with inPod := true, links := [(1, { up := true }), (11, { width := 3 })] }
/-- Register 1 names package 1, register 2 the own package, register 3 link 11. -/
def linkRegs : State := podded (regs [(1, 1), (2, 0), (3, 11)])
def toGate (b : Body) : Msg := { id := 9, uid := 1, src := .core 0, slot := 0, dst := .gate 0, started := true, body := b }
/-- A cell from package 1 with ESEQ 5, of one cell and without an order. -/
def cell : Cell := { header := 0x50000000000000100, dst := .core 0, op := 3, slot := 0, sup := true, body := .fabric 0 (.read 8) }
theorem witness_LinksCarryCells :
    linkRegs.operands (Instr.cellres 1 64).word [(1 : RegCode).toNat] [(1 : RegCode).toNat] = .ok [1] ∧
    (fld (1 : Word) 9 55 = 0 ∧ fld (1 : Word) 6 2 = 0 ∧ fld (1 : Word) 0 6 ≠ linkRegs.pkgNum ∧ fld (0 : Word) 0 6 = linkRegs.pkgNum ∧ linkRegs.me.codelet = false) ∧
    linkRegs.operands (Instr.cellrel 2 64).word [(2 : RegCode).toNat] [(2 : RegCode).toNat] = .ok [0] ∧
    linkRegs.destReady (1 : RegCode).toNat = .ok () ∧
    (net [toGate (.cells false 1 52 true 4)] linkRegs).performable 9 = some (toGate (.cells false 1 52 true 4)) ∧
    (linkRegs.linkOf 0 0 1 = some 1 ∧ base.linkOf 0 0 1 = none ∧ linkRegs.reservedOn 1 + 52 ≤ 52 ∧ 52 < linkRegs.reservedOn 1 + 53) ∧
    ((mine base fun sl => { sl with mode := 0 }).me.mode = 0 ∧ linkRegs.me.mode ≠ 0 ∧ fld (11 : Word) 4 60 = 0 ∧ fld (11 : Word) 0 4 ≤ 11 ∧ 11 < fld (12 : Word) 0 4) ∧
    linkRegs.operands (Instr.linkw 3 3).word [(3 : RegCode).toNat] [(3 : RegCode).toNat] = .ok [11] ∧
    ((net [toGate (.linkw 1 3 4)] linkRegs).performable 9 = some (toGate (.linkw 1 3 4)) ∧ (linkRegs.link 1).up = true ∧ (linkRegs.link 11).up = false) ∧
    (({ linkRegs with links := [(1, { up := true, pending := [(1, 4, 3)] })] } : State).link 1).pending = (1, 4, 3) :: [] ∧
    ((linkRegs.link 11).width = 3 ∧ (linkRegs.link 1).width ≠ 3 ∧ 11 < 12 ∧ (({ linkRegs with links := [(11, { training := true })] } : State).link 11).training = true) := by
  and_intros <;> decide +kernel

theorem witness_LinksCarryCells_notices :
    ((let s : State := { linkRegs with linkEvents := [1] }; s.linkEvents = 1 :: [] ∧ (({ s with linkNote := 0xC100000000000000 } : State).nameUsable 0xC100000000000000) = true ∧ namePkg 0xC100000000000000 = s.pkgNum)) ∧
    ({ linkRegs with linkEvents := [1], linkNote := 0xC100000000000000 } : State).linkNote = 0xC100000000000000 ∧
        (3 < 4 ∧ 63 < 64 ∧ 63 ≠ linkRegs.pkgNum) ∧
    (cell.dpkg = linkRegs.pkgNum ∧ cell.spkg ≠ linkRegs.pkgNum ∧ cell.cls ≠ 3 ∧ cell.count = 1 ∧ cell.ord = false ∧ cell.eseq = 5 ∧ cell.eseq ∉ Store.get [] linkRegs.accepted cell.source ∧ linkRegs.partials = []) ∧
    (∀ op k l, cell.body ≠ .fabricAnswer op k l) ∧
    cell.eseq ∈ Store.get [] ({ linkRegs with accepted := [(cell.source, [5])] } : State).accepted cell.source ∧
    (net [toGate (.fabric 0 (.read 8))] linkRegs).performable 9 = some (toGate (.fabric 0 (.read 8))) ∧
    (({ ctx := 1, sup := false } : Rights).ctx ≠ 0 ∧ (base.ctx 1).state = 0) ∧
    (3 < 4 ∧ 31 < 32 ∧ (let f := Store.get 0 ({ base with dieFrame := [(0, 7)] } : State).dieFrame 0; (f + 16 - (base.coreRec 0).frame) % 16 = 7)) := by
  and_intros
  all_goals first
    | decide +kernel
    | exact fun _ _ _ h => Body.noConfusion h

/-- The issuing thread is a guest from core 5 of package 1. -/
def guest : State := mine (podded base) fun sl => { sl with guest := true, originPkg := 1, originCore := 5 }
def fromPkg (addr : Word) : Msg := { id := 9, uid := 7, src := .pkg 1, dst := .gate 0, sup := true, started := true, body := .migrateAsk addr }
def reserved33 : State := base.setSlot (33 * 64 + 60) { phase := .reserved, base := 0, limit := 16 }
def toSlot33 : Msg := { id := 9, src := .pkg 1, dst := .core 33, body := .migrant { words := List.replicate 28 0, extra := false } (33 * 64 + 60) false }
theorem witness_ThreadsMigrateAndContextsTurn :
    (base.me.guest = false ∧ guest.me.guest = true ∧ (mine guest fun sl => { sl with ld := 1 }).me.ld + 0 + 0 + 0 ≠ 0) ∧
    (guest.me.ld = 0 ∧ guest.me.st = 0 ∧ guest.me.tl = 0 ∧ guest.me.cp = 0 ∧ guest.isUnreachable guest.here guest.me.originPkg = false) ∧
    ((net [fromPkg 0x10100000000] base).performable 9 = some (fromPkg 0x10100000000) ∧ migrationHome { ctx := 0, sup := true } 0x10100000000 base = some 33 ∧ migrationHome { ctx := 0, sup := true } 0 base = none) ∧
    ([60, 61, 62].find? (fun n => (base.slot (33 * 64 + n)).phase == .free) = some 60 ∧ base.freeWindow 33 16 = some 0 ∧ (base.setSlot (33 * 64) { phase := .ready, limit := 2048 }).freeWindow 33 16 = none) ∧
    ((let x := answer (.migrateAnswer 0x0F 0 0 8 none); let s := net [x] (waiting 0); s.findMsg 9 = some x ∧ s.response 9 = some x ∧ s.waitsFor 1 9 = true)) ∧
    ((let s := mine base fun sl => { sl with leaving := some (1, 5, 60, false) }; s.findThread 1 = some 0 ∧ (s.slot 0).leaving = some (1, 5, 60, false) ∧ (s.slot 0).notices = 0 ∧ (s.slot 0).departed = false)) ∧
    ((net [toSlot33] reserved33).arrived 9 = some toSlot33 ∧ (reserved33.slot (33 * 64 + 60)).phase = .reserved ∧ 15 < 16 ∧ (7 : Nat) < 8 * (fld (List.replicate 28 (0 : Word)).head! 32 4 + 1)) ∧
    ((let s : State := { base with ctxCmd := some (1, 1) }; s.ctxCmdDone = false ∧ s.ctxCmd = some (1, 1) ∧ 1 ≠ 0 ∧ (s.ctx 1).state = 0)) ∧
    ((let s : State := { base with ctxCmd := some (2, 1), ctxs := [(1, { state := 1 })] }; s.ctxCmdDone = false ∧ s.ctxCmd = some (2, 1) ∧ (s.ctx 1).state = 1)) ∧
    ({ base with ctxCmdDone := true, ctxCmd := some (1, 1) } : State).ctxCmdDone = true ∧
    ((let s : State := { base with ctxs := [(1, { state := 2 })] }; (s.ctx 1).state = 2 ∧ ctxIdle s 1 = true)) ∧
    (({ base with cores := [(33, { defaultMover := true })] } : State).coreIdle 33 = true ∧ 33 < 1280 ∧ base.coreIdle 0 = false) := by
  and_intros <;> decide +kernel

/-! ## Witnesses: the device control block -/

/-- The device runs and m owns it at EPOCH 1. -/
def owned (m : Master) : State := { base with dev := { own := m.code, epoch := 1, startState := 1 } }
theorem witness_DeviceIsOwnedStartedAndWatched :
    (Reaches base .host ∧ Reaches (owned .rack) .rack) ∧
    ((65537 : Nat) % 65536 = (owned .host).dev.epoch ∧ (owned .host).dev.own = Master.host.code ∧ (owned .host).dev.own ≠ Master.board.code ∧ base.dev.own = 0 ∧ 0 % 65536 = base.dev.epoch) ∧
    (Master.board = .board ∧ Master.host ≠ .board ∧ 2 % 65536 ≠ (owned .host).dev.epoch) ∧
    (19 < 20 ∧ (0x3A0 : Nat) ≠ 0x010 ∧ (0x3A0 : Nat) ≠ 0x040) ∧
    ((owned .rack).dev.portsDown = false ∧ (owned .rack).dev.own = 2 ∧ (owned .host).dev.own ≠ 2) ∧
    ((owned .host).dev.startState = 1 ∧ base.dev.startState ≠ 1 ∧ (Store.get {} base.dev.log (base.dev.startNum % 32)).results = 0) ∧
    (({} : StartOutcome).faulty = [] ∧ ({} : StartOutcome).engineFaulty = [] ∧ ({} : StartOutcome).fails = [] ∧ ({ fails := [1] } : StartOutcome).fails = [1]) ∧
    (((running { state := 3 }).kernelRec 0).state ≠ 0 ∧ ((running { state := 3 }).kernelRec 0).state ≠ 5) := by
  and_intros
  all_goals first
    | decide +kernel
    | exact .inl (by decide)
    | exact .inr (by decide +kernel)

/-! ## Witnesses: further cases of the core and memory statements -/

/-- e answers, and f holds of the answer. -/
def passes {ε α : Type} (e : Except ε α) (f : α → Bool) : Bool := match e with | .ok x => f x | .error _ => false

/-- A QBIND word with d 4 and a 2, in a full window and in one of two registers. -/
theorem witness_IllegalWordsTrap_queue_code :
    ((0x90202000 : BitVec 32).toNat / 2 ^ 26 = 0x24 ∧ (0x90202000 : BitVec 32).toNat % 2 ^ 12 = 0 ∧ (0x90202000 : BitVec 32).toNat / 2 ^ 19 % 128 < 124) ∧
    ((0x90202000 : BitVec 32).toNat / 2 ^ 12 % 128 < base.me.limit ∧ base.me.queueOf ((0x90202000 : BitVec 32).toNat / 2 ^ 12 % 128) = none) ∧
    (mine base fun sl => { sl with limit := 2 }).me.limit ≤ (0x90202000 : BitVec 32).toNat / 2 ^ 12 % 128 := by
  decide +kernel

/-- Code 124 of the whole window, whose binding a RESUME elsewhere has undone. -/
def unbound : State := mine base fun sl => { sl with binds := 0x4000 }
theorem witness_WindowOperandsAreRead_lost_binding :
    (∀ u ∈ [1, 124] ++ [3], WindowCode unbound u) ∧ 124 ∈ [1, 124] ++ [3] ∧ unbound.me.lost 124 = true ∧
    (∀ u ∈ [1, 2] ++ [15, 125], base.me.lost u = false) ∧ (∀ u ∈ [1, 2] ++ [3], (base.setRegFull 0 2 false).me.lost u = false) := by
  and_intros
  all_goals first
    | decide +kernel
    | (unfold WindowCode; decide +kernel)

/-- Slot 5 of the core waits for room in the queue that code 124 pushes. -/
theorem witness_RegisterFormsFrame_wakes_a_pusher :
    ((let s := bound.setSlot 5 { phase := .parked, park := .queue (bound.me.outQueue 0), uid := 7 }; after (exec (.add 124 1 2) s) (fun t => t.slot 5 == { s.slot 5 with phase := .ready, park := .none }) = true ∧ 5 / 64 = s.here ∧ s.me.queueOf 124 = some 0)) := by
  decide +kernel

theorem witness_LocalStoresWriteTheirBytes_undisturbed :
    base.undisturbed true (base.here * 0x200000 + 0x17FFF8) (2 ^ (3 : BitVec 2).toNat) = true ∧
    ¬ TouchedBy base 0x1000 8 0x1008 := by
  refine ⟨by decide +kernel, ?_⟩
  rintro (h | ⟨r, h, -⟩ | ⟨e, h, -⟩ | ⟨h, -⟩)
  · omega
  · exact absurd h (by rw [show base.recordsHit (keyCore 0x1000) (keyOff 0x1000) 8 = [] by decide +kernel]; simp)
  · exact absurd h (by rw [show base.bricksHit (keyCore 0x1000) (keyOff 0x1000) 8 = [] by decide +kernel]; simp)
  · exact absurd h (by rw [show base.sequencerHit (keyCore 0x1000) (keyOff 0x1000) 8 = false by decide +kernel]; simp)

/-- Register 1 holds a bulk address whose page is mapped, register 5 a fabric address of package 1. -/
def outside : State := paged 0x50007 (regs [(1, 0x4000000000000000), (2, 7), (5, 0x8001000000000000)])
theorem witness_RemoteAccessesPostRequests_bulk :
    WindowCode outside (3 : RegCode).toNat ∧
    (outside.awaits outside.cur (3 : RegCode).toNat = false ∧ outside.me.queueOf (1 : RegCode).toNat = none ∧ outside.here < 1280 ∧ outside.me.ld < 63 ∧ outside.me.st < 63) ∧
    outside.operands (Instr.ld 3 1 3 0).word [(1 : RegCode).toNat] [(3 : RegCode).toNat] = .ok [0x4000000000000000] ∧
    outside.operands (Instr.st 2 1 3 0).word [(1 : RegCode).toNat, (2 : RegCode).toNat] [] = .ok [0x4000000000000000, 7] ∧
    outside.resolve outside.here outside.rights (accessAddr 0x4000000000000000 0 (2 ^ (3 : BitVec 2).toNat)) (2 ^ (3 : BitVec 2).toNat) = .ok (.bulk 0) ∧
    passes (outside.bulkAccess outside.here outside.rights 0 0) (fun p => isOk (p.2.request (keyNode p.1) (.load p.1 8 true 3))) = true ∧
    passes (outside.bulkAccess outside.here outside.rights 0 1) (fun p => isOk (p.2.request (keyNode p.1) (.store p.1 8 7))) = true := by
  and_intros <;> decide +kernel

/-- The thread may migrate; it may not with an access outstanding. -/
def mobile (n : Nat) : State := mine (podded outside) fun sl => { sl with mig := true, ld := n }
theorem witness_RemoteAccessesPostRequests_fabric :
    outside.operands (Instr.st 2 5 3 0).word [(5 : RegCode).toNat, (2 : RegCode).toNat] [] = .ok [0x8001000000000000, 7] ∧
    outside.resolve outside.here outside.rights (accessAddr 0x8001000000000000 0 (2 ^ (3 : BitVec 2).toNat)) (2 ^ (3 : BitVec 2).toNat) = .ok (.fabric 1 0x8001000000000000) ∧
    isOk (outside.requestAbroad 1 (.store 0x8001000000000000) (.fabric 0x8001000000000000 (.store (2 ^ (3 : BitVec 2).toNat) 7))) = true ∧
    (∀ w ∈ [(5 : RegCode).toNat, (2 : RegCode).toNat], outside.me.queueOf w = none) ∧
    63 ≤ (mine outside fun sl => { sl with st := 63 }).me.st ∧
    outside.operands (Instr.ldz 3 5 3 0).word [(5 : RegCode).toNat] [(3 : RegCode).toNat] = .ok [0x8001000000000000] ∧
    (outside.num ≠ 63 ∧ outside.me.mig = false ∧ (mobile 1).me.mig = true ∧ (mobile 1).me.ld + (mobile 1).me.st + (mobile 1).me.tl + (mobile 1).me.cp ≠ 0) ∧
    ((mobile 0).me.mig = true ∧ (mobile 0).me.guest = false ∧ (mobile 0).me.ld + (mobile 0).me.st + (mobile 0).me.tl + (mobile 0).me.cp = 0 ∧ (mobile 0).me.intrap = false) ∧
    (∀ r < 8, Store.get 0 (mobile 0).me.ptrs r = 0) ∧ (∀ q < 4, (mobile 0).me.isBound q = false) ∧
    ((mobile 0).liveNames (mobile 0).here (mobile 0).num).length + (mobile 0).me.carried.length ≤ 4 ∧
    ((mobile 0).isUnreachable (mobile 0).here 1 = false ∧ (mobile 0).canInject (mobile 0).here ((mobile 0).carriers (mobile 0).me.ctx (mobile 0).here (.pkg 1)) = true) ∧
    (mobile 0).operands (Instr.ld 3 5 3 0).word [(5 : RegCode).toNat] [(3 : RegCode).toNat] = .ok [0x8001000000000000] ∧
    (mobile 1).operands (Instr.ld 3 5 3 0).word [(5 : RegCode).toNat] [(3 : RegCode).toNat] = .ok [0x8001000000000000] ∧
    (mobile 0).resolve (mobile 0).here (mobile 0).rights (accessAddr 0x8001000000000000 0 (2 ^ (3 : BitVec 2).toNat)) (2 ^ (3 : BitVec 2).toNat) = .ok (.fabric 1 0x8001000000000000) := by
  and_intros <;> decide +kernel

/-- Core 1 is gated when a request for it is started. -/
theorem witness_RequestsArePerformedAndAnswered_gated :
    ((let x := credited (.load 0x200000 8 true 3); let s : State := { net [x] base with cores := [(1, { gated := true })] }; s.findMsg 9 = some x ∧ x.dst = .core 1 ∧ ∀ p, p < 64 → x.src ≠ .pkg p)) := by
  decide +kernel

/-! ## Witnesses: further cases of the full/empty, ATOM and name statements -/

theorem witness_RemoteFullEmptyWaitsAndAnswers_posted :
    far.resolveFe 0x100000000 = .ok (1, 0) ∧
    (1 ≠ far.here ∧ far.me.st < 63) ∧
    Released 0 0 0x100000000 far ∧
    far.operands (Instr.stf 2 1 0 0).word [(1 : RegCode).toNat, (2 : RegCode).toNat] [] = .ok [0x100000000, 7] ∧
    isOk (far.request (.core 1) (.fe .stf (1 * 0x200000 + 0) 7 0 0x100000000)) = true ∧
    far.operands (Instr.empty 1 0 0).word [(1 : RegCode).toNat] [] = .ok [0x100000000] ∧
    isOk (far.request (.core 1) (.fe .empty (1 * 0x200000 + 0) 0 0 0x100000000)) = true ∧
    Store.get false (waiting 1025).dev.stopped (0 / 64) = false := by
  and_intros
  all_goals first
    | decide +kernel
    | exact released_of (by decide +kernel)

/-- A remote word with and without .acq, and a word of bulk memory. -/
theorem witness_AtomsApplyTheirFunction_sent :
    far.runOperands (Instr.atomXor 2 1 0 0).word [(1 : RegCode).toNat, (2 : RegCode).toNat] [] [(2 : RegCode).toNat] = .ok [0x100000000, 7] ∧
    far.runOperands (Instr.atomCas 2 1 1 4).word [(1 : RegCode).toNat, (2 : RegCode).toNat, (2 : RegCode).toNat + 1] [(2 : RegCode).toNat, (2 : RegCode).toNat + 1] [(2 : RegCode).toNat] = .ok [0x100000000, 7, 0] ∧
    far.resolve far.here far.rights (arg [0x100000000, 7] 0) 8 = .ok (.spad 1 0) ∧
    far.destReady (2 : RegCode).toNat = .ok () ∧
    (Released 0 0 0x100000000 far ∧ Released 1 4 0x100000000 far ∧ far.me.codelet = false ∧ (1 : BitVec 2).getLsbD 0 = true ∧ far.me.st < 63) ∧
    isOk (far.request (keyNode 0x200000) (.atom .xor 0x200000 (arg [0x100000000, 7] 1) (arg [0x100000000, 7] 2) (2 : RegCode).toNat ((0 : BitVec 2).getLsbD 0))) = true ∧
    isOk (far.request (keyNode 0x200000) (.atom .cas 0x200000 7 0 (2 : RegCode).toNat ((1 : BitVec 2).getLsbD 0))) = true ∧
    outside.runOperands (Instr.atomFadd 2 1 0 0).word [(1 : RegCode).toNat, (2 : RegCode).toNat] [] [(2 : RegCode).toNat] = .ok [0x4000000000000000, 7] ∧
    outside.resolve outside.here outside.rights (arg [0x4000000000000000, 7] 0) 8 = .ok (.bulk 0) ∧
    passes (outside.bulkAccess outside.here outside.rights 0 1) (fun p => isOk (p.2.destReady (2 : RegCode).toNat) && isOk (p.2.request (keyNode p.1) (.atom .fadd p.1 7 0 2 false))) = true := by
  and_intros
  all_goals first
    | decide +kernel
    | exact released_of (by decide +kernel)

theorem witness_NamesAreMintedAndRevoked_one_register : (4 : RegCode) ≠ 0 ∧ ((4 : RegCode) ≠ 5 ∨ (4 : RegCode) = 0) := by
  decide

/-- A user whose partition is core (0, 1) alone; register 1 holds a name of core (0, 1), register 2 of the pager core (0, 0), register 4 of core (0, 2), register 5 of package 1. -/
def sender : State := { mine (podded (regs [(1, 0xC100000100000000 + 0xFF00000000), (2, 0xC100000000000000), (3, 7), (4, 0xC100020000000000), (5, 0xC101000000000000)])) fun sl => { sl with mode := 0, ctx := 1 } with
  ctxs := Store.set {} base.ctxs 1 { state := 1, part := 0x01000100 } }
theorem witness_DeliveriesFireOnce_barred :
    sender.operands (Instr.deliv 4 3).word [(4 : RegCode).toNat, (3 : RegCode).toNat] [] = .ok [0xC100020000000000, 7] ∧
    sender.operands (Instr.deliv 2 3).word [(2 : RegCode).toNat, (3 : RegCode).toNat] [] = .ok [0xC100000000000000, 7] ∧
    (sender.nameUsable 0xC100020000000000 = true ∧ sender.nameUsable 0xC100000000000000 = true ∧ sender.me.mode = 0) ∧
    (namePkg 0xC100020000000000 = sender.pkgNum ∧ sender.inPartition sender.me.ctx (nameCore 0xC100020000000000) = false) ∧
    (namePkg 0xC100000000000000 = sender.pkgNum ∧ sender.isPager (nameCore 0xC100000000000000) = true) ∧
    (named.me.mode ≠ 0) := by
  and_intros <;> decide +kernel

theorem witness_DeliveriesFireOnce_other_package :
    sender.operands (Instr.deliv 5 3).word [(5 : RegCode).toNat, (3 : RegCode).toNat] [] = .ok [0xC101000000000000, 7] ∧
    (sender.nameUsable 0xC101000000000000 = true ∧ sender.me.st = 0 ∧ namePkg 0xC101000000000000 ≠ sender.pkgNum ∧ sender.isUnreachable sender.here (namePkg 0xC101000000000000) = false) ∧
    sender.canInject sender.here (sender.carriers sender.me.ctx sender.here (.pkg (namePkg 0xC101000000000000))) = true := by
  and_intros <;> decide +kernel

/-- A value forwarded to slot 60, which is free, reserved, or holds the thread that carries the name. -/
theorem witness_NameMessagesTakeEffect_forwarded :
    ((let s := named.setSlot 60 { phase := .reserved }; s.carrierOf 0 (60 % 64) 0xC100000100000000 = 0 ∧ (s.slot (0 * 64 + 60 % 64)).phase = .reserved)) ∧
    (named.carrierOf 0 (60 % 64) 0xC100000100000000 = 0 ∧ (named.slot (0 * 64 + 60 % 64)).phase ≠ .reserved) ∧
    ((let s := named.setSlot 60 { phase := .ready, uid := 7, guest := true, carried := [{ name := 0xC100000100000000, reg := 3 }] }; s.carrierOf 0 (60 % 64) 0xC100000100000000 = 7)) := by
  and_intros <;> decide +kernel

/-! ## Witnesses: further cases of the task, codelet, ring and queue statements -/

/-- The caller belongs to a kernel of this package that runs, or of package 1. -/
def member (p : Option Nat) : State := { mine (podded (caller 0x40)) fun sl => { sl with kernel := 0x80000000, kpkg := p } with kernels := [(0, { state := 3 })] }
theorem witness_TasksAreCalledAndReturn_joins :
    (member none).runOperands (Instr.callat 6 1 5).word ([1, 2, 3, 4] ++ [5, 6]) [1, 2, 3, 4] [] = .ok [1, 2, 3, 4, 0, 0x40] ∧
    (member none).resolve (member none).here (member none).rights (arg [1, 2, 3, 4, 0, 0x40] 5) 4 = .ok (.spad (member none).here 0x40) ∧
    (((member none).coreRec 0).tasks.length < 64 ∧ (member none).joins (member none).me.kpkg (member none).me.kernel = true ∧ (member none).me.kpkg = none) ∧
    ((member (some 1)).joins (member (some 1)).me.kpkg (member (some 1)).me.kernel = true ∧ (member (some 1)).isUnreachable (member (some 1)).here 1 = false) ∧
    (named.canInject named.here (named.carriers named.me.ctx named.here (.core (nameCore 0xC100000100000000))) = true) ∧
    ((let s : State := { base with cores := [(1, { waiting := [ask (.callat oneTask)] })] }; (s.coreRec 1).waiting.any waitingCall = true ∧ (s.coreRec 1).waiting.length < 256)) ∧
    ((let k := { oneTask with kernel := 0x80000000 }; (member none).joins k.kpkg k.kernel = true)) := by
  and_intros <;> decide +kernel

theorem witness_CodeletsCountDownAndRun_entry :
    ((let s := own (base.markAwaiting 0 1) fun r => { r with ready := [0x1000] }; (s.coreRec s.here).ready ≠ [] ∧ s.awaits s.cur 1 = true)) ∧
    ((let s := own ((record 0 2 0).write64 0x1008 0x2000) fun r => { r with ready := [0x1000], res := 1 }; s.awaits s.cur 1 = false ∧ s.undisturbed true (spadKey s.here 0x1000) 8 = true)) := by
  and_intros <;> decide +kernel

/-- A ring, and words that are none: a reserved bit, a size of 0 and of 13. -/
theorem witness_RingsIssueFillAndPop_own :
    (ring 1 0 true false).operands (Instr.rqpop 4 1).word [(1 : RegCode).toNat] [(4 : RegCode).toNat] = .ok [0x1000] ∧
    (ring 1 0 true false).resolveOwn 0x1000 16 = .ok 0x1000 ∧
    (ring 1 0 true false).destReady (4 : RegCode).toNat = .ok () ∧
    ((let w0 := (ring 1 0 true false).read64 (spadKey (ring 1 0 true false).here 0x1000); fld w0 36 28 = 0 ∧ fld w0 32 4 = 1)) ∧
    (fld (0x1100000000 : Word) 36 28 ≠ 0 ∧ fld (0 : Word) 32 4 = 0 ∧ 12 < fld (0xD00000000 : Word) 32 4) := by
  and_intros <;> decide +kernel

/-- Queue 3 is held by a consumer of context 1, or of the own context. -/
def held (i : Nat) (prod : Bool) : State := own base fun r => { r with pipes := [(3, { consumer := if prod then none else some 7, producer := if prod then some 7 else none, ctx := i })] }
theorem witness_QueuesBindPushAndPop_refused :
    (fld (0x704 : Word) 0 3 = 4 ∧ fld (0x607 : Word) 8 3 = 6) ∧
    (fld (0x703 : Word) 3 5 = 0 ∧ fld (0x703 : Word) 11 53 = 0 ∧ fld (0x307 : Word) 8 3 = 3 ∧ fld (0x307 : Word) 0 3 = 7) ∧
    (((held 0 false).pipe (held 0 false).here 3).consumer ≠ none ∧ ((held 0 true).pipe (held 0 true).here 3).producer ≠ none) ∧
    (((held 1 true).pipe (held 1 true).here 3).consumer = none ∧ ((held 1 true).pipe (held 1 true).here 3).producer ≠ none ∧ ((held 1 true).pipe (held 1 true).here 3).ctx ≠ (held 1 true).me.ctx) ∧
    (((held 1 false).pipe (held 1 false).here 3).producer = none ∧ ((held 1 false).pipe (held 1 false).here 3).consumer ≠ none ∧ ((held 1 false).pipe (held 1 false).here 3).ctx ≠ (held 1 false).me.ctx) ∧
    ((queued [7]).me.lost 124 = false ∧ (held 0 false).me.isBound (0 : BitVec 2).toNat = false) ∧
    ((let s := own pushing fun r => { r with pipes := [(3, { entries := List.replicate 15 0, producer := some 1, reserved := 1 })] }; 16 ≤ (s.pipe s.here (s.me.outQueue 0)).entries.length + (s.pipe s.here (s.me.outQueue 0)).reserved)) := by
  and_intros <;> decide +kernel

/-! ## Witnesses: further cases of the barrier and kernel statements -/

theorem witness_BarrierInstructionsAct_codelet :
    ((let s := mine armed fun sl => { sl with codelet := true }; (s.barrier (coreObject s 15)).waitNow (0 % 2 == 1) = none ∧ s.me.codelet = true)) ∧
    isOk (armed.requestAs armed.me.rights (.ctrl 0) (.barrier .arrive (barrierKey armed.here { level := 3, index := 0 }) 1 (4 : RegCode).toNat (arg [0x300, 1] 0))) = true ∧
    isOk (armed.requestAs armed.me.rights (.ctrl 0) (.barrier .wait (barrierKey armed.here { level := 3, index := 0 }) 1 (4 : RegCode).toNat (arg [0x300, 1] 0))) = true := by
  and_intros <;> decide +kernel

/-- The store of die 0's controller is full; one operation is outstanding at an unreachable home; engine arrivals with a code. -/
theorem witness_BarrierHomesServe_further :
    ((let s : State := { dieArmed 1 with barWaits := List.replicate 4096 { key := 0x20000, token := false, req := barAsk .wait 0 } }; 4096 ≤ s.waitsAt (.ctrl 0) ∧ (s.barrierOp .wait 0x20000 0 1).2.2 = some false ∧ s.barrierRefuses 0x20000 1 false = false)) ∧
    Store.get false barWaiting.dev.stopped (0 / 64) = false ∧
    ((let o : Outstanding := { id := 9, uid := 1, core := 0, slot := 0, pkg := 1, ctx := 0, sup := true, what := .barrier 4 true }; let s : State := { base with outstanding := [o], unreachable := [1] }; s.outstanding = [o] ∧ s.isUnreachable o.core o.pkg = true)) ∧
    (base.barrier (0 * 16 + 15)).state = 0 ∧
    ((let x : Msg := { barAsk .arrive 1 with body := .engineArrive 0x20000 (some 0x100) }; (net [x] base).arrived 9 = some x ∧ x.resp = false ∧ x.started = true ∧ (base.barrier 0x20000).state = 0)) ∧
    (net [answer (.engineAnswer (some 0x100) 0 none)] base).response 9 = some (answer (.engineAnswer (some 0x100) 0 none)) ∧
    ((let x := answer (.engineAnswer (some 0x100) 0x0400 (some 7)); (net [x] base).response 9 = some x ∧ x.dst = .core 0 ∧ base.findThread 1 = some 0 ∧ (base.slot 0).uid = 1)) ∧
    ((let x := answer (.barrierAnswer 4 0 true true 0x300); (net [x] base).response 9 = some x ∧ ((net [x] base).dropMsg 9).waitsFor 1 9 = false)) := by
  and_intros <;> decide +kernel

theorem witness_KernelInstructionsAct_split :
    ((let g : Word := 0x0303000000020000; let x : Word := 0x202; let y : Word := 0; fld g 17 6 ≠ 0 ∧ fld x 16 48 = 0 ∧ fld y 4 60 = 0 ∧ 0 < fld x 0 8 ∧ fld x 0 8 ≤ fld g 48 8 + 1 - fld g 32 8 ∧ fld x 8 8 ≤ fld g 56 8 + 1 - fld g 40 8)) ∧
    ((let g : Word := 0x0303000000020000; fld g 32 8 ≤ coreX 0 ∧ coreX 0 ≤ fld g 48 8 ∧ fld g 40 8 ≤ coreY 0 ∧ coreY 0 ≤ fld g 56 8 ∧ fld g 48 8 ≤ 31 ∧ fld g 56 8 ≤ 39)) ∧
    (fld (0 : Word) 0 4 < groupBarriers 0 0 1 1 ∧ groupBarriers 0 0 9 9 ≤ fld (8 : Word) 0 4) ∧
    (fld (0x10202 : Word) 16 48 ≠ 0 ∧ fld (0x200 : Word) 0 8 = 0) ∧
    (Malformed 0 [0, 0x01010000, 0, 0, 0, 0, 0, 0]) := by
  and_intros
  all_goals first
    | decide +kernel
    | exact Or.inr (Or.inr (Or.inl (Or.inl (by decide +kernel))))

/-- Context 1 is LIVE, with no partition that can be placed in, with that of core (1, 1), and with that of core (0, 1). -/
def placed (c : CtxRec) : State := { tabled { state := 1, packet := one 1 0 0 } [0] with ctxs := Store.set {} base.ctxs 1 { c with state := 1 } }
theorem witness_LaunchesAreQueuedAndPlaced_refused :
    (((placed {}).ctx 1).state = 1 ∧ ((placed {}).ctx 1).placeable = false) ∧
    ((let s := placed { placeable := true, part := 0x01000100 }; (s.ctx 1).placeable = true ∧ (State.rectOf (s.ctx 1).part).holds (coreAt 1 1) = false)) ∧
    ((let s := placed { placeable := true, part := 0x01010101 }; (s.ctx 1).placeable = true ∧ (State.rectOf (s.ctx 1).part).holds (coreAt 1 1) = true)) := by
  and_intros <;> decide +kernel

/-- The answer to a JOIN that held a packet of core 1, and to one of a call at the own core. -/
theorem witness_KernelsTriggerAndRetire_joined :
    ((let x : Msg := { toMe (.joinAck 0 0) with resp := true }; let s := own (net [x] base) fun r => { r with joining := [(9, { ask (.callat oneTask) with src := .core 1, dst := .core 0 })] }; s.arrived 9 = some x ∧ ((s.dropMsg 9).coreRec 0).joining.find? (·.1 == 9) = some (9, { ask (.callat oneTask) with src := .core 1, dst := .core 0 }) ∧ (.core 1 : Node) ≠ .core 0)) ∧
    ((let s := own (net [{ toMe (.joinAck 0 0) with resp := true }] base) fun r => { r with joining := [(9, { ask (.callat oneTask) with src := .core 0, dst := .core 0 })] }; ((s.dropMsg 9).coreRec 0).joining.find? (·.1 == 9) = some (9, { ask (.callat oneTask) with src := .core 0, dst := .core 0 }))) := by
  and_intros <;> decide +kernel

/-! ## Witnesses: further cases of the vector, tile and copy statements -/

/-- Pointer register 2 is w: a reserved bit, an OFF past the end or off a multiple of 8, or PI with a STRIDE of -8. -/
def pointed (w : Word) : State := mine counted fun sl => { sl with ptrs := [(2, w)] }
theorem witness_VectorInstructionsAreQueued_pointers :
    (2 ∈ usedPointers .add 2 3 1 0 ∧ fld ((pointed 0x200000).me.ptr 2) 21 11 ≠ 0) ∧
    (∀ i ∈ usedPointers .add 2 3 1 0, fld ((pointed 0x17FFF8).me.ptr i) 21 11 = 0 ∧ fld ((pointed 0x17FFF8).me.ptr i) 48 8 = 0 ∧ fld ((pointed 0x17FFF8).me.ptr i) 58 6 = 0) ∧
    streamsOf .add 0 0 4 0x17FFF8 0 0 0 = [] ++ (0x17FFF8, 64, 4) :: [(0, 64, 4), (0, 64, 4)] ∧
    (outOfRange 4 (0x17FFF8, 64, 4) ∧ ¬ outOfRange 4 (0, 64, 4)) ∧
    (misaligned (4, 64, 4) ∧ ¬ outOfRange 4 (4, 64, 4) ∧ ¬ misaligned (0, 64, 4)) ∧
    (fld ((pointed 0x0100FFF800000008).me.ptr 2) 21 11 = 0 ∧ bitAt ((pointed 0x0100FFF800000008).me.ptr 2) 56 = true ∧ signed (fld ((pointed 0x0100FFF800000008).me.ptr 2) 32 16) 16 = -8) ∧
    (LegalModifier .add 0 0 ∧ ¬ LegalModifier .add 0 1 ∧ LegalModifier .lut 8 (255 * 2 ^ 16 + 11) ∧ LegalModifier .cvt 12 11) := by
  and_intros
  all_goals first
    | decide +kernel
    | (unfold outOfRange; decide +kernel)
    | (unfold misaligned; decide +kernel)
    | (unfold LegalModifier; decide +kernel)

theorem witness_VectorEngineComputes_forms :
    ((vec .add 0 64).op ∉ [VecOp.rsum, .rmax, .rmin, .dot] ∧ LegalFormat .add 0 ∧ LegalModifier .add 0 0 ∧ (vec .add 0 64).rm < 4 ∧ 0 < (vec .add 0 64).count) ∧
    (max 1 ((destElements .add 0 0 64).1 / 8) ∣ fld (vec .add 0 64).pd 0 21 ∧ fld (vec .add 0 64).pd 0 21 + ((destElements .add 0 0 64).1 * 64 + 7) / 8 ≤ 0x180000) ∧
    (LegalFormat .cvt 12 ∧ (destElements .cvt 8 11 3).1 = 8 ∧ (destElements .copy 12 0 3).1 = 4) ∧
    ((vec .dot 2 0).op ∈ [VecOp.rsum, .rmax, .rmin, .dot] ∧ LegalFormat .dot 2 ∧ LegalModifier .dot 2 0 ∧ fld (vec .dot 2 0).pd 0 21 + widthOf (reductionFormat 2) / 8 ≤ 0x180000) := by
  and_intros
  all_goals first
    | decide +kernel
    | (unfold LegalFormat; decide +kernel)
    | (unfold LegalModifier; decide +kernel)

/-- An MMAS whose scale words a store has met while it read them. -/
theorem witness_TileCommandsAreQueued_raced :
    ((let r : TileRun := { cmd := { tile .mmas with raced := true }, start := 0, ended := some none }; let s := own base fun x => { x with matrix := { compute := some r } }; (s.matrix 0).path false = some r ∧ r.cmd.raced = true ∧ r.ended ≠ none ∧ r.cmd.level = 0)) ∧
    (tile .mzero).raced = false := by
  and_intros <;> decide +kernel

/-- FP64, FP8 with FP32 and INT8 products; a tile of one K-block; the writes of an MSTORE meet no region store. -/
theorem witness_MatrixCommandsCompute_values :
    ((63 < ({ tile .mma with fmt := 0x122 } : TileCmd).rows) ∧ (tile .mma).fc < 2 ∧ (tile .mma).fa < 6 ∧ (tile .mma).fb < 6 ∧ (tile .mma).op ≠ .mmas) ∧
    ((let q := { tile .mmas with fmt := 0x144 }; q.fc = 1 ∧ q.fa < 6 ∧ q.fb < 6 ∧ q.op = .mmas)) ∧
    ((let q := { tile .mstore with stride := 128, fmto := 1 }; 0 < widthOf q.fmto / 8 ∧ 32 * (widthOf q.fmto / 8) ≤ q.stride)) ∧
    base.undisturbed false (spadKey 0 (0 + 63 * 128 + 31 * 4)) 4 = true := by
  and_intros <;> decide +kernel

/-- A TCOPY of one part, and a gather row whose index is below TROWS, at it, and in a scatter. -/
def gathering (op : TileOp) : TileRun := { cmd := { tile op with addr1 := 0x100 }, start := 0, desc := [0x200000008, 0x1000, 2, 0x2000], rows := [0] }
theorem witness_TensorMovesCopyTheirParts_rows :
    ((gathering .tgather).moves = [] ∧ (gathering .tgather).rows = 0 :: [] ∧ (gathering .tgather).cmd.op = .tgather ∧ (gathering .tscatter).cmd.op ≠ .tgather) ∧
    base.tileAt 0 (gathering .tgather).cmd (gathering .tgather).cmd.addr1 (4 * fld ((gathering .tgather).desc.getD 0 0) 32 16) 4 = .ok 0x100 ∧
    (0 < fld ((gathering .tgather).desc.getD 0 0) 0 16 ∧ fld ((gathering .tgather).desc.getD 0 0) 0 16 ≤ 4096) ∧
    (base.mem.readN (0 * 0x200000 + 0x100 + 4 * 0) 4 < fld ((gathering .tgather).desc.getD 2 0) 0 32 ∧ fld ((gathering .tgather).desc.getD 2 0) 0 32 ≤ (base.write 0x100 4 2).mem.readN (0 * 0x200000 + 0x100 + 4 * 0) 4) ∧
    (fld (0x1000 + BitVec.ofNat 64 (0 * 8) : Word) 0 16 + 8 ≤ 0x10000 ∧ fld (0x2000 + BitVec.ofNat 64 (0 * 8) : Word) 0 16 + 8 ≤ 0x10000) ∧
    base.undisturbed false (0 * 0x200000 + 0x2000) 8 = true ∧
    (fld (tensor.read64 0) 0 4 = 0 ∧ fld ((tensor.write64 0 0x31).read64 0) 0 4 = 1) ∧
    (fld (tensor.read64 0) 0 7 = fld ((tensor.write64 0 0x8030).read64 0) 0 7) := by
  and_intros <;> decide +kernel

/-- The movement slot serves a COPYM of 8 bytes over a rectangle, in its packets or after the last. -/
def spreading (m1 : Word) (parts : List Piece) (pos : Nat) : State := own base fun r => { r with mailbox := some { request 8 with op := 2, m1 := m1 }, defaultMover := true, moverParts := parts, moverPos := pos }
theorem witness_CopiesAreIssuedAndFinished_ends :
    (0x180000 < 0x17FFFC + 8 ∧ (moving 8).undisturbed false (1 * 0x200000 + 0) 8 = true ∧ 1 * 0x200000 + 0 + 8 ≤ 2 ^ 40) ∧
    (moving 8).resolve 0 { ctx := 0, sup := true } 0x17FFFC 1 = .ok (.spad 0 0x17FFFC) ∧
    ((net [ask (.run 0x200000 8 [1, 0, 0, 0] 0x1000 8 [])] base).undisturbed false 0x200000 8 = true ∧ base.undisturbed false 0x1000 8 = true) ∧
    ((let x := (spreading 0x0000000100000000 [] 0).coreRec 0; x.moverParts = [] ∧ x.moverWait = none ∧ fld (0x0000000100000000 : Word) 48 5 < fld (0x0000000100000000 : Word) 32 5)) ∧
    (spreading 0x0000000100000000 [] 0).resolve 0 { ctx := 0, sup := true } (request 8).m0 1 = .ok (.spad 0 0) ∧
    ((let x := (spreading 0x0001000000000000 [{ src := 0, dst := 0x100000000, n := 8 }] 2).coreRec 0; x.moverParts ≠ [] ∧ x.moverPos = x.moverParts.length + (fld (0x0001000000000000 : Word) 0 3 + fld (8 : Word) 0 40 + 1023) / 1024)) ∧
    (base.takesCopy 1 = true ∧ ({ base with cores := [(1, { entries := 16 })] } : State).takesCopy 1 = false) ∧
    base.undisturbed false (1 * 0x200000 + 0x1000) [1, 255].length = true := by
  and_intros <;> decide +kernel

/-! ## Witnesses: further cases of the region and sequencer statements -/

/-- A reply whose credit has been taken back. -/
theorem witness_RecordsAreInsertedReadAndWritten_reply :
    (net [{ toMe (.regionReply (recOp .rld []) 0 0 [1, 2]) with resp := true }] regioned).response 9 = some { toMe (.regionReply (recOp .rld []) 0 0 [1, 2]) with resp := true } ∧
    (net [{ toMe (.regionReply (recOp .rld []) 0 0x0A []) with resp := true }] regioned).response 9 = some { toMe (.regionReply (recOp .rld []) 0 0x0A []) with resp := true } := by
  and_intros <;> decide +kernel

/-- FP32 coordinates 0 are in the box of zeros and at distance 0; a NaN is in neither. -/
theorem witness_QueriesWalkAndDomainsInstall_matches :
    (({ regioned with cores := [(33, { entries := 16 })] } : State).entriesAt (.core 33) = 16 ∧ (net [to33 (.arm query 0)] regioned).entriesAt (.core 33) < 16) ∧
    (∀ n, n < 3 → FinitePattern 1 0 ∧ FinitePattern 1 0x7F7FFFFF) ∧
    NaNPattern 1 0x7FC00000 ∧
    (({ query with kind := .box } : Query).kind ≠ .all ∧ FinitePattern 0 0 ∧ FinitePattern 0 0x3FF0000000000000) := by
  and_intros
  all_goals first
    | decide +kernel
    | (unfold FinitePattern; decide +kernel)

/-- A controller block: ATOL 1, RTOL 0, limits and exponents within R349, four FP64 elements. -/
def block : List Word := [0x3FF0000000000000, 0, 0x3FE0000000000000, 0x3FE0000000000000, 0x3FF0000000000000, 0, 0, 0, 0x1000004, 0x8000]
theorem pattern_one : patternValue 0 (0x3FF0000000000000 : Word).toNat = 1 := by
  simp only [patternValue, show negativeOf 0 (0x3FF0000000000000 : Word).toNat = false by decide, show exponentOf 0 (0x3FF0000000000000 : Word).toNat = 1023 by decide,
    show mantissaOf 0 (0x3FF0000000000000 : Word).toNat = 0 by decide, show exponentBias 0 = 1023 by decide, show mantissaBits 0 = 52 by decide]
  norm_num
theorem pattern_half : patternValue 0 (0x3FE0000000000000 : Word).toNat = 1 / 2 := by
  simp only [patternValue, show negativeOf 0 (0x3FE0000000000000 : Word).toNat = false by decide, show exponentOf 0 (0x3FE0000000000000 : Word).toNat = 1022 by decide,
    show mantissaOf 0 (0x3FE0000000000000 : Word).toNat = 0 by decide, show exponentBias 0 = 1023 by decide, show mantissaBits 0 = 52 by decide]
  norm_num
theorem pattern_zero : patternValue 0 (0 : Word).toNat = 0 := by
  simp [patternValue, show exponentOf 0 0 = 0 by decide, show mantissaOf 0 0 = 0 by decide]

theorem witness_SequencerEngineComputes_block :
    ((base.writeWords 0x1000 block).readWords (0 * 0x200000 + 0x1000) 10 = block ∧ (seqCmd .cfg 0x1000 0).mode ≠ 0 ∧ 0x1000 + 80 ≤ 0x180000 ∧ 0x180000 < (seqCmd .cfg 0x17FFF8 0).a.toNat + 80) ∧
    LegalBlock block ∧
    ¬ LegalBlock (block.set 0 0) ∧
    ((base.sequencer 0).tag = none ∧ ∀ e ∈ (base.sequencer 0).samples, e.2.st = 0) := by
  refine ⟨by decide +kernel, ⟨?_, ?_⟩, ?_, by decide +kernel⟩
  · unfold FinitePattern
    decide +kernel
  · show 0 < patternValue 0 (0x3FF0000000000000 : Word).toNat ∧ 0 ≤ patternValue 0 (0 : Word).toNat ∧ 0 ≤ patternValue 0 (0x3FE0000000000000 : Word).toNat ∧
      patternValue 0 (0x3FE0000000000000 : Word).toNat ≤ 1 ∧ 0 < patternValue 0 (0x3FE0000000000000 : Word).toNat ∧ patternValue 0 (0x3FE0000000000000 : Word).toNat ≤ 1 ∧
      1 ≤ patternValue 0 (0x3FF0000000000000 : Word).toNat ∧ 0 ≤ patternValue 0 (0 : Word).toNat ∧ 0 ≤ patternValue 0 (0 : Word).toNat ∧ 0 ≤ patternValue 0 (0 : Word).toNat ∧ _
    rw [pattern_one, pattern_half, pattern_zero]
    refine ⟨?_, ?_, ?_, ?_, ?_, ?_, ?_, ?_, ?_, ?_, by decide +kernel⟩ <;> norm_num
  · rintro ⟨-, h, -⟩
    exact absurd (pattern_zero ▸ h : (0 : Rat) < 0) (lt_irrefl 0)

theorem witness_SequencerEngineComputes_ends :
    ((let q := solver 1; let e := q.sample 0; 0 < q.width ∧ ∀ o ∈ e.xoff :: ((endTerms q 0).1 ++ (endTerms q 0).2).map (·.2), o + q.elems * q.width ≤ e.sboff + (q.stages + 1) * q.pitch ∨ e.sboff + (q.stages + 1) * q.pitch + q.elems * q.width ≤ o)) ∧
    (∀ w ∈ seqWrites (seqState (solver 1) base) 0 (seqCmd .finish 0xFF 0), (seqState (solver 1) base).undisturbed false (0 * 0x200000 + w.1) w.2 = true) := by
  and_intros <;> decide +kernel

/-! ## Witnesses: further cases of the thread, page, link, migration and device statements -/

theorem witness_ThreadsAreControlled_held :
    (Store.get false base.dev.stopped (0 / 64) = false ∧ (mine base fun sl => { sl with departed := true }).me.departed = true ∧ base.callsPending base.me.uid = false) ∧
    ((let s : State := { base.setSlot 5 { phase := .reserved, base := 128, limit := 16, lastIssue := some 3, seq := 4 } with spills := [spillOp false] }; (s.slot 5).lastIssue = some 3 ∧ (s.slot 5).seq = 4)) := by
  and_intros <;> decide +kernel

/-- An old entry with V 0 and MIG 1; a waiting slot with a boundary trap pending, and one on a core that DBGSTOP holds. -/
theorem witness_PagesAreMappedMovedAndWaitedFor_cases :
    (bitAt (0x10 : Word) 0 = false ∧ bitAt (0x10 : Word) 4 = true ∧ bitAt ((paged 0x50007 base).read64 (2 ^ 40 + 0x40000)) 4 = false) ∧
    (base.takesCopy 0 = true ∧ ({ base with cores := [(0, { entries := 16 })] } : State).takesCopy 0 = false) ∧
    ((opState (pageOp .heat 0 0) base).pageOp 9 = some (pageOp .heat 0 0) ∧ (pageOp .heat 0 0).kind = .heat) ∧
    base.entryKey (pageOp .heat 0 0).operand = .error 0xFFFFFFFFFFFFFFFF ∧
    ((pageWaiting.slot 0).pend = [] ∧ Store.get false pageWaiting.dev.stopped 0 = false ∧ ((mine pageWaiting fun sl => { sl with pend := [(8, 7)] }).slot 0).pend ≠ []) ∧
    Store.get false ({ pageWaiting with dev := { stopped := [(0, true)] } } : State).dev.stopped 0 = true := by
  and_intros <;> decide +kernel

/-- A migration record of the thread, a packet's header, and what has gone on link 1: five cells of a flow with four slots. -/
def gone (n : Nat) : Packet := { link := 1, msg := { id := 8, src := .core 0, dst := .pkg 1, body := .ack 0 0 }, fseq := 0, eseq := 0, num := 0, cells := 5, ord := false, left := 5 - n, last := n }
def toPkg1 : Msg := { id := 9, uid := 1, src := .core 0, slot := 0, dst := .pkg 1, body := .migrateAsk 8 }
theorem witness_LinksCarryCells_frames :
    (∀ e ∈ [((8 : Nat), (4 : Nat)), (9, 3)], 0 < e.2) ∧
    ((let s : State := { linkRegs with sent := [gone 5] }; (s.link 1).up = true ∧ (∀ e ∈ s.sent, e.last = 0 ∨ e.link = 1) ∧ gone 5 ∈ s.sent ∧ (gone 5).link = 1 ∧ 0 < (gone 5).last)) ∧
    ((let s : State := { linkRegs with sent := [gone 5, { gone 5 with link := 2 }] }; ∃ h : 1 < s.sent.length, s.sent[1].link ≠ 1)) ∧
    ((let f : FlowRec := { made := [(8, 4)] }; let s : State := { linkRegs with flows := [(1, f)], sent := [gone 0] }; s.flows = [(1, f)] ∧ s.flowLink 1 = some 1 ∧ f.held ≤ 52 ∧ (∀ x ∈ s.net, s.leaves 1 x = false) ∧ (∀ e ∈ s.sent, e.last = 0))) ∧
    ((let s := net [toPkg1] linkRegs; s.net = [toPkg1] ∧ toPkg1.dst = .pkg 1 ∧ State.nodeDie toPkg1.src < 4 ∧ toPkg1.credit = none ∧ toPkg1.started = false ∧ s.linkOf toPkg1.ctx (State.nodeDie toPkg1.src) 1 = some 1 ∧ s.sent = [] ∧ s.flows = [] ∧ cellsOf toPkg1.body ≤ 16)) ∧
    ((let c : Cell := { cell with header := ((gone 5).header 0 4).setWidth 128 }; c.header = ((gone 5).header 0 4).setWidth 128 ∧ 0 < 64 ∧ (gone 5).msg.ctx < 512 ∧ (gone 5).fseq < 65536 ∧ (gone 5).num < 4096 ∧ 1 ≤ (gone 5).cells ∧ (gone 5).cells ≤ 16 ∧ 4 < 16)) ∧
    ((linkRegs.link 1).up = true ∧ (linkRegs.link 11).up = false) := by
  and_intros <;> decide +kernel

/-- A cell of two, an ordered one before its turn, and a barrier operation without a credit of the gateway's class. -/
theorem witness_LinksCarryCells_kept_cells :
    1 < ({ cell with header := 0x50000000000000100 + 2 ^ 100 } : Cell).count ∧
    ((let c : Cell := { cell with header := 0x50000000000000100 + 2 ^ 20 + 2 ^ 48 }; c.ord = true ∧ c.fseq ≠ (Store.get {} linkRegs.flowIn c.flow).next)) ∧
    (∃ nm n i p r, ({ cell with body := .barrier .arrive 0 1 0 8 } : Cell).body = .barrier nm n i p r) ∧
    ((let s : State := { linkRegs with credits := [((40 + State.nodeDie cell.dst) * 4096 + State.classOf cell.dst, linkRegs.rqs)] }; s.rqs ≤ Store.get 0 s.credits ((40 + State.nodeDie cell.dst) * 4096 + State.classOf cell.dst))) := by
  and_intros
  all_goals first
    | exact ⟨_, _, _, _, _, rfl⟩
    | decide +kernel

theorem witness_LinksCarryCells_inbound :
    ((let s : State := { linkRegs with credits := [((40 + State.nodeDie (.core 0)) * 4096 + State.classOf (.core 0), linkRegs.rqs)] }; s.rqs ≤ Store.get 0 s.credits ((40 + State.nodeDie (.core 0)) * 4096 + State.classOf (.core 0)))) ∧
    ((∀ nm n i p r, cell.body ≠ .barrier nm n i p r) ∧ cell.count = 1 ∧ cell.ord = false) ∧
    ((fabricParts { ctx := 0, sup := true } 0 (.read 8) base).1 = .ok [(0, 8)] ∧ Store.get 0 base.credits ((40 + State.nodeDie (keyNode 0)) * 4096 + State.classOf (keyNode 0)) < base.rqs) ∧
    (fabricParts { ctx := 1, sup := false } 0 (.read 8) base).1 = .error 0x05 ∧
    (net [toGate (.fabricAt [(0, 8)] (.read 8))] linkRegs).performable 9 = some (toGate (.fabricAt [(0, 8)] (.read 8))) ∧
    (0 < 8 ∧ 8 ≤ 0x10000 ∧ (({ ctx := 0, sup := true } : Rights).ctx = 0)) ∧
    base.resolve 0 { ctx := 0, sup := true } 0x4000000000000000 1 = .ok (.bulk 0) ∧
    ((match base.walk 0 0 with | .fault _ _ => true | .leaf _ _ _ => false) = true ∧ (match (paged 0x50007 base).walk 0 0 with | .leaf _ _ _ => true | .fault _ _ => false) = true) ∧
    (0 % 0x10000 + 8 ≤ 0x10000 ∧ 0x10000 < 0xFFFC % 0x10000 + 8 ∧ 0xFFFC + 8 ≤ 2 ^ 48 ∧ Fabric.writes (.read 8) = false ∧ bitAt (0x50007 : Word) 3 = false) ∧
    (match (paged 0x50007 base).walk 0 (0xFFFC + (0x10000 - 0xFFFC % 0x10000)) with | .fault _ _ => true | .leaf _ _ _ => false) = true := by
  and_intros
  all_goals first
    | decide +kernel
    | exact fun _ _ _ _ _ h => Body.noConfusion h

/-- The page of virtual address 0 is homed at core (1, 1), or has no home. -/
def homed (h : Word) : State := paged (0x50007 + h) base
theorem witness_ThreadsMigrateAndContextsTurn_homes :
    guest.canInject guest.here (guest.carriers guest.rights.ctx guest.here (.pkg guest.me.originPkg)) = true ∧
    ((net [{ fromPkg 0 with body := .homeAsk 33 }] base).performable 9 = some { fromPkg 0 with body := .homeAsk 33 } ∧ (List.range 63).find? (fun n => (base.slot (33 * 64 + n)).phase == .free) = some 0) ∧
    (({ ctx := 1, sup := false } : Rights).ctx ≠ 0 ∧ (base.ctx 1).state ≠ 1 ∧ ({ ctx := 0, sup := true } : Rights).ctx = 0) ∧
    base.resolve 0 { ctx := 0, sup := true } 0x0000FF0000000000 1 = .error (.trap 0x04 0x0000FF0000000000) ∧
    base.resolve 0 { ctx := 0, sup := true } 0x10100000000 1 = .ok (.spad 33 0) ∧
    (base.isPager 33 = false ∧ base.isOffline 33 = false) ∧
    ((match base.walk 0 0 with | .fault _ _ => true | .leaf _ _ _ => false) = true ∧
      (match (homed (2 ^ 5 + 33 * 2 ^ 39)).walk 0 0 with | .leaf e _ _ => bitAt e 5 && 32 * fld e 44 6 + fld e 39 5 == 33 | .fault _ _ => false) = true) ∧
    ((let x := { toSlot33 with body := .migrant { words := List.replicate 28 0, extra := false } (33 * 64 + 60) true }; (net [x] reserved33).arrived 9 = some x ∧ x.dst = .core 33)) := by
  and_intros <;> decide +kernel

theorem witness_ThreadsMigrateAndContextsTurn_commands :
    ((let s : State := { base with ctxCmd := some (1, 0) }; s.ctxCmdDone = false ∧ s.ctxCmd = some (1, 0))) ∧
    ((let s : State := { base with ctxCmd := some (1, 1), ctxs := [(1, { state := 1 })] }; s.ctxCmd = some (1, 1) ∧ (s.ctx 1).state ≠ 0)) ∧
    ((let s : State := { base with ctxCmd := some (2, 1) }; s.ctxCmd = some (2, 1) ∧ (s.ctx 1).state = 0)) ∧
    ((let s : State := { base with ctxCmd := some (2, 1), ctxs := [(1, { state := 2 })] }; s.ctxCmd = some (2, 1) ∧ 1 ≠ 0 ∧ (s.ctx 1).state = 2)) := by
  and_intros <;> decide +kernel

/-- Step 10 left the ports down; a firmware of one word. -/
theorem witness_DeviceIsOwnedStartedAndWatched_start :
    (¬ Reaches { base with dev := { portsDown := true } } .rack ∧ (owned .rack).dev.portsDown = false) ∧
    ((let o : StartOutcome := { firmware := { offset := 0x40, words := [7], pageVec := 0x40 } }; o.firmware.offset + 8 * o.firmware.words.length ≤ 0x180000 ∧ 0 < o.firmware.words.length ∧ base.isPager 0 = true)) ∧
    (5 ∈ ({ base with offline := [5] } : State).offline) := by
  and_intros
  all_goals first
    | decide +kernel
    | (rintro (h | h) <;> revert h <;> decide +kernel)

/-! ## Witnesses: address forms, races, slot 63, and further cases of the statements above -/

/-- The relative form's edges from core 0, reserved bits of each space, and fabric addresses of the own and another package. -/
theorem witness_AddressesResolveByTheirSpace_forms :
    ((coreX 0 : Int) + signed 255 8 < 0 ∧ (coreX 0 : Int) + signed 31 8 = 31 ∧ 31 < (coreX 1 : Int) + signed 31 8 ∧ (coreY 0 : Int) + signed 39 8 = 39 ∧ 39 < (coreY 0 : Int) + signed 40 8) ∧
    (fld (0x0001000000000000 : Word) 62 2 = 0 ∧ fld (0x0001000000000000 : Word) 48 13 ≠ 0 ∧ fld (0x80000000 : Word) 62 2 = 0 ∧ fld (0x80000000 : Word) 21 11 ≠ 0) ∧
    (fld (0x8040000000000000 : Word) 62 2 = 2 ∧ fld (0x8040000000000000 : Word) 54 7 ≠ 0) ∧
    ((let a : Word := 0xA000000000000008; fld a 62 2 = 2 ∧ fld a 54 7 = 0 ∧ fld a 48 6 = base.pkgNum ∧ bitAt a 61 = true ∧ a.toNat % 8 = 0 ∧ (a + 1).toNat % 8 ≠ 0)) ∧
    base.resolve 0 base.rights (BitVec.ofNat 64 (fld (0x8000280000000000 : Word) 0 48)) 8 = .error (.trap 0x04 0x280000000000) ∧
    ((let a : Word := 0x803F271F0017FFF8; fld a 62 2 = 2 ∧ fld a 54 7 = 0 ∧ fld a 48 6 ≠ base.pkgNum ∧ bitAt a 61 = false ∧ a.toNat % 8 = 0 ∧ (a + 1).toNat % 8 ≠ 0 ∧
      ¬ (fld a 21 11 ≠ 0 ∨ 31 < fld a 32 8 ∨ 39 < fld a 40 8 ∨ 0x180000 ≤ fld a 0 21))) ∧
    (fld (0x803F000080000000 : Word) 21 11 ≠ 0 ∧ 31 < fld (0x803F002000000000 : Word) 32 8 ∧ 39 < fld (0x803F280000000000 : Word) 40 8 ∧ 0x180000 ≤ fld (0x803F000000180000 : Word) 0 21) := by
  and_intros <;> decide +kernel

/-- Core 0 has finished an MMAS with scale words from 0x1000 that its thread has not seen to be over. -/
def unseen : State := own base fun r => { r with matrix := { unseen := [{ tile .mmas with nkb := 1, fmt := 0x144, scla := 0x1000, sclb := 0x2000 }] } }
theorem witness_LocalStoresWriteTheirBytes_unseen :
    (isBulk 0x1000 = false ∧ unseen.unseenHit (keyCore 0x1000) (keyOff 0x1000) 8 = true ∧ base.unseenHit (keyCore 0x1000) (keyOff 0x1000) 8 = false) := by
  decide +kernel

/-- The movement slot of core 0 has a copy in service; or waits for operation 9 then. -/
def serving : State := (own base fun r => { r with mailbox := some (request 8) }).setSlot 63 { phase := .ready, uid := 5, mode := 2, limit := 16, base := 128 }
def servingWait : State := serving.setSlot 63 { phase := .parked, park := .remote 9, uid := 5, mode := 2, limit := 16, base := 128 }
theorem witness_RequestsArePerformedAndAnswered_mover :
    ((let x := { answer (.ack 0x05 8) with uid := 5 }; let u := ((net [x] serving).dropMsg 9).modThreadCounters 5 fun sl => { sl with st := sl.st - 1 }
      (net [x] serving).response 9 = some x ∧ u.moverOf 5 = some (0, request 8))) ∧
    ((let x := answer (.ack 0x05 8); let u := ((net [x] base).dropMsg 9).modThreadCounters 1 fun sl => { sl with st := sl.st - 1 }
      (net [x] base).response 9 = some x ∧ u.moverOf 1 = none)) ∧
    (base.partials = [] ∧ 127 < (base.slot 0).limit) := by
  and_intros <;> decide +kernel

theorem witness_RemoteFullEmptyWaitsAndAnswers_mover :
    ((let x := { answer (.cancelled 0x100000000 false) with uid := 5 }; let s := net [x] servingWait
      s.response 9 = some x ∧ s.waitsFor 5 9 = true ∧ (s.dropMsg 9).moverOf 5 = some (0, request 8))) := by
  decide +kernel

/-- A call sent again: with a credit and the quotas open, and with either closed or before its time. -/
theorem witness_TasksAreCalledAndReturn_resent :
    ((let s : State := { base with cores := [(0, { cycle := 1024, held := [(ask (.callat oneTask), 0)] })] }
      s.canInject 0 (s.carriers (ask (.callat oneTask)).ctx 0 (ask (.callat oneTask)).dst) = true)) ∧
    ((let s : State := { base with cores := [(0, { cycle := 1024, stalled := true, spentOmega := 4096, spentMesh := 4096, held := [(ask (.callat oneTask), 0)] })] }
      s.canInject 0 (s.carriers (ask (.callat oneTask)).ctx 0 (ask (.callat oneTask)).dst) = false)) ∧
    ((let s : State := { base with credits := [(clusterOf 0 * 4096 + State.classOf (.core 1), base.rqs)], cores := [(0, { held := [(ask (.callat oneTask), 0)] })] }
      s.creditFree (clusterOf 0) (ask (.callat oneTask)).dst = false ∧ (s.coreRec 0).cycle - 0 < 1024)) := by
  and_intros <;> decide +kernel

/-- The requests of LAUNCH and DONE under the slot's own rights. -/
theorem witness_KernelInstructionsAct_sent :
    isOk ((packeted 0x100000000 0x01010000).requestAs (packeted 0x100000000 0x01010000).me.rights (.ctrl 0) (.launch (packet.set 1 0x01010000) (5 : RegCode).toNat)) = true ∧
    isOk ((packeted 0 0).requestAs (packeted 0 0).me.rights (.ctrl 0) (.kernelQuery 0x80000000 (5 : RegCode).toNat)) = true := by
  and_intros <;> decide +kernel

/-- A launch with an image of 8 bytes, at an address that is not mapped, copied whole, and on its way to core (1, 1). -/
theorem witness_LaunchesAreQueuedAndPlaced_images :
    ((let s := tabled { state := 2, packet := one 0 0 8, granted := [33] } []; (s.kernelRec 0).ilen = 8 ∧ s.imageBytes (s.kernelRec 0) ((s.kernelRec 0).word 2 + BitVec.ofNat 64 0) 8 ≠ [])) ∧
    ((let s := tabled { state := 2, packet := (one 0 0 8).set 2 0x4000000000000000, granted := [33] } []; s.imageBytes (s.kernelRec 0) ((s.kernelRec 0).word 2 + BitVec.ofNat 64 0) 8 = [])) ∧
    ((let s := tabled { state := 2, packet := one 0 0 8, granted := [33], copied := 8 } []; s.allAnswered (s.kernelRec 0) = true ∧ (s.kernelRec 0).ilen ≤ (s.kernelRec 0).copied)) ∧
    ((let x : Msg := { id := 9, src := .ctrl 0, dst := .core 33, body := .multicast 0x40 [1, 255] false [33] }; let s := net [x] (tabled { state := 2, packet := one 0 0 8, granted := [33], imageMsg := some 9 } [])
      s.arrived 9 = some x ∧ s.takesCopy 33 = true ∧ s.kernels.find? (fun e => e.2.imageMsg == some 9) = some (0, s.kernelRec 0) ∧ s.undisturbed false (33 * 0x200000 + 0x40) 2 = true ∧ ∀ b ∈ [1, 255], b < 256)) := by
  and_intros <;> decide +kernel

/-- A finished MMAS, MZERO and failed MMA, and a thread parked on its command. -/
theorem witness_TileCommandsAreQueued_ends :
    ((let r : TileRun := { cmd := tile .mmas, start := 0, ended := some none }; let s := own base fun x => { x with matrix := { compute := some r } }; (s.matrix 0).path false = some r ∧ r.cmd.raced = false ∧ s.findThread r.cmd.uid ≠ none)) ∧
    ((let r : TileRun := { cmd := tile .mma, start := 0, ended := some (some 0x0E6D) }; let s := own base fun x => { x with matrix := { compute := some r } }; (s.matrix 0).path false = some r ∧ r.cmd.raced = false ∧ r.cmd.level = 0)) ∧
    ((let s := mine base fun sl => { sl with phase := .parked, park := .command 0 }; (s.thread 1).any (fun sl => sl.phase == .parked && sl.park == .command 0) = true ∧ (base.thread 1).any (fun sl => sl.phase == .parked && sl.park == .command 0) = false)) := by
  and_intros <;> decide +kernel

/-- The copy in service has ended with this status and names the core's object 15, which is armed, or no object. -/
def copyEnded (status : Word) (bsel : Nat) : State := own armed fun r => { r with mailbox := some { request 8 with bsel := bsel, bidx := 15 }, defaultMover := true, finishing := some status }
theorem witness_CopiesAreIssuedAndFinished_statuses :
    ((let s := copyEnded 0x046E 1; (s.coreRec 0).mailbox = some { request 8 with bsel := 1, bidx := 15 } ∧ (s.coreRec 0).finishing = some 0x046E ∧ (s.slot (0 * 64 + 63)).st = 0 ∧ (s.coreRec 0).moverWait = none ∧ (s.coreRec 0).defaultMover = true)) ∧
    ((let s := copyEnded 0x046E 1; (((s.modSlot (0 * 64 + 63) fun sl => { sl with touch := 0 }).modThreadCounters 1 fun sl => { sl with tok := sl.tok &&& ~~~(1#8 <<< 0), cp := sl.cp - 1 }).barrier (0 * 16 + 15)).state ≠ 0)) ∧
    (((copyEnded 0 0).coreRec 0).finishing = some 0 ∧ fld (0x046E : Word) 0 16 < 2 ^ 16) ∧
    ((let x := ask (.run 0x200000 1 [0, 0, 0x80, 0x3F] 0x1000 4 []); (net [x] base).arrived 9 = some x ∧ (∀ b ∈ [0, 0, 0x80, 0x3F], b < 256) ∧ [0, 0, 0x80, 0x3F].length % (widthOf 1 / 8) = 0 ∧ base.undisturbed false 0x200000 4 = true ∧ base.undisturbed false 0x1000 8 = true)) := by
  and_intros <;> decide +kernel

/-- A record operation and a query of a thread on the owner itself. -/
theorem witness_RegionOperationsAreIssued_own_unit :
    WindowCode issuer33 (8 : RegCode).toNat ∧
    (issuer33.me.ld < 63 ∧ (∀ v ∈ [(3 : RegCode).toNat], issuer33.me.queueOf v = none) ∧ (∀ v ∈ [(4 : RegCode).toNat, (6 : RegCode).toNat], issuer33.me.queueOf v = none)) ∧
    issuer33.destReady (8 : RegCode).toNat = .ok () ∧
    issuer33.recordBufferAt .rdel 0 0xC201000000000000 = .ok 0 := by
  and_intros <;> decide +kernel

/-- An operation of the owner's own thread, and ones of a domain that is gone. -/
def self33 (b : Body) : Msg := { id := 9, uid := 2, src := .core 33, slot := 0, dst := .core 33, body := b }
theorem witness_RecordsAreInsertedReadAndWritten_domains :
    ((let x := self33 (.region (recOp .rins (List.replicate 128 7)) none); let s := net [x] regioned; s.findMsg 9 = some x ∧ (if x.src = x.dst then s.arrived 9 else s.performable 9) = some x)) ∧
    ((let x := to33 (.region (recOp .rld []) none); let s := net [x] regioned; s.findMsg 9 = some x ∧ (if x.src = x.dst then s.arrived 9 else s.performable 9) = some x)) ∧
    (regioned.domainOf 33 0 1 0 = some dom1 ∧ regioned.domainOf 33 0 1 1 = none ∧ base.domainOf 33 0 1 0 = none) ∧
    ((let x := to33 (.region { recOp .rld [] with gen := 1 } none); (net [x] regioned).findMsg 9 = some x)) ∧
    ((let x := to33From34 (.entryFree { recOp .rdel [] with gen := 1 } 3); (net [x] regioned).arrived 9 = some x)) := by
  and_intros <;> decide +kernel

/-- A query's messages at the unit that sent them, at a core without response entries, at one with a record departing, and at the last owner. -/
theorem witness_QueriesWalkAndDomainsInstall_walks :
    ((let x := self33 (.arm query 0); (net [x] regioned).arrived 9 = some x ∧ x.src = .core 33)) ∧
    ((let s := net [to33 (.arm query 0)] ({ regioned with cores := [(33, { entries := 16, domains := [dom1] })] } : State); s.arrived 9 = some (to33 (.arm query 0)) ∧ (to33 (.arm query 0)).src ≠ .core 33 ∧ 16 ≤ s.entriesAt (.core 33))) ∧
    (leaving.domainOf 33 query.ctx query.dom query.gen ≠ none ∧ (leaving.coreRec 33).armed < 255 ∧ (leaving.coreRec 33).departures ≠ []) ∧
    (regioned.domainOf 33 query.ctx query.dom query.gen = some dom1 ∧ base.domainOf 33 query.ctx query.dom query.gen = none) ∧
    ((let x := self33 (.scan query 1 3); (net [x] regioned).arrived 9 = some x ∧ query.path[1 + 1]? = none)) ∧
    ((let x := self33 (.lower query 0); (net [x] regioned).arrived 9 = some x)) := by
  and_intros <;> decide +kernel

/-- Reads of CNT and TOK; writes of CTXCMD with a command and with one in force; NETCFG with and without a LIVE context. -/
theorem witness_SpecialRegistersAreReadAndWritten_fields :
    base.operands (Instr.srd 3 0x00D).word [] [(3 : RegCode).toNat] = .ok [] ∧
    base.operands (Instr.srd 3 0x00E).word [] [(3 : RegCode).toNat] = .ok [] ∧
    (regs [(3, 0x10001)]).operands (Instr.swr 3 0x103).word [(3 : RegCode).toNat] [] = .ok [0x10001] ∧
    (base.ctxCmd = none ∧ fld (0x10001 : Word) 16 2 = 1 ∧ fld (0x30001 : Word) 16 2 = 3 ∧ ({ base with ctxCmd := some (1, 1) } : State).ctxCmd ≠ none) ∧
    (∀ e ∈ base.ctxs, e.1 ≠ 0 → e.2.state = 0) ∧
    (∃ e ∈ ({ base with ctxs := [(1, { state := 1 })] } : State).ctxs, e.1 ≠ 0 ∧ e.2.state ≠ 0) := by
  and_intros <;> decide +kernel

/-- The spawning thread is a member of a kernel of this package that runs, of package 1's, or one more than those placed. -/
def parent (f : Slot → Slot) : State := { mine (podded (spawner 1)) f with kernels := [(0, { state := 3 })] }
theorem witness_ThreadsAreControlled_members :
    ((let s := parent fun sl => { sl with kernel := 0x80000000 }; s.freeSlot s.here = some 1 ∧ s.freeWindow s.here 16 = some 128 ∧ s.me.phase = .ready ∧ s.me.extra = false ∧ s.me.kpkg = none ∧ s.me.countAt = none ∧ s.kernelLive (setFld s.me.kernel 32 2 0) = true)) ∧
    ((let s := parent fun sl => { sl with kernel := 0x80000000, extra := true }; s.me.extra = true ∧ s.me.kpkg = none ∧ s.kernelLive s.me.kernel = true)) ∧
    ((let s := parent fun sl => { sl with kernel := 0x80000000, countAt := some 1 }; s.me.countAt ≠ none ∧ s.me.kpkg = none ∧ s.kernelLive s.me.kernel = true)) ∧
    ((let s := parent fun sl => { sl with kernel := 0x80000000, kpkg := some 1 }; s.me.kpkg = some 1 ∧ kernelV s.me.kernel = true ∧ s.isUnreachable s.here 1 = false)) ∧
    spillable.undisturbed false 0x42800 2048 = true ∧
    (unspillable spillable 0 = true ∧ unspillable spillable 63 = true ∧ unspillable spillable 5 = false) := by
  and_intros <;> decide +kernel

/-- Destinations that can be written; a fault packet at a full queue, and behind a call that waits. -/
theorem witness_PagesAreMappedMovedAndWaitedFor_destinations :
    (pageRegs.destReady (3 : RegCode).toNat = .ok () ∧ (paged 0x50007 pageRegs).destReady (5 : RegCode).toNat = .ok () ∧ pageRegs.destReady (7 : RegCode).toNat = .ok ()) ∧
    (∀ w ∈ (base.coreRec 0).waiting, waitingCall w = false) ∧
    64 ≤ ((own base fun r => { r with tasks := fullTasks }).coreRec 0).tasks.length ∧
    (∃ w ∈ ((own base fun r => { r with waiting := [ask (.callat oneTask)] }).coreRec 0).waiting, waitingCall w = true) := by
  and_intros <;> decide +kernel

/-- A whole barrier packet that waits for a credit, and finds one. -/
theorem witness_LinksCarryCells_credited :
    ((let p : Partial := { cell := { cell with body := .barrier .arrive 0 1 0 8 }, got := [0] }; let s : State := { linkRegs with partials := [p] }; let k := (40 + State.nodeDie p.cell.dst) * 4096 + State.classOf p.cell.dst
      s.partials = [p] ∧ p.cell.count ≤ p.got.length ∧ p.cell.ord = false ∧ p.cell.body = .barrier .arrive 0 1 0 8 ∧ Store.get 0 s.credits k < s.rqs ∧
        s.rqs ≤ Store.get 0 ({ s with credits := [(k, s.rqs)] } : State).credits k)) := by
  decide +kernel

/-- A codelet of a guest slot; a departing thread's quotas. -/
theorem witness_ThreadsMigrateAndContextsTurn_quotas :
    (guest.me.codelet = false ∧ (mine guest fun sl => { sl with codelet := true }).me.codelet = true) ∧
    (guest.canInject (0 / 64) (guest.carriers (guest.slot 0).ctx (0 / 64) (.pkg 1)) = true) := by
  and_intros <;> decide +kernel

/-! ## One step on small states: expected values from the spec's worked examples or computed by hand from its rules -/

/-- Register 3 after an instruction that completes. -/
def leaves (i : Instr) (s : State) (v : Word) : Bool := after (exec i s) fun t => t.reg 0 3 == v
/-- The thread has trapped to its handler with this cause. -/
def trapsWith (i : Instr) (s : State) (cause : Nat) : Bool := after (exec i s) fun t => (t.slot 0).trapCause == cause

/-- The edge cases of R80. -/
theorem test_edge_division : leaves (.div 3 1 2) (regs [(1, 0x8000000000000000), (2, 0xFFFFFFFFFFFFFFFF)]) 0x8000000000000000 = true ∧
    leaves (.rem 3 1 2) (regs [(1, 0x8000000000000000), (2, 0xFFFFFFFFFFFFFFFF)]) 0 = true ∧
    leaves (.divz 3 1 2) (regs [(1, 7)]) 0xFFFFFFFFFFFFFFFF = true ∧ leaves (.remz 3 1 2) (regs [(1, 7)]) 7 = true ∧
    leaves (.rem 3 1 2) (regs [(1, 0xFFFFFFFFFFFFFFF9), (2, 2)]) 0xFFFFFFFFFFFFFFFF = true := by decide +kernel

/-- The edge cases of R80. -/
theorem test_edge_shift_multiply_extend : leaves (.sra 3 1 2) (regs [(1, 0x8000000000000010), (2, 68)]) 0xF800000000000001 = true ∧
    leaves (.mulh 3 1 2) (regs [(1, 0xFFFFFFFFFFFFFFFF), (2, 2)]) 0xFFFFFFFFFFFFFFFF = true ∧
    leaves (.mulhz 3 1 2) (regs [(1, 0xFFFFFFFFFFFFFFFF), (2, 2)]) 1 = true ∧
    leaves (.sext 3 1 2) (regs [(1, 0x80), (2, 7)]) 0xFFFFFFFFFFFFFF80 = true := by decide +kernel

theorem test_add_wraps : leaves (.add 3 1 2) (regs [(1, 0xFFFFFFFFFFFFFFFF), (2, 3)]) 2 = true := by decide +kernel
theorem test_addi_negative : leaves (.addi 3 3 0xFFF) (regs [(3, 0)]) 0xFFFFFFFFFFFFFFFF = true := by decide +kernel
theorem test_lui_negative : leaves (.lui 3 0x40000) base 0xFFFFFFFFC0000000 = true := by decide +kernel
theorem test_write_of_g0_discarded : after (exec (.addi 0 0 5) base) (fun t => t.reg 0 0 == 0 && (t.slot 0).pc == 4) = true := by decide +kernel

/-- A register awaited empty parks its reader without moving the pc (R73). -/
theorem test_empty_source_parks : after (exec (.add 3 1 2) (base.setRegFull 0 1 false)) (fun t =>
    (t.slot 0).phase == .parked && (t.slot 0).park == .register 1 && (t.slot 0).pc == 0) = true := by decide +kernel

/-- The absolute and the relative form of one word (the example at R23). -/
theorem test_addresses_of_one_word : (State.resolve base 0 base.rights 0x00001B1300042400 8 = .ok (.spad 883 0x42400)) ∧
    (State.resolve base 817 base.rights 0x2000020200042400 8 = .ok (.spad 883 0x42400)) :=
  ⟨ok_of (by decide +kernel), ok_of (by decide +kernel)⟩

/-- The example at R10: die 3, cluster 26, snake position 28 of the core at (19, 27). -/
theorem test_place_of_a_core : dieOf (coreAt 19 27) = 3 ∧ clusterOf (coreAt 19 27) = 26 ∧ snakeOf (coreAt 19 27) = 28 ∧
    coreOfSnake 26 28 = coreAt 19 27 := by decide

theorem test_branch_back : after (exec (.bz 5 0xFFFD) (mine base fun sl => { sl with pc := 0x40 })) (fun t => (t.slot 0).pc == 0x34) = true := by decide +kernel
theorem test_branch_not_taken : after (exec (.bnz 5 0xFFFD) (mine base fun sl => { sl with pc := 0x40 })) (fun t => (t.slot 0).pc == 0x44) = true := by decide +kernel
theorem test_jump_links : after (exec (.jmp 3 2) (mine base fun sl => { sl with pc := 0x40 })) (fun t =>
    (t.slot 0).pc == 0x48 && (t.reg 0 3).toNat % 2 ^ 21 == 0x44) = true := by decide +kernel

theorem test_store_then_load : after (exec (.st 1 2 2 1) (regs [(1, 0xFFFFFFFF80000001), (2, 0x2000000000001000)])) (fun t =>
    t.mem.readN 0x1004 4 == 0x80000001 && t.mem.readN 0x1000 4 == 0 && t.mem.readN 0x1008 4 == 0 &&
      leaves (.ld 3 2 2 1) t 0xFFFFFFFF80000001 && leaves (.ldz 3 2 2 1) t 0x80000001) = true := by decide +kernel
theorem test_load_misaligned_traps : trapsWith (.ld 3 2 3 0) (regs [(2, 0x2000000000001004)]) 3 = true := by decide +kernel
theorem test_load_outside_grid_traps : trapsWith (.ld 3 2 3 0) (regs [(2, 0x0000280000001000)]) 4 = true := by decide +kernel

theorem test_stf_fills_lds_empties : after (exec (.sts 1 2 0 0) ({ regs [(1, 6), (2, 0x2000000000001000)] with memFull := [(0x1000, false)] } : State)) (fun t =>
    t.isFull 0x1000 && t.mem.readN 0x1000 8 == 6) = true ∧
  after (exec (.lds 3 2 0 0) (regs [(2, 0x2000000000001000)])) (fun t => !t.isFull 0x1000) = true := by decide +kernel
theorem test_fadd_returns_old : after (exec (.atomFadd 3 2 0 0) ({ regs [(2, 0x2000000000001000), (3, 5)] with mem := [(0x1000, 7)] } : State)) (fun t =>
    t.reg 0 3 == 7 && t.mem.readN 0x1000 8 == 12) = true := by decide +kernel

/-- The steps of the example at R48: sa * sb, part * s and the promotion, with the inexact flag where the example sets it. -/
theorem test_promotion_example : fpMul 1 0 0x3DCCCCCD 0x40400000 = (0x3E99999A, 0x1000) ∧ fpMul 1 0 0x42C00000 0x3E99999A = (0x41E66667, 0) ∧
    fpAdd 1 0 0x41200000 0x41E66667 = (0x421B3334, 0x1000) := by decide +kernel
/-- Exact FP32 results: 1 + 2, 3 / 2, sqrt 4, 2 * 3 + 1; infinity minus infinity is invalid and gives the canonical NaN (R35, R36). -/
theorem test_float_operations : fpAdd 1 0 0x3F800000 0x40000000 = (0x40400000, 0) ∧ fpDiv 1 0 0x40400000 0x40000000 = (0x3FC00000, 0) ∧
    fpSqrt 1 0 0x40800000 = (0x40000000, 0) ∧ fpFma 1 0 0x40000000 0x40400000 0x3F800000 = (0x40E00000, 0) ∧
    fpSub 1 0 0x7F800000 0x7F800000 = (0x7FC00000, 0x100) := by decide +kernel

theorem test_trap_enters_handler : after (exec (.trap 0x205) (mine base fun sl => { sl with pc := 0x40, trapVec := 0x800, trapPc := 0 })) (fun t =>
    (t.slot 0).pc == 0x800 && (t.slot 0).intrap && (t.slot 0).trapCause == 0x10 && (t.slot 0).trapInfo == 0x205) = true := by decide +kernel
theorem test_halt_frees_slot : after (exec .halt base) (fun t => (t.slot 0).phase == .free || (t.slot 0).phase == .draining) = true := by decide +kernel
theorem test_fence_waits_nothing : after (exec (.fence 0 1 0) base) (fun t => (t.slot 0).pc == 4) = true := by decide +kernel
/-- A pointer of stride 8 with post-increment is set; a reserved bit traps (R107, R109). -/
theorem test_pset : after (exec (.pset 2 1) (regs [(1, 0x0100000800001000)])) (fun t => leaves (.pget 2 3) t 0x0100000800001000) = true ∧
    trapsWith (.pset 2 1) (regs [(1, 0x2000000000001000)]) 1 = true := by decide +kernel

/-- The invariant of memory holds at reset. -/
theorem reset_inv : State.reset.Inv := rfl

end Sys2Proof.Tests
end

/-! ## Every step is an instruction, an event or a cycle (O3) -/

namespace Sys2Proof.Machine

/-- An action is what exec gives some instruction or event. -/
def IsExec (a : Action) : Prop := ∃ i, a = exec i

theorem IsExec.wf {a : Action} (h : IsExec a) (s : State) (hw : s.mem.wf = true) : KeepsNext (a s) := by
  obtain ⟨i, rfl⟩ := h
  exact exec_wf i s hw

/-- Every action of a list is what exec gives. -/
def AllExec (l : List Action) : Prop := ∀ a ∈ l, IsExec a

theorem allExec_nil : AllExec [] := by simp [AllExec]

theorem AllExec.append {l m : List Action} (hl : AllExec l) (hm : AllExec m) : AllExec (l ++ m) :=
  List.forall_mem_append.mpr ⟨hl, hm⟩

theorem AllExec.ite {p : Prop} [Decidable p] {l m : List Action} (hl : AllExec l) (hm : AllExec m) : AllExec (if p then l else m) := by
  split
  · exact hl
  · exact hm

theorem allExec_map {α : Type} (f : α → Instr) (l : List α) : AllExec (l.map fun x => exec (f x)) := by
  simp only [AllExec, List.mem_map]
  rintro _ ⟨x, -, rfl⟩
  exact ⟨f x, rfl⟩

theorem allExec_flatMap {α : Type} {f : α → List Action} {l : List α} (h : ∀ x, AllExec (f x)) : AllExec (l.flatMap f) := by
  simp only [AllExec, List.mem_flatMap]
  rintro a ⟨x, -, ha⟩
  exact h x a ha

/-- The listed instructions and events are what exec gives. -/
theorem allExec_instrs (is : List Instr) : AllExec (is.map exec) := allExec_map id is

/-- The events of a message. -/
theorem messageEvents_allExec (m : Msg) : AllExec (messageEvents m) := by
  have two (is : List Instr) : AllExec ([execRequestStart m.id, execCreditReturn m.id] ++ is.map exec) :=
    (allExec_instrs [.requestStart m.id, .creditReturn m.id]).append (allExec_instrs is)
  unfold messageEvents
  generalize m.id = n at *
  cases m.body with
  | load | store | line => exact two [.inboundRequest n]
  | atom => exact two [.atomRequest n]
  | fe => exact two [.feRemoteRequest n]
  | decr => exact two [.decrRequest n]
  | ticket => exact two [.ticketRequest n]
  | rqfill => exact two [.rqfillRequest n]
  | callat => exact two [.callatAccept n]
  | fault => exact two [.faultPacket n]
  | value => exact two [.loadReply n]
  | ack => exact two [.storeAck n]
  | feAnswer => exact two [.feAnswer n]
  | cancel => exact two [.cancelRequest n]
  | cancelled => exact two [.cancelledAnswer n]
  | retry => exact two [.retryAnswer n]
  | credit | fabricAnswer => exact two []
  | echo => exact two [.echo n]
  | echoAnswer => exact two [.echoAnswer n]
  | lineData => exact two [.lineReply n]
  | deliver => exact two [.delivery n]
  | delivered => exact two [.deliveryAnswer n]
  | revoke | revoked => exact two [.revokeRequest n]
  | forward | forwardAck => exact two [.forwardedValue n]
  | retarget => exact two [.retargetNotice n]
  | noticeAck => exact two [.retargetNotice n, .destroyNotice n]
  | returned => exact two [.returnNotice n]
  | destroy => exact two [.destroyNotice n]
  | heat => exact two [.heatUpdate n]
  | pwake => exact two [.pwake n]
  | wake => exact two [.pageWake n]
  | fabric | fabricAt => exact two [.fabricRequest n]
  | migrateAsk | homeAsk | migrateAnswer => exact two [.migrationRequest n]
  | migrant => exact two [.migrationArrive n, .homeArrive n]
  | cells => exact two [.cellReservation n]
  | linkw => exact two [.linkwRequest n]
  | barrier | engineArrive => exact two [.barrierOperation n]
  | barrierAnswer | engineAnswer => exact two [.barrierReply n]
  | launch => exact two [.launchAccept n]
  | kernelQuery => exact two [.doneQuery n]
  | join | joinAck => exact two [.join n]
  | leave => exact two [.leave n]
  | triggerNotice => exact two [.triggerNotice n]
  | guestRetired => exact two [.guestRetireNotice n]
  | run => exact two [.copyrRunApply n]
  | multicast => exact two [.multicastPacket n]
  | invalidate => exact two [.invalidation n]
  | invalidated => exact two [.invalidationAck n]
  | region => exact two [.recordOperation n]
  | regionReply => exact two [.regionReply n]
  | move => exact two [.recordMove n]
  | accept => exact two [.recordAccept n]
  | refuse => exact two [.recordRefuse n]
  | commit => exact two [.recordCommit n]
  | entry | entryAck | entryFree | entryFreed => exact two [.entryUpdate n]
  | arm => exact two [.queryArm n]
  | scan => exact two [.queryScan n]
  | lower => exact two [.queryRelease n]
  | domain => exact two [.domainDescriptor n]
  | domainDone => exact two [.rdomAnswer n]
  | copyAnswer => exact two [.copyFinish _]

/-- The events of a core's units. -/
theorem coreEvents_allExec (c : Nat) (r : CoreRec) : AllExec (coreEvents c r) := by
  unfold coreEvents
  refine AllExec.append (.append (.append (.append (.append ?waiting ?held) ?tasks) ?vector) ?matrix) ?copy
  case waiting => exact allExec_map (fun m : Msg => .waitStoreServe m.id) _
  case held => exact allExec_map (fun h => Instr.callatResend h.1.id) r.held
  case tasks => exact .ite allExec_nil (allExec_instrs [.taskDispatch c])
  case vector => exact .ite allExec_nil (allExec_instrs [.vectorExecute c, .vectorFinish c, .sequencerExecute c, .sequencerFinish c])
  case matrix =>
    exact .ite allExec_nil (allExec_instrs [.mzero c, .mma c, .mmas c, .mmad c, .mstore c, .mloadc c, .bload c, .brot c, .brotWaitLimit c,
      .tcopy c, .tgather c, .tscatter c, .tileFinish c false, .tileFinish c true])
  case copy => exact .ite (allExec_instrs [.copyFinish c]) allExec_nil

/-- The two events that end a wait past its limit. -/
theorem waitLimits_allExec (uid : Nat) : AllExec [execFeWaitLimit uid, execBarrierWaitLimit uid] :=
  allExec_instrs [.feWaitLimit uid, .barrierWaitLimit uid]

/-- The events of a slot. -/
theorem slotEvents_allExec (t : Nat) (sl : Slot) : AllExec (slotEvents t sl) := by
  unfold slotEvents
  refine AllExec.append (.append (.append ?retire ?wait) ?leaving) ?yield
  case retire => exact .ite (allExec_instrs [.slotRetire t]) allExec_nil
  case wait => exact .ite (waitLimits_allExec sl.uid) allExec_nil
  case leaving => exact .ite (allExec_instrs [.migrationDeparture sl.uid]) allExec_nil
  case yield => exact .ite (allExec_instrs [.yieldExpiry t]) allExec_nil

/-- The events of a kernel. -/
theorem kernelEvents_allExec (s : State) (k : Nat) (r : KernelRec) : AllExec (kernelEvents s k r) := by
  unfold kernelEvents
  refine AllExec.append (.append ?placing ?running) ?queued
  case placing => exact .ite ((allExec_map (.placementReserve k) _).append (allExec_instrs [.imageCopy k, .placementCommit k])) allExec_nil
  case running =>
    exact .ite (((allExec_map (.statusReport k) _).append (allExec_map (.triggerReport k) _)).append (allExec_instrs [.kernelRetire k])) allExec_nil
  case queued => exact .ite (allExec_instrs [.kernelSchedule]) allExec_nil

/-- Every event that may be due is what exec gives some event of the part. -/
theorem dueEvents_allExec (s : State) : AllExec (dueEvents s) := by
  unfold dueEvents
  refine AllExec.append (.append (.append (.append (.append (.append (.append (.append (.append (.append (.append (.append
    ?net ?cores) ?slots) ?evicted) ?spills) ?pages) ?kernels) ?context) ?widths) ?frames) ?notices) ?pods) ?waves
  case net => exact allExec_flatMap messageEvents_allExec
  case cores => exact allExec_flatMap fun e => coreEvents_allExec e.1 e.2
  case slots => exact allExec_flatMap fun e => slotEvents_allExec e.1 e.2
  case evicted => exact allExec_flatMap fun e => .ite (waitLimits_allExec e.rest.uid) allExec_nil
  case spills => exact allExec_flatMap fun o => allExec_instrs [.spillComplete o.id, .resumeComplete o.id]
  case pages => exact allExec_flatMap fun o => allExec_instrs [.pmoveCopyDone o.id, .pmapComplete o.id, .pheatComplete o.id]
  case kernels => exact allExec_flatMap fun e => kernelEvents_allExec s e.1 e.2
  case context => exact .ite (allExec_instrs [.ctxActivate, .ctxDrain, .ctxCommandComplete]) allExec_nil
  case widths => exact allExec_map .linkWidthChange _
  case frames => exact .ite (allExec_map .linkFrame _) allExec_nil
  case notices => exact .ite allExec_nil (allExec_instrs [.linkNotice])
  case pods => exact .ite allExec_nil (allExec_instrs [.podHomeLost])
  case waves => exact allExec_map .frameCloseWave _

theorem dueEvent_isExec {s : State} {a : Action} (h : dueEvent s = some a) : IsExec a :=
  dueEvents_allExec s a (List.mem_of_find?_eq_some h)

/-- A step keeps memory's canonical form, whichever turn it takes. -/
theorem step_wf (s : State) (hw : s.mem.wf = true) : KeepsNext (step s) := by
  unfold step
  split
  · exact runTurn_wf _ _ hw
  · split
    next hdue => exact (dueEvent_isExec hdue).wf s hw
    · exact runCycle_wf _ _ hw

/-- Settles O3: a step runs an instruction, an event or a cycle, and each of them keeps the canonical form. -/
theorem stepKeepsMemoryCanonical : Obligations.StepKeepsMemoryCanonical := by
  unfold Obligations.StepKeepsMemoryCanonical
  exact fun s t hs h => step_wf s hs t h

end Sys2Proof.Machine

/-! ## Physical keys, loads and stores of the own scratchpad (O20, O21) -/

namespace Sys2Proof.Machine

open State Sys2Proof.Claims

/-! ### Keys -/

theorem keyCore_spadKey {c o : Nat} (ho : o < 0x200000) : keyCore (spadKey c o) = c := by
  unfold keyCore spadKey; omega

theorem keyOff_spadKey {c o : Nat} (ho : o < 0x200000) : keyOff (spadKey c o) = o := by
  unfold keyOff spadKey; omega

theorem isBulk_spadKey {c o : Nat} (hc : c < 1280) (ho : o < 0x200000) : isBulk (spadKey c o) = false :=
  decide_eq_false (by unfold spadKey; omega)

theorem keyNode_spadKey {c o : Nat} (hc : c < 1280) (ho : o < 0x200000) : keyNode (spadKey c o) = .core c := by
  simp [keyNode, isBulk_spadKey hc ho, keyCore_spadKey ho]

/-! ### Extension -/

theorem signed_eq_toInt (v w : Nat) : signed v w = (BitVec.ofNat w v).toInt := by
  simp only [signed, BitVec.toInt, BitVec.toNat_ofNat]

theorem extend_signed (n v : Nat) : extend true n v = (BitVec.ofNat (8 * n) v).signExtend 64 := by
  simp only [extend, if_true, signed_eq_toInt, ofInt, BitVec.signExtend]

theorem extend_zero (n v : Nat) : extend false n v = BitVec.ofNat 64 v := rfl

/-- Byte i of a value read is the byte at that place, little-endian (R3). -/
theorem Memory.readN_byte (m : Memory) (k n i : Nat) (h : i < n) : m.readN k n / 256 ^ i % 256 = (m.byte (k + i)).toNat := by
  induction n generalizing k i with
  | zero => omega
  | succ n ih =>
    have hb := (m.byte k).isLt
    rw [Memory.readN]
    cases i with
    | zero => simp only [Nat.pow_zero, Nat.add_zero]; omega
    | succ i =>
      rw [Nat.pow_succ', ← Nat.div_div_eq_div_mul,
        show ((m.byte k).toNat + 256 * m.readN (k + 1) n) / 256 = m.readN (k + 1) n by omega, ih (k + 1) i (by omega)]
      congr 2; omega

/-! ### Loads -/

/-- A fault of a memory access outside the movement slot is the instruction's own stop (R145 speaks of slot 63 alone). -/
theorem State.memStop_of_num (s : State) (operand : Nat) (e : Stop) (h : s.num ≠ 63) : s.memStop operand e = .error e := by
  simp [State.memStop, h]

/-- A load of the own scratchpad completes in its turn (R95). -/
theorem load_local {word : Word} {d a : RegCode} {size : BitVec 2} {off : BitVec 10} {sx : Bool} {s : State} {x : Word} {o : Nat}
    (hx : s.operands word [a.toNat] [d.toNat] = .ok [x]) (hd : s.destReady d.toNat = .ok ()) (hc : s.here < 1280) (ho : o < 0x180000)
    (hr : s.resolve s.here s.rights (accessAddr x off (2 ^ size.toNat)) (2 ^ size.toNat) = .ok (.spad s.here o)) :
    load word d a size off sx s = .ok (s.complete [a.toNat] d.toNat
      (extend sx (2 ^ size.toNat) (s.mem.readN (s.here * 0x200000 + o) (2 ^ size.toNat)))) := by
  have hr' : s.resolve s.here s.rights (arg [x] 0 + imm off * ofNat (sizeOf2 size)) (sizeOf2 size) = .ok (.spad s.here o) := hr
  simp only [load, hx, hr', loadAt, hd, keyNode_spadKey hc (show o < 0x200000 by omega), if_true]
  rfl

/-- A load whose address does not resolve stops there, outside the movement slot (R93). -/
theorem load_unresolved {word : Word} {d a : RegCode} {size : BitVec 2} {off : BitVec 10} {sx : Bool} {s : State} {x : Word} {e : Stop}
    (hx : s.operands word [a.toNat] [d.toNat] = .ok [x]) (hn : s.num ≠ 63)
    (hr : s.resolve s.here s.rights (accessAddr x off (2 ^ size.toNat)) (2 ^ size.toNat) = .error e) :
    load word d a size off sx s = .error e := by
  have hr' : s.resolve s.here s.rights (arg [x] 0 + imm off * ofNat (sizeOf2 size)) (sizeOf2 size) = .error e := hr
  simp only [load, hx, hr', memStop_of_num s 5 e hn]

theorem exec_ld (d a : RegCode) (sz : BitVec 2) (off : BitVec 10) (s : State) :
    exec (.ld d a sz off) s = s.finish (load (Instr.ld d a sz off).word d a sz off true s) := rfl
theorem exec_ldz (d a : RegCode) (sz : BitVec 2) (off : BitVec 10) (s : State) :
    exec (.ldz d a sz off) s = s.finish (load (Instr.ldz d a sz off).word d a sz off false s) := rfl

/-- Settles O20: a load of the own scratchpad completes with the extended value of its bytes, and one that does not resolve traps. -/
theorem localLoadsExtendTheBytes : Obligations.LocalLoadsExtendTheBytes := by
  unfold Obligations.LocalLoadsExtendTheBytes
  refine ⟨?ld, ?ldz, Memory.readN_byte, Memory.readN_lt, ?faults⟩
  case ld =>
    intro d a sz off s x o hx hd hc ho hr
    rw [exec_ld, load_local hx hd hc ho hr, finish_ok, extend_signed]
  case ldz =>
    intro d a sz off s x o hx hd hc ho hr
    rw [exec_ldz, load_local hx hd hc ho hr, finish_ok, extend_zero]
  case faults =>
    intro d a sz off s x c v hn hr
    constructor
    · intro hx
      rw [exec_ld, load_unresolved hx hn hr, finish_error, stop_trap]
    · intro hx
      rw [exec_ldz, load_unresolved hx hn hr, finish_error, stop_trap]

end Sys2Proof.Machine

/-! ## Stores of the own scratchpad, and what they leave undefined (O21) -/

namespace Sys2Proof.Machine

open State Sys2Proof.Claims

/-! ### What a write leaves unchanged -/

@[simp] theorem State.write_memFull (s : State) (key n v : Nat) : (s.write key n v).memFull = s.memFull := by rw [write_frame]
@[simp] theorem State.write_regs (s : State) (key n v : Nat) : (s.write key n v).regs = s.regs := by rw [write_frame]
@[simp] theorem State.write_regFull (s : State) (key n v : Nat) : (s.write key n v).regFull = s.regFull := by rw [write_frame]
@[simp] theorem State.write_names (s : State) (key n v : Nat) : (s.write key n v).names = s.names := by rw [write_frame]
@[simp] theorem State.write_net (s : State) (key n v : Nat) : (s.write key n v).net = s.net := by rw [write_frame]
@[simp] theorem State.write_slots (s : State) (key n v : Nat) : (s.write key n v).slots = s.slots := by rw [write_frame]
@[simp] theorem State.write_cores (s : State) (key n v : Nat) : (s.write key n v).cores = s.cores := by rw [write_frame]
@[simp] theorem State.write_cur (s : State) (key n v : Nat) : (s.write key n v).cur = s.cur := by rw [write_frame]
@[simp] theorem State.write_slot (s : State) (key n v t : Nat) : (s.write key n v).slot t = s.slot t := by rw [write_frame]; rfl
@[simp] theorem State.write_me (s : State) (key n v : Nat) : (s.write key n v).me = s.me := by rw [write_frame]; rfl

@[simp] theorem State.consume_memFull (s : State) (l : List Nat) : (s.consume l).memFull = s.memFull := by rw [consume_frame]
@[simp] theorem State.consume_dirty (s : State) (l : List Nat) : (s.consume l).dirty = s.dirty := by rw [consume_frame]

theorem State.write_byte_outside (s : State) {key n k : Nat} (v : Nat) (h : k < key ∨ key + n ≤ k) :
    (s.write key n v).mem.byte k = s.mem.byte k := by
  rw [write_mem]; exact Memory.byte_writeN_outside _ _ _ _ _ h

/-- A write to a scratchpad sets the DIRTY bit of its region alone (R152). -/
theorem State.write_dirty_spad (s : State) {c o : Nat} (n v k : Nat) (hc : c < 1280) (ho : o < 0x180000) :
    Store.get false (s.write (spadKey c o) n v).dirty k = if k = c * 24 + o / 0x10000 then true else Store.get false s.dirty k := by
  have ho' : o < 0x200000 := by omega
  simp only [State.write, State.markDirty, isBulk_spadKey hc ho', Bool.false_eq_true, if_false, keyCore_spadKey ho', keyOff_spadKey ho',
    show o / 0x10000 % 24 = o / 0x10000 by omega, Store.get_set]

/-! ### What a write leaves undefined -/

@[simp] theorem State.modMatrix_mem (s : State) (c : Nat) (f : Matrix → Matrix) : (s.modMatrix c f).mem = s.mem := rfl
@[simp] theorem State.coreRec_freed (s : State) (n c : Nat) : (s.freed n).coreRec c = s.coreRec c := rfl
@[simp] theorem State.spoilAcc_mem (s : State) (c : Nat) : (s.spoilAcc c).mem = s.mem := rfl
@[simp] theorem State.spoilAcc_slots (s : State) (c : Nat) : (s.spoilAcc c).slots = s.slots := rfl
@[simp] theorem State.spoilAcc_evicted (s : State) (c : Nat) : (s.spoilAcc c).evicted = s.evicted := rfl
@[simp] theorem State.modMatrix_slots (s : State) (c : Nat) (f : Matrix → Matrix) : (s.modMatrix c f).slots = s.slots := rfl
@[simp] theorem State.modMatrix_evicted (s : State) (c : Nat) (f : Matrix → Matrix) : (s.modMatrix c f).evicted = s.evicted := rfl

/-- What each of a row of steps keeps, they keep together. -/
theorem foldl_keeps {α β : Type} (g : State → β) {f : State → α → State} (l : List α) (h : ∀ a ∈ l, ∀ x : State, g (f x a) = g x) (s : State) :
    g (l.foldl f s) = g s := by
  induction l generalizing s with
  | nil => rfl
  | cons a l ih => rw [List.foldl_cons, ih (fun b hb => h b (List.mem_cons_of_mem a hb)), h a List.mem_cons_self]

theorem State.freeBytes_byte_outside (s : State) {key n k : Nat} (h : ¬ (key ≤ k ∧ k < key + n)) :
    (s.freeBytes key n).mem.byte k = s.mem.byte k := by
  unfold State.freeBytes
  refine foldl_keeps (·.mem.byte k) _ (fun i hi x => ?_) s
  have := List.mem_range.mp hi
  exact write_byte_outside x _ (by omega)

theorem State.freeBrick_byte_outside (s : State) (c : Nat) (e : Domain × Nat) {k : Nat}
    (h : ¬ (spadKey c (e.1.mapOff + 2 * e.2) ≤ k ∧ k < spadKey c (e.1.mapOff + 2 * e.2) + 2)) :
    (s.freeBrick c e).mem.byte k = s.mem.byte k := by
  unfold State.freeBrick
  rw [modCore_mem, write_byte_outside _ _ (by omega), freed_mem]

/-- The bytes that become undefined are those of the records, entries and words touched (R330, R362). -/
theorem State.disturb_byte_outside (s : State) (instr : Bool) {key n k : Nat} (h : ¬ TouchedBy s key n k) :
    (s.disturb instr key n).mem.byte k = s.mem.byte k := by
  obtain ⟨-, hrec, hbrick, hseq⟩ : _ ∧ _ ∧ _ ∧ _ := by simpa only [TouchedBy, not_or] using h
  unfold State.disturb
  split
  · rfl
  simp only [apply_ite State.mem, spoilAcc_mem, modMatrix_mem, ite_self]
  rw [foldl_keeps (·.mem.byte k) _ fun e he x => freeBrick_byte_outside x _ e fun hk => hbrick ⟨e, he, hk⟩]
  refine foldl_keeps (·.mem.byte k) _ (fun r hr x => freeBytes_byte_outside x ?_) s
  rcases List.mem_append.mp hr with hr | hr
  · exact fun hk => hrec ⟨r, hr, hk⟩
  · split at hr
    next hs =>
      obtain rfl := List.mem_singleton.mp hr
      simp only [Bool.and_eq_true] at hs
      intro hk
      refine hseq ⟨hs.2, hk.1, ?_⟩
      simp only [spadKey] at hk ⊢
      omega
    next => cases hr

theorem touchedBy_write (s : State) (key n v k m j : Nat) : TouchedBy (s.write key n v) k m j ↔ TouchedBy s k m j := by
  rw [write_frame]; rfl

/-- An instruction's store keeps every byte that it does not touch. -/
theorem State.store_byte_outside (s : State) {key n k : Nat} (v : Nat) (h : ¬ TouchedBy s key n k) :
    (s.store key n v).mem.byte k = s.mem.byte k := by
  unfold State.store
  rw [disturb_byte_outside _ _ (mt (touchedBy_write s key n v key n k).mp h)]
  have : ¬ (key ≤ k ∧ k < key + n) := fun hk => h (.inl hk)
  exact write_byte_outside s v (by omega)

/-! ### An accumulator that becomes undefined -/

/-- Entries written one after another by number. -/
theorem Store.get_foldl_set {α : Type} [DecidableEq α] (d : α) (f : Nat → α) (n i : Nat) (h : i < n) :
    Store.get d ((List.range n).foldl (fun (a : Store α) j => Store.set d a j (f j)) []) i = f i := by
  induction n with
  | zero => omega
  | succ n ih =>
    rw [List.range_succ, List.foldl_append, List.foldl_cons, List.foldl_nil, Store.get_set]
    split
    next hi => rw [hi]
    next hi => exact ih (by omega)

/-- Free value i of an accumulator whose first is number f (R139, R5). -/
def freeAcc (f i : Nat) : BitVec 32 := BitVec.ofNat 32 (fld (Config.freeWord (f + i / 2)) (32 * (i % 2)) 32)

/-- An accumulator of n words, free values from number f on. -/
@[irreducible] def freeAccs (n f : Nat) : Store (BitVec 32) := (List.range n).foldl (fun a i => Store.set 0 a i (freeAcc f i)) []

theorem get_freeAccs (n f i : Nat) (h : i < n) : Store.get 0 (freeAccs n f) i = freeAcc f i := by
  rw [freeAccs, Store.get_foldl_set 0 (freeAcc f) n i h]

theorem State.spoilAcc_eq (s : State) (c : Nat) :
    s.spoilAcc c = (s.modMatrix c fun m => { m with acc := freeAccs 2048 s.fresh }).freed 1024 := by
  simp only [freeAccs, freeAcc]; rfl

theorem State.spoilAcc_acc (s : State) (c i : Nat) (h : i < 2048) :
    Store.get 0 ((s.spoilAcc c).coreRec c).matrix.acc i = freeAcc s.fresh i := by
  rw [spoilAcc_eq, coreRec_freed, State.modMatrix, coreRec_modCore_self]
  exact get_freeAccs 2048 s.fresh i h

theorem State.unseenHit_write (s : State) (key n v c o m : Nat) : (s.write key n v).unseenHit c o m = s.unseenHit c o m := by
  rw [write_frame]; rfl

/-- A store that meets a scale word of an MMAS seen by nobody to be over leaves its accumulator undefined at once (R132). -/
theorem State.store_acc_of_unseenHit (s : State) {key n : Nat} (v : Nat) (hb : isBulk key = false) (hn : 0 < n)
    (hu : s.unseenHit (keyCore key) (keyOff key) n = true) :
    ∃ f, ∀ i, i < 2048 → Store.get 0 ((s.store key n v).coreRec (keyCore key)).matrix.acc i = freeAcc f i := by
  rw [← unseenHit_write s key n v] at hu
  unfold State.store
  generalize s.write key n v = x at hu
  have hd : x.undisturbed true key n = false := by
    simp [State.undisturbed, State.scalesHit, hb, hu, Nat.pos_iff_ne_zero.mp hn]
  simp only [State.disturb, hd, hu, Bool.false_eq_true, if_false, Bool.and_self, if_true]
  exact ⟨_, spoilAcc_acc _ _⟩

/-! ### The instruction -/

/-- A store to the own scratchpad writes its bytes and completes in its turn (R95). -/
theorem store_local {word : Word} {d a : RegCode} {size : BitVec 2} {off : BitVec 10} {s : State} {x v : Word} {o : Nat}
    (hx : s.operands word [a.toNat, d.toNat] [] = .ok [x, v]) (hc : s.here < 1280) (ho : o < 0x180000)
    (hr : s.resolve s.here s.rights (accessAddr x off (2 ^ size.toNat)) (2 ^ size.toNat) = .ok (.spad s.here o)) :
    Sys2Proof.Machine.store word d a size off s =
      .ok ((s.store (s.here * 0x200000 + o) (2 ^ size.toNat) v.toNat).completeNone [a.toNat, d.toNat]) := by
  have hr' : s.resolve s.here s.rights (arg [x, v] 0 + imm off * ofNat (sizeOf2 size)) (sizeOf2 size) = .ok (.spad s.here o) := hr
  simp only [Sys2Proof.Machine.store, hx, hr', storeAt, keyNode_spadKey hc (show o < 0x200000 by omega), if_true]
  rfl

theorem exec_st_local {d a : RegCode} {size : BitVec 2} {off : BitVec 10} {s : State} {x v : Word} {o : Nat}
    (hx : s.operands (Instr.st d a size off).word [a.toNat, d.toNat] [] = .ok [x, v]) (hc : s.here < 1280) (ho : o < 0x180000)
    (hr : s.resolve s.here s.rights (accessAddr x off (2 ^ size.toNat)) (2 ^ size.toNat) = .ok (.spad s.here o)) :
    exec (.st d a size off) s = .next ((s.store (s.here * 0x200000 + o) (2 ^ size.toNat) v.toNat).completeNone [a.toNat, d.toNat]) := by
  show s.finish (Sys2Proof.Machine.store (Instr.st d a size off).word d a size off s) = _
  rw [store_local hx hc ho hr, finish_ok]

/-- The issuing slot after an instruction without a result. -/
theorem State.completeNone_me (s : State) (l : List Nat) : (s.completeNone l).me = s.me.advance := by
  simp [State.completeNone]

theorem State.completeNone_slot_ne (s : State) (l : List Nat) {u : Nat} (h : u ≠ s.cur) : (s.completeNone l).slot u = s.slot u := by
  rw [State.completeNone, advance_slot_ne _ (by simpa using h), consume_slot]

/-- Settles O21: the store writes its bytes; what it touches beside them becomes undefined, and nothing else changes. -/
theorem localStoresWriteTheirBytes : Obligations.LocalStoresWriteTheirBytes := by
  unfold Obligations.LocalStoresWriteTheirBytes
  refine ⟨?undisturbed, ?general, fun s key n v => ⟨?plain, ?outside, ?frame, ?acc⟩⟩
  case undisturbed =>
    intro d a sz off s x v o hx hc _ ho hr hu
    refine ⟨_, exec_st_local hx hc ho hr, ?_⟩
    rw [store_of_undisturbed _ _ _ _ hu]
    refine ⟨fun i hi => ?inside, fun k hk => ?beside, ?_⟩
    case inside =>
      rw [State.completeNone, advance_mem, consume_mem, write_mem, Memory.byte_writeN_inside _ _ _ _ _ hi, BitVec.toNat_ofNat]
    case beside =>
      rw [State.completeNone, advance_mem, consume_mem]
      refine write_byte_outside s _ ?_
      by_contra hin
      exact hk (k - (s.here * 0x200000 + o)) (by omega) (by omega)
    refine ⟨?_, ?_, ?_, ?_, ?_, ?dirty, ?slot, ?pc, ?others, ?cores⟩
    case dirty => exact fun k => by rw [State.completeNone, advance_dirty, consume_dirty]; exact write_dirty_spad s _ _ k hc ho
    case slot => rw [completeNone_me, write_me]; rfl
    case pc => intro hl; rw [completeNone_me, write_me, Slot.advance_straight _ hl]
    case others => intro u hu; rw [completeNone_slot_ne _ _ (by simpa using hu), write_slot]
    case cores =>
      intro hq
      rw [State.completeNone, consume_none _ _ (by simpa using hq), advance_cores, write_cores]
    all_goals simp [State.completeNone]
  case general => exact fun d a sz off s x v o hx hc ho hr => exec_st_local hx hc ho hr
  case plain => exact store_of_undisturbed s key n v
  case outside => exact fun k hk => store_byte_outside s v hk
  case frame =>
    have h := store_onlyData s key n v
    unfold OnlyData at h
    rw [h]
    exact ⟨rfl, rfl, rfl, rfl, rfl, rfl⟩
  case acc => exact fun hb hn hu => store_acc_of_unseenHit s v hb hn hu

end Sys2Proof.Machine

/-! ## Tile commands: what R70 turns away (O45) -/

namespace Sys2Proof.Machine

open State Sys2Proof.Claims

theorem TileOp.ofCode_code (o : TileOp) : TileOp.ofCode o.code = some o := by cases o <;> rfl

theorem TileOp.ofCode_eq_none_iff (n : Nat) : TileOp.ofCode n = none ↔ n < 1 ∨ 11 < n := by
  simp only [TileOp.ofCode, List.find?_eq_none, List.mem_cons, List.not_mem_nil, or_false, forall_eq_or_imp, forall_eq, beq_iff_eq, TileOp.code]
  omega

theorem TileOp.code_of_ofCode {n : Nat} {o : TileOp} (h : TileOp.ofCode n = some o) : o.code = n := by
  simpa using List.find?_some h

/-! ### The checks of R70, one by one, by op code -/

theorem tileFormats_iff (c : TileCmd) : tileFormats c = true ↔ TileFormats c.op.code c.fa c.fb c.fc c.fmto := by
  unfold tileFormats TileFormats
  cases c.op with
  | mma | mmas | mmad | bload => simp [TileOp.code, and_assoc, or_assoc]
  | mzero => simp [TileOp.code]; omega
  | mstore | mloadc =>
    simp only [TileOp.code]
    by_cases h1 : c.fc = 1
    · simp [h1]
    · by_cases h0 : c.fc = 0 <;> simp [h1, h0]
  | brot | tcopy | tgather | tscatter => simp [TileOp.code]

theorem tileRounding_iff (n : Nat) : (n == 0 || decide (4 ≤ n)) = true ↔ n ∉ [1, 2, 3] := by
  simp; omega

theorem tileBlocks_iff (o : TileOp) (n : Nat) :
    (if o.multiplies = true then decide (1 ≤ n) else n == 0) = true ↔ ¬ (if o.code ∈ [2, 3, 4] then n = 0 else n ≠ 0) := by
  cases o <;> simp [TileOp.multiplies, TileOp.code, Nat.one_le_iff_ne_zero]

theorem tileBarrier_iff (b i : Nat) :
    (if b = 0 then i == 0 else decide (i < barrierCount b)) = true ↔ ¬ (if b = 0 then i ≠ 0 else [0, 16, 16, 8, 8, 4].getD b 4 ≤ i) := by
  match b with
  | 0 => simp
  | 1 | 2 | 3 | 4 | 5 => simp [barrierCount]
  | n + 6 => simp [barrierCount]

theorem tileHalf_iff (o : TileOp) (n : Nat) :
    (o.multiplies || o == .bload || o == .brot || n == 0) = true ↔ ¬ (o.code ∉ [2, 3, 4, 7, 8] ∧ n ≠ 0) := by
  cases o <;> simp [TileOp.multiplies, TileOp.code]

theorem tileMemoryFormat_iff (o : TileOp) (n : Nat) :
    (o == .mstore || o == .mloadc || n == 0) = true ↔ ¬ (o.code ∉ [5, 6] ∧ n ≠ 0) := by
  cases o <;> simp [TileOp.code]

theorem tileRing_iff (o : TileOp) (len pos : Nat) : (if o = .brot then len != 0 else len == 0 && pos == 0) = true ↔
    ¬ (o.code ≠ 8 ∧ (len ≠ 0 ∨ pos ≠ 0)) ∧ ¬ (o.code = 8 ∧ len = 0) := by
  cases o <;> simp [TileOp.code]

theorem tileAddress_iff (o : TileOp) (w : Word) : (o.addressed || w == 0) = true ↔ ¬ (o.code ∈ [1, 8] ∧ w ≠ 0) := by
  cases o <;> simp [TileOp.addressed, TileOp.tiled, TileOp.multiplies, TileOp.code]

theorem tileIndex_iff (o : TileOp) (w : Word) : (o == .tgather || o == .tscatter || w == 0) = true ↔ ¬ (o.code ∉ [10, 11] ∧ w ≠ 0) := by
  cases o <;> simp [TileOp.code]

theorem tilePitch_iff (o : TileOp) (n row : Nat) : (if o.tiled = true then n % 8 == 0 && decide (row ≤ n) else n == 0) = true ↔
    ¬ (o.code ∉ [2, 3, 4, 5, 6, 7] ∧ n ≠ 0) ∧ ¬ (o.code ∈ [2, 3, 4, 5, 6, 7] ∧ (n % 8 ≠ 0 ∨ n < row)) := by
  cases o <;> simp [TileOp.tiled, TileOp.multiplies, TileOp.code]

/-- The row of a memory tile in bytes, where the formats are the op's (R130). -/
theorem tileRow_eq (c : TileCmd) (ht : c.op.code ∈ [2, 3, 4, 5, 6, 7]) (hf : TileFormats c.op.code c.fa c.fb c.fc c.fmto) :
    c.rowBytes = if c.op.code ∈ [2, 3] then 128 * widthOf c.fa / 8 else if c.op.code = 4 then 256
      else if c.op.code = 7 then 32 * widthOf c.fb / 8 else 32 * widthOf c.fmto / 8 := by
  unfold TileCmd.rowBytes TileCmd.memFmt TileCmd.depth
  cases hop : c.op with
  | mma | mmas | mstore | mloadc | bload => simp [TileOp.multiplies, TileOp.code, Nat.mul_comm]
  | mmad =>
    have hfp64 : c.fa = 0 ∧ c.fb = 0 ∧ c.fc = 0 := by simpa [hop, TileFormats, TileOp.code] using hf
    simp [TileOp.multiplies, TileOp.code, hfp64.1, widthOf]
  | mzero | brot | tcopy | tgather | tscatter => simp [hop, TileOp.code] at ht

/-- The checks of R70 together, in the order in which TurnedAway lists them. -/
theorem tileLegal_eq_true_iff (w0 w2 : Word) (c : TileCmd) : tileLegal w0 w2 c = true ↔
    fld w0 8 3 ∉ [1, 2, 3] ∧ (fld w0 11 1 = 0 ∧ fld w0 29 3 = 0 ∧ fld w0 42 22 = 0 ∧ fld w2 21 43 = 0) ∧
    ¬ (c.op.code ∉ [2, 3, 4, 7, 8] ∧ c.lat ≠ 0) ∧ ¬ (c.op.code ∉ [5, 6] ∧ c.fmto ≠ 0) ∧ ¬ (c.op.code ≠ 8 ∧ (c.rlen ≠ 0 ∨ c.rpos ≠ 0)) ∧
    ¬ (c.op.code ∈ [1, 8] ∧ c.addr0 ≠ 0) ∧ ¬ (c.op.code ∉ [2, 3, 4, 5, 6, 7] ∧ c.stride ≠ 0) ∧ ¬ (c.op.code ∉ [10, 11] ∧ c.addr1 ≠ 0) ∧
    ¬ (if c.op.code ∈ [2, 3, 4] then c.nkb = 0 else c.nkb ≠ 0) ∧
    ¬ (if c.level = 0 then c.bidx ≠ 0 else [0, 16, 16, 8, 8, 4].getD c.level 4 ≤ c.bidx) ∧
    TileFormats c.op.code c.fa c.fb c.fc c.fmto ∧ ¬ (c.op.code = 8 ∧ c.rlen = 0) ∧ c.rlen + 1 + c.rpos ≤ 32 ∧
    ¬ (c.op.code ∈ [2, 3, 4, 5, 6, 7] ∧ (c.stride % 8 ≠ 0 ∨ c.stride < c.rowBytes)) := by
  simp only [tileLegal, Bool.and_eq_true, tileRounding_iff, tileBlocks_iff, tileBarrier_iff, tileHalf_iff, tileMemoryFormat_iff,
    tileRing_iff, tileAddress_iff, tilePitch_iff, tileIndex_iff, tileFormats_iff, decide_eq_true_eq, beq_iff_eq, and_assoc]
  constructor
  · rintro ⟨hrnd, h11, h29, h42, h21, hnkb, hbar, hlat, hfmto, hring, hlen, hsum, haddr, hflat, hpitch, hindex, hf⟩
    exact ⟨hrnd, h11, h29, h42, h21, hlat, hfmto, hring, haddr, hflat, hindex, hnkb, hbar, hf, hlen, hsum, hpitch⟩
  · rintro ⟨hrnd, h11, h29, h42, h21, hlat, hfmto, hring, haddr, hflat, hindex, hnkb, hbar, hf, hlen, hsum, hpitch⟩
    exact ⟨hrnd, h11, h29, h42, h21, hnkb, hbar, hlat, hfmto, hring, hlen, hsum, haddr, hflat, hpitch, hindex, hf⟩

/-- The command that a word names, with what it takes for its rounding mode. -/
theorem tileCmd_eq (s : State) (k b : Nat) (w0 w1 w2 w3 : Word) : tileCmd s k b w0 w1 w2 w3 = (TileOp.ofCode (fld w0 0 8)).map fun o =>
    { tileCommand s k b o w0 w1 w2 w3 with rm := if fld w0 8 3 = 0 then roundingMode s.me.flags else fld w0 8 2 } := rfl

/-- A command word that names op o is legal where R70's list does not turn it away. -/
theorem tileLegal_iff (s : State) (k b rm : Nat) (o : TileOp) (w0 w1 w2 w3 : Word) (ho : o.code = fld w0 0 8) :
    tileLegal w0 w2 { tileCommand s k b o w0 w1 w2 w3 with rm := rm } = true ↔ ¬ TurnedAway s.me.fmt b w0 w1 w2 w3 := by
  have hop : ¬ (o.code < 1 ∨ 11 < o.code) := by
    rw [← TileOp.ofCode_eq_none_iff, TileOp.ofCode_code]; exact Option.some_ne_none o
  have hrow := tileRow_eq { tileCommand s k b o w0 w1 w2 w3 with rm := rm }
  rw [tileLegal_eq_true_iff]
  simp only [TurnedAway, ← ho, hop, false_or]
  simp only [tileCommand, TileCmd.fa, TileCmd.fb, TileCmd.fc] at hrow ⊢
  by_cases hm : o.code ∈ [2, 3, 4, 5, 6, 7]
  · by_cases hf : TileFormats o.code (fld s.me.fmt 0 4) (fld s.me.fmt 4 4) (fld s.me.fmt 8 4) (fld w0 25 4)
    · rw [hrow hm hf]
      simp only [not_or, not_not, ne_eq, Nat.not_lt]
      rfl
    · simp only [hf, false_and, and_false, not_false_eq_true, true_or, or_true, not_true_eq_false]
  · simp only [hm, false_and, or_false, not_or, not_not, ne_eq, Nat.not_lt, not_false_eq_true, and_true]
    rfl

end Sys2Proof.Machine

/-! ## The matrix engine beside the other parts of a core, and threads by number (O45, O47) -/

namespace Sys2Proof.Machine

open State Sys2Proof.Claims

/-! ### A core's matrix engine after an update -/

@[simp] theorem State.matrix_modMatrix_self (s : State) (c : Nat) (f : Matrix → Matrix) : (s.modMatrix c f).matrix c = f (s.matrix c) := by
  simp [State.matrix, State.modMatrix]

theorem State.matrix_modMatrix_ne (s : State) (f : Matrix → Matrix) {c e : Nat} (h : e ≠ c) : (s.modMatrix c f).matrix e = s.matrix e := by
  simp only [State.matrix, State.modMatrix, coreRec_modCore_ne _ _ h]

theorem State.matrix_of_cores {s t : State} (h : t.cores = s.cores) (c : Nat) : t.matrix c = s.matrix c := by
  simp only [State.matrix, State.coreRec, h]

/-- A change of a core that keeps its matrix engine. -/
theorem State.matrix_modCore (s : State) (c e : Nat) (f : CoreRec → CoreRec) (h : ∀ r, (f r).matrix = r.matrix) :
    (s.modCore c f).matrix e = s.matrix e := by
  by_cases he : e = c
  · subst he; simp only [State.matrix, coreRec_modCore_self, h]
  · simp only [State.matrix, coreRec_modCore_ne _ _ he]

@[simp] theorem State.matrix_modMe (s : State) (c : Nat) (f : Slot → Slot) : (s.modMe f).matrix c = s.matrix c := rfl
@[simp] theorem State.matrix_advance (s : State) (c : Nat) : s.advance.matrix c = s.matrix c := rfl
@[simp] theorem State.matrix_parkMe (s : State) (p : Park) (c : Nat) : (s.parkMe p).matrix c = s.matrix c := rfl
@[simp] theorem State.matrix_freed (s : State) (n c : Nat) : (s.freed n).matrix c = s.matrix c := rfl
@[simp] theorem State.matrix_spoilAcc_self (s : State) (c : Nat) : (s.spoilAcc c).matrix c = { s.matrix c with acc := freeAccs 2048 s.fresh } := by
  rw [spoilAcc_eq, matrix_freed, matrix_modMatrix_self]
@[simp] theorem State.matrix_write (s : State) (key n v c : Nat) : (s.write key n v).matrix c = s.matrix c := matrix_of_cores (by simp) c

@[simp] theorem State.matrix_consume (s : State) (l : List Nat) (c : Nat) : (s.consume l).matrix c = s.matrix c := by
  induction l generalizing s with
  | nil => rfl
  | cons v r ih =>
    unfold State.consume
    split
    · rw [ih]; exact matrix_modCore _ _ _ _ fun _ => rfl
    · exact ih s

/-! ### Commands seen to be over -/

@[simp] theorem State.forgetTiles_slots (s : State) (c : Nat) (p : TileCmd → Bool) : (s.forgetTiles c p).slots = s.slots := by
  unfold State.forgetTiles; split <;> rfl
@[simp] theorem State.forgetTiles_mem (s : State) (c : Nat) (p : TileCmd → Bool) : (s.forgetTiles c p).mem = s.mem := by
  unfold State.forgetTiles; split <;> rfl
@[simp] theorem State.forgetTiles_regs (s : State) (c : Nat) (p : TileCmd → Bool) : (s.forgetTiles c p).regs = s.regs := by
  unfold State.forgetTiles; split <;> rfl
@[simp] theorem State.forgetTiles_regFull (s : State) (c : Nat) (p : TileCmd → Bool) : (s.forgetTiles c p).regFull = s.regFull := by
  unfold State.forgetTiles; split <;> rfl
@[simp] theorem State.forgetTiles_me (s : State) (c : Nat) (p : TileCmd → Bool) : (s.forgetTiles c p).me = s.me := by
  unfold State.forgetTiles; split <;> rfl
@[simp] theorem State.forgetTiles_evicted (s : State) (c : Nat) (p : TileCmd → Bool) : (s.forgetTiles c p).evicted = s.evicted := by
  unfold State.forgetTiles; split <;> rfl

/-- The commands that p selects are noted no more; nothing else of the engine changes. -/
theorem State.matrix_forgetTiles_self (s : State) (c : Nat) (p : TileCmd → Bool) :
    (s.forgetTiles c p).matrix c = { s.matrix c with unseen := (s.matrix c).unseen.filter fun q => !p q } := by
  unfold State.forgetTiles
  split
  · rw [matrix_modMatrix_self]
  next h =>
    have hp : ∀ q ∈ (s.matrix c).unseen, (!p q) = true := by
      intro q hq
      simpa using fun hpq => h (List.any_eq_true.mpr ⟨q, hq, hpq⟩)
    rw [List.filter_eq_self.mpr hp]

theorem State.matrix_forgetTiles_ne (s : State) (p : TileCmd → Bool) {c e : Nat} (h : e ≠ c) : (s.forgetTiles c p).matrix e = s.matrix e := by
  unfold State.forgetTiles
  split
  · exact matrix_modMatrix_ne s _ h
  · rfl

/-! ### Writes of agents keep the engine -/

theorem State.matrix_freeBytes (s : State) (key n c : Nat) : (s.freeBytes key n).matrix c = s.matrix c := by
  unfold State.freeBytes
  rw [matrix_freed]
  exact foldl_keeps (State.matrix · c) _ (fun i _ x => matrix_write _ _ _ _ _) s

theorem State.matrix_freeBrick (s : State) (c : Nat) (e : Domain × Nat) (d : Nat) : (s.freeBrick c e).matrix d = s.matrix d := by
  unfold State.freeBrick
  rw [matrix_modCore, matrix_write, matrix_freed]
  exact fun _ => rfl

theorem State.matrix_put (s : State) (key n v c : Nat) : (s.put key n v).matrix c = s.matrix c := by
  unfold State.put State.disturb
  split
  · exact matrix_write _ _ _ _ _
  simp only [Bool.false_and, Bool.false_eq_true, if_false]
  rw [foldl_keeps (State.matrix · c) _ (fun e _ x => matrix_freeBrick x _ e c),
    foldl_keeps (State.matrix · c) _ (fun r _ x => matrix_freeBytes x _ _ c), matrix_write]

theorem State.matrix_putWords (s : State) (key : Nat) (l : List Word) (c : Nat) : (s.putWords key l).matrix c = s.matrix c := by
  induction l generalizing s key with
  | nil => rfl
  | cons w r ih => rw [State.putWords, ih]; exact matrix_put _ _ _ _ _

theorem State.matrix_writeHead (s : State) (key c n : Nat) (sl : Slot) (d : Nat) : (s.writeHead key c n sl).matrix d = s.matrix d := by
  rw [State.writeHead, matrix_put, matrix_putWords, matrix_putWords]

/-! ### Threads by number -/

/-- A change of a thread, in its slot or its image, keeps every matrix engine. -/
@[simp] theorem State.matrix_modThread (s : State) (uid : Nat) (f : Slot → Slot) (c : Nat) : (s.modThread uid f).matrix c = s.matrix c := by
  unfold State.modThread
  split
  · rfl
  · split
    next e _ =>
      have h := matrix_writeHead s e.key e.core e.slot (f (imageSlot s e.key e.rest)) c
      simp only [State.matrix, State.coreRec] at h ⊢
      exact h
    next => rfl

@[simp] theorem State.matrix_wakeThread (s : State) (uid : Nat) (p : Park → Bool) (c : Nat) : (s.wakeThread uid p).matrix c = s.matrix c :=
  matrix_modThread _ _ _ _

@[simp] theorem State.matrix_modThreadCounters (s : State) (uid : Nat) (f : Slot → Slot) (c : Nat) :
    (s.modThreadCounters uid f).matrix c = s.matrix c := by rw [State.modThreadCounters, matrix_wakeThread, matrix_modThread]

theorem State.slot_of_slots {s t : State} (h : t.slots = s.slots) (n : Nat) : t.slot n = s.slot n := by
  simp only [State.slot, h]

theorem State.findThread_of_slots {s t : State} (h : t.slots = s.slots) (uid : Nat) : t.findThread uid = s.findThread uid := by
  simp only [State.findThread, slot_of_slots h, h]

theorem imageSlot_of_mem {s t : State} (h : t.mem = s.mem) (key : Nat) (rest : Slot) : imageSlot t key rest = imageSlot s key rest := by
  have h64 : t.read64 = s.read64 := by funext k; simp only [State.read64, State.read, h]
  have hr : t.read = s.read := by funext k n; simp only [State.read, h]
  unfold imageSlot
  rw [h64, hr]

/-- A thread's record depends on the slots, the evicted threads and memory alone. -/
theorem State.thread_congr {s t : State} (hs : t.slots = s.slots) (he : t.evicted = s.evicted) (hm : t.mem = s.mem) (uid : Nat) :
    t.thread uid = s.thread uid := by
  have hev : t.findEvicted uid = s.findEvicted uid := by simp only [State.findEvicted, he]
  simp only [State.thread, findThread_of_slots hs, slot_of_slots hs, hev, imageSlot_of_mem hm]

/-- A change of a slot that keeps its thread's number and whether it holds one. -/
def KeepsThread (f : Slot → Slot) : Prop := ∀ sl, (f sl).uid = sl.uid ∧ ((f sl).phase = .free ↔ sl.phase = .free)

theorem keepsThread_wake (p : Park → Bool) :
    KeepsThread fun sl => if sl.phase = .parked ∧ p sl.park then { sl with phase := .ready, park := .none } else sl := by
  intro sl
  dsimp only
  split
  next h => simp [h.1]
  next => exact ⟨rfl, Iff.rfl⟩

/-- s holds thread uid in a slot, with memory m. -/
def HoldsWith (m : Memory) (uid : Nat) (s : State) : Prop := s.findThread uid ≠ none ∧ s.mem = m

/-- A thread in a slot is changed without a write to memory. -/
theorem HoldsWith.modThread {m : Memory} {uid : Nat} {s : State} (h : HoldsWith m uid s) {f : Slot → Slot} (hf : KeepsThread f) :
    HoldsWith m uid (s.modThread uid f) := by
  obtain ⟨hheld, hmem⟩ := h
  obtain ⟨t, ht⟩ := Option.ne_none_iff_exists'.mp hheld
  have he : s.modThread uid f = s.modSlot t f := by simp only [State.modThread, ht]
  rw [he]
  refine ⟨?_, hmem⟩
  rw [State.modSlot, findThread_setSlot _ _ _ _ (hf _).1 (hf _).2]
  exact hheld

theorem HoldsWith.wakeThread {m : Memory} {uid : Nat} {s : State} (h : HoldsWith m uid s) (p : Park → Bool) :
    HoldsWith m uid (s.wakeThread uid p) := h.modThread (keepsThread_wake p)

theorem HoldsWith.modThreadCounters {m : Memory} {uid : Nat} {s : State} (h : HoldsWith m uid s) {f : Slot → Slot} (hf : KeepsThread f) :
    HoldsWith m uid (s.modThreadCounters uid f) := (h.modThread hf).wakeThread _

/-- A step that leaves slots and memory alone. -/
theorem HoldsWith.of_slots {m : Memory} {uid : Nat} {s t : State} (h : HoldsWith m uid s) (hs : t.slots = s.slots) (hm : t.mem = s.mem) :
    HoldsWith m uid t := by
  obtain ⟨hheld, hmem⟩ := h
  exact ⟨by rwa [findThread_of_slots hs], hm.trans hmem⟩

end Sys2Proof.Machine

/-! ## TCMD and the finishing release of its command (O45) -/

namespace Sys2Proof.Machine

open State Sys2Proof.Claims

/-! ### The command word -/

/-- A word that is not turned away names an op (R70). -/
theorem exists_op_of_legal {fmt : Word} {b : Nat} {w0 w1 w2 w3 : Word} (h : ¬ TurnedAway fmt b w0 w1 w2 w3) : ∃ o : TileOp, o.code = fld w0 0 8 := by
  cases ho : TileOp.ofCode (fld w0 0 8) with
  | none => exact absurd (.inl ((TileOp.ofCode_eq_none_iff _).mp ho)) h
  | some o => exact ⟨o, TileOp.code_of_ofCode ho⟩

/-- The rounding mode of a legal word: that of FLAGS, or the word's own (R69). -/
theorem fld_rounding {w0 : Word} (h : fld w0 8 3 ∉ [0, 1, 2, 3]) : fld w0 8 2 = fld w0 8 3 - 4 := by
  simp only [fld, List.mem_cons, List.not_mem_nil, or_false] at h ⊢
  omega

/-- A legal word gives the command of its fields, and that command is legal. -/
theorem tileCmd_of_legal {s : State} {k b : Nat} {w0 w1 w2 w3 : Word} {o : TileOp} (ho : o.code = fld w0 0 8)
    (h : ¬ TurnedAway s.me.fmt b w0 w1 w2 w3) :
    tileCmd s k b w0 w1 w2 w3 = some (tileCommand s k b o w0 w1 w2 w3) ∧ tileLegal w0 w2 (tileCommand s k b o w0 w1 w2 w3) = true := by
  refine ⟨?_, (tileLegal_iff s k b _ o w0 w1 w2 w3 ho).mpr h⟩
  have hrnd : fld w0 8 3 ∉ [1, 2, 3] := fun hr => h (.inr (.inl hr))
  rw [tileCmd_eq, ← ho, TileOp.ofCode_code, Option.map_some]
  by_cases h0 : fld w0 8 3 = 0
  · simp only [tileCommand, h0, if_true]; rfl
  · simp only [tileCommand, h0, if_false, fld_rounding (List.not_mem_cons_of_ne_of_not_mem h0 hrnd)]

/-- A word that is turned away gives no command, or an illegal one. -/
theorem tileCmd_of_turnedAway {s : State} {k b : Nat} {w0 w1 w2 w3 : Word} (h : TurnedAway s.me.fmt b w0 w1 w2 w3) :
    ∀ c, tileCmd s k b w0 w1 w2 w3 = some c → tileLegal w0 w2 c = false := by
  intro c hc
  rw [tileCmd_eq] at hc
  obtain ⟨o, ho, rfl⟩ := Option.map_eq_some_iff.mp hc
  have := (tileLegal_iff s k b (if fld w0 8 3 = 0 then roundingMode s.me.flags else fld w0 8 2) o w0 w1 w2 w3 (TileOp.code_of_ofCode ho)).not_left.mpr h
  simpa using this

/-! ### The instruction -/

/-- A slot that has issued an engine command under token k (R126). -/
def Slot.issue (sl : Slot) (k : Nat) : Slot := { sl with tok := sl.tok ||| (1#8 <<< k), tl := sl.tl + 1 }

/-- The state after TCMD has queued command c under token k. -/
def tileQueued (s : State) (k : Nat) (run : List Nat) (c : TileCmd) : State :=
  (((s.seeTiles fun q => q.k == k).modMe (·.issue k)).modCore s.here
    fun r => { r with matrix := { r.matrix with queue := r.matrix.queue ++ [c] } }).completeNone run

theorem tileQueued_queue (s : State) (k : Nat) (run : List Nat) (c : TileCmd) :
    ((tileQueued s k run c).matrix s.here).queue = (s.matrix s.here).queue ++ [c] := by
  have h (x : State) (e : Nat) : ((x.modCore e fun r => { r with matrix := { r.matrix with queue := r.matrix.queue ++ [c] } }).matrix e).queue =
      (x.matrix e).queue ++ [c] := by simp only [State.matrix, coreRec_modCore_self]
  rw [tileQueued, State.completeNone, matrix_advance, matrix_consume, h, matrix_modMe, State.seeTiles, matrix_forgetTiles_self]

theorem tileQueued_me (s : State) (k : Nat) (run : List Nat) (c : TileCmd) :
    (tileQueued s k run c).me = (s.me.issue k).advance := by
  rw [tileQueued, completeNone_me, me_modCore, me_modMe, State.seeTiles, forgetTiles_me]

@[simp] theorem tileQueued_mem (s : State) (k : Nat) (run : List Nat) (c : TileCmd) : (tileQueued s k run c).mem = s.mem := by
  simp [tileQueued, State.completeNone, State.seeTiles]
@[simp] theorem tileQueued_regs (s : State) (k : Nat) (run : List Nat) (c : TileCmd) : (tileQueued s k run c).regs = s.regs := by
  simp [tileQueued, State.completeNone, State.seeTiles]
@[simp] theorem tileQueued_regFull (s : State) (k : Nat) (run : List Nat) (c : TileCmd) : (tileQueued s k run c).regFull = s.regFull := by
  simp [tileQueued, State.completeNone, State.seeTiles]

section
variable {k : BitVec 3} {a : RegCode} {w : BitVec 1} {b : BitVec 3} {s : State} {w0 w1 w2 w3 : Word}

theorem exec_tcmd : exec (.tcmd k a w b) s = s.finish (tcmd (Instr.tcmd k a w b).word k a w b s) := rfl

/-- TCMD of a word that names no op. -/
theorem tcmd_of_none {word : Word} (hr : s.runOperands word (fourFrom a) (fourFrom a) [] = .ok [w0, w1, w2, w3])
    (hc : tileCmd s k.toNat b.toNat w0 w1 w2 w3 = none) : tcmd word k a w b s = .error (.trap 0x01 word) := by
  unfold fourFrom at hr
  simp only [tcmd, hr, arg, List.getD_cons_zero, List.getD_cons_succ, hc]

/-- TCMD of a word that names an op: the checks in their order, then the command is queued. -/
theorem tcmd_of_some {word : Word} {c : TileCmd} (hr : s.runOperands word (fourFrom a) (fourFrom a) [] = .ok [w0, w1, w2, w3])
    (hc : tileCmd s k.toNat b.toNat w0 w1 w2 w3 = some c) : tcmd word k a w b s =
      if (!tileLegal w0 w2 c) = true then .error (.trap 0x01 word)
      else if (decide (w = 1) && s.me.codelet) = true then .error (.trap 0x0C word)
      else if (tokBusy s k.toNat || decide (2 ≤ (s.matrix s.here).queue.length) || decide (63 ≤ s.me.tl)) = true then .error .forfeit
      else .ok (if w = 1 then (tileQueued s k.toNat (fourFrom a) c).parkMe (.command k.toNat) else tileQueued s k.toNat (fourFrom a) c) := by
  unfold fourFrom at hr
  simp only [tcmd, hr, arg, List.getD_cons_zero, List.getD_cons_succ, hc]
  rfl

theorem exec_tcmd_turnedAway (hr : s.runOperands (Instr.tcmd k a w b).word (fourFrom a) (fourFrom a) [] = .ok [w0, w1, w2, w3])
    (ht : TurnedAway s.me.fmt b.toNat w0 w1 w2 w3) :
    exec (.tcmd k a w b) s = .next (s.takeTrap s.cur 0x01 (Instr.tcmd k a w b).word) := by
  rw [exec_tcmd]
  cases hc : tileCmd s k.toNat b.toNat w0 w1 w2 w3 with
  | none => rw [tcmd_of_none hr hc, finish_error, stop_trap]
  | some c =>
    rw [tcmd_of_some hr hc, tileCmd_of_turnedAway ht c hc, Bool.not_false, if_pos rfl, finish_error, stop_trap]

/-- TCMD with a legal word: a codelet's `.w` form traps, a busy token or full engine forfeits, and else the command is queued. -/
theorem exec_tcmd_legal {o : TileOp} (hr : s.runOperands (Instr.tcmd k a w b).word (fourFrom a) (fourFrom a) [] = .ok [w0, w1, w2, w3])
    (ht : ¬ TurnedAway s.me.fmt b.toNat w0 w1 w2 w3) (ho : o.code = fld w0 0 8) : exec (.tcmd k a w b) s =
      if w = 1 ∧ s.me.codelet = true then .next (s.takeTrap s.cur 0x0C (Instr.tcmd k a w b).word)
      else if s.me.tok.getLsbD k.toNat = true ∨ 2 ≤ (s.matrix s.here).queue.length ∨ 63 ≤ s.me.tl then .next s
      else .next (if w = 1 then (tileQueued s k.toNat (fourFrom a) (tileCommand s k.toNat b.toNat o w0 w1 w2 w3)).parkMe (.command k.toNat)
        else tileQueued s k.toNat (fourFrom a) (tileCommand s k.toNat b.toNat o w0 w1 w2 w3)) := by
  obtain ⟨hc, hl⟩ := tileCmd_of_legal (k := k.toNat) ho ht
  rw [exec_tcmd, tcmd_of_some hr hc]
  simp only [hl, Bool.not_true, Bool.false_eq_true, if_false, tokBusy, Bool.and_eq_true, Bool.or_eq_true, decide_eq_true_eq, or_assoc]
  by_cases hcod : w = 1 ∧ s.me.codelet = true
  · rw [if_pos hcod, if_pos hcod, finish_error, stop_trap]
  rw [if_neg hcod, if_neg hcod]
  split
  · rw [finish_error, stop_forfeit]
  · rw [finish_ok]

theorem exec_tcmd_queues {o : TileOp} (hr : s.runOperands (Instr.tcmd k a w b).word (fourFrom a) (fourFrom a) [] = .ok [w0, w1, w2, w3])
    (ht : ¬ TurnedAway s.me.fmt b.toNat w0 w1 w2 w3) (ho : o.code = fld w0 0 8) (hcod : ¬ (w = 1 ∧ s.me.codelet = true))
    (hready : s.me.phase = .ready) (htok : s.me.tok.getLsbD k.toNat = false) (hq : (s.matrix s.here).queue.length < 2) (htl : s.me.tl < 63) :
    ∃ t, exec (.tcmd k a w b) s = .next t ∧
      (t.matrix s.here).queue = (s.matrix s.here).queue ++ [tileCommand s k.toNat b.toNat o w0 w1 w2 w3] ∧
      t.me.tok.getLsbD k.toNat = true ∧ t.me.tl = s.me.tl + 1 ∧
      t.mem = s.mem ∧ t.regs = s.regs ∧ t.regFull = s.regFull ∧ (s.me.loops = [] → t.me.pc = s.me.pc + 4) ∧
      (w = 0 → t.me.phase = .ready) ∧ (w = 1 → t.me.phase = .parked ∧ t.me.park = .command k.toNat) := by
  rw [exec_tcmd_legal hr ht ho, if_neg hcod, if_neg (by rw [htok]; simp; omega)]
  generalize hu : tileQueued s k.toNat (fourFrom a) (tileCommand s k.toNat b.toNat o w0 w1 w2 w3) = u
  have hqueue := hu ▸ tileQueued_queue s k.toNat (fourFrom a) (tileCommand s k.toNat b.toNat o w0 w1 w2 w3)
  have hme := hu ▸ tileQueued_me s k.toNat (fourFrom a) (tileCommand s k.toNat b.toNat o w0 w1 w2 w3)
  have htok' : u.me.tok.getLsbD k.toNat = true := by
    have hk := k.isLt
    rw [hme]
    show (s.me.tok ||| (1#8 <<< k.toNat)).getLsbD k.toNat = true
    simp only [BitVec.getLsbD_or, BitVec.getLsbD_shiftLeft]
    simp; omega
  have htl' : u.me.tl = s.me.tl + 1 := by rw [hme]; rfl
  have hpc : s.me.loops = [] → u.me.pc = s.me.pc + 4 := by
    intro hl
    rw [hme, Slot.advance_straight (s.me.issue k.toNat) hl]; rfl
  have hmem : u.mem = s.mem := hu ▸ tileQueued_mem _ _ _ _
  have hregs : u.regs = s.regs := hu ▸ tileQueued_regs _ _ _ _
  have hfull : u.regFull = s.regFull := hu ▸ tileQueued_regFull _ _ _ _
  by_cases hw : w = 1
  · rw [if_pos hw]
    have hpark : (u.parkMe (.command k.toNat)).me = { u.me with phase := .parked, park := .command k.toNat } := me_modMe _ _
    refine ⟨_, rfl, hqueue, by rw [hpark]; exact htok', by rw [hpark]; exact htl', hmem, hregs, hfull, fun hl => by rw [hpark]; exact hpc hl,
      fun h0 => absurd (h0.symm.trans hw) (by decide), fun _ => by rw [hpark]; exact ⟨rfl, rfl⟩⟩
  · rw [if_neg hw]
    refine ⟨_, rfl, hqueue, htok', htl', hmem, hregs, hfull, hpc, fun _ => ?_, fun h1 => absurd h1 hw⟩
    rw [hme]
    exact hready

end

/-! ### The finishing release -/

@[simp] theorem orFlags_zero (w : Word) : orFlags w 0 = w := by simp [orFlags, ofNat]

theorem State.noteTile_failed (s : State) (c : Nat) (q : TileCmd) : s.noteTile c q true = s := rfl

/-- What is kept of a command that ended well (R132). -/
theorem State.noteTile_done (s : State) (c : Nat) (q : TileCmd) : s.noteTile c q false =
    if q.op = .mmas then s.modMatrix c fun m => { m with unseen := m.unseen ++ [q] }
    else if q.op = .mzero ∨ q.op = .mloadc then s.forgetTiles c fun _ => true else s := by
  simp only [State.noteTile, Bool.false_eq_true, if_false, Bool.or_eq_true, beq_iff_eq]

/-- The note changes a core's engine alone, and of that neither accumulator nor paths. -/
theorem State.noteTile_frame (s : State) (c : Nat) (q : TileCmd) (failed : Bool) :
    (s.noteTile c q failed).slots = s.slots ∧ (s.noteTile c q failed).evicted = s.evicted ∧ (s.noteTile c q failed).mem = s.mem := by
  cases failed with
  | true => exact ⟨rfl, rfl, rfl⟩
  | false =>
    rw [noteTile_done]
    split
    · exact ⟨rfl, rfl, rfl⟩
    · split
      · exact ⟨forgetTiles_slots _ _ _, forgetTiles_evicted _ _ _, forgetTiles_mem _ _ _⟩
      · exact ⟨rfl, rfl, rfl⟩

/-- m and n are one engine but for the commands noted. -/
def SameButUnseen (m n : Matrix) : Prop := n = { m with unseen := n.unseen }

theorem SameButUnseen.acc {m n : Matrix} (h : SameButUnseen m n) : n.acc = m.acc := by rw [h]

theorem SameButUnseen.path {m n : Matrix} (h : SameButUnseen m n) (mover : Bool) : n.path mover = m.path mover := by rw [h]; rfl

theorem State.forgetTiles_sameButUnseen (s : State) (c : Nat) (p : TileCmd → Bool) : SameButUnseen (s.matrix c) ((s.forgetTiles c p).matrix c) := by
  rw [matrix_forgetTiles_self]; rfl

theorem State.noteTile_sameButUnseen (s : State) (c : Nat) (q : TileCmd) (failed : Bool) :
    SameButUnseen (s.matrix c) ((s.noteTile c q failed).matrix c) := by
  cases failed with
  | true => rfl
  | false =>
    rw [noteTile_done]
    split
    · rw [matrix_modMatrix_self]; rfl
    · split
      · exact forgetTiles_sameButUnseen _ _ _
      · rfl

/-- A slot one of whose tile commands has released token k, with the flags it gives (R128). -/
def Slot.release (sl : Slot) (k flags : Nat) : Slot :=
  { sl with tok := sl.tok &&& ~~~(1#8 <<< k), tl := sl.tl - 1, flags := orFlags sl.flags flags }

theorem keepsThread_release (k flags : Nat) : KeepsThread (·.release k flags) := fun _ => ⟨rfl, Iff.rfl⟩

/-- A thread's own part of the release: its token, TL and FLAGS, and the wake of a thread parked on the command (R128). -/
def releaseThread (s : State) (uid k flags : Nat) : State :=
  (s.modThreadCounters uid (·.release k flags)).wakeThread uid (· == .command k)

theorem State.tileRelease_eq (s : State) (c uid k flags : Nat) : s.tileRelease c uid k flags =
    if (s.thread uid).any (fun sl => sl.phase == .parked && sl.park == .command k) = true
    then (releaseThread s uid k flags).forgetTiles c fun q => q.uid == uid && q.k == k else releaseThread s uid k flags := rfl

theorem State.tileRelease_sameButUnseen (s : State) (c uid k flags : Nat) :
    SameButUnseen (s.matrix c) ((s.tileRelease c uid k flags).matrix c) := by
  have h : (releaseThread s uid k flags).matrix c = s.matrix c := by rw [releaseThread, matrix_wakeThread, matrix_modThreadCounters]
  rw [tileRelease_eq]
  split
  · exact h ▸ forgetTiles_sameButUnseen _ _ _
  · rw [h]; rfl

theorem HoldsWith.tileRelease {m : Memory} {uid : Nat} {s : State} (h : HoldsWith m uid s) (c k flags : Nat) :
    HoldsWith m uid (s.tileRelease c uid k flags) := by
  have hr : HoldsWith m uid (releaseThread s uid k flags) := (h.modThreadCounters (keepsThread_release k flags)).wakeThread _
  rw [tileRelease_eq]
  split
  · exact hr.of_slots (forgetTiles_slots _ _ _) (forgetTiles_mem _ _ _)
  · exact hr

/-- The state in which a command that has finished releases its thread: its path is free, a raced MMAS has left its accumulator
undefined, and the command is noted (R128, R132). -/
def finished (s : State) (c : Nat) (mover : Bool) (q : TileCmd) (failed : Bool) : State :=
  (if q.raced = true then (s.modMatrix c (·.setPath mover none)).spoilAcc c else s.modMatrix c (·.setPath mover none)).noteTile c q failed

theorem finished_frame (s : State) (c : Nat) (mover : Bool) (q : TileCmd) (failed : Bool) :
    (finished s c mover q failed).slots = s.slots ∧ (finished s c mover q failed).evicted = s.evicted ∧ (finished s c mover q failed).mem = s.mem := by
  unfold finished
  split
  · simpa using noteTile_frame ((s.modMatrix c (·.setPath mover none)).spoilAcc c) c q failed
  · simpa using noteTile_frame (s.modMatrix c (·.setPath mover none)) c q failed

theorem Matrix.path_setPath (m : Matrix) (mover : Bool) (r : Option TileRun) : (m.setPath mover r).path mover = r := by
  cases mover <;> rfl

/-- A raced command leaves its path free and free values in the accumulator. -/
theorem finished_raced (s : State) (c : Nat) (mover : Bool) {q : TileCmd} (failed : Bool) (hq : q.raced = true) :
    ((finished s c mover q failed).matrix c).path mover = none ∧
      ∀ i, i < 2048 → Store.get 0 ((finished s c mover q failed).matrix c).acc i = freeAcc s.fresh i := by
  have h := noteTile_sameButUnseen ((s.modMatrix c (·.setPath mover none)).spoilAcc c) c q failed
  rw [matrix_spoilAcc_self, matrix_modMatrix_self] at h
  rw [finished, if_pos hq, h.path, h.acc]
  exact ⟨Matrix.path_setPath _ mover none, fun i hi => get_freeAccs 2048 s.fresh i hi⟩

section
variable {s : State} {c : Nat} {mover : Bool} {r : TileRun}

/-- TILE_FINISH of a command without a barrier that has ended well (R128). -/
theorem tileFinish_done (hp : (s.matrix c).path mover = some r) (he : r.ended = some none) (hl : r.cmd.level = 0) :
    tileFinish c mover s = (finished s c mover r.cmd false).tileRelease c r.cmd.uid r.cmd.k r.flags := by
  have ha : s.arrivesAbroad c r.cmd = false := by simp [State.arrivesAbroad, hl]
  have hb : s.errorPhase c r.cmd = false := by simp [State.errorPhase, hl]
  unfold tileFinish
  simp only [hp, he, ha, hb, hl, Bool.false_eq_true, if_false, ne_eq, not_true_eq_false, Bool.or_false, Option.isSome_none, finished]

/-- TILE_FINISH of a command without a barrier that has failed (R128, R139). -/
theorem tileFinish_failed {code : Nat} (hp : (s.matrix c).path mover = some r) (he : r.ended = some (some code)) (hl : r.cmd.level = 0) :
    tileFinish c mover s = ((finished s c mover r.cmd true).tileRelease c r.cmd.uid r.cmd.k 0).modThread r.cmd.uid (recordErr code) := by
  have ha : s.arrivesAbroad c r.cmd = false := by simp [State.arrivesAbroad, hl]
  unfold tileFinish
  simp only [hp, he, ha, hl, Bool.false_eq_true, if_false, ne_eq, not_true_eq_false, Bool.true_or, if_true, Option.isSome_some, finished]

end

/-- A thread is seen where it stands in the state before the finish (R132). -/
theorem finished_thread (s : State) (c : Nat) (mover : Bool) (q : TileCmd) (failed : Bool) (uid : Nat) :
    (finished s c mover q failed).thread uid = s.thread uid := by
  obtain ⟨hs, he, hm⟩ := finished_frame s c mover q failed
  exact thread_congr hs he hm uid

/-- What a command's thread sees of the release: where it is parked on the command, that this is over (R132). -/
def seenBy (s : State) (c uid k : Nat) (u : State) : State :=
  if (s.thread uid).any (fun sl => sl.phase == .parked && sl.park == .command k) = true
  then u.forgetTiles c fun q => q.uid == uid && q.k == k else u

theorem State.tileRelease_finished (s : State) (c : Nat) (mover : Bool) (q : TileCmd) (failed : Bool) (uid k flags : Nat) :
    (finished s c mover q failed).tileRelease c uid k flags = seenBy s c uid k (releaseThread (finished s c mover q failed) uid k flags) := by
  rw [tileRelease_eq, finished_thread]; rfl

/-- An unraced command leaves its path free and its note. -/
theorem finished_unraced (s : State) (c : Nat) (mover : Bool) {q : TileCmd} (failed : Bool) (hq : q.raced = false) :
    finished s c mover q failed = (s.modMatrix c (·.setPath mover none)).noteTile c q failed := by
  simp only [finished, hq, Bool.false_eq_true, if_false]

/-- The release of a failed command adds no flags. -/
theorem releaseThread_zero (s : State) (uid k : Nat) : releaseThread s uid k 0 =
    (s.modThreadCounters uid fun sl => { sl with tok := sl.tok &&& ~~~(1#8 <<< k), tl := sl.tl - 1 }).wakeThread uid (· == .command k) := by
  simp only [releaseThread, Slot.release, orFlags_zero]

theorem keepsThread_recordErr (code : Nat) : KeepsThread (recordErr code) := fun sl => by
  simp only [recordErr, and_self]

/-- The finish of a raced command (R132). -/
theorem exec_tileFinish_raced {s : State} {c : Nat} {mover : Bool} {r : TileRun} (hp : (s.matrix c).path mover = some r)
    (hl : r.cmd.level = 0) (hraced : r.cmd.raced = true) (he : r.ended ≠ none) :
    ∃ t, exec (.tileFinish c mover) s = .next t ∧ (s.findThread r.cmd.uid ≠ none → t.mem = s.mem) ∧ (t.matrix c).path mover = none ∧
      ∀ i, i < 2048 → Store.get 0 (t.matrix c).acc i = freeAcc s.fresh i := by
  refine ⟨tileFinish c mover s, rfl, ?_⟩
  have hheld (failed : Bool) (h : s.findThread r.cmd.uid ≠ none) : HoldsWith s.mem r.cmd.uid (finished s c mover r.cmd failed) := by
    obtain ⟨hs, -, hm⟩ := finished_frame s c mover r.cmd failed
    exact HoldsWith.of_slots ⟨h, rfl⟩ hs hm
  have hmatrix (failed : Bool) (flags : Nat) := tileRelease_sameButUnseen (finished s c mover r.cmd failed) c r.cmd.uid r.cmd.k flags
  obtain ⟨failed, hf⟩ := Option.ne_none_iff_exists'.mp he
  cases failed with
  | none =>
    obtain ⟨hpath, hacc⟩ := finished_raced s c mover false hraced
    rw [tileFinish_done hp hf hl, (hmatrix _ _).path, (hmatrix _ _).acc]
    exact ⟨fun h => ((hheld false h).tileRelease _ _ _).2, hpath, hacc⟩
  | some code =>
    obtain ⟨hpath, hacc⟩ := finished_raced s c mover true hraced
    rw [tileFinish_failed hp hf hl, matrix_modThread, (hmatrix _ _).path, (hmatrix _ _).acc]
    exact ⟨fun h => (((hheld true h).tileRelease _ _ _).modThread (keepsThread_recordErr code)).2, hpath, hacc⟩

/-- Settles O45: TCMD by its checks in their order, the notes of finished commands, and the finishing release in its cases. -/
theorem tileCommandsAreQueued : Obligations.TileCommandsAreQueued := by
  unfold Obligations.TileCommandsAreQueued
  refine ⟨?tcmd, ?codes, ?notes, ?finish⟩
  case tcmd =>
    intro k a w b s w0 w1 w2 w3 i hr
    refine ⟨exec_tcmd_turnedAway hr, fun ht => ⟨?codelet, ?forfeit, ?queued⟩⟩
    case codelet =>
      intro hw hcod
      obtain ⟨o, ho⟩ := exists_op_of_legal ht
      rw [exec_tcmd_legal hr ht ho, if_pos ⟨hw, hcod⟩]
    case forfeit =>
      intro hcod hbusy
      obtain ⟨o, ho⟩ := exists_op_of_legal ht
      rw [exec_tcmd_legal hr ht ho, if_neg hcod, if_pos hbusy]
    case queued => exact fun o ho hcod hready htok hq htl => exec_tcmd_queues hr ht ho hcod hready htok hq htl
  case codes =>
    intro o
    refine ⟨o.code, rfl, ?_⟩
    cases o <;> decide
  case notes =>
    intro s c p t
    refine ⟨?_, fun e he => matrix_forgetTiles_ne s p he, ?_, forgetTiles_mem s c p, forgetTiles_slots s c p⟩
    · rw [matrix_forgetTiles_self]
    · rw [matrix_forgetTiles_self]
  case finish =>
    intro s c mover r hp hl
    refine ⟨exec_tileFinish_raced hp hl, fun hraced => ⟨fun he => ?done, fun code he => ?failed⟩⟩
    case done =>
      show Host.Outcome.next (tileFinish c mover s) = _
      rw [tileFinish_done hp he hl, tileRelease_finished, finished_unraced s c mover false hraced, noteTile_done]
      rfl
    case failed =>
      show Host.Outcome.next (tileFinish c mover s) = _
      rw [tileFinish_failed hp he hl, tileRelease_finished, finished_unraced s c mover true hraced, noteTile_failed, releaseThread_zero]
      rfl

end Sys2Proof.Machine

/-! ## Tensor, gather and scatter moves (O47) -/

namespace Sys2Proof.Machine

open State Sys2Proof.Claims

/-! ### How a move begins, goes on and ends -/

section
variable {s s1 : State} {c : Nat} {op : TileOp} {r : TileRun}

/-- A move whose page operation was given up ends at the operand it waited for (R253). -/
theorem tileMove_givenUp (hr : s.tileRun c op = some (r, s1)) (hp : (s1.coreRec c).movePage = none) (hf : (s1.coreRec c).moveFailed = true) :
    s.tileMove c op = (s1.modCore c fun x => { x with moveFailed := false }).tileFail c r 0x06 r.ring := by
  simp only [State.tileMove, hr, hp, hf, Option.isSome_none, Bool.false_eq_true, if_false, if_true]

/-- A move that has begun goes on. -/
theorem tileMove_begun (hr : s.tileRun c op = some (r, s1)) (hp : (s1.coreRec c).movePage = none) (hf : (s1.coreRec c).moveFailed = false)
    (hb : r.begun = true) : s.tileMove c op = s1.moveOn c r := by
  simp only [State.tileMove, hr, hp, hf, hb, Option.isSome_none, Bool.false_eq_true, if_false, if_true]

theorem tileMove_tensor_fails {k o : Nat} (hr : s.tileRun c .tcopy = some (r, s1)) (hp : (s1.coreRec c).movePage = none)
    (hf : (s1.coreRec c).moveFailed = false) (hb : r.begun = false) (he : s1.tcopyParts c r.cmd = .error (k, o)) :
    s.tileMove c .tcopy = s1.tileFail c r k o := by
  simp only [State.tileMove, hr, hp, hf, hb, he, Option.isSome_none, Bool.false_eq_true, if_false, if_true]

theorem tileMove_tensor {l : List TileMove} {ps : List Piece} (hr : s.tileRun c .tcopy = some (r, s1)) (hp : (s1.coreRec c).movePage = none)
    (hf : (s1.coreRec c).moveFailed = false) (hb : r.begun = false) (ho : s1.tcopyParts c r.cmd = .ok (l, ps)) :
    s.tileMove c .tcopy =
      s1.moveOn c { r with moves := l, places := s1.sourcePlaces c { ctx := r.cmd.ctx, sup := r.cmd.mode != 0 } ps } := by
  simp only [State.tileMove, hr, hp, hf, hb, ho, Option.isSome_none, Bool.false_eq_true, if_false, if_true]

theorem tileMove_rows_fails {k o : Nat} (hop : op ≠ .tcopy) (hr : s.tileRun c op = some (r, s1)) (hp : (s1.coreRec c).movePage = none)
    (hf : (s1.coreRec c).moveFailed = false) (hb : r.begun = false) (he : s1.rowParts c r.cmd = .error (k, o)) :
    s.tileMove c op = s1.tileFail c r k o := by
  simp only [State.tileMove, hr, hp, hf, hb, hop, he, Option.isSome_none, Bool.false_eq_true, if_false]

theorem tileMove_rows {ws : List Word} (hop : op ≠ .tcopy) (hr : s.tileRun c op = some (r, s1)) (hp : (s1.coreRec c).movePage = none)
    (hf : (s1.coreRec c).moveFailed = false) (hb : r.begun = false) (ho : s1.rowParts c r.cmd = .ok ws) :
    s.tileMove c op = s1.moveOn c { r with desc := ws, rows := List.range (fld (ws.getD 0 0) 32 16) } := by
  simp only [State.tileMove, hr, hp, hf, hb, hop, ho, Option.isSome_none, Bool.false_eq_true, if_false]

end

/-- The three moves are one meaning at their ops. -/
theorem exec_move (c : Nat) (s : State) :
    ∀ p ∈ [((Instr.tcopy c, .tcopy) : Instr × TileOp), (.tgather c, .tgather), (.tscatter c, .tscatter)], exec p.1 s = .next (s.tileMove c p.2) := by
  simp only [List.forall_mem_cons, List.not_mem_nil, false_imp_iff, implies_true, and_true]
  exact ⟨rfl, rfl, rfl⟩

@[simp] theorem State.setRun_mem (s : State) (c : Nat) (r : TileRun) : (s.setRun c r).mem = s.mem := rfl
@[simp] theorem State.tileEnd_mem (s : State) (c : Nat) (r : TileRun) (flags : Nat) : (s.tileEnd c r flags).mem = s.mem := rfl

theorem State.setRun_path (s : State) (c : Nat) (r : TileRun) : ((s.setRun c r).matrix c).path r.cmd.op.moves = some r := by
  rw [State.setRun, matrix_modMatrix_self, Matrix.path_setPath]

/-- A command that ends is over without failure (R128). -/
theorem State.tileEnd_path (s : State) (c : Nat) (r : TileRun) (flags : Nat) :
    ∃ e, ((s.tileEnd c r flags).matrix c).path r.cmd.op.moves = some e ∧ e.ended = some none :=
  ⟨_, setRun_path s c { r with begun := true, flags := r.flags ||| flags, ended := some none }, rfl⟩

/-- A failure's code is its cause, operand and op; no byte of memory changes (R138, R139). -/
theorem State.tileFail_path (s : State) (c : Nat) (r : TileRun) (cause operand : Nat) :
    ∃ e, ((s.tileFail c r cause operand).matrix c).path r.cmd.op.moves = some e ∧
      e.ended = some (some (cause * 256 + operand * 16 + r.cmd.op.code)) ∧ (s.tileFail c r cause operand).mem = s.mem := by
  refine ⟨{ r with begun := true, ended := some (some (cause * 256 + operand * 16 + r.cmd.op.code)) }, ?_, rfl, ?_⟩
  · have h := setRun_path s c { r with begun := true, ended := some (some (cause * 256 + operand * 16 + r.cmd.op.code)) }
    unfold State.tileFail
    split
    · rw [matrix_spoilAcc_self]; exact h
    · exact h
  · unfold State.tileFail
    split
    · rw [spoilAcc_mem, setRun_mem]
    · rw [setRun_mem]

/-! ### One part -/

/-- A part that meets no source of the move has its bytes as they are (R135). -/
theorem State.spoil_of_disjoint (s : State) (dst : Nat) (sources : List (Nat × Nat)) (data : List Nat)
    (h : ∀ x ∈ sources, x.1 + x.2 ≤ dst ∨ dst + data.length ≤ x.1) : s.spoil dst sources data = (data, s) := by
  induction data generalizing dst with
  | nil => rfl
  | cons b l ih =>
    have hfree : (sources.any fun x => decide (x.1 ≤ dst) && decide (dst < x.1 + x.2)) = false := by
      simp only [List.any_eq_false, Bool.and_eq_true, decide_eq_true_eq]
      intro x hx
      have := h x hx
      rw [List.length_cons] at this
      omega
    have hrest : ∀ x ∈ sources, x.1 + x.2 ≤ dst + 1 ∨ dst + 1 + l.length ≤ x.1 := by
      intro x hx
      have := h x hx
      rw [List.length_cons] at this
      simp only [List.any_eq_false, Bool.and_eq_true, decide_eq_true_eq] at hfree
      have := hfree x hx
      omega
    simp only [State.spoil, hfree, ih _ hrest, Bool.false_eq_true, if_false]

theorem State.write_byte_one (s : State) (key v k : Nat) :
    (s.write key 1 v).mem.byte k = if k = key then BitVec.ofNat 8 v else s.mem.byte k := by
  rw [write_mem]
  split
  next h => subst h; simpa using Memory.byte_writeN_inside s.mem k 1 v 0 (by omega)
  next h => exact Memory.byte_writeN_outside _ _ _ _ _ (by omega)

@[simp] theorem State.readBytes_length (s : State) (key n : Nat) : (s.readBytes key n).length = n := by
  rw [State.readBytes, List.length_map, List.length_range]

theorem State.readBytes_getD (s : State) (key : Nat) {n b : Nat} (h : b < n) : (s.readBytes key n).getD b 0 = (s.mem.byte (key + b)).toNat := by
  simp [State.readBytes, List.getD_eq_getElem?_getD, h]

/-- Bytes written one after another from a place on. -/
theorem foldl_write_byte (key k : Nat) (data : List Nat) (j : Nat) (s : State) :
    ((data.zip (List.range' j data.length)).foldl (fun (x : State) e => x.write (key + e.2) 1 e.1) s).mem.byte k =
      if key + j ≤ k ∧ k < key + j + data.length then BitVec.ofNat 8 (data.getD (k - (key + j)) 0) else s.mem.byte k := by
  induction data generalizing j s with
  | nil => rw [if_neg (by simp only [List.length_nil]; omega)]; rfl
  | cons b l ih =>
    simp only [List.length_cons, List.range'_succ, List.zip_cons_cons, List.foldl_cons]
    rw [ih, write_byte_one]
    by_cases hk : k = key + j
    · rw [if_neg (by omega), if_pos hk, if_pos (by omega), show k - (key + j) = 0 by omega, List.getD_cons_zero]
    by_cases hin : key + (j + 1) ≤ k ∧ k < key + (j + 1) + l.length
    · rw [if_pos hin, if_pos (by omega), show k - (key + j) = k - (key + (j + 1)) + 1 by omega, List.getD_cons_succ]
    · rw [if_neg hin, if_neg hk, if_neg (by omega)]

/-- Bytes written at a key are those of the list, and every other byte stays. -/
theorem State.writeBytes_byte (s : State) (key k : Nat) (data : List Nat) : (s.writeBytes key data []).mem.byte k =
    if key ≤ k ∧ k < key + data.length then BitVec.ofNat 8 (data.getD (k - key) 0) else s.mem.byte k := by
  unfold State.writeBytes
  rw [List.foldl_nil, List.range_eq_range']
  exact foldl_write_byte key k data 0 s

theorem State.storeBytes_of_undisturbed (s : State) (key : Nat) (data : List Nat) (h : s.undisturbed false key data.length = true) :
    s.storeBytes key data [] = s.writeBytes key data [] := by
  have hkeep : (s.writeBytes key data []).undisturbed false key data.length = s.undisturbed false key data.length :=
    foldl_keeps (State.undisturbed · false key data.length) _ (fun e _ x => undisturbed_write x _ 1 _ false key data.length) s
  exact disturb_of_undisturbed _ _ _ _ (hkeep.trans h)

section
variable {s : State} {c o : Nat} {r : TileRun}

/-- The rights of a tile command (R128). -/
def TileCmd.rights (q : TileCmd) : Rights := { ctx := q.ctx, sup := q.mode != 0 }

theorem State.moveKey_local {a : Word} (h : s.resolve c r.cmd.rights a 1 = .ok (.spad c o)) (access : Nat) :
    s.moveKey c r.cmd a access = .ok (spadKey c o, s) := by
  unfold TileCmd.rights at h
  simp only [State.moveKey, h]

/-- Part p is the last of a move: it goes to the own scratchpad, meets no source of the move and disturbs nothing. -/
def LastPart (s : State) (c o : Nat) (r : TileRun) (p : TileMove) : Prop :=
  r.moves = [p] ∧ r.rows = [] ∧ s.resolve c r.cmd.rights p.dst 1 = .ok (.spad c o) ∧ s.undisturbed false (spadKey c o) p.n = true ∧
    ∀ x ∈ r.places, x.1 + x.2 ≤ spadKey c o ∨ spadKey c o + p.n ≤ x.1

/-- The last part of a move writes its data and ends the command. -/
theorem LastPart.moveOn_zeros {dst : Word} {n : Nat} (h : LastPart s c o r { src := none, dst := dst, n := n }) :
    s.moveOn c r = (s.writeBytes (spadKey c o) (List.replicate n 0) []).tileEnd c { r with moves := [], rows := [] } 0 := by
  obtain ⟨hmoves, hrows, hdst, hund, hdis⟩ := h
  have hd := hdst
  unfold TileCmd.rights at hd
  have hsp := spoil_of_disjoint s (spadKey c o) r.places (List.replicate n 0) (by rw [List.length_replicate]; exact hdis)
  have hst := storeBytes_of_undisturbed s (spadKey c o) (List.replicate n 0) (by rw [List.length_replicate]; exact hund)
  simp only [State.moveOn, hmoves, hrows, State.movePieces, moveKey_local hdst, hd, Loc.place, hsp, hst, if_true, State.moveRows]

theorem LastPart.moveOn_copy {a dst : Word} {n oa : Nat} (h : LastPart s c o r { src := some a, dst := dst, n := n })
    (ha : s.resolve c r.cmd.rights a 1 = .ok (.spad c oa)) :
    s.moveOn c r = (s.writeBytes (spadKey c o) (s.readBytes (spadKey c oa) n) []).tileEnd c { r with moves := [], rows := [] } 0 := by
  obtain ⟨hmoves, hrows, hdst, hund, hdis⟩ := h
  have hd := hdst
  unfold TileCmd.rights at hd
  have hlen := readBytes_length s (spadKey c oa) n
  have hsp := spoil_of_disjoint s (spadKey c o) r.places (s.readBytes (spadKey c oa) n) (by rw [hlen]; exact hdis)
  have hst := storeBytes_of_undisturbed s (spadKey c o) (s.readBytes (spadKey c oa) n) (by rw [hlen]; exact hund)
  simp only [State.moveOn, hmoves, hrows, State.movePieces, moveKey_local hdst, moveKey_local ha, Except.map, hd, Loc.place, hsp, hst, if_true,
    State.moveRows]

/-- What the end of a move leaves after its last data: the bytes at their place, every other byte as it was, and the command over. -/
theorem State.writeBytes_tileEnd (s : State) (c key : Nat) (r : TileRun) {data : List Nat} {n : Nat} (hlen : data.length = n) :
    let t := (s.writeBytes key data []).tileEnd c { r with moves := [], rows := [] } 0
    (∀ b, b < n → t.mem.byte (key + b) = BitVec.ofNat 8 (data.getD b 0)) ∧
      (∀ k, k < key ∨ key + n ≤ k → t.mem.byte k = s.mem.byte k) ∧ ∃ e, (t.matrix c).path r.cmd.op.moves = some e ∧ e.ended = some none := by
  intro t
  refine ⟨fun b hb => ?_, fun k hk => ?_, tileEnd_path _ c { r with moves := [], rows := [] } 0⟩
  · rw [tileEnd_mem, writeBytes_byte, if_pos (by omega), Nat.add_sub_cancel_left]
  · rw [tileEnd_mem, writeBytes_byte, if_neg (by omega)]

end

/-! ### Rows -/

/-- The rows to come do not depend on what the run holds of them. -/
theorem State.moveRows_rows (s : State) (c : Nat) (r : TileRun) (k l : List Nat) : s.moveRows c { r with rows := k } l = s.moveRows c r l := by
  induction l generalizing s with
  | nil => rfl
  | cons j l ih => simp only [State.moveRows, State.rowMoves, ih]

theorem State.moveOn_of_no_moves {s : State} {c : Nat} {r : TileRun} (hm : r.moves = []) : s.moveOn c r = s.moveRows c r r.rows := by
  unfold State.moveOn
  rw [hm]
  rfl

/-- A move without parts at hand goes on with its next row, whose parts it reads then (R136). -/
theorem State.moveOn_row {s u : State} {c : Nat} {r : TileRun} {j : Nat} {l : List Nat} {x : Bool} (hm : r.moves = []) (hr : r.rows = j :: l)
    (h : s.movePieces c { r with rows := l } (s.rowMoves c r j) = (x, u)) : s.moveOn c r = if x then u.moveOn c { r with rows := l } else u := by
  rw [moveOn_of_no_moves hm, moveOn_of_no_moves (r := { r with rows := l }) hm, hr, moveRows_rows u c r l l, State.moveRows]
  simp only [h]

/-- A part inside one page at both ends is not cut. -/
theorem tileMoves_whole (src dst : Word) (n : Nat) (h0 : 0 < n) (hs : fld src 0 16 + n ≤ 0x10000) (hd : fld dst 0 16 + n ≤ 0x10000) :
    tileMoves [{ src := src, dst := dst, n := n }] = [{ src := some src, dst := dst, n := n }] := by
  have hm : n ≤ min (min n 0x10000) (min (0x10000 - fld src 0 16) (0x10000 - fld dst 0 16)) := by omega
  simp only [State.tileMoves, cutPieces, List.flatMap_cons, List.flatMap_nil, List.append_nil, cutPiece, if_pos hm, if_neg (Nat.ne_of_gt h0),
    List.map_cons, List.map_nil]

/-- A field of the descriptor that a gather or scatter has read. -/
def TileRun.word (r : TileRun) (i : Nat) : Word := r.desc.getD i 0

/-- The address of row n from a base. -/
def TileRun.rowAt (r : TileRun) (base : Word) (n : Nat) : Word := base + ofNat (n * fld (r.word 0) 0 16)

section
variable {s : State} {c : Nat} {r : TileRun} {j ix : Nat}

/-- The parts of row j, by its index (R136). -/
theorem rowMoves_eq (hix : s.tileAt c r.cmd r.cmd.addr1 (4 * fld (r.word 0) 32 16) 4 = .ok ix) : s.rowMoves c r j =
    if s.mem.readN (spadKey c (ix + 4 * j)) 4 < fld (r.word 2) 0 32 then
      tileMoves [{ src := if (r.cmd.op == .tgather) = true then r.rowAt (r.word 1) (s.mem.readN (spadKey c (ix + 4 * j)) 4) else r.rowAt (r.word 3) j
                   dst := if (r.cmd.op == .tgather) = true then r.rowAt (r.word 3) j else r.rowAt (r.word 1) (s.mem.readN (spadKey c (ix + 4 * j)) 4)
                   n := fld (r.word 0) 0 16 }]
    else if (r.cmd.op == .tgather) = true then [{ src := none, dst := r.rowAt (r.word 3) j, n := fld (r.word 0) 0 16 }] else [] := by
  unfold TileRun.word at hix
  simp only [State.rowMoves, hix]
  rfl

end

/-! ### Tensor descriptors (R135) -/

/-- An element's address, from a base and the offset of each dimension. -/
theorem add_ofInt_add (b : Word) (x y : Int) : b + ofInt (x + y) = b + ofInt y + ofInt x := by
  simp only [ofInt, BitVec.ofInt_add]
  ac_rfl

/-- A tensor of one dimension: its elements one after another. -/
theorem tensorOffsets_one (n : Nat) (ss ds : Int) :
    tensorOffsets [(n, ss, ds)] = (List.range n).map fun (i : Nat) => ((i : Int) * ss, (i : Int) * ds) := by
  simp only [tensorOffsets, List.flatMap_cons, List.flatMap_nil, List.append_nil, Int.zero_add]

/-- A tensor of two dimensions: dimension 0 runs fastest. -/
theorem tensorOffsets_two (n m : Nat) (ss ds st dt : Int) : tensorOffsets [(n, ss, ds), (m, st, dt)] =
    (List.range m).flatMap fun (j : Nat) => (List.range n).map fun (i : Nat) => ((j : Int) * st + i * ss, (j : Int) * dt + i * ds) := by
  rw [tensorOffsets, tensorOffsets_one, List.flatMap_map]

/-- Count and strides of dimension j of the descriptor at a key (R135). -/
def State.tensorDim (s : State) (key j : Nat) : Nat × Int × Int :=
  (fld (s.read64 (key + 8 * (3 + 2 * j))) 0 32, signed (fld (s.read64 (key + 8 * (4 + 2 * j))) 0 32) 32,
    signed (fld (s.read64 (key + 8 * (4 + 2 * j))) 32 32) 32)

theorem State.tensorAt_eq (s : State) (key : Nat) : s.tensorAt key =
    { size := 2 ^ fld (s.read64 key) 4 3, src := s.read64 (key + 8), dst := s.read64 (key + 16)
      offsets := tensorOffsets ((List.range (fld (s.read64 key) 0 4 + 1)).map (s.tensorDim key)) } := rfl

/-- The elements of a descriptor of one dimension. -/
theorem State.tensorAt_pieces_one (s : State) (key : Nat) (h : fld (s.read64 key) 0 4 = 0) : (s.tensorAt key).pieces =
    (List.range (s.tensorDim key 0).1).map fun i =>
      { src := s.read64 (key + 8) + ofInt (i * (s.tensorDim key 0).2.1), dst := s.read64 (key + 16) + ofInt (i * (s.tensorDim key 0).2.2)
        n := 2 ^ fld (s.read64 key) 4 3 } := by
  rw [tensorAt_eq, h, Tensor.pieces, show (List.range (0 + 1)).map (s.tensorDim key) = [s.tensorDim key 0] from rfl, tensorOffsets_one, List.map_map]
  rfl

/-- The elements of a descriptor of two dimensions. -/
theorem State.tensorAt_pieces_two (s : State) (key : Nat) (h : fld (s.read64 key) 0 4 = 1) : (s.tensorAt key).pieces =
    (List.range (s.tensorDim key 1).1).flatMap fun j => (List.range (s.tensorDim key 0).1).map fun i =>
      { src := s.read64 (key + 8) + ofInt (i * (s.tensorDim key 0).2.1) + ofInt (j * (s.tensorDim key 1).2.1)
        dst := s.read64 (key + 16) + ofInt (i * (s.tensorDim key 0).2.2) + ofInt (j * (s.tensorDim key 1).2.2)
        n := 2 ^ fld (s.read64 key) 4 3 } := by
  rw [tensorAt_eq, h, Tensor.pieces, show (List.range (1 + 1)).map (s.tensorDim key) = [s.tensorDim key 0, s.tensorDim key 1] from rfl,
    tensorOffsets_two]
  simp only [List.map_flatMap, List.map_map, Function.comp_def, add_ofInt_add]

/-- A descriptor's reserved bits are ignored (R4): its tensor depends on the fields that R135 gives. -/
theorem State.tensorAt_congr {s u : State} {key : Nat} (h0 : fld (s.read64 key) 0 4 = fld (u.read64 key) 0 4)
    (hsize : fld (s.read64 key) 4 3 = fld (u.read64 key) 4 3) (h1 : s.read64 (key + 8) = u.read64 (key + 8))
    (h2 : s.read64 (key + 16) = u.read64 (key + 16)) (hd : ∀ j, j < 16 → s.tensorDim key j = u.tensorDim key j) :
    s.tensorAt key = u.tensorAt key := by
  have hdims : (List.range (fld (u.read64 key) 0 4 + 1)).map (s.tensorDim key) = (List.range (fld (u.read64 key) 0 4 + 1)).map (u.tensorDim key) := by
    refine List.map_congr_left fun j hj => hd j ?_
    have := List.mem_range.mp hj
    simp only [fld] at this
    omega
  rw [tensorAt_eq, tensorAt_eq, h0, hsize, h1, h2, hdims]

/-- Fields inside a field. -/
theorem fld_fld_low {x y : Word} (h : fld x 0 7 = fld y 0 7) : fld x 0 4 = fld y 0 4 ∧ fld x 4 3 = fld y 4 3 := by
  simp only [fld, Nat.shiftRight_eq_div_pow] at h ⊢
  omega

/-- Settles O47: how the moves begin and fail, what a part copies, which part a row has, and which elements a descriptor names. -/
theorem tensorMovesCopyTheirParts : Obligations.TensorMovesCopyTheirParts := by
  unfold Obligations.TensorMovesCopyTheirParts
  refine ⟨?begin, ?part, fun s c r cause operand => tileFail_path s c r cause operand, fun s u c r j l x => moveOn_row, ?row, ?tensor, ?reserved⟩
  case begin =>
    intro s s1 c r p hpm hr hp
    rw [exec_move c s p hpm]
    refine ⟨fun hf => ?_, fun hf hb => ?_, fun hf hb => ⟨?_, ?_, ?_, ?_⟩⟩
    · rw [tileMove_givenUp hr hp hf]
    · rw [tileMove_begun hr hp hf hb]
    · intro hop k o he
      rw [hop] at hr ⊢
      rw [tileMove_tensor_fails hr hp hf hb he]
    · intro hop k o he
      rw [tileMove_rows_fails hop hr hp hf hb he]
    · intro hop l ps ho
      rw [hop] at hr ⊢
      rw [tileMove_tensor hr hp hf hb ho]
    · intro hop ws ho
      rw [tileMove_rows hop hr hp hf hb ho]
  case part =>
    intro s c r p o hd hm hrows hu hdis
    obtain ⟨src, dst, n⟩ := p
    refine ⟨fun hsrc => ?zeros, fun a oa hsrc ha => ?copy⟩
    case zeros =>
      subst hsrc
      rw [LastPart.moveOn_zeros ⟨hm, hrows, hd, hu, hdis⟩]
      obtain ⟨hin, hout, hend⟩ := writeBytes_tileEnd s c (spadKey c o) r (List.length_replicate (n := n) (a := 0))
      exact ⟨fun b hb => (hin b hb).trans (by rw [List.getD_replicate 0 hb]; rfl), hout, hend⟩
    case copy =>
      subst hsrc
      rw [LastPart.moveOn_copy ⟨hm, hrows, hd, hu, hdis⟩ ha]
      obtain ⟨hin, hout, hend⟩ := writeBytes_tileEnd s c (spadKey c o) r (readBytes_length s (spadKey c oa) n)
      exact ⟨fun b hb => (hin b hb).trans (by rw [readBytes_getD s _ hb, BitVec.ofNat_toNat, BitVec.setWidth_eq]; rfl), hout, hend⟩
  case row =>
    intro s c r j ix w x hix h0 hle row
    have hx : s.mem.readN (spadKey c (ix + 4 * j)) 4 = x := by
      show s.mem.readN (c * 0x200000 + (ix + 4 * j)) 4 = s.mem.readN (c * 0x200000 + ix + 4 * j) 4
      rw [Nat.add_assoc]
    rw [rowMoves_eq hix, hx]
    have hgather : r.cmd.op = .tgather → (r.cmd.op == .tgather) = true := fun h => by rw [h]; rfl
    have hscatter : r.cmd.op ≠ .tgather → ¬ (r.cmd.op == .tgather) = true := fun h => by simpa using h
    refine ⟨fun hg hge => ?_, fun hg hge => ?_, fun hlt ht hd => ?_⟩
    · have hno : ¬ x < fld (r.word 2) 0 32 := Nat.not_lt.mpr hge
      rw [if_neg hno, if_pos (hgather hg)]
      rfl
    · have hno : ¬ x < fld (r.word 2) 0 32 := Nat.not_lt.mpr hge
      rw [if_neg hno, if_neg (hscatter hg)]
    · have hin : x < fld (r.word 2) 0 32 := hlt
      rw [if_pos hin]
      constructor
      · intro hg
        rw [if_pos (hgather hg), if_pos (hgather hg)]
        exact tileMoves_whole _ _ _ h0 ht hd
      · intro hg
        rw [if_neg (hscatter hg), if_neg (hscatter hg)]
        exact tileMoves_whole _ _ _ h0 hd ht
  case tensor =>
    intro s key w at_ t
    refine ⟨rfl, fun h => ?_, fun h => ?_⟩
    · simp only [t, w, at_, Nat.mul_zero, Nat.add_zero, Nat.mul_one, Nat.reduceMul, List.foldl_cons, List.foldl_nil] at h ⊢
      rw [tensorAt_pieces_one s key h]
      simp only [State.tensorDim, ofInt, Nat.mul_zero, Nat.add_zero, Nat.reduceMul]
    · simp only [t, w, at_, Nat.mul_zero, Nat.add_zero, Nat.mul_one, Nat.reduceMul, List.foldl_cons, List.foldl_nil] at h ⊢
      rw [tensorAt_pieces_two s key h]
      simp only [State.tensorDim, ofInt, Nat.mul_zero, Nat.add_zero, Nat.mul_one, Nat.reduceMul, Nat.reduceAdd]
  case reserved =>
    intro s u key h0 h1 h2 hd
    obtain ⟨hn, hsize⟩ := fld_fld_low h0
    refine tensorAt_congr hn hsize h1 h2 fun j hj => ?_
    obtain ⟨hcount, hstrides⟩ := hd j hj
    simp only [State.tensorDim, hcount, hstrides]

end Sys2Proof.Machine

/-! ## The state after reset (O1, O2) -/

namespace Sys2Proof.Machine

open State Sys2Proof.Claims

theorem slot_reset (t : Nat) : State.reset.slot t = {} := rfl
theorem coreRec_reset (c : Nat) : State.reset.coreRec c = {} := rfl
theorem name_reset (c i : Nat) : State.reset.name c i = {} := rfl

theorem regIsFull_reset (t v : Nat) : State.reset.regIsFull t v = true := Bool.or_true _

theorem awaits_reset (t v : Nat) : State.reset.awaits t v = false := by
  simp [State.awaits, slot_reset]

/-- Settles O1: nothing is listed after reset, so that every slot, core and entry reads as its reset value. -/
theorem resetLeavesEveryBitFull : Obligations.ResetLeavesEveryBitFull := by
  unfold Obligations.ResetLeavesEveryBitFull
  refine ⟨fun _ => rfl, regIsFull_reset, fun t => ?slots, fun c i => ?names, fun c => ?tables⟩
  case slots => rw [slot_reset]; exact ⟨rfl, rfl, awaits_reset t⟩
  case names => rw [name_reset]; exact ⟨rfl, rfl⟩
  case tables => rw [coreRec_reset]; exact ⟨rfl, rfl⟩

/-- Settles O2: the empty list is canonical. -/
theorem resetHasCanonicalMemory : Obligations.ResetHasCanonicalMemory := Memory.wf_nil

end Sys2Proof.Machine

/-! ## Bit fields of words and of register images (O23, O39, O55) -/

namespace Sys2Proof.Machine

open State Sys2Proof.Claims

theorem fld_eq_div_mod (x : Word) (lo w : Nat) : fld x lo w = x.toNat / 2 ^ lo % 2 ^ w := by
  rw [fld, Nat.shiftRight_eq_div_pow]

theorem fld_lt (x : Word) (lo w : Nat) : fld x lo w < 2 ^ w := Nat.mod_lt _ (Nat.two_pow_pos w)

theorem bitAt_eq_decide (x : Word) (i : Nat) : bitAt x i = decide (x.toNat / 2 ^ i % 2 = 1) := by
  rw [bitAt, BitVec.getLsbD, Nat.testBit_eq_decide_div_mod_eq]

theorem fld_ofNat {n : Nat} (h : n < 2 ^ 64) (lo w : Nat) : fld (ofNat n) lo w = n / 2 ^ lo % 2 ^ w := by
  rw [fld_eq_div_mod, ofNat, BitVec.toNat_ofNat, Nat.mod_eq_of_lt h]

theorem bitAt_eq_fld (x : Word) (i : Nat) : bitAt x i = decide (fld x i 1 = 1) := by
  rw [bitAt_eq_decide, fld_eq_div_mod, Nat.pow_one]

/-- The fields of a register image stand one above the other, from bit base on and below bit 64. -/
def Ascending : Nat → List (Nat × Nat × Nat) → Prop
  | base, [] => base ≤ 64
  | base, (_, lo, w) :: r => base ≤ lo ∧ Ascending (lo + w) r

/-- The number that a register image holds. -/
def packNat : List (Nat × Nat × Nat) → Nat
  | [] => 0
  | (v, lo, w) :: r => v % 2 ^ w * 2 ^ lo + packNat r

theorem pack_eq_ofNat (fs : List (Nat × Nat × Nat)) : pack fs = ofNat (packNat fs) := by
  have h : ∀ acc, fs.foldl (fun acc f => acc + ((f.1 % 2 ^ f.2.2) <<< f.2.1)) acc = acc + packNat fs := by
    induction fs with
    | nil => exact fun _ => rfl
    | cons f r ih => intro acc; rw [List.foldl_cons, ih, packNat, Nat.shiftLeft_eq, Nat.add_assoc]
  rw [pack, h, Nat.zero_add]

theorem Ascending.le_64 {base : Nat} {fs : List (Nat × Nat × Nat)} (h : Ascending base fs) : base ≤ 64 := by
  induction fs generalizing base with
  | nil => exact h
  | cons f r ih =>
    obtain ⟨hlo, hr⟩ := h
    have := ih hr
    omega

/-- The fields from bit base on are a multiple of 2 ^ base below 2 ^ 64. -/
theorem Ascending.packNat_eq {base : Nat} {fs : List (Nat × Nat × Nat)} (h : Ascending base fs) :
    ∃ k, packNat fs = 2 ^ base * k ∧ k < 2 ^ (64 - base) := by
  induction fs generalizing base with
  | nil => exact ⟨0, rfl, Nat.two_pow_pos _⟩
  | cons f r ih =>
    obtain ⟨v, lo, w⟩ := f
    obtain ⟨hlo, hr⟩ := h
    obtain ⟨k, hk, hlt⟩ := ih hr
    have h64 := hr.le_64
    have hv : v % 2 ^ w < 2 ^ w := Nat.mod_lt _ (Nat.two_pow_pos w)
    have hw : 2 ^ (64 - lo) = 2 ^ w * 2 ^ (64 - (lo + w)) := by rw [← Nat.pow_add]; congr 1; omega
    have hfit : v % 2 ^ w + 2 ^ w * k < 2 ^ (64 - lo) := by
      rw [hw]
      calc v % 2 ^ w + 2 ^ w * k < 2 ^ w + 2 ^ w * k := by omega
        _ = 2 ^ w * (k + 1) := by ring
        _ ≤ 2 ^ w * 2 ^ (64 - (lo + w)) := Nat.mul_le_mul_left _ hlt
    refine ⟨2 ^ (lo - base) * (v % 2 ^ w + 2 ^ w * k), ?_, ?_⟩
    · have : (2 : Nat) ^ lo = 2 ^ base * 2 ^ (lo - base) := by rw [← Nat.pow_add]; congr 1; omega
      rw [packNat, hk, Nat.pow_add, this]; ring
    · have : (2 : Nat) ^ (64 - base) = 2 ^ (lo - base) * 2 ^ (64 - lo) := by rw [← Nat.pow_add]; congr 1; omega
      rw [this]
      exact Nat.mul_lt_mul_of_pos_left hfit (Nat.two_pow_pos _)

theorem packNat_field {base : Nat} {fs : List (Nat × Nat × Nat)} (h : Ascending base fs) {v lo w : Nat} (hm : (v, lo, w) ∈ fs) :
    base ≤ lo ∧ packNat fs / 2 ^ lo % 2 ^ w = v % 2 ^ w := by
  induction fs generalizing base with
  | nil => cases hm
  | cons f r ih =>
    obtain ⟨u, l, m⟩ := f
    obtain ⟨hlo, hr⟩ := h
    rcases List.mem_cons.mp hm with heq | hin
    · obtain ⟨rfl, rfl, rfl⟩ : v = u ∧ lo = l ∧ w = m := by simpa using heq
      obtain ⟨k, hk, -⟩ := hr.packNat_eq
      refine ⟨hlo, ?_⟩
      rw [packNat, hk, Nat.pow_add, Nat.mul_assoc, Nat.mul_comm (v % 2 ^ w), ← Nat.mul_add, Nat.mul_div_cancel_left _ (Nat.two_pow_pos lo),
        Nat.add_mul_mod_self_left, Nat.mod_mod]
    · obtain ⟨hle, hval⟩ := ih hr hin
      refine ⟨by omega, ?_⟩
      obtain ⟨k, hk, -⟩ := hr.packNat_eq
      have hlow : u % 2 ^ m * 2 ^ l < 2 ^ (l + m) := by
        rw [Nat.add_comm l m, Nat.pow_add]
        exact Nat.mul_lt_mul_of_pos_right (Nat.mod_lt _ (Nat.two_pow_pos m)) (Nat.two_pow_pos l)
      have hsplit : (2 : Nat) ^ lo = 2 ^ (l + m) * 2 ^ (lo - (l + m)) := by rw [← Nat.pow_add]; congr 1; omega
      rw [← hval, packNat, hk, hsplit, ← Nat.div_div_eq_div_mul, ← Nat.div_div_eq_div_mul, Nat.add_mul_div_left _ _ (Nat.two_pow_pos _),
        Nat.div_eq_of_lt hlow, Nat.zero_add, Nat.mul_div_cancel_left _ (Nat.two_pow_pos _)]

/-- A field of a register image reads as the value it was formed from, cut to its width. -/
theorem fld_pack {fs : List (Nat × Nat × Nat)} (h : Ascending 0 fs) {v lo w : Nat} (hm : (v, lo, w) ∈ fs) : fld (pack fs) lo w = v % 2 ^ w := by
  obtain ⟨k, hk, hlt⟩ := h.packNat_eq
  have h64 : packNat fs < 2 ^ 64 := by rw [hk, Nat.pow_zero, Nat.one_mul]; exact hlt
  rw [pack_eq_ofNat, fld_ofNat h64]
  exact (packNat_field h hm).2

theorem bitAt_pack {fs : List (Nat × Nat × Nat)} (h : Ascending 0 fs) {b : Bool} {i : Nat} (hm : (boolNat b, i, 1) ∈ fs) : bitAt (pack fs) i = b := by
  rw [bitAt_eq_fld, fld_pack h hm]
  cases b <;> rfl

/-- The low bits of a word, as a number and as a mask leaves them. -/
theorem ofNat_fld_zero (x : Word) {k : Nat} (h : k ≤ 64) : ofNat (fld x 0 k) = x &&& ofNat (2 ^ k - 1) := by
  have hk : 2 ^ k - 1 < 2 ^ 64 := by
    have := Nat.pow_le_pow_right (n := 2) (by omega) h
    have := Nat.two_pow_pos k
    omega
  apply BitVec.eq_of_toNat_eq
  have hf : fld x 0 k < 2 ^ 64 := Nat.lt_of_lt_of_le (fld_lt x 0 k) (Nat.pow_le_pow_right (by omega) h)
  rw [ofNat, BitVec.toNat_ofNat, Nat.mod_eq_of_lt hf, BitVec.toNat_and, ofNat, BitVec.toNat_ofNat, Nat.mod_eq_of_lt hk,
    Nat.and_two_pow_sub_one_eq_mod, fld_eq_div_mod, Nat.pow_zero, Nat.div_one]

end Sys2Proof.Machine

/-! ## Addresses (O23) -/

namespace Sys2Proof.Machine

open State Sys2Proof.Claims

/-! ### The fields of a space-00 address -/

theorem boolNat_lt (b : Bool) : boolNat b < 2 := by cases b <;> decide

theorem spaceZero_toNat {x y off : Nat} (hx : x < 256) (hy : y < 256) (ho : off < 2 ^ 21) (rel : Bool) :
    (spaceZero x y off rel).toNat = off + x * 2 ^ 32 + y * 2 ^ 40 + boolNat rel * 2 ^ 61 := by
  have hrel : (if rel then 2 ^ 61 else 0) = boolNat rel * 2 ^ 61 := by cases rel <;> rfl
  have hb := boolNat_lt rel
  rw [spaceZero, BitVec.toNat_ofNat, hrel, Nat.mod_eq_of_lt (by omega)]

/-- What the fields of an address with the given X, Y, offset and form hold. -/
structure SpadAddress (a : Word) (x y off : Nat) (rel : Bool) : Prop where
  space : fld a 62 2 = 0
  high : fld a 48 13 = 0
  mid : fld a 21 11 = 0
  x : fld a 32 8 = x
  y : fld a 40 8 = y
  off : fld a 0 21 = off
  rel : bitAt a 61 = rel

theorem spaceZero_fields {x y off : Nat} (hx : x < 256) (hy : y < 256) (ho : off < 2 ^ 21) (rel : Bool) :
    SpadAddress (spaceZero x y off rel) x y off rel := by
  have h := spaceZero_toNat hx hy ho rel
  have hb := boolNat_lt rel
  constructor
  case rel =>
    have hbit : (spaceZero x y off rel).toNat / 2 ^ 61 % 2 = boolNat rel := by rw [h]; omega
    rw [bitAt_eq_decide, hbit]
    cases rel <;> rfl
  all_goals
    rw [fld_eq_div_mod, h]
    omega

/-- The column that an address names for core c (R93). -/
def placeX (c : Nat) (a : Word) : Int := if bitAt a 61 then coreX c + signed (fld a 32 8) 8 else fld a 32 8
/-- The row that an address names for core c (R93). -/
def placeY (c : Nat) (a : Word) : Int := if bitAt a 61 then coreY c + signed (fld a 40 8) 8 else fld a 40 8
/-- The core that an address names for core c (R93). -/
def placeCore (c : Nat) (a : Word) : Nat := coreAt (placeX c a).toNat (placeY c a).toNat

/-- The place lies outside the grid, or the offset outside the scratchpad. -/
def PlaceOutside (c : Nat) (a : Word) : Prop := placeX c a < 0 ∨ 31 < placeX c a ∨ placeY c a < 0 ∨ 39 < placeY c a ∨ 0x180000 ≤ fld a 0 21

section
variable {s : State} {c n : Nat} {r : Rights} {a : Word}

/-! ### Space 00 -/

theorem resolve_spad_reserved (h : fld a 62 2 = 0) (hr : fld a 48 13 ≠ 0 ∨ fld a 21 11 ≠ 0) : s.resolve c r a n = .error (.trap 0x04 a) := by
  simp only [State.resolve, h, if_pos hr]

theorem resolve_spad_outside (h : fld a 62 2 = 0) (ho : PlaceOutside c a) : s.resolve c r a n = .error (.trap 0x04 a) := by
  by_cases hr : fld a 48 13 ≠ 0 ∨ fld a 21 11 ≠ 0
  · exact resolve_spad_reserved h hr
  · have ho' : placeX c a < 0 ∨ placeX c a > 31 ∨ placeY c a < 0 ∨ placeY c a > 39 ∨ fld a 0 21 ≥ Config.spadSize := ho
    simp only [placeX, placeY] at ho'
    simp only [State.resolve, h, if_neg hr, if_pos ho']

/-- An address whose place is in the grid: alignment, then the core, then the partition (R93, R403). -/
theorem resolve_spad_inside (h : fld a 62 2 = 0) (h1 : fld a 48 13 = 0) (h2 : fld a 21 11 = 0) (ho : ¬ PlaceOutside c a) :
    s.resolve c r a n =
      if fld a 0 21 % n ≠ 0 then .error (.trap 0x03 a)
      else if s.isOffline (placeCore c a) then .error (.trap 0x04 a)
      else if !r.sup && (s.isPager (placeCore c a) || !s.inPartition r.ctx (placeCore c a)) then .error (.trap 0x05 a)
      else .ok (.spad (placeCore c a) (fld a 0 21)) := by
  have hr : ¬ (fld a 48 13 ≠ 0 ∨ fld a 21 11 ≠ 0) := by simp only [h1, h2, ne_eq, not_true_eq_false, or_self, not_false_eq_true]
  have ho' : ¬ (placeX c a < 0 ∨ placeX c a > 31 ∨ placeY c a < 0 ∨ placeY c a > 39 ∨ fld a 0 21 ≥ Config.spadSize) := ho
  simp only [placeX, placeY] at ho'
  simp only [State.resolve, h, if_neg hr, if_neg ho', Bool.false_and, Bool.or_false, placeCore, placeX, placeY]
  rfl

/-! ### Spaces 01 and 11, and the fabric -/

theorem resolve_space_three (h : fld a 62 2 = 3) : s.resolve c r a n = .error (.trap 0x04 a) := by
  simp only [State.resolve, h]

theorem resolve_bulk (h : fld a 62 2 = 1) : s.resolve c r a n =
    if fld a 48 14 ≠ 0 then .error (.trap 0x04 a) else if a.toNat % n ≠ 0 then .error (.trap 0x03 a) else .ok (.bulk (fld a 0 48)) := by
  simp only [State.resolve, h]

theorem resolve_fabric_reserved (h : fld a 62 2 = 2) (hr : fld a 54 7 ≠ 0) : s.resolve c r a n = .error (.trap 0x04 a) := by
  simp only [State.resolve, h, if_pos hr]

theorem resolve_fabric_own_bulk (h : fld a 62 2 = 2) (hr : fld a 54 7 = 0) (hp : fld a 48 6 = s.pkgNum) (hb : bitAt a 61 = true) :
    s.resolve c r a n = if a.toNat % n ≠ 0 then .error (.trap 0x03 a) else .ok (.bulk (fld a 0 48)) := by
  simp only [State.resolve, h, if_neg (not_not.mpr hr), if_neg (not_not.mpr hp), if_pos hb]

theorem resolve_fabric_abroad (h : fld a 62 2 = 2) (hr : fld a 54 7 = 0) (hp : fld a 48 6 ≠ s.pkgNum) : s.resolve c r a n =
    if a.toNat % n ≠ 0 then .error (.trap 0x03 a)
    else if bitAt a 61 = false ∧ (fld a 21 11 ≠ 0 ∨ 31 < fld a 32 8 ∨ 39 < fld a 40 8 ∨ 0x180000 ≤ fld a 0 21) then .error (.trap 0x04 a)
    else .ok (.fabric (fld a 48 6) a) := by
  have hout : (!bitAt a 61 && (fld a 21 11 != 0 || decide (fld a 32 8 > 31) || decide (fld a 40 8 > 39) || decide (fld a 0 21 ≥ Config.spadSize))) = true ↔
      bitAt a 61 = false ∧ (fld a 21 11 ≠ 0 ∨ 31 < fld a 32 8 ∨ 39 < fld a 40 8 ∨ 0x180000 ≤ fld a 0 21) := by
    simp only [Bool.and_eq_true, Bool.not_eq_true', Bool.or_eq_true, bne_iff_ne, decide_eq_true_eq, Config.spadSize, or_assoc, gt_iff_lt, ge_iff_le]
  simp only [State.resolve, h, if_neg (not_not.mpr hr), if_pos hp, hout]

/-- The low 48 bits of an address are a space-00 address. -/
theorem fld_low48_space (a : Word) : fld (ofNat (fld a 0 48)) 62 2 = 0 := by
  have := fld_lt a 0 48
  rw [fld_ofNat (by omega)]
  omega

theorem resolve_fabric_own_ok {t off : Nat} (h : fld a 62 2 = 2) (hr : fld a 54 7 = 0) (hp : fld a 48 6 = s.pkgNum) (hb : bitAt a 61 = false)
    (hl : s.resolve c r (ofNat (fld a 0 48)) n = .ok (.spad t off)) : s.resolve c r a n = .ok (.spad t off) := by
  have h0 := fld_low48_space a
  simp only [State.resolve, h0] at hl
  simp only [State.resolve, h, if_neg (not_not.mpr hr), if_neg (not_not.mpr hp), if_neg (ne_true_of_eq_false hb)]
  rw [hl]

theorem resolve_fabric_own_trap {k : Nat} {v : Word} (h : fld a 62 2 = 2) (hr : fld a 54 7 = 0) (hp : fld a 48 6 = s.pkgNum) (hb : bitAt a 61 = false)
    (hl : s.resolve c r (ofNat (fld a 0 48)) n = .error (.trap k v)) : s.resolve c r a n = .error (.trap k a) := by
  have h0 := fld_low48_space a
  simp only [State.resolve, h0] at hl
  simp only [State.resolve, h, if_neg (not_not.mpr hr), if_neg (not_not.mpr hp), if_neg (ne_true_of_eq_false hb)]
  rw [hl]

end

/-- Settles O23: the address's space decides which of the resolutions above applies. -/
theorem addressesResolveByTheirSpace : Obligations.AddressesResolveByTheirSpace := by
  unfold Obligations.AddressesResolveByTheirSpace
  refine ⟨?spad, ?absolute, ?reserved, ?three, ?bulk, ?fabricReserved, ?own, ?abroad⟩
  case spad =>
    intro s c r x y off n rel hx hy ho _ a X Y t
    have f : SpadAddress a x y off rel := spaceZero_fields hx hy ho rel
    have hX : placeX c a = X := by rw [placeX, f.x, f.rel]
    have hY : placeY c a = Y := by rw [placeY, f.y, f.rel]
    have ht : placeCore c a = t := by rw [placeCore, hX, hY]
    have hout : PlaceOutside c a ↔ X < 0 ∨ 31 < X ∨ Y < 0 ∨ 39 < Y ∨ 0x180000 ≤ off := by rw [PlaceOutside, hX, hY, f.off]
    refine ⟨fun h => resolve_spad_outside f.space (hout.mpr h), fun h1 h2 h3 h4 h5 => ?_⟩
    have hin := resolve_spad_inside (s := s) (r := r) (n := n) f.space f.high f.mid (mt hout.mp (by omega))
    rw [ht, f.off] at hin
    refine ⟨fun hm => ?_, fun hm hoff => ?_, fun hm hoff => ⟨fun hr => ?_, fun hr => ?_⟩⟩
    · rw [hin, if_pos hm]
    · rw [hin, if_neg (not_not.mpr hm), if_pos hoff]
    · rw [hin, if_neg (not_not.mpr hm), hoff, if_neg Bool.false_ne_true, if_neg]
      rcases hr with hs | ⟨hp, hi⟩
      · simp [hs]
      · simp [hp, hi]
    · obtain ⟨hs, hp⟩ := hr
      rw [hin, if_neg (not_not.mpr hm), hoff, if_neg Bool.false_ne_true, if_pos]
      rcases hp with hp | hi
      · simp [hs, hp]
      · simp [hs, hi]
  case absolute => exact fun x y off => by rw [spaceZero, Claims.absolute, if_neg Bool.false_ne_true, Nat.add_zero]
  case reserved => exact fun s c r a n h hr => resolve_spad_reserved h hr
  case three => exact fun s c r a n h => resolve_space_three h
  case bulk =>
    intro s c r a n h
    rw [resolve_bulk h]
    exact ⟨fun h1 => if_pos h1, fun h1 h2 => by rw [if_neg (not_not.mpr h1), if_pos h2], fun h1 h2 => by rw [if_neg (not_not.mpr h1), if_neg (not_not.mpr h2)]⟩
  case fabricReserved => exact fun s c r a n h hr => resolve_fabric_reserved h hr
  case own =>
    intro s c r a n h hr hp
    refine ⟨fun hb => ⟨fun t off => resolve_fabric_own_ok h hr hp hb, fun k v => resolve_fabric_own_trap h hr hp hb⟩, fun hb => ?_⟩
    rw [resolve_fabric_own_bulk h hr hp hb]
    exact ⟨fun h1 => if_pos h1, fun h1 => if_neg (not_not.mpr h1)⟩
  case abroad =>
    intro s c r a n h hr hp outside
    rw [resolve_fabric_abroad h hr hp]
    exact ⟨fun h1 => if_pos h1, fun h1 h2 => by rw [if_neg (not_not.mpr h1), if_pos h2], fun h1 h2 => by rw [if_neg (not_not.mpr h1), if_neg h2]⟩

end Sys2Proof.Machine

/-! ## Special registers (O55) -/

namespace Sys2Proof.Machine

open State Sys2Proof.Claims

/-! ### Numbers and privilege -/

theorem lt_of_mem_userSpecials {n : Nat} (h : n ∈ userSpecials) : n < 0x100 := by
  have : ∀ k ∈ userSpecials, k < 0x100 := by decide
  exact this n h

theorem le_of_mem_supervisorSpecials {n : Nat} (h : n ∈ supervisorSpecials) : 0x100 ≤ n := by
  have : ∀ k ∈ supervisorSpecials, 0x100 ≤ k := by decide
  exact this n h

theorem checkSpecial_ok {word : Word} {n : Nat} {s : State} (h : n ∈ userSpecials ∨ (n ∈ supervisorSpecials ∧ s.me.mode ≠ 0)) :
    checkSpecial word n s = .ok () := by
  rcases h with hu | ⟨hs, hm⟩
  · simp [checkSpecial, lt_of_mem_userSpecials hu, hu]
  · simp [checkSpecial, Nat.not_lt.mpr (le_of_mem_supervisorSpecials hs), hs, hm]

theorem checkSpecial_privileged {word : Word} {n : Nat} {s : State} (h : 0x100 ≤ n) (hm : s.me.mode = 0) :
    checkSpecial word n s = .error (.trap 0x0D word) := by
  simp [checkSpecial, Nat.not_lt.mpr h, hm]

theorem checkSpecial_unassigned {word : Word} {n : Nat} {s : State} (hu : n ∉ userSpecials) (hs : n ∉ supervisorSpecials)
    (h : n < 0x100 ∨ s.me.mode ≠ 0) : checkSpecial word n s = .error (.trap 0x01 word) := by
  by_cases hn : n < 0x100
  · simp [checkSpecial, hn, hu]
  · simp [checkSpecial, hn, hs, h.resolve_left hn]

theorem exec_srd (d : RegCode) (num : BitVec 12) (s : State) : exec (.srd d num) s = s.finish (srd (Instr.srd d num).word d num s) := rfl
theorem exec_swr (d : RegCode) (num : BitVec 12) (s : State) : exec (.swr d num) s = s.finish (swr (Instr.swr d num).word d num s) := rfl

theorem exec_srd_trap {d : RegCode} {num : BitVec 12} {s : State} {k : Nat} {v : Word}
    (h : checkSpecial (Instr.srd d num).word num.toNat s = .error (.trap k v)) : exec (.srd d num) s = .next (s.takeTrap s.cur k v) := by
  simp only [exec_srd, srd, h, finish_error, stop_trap]

theorem exec_swr_trap {d : RegCode} {num : BitVec 12} {s : State} {k : Nat} {v : Word}
    (h : checkSpecial (Instr.swr d num).word num.toNat s = .error (.trap k v)) : exec (.swr d num) s = .next (s.takeTrap s.cur k v) := by
  simp only [exec_swr, swr, h, finish_error, stop_trap]

/-! ### Commands seen to be over by a read (R132) -/

theorem State.seeTiles_none (s : State) : s.seeTiles (fun _ => false) = s := by
  simp [State.seeTiles, State.forgetTiles]

theorem State.seeTiles_coreRec_pipes (s : State) (p : TileCmd → Bool) (c : Nat) : ((s.seeTiles p).coreRec c).pipes = (s.coreRec c).pipes := by
  unfold State.seeTiles State.forgetTiles
  split
  · unfold State.modMatrix
    by_cases h : c = s.here
    · subst h; rw [coreRec_modCore_self]
    · rw [coreRec_modCore_ne _ _ h]
  · rfl

@[simp] theorem State.seeTiles_me (s : State) (p : TileCmd → Bool) : (s.seeTiles p).me = s.me := forgetTiles_me _ _ _
@[simp] theorem State.seeTiles_cur (s : State) (p : TileCmd → Bool) : (s.seeTiles p).cur = s.cur := by
  unfold State.seeTiles State.forgetTiles; split <;> rfl
@[simp] theorem State.seeTiles_here (s : State) (p : TileCmd → Bool) : (s.seeTiles p).here = s.here := by simp [State.here]
@[simp] theorem State.seeTiles_isMail (s : State) (p : TileCmd → Bool) (v : Nat) : (s.seeTiles p).isMail v = s.isMail v := by
  simp [State.isMail, State.num]
@[simp] theorem State.seeTiles_pipe (s : State) (p : TileCmd → Bool) (c n : Nat) : (s.seeTiles p).pipe c n = s.pipe c n := by
  rw [State.pipe, seeTiles_coreRec_pipes, State.pipe]

@[simp] theorem State.seeTiles_checkCodes (s : State) (p : TileCmd → Bool) (l : List Nat) : (s.seeTiles p).checkCodes l = s.checkCodes l := by
  induction l with
  | nil => rfl
  | cons v r ih => simp only [State.checkCodes, State.checkCode, seeTiles_me, seeTiles_isMail, ih]

/-- The checks of an instruction without a source do not read the engine. -/
theorem State.seeTiles_operands (s : State) (p : TileCmd → Bool) (word : Word) (dsts : List Nat) :
    (s.seeTiles p).operands word [] dsts = s.operands word [] dsts := by
  simp only [State.operands, State.checkQueues, seeTiles_checkCodes, seeTiles_me, State.readSources]

theorem State.awaits_me (s : State) (v : Nat) : s.awaits s.cur v = (v != 0 && s.me.awaiting.getLsbD v) := rfl

theorem State.seeTiles_destReady (s : State) (p : TileCmd → Bool) (d : Nat) : (s.seeTiles p).destReady d = s.destReady d := by
  simp only [State.destReady, awaits_me, seeTiles_me, seeTiles_here, seeTiles_pipe, seeTiles_isMail]
  rfl

/-- SRD of a register that the slot may read completes with its value (R160). -/
theorem exec_srd_reads {d : RegCode} {num : BitVec 12} {s : State} (hc : checkSpecial (Instr.srd d num).word num.toNat s = .ok ())
    (ho : s.operands (Instr.srd d num).word [] [d.toNat] = .ok []) (hd : s.destReady d.toNat = .ok ()) :
    exec (.srd d num) s = .next ((s.seeTiles (shownTiles s.me num.toNat)).complete [] d.toNat (s.readSpecial num.toNat)) := by
  simp only [exec_srd, srd, hc, State.compute, seeTiles_operands, ho, seeTiles_destReady, hd, finish_ok]

theorem shownTiles_other (sl : Slot) {n : Nat} (h1 : n ≠ 0x00D) (h2 : n ≠ 0x00E) : shownTiles sl n = fun _ => false := by
  funext q; simp only [shownTiles, h1, h2, if_false]

theorem shownTiles_cnt (sl : Slot) : shownTiles sl 0x00D = fun _ => sl.tl == 0 := rfl
theorem shownTiles_tok (sl : Slot) : shownTiles sl 0x00E = fun q => !sl.tok.getLsbD q.k := rfl

/-! ### What a write leaves alone -/

/-- t has the memory, the register file and the other slots of s, and the issuing slot's pc. -/
structure WritesSpecials (s t : State) : Prop where
  mem : t.mem = s.mem
  regs : t.regs = s.regs
  regFull : t.regFull = s.regFull
  others : ∀ u, u ≠ s.cur → t.slot u = s.slot u
  pc : t.me.pc = s.me.pc

theorem WritesSpecials.refl (s : State) : WritesSpecials s s := ⟨rfl, rfl, rfl, fun _ _ => rfl, rfl⟩

theorem WritesSpecials.ite {p : Prop} [Decidable p] {s t u : State} (ht : WritesSpecials s t) (hu : WritesSpecials s u) :
    WritesSpecials s (if p then t else u) := by
  split
  · exact ht
  · exact hu

theorem WritesSpecials.modMe (s : State) (f : Slot → Slot) (h : (f s.me).pc = s.me.pc) : WritesSpecials s (s.modMe f) :=
  ⟨rfl, rfl, rfl, fun _ hu => slot_modMe_ne s f hu, by rw [me_modMe, h]⟩

theorem WritesSpecials.modCore (s : State) (c : Nat) (f : CoreRec → CoreRec) : WritesSpecials s (s.modCore c f) :=
  ⟨rfl, rfl, rfl, fun _ _ => rfl, rfl⟩

/-- A write that leaves the slots alone. -/
theorem WritesSpecials.of_slots {s t : State} (hm : t.mem = s.mem) (hr : t.regs = s.regs) (hf : t.regFull = s.regFull) (hs : t.slots = s.slots)
    (hc : t.cur = s.cur) : WritesSpecials s t :=
  ⟨hm, hr, hf, fun u _ => slot_of_slots hs u, by rw [State.me, hc, slot_of_slots hs]; rfl⟩

theorem WritesSpecials.clearDirty (s : State) (c : Nat) (w : Word) : WritesSpecials s (s.clearDirty c w) := by
  have keep {β : Type} (g : State → β) (hg : ∀ (x : State) d, g { x with dirty := d } = g x) : g (s.clearDirty c w) = g s := by
    unfold State.clearDirty
    refine foldl_keeps g _ (fun j _ x => ?_) s
    split
    · exact hg _ _
    · rfl
  exact .of_slots (keep (·.mem) fun _ _ => rfl) (keep (·.regs) fun _ _ => rfl) (keep (·.regFull) fun _ _ => rfl)
    (keep (·.slots) fun _ _ => rfl) (keep (·.cur) fun _ _ => rfl)

theorem WritesSpecials.writeCtxCmd (s : State) (w : Word) : WritesSpecials s (s.writeCtxCmd w) := by
  unfold State.writeCtxCmd
  exact .ite (.of_slots rfl rfl rfl rfl rfl) (.of_slots rfl rfl rfl rfl rfl)

theorem WritesSpecials.writeNetCfg (s : State) (w : Word) : WritesSpecials s (s.writeNetCfg w) := by
  unfold State.writeNetCfg
  exact .ite (.refl s) (.of_slots rfl rfl rfl rfl rfl)

theorem WritesSpecials.writeLinkNote (s : State) (w : Word) : WritesSpecials s (s.writeLinkNote w) := by
  unfold State.writeLinkNote State.deliverNotice
  split
  · exact .of_slots rfl rfl rfl rfl rfl
  · refine .ite (.of_slots rfl rfl rfl rfl rfl) (.ite (.of_slots rfl rfl rfl rfl rfl) (.ite (.of_slots rfl rfl rfl rfl rfl) ?_))
    unfold State.sendAbroad
    exact .ite (.of_slots rfl rfl rfl rfl rfl) (.of_slots rfl rfl rfl rfl rfl)

/-- A write to a special register changes no memory, no register-file entry, no other slot and not the pc, whatever the register. -/
theorem writeSpecial_keeps (s : State) (n : Nat) (w : Word) : WritesSpecials s (s.writeSpecial n w) := by
  have slotField (f : Slot → Slot) (h : (f s.me).pc = s.me.pc) : WritesSpecials s (s.modMe f) := .modMe s f h
  have coreField (f : CoreRec → CoreRec) : WritesSpecials s (s.modCore s.here f) := .modCore s _ f
  have field {t : State} (h : t = { s with ctxBase := t.ctxBase, partBase := t.partBase }) : WritesSpecials s t := by
    rw [h]; exact .of_slots rfl rfl rfl rfl rfl
  unfold State.writeSpecial
  refine .ite (slotField _ rfl) <| .ite (slotField _ rfl) <| .ite (slotField _ rfl) <| .ite (slotField _ rfl) <| .ite (slotField _ rfl) <|
    .ite (slotField _ rfl) <| .ite (coreField _) <| .ite (coreField _) <| .ite (slotField _ rfl) <| .ite (slotField _ rfl) <|
    .ite (field rfl) <| .ite (coreField _) <| .ite (.clearDirty s _ w) <| .ite (.writeCtxCmd s w) <| .ite (coreField _) <| .ite (coreField _) <|
    .ite (field rfl) <| .ite (coreField _) <| .ite (.of_slots rfl rfl rfl rfl rfl) <| .ite (.writeNetCfg s w) <| .ite (.writeLinkNote s w) <| .refl s

/-! ### What a write sets -/

theorem and_allOnes_self (w : Word) : w &&& allOnes = w := BitVec.and_allOnes

/-- A register that a write sets as a whole reads as the written bits of its fields (R160). -/
theorem readSpecial_writeSpecial (s : State) (w : Word) :
    ∀ p ∈ [((0x008 : Nat), (0x3F03 : Word)), (0x009, 0xFFF), (0x00A, allOnes), (0x00B, allOnes), (0x00C, 0xFFFFFF), (0x011, 0xFFFFFF), (0x018, allOnes), (0x019, allOnes),
      (0x020, allOnes), (0x023, allOnes), (0x100, allOnes), (0x101, allOnes), (0x104, 0xFFFFFFFFFFFFFFF), (0x107, allOnes), (0x108, 0x1FFFFF)],
      (s.writeSpecial p.1 w).readSpecial p.1 = w &&& p.2 := by
  have task : ofNat (fld w 0 60) = w &&& 0xFFFFFFFFFFFFFFF := ofNat_fld_zero w (by omega)
  have page : ofNat (fld w 0 21) = w &&& 0x1FFFFF := ofNat_fld_zero w (by omega)
  simp [State.writeSpecial, State.readSpecial, fieldMask, Flag.mask, and_allOnes_self, task, page]

theorem State.clearDirty_dirty (s : State) (c : Nat) (w : Word) {j : Nat} (h : j < 24) :
    Store.get false (s.clearDirty c w).dirty (c * 24 + j) = (Store.get false s.dirty (c * 24 + j) && !bitAt w j) := by
  have step : ∀ (l : List Nat) (x : State), Store.get false (l.foldl (fun (x : State) i =>
      if bitAt w i then { x with dirty := Store.set false x.dirty (c * 24 + i) false } else x) x).dirty (c * 24 + j) =
      (Store.get false x.dirty (c * 24 + j) && !(decide (j ∈ l) && bitAt w j)) := by
    intro l
    induction l with
    | nil => simp
    | cons i l ih =>
      intro x
      rw [List.foldl_cons, ih]
      by_cases hij : j = i
      · subst hij
        cases hb : bitAt w j <;> simp
      · have hne : c * 24 + j ≠ c * 24 + i := by omega
        cases hb : bitAt w i <;> simp [hij, Store.get_set_ne _ _ _ hne]
  rw [State.clearDirty, step, decide_eq_true (List.mem_range.mpr h), Bool.true_and]

/-- TASKSTAT.WIN after a write (R182). -/
theorem taskStat_writeSpecial (s : State) (w : Word) : fld ((s.writeSpecial 0x105 w).readSpecial 0x105) 0 4 = w.toNat % 16 := by
  have hr (x : State) : x.readSpecial 0x105 = x.taskStat x.here := rfl
  have hw : s.writeSpecial 0x105 w = s.modCore s.here fun r => { r with taskWin := fld w 0 4 } := rfl
  rw [hr, hw, here_modCore, State.taskStat, coreRec_modCore_self, fld_pack (v := fld w 0 4) (by simp [Ascending]) (by simp), fld_eq_div_mod]
  omega

/-! ### CTXCMD and NETCFG -/

/-- CTXCMD with its field OP, which reads 0 (R152). -/
theorem ctxCmdWord_eq (s : State) :
    s.ctxCmdWord = pack [(s.ctxCmdId, 0, 9), (0, 16, 2), (boolNat s.ctxCmd.isSome, 24, 1), (boolNat s.ctxCmdErr, 25, 1)] := by
  rw [State.ctxCmdWord, pack_eq_ofNat, pack_eq_ofNat]
  simp only [packNat, Nat.zero_mod, Nat.zero_mul, Nat.zero_add]

theorem ctxCmdWord_id (s : State) : fld s.ctxCmdWord 0 9 = s.ctxCmdId % 2 ^ 9 := by
  rw [ctxCmdWord_eq]; exact fld_pack (by simp [Ascending]) (by simp)
theorem ctxCmdWord_op (s : State) : fld s.ctxCmdWord 16 2 = 0 := by
  rw [ctxCmdWord_eq]; exact fld_pack (v := 0) (by simp [Ascending]) (by simp)
theorem ctxCmdWord_busy (s : State) : bitAt s.ctxCmdWord 24 = s.ctxCmd.isSome := by
  rw [ctxCmdWord_eq]; exact bitAt_pack (by simp [Ascending]) (by simp)
theorem ctxCmdWord_err (s : State) : bitAt s.ctxCmdWord 25 = s.ctxCmdErr := by
  rw [ctxCmdWord_eq]; exact bitAt_pack (by simp [Ascending]) (by simp)

theorem State.writeCtxCmd_id (s : State) (w : Word) : (s.writeCtxCmd w).ctxCmdId = fld w 0 9 := by
  unfold State.writeCtxCmd; dsimp only; split <;> rfl
theorem State.writeCtxCmd_err (s : State) (w : Word) : (s.writeCtxCmd w).ctxCmdErr = (s.ctxCmdErr && !bitAt w 25) := by
  unfold State.writeCtxCmd; dsimp only; split <;> rfl
theorem State.writeCtxCmd_starts (s : State) (w : Word) (hn : s.ctxCmd = none) (ho : fld w 16 2 = 1 ∨ fld w 16 2 = 2) :
    (s.writeCtxCmd w).ctxCmd = some (fld w 16 2, fld w 0 9) := by
  rcases ho with h | h <;> simp [State.writeCtxCmd, hn, h]
theorem State.writeCtxCmd_ignored (s : State) (w : Word) (h : s.ctxCmd ≠ none ∨ fld w 16 2 = 0 ∨ fld w 16 2 = 3) :
    (s.writeCtxCmd w).ctxCmd = s.ctxCmd := by
  have hc : (s.ctxCmd.isSome || (fld w 16 2 != 1 && fld w 16 2 != 2)) = true := by
    rcases h with h | h | h
    · simp [Option.isSome_iff_ne_none.mpr h]
    · simp [h]
    · simp [h]
  simp [State.writeCtxCmd, hc]

theorem State.writeNetCfg_held (s : State) (w : Word) (h : ∃ e ∈ s.ctxs, e.1 ≠ 0 ∧ e.2.state ≠ 0) : (s.writeNetCfg w).netCfg = s.netCfg := by
  have hany : (s.ctxs.any fun e => e.1 != 0 && e.2.state != 0) = true := by simpa using h
  rw [State.writeNetCfg, if_pos hany]
theorem State.writeNetCfg_taken (s : State) (w : Word) (h : ∀ e ∈ s.ctxs, e.1 ≠ 0 → e.2.state = 0) :
    (s.writeNetCfg w).netCfg = w &&& 0x0000FFFFFFFFFF0F := by
  have hany : ¬ (s.ctxs.any fun e => e.1 != 0 && e.2.state != 0) = true := by simpa using h
  rw [State.writeNetCfg, if_neg hany]

/-- A read-only register, or one whose fields take no write, is left as it is (R160). -/
theorem writeSpecial_readOnly (s : State) (w : Word) : ∀ n ∈ [0x000, 0x001, 0x002, 0x003, 0x004, 0x005, 0x00D, 0x00E, 0x00F, 0x010, 0x021, 0x022, 0x106, 0x10C, 0x10D],
    s.writeSpecial n w = s := by
  simp [State.writeSpecial]

/-! ### Images of fields that a read shows -/

theorem cntWord_fields (sl : Slot) : let v := cntWord sl
    fld v 0 6 = sl.ld % 64 ∧ fld v 8 6 = sl.st % 64 ∧ fld v 16 6 = sl.cp % 64 ∧ fld v 24 6 = sl.tl % 64 := by
  have field {v lo : Nat} (hm : (v, lo, 6) ∈ [(sl.ld, 0, 6), (sl.st, 8, 6), (sl.cp, 16, 6), (sl.tl, 24, 6)]) : fld (cntWord sl) lo 6 = v % 2 ^ 6 :=
    fld_pack (by simp [Ascending]) hm
  exact ⟨field (by simp), field (by simp), field (by simp), field (by simp)⟩

theorem coordWord_fields (s : State) (c : Nat) : let v := s.coordWord c
    fld v 32 8 = c % 32 ∧ fld v 40 8 = c / 32 % 256 ∧ fld v 48 6 = s.pkgNum % 64 := by
  have field {v lo w : Nat} (hm : (v, lo, w) ∈ [(coreX c, 32, 8), (coreY c, 40, 8), (s.pkgNum, 48, 6), (dieOf c, 56, 2)]) : fld (s.coordWord c) lo w = v % 2 ^ w :=
    fld_pack (by simp [Ascending]) hm
  refine ⟨(field (v := coreX c) (by simp)).trans ?_, field (v := coreY c) (by simp), field (by simp)⟩
  unfold coreX
  omega

theorem slotWord_fields (n : Nat) (sl : Slot) : let v := slotWord n sl
    fld v 0 6 = n % 64 ∧ fld v 8 2 = sl.mode % 4 :=
  ⟨fld_pack (v := n) (by simp [Ascending]) (by simp), fld_pack (v := sl.mode) (by simp [Ascending]) (by simp)⟩

theorem windowWord_fields (sl : Slot) : let v := windowWord sl
    fld v 0 11 = sl.base % 2048 ∧ fld v 16 8 = sl.limit % 256 :=
  ⟨fld_pack (v := sl.base) (by simp [Ascending]) (by simp), fld_pack (v := sl.limit) (by simp [Ascending]) (by simp)⟩

/-! ### The instruction -/

/-- SWR from a window register writes the special register after the instruction has completed (R160). -/
theorem exec_swr_writes {d : RegCode} {num : BitVec 12} {s : State} {w : Word} (hc : checkSpecial (Instr.swr d num).word num.toNat s = .ok ())
    (ho : s.operands (Instr.swr d num).word [d.toNat] [] = .ok [w]) :
    exec (.swr d num) s = .next ((s.completeNone [d.toNat]).writeSpecial num.toNat w) := by
  simp only [exec_swr, swr, hc, ho, finish_ok, arg, List.getD_cons_zero]

theorem State.completeNone_window (s : State) {d : Nat} (h : s.me.queueOf d = none) : s.completeNone [d] = s.advance := by
  rw [State.completeNone, consume_none _ _ (by simpa using h)]

/-- Settles O55: the check of the number, then what a read returns and what a write sets and leaves alone. -/
theorem specialRegistersAreReadAndWritten : Obligations.SpecialRegistersAreReadAndWritten := by
  unfold Obligations.SpecialRegistersAreReadAndWritten
  refine ⟨fun d num s => ?register, ?values, ?fields⟩
  case' register =>
    dsimp only
    refine ⟨fun hn => ⟨fun ho hd => ?read, fun w ho hq => ?write⟩, fun hn hm => ?privileged, fun hu hs hn => ?unassigned⟩
  case read =>
    have h := exec_srd_reads (checkSpecial_ok hn) ho hd
    refine ⟨fun h1 h2 => ?_, fun h1 => ?_, fun h1 => ?_⟩
    · rw [h, shownTiles_other _ h1 h2, seeTiles_none]
    · rw [h, h1, shownTiles_cnt]
    · rw [h, h1, shownTiles_tok]
  case write =>
    refine ⟨_, exec_swr_writes (checkSpecial_ok hn) ho, ?_⟩
    rw [completeNone_window s hq]
    obtain ⟨hmem, hregs, hfull, hothers, hpc⟩ := writeSpecial_keeps s.advance num.toNat w
    refine ⟨hmem, hregs, hfull, fun u hu => (hothers u hu).trans (advance_slot_ne s hu), fun hl => ?pc, fun p hp h => ?whole, fun h j hj => ?dirty, fun h => ?task,
      fun h => ?ctxCmd, fun h => ?netCfg, writeSpecial_readOnly _ w _⟩
    case pc => rw [hpc, advance_me, Slot.advance_straight _ hl]
    case whole => rw [h]; exact readSpecial_writeSpecial s.advance w p hp
    case dirty => rw [h]; exact clearDirty_dirty s.advance s.here w hj
    case task => rw [h]; exact taskStat_writeSpecial s.advance w
    case ctxCmd =>
      rw [h]
      refine ⟨(ctxCmdWord_id _).trans ?_, ?_, ctxCmdWord_op _, fun hnone hop => ?_, fun hold => ?_⟩
      · rw [show (s.advance.writeSpecial 0x103 w).ctxCmdId = fld w 0 9 from writeCtxCmd_id _ _]
        exact Nat.mod_eq_of_lt (fld_lt w 0 9)
      · exact (ctxCmdWord_err _).trans ((writeCtxCmd_err s.advance w).trans (by rw [← ctxCmdWord_err]; rfl))
      · have hstart : (s.advance.writeSpecial 0x103 w).ctxCmd = some (fld w 16 2, fld w 0 9) := writeCtxCmd_starts s.advance w hnone hop
        exact ⟨hstart, (ctxCmdWord_busy _).trans (by rw [hstart]; rfl)⟩
      · have hkept : (s.advance.writeSpecial 0x103 w).ctxCmd = s.ctxCmd := writeCtxCmd_ignored s.advance w hold
        exact ⟨hkept, (ctxCmdWord_busy _).trans (by rw [hkept, ← ctxCmdWord_busy]; rfl)⟩
    case netCfg =>
      rw [h]
      exact ⟨fun hheld => writeNetCfg_held s.advance w hheld, fun hfree => writeNetCfg_taken s.advance w hfree⟩
  case privileged => exact ⟨exec_srd_trap (checkSpecial_privileged hn hm), exec_swr_trap (checkSpecial_privileged hn hm)⟩
  case unassigned => exact ⟨exec_srd_trap (checkSpecial_unassigned hu hs hn), exec_swr_trap (checkSpecial_unassigned hu hs hn)⟩
  case values => intro s; simp [State.readSpecial, ofNat]
  case fields =>
    intro s
    obtain ⟨hnum, hmode⟩ := slotWord_fields s.num s.me
    exact ⟨cntWord_fields s.me, coordWord_fields s s.here, ⟨hnum.trans (Nat.mod_mod s.cur 64), hmode⟩, windowWord_fields s.me⟩

end Sys2Proof.Machine

/-! ## The issuing slot after a result, and requests of a slot (O39) -/

namespace Sys2Proof.Machine

open State Sys2Proof.Claims

/-! ### What a result leaves of the issuing slot -/

/-- A field that neither the phase nor the park of a slot changes. -/
def IgnoresPark {β : Type} (g : Slot → β) : Prop := ∀ (sl : Slot) ph pk, g { sl with phase := ph, park := pk } = g sl

theorem State.wakeSlot_keeps {β : Type} {g : Slot → β} (hg : IgnoresPark g) (s : State) (t : Nat) (p : Park → Bool) (u : Nat) :
    g ((s.wakeSlot t p).slot u) = g (s.slot u) := by
  unfold State.wakeSlot; dsimp only
  split
  · by_cases hu : u = t
    · subst hu; rw [slot_setSlot_self]; exact hg _ _ _
    · rw [slot_setSlot_ne _ _ hu]
  · rfl

theorem State.writeReg_keeps {β : Type} {g : Slot → β} (hg : IgnoresPark g) (s : State) (t v : Nat) (w : Word) (u : Nat) :
    g ((s.writeReg t v w).slot u) = g (s.slot u) := by
  rw [State.writeReg, wakeSlot_keeps hg, setRegFull_frame, setRegValue_frame]; rfl

theorem State.wakeCore_keeps {β : Type} {g : Slot → β} (hg : IgnoresPark g) (s : State) (c : Nat) (p : Park → Bool) (u : Nat) :
    g ((s.wakeCore c p).slot u) = g (s.slot u) := by
  rw [wakeCore_slot]
  split
  · exact hg _ _ _
  · rfl

/-- A result changes no more of the issuing slot than its phase and park. -/
theorem State.writeDest_me_keeps {β : Type} {g : Slot → β} (hg : IgnoresPark g) (s : State) (d : Nat) (w : Word) :
    g (s.writeDest d w).me = g s.me := by
  unfold State.writeDest
  split
  · exact wakeCore_keeps hg _ _ _ s.cur
  · split
    · split
      · rw [State.parkMe, me_modMe, hg]; rfl
      · rfl
    · have hc : (s.writeReg s.cur d w).cur = s.cur := by rw [writeReg_frame]
      rw [State.me, hc]
      exact writeReg_keeps hg s s.cur d w s.cur

theorem State.complete_me_group (s : State) (srcs : List Nat) (d : Nat) (w : Word) : (s.complete srcs d w).me.group = s.me.group := by
  rw [State.complete, writeDest_me_keeps (g := Slot.group) (fun _ _ _ => rfl), advance_me, consume_me]
  rfl

/-! ### Requests -/

theorem State.inject_frame (s : State) (c n : Nat) (l : List Carrier) : s.inject c n l = { s with cores := (s.inject c n l).cores } := by
  induction l generalizing s with
  | nil => rfl
  | cons k r ih =>
    have rest {x : State} (hx : x = { s with cores := x.cores }) : x.inject c n r = { s with cores := (x.inject c n r).cores } :=
      (ih x).trans (by rw [hx])
    unfold State.inject
    dsimp only
    split
    · exact rest rfl
    · split
      · exact rest rfl
      · exact rest rfl

/-- A request leaves the slots and memory alone. -/
theorem State.requestAs_frame {s s1 : State} {r : Rights} {dst : Node} {b : Body} (h : s.requestAs r dst b = .ok s1) :
    s1.me = s.me ∧ s1.mem = s.mem := by
  unfold State.requestAs at h
  dsimp only at h
  split at h
  · cases h
  · obtain rfl := Except.ok.inj h
    rw [inject_frame]
    exact ⟨rfl, rfl⟩

theorem State.awaitDest_net (s : State) (d : Nat) : (s.awaitDest d).net = s.net := by
  unfold State.awaitDest State.markAwaiting
  split
  · rfl
  · split
    · rfl
    · split
      · rfl
      · rw [modSlot_net, setRegFull_frame]

theorem State.awaitDest_mem (s : State) (d : Nat) : (s.awaitDest d).mem = s.mem := by
  unfold State.awaitDest State.markAwaiting
  split
  · rfl
  · split
    · rfl
    · split
      · rfl
      · rw [modSlot_mem, setRegFull_frame]

theorem State.markAwaiting_me_ld (s : State) (v : Nat) : (s.markAwaiting s.cur v).me.ld = s.me.ld := by
  unfold State.markAwaiting
  split
  · rfl
  · have hcur : (s.setRegFull s.cur v false).cur = s.cur := by rw [setRegFull_frame]
    have hslot : (s.setRegFull s.cur v false).slot s.cur = s.me := by rw [setRegFull_frame]; rfl
    rw [State.me, modSlot_cur, hcur, slot_modSlot_self, hslot]

theorem State.awaitDest_me_ld (s : State) (d : Nat) : (s.awaitDest d).me.ld = s.me.ld := by
  unfold State.awaitDest
  split
  · rfl
  · split
    · rfl
    · exact markAwaiting_me_ld s d

/-- The state after a query that the slot has sent: LD counts it and its register awaits the answer (R98, R99). -/
def asked (s1 : State) (srcs : List Nat) (d : Nat) : State :=
  (((s1.modMe fun sl => { sl with ld := sl.ld + 1 }).consume srcs).awaitDest d).advance

theorem asked_frame {s s1 : State} {r : Rights} {dst : Node} {b : Body} (h : s.requestAs r dst b = .ok s1) (srcs : List Nat) (d : Nat) :
    (asked s1 srcs d).net = s1.net ∧ (asked s1 srcs d).me.ld = s.me.ld + 1 ∧ (asked s1 srcs d).mem = s.mem := by
  obtain ⟨hme, hmem⟩ := requestAs_frame h
  refine ⟨?_, ?_, ?_⟩
  · rw [asked, advance_net, awaitDest_net, consume_net, modMe_net]
  · have hld : (asked s1 srcs d).me.ld = (((s1.modMe fun sl => { sl with ld := sl.ld + 1 }).consume srcs).awaitDest d).me.ld := by
      rw [asked, advance_me]; rfl
    rw [hld, awaitDest_me_ld, consume_me, me_modMe, hme]
  · rw [asked, advance_mem, awaitDest_mem, consume_mem, modMe_mem, hmem]

end Sys2Proof.Machine

/-! ## LAUNCH, DONE, TRIGGER and groups (O39) -/

namespace Sys2Proof.Machine

open State Sys2Proof.Claims

/-! ### Malformed packets (R215) -/

/-- The barriers of the level of a rectangle are those of the smallest unit that holds it (R20, R203). -/
theorem barrierCount_rectLevel (r : Rect) : barrierCount (rectLevel r) = groupBarriers r.x0 r.y0 r.x1 r.y1 := by
  unfold rectLevel groupBarriers
  dsimp only
  by_cases h : coreAt r.x0 r.y0 = coreAt r.x1 r.y1
  · rw [if_pos h, if_pos (by rw [h])]; rfl
  · rw [if_neg h]
    by_cases hc : clusterOf (coreAt r.x0 r.y0) = clusterOf (coreAt r.x1 r.y1)
    · rw [if_pos hc, if_pos hc]; rfl
    · rw [if_neg hc, if_neg hc]; split <;> rfl

theorem badAddress_iff (pkg : Nat) (a : Word) : (a != 0 && !packetAddr pkg a) = true ↔ BadAddress pkg a := by
  simp only [packetAddr, BadAddress, Bool.and_eq_true, bne_iff_ne, Bool.not_eq_true', Bool.or_eq_false_iff, beq_eq_false_iff_ne, Bool.and_eq_false_imp,
    beq_iff_eq, ne_eq, not_and, and_assoc]

theorem fld_60_3 (b : Word) : fld b 60 3 ≠ 0 ↔ fld b 60 1 ≠ 0 ∨ fld b 61 2 ≠ 0 := by
  simp only [fld_eq_div_mod]
  omega

theorem fld_0_6 (a : Word) : fld a 0 6 ≠ 0 ↔ a.toNat % 64 ≠ 0 := by
  simp only [fld_eq_div_mod]
  omega

/-- The level of a rectangle is asked only where it is one; the packet is malformed all the same. -/
theorem or_or_not_and (x b q : Bool) : (x || b || (!b && q)) = (x || b || q) := by
  cases b
  · simp only [Bool.or_false, Bool.not_false, Bool.true_and]
  · simp only [Bool.or_true, Bool.true_or]

theorem malformedPacket_iff (pkg : Nat) (w : List Word) : malformedPacket pkg w = true ↔ Malformed pkg w := by
  simp only [malformedPacket, or_or_not_and]
  simp only [Malformed, Bool.or_eq_true, badAddress_iff, fld_60_3, fld_0_6, or_assoc]
  simp only [bne_iff_ne, Bool.and_eq_true, decide_eq_true_eq, beq_iff_eq, Bool.not_eq_true', barrierCount_rectLevel]
  rfl

/-! ### GSPLIT (R205) -/

/-- The operands of GSPLIT that R205 takes, for a GROUP g. -/
def SplitLegal (g a b : Word) : Prop :=
  let r := groupRect g
  groupTpc g ≠ 0 ∧ fld a 16 48 = 0 ∧ fld b 4 60 = 0 ∧ 0 < fld a 0 8 ∧ 0 < fld a 8 8 ∧ fld a 0 8 ≤ r.width ∧ fld a 8 8 ≤ r.height ∧
    (r.width + fld a 0 8 - 1) / fld a 0 8 * ((r.height + fld a 8 8 - 1) / fld a 8 8) ≤ 32

theorem splitGroup_illegal {c : Nat} {g a b : Word} (h : ¬ SplitLegal g a b) : splitGroup c g a b = none := by
  unfold splitGroup
  dsimp only
  split
  · rfl
  next hfields =>
    split
    · rfl
    next hsize =>
      rw [if_pos]
      simp only [not_or, ne_eq, not_not] at hfields
      simp only [not_or, Nat.not_lt] at hsize
      obtain ⟨htpc, ha, hb⟩ := hfields
      obtain ⟨hw0, hh0, hw, hh⟩ := hsize
      by_contra hn
      exact h ⟨htpc, ha, hb, Nat.pos_iff_ne_zero.mpr hw0, Nat.pos_iff_ne_zero.mpr hh0, hw, hh, Nat.not_lt.mp hn⟩

/-- The first place of the block of m places, counted from place p on, that holds place q (R205). -/
def blockLo (p q m : Nat) : Nat := p + (q - p) / m * m
/-- The last place of that block, in a line that ends at place last (R205). -/
def blockHi (p q m last : Nat) : Nat := min last (blockLo p q m + m - 1)

/-- The block of core c in a rectangle cut into blocks of sw by sh cores (R205). -/
def blockOf (c : Nat) (r : Rect) (sw sh : Nat) : Rect :=
  { x0 := blockLo r.x0 (coreX c) sw, y0 := blockLo r.y0 (coreY c) sh, x1 := blockHi r.x0 (coreX c) sw r.x1, y1 := blockHi r.y0 (coreY c) sh r.y1 }

theorem blockLo_bounds {p q m : Nat} (h : p ≤ q) (hm : 0 < m) : p ≤ blockLo p q m ∧ blockLo p q m ≤ q ∧ q < blockLo p q m + m := by
  have hdiv := Nat.div_add_mod (q - p) m
  have hmod := Nat.mod_lt (q - p) hm
  rw [Nat.mul_comm] at hdiv
  unfold blockLo
  omega

theorem blockHi_bounds {p q m last : Nat} (h : p ≤ q) (hq : q ≤ last) (hm : 0 < m) : q ≤ blockHi p q m last ∧ blockHi p q m last ≤ last := by
  obtain ⟨-, hle, hlt⟩ := blockLo_bounds h hm
  unfold blockHi
  omega

theorem fdiv_place {p q : Nat} (h : p ≤ q) (m : Nat) : Int.fdiv ((q : Int) - p) m = ((q - p) / m : Nat) := by
  rw [← Int.ofNat_sub h, Int.fdiv_eq_ediv_of_nonneg _ (Int.natCast_nonneg m)]
  exact (Int.natCast_ediv _ _).symm

theorem blockLo_int (p q m : Nat) : (p : Int) + ((q - p) / m : Nat) * m = blockLo p q m := by
  rw [blockLo]; push_cast; rfl

theorem blockHi_int {p q m : Nat} (hm : 0 < m) (last : Nat) : min (last : Int) ((blockLo p q m : Int) + m - 1) = blockHi p q m last := by
  unfold blockHi; omega

/-- The number of a core's block in a line is below the number of blocks. -/
theorem block_lt {p q m w : Nat} (h : q - p < w) (hm : 0 < m) : (q - p) / m < (w + m - 1) / m := by
  have hle : (q - p) / m + 1 ≤ (w + m - 1) / m := by
    rw [← Nat.add_div_right _ hm]
    exact Nat.div_le_div_right (by omega)
  exact hle

/-- The rank in the new group (R205). -/
def splitRank (c : Nat) (blk : Rect) (g : Word) : Nat :=
  ((coreY c - blk.y0) * (blk.x1 - blk.x0 + 1) + coreX c - blk.x0) * groupTpc g + groupRank g % groupTpc g

/-- The number of the block in its group (R205). -/
def blockNumber (c : Nat) (r : Rect) (sw sh : Nat) : Nat := (coreY c - r.y0) / sh * ((r.width + sw - 1) / sw) + (coreX c - r.x0) / sw

/-- The fields of the GROUP that GSPLIT makes (R202, R205). -/
def splitFields (c : Nat) (g a b : Word) : List (Nat × Nat × Nat) :=
  let blk := blockOf c (groupRect g) (fld a 0 8) (fld a 8 8)
  [((ofNat (splitRank c blk g)).toNat, 0, 17), (groupTpc g, 17, 6), ((ofNat (blockNumber c (groupRect g) (fld a 0 8) (fld a 8 8))).toNat, 23, 5),
    (fld b 0 4, 28, 4), ((ofNat blk.x0).toNat, 32, 8), ((ofNat blk.y0).toNat, 40, 8), ((ofNat blk.x1).toNat, 48, 8), ((ofNat blk.y1).toNat, 56, 8)]

theorem ofInt_natCast (n : Nat) : ofInt (n : Int) = ofNat n := BitVec.ofInt_natCast 64 n

theorem splitRank_int {c : Nat} {blk : Rect} (hx : blk.x0 ≤ coreX c) (hX : coreX c ≤ blk.x1) (hy : blk.y0 ≤ coreY c) (g : Word) :
    (((coreY c : Int) - blk.y0) * ((blk.x1 : Int) - blk.x0 + 1) + coreX c - blk.x0) * groupTpc g + groupRank g % groupTpc g = splitRank c blk g := by
  unfold splitRank
  rw [Nat.add_sub_assoc hx]
  push_cast [Nat.cast_sub hx, Nat.cast_sub hy, Nat.cast_sub (Nat.le_trans hx hX)]
  ring

theorem blockNumber_int (c : Nat) (r : Rect) (sw sh : Nat) : (((coreY c - r.y0) / sh : Nat) : Int) * ((r.width + sw - 1) / sw : Nat) +
    ((coreX c - r.x0) / sw : Nat) = blockNumber c r sw sh := by
  unfold blockNumber; push_cast; rfl

/-- A core of the group's rectangle gets its block, unless the block's level has no barrier of the asked number. -/
theorem splitGroup_inside {c : Nat} {g a b : Word} (hl : SplitLegal g a b) (hi : (groupRect g).holds c = true) :
    splitGroup c g a b =
      if barrierCount (rectLevel (blockOf c (groupRect g) (fld a 0 8) (fld a 8 8))) ≤ fld b 0 4 then none else some (pack (splitFields c g a b)) := by
  obtain ⟨htpc, ha, hb, hw0, hh0, hw, hh, hn⟩ := hl
  simp only [Rect.holds, Bool.and_eq_true, decide_eq_true_eq, and_assoc] at hi
  obtain ⟨hx0, hx1, hy0, hy1⟩ := hi
  obtain ⟨-, hbx, -⟩ := blockLo_bounds hx0 hw0
  obtain ⟨-, hby, -⟩ := blockLo_bounds hy0 hh0
  obtain ⟨hX, -⟩ := blockHi_bounds hx0 hx1 hw0
  have hfields : ¬ (groupTpc g = 0 ∨ fld a 16 48 ≠ 0 ∨ fld b 4 60 ≠ 0) := by simp [htpc, ha, hb]
  have hsize : ¬ (fld a 0 8 = 0 ∨ fld a 8 8 = 0 ∨ (groupRect g).width < fld a 0 8 ∨ (groupRect g).height < fld a 8 8) := by omega
  have hrank := splitRank_int (blk := blockOf c (groupRect g) (fld a 0 8) (fld a 8 8)) hbx hX hby g
  simp only [blockOf] at hrank
  unfold splitGroup
  simp only [if_neg hfields, if_neg hsize, if_neg (Nat.not_lt.mpr hn), fdiv_place hx0,
    fdiv_place hy0, blockLo_int, blockHi_int hw0, blockHi_int hh0, Int.toNat_natCast, hrank,
    blockNumber_int, ofInt_natCast]
  rfl

/-- The blocks of a legal split are at most 32, and a core's is one of them. -/
theorem blockNumber_lt {c : Nat} {g a b : Word} (hl : SplitLegal g a b) (hx0 : (groupRect g).x0 ≤ coreX c) (hx1 : coreX c ≤ (groupRect g).x1)
    (hy0 : (groupRect g).y0 ≤ coreY c) (hy1 : coreY c ≤ (groupRect g).y1) : blockNumber c (groupRect g) (fld a 0 8) (fld a 8 8) < 2 ^ 5 := by
  obtain ⟨-, -, -, hw0, hh0, -, -, hn⟩ := hl
  have hbx := block_lt (p := (groupRect g).x0) (q := coreX c) (w := (groupRect g).width) (by unfold Rect.width; omega) hw0
  have hby := block_lt (p := (groupRect g).y0) (q := coreY c) (w := (groupRect g).height) (by unfold Rect.height; omega) hh0
  have hrows := Nat.mul_le_mul_right (((groupRect g).width + fld a 0 8 - 1) / fld a 0 8) hby
  unfold blockNumber
  rw [Nat.succ_mul, Nat.mul_comm ((_ + fld a 8 8 - 1) / _)] at hrows
  omega

/-- A rank in a block of the grid's 1280 cores has 17 bits. -/
theorem splitRank_lt {c : Nat} {blk : Rect} {g : Word} (htpc : groupTpc g ≠ 0) (hX : coreX c ≤ 31) (hY : coreY c ≤ 39) (hx : blk.x1 ≤ 31) : splitRank c blk g < 2 ^ 17 := by
  have htpclt : groupTpc g < 64 := fld_lt g 17 6
  have hmod := Nat.mod_lt (groupRank g) (Nat.pos_iff_ne_zero.mpr htpc)
  have hplace : (coreY c - blk.y0) * (blk.x1 - blk.x0 + 1) ≤ 39 * 32 := Nat.mul_le_mul (by omega) (by omega)
  have hscaled : ((coreY c - blk.y0) * (blk.x1 - blk.x0 + 1) + coreX c - blk.x0) * groupTpc g ≤ 1279 * 63 := Nat.mul_le_mul (by omega) (by omega)
  unfold splitRank
  omega

theorem splitFields_ascending (c : Nat) (g a b : Word) : Ascending 0 (splitFields c g a b) := by
  simp [splitFields, Ascending]

theorem ofNat_toNat_mod (n : Nat) {k : Nat} (hk : k ≤ 64) : (ofNat n).toNat % 2 ^ k = n % 2 ^ k := by
  rw [ofNat, BitVec.toNat_ofNat]
  exact Nat.mod_mod_of_dvd _ (Nat.pow_dvd_pow 2 hk)

/-- What a core inside the group's rectangle, itself in the grid, finds in the fields of its new GROUP (R205). -/
theorem splitFields_read {c : Nat} {g a b : Word} (hl : SplitLegal g a b) (hi : (groupRect g).holds c = true) (hx : (groupRect g).x1 ≤ 31) (hy : (groupRect g).y1 ≤ 39) :
    let blk := blockOf c (groupRect g) (fld a 0 8) (fld a 8 8)
    let q := pack (splitFields c g a b)
    fld q 32 8 = blk.x0 ∧ fld q 40 8 = blk.y0 ∧ fld q 48 8 = blk.x1 ∧ fld q 56 8 = blk.y1 ∧ fld q 17 6 = groupTpc g ∧
      fld q 23 5 = blockNumber c (groupRect g) (fld a 0 8) (fld a 8 8) ∧ fld q 28 4 = fld b 0 4 ∧ fld q 0 17 = splitRank c blk g := by
  intro blk q
  have ⟨htpc, _, _, hw0, hh0, _⟩ := hl
  simp only [Rect.holds, Bool.and_eq_true, decide_eq_true_eq, and_assoc] at hi
  obtain ⟨hx0, hx1, hy0, hy1⟩ := hi
  have field {v lo w : Nat} (hm : (v, lo, w) ∈ splitFields c g a b) : fld q lo w = v % 2 ^ w := fld_pack (splitFields_ascending c g a b) hm
  have word {n lo w : Nat} (hm : ((ofNat n).toNat, lo, w) ∈ splitFields c g a b) (hw : w ≤ 64) (hlt : n < 2 ^ w) : fld q lo w = n := by
    rw [field hm, ofNat_toNat_mod n hw, Nat.mod_eq_of_lt hlt]
  obtain ⟨-, hbx, -⟩ := blockLo_bounds hx0 hw0
  obtain ⟨-, hby, -⟩ := blockLo_bounds hy0 hh0
  obtain ⟨-, hX1⟩ := blockHi_bounds hx0 hx1 hw0
  obtain ⟨-, hY1⟩ := blockHi_bounds hy0 hy1 hh0
  have hnumber := blockNumber_lt hl hx0 hx1 hy0 hy1
  have hrank : splitRank c blk g < 2 ^ 17 := splitRank_lt htpc (by omega) (by omega) (Nat.le_trans hX1 hx)
  have hx0lt : blk.x0 < 2 ^ 8 := by have : blk.x0 ≤ _ := hbx; omega
  have hy0lt : blk.y0 < 2 ^ 8 := by have : blk.y0 ≤ _ := hby; omega
  have hx1lt : blk.x1 < 2 ^ 8 := by have : blk.x1 ≤ _ := hX1; omega
  have hy1lt : blk.y1 < 2 ^ 8 := by have : blk.y1 ≤ _ := hY1; omega
  refine ⟨word ?_ (by omega) hx0lt, word ?_ (by omega) hy0lt, word ?_ (by omega) hx1lt, word ?_ (by omega) hy1lt, ?_, word ?_ (by omega) hnumber, ?_, word ?_ (by omega) hrank⟩
  case refine_5 => exact (field (by simp [splitFields])).trans (Nat.mod_eq_of_lt (fld_lt g 17 6))
  case refine_7 => exact (field (by simp [splitFields])).trans (Nat.mod_eq_of_lt (fld_lt b 0 4))
  all_goals simp [splitFields, blk]

/-! ### The instructions -/

theorem exec_gsplit (d a b : RegCode) (s : State) : exec (.gsplit d a b) s = s.finish (gsplit (Instr.gsplit d a b).word d a b s) := rfl
theorem exec_launch (d a : RegCode) (s : State) : exec (.launch d a) s = s.finish (launch (Instr.launch d a).word d a s) := rfl
theorem exec_done (d a : RegCode) (s : State) : exec (.done d a) s = s.finish (doneBody (Instr.done d a).word d a s) := rfl
theorem exec_trigger (s : State) : exec .trigger s = s.finish (trigger s) := rfl
theorem exec_grank (d a : RegCode) (s : State) : exec (.grank d a) s =
    s.finish (s.compute (Instr.grank d a).word [a.toNat] d.toNat fun vs => rankCore s.me.group (arg vs 0)) := rfl

section
variable {d a b : RegCode} {s : State} {x y : Word}

theorem exec_gsplit_some {g : Word} (ho : s.operands (Instr.gsplit d a b).word [a.toNat, b.toNat] [d.toNat] = .ok [x, y]) (hg : splitGroup s.here s.me.group x y = some g)
    (hd : s.destReady d.toNat = .ok ()) : exec (.gsplit d a b) s = .next ((s.modMe fun sl => { sl with group := g }).complete [a.toNat, b.toNat] d.toNat g) := by
  have hg' : splitGroup s.here s.me.group (arg [x, y] 0) (arg [x, y] 1) = some g := hg
  simp only [exec_gsplit, gsplit, ho, hg', hd, finish_ok]

theorem exec_gsplit_none (ho : s.operands (Instr.gsplit d a b).word [a.toNat, b.toNat] [d.toNat] = .ok [x, y]) (hg : splitGroup s.here s.me.group x y = none) :
    exec (.gsplit d a b) s = .next (s.takeTrap s.cur 0x01 (Instr.gsplit d a b).word) := by
  have hg' : splitGroup s.here s.me.group (arg [x, y] 0) (arg [x, y] 1) = none := hg
  simp only [exec_gsplit, gsplit, ho, hg', finish_error, stop_trap]

theorem exec_done_asks {w : Word} {s1 : State} (ho : s.operands (Instr.done d a).word [a.toNat] [d.toNat] = .ok [w]) (h0 : fld w 32 32 = 0) (hv : bitAt w 31 = true)
    (hd : s.destReady d.toNat = .ok ()) (hl : s.me.ld < 63) (hs : s.requestAs s.me.rights (.ctrl 0) (.kernelQuery w d.toNat) = .ok s1) :
    exec (.done d a) s = .next (asked s1 [a.toNat] d.toNat) := by
  have hs' : s.requestAs s.ownRights (.ctrl 0) (.kernelQuery (arg [w] 0) d.toNat) = .ok s1 := hs
  have h0' : ¬ (fld (arg [w] 0) 32 32 ≠ 0 ∨ (!bitAt (arg [w] 0) 31) = true) := by simp [arg, h0, hv]
  simp only [exec_done, doneBody, ho, if_neg h0', hd, if_neg (Nat.not_le.mpr hl), hs', finish_ok, asked]

end

/-- Word b of a packet with its rectangle resolved at the issuing core is b1 (R214, R216). -/
def RelResolved (s : State) (word b b1 : Word) : Prop :=
  (bitAt b 60 = false ∧ b1 = b) ∨ (bitAt b 60 = true ∧ ∃ r, State.resolveRect s.here (setFld (ofNat (fld b 0 32)) 32 1 1) word = .ok r ∧
    b1 = setFld (setFld b 0 32 (r.x0 + r.y0 * 2 ^ 8 + r.x1 * 2 ^ 16 + r.y1 * 2 ^ 24)) 60 1 0)

theorem RelResolved.eq {s : State} {word b b1 : Word} (h : RelResolved s word b b1) :
    (if bitAt b 60 = true then (State.resolveRect s.here (setFld (ofNat (fld b 0 32)) 32 1 1) word).map fun r =>
      setFld (setFld b 0 32 (r.x0 + r.y0 * 2 ^ 8 + r.x1 * 2 ^ 16 + r.y1 * 2 ^ 24)) 60 1 0 else .ok b) = .ok b1 := by
  rcases h with ⟨h60, rfl⟩ | ⟨h60, r, hrect, rfl⟩
  · rw [if_neg (ne_true_of_eq_false h60)]
  · rw [if_pos h60, hrect]; rfl

/-- A LAUNCH has read its packet, with REL resolved: its words are w. -/
structure LaunchRead (d a : RegCode) (s : State) (p : Word) (w : List Word) : Prop where
  operands : s.operands (Instr.launch d a).word [a.toNat] [d.toNat] = .ok [p]
  aligned : p.toNat % 64 = 0
  packet : ∃ off b1, s.resolve s.here s.rights p 8 = .ok (.spad s.here off) ∧ w = (s.readWords (spadKey s.here off) 8).set 1 b1 ∧
    RelResolved s (Instr.launch d a).word ((s.readWords (spadKey s.here off) 8).getD 1 0) b1

section
variable {d a : RegCode} {s : State} {p : Word} {w : List Word}

theorem exec_launch_malformed (h : LaunchRead d a s p w) (hm : malformedPacket s.pkgNum w = true) :
    exec (.launch d a) s = .next (s.takeTrap s.cur 0x01 p) := by
  obtain ⟨ho, hp, off, b1, hr, rfl, hrel⟩ := h
  simp only [exec_launch, launch, ho, arg, List.getD_cons_zero, hr, if_true, if_neg (not_not.mpr hp), hrel.eq, if_pos hm, finish_error, stop_trap]

theorem exec_launch_unprivileged (h : LaunchRead d a s p w) (hm : malformedPacket s.pkgNum w = false) (hmode : s.me.mode = 0)
    (hc : fld (w.getD 0 0) 48 9 ≠ s.me.ctx) : exec (.launch d a) s = .next (s.takeTrap s.cur 0x0D (Instr.launch d a).word) := by
  obtain ⟨ho, hp, off, b1, hr, rfl, hrel⟩ := h
  simp only [exec_launch, launch, ho, arg, List.getD_cons_zero, hr, if_true, if_neg (not_not.mpr hp), hrel.eq, if_neg (ne_true_of_eq_false hm),
    if_pos (And.intro hmode hc), finish_error, stop_trap]

theorem exec_launch_asks {s1 : State} (h : LaunchRead d a s p w) (hm : malformedPacket s.pkgNum w = false)
    (hc : s.me.mode ≠ 0 ∨ fld (w.getD 0 0) 48 9 = s.me.ctx) (hd : s.destReady d.toNat = .ok ()) (hst : s.me.st = 0) (hld : s.me.ld < 63)
    (hs : s.requestAs s.me.rights (.ctrl 0) (.launch w d.toNat) = .ok s1) : exec (.launch d a) s = .next (asked s1 [a.toNat] d.toNat) := by
  obtain ⟨ho, hp, off, b1, hr, rfl, hrel⟩ := h
  have hallowed : ¬ (s.me.mode = 0 ∧ fld (((s.readWords (spadKey s.here off) 8).set 1 b1).getD 0 0) 48 9 ≠ s.me.ctx) := fun ⟨hmode, hctx⟩ =>
    hc.elim (fun h => h hmode) hctx
  have hroom : ¬ (s.me.st ≠ 0 ∨ 63 ≤ s.me.ld) := by omega
  simp only [exec_launch, launch, ho, arg, List.getD_cons_zero, hr, if_true, if_neg (not_not.mpr hp), hrel.eq, if_neg (ne_true_of_eq_false hm),
    if_neg hallowed, hd, if_neg hroom, State.ownRights, hs, finish_ok, asked]

end

theorem exec_trigger_no_kernel {s : State} (h : bitAt s.me.kernel 31 = false) : exec .trigger s = .next (s.takeTrap s.cur 0x01 (Instr.word .trigger)) := by
  simp [exec_trigger, trigger, kernelV, h]

theorem exec_trigger_member {s : State} (hv : bitAt s.me.kernel 31 = true) (hst : s.me.st = 0) (h : bitAt s.me.kernel 33 = false ∨ bitAt s.me.kernel 32 = true) :
    exec .trigger s = .next (s.completeNone []) := by
  have hno : ¬ (kernelLnch s.me.kernel && !kernelTrig s.me.kernel) = true := by
    rcases h with h | h <;> simp [kernelLnch, kernelTrig, h]
  simp [exec_trigger, trigger, kernelV, hv, hst, hno]

theorem exec_trigger_placed {s : State} (hv : bitAt s.me.kernel 31 = true) (hst : s.me.st = 0) (hl : bitAt s.me.kernel 33 = true) (ht : bitAt s.me.kernel 32 = false)
    (hk : s.me.kpkg = none) : exec .trigger s =
      .next (((s.modMe fun sl => { sl with kernel := setFld sl.kernel 32 1 1 }).countTrigger s.me.kernel (s.me.countAt.getD s.here)).completeNone []) := by
  simp [exec_trigger, trigger, kernelV, kernelLnch, kernelTrig, hv, hst, hl, ht, hk]

theorem rankCore_past {g r : Word} (h : (groupRect g).width * (groupRect g).height * groupTpc g ≤ r.toNat) : rankCore g r = BitVec.allOnes 64 := by
  simp [rankCore, h, allOnes]

theorem rankCore_of_lt {g r : Word} (h0 : 0 < groupTpc g) (h : r.toNat < (groupRect g).width * (groupRect g).height * groupTpc g) :
    rankCore g r = pack [((groupRect g).y0 + r.toNat / groupTpc g / (groupRect g).width, 40, 8), ((groupRect g).x0 + r.toNat / groupTpc g % (groupRect g).width, 32, 8)] := by
  unfold rankCore
  rw [if_neg (by simp only [not_or, Nat.not_le]; exact ⟨by omega, h⟩)]

/-- Settles O39: each instruction's checks decide between its trap and its act. -/
theorem kernelInstructionsAct : Obligations.KernelInstructionsAct := by
  unfold Obligations.KernelInstructionsAct
  refine ⟨?launch, ?done, fun s h => exec_trigger_no_kernel h, fun s hv hst h => exec_trigger_member hv hst h,
    fun s hv hst hl ht hk => exec_trigger_placed hv hst hl ht hk, fun d a b s x y g ho hg hd => exec_gsplit_some ho hg hd, malformedPacket_iff, ?split, ?grank, ?rank⟩
  case launch =>
    intro d a s p off b1 ho hr hp w b hb
    have h : LaunchRead d a s p (w.set 1 b1) := ⟨ho, hp, off, b1, hr, rfl, hb⟩
    exact ⟨exec_launch_malformed h, exec_launch_unprivileged h, fun s1 hm hc hd hst hld hs => ⟨_, exec_launch_asks h hm hc hd hst hld hs, asked_frame hs _ _⟩⟩
  case done =>
    intro d a s s1 w ho h0 hv hd hl hs
    exact ⟨_, exec_done_asks ho h0 hv hd hl hs, asked_frame hs _ _⟩
  case split =>
    intro d a b s x y ho hd g tpc gx0 gy0 gx1 gy1 sw sh nbx nby legal bx b_y x0 x1 y0 y1 inside
    have hcount : barrierCount (rectLevel (blockOf s.here (groupRect g) sw sh)) = groupBarriers x0 y0 x1 y1 := barrierCount_rectLevel _
    have holds (h : inside) : (groupRect g).holds s.here = true := by
      obtain ⟨h1, h2, h3, h4, -, -⟩ := h
      simp only [Rect.holds, Bool.and_eq_true, decide_eq_true_eq]
      exact ⟨⟨⟨h1, h2⟩, h3⟩, h4⟩
    refine ⟨fun h => exec_gsplit_none ho (splitGroup_illegal h), fun h hi hb => ?_, fun h hi hb => ?_⟩
    · exact exec_gsplit_none ho ((splitGroup_inside h (holds hi)).trans (if_pos (hcount ▸ hb)))
    · have hsplit := (splitGroup_inside h (holds hi)).trans (if_neg (Nat.not_le.mpr (hcount ▸ hb)))
      refine ⟨_, exec_gsplit_some ho hsplit hd, ?_⟩
      rw [complete_me_group, me_modMe]
      have hin := holds hi
      obtain ⟨-, -, -, -, hx, hy⟩ := hi
      exact splitFields_read h hin hx hy
  case grank =>
    intro d a s vs ho hd
    simp only [exec_grank, State.compute, ho, hd, finish_ok]
  case rank =>
    intro g r h0 q
    exact ⟨rankCore_past, rankCore_of_lt h0⟩

end Sys2Proof.Machine

/-! ## Requests performed and answered (O24) -/

namespace Sys2Proof.Machine

open State Sys2Proof.Claims

/-! ### What has arrived -/

theorem CoreRec.ungated {r : CoreRec} (h : r.gated = false) : { r with gated := false } = r := by
  cases r
  cases h
  rfl

theorem State.coreRec_coresReached {s : State} {m c : Nat} {x : Msg} (hf : s.findMsg m = some x) (hd : x.dst = .core c) (e : Nat) :
    ({ s with cores := s.coresReached m } : State).coreRec e = if e = c then { s.coreRec c with gated := false } else s.coreRec e := by
  have hr : s.coresReached m = if (s.coreRec c).gated then Store.set {} s.cores c { s.coreRec c with gated := false } else s.cores := by
    simp only [State.coresReached, hf, hd]
  show Store.get {} (s.coresReached m) e = _
  rw [hr]
  split
  · rw [Store.get_set]; rfl
  next hg =>
    split
    next he => subst he; exact (CoreRec.ungated (Bool.eq_false_of_not_eq_true hg)).symm
    next => rfl

theorem exec_requestStart_core {s : State} {m c : Nat} {x : Msg} (ha : s.arrived m = some x) (hc : x.credit.isSome = true) (hr : x.resp = false)
    (hs : x.started = false) (hd : x.dst = .core c) (he : (s.coreRec c).entries < 16) :
    exec (.requestStart m) s = .next
      ((({ s with cores := s.coresReached m } : State).setMsg { x with started := true }).setEntries ((s.coreRec c).entries + 1) (.core c)) := by
  show Host.Outcome.next (startRequest m s) = _
  simp [startRequest, ha, Msg.isRequest, hc, hr, hs, hd, State.entriesAt, Config.responseEntries, he]

theorem State.respond_core (s : State) (x : Msg) (b : Body) (h : ∀ p, x.src ≠ .pkg p) :
    s.respond x b = (s.dropMsg x.id).sendAs { x with src := x.dst, dst := x.src, resp := true, body := b } := by
  have ha : answerTo x b = b := by
    unfold answerTo
    split
    next p hp => exact absurd hp (h p)
    next => rfl
  rw [State.respond, ha]

theorem State.performable_started {s : State} {m : Nat} {x : Msg} (ha : s.arrived m = some x) (hr : x.resp = false) (hs : x.started = true) :
    s.performable m = some x := by
  simp [State.performable, ha, hr, hs]

theorem exec_inboundRequest (m : Nat) (s : State) : exec (.inboundRequest m) s = .next (inbound m s) := rfl

/-! ### Credits -/

/-- The state after a router has taken back the credit of an answer that held no response entry (R270). -/
theorem returnCredit_answer {s : State} {m : Nat} {x : Msg} {k : Nat × Node} (hf : s.findMsg m = some x) (hr : x.resp = true) (hc : x.credit = some k)
    (hs : x.started = false) (hb : x.body ≠ .credit) :
    returnCredit m s = (s.freeCredit k.1 k.2).setMsg { x with credit := none, started := false } := by
  simp [returnCredit, hf, hr, hc, hs, hb]

theorem passAll_of_nil (n : Nat) {s : State} (h : s.partials = []) : passAll n s = s := by
  cases n with
  | zero => rfl
  | succ n => simp [passAll, h]

/-! ### Threads that a change of their slot finds where they were -/

theorem State.modThread_held {s : State} {uid t : Nat} (h : s.findThread uid = some t) (f : Slot → Slot) : s.modThread uid f = s.modSlot t f := by
  simp only [State.modThread, h]

theorem State.modThread_slots_of_none {s : State} {uid : Nat} (h : s.findThread uid = none) (f : Slot → Slot) : (s.modThread uid f).slots = s.slots := by
  simp only [State.modThread, h]
  split
  next e _ =>
    show (s.writeHead e.key e.core e.slot _).slots = s.slots
    have onlyData {x y : State} (hxy : OnlyData x y) : y.slots = x.slots := by
      unfold OnlyData at hxy; rw [hxy]
    rw [State.writeHead, onlyData (put_onlyData _ _ _ _), onlyData (putWords_onlyData _ _ _), onlyData (putWords_onlyData _ _ _)]
  next => rfl

theorem State.findThread_modThread (s : State) (uid : Nat) {f : Slot → Slot} (hf : KeepsThread f) : (s.modThread uid f).findThread uid = s.findThread uid := by
  cases h : s.findThread uid with
  | none => rw [findThread_of_slots (modThread_slots_of_none h f), h]
  | some t => rw [modThread_held h, State.modSlot, findThread_setSlot _ _ _ _ (hf _).1 (hf _).2, h]

theorem State.findThread_wakeThread (s : State) (uid : Nat) (p : Park → Bool) : (s.wakeThread uid p).findThread uid = s.findThread uid :=
  findThread_modThread s uid (keepsThread_wake p)

theorem State.findThread_modThreadCounters (s : State) (uid : Nat) {f : Slot → Slot} (hf : KeepsThread f) :
    (s.modThreadCounters uid f).findThread uid = s.findThread uid := by
  rw [State.modThreadCounters, findThread_wakeThread, findThread_modThread _ _ hf]

theorem State.coreRec_modThread_held {s : State} {uid : Nat} (h : s.findThread uid ≠ none) (f : Slot → Slot) (c : Nat) :
    (s.modThread uid f).coreRec c = s.coreRec c := by
  obtain ⟨t, ht⟩ := Option.ne_none_iff_exists'.mp h
  rw [modThread_held ht, coreRec_modSlot]

/-! ### Acknowledgements of stores -/

theorem State.findThread_of_moverOf {s : State} {uid : Nat} {q : Nat × CopyReq} (h : s.moverOf uid = some q) : s.findThread uid ≠ none := by
  intro hn
  rw [State.moverOf, hn] at h
  cases h

/-- A fault that ends the copy in service leaves its code and no other mark on memory (R138, R145). -/
theorem State.lateFault_mover {s : State} {uid c cause operand : Nat} {q : CopyReq} (h : s.moverOf uid = some (c, q)) (t : State → State) :
    ((s.lateFault uid cause operand t).coreRec c).finishing = some (BitVec.ofNat 64 (cause * 256 + operand * 16 + 12 + q.op)) ∧
      (s.lateFault uid cause operand t).mem = s.mem := by
  have hheld : HoldsWith s.mem uid (s.copyFail c q.op cause operand) := .of_slots ⟨findThread_of_moverOf h, rfl⟩ rfl rfl
  have hpark : KeepsThread fun sl => if sl.phase = .ready then { sl with phase := .parked, park := .mailbox } else sl := by
    intro sl
    dsimp only
    split
    next hr => simp [hr]
    next => exact ⟨rfl, Iff.rfl⟩
  have he : s.lateFault uid cause operand t = (s.copyFail c q.op cause operand).modThread uid fun sl =>
      if sl.phase = .ready then { sl with phase := .parked, park := .mailbox } else sl := by
    simp only [State.lateFault, h]
  rw [he]
  refine ⟨?_, (hheld.modThread hpark).2⟩
  rw [coreRec_modThread_held hheld.1, State.copyFail, State.copyStatus, coreRec_modCore_self]
  rfl

section
variable {s : State} {m : Nat} {x : Msg} {cause : Nat} {info : Word}

/-- The state in which an acknowledgement has left the network and ST counts the store no more (R100). -/
def acknowledged (s : State) (m : Nat) (x : Msg) : State := (s.dropMsg m).modThreadCounters x.uid fun sl => { sl with st := sl.st - 1 }

theorem exec_storeAck (hr : s.response m = some x) (hb : x.body = .ack cause info) : exec (.storeAck m) s = .next
    (if cause = 0 then acknowledged s m x else (acknowledged s m x).lateFault x.uid cause 6 fun y => y.pendThread x.uid cause info) := by
  show Host.Outcome.next (storeAck m s) = _
  simp only [storeAck, hr, hb, acknowledged]

theorem acknowledged_mem (h : (acknowledged s m x).findThread x.uid ≠ none) : (acknowledged s m x).mem = s.mem := by
  have hst : KeepsThread fun sl => { sl with st := sl.st - 1 } := fun _ => ⟨rfl, Iff.rfl⟩
  rw [acknowledged, findThread_modThreadCounters _ _ hst] at h
  have hheld : HoldsWith s.mem x.uid (s.dropMsg m) := ⟨h, rfl⟩
  exact (hheld.modThreadCounters hst).2

end

/-! ### Replies to loads -/

section
variable {s : State} {uid t v : Nat} {w : Word}

/-- A value for an ordinary register of a thread in a slot is a register write (R99). -/
theorem State.arriveReg_register (hf : s.findThread uid = some t) (hq : (s.slot t).queueOf v = none) (hn : t % 64 ≠ 63) (hv : v ≠ 0)
    (hl : 124 ≤ v → v < (s.slot t).limit) : s.arriveReg uid v w = s.writeReg t v w := by
  have hthread : s.thread uid = some (s.slot t) := by simp only [State.thread, hf]
  have hcore : s.threadCore uid = some (t / 64) := by simp only [State.threadCore, hf]
  have hin : ¬ (124 ≤ v ∧ (s.slot t).limit ≤ v) := fun ⟨h1, h2⟩ => by have := hl h1; omega
  have hmail : ¬ (120 ≤ v ∧ v < 124 ∧ (some t).any (· % 64 == 63) = true) := by simp [hn]
  simp only [State.arriveReg, hthread, hcore, hq, if_neg hin, hf, if_neg hmail, State.writeThreadReg, hv, if_false]

theorem State.unreserve_register (hf : s.findThread uid = some t) (hq : (s.slot t).queueOf v = none) : s.unreserve uid v = s := by
  simp only [State.unreserve, State.thread, State.threadCore, hf, hq]

/-- A register write for a slot that is not parked on the register leaves the slots alone. -/
theorem State.writeReg_slots (h : (s.slot t).phase = .ready) : (s.writeReg t v w).slots = s.slots := by
  have hslot (y : State) (hy : y.slots = s.slots) : (y.wakeSlot t (· == Park.register v)).slots = s.slots := by
    rw [wakeSlot_of_not _ _ _ (by rw [slot_of_slots hy, h]; simp), hy]
  refine hslot _ ?_
  rw [setRegFull_frame, setRegValue_frame]

/-- The slot of a thread after the reply to its load: register v awaits nothing, and LD is one less. -/
def Slot.replied (sl : Slot) (v : Nat) : Slot := { sl with awaiting := sl.awaiting &&& ~~~(1#128 <<< v), ld := sl.ld - 1 }

/-- y is x but for its slots, where slot t, which still holds thread uid, is sl. -/
def Settles (x : State) (uid t : Nat) (sl : Slot) (y : State) : Prop :=
  y = { x with slots := y.slots } ∧ y.slot t = sl ∧ y.findThread uid = some t

theorem Settles.modThread {x y : State} {sl : Slot} (h : Settles x uid t sl y) {f : Slot → Slot} (hf : KeepsThread f) : Settles x uid t (f sl) (y.modThread uid f) := by
  obtain ⟨hframe, hslot, hheld⟩ := h
  refine ⟨?_, ?_, (findThread_modThread y uid hf).trans hheld⟩
  · rw [modThread_held hheld, hframe]; rfl
  · rw [modThread_held hheld, slot_modSlot_self, hslot]

/-- A wake of a READY thread settles the slot as it is. -/
theorem Settles.wakeThread {x y : State} {sl : Slot} (h : Settles x uid t sl y) (hp : sl.phase = .ready) (p : Park → Bool) :
    Settles x uid t sl (y.wakeThread uid p) := by
  have hw := h.modThread (keepsThread_wake p)
  rwa [if_neg (by rw [hp]; simp)] at hw

/-- A reply to a load of a READY thread writes its register and settles its slot (R99). -/
theorem State.applyReply_settles (hf : s.findThread uid = some t) (hq : (s.slot t).queueOf v = none) (hn : t % 64 ≠ 63) (hv : v ≠ 0)
    (hl : 124 ≤ v → v < (s.slot t).limit) (hp : (s.slot t).phase = .ready) :
    Settles (s.writeReg t v w) uid t ((s.slot t).replied v) (s.applyReply uid v w false) := by
  have hslots : (s.writeReg t v w).slots = s.slots := writeReg_slots hp
  have hwritten : Settles (s.writeReg t v w) uid t (s.slot t) (s.writeReg t v w) := ⟨rfl, slot_of_slots hslots t, (findThread_of_slots hslots uid).trans hf⟩
  have hreplied : KeepsThread fun sl => { sl with awaiting := sl.awaiting &&& ~~~(1#128 <<< v), ld := sl.ld - 1 } := fun _ => ⟨rfl, Iff.rfl⟩
  rw [State.applyReply, unreserve_register hf hq, arriveReg_register hf hq hn hv hl]
  exact ((hwritten.modThread hreplied).wakeThread hp _).wakeThread hp _

/-- What a reply leaves: the value in a full register that awaits nothing, LD one less, and memory as it was (R99). -/
theorem State.applyReply_reads (hf : s.findThread uid = some t) (hq : (s.slot t).queueOf v = none) (hn : t % 64 ≠ 63) (hv : v ≠ 0) (h128 : v < 128)
    (hl : 124 ≤ v → v < (s.slot t).limit) (hp : (s.slot t).phase = .ready) : let u := s.applyReply uid v w false
    u.reg t v = w ∧ u.regIsFull t v = true ∧ u.awaits t v = false ∧ (u.slot t).ld = (s.slot t).ld - 1 ∧ (u.slot t).st = (s.slot t).st ∧ u.mem = s.mem := by
  intro u
  obtain ⟨hframe, hslot, -⟩ : Settles (s.writeReg t v w) uid t ((s.slot t).replied v) u := applyReply_settles hf hq hn hv hl hp
  obtain ⟨hreg, hfull⟩ := writeReg_self s t v w (writeReg_base s t v w t)
  have hentry : u.entryOf t v = (s.writeReg t v w).entryOf t v := by rw [State.entryOf, State.entryOf, hslot, writeReg_base]; rfl
  refine ⟨?_, ?_, ?_, by rw [hslot]; rfl, by rw [hslot]; rfl, ?_⟩
  · rw [if_neg hv] at hreg
    rw [← hreg, State.reg, State.reg, hentry, hframe]
  · rw [← hfull, State.regIsFull, State.regIsFull, hentry, hframe]
  · rw [State.awaits, hslot, Slot.replied]
    simp [h128]
  · rw [hframe, writeReg_frame]

end

/-- Settles O24: a request is started, performed and answered, and its answer settles the slot of its thread. -/
theorem requestsArePerformedAndAnswered : Obligations.RequestsArePerformedAndAnswered := by
  unfold Obligations.RequestsArePerformedAndAnswered
  refine ⟨fun s m x c ha hc hr hs hd he => exec_requestStart_core ha hc hr hs hd he, fun s m x c e hf hd => coreRec_coresReached hf hd e,
    fun s x b h => respond_core s x b h, ?load, ?store, ?line, ?credit, ?reply, ?ack, fun s uid => rfl, ?register⟩
  case load =>
    intro s m x key n sx reg ha hr hs hb
    simp only [exec_inboundRequest, inbound, performable_started ha hr hs, hb, State.read]
  case store =>
    intro s m x key n v ha hr hs hb
    simp only [exec_inboundRequest, inbound, performable_started ha hr hs, hb]
  case line =>
    intro s m x key dst name ha hr hs hb
    simp only [exec_inboundRequest, inbound, performable_started ha hr hs, hb]
  case credit =>
    intro s m x k hf hr hc hs hb t
    have h : exec (.creditReturn m) s = .next (passAll (s.partials.length + 1) t) := by
      show Host.Outcome.next (passAll (s.partials.length + 1) (returnCredit m s)) = _
      rw [returnCredit_answer hf hr hc hs hb]
    exact ⟨h, fun hp => h.trans (congrArg Host.Outcome.next (passAll_of_nil _ hp))⟩
  case reply =>
    intro s m x reg v hr hb
    show Host.Outcome.next (loadReply m s) = _
    simp only [loadReply, hr, hb, Bool.false_and, Bool.false_eq_true, if_false]
  case ack =>
    intro s m x cause info hr hb u
    have h := exec_storeAck hr hb
    refine ⟨fun h0 => ?_, fun h0 hn => ?_, fun c q h0 hmover => ?_⟩
    · rw [h, if_pos h0]; rfl
    · have hn' : (acknowledged s m x).moverOf x.uid = none := hn
      rw [h, if_neg h0, State.lateFault, hn']; rfl
    · have hmover' : (acknowledged s m x).moverOf x.uid = some (c, q) := hmover
      obtain ⟨hfin, hmem⟩ := lateFault_mover (cause := cause) (operand := 6) hmover' fun y => y.pendThread x.uid cause info
      exact ⟨_, h.trans (by rw [if_neg h0]), hfin, hmem.trans (acknowledged_mem (findThread_of_moverOf hmover'))⟩
  case register =>
    intro s uid t v w hf _ hq hn hv h128 hl hp
    exact applyReply_reads hf hq hn hv h128 hl hp

end Sys2Proof.Machine

/-! ## ATOM (O27) -/

namespace Sys2Proof.Machine

open State Sys2Proof.Claims

/-! ### The word an ATOM addresses -/

theorem isBulk_bulkKey (pa : Nat) : isBulk (bulkKey pa) = true := decide_eq_true (Nat.le_add_right _ _)

theorem keyNode_of_bulk {key : Nat} (h : isBulk key = true) : keyNode key = .chan (keyGroup key) := by simp [keyNode, h]

/-- A key in bulk memory is no word of a core. -/
theorem keyNode_bulk_ne {key : Nat} (h : isBulk key = true) (c : Nat) : keyNode key ≠ .core c := by
  rw [keyNode_of_bulk h]; exact Node.noConfusion

/-- A translation changes the translations of its core and sends the heat of its walk: the slots and memory stay (R248, R250). -/
theorem State.translate_frame {s s' : State} {c i va : Nat} {t : Translation} (h : s.translate c i va = .ok (t, s')) :
    s'.me = s.me ∧ s'.mem = s.mem ∧ s'.cur = s.cur := by
  unfold State.translate at h
  split at h
  · cases h; exact ⟨rfl, rfl, rfl⟩
  · split at h
    · cases h
    · cases h
      rw [State.sendHeat, State.sendHeatFrom]
      split <;> exact ⟨rfl, rfl, rfl⟩

/-- An access through a translation has a bulk key and leaves the slots and memory alone (R101). -/
theorem State.bulkAccess_frame {s s' : State} {c va access key : Nat} {r : Rights} (h : s.bulkAccess c r va access = .ok (key, s')) :
    isBulk key = true ∧ s'.me = s.me ∧ s'.mem = s.mem ∧ s'.cur = s.cur := by
  unfold State.bulkAccess at h
  split at h
  · split at h <;> cases h
  next t u ht =>
    split at h
    · cases h
    · cases h
      exact ⟨isBulk_bulkKey _, translate_frame ht⟩

/-- A translated access that completes keeps its outcome. -/
theorem State.keepWalk_ok (s t : State) : s.keepWalk (.ok t) = .ok t := rfl

theorem atomTarget_spad {s : State} {a : Word} {c o : Nat} (h : s.resolve s.here s.rights a 8 = .ok (.spad c o)) :
    atomTarget s a = .ok (spadKey c o, s) := by
  simp only [atomTarget, h]

theorem atomTarget_bulk {s s0 : State} {a : Word} {va key : Nat} (h : s.resolve s.here s.rights a 8 = .ok (.bulk va))
    (hb : s.bulkAccess s.here s.rights va 1 = .ok (key, s0)) : atomTarget s a = .ok (key, s0) := by
  simp only [atomTarget, h, hb]

/-! ### The instruction from its sources on -/

/-- The registers an ATOM reads: g[a] and g[d], and g[d+1] for CAS (R318). -/
def atomSources (op : AtomOp) (d a : RegCode) : List Nat := if op = .cas then [a.toNat, d.toNat, d.toNat + 1] else [a.toNat, d.toNat]

/-- The registers of a CAS that form a pair (R318). -/
def atomPair (op : AtomOp) (d : RegCode) : List Nat := if op = .cas then [d.toNat, d.toNat + 1] else []

section
variable {word : Word} {op : AtomOp} {d a : RegCode} {ord : BitVec 2} {sc : BitVec 3} {s s0 s1 : State} {vs : List Word} {key : Nat}

/-- An ATOM whose sources are read, whose word is known and whose release is done performs its step (R318). -/
theorem atom_released (hv : s.runOperands word (atomSources op d a) (atomPair op d) [d.toNat] = .ok vs)
    (ht : atomTarget s (arg vs 0) = .ok (key, s0)) (hr : Released ord sc (arg vs 0) s0) : atom word op d a ord sc s =
      s0.keepWalk (atomAt s0 op (atomSources op d a) d.toNat key (arg vs 0) (arg vs 1) (arg vs 2) (ord.getLsbD 0)) := by
  have hs : (if op = .cas then [a.toNat] else [a.toNat, d.toNat]) ++ atomPair op d = atomSources op d a := by
    unfold atomSources atomPair; split <;> rfl
  have hrel : (if ord.getLsbD 1 = true then s0.release (scopeOf sc) (arg vs 0) else .ok none) = .ok none := by
    split
    next h => exact hr h
    next => rfl
  unfold atom
  dsimp only
  rw [show (if op = .cas then [d.toNat, d.toNat + 1] else []) = atomPair op d from rfl, hs, hv]
  simp only [ht, hrel]

/-- On a word of the own core the step is done at once. -/
theorem atomAt_here {acq : Bool} {srcs : List Nat} {x v n : Word} (hd : s.destReady d.toNat = .ok ()) (hk : keyNode key = .core s.here) :
    atomAt s op srcs d.toNat key x v n acq = .ok ((s.store64 key (atomFn op (s.read64 key) v n)).complete srcs d.toNat (s.read64 key)) := by
  simp only [atomAt, hd, hk, if_true]

/-- The state after an ATOM has been posted: ST counts it, its TOUCH bit is set, and d awaits the old value (R318, R103). -/
def atomPosted (s1 : State) (key : Nat) (srcs : List Nat) (d : Nat) : State :=
  ((((s1.touch (State.touchBit key)).modMe fun sl => { sl with st := sl.st + 1 }).consume srcs).awaitDest d).advance

/-- On a word elsewhere the request is posted; with .acq the thread waits for the answer. -/
theorem atomAt_away {acq : Bool} {srcs : List Nat} {x v n : Word} (hd : s.destReady d.toNat = .ok ()) (hk : keyNode key ≠ .core s.here)
    (hc : acq = true → s.me.codelet = false) (hst : s.me.st < 63) (hq : s.request (keyNode key) (.atom op key v n d.toNat acq) = .ok s1) :
    atomAt s op srcs d.toNat key x v n acq = .ok (if acq then (atomPosted s1 key srcs d.toNat).waitFor s.nextId (keyNode key) x false false []
      else atomPosted s1 key srcs d.toNat) := by
  have hacq : (acq && s.me.codelet) = false := by cases acq <;> simp_all
  simp only [atomAt, hd, hk, hacq, Nat.not_le.mpr hst, hq, if_false, Bool.false_eq_true, atomPosted]

end

/-! ### What a posted ATOM leaves -/

/-- A register that awaits a reply changes the issuing slot's marks alone. -/
theorem State.awaitDest_me (s : State) (d : Nat) : ∃ w, (s.awaitDest d).me = { s.me with awaiting := w } := by
  unfold State.awaitDest
  split
  · exact ⟨_, rfl⟩
  · split
    · exact ⟨_, rfl⟩
    · unfold State.markAwaiting
      split
      · exact ⟨_, rfl⟩
      · have hcur : (s.setRegFull s.cur d false).cur = s.cur := by rw [setRegFull_frame]
        have hslot : (s.setRegFull s.cur d false).slot s.cur = s.me := by rw [setRegFull_frame]; rfl
        rw [State.me, modSlot_cur, hcur, slot_modSlot_self, hslot]
        exact ⟨_, rfl⟩

theorem atomPosted_net (s1 : State) (key : Nat) (srcs : List Nat) (d : Nat) : (atomPosted s1 key srcs d).net = s1.net := by
  rw [atomPosted, advance_net, awaitDest_net, consume_net]; rfl

theorem atomPosted_mem (s1 : State) (key : Nat) (srcs : List Nat) (d : Nat) : (atomPosted s1 key srcs d).mem = s1.mem := by
  rw [atomPosted, advance_mem, awaitDest_mem, consume_mem]; rfl

/-- The issuing slot of a posted ATOM, but for the register that awaits the old value. -/
theorem atomPosted_me (s1 : State) (key : Nat) (srcs : List Nat) (d : Nat) : ∃ w, (atomPosted s1 key srcs d).me =
    ({ s1.me with touch := s1.me.touch ||| (1#64 <<< State.touchBit key), st := s1.me.st + 1, awaiting := w } : Slot).advance := by
  obtain ⟨w, hw⟩ := awaitDest_me (((s1.touch (State.touchBit key)).modMe fun sl => { sl with st := sl.st + 1 }).consume srcs) d
  refine ⟨w, ?_⟩
  rw [atomPosted, advance_me, hw, consume_me, me_modMe, State.touch, me_modMe]

theorem State.waitFor_me (s : State) (op : Nat) (dst : Node) (info : Word) (limited barrier : Bool) (pops : List Nat) :
    ∃ w, (s.waitFor op dst info limited barrier pops).me = { s.me with phase := .parked, park := .remote op, wait := some w } :=
  ⟨_, me_modMe _ _⟩

/-! ### The forms -/

section
variable {i : RegCode → RegCode → BitVec 2 → BitVec 3 → Instr} {op : AtomOp}

/-- Instruction form i is the ATOM of op. -/
def IsAtom (i : RegCode → RegCode → BitVec 2 → BitVec 3 → Instr) (op : AtomOp) : Prop :=
  ∀ d a ord sc s, exec (i d a ord sc) s = s.finish (atom (i d a ord sc).word op d a ord sc s)

/-- An ATOM of the own core's scratchpad stores its function of the old value, and writes that to d. -/
theorem IsAtom.stores (hi : IsAtom i op) : AtomStores i (decide (op = .cas)) (atomFn op) := by
  intro d a ord sc s vs o srcs key hv hr hc ho hd hrel
  have hs : srcs = atomSources op d a := by simp only [srcs, atomSources, decide_eq_true_eq]
  have hp : (if decide (op = .cas) = true then [d.toNat, d.toNat + 1] else []) = atomPair op d := by simp only [atomPair, decide_eq_true_eq]
  rw [hs, hp] at hv
  have hk : keyNode (spadKey s.here o) = .core s.here := keyNode_spadKey hc (by omega)
  rw [hi, atom_released hv (atomTarget_spad hr) hrel, atomAt_here hd hk, keepWalk_ok, finish_ok, hs]
  rfl

/-- An ATOM of another core's word, or of bulk memory, posts its request. -/
theorem IsAtom.sends (hi : IsAtom i op) : AtomSends i op := by
  intro d a ord sc s s0 s1 vs key bit srcs hv hwhere hd hrel hcod hst hq
  obtain ⟨ht, hk, hbit, hme, hmem⟩ : atomTarget s (arg vs 0) = .ok (key, s0) ∧ keyNode key ≠ .core s0.here ∧ State.touchBit key = bit ∧
      s0.me = s.me ∧ s0.mem = s.mem := by
    rcases hwhere with ⟨c, o, hr, hne, hc, ho, hkey, rfl, rfl⟩ | ⟨va, hr, hb, rfl, -⟩
    · obtain rfl : key = spadKey c o := hkey
      have ho' : o < 0x200000 := by omega
      refine ⟨atomTarget_spad hr, ?_, ?_, rfl, rfl⟩
      · rw [keyNode_spadKey hc ho']
        exact fun h => hne (Node.core.inj h)
      · simp only [State.touchBit, isBulk_spadKey hc ho', Bool.false_eq_true, if_false, keyCore_spadKey ho']
    · obtain ⟨hbulk, hme, hmem, -⟩ := bulkAccess_frame hb
      exact ⟨atomTarget_bulk hr hb, keyNode_bulk_ne hbulk _, by simp only [State.touchBit, hbulk, if_true], hme, hmem⟩
  obtain ⟨hme1, hmem1⟩ := requestAs_frame hq
  obtain ⟨w, hw⟩ := atomPosted_me s1 key srcs d.toNat
  rw [hme1, hme, hbit] at hw
  have hpc : s.me.loops = [] → (atomPosted s1 key srcs d.toNat).me.pc = s.me.pc + 4 := fun hl => by
    rw [hw]; exact congrArg Slot.pc (Slot.advance_straight _ hl)
  have hpost := atomPosted_net s1 key srcs d.toNat
  have hmemp := (atomPosted_mem s1 key srcs d.toNat).trans (hmem1.trans hmem)
  have hexec : exec (i d a ord sc) s = .next (if ord.getLsbD 0 = true then
      (atomPosted s1 key srcs d.toNat).waitFor s0.nextId (keyNode key) (arg vs 0) false false [] else atomPosted s1 key srcs d.toNat) := by
    rw [hi, atom_released hv ht hrel, atomAt_away hd hk (by rwa [hme]) (by rwa [hme]) hq, keepWalk_ok, finish_ok]
    rfl
  rw [hexec]
  cases hacq : ord.getLsbD 0 with
  | false =>
    refine ⟨_, rfl, hpost, hmemp, ?_, ?_, hpc, fun _ => ?_, fun h => absurd h Bool.false_ne_true⟩
    all_goals rw [if_neg Bool.false_ne_true, hw]; rfl
  | true =>
    obtain ⟨y, hy⟩ := waitFor_me (atomPosted s1 key srcs d.toNat) s0.nextId (keyNode key) (arg vs 0) false false []
    refine ⟨_, rfl, hpost, hmemp, ?_, ?_, fun hl => ?_, fun h => absurd h.symm Bool.false_ne_true, fun _ => ?_⟩
    all_goals rw [if_pos rfl, hy]
    · rw [hw]; rfl
    · rw [hw]; rfl
    · exact hpc hl
    · exact ⟨rfl, rfl⟩

end

/-- ATOM_REQUEST at the owner: its function of the old value is stored, and the answer carries that value (R318). -/
theorem exec_atomRequest {s : State} {m : Nat} {x : Msg} {op : AtomOp} {key reg : Nat} {v n : Word} {acq : Bool} (ha : s.arrived m = some x)
    (hr : x.resp = false) (hs : x.started = true) (hb : x.body = .atom op key v n reg acq) : exec (.atomRequest m) s =
      .next ((s.store64 key (atomFn op (s.read64 key) v n)).respond x (.value reg (s.read64 key) true acq)) := by
  show Host.Outcome.next (atomRequest m s) = _
  simp only [atomRequest, performable_started ha hr hs, hb]

/-- FADDF adds the two FP32 halves of its words (R319). -/
theorem atomFn_faddf (old v n : Word) : atomFn .faddf old v n = BitVec.ofNat 64 ((fpAdd 1 0 (old.toNat % 2 ^ 32) (v.toNat % 2 ^ 32)).1
    + (fpAdd 1 0 (old.toNat / 2 ^ 32) (v.toNat / 2 ^ 32)).1 * 2 ^ 32) := by
  have low (w : Word) : fld w 0 32 = w.toNat % 2 ^ 32 := by simp [fld]
  have high (w : Word) : fld w 32 32 = w.toNat / 2 ^ 32 := by
    have := w.isLt
    rw [fld, Nat.shiftRight_eq_div_pow, Nat.mod_eq_of_lt (by omega)]
  simp only [atomFn, low, high, ofNat]

/-- Settles O27: each form is the ATOM of its function, and the owner's step applies the same function. -/
theorem atomsApplyTheirFunction : Obligations.AtomsApplyTheirFunction := by
  unfold Obligations.AtomsApplyTheirFunction
  have swap : IsAtom .atomSwap .swap := fun _ _ _ _ _ => rfl
  have cas : IsAtom .atomCas .cas := fun _ _ _ _ _ => rfl
  have and : IsAtom .atomAnd .and := fun _ _ _ _ _ => rfl
  have or : IsAtom .atomOr .or := fun _ _ _ _ _ => rfl
  have xor : IsAtom .atomXor .xor := fun _ _ _ _ _ => rfl
  have fadd : IsAtom .atomFadd .fadd := fun _ _ _ _ _ => rfl
  have fmin : IsAtom .atomFmin .fmin := fun _ _ _ _ _ => rfl
  have fmax : IsAtom .atomFmax .fmax := fun _ _ _ _ _ => rfl
  have faddf : IsAtom .atomFaddf .faddf := fun _ _ _ _ _ => rfl
  have hfaddf := faddf.stores
  rw [funext fun old => funext fun v => funext (atomFn_faddf old v)] at hfaddf
  exact ⟨swap.stores, cas.stores, and.stores, or.stores, xor.stores, fadd.stores, fmin.stores, fmax.stores, hfaddf,
    swap.sends, cas.sends, and.sends, or.sends, xor.sends, fadd.sends, fmin.sends, fmax.sends, faddf.sends,
    fun _ _ _ _ _ _ _ _ _ ha hr hs hb => exec_atomRequest ha hr hs hb⟩

end Sys2Proof.Machine

/-! ## Barrier homes (O38) -/

namespace Sys2Proof.Machine

open State Sys2Proof.Claims

/-! ### Operations at their home -/

theorem State.performable_ready {s : State} {m : Nat} {x : Msg} (ha : s.arrived m = some x) (hr : x.resp = false)
    (hs : x.started = true ∨ x.credit = none) : s.performable m = some x := by
  have h : (x.started || x.credit.isNone) = true := by rcases hs with h | h <;> simp [h]
  simp only [State.performable, ha, hr, h, Bool.not_false, Bool.and_self, if_true]

section
variable {s : State} {m : Nat} {x : Msg} {op : BarOp} {key n reg : Nat} {info : Word} {t : Bool}

/-- Message m of s is x, an operation that its home may now perform. -/
def OperationAtHome (s : State) (m : Nat) (x : Msg) (op : BarOp) (key n reg : Nat) (info : Word) : Prop :=
  s.performable m = some x ∧ x.body = .barrier op key n reg info

theorem barrierOperation_refused (h : OperationAtHome s m x op key n reg info) (hr : s.barrierRefuses key x.ctx x.sup = true) :
    barrierOperation m s = s.respond x (.barrierAnswer reg 0 op.waits true info) := by
  obtain ⟨hp, hb⟩ := h
  simp only [barrierOperation, hp, hb, hr, if_true]

theorem barrierOperation_done (h : OperationAtHome s m x op key n reg info) (hr : s.barrierRefuses key x.ctx x.sup = false)
    (hw : (s.barrierOp op key n x.ctx).2.2 = none) : barrierOperation m s =
      (s.barrierOp op key n x.ctx).1.respond x (.barrierAnswer reg (s.barrierOp op key n x.ctx).2.1 op.waits false info) := by
  obtain ⟨hp, hb⟩ := h
  simp only [barrierOperation, hp, hb, hr, hw, Bool.false_eq_true, if_false]

/-- A wait that is not over is held at its home, whether or not a credit goes back (R239, R272). -/
theorem barrierOperation_held (h : OperationAtHome s m x op key n reg info) (hr : s.barrierRefuses key x.ctx x.sup = false)
    (hw : (s.barrierOp op key n x.ctx).2.2 = some t) (hroom : s.waitsAt x.dst < 4096) : (barrierOperation m s).barWaits =
      (s.barrierOp op key n x.ctx).1.barWaits ++ [{ key := key, token := t, req := { x with credit := none, started := false } }] := by
  obtain ⟨hp, hb⟩ := h
  simp only [barrierOperation, hp, hb, hr, hw, Bool.false_eq_true, if_false, Config.homeWaitStore, hroom, if_true]
  split <;> rfl

theorem barrierOperation_full (h : OperationAtHome s m x op key n reg info) (hr : s.barrierRefuses key x.ctx x.sup = false)
    (hw : (s.barrierOp op key n x.ctx).2.2 = some t) (hfull : 4096 ≤ s.waitsAt x.dst) : barrierOperation m s =
      (s.barrierOp op key n x.ctx).1.respond x (.retry (if op = .arriveWait then some (boolWord t) else none) none) := by
  obtain ⟨hp, hb⟩ := h
  simp only [barrierOperation, hp, hb, hr, hw, Bool.false_eq_true, if_false, Config.homeWaitStore, Nat.not_lt.mpr hfull]

end

theorem State.engineAt_idle {s : State} {key : Nat} (h : (s.barrier key).state = 0) (code : Option Nat) : s.engineAt key code = (s, code) := by
  simp only [State.engineAt, h, if_true]

theorem State.engineAt_armed {s : State} {key : Nat} (h : (s.barrier key).state ≠ 0) :
    s.engineAt key none = (s.applyBarrier key ((s.barrier key).arrive 1), none) := by
  simp only [State.engineAt, h, if_false]

theorem State.engineAt_armed_fails {s : State} {key : Nat} (h : (s.barrier key).state ≠ 0) (k : Nat) :
    s.engineAt key (some k) = (s.applyBarrier key ((s.barrier key).arriveError k), none) := by
  simp only [State.engineAt, h, if_false]

/-- A failed arrival of this package that its home discards is answered with its code (R243). -/
theorem barrierOperation_discarded {s : State} {m : Nat} {x : Msg} {key k : Nat} (hp : s.performable m = some x)
    (hb : x.body = .engineArrive key (some k)) (hsrc : ∀ p, x.src ≠ .pkg p) (h0 : (s.barrier key).state = 0) :
    barrierOperation m s = s.respond x (.engineAnswer (some k) 0 none) := by
  cases hx : x.src with
  | pkg p => exact absurd hx (hsrc p)
  | _ => simp only [barrierOperation, hp, hb, engineAt_idle h0, hx, Option.isNone_some, Bool.false_and, Bool.false_eq_true, if_false, boolNat]

/-! ### Answers -/

theorem exec_barrierReply (m : Nat) (s : State) : exec (.barrierReply m) s = .next (barrierReply m s) := rfl

section
variable {s : State} {m : Nat} {x : Msg} {reg : Nat} {v info : Word}

/-- The result of a wait goes to the register of the thread that waits for it, which goes on (R239). -/
theorem barrierReply_wait (hr : s.response m = some x) (hb : x.body = .barrierAnswer reg v true false info)
    (hw : (s.dropMsg m).waitsFor x.uid m = true) :
    barrierReply m s = ((s.dropMsg m).arriveReg x.uid reg v).resumeThread x.uid := by
  simp only [barrierReply, hr, hb, hw, Bool.not_true, Bool.false_or, Bool.false_and, Bool.false_eq_true, if_true, if_false]

/-- The answer to a wait that its limit has ended changes nothing (R240). -/
theorem barrierReply_late (hr : s.response m = some x) (hb : x.body = .barrierAnswer reg v true true info)
    (hw : (s.dropMsg m).waitsFor x.uid m = false) : barrierReply m s = s.dropMsg m := by
  simp only [barrierReply, hr, hb, hw, Bool.not_true, Bool.or_self, Bool.and_false, Bool.false_eq_true, if_true, if_false]

/-- The answer to another operation is a reply, and a refusal a trap beside it (R239, R234). -/
theorem barrierReply_reply {refused : Bool} (hr : s.response m = some x) (hb : x.body = .barrierAnswer reg v false refused info) :
    barrierReply m s = if refused = true then ((s.dropMsg m).applyReply x.uid reg v false).pendThread x.uid 0x05 info
      else (s.dropMsg m).applyReply x.uid reg v false := by
  simp only [barrierReply, hr, hb, Bool.not_false, Bool.true_or, Bool.and_true, Bool.false_eq_true, if_false]

/-- The recorded code of an answer to an arrival, if it brings one (R243). -/
def State.recorded (s : State) (uid : Nat) (code : Option Nat) : State :=
  match code with
  | some e => s.modThread uid (recordErr e)
  | none => s

theorem barrierReply_arrival {code : Option Nat} {flags : Nat} (hr : s.response m = some x) (hb : x.body = .engineAnswer code flags none) :
    barrierReply m s = (s.dropMsg m).recorded x.uid code := by
  simp only [barrierReply, hr, hb]
  rfl

theorem barrierReply_finish {code : Option Nat} {flags k : Nat} (hr : s.response m = some x) (hb : x.body = .engineAnswer code flags (some k)) :
    barrierReply m s = ((s.dropMsg m).recorded x.uid code).tileRelease (match x.dst with | .core c => c | _ => 0) x.uid k flags := by
  simp only [barrierReply, hr, hb]
  rfl

end

/-! ### The finishing release of a command that arrived abroad (R50, R128) -/

/-- Thread uid of s is settled in its slot as it is. -/
theorem Settles.refl {s : State} {uid t : Nat} (h : s.findThread uid = some t) : Settles s uid t (s.slot t) s := ⟨rfl, rfl, h⟩

/-- A wake settles a thread as the wake leaves it. -/
theorem Settles.wake {x y : State} {uid t : Nat} {sl : Slot} (h : Settles x uid t sl y) (p : Park → Bool) :
    Settles x uid t (if sl.phase = .parked ∧ p sl.park = true then { sl with phase := .ready, park := .none } else sl) (y.wakeThread uid p) :=
  h.modThread (keepsThread_wake p)

/-- A slot after a wake for what p says (R154). -/
def Slot.woken (sl : Slot) (p : Park → Bool) : Slot := if sl.phase = .parked ∧ p sl.park = true then { sl with phase := .ready, park := .none } else sl

theorem Slot.woken_keeps {β : Type} {g : Slot → β} (hg : IgnoresPark g) (sl : Slot) (p : Park → Bool) : g (sl.woken p) = g sl := by
  unfold Slot.woken
  split
  · exact hg _ _ _
  · rfl

/-- A slot one of whose commands has made its finishing release under token k (R128). -/
def Slot.afterRelease (sl : Slot) (k flags : Nat) : Slot :=
  ((sl.release k flags).woken fun p => p == .counters || p == .tokens).woken (· == .command k)

theorem Slot.afterRelease_keeps {β : Type} {g : Slot → β} (hg : IgnoresPark g) (sl : Slot) (k flags : Nat) :
    g (sl.afterRelease k flags) = g (sl.release k flags) := by rw [Slot.afterRelease, Slot.woken_keeps hg, Slot.woken_keeps hg]

/-- A thread parked on the command goes on. -/
theorem Slot.afterRelease_phase {sl : Slot} {k : Nat} (flags : Nat) (hp : sl.phase = .parked) (hk : sl.park = .command k) :
    (sl.afterRelease k flags).phase = .ready := by
  have hphase : (sl.release k flags).phase = .parked := hp
  have hpark : (sl.release k flags).park = .command k := hk
  have hfirst : (sl.release k flags).woken (fun p => p == .counters || p == .tokens) = sl.release k flags := by
    rw [Slot.woken, if_neg]; rw [hpark]; rintro ⟨-, h⟩; exact absurd h (by simp)
  rw [Slot.afterRelease, hfirst, Slot.woken, if_pos ⟨hphase, by rw [hpark]; exact beq_self_eq_true _⟩]

theorem Settles.releaseThread {x y : State} {uid t : Nat} {sl : Slot} (h : Settles x uid t sl y) (k flags : Nat) :
    Settles x uid t (sl.afterRelease k flags) (releaseThread y uid k flags) :=
  ((h.modThread (keepsThread_release k flags)).wake _).wake _

/-- The finishing release settles its thread, and writes no memory (R128). -/
theorem Settles.tileRelease {x y : State} {uid t : Nat} {sl : Slot} (h : Settles x uid t sl y) (c k flags : Nat) :
    (y.tileRelease c uid k flags).slot t = sl.afterRelease k flags ∧ (y.tileRelease c uid k flags).mem = x.mem := by
  obtain ⟨hframe, hslot, -⟩ := h.releaseThread k flags
  have hmem : (Machine.releaseThread y uid k flags).mem = x.mem := by rw [hframe]
  rw [tileRelease_eq]
  split
  · exact ⟨(slot_of_slots (forgetTiles_slots _ _ _) t).trans hslot, (forgetTiles_mem _ _ _).trans hmem⟩
  · exact ⟨hslot, hmem⟩

/-- A slot after an answer to an arrival: a code that came back is recorded (R243). -/
def Slot.answered (sl : Slot) (code : Option Nat) : Slot :=
  match code with
  | some e => recordErr e sl
  | none => sl

/-- What a recorded code leaves of a slot: all but ERR. -/
theorem Slot.answered_eq (sl : Slot) (code : Option Nat) : sl.answered code = { sl with err := (sl.answered code).err } := by
  cases code <;> rfl

/-- The thread's token is free, TL one less, its flags ORed, and it goes on if it is parked on the command (R128, R243). -/
theorem Slot.afterRelease_answered (sl : Slot) (k flags : Nat) (code : Option Nat) :
    ((sl.answered code).afterRelease k flags).tok = sl.tok &&& ~~~(1#8 <<< k) ∧ ((sl.answered code).afterRelease k flags).tl = sl.tl - 1 ∧
    ((sl.answered code).afterRelease k flags).flags = orFlags sl.flags flags ∧
    (∀ e, code = some e → ((sl.answered code).afterRelease k flags).err = (recordErr e sl).err) ∧
    (sl.phase = .parked → sl.park = .command k → ((sl.answered code).afterRelease k flags).phase = .ready) := by
  refine ⟨?_, ?_, ?_, ?_, fun hp hk => Slot.afterRelease_phase flags ?_ ?_⟩
  · rw [Slot.afterRelease_keeps (g := Slot.tok) fun _ _ _ => rfl, Slot.answered_eq]; rfl
  · rw [Slot.afterRelease_keeps (g := Slot.tl) fun _ _ _ => rfl, Slot.answered_eq]; rfl
  · rw [Slot.afterRelease_keeps (g := Slot.flags) fun _ _ _ => rfl, Slot.answered_eq]; rfl
  · rintro e rfl
    rw [Slot.afterRelease_keeps (g := Slot.err) fun _ _ _ => rfl]; rfl
  · rw [Slot.answered_eq]; exact hp
  · rw [Slot.answered_eq]; exact hk

theorem barrierReply_release {s : State} {m : Nat} {x : Msg} {t k : Nat} {code : Option Nat} {flags : Nat} (hr : s.response m = some x)
    (hb : x.body = .engineAnswer code flags (some k)) (ht : s.findThread x.uid = some t) :
    ((barrierReply m s).slot t) = ((s.slot t).answered code).afterRelease k flags ∧ (barrierReply m s).mem = s.mem := by
  have hheld : Settles (s.dropMsg m) x.uid t (s.slot t) (s.dropMsg m) := .refl ht
  rw [barrierReply_finish hr hb]
  cases code with
  | none => exact hheld.tileRelease _ k flags
  | some e => exact (hheld.modThread (keepsThread_recordErr e)).tileRelease _ k flags

/-! ### Limits and lost homes -/

/-- A wait for a barrier past its limit, on a core that issues, has expired (R240). -/
theorem waitExpired_barrier {s : State} {u t : Nat} {w : Wait} (hf : s.findThread u = some t) (hw : (s.slot t).wait = some w) (hb : w.barrier = true)
    (hc : w.cancelled = false) (h0 : 0 < w.limit) (hl : w.start + w.limit < (s.coreRec (t / 64)).cycle)
    (hs : Store.get false s.dev.stopped (t / 64) = false) : waitExpired u true s = some (t / 64, s.slot t, w) := by
  have hthread : s.thread u = some (s.slot t) := by simp only [State.thread, hf]
  have hcore : s.threadCore u = some (t / 64) := by simp only [State.threadCore, hf]
  have hlim : w.limit < (s.coreRec (t / 64)).cycle - w.start := by omega
  simp only [waitExpired, hthread, hcore, hw, hb, hc, hs, hlim, Nat.ne_of_gt h0, beq_self_eq_true, Bool.not_false, Bool.and_self, decide_true,
    ne_eq, not_false_eq_true, if_true]

theorem exec_barrierWaitLimit {s : State} {u t : Nat} {w : Wait} (h : waitExpired u true s = some (t / 64, s.slot t, w)) (hd : w.dst = .core (t / 64)) :
    exec (.barrierWaitLimit u) s = .next { (s.arriveReg u w.reg 0x8000000000020000).resumeThread u with
      barWaits := ((s.arriveReg u w.reg 0x8000000000020000).resumeThread u).barWaits.filter fun y => y.req.id != w.op } := by
  show Host.Outcome.next (barrierLimit u s) = _
  simp only [barrierLimit, h, hd, if_true, limitReached]

/-- The one operation outstanding at a lost home is withdrawn and answered (R241). -/
theorem failAbroad_one {s : State} {o : Outstanding} {fails : Outstanding → Bool} (ho : s.outstanding = [o]) (hf : fails o = true) :
    s.failAbroad fails = (s.withdraw [o.id]).answerOutstanding o 0x0E [] := by
  simp only [State.failAbroad, ho, List.filter_cons, hf, if_true, List.filter_nil, List.map_cons, List.map_nil, List.foldl_cons, List.foldl_nil]

/-- The answer that the gateway gives for a lost home. -/
def lostAnswer (s : State) (o : Outstanding) (reg : Nat) (wait : Bool) : Msg :=
  let m : Msg := { id := o.id, uid := o.uid, src := .gate (dieOf o.core), slot := o.slot, dst := .core o.core, resp := true, ctx := o.ctx, sup := o.sup
                   body := .barrierAnswer reg 0x8000000000030000 wait false 0 }
  { m with frame := (s.withdraw [o.id]).frameOf m }

theorem podHomeLost_one {s : State} {o : Outstanding} {reg : Nat} {wait : Bool} (ho : s.outstanding = [o]) (hu : s.isUnreachable o.core o.pkg = true)
    (hb : o.what = .barrier reg wait) : podHomeLost s = { s.withdraw [o.id] with net := (s.withdraw [o.id]).net ++ [lostAnswer s o reg wait] } := by
  rw [podHomeLost, failAbroad_one ho (by simp only [hu, hb, Bool.and_self])]
  simp only [State.answerOutstanding, hb, abroadAnswer, sendAs, lostAnswer]
  rfl

theorem mem_withdraw_net {s : State} {l : List Nat} {y : Msg} : y ∈ (s.withdraw l).net → y ∈ s.net := fun h => (List.mem_filter.mp h).1

theorem mem_withdraw_net_of_ne {s : State} {i : Nat} {y : Msg} (h : y ∈ s.net) (hi : y.id ≠ i) : y ∈ (s.withdraw [i]).net :=
  List.mem_filter.mpr ⟨h, by simp [hi]⟩

/-! ### Arrivals of engines and the ERR register -/

/-- A failure at an IDLE object of the own core is recorded at once (R243). -/
theorem State.engineArrive_idle {s : State} {c i : Nat} (h : (s.barrier (c * 16 + i)).state = 0) (uid k : Nat) :
    s.engineArrive c uid 1 i (some k) = s.modThread uid (recordErr k) := by
  have hk : barrierKey c { level := 1, index := i } = c * 16 + i := rfl
  simp only [State.engineArrive, State.barrierHome, hk, engineAt_idle h]

/-- ERR keeps the first code and counts the failures up to 255 (R140). -/
theorem recordErr_fields (sl : Slot) {k : Nat} (h : k < 65536) : fld (recordErr k sl).err 16 8 = min 255 (fld sl.err 16 8 + 1) ∧
    fld (recordErr k sl).err 0 16 = (if fld sl.err 16 8 = 0 then k else fld sl.err 0 16) := by
  have hasc (a b : Nat) : Ascending 0 [(a, 0, 16), (b, 16, 8)] := by simp [Ascending]
  have hlt := fld_lt sl.err 0 16
  have hn : min 255 (fld sl.err 16 8 + 1) < 2 ^ 8 := by omega
  constructor
  · exact (fld_pack (hasc _ _) (List.mem_cons_of_mem _ (List.mem_singleton_self _))).trans (Nat.mod_eq_of_lt hn)
  · refine (fld_pack (hasc _ _) List.mem_cons_self).trans (Nat.mod_eq_of_lt ?_)
    split <;> omega

/-- Settles O38: an operation at its home, its answer, the limit of a wait, a lost home, and the arrivals of engines. -/
theorem barrierHomesServe : Obligations.BarrierHomesServe := by
  unfold Obligations.BarrierHomesServe
  refine ⟨?home, fun s m x reg v info hr hb hw => congrArg _ (barrierReply_wait hr hb hw), fun s m x reg v info hr hb => ?reply,
    fun s m x reg v info hr hb => ?refusal, fun s u t w hf hw hb hc h0 hl hs hd => exec_barrierWaitLimit (waitExpired_barrier hf hw hb hc h0 hl hs) hd,
    ?lost, fun s c uid i k h => engineArrive_idle h uid k, ?discarded, fun s m x k flags hr hb => congrArg _ (barrierReply_arrival hr hb), ?release,
    fun s m x reg v info hr hb hw => congrArg _ (barrierReply_late hr hb hw), fun sl k hk => ?err, fun s key code h => engineAt_idle h code, ?armed⟩
  case home =>
    intro s m x op key n reg info ha hresp hs hb
    have h : OperationAtHome s m x op key n reg info := ⟨performable_ready ha hresp hs, hb⟩
    exact ⟨fun hr => congrArg _ (barrierOperation_refused h hr), fun hr hw => congrArg _ (barrierOperation_done h hr hw),
      fun t hr hw hroom => ⟨_, rfl, barrierOperation_held h hr hw hroom⟩, fun t hr hw hfull => congrArg _ (barrierOperation_full h hr hw hfull)⟩
  case reply =>
    rw [exec_barrierReply, barrierReply_reply hr hb, if_neg Bool.false_ne_true]
  case refusal =>
    rw [exec_barrierReply, barrierReply_reply hr hb, if_pos rfl]
  case lost =>
    intro s o reg wait ho hu hb
    refine ⟨podHomeLost s, lostAnswer s o reg wait, rfl, ?_⟩
    rw [podHomeLost_one ho hu hb]
    refine ⟨by simp [State.withdraw, ho], by simp, fun y hy => ?_, fun y hy hi => List.mem_append_left _ (mem_withdraw_net_of_ne hy hi), rfl, rfl, rfl, rfl⟩
    rcases List.mem_append.mp hy with hy | hy
    · exact .inr (mem_withdraw_net hy)
    · exact .inl (List.mem_singleton.mp hy)
  case discarded =>
    intro s m x key k ha hresp hs hb hsrc h0
    exact congrArg _ (barrierOperation_discarded (performable_ready ha hresp hs) hb hsrc h0)
  case release =>
    intro s m x c t k code flags hr hb hd ht hu hk
    obtain ⟨hslot, hmem⟩ := barrierReply_release hr hb ht
    exact ⟨barrierReply m s, rfl, hmem, hslot ▸ Slot.afterRelease_answered (s.slot t) k flags code⟩
  case err =>
    obtain ⟨hcount, hcode⟩ := recordErr_fields sl hk
    exact ⟨hcount, hcode, rfl⟩
  case armed =>
    intro s key h
    exact ⟨engineAt_armed h, engineAt_armed_fails h⟩

end Sys2Proof.Machine

/-! ## The matrix engine's arithmetic: sub-blocks, K-blocks and scales (O46) -/

namespace Sys2Proof.Machine

open State Sys2Proof.Claims

/-! ### Products and sub-blocks of patterns -/

/-- The product of two patterns is no number: a NaN is among them, or an infinity meets a zero (R45). -/
def InvalidProduct (fa fb : Nat) (p : Nat × Nat) : Prop :=
  NaNPattern fa p.1 ∨ NaNPattern fb p.2 ∨ InfinitePattern fa p.1 ∧ ZeroPattern fb p.2 ∨ ZeroPattern fa p.1 ∧ InfinitePattern fb p.2

/-- The model's product of two patterns, of one format each. -/
def patternProduct (fa fb : Nat) (p : Nat × Nat) : FV := (mulFV (fpDecode fa p.1) (fpDecode fb p.2)).1

section
variable {fa fb : Nat} (ha : fa < 6) (hb : fb < 6)
include ha hb

/-- The product is a NaN just where it is invalid, and else an infinity just where one is among the patterns. -/
theorem patternProduct_kind (p : Nat × Nat) :
    (InvalidProduct fa fb p ∧ (∀ n, ¬ InfiniteProduct fa fb n p) ∧ ∃ b, patternProduct fa fb p = .nan b) ∨
    (¬ InvalidProduct fa fb p ∧ ∃ n, (∀ k, InfiniteProduct fa fb k p ↔ k = n) ∧ patternProduct fa fb p = .inf n) ∨
    (¬ InvalidProduct fa fb p ∧ (∀ n, ¬ InfiniteProduct fa fb n p) ∧ ∃ n m e, patternProduct fa fb p = .fin n m e) := by
  unfold patternProduct InvalidProduct InfiniteProduct
  rcases pattern_kind fa p.1 ha with ⟨a1, a2, a3, a4, s, hs, h⟩ | ⟨a1, a2, a3, a4, a5, h⟩ | ⟨a1, a2, a3, a4, m, e, hv, hz, h⟩ <;>
  rcases pattern_kind fb p.2 hb with ⟨b1, b2, b3, b4, t, ht, g⟩ | ⟨b1, b2, b3, b4, b5, g⟩ | ⟨b1, b2, b3, b4, m', e', gv, gz, g⟩ <;>
  rw [h, g]
  case inl.inl => exact .inl ⟨.inl a1, by simp [a2, b2], _, rfl⟩
  case inl.inr.inl => exact .inl ⟨.inl a1, by simp [a1, a2], _, rfl⟩
  case inl.inr.inr => exact .inl ⟨.inl a1, by simp [a2, b3], _, rfl⟩
  case inr.inl.inl => exact .inl ⟨.inr (.inl b1), by simp [b1, b2], _, rfl⟩
  case inr.inl.inr.inl => exact .inr (.inl ⟨by simp [a1, b1, a5, b5], _, by simp [a3, b1, b5], rfl⟩)
  case inr.inl.inr.inr =>
    by_cases hm : m' = 0
    · exact .inl ⟨.inr (.inr (.inl ⟨a3, gz.mp hm⟩)), by simp [b3, gz.mp hm], false, by simp [mulFV, hm]⟩
    · exact .inr (.inl ⟨by simp [a1, b1, a5, b3, mt gz.mpr hm], negativeOf fa p.1 != negativeOf fb p.2, by simp [a3, b1, mt gz.mpr hm], by simp only [mulFV, hm, if_false]⟩)
  case inr.inr.inl => exact .inl ⟨.inr (.inl b1), by simp [a3, b2], _, rfl⟩
  case inr.inr.inr.inl =>
    by_cases hm : m = 0
    · exact .inl ⟨.inr (.inr (.inr ⟨hz.mp hm, b3⟩)), by simp [a3, hz.mp hm], false, by simp [mulFV, hm]⟩
    · refine .inr (.inl ⟨by simp [a1, b1, a3, mt hz.mpr hm], (negativeOf fb p.2 != negativeOf fa p.1), ?_, by simp only [mulFV, hm, if_false]⟩)
      intro k
      rw [bne_comm]
      simp [a1, a3, b3, mt hz.mpr hm]
  case inr.inr.inr.inr => exact .inr (.inr ⟨by simp [a1, b1, a3, b3], by simp [a3, b3], _, _, _, rfl⟩)

theorem patternProduct_nan (p : Nat × Nat) : (match patternProduct fa fb p with | .nan _ => true | _ => false) = true ↔ InvalidProduct fa fb p := by
  rcases patternProduct_kind ha hb p with ⟨h, -, b, hp⟩ | ⟨h, n, -, hp⟩ | ⟨h, -, n, m, e, hp⟩ <;> simp [hp, h]

theorem patternProduct_inf (n : Bool) (p : Nat × Nat) : (patternProduct fa fb p == .inf n) = true ↔ InfiniteProduct fa fb n p := by
  rcases patternProduct_kind ha hb p with ⟨-, h, b, hp⟩ | ⟨-, k, h, hp⟩ | ⟨-, h, n', m, e, hp⟩
  · simp [hp, h n]
  · simp only [hp, h n, beq_iff_eq, FV.inf.injEq]; exact eq_comm
  · simp [hp, h n]

omit ha hb in
/-- The exact sum of a sub-block: its special cases come first. -/
theorem sumProducts_special (rm : Nat) (l : List (FV × FV)) : let ps := l.map fun p => (mulFV p.1 p.2).1
    let nan := ps.any fun v => match v with | .nan _ => true | _ => false
    let inf (n : Bool) := ps.any fun v => v == .inf n
    ((nan || (inf false && inf true)) = true → sumProducts rm l = (.nan false, Flag.nv)) ∧
    ∀ n, ¬ (nan || (inf false && inf true)) = true → inf n = true → sumProducts rm l = (.inf n, 0) := by
  intro ps nan inf
  refine ⟨fun h => if_pos h, fun n h hn => (if_neg h).trans ?_⟩
  cases n with
  | false => exact if_pos hn
  | true =>
    have hpos : ¬ inf false = true := fun hf => h (by simp only [hf, hn, Bool.and_self, Bool.or_true])
    exact (if_neg hpos).trans (if_pos hn)

/-- The model's sub-block is the rule's: the special cases, and else the exact sum rounded once and flushed (R45, R43). -/
theorem subBlock_spec {fc : Nat} (rm : Nat) (hc : fc < 6) (h4 : fc ≠ 4) (l : List (Nat × Nat)) :
    SubBlockOf fa fb fc rm l (subBlock fc rm (l.map fun p => (fpDecode fa p.1, fpDecode fb p.2))) := by
  obtain ⟨hnan, hinf⟩ := sumProducts_special rm (l.map fun p => (fpDecode fa p.1, fpDecode fb p.2))
  have hps : (l.map fun p => (fpDecode fa p.1, fpDecode fb p.2)).map (fun p => (mulFV p.1 p.2).1) = l.map (patternProduct fa fb) := by
    rw [List.map_map]; rfl
  have anyNan : ((l.map (patternProduct fa fb)).any fun v => match v with | .nan _ => true | _ => false) = true ↔ ∃ p ∈ l, InvalidProduct fa fb p := by
    simp only [List.any_map, List.any_eq_true, Function.comp, patternProduct_nan ha hb]
  have anyInf (n : Bool) : ((l.map (patternProduct fa fb)).any fun v => v == .inf n) = true ↔ ∃ p ∈ l, InfiniteProduct fa fb n p := by
    simp only [List.any_map, List.any_eq_true, Function.comp, patternProduct_inf ha hb]
  rw [hps, Bool.or_eq_true, Bool.and_eq_true, anyNan, anyInf, anyInf] at hnan
  simp only [hps, Bool.or_eq_true, Bool.and_eq_true, anyNan, anyInf] at hinf
  have hz : 0 < 2 ^ exponentBits fc - 1 := by obtain ⟨-, -, h⟩ := width_facts fc hc; omega
  refine ⟨fun h => ?_, fun n h hn => ?_, fun h => ?_⟩
  · have hs := hnan h
    simp only [subBlock, hs, deliver_nan fc hc]
    rw [flush_eq fc _ hc, if_neg]
    · exact congrArg (Prod.mk _) (Nat.zero_or _)
    · rintro ⟨h0, -⟩
      revert h0
      interval_cases fc <;> decide
  · have hs := hinf n h hn
    simp only [subBlock, hs, deliver_inf fc hc rm n h4]
    rw [flush_eq fc _ hc, if_neg]
    · exact congrArg (Prod.mk _) (Nat.zero_or _)
    · rintro ⟨h0, -⟩
      obtain ⟨-, he, -⟩ := patternOf_fields fc n (2 ^ exponentBits fc - 1) 0 (by omega) (by positivity)
      have : exponentOf fc (infinityPattern fc n) = 0 := h0
      rw [infinityPattern, he] at this
      omega
  · obtain ⟨x, hx, hr⟩ := subBlock_delivered fa fb fc rm l ha hb hc h
    exact ⟨x, hx, hr.trans (flush_eq fc x hc)⟩

end

theorem flush_eq_flushedTo {code : Nat} (hc : code < 6) (r : Nat × Nat) : flush code r = flushedTo code r := flush_eq code r hc

/-! ### An element's sub-blocks, added one after another -/

/-- A row of steps in order of number is what the last step makes of the steps before it. -/
theorem foldl_range_succ {α : Type} (f : α → Nat → α) (a : α) (n : Nat) : (List.range (n + 1)).foldl f a = f ((List.range n).foldl f a) n := by
  rw [List.range_succ, List.foldl_append, List.foldl_cons, List.foldl_nil]

/-- The pairs' exact values. -/
def decodePairs (q : TileCmd) (l : List (Nat × Nat)) : List (FV × FV) := l.map fun p => (fpDecode q.fa p.1, fpDecode q.fb p.2)

theorem decodePairs_block (q : TileCmd) (l : List (Nat × Nat)) (n m : Nat) : ((decodePairs q l).drop n).take m = decodePairs q ((l.drop n).take m) := by
  simp only [decodePairs, ← List.map_drop, ← List.map_take]

/-- The sum of sub-block h of the pairs, added to what acc holds, and the flags of both (R45). -/
def addSubBlock (fc rm : Nat) (l : List (FV × FV)) (acc : Nat × Nat) (h : Nat) : Nat × Nat :=
  let v := subBlock fc rm ((l.drop (32 * h)).take 32)
  let t := flushed fc (fpAdd fc rm acc.1 v.1)
  (t.1, acc.2 ||| v.2 ||| t.2)

section
variable {q : TileCmd} (ha : q.fa < 6) (hb : q.fb < 6) (l : List (Nat × Nat))
include ha hb

theorem addSubBlock_adds {fc : Nat} (hc : fc < 6) (h4 : fc ≠ 4) (acc : Nat × Nat) (h : Nat) : ∃ b x,
    SubBlockOf q.fa q.fb fc q.rm ((l.drop (32 * h)).take 32) b ∧ SumOf fc q.rm acc.1 b.1 false x ∧
    (addSubBlock fc q.rm (decodePairs q l) acc h).1 = (flushedTo fc x).1 := by
  refine ⟨_, _, subBlock_spec ha hb q.rm hc h4 _, fpAdd_sum fc q.rm _ _ hc h4, ?_⟩
  rw [← flush_eq_flushedTo hc]
  simp only [addSubBlock, decodePairs_block, flushed]
  rfl

/-- An element of a K-block without scales (R45). -/
theorem mmaElem_accumulates (hc : q.fc < 6) (h4 : q.fc ≠ 4) (old : Nat) :
    AccumulatedOver q.fa q.fb q.fc q.rm (q.depth / 32) l old (mmaElem q (decodePairs q l) old).1 := by
  refine ⟨fun n => ((List.range n).foldl (addSubBlock q.fc q.rm (decodePairs q l)) (old, 0)).1, rfl, rfl, fun n _ => ?_⟩
  obtain ⟨b, x, hb, hx, hn⟩ := addSubBlock_adds ha hb l hc h4 ((List.range n).foldl (addSubBlock q.fc q.rm (decodePairs q l)) (old, 0)) n
  exact ⟨b, x, hb, hx, (congrArg Prod.fst (foldl_range_succ _ _ _)).trans hn⟩

/-- An MMAS's partial after its sub-block n (R48). -/
def partialTo (q : TileCmd) (l : List (FV × FV)) (n : Nat) : Nat × Nat :=
  (List.range n).foldl (fun acc h => addSubBlock 1 q.rm l acc (h + 1)) (subBlock 1 q.rm (l.take 32))

theorem partialTo_partial : PartialOver q.fa q.fb q.rm l (partialTo q (decodePairs q l) 3).1 := by
  refine ⟨fun n => (partialTo q (decodePairs q l) n).1, rfl, ⟨_, subBlock_spec ha hb q.rm (by decide) (by decide) (l.take 32), ?_⟩, fun n _ => ?_⟩
  · exact congrArg (fun d => (subBlock 1 q.rm d).1) (decodePairs_block q l 0 32)
  · obtain ⟨b, x, hb, hx, hn⟩ := addSubBlock_adds ha hb l (fc := 1) (by decide) (by decide) (partialTo q (decodePairs q l) n) (n + 1)
    exact ⟨b, x, hb, hx, (congrArg Prod.fst (foldl_range_succ _ _ _)).trans hn⟩

/-- An element of an MMAS's K-block: its partial, scaled and added (R48). -/
theorem mmasElem_scales (sa sb old : Nat) : ∃ part sc t r : Nat × Nat, (mmasElem q sa sb (decodePairs q l) old).1 = r.1 ∧
    PartialOver q.fa q.fb q.rm l part.1 ∧ (∃ x, ProductOf 1 q.rm sa sb x ∧ sc = flushedTo 1 x) ∧
    (∃ x, ProductOf 1 q.rm part.1 sc.1 x ∧ t = flushedTo 1 x) ∧ ∃ x, SumOf 1 q.rm old t.1 false x ∧ r = flushedTo 1 x := by
  have h1 : (1 : Nat) < 6 := by decide
  have h4 : (1 : Nat) ≠ 4 := by decide
  let part := partialTo q (decodePairs q l) 3
  let sc := flushed 1 (fpMul 1 q.rm sa sb)
  let t := flushed 1 (fpMul 1 q.rm part.1 sc.1)
  exact ⟨part, sc, t, flushed 1 (fpAdd 1 q.rm old t.1), rfl, partialTo_partial ha hb l, ⟨_, fpMul_product 1 q.rm sa sb h1 h4, flush_eq_flushedTo h1 _⟩,
    ⟨_, fpMul_product 1 q.rm _ _ h1 h4, flush_eq_flushedTo h1 _⟩, ⟨_, fpAdd_sum 1 q.rm _ _ h1 h4, flush_eq_flushedTo h1 _⟩⟩

end

end Sys2Proof.Machine

/-! ## The matrix engine's commands (O46) -/

namespace Sys2Proof.Machine

open State Sys2Proof.Claims

/-! ### Starting, going on and ending -/

@[simp] theorem Matrix.acc_setPath (m : Matrix) (b : Bool) (r : Option TileRun) : (m.setPath b r).acc = m.acc := by cases b <;> rfl
@[simp] theorem Matrix.latch_setPath (m : Matrix) (b : Bool) (r : Option TileRun) : (m.setPath b r).latch = m.latch := by cases b <;> rfl
@[simp] theorem Matrix.queue_setPath (m : Matrix) (b : Bool) (r : Option TileRun) : (m.setPath b r).queue = m.queue := by cases b <;> rfl
@[simp] theorem Matrix.rs_setPath (m : Matrix) (b : Bool) (r : Option TileRun) : (m.setPath b r).rs = m.rs := by cases b <;> rfl
@[simp] theorem Matrix.half_setPath (m : Matrix) (b : Bool) (r : Option TileRun) (h : Nat) : (m.setPath b r).half h = m.half h := by cases b <;> rfl

theorem Matrix.acc'_of_acc {m m' : Matrix} (h : m.acc = m'.acc) : m.acc' = m'.acc' := by
  funext fc i j
  simp only [Matrix.acc', h]

theorem Matrix.latchBytes_of_latch {m m' : Matrix} (h : m.latch = m'.latch) : m.latchBytes = m'.latchBytes := by
  funext b o n
  simp only [Matrix.latchBytes, h]

theorem State.matrix_setRun (s : State) (c : Nat) (r : TileRun) : (s.setRun c r).matrix c = (s.matrix c).setPath r.cmd.op.moves (some r) :=
  matrix_modMatrix_self _ _ _

theorem State.matrix_tileEnd (s : State) (c : Nat) (r : TileRun) (flags : Nat) :
    ∃ e, (s.tileEnd c r flags).matrix c = (s.matrix c).setPath r.cmd.op.moves (some e) :=
  ⟨_, matrix_setRun s c _⟩

section
variable {s s1 : State} {c : Nat} {r : TileRun}

/-- The command that op runs is op's, and its start writes no memory (R125). -/
theorem State.tileRun_some {op : TileOp} (h : s.tileRun c op = some (r, s1)) : r.cmd.op = op ∧ s1.mem = s.mem := by
  unfold State.tileRun at h
  dsimp only at h
  split at h
  · split at h
    · next hop => obtain ⟨rfl, rfl⟩ := Prod.mk.inj (Option.some.inj h); exact ⟨hop.1, rfl⟩
    · exact absurd h nofun
  · split at h
    · split at h
      · next hop => obtain ⟨rfl, rfl⟩ := Prod.mk.inj (Option.some.inj h); exact ⟨hop, rfl⟩
      · exact absurd h nofun
    · exact absurd h nofun

/-- A command that starts now on core c (R125, R133). -/
def startedRun (s : State) (c : Nat) (q : TileCmd) : TileRun := { cmd := q, start := (s.coreRec c).cycle, ring := ((s.matrix c).rs + 1) % 256 }

/-- A queue's head whose path is idle starts (R125). -/
theorem State.tileRun_starts {q : TileCmd} {l : List TileCmd} (hp : (s.matrix c).path q.op.moves = none) (hq : (s.matrix c).queue = q :: l) :
    s.tileRun c q.op = some (startedRun s c q, s.modMatrix c fun x => { x with queue := l }.setPath q.op.moves (some (startedRun s c q))) := by
  simp only [State.tileRun, hp, hq, if_true, startedRun]

theorem exec_mzero (h : s.tileRun c .mzero = some (r, s1)) : exec (.mzero c) s = .next ((s1.modMatrix c fun m => { m with acc := [] }).tileEnd c r 0) := by
  show Host.Outcome.next (match s.tileRun c .mzero with | none => s | some (r, s1) => _) = _
  rw [h]

/-! ### Multiplies -/

/-- The three multiplies are one meaning at their ops. -/
theorem exec_multiply (c : Nat) (s : State) :
    ∀ p ∈ [((Instr.mma c, .mma) : Instr × TileOp), (.mmas c, .mmas), (.mmad c, .mmad)], exec p.1 s = .next (multiply p.2 c s) := by
  simp only [List.forall_mem_cons, List.not_mem_nil, false_imp_iff, implies_true, and_true]
  exact ⟨rfl, rfl, rfl⟩

/-- A multiply after its K-block: at its path, or over. -/
def afterBlock (c : Nat) (r : TileRun) (off : Nat) (s : State) : State :=
  let x := kBlock s c r.cmd off r.blocks
  let s2 := s.modMatrix c fun _ => x.1.setHalf ((r.cmd.lat + r.blocks) % 2) .empty
  let r2 := { r with begun := true, blocks := r.blocks + 1, flags := r.flags ||| x.2 }
  if r2.blocks = r.cmd.nkb then s2.tileEnd c r2 0 else s2.setRun c r2

theorem multiply_cases {op : TileOp} {off : Nat} (h : s.tileRun c op = some (r, s1)) (hm : s1.tileMem c r.cmd = .ok off)
    (hs : r.begun = false → scaleFail r.cmd = none) : multiply op c s =
      if (s1.matrix c).half ((r.cmd.lat + r.blocks) % 2) ≠ .full then s1.setRun c { r with begun := true } else afterBlock c r off s1 := by
  have hscale : (if r.begun = true then none else scaleFail r.cmd) = none := by
    cases hb : r.begun with
    | false => rw [if_neg Bool.false_ne_true, hs hb]
    | true => rw [if_pos rfl]
  simp only [multiply, h, hm, hscale, afterBlock]

theorem Matrix.half_setHalf (m : Matrix) (h : Nat) (v : HalfState) : (m.setHalf h v).half h = v := by
  by_cases h0 : h = 0 <;> simp only [Matrix.setHalf, Matrix.half, h0, if_true, if_false]

@[simp] theorem Matrix.acc_setHalf (m : Matrix) (h : Nat) (v : HalfState) : (m.setHalf h v).acc = m.acc := by unfold Matrix.setHalf; split <;> rfl
@[simp] theorem Matrix.latch_setHalf (m : Matrix) (h : Nat) (v : HalfState) : (m.setHalf h v).latch = m.latch := by unfold Matrix.setHalf; split <;> rfl

/-- After a K-block the engine holds its accumulator, an EMPTY half and the command, which is over with its last block (R130). -/
theorem afterBlock_matrix (c : Nat) (r : TileRun) (off : Nat) (s : State) : (afterBlock c r off s).mem = s.mem ∧
    ∃ e, (afterBlock c r off s).matrix c = ((kBlock s c r.cmd off r.blocks).1.setHalf ((r.cmd.lat + r.blocks) % 2) .empty).setPath r.cmd.op.moves (some e) ∧
      e.blocks = r.blocks + 1 ∧ (e.ended = some none ↔ r.blocks + 1 = r.cmd.nkb ∨ r.ended = some none) := by
  unfold afterBlock
  dsimp only
  split
  · next hlast => exact ⟨rfl, _, by rw [State.tileEnd, matrix_setRun, matrix_modMatrix_self], rfl, by simp [hlast]⟩
  · next hmore => exact ⟨rfl, _, by rw [matrix_setRun, matrix_modMatrix_self], rfl, by simp [hmore]⟩

end

/-! ### The accumulator, element by element -/

theorem Matrix.acc'_setAcc_self (m : Matrix) (fc i j v : Nat) : (m.setAcc fc i j v).acc' fc i j = v % 2 ^ accWidth fc := by
  by_cases h : fc = 0
  · have hne : 2 * (32 * i + j) ≠ 2 * (32 * i + j) + 1 := by omega
    simp only [Matrix.acc', Matrix.setAcc, accWidth, h, if_true, Store.get_set_self, Store.get_set_ne _ _ _ hne, BitVec.toNat_ofNat]
    omega
  · simp only [Matrix.acc', Matrix.setAcc, accWidth, h, if_false, Store.get_set_self, BitVec.toNat_ofNat]

theorem Matrix.acc'_setAcc_ne (m : Matrix) (fc v : Nat) {i j i' j' : Nat} (hj : j < 32) (hj' : j' < 32) (h : (i', j') ≠ (i, j)) :
    (m.setAcc fc i j v).acc' fc i' j' = m.acc' fc i' j' := by
  have hne : 32 * i' + j' ≠ 32 * i + j := fun he => h (by rw [Prod.mk.injEq]; omega)
  by_cases h0 : fc = 0
  · have a1 : 2 * (32 * i' + j') ≠ 2 * (32 * i + j) := by omega
    have a2 : 2 * (32 * i' + j') ≠ 2 * (32 * i + j) + 1 := by omega
    have a3 : 2 * (32 * i' + j') + 1 ≠ 2 * (32 * i + j) := by omega
    have a4 : 2 * (32 * i' + j') + 1 ≠ 2 * (32 * i + j) + 1 := by omega
    simp only [Matrix.acc', Matrix.setAcc, h0, if_true, Store.get_set_ne _ _ _ a1, Store.get_set_ne _ _ _ a2, Store.get_set_ne _ _ _ a3, Store.get_set_ne _ _ _ a4]
  · simp only [Matrix.acc', Matrix.setAcc, h0, if_false, Store.get_set_ne _ _ _ hne]

/-- One element replaced by f's result on its number and its old value, and the flags taken up. -/
def stepCell (fc : Nat) (f : Nat × Nat → Nat → Nat × Nat) (acc : Matrix × Nat) (e : Nat × Nat) : Matrix × Nat :=
  let v := f e (acc.1.acc' fc e.1 e.2)
  (acc.1.setAcc fc e.1 e.2 v.1, acc.2 ||| v.2)

/-- Elements stepped one after another: each that is among them, once, has f's result on its old value. -/
theorem acc'_stepCells (fc : Nat) (f : Nat × Nat → Nat → Nat × Nat) {i j : Nat} (hj : j < 32) (l : List (Nat × Nat)) (hl : ∀ e ∈ l, e.2 < 32)
    (hn : l.Nodup) (acc : Matrix × Nat) : (l.foldl (stepCell fc f) acc).1.acc' fc i j =
      if (i, j) ∈ l then (f (i, j) (acc.1.acc' fc i j)).1 % 2 ^ accWidth fc else acc.1.acc' fc i j := by
  induction l generalizing acc with
  | nil => rfl
  | cons e l ih =>
    obtain ⟨he, hl⟩ := List.forall_mem_cons.mp hl
    obtain ⟨hfresh, hn⟩ := List.nodup_cons.mp hn
    rw [List.foldl_cons, ih hl hn]
    by_cases hij : (i, j) = e
    · subst hij
      rw [if_neg hfresh, if_pos List.mem_cons_self]
      exact Matrix.acc'_setAcc_self _ _ _ _ _
    · have hstep : (stepCell fc f acc e).1.acc' fc i j = acc.1.acc' fc i j := Matrix.acc'_setAcc_ne _ _ _ he hj hij
      rw [hstep]
      simp only [List.mem_cons, hij, false_or]

theorem mem_tileCells {rows i j : Nat} : (i, j) ∈ tileCells rows ↔ i < rows ∧ j < 32 := by
  simp only [tileCells, List.mem_flatMap, List.mem_range, List.mem_map, Prod.mk.injEq, exists_eq_right_right]

theorem tileCells_nodup (rows : Nat) : (tileCells rows).Nodup :=
  List.nodup_range.product List.nodup_range

/-- The cells of a tile, each stepped once. -/
theorem acc'_stepTile (fc : Nat) (f : Nat × Nat → Nat → Nat × Nat) {rows i j : Nat} (hi : i < rows) (hj : j < 32) (acc : Matrix × Nat) :
    ((tileCells rows).foldl (stepCell fc f) acc).1.acc' fc i j = (f (i, j) (acc.1.acc' fc i j)).1 % 2 ^ accWidth fc := by
  rw [acc'_stepCells fc f hj _ (fun e he => (mem_tileCells.mp he).2) (tileCells_nodup rows), if_pos (mem_tileCells.mpr ⟨hi, hj⟩)]

/-- One element of a K-block from its pairs, its scales and its old value (R45, R46, R48). -/
def kElement (q : TileCmd) (l : List (Nat × Nat)) (sa sb old : Nat) : Nat × Nat :=
  if q.fc = 9 then ((((old : Int) + (l.map fun (p : Nat × Nat) => tileInt q q.fa p.1 * tileInt q q.fb p.2).foldl (· + ·) 0) % 2 ^ 32).toNat, 0)
  else if q.op = .mmas then mmasElem q sa sb (decodePairs q l) old else mmaElem q (decodePairs q l) old

/-- The pairs of element e of a K-block: row of A and column of B. -/
def kPairs (s : State) (c : Nat) (q : TileCmd) (off kb : Nat) (e : Nat × Nat) : List (Nat × Nat) :=
  (aRow s c q off kb e.1).zip (bColumn s c q ((q.lat + kb) % 2) e.2)

/-- A K-block steps each element of its rows once (R130). -/
theorem kBlock_eq (s : State) (c : Nat) (q : TileCmd) (off kb : Nat) : kBlock s c q off kb = (tileCells q.rows).foldl (stepCell q.fc fun e =>
    kElement q (kPairs s c q off kb e) (s.read (c * 0x200000 + (fld q.scla 0 21 + 4 * (64 * kb + e.1))) 4) (s.read (c * 0x200000 + (fld q.sclb 0 21 + 4 * kb)) 4))
    (s.matrix c, 0) := by
  rw [kBlock, tileCells, List.foldl_flatMap]
  refine congrArg (fun f => List.foldl f (s.matrix c, 0) (List.range q.rows)) (funext fun acc => funext fun i => ?_)
  dsimp only
  rw [← List.map_prod_right_eq_zip, List.foldl_map, List.foldl_map]
  simp only [kPairs, aRow, Nat.add_assoc]
  rfl

theorem kBlock_element (s : State) (c : Nat) (q : TileCmd) (off kb : Nat) {i j : Nat} (hi : i < q.rows) (hj : j < 32) :
    (kBlock s c q off kb).1.acc' q.fc i j = (kElement q ((aRow s c q off kb i).zip (bColumn s c q ((q.lat + kb) % 2) j))
      (s.mem.readN (c * 0x200000 + (fld q.scla 0 21 + 4 * (64 * kb + i))) 4) (s.mem.readN (c * 0x200000 + (fld q.sclb 0 21 + 4 * kb)) 4)
      ((s.matrix c).acc' q.fc i j)).1 % 2 ^ accWidth q.fc := by
  rw [kBlock_eq, acc'_stepTile _ _ hi hj]
  rfl

end Sys2Proof.Machine

/-! ## The matrix engine's moves between memory, accumulator and latch (O46) -/

namespace Sys2Proof.Machine

open State Sys2Proof.Claims

/-! ### Writes of numbers that do not meet -/

section
variable {α : Type} (key val : α → Nat) (w : Nat)

theorem Memory.byte_foldl_writeN {b : Nat} (l : List α) (m : Memory) (h : ∀ e ∈ l, b < key e ∨ key e + w ≤ b) :
    (l.foldl (fun m e => m.writeN (key e) w (val e)) m).byte b = m.byte b := by
  induction l generalizing m with
  | nil => rfl
  | cons e l ih =>
    obtain ⟨he, hl⟩ := List.forall_mem_cons.mp h
    rw [List.foldl_cons, ih _ hl, byte_writeN_outside _ _ _ _ _ he]

theorem Memory.readN_foldl_writeN {e : α} (l : List α) (m : Memory) (hd : l.Pairwise fun a b => key a + w ≤ key b ∨ key b + w ≤ key a) (he : e ∈ l) :
    (l.foldl (fun m e => m.writeN (key e) w (val e)) m).readN (key e) w = val e % 256 ^ w := by
  induction l generalizing m with
  | nil => exact absurd he List.not_mem_nil
  | cons a l ih =>
    obtain ⟨ha, hl⟩ := List.pairwise_cons.mp hd
    rw [List.foldl_cons]
    rcases List.mem_cons.mp he with rfl | he
    · have hlater : ∀ k < w, (l.foldl (fun m e => m.writeN (key e) w (val e)) (m.writeN (key e) w (val e))).byte (key e + k) =
          (m.writeN (key e) w (val e)).byte (key e + k) :=
        fun k hk => byte_foldl_writeN key val w l _ fun b hb => by have := ha b hb; omega
      rw [readN_congr _ _ _ _ hlater, readN_writeN_self]
    · exact ih _ hl he

/-- An agent's writes of numbers, one for each of a list, and the flags taken up. -/
def putEach (key : α → Nat) (val : α → Nat × Nat) (w : Nat) (acc : State × Nat) (e : α) : State × Nat := (acc.1.put (key e) w (val e).1, acc.2 ||| (val e).2)

/-- Writes that disturb nothing are plain writes of memory (R330). -/
theorem putEach_undisturbed (val : α → Nat × Nat) (c : Nat) (l : List α) (acc : State × Nat) (h : ∀ e ∈ l, acc.1.undisturbed false (key e) w = true) :
    (l.foldl (putEach key val w) acc).1.mem = l.foldl (fun m e => m.writeN (key e) w (val e).1) acc.1.mem ∧
    (l.foldl (putEach key val w) acc).1.matrix c = acc.1.matrix c := by
  induction l generalizing acc with
  | nil => exact ⟨rfl, rfl⟩
  | cons e l ih =>
    obtain ⟨he, hl⟩ := List.forall_mem_cons.mp h
    have hput : (putEach key val w acc e).1 = acc.1.write (key e) w (val e).1 := put_of_undisturbed _ _ _ _ he
    obtain ⟨hmem, hmatrix⟩ := ih (putEach key val w acc e) fun a ha => by rw [hput, undisturbed_write]; exact hl a ha
    exact ⟨by rw [List.foldl_cons, hmem, hput, write_mem, List.foldl_cons], by rw [List.foldl_cons, hmatrix, hput, matrix_write]⟩

end

/-- The places of a tile's elements do not meet where a row holds 32 of them. -/
theorem tileCells_apart (key : Nat × Nat → Nat) (b w stride rows : Nat) (hw : 32 * w ≤ stride) (hk : ∀ e, key e = b + e.1 * stride + e.2 * w) :
    (tileCells rows).Pairwise fun a b => key a + w ≤ key b ∨ key b + w ≤ key a := by
  have hstep {x y n : Nat} (hxy : x < y) : x * n + n ≤ y * n := (Nat.succ_mul x n).symm.le.trans (Nat.mul_le_mul_right n hxy)
  refine (tileCells_nodup rows).pairwise_of_forall_ne fun (i, j) hx (i', j') hy hne => ?_
  have hj := hstep (n := w) (mem_tileCells.mp hx).2
  have hj' := hstep (n := w) (mem_tileCells.mp hy).2
  simp only [hk]
  rcases Nat.lt_trichotomy i i' with hi | rfl | hi
  · have := hstep (n := stride) hi
    omega
  · have hcol : j ≠ j' := fun h => hne (by rw [h])
    rcases Nat.lt_or_gt_of_ne hcol with hlt | hlt
    · have := hstep (n := w) hlt
      omega
    · have := hstep (n := w) hlt
      omega
  · have := hstep (n := stride) hi
    omega

section
variable {s s1 : State} {c : Nat} {r : TileRun} {off : Nat}

/-- MSTORE's element e: the accumulator's, converted (R131). -/
def storedCell (m : Matrix) (q : TileCmd) (e : Nat × Nat) : Nat × Nat := convert q.fc q.fmto q.rm (m.acc' q.fc e.1 e.2)

/-- The place of element e of a C tile at an offset (R130). -/
def cellKey (c off : Nat) (q : TileCmd) (e : Nat × Nat) : Nat := spadKey c (off + e.1 * q.stride + e.2 * (widthOf q.fmto / 8))

theorem mstore_eq (h : s.tileRun c .mstore = some (r, s1)) (hm : s1.tileMem c r.cmd = .ok off) : mstore c s =
    let x := (tileCells r.cmd.rows).foldl (putEach (cellKey c off r.cmd) (storedCell (s1.matrix c) r.cmd) (widthOf r.cmd.fmto / 8)) (s1, 0)
    x.1.tileEnd c r x.2 := by
  simp only [mstore, h, hm]
  rfl

/-- MLOADC's element e: memory's, converted and, for a floating-point C, flushed (R131, R43). -/
def loadedCell (s : State) (c off : Nat) (q : TileCmd) (e : Nat × Nat) : Nat × Nat :=
  let v := convert q.fmto q.fc q.rm (s.read (cellKey c off q e) (widthOf q.fmto / 8))
  if q.fc = 9 then v else flush q.fc v

theorem mloadc_eq (h : s.tileRun c .mloadc = some (r, s1)) (hm : s1.tileMem c r.cmd = .ok off) : mloadc c s =
    let x := (tileCells r.cmd.rows).foldl (stepCell r.cmd.fc fun e _ => loadedCell s1 c off r.cmd e) (s1.matrix c, 0)
    (s1.modMatrix c fun _ => x.1).tileEnd c r x.2 := by
  simp only [mloadc, h, hm]
  rfl

end

/-! ### The latch -/

theorem Matrix.latch_fillLatch (m : Matrix) (h o : Nat) (l : List Nat) (k : Nat) : Store.get 0 (m.fillLatch h o l).latch k =
    if 8192 * h + o ≤ k ∧ k < 8192 * h + o + l.length then BitVec.ofNat 8 (l.getD (k - (8192 * h + o)) 0) else Store.get 0 m.latch k := by
  induction l generalizing m o with
  | nil => rw [if_neg (by simp only [List.length_nil]; omega)]; rfl
  | cons b l ih =>
    rw [Matrix.fillLatch, ih]
    simp only [List.length_cons]
    by_cases hk : k = 8192 * h + o
    · subst hk
      rw [if_neg (by omega), if_pos (by omega), Nat.sub_self, Store.get_set_self, List.getD_cons_zero]
    · rw [Store.get_set_ne _ _ _ hk]
      by_cases hin : 8192 * h + o ≤ k ∧ k < 8192 * h + o + (l.length + 1)
      · rw [if_pos hin, if_pos (by omega), show k - (8192 * h + o) = k - (8192 * h + (o + 1)) + 1 by omega, List.getD_cons_succ]
      · rw [if_neg hin, if_neg (by omega)]

/-- A half reads as the bytes it was filled with (R127, log entry 28). -/
theorem Matrix.latchBytes_fillLatch (m : Matrix) (h o n : Nat) (l : List Nat) (hn : o + n ≤ l.length) (hl : ∀ b ∈ l, b < 256) :
    (m.fillLatch h 0 l).latchBytes h o n = (l.drop o).take n := by
  refine List.ext_getElem (by simp only [Matrix.latchBytes, List.length_map, List.length_range, List.length_take, List.length_drop]; omega) fun i h1 h2 => ?_
  have hi : i < n := by simpa [Matrix.latchBytes] using h1
  have hlen : o + i < l.length := by omega
  simp only [Matrix.latchBytes, List.getElem_map, List.getElem_range, List.getElem_take, List.getElem_drop, Matrix.latch_fillLatch]
  rw [if_pos (by omega), show 8192 * h + o + i - (8192 * h + 0) = o + i by omega, List.getD_eq_getElem _ _ hlen, BitVec.toNat_ofNat,
    Nat.mod_eq_of_lt (hl _ (List.getElem_mem hlen))]

/-- An item of a row of runs of one length. -/
theorem getElem?_flatMap_uniform {α β : Type} (f : α → List β) (w : Nat) (l : List α) (hf : ∀ a ∈ l, (f a).length = w) {k b : Nat} (hb : b < w) :
    (l.flatMap f)[k * w + b]? = l[k]?.bind fun a => (f a)[b]? := by
  induction l generalizing k with
  | nil => simp
  | cons a l ih =>
    obtain ⟨ha, hl⟩ := List.forall_mem_cons.mp hf
    rw [List.flatMap_cons]
    cases k with
    | zero => rw [Nat.zero_mul, Nat.zero_add, List.getElem?_append_left (by omega)]; rfl
    | succ k =>
      have he : (k + 1) * w + b - (f a).length = k * w + b := by rw [ha, Nat.succ_mul]; omega
      rw [List.getElem?_append_right (by rw [ha, Nat.succ_mul]; omega), he, ih hl]
      rfl

end Sys2Proof.Machine

/-! ## The matrix commands (O46) -/

namespace Sys2Proof.Machine

open State Sys2Proof.Claims

section
variable {s s1 : State} {c : Nat} {r : TileRun} {off : Nat}

/-! ### BLOAD and BROT -/

/-- The engine after a fill of half h with bytes l, RS set to n (R127, R133). -/
def Matrix.filled (m : Matrix) (h : Nat) (l : List Nat) (n : Nat) : Matrix := { (m.fillLatch h 0 l).setHalf h .full with rs := n }

theorem Matrix.filled_half (m : Matrix) (h : Nat) (l : List Nat) (n : Nat) : (m.filled h l n).half h = .full := half_setHalf _ h .full

theorem Matrix.filled_latch (m : Matrix) (h : Nat) (l : List Nat) (n : Nat) : (m.filled h l n).latch = (m.fillLatch h 0 l).latch := latch_setHalf _ _ _

/-- A command that fills its half leaves it FULL with these bytes, and RS as set. -/
theorem tileEnd_filled (s : State) (c : Nat) (r : TileRun) {h : Nat} {l : List Nat} (n : Matrix → Nat) (hl : ∀ b ∈ l, b < 256) :
    let m := ((s.modMatrix c fun m => m.filled h l (n m)).tileEnd c r 0).matrix c
    m.half h = .full ∧ m.rs = n (s.matrix c) ∧ ∀ o k, o + k ≤ l.length → m.latchBytes h o k = (l.drop o).take k := by
  obtain ⟨e, he⟩ := matrix_tileEnd (s.modMatrix c fun m => m.filled h l (n m)) c r 0
  dsimp only
  rw [he, matrix_modMatrix_self]
  refine ⟨by rw [Matrix.half_setPath, Matrix.filled_half], by rw [Matrix.rs_setPath, Matrix.filled], fun o k hk => ?_⟩
  rw [← Matrix.latchBytes_fillLatch (s.matrix c) h o k l hk hl]
  exact congrFun (congrFun (congrFun (Matrix.latchBytes_of_latch (by rw [Matrix.latch_setPath, Matrix.filled_latch])) h) o) k

theorem mem_latchBytes_lt {m : Matrix} {h o n b : Nat} (hb : b ∈ m.latchBytes h o n) : b < 256 := by
  obtain ⟨i, -, rfl⟩ := List.mem_map.mp hb
  exact (Store.get 0 m.latch (8192 * h + o + i)).isLt

/-- The bytes of a memory tile, row after row (R130). -/
def tileBytes (s : State) (c off : Nat) (q : TileCmd) : List Nat :=
  (List.range q.rows).flatMap fun i => s.readBytes (spadKey c (off + i * q.stride)) q.rowBytes

theorem mem_readBytes_lt {s : State} {key n b : Nat} (h : b ∈ s.readBytes key n) : b < 256 := by
  obtain ⟨i, -, rfl⟩ := List.mem_map.mp h
  exact (s.mem.byte (key + i)).isLt

theorem mem_tileBytes_lt {q : TileCmd} {b : Nat} (h : b ∈ tileBytes s c off q) : b < 256 := by
  obtain ⟨i, -, hi⟩ := List.mem_flatMap.mp h
  exact mem_readBytes_lt hi

theorem tileBytes_getElem? {q : TileCmd} {k b : Nat} (hk : k < q.rows) (hb : b < q.rowBytes) :
    (tileBytes s c off q)[k * q.rowBytes + b]? = some (s.mem.byte (c * 0x200000 + off + k * q.stride + b)).toNat := by
  rw [tileBytes, getElem?_flatMap_uniform _ q.rowBytes _ (fun a _ => by simp [State.readBytes]) hb]
  simp [hk, hb, State.readBytes, spadKey, Nat.add_assoc]

theorem bload_eq (h : s.tileRun c .bload = some (r, s1)) (hh : (s1.matrix c).half r.cmd.lat = .empty) (hm : s1.tileMem c r.cmd = .ok off) :
    bload c s = (s1.modMatrix c fun m => m.filled r.cmd.lat (tileBytes s1 c off r.cmd) 0).tileEnd c r 0 := by
  simp only [bload, h, hh, hm, ne_eq, not_true_eq_false, if_false]
  rfl

/-- The neighbours of a core in a ring of the snake from p to p + n (R133). -/
def upstream (c p n : Nat) : Nat := coreOfSnake (clusterOf c) (if snakeOf c = p then p + n else snakeOf c - 1)
def downstream (c p n : Nat) : Nat := coreOfSnake (clusterOf c) (if snakeOf c = p + n then p else snakeOf c + 1)

theorem brot_outside (h : s.tileRun c .brot = some (r, s1)) (hh : (s1.matrix c).half r.cmd.lat ≠ .full)
    (hp : snakeOf c < r.cmd.rpos ∨ r.cmd.rpos + r.cmd.rlen < snakeOf c) : brot c s = brotFail c r 0x04 s1 := by
  simp only [brot, h, hh, hp, if_false, if_true]

theorem brot_rotates (h : s.tileRun c .brot = some (r, s1)) (hh : (s1.matrix c).half r.cmd.lat ≠ .full) (hlo : r.cmd.rpos ≤ snakeOf c)
    (hhi : snakeOf c ≤ r.cmd.rpos + r.cmd.rlen) (hu : ringAt s1 (upstream c r.cmd.rpos r.cmd.rlen) (r.ring + 255) = true)
    (hd : ringAt s1 (downstream c r.cmd.rpos r.cmd.rlen) (r.ring + 255) = true) : brot c s =
      (s1.modMatrix c fun m => m.filled r.cmd.lat ((s1.matrix (upstream c r.cmd.rpos r.cmd.rlen)).latchBytes (1 - r.cmd.lat) 0 8192) ((m.rs + 1) % 256)).tileEnd c r 0 := by
  have hin : ¬ (snakeOf c < r.cmd.rpos ∨ r.cmd.rpos + r.cmd.rlen < snakeOf c) := by omega
  unfold upstream at hu
  unfold downstream at hd
  simp only [brot, h, hh, hin, hu, hd, Bool.and_self, if_false, if_true]
  rfl

/-- A rotation takes the upstream's other half and counts RS on (R133). -/
theorem brot_rotated (h : s.tileRun c .brot = some (r, s1)) (hh : (s1.matrix c).half r.cmd.lat ≠ .full) (hlo : r.cmd.rpos ≤ snakeOf c)
    (hhi : snakeOf c ≤ r.cmd.rpos + r.cmd.rlen) (hu : ringAt s1 (upstream c r.cmd.rpos r.cmd.rlen) (r.ring + 255) = true)
    (hd : ringAt s1 (downstream c r.cmd.rpos r.cmd.rlen) (r.ring + 255) = true) : (brot c s).mem = s.mem ∧
      ((brot c s).matrix c).half r.cmd.lat = .full ∧ ((brot c s).matrix c).rs = ((s1.matrix c).rs + 1) % 256 ∧
      ((brot c s).matrix c).latchBytes r.cmd.lat 0 8192 = (s1.matrix (upstream c r.cmd.rpos r.cmd.rlen)).latchBytes (1 - r.cmd.lat) 0 8192 := by
  rw [brot_rotates h hh hlo hhi hu hd]
  obtain ⟨hhalf, hrs, hbytes⟩ := tileEnd_filled s1 c r (h := r.cmd.lat)
    (l := (s1.matrix (upstream c r.cmd.rpos r.cmd.rlen)).latchBytes (1 - r.cmd.lat) 0 8192) (fun m => (m.rs + 1) % 256) fun b => mem_latchBytes_lt
  have hlen : ((s1.matrix (upstream c r.cmd.rpos r.cmd.rlen)).latchBytes (1 - r.cmd.lat) 0 8192).length = 8192 := by
    rw [Matrix.latchBytes, List.length_map, List.length_range]
  exact ⟨(tileRun_some h).2, hhalf, hrs, (hbytes 0 8192 (by rw [hlen])).trans (List.take_of_length_le hlen.le)⟩

theorem brotWaitLimit_fails (hr : (s.matrix c).move = some r) (ho : r.cmd.op = .brot) (he : r.ended = none) (hh : (s.matrix c).half r.cmd.lat = .filling)
    (h0 : 0 < fld r.cmd.wlim 0 24) (hl : fld r.cmd.wlim 0 24 * 1024 < (s.coreRec c).cycle - r.start) : brotWaitLimit c s = brotFail c r 0x07 s := by
  have hn : fld r.cmd.wlim 0 24 * 1024 ≠ 0 := by omega
  simp only [brotWaitLimit, hr, ho, he, hh, hn, hl, ne_eq, not_false_eq_true, and_self, if_true]

/-! ### The clauses -/

theorem kElement_integer {q : TileCmd} (l : List (Nat × Nat)) (sa sb old : Nat) (h : q.fc = 9) :
    ((kElement q l sa sb old).1 % 2 ^ accWidth q.fc : Nat) =
      ((old : Int) + (l.map fun (x : Nat × Nat) => tileInt q q.fa x.1 * tileInt q q.fb x.2).foldl (· + ·) 0) % 2 ^ 32 := by
  have hw : accWidth q.fc = 32 := by rw [h]; rfl
  rw [kElement, if_pos h, hw]
  dsimp only
  omega

theorem kElement_float {q : TileCmd} (l : List (Nat × Nat)) (sa sb old : Nat) (h : q.fc < 2) :
    kElement q l sa sb old = if q.op = .mmas then mmasElem q sa sb (decodePairs q l) old else mmaElem q (decodePairs q l) old := by
  rw [kElement, if_neg (by omega)]

/-- MSTORE's writes: each element at its place, and no other byte (R131). -/
theorem mstore_writes (h : s.tileRun c .mstore = some (r, s1)) (hm : s1.tileMem c r.cmd = .ok off) (hw : 32 * (widthOf r.cmd.fmto / 8) ≤ r.cmd.stride)
    (hu : ∀ i j, i < r.cmd.rows → j < 32 → s1.undisturbed false (cellKey c off r.cmd (i, j)) (widthOf r.cmd.fmto / 8) = true) :
    ((mstore c s).matrix c).acc = (s1.matrix c).acc ∧
    (∀ i j, i < r.cmd.rows → j < 32 → (mstore c s).mem.readN (cellKey c off r.cmd (i, j)) (widthOf r.cmd.fmto / 8) =
      (storedCell (s1.matrix c) r.cmd (i, j)).1 % 256 ^ (widthOf r.cmd.fmto / 8)) ∧
    ∀ k, (∀ i j, i < r.cmd.rows → j < 32 → ¬ (cellKey c off r.cmd (i, j) ≤ k ∧ k < cellKey c off r.cmd (i, j) + widthOf r.cmd.fmto / 8)) →
      (mstore c s).mem.byte k = s.mem.byte k := by
  obtain ⟨hmem, hmatrix⟩ := putEach_undisturbed (cellKey c off r.cmd) (widthOf r.cmd.fmto / 8) (storedCell (s1.matrix c) r.cmd) c (tileCells r.cmd.rows)
    (s1, 0) fun (i, j) he => hu i j (mem_tileCells.mp he).1 (mem_tileCells.mp he).2
  have hend := mstore_eq h hm
  dsimp only at hend
  have hall : (mstore c s).mem = (tileCells r.cmd.rows).foldl (fun m e => m.writeN (cellKey c off r.cmd e) (widthOf r.cmd.fmto / 8)
      (storedCell (s1.matrix c) r.cmd e).1) s1.mem := by rw [hend, tileEnd_mem, hmem]
  refine ⟨?_, fun i j hi hj => ?_, fun k hk => ?_⟩
  · rw [hend]
    obtain ⟨e, he⟩ := matrix_tileEnd _ c r _
    rw [he, Matrix.acc_setPath, hmatrix]
  · rw [hall]
    exact Memory.readN_foldl_writeN (cellKey c off r.cmd) (fun e => (storedCell (s1.matrix c) r.cmd e).1) _ _ _
      (tileCells_apart _ (c * 0x200000 + off) _ r.cmd.stride _ hw fun e => by simp only [cellKey, spadKey, Nat.add_assoc]) (mem_tileCells.mpr ⟨hi, hj⟩)
  · rw [hall, Memory.byte_foldl_writeN (cellKey c off r.cmd) (fun e => (storedCell (s1.matrix c) r.cmd e).1), (tileRun_some h).2]
    rintro ⟨i, j⟩ he
    have := hk i j (mem_tileCells.mp he).1 (mem_tileCells.mp he).2
    omega

end

/-- Settles O46: starts, MZERO, the K-blocks of a multiply, MSTORE, MLOADC, BLOAD and BROT. -/
theorem matrixCommandsCompute : Obligations.MatrixCommandsCompute := by
  unfold Obligations.MatrixCommandsCompute
  refine ⟨fun s c q l hp hq => ?start, fun s s1 c r h => ?mzero, fun s s1 c r off p hp h hm hs => ?multiply, fun s c q off kb i j hi hj => ?block,
    fun s s1 c r off h hm => ?mstore, fun s s1 c r off h hm => ?mloadc, fun s s1 c r off h hh hm hlat htile => ?bload, fun s s1 c r h hh hlat => ?brot,
    fun s c r hr ho he hh h0 hl => congrArg _ (brotWaitLimit_fails hr ho he hh h0 hl), fun s c r cause hop => ?fails⟩
  case start =>
    refine ⟨_, _, tileRun_starts hp hq, rfl, rfl, rfl, rfl, rfl, ?_, ?_, ?_, rfl⟩
    · rw [matrix_modMatrix_self, Matrix.queue_setPath]
    · rw [matrix_modMatrix_self, Matrix.path_setPath]
    · rw [matrix_modMatrix_self, Matrix.acc_setPath]
  case mzero =>
    refine ⟨_, exec_mzero h, fun fc i j => ?_, (tileRun_some h).2, tileEnd_path _ c r 0⟩
    obtain ⟨e, he⟩ := matrix_tileEnd (s1.modMatrix c fun m => { m with acc := [] }) c r 0
    rw [he, Matrix.acc'_of_acc (Matrix.acc_setPath _ _ _), matrix_modMatrix_self]
    simp only [Matrix.acc', Store.get_nil, BitVec.ofNat_eq_ofNat, BitVec.toNat_ofNat, Nat.zero_mod, Nat.mul_zero, Nat.add_zero, ite_self]
  case multiply =>
    rw [exec_multiply c s p hp, multiply_cases h hm hs]
    refine ⟨fun hh => by rw [if_pos hh], fun hh => ?_⟩
    obtain ⟨hmem, e, he, hblocks, hended⟩ := afterBlock_matrix c r off s1
    refine ⟨afterBlock c r off s1, by rw [if_neg (not_not.mpr hh)], hmem.trans (tileRun_some h).2, ?_, fun i j _ _ => ?_, e, ?_, hblocks, hended⟩
    · rw [he, Matrix.half_setPath, Matrix.half_setHalf]
    · rw [he, Matrix.acc'_of_acc ((Matrix.acc_setPath _ _ _).trans (Matrix.acc_setHalf _ _ _))]
    · rw [he, Matrix.path_setPath]
  case block =>
    dsimp only
    rw [kBlock_element s c q off kb hi hj]
    refine ⟨fun hc => kElement_integer _ _ _ _ hc, fun hc ha hb hop => ⟨_, rfl, ?_⟩, fun hc ha hb hop => ?_⟩
    · rw [kElement_float _ _ _ _ hc, if_neg hop]
      exact mmaElem_accumulates ha hb _ (by omega) (by omega) _
    · rw [kElement_float _ _ _ _ (by omega), if_pos hop]
      obtain ⟨part, sc, t, r, hv, hrest⟩ := mmasElem_scales ha hb _ _ _ _
      exact ⟨part, sc, t, r, congrArg (· % _) hv, hrest⟩
  case mstore =>
    intro q w hw hstride hu
    have hkey (i j : Nat) : cellKey c off r.cmd (i, j) = c * 0x200000 + off + i * q.stride + j * w := by simp only [cellKey, spadKey, Nat.add_assoc, q, w]
    obtain ⟨hacc, hvalue, hframe⟩ := mstore_writes h hm hstride hu
    simp only [hkey] at hvalue hframe
    refine ⟨mstore c s, rfl, hacc, fun i j hi hj => ?_, hframe⟩
    rw [hvalue i j hi hj, Nat.pow_mul]
    rfl
  case mloadc =>
    refine ⟨mloadc c s, rfl, ?_, fun i j hi hj => ?_⟩
    · rw [mloadc_eq h hm]; exact (tileRun_some h).2
    · rw [mloadc_eq h hm]
      dsimp only
      obtain ⟨e, he⟩ := matrix_tileEnd _ c r _
      rw [he, Matrix.acc'_of_acc (Matrix.acc_setPath _ _ _), matrix_modMatrix_self, acc'_stepTile _ _ hi hj, ← (tileRun_some h).2]
      unfold loadedCell
      split <;> rfl
  case bload =>
    obtain ⟨hhalf, hrs, hbytes⟩ := tileEnd_filled s1 c r (h := r.cmd.lat) (l := tileBytes s1 c off r.cmd) (fun _ => 0) fun b => mem_tileBytes_lt
    rw [← bload_eq h hh hm] at hhalf hrs hbytes
    refine ⟨bload c s, rfl, ?_, hhalf, hrs, fun k b hk hb => ?_⟩
    · rw [bload_eq h hh hm]; exact (tileRun_some h).2
    · have hget := tileBytes_getElem? (s := s1) (c := c) (off := off) hk hb
      obtain ⟨hlt, hval⟩ := List.getElem?_eq_some_iff.mp hget
      rw [hbytes _ 1 hlt, List.drop_eq_getElem_cons hlt, hval, (tileRun_some h).2]
      rfl
  case brot =>
    intro q p up down
    exact ⟨fun hp => congrArg _ (brot_outside h hh hp), fun hlo hhi hu hd => ⟨brot c s, rfl, brot_rotated h hh hlo hhi hu hd⟩⟩
  case fails =>
    obtain ⟨e, he, hended, -⟩ := tileFail_path ((s.spoilHalf c r.cmd.lat).modMatrix c fun m => { m with rs := (m.rs + 1) % 256 }) c r cause 4
    rw [hop] at he hended
    exact ⟨e, he, hended.trans (congrArg (some ∘ some) (Nat.add_assoc (cause * 256) 64 8))⟩

end Sys2Proof.Machine

/-! ## The values of the vector engine's elements (O44) -/

namespace Sys2Proof.Machine

open State Sys2Proof.Claims

/-! ### Elements in memory -/

/-- The widths of the formats (R26). -/
def FormatWidth (w : Nat) : Prop := w ∈ [4, 8, 16, 32, 64]

theorem widthOf_format {ty : Nat} (h : ty ∈ [0, 1, 2, 3, 4, 5, 8, 9, 10, 11, 12]) : FormatWidth (widthOf ty) := by
  have : ∀ ty ∈ [0, 1, 2, 3, 4, 5, 8, 9, 10, 11, 12], widthOf ty ∈ [4, 8, 16, 32, 64] := by decide
  exact this ty h

theorem Memory.readN_one (m : Memory) (k : Nat) : m.readN k 1 = (m.byte k).toNat := by
  have hbyte := readN_byte m k 1 0 Nat.zero_lt_one
  rw [Nat.pow_zero, Nat.div_one, Nat.mod_eq_of_lt (show m.readN k 1 < 256 from readN_lt m k 1)] at hbyte
  exact hbyte

theorem State.elemGet_eq (s : State) (c off w i : Nat) : s.elemGet c off w i = elementAt s.mem c off w i := by
  simp only [State.elemGet, elementAt, State.read, spadKey, Nat.add_assoc, Memory.readN_one]

theorem elementAt_lt (m : Memory) (c off i : Nat) {w : Nat} (h : FormatWidth w) : elementAt m c off w i < 2 ^ w := by
  have hread (n : Nat) : m.readN (c * 0x200000 + off + i * n) n < 2 ^ (8 * n) := by
    rw [Nat.pow_mul]
    exact Memory.readN_lt _ _ _
  simp only [FormatWidth, List.mem_cons, List.not_mem_nil, or_false] at h
  rcases h with rfl | rfl | rfl | rfl | rfl
  · exact Nat.mod_lt _ (by decide)
  · exact hread 1
  · exact hread 2
  · exact hread 4
  · exact hread 8

/-! ### Floating-point operations -/

/-- A pattern without its sign, and with its sign turned (R120). -/
theorem pattern_split {ty a : Nat} (h : ty < 4) (ha : a < 2 ^ widthOf ty) :
    a % 2 ^ (widthOf ty - 1) = patternOf ty false (exponentOf ty a) (mantissaOf ty a) ∧
    (if a < 2 ^ (widthOf ty - 1) then a + 2 ^ (widthOf ty - 1) else a - 2 ^ (widthOf ty - 1)) =
      patternOf ty (!negativeOf ty a) (exponentOf ty a) (mantissaOf ty a) := by
  have hw : widthOf ty - 1 = mantissaBits ty + exponentBits ty ∧ widthOf ty = mantissaBits ty + exponentBits ty + 1 := by
    interval_cases ty <;> decide
  obtain ⟨hw1, hw⟩ := hw
  have hsplit : exponentOf ty a * 2 ^ mantissaBits ty + mantissaOf ty a = a % 2 ^ (mantissaBits ty + exponentBits ty) := by
    rw [exponentOf, mantissaOf, Nat.pow_add, Nat.mod_mul]
    ring
  rw [hw, Nat.pow_succ] at ha
  have hsign : (negativeOf ty a = true ↔ 2 ^ (mantissaBits ty + exponentBits ty) ≤ a) := by
    have hdiv : a / 2 ^ (mantissaBits ty + exponentBits ty) < 2 := Nat.div_lt_of_lt_mul (by omega)
    rw [negativeOf, Nat.mod_eq_of_lt hdiv, beq_iff_eq, ← Nat.one_le_div_iff (Nat.two_pow_pos _)]
    omega
  rw [hw1]
  constructor
  · rw [patternOf, ← hsplit]
    simp only [Bool.false_eq_true, if_false, Nat.zero_add]
  · rw [patternOf, Nat.add_assoc, hsplit]
    by_cases hlt : a < 2 ^ (mantissaBits ty + exponentBits ty)
    · have hpos : negativeOf ty a = false := by rw [Bool.eq_false_iff, ne_eq, hsign]; omega
      rw [if_pos hlt, hpos, Nat.mod_eq_of_lt hlt]
      simp only [Bool.not_false, if_true, Nat.add_comm]
    · have hneg : negativeOf ty a = true := hsign.mpr (by omega)
      rw [if_neg hlt, hneg, Nat.mod_eq_sub_mod (by omega), Nat.mod_eq_of_lt (by omega)]
      simp only [Bool.not_true, Bool.false_eq_true, if_false, Nat.zero_add]

theorem canonicalNaN_eq {code : Nat} (h : code < 6) : canonicalNaN code = quietNaN code := by
  interval_cases code <;> rfl

/-! ### Integer operations -/

theorem wrap_toNat (v : Int) (w : Nat) : ((v % (2 ^ w : Nat)).toNat : Int) = v % 2 ^ w := by
  have h : (0 : Int) < (2 ^ w : Nat) := by exact_mod_cast Nat.two_pow_pos w
  rw [Int.toNat_of_nonneg (Int.emod_nonneg _ h.ne')]
  push_cast
  rfl

theorem wrap_natCast (n w : Nat) : (((n : Int) % (2 ^ w : Nat)).toNat) = n % 2 ^ w := by
  rw [← Int.natCast_mod, Int.toNat_natCast]

/-- A wrapped difference (R121). -/
theorem wrap_sub {a b w : Nat} (hb : b < 2 ^ w) : (((a : Int) - b) % (2 ^ w : Nat)).toNat = (a + 2 ^ w - b) % 2 ^ w := by
  rw [← wrap_natCast, Nat.cast_sub (by omega), Nat.cast_add, add_sub_right_comm, Int.add_emod_right]

/-! ### Conversions -/

/-- The codes that VCVT converts between, INT4 beside. -/
def NumberCode (code : Nat) : Prop := code ∈ [0, 1, 2, 3, 4, 5, 8, 9, 10, 11]

theorem NumberCode.range {code : Nat} (h : NumberCode code) : code < 6 ∨ (8 ≤ code ∧ code < 12) := by
  simp only [NumberCode, List.mem_cons, List.not_mem_nil, or_false] at h
  omega

/-- The model's conversion is the rule's of its two formats (R39 to R41). -/
theorem convert_conversion {src dst : Nat} (rm x : Nat) (hs : NumberCode src) (hd : NumberCode dst) :
    if src = dst then convert src dst rm x = (x, 0)
    else if src < 6 then
      (if dst < 6 then (if widthOf src = widthOf dst then convert src dst rm x = (x, 0) else ConvertsFloat src dst rm x (convert src dst rm x))
        else ConvertsToInteger src (widthOf dst) rm x (convert src dst rm x))
    else if dst < 6 then DeliveredOr dst rm (signed x (widthOf src)) false (convert src dst rm x)
      else Saturates (widthOf dst) (signed x (widthOf src)) (convert src dst rm x) := by
  have hs := hs.range
  have hd := hd.range
  split
  · next h => rw [convert, if_pos h]
  · next hne =>
    split
    · next hsf =>
      split
      · next hdf =>
        split
        · next hw => simp only [convert, isFloatCode, hne, hsf, hdf, hw, decide_true, if_false, if_true]
        · next hw => exact convert_float src dst rm x hsf hdf hw
      · next hdi => exact convert_toInteger src dst rm x hsf (by omega) (by omega)
    · next hsi =>
      split
      · next hdf => exact convert_integer src dst rm x (by omega) hdf
      · next hdi => exact convert_saturates src dst rm x (by omega) (by omega) (by omega) hne

theorem int4Value_eq (lo hi : Word) {a : Nat} (h : a < 16) : int4Value lo hi a = fld (if a < 8 then lo else hi) (8 * (a % 8)) 8 := by
  unfold int4Value
  split
  · next hlt => rw [Nat.mod_eq_of_lt hlt]
  · next hge => rw [Nat.mod_eq_sub_mod (by omega), Nat.mod_eq_of_lt (by omega)]

theorem vcvt_conversion (v : VecCmd) {a : Nat} (hf : LegalFormat .cvt v.ty) (hm : LegalModifier .cvt v.ty v.modifier) (ha : a < 2 ^ widthOf v.ty) :
    ConversionOf v a (if v.ty = 12 then convert 11 (v.modifier % 16) v.rm (int4Value v.int4lo v.int4hi a) else convert v.ty (v.modifier % 16) v.rm a) := by
  have hd : NumberCode v.modifier := hm
  have hmod : v.modifier % 16 = v.modifier := Nat.mod_eq_of_lt (by have := hd.range; omega)
  rw [hmod]
  by_cases h12 : v.ty = 12
  · rw [h12] at ha
    have := convert_conversion (src := 11) v.rm (int4Value v.int4lo v.int4hi a) (List.mem_of_elem_eq_true rfl) hd
    simp only [ConversionOf, h12, if_true, ← int4Value_eq v.int4lo v.int4hi ha]
    exact this
  · have hs : NumberCode v.ty := by
      simp only [LegalFormat, NumberCode, List.mem_cons, List.not_mem_nil, or_false] at hf ⊢
      omega
    simp only [ConversionOf, h12, if_false]
    exact convert_conversion v.rm a hs hd

/-! ### Comparisons -/

theorem boolNat_iff {b : Bool} {p : Prop} (h : b = true ↔ p) : (p → boolNat b = 1) ∧ (¬ p → boolNat b = 0) := by
  cases b
  · exact ⟨fun hp => absurd (h.mpr hp) Bool.false_ne_true, fun _ => rfl⟩
  · exact ⟨fun _ => rfl, fun hp => absurd (h.mp rfl) hp⟩

/-- The condition that VCMP's modifier chooses (R123). -/
def Chosen (m : Nat) (less same more : Prop) : Prop :=
  match m % 8 with
  | 0 => same
  | 1 => ¬ same
  | 2 => less
  | 3 => less ∨ same
  | 4 => more
  | _ => more ∨ same

/-- An element is less than another, by the format and the modifier (R36, R123). -/
def LessElement (ty m p q : Nat) : Prop := if ty < 6 then LessThan ty p q else if m < 8 then signed p (widthOf ty) < signed q (widthOf ty) else p < q

theorem compares_iff (ty m x y : Nat) :
    Compares ty m x y ↔ Chosen m (LessElement ty m x y) (if ty < 6 then SameValue ty x y else x = y) (LessElement ty m y x) := by
  unfold Compares Chosen LessElement
  generalize m % 8 = k
  rcases k with _ | _ | _ | _ | _ | k <;> rfl

/-- VCMP's conditions on integers (R123). -/
theorem vecCompare_integer {ty m x y : Nat} (h : ¬ ty < 6) : (Compares ty m x y → (vecCompare ty m x y).1 = 1) ∧
    (¬ Compares ty m x y → (vecCompare ty m x y).1 = 0) ∧ (vecCompare ty m x y).2 = 0 := by
  have hi : isFloatCode ty = false := decide_eq_false h
  have hflags : (vecCompare ty m x y).2 = 0 := by
    simp only [vecCompare, hi, Bool.false_eq_true, if_false]
    split <;> rfl
  rw [compares_iff]
  refine (and_assoc.mp ⟨boolNat_iff ?_, hflags⟩)
  simp only [hi, Chosen, LessElement, h, Bool.false_eq_true, if_false]
  generalize m % 8 = k
  by_cases h8 : m < 8
  · simp only [h8, if_true]
    rcases k with _ | _ | _ | _ | _ | k <;> simp
  · simp only [h8, if_false]
    rcases k with _ | _ | _ | _ | _ | k <;> simp

theorem vecCompare_compares {ty m x y : Nat} (hm : LegalModifier .cmp ty m) :
    (Compares ty m x y → (vecCompare ty m x y).1 = 1) ∧ (¬ Compares ty m x y → (vecCompare ty m x y).1 = 0) ∧
      (ty < 6 ∧ (SignallingPattern ty x ∨ SignallingPattern ty y) → (vecCompare ty m x y).2 = 0x100) ∧
      (¬ (ty < 6 ∧ (SignallingPattern ty x ∨ SignallingPattern ty y)) → (vecCompare ty m x y).2 = 0) := by
  obtain ⟨h16, h6, hm⟩ := hm
  by_cases h : ty < 6
  · have hm8 : m < 8 := by
      rcases hm with hm | hm
      · exact hm
      · exact absurd h (by simp only [List.mem_cons, List.not_mem_nil, or_false] at hm; omega)
    obtain ⟨h1, h0, hsig, hquiet⟩ := vecCompare_float ty x y h m hm8
    have hc : Compares ty m x y ↔ Chosen m (LessThan ty x y) (SameValue ty x y) (LessThan ty y x) := by
      rw [compares_iff]
      simp only [LessElement, h, if_true]
    rw [Chosen, Nat.mod_eq_of_lt hm8] at hc
    exact ⟨fun hp => h1 (hc.mp hp), fun hp => h0 (mt hc.mpr hp), fun hs => hsig hs.2, fun hs => hquiet fun hp => hs ⟨h, hp⟩⟩
  · obtain ⟨h1, h0, hf⟩ := vecCompare_integer h (m := m) (x := x) (y := y)
    exact ⟨h1, h0, fun hn => absurd hn.1 h, fun _ => hf⟩

end Sys2Proof.Machine

/-! ## Elements of the elementwise commands (O44) -/

namespace Sys2Proof.Machine

open State Sys2Proof.Claims

/-- The operations of R120 on floating-point patterns. -/
def floatOperations : List VecOp :=
  [.add, .sub, .mul, .fma, .fms, .axpy, .div, .sqrt, .rsqrt, .min, .max, .abs, .neg, .exp2, .log2, .rcp, .scale]

theorem float_format {op : VecOp} {ty : Nat} (h : op ∈ floatOperations) (hf : LegalFormat op ty) : ty < 4 := by
  have hmem : ty ∈ [0, 1, 2, 3] := by
    fin_cases h <;> exact hf
  simp only [List.mem_cons, List.not_mem_nil, or_false] at hmem
  omega

theorem legalFormat_width {op : VecOp} {ty : Nat} (hf : LegalFormat op ty) : FormatWidth (widthOf ty) := by
  refine widthOf_format ?_
  have hall : LegalFormat op ty → ty ∈ [0, 1, 2, 3, 4, 5, 8, 9, 10, 11, 12] := by
    cases op <;> simp only [LegalFormat, List.mem_cons, List.not_mem_nil, or_false] <;> omega
  exact hall hf

/-- The smaller or larger of two integers by VIMIN's and VIMAX's modifier (R121). -/
theorem lessBy_modifier (m x y w : Nat) : (if (m == 1) = true then decide (x < y) else decide (signed x w < signed y w)) =
    if m = 1 then decide (x < y) else decide (signed x w < signed y w) := by
  simp only [beq_iff_eq]

theorem lut_entry (s : State) (c off w n x : Nat) : let pre := (List.range (n + 1)).map (s.elemGet c off w)
    (x < pre.length ↔ x ≤ n) ∧ (x ≤ n → pre.getD x 0 = elementAt s.mem c off w x) := by
  simp only [List.length_map, List.length_range, Nat.lt_succ_iff, true_and]
  intro h
  rw [List.getD_eq_getElem _ _ (by simpa using Nat.lt_succ_of_le h), List.getElem_map, List.getElem_range, elemGet_eq]

/-- What a table past its end gives (R122). -/
theorem lut_default (ty : Nat) : (if isFloatCode ty = true then canonicalNaN ty else 0) = if ty < 6 then quietNaN ty else 0 := by
  by_cases h : ty < 6
  · simp only [isFloatCode, h, decide_true, if_true, canonicalNaN_eq h]
  · simp only [isFloatCode, h, decide_false, Bool.false_eq_true, if_false]

section
variable (s0 s : State) (c : Nat) (v : VecCmd) (i : Nat)

/-- Each element's value is the rule's, its scalars and table read before the command (R120 to R123). -/
theorem vecElement_elementOf (hf : LegalFormat v.op v.ty) (hm : LegalModifier v.op v.ty v.modifier) :
    ElementOf s0.mem s.mem c v i (vecElement s c v (vecScalars s0 c v) i) := by
  have hfloat {op : VecOp} (hop : v.op = op) (h : op ∈ floatOperations := by decide) : v.ty < 4 := float_format h (hop ▸ hf)
  have hcode {op : VecOp} (hop : v.op = op) (h : op ∈ floatOperations := by decide) : v.ty < 6 := (hfloat hop h).trans (by decide)
  have hpattern {op : VecOp} (hop : v.op = op) (h : op ∈ floatOperations := by decide) : v.ty ≠ 4 := (hfloat hop h).ne
  have hlt (p : Word) : elementAt s.mem c (fld p 0 21) (widthOf v.ty) i < 2 ^ widthOf v.ty := elementAt_lt _ _ _ _ (legalFormat_width hf)
  unfold ElementOf vecElement vecScalars
  simp only [elemGet_eq]
  cases hop : v.op with
  | add => exact fpAdd_sum _ _ _ _ (hcode hop) (hpattern hop)
  | sub => exact fpSub_sum _ _ _ _ (hcode hop) (hpattern hop)
  | mul => exact fpMul_product _ _ _ _ (hcode hop) (hpattern hop)
  | fma => exact fpFma_fused _ _ _ _ _ (hcode hop) (hpattern hop) false
  | fms => exact fpFma_fused _ _ _ _ _ (hcode hop) (hpattern hop) true
  | axpy => exact fpFma_fused _ _ _ _ _ (hcode hop) (hpattern hop) false
  | div => exact fpDiv_quotient _ _ _ _ (hcode hop) (hpattern hop)
  | sqrt => exact fpSqrt_root _ _ _ (hcode hop) (hpattern hop)
  | rsqrt => exact fpRsqrt_inverseRoot _ _ (hcode hop) (hpattern hop)
  | min => exact minMax_extreme _ _ _ (hcode hop) false
  | max => exact minMax_extreme _ _ _ (hcode hop) true
  | abs => exact congrArg (·, 0) (pattern_split (hfloat hop) (hlt v.pa)).1
  | neg => exact congrArg (·, 0) (pattern_split (hfloat hop) (hlt v.pa)).2
  | exp2 => exact fpExp2_exponential _ _ (hcode hop)
  | log2 => exact fpLog2_logarithm _ _ (hcode hop) (hpattern hop)
  | rcp => exact fpRcp_quotient _ _ (hcode hop) (hpattern hop)
  | scale => exact fpScale_scale _ _ _ (hcode hop) (hpattern hop) _
  | iadd => exact congrArg (·, 0) (wrap_natCast _ _)
  | isub => exact congrArg (·, 0) (wrap_sub (hlt v.pb))
  | imul => exact congrArg (·, 0) (wrap_natCast _ _)
  | and => rfl
  | or => rfl
  | xor => rfl
  | shl => exact congrArg (·, 0) ((wrap_natCast _ _).trans (congrArg (· % _) (Nat.shiftLeft_eq _ _)))
  | shr => exact congrArg (·, 0) (Nat.shiftRight_eq_div_pow _ _)
  | shra => exact ⟨(wrap_toNat _ _).trans (by push_cast; rfl), rfl⟩
  | imin => exact congrArg (fun b : Bool => (if b = true then _ else _, 0)) (lessBy_modifier _ _ _ _)
  | imax => exact congrArg (fun b : Bool => (if b = true then _ else _, 0)) (lessBy_modifier _ _ _ _)
  | cvt => exact vcvt_conversion v (hop ▸ hf) (hop ▸ hm) (hlt v.pa)
  | lut =>
    obtain ⟨hin, hentry⟩ := lut_entry s0 c (ptrOff v.pb) (widthOf v.ty) (v.modifier / 2 ^ 16)
      (elementAt s.mem c (ptrOff v.pa) (widthOf (v.modifier % 16)) i)
    dsimp only at hin hentry ⊢
    by_cases hx : elementAt s.mem c (ptrOff v.pa) (widthOf (v.modifier % 16)) i ≤ v.modifier / 2 ^ 16
    · rw [if_pos (hin.mpr hx), hentry hx]
      exact (if_pos hx).symm
    · rw [if_neg (mt hin.mp hx)]
      exact (congrArg (·, Flag.nv) (lut_default v.ty)).trans (if_neg hx).symm
  | fill => rfl
  | iota => exact ⟨wrap_toNat _ _, rfl⟩
  | copy => rfl
  | sel => rfl
  | cmp => exact vecCompare_compares (hop ▸ hm)
  | rsum | rmax | rmin | dot => trivial

end
end Sys2Proof.Machine

/-! ## The vector engine's writes (O44) -/

namespace Sys2Proof.Machine

open State Sys2Proof.Claims

/-! ### Full bits -/

@[simp] theorem State.setFull_mem (s : State) (key : Nat) (b : Bool) : (s.setFull key b).mem = s.mem := by
  unfold State.setFull
  dsimp only
  split <;> rfl

/-- A full bit set is that of the key's word alone (R92). -/
theorem State.isFull_setFull (s : State) (key k : Nat) (b : Bool) (h : isBulk (key / 8 * 8) = false) :
    (s.setFull key b).isFull k = if k / 8 = key / 8 then b else s.isFull k := by
  have hword (hk : k / 8 = key / 8) : s.isFull k = s.isFull (key / 8 * 8) := by
    simp only [State.isFull, hk, Nat.mul_div_cancel _ (show 0 < 8 by decide)]
  unfold State.setFull
  simp only [h, Bool.false_or]
  split
  · next hb =>
    split
    · next hk => rw [hword hk]; exact eq_of_beq hb
    · rfl
  · show Store.get true (Store.set true s.memFull (key / 8 * 8) b) (k / 8 * 8) = _
    split
    · next hk => rw [hk, Store.get_set_self]
    · next hk => exact Store.get_set_ne _ _ _ (by omega)

/-! ### One element -/

/-- The bytes of an element, one for a nibble, and where they begin (R27). -/
def elemBytes (w : Nat) : Nat := if w = 4 then 1 else w / 8
def elemKey (c off w i : Nat) : Nat := c * 0x200000 + off + if w = 4 then i / 2 else i * (w / 8)

theorem elementByte_iff {c off w i k : Nat} : elementByte c off w i k ↔ elemKey c off w i ≤ k ∧ k < elemKey c off w i + elemBytes w := by
  unfold elementByte elemKey elemBytes
  split
  · omega
  · rw [Nat.succ_mul]
    omega

/-- A byte with one of its nibbles replaced (R27). -/
def withNibble (old p v : Nat) : Nat := if p = 0 then old / 16 * 16 + v % 16 else old % 16 + v % 16 * 16

/-- The nibble replaced reads as the value, the other as it was. -/
theorem withNibble_nibble {old p : Nat} (v : Nat) (hp : p < 2) : withNibble old p v % 256 / 16 ^ p % 16 = v % 16 ∧
    withNibble old p v % 256 / 16 ^ (1 - p) % 16 = old / 16 ^ (1 - p) % 16 := by
  unfold withNibble
  interval_cases p <;> norm_num <;> omega

/-- What is written at the element's bytes: the value, or its nibble in the byte that is there. -/
def elemValue (s : State) (c off w i v : Nat) : Nat := if w = 4 then withNibble (s.read (elemKey c off w i) 1) (i % 2) v else v

theorem State.elemPut_eq (s : State) (c off w i v : Nat) (fill : Bool) : s.elemPut c off w i v fill =
    let s1 := s.write (elemKey c off w i) (elemBytes w) (elemValue s c off w i v)
    if fill = true then s1.setFull (elemKey c off w i) true else s1 := by
  by_cases h : w = 4 <;> simp only [State.elemPut, elemKey, elemBytes, elemValue, withNibble, spadKey, h, if_true, if_false, Nat.add_assoc]

theorem State.elemPut_mem (s : State) (c off w i v : Nat) (fill : Bool) :
    (s.elemPut c off w i v fill).mem = s.mem.writeN (elemKey c off w i) (elemBytes w) (elemValue s c off w i v) := by
  rw [elemPut_eq]
  dsimp only
  split
  · rw [setFull_mem, write_mem]
  · rw [write_mem]

section
variable (s : State) (c off w i v : Nat) (fill : Bool)

/-- No byte beside the element's changes (R118). -/
theorem State.elemPut_byte {k : Nat} (h : ¬ elementByte c off w i k) : (s.elemPut c off w i v fill).mem.byte k = s.mem.byte k := by
  rw [elementByte_iff] at h
  rw [elemPut_mem, Memory.byte_writeN_outside]
  omega

theorem elementAt_nibble (m : Memory) (c off i : Nat) : elementAt m c off 4 i = m.readN (elemKey c off 4 i) 1 / 16 ^ (i % 2) % 16 := by
  rw [Memory.readN_one]
  rfl

theorem elementAt_elemPut_self (hw : FormatWidth w) : elementAt (s.elemPut c off w i v fill).mem c off w i = v % 2 ^ w := by
  rw [elemPut_mem]
  by_cases h4 : w = 4
  · subst h4
    rw [elementAt_nibble]
    exact (congrArg (· / 16 ^ (i % 2) % 16) (Memory.readN_writeN_self _ _ _ _)).trans
      (withNibble_nibble v (Nat.mod_lt _ (by decide))).1
  · have hpow : 2 ^ w = 256 ^ (w / 8) := by
      simp only [FormatWidth, List.mem_cons, List.not_mem_nil, or_false] at hw
      rcases hw with rfl | rfl | rfl | rfl | rfl
      · exact absurd rfl h4
      all_goals rfl
    simp only [elementAt, elemKey, elemBytes, elemValue, h4, if_false]
    rw [hpow]
    exact Memory.readN_writeN_self _ _ _ _

theorem elementAt_elemPut_ne {j : Nat} (h : j ≠ i) : elementAt (s.elemPut c off w i v fill).mem c off w j = elementAt s.mem c off w j := by
  rw [elemPut_mem]
  by_cases h4 : w = 4
  · subst h4
    rw [elementAt_nibble, elementAt_nibble]
    by_cases hbyte : j / 2 = i / 2
    · have hkey : elemKey c off 4 j = elemKey c off 4 i := by simp only [elemKey, if_true, hbyte]
      have hnib : j % 2 = 1 - i % 2 := by omega
      rw [hkey, hnib]
      exact (congrArg (· / 16 ^ (1 - i % 2) % 16) (Memory.readN_writeN_self _ _ _ _)).trans
        (withNibble_nibble v (Nat.mod_lt _ (by decide))).2
    · refine congrArg (· / 16 ^ (j % 2) % 16) (Memory.readN_writeN_disjoint _ _ _ _ _ _ ?_)
      simp only [elemKey, elemBytes, if_true]
      omega
  · have hstep {a b : Nat} (hab : a < b) : a * (w / 8) + w / 8 ≤ b * (w / 8) := (Nat.succ_mul _ _).symm.le.trans (Nat.mul_le_mul_right _ hab)
    simp only [elementAt, elemKey, elemBytes, elemValue, h4, if_false]
    refine Memory.readN_writeN_disjoint _ _ _ _ _ _ ?_
    rcases Nat.lt_or_gt_of_ne h with hlt | hgt
    · have := hstep hlt
      omega
    · have := hstep hgt
      omega

theorem isFull_elemPut {k : Nat} (hb : isBulk (elemKey c off w i / 8 * 8) = false) : (s.elemPut c off w i v fill).isFull k = true ↔
    s.isFull k = true ∨ (fill = true ∧ elemKey c off w i / 8 = k / 8) := by
  have hwrite : (s.write (elemKey c off w i) (elemBytes w) (elemValue s c off w i v)).isFull k = s.isFull k := by
    simp only [State.isFull, State.write_memFull]
  rw [elemPut_eq]
  cases fill with
  | false => simp only [Bool.false_eq_true, if_false, hwrite, false_and, or_false]
  | true =>
    simp only [if_true, isFull_setFull _ _ _ _ hb, hwrite, true_and]
    by_cases hk : k / 8 = elemKey c off w i / 8
    · simp only [hk, if_true, or_true]
    · simp only [hk, Ne.symm hk, if_false, or_false]

end

/-! ### A beat -/

section
variable (c off w : Nat) (fill : Bool)

/-- After a beat's writes the elements written read as written, and the others as before (R118). -/
theorem writeBeat_element (hw : FormatWidth w) (j : Nat) (l : List Nat) (s : State) (i : Nat) :
    elementAt (s.writeBeat c off w fill i l).mem c off w j =
      if i ≤ j ∧ j < i + l.length then l.getD (j - i) 0 % 2 ^ w else elementAt s.mem c off w j := by
  induction l generalizing s i with
  | nil => rw [if_neg (by simp only [List.length_nil]; omega)]; rfl
  | cons x l ih =>
    rw [State.writeBeat, ih]
    simp only [List.length_cons]
    by_cases hj : j = i
    · subst hj
      rw [if_neg (by omega), if_pos (by omega), Nat.sub_self, List.getD_cons_zero, elementAt_elemPut_self _ _ _ _ _ _ _ hw]
    · rw [elementAt_elemPut_ne _ _ _ _ _ _ _ hj]
      by_cases hin : i ≤ j ∧ j < i + (l.length + 1)
      · rw [if_pos hin, if_pos (by omega), show j - i = j - (i + 1) + 1 by omega, List.getD_cons_succ]
      · rw [if_neg hin, if_neg (by omega)]

theorem writeBeat_byte {k : Nat} (l : List Nat) (s : State) (i : Nat) (h : ∀ j, i ≤ j → j < i + l.length → ¬ elementByte c off w j k) :
    (s.writeBeat c off w fill i l).mem.byte k = s.mem.byte k := by
  induction l generalizing s i with
  | nil => rfl
  | cons x l ih =>
    simp only [List.length_cons] at h
    rw [State.writeBeat, ih _ _ fun j h1 h2 => h j (by omega) (by omega), elemPut_byte _ _ _ _ _ _ _ (h i le_rfl (by omega))]

/-- With SETF the words of the elements written become full, and no other full bit changes (R118). -/
theorem writeBeat_isFull {k : Nat} (l : List Nat) (s : State) (i : Nat) (hb : ∀ j, i ≤ j → j < i + l.length → isBulk (elemKey c off w j / 8 * 8) = false) :
    (s.writeBeat c off w fill i l).isFull k = true ↔
      s.isFull k = true ∨ (fill = true ∧ ∃ j, i ≤ j ∧ j < i + l.length ∧ elemKey c off w j / 8 = k / 8) := by
  induction l generalizing s i with
  | nil =>
    refine ⟨.inl, ?_⟩
    rintro (h | ⟨-, j, h1, h2, -⟩)
    · exact h
    · simp only [List.length_nil] at h2
      omega
  | cons x l ih =>
    simp only [List.length_cons] at hb ⊢
    rw [State.writeBeat, ih _ _ fun j h1 h2 => hb j (by omega) (by omega), isFull_elemPut _ _ _ _ _ _ _ (hb i le_rfl (by omega))]
    constructor
    · rintro ((h | ⟨hf, h⟩) | ⟨hf, j, h1, h2, h⟩)
      · exact .inl h
      · exact .inr ⟨hf, i, le_rfl, by omega, h⟩
      · exact .inr ⟨hf, j, by omega, by omega, h⟩
    · rintro (h | ⟨hf, j, h1, h2, h⟩)
      · exact .inl (.inl h)
      · by_cases hj : j = i
        · exact .inl (.inr ⟨hf, hj ▸ h⟩)
        · exact .inr ⟨hf, j, by omega, by omega, h⟩

end

/-! ### The beats of a command -/

section
variable (c : Nat) (v : VecCmd) (pre : List Nat) (e : Nat) (s : State)

/-- The elements of a beat with their flags, from the state at its start (R116). -/
def beatResults (u : State) (b : Nat) : List (Nat × Nat) := (span (b * e) (min e (v.count - b * e))).map (vecElement u c v pre)

/-- The state before beat b. -/
def beatState : Nat → State
  | 0 => s
  | b + 1 => (beatState b).writeBeat c (ptrOff v.pd) (widthOf (v.op.streamD v.ty v.modifier 0).1) (ptrFills v.pd) (b * e)
      ((beatResults c v pre e (beatState b) b).map (·.1))

/-- The flags of the beats before b. -/
def beatFlags : Nat → Nat
  | 0 => 0
  | b + 1 => (beatResults c v pre e (beatState c v pre e s b) b).foldl (fun f x => f ||| x.2) (beatFlags b)

/-- The command's beats, one after another. -/
theorem vecBeats_eq (k b : Nat) : vecBeats c v pre e k (b * e) (beatFlags c v pre e s b) (beatState c v pre e s b) =
    (beatState c v pre e s (b + k), beatFlags c v pre e s (b + k)) := by
  induction k generalizing b with
  | zero => rfl
  | succ k ih =>
    have hnext : b * e + e = (b + 1) * e := (Nat.succ_mul b e).symm
    rw [vecBeats, hnext, show b + (k + 1) = b + 1 + k by omega]
    exact ih (b + 1)

theorem beatResults_length (u : State) (b : Nat) : (beatResults c v pre e u b).length = min e (v.count - b * e) := by
  simp only [beatResults, span, List.length_map, List.length_range]

theorem beatResults_getElem? (u : State) {i : Nat} (he : 0 < e) (hi : i < v.count) :
    (beatResults c v pre e u (i / e))[i - i / e * e]? = some (vecElement u c v pre i) := by
  have hdiv := Nat.div_add_mod' i e
  have hmod := Nat.mod_lt i he
  have hlt : i - i / e * e < min e (v.count - i / e * e) := by omega
  simp only [beatResults, span, List.map_map, List.getElem?_map, List.getElem?_range hlt, Option.map_some, Function.comp]
  congr 2
  omega

/-- An index lies in beat b just if it is one of its elements. -/
theorem mem_beat {i b : Nat} (he : 0 < e) : (b * e ≤ i ∧ i < b * e + min e (v.count - b * e)) ↔ i < v.count ∧ i / e = b := by
  rw [Nat.div_eq_iff he]
  omega

theorem or_testBit (l : List (Nat × Nat)) (f j : Nat) : (l.foldl (fun f x => f ||| x.2) f).testBit j = true ↔
    f.testBit j = true ∨ ∃ x ∈ l, x.2.testBit j = true := by
  induction l generalizing f with
  | nil => simp
  | cons x l ih => rw [List.foldl_cons, ih, Nat.testBit_or, Bool.or_eq_true]; simp [or_assoc]

/-- The flags of the beats are those of their elements (R116). -/
theorem beatFlags_testBit (he : 0 < e) (b j : Nat) : (beatFlags c v pre e s b).testBit j = true ↔
    ∃ i, i < v.count ∧ i / e < b ∧ (vecElement (beatState c v pre e s (i / e)) c v pre i).2.testBit j = true := by
  induction b with
  | zero => simp [beatFlags]
  | succ b ih =>
    have hbeat : (∃ x ∈ beatResults c v pre e (beatState c v pre e s b) b, x.2.testBit j = true) ↔
        ∃ i, i < v.count ∧ i / e = b ∧ (vecElement (beatState c v pre e s (i / e)) c v pre i).2.testBit j = true := by
      simp only [beatResults, span, List.map_map, List.mem_map, List.mem_range, exists_exists_and_eq_and, Function.comp]
      constructor
      · rintro ⟨a, ha, h⟩
        obtain ⟨hcount, hb⟩ := (mem_beat v e (i := b * e + a) (b := b) he).mp ⟨by omega, by omega⟩
        exact ⟨_, hcount, hb, by rw [hb]; exact h⟩
      · rintro ⟨i, hcount, hb, h⟩
        obtain ⟨hlo, hhi⟩ := (mem_beat v e he).mpr ⟨hcount, hb⟩
        refine ⟨i - b * e, by omega, ?_⟩
        rw [Nat.add_sub_cancel' hlo]
        rwa [hb] at h
    rw [beatFlags, or_testBit, ih, hbeat]
    constructor
    · rintro (⟨i, h1, h2, h3⟩ | ⟨i, h1, h2, h3⟩)
      · exact ⟨i, h1, by omega, h3⟩
      · exact ⟨i, h1, by omega, h3⟩
    · rintro ⟨i, h1, h2, h3⟩
      rcases Nat.lt_succ_iff_lt_or_eq.mp h2 with h2 | h2
      · exact .inl ⟨i, h1, h2, h3⟩
      · exact .inr ⟨i, h1, h2, h3⟩

end

end Sys2Proof.Machine

/-! ## Elementwise commands (O44) -/

namespace Sys2Proof.Machine

open State Sys2Proof.Claims

/-- The reductions (R123). -/
def reductions : List VecOp := [.rsum, .rmax, .rmin, .dot]

theorem reduces_iff (op : VecOp) : op.reduces = true ↔ op ∈ reductions := by
  cases op <;> decide

theorem accFormat_eq (ty : Nat) : VecOp.accFormat ty = reductionFormat ty := by
  simp only [VecOp.accFormat, reductionFormat, isFloatCode, List.mem_cons, List.not_mem_nil, or_false, decide_eq_true_eq]
  split
  · next h => rw [h]; rfl
  · next h => exact if_congr (by omega) rfl rfl

theorem reductionFormat_width (ty : Nat) : widthOf (reductionFormat ty) = if ty ∈ [1, 2, 3, 4, 5] then 32 else widthOf ty := by
  unfold reductionFormat
  split <;> rfl

/-- The width of stream D (R111). -/
theorem streamD_width (v : VecCmd) (n : Nat) : widthOf (v.op.streamD v.ty v.modifier 0).1 = (destElements v.op v.ty v.modifier n).1 := by
  cases hop : v.op with
  | rsum | rmax | rmin | dot => exact (congrArg widthOf (accFormat_eq v.ty)).trans (reductionFormat_width v.ty)
  | _ => rfl

/-- A beat holds 1024 bytes of the widest stream; a stream that an operation lacks counts as one of bytes (R116). -/
theorem beatSize_eq (v : VecCmd) : beatSize v = beatElements v := by
  unfold beatSize beatElements
  refine congrArg (1024 / ·) ?_
  simp only [streamD_width v v.count]
  cases v.op
  all_goals
    simp only [streamsOf, VecOp.streamA, VecOp.streamB, VecOp.streamT, VecOp.binary, withoutB, List.mem_cons, List.not_mem_nil, reduceCtorEq,
      if_false, if_true, or_false, or_true, List.map_append, List.map_cons, List.map_nil, List.foldl_append, List.foldl_cons, List.foldl_nil,
      List.nil_append, Bool.false_eq_true]
    omega

theorem widthOf_le (code : Nat) : widthOf code ≤ 64 := by
  unfold widthOf
  split <;> decide

theorem beatSize_pos (v : VecCmd) : 0 < beatSize v := by
  have hwidth (code : Nat) : max 1 (widthOf code / 8) ≤ 8 := by
    have := widthOf_le code
    omega
  have hstream (x : Option (Nat × Nat)) : (match x with | some y => max 1 (widthOf y.1 / 8) | none => 1) ≤ 8 := by
    cases x with
    | none => decide
    | some y => exact hwidth y.1
  have hwidest (a b d t : Option (Nat × Nat)) := max_le (hstream a) (max_le (hstream b) (max_le (hstream d) (hstream t)))
  exact Nat.div_pos ((hwidest _ _ (some _) _).trans (show 8 ≤ 1024 by decide))
    (lt_max_of_lt_right (lt_max_of_lt_right (lt_max_of_lt_left (lt_max_of_lt_left Nat.one_pos))))

theorem destElements_width (v : VecCmd) (n : Nat) (hf : LegalFormat v.op v.ty) (hm : LegalModifier v.op v.ty v.modifier) :
    FormatWidth (destElements v.op v.ty v.modifier n).1 := by
  have hty := legalFormat_width hf
  cases hop : v.op with
  | rsum | rmax | rmin | dot =>
    have hsplit : FormatWidth (if v.ty ∈ [1, 2, 3, 4, 5] then 32 else widthOf v.ty) := by
      split
      · exact List.mem_of_elem_eq_true rfl
      · exact hty
    exact hsplit
  | cvt =>
    have hd : NumberCode v.modifier := by rw [hop] at hm; exact hm
    have hmod : v.modifier % 16 = v.modifier := Nat.mod_eq_of_lt (by have := hd.range; omega)
    show FormatWidth (widthOf (v.modifier % 16))
    rw [hmod]
    exact widthOf_format (List.mem_append_left [12] hd)
  | cmp => exact List.mem_of_elem_eq_true rfl
  | _ => exact hty

section
variable {c off w n i j : Nat}

/-- An element in range lies in the scratchpad (R22). -/
theorem elemKey_lt (hw : FormatWidth w) (hi : i < n) (hr : off + (w * n + 7) / 8 ≤ 0x180000) : elemKey c off w i < c * 0x200000 + 0x180000 := by
  simp only [FormatWidth, List.mem_cons, List.not_mem_nil, or_false] at hw
  unfold elemKey
  rcases hw with rfl | rfl | rfl | rfl | rfl
  all_goals
    norm_num
    omega

/-- An element on its boundary lies in one word (R111). -/
theorem elementByte_word (hw : FormatWidth w) (ha : max 1 (w / 8) ∣ off) (h : elementByte c off w i j) : j / 8 = elemKey c off w i / 8 := by
  obtain ⟨q, rfl⟩ := ha
  rw [elementByte_iff] at h
  simp only [FormatWidth, List.mem_cons, List.not_mem_nil, or_false] at hw
  unfold elemKey elemBytes at *
  rcases hw with rfl | rfl | rfl | rfl | rfl
  all_goals
    norm_num at h ⊢
    omega

theorem elementByte_first (hw : FormatWidth w) : elementByte c off w i (elemKey c off w i) := by
  rw [elementByte_iff]
  simp only [FormatWidth, List.mem_cons, List.not_mem_nil, or_false] at hw
  refine ⟨le_rfl, Nat.lt_add_of_pos_right ?_⟩
  rcases hw with rfl | rfl | rfl | rfl | rfl <;> decide

end

end Sys2Proof.Machine

/-! ## The vector engine (O44) -/

namespace Sys2Proof.Machine

open State Sys2Proof.Claims

/-! ### Elementwise commands -/

section
variable (s : State) (c : Nat) (v : VecCmd)

/-- The state before beat b of a command, and the result of element i, read at the start of its beat (R116). -/
def beforeBeat (b : Nat) : State := beatState c v (vecScalars s c v) (beatElements v) s b
def resultOf (i : Nat) : Nat × Nat := vecElement (beforeBeat s c v (i / beatElements v)) c v (vecScalars s c v) i

/-- The width of the destination's elements. -/
def destWidth (v : VecCmd) : Nat := (destElements v.op v.ty v.modifier v.count).1

theorem beatElements_pos (v : VecCmd) : 0 < beatElements v := beatSize_eq v ▸ beatSize_pos v

theorem vecRun_elementwise (hr : v.op ∉ reductions) (h0 : 0 < v.count) : vecRun s c v =
    (beforeBeat s c v ((v.count + beatElements v - 1) / beatElements v),
      beatFlags c v (vecScalars s c v) (beatElements v) s ((v.count + beatElements v - 1) / beatElements v)) := by
  have hop : v.op.reduces = false := Bool.eq_false_iff.mpr (mt (reduces_iff v.op).mp hr)
  have hbeats := vecBeats_eq c v (vecScalars s c v) (beatElements v) s ((v.count + beatElements v - 1) / beatElements v) 0
  simp only [Nat.zero_mul, Nat.zero_add] at hbeats
  simp only [vecRun, hop, Nat.ne_of_gt h0, beatSize_eq, Bool.false_eq_true, if_false]
  exact hbeats

/-- A beat writes the results of its elements. -/
theorem beforeBeat_succ (b : Nat) : beforeBeat s c v (b + 1) = (beforeBeat s c v b).writeBeat c (fld v.pd 0 21) (destWidth v) (bitAt v.pd 57)
    (b * beatElements v) ((beatResults c v (vecScalars s c v) (beatElements v) (beforeBeat s c v b) b).map (·.1)) := by
  rw [destWidth, ← streamD_width v v.count]
  rfl

variable {c v}

/-- The element of a beat, after it, is its result (R116). -/
theorem beforeBeat_written {i : Nat} (hi : i < v.count) (hw : FormatWidth (destWidth v)) :
    elementAt (beforeBeat s c v (i / beatElements v + 1)).mem c (fld v.pd 0 21) (destWidth v) i = (resultOf s c v i).1 % 2 ^ destWidth v := by
  have hin := (mem_beat v (beatElements v) (beatElements_pos v)).mpr ⟨hi, rfl⟩
  rw [beforeBeat_succ, writeBeat_element _ _ _ _ hw, List.length_map, beatResults_length, if_pos hin, List.getD_eq_getElem?_getD, List.getElem?_map,
    beatResults_getElem? _ _ _ _ _ (beatElements_pos v) hi]
  rfl

/-- An element of another beat, or past the count, is as before. -/
theorem beforeBeat_kept {i b : Nat} (hi : i / beatElements v ≠ b ∨ v.count ≤ i) (hw : FormatWidth (destWidth v)) :
    elementAt (beforeBeat s c v (b + 1)).mem c (fld v.pd 0 21) (destWidth v) i = elementAt (beforeBeat s c v b).mem c (fld v.pd 0 21) (destWidth v) i := by
  rw [beforeBeat_succ, writeBeat_element _ _ _ _ hw, List.length_map, beatResults_length, if_neg]
  rw [mem_beat v _ (beatElements_pos v)]
  rintro ⟨hlt, hb⟩
  rcases hi with h | h
  · exact h hb
  · omega

/-- A byte of no element of the beat is as before. -/
theorem beforeBeat_byte {b k : Nat} (h : ∀ i, i < v.count → i / beatElements v = b → ¬ elementByte c (fld v.pd 0 21) (destWidth v) i k) :
    (beforeBeat s c v (b + 1)).mem.byte k = (beforeBeat s c v b).mem.byte k := by
  rw [beforeBeat_succ, writeBeat_byte]
  intro j hlo hhi
  rw [List.length_map, beatResults_length] at hhi
  obtain ⟨hcount, hb⟩ := (mem_beat v _ (beatElements_pos v)).mp ⟨hlo, hhi⟩
  exact h j hcount hb

/-- With SETF the words of the beat's elements become full, and no other full bit changes (R118). -/
theorem beforeBeat_isFull (b k : Nat) (hb : ∀ j, j < v.count → isBulk (elemKey c (fld v.pd 0 21) (destWidth v) j / 8 * 8) = false) :
    (beforeBeat s c v (b + 1)).isFull k = true ↔ (beforeBeat s c v b).isFull k = true ∨
      (bitAt v.pd 57 = true ∧ ∃ j, j < v.count ∧ j / beatElements v = b ∧ elemKey c (fld v.pd 0 21) (destWidth v) j / 8 = k / 8) := by
  rw [beforeBeat_succ, writeBeat_isFull]
  · simp only [List.length_map, beatResults_length, ← and_assoc, mem_beat v _ (beatElements_pos v)]
  · intro j hlo hhi
    rw [List.length_map, beatResults_length] at hhi
    exact hb j ((mem_beat v _ (beatElements_pos v)).mp ⟨hlo, hhi⟩).1

/-- The beats of a command hold all its elements. -/
theorem beat_lt {n e i : Nat} (he : 0 < e) (hi : i < n) : i / e < (n + e - 1) / e := by
  rw [Nat.div_lt_iff_lt_mul he]
  have := Nat.div_add_mod' (n + e - 1) e
  have := Nat.mod_lt (n + e - 1) he
  omega

theorem vecRun_flags (hr : v.op ∉ reductions) (h0 : 0 < v.count) (j : Nat) :
    (vecRun s c v).2.testBit j = true ↔ ∃ i, i < v.count ∧ (resultOf s c v i).2.testBit j = true := by
  rw [vecRun_elementwise s c v hr h0]
  refine (beatFlags_testBit c v (vecScalars s c v) (beatElements v) s (beatElements_pos v) _ j).trans (exists_congr fun i => and_congr_right fun hi => ?_)
  exact and_iff_right (beat_lt (beatElements_pos v) hi)

section
variable {s} {b k : Nat} (hw : FormatWidth (destWidth v)) (hc : c < 1280) (hin : fld v.pd 0 21 + (destWidth v * v.count + 7) / 8 ≤ 0x180000)
include hw hc hin

theorem destination_scratchpad (j : Nat) (hj : j < v.count) : isBulk (elemKey c (fld v.pd 0 21) (destWidth v) j / 8 * 8) = false := by
  have := elemKey_lt (c := c) hw hj hin
  exact decide_eq_false (by omega)

theorem beforeBeat_filled (ha : max 1 (destWidth v / 8) ∣ fld v.pd 0 21) (h : bitAt v.pd 57 = true ∧
    ∃ i j, i < v.count ∧ i / beatElements v = b ∧ elementByte c (fld v.pd 0 21) (destWidth v) i j ∧ j / 8 = k / 8) :
    (beforeBeat s c v (b + 1)).isFull k = true := by
  obtain ⟨hs, i, j, hi, hb, hbyte, hk⟩ := h
  exact (beforeBeat_isFull s b k (destination_scratchpad hw hc hin)).mpr (.inr ⟨hs, i, hi, hb, (elementByte_word hw ha hbyte).symm.trans hk⟩)

theorem beforeBeat_unfilled (h : bitAt v.pd 57 = false ∨
    ∀ i j, i < v.count → i / beatElements v = b → elementByte c (fld v.pd 0 21) (destWidth v) i j → j / 8 ≠ k / 8) :
    (beforeBeat s c v (b + 1)).isFull k = (beforeBeat s c v b).isFull k := by
  rw [Bool.eq_iff_iff, beforeBeat_isFull s b k (destination_scratchpad hw hc hin), or_iff_left]
  rintro ⟨hs, i, hi, hb, hk⟩
  rcases h with h | h
  · exact Bool.false_ne_true (h.symm.trans hs)
  · exact h i _ hi hb (elementByte_first hw) hk

end

end

/-! ### Reductions -/

section
variable (s : State) (c : Nat) (v : VecCmd)

/-- Lane i of a reduction in the accumulation format (R123). -/
def laneOf (i : Nat) : Nat × Nat :=
  let f := reductionFormat v.ty
  let a := convert v.ty f 0 (elementAt s.mem c (fld v.pa 0 21) (widthOf v.ty) i)
  if v.op = .dot then
    let b := convert v.ty f 0 (elementAt s.mem c (fld v.pb 0 21) (widthOf v.ty) i)
    let p := fpMul f v.rm a.1 b.1
    (p.1, a.2 ||| b.2 ||| p.2)
  else a

theorem reduce_eq : reduce s c v = (foldBeats (combine2 (reduceStep v.op (reductionFormat v.ty) v.rm v.modifier)) (beatSize v)
    ((v.count + beatSize v - 1) / beatSize v) ((List.range v.count).map (laneOf s c v))).getD (reduceIdentity v.op (reductionFormat v.ty) v.modifier, 0) := by
  unfold reduce
  simp only [elemGet_eq, accFormat_eq]
  rfl

variable {v}

/-- The reductions' formats, and those they accumulate in (R123). -/
theorem reduction_formats (hr : v.op ∈ reductions) (hf : LegalFormat v.op v.ty) : v.ty ∈ [0, 1, 2, 3, 8, 9] := by
  simp only [reductions, List.mem_cons, List.not_mem_nil, or_false] at hr
  rcases hr with h | h | h | h <;> rw [h] at hf
  · exact hf
  · exact hf
  · exact hf
  · exact List.mem_append_left [8, 9] hf

theorem reductionFormat_float {ty : Nat} (h : ty ∈ [0, 1, 2, 3, 8, 9]) (hf : reductionFormat ty < 6) : reductionFormat ty ≠ 4 := by
  have hall : ∀ ty ∈ [0, 1, 2, 3, 8, 9], reductionFormat ty < 6 → reductionFormat ty ≠ 4 := by decide
  exact hall ty h hf

theorem reductionFormat_format {ty : Nat} (h : ty ∈ [0, 1, 2, 3, 8, 9]) : FormatWidth (widthOf (reductionFormat ty)) := by
  have hall : ∀ ty ∈ [0, 1, 2, 3, 8, 9], widthOf (reductionFormat ty) ∈ [4, 8, 16, 32, 64] := by decide
  exact hall ty h

/-- A lane's element is widened to the accumulation format (R123). -/
theorem convert_widens {ty : Nat} (x : Nat) (h : ty ∈ [0, 1, 2, 3, 8, 9]) : WidenedOf ty x (convert ty (reductionFormat ty) 0 x) := by
  unfold WidenedOf
  split
  · next he => rw [convert, if_pos he.symm]
  · next hne =>
    have hall : ∀ ty ∈ [0, 1, 2, 3, 8, 9], reductionFormat ty ≠ ty → ty < 6 ∧ reductionFormat ty < 6 ∧ widthOf ty ≠ widthOf (reductionFormat ty) := by decide
    obtain ⟨hs, hd, hw⟩ := hall ty h hne
    exact convert_float _ _ 0 x hs hd hw

theorem laneOf_lane (hr : v.op ∈ reductions) (hf : LegalFormat v.op v.ty) (i : Nat) : LaneOf s.mem c v i (laneOf s c v i) := by
  have hty := reduction_formats hr hf
  refine ⟨_, _, _, convert_widens _ hty, convert_widens _ hty, fun hdot => ?_, rfl⟩
  have h4 : v.ty ∈ [0, 1, 2, 3] := by rw [hdot] at hf; exact hf
  have hall : ∀ ty ∈ [0, 1, 2, 3], reductionFormat ty < 6 := by decide
  exact fpMul_product _ _ _ _ (hall _ h4) (reductionFormat_float hty (hall _ h4))

/-- A step of a reduction is the rule's (R49, R123). -/
theorem reduceStep_step (hr : v.op ∈ reductions) (hf : LegalFormat v.op v.ty) (x y : Nat) :
    StepOf v x y (reduceStep v.op (reductionFormat v.ty) v.rm v.modifier x y) := by
  have h4 := reductionFormat_float (reduction_formats hr hf)
  unfold StepOf reduceStep
  simp only [isFloatCode, decide_eq_true_eq]
  generalize reductionFormat v.ty = f at h4
  by_cases h6 : f < 6
  · simp only [h6, if_true]
    cases hop : v.op with
    | rmax => exact minMax_extreme f x y h6 true
    | rmin => exact minMax_extreme f x y h6 false
    | _ => exact fpAdd_sum f v.rm x y h6 (h4 h6)
  · simp only [h6, if_false]
    cases hop : v.op with
    | rmax => exact congrArg (fun b : Bool => (if b = true then _ else _, 0)) (lessBy_modifier _ _ _ _)
    | rmin => exact congrArg (fun b : Bool => (if b = true then _ else _, 0)) (lessBy_modifier _ _ _ _)
    | _ => exact congrArg (·, 0) (wrap_natCast _ _)

theorem reduceIdentity_eq (v : VecCmd) : reduceIdentity v.op (reductionFormat v.ty) v.modifier = identityOf v := by
  unfold reduceIdentity identityOf
  simp only [isFloatCode, decide_eq_true_eq]
  generalize reductionFormat v.ty = f
  cases v.op with
  | rmax => exact if_ctx_congr Iff.rfl (fun h => infBits_eq f h true) fun _ => rfl
  | rmin => exact if_ctx_congr Iff.rfl (fun h => infBits_eq f h false) fun _ => rfl
  | _ => rfl

/-- A reduction of elements folds its lanes by beats and trees; of none, it is the identity (R49, R123). -/
theorem reduce_empty (h : v.count = 0) : reduce s c v = (identityOf v, 0) := by
  have hbeats : (v.count + beatSize v - 1) / beatSize v = 0 := by
    rw [h]
    exact Nat.div_eq_of_lt (by have := beatSize_pos v; omega)
  rw [reduce_eq, hbeats, reduceIdentity_eq]
  rfl

/-- The accumulation format is the widest stream of a reduction (R116). -/
theorem reduction_beat (hr : v.op ∈ reductions) (hf : LegalFormat v.op v.ty) : beatSize v = 1024 / (widthOf (reductionFormat v.ty) / 8) := by
  have hall : ∀ ty ∈ [0, 1, 2, 3, 8, 9], 1 ≤ widthOf (reductionFormat ty) / 8 ∧ widthOf ty / 8 ≤ widthOf (reductionFormat ty) / 8 := by decide
  obtain ⟨hone, hwide⟩ := hall v.ty (reduction_formats hr hf)
  simp only [reductions, List.mem_cons, List.not_mem_nil, or_false] at hr
  refine congrArg (1024 / ·) ?_
  rcases hr with h | h | h | h
  all_goals
    simp only [h, VecOp.streamA, VecOp.streamB, VecOp.streamD, VecOp.streamT, VecOp.reduces, VecOp.binary, reduceCtorEq, accFormat_eq, Bool.false_eq_true,
      if_true, if_false]
    omega

theorem reduce_folds (hr : v.op ∈ reductions) (hf : LegalFormat v.op v.ty) (h : 0 < v.count) :
    FoldOf (StepOf v) (1024 / (widthOf (reductionFormat v.ty) / 8)) ((List.range v.count).map (laneOf s c v)) (reduce s c v) := by
  have hlen : ((List.range v.count).map (laneOf s c v)).length = v.count := by rw [List.length_map, List.length_range]
  have hbeat : beatSize v ≤ 1024 := Nat.div_le_self _ _
  obtain ⟨a, ha, hfold⟩ := foldBeats_rule (StepOf v) _ (reduceStep_step hr hf) (beatSize v) (beatSize_pos v) hbeat ((List.range v.count).map (laneOf s c v))
    (by rw [hlen]; exact h)
  rw [hlen] at ha
  rw [reduce_eq, ha, ← reduction_beat hr hf]
  exact hfold

/-- A reduction writes its result's element and no other byte (R118, R123). -/
theorem vecRun_reduces (hr : v.op ∈ reductions) (hin : fld v.pd 0 21 + widthOf (reductionFormat v.ty) / 8 ≤ 0x180000) :
    vecRun s c v = (s.elemPut c (fld v.pd 0 21) (widthOf (reductionFormat v.ty)) 0 (reduce s c v).1 (bitAt v.pd 57), (reduce s c v).2) := by
  have hop : v.op.reduces = true := (reduces_iff v.op).mpr hr
  have hle : ¬ Config.spadSize < ptrOff v.pd + widthOf (reductionFormat v.ty) / 8 := Nat.not_lt.mpr hin
  simp only [vecRun, hop, accFormat_eq, hle, if_true, if_false]
  rfl

end

/-- Settles O44: the engine's execution and finish, the beats of an elementwise command, and the reductions. -/
theorem vectorEngineComputes : Obligations.VectorEngineComputes := by
  unfold Obligations.VectorEngineComputes
  refine ⟨fun s c v l hq he => ?execute, fun s c v fl he => ?finish, fun s c v hc hr hf hm _ h0 => ?elementwise, fun s c v hc hr hf hm _ => ?reduction⟩
  case execute =>
    show Host.Outcome.next (vectorExecute c s) = _
    simp only [vectorExecute, hq, he]
  case finish =>
    show Host.Outcome.next (vectorFinish c s) = _
    simp only [vectorFinish, he]
    rfl
  case elementwise =>
    intro w off e ha hin
    have hw : FormatWidth (destWidth v) := destElements_width v _ hf hm
    exact ⟨beforeBeat s c v, resultOf s c v, rfl, by rw [vecRun_elementwise s c v hr h0],
      fun i hi => ⟨vecElement_elementOf s _ c v i hf hm, beforeBeat_written s hi hw⟩, fun b k h => beforeBeat_byte s h,
      fun _ b i h => beforeBeat_kept s h hw, fun b k => ⟨beforeBeat_filled hw hc hin ha, beforeBeat_unfilled hw hc hin⟩, vecRun_flags s hr h0⟩
  case reduction =>
    intro w off u hin
    have hu : u = _ := vecRun_reduces s c hr hin
    have hw : FormatWidth w := reductionFormat_format (reduction_formats hr hf)
    refine ⟨reduce s c v, by rw [hu], ?_, fun k hk => ?_, reduce_empty s c, fun h => ⟨_, ?_, fun i hi => ?_, reduce_folds s c hr hf h⟩⟩
    · rw [hu]
      exact elementAt_elemPut_self s c off w 0 _ _ hw
    · rw [hu]
      exact elemPut_byte s c off w 0 _ _ hk
    · rw [List.length_map, List.length_range]
    · rw [List.getElem_map, List.getElem_range]
      exact laneOf_lane s c hr hf i

end Sys2Proof.Machine

/-! ## Turns: the instruction at the pc, and what takes its place (O6, O7, O8) -/

namespace Sys2Proof.Machine

open State Sys2Proof.Claims

/-! ### Cycles -/

/-- A cycle of a core that issues a slot is that slot's turn, in the state after the pick. -/
theorem runCycle_of_issue {s s1 : State} {c t : Nat} (hc : c < 1280) (h : s.cycle c = (s1, some t)) : runCycle c s = turn t s1 := by
  have hin : ¬ Config.cores ≤ c := Nat.not_le.mpr hc
  rw [runCycle, if_neg hin, h]

/-- Without a pending trap, inside the scratchpad, a turn runs the instruction at the pc (R71). -/
theorem turn_of_decode {s : State} {t : Nat} {i : Instr} {bs : List Byte} (hp : (s.slot t).pend = []) (hpc : (s.slot t).pc < 0x180000)
    (hd : decode (s.fetchBytes (t / 64) (s.slot t).pc) = .ok (i, bs)) : turn t s = exec i s := by
  have hin : ¬ Config.spadSize ≤ (s.slot t).pc := Nat.not_le.mpr hpc
  simp only [turn, hp, List.isEmpty_nil, Bool.not_true, Bool.false_eq_true, hin, if_false, hd]

/-- A word that does not decode is an illegal encoding (R71). -/
theorem turn_of_illegal {s : State} {t : Nat} {e : DecodeError} (hp : (s.slot t).pend = []) (hpc : (s.slot t).pc < 0x180000)
    (hd : decode (s.fetchBytes (t / 64) (s.slot t).pc) = .error e) : turn t s = exec (.illegalEncoding (s.fetchWord t)) s := by
  have hin : ¬ Config.spadSize ≤ (s.slot t).pc := Nat.not_le.mpr hpc
  simp only [turn, hp, List.isEmpty_nil, Bool.not_true, Bool.false_eq_true, hin, if_false, hd]
  rfl

/-- A pc past the scratchpad falls through (R85). -/
theorem turn_past_scratchpad {s : State} {t : Nat} (hp : (s.slot t).pend = []) (hpc : 0x180000 ≤ (s.slot t).pc) :
    turn t s = exec .fallThrough s := by
  have hout : Config.spadSize ≤ (s.slot t).pc := hpc
  simp only [turn, hp, List.isEmpty_nil, Bool.not_true, Bool.false_eq_true, hout, if_false, if_true]
  rfl

/-! ### Words that name no instruction -/

/-- A word of QBIND with a d field below 124 (R196). -/
def QbindBelow (n : Nat) : Prop := n / 2 ^ 26 = 0x24 ∧ n % 2 ^ 12 = 0 ∧ n / 2 ^ 19 % 128 < 124

theorem exec_illegalEncoding (w : BitVec 32) (s : State) :
    exec (.illegalEncoding w) s = .next (s.takeTrap s.cur 0x01 (illegalInfo w.toNat s)) := rfl

theorem exec_fallThrough (s : State) : exec .fallThrough s = .next (s.takeTrap s.cur 0x04 (addrOf s.here 0x180000)) := rfl

theorem illegalInfo_word {n : Nat} (s : State) (h : ¬ QbindBelow n) : illegalInfo n s = ofNat n :=
  if_neg fun ⟨hmajor, hlow, hd, _⟩ => h ⟨hmajor, hlow, hd⟩

theorem illegalInfo_register {n : Nat} {s : State} (h : QbindBelow n) (hl : n / 2 ^ 12 % 128 < s.me.limit)
    (hq : s.me.queueOf (n / 2 ^ 12 % 128) = none) : illegalInfo n s = s.reg s.cur (n / 2 ^ 12 % 128) :=
  if_pos ⟨h.1, h.2.1, h.2.2, hl, hq⟩

theorem illegalInfo_outside {n : Nat} {s : State} (h : s.me.limit ≤ n / 2 ^ 12 % 128 ∨ s.me.queueOf (n / 2 ^ 12 % 128) ≠ none) :
    illegalInfo n s = ofNat n :=
  if_neg fun ⟨_, _, _, hl, hq⟩ => h.elim (Nat.not_le.mpr hl) (absurd hq)

/-! ### The statements -/

/-- Settles O6, by decoding each word. -/
theorem specWordsDecode : Obligations.SpecWordsDecode := by
  unfold Obligations.SpecWordsDecode
  decide

/-- Settles O7: a step is the head of the agenda or an idle cycle, and a cycle that issues is a turn. -/
theorem turnRunsDecodedInstruction : Obligations.TurnRunsDecodedInstruction := by
  unfold Obligations.TurnRunsDecodedInstruction
  refine ⟨fun s s1 c r t i bs ha hc hcy hp hpc hd => ?agenda, fun s s1 t i bs ha hdue hc hcy hp hpc hd => ?idle, fun s i r ha => ?event⟩
  case agenda =>
    calc step s = runCycle c { s with agenda := r } := by rw [step, ha]; rfl
      _ = turn t s1 := runCycle_of_issue hc hcy
      _ = exec i s1 := turn_of_decode hp hpc hd
  case idle =>
    calc step s = runCycle s.core s := by rw [step, ha]; simp only [hdue]
      _ = turn t s1 := runCycle_of_issue hc hcy
      _ = exec i s1 := turn_of_decode hp hpc hd
  case event => rw [step, ha]; rfl

/-- Settles O8: by what the turn runs in place of an instruction, and what TRAPINFO holds. -/
theorem illegalWordsTrap : Obligations.IllegalWordsTrap := by
  unfold Obligations.IllegalWordsTrap
  refine ⟨fun s t e ht hp hpc hd hq => ?illegal, fun s t ht hp hpc => ?past, fun s w hq => ?word,
    fun s w hmajor hlow hd => ⟨fun hl hn => ?register, fun ho => ?outside⟩, exec_fallThrough⟩
  case illegal =>
    rw [turn_of_illegal hp hpc hd, exec_illegalEncoding, illegalInfo_word s hq, ht]
  case past =>
    rw [turn_past_scratchpad hp hpc, exec_fallThrough, ht]; rfl
  case word => rw [exec_illegalEncoding, illegalInfo_word s hq]
  case register => rw [exec_illegalEncoding, illegalInfo_register ⟨hmajor, hlow, hd⟩ hl hn]
  case outside => rw [exec_illegalEncoding, illegalInfo_outside ho]

end Sys2Proof.Machine

/-! ## Operands and results of the window (O11, O12) -/

namespace Sys2Proof.Claims

open Sys2Proof.Machine

theorem WindowCode.inside {s : State} {v : Nat} (h : WindowCode s v) : v < s.me.limit := h.1

theorem WindowCode.unbound {s : State} {v : Nat} (h : WindowCode s v) : s.me.queueOf v = none := h.2.2.1

theorem WindowCode.noMail {s : State} {v : Nat} (h : WindowCode s v) : s.isMail v = false := h.2.2.2

end Sys2Proof.Claims

namespace Sys2Proof.Machine

open State Sys2Proof.Claims

/-! ### Operands -/

/-- A code past the limit that is neither a bound queue nor a mailbox register fails its check (R56). -/
theorem State.checkCode_outside (s : State) {v : Nat} (hq : s.me.queueOf v = none) (hm : s.isMail v = false) (hl : s.me.limit ≤ v) :
    s.checkCode v = .error (.trap (if 124 ≤ v ∧ v < 128 then 0x09 else 0x02) (ofNat v)) := by
  simp only [State.checkCode, hq, hm, Nat.not_lt.mpr hl, Option.isSome_none, decide_false, Bool.or_false, Bool.false_eq_true, if_false]
  split <;> rfl

theorem State.operands_unchecked {s : State} {srcs dsts : List Nat} {e : Stop} (word : Word) (h : s.checkCodes (srcs ++ dsts) = .error e) :
    s.operands word srcs dsts = .error e := by
  simp only [State.operands, h]

theorem State.operands_badQueue {s : State} {word : Word} {srcs dsts : List Nat} {e : Stop} (hc : s.checkCodes (srcs ++ dsts) = .ok ())
    (hq : s.checkQueues word srcs dsts = .error e) : s.operands word srcs dsts = .error e := by
  simp only [State.operands, hc, hq]

theorem State.operands_checked {s : State} {word : Word} {srcs dsts : List Nat} (hc : s.checkCodes (srcs ++ dsts) = .ok ())
    (hq : s.checkQueues word srcs dsts = .ok ()) : s.operands word srcs dsts = s.readSources srcs [] srcs := by
  simp only [State.operands, hc, hq]

/-- The first source that cannot be read stops the instruction (R73). -/
theorem State.readSources_stop {s : State} {all : List Nat} {v : Nat} {e : Stop} (hv : ∀ before, s.readSource all before v = .error e) (r : List Nat) :
    ∀ (p before : List Nat), (∀ u ∈ p, ∀ b, ∃ w, s.readSource all b u = .ok w) → s.readSources all before (p ++ v :: r) = .error e
  | [], before, _ => by rw [List.nil_append, State.readSources, hv]
  | u :: p, before, hp => by
    obtain ⟨w, hw⟩ := hp u List.mem_cons_self before
    rw [List.cons_append, State.readSources, hw]
    simp only [readSources_stop hv r p _ fun x hx => hp x (List.mem_cons_of_mem u hx)]

/-- Settles O11: the window check, the queue check, then the sources in order. -/
theorem windowOperandsAreRead : Obligations.WindowOperandsAreRead := by
  unfold Obligations.WindowOperandsAreRead
  refine ⟨fun s word srcs dsts hw hf => ?read, fun s word srcs dsts p v r hsplit hp hq hm hl => ?outside,
    fun s word srcs dsts p v r hsplit hw hp he => ?empty, fun s word srcs dsts v hw hv hl => ?lost⟩
  case read =>
    exact operands_ok s word srcs dsts (fun v hv => (hw v hv).1.inside) (fun v hv => (hw v hv).1.unbound) (fun v hv => (hw v hv).2)
      (fun v hv => (hw v (List.mem_append_left _ hv)).1.noMail) hf
  case outside =>
    refine operands_unchecked word ?_
    rw [hsplit]
    exact checkCodes_error s p r v _ (fun u hu => checkCode_ok s u (hp u hu).inside) (checkCode_outside s hq hm hl)
  case empty =>
    have hread (u : Nat) (hu : u ∈ srcs) (b : List Nat) : s.readSource srcs b u =
        if s.regIsFull s.cur u then .ok (s.reg s.cur u) else .error (.park (.register u) (ofNat u)) :=
      have hu := (hw u (List.mem_append_left _ hu)).1
      readSource_register s srcs b u hu.unbound hu.noMail
    rw [operands_checked (checkCodes_ok s _ fun u hu => (hw u hu).1.inside)
      (checkQueues_ok s word _ _ (fun u hu => (hw u hu).1.unbound) fun u hu => (hw u hu).2)]
    have hstop := readSources_stop (s := s) (all := srcs) (v := v) (e := .park (.register v) (ofNat v))
      (fun b => by rw [hread v (by simp [hsplit]), if_neg (by simp [he])]) r p []
      fun u hu b => ⟨_, by rw [hread u (by simp [hsplit, hu]), if_pos (hp u hu)]⟩
    rwa [← hsplit] at hstop
  case lost =>
    exact operands_badQueue (checkCodes_ok s _ fun u hu => (hw u hu).inside) (checkQueues_lost s word srcs dsts v hv hl)

/-! ### Results -/

/-- A result for an ordinary register of a thread that pops no queue: the next pc, and a register write. -/
theorem State.complete_register {s : State} {srcs : List Nat} {d : Nat} (w : Word) (hd : WindowCode s d) (hs : ∀ v ∈ srcs, s.me.queueOf v = none) :
    s.complete srcs d w = s.advance.writeReg s.cur d w := by
  rw [State.complete, consume_none s srcs hs, writeDest_register s.advance d w (by rw [advance_me]; exact hd.unbound) hd.noMail]
  rfl

/-- A result for a bound queue code: the next pc, and a push. -/
theorem State.complete_queue {s : State} {srcs : List Nat} {d n : Nat} (w : Word) (hd : s.me.queueOf d = some n) (hs : ∀ v ∈ srcs, s.me.queueOf v = none) :
    s.complete srcs d w = s.advance.pushPipe s.here (s.me.outQueue n) w := by
  have hq : s.advance.me.queueOf d = some n := by rw [advance_me]; exact hd
  rw [State.complete, consume_none s srcs hs, State.writeDest, hq]
  simp only [advance_me, advance_here, Slot.advance_outQueue]

@[simp] theorem State.advance_pipe (s : State) (c n : Nat) : s.advance.pipe c n = s.pipe c n := rfl

/-- Settles O12: a completion is a step to the next instruction and a register write or a push, and the thread, being ready, is not woken. -/
theorem resultReachesItsRegister : Obligations.ResultReachesItsRegister := by
  unfold Obligations.ResultReachesItsRegister
  refine ⟨fun s srcs d w hd hs hr => ?register, fun s srcs d n w hd hs => ?queue⟩
  case register =>
    have hphase : (s.advance.slot s.cur).phase = .ready := (congrArg Slot.phase (advance_me s)).trans hr
    have hslots : (s.advance.writeReg s.cur d w).slots = s.advance.slots := writeReg_slots hphase
    have hslot (u : Nat) : (s.advance.writeReg s.cur d w).slot u = s.advance.slot u := by unfold State.slot; rw [hslots]
    have hme : (s.advance.writeReg s.cur d w).me = s.me.advance := by
      rw [← advance_me, State.me, hslot, writeReg_frame]; rfl
    obtain ⟨hval, hfull⟩ := writeReg_self s.advance s.cur d w (writeReg_base _ _ _ _ _)
    dsimp only
    rw [complete_register w hd hs, hme]
    refine ⟨hval, hfull, fun e he => ?_, ?_, fun u hu => ?_, rfl, fun hl => ?_⟩
    · exact writeReg_entry s.advance s.cur d w e (by rwa [advance_entryOf])
    · rw [writeReg_frame]; rfl
    · rw [hslot, advance_slot_ne s hu]
    · rw [Slot.advance_straight s.me hl]
  case queue =>
    rw [complete_queue w hd hs, pushPipe_pipe, advance_pipe]

end Sys2Proof.Machine

/-! ## Frame of the instructions that compute a register (O13) -/

namespace Sys2Proof.Machine

open State Sys2Proof.Claims

/-! ### The special registers of a slot -/

/-- A slot without what an instruction that computes a register, or its trap or park, may write. -/
def Slot.lasting (sl : Slot) : Slot :=
  { sl with
    phase := .free, park := .none, pc := 0, loops := [], released := false, trapPc := 0, trapCause := 0, trapInfo := 0
    intrap := false, barwToken := none, wait := none, status := 0, yield := none }

theorem sameSpecials_iff (s t : State) : SameSpecials s t ↔ t.me.lasting = s.me.lasting := by
  constructor
  · intro h
    rw [h]; rfl
  · intro h
    have hl : t.me = { t.me.lasting with
        phase := t.me.phase, park := t.me.park, pc := t.me.pc, loops := t.me.loops, released := t.me.released, trapPc := t.me.trapPc
        trapCause := t.me.trapCause, trapInfo := t.me.trapInfo, intrap := t.me.intrap, barwToken := t.me.barwToken, wait := t.me.wait
        status := t.me.status, yield := t.me.yield } := rfl
    rw [h] at hl
    exact hl

theorem ignoresPark_lasting : IgnoresPark Slot.lasting := fun _ _ _ => rfl

theorem Slot.advance_lasting (sl : Slot) : sl.advance.lasting = sl.lasting := rfl

theorem State.takeTrap_me_lasting (s : State) (c : Nat) (v : Word) : (s.takeTrap s.cur c v).me.lasting = s.me.lasting := by
  rw [State.me, takeTrap_cur]
  unfold State.takeTrap; dsimp only
  split
  · rw [State.terminate, slot_modSlot_self]; rfl
  · rw [slot_setSlot_self]; rfl

theorem State.complete_me_lasting (s : State) (srcs : List Nat) (d : Nat) (w : Word) : (s.complete srcs d w).me.lasting = s.me.lasting := by
  rw [State.complete, writeDest_me_keeps ignoresPark_lasting, advance_me, consume_me, Slot.advance_lasting]

/-! ### What a result writes -/

/-- A result changes the register file, the slots and the queues and mailbox of its core alone. -/
theorem State.writeDest_frame (s : State) (d : Nat) (w : Word) : s.writeDest d w =
    { s with regs := (s.writeDest d w).regs, regFull := (s.writeDest d w).regFull, slots := (s.writeDest d w).slots, cores := (s.writeDest d w).cores } := by
  unfold State.writeDest
  split
  · rfl
  · split
    · split <;> rfl
    · rw [writeReg_frame]

theorem State.complete_frame (s : State) (srcs : List Nat) (d : Nat) (w : Word) : s.complete srcs d w =
    { s with regs := (s.complete srcs d w).regs, regFull := (s.complete srcs d w).regFull, slots := (s.complete srcs d w).slots,
             cores := (s.complete srcs d w).cores } := by
  rw [State.complete, writeDest_frame, consume_frame]; rfl

/-- A result keeps every entry of the register file but the destination's. -/
theorem State.writeDest_entry (s : State) (d : Nat) (w : Word) {e : Nat} (h : e ≠ s.entryOf s.cur d) :
    Store.get 0 (s.writeDest d w).regs e = Store.get 0 s.regs e ∧ Store.get true (s.writeDest d w).regFull e = Store.get true s.regFull e := by
  unfold State.writeDest
  split
  · exact ⟨rfl, rfl⟩
  · split
    · split <;> exact ⟨rfl, rfl⟩
    · exact writeReg_entry s s.cur d w e (.inl h)

theorem State.complete_entry (s : State) (srcs : List Nat) (d : Nat) (w : Word) {e : Nat} (h : e ≠ s.entryOf s.cur d) :
    Store.get 0 (s.complete srcs d w).regs e = Store.get 0 s.regs e ∧
    Store.get true (s.complete srcs d w).regFull e = Store.get true s.regFull e := by
  have hentry : (s.consume srcs).advance.entryOf s.cur d = s.entryOf s.cur d := by
    have h := advance_entryOf (s.consume srcs) d
    rw [consume_cur] at h
    rw [h, State.entryOf, consume_slot]; rfl
  have hw := writeDest_entry (s.consume srcs).advance d w (e := e) (by rw [show (s.consume srcs).advance.cur = s.cur from consume_cur s srcs, hentry]; exact h)
  rwa [advance_regs, advance_regFull, consume_regs, consume_regFull] at hw

/-- A slot other than the issuing one after a push to its outbound queues: as it was, or woken where it waited for that queue. -/
def KeptOrWoken (s t : State) (d n : Nat) : Prop :=
  t.slot n = s.slot n ∨
    (n / 64 = s.here ∧ (s.slot n).phase = .parked ∧ (∃ q, s.me.queueOf d = some q ∧ (s.slot n).park = .queue (s.me.outQueue q)) ∧
      t.slot n = { s.slot n with phase := .ready, park := .none })

theorem State.writeReg_slot_ne (s : State) {t u : Nat} (v : Nat) (w : Word) (h : u ≠ t) : (s.writeReg t v w).slot u = s.slot u := by
  rw [State.writeReg, wakeSlot_slot_ne _ _ h, setRegFull_frame, setRegValue_frame]; rfl

theorem State.writeDest_others (s : State) (d : Nat) (w : Word) {n : Nat} (h : n ≠ s.cur) : KeptOrWoken s (s.writeDest d w) d n := by
  unfold State.writeDest
  split
  next q hq =>
    have hslot := wakeCore_slot (s.modPipe s.here (s.me.outQueue q) fun p => { p with entries := p.entries ++ [w] }) s.here n
      (· == Park.queue (s.me.outQueue q))
    split at hslot
    next hw =>
      obtain ⟨hcore, hphase, hpark⟩ := hw
      exact .inr ⟨hcore, hphase, ⟨q, hq, beq_iff_eq.mp hpark⟩, hslot⟩
    next => exact .inl hslot
  next =>
    split
    · split
      · exact .inl (slot_modMe_ne _ _ h)
      · exact .inl rfl
    · exact .inl (writeReg_slot_ne s d w h)

theorem State.complete_others (s : State) (srcs : List Nat) (d : Nat) (w : Word) {n : Nat} (h : n ≠ s.cur) :
    KeptOrWoken s (s.complete srcs d w) d n := by
  have hslot : (s.consume srcs).advance.slot n = s.slot n := by
    rw [advance_slot_ne _ (by rwa [consume_cur]), consume_slot]
  have hw : KeptOrWoken (s.consume srcs).advance (s.complete srcs d w) d n :=
    writeDest_others (s.consume srcs).advance d w (by rwa [advance_cur, consume_cur])
  simpa only [KeptOrWoken, hslot, advance_here, consume_here, advance_me, consume_me, Slot.advance_queueOf, Slot.advance_outQueue] using hw

/-! ### The frame -/

/-- What an instruction that computes a register of code d leaves as it is (R57, R73, R74). -/
def RegisterFrame (d : Nat) (s t : State) : Prop :=
  SameMemory s t ∧ SameSpecials s t ∧
  (∀ e, e ≠ s.entryOf s.cur d → Store.get 0 t.regs e = Store.get 0 s.regs e ∧ Store.get true t.regFull e = Store.get true s.regFull e) ∧
  ∀ n, n ≠ s.cur → KeptOrWoken s t d n

/-- A change of the issuing slot alone that leaves its special registers is within the frame. -/
theorem RegisterFrame.of_me {s t : State} (d : Nat) (hf : t = { s with slots := t.slots }) (hme : t.me.lasting = s.me.lasting)
    (hn : ∀ n, n ≠ s.cur → t.slot n = s.slot n) : RegisterFrame d s t := by
  refine ⟨?_, (sameSpecials_iff s t).mpr hme, fun e _ => ?_, fun n h => .inl (hn n h)⟩
  · rw [hf]; exact ⟨fun _ => rfl, rfl, rfl, rfl, rfl⟩
  · rw [hf]; exact ⟨rfl, rfl⟩

theorem registerFrame_complete (s : State) (srcs : List Nat) (d : Nat) (w : Word) : RegisterFrame d s (s.complete srcs d w) := by
  refine ⟨?_, (sameSpecials_iff _ _).mpr (complete_me_lasting s srcs d w), fun e h => complete_entry s srcs d w h, fun n h => complete_others s srcs d w h⟩
  rw [complete_frame]; exact ⟨fun _ => rfl, rfl, rfl, rfl, rfl⟩

theorem registerFrame_takeTrap (s : State) (d c : Nat) (v : Word) : RegisterFrame d s (s.takeTrap s.cur c v) :=
  .of_me d (takeTrap_frame s s.cur c v) (takeTrap_me_lasting s c v) fun _ h => takeTrap_slot_ne s c v h

/-- A stop of an instruction that computes a register: a trap, a park or a forfeit. -/
def RegisterStop : Stop → Prop
  | .trap _ _ | .park _ _ | .forfeit => True
  | .page _ _ _ _ _ | .denied _ _ _ => False

theorem registerFrame_stop (s : State) (d : Nat) : ∀ e, RegisterStop e → RegisterFrame d s (s.stop e)
  | .trap c v, _ => registerFrame_takeTrap s d c v
  | .forfeit, _ => .of_me d rfl rfl fun _ _ => rfl
  | .park p v, _ => by
    cases hc : s.me.codelet
    · rw [stop_park s p v hc, State.parkMe]
      refine .of_me d rfl ?_ fun n h => (slot_modMe_ne (s.modMe _) _ h).trans (slot_modMe_ne s _ h)
      rw [me_modMe, me_modMe]; rfl
    · rw [stop_park_codelet s p v hc]
      exact registerFrame_takeTrap s d 0x0C v

/-! ### The bodies of the instructions -/

/-- Every stop that r may be is a trap, a park or a forfeit. -/
def RegisterStops {α : Type} (r : Except Stop α) : Prop := ∀ e, r = .error e → RegisterStop e

theorem registerStops_ok {α : Type} (x : α) : RegisterStops (.ok x : Except Stop α) := fun _ h => nomatch h

theorem registerStops_error {α : Type} {e : Stop} (h : RegisterStop e) : RegisterStops (.error e : Except Stop α) :=
  fun _ he => Except.error.inj he ▸ h

theorem registerStops_ite {α : Type} {p : Prop} [Decidable p] {x y : Except Stop α} (hx : RegisterStops x) (hy : RegisterStops y) :
    RegisterStops (if p then x else y) := by
  split
  · exact hx
  · exact hy

theorem State.checkCode_registerStops (s : State) (v : Nat) : RegisterStops (s.checkCode v) :=
  registerStops_ite (registerStops_ok _) (registerStops_ite (registerStops_error trivial) (registerStops_error trivial))

theorem State.checkCodes_registerStops (s : State) : ∀ l, RegisterStops (s.checkCodes l)
  | [] => registerStops_ok _
  | v :: r => by
    rw [State.checkCodes]
    split
    next => exact checkCodes_registerStops s r
    next e he => exact registerStops_error (checkCode_registerStops s v e he)

theorem State.checkQueues_registerStops (s : State) (word : Word) (srcs dsts : List Nat) : RegisterStops (s.checkQueues word srcs dsts) :=
  registerStops_ite (registerStops_error trivial) (registerStops_ok _)

theorem State.readSource_registerStops (s : State) (all before : List Nat) (v : Nat) : RegisterStops (s.readSource all before v) := by
  unfold State.readSource
  split
  next => exact registerStops_ite (registerStops_error trivial) (registerStops_ok _)
  next =>
    split
    next =>
      split
      next => exact registerStops_ok _
      next => exact registerStops_error trivial
    next => exact registerStops_ite (registerStops_ok _) (registerStops_error trivial)

theorem State.readSources_registerStops (s : State) (all : List Nat) : ∀ before l, RegisterStops (s.readSources all before l)
  | _, [] => registerStops_ok _
  | before, v :: r => by
    rw [State.readSources]
    split
    next e he => exact registerStops_error (readSource_registerStops s all before v e he)
    next =>
      split
      next e he => exact registerStops_error (readSources_registerStops s all _ r e he)
      next => exact registerStops_ok _

theorem State.operands_registerStops (s : State) (word : Word) (srcs dsts : List Nat) : RegisterStops (s.operands word srcs dsts) := by
  unfold State.operands
  split
  next e he => exact registerStops_error (checkCodes_registerStops s _ e he)
  next =>
    split
    next e he => exact registerStops_error (checkQueues_registerStops s word srcs dsts e he)
    next => exact readSources_registerStops s srcs [] srcs

theorem State.destReady_registerStops (s : State) (d : Nat) : RegisterStops (s.destReady d) := by
  unfold State.destReady
  split
  next => exact registerStops_ite (registerStops_ok _) (registerStops_error trivial)
  next => exact registerStops_ite (registerStops_ok _) (registerStops_ite (registerStops_error trivial) (registerStops_ok _))

/-- A body that completes with a result for code d, or stops by a trap, a park or a forfeit. -/
def ComputesRegister (s : State) (d : Nat) (r : Except Stop State) : Prop :=
  (∃ srcs w, r = .ok (s.complete srcs d w)) ∨ ∃ e, r = .error e ∧ RegisterStop e

theorem ComputesRegister.frame {s t : State} {d : Nat} {r : Except Stop State} (h : ComputesRegister s d r) (ht : s.finish r = .next t) :
    RegisterFrame d s t := by
  rcases h with ⟨srcs, w, rfl⟩ | ⟨e, rfl, he⟩
  · obtain rfl := Host.Outcome.next.inj ht
    exact registerFrame_complete s srcs d w
  · obtain rfl := Host.Outcome.next.inj ht
    exact registerFrame_stop s d e he

theorem State.compute_computesRegister (s : State) (word : Word) (srcs : List Nat) (d : Nat) (f : List Word → Word) :
    ComputesRegister s d (s.compute word srcs d f) := by
  unfold State.compute
  split
  next e he => exact .inr ⟨e, rfl, operands_registerStops s word srcs [d] e he⟩
  next =>
    split
    next e he => exact .inr ⟨e, rfl, destReady_registerStops s d e he⟩
    next => exact .inl ⟨srcs, _, rfl⟩

theorem unaryTrap_computesRegister (s : State) (word : Word) (d a : RegCode) {f : Word → Except Stop Word} (hf : ∀ x, RegisterStops (f x)) :
    ComputesRegister s d.toNat (unaryTrap word d a f s) := by
  unfold unaryTrap
  split
  next e he => exact .inr ⟨e, rfl, operands_registerStops s word _ _ e he⟩
  next =>
    split
    next e he => exact .inr ⟨e, rfl, hf _ e he⟩
    next =>
      split
      next e he => exact .inr ⟨e, rfl, destReady_registerStops s _ e he⟩
      next => exact .inl ⟨_, _, rfl⟩

theorem Coord.cabs_registerStops (c : Nat) (x : Word) : RegisterStops (Coord.cabs c x) := by
  unfold Coord.cabs
  split
  next =>
    split
    next => exact registerStops_ok _
    next => exact registerStops_error trivial
  next => exact registerStops_ok _

theorem Coord.place_registerStops (c : Nat) (x : Word) : RegisterStops (Coord.place c x) := by
  unfold Coord.place
  split
  next =>
    split
    next => exact registerStops_ok _
    next => exact registerStops_error trivial
  next => exact registerStops_ite (registerStops_ok _) (registerStops_ok _)

theorem RegisterStops.map {α β : Type} {r : Except Stop α} (h : RegisterStops r) (f : α → β) : RegisterStops (r.map f) := by
  cases r with
  | ok x => exact registerStops_ok _
  | error e => exact registerStops_error (h e rfl)

/-- Every register form completes with a result for its destination, or stops by a trap, a park or a forfeit (R79 to R86). -/
theorem registerForms_compute (d a b : RegCode) (v : BitVec 12) (sh : BitVec 6) (u : BitVec 19) (s : State) :
    ∀ i ∈ registerForms d a b v sh u, ∃ r, exec i s = s.finish r ∧ ComputesRegister s d.toNat r := by
  simp only [registerForms, List.forall_mem_cons, List.not_mem_nil, false_implies, implies_true, and_true]
  and_intros
  any_goals exact ⟨_, rfl, s.compute_computesRegister _ _ _ _⟩
  · exact ⟨_, rfl, unaryTrap_computesRegister s _ d a (Coord.cabs_registerStops s.here)⟩
  · exact ⟨_, rfl, unaryTrap_computesRegister s _ d a fun x => (Coord.place_registerStops s.here x).map _⟩
  · exact ⟨_, rfl, unaryTrap_computesRegister s _ d a fun x => (Coord.place_registerStops s.here x).map _⟩

/-- Settles O13: a register form completes or stops, and either way stays within the frame. -/
theorem registerFormsFrame : Obligations.RegisterFormsFrame := by
  unfold Obligations.RegisterFormsFrame
  intro d a b v sh u i hi s t ht
  obtain ⟨r, hexec, hr⟩ := registerForms_compute d a b v sh u s i hi
  rw [hexec] at ht
  exact hr.frame ht

end Sys2Proof.Machine

/-! ## The decoder and the encoder (O4, O5) -/

namespace Sys2Proof.Decode

/-! ### A field placed in a word, read back -/

theorem place_div_above {w h lo p : Nat} (x : BitVec w) (hp : p + w ≤ lo) (hz : h / 2 ^ p % 2 ^ w = 0) : place h x p / 2 ^ lo = h / 2 ^ lo := by
  have hsplit : 2 ^ lo = 2 ^ p * 2 ^ w * 2 ^ (lo - (p + w)) := by rw [← Nat.pow_add, ← Nat.pow_add]; congr 1; omega
  have hdiv : (h / 2 ^ p + x.toNat) / 2 ^ w = h / 2 ^ p / 2 ^ w := by
    obtain ⟨k, hk⟩ := Nat.dvd_of_mod_eq_zero hz
    rw [hk, Nat.mul_add_div (Nat.two_pow_pos w), Nat.div_eq_of_lt x.isLt, Nat.add_zero, Nat.mul_div_cancel_left _ (Nat.two_pow_pos w)]
  rw [place, hsplit, ← Nat.div_div_eq_div_mul, ← Nat.div_div_eq_div_mul, Nat.add_mul_div_right _ _ (Nat.two_pow_pos p), hdiv, Nat.div_div_eq_div_mul,
    Nat.div_div_eq_div_mul, Nat.mul_assoc]

theorem place_field_below {w h p lo u : Nat} (x : BitVec w) (hp : lo + u ≤ p) : place h x p / 2 ^ lo % 2 ^ u = h / 2 ^ lo % 2 ^ u := by
  have hsplit : 2 ^ p = 2 ^ (p - (lo + u)) * 2 ^ u * 2 ^ lo := by rw [← Nat.pow_add, ← Nat.pow_add]; congr 1; omega
  rw [place, hsplit, ← Nat.mul_assoc, ← Nat.mul_assoc, Nat.add_mul_div_right _ _ (Nat.two_pow_pos lo), Nat.add_mul_mod_self_right]

theorem place_field_self {w h p : Nat} (x : BitVec w) (hz : h / 2 ^ p % 2 ^ w = 0) : place h x p / 2 ^ p % 2 ^ w = x.toNat := by
  rw [place, Nat.add_mul_div_right _ _ (Nat.two_pow_pos p), Nat.add_mod, hz, Nat.zero_add, Nat.mod_mod, Nat.mod_eq_of_lt x.isLt]

theorem fieldAt_toNat (n lo w : Nat) : (fieldAt n lo w).toNat = n / 2 ^ lo % 2 ^ w := BitVec.toNat_ofNat _ _

theorem fieldAt_congr {n m lo w : Nat} (h : n / 2 ^ lo % 2 ^ w = m / 2 ^ lo % 2 ^ w) : fieldAt n lo w = fieldAt m lo w :=
  BitVec.eq_of_toNat_eq (by rw [fieldAt_toNat, fieldAt_toNat, h])

/-- What reads of a word see of a field placed in it where the word holds zeros: reads above and below see the word as it was, and a read of
the field itself sees the field. -/
theorem readPlaced {w : Nat} (x : BitVec w) (h p : Nat) :
    (∀ lo, p + w ≤ lo → h / 2 ^ p % 2 ^ w = 0 → place h x p / 2 ^ lo = h / 2 ^ lo) ∧
    (∀ lo u, p + w ≤ lo → h / 2 ^ p % 2 ^ w = 0 → place h x p / 2 ^ lo % 2 ^ u = h / 2 ^ lo % 2 ^ u) ∧
    (∀ lo u, lo + u ≤ p → place h x p / 2 ^ lo % 2 ^ u = h / 2 ^ lo % 2 ^ u) ∧
    (h / 2 ^ p % 2 ^ w = 0 → place h x p / 2 ^ p % 2 ^ w = x.toNat) ∧
    (∀ lo u, p + w ≤ lo → h / 2 ^ p % 2 ^ w = 0 → fieldAt (place h x p) lo u = fieldAt h lo u) ∧
    (∀ lo u, lo + u ≤ p → fieldAt (place h x p) lo u = fieldAt h lo u) ∧
    (h / 2 ^ p % 2 ^ w = 0 → fieldAt (place h x p) p w = x) :=
  ⟨fun _ => place_div_above x, fun _ _ hp hz => by rw [place_div_above x hp hz], fun _ _ => place_field_below x, place_field_self x,
    fun _ _ hp hz => fieldAt_congr (by rw [place_div_above x hp hz]), fun _ _ hp => fieldAt_congr (place_field_below x hp),
    fun hz => BitVec.eq_of_toNat_eq (by rw [fieldAt_toNat, place_field_self x hz])⟩

/-! ### The words of the instructions, by format (R53, R60, R61, R64) -/

/-- MINT.LD names a source (R172). -/
theorem mintLd_source {d a b : RegCode} (h : WellFormed.check (.mintLd d a b) = none) : a ≠ 0 := fun h0 => by
  simp only [WellFormed.check, h0, if_true, reduceCtorEq] at h

/-- The words of majors below 0x20, the scalar instructions. The events have no word, and the other instructions another major. -/
theorem fields_scalar {i : Instr} {n : Nat} (h : encodeNat i = some n) (hm : n / 2 ^ 26 < 0x20) : fields n = .ok i := by
  cases i with
  | add d a b | sub d a b | and d a b | or d a b | xor d a b | andn d a b | sll d a b | srl d a b | sra d a b | rol d a b | slt d a b | sltz d a b
  | seq d a b | min d a b | max d a b | minz d a b | maxz d a b | mul d a b | mulh d a b | mulhz d a b | div d a b | divz d a b | rem d a b
  | remz d a b | sext d a b | zext d a b | clz d a | ctz d a | popc d a | brev d a =>
    obtain rfl := Option.some.inj h
    simp only [fields, major01, ↓readPlaced, Nat.reduceLeDiff, Nat.reduceAdd, Nat.reducePow, Nat.reduceDiv, Nat.reduceMod, if_true]
  | cabs d a | crel d a | cpack d a | cx d a | cy d a | addi d a imm | andi d a imm | ori d a imm | xori d a imm | slti d a imm | sltzi d a imm
  | slli d a sh | srli d a sh | srai d a sh | roli d a sh | jmpr d a imm =>
    obtain rfl := Option.some.inj h
    simp only [fields, major02, major03, major04, major05, major06, major07, major08, major0B, major12, ↓readPlaced, Nat.reduceLeDiff, Nat.reduceAdd,
      Nat.reducePow, Nat.reduceDiv, Nat.reduceMod, if_true]
  | lui d imm | addpc d imm | jmp d imm =>
    obtain rfl := Option.some.inj h
    simp only [fields, major09, major0A, major11, ↓readPlaced, Nat.reduceLeDiff, Nat.reduceAdd, Nat.reducePow, Nat.reduceDiv, Nat.reduceMod]
  | bz a off | bnz a off | bltz a off | bgez a off | bgtz a off | blez a off | bfull a off | bempty a off =>
    obtain rfl := Option.some.inj h
    simp only [fields, major10, ↓readPlaced, Nat.reduceLeDiff, Nat.reduceAdd, Nat.reducePow, Nat.reduceDiv, Nat.reduceMod]
  | ld d a size off | ldz d a size off | st d a size off =>
    obtain rfl := Option.some.inj h
    simp only [fields, major18, major19, major1A, ↓readPlaced, Nat.reduceLeDiff, Nat.reduceAdd, Nat.reducePow, Nat.reduceDiv, Nat.reduceMod]
  | callat t a n | retat v | loop c len =>
    obtain rfl := Option.some.inj h
    simp only [fields, major13, major14, major15, ↓readPlaced, Nat.reduceLeDiff, Nat.reduceAdd, Nat.reducePow, Nat.reduceDiv, Nat.reduceMod, if_true]
  | _ =>
    cases h <;> simp only [↓readPlaced, Nat.reduceLeDiff, Nat.reduceAdd, Nat.reducePow, Nat.reduceDiv, Nat.reduceMod, Nat.reduceLT] at hm

/-- The words of majors 0x20 to 0x2F: accesses, waits, names, queues, tasks, barriers and kernels. -/
theorem fields_memory {i : Instr} {n : Nat} (h : encodeNat i = some n) (hm : 0x20 ≤ n / 2 ^ 26 ∧ n / 2 ^ 26 < 0x30)
    (hw : WellFormed.check i = none) : fields n = .ok i := by
  cases i with
  | rqfill v a t | cinit d a b | barm d a b | barv d a b | bwait d a b | barw d a b | berr d a b | gsplit d a b | revoke d a | qbind q a | ticket d a
  | rqpop d a | rqpeek d a | bstat d a | launch d a | done d a | grank d a | nstat d | qunbind q | mint d b | deliv a b | decr a b | nextc | trigger =>
    obtain rfl := Option.some.inj h
    simp only [fields, major23, major24, major25, major26, major27, ↓readPlaced, Nat.reduceLeDiff, Nat.reduceAdd, Nat.reducePow, Nat.reduceDiv,
      Nat.reduceMod, if_true]
  | lds d a ord sc | ldf d a ord sc | sts d a ord sc | stf d a ord sc | atomFadd d a ord sc | atomFmin d a ord sc | atomFmax d a ord sc
  | atomSwap d a ord sc | atomCas d a ord sc | atomAnd d a ord sc | atomOr d a ord sc | atomXor d a ord sc | atomFaddf d a ord sc | empty a ord sc =>
    obtain rfl := Option.some.inj h
    simp only [fields, major20, major21, ↓readPlaced, Nat.reduceLeDiff, Nat.reduceAdd, Nat.reducePow, Nat.reduceDiv, Nat.reduceMod, if_true]
  | fence d kind sc | waitc tl cp st ld | waitk mask =>
    obtain rfl := Option.some.inj h
    simp only [fields, major22, ↓readPlaced, Nat.reduceLeDiff, Nat.reduceAdd, Nat.reducePow, Nat.reduceDiv, Nat.reduceMod, if_true, and_self]
  | mintLd d a b =>
    obtain rfl := Option.some.inj h
    have ha : a.toNat ≠ 0 := fun h0 => mintLd_source hw (BitVec.eq_of_toNat_eq h0)
    simp only [fields, major23, ↓readPlaced, Nat.reduceLeDiff, Nat.reduceAdd, Nat.reducePow, Nat.reduceDiv, Nat.reduceMod, ha, if_false]
  | _ =>
    cases h <;> simp only [↓readPlaced, Nat.reduceLeDiff, Nat.reduceAdd, Nat.reducePow, Nat.reduceDiv, Nat.reduceMod, Nat.reduceLT, and_true,
      and_false] at hm

/-- The words of majors 0x30 to 0x37, of the vector engine. -/
theorem fields_vector {i : Instr} {n : Nat} (h : encodeNat i = some n) (hm : 0x30 ≤ n / 2 ^ 26 ∧ n / 2 ^ 26 < 0x38) : fields n = .ok i := by
  cases i with
  | vadd d a b ty n | vsub d a b ty n | vmul d a b ty n | vfma d a b ty n | vfms d a b ty n | vdiv d a b ty n | vmin d a b ty n | vmax d a b ty n
  | vaxpy d a b ty n | viadd d a b ty n | visub d a b ty n | vimul d a b ty n | vand d a b ty n | vor d a b ty n | vxor d a b ty n | vshl d a b ty n
  | vshr d a b ty n | vshra d a b ty n | vimin d a b ty n | vimax d a b ty n | vlut d a b ty n | vdot d a b ty n | vcmp d a b ty n | vsel d a b ty n
  | vsqrt d a ty n | vrsqrt d a ty n | vabs d a ty n | vneg d a ty n | vexp2 d a ty n | vlog2 d a ty n | vrcp d a ty n | vscale d a ty n
  | vcvt d a ty n | vfill d a ty n | vcopy d a ty n | vrsum d a ty n | vrmax d a ty n | vrmin d a ty n | viota d ty n =>
    obtain rfl := Option.some.inj h
    simp only [fields, major30, major31, major32, major33, ↓readPlaced, Nat.reduceLeDiff, Nat.reduceAdd, Nat.reducePow, Nat.reduceDiv, Nat.reduceMod,
      if_true]
  | pset p g | pget p g | padv p g =>
    obtain rfl := Option.some.inj h
    simp only [fields, major34, ↓readPlaced, Nat.reduceLeDiff, Nat.reduceAdd, Nat.reducePow, Nat.reduceDiv, Nat.reduceMod, if_true]
  | _ =>
    cases h <;> simp only [↓readPlaced, Nat.reduceLeDiff, Nat.reduceAdd, Nat.reducePow, Nat.reduceDiv, Nat.reduceMod, Nat.reduceLT, and_true,
      and_false] at hm

/-- The words of majors from 0x38 on: tiles, copies, regions, the sequencer and the system. -/
theorem fields_system {i : Instr} {n : Nat} (h : encodeNat i = some n) (hm : 0x38 ≤ n / 2 ^ 26) : fields n = .ok i := by
  cases i with
  | rins d a b | rld d a b | rst d a b | rpos d a b | sqload d a b | sqstage d a b | sqdec d a b | rdom d a | rdel d a | sqtab d a | sqcfg d a
  | sqend d a | sqact d a | sqhist d a | rqbox a b | rqrad a b | rscan a b =>
    obtain rfl := Option.some.inj h
    simp only [fields, major3C, major3D, ↓readPlaced, Nat.reduceLeDiff, Nat.reduceAdd, Nat.reducePow, Nat.reduceDiv, Nat.reduceMod, if_true]
  | tcmd k a w b | copy k a w b | copyr k a w b | copym k a w b =>
    obtain rfl := Option.some.inj h
    simp only [fields, major38, major39, ↓readPlaced, Nat.reduceLeDiff, Nat.reduceAdd, Nat.reducePow, Nat.reduceDiv, Nat.reduceMod, if_true]
  | srd d num | swr d num | pinval d size | cellres d n | cellrel d n | linkw d w | spawn d | spill d | resume d | pheat d | pmove d | pmap d
  | trap code | rte | halt | yield | home =>
    obtain rfl := Option.some.inj h
    simp only [fields, major3E, ↓readPlaced, Nat.reduceLeDiff, Nat.reduceAdd, Nat.reducePow, Nat.reduceDiv, Nat.reduceMod, if_true, and_self]
  | _ =>
    cases h <;> simp only [↓readPlaced, Nat.reduceLeDiff, Nat.reduceAdd, Nat.reducePow, Nat.reduceDiv, Nat.reduceMod] at hm

/-- The fields of a well-formed instruction's word are that instruction. -/
theorem fields_of_encodeNat {i : Instr} {n : Nat} (h : encodeNat i = some n) (hw : WellFormed.check i = none) : fields n = .ok i := by
  rcases Nat.lt_or_ge (n / 2 ^ 26) 0x20 with h20 | h20
  · exact fields_scalar h h20
  rcases Nat.lt_or_ge (n / 2 ^ 26) 0x30 with h30 | h30
  · exact fields_memory h ⟨h20, h30⟩ hw
  rcases Nat.lt_or_ge (n / 2 ^ 26) 0x38 with h38 | h38
  · exact fields_vector h ⟨h30, h38⟩
  · exact fields_system h h38

/-! ### A word as the sum of its fields -/

/-- The bits of n below bit k. -/
def low (n k : Nat) : Nat := n % 2 ^ k

theorem low_zero (n : Nat) : low n 0 = 0 := Nat.mod_one n

theorem low_add (n p w : Nat) : low n (p + w) = n / 2 ^ p % 2 ^ w * 2 ^ p + low n p := by
  rw [low, low, Nat.pow_add, Nat.mod_mul, Nat.mul_comm, Nat.add_comm]

theorem field_eq_iff (n p w c : Nat) : n / 2 ^ p % 2 ^ w = c ↔ low n (p + w) = c * 2 ^ p + low n p := by
  rw [low_add, Nat.add_right_cancel_iff, Nat.mul_right_cancel_iff (Nat.two_pow_pos p)]

theorem major_eq_iff (n c : Nat) : n / 2 ^ 26 = c ↔ n = c * 2 ^ 26 + low n 26 := by
  unfold low; omega

theorem place_fieldAt_eq_iff (h n p w m : Nat) : place h (fieldAt n p w) p = m ↔ h + low n (p + w) = m + low n p := by
  rw [place, fieldAt_toNat, low_add, ← Nat.add_assoc, Nat.add_right_cancel_iff]

theorem place_fieldAt_add_eq_iff (h n p w a m : Nat) : place h (fieldAt n p w) p + a = m ↔ h + (low n (p + w) + a) = m + low n p := by
  rw [place, fieldAt_toNat, low_add, ← Nat.add_right_cancel_iff (n := low n p)]
  omega

/-- A word whose fields are an instruction is that instruction's: the bits below each field's two ends telescope to the whole word (R62). -/
theorem encodeNat_of_fields {i : Instr} {n : Nat} (h : fields n = .ok i) : encodeNat i = some n := by
  unfold fields at h
  split at h
  on_goal -1 => cases h
  all_goals
    simp only [major01, major02, major03, major04, major05, major06, major07, major08, major09, major0A, major0B, major10, major11, major12, major13,
      major14, major15, major18, major19, major1A, major20, major21, major22, major23, major24, major25, major26, major27, major30, major31, major32,
      major33, major34, major38, major39, major3C, major3D, major3E] at h
    repeat' split at h
  all_goals cases h <;> refine congrArg some ?_
  all_goals simp only [field_eq_iff, major_eq_iff, low_zero, place_fieldAt_eq_iff, place_fieldAt_add_eq_iff, Nat.reduceAdd, imp_false] at *
  any_goals omega
  · have hcode : low n 12 = n / 2 ^ 10 % 2 ^ 2 * 2 ^ 10 + low n 10 := low_add n 10 2
    omega
  · have hcond : low n 26 = n / 2 ^ 23 % 2 ^ 3 * 2 ^ 23 + low n 23 := low_add n 23 3
    omega

/-- The majors end at 0x3F, so a word with fields has 32 bits (R60). -/
theorem lt_of_fields {i : Instr} {n : Nat} (h : fields n = .ok i) : n < 2 ^ 32 := by
  unfold fields at h
  split at h
  on_goal -1 => cases h
  all_goals omega

end Sys2Proof.Decode

namespace Sys2Proof

open Decode

/-! ### Words and their bytes -/

theorem word_iff {n : Nat} {i : Instr} : word n = .ok i ↔ fields n = .ok i ∧ WellFormed.check i = none := by
  unfold word
  split
  next e he => simp only [he, reduceCtorEq, false_and]
  next j hj =>
    rw [hj]
    split
    next r hr =>
      refine ⟨nofun, fun ⟨hij, hi⟩ => ?_⟩
      cases hij
      rw [hr] at hi
      cases hi
    next hr => exact ⟨fun h => ⟨h, Except.ok.inj h ▸ hr⟩, And.left⟩

theorem wellFormed_iff (i : Instr) : i.wellFormed = true ↔ WellFormed.check i = none := Option.isNone_iff_eq_none

/-- The decoder reads the word that its four bytes hold (R3, R52). -/
theorem decode_wordBytes {n : Nat} (h : n < 2 ^ 32) (r : List Byte) : decode (wordBytes n ++ r) = (word n).map fun i => (i, r) := by
  have hsum : (BitVec.ofNat 8 n).toNat + 2 ^ 8 * (BitVec.ofNat 8 (n / 2 ^ 8)).toNat + 2 ^ 16 * (BitVec.ofNat 8 (n / 2 ^ 16)).toNat +
      2 ^ 24 * (BitVec.ofNat 8 (n / 2 ^ 24)).toNat = n := by
    simp only [BitVec.toNat_ofNat]
    omega
  rw [wordBytes, List.cons_append, List.cons_append, List.cons_append, List.cons_append, List.nil_append, decode, hsum]
  cases word n <;> rfl

/-- Settles O4: the fields placed in a word are read back. -/
theorem decodeOfEncodeIsIdentity : Obligations.DecodeOfEncodeIsIdentity := by
  unfold Obligations.DecodeOfEncodeIsIdentity
  intro i w r he hw
  obtain ⟨n, hn, rfl⟩ := Option.map_eq_some_iff.mp he
  have hc := (wellFormed_iff i).mp hw
  have hf := fields_of_encodeNat hn hc
  have hlt := lt_of_fields hf
  rw [BitVec.toNat_ofNat, Nat.mod_eq_of_lt hlt, decode_wordBytes hlt, word_iff.mpr ⟨hf, hc⟩]
  rfl

/-- Settles O5: a word is the sum of its fields, and the decoder checks the fields that it does not keep. -/
theorem decodedWordsEncodeBack : Obligations.DecodedWordsEncodeBack := by
  unfold Obligations.DecodedWordsEncodeBack
  intro w i r hd
  rw [← List.append_nil (wordBytes w.toNat), decode_wordBytes w.isLt] at hd
  cases hw : word w.toNat with
  | error e => rw [hw] at hd; cases hd
  | ok j =>
    rw [hw] at hd
    obtain ⟨hf, hc⟩ := word_iff.mp hw
    cases hd
    exact ⟨by rw [encode, encodeNat_of_fields hf, Option.map_some, BitVec.ofNat_toNat, BitVec.setWidth_eq], (wellFormed_iff i).mpr hc⟩

end Sys2Proof

/-! ## Fields written into a word, and pipeline queues (O35) -/

namespace Sys2Proof.Machine

open State Sys2Proof.Claims

/-! ### A field written into a word -/

/-- A word in three parts: below bit lo, the field of w bits there, and above. -/
theorem toNat_eq_parts (x : Word) (lo w : Nat) : x.toNat = x.toNat / 2 ^ (lo + w) * 2 ^ (lo + w) + fld x lo w * 2 ^ lo + x.toNat % 2 ^ lo := by
  have hw : x.toNat / 2 ^ lo = x.toNat / 2 ^ (lo + w) * 2 ^ w + fld x lo w := by
    rw [fld_eq_div_mod, Nat.pow_add, ← Nat.div_div_eq_div_mul, Nat.div_add_mod']
  calc x.toNat = x.toNat / 2 ^ lo * 2 ^ lo + x.toNat % 2 ^ lo := (Nat.div_add_mod' _ _).symm
    _ = _ := by rw [hw, Nat.add_mul, Nat.mul_assoc, ← Nat.pow_add, Nat.add_comm w lo]

/-- The number of a word with its field replaced. -/
theorem setFld_eq (x : Word) (lo w v : Nat) :
    setFld x lo w v = ofNat (x.toNat / 2 ^ (lo + w) * 2 ^ (lo + w) + v % 2 ^ w * 2 ^ lo + x.toNat % 2 ^ lo) := by
  have hx := toNat_eq_parts x lo w
  rw [setFld, Nat.shiftLeft_eq, Nat.shiftLeft_eq]
  congr 1
  omega

theorem fld_setFld (x : Word) {lo w : Nat} (v : Nat) (h : lo + w ≤ 64) : fld (setFld x lo w v) lo w = v % 2 ^ w := by
  have hlow : x.toNat % 2 ^ lo < 2 ^ lo := Nat.mod_lt _ (Nat.two_pow_pos lo)
  have hfield : v % 2 ^ w * 2 ^ lo + x.toNat % 2 ^ lo < 2 ^ (lo + w) := by
    have hv : v % 2 ^ w + 1 ≤ 2 ^ w := Nat.mod_lt _ (Nat.two_pow_pos w)
    calc v % 2 ^ w * 2 ^ lo + x.toNat % 2 ^ lo < (v % 2 ^ w + 1) * 2 ^ lo := by rw [Nat.add_mul, Nat.one_mul]; omega
      _ ≤ 2 ^ w * 2 ^ lo := Nat.mul_le_mul_right _ hv
      _ = 2 ^ (lo + w) := by rw [← Nat.pow_add, Nat.add_comm]
  have hhigh : (x.toNat / 2 ^ (lo + w) + 1) * 2 ^ (lo + w) ≤ 2 ^ 64 := by
    have hsplit : 2 ^ 64 = 2 ^ (64 - (lo + w)) * 2 ^ (lo + w) := by rw [← Nat.pow_add]; congr 1; omega
    have hx : x.toNat / 2 ^ (lo + w) < 2 ^ (64 - (lo + w)) := by
      rw [Nat.div_lt_iff_lt_mul (Nat.two_pow_pos _), ← hsplit]
      exact x.isLt
    rw [hsplit]
    exact Nat.mul_le_mul_right _ hx
  rw [setFld_eq, fld_ofNat]
  · have hshift : x.toNat / 2 ^ (lo + w) * 2 ^ (lo + w) = x.toNat / 2 ^ (lo + w) * 2 ^ w * 2 ^ lo := by
      rw [Nat.mul_assoc, ← Nat.pow_add, Nat.add_comm w lo]
    rw [hshift, ← Nat.add_mul, Nat.mul_comm _ (2 ^ lo), Nat.mul_add_div (Nat.two_pow_pos lo), Nat.div_eq_of_lt hlow, Nat.add_zero,
      Nat.mul_add_mod_self_right, Nat.mod_mod]
  · rw [Nat.add_mul, Nat.one_mul] at hhigh
    omega

/-- A field inside a field. -/
theorem fld_inside (x : Word) (lo : Nat) {w j k : Nat} (h : j + k ≤ w) : fld x (lo + j) k = fld x lo w / 2 ^ j % 2 ^ k := by
  have hw : 2 ^ w = 2 ^ j * 2 ^ k * 2 ^ (w - (j + k)) := by rw [← Nat.pow_add, ← Nat.pow_add]; congr 1; omega
  rw [fld_eq_div_mod, fld_eq_div_mod, Nat.pow_add, ← Nat.div_div_eq_div_mul, hw, Nat.mul_assoc, Nat.mod_mul_right_div_self,
    Nat.mod_mul_right_mod]

theorem fld_setFld_inside (x : Word) {lo w j k : Nat} (v : Nat) (h : lo + w ≤ 64) (hj : j + k ≤ w) :
    fld (setFld x lo w v) (lo + j) k = v % 2 ^ w / 2 ^ j % 2 ^ k := by
  rw [fld_inside _ lo hj, fld_setFld x v h]

/-! ### The binding word of a slot (R196) -/

/-- A slot with the binding of queue register qn replaced. -/
def Slot.withBinding (sl : Slot) (n v : Nat) : Slot := { sl with binds := setFld sl.binds (16 * n) 16 v }

theorem binding_inside (q : BitVec 2) : 16 * q.toNat + 16 ≤ 64 := by have := q.isLt; omega

section

variable (sl : Slot) (q : BitVec 2) (v : Nat)

theorem Slot.withBinding_isBound : (sl.withBinding q.toNat v).isBound q.toNat = decide (v % 2 ^ 16 / 2 ^ 15 % 2 = 1) := by
  rw [Slot.isBound, bitAt_eq_fld, Slot.withBinding, fld_setFld_inside sl.binds v (binding_inside q) (by decide : 15 + 1 ≤ 16), Nat.pow_one]

theorem Slot.withBinding_inQueue : (sl.withBinding q.toNat v).inQueue q.toNat = v % 2 ^ 16 % 2 ^ 3 := by
  have h := fld_setFld_inside sl.binds v (binding_inside q) (by decide : 0 + 3 ≤ 16)
  rwa [Nat.add_zero, Nat.pow_zero, Nat.div_one] at h

theorem Slot.withBinding_outQueue : (sl.withBinding q.toNat v).outQueue q.toNat = v % 2 ^ 16 / 2 ^ 8 % 2 ^ 3 :=
  fld_setFld_inside sl.binds v (binding_inside q) (by decide : 8 + 3 ≤ 16)

end

@[simp] theorem Slot.advance_isBound (sl : Slot) (n : Nat) : sl.advance.isBound n = sl.isBound n := rfl

/-! ### QBIND -/

/-- The operand names no pair of pipeline queues (R196). -/
abbrev QbindMalformed (g : Word) : Prop :=
  fld g 3 5 ≠ 0 ∨ fld g 11 53 ≠ 0 ∨ (4 ≤ fld g 0 3 ∧ fld g 0 3 ≤ 6) ∨ (4 ≤ fld g 8 3 ∧ fld g 8 3 ≤ 6) ∨ (fld g 0 3 = 7 ∧ fld g 8 3 = 7)

/-- A direction of a pipeline queue of the own core is held. -/
def State.pipeHeld (s : State) (n : Nat) (prod : Bool) : Bool :=
  decide (n < 4) && (if prod then (s.pipe s.here n).producer.isSome else (s.pipe s.here n).consumer.isSome)

/-- A pipeline queue of the own core belongs to another context. -/
def State.pipeForeign (s : State) (n : Nat) : Bool :=
  decide (n < 4) && ((s.pipe s.here n).producer.isSome || (s.pipe s.here n).consumer.isSome) && (s.pipe s.here n).ctx != s.me.ctx

/-- A direction of a pipeline queue of core c taken by the thread of a slot; nothing for no queue. -/
def State.bindPipe (s : State) (c : Nat) (sl : Slot) (n : Nat) (prod : Bool) : State :=
  if 4 ≤ n then s else s.modPipe c n fun p =>
    if prod then { p with producer := some sl.uid, ctx := sl.ctx } else { p with consumer := some sl.uid, ctx := sl.ctx }

/-- The state after a QBIND that binds. -/
def qbound (s : State) (q : BitVec 2) (a : RegCode) (g : Word) : State :=
  ((((s.consume [a.toNat]).bindPipe s.here s.me (fld g 0 3) false).bindPipe s.here s.me (fld g 8 3) true).modMe fun sl =>
    sl.withBinding q.toNat (fld g 0 3 + fld g 8 3 * 2 ^ 8 + 2 ^ 15)).advance

theorem exec_qbind {q : BitVec 2} {a : RegCode} {s : State} {g : Word} (h : s.operands (Instr.qbind q a).word [a.toNat] [] = .ok [g]) :
    exec (.qbind q a) s = s.finish (
      if QbindMalformed g then .error (.trap 0x01 g)
      else if s.me.isBound q.toNat || s.pipeHeld (fld g 0 3) false || s.pipeHeld (fld g 8 3) true then .error (.trap 0x01 g)
      else if s.pipeForeign (fld g 0 3) || s.pipeForeign (fld g 8 3) then .error (.trap 0x05 g)
      else if s.me.mig then .error (.trap 0x0F g)
      else .ok (qbound s q a g)) := by
  show s.finish (qbind (Instr.qbind q a).word q a s) = _
  simp only [qbind, h]
  rfl

section

variable {q : BitVec 2} {a : RegCode} {s : State} {g : Word} (h : s.operands (Instr.qbind q a).word [a.toNat] [] = .ok [g])
include h

theorem exec_qbind_malformed (hg : QbindMalformed g) : exec (.qbind q a) s = .next (s.takeTrap s.cur 0x01 g) := by
  rw [exec_qbind h, if_pos hg, finish_error, stop_trap]

theorem exec_qbind_held (hg : ¬ QbindMalformed g)
    (hh : (s.me.isBound q.toNat || s.pipeHeld (fld g 0 3) false || s.pipeHeld (fld g 8 3) true) = true) :
    exec (.qbind q a) s = .next (s.takeTrap s.cur 0x01 g) := by
  rw [exec_qbind h, if_neg hg, if_pos hh, finish_error, stop_trap]

theorem exec_qbind_foreign (hg : ¬ QbindMalformed g)
    (hh : (s.me.isBound q.toNat || s.pipeHeld (fld g 0 3) false || s.pipeHeld (fld g 8 3) true) = false)
    (hf : (s.pipeForeign (fld g 0 3) || s.pipeForeign (fld g 8 3)) = true) : exec (.qbind q a) s = .next (s.takeTrap s.cur 0x05 g) := by
  rw [exec_qbind h, if_neg hg, hh, if_neg Bool.false_ne_true, if_pos hf, finish_error, stop_trap]

theorem exec_qbind_migratable (hg : ¬ QbindMalformed g)
    (hh : (s.me.isBound q.toNat || s.pipeHeld (fld g 0 3) false || s.pipeHeld (fld g 8 3) true) = false)
    (hf : (s.pipeForeign (fld g 0 3) || s.pipeForeign (fld g 8 3)) = false) (hm : s.me.mig = true) :
    exec (.qbind q a) s = .next (s.takeTrap s.cur 0x0F g) := by
  rw [exec_qbind h, if_neg hg, hh, if_neg Bool.false_ne_true, hf, if_neg Bool.false_ne_true, if_pos hm, finish_error, stop_trap]

theorem exec_qbind_binds (hg : ¬ QbindMalformed g)
    (hh : (s.me.isBound q.toNat || s.pipeHeld (fld g 0 3) false || s.pipeHeld (fld g 8 3) true) = false)
    (hf : (s.pipeForeign (fld g 0 3) || s.pipeForeign (fld g 8 3)) = false) (hm : s.me.mig = false) :
    exec (.qbind q a) s = .next (qbound s q a g) := by
  rw [exec_qbind h, if_neg hg, hh, if_neg Bool.false_ne_true, hf, if_neg Bool.false_ne_true, hm, if_neg Bool.false_ne_true, finish_ok]

end

/-- No queue, or a queue of the own core that nothing holds. -/
def FreePipe (s : State) (n : Nat) : Prop := n = 7 ∨ (n < 4 ∧ s.pipe s.here n = {})

theorem FreePipe.seven_or_lt {s : State} {n : Nat} (h : FreePipe s n) : n = 7 ∨ n < 4 := h.imp_right And.left

theorem FreePipe.not_held {s : State} {n : Nat} (h : FreePipe s n) (prod : Bool) : s.pipeHeld n prod = false := by
  rcases h with rfl | ⟨_, hp⟩
  · rfl
  · rw [State.pipeHeld, hp]; cases prod <;> exact Bool.and_false _

theorem FreePipe.not_foreign {s : State} {n : Nat} (h : FreePipe s n) : s.pipeForeign n = false := by
  rcases h with rfl | ⟨_, hp⟩
  · rfl
  · rw [State.pipeForeign, hp]; simp

/-- An operand without reserved bits whose numbers name queues or none, and not none twice, is well formed. -/
theorem not_qbindMalformed {g : Word} (h3 : fld g 3 5 = 0) (h11 : fld g 11 53 = 0) (hi : fld g 0 3 = 7 ∨ fld g 0 3 < 4)
    (ho : fld g 8 3 = 7 ∨ fld g 8 3 < 4) (h7 : ¬ (fld g 0 3 = 7 ∧ fld g 8 3 = 7)) : ¬ QbindMalformed g := by
  unfold QbindMalformed
  omega

/-! ### What a binding leaves -/

theorem State.bindPipe_frame (s : State) (c : Nat) (sl : Slot) (n : Nat) (prod : Bool) :
    s.bindPipe c sl n prod = { s with cores := (s.bindPipe c sl n prod).cores } := by
  unfold State.bindPipe; split <;> rfl

theorem State.bindPipe_consumer (s : State) (c : Nat) (sl : Slot) {n : Nat} (h : n < 4) :
    ((s.bindPipe c sl n false).pipe c n).consumer = some sl.uid := by
  rw [State.bindPipe, if_neg (Nat.not_le.mpr h), pipe_modPipe_self]; rfl

theorem State.bindPipe_producer (s : State) (c : Nat) (sl : Slot) {n : Nat} (h : n < 4) :
    ((s.bindPipe c sl n true).pipe c n).producer = some sl.uid := by
  rw [State.bindPipe, if_neg (Nat.not_le.mpr h), pipe_modPipe_self]; rfl

/-- A producer's binding keeps every queue's consumer. -/
theorem State.bindPipe_keeps_consumer (s : State) (c : Nat) (sl : Slot) (n m : Nat) :
    ((s.bindPipe c sl n true).pipe c m).consumer = (s.pipe c m).consumer := by
  unfold State.bindPipe
  split
  · rfl
  · by_cases hm : m = n
    · subst hm; rw [pipe_modPipe_self]; rfl
    · rw [pipe_modPipe_ne s c _ hm]

theorem qbound_me (s : State) (q : BitVec 2) (a : RegCode) (g : Word) : (qbound s q a g).me =
    (s.me.withBinding q.toNat (fld g 0 3 + fld g 8 3 * 2 ^ 8 + 2 ^ 15)).advance := by
  rw [qbound, advance_me, me_modMe, bindPipe_frame, bindPipe_frame, consume_frame]; rfl

theorem qbound_pipe (s : State) (q : BitVec 2) (a : RegCode) (g : Word) (c n : Nat) : (qbound s q a g).pipe c n =
    (((s.consume [a.toNat]).bindPipe s.here s.me (fld g 0 3) false).bindPipe s.here s.me (fld g 8 3) true).pipe c n := rfl

theorem qbound_mem (s : State) (q : BitVec 2) (a : RegCode) (g : Word) : (qbound s q a g).mem = s.mem := by
  rw [qbound, advance_mem, modMe_mem, bindPipe_frame, bindPipe_frame, consume_frame]

/-! ### QUNBIND -/

/-- A direction of a pipeline queue of core c given up by thread uid; a queue left without any binding is empty (R195). -/
def State.dropPipe (s : State) (c uid n : Nat) (prod : Bool) : State :=
  if 4 ≤ n then s else s.modPipe c n fun p =>
    let p := if prod then (if p.producer = some uid then { p with producer := none, reserved := 0 } else p)
      else (if p.consumer = some uid then { p with consumer := none } else p)
    if p.producer.isNone && p.consumer.isNone then {} else p

theorem unbindOne_eq (s : State) (c uid : Nat) (sl : Slot) (n : Nat) : unbindOne s c uid sl n =
    if sl.isBound n then (s.dropPipe c uid (sl.inQueue n) false).dropPipe c uid (sl.outQueue n) true else s := rfl

theorem State.dropPipe_frame (s : State) (c uid n : Nat) (prod : Bool) : s.dropPipe c uid n prod = { s with cores := (s.dropPipe c uid n prod).cores } := by
  unfold State.dropPipe; split <;> rfl

theorem unbindOne_frame (s : State) (c uid : Nat) (sl : Slot) (n : Nat) :
    unbindOne s c uid sl n = { s with cores := (unbindOne s c uid sl n).cores } := by
  rw [unbindOne_eq]
  split
  · rw [dropPipe_frame, dropPipe_frame]
  · rfl

/-- A queue held by its consumer alone is empty after that binding ends. -/
theorem State.dropPipe_last (s : State) {c uid n : Nat} (h : n < 4) (hp : s.pipe c n = { s.pipe c n with producer := none, consumer := some uid }) :
    (s.dropPipe c uid n false).pipe c n = {} := by
  rw [State.dropPipe, if_neg (Nat.not_le.mpr h), pipe_modPipe_self, hp]
  simp

/-- The state after a QUNBIND. -/
def qunbound (s : State) (q : BitVec 2) : State :=
  ((unbindOne s s.here s.me.uid s.me q.toNat).modMe fun sl => sl.withBinding q.toNat 0).completeNone []

theorem qunbound_me (s : State) (q : BitVec 2) : (qunbound s q).me = (s.me.withBinding q.toNat 0).advance := by
  rw [qunbound, completeNone_me, me_modMe, unbindOne_frame]; rfl

theorem qunbound_mem (s : State) (q : BitVec 2) : (qunbound s q).mem = s.mem := by
  show (unbindOne s s.here s.me.uid s.me q.toNat).mem = s.mem
  rw [unbindOne_frame]

theorem qunbound_pipe (s : State) (q : BitVec 2) (c n : Nat) : (qunbound s q).pipe c n = (unbindOne s s.here s.me.uid s.me q.toNat).pipe c n := rfl

/-! ### Queue codes as operands -/

section

variable {s : State} {v n : Nat} (hv : s.me.queueOf v = some n)
include hv

/-- A bound queue code with an inbound queue passes the checks, and is read from that queue (R58, R197). -/
theorem State.operands_queue (word : Word) (hin : s.me.inQueue n ≠ 7) (hl : s.me.lost v = false) :
    s.operands word [v] [] = s.readSources [v] [] [v] := by
  refine operands_checked ?_ ?_
  · simp only [List.append_nil, State.checkCodes, State.checkCode, hv, Option.isSome_some, Bool.true_or, if_true]
  · simp only [State.checkQueues, List.append_nil, List.any_cons, List.any_nil, hl, hv, Bool.or_false, beq_false_of_ne hin, Bool.false_eq_true, if_false]

theorem State.namings_self : s.namings n [v] = 1 := by
  simp [State.namings, countIf, hv]

theorem State.readSources_queue_entry {e : Word} {r : List Word} (he : (s.pipe s.here (s.me.inQueue n)).entries = e :: r) :
    s.readSources [v] [] [v] = .ok [e] := by
  have h1 : ¬ (e :: r).length < 1 := by simp
  simp only [State.readSources, State.readSource, hv, he, namings_self hv, h1, if_false]
  rfl

theorem State.readSources_queue_empty (he : (s.pipe s.here (s.me.inQueue n)).entries = []) :
    s.readSources [v] [] [v] = .error (.park (.queue (s.me.inQueue n)) (ofNat v)) := by
  simp only [State.readSources, State.readSource, hv, he, namings_self hv, List.length_nil, Nat.zero_lt_one, if_true]

theorem State.completeNone_pops {e : Word} {r : List Word} (he : (s.pipe s.here (s.me.inQueue n)).entries = e :: r) :
    ((s.completeNone [v]).pipe s.here (s.me.inQueue n)).entries = r := by
  rw [State.completeNone, advance_pipe, State.consume, hv]
  simp only [State.consume, pipe_modPipe_self, he, List.drop_succ_cons, List.drop_zero]

theorem State.destReady_full_queue (hf : 16 ≤ (s.pipe s.here (s.me.outQueue n)).entries.length + (s.pipe s.here (s.me.outQueue n)).reserved) :
    s.destReady v = .error .forfeit := by
  simp only [State.destReady, hv, Nat.not_lt.mpr hf, if_false]

end

/-! ### The statement -/

section

variable {q : BitVec 2} {a : RegCode} {s : State} {g : Word} (h : s.operands (Instr.qbind q a).word [a.toNat] [] = .ok [g])
include h

/-- QBIND of free queues by a thread that may not migrate binds them (R196). -/
theorem qbind_free_binds (hg : ¬ QbindMalformed g) (hi : FreePipe s (fld g 0 3)) (ho : FreePipe s (fld g 8 3)) (hb : s.me.isBound q.toNat = false)
    (hm : s.me.mig = false) :
    ∃ t, exec (.qbind q a) s = .next t ∧ t.me.isBound q.toNat = true ∧ t.me.inQueue q.toNat = fld g 0 3 ∧ t.me.outQueue q.toNat = fld g 8 3 ∧
      (fld g 0 3 < 4 → (t.pipe s.here (fld g 0 3)).consumer = some s.me.uid) ∧
      (fld g 8 3 < 4 → (t.pipe s.here (fld g 8 3)).producer = some s.me.uid) ∧ t.mem = s.mem := by
  have hi8 := fld_lt g 0 3
  have ho8 := fld_lt g 8 3
  refine ⟨_, exec_qbind_binds h hg ?_ ?_ hm, ?_, ?_, ?_, fun hlt => ?_, fun hlt => ?_, qbound_mem s q a g⟩
  · rw [hb, hi.not_held, ho.not_held]; rfl
  · rw [hi.not_foreign, ho.not_foreign]; rfl
  · rw [qbound_me, Slot.advance_isBound, Slot.withBinding_isBound, decide_eq_true_iff]; omega
  · rw [qbound_me, Slot.advance_inQueue, Slot.withBinding_inQueue]; omega
  · rw [qbound_me, Slot.advance_outQueue, Slot.withBinding_outQueue]; omega
  · rw [qbound_pipe, bindPipe_keeps_consumer, bindPipe_consumer _ _ _ hlt]
  · rw [qbound_pipe, bindPipe_producer _ _ _ hlt]

/-- QBIND of one direction: held traps 0x01; else a queue of another context traps 0x05 (R196). -/
theorem qbind_inbound (hg : ¬ QbindMalformed g) (hb : s.me.isBound q.toNat = false) (hi : fld g 0 3 < 4) (ho : fld g 8 3 = 7) :
    let p := s.pipe s.here (fld g 0 3)
    (p.consumer ≠ none → exec (.qbind q a) s = .next (s.takeTrap s.cur 0x01 g)) ∧
    (p.consumer = none → p.producer ≠ none → p.ctx ≠ s.me.ctx → exec (.qbind q a) s = .next (s.takeTrap s.cur 0x05 g)) := by
  have hout : FreePipe s (fld g 8 3) := .inl ho
  refine ⟨fun hc => exec_qbind_held h hg ?_, fun hc hp hx => exec_qbind_foreign h hg ?_ ?_⟩
  · simp [State.pipeHeld, hi, Option.isSome_iff_ne_none.mpr hc]
  · rw [hb, hout.not_held]; simp [State.pipeHeld, hc]
  · simp [State.pipeForeign, hi, Option.isSome_iff_ne_none.mpr hp, hx]

theorem qbind_outbound (hg : ¬ QbindMalformed g) (hb : s.me.isBound q.toNat = false) (ho : fld g 8 3 < 4) (hi : fld g 0 3 = 7) :
    let p := s.pipe s.here (fld g 8 3)
    (p.producer ≠ none → exec (.qbind q a) s = .next (s.takeTrap s.cur 0x01 g)) ∧
    (p.producer = none → p.consumer ≠ none → p.ctx ≠ s.me.ctx → exec (.qbind q a) s = .next (s.takeTrap s.cur 0x05 g)) := by
  have hin : FreePipe s (fld g 0 3) := .inl hi
  refine ⟨fun hp => exec_qbind_held h hg ?_, fun hp hc hx => exec_qbind_foreign h hg ?_ ?_⟩
  · simp [State.pipeHeld, ho, Option.isSome_iff_ne_none.mpr hp]
  · rw [hb, hin.not_held]; simp [State.pipeHeld, hp]
  · simp [State.pipeForeign, ho, Option.isSome_iff_ne_none.mpr hc, hx]

end

/-- Settles O35: QBIND by its checks in order, QUNBIND by what a direction given up leaves, and queue codes as operands. -/
theorem queuesBindPushAndPop : Obligations.QueuesBindPushAndPop := by
  unfold Obligations.QueuesBindPushAndPop
  refine ⟨fun q a s g h => ?bind, fun q s => ?unbind, fun s word v n e r hv hin hl he => ?pop, fun s word v n hv hin hl he => ?empty,
    fun s d n hd hf => destReady_full_queue hd hf⟩
  case bind =>
    intro i o free
    have wf (h3 : fld g 3 5 = 0) (h11 : fld g 11 53 = 0) (hi : FreePipe s i) (ho : FreePipe s o) (h7 : ¬ (i = 7 ∧ o = 7)) : ¬ QbindMalformed g :=
      not_qbindMalformed h3 h11 hi.seven_or_lt ho.seven_or_lt h7
    refine ⟨fun h3 h11 hi ho h7 hb hm => qbind_free_binds h (wf h3 h11 hi ho h7) hi ho hb hm, exec_qbind_malformed h,
      fun h3 h11 hi ho h7 hb => exec_qbind_held h (wf h3 h11 hi ho h7) (by rw [hb]; rfl), fun h3 h11 hi ho h7 hb hm => ?_, fun h3 h11 hb => ⟨?_, ?_⟩⟩
    · have hi : FreePipe s (fld g 0 3) := hi
      have ho : FreePipe s (fld g 8 3) := ho
      exact exec_qbind_migratable h (wf h3 h11 hi ho h7) (by rw [hb, hi.not_held, ho.not_held]; rfl)
        (by rw [hi.not_foreign, ho.not_foreign]; rfl) hm
    · exact fun hi ho => qbind_inbound h (not_qbindMalformed h3 h11 (.inr hi) (.inl ho) (by omega)) hb hi ho
    · exact fun ho hi => qbind_outbound h (not_qbindMalformed h3 h11 (.inl hi) (.inr ho) (by omega)) hb ho hi
  case unbind =>
    refine ⟨qunbound s q, rfl, ?_, fun hl => ?_, qunbound_mem s q, fun hb hi hp ho => ?_⟩
    · rw [qunbound_me, Slot.advance_isBound, Slot.withBinding_isBound]; rfl
    · rw [qunbound_me, Slot.advance_straight (s.me.withBinding q.toNat 0) hl]; rfl
    · rw [qunbound_pipe, unbindOne_eq, if_pos hb, ho]
      exact dropPipe_last s hi hp
  case pop => exact ⟨(operands_queue hv word hin hl).trans (readSources_queue_entry hv he), completeNone_pops hv he⟩
  case empty => exact (operands_queue hv word hin hl).trans (readSources_queue_empty hv he)

end Sys2Proof.Machine

/-! ## Results of the scalar instructions (O14 to O17) -/

namespace Sys2Proof.Machine

open State Sys2Proof.Claims

/-! ### An instruction that computes one register -/

/-- An operation of one destination completes where its sources can be read and its destination can be written (R73 to R76). -/
theorem State.compute_ok {s : State} {word : Word} {srcs : List Nat} {d : Nat} {vs : List Word} (f : List Word → Word)
    (ho : s.operands word srcs [d] = .ok vs) (hd : s.destReady d = .ok ()) : s.compute word srcs d f = .ok (s.complete srcs d (f vs)) := by
  simp only [State.compute, ho, hd]

/-- An instruction that is such an operation has the result of any function that agrees with the operation's. -/
theorem resultAt_of_compute {i : Instr} {srcs : List Nat} {d : Nat} {f g : List Word → Word} {s : State}
    (hi : exec i s = s.finish (s.compute i.word srcs d g)) (h : ∀ vs, g vs = f vs) : ResultAt i srcs d f s := fun vs ho hd => by
  rw [hi, compute_ok g ho hd, finish_ok, h]

theorem binary_of_alu {i : RegCode → RegCode → RegCode → Instr} {f : Word → Word → Word} (g : Word → Word → Word)
    (hi : ∀ d a b s, exec (i d a b) s = s.finish (binary (i d a b).word d a b g s)) (h : ∀ x y, g x y = f x y) : Binary i f :=
  fun d a b s => resultAt_of_compute (hi d a b s) fun _ => h _ _

theorem unary_of_alu {i : RegCode → RegCode → Instr} {P : Word → Word → Prop} (g : Word → Word)
    (hi : ∀ d a s, exec (i d a) s = s.finish (unary (i d a).word d a g s)) (h : ∀ x w, P x w → w = g x) : Unary i P :=
  fun d a s x w ho hd hp => by
    rw [hi, unary, compute_ok _ ho hd, finish_ok, h x w hp]
    rfl

theorem immediate_of_alu {n : Nat} {i : RegCode → RegCode → BitVec n → Instr} {f : Word → BitVec n → Word} (g : BitVec n → Word → Word)
    (hi : ∀ d a v s, exec (i d a v) s = s.finish (unary (i d a v).word d a (g v) s)) (h : ∀ x v, g v x = f x v) : Immediate i f :=
  fun d a v s => resultAt_of_compute (hi d a v s) fun _ => h _ _

/-! ### The table of R79 -/

namespace Alu

theorem rol_eq (x y : Word) : rol x y = (x <<< (y.toNat % 64)) ||| (x >>> ((64 - y.toNat % 64) % 64)) := by
  have hlt : y.toNat % 64 < 64 := Nat.mod_lt _ (by decide)
  rw [rol, BitVec.rotateLeft_eq_rotateLeftAux_of_lt hlt, BitVec.rotateLeftAux]
  by_cases h : y.toNat % 64 = 0
  · simp [h, BitVec.ushiftRight_eq_zero (x := x) (Nat.le_refl 64)]
  · rw [Nat.mod_eq_of_lt (show 64 - y.toNat % 64 < 64 by omega)]

theorem boolWord_decide (p : Prop) [Decidable p] : boolWord (decide p) = if p then 1 else 0 := by
  by_cases h : p <;> simp [boolWord, h]

theorem slt_eq (x y : Word) : slt x y = if x.toInt < y.toInt then 1 else 0 := boolWord_decide _

theorem sltz_eq (x y : Word) : sltz x y = if x.toNat < y.toNat then 1 else 0 := boolWord_decide _

theorem seq_eq (x y : Word) : seq x y = if x = y then 1 else 0 := boolWord_decide (x = y)

/-- Equal values are equal words, so that a tie may go either way. -/
theorem min_eq (x y : Word) : min x y = if x.toInt ≤ y.toInt then x else y := by
  simp only [min, BitVec.slt_iff_toInt_lt]
  split_ifs with h1 h2 h2
  · rfl
  · omega
  · exact BitVec.eq_of_toInt_eq (by omega)
  · rfl

theorem max_eq (x y : Word) : max x y = if x.toInt ≤ y.toInt then y else x := by
  simp only [max, BitVec.slt_iff_toInt_lt]
  split_ifs with h1 h2 h2
  · rfl
  · omega
  · exact BitVec.eq_of_toInt_eq (by omega)
  · rfl

theorem minz_eq (x y : Word) : minz x y = if x.toNat ≤ y.toNat then x else y := by
  simp only [minz, BitVec.ult_iff_toNat_lt]
  split_ifs with h1 h2 h2
  · rfl
  · omega
  · exact BitVec.eq_of_toNat_eq (by omega)
  · rfl

theorem maxz_eq (x y : Word) : maxz x y = if x.toNat ≤ y.toNat then y else x := by
  simp only [maxz, BitVec.ult_iff_toNat_lt]
  split_ifs with h1 h2 h2
  · rfl
  · omega
  · exact BitVec.eq_of_toNat_eq (by omega)
  · rfl

theorem mul_eq (x y : Word) : mul x y = BitVec.ofNat 64 (x.toNat * y.toNat) :=
  BitVec.eq_of_toNat_eq (by rw [mul, BitVec.toNat_mul, BitVec.toNat_ofNat])

theorem div_eq (x y : Word) : div x y = if y = 0 then BitVec.allOnes 64 else BitVec.ofInt 64 (x.toInt.tdiv y.toInt) := by
  rw [div, show x.sdiv y = BitVec.ofInt 64 (x.toInt.tdiv y.toInt) from
    BitVec.eq_of_toInt_eq (by rw [BitVec.toInt_sdiv, BitVec.toInt_ofInt])]
  rfl

theorem divz_eq (x y : Word) : divz x y = if y = 0 then BitVec.allOnes 64 else BitVec.ofNat 64 (x.toNat / y.toNat) := by
  rw [divz, show x / y = BitVec.ofNat 64 (x.toNat / y.toNat) from
    BitVec.eq_of_toNat_eq (by rw [BitVec.toNat_udiv, BitVec.toNat_ofNat, Nat.mod_eq_of_lt (Nat.lt_of_le_of_lt (Nat.div_le_self _ _) x.isLt)])]
  rfl

theorem rem_eq (x y : Word) : rem x y = if y = 0 then x else BitVec.ofInt 64 (x.toInt.tmod y.toInt) := by
  rw [rem, ← BitVec.toInt_srem, BitVec.ofInt_toInt]

theorem remz_eq (x y : Word) : remz x y = if y = 0 then x else BitVec.ofNat 64 (x.toNat % y.toNat) := by
  rw [remz, ← BitVec.toNat_umod, BitVec.ofNat_toNat, BitVec.setWidth_eq]

theorem sext_eq (x y : Word) : sext x y = (x.setWidth (y.toNat % 64 + 1)).signExtend 64 := by
  have hk : fld y 0 6 = y.toNat % 64 := by simp [fld]
  rw [sext, signed_eq_toInt, hk, BitVec.signExtend, ← BitVec.ofNat_toNat]
  rfl

theorem zext_eq (x y : Word) : zext x y = (x.setWidth (y.toNat % 64 + 1)).setWidth 64 := by
  have hk : fld y 0 6 = y.toNat % 64 := by simp [fld]
  rw [zext, hk, ← BitVec.toNat_setWidth]
  exact BitVec.ofNat_toNat 64 _

/-- The number of leading zeros is the only n with x below 2^(64 - n) and no smaller power that bounds it. -/
theorem clz_of_bounds {x : Word} {n : Nat} (hn : n ≤ 64) (hlt : x.toNat < 2 ^ (64 - n)) (hge : n = 64 ∨ 2 ^ (63 - n) ≤ x.toNat) :
    BitVec.ofNat 64 n = clz x := by
  unfold clz
  split
  next h =>
    subst h
    rcases hge with rfl | hge
    · rfl
    · have := Nat.two_pow_pos (63 - n)
      simp at hge
  next h =>
    have h0 : x.toNat ≠ 0 := fun h0 => h (BitVec.eq_of_toNat_eq h0)
    have h64 : n ≠ 64 := by rintro rfl; simp at hlt; omega
    have hlog : x.toNat.log2 = 63 - n := by
      rw [Nat.log2_eq_iff h0]
      exact ⟨hge.resolve_left h64, by rwa [show 63 - n + 1 = 64 - n by omega]⟩
    rw [hlog, show 63 - (63 - n) = n by omega]
    rfl

/-- The number of trailing zeros is the place of the first bit set. -/
theorem ctz_of_bits {x : Word} {n : Nat} (hn : n ≤ 64) (hz : ∀ i, i < n → x.getLsbD i = false) (hb : n = 64 ∨ x.getLsbD n = true) :
    BitVec.ofNat 64 n = ctz x := by
  have hfind : (List.range 64).find? (bitAt x) = if n = 64 then none else some n := by
    split
    next h =>
      subst h
      exact List.find?_eq_none.mpr fun i hi => by simp [bitAt, hz i (List.mem_range.mp hi)]
    next h =>
      exact List.find?_range_eq_some.mpr ⟨hb.resolve_left h, List.mem_range.mpr (by omega), fun i hi => by simp [bitAt, hz i hi]⟩
  rw [ctz, hfind]
  split
  next h => subst h; rfl
  next => rfl

theorem popc_eq (x : Word) : popc x = BitVec.ofNat 64 ((List.range 64).countP x.getLsbD) := by
  rw [popc, countIf, List.countP_eq_length_filter]
  rfl

theorem brev_of_bits {x w : Word} (h : ∀ i, i < 64 → w.getLsbD i = x.getLsbD (63 - i)) : w = brev x := by
  refine BitVec.eq_of_getLsbD_eq fun i hi => ?_
  rw [h i hi, brev, BitVec.getLsbD_reverse, BitVec.getMsbD, decide_eq_true hi, Bool.true_and]

end Alu

/-! ### Words with a nonzero reserved field (R62, R82) -/

/-- A word without fields does not decode. -/
theorem decode_error_of_fields {w : BitVec 32} {e : DecodeError} (h : Decode.fields w.toNat = .error e) :
    ∃ e, decode (wordBytes w.toNat) = .error e := by
  refine ⟨e, ?_⟩
  rw [← List.append_nil (wordBytes w.toNat), decode_wordBytes w.isLt, Decode.word, h]
  rfl

/-- A unary word of major 0x01 has no b field (R79). -/
theorem fields_unary_reserved {n : Nat} (hm : n / 2 ^ 26 = 0x01) (hlo : 24 ≤ n % 32) (hhi : n % 32 ≤ 27) (hb : n / 32 % 128 ≠ 0) :
    Decode.fields n = .error .reservedField := by
  have hf : n / 2 ^ 0 % 2 ^ 5 = 24 ∨ n / 2 ^ 0 % 2 ^ 5 = 25 ∨ n / 2 ^ 0 % 2 ^ 5 = 26 ∨ n / 2 ^ 0 % 2 ^ 5 = 27 := by omega
  have hb : ¬ n / 2 ^ 5 % 2 ^ 7 = 0 := hb
  rcases hf with hf | hf | hf | hf <;> simp only [Decode.fields, hm, Decode.major01, hf, hb, if_false]

/-- A constant shift has no bits 9:6 (R82). -/
theorem fields_shift_reserved {n : Nat} (hm : n / 2 ^ 26 = 0x08) (hb : n / 64 % 16 ≠ 0) : Decode.fields n = .error .reservedField := by
  have hb : ¬ n / 2 ^ 6 % 2 ^ 4 = 0 := hb
  simp only [Decode.fields, hm, Decode.major08, hb, if_false]
  split <;> rfl

/-! ### The statements -/

theorem State.complete_flags (s : State) (srcs : List Nat) (d : Nat) (w : Word) : (s.complete srcs d w).me.flags = s.me.flags :=
  have h : (s.complete srcs d w).me.lasting.flags = s.me.lasting.flags := by rw [complete_me_lasting]
  h

/-- Settles O15: each operation is a computation of one register, and the model's function of it is the table's. -/
theorem registerOperationResults : Obligations.RegisterOperationResults := by
  unfold Obligations.RegisterOperationResults
  refine ⟨complete_flags, fun w hm hlo hhi hb => decode_error_of_fields (fields_unary_reserved hm hlo hhi hb), ?_⟩
  and_intros
  · exact binary_of_alu Alu.add (fun _ _ _ _ => rfl) fun _ _ => rfl
  · exact binary_of_alu Alu.sub (fun _ _ _ _ => rfl) fun _ _ => rfl
  · exact binary_of_alu Alu.and (fun _ _ _ _ => rfl) fun _ _ => rfl
  · exact binary_of_alu Alu.or (fun _ _ _ _ => rfl) fun _ _ => rfl
  · exact binary_of_alu Alu.xor (fun _ _ _ _ => rfl) fun _ _ => rfl
  · exact binary_of_alu Alu.andn (fun _ _ _ _ => rfl) fun _ _ => rfl
  · exact binary_of_alu Alu.sll (fun _ _ _ _ => rfl) fun _ _ => rfl
  · exact binary_of_alu Alu.srl (fun _ _ _ _ => rfl) fun _ _ => rfl
  · exact binary_of_alu Alu.sra (fun _ _ _ _ => rfl) fun _ _ => rfl
  · exact binary_of_alu Alu.rol (fun _ _ _ _ => rfl) Alu.rol_eq
  · exact binary_of_alu Alu.slt (fun _ _ _ _ => rfl) Alu.slt_eq
  · exact binary_of_alu Alu.sltz (fun _ _ _ _ => rfl) Alu.sltz_eq
  · exact binary_of_alu Alu.seq (fun _ _ _ _ => rfl) Alu.seq_eq
  · exact binary_of_alu Alu.min (fun _ _ _ _ => rfl) Alu.min_eq
  · exact binary_of_alu Alu.max (fun _ _ _ _ => rfl) Alu.max_eq
  · exact binary_of_alu Alu.minz (fun _ _ _ _ => rfl) Alu.minz_eq
  · exact binary_of_alu Alu.maxz (fun _ _ _ _ => rfl) Alu.maxz_eq
  · exact binary_of_alu Alu.mul (fun _ _ _ _ => rfl) Alu.mul_eq
  · exact binary_of_alu Alu.mulh (fun _ _ _ _ => rfl) fun _ _ => rfl
  · exact binary_of_alu Alu.mulhz (fun _ _ _ _ => rfl) fun _ _ => rfl
  · exact binary_of_alu Alu.div (fun _ _ _ _ => rfl) Alu.div_eq
  · exact binary_of_alu Alu.divz (fun _ _ _ _ => rfl) Alu.divz_eq
  · exact binary_of_alu Alu.rem (fun _ _ _ _ => rfl) Alu.rem_eq
  · exact binary_of_alu Alu.remz (fun _ _ _ _ => rfl) Alu.remz_eq
  · exact unary_of_alu Alu.clz (fun _ _ _ => rfl) fun _ _ ⟨_, hn, hw, hlt, hge⟩ => hw.trans (Alu.clz_of_bounds hn hlt hge)
  · exact unary_of_alu Alu.ctz (fun _ _ _ => rfl) fun _ _ ⟨_, hn, hw, hz, hb⟩ => hw.trans (Alu.ctz_of_bits hn hz hb)
  · exact unary_of_alu Alu.popc (fun _ _ _ => rfl) fun x _ hw => hw.trans (Alu.popc_eq x).symm
  · exact unary_of_alu Alu.brev (fun _ _ _ => rfl) fun _ _ => Alu.brev_of_bits
  · exact binary_of_alu Alu.sext (fun _ _ _ _ => rfl) Alu.sext_eq
  · exact binary_of_alu Alu.zext (fun _ _ _ _ => rfl) Alu.zext_eq

/-- The amount of a constant shift is below 64 as it is (R82). -/
theorem shiftAmount_eq (v : BitVec 6) : (v.setWidth 64 : Word).toNat % 64 = v.toNat := by
  have := v.isLt
  rw [BitVec.toNat_setWidth]
  omega

/-- Settles O16: the immediate forms are the register forms' functions with the field in the place of y. -/
theorem immediateOperationResults : Obligations.ImmediateOperationResults := by
  unfold Obligations.ImmediateOperationResults
  refine ⟨fun w hm hb => decode_error_of_fields (fields_shift_reserved hm hb), ?_⟩
  and_intros
  · exact immediate_of_alu (fun v x => Alu.add x (imm v)) (fun _ _ _ _ => rfl) fun _ _ => rfl
  · exact immediate_of_alu (fun v x => Alu.and x (imm v)) (fun _ _ _ _ => rfl) fun _ _ => rfl
  · exact immediate_of_alu (fun v x => Alu.or x (imm v)) (fun _ _ _ _ => rfl) fun _ _ => rfl
  · exact immediate_of_alu (fun v x => Alu.xor x (imm v)) (fun _ _ _ _ => rfl) fun _ _ => rfl
  · exact immediate_of_alu (fun v x => Alu.slt x (imm v)) (fun _ _ _ _ => rfl) fun x v => Alu.slt_eq x (imm v)
  · exact immediate_of_alu (fun v x => Alu.sltz x (imm v)) (fun _ _ _ _ => rfl) fun x v => Alu.sltz_eq x (imm v)
  · exact immediate_of_alu (fun v x => Alu.sll x (v.setWidth 64)) (fun _ _ _ _ => rfl) fun x v => by rw [Alu.sll, shiftAmount_eq]
  · exact immediate_of_alu (fun v x => Alu.srl x (v.setWidth 64)) (fun _ _ _ _ => rfl) fun x v => by rw [Alu.srl, shiftAmount_eq]
  · exact immediate_of_alu (fun v x => Alu.sra x (v.setWidth 64)) (fun _ _ _ _ => rfl) fun x v => by rw [Alu.sra, shiftAmount_eq]
  · exact immediate_of_alu (fun v x => Alu.rol x (v.setWidth 64)) (fun _ _ _ _ => rfl) fun x v => by rw [Alu.rol_eq, shiftAmount_eq]

/-! ### A destination that awaits a reply (R75, R77) -/

theorem destReady_awaiting {s : State} {d : Nat} (hd : WindowCode s d) (ha : s.awaits s.cur d = true) : s.destReady d = .error .forfeit := by
  rw [destReady_register s d hd.unbound hd.noMail, if_pos ha]

/-- An operation of one destination whose destination awaits forfeits once its sources are read. -/
theorem State.compute_awaiting {s : State} {word : Word} {srcs : List Nat} {d : Nat} {vs : List Word} (f : List Word → Word)
    (ho : s.operands word srcs [d] = .ok vs) (hd : s.destReady d = .error .forfeit) : s.finish (s.compute word srcs d f) = .next s := by
  simp only [State.compute, ho, hd, finish_error, stop_forfeit]

/-- A load from a scratchpad looks at its destination before it does anything else. -/
theorem load_awaiting {word : Word} {d a : RegCode} {size : BitVec 2} {off : BitVec 10} {sx : Bool} {s : State} {x : Word} {c o : Nat}
    (hx : s.operands word [a.toNat] [d.toNat] = .ok [x]) (hd : s.destReady d.toNat = .error .forfeit)
    (hr : s.resolve s.here s.rights (x + imm off * ofNat (2 ^ size.toNat)) (2 ^ size.toNat) = .ok (.spad c o)) :
    s.finish (load word d a size off sx s) = .next s := by
  have hr' : s.resolve s.here s.rights (arg [x] 0 + imm off * ofNat (sizeOf2 size)) (sizeOf2 size) = .ok (.spad c o) := hr
  simp only [load, hx, hr', loadAt, hd, finish_error, stop_forfeit]

/-- Settles O14: the check of the destination comes after the sources and before any effect. -/
theorem destinationAwaitingForfeits : Obligations.DestinationAwaitingForfeits := by
  unfold Obligations.DestinationAwaitingForfeits
  refine ⟨fun s d => destReady_awaiting, fun s d a b vs ha hd ho => ?add, fun s d a sz off x c o ha hd hx hr => ?load⟩
  case add => exact compute_awaiting _ ho (destReady_awaiting hd ha)
  case load => exact load_awaiting hx (destReady_awaiting hd ha) hr

/-! ### Constants and coordinates (R83 to R87) -/

theorem shiftLeft_eq_ofInt {n : Nat} (v : BitVec n) : imm v <<< 12 = BitVec.ofInt 64 (v.toInt * 4096) := by
  rw [BitVec.shiftLeft_eq_mul_twoPow, imm, BitVec.signExtend, BitVec.ofInt_mul]
  rfl

/-- A one-source operation whose function gives a value completes with it. -/
theorem unaryTrap_ok {s : State} {word : Word} {d a : RegCode} {f : Word → Except Stop Word} {x w : Word}
    (ho : s.operands word [a.toNat] [d.toNat] = .ok [x]) (hd : s.destReady d.toNat = .ok ()) (hf : f x = .ok w) :
    s.finish (unaryTrap word d a f s) = .next (s.complete [a.toNat] d.toNat w) := by
  have hf : f (arg [x] 0) = .ok w := hf
  simp only [unaryTrap, ho, hf, hd, finish_ok]

theorem unaryTrap_trap {s : State} {word : Word} {d a : RegCode} {f : Word → Except Stop Word} {x : Word} {c : Nat} {v : Word}
    (ho : s.operands word [a.toNat] [d.toNat] = .ok [x]) (hf : f x = .error (.trap c v)) :
    s.finish (unaryTrap word d a f s) = .next (s.takeTrap s.cur c v) := by
  have hf : f (arg [x] 0) = .error (.trap c v) := hf
  simp only [unaryTrap, ho, hf, finish_error, stop_trap]

namespace Coord

/-- The absolute X that a relative address names from core c, in the grid or not. -/
def absX (c : Nat) (x : Word) : Int := (coreX c : Int) + signed (fld x 32 8) 8

/-- The absolute Y that a relative address names from core c, in the grid or not. -/
def absY (c : Nat) (x : Word) : Int := (coreY c : Int) + signed (fld x 40 8) 8

/-- The place that a relative address names from core c lies in the grid. -/
def InGrid (c : Nat) (x : Word) : Prop := 0 ≤ absX c x ∧ absX c x ≤ 31 ∧ 0 ≤ absY c x ∧ absY c x ≤ 39

theorem absolute_inGrid {c : Nat} {x : Word} (h : InGrid c x) : absolute c x = some ((absX c x).toNat, (absY c x).toNat) := if_pos h

theorem absolute_outside {c : Nat} {x : Word} (h : ¬ InGrid c x) : absolute c x = none := if_neg h

theorem cabs_inGrid {c : Nat} {x : Word} (hs : fld x 61 3 = 1) (h : InGrid c x) :
    cabs c x = .ok (setFld (setFld (setFld x 32 8 (absX c x).toNat) 40 8 (absY c x).toNat) 61 1 0) := by
  simp only [cabs, if_pos hs, absolute_inGrid h]

theorem cabs_outside {c : Nat} {x : Word} (hs : fld x 61 3 = 1) (h : ¬ InGrid c x) : cabs c x = .error (.trap 0x04 x) := by
  simp only [cabs, if_pos hs, absolute_outside h]

theorem cabs_other {c : Nat} {x : Word} (hs : fld x 61 3 ≠ 1) : cabs c x = .ok x := if_neg hs

/-- Bits 63:61 are the space in 63:62 and bit 61. -/
theorem fld_space (x : Word) : fld x 61 3 = 2 * fld x 62 2 + (if bitAt x 61 then 1 else 0) := by
  have hb : bitAt x 61 = decide (x.toNat / 2 ^ 61 % 2 = 1) := by
    rw [bitAt, ← BitVec.testBit_toNat, Nat.testBit_eq_decide_div_mod_eq]
  simp only [fld, Nat.shiftRight_eq_div_pow, hb, decide_eq_true_eq]
  split <;> omega

/-- The relative form of a scratchpad address is that of space 00 alone. -/
theorem relative_bits {x : Word} (hs : fld x 61 3 = 1) : fld x 62 2 = 0 ∧ bitAt x 61 = true := by
  have h := fld_space x
  cases hb : bitAt x 61
  · simp only [hb, Bool.false_eq_true, if_false] at h; exact absurd h (by omega)
  · simp only [hb, if_true] at h; exact ⟨by omega, rfl⟩

/-- Bits 63:61 of an absolute scratchpad address, in space 00 or of another package. -/
theorem absolute_bits {x : Word} (hs : fld x 61 3 = 0 ∨ fld x 61 3 = 4) : (fld x 62 2 = 0 ∨ fld x 62 2 = 2) ∧ bitAt x 61 = false := by
  have h := fld_space x
  cases hb : bitAt x 61
  · simp only [hb, Bool.false_eq_true, if_false] at h; exact ⟨by omega, rfl⟩
  · simp only [hb, if_true] at h; exact absurd h (by omega)

/-- A bulk address of another package has bit 61. -/
theorem bulk_bits {x : Word} (hs : fld x 61 3 = 5) : fld x 62 2 = 2 ∧ bitAt x 61 = true := by
  have h := fld_space x
  cases hb : bitAt x 61
  · simp only [hb, Bool.false_eq_true, if_false] at h; exact absurd h (by omega)
  · simp only [hb, if_true] at h; exact ⟨by omega, rfl⟩

theorem place_inGrid {c : Nat} {x : Word} (hs : fld x 61 3 = 1) (h : InGrid c x) :
    place c x = .ok (some ((absX c x).toNat, (absY c x).toNat)) := by
  rw [place, if_pos (relative_bits hs), absolute_inGrid h]

theorem place_outside {c : Nat} {x : Word} (hs : fld x 61 3 = 1) (h : ¬ InGrid c x) : place c x = .error (.trap 0x04 x) := by
  rw [place, if_pos (relative_bits hs), absolute_outside h]

theorem place_absolute {c : Nat} {x : Word} (hs : fld x 61 3 = 0 ∨ fld x 61 3 = 4) : place c x = .ok (some (fld x 32 8, fld x 40 8)) := by
  obtain ⟨h62, h61⟩ := absolute_bits hs
  rw [place, if_neg (by simp [h61]), if_pos (h62.imp_right fun h => ⟨h, by simp [h61]⟩)]

theorem place_none {c : Nat} {x : Word} (hs : fld x 62 2 = 1 ∨ fld x 62 2 = 3 ∨ fld x 61 3 = 5) : place c x = .ok none := by
  rcases hs with hs | hs | hs
  · simp [place, hs]
  · simp [place, hs]
  · simp [place, bulk_bits hs]

/-- A coordinate of a place, all ones for none (R86). -/
def coordinate (f : Nat × Nat → Nat) : Option (Nat × Nat) → Word
  | some q => ofNat (f q)
  | none => allOnes

end Coord

/-- CX and CY: a coordinate of the place that the word names, by its space (R86, R87). -/
theorem coordinate_results {i : Instr} {d a : RegCode} {s : State} {x : Word} {f : Nat × Nat → Nat}
    (hi : exec i s = s.finish (unaryTrap i.word d a (fun x => (Coord.place s.here x).map (Coord.coordinate f)) s))
    (hd : s.destReady d.toNat = .ok ()) (ho : s.operands i.word [a.toNat] [d.toNat] = .ok [x]) :
    (fld x 61 3 = 1 → Coord.InGrid s.here x → exec i s = .next (s.complete [a.toNat] d.toNat
      (ofNat (f ((Coord.absX s.here x).toNat, (Coord.absY s.here x).toNat))))) ∧
    (fld x 61 3 = 1 → ¬ Coord.InGrid s.here x → exec i s = .next (s.takeTrap s.cur 0x04 x)) ∧
    (fld x 61 3 = 0 ∨ fld x 61 3 = 4 → exec i s = .next (s.complete [a.toNat] d.toNat (ofNat (f (fld x 32 8, fld x 40 8))))) ∧
    (fld x 62 2 = 1 ∨ fld x 62 2 = 3 ∨ fld x 61 3 = 5 → exec i s = .next (s.complete [a.toNat] d.toNat (BitVec.allOnes 64))) := by
  rw [hi]
  refine ⟨fun hs h => ?_, fun hs h => ?_, fun hs => ?_, fun hs => ?_⟩
  · exact unaryTrap_ok ho hd (by rw [Coord.place_inGrid hs h]; rfl)
  · exact unaryTrap_trap ho (by rw [Coord.place_outside hs h]; rfl)
  · exact unaryTrap_ok ho hd (by rw [Coord.place_absolute hs]; rfl)
  · exact unaryTrap_ok ho hd (by rw [Coord.place_none hs]; rfl)

/-- Settles O17: constants are computed as they stand, and coordinates by the case that bits 63:61 name. -/
theorem constantsAndCoordinates : Obligations.ConstantsAndCoordinates := by
  unfold Obligations.ConstantsAndCoordinates
  refine ⟨fun d v s => resultAt_of_compute rfl fun _ => shiftLeft_eq_ofInt v, fun d v s => resultAt_of_compute rfl fun _ => rfl,
    fun d a s => resultAt_of_compute rfl fun _ => rfl, fun d a s => resultAt_of_compute rfl fun _ => rfl, fun d a s x hd => ?_⟩
  refine ⟨fun ho => ⟨fun hs h => ?_, fun hs h => ?_, fun hs => ?_⟩, coordinate_results (f := Prod.fst) rfl hd, coordinate_results (f := Prod.snd) rfl hd⟩
  · exact unaryTrap_ok ho hd (Coord.cabs_inGrid hs h)
  · exact unaryTrap_trap ho (Coord.cabs_outside hs h)
  · exact unaryTrap_ok ho hd (Coord.cabs_other hs)

end Sys2Proof.Machine

/-! ## Branches, jumps and loops (O18, O19) -/

namespace Sys2Proof.Machine

open State Sys2Proof.Claims

/-! ### Targets -/

theorem inCode_inside {t : Int} (h0 : 0 ≤ t) (h1 : t < 0x180000) : inCode t = true := by
  simp only [inCode, decide_eq_true h0, Bool.true_and, decide_eq_true_eq]
  exact h1

theorem inCode_outside {t : Int} (h : t < 0 ∨ 0x180000 ≤ t) : inCode t = false := by
  have hs : (Config.spadSize : Int) = 0x180000 := rfl
  simp only [inCode, Bool.and_eq_false_iff, decide_eq_false_iff_not]
  omega

/-! ### Branches (R88, R89) -/

/-- The three ends of a branch with condition cond, seen as the answer r of its instruction (R88, R89). -/
def BranchEnds (s : State) (srcs : List Nat) (off : BitVec 16) (cond : Prop) (r : Host.Outcome State Fault Refusal) : Prop :=
  let t := (s.me.pc : Int) + 4 * off.toInt
  (cond → 0 ≤ t → t < 0x180000 → r = .next ((s.consume srcs).jump t.toNat)) ∧
  (cond → (t < 0 ∨ 0x180000 ≤ t) → r = .next (s.takeTrap s.cur 0x04 (BitVec.ofInt 64 t))) ∧
  (¬ cond → r = .next (s.completeNone srcs))

theorem branch_ends (s : State) (srcs : List Nat) (off : BitVec 16) (cond : Bool) :
    BranchEnds s srcs off (cond = true) (s.finish (branch s srcs off cond)) := by
  refine ⟨fun hc h0 h1 => ?_, fun hc h => ?_, fun hc => ?_⟩
  · have hin : inCode (s.target off) = true := inCode_inside h0 h1
    simp only [branch, hc, hin, if_true, finish_ok]
    rfl
  · have hin : inCode (s.target off) = false := inCode_outside h
    simp only [branch, hc, hin, if_true, Bool.false_eq_true, if_false, finish_error, stop_trap]
    rfl
  · rw [branch, if_neg hc, finish_ok]

theorem BranchEnds.congr {s : State} {srcs : List Nat} {off : BitVec 16} {p q : Prop} {r : Host.Outcome State Fault Refusal}
    (h : BranchEnds s srcs off p r) (hpq : p ↔ q) : BranchEnds s srcs off q r :=
  propext hpq ▸ h

/-- A branch on a value that can be read tests that value. -/
theorem branchOn_ends {word : Word} {a : RegCode} {off : BitVec 16} {s : State} {x : Word} (p : Word → Bool)
    (ho : s.operands word [a.toNat] [] = .ok [x]) : BranchEnds s [a.toNat] off (p x = true) (s.finish (branchOn word a off p s)) := by
  have hp : branchOn word a off p s = branch s [a.toNat] off (p x) := by
    simp only [branchOn, ho]
    rfl
  rw [hp]
  exact branch_ends s [a.toNat] off (p x)

/-- A branch on a full bit tests it, and pops nothing (R88). -/
theorem branchFull_ends {word : Word} {a : RegCode} {off : BitVec 16} {s : State} (want : Bool) (hc : s.checkCode a.toNat = .ok ())
    (hq : s.checkQueues word [a.toNat] [] = .ok ()) :
    BranchEnds s [] off (s.fullTest a.toNat = want) (s.finish (branchFull word a off want s)) := by
  have hb : branchFull word a off want s = branch s [] off (s.fullTest a.toNat == want) := by
    simp only [branchFull, checkCodes, hc, hq]
  rw [hb]
  exact (branch_ends s [] off _).congr beq_iff_eq

theorem msb_iff (x : Word) : x.msb = true ↔ x.toInt < 0 := by rw [BitVec.msb_eq_toInt, decide_eq_true_eq]

theorem toInt_eq_zero_iff (x : Word) : x.toInt = 0 ↔ x = 0 := BitVec.toInt_inj (y := 0)

theorem gtz_iff (x : Word) : (!x.msb && x != 0) = true ↔ 0 < x.toInt := by
  rw [Bool.and_eq_true, Bool.not_eq_true', ← Bool.not_eq_true, msb_iff, bne_iff_ne, ne_eq, ← toInt_eq_zero_iff]
  omega

theorem lez_iff (x : Word) : (x.msb || x == 0) = true ↔ x.toInt ≤ 0 := by
  rw [Bool.or_eq_true, msb_iff, beq_iff_eq, ← toInt_eq_zero_iff]
  omega

theorem fullTest_window {s : State} {v : Nat} (h : WindowCode s v) : s.fullTest v = s.regIsFull s.cur v := by
  simp [State.fullTest, h.unbound, h.noMail]

theorem fullTest_queue {s : State} {v n : Nat} (h : s.me.queueOf v = some n) :
    s.fullTest v = !(s.pipe s.here (s.me.inQueue n)).entries.isEmpty := by
  simp only [State.fullTest, h]

/-- Settles O18: each branch tests its own condition and then ends as every branch does. -/
theorem branchesTestTheirCondition : Obligations.BranchesTestTheirCondition := by
  unfold Obligations.BranchesTestTheirCondition
  refine ⟨fun a off s x => ?value, fun a off s => ?full, fun s v => fullTest_window, fun s v n => fullTest_queue⟩
  case value =>
    have ends {i : Instr} {p : Word → Bool} {q : Prop} [Decidable q] (hi : exec i s = s.finish (branchOn i.word a off p s)) (hpq : p x = true ↔ q)
        (ho : s.operands i.word [a.toNat] [] = .ok [x]) : BranchEnds s [a.toNat] off (decide q = true) (exec i s) :=
      hi ▸ (branchOn_ends p ho).congr (hpq.trans decide_eq_true_iff.symm)
    simp only [List.forall_mem_cons, List.not_mem_nil, false_implies, implies_true, and_true, ← Bool.not_eq_true]
    and_intros
    · exact ends rfl beq_iff_eq
    · exact ends rfl bne_iff_ne
    · exact ends rfl (msb_iff x)
    · exact ends rfl (by rw [Bool.not_eq_true', ← Bool.not_eq_true, msb_iff]; omega)
    · exact ends rfl (gtz_iff x)
    · exact ends rfl (lez_iff x)
  case full =>
    simp only [List.forall_mem_cons, List.not_mem_nil, false_implies, implies_true, and_true]
    exact ⟨branchFull_ends true, branchFull_ends false⟩

/-! ### Jumps (R90, R91) -/

theorem exec_jmp_inside {d : RegCode} {v : BitVec 19} {s : State} (ho : s.operands (Instr.jmp d v).word [] [d.toNat] = .ok [])
    (h0 : 0 ≤ s.target v) (h1 : s.target v < 0x180000) (hd : s.destReady d.toNat = .ok ()) :
    exec (.jmp d v) s = .next ((s.jump (s.target v).toNat).writeDest d.toNat (addrOf s.here (s.me.pc + 4))) := by
  show s.finish (jumpTo _ d v s) = _
  simp only [jumpTo, ho, inCode_inside h0 h1, hd, if_true, finish_ok]
  rfl

theorem exec_jmp_outside {d : RegCode} {v : BitVec 19} {s : State} (ho : s.operands (Instr.jmp d v).word [] [d.toNat] = .ok [])
    (h : s.target v < 0 ∨ 0x180000 ≤ s.target v) : exec (.jmp d v) s = .next (s.takeTrap s.cur 0x04 (BitVec.ofInt 64 (s.target v))) := by
  show s.finish (jumpTo _ d v s) = _
  simp only [jumpTo, ho, inCode_outside h, Bool.false_eq_true, if_false, finish_error, stop_trap]
  rfl

section

variable {d a : RegCode} {v : BitVec 12} {s : State} {x : Word} (ho : s.operands (Instr.jmpr d a v).word [a.toNat] [d.toNat] = .ok [x])

include ho

theorem exec_jmpr_inside {off : Nat} (ht : ownOffset s.here (x + v.signExtend 64) = some off) (h4 : (x + v.signExtend 64).toNat % 4 = 0)
    (hd : s.destReady d.toNat = .ok ()) :
    exec (.jmpr d a v) s = .next (((s.consume [a.toNat]).jump off).writeDest d.toNat (addrOf s.here (s.me.pc + 4))) := by
  have ht : ownOffset s.here (arg [x] 0 + imm v) = some off := ht
  have h4 : ¬ (arg [x] 0 + imm v).toNat % 4 ≠ 0 := not_not.mpr h4
  show s.finish (jumpReg _ d a v s) = _
  simp only [jumpReg, ho, ht, h4, hd, if_false, finish_ok]
  rfl

theorem exec_jmpr_misaligned {off : Nat} (ht : ownOffset s.here (x + v.signExtend 64) = some off) (h4 : (x + v.signExtend 64).toNat % 4 ≠ 0) :
    exec (.jmpr d a v) s = .next (s.takeTrap s.cur 0x03 (x + v.signExtend 64)) := by
  have ht : ownOffset s.here (arg [x] 0 + imm v) = some off := ht
  have h4 : (arg [x] 0 + imm v).toNat % 4 ≠ 0 := h4
  show s.finish (jumpReg _ d a v s) = _
  simp only [jumpReg, ho, ht, if_pos h4, finish_error, stop_trap]
  rfl

theorem exec_jmpr_outside (ht : ownOffset s.here (x + v.signExtend 64) = none) :
    exec (.jmpr d a v) s = .next (s.takeTrap s.cur 0x04 (x + v.signExtend 64)) := by
  have ht : ownOffset s.here (arg [x] 0 + imm v) = none := ht
  show s.finish (jumpReg _ d a v s) = _
  simp only [jumpReg, ho, ht, finish_error, stop_trap]
  rfl

end

/-! ### Loops (R167) -/

theorem State.modMe_congr {s : State} {f g : Slot → Slot} (h : f s.me = g s.me) : s.modMe f = s.modMe g := by
  unfold State.modMe State.modSlot
  exact congrArg (s.setSlot s.cur) h

theorem exec_loop_user {c : RegCode} {len : BitVec 12} {s : State} (hm : s.me.mode ≠ 2) :
    exec (.loop c len) s = .next (s.takeTrap s.cur 0x0D (Instr.loop c len).word) := by
  show s.finish (loopBody _ c len s) = _
  rw [loopBody, if_pos hm, finish_error, stop_trap]

section

variable {c : RegCode} {len : BitVec 12} {s : State} {n : Word} (hm : s.me.mode = 2)
  (ho : s.operands (Instr.loop c len).word [c.toNat] [] = .ok [n])

include hm ho

/-- LOOP in service mode, once its count is read. -/
theorem exec_loop_service : exec (.loop c len) s = s.finish (
    if 4 ≤ s.me.loops.length then .error (.trap 0x01 (Instr.loop c len).word)
    else if 0x17FFFC < s.me.pc + 4 * len.toNat then .error (.trap 0x04 (ofNat (s.me.pc + 4 * len.toNat)))
    else if n = 0 then .ok ((s.consume [c.toNat]).modMe fun sl =>
      { sl with pc := (loopEnd (s.me.pc + 4 * len.toNat + 4) sl.loops).1, loops := (loopEnd (s.me.pc + 4 * len.toNat + 4) sl.loops).2, released := false })
    else .ok ((s.consume [c.toNat]).modMe fun sl =>
      { sl with pc := sl.pc + 4, loops := { start := sl.pc + 4, stop := s.me.pc + 4 * len.toNat + 4, count := n.toNat } :: sl.loops, released := false })) := by
  show s.finish (loopBody _ c len s) = _
  rw [loopBody, if_neg (not_not.mpr hm), ho]
  rfl

theorem exec_loop_opens (hl : s.me.loops.length < 4) (hb : s.me.pc + 4 * len.toNat ≤ 0x17FFFC) (hn : n ≠ 0) :
    exec (.loop c len) s = .next ((s.consume [c.toNat]).modMe fun sl =>
      { sl with pc := sl.pc + 4, loops := { start := sl.pc + 4, stop := s.me.pc + 4 * len.toNat + 4, count := n.toNat } :: sl.loops, released := false }) := by
  rw [exec_loop_service hm ho, if_neg (Nat.not_le.mpr hl), if_neg (Nat.not_lt.mpr hb), if_neg hn, finish_ok]

theorem exec_loop_skips (hl : s.me.loops = []) (hb : s.me.pc + 4 * len.toNat ≤ 0x17FFFC) (hn : n = 0) :
    exec (.loop c len) s = .next ((s.consume [c.toNat]).modMe fun sl => { sl with pc := s.me.pc + 4 * len.toNat + 4, loops := [], released := false }) := by
  rw [exec_loop_service hm ho, if_neg (by simp [hl]), if_neg (Nat.not_lt.mpr hb), if_pos hn, finish_ok]
  refine congrArg _ (modMe_congr ?_)
  rw [consume_me, hl]
  rfl

theorem exec_loop_full (hl : 4 ≤ s.me.loops.length) : exec (.loop c len) s = .next (s.takeTrap s.cur 0x01 (Instr.loop c len).word) := by
  rw [exec_loop_service hm ho, if_pos hl, finish_error, stop_trap]

end

theorem Slot.mem_jump_loops (sl : Slot) (t : Nat) (l : Loop) : l ∈ (sl.jump t).loops ↔ l ∈ sl.loops ∧ l.start ≤ t ∧ t < l.stop := by
  simp only [Slot.jump, List.mem_filter, Bool.and_eq_true, decide_eq_true_eq]

/-- At the end of a body with passes to come the body starts again. -/
theorem Slot.advance_repeats {sl : Slot} {l : Loop} {r : List Loop} (hl : sl.loops = l :: r) (he : l.stop = sl.pc + 4) (hc : 1 < l.count) :
    sl.advance.pc = l.start ∧ sl.advance.loops = { l with count := l.count - 1 } :: r := by
  simp [Slot.advance, hl, loopEnd, he, hc]

/-- At the end of its last pass a loop's level is gone. -/
theorem Slot.advance_leaves {sl : Slot} {l : Loop} (hl : sl.loops = [l]) (he : l.stop = sl.pc + 4) (hc : l.count ≤ 1) :
    sl.advance.pc = sl.pc + 4 ∧ sl.advance.loops = [] := by
  simp [Slot.advance, hl, loopEnd, he, Nat.not_lt.mpr hc]

/-- Settles O19: the jumps by where their target lies, LOOP by its checks in order, and the loop stack at a jump and at a body's end. -/
theorem jumpsLinkAndLoopsPush : Obligations.JumpsLinkAndLoopsPush := by
  unfold Obligations.JumpsLinkAndLoopsPush
  exact ⟨fun d v s ho => ⟨exec_jmp_inside ho, exec_jmp_outside ho⟩,
    fun d a v s x ho => ⟨fun off => exec_jmpr_inside ho, fun off => exec_jmpr_misaligned ho, exec_jmpr_outside ho⟩,
    fun c len s n hm ho => ⟨exec_loop_opens hm ho, exec_loop_skips hm ho, exec_loop_full hm ho⟩,
    fun c len s => exec_loop_user, fun sl t => ⟨rfl, sl.mem_jump_loops t⟩, fun sl l r => Slot.advance_repeats, fun sl l => Slot.advance_leaves⟩

end Sys2Proof.Machine

/-! ## Loads and stores of other cores, bulk memory and other packages (O22) -/

namespace Sys2Proof.Machine

open State Sys2Proof.Claims

/-! ### What a request and a translation leave alone -/

/-- A request takes a credit and sends one message; the quotas it spends are in the core's own state (R270, R267). -/
theorem State.requestAs_eq {s s1 : State} {r : Rights} {dst : Node} {b : Body} (h : s.requestAs r dst b = .ok s1) :
    s1 = { (s.takeCredit (clusterOf s.here) dst).send
      { id := 0, uid := s.me.uid, src := .core s.here, slot := s.num, dst := dst, ctx := r.ctx, sup := r.sup,
        credit := some (clusterOf s.here, dst), body := b } with cores := s1.cores } := by
  unfold State.requestAs at h
  dsimp only at h
  split at h
  · cases h
  · obtain rfl := Except.ok.inj h
    exact inject_frame _ _ _ _

/-- The record that the issuing slot's die keeps of its request to another package (R276). -/
def State.abroadRecord (s : State) (p : Nat) (what : Abroad) : Outstanding :=
  { id := s.nextId, uid := s.me.uid, core := s.here, slot := s.num, pkg := p, ctx := s.rights.ctx, sup := s.rights.sup, what := what }

/-- The message of the issuing slot's request to another package. -/
def State.abroadMsg (s : State) (p : Nat) (b : Body) : Msg :=
  { id := 0, uid := s.me.uid, src := .core s.here, slot := s.num, dst := .pkg p, resp := abroadResp b, ctx := s.rights.ctx, sup := s.rights.sup, body := b }

/-- A request to another package that can be reached is recorded there and sent as one message (R276). -/
theorem State.requestAbroad_eq {s s1 : State} {p : Nat} {what : Abroad} {b : Body} (h : s.requestAbroad p what b = .ok s1)
    (hu : s.isUnreachable s.here p = false) :
    s1 = { ({ s with outstanding := s.outstanding ++ [s.abroadRecord p what] } : State).send (s.abroadMsg p b) with cores := s1.cores } := by
  unfold State.requestAbroad State.requestAbroadAs State.sendAbroad at h
  simp only [hu, Bool.false_and, Bool.false_eq_true, if_false] at h
  split at h
  · cases h
  · obtain rfl := Except.ok.inj h
    exact inject_frame _ _ _ _

/-- Whether the package can be reached or not, a request to it leaves memory, the registers and the slots. -/
theorem State.requestAbroad_frame {s s1 : State} {p : Nat} {what : Abroad} {b : Body} (h : s.requestAbroad p what b = .ok s1) :
    s1.mem = s.mem ∧ s1.regs = s.regs ∧ s1.slots = s.slots ∧ s1.cur = s.cur := by
  unfold State.requestAbroad State.requestAbroadAs State.sendAbroad at h
  dsimp only at h
  split at h
  · cases h
  · obtain rfl := Except.ok.inj h
    rw [inject_frame]
    split <;> exact ⟨rfl, rfl, rfl, rfl⟩

theorem State.me_of_slots {s t : State} (hs : t.slots = s.slots) (hc : t.cur = s.cur) : t.me = s.me := by
  rw [State.me, State.slot, hs, hc]
  rfl

/-- A translation changes translations and may send the heat of its walk (R248, R250). -/
theorem State.translate_eq {s s' : State} {c i va : Nat} {t : Translation} (h : s.translate c i va = .ok (t, s')) :
    s' = { s with cores := s'.cores, net := s'.net, nextId := s'.nextId } := by
  unfold State.translate at h
  split at h
  · cases h; rfl
  · split at h
    · cases h
    · cases h
      rw [State.sendHeat, State.sendHeatFrom]
      split <;> rfl

theorem State.bulkAccess_eq {s s' : State} {c va access key : Nat} {r : Rights} (h : s.bulkAccess c r va access = .ok (key, s')) :
    s' = { s with cores := s'.cores, net := s'.net, nextId := s'.nextId } := by
  unfold State.bulkAccess at h
  split at h
  · split at h <;> cases h
  next t u ht =>
    split at h
    · cases h
    · cases h
      exact translate_eq ht

/-! ### A register that awaits a reply (R99) -/

theorem State.awaitDest_frame (s : State) (d : Nat) :
    s.awaitDest d = { s with cores := (s.awaitDest d).cores, regFull := (s.awaitDest d).regFull, slots := (s.awaitDest d).slots } := by
  unfold State.awaitDest State.markAwaiting
  split
  · rfl
  · split
    · rfl
    · split
      · rfl
      · rw [setRegFull_frame]; rfl

/-- A register marked for a reply is empty and awaits it. -/
theorem State.markAwaiting_register (s : State) {v : Nat} (h0 : v ≠ 0) (h128 : v < 128) :
    (s.markAwaiting s.cur v).regIsFull s.cur v = false ∧ (s.markAwaiting s.cur v).awaits s.cur v = true := by
  have hslot : (s.markAwaiting s.cur v).slot s.cur = { s.me with awaiting := s.me.awaiting ||| (1#128 <<< v) } := by
    rw [State.markAwaiting, if_neg h0, setRegFull_frame]
    exact slot_modSlot_self _ _ _
  have hfull : (s.markAwaiting s.cur v).regFull = Store.set true s.regFull (s.entryOf s.cur v) false := by
    rw [State.markAwaiting, if_neg h0, modSlot_regFull, State.setRegFull, if_neg h0]
  constructor
  · rw [State.regIsFull, State.entryOf, hslot, hfull, Bool.or_eq_false_iff]
    exact ⟨beq_false_of_ne h0, Store.get_set_self _ _ _ _⟩
  · simp only [State.awaits, hslot, bne_iff_ne.mpr h0, Bool.true_and, BitVec.getLsbD_or, BitVec.getLsbD_shiftLeft]
    simp [h128]

theorem State.awaitDest_window {s : State} {d : Nat} (hq : s.me.queueOf d = none) (hm : s.isMail d = false) : s.awaitDest d = s.markAwaiting s.cur d := by
  simp only [State.awaitDest, hq, hm, Bool.false_eq_true, if_false]

/-! ### Posted loads -/

theorem State.advance_credits (s : State) : s.advance.credits = s.credits := rfl

theorem State.consume_credits (s : State) (l : List Nat) : (s.consume l).credits = s.credits := by rw [consume_frame]

theorem State.advance_outstanding (s : State) : s.advance.outstanding = s.outstanding := rfl

theorem State.consume_outstanding (s : State) (l : List Nat) : (s.consume l).outstanding = s.outstanding := by rw [consume_frame]

/-- The state after a load has been posted: LD counts it, its TOUCH bit is set, and d awaits the value (R98, R99, R103). -/
def loadPosted (s1 : State) (key : Nat) (srcs : List Nat) (d : Nat) : State :=
  ((((s1.touch (State.touchBit key)).modMe fun sl => { sl with ld := sl.ld + 1 }).consume srcs).awaitDest d).advance

theorem loadAt_away {s s1 : State} {srcs : List Nat} {d key n : Nat} {sx : Bool} (hd : s.destReady d = .ok ()) (hk : keyNode key ≠ .core s.here)
    (hld : s.me.ld < 63) (hq : s.request (keyNode key) (.load key n sx d) = .ok s1) : loadAt s srcs d key n sx = .ok (loadPosted s1 key srcs d) := by
  simp only [loadAt, hd, hk, Nat.not_le.mpr hld, hq, if_false, loadPosted]

theorem loadAt_full {s : State} {srcs : List Nat} {d key n : Nat} {sx : Bool} (hd : s.destReady d = .ok ()) (hk : keyNode key ≠ .core s.here)
    (hld : 63 ≤ s.me.ld) : loadAt s srcs d key n sx = .error .forfeit := by
  simp only [loadAt, hd, hk, hld, if_true, if_false]

theorem loadPosted_net (s1 : State) (key : Nat) (srcs : List Nat) (d : Nat) : (loadPosted s1 key srcs d).net = s1.net := by
  rw [loadPosted, advance_net, awaitDest_net, consume_net]; rfl

theorem loadPosted_mem (s1 : State) (key : Nat) (srcs : List Nat) (d : Nat) : (loadPosted s1 key srcs d).mem = s1.mem := by
  rw [loadPosted, advance_mem, awaitDest_mem, consume_mem]; rfl

theorem loadPosted_regs (s1 : State) (key : Nat) (srcs : List Nat) (d : Nat) : (loadPosted s1 key srcs d).regs = s1.regs := by
  rw [loadPosted, advance_regs, awaitDest_frame, consume_regs]; rfl

theorem loadPosted_credits (s1 : State) (key : Nat) (srcs : List Nat) (d : Nat) : (loadPosted s1 key srcs d).credits = s1.credits := by
  rw [loadPosted, advance_credits, awaitDest_frame, consume_credits]; rfl

theorem loadPosted_me (s1 : State) (key : Nat) (srcs : List Nat) (d : Nat) : ∃ w, (loadPosted s1 key srcs d).me =
    ({ s1.me with touch := s1.me.touch ||| (1#64 <<< State.touchBit key), ld := s1.me.ld + 1, awaiting := w } : Slot).advance := by
  obtain ⟨w, hw⟩ := awaitDest_me (((s1.touch (State.touchBit key)).modMe fun sl => { sl with ld := sl.ld + 1 }).consume srcs) d
  refine ⟨w, ?_⟩
  rw [loadPosted, advance_me, hw, consume_me, me_modMe, State.touch, me_modMe]

theorem State.advance_register (s : State) (v : Nat) :
    s.advance.regIsFull s.cur v = s.regIsFull s.cur v ∧ s.advance.awaits s.cur v = s.awaits s.cur v := by
  refine ⟨?_, ?_⟩
  · rw [State.regIsFull, advance_entryOf, advance_regFull]; rfl
  · have hme : s.advance.slot s.cur = s.me.advance := advance_me s
    rw [State.awaits, hme]
    rfl

theorem State.awaitDest_register {s : State} {d : Nat} (hq : s.me.queueOf d = none) (hm : s.isMail d = false) (h0 : d ≠ 0) (h128 : d < 128) :
    (s.awaitDest d).advance.regIsFull s.cur d = false ∧ (s.awaitDest d).advance.awaits s.cur d = true := by
  have hcur : (s.awaitDest d).cur = s.cur := by rw [awaitDest_frame]
  have hadv := advance_register (s.awaitDest d) d
  rw [hcur, awaitDest_window hq hm] at hadv
  have hmark := markAwaiting_register s h0 h128
  rw [awaitDest_window hq hm]
  exact ⟨hadv.1.trans hmark.1, hadv.2.trans hmark.2⟩

/-- The register of a posted load is empty and awaits the value. -/
theorem loadPosted_register {s1 : State} {d : Nat} (key : Nat) (srcs : List Nat) (hw : WindowCode s1 d) (h0 : d ≠ 0) :
    (loadPosted s1 key srcs d).regIsFull s1.cur d = false ∧ (loadPosted s1 key srcs d).awaits s1.cur d = true := by
  have hme : (((s1.touch (State.touchBit key)).modMe fun sl => { sl with ld := sl.ld + 1 }).consume srcs).me.queueOf d = none := by
    rw [consume_me, me_modMe, State.touch, me_modMe]
    exact hw.unbound
  have hnum : (((s1.touch (State.touchBit key)).modMe fun sl => { sl with ld := sl.ld + 1 }).consume srcs).num = s1.num := consume_num _ _
  have hcur : (((s1.touch (State.touchBit key)).modMe fun sl => { sl with ld := sl.ld + 1 }).consume srcs).cur = s1.cur := consume_cur _ _
  rw [loadPosted, ← hcur]
  exact awaitDest_register hme (by rw [State.isMail, hnum]; exact hw.noMail) h0 hw.2.1

/-- What a load posted from s leaves, once its request has made s1 (R98, R99, R103). -/
def LoadIsPosted (s s1 t : State) (d : RegCode) (bit : Nat) : Prop :=
  t.net = s1.net ∧ t.credits = s1.credits ∧ t.mem = s.mem ∧ t.me.ld = s.me.ld + 1 ∧ t.me.touch = s.me.touch ||| (1#64 <<< bit) ∧ t.regs = s.regs ∧
  (d ≠ 0 → t.regIsFull s.cur d.toNat = false ∧ t.awaits s.cur d.toNat = true) ∧ (s.me.loops = [] → t.me.pc = s.me.pc + 4)

/-- Slots, registers and memory are those of s. -/
def SameThread (s t : State) : Prop := t.slots = s.slots ∧ t.cur = s.cur ∧ t.mem = s.mem ∧ t.regs = s.regs ∧ t.regFull = s.regFull

theorem SameThread.refl (s : State) : SameThread s s := ⟨rfl, rfl, rfl, rfl, rfl⟩

theorem SameThread.trans {s t u : State} (h : SameThread s t) (k : SameThread t u) : SameThread s u := by
  obtain ⟨h1, h2, h3, h4, h5⟩ := h
  obtain ⟨k1, k2, k3, k4, k5⟩ := k
  exact ⟨k1.trans h1, k2.trans h2, k3.trans h3, k4.trans h4, k5.trans h5⟩

theorem SameThread.me {s t : State} (h : SameThread s t) : t.me = s.me := me_of_slots h.1 h.2.1

theorem SameThread.here {s t : State} (h : SameThread s t) : t.here = s.here := congrArg (· / 64) h.2.1

theorem SameThread.window {s t : State} {v : Nat} (h : SameThread s t) (hw : WindowCode s v) : WindowCode t v := by
  have hnum : t.num = s.num := congrArg (· % 64) h.2.1
  unfold WindowCode State.isMail
  rw [h.me, hnum]
  exact hw

theorem SameThread.awaits {s t : State} {v : Nat} (h : SameThread s t) : t.awaits t.cur v = s.awaits s.cur v := by
  have hme : t.slot t.cur = s.slot s.cur := h.me
  rw [State.awaits, State.awaits, hme]

theorem State.bulkAccess_sameThread {s s0 : State} {c va access key : Nat} {r : Rights} (h : s.bulkAccess c r va access = .ok (key, s0)) :
    SameThread s s0 := by
  rw [bulkAccess_eq h]
  exact ⟨rfl, rfl, rfl, rfl, rfl⟩

theorem State.requestAs_sameThread {s s1 : State} {r : Rights} {dst : Node} {b : Body} (h : s.requestAs r dst b = .ok s1) : SameThread s s1 := by
  rw [requestAs_eq h]
  exact ⟨rfl, rfl, rfl, rfl, rfl⟩

/-- A load of a word elsewhere: s0 is the state once its key is known, s1 once its request has gone out. -/
theorem loadAt_posts {s s0 s1 : State} {srcs : List Nat} {d : RegCode} {key n : Nat} {sx : Bool} (h0 : SameThread s s0) (hw : WindowCode s d.toNat)
    (hd : s0.destReady d.toNat = .ok ()) (hk : keyNode key ≠ .core s0.here) (hld : s.me.ld < 63)
    (hq : s0.request (keyNode key) (.load key n sx d.toNat) = .ok s1) :
    ∃ t, loadAt s0 srcs d.toNat key n sx = .ok t ∧ LoadIsPosted s s1 t d (State.touchBit key) := by
  have h1 : SameThread s s1 := h0.trans (requestAs_sameThread hq)
  have hcur : s1.cur = s.cur := h1.2.1
  obtain ⟨w, hme⟩ := loadPosted_me s1 key srcs d.toNat
  rw [h1.me] at hme
  refine ⟨_, loadAt_away hd hk (by rwa [h0.me]) hq, loadPosted_net .., loadPosted_credits .., (loadPosted_mem ..).trans h1.2.2.1, ?_, ?_,
    (loadPosted_regs ..).trans h1.2.2.2.1, fun hd0 => ?_, fun hl => ?_⟩
  · rw [hme]; rfl
  · rw [hme]; rfl
  · have hn : d.toNat ≠ 0 := fun h => hd0 (BitVec.eq_of_toNat_eq h)
    rw [← hcur]
    exact loadPosted_register key srcs (h1.window hw) hn
  · rw [hme]; exact congrArg Slot.pc (Slot.advance_straight _ hl)

/-! ### Posted stores -/

/-- The state after a store has been posted: ST counts it and its TOUCH bit is set (R98, R100, R103). -/
def storePosted (s1 : State) (bit : Nat) (srcs : List Nat) : State := ((s1.touch bit).modMe fun sl => { sl with st := sl.st + 1 }).completeNone srcs

theorem post_sends {s s1 : State} {srcs : List Nat} {key : Nat} {b : Body} (hst : s.me.st < 63) (hq : s.request (keyNode key) b = .ok s1) :
    post s srcs key b = .ok (storePosted s1 (State.touchBit key) srcs) := by
  simp only [post, Nat.not_le.mpr hst, hq, if_false, storePosted]

theorem post_full {s : State} {srcs : List Nat} {key : Nat} {b : Body} (hst : 63 ≤ s.me.st) : post s srcs key b = .error .forfeit := if_pos hst

theorem storePosted_me (s1 : State) (bit : Nat) (srcs : List Nat) : (storePosted s1 bit srcs).me =
    ({ s1.me with touch := s1.me.touch ||| (1#64 <<< bit), st := s1.me.st + 1 } : Slot).advance := by
  rw [storePosted, completeNone_me, me_modMe, State.touch, me_modMe]

/-- A posted store changes the slots and the queues that its sources pop. -/
theorem storePosted_frame (s1 : State) (bit : Nat) (srcs : List Nat) : (storePosted s1 bit srcs).net = s1.net ∧
    (storePosted s1 bit srcs).credits = s1.credits ∧ (storePosted s1 bit srcs).outstanding = s1.outstanding ∧ (storePosted s1 bit srcs).mem = s1.mem ∧
    (storePosted s1 bit srcs).regs = s1.regs ∧ (storePosted s1 bit srcs).regFull = s1.regFull := by
  rw [storePosted, State.completeNone]
  simp only [advance_net, advance_credits, advance_outstanding, advance_mem, advance_regs, advance_regFull,
    consume_net, consume_credits, consume_outstanding, consume_mem, consume_regs, consume_regFull]
  exact ⟨rfl, rfl, rfl, rfl, rfl, rfl⟩

/-- What a store posted from s leaves of the issuing slot. -/
theorem storePosted_slot {s s1 : State} (h : SameThread s s1) (bit : Nat) (srcs : List Nat) : (storePosted s1 bit srcs).me.st = s.me.st + 1 ∧
    (storePosted s1 bit srcs).me.touch = s.me.touch ||| (1#64 <<< bit) ∧ (s.me.loops = [] → (storePosted s1 bit srcs).me.pc = s.me.pc + 4) := by
  rw [storePosted_me, h.me]
  exact ⟨rfl, rfl, fun hl => congrArg Slot.pc (Slot.advance_straight _ hl)⟩

/-- What a store posted from s leaves, once its request has made s1 (R98, R100, R103). -/
def StoreIsPosted (s s1 t : State) (bit : Nat) : Prop :=
  t.net = s1.net ∧ t.credits = s1.credits ∧ t.mem = s.mem ∧ t.me.st = s.me.st + 1 ∧ t.me.touch = s.me.touch ||| (1#64 <<< bit) ∧ t.regs = s.regs ∧
  t.regFull = s.regFull ∧ (s.me.loops = [] → t.me.pc = s.me.pc + 4)

theorem storeAt_posts {s s0 s1 : State} {srcs : List Nat} {key n : Nat} {v : Word} (h0 : SameThread s s0) (hk : keyNode key ≠ .core s0.here)
    (hst : s.me.st < 63) (hq : s0.request (keyNode key) (.store key n v) = .ok s1) :
    ∃ t, storeAt s0 srcs key n v = .ok t ∧ StoreIsPosted s s1 t (State.touchBit key) := by
  have h1 : SameThread s s1 := h0.trans (requestAs_sameThread hq)
  have ⟨_, _, hmem, hregs, hfull⟩ := h1
  obtain ⟨hnet, hcred, -, hmem', hregs', hfull'⟩ := storePosted_frame s1 (State.touchBit key) srcs
  obtain ⟨hst', htouch, hpc⟩ := storePosted_slot h1 (State.touchBit key) srcs
  exact ⟨_, (if_neg hk).trans (post_sends (by rwa [h0.me]) hq), hnet, hcred, hmem'.trans hmem, hst', htouch, hregs'.trans hregs, hfull'.trans hfull, hpc⟩

/-! ### The instructions by where their address leads -/

section

variable {d a : RegCode} {sz : BitVec 2} {off : BitVec 10} {s : State} {x v : Word} {word : Word} {sx : Bool}

theorem load_spad {c o : Nat} (hx : s.operands word [a.toNat] [d.toNat] = .ok [x])
    (hr : s.resolve s.here s.rights (accessAddr x off (2 ^ sz.toNat)) (2 ^ sz.toNat) = .ok (.spad c o)) :
    load word d a sz off sx s = loadAt s [a.toNat] d.toNat (spadKey c o) (2 ^ sz.toNat) sx := by
  have hr : s.resolve s.here s.rights (arg [x] 0 + imm off * ofNat (sizeOf2 sz)) (sizeOf2 sz) = .ok (.spad c o) := hr
  simp only [load, hx, hr]
  rfl

theorem load_bulk {va key : Nat} {s0 : State} (hx : s.operands word [a.toNat] [d.toNat] = .ok [x])
    (hr : s.resolve s.here s.rights (accessAddr x off (2 ^ sz.toNat)) (2 ^ sz.toNat) = .ok (.bulk va))
    (hb : s.bulkAccess s.here s.rights va 0 = .ok (key, s0)) :
    load word d a sz off sx s = loadAt s0 [a.toNat] d.toNat key (2 ^ sz.toNat) sx := by
  have hr : s.resolve s.here s.rights (arg [x] 0 + imm off * ofNat (sizeOf2 sz)) (sizeOf2 sz) = .ok (.bulk va) := hr
  simp only [load, hx, hr, hb]
  rfl

theorem load_fabric {p : Nat} {y : Word} (hx : s.operands word [a.toNat] [d.toNat] = .ok [x]) (hn : s.num ≠ 63)
    (hr : s.resolve s.here s.rights (accessAddr x off (2 ^ sz.toNat)) (2 ^ sz.toNat) = .ok (.fabric p y)) :
    load word d a sz off sx s = s.migrateLoad p y := by
  have hr : s.resolve s.here s.rights (arg [x] 0 + imm off * ofNat (sizeOf2 sz)) (sizeOf2 sz) = .ok (.fabric p y) := hr
  simp only [load, hx, hr]
  cases s.migrateLoad p y with
  | ok t => rfl
  | error e => exact memStop_of_num s 5 e hn

theorem exec_loads (d a : RegCode) (sz : BitVec 2) (off : BitVec 10) (s : State) (sx : Bool) :
    let i := if sx then Instr.ld d a sz off else Instr.ldz d a sz off
    exec i s = s.finish (load i.word d a sz off sx s) := by
  cases sx <;> rfl

theorem exec_st (d a : RegCode) (sz : BitVec 2) (off : BitVec 10) (s : State) :
    exec (.st d a sz off) s = s.finish (store (Instr.st d a sz off).word d a sz off s) := rfl

theorem store_spad {c o : Nat} (hx : s.operands word [a.toNat, d.toNat] [] = .ok [x, v])
    (hr : s.resolve s.here s.rights (accessAddr x off (2 ^ sz.toNat)) (2 ^ sz.toNat) = .ok (.spad c o)) :
    store word d a sz off s = storeAt s [a.toNat, d.toNat] (spadKey c o) (2 ^ sz.toNat) v := by
  have hr : s.resolve s.here s.rights (arg [x, v] 0 + imm off * ofNat (sizeOf2 sz)) (sizeOf2 sz) = .ok (.spad c o) := hr
  simp only [store, hx, hr]
  rfl

theorem store_bulk {va key : Nat} {s0 : State} (hx : s.operands word [a.toNat, d.toNat] [] = .ok [x, v])
    (hr : s.resolve s.here s.rights (accessAddr x off (2 ^ sz.toNat)) (2 ^ sz.toNat) = .ok (.bulk va))
    (hb : s.bulkAccess s.here s.rights va 1 = .ok (key, s0)) :
    store word d a sz off s = storeAt s0 [a.toNat, d.toNat] key (2 ^ sz.toNat) v := by
  have hr : s.resolve s.here s.rights (arg [x, v] 0 + imm off * ofNat (sizeOf2 sz)) (sizeOf2 sz) = .ok (.bulk va) := hr
  simp only [store, hx, hr, hb]
  rfl

theorem store_fabric {p : Nat} {y : Word} (hx : s.operands word [a.toNat, d.toNat] [] = .ok [x, v])
    (hr : s.resolve s.here s.rights (accessAddr x off (2 ^ sz.toNat)) (2 ^ sz.toNat) = .ok (.fabric p y)) :
    store word d a sz off s = postAbroad s [a.toNat, d.toNat] p y (2 ^ sz.toNat) v := by
  have hr : s.resolve s.here s.rights (arg [x, v] 0 + imm off * ofNat (sizeOf2 sz)) (sizeOf2 sz) = .ok (.fabric p y) := hr
  simp only [store, hx, hr]
  rfl

end

theorem touchBit_spadKey {c o : Nat} (hc : c < 1280) (ho : o < 0x180000) : State.touchBit (spadKey c o) = clusterOf c := by
  have ho' : o < 0x200000 := by omega
  simp only [State.touchBit, isBulk_spadKey hc ho', Bool.false_eq_true, if_false, keyCore_spadKey ho']

theorem touchBit_bulk {key : Nat} (h : isBulk key = true) : State.touchBit key = 40 + keyGroup key := by
  simp only [State.touchBit, h, if_true]

/-- A word of another core is not the issuing core's. -/
theorem keyNode_other {c o : Nat} {s : State} (hne : c ≠ s.here) (hc : c < 1280) (ho : o < 0x180000) : keyNode (spadKey c o) ≠ .core s.here := by
  rw [keyNode_spadKey hc (show o < 0x200000 by omega)]
  exact fun h => hne (Node.core.inj h)

end Sys2Proof.Machine

namespace Sys2Proof.Machine

open State Sys2Proof.Claims

/-! ### Other packages (R102, R282) -/

theorem postAbroad_sends {s s1 : State} {srcs : List Nat} {p n : Nat} {y v : Word} (hst : s.me.st < 63)
    (hq : s.requestAbroad p (.store y) (.fabric y (.store n v)) = .ok s1) :
    postAbroad s srcs p y n v = .ok (storePosted s1 (State.touchFabric p) srcs) := by
  simp only [postAbroad, Nat.not_le.mpr hst, hq, if_false, storePosted]

theorem postAbroad_full {s : State} {srcs : List Nat} {p n : Nat} {y v : Word} (hst : 63 ≤ s.me.st) :
    postAbroad s srcs p y n v = .error .forfeit := if_pos hst

theorem migrateLoad_fixed {s : State} (p : Nat) (y : Word) (h : s.me.mig = false) : s.migrateLoad p y = .error (.trap 0x0F y) := by
  simp only [State.migrateLoad, h, Bool.not_false, if_true]

theorem migrateLoad_busy {s : State} (p : Nat) (y : Word) (hm : s.me.mig = true) (hg : s.me.guest = false)
    (hc : s.me.ld + s.me.st + s.me.tl + s.me.cp ≠ 0) : s.migrateLoad p y = .error .forfeit := by
  simp only [State.migrateLoad, hm, hg, hc, Bool.not_true, Bool.false_and, Bool.false_eq_true, if_false, ne_eq, not_false_eq_true, if_true]

/-- The state after a migrating load has asked package p for a slot: the thread waits for the answer, and TOUCH marks p (R282, R103). -/
def migrationAsked (s s1 : State) (p : Nat) (y : Word) : State :=
  (s1.waitFor s.nextId (.pkg p) y false false []).touch (State.touchFabric p)

/-- A thread that may migrate asks the package for a slot once nothing of it is under way (R282). -/
theorem migrateLoad_asks {s s1 : State} {p : Nat} {y : Word} (hm : s.me.mig = true) (hg : s.me.guest = false)
    (hc : s.me.ld + s.me.st + s.me.tl + s.me.cp = 0) (hi : s.me.intrap = false) (hp : ∀ r < 8, Store.get 0 s.me.ptrs r = 0)
    (hb : ∀ q < 4, s.me.isBound q = false) (hn : (s.liveNames s.here s.num).length + s.me.carried.length ≤ 4)
    (hu : s.isUnreachable s.here p = false) (hq : s.requestAbroad p (.migrate y) (.migrateAsk y) = .ok s1) :
    s.migrateLoad p y = .ok (migrationAsked s s1 p y) := by
  have hptrs : (List.range 8).any (fun i => Store.get 0 s.me.ptrs i != 0) = false :=
    List.any_eq_false.mpr fun r hr => by simpa using hp r (List.mem_range.mp hr)
  have hbinds : (List.range 4).any s.me.isBound = false :=
    List.any_eq_false.mpr fun q hq => by simp [hb q (List.mem_range.mp hq)]
  have hnames : decide (4 < (s.liveNames s.here s.num).length + s.me.carried.length) = false := decide_eq_false (by omega)
  simp only [State.migrateLoad, hm, hg, hc, hi, hptrs, hbinds, hnames, hu, hq, Bool.not_true, Bool.false_and, Bool.or_false, Bool.false_eq_true,
    if_false, ne_eq, not_true_eq_false, migrationAsked]

/-- The quotas that admit a request to another package are those of the rights it goes out under (R267). -/
theorem State.requestAbroad_ok {s : State} (p : Nat) (what : Abroad) (b : Body)
    (h : s.canInject s.here (s.carriers s.rights.ctx s.here (.pkg p)) = true) : ∃ s1, s.requestAbroad p what b = .ok s1 := by
  unfold State.requestAbroad State.requestAbroadAs
  simp only [h, Bool.not_true, Bool.false_eq_true, if_false]
  exact ⟨_, rfl⟩

/-- The message that a request to another package puts into the network. -/
theorem State.requestAbroad_message {s s1 : State} {p : Nat} {what : Abroad} {b : Body} (h : s.requestAbroad p what b = .ok s1)
    (hu : s.isUnreachable s.here p = false) : ∃ m, s1.net = s.net ++ [m] ∧ m.id = s.nextId ∧ m.body = b ∧ m.dst = .pkg p ∧
      m.src = .core s.here ∧ m.credit = none := by
  rw [requestAbroad_eq h hu]
  exact ⟨_, rfl, rfl, rfl, rfl, rfl, rfl⟩

/-- Outside the movement slot a memory access goes out under the slot's own rights (R145). -/
theorem State.rights_of_num {s : State} (h : s.num ≠ 63) : s.rights = s.me.rights := if_neg h

/-- What the thread that asks leaves of itself. -/
theorem migrationAsked_me {s s1 : State} (h : s1.me = s.me) (p : Nat) (y : Word) : ∃ w, (migrationAsked s s1 p y).me =
    { s.me with phase := .parked, park := .remote s.nextId, wait := w, touch := s.me.touch ||| (1#64 <<< (56 + p % 8)) } := by
  obtain ⟨w, hw⟩ := waitFor_me s1 s.nextId (.pkg p) y false false []
  refine ⟨some w, ?_⟩
  rw [migrationAsked, State.touch, me_modMe, hw, h]
  rfl

/-- Settles O22: each access by where its address leads, as the request it posts and what that leaves. -/
theorem remoteAccessesPostRequests : Obligations.RemoteAccessesPostRequests := by
  unfold Obligations.RemoteAccessesPostRequests
  refine ⟨?loadSpad, ?storeSpad, ?loadBulk, ?storeBulk, ?storeFabric, ?loadFabric, ?request, ?requestAbroad⟩
  case loadSpad =>
    intro d a sz off s s1 x c o sx hne hc ho hw hd i hx _ hr
    rw [show exec i s = _ from exec_loads d a sz off s sx, load_spad hx hr]
    have hk : keyNode (spadKey c o) ≠ .core s.here := keyNode_other hne hc ho
    refine ⟨fun hld hq => ?_, fun hld => by rw [loadAt_full hd hk hld]; rfl⟩
    rw [← keyNode_spadKey hc (show o < 0x200000 by omega)] at hq
    obtain ⟨t, ht, h⟩ := loadAt_posts (srcs := [a.toNat]) (.refl s) hw hd hk hld hq
    rw [touchBit_spadKey hc ho] at h
    exact ⟨t, by rw [ht]; rfl, h⟩
  case storeSpad =>
    intro d a sz off s s1 x v c o hne hc ho hx _ hr
    rw [exec_st, store_spad hx hr]
    have hk : keyNode (spadKey c o) ≠ .core s.here := keyNode_other hne hc ho
    refine ⟨fun hst hq => ?_, fun hst => by rw [storeAt, if_neg hk, post_full hst]; rfl⟩
    rw [← keyNode_spadKey hc (show o < 0x200000 by omega)] at hq
    obtain ⟨t, ht, h⟩ := storeAt_posts (srcs := [a.toNat, d.toNat]) (.refl s) hk hst hq
    rw [touchBit_spadKey hc ho] at h
    exact ⟨t, by rw [ht]; rfl, h⟩
  case loadBulk =>
    intro d a sz off s s0 s1 x va key sx hw haw i hx _ _ hr hb hld hq
    have h0 := bulkAccess_sameThread hb
    obtain ⟨hbulk, -⟩ := bulkAccess_frame hb
    have hw0 := h0.window hw
    have hd : s0.destReady d.toNat = .ok () := by rw [destReady_register s0 _ hw0.unbound hw0.noMail, h0.awaits, haw]; rfl
    obtain ⟨t, ht, h⟩ := loadAt_posts (srcs := [a.toNat]) h0 hw hd (keyNode_bulk_ne hbulk _) hld hq
    rw [touchBit_bulk hbulk] at h
    exact ⟨t, by rw [show exec i s = _ from exec_loads d a sz off s sx, load_bulk hx hr hb, ht]; rfl, h⟩
  case storeBulk =>
    intro d a sz off s s0 s1 x v va key hx _ _ hr hb hst hq
    obtain ⟨hbulk, -⟩ := bulkAccess_frame hb
    obtain ⟨t, ht, h⟩ := storeAt_posts (srcs := [a.toNat, d.toNat]) (bulkAccess_sameThread hb) (keyNode_bulk_ne hbulk _) hst hq
    rw [touchBit_bulk hbulk] at h
    exact ⟨t, by rw [exec_st, store_bulk hx hr hb, ht]; rfl, h⟩
  case storeFabric =>
    intro d a sz off s s1 x v p y hx _ hr
    rw [exec_st, store_fabric hx hr]
    refine ⟨fun hst hq => ?_, fun hst => by rw [postAbroad_full hst]; rfl⟩
    obtain ⟨hmem, hregs, hslots, hcur⟩ := requestAbroad_frame hq
    obtain ⟨hnet, -, hout, hmem', hregs', -⟩ := storePosted_frame s1 (State.touchFabric p) [a.toNat, d.toNat]
    have hme : s1.me = s.me := me_of_slots hslots hcur
    have hsl := storePosted_me s1 (State.touchFabric p) [a.toNat, d.toNat]
    rw [hme] at hsl
    refine ⟨_, by rw [postAbroad_sends hst hq]; rfl, hnet, hout, hmem'.trans hmem, ?_, ?_, hregs'.trans hregs, fun hl => ?_⟩
    · rw [hsl]; rfl
    · rw [hsl]; rfl
    · rw [hsl]; exact congrArg Slot.pc (Slot.advance_straight _ hl)
  case loadFabric =>
    intro d a sz off s x p y sx i hx hn hr
    rw [show exec i s = _ from exec_loads d a sz off s sx, load_fabric hx hn hr]
    refine ⟨fun hm => ?_, fun hm hg hc => ?_, fun hm hg hc hi hp hb hnm hu hcan => ?_⟩
    · rw [migrateLoad_fixed p y hm]; rfl
    · rw [migrateLoad_busy p y hm hg hc]; rfl
    · obtain ⟨s1, hq⟩ := requestAbroad_ok p (.migrate y) (.migrateAsk y) (by rw [rights_of_num hn]; exact hcan)
      obtain ⟨hmem, -, hslots, hcur⟩ := requestAbroad_frame hq
      obtain ⟨w, hme⟩ := migrationAsked_me (me_of_slots hslots hcur) p y
      obtain ⟨m, hnet, hid, hbody, hdst, -⟩ := requestAbroad_message hq hu
      refine ⟨migrationAsked s s1 p y, m, by rw [migrateLoad_asks hm hg hc hi hp hb hnm hu hq]; rfl, hnet, hdst, hbody, hid, hmem, ?_⟩
      rw [hme]
      exact ⟨rfl, rfl, rfl, rfl⟩
  case request =>
    intro s s1 dst b hq
    rw [requestAs_eq hq]
    exact ⟨⟨_, rfl, rfl, rfl, rfl, rfl, rfl, rfl⟩, rfl, rfl, rfl, rfl⟩
  case requestAbroad =>
    intro s s1 p what b hq hu
    rw [requestAbroad_eq hq hu]
    exact ⟨_, _, rfl, rfl, rfl, rfl, rfl, rfl, rfl, rfl, rfl, rfl, rfl, rfl⟩

end Sys2Proof.Machine

/-! ## Deliveries (O30) -/

namespace Sys2Proof.Machine

open State Sys2Proof.Claims

/-! ### The table of names (R169, R173) -/

@[simp] theorem State.name_setName_self (s : State) (c i : Nat) (e : NameEntry) : (s.setName c i e).name c i = e := Store.get_set_self _ _ _ _

@[simp] theorem State.name_writeReg (s : State) (t v : Nat) (w : Word) (c i : Nat) : (s.writeReg t v w).name c i = s.name c i := by
  rw [writeReg_frame]; rfl

/-- A refused delivery counts in REF. -/
def State.refused (s : State) (c : Nat) : State := s.modCore c fun x => { x with nameRef := (x.nameRef + 1) % 65536 }

/-- An entry that is FREE, or of another salt, refuses (R173). -/
theorem State.deliver_stale {s : State} {c : Nat} {nm : Word} (v : Word) (r : Rights)
    (h : (s.name c (fld nm 0 9)).state = .free ∨ (s.name c (fld nm 0 9)).salt ≠ fld nm 9 7) : s.deliver c nm v r = (0x08, s.refused c) :=
  if_pos h

/-- Another context's delivery is refused. -/
theorem State.deliver_foreign {s : State} {c : Nat} {nm : Word} (v : Word) {r : Rights} (hf : (s.name c (fld nm 0 9)).state ≠ .free)
    (hs : (s.name c (fld nm 0 9)).salt = fld nm 9 7) (hsup : r.sup = false) (hc : r.ctx ≠ (s.name c (fld nm 0 9)).ctx) :
    s.deliver c nm v r = (0x05, s.refused c) := by
  unfold State.deliver
  rw [if_neg (not_or.mpr ⟨hf, not_not.mpr hs⟩), if_pos (by simp [hsup, hc])]
  rfl

/-- A delivery to a LIVE name writes its register and frees the entry. -/
theorem State.deliver_live {s : State} {c : Nat} {nm : Word} (v : Word) {r : Rights} {n g : Nat} (hl : (s.name c (fld nm 0 9)).state = .live n g)
    (hs : (s.name c (fld nm 0 9)).salt = fld nm 9 7) (hr : r.sup = true ∨ r.ctx = (s.name c (fld nm 0 9)).ctx) :
    s.deliver c nm v r = (0, (s.writeReg (c * 64 + n) g v).freeName c (fld nm 0 9)) := by
  unfold State.deliver
  rw [if_neg (not_or.mpr ⟨by rw [hl]; exact NameState.noConfusion, not_not.mpr hs⟩),
    if_neg (by rcases hr with h | h <;> simp [h])]
  simp only [hl]

theorem State.freeName_name (s : State) (c i : Nat) :
    (s.freeName c i).name c i = { state := .free, salt := ((s.name c i).salt + 1) % 128, ctx := 0 } := name_setName_self _ _ _ _

@[simp] theorem State.freeName_reg (s : State) (c i t v : Nat) : (s.freeName c i).reg t v = s.reg t v := rfl

@[simp] theorem State.freeName_regIsFull (s : State) (c i t v : Nat) : (s.freeName c i).regIsFull t v = s.regIsFull t v := rfl

/-! ### A delivery sent elsewhere (R173) -/

/-- ST of the issuing slot counts one more (R98). -/
def countSt (s : State) : State := s.modMe fun sl => { sl with st := sl.st + 1 }

/-- A value sent to a name of this package, or of a package that can be reached, is one message on the response channel. -/
theorem State.sendDelivery_message {s : State} {c slot uid : Nat} {r : Rights} {nm v : Word} {o : Origin}
    (hu : namePkg nm ≠ s.pkgNum → s.isUnreachable c (namePkg nm) = false) :
    ∃ m os, s.sendDelivery c slot uid r nm v o = { s with net := s.net ++ [m], nextId := s.nextId + 1, outstanding := os } ∧
      m.dst = nameNode s nm ∧ m.body = .deliver nm v o ∧ m.resp = true := by
  unfold State.sendDelivery nameNode
  split
  next => exact ⟨_, s.outstanding, rfl, rfl, rfl, rfl⟩
  next h =>
    rw [State.sendAbroad, if_neg (by simp [hu h])]
    exact ⟨_, _, rfl, rfl, rfl, rfl⟩

theorem State.sendFlits_ok {s t : State} {i : Nat} {dst : Node} {n : Nat} (h : s.canInject s.here (s.carriers i s.here dst) = true) :
    s.sendFlits i dst n t = .ok (t.inject s.here n (s.carriers i s.here dst)) := if_pos h

/-! ### DELIV (R174, R212) -/

theorem State.deliverBarred_iff (s : State) (nm : Word) : s.deliverBarred nm = true ↔
    s.me.mode = 0 ∧ namePkg nm = s.pkgNum ∧ (s.isPager (nameCore nm) = true ∨ s.inPartition s.me.ctx (nameCore nm) = false) := by
  simp only [State.deliverBarred, Bool.and_eq_true, Bool.or_eq_true, beq_iff_eq, Bool.not_eq_true', and_assoc]

section

variable {a b : RegCode} {s : State} {nm v : Word} (ho : s.operands (Instr.deliv a b).word [a.toNat, b.toNat] [] = .ok [nm, v])

include ho

/-- DELIV once its operands are read: its checks in order, then the own table or a message. -/
theorem exec_deliv : exec (.deliv a b) s = s.finish (
    if (!s.nameUsable nm) = true then .error (.trap 0x04 nm)
    else if s.deliverBarred nm = true then .error (.trap 0x05 nm)
    else if s.me.st ≠ 0 then .error .forfeit
    else if s.isOwnName s.here nm = true then
      if (s.deliver s.here nm v s.me.rights).1 = 0 then .ok ((s.deliver s.here nm v s.me.rights).2.completeNone [a.toNat, b.toNat])
      else .ok ((s.deliver s.here nm v s.me.rights).2.takeTrap s.cur (s.deliver s.here nm v s.me.rights).1 nm)
    else s.sendFlits s.me.ctx (nameNode s nm) 1
      (((countSt s).sendDelivery s.here s.num s.me.uid s.me.rights nm v .deliv).completeNone [a.toNat, b.toNat])) := by
  show s.finish (deliv _ a b s) = _
  simp only [deliv, ho]
  rfl

theorem exec_deliv_unusable (hn : s.nameUsable nm = false) : exec (.deliv a b) s = .next (s.takeTrap s.cur 0x04 nm) := by
  rw [exec_deliv ho, if_pos (by simp [hn]), finish_error, stop_trap]

variable (hn : s.nameUsable nm = true)

include hn

theorem exec_deliv_barred (hb : s.deliverBarred nm = true) : exec (.deliv a b) s = .next (s.takeTrap s.cur 0x05 nm) := by
  rw [exec_deliv ho, if_neg (by simp [hn]), if_pos hb, finish_error, stop_trap]

variable (hb : ¬ s.deliverBarred nm = true)

include hb

theorem exec_deliv_pending (hst : s.me.st ≠ 0) : exec (.deliv a b) s = .next s := by
  rw [exec_deliv ho, if_neg (by simp [hn]), if_neg hb, if_pos hst, finish_error, stop_forfeit]

theorem exec_deliv_own (hst : s.me.st = 0) (hown : s.isOwnName s.here nm = true) :
    exec (.deliv a b) s = .next (if (s.deliver s.here nm v s.me.rights).1 = 0 then (s.deliver s.here nm v s.me.rights).2.completeNone [a.toNat, b.toNat]
      else (s.deliver s.here nm v s.me.rights).2.takeTrap s.cur (s.deliver s.here nm v s.me.rights).1 nm) := by
  rw [exec_deliv ho, if_neg (by simp [hn]), if_neg hb, if_neg (not_not.mpr hst), if_pos hown]
  split <;> rfl

theorem exec_deliv_away (hst : s.me.st = 0) (hown : s.isOwnName s.here nm = false)
    (hcan : s.canInject s.here (s.carriers s.me.ctx s.here (nameNode s nm)) = true) :
    exec (.deliv a b) s = .next ((((countSt s).sendDelivery s.here s.num s.me.uid s.me.rights nm v .deliv).completeNone [a.toNat, b.toNat]).inject
      s.here 1 (s.carriers s.me.ctx s.here (nameNode s nm))) := by
  rw [exec_deliv ho, if_neg (by simp [hn]), if_neg hb, if_neg (not_not.mpr hst), if_neg (by simp [hown]), sendFlits_ok hcan, finish_ok]

theorem exec_deliv_sends (hst : s.me.st = 0) (hown : s.isOwnName s.here nm = false)
    (hu : namePkg nm ≠ s.pkgNum → s.isUnreachable s.here (namePkg nm) = false)
    (hcan : s.canInject s.here (s.carriers s.me.ctx s.here (nameNode s nm)) = true) :
    ∃ t m, exec (.deliv a b) s = .next t ∧ t.net = s.net ++ [m] ∧ m.dst = nameNode s nm ∧ m.body = .deliver nm v .deliv ∧ m.resp = true ∧ t.me.st = 1 := by
  obtain ⟨m, os, hsend, hdst, hbody, hresp⟩ := sendDelivery_message (s := countSt s) (c := s.here) (slot := s.num) (uid := s.me.uid)
    (r := s.me.rights) (nm := nm) (v := v) (o := .deliv) hu
  refine ⟨_, m, exec_deliv_away ho hn hb hst hown hcan, ?_, hdst, hbody, hresp, ?_⟩
  · rw [hsend, inject_frame]
    exact consume_net _ _
  · rw [hsend, inject_frame]
    have hme : (countSt s).me = { s.me with st := s.me.st + 1 } := me_modMe _ _
    refine (congrArg Slot.st (completeNone_me _ _)).trans ((congrArg Slot.st hme).trans ?_)
    rw [hst]

end

/-- Settles O30: the table decides a delivery by its entry, and DELIV does so by its checks or sends it on. -/
theorem deliveriesFireOnce : Obligations.DeliveriesFireOnce := by
  unfold Obligations.DeliveriesFireOnce
  refine ⟨fun s c nm v r n g _ _ _ hl hs hr => ?live, fun s c nm v r => deliver_stale v r, fun s c nm v r => deliver_foreign v,
    fun a b s nm v ho => ⟨exec_deliv_unusable ho, fun hn hb => ?barred, fun hn hb => ?pending, fun hn hb => ?own, fun hn hb hst hown hp hcan => ?away,
      fun hn hst hp hu hcan => ?abroad⟩⟩
  case live =>
    obtain ⟨hval, hfull⟩ := writeReg_self s (c * 64 + n) g v (writeReg_base _ _ _ _ _)
    have hname : (((s.writeReg (c * 64 + n) g v).freeName c (fld nm 0 9)).name c (fld nm 0 9)) =
        { state := .free, salt := (fld nm 9 7 + 1) % 128, ctx := 0 } := by rw [freeName_name, name_writeReg, hs]
    rw [deliver_live v hl hs hr]
    refine ⟨rfl, fun hg => hval.trans (if_neg hg), hfull, by rw [hname], by rw [hname], ?_, fun w q => ?_⟩
    · rw [writeReg_frame]; rfl
    · rw [deliver_stale w q (.inl (by rw [hname]))]
  case barred => exact exec_deliv_barred ho hn ((deliverBarred_iff s nm).mpr hb)
  case pending => exact exec_deliv_pending ho hn (fun h => hb ((deliverBarred_iff s nm).mp h))
  case own => exact exec_deliv_own ho hn (fun h => hb ((deliverBarred_iff s nm).mp h))
  case away =>
    have h := exec_deliv_sends ho hn (fun h => hb ((deliverBarred_iff s nm).mp h)) hst hown (fun h => absurd hp h) (by rwa [nameNode, if_pos hp])
    rwa [nameNode, if_pos hp] at h
  case abroad =>
    have hb : ¬ s.deliverBarred nm = true := fun h => hp ((deliverBarred_iff s nm).mp h).2.1
    have hown : s.isOwnName s.here nm = false := by simp [State.isOwnName, hp]
    have h := exec_deliv_sends ho hn hb hst hown (fun _ => hu) (by rwa [nameNode, if_neg hp])
    rwa [nameNode, if_neg hp] at h

end Sys2Proof.Machine

/-! ## Codelets (O33) -/

namespace Sys2Proof.Machine

open State Sys2Proof.Claims

/-! ### A store and the slots -/

/-- s with other slots. -/
def State.withSlots (s : State) (l : Store Slot) : State := { s with slots := l }

theorem State.modMe_eq_withSlots (s : State) (f : Slot → Slot) : s.modMe f = s.withSlots (s.modMe f).slots := rfl

theorem State.modCore_withSlots (s : State) (l : Store Slot) (c : Nat) (f : CoreRec → CoreRec) :
    (s.withSlots l).modCore c f = (s.modCore c f).withSlots l := rfl

theorem State.modMatrix_withSlots (s : State) (l : Store Slot) (c : Nat) (f : Matrix → Matrix) :
    (s.withSlots l).modMatrix c f = (s.modMatrix c f).withSlots l := rfl

theorem State.spoilAcc_withSlots (s : State) (l : Store Slot) (c : Nat) : (s.withSlots l).spoilAcc c = (s.spoilAcc c).withSlots l := by
  rw [spoilAcc_eq, spoilAcc_eq, modMatrix_withSlots]
  rfl

theorem foldl_withSlots {α : Type} {f : State → α → State} (hf : ∀ x l a, f (x.withSlots l) a = (f x a).withSlots l) (as : List α) (s : State)
    (l : Store Slot) : as.foldl f (s.withSlots l) = (as.foldl f s).withSlots l := by
  induction as generalizing s with
  | nil => rfl
  | cons a as ih => rw [List.foldl_cons, List.foldl_cons, hf, ih]

theorem State.write_withSlots (s : State) (l : Store Slot) (key n v : Nat) : (s.withSlots l).write key n v = (s.write key n v).withSlots l := by
  unfold State.write State.markDirty
  split <;> rfl

theorem State.freeBytes_withSlots (s : State) (l : Store Slot) (key n : Nat) : (s.withSlots l).freeBytes key n = (s.freeBytes key n).withSlots l :=
  congrArg (State.freed · ((n + 7) / 8)) (foldl_withSlots (fun x k i => x.write_withSlots k (key + i) 1 _) (List.range n) s l)

theorem State.freeBrick_withSlots (s : State) (l : Store Slot) (c : Nat) (e : Domain × Nat) :
    (s.withSlots l).freeBrick c e = (s.freeBrick c e).withSlots l := by
  unfold State.freeBrick
  dsimp only
  rw [show (s.withSlots l).freed = s.freed.withSlots l from rfl, show (s.withSlots l).free = s.free from rfl,
    show (s.withSlots l).owners e.1 = s.owners e.1 from rfl, write_withSlots]
  exact modCore_withSlots _ _ _ _

/-- What a store leaves undefined does not depend on the slots (R5). -/
theorem State.disturb_withSlots (s : State) (l : Store Slot) (instr : Bool) (key n : Nat) :
    (s.withSlots l).disturb instr key n = (s.disturb instr key n).withSlots l := by
  unfold State.disturb
  rw [show (s.withSlots l).undisturbed instr key n = s.undisturbed instr key n from rfl]
  split
  · rfl
  · rw [show (s.withSlots l).recordsHit = s.recordsHit from rfl, show (s.withSlots l).sequencerHit = s.sequencerHit from rfl,
      show (s.withSlots l).bricksHit = s.bricksHit from rfl, show (s.withSlots l).scalesHit = s.scalesHit from rfl,
      show (s.withSlots l).unseenHit = s.unseenHit from rfl]
    dsimp only
    rw [foldl_withSlots fun x k r => x.freeBytes_withSlots k _ _, foldl_withSlots fun x k e => x.freeBrick_withSlots k _ _]
    split <;> split <;> simp only [modMatrix_withSlots, spoilAcc_withSlots]

theorem State.store_withSlots (s : State) (l : Store Slot) (key n v : Nat) : (s.withSlots l).store key n v = (s.store key n v).withSlots l := by
  rw [State.store, write_withSlots, disturb_withSlots]
  rfl

theorem State.store64_modMe_mem (s : State) (f : Slot → Slot) (key : Nat) (v : Word) : ((s.modMe f).store64 key v).mem = (s.store64 key v).mem := by
  rw [modMe_eq_withSlots, State.store64, store_withSlots]
  rfl

/-! ### A store and the codelet reservations of a core -/

theorem State.coreRec_modCore_res (s : State) (c e : Nat) {f : CoreRec → CoreRec} (h : ∀ r, (f r).res = r.res) :
    ((s.modCore c f).coreRec e).res = (s.coreRec e).res := by
  by_cases he : e = c
  · subst he; rw [coreRec_modCore_self, h]
  · rw [coreRec_modCore_ne _ _ he]

theorem State.freeBytes_cores (s : State) (key n : Nat) : (s.freeBytes key n).cores = s.cores :=
  foldl_keeps State.cores _ (fun _ _ x => x.write_cores _ _ _) s

/-- A store leaves the number of codelet records in use as it is. -/
theorem State.store_res (s : State) (key n v c : Nat) : ((s.store key n v).coreRec c).res = (s.coreRec c).res := by
  have hbytes (l : List (Nat × Nat)) (x : State) (e : Nat) :
      ((l.foldl (fun (x : State) r => x.freeBytes (spadKey e r.1) r.2) x).coreRec c).res = (x.coreRec c).res :=
    foldl_keeps (fun x => (x.coreRec c).res) l (fun r _ x => by rw [State.coreRec, State.coreRec, freeBytes_cores]) x
  have hbricks (l : List (Domain × Nat)) (x : State) (e : Nat) :
      ((l.foldl (fun (x : State) b => x.freeBrick e b) x).coreRec c).res = (x.coreRec c).res :=
    foldl_keeps (fun x => (x.coreRec c).res) l (fun b _ x => by
      unfold State.freeBrick
      refine (coreRec_modCore_res _ _ _ (by intro r; rfl)).trans ?_
      rw [State.coreRec, write_cores]; rfl) x
  have hmatrix (x : State) (e : Nat) (f : Matrix → Matrix) : ((x.modMatrix e f).coreRec c).res = (x.coreRec c).res :=
    coreRec_modCore_res _ _ _ fun _ => rfl
  have hspoil (x : State) (e : Nat) : ((x.spoilAcc e).coreRec c).res = (x.coreRec c).res := by rw [spoilAcc_eq, coreRec_freed, hmatrix]
  have hwrite : ((s.write key n v).coreRec c).res = (s.coreRec c).res := by rw [State.coreRec, State.coreRec, write_cores]
  rw [← hwrite, State.store, State.disturb]
  split
  · rfl
  · dsimp only
    split <;> split <;> simp only [hspoil, hmatrix, hbricks, hbytes]

/-! ### A register write, a word of a record -/

@[simp] theorem State.writeReg_mem (s : State) (t v : Nat) (w : Word) : (s.writeReg t v w).mem = s.mem := by rw [writeReg_frame]
@[simp] theorem State.writeReg_cores (s : State) (t v : Nat) (w : Word) : (s.writeReg t v w).cores = s.cores := by rw [writeReg_frame]
@[simp] theorem State.writeReg_cur (s : State) (t v : Nat) (w : Word) : (s.writeReg t v w).cur = s.cur := by rw [writeReg_frame]
@[simp] theorem State.writeReg_coreRec (s : State) (t v : Nat) (w : Word) (c : Nat) : (s.writeReg t v w).coreRec c = s.coreRec c := by
  rw [State.coreRec, writeReg_cores]; rfl

/-- A field set to what it holds leaves the word. -/
theorem setFld_fld (x : Word) (lo w : Nat) : setFld x lo w (fld x lo w) = x := by
  rw [setFld_eq, Nat.mod_eq_of_lt (show fld x lo w < 2 ^ w from Nat.mod_lt _ (Nat.two_pow_pos w)), ← toNat_eq_parts]
  exact BitVec.ofNat_toNat 64 x

theorem codSet_count (w : Word) (st : Nat) : codSet w (codCount w) st = setFld w 62 2 st := by rw [codSet, codCount, setFld_fld]

theorem State.read64_of_mem {s t : State} (h : t.mem = s.mem) (key : Nat) : t.read64 key = s.read64 key := by
  rw [State.read64, State.read64, State.read, State.read, h]

/-- A word written is read back. -/
theorem State.read64_write64 (s : State) (key : Nat) (v : Word) : (s.write64 key v).read64 key = v := by
  have hv : v.toNat % 256 ^ 8 = v.toNat := Nat.mod_eq_of_lt v.isLt
  rw [State.read64, State.read, State.write64, write_mem, Memory.readN_writeN_self, hv]
  exact BitVec.ofNat_toNat 64 v

/-! ### CINIT (R190, R189) -/

section

variable {d a b : RegCode} {s : State} {x y : Word} {off : Nat}
  (ho : s.operands (Instr.cinit d a b).word [a.toNat, b.toNat] [d.toNat] = .ok [x, y]) (hr : s.resolveOwn x 16 = .ok off)
  (hd : s.destReady d.toNat = .ok ())
  (hz : fld (s.read64 (spadKey s.here off)) 53 9 = 0) (hp : codPc (s.read64 (spadKey s.here off)) % 4 = 0)
  (hl : codPc (s.read64 (spadKey s.here off)) < 0x180000)

include ho hr hd hz hp hl

/-- CINIT of a well-formed record, by its state. -/
theorem exec_cinit (h3 : codSt (s.read64 (spadKey s.here off)) ≠ 3) : exec (.cinit d a b) s = .next (
    if codSt (s.read64 (spadKey s.here off)) ≠ 0 then s.complete [a.toNat, b.toNat] d.toNat 2
    else if 256 ≤ (s.coreRec s.here).res then s.complete [a.toNat, b.toNat] d.toNat 1
    else (if fld y 0 32 = 0 then
        (((s.modCore s.here fun r => { r with res := r.res + 1 }).store64 (spadKey s.here off) (codSet (s.read64 (spadKey s.here off)) 0 2)).pushReady
          s.here off)
      else (s.modCore s.here fun r => { r with res := r.res + 1 }).store64 (spadKey s.here off)
        (codSet (s.read64 (spadKey s.here off)) (fld y 0 32) 1)).complete [a.toNat, b.toNat] d.toNat 0) := by
  have hr : s.resolveOwn (arg [x, y] 0) 16 = .ok off := hr
  have hok : ¬ (fld (s.read64 (spadKey s.here off)) 53 9 ≠ 0 ∨ codSt (s.read64 (spadKey s.here off)) = 3 ∨
      codPc (s.read64 (spadKey s.here off)) % 4 ≠ 0 ∨ Config.spadSize ≤ codPc (s.read64 (spadKey s.here off))) := by
    have hsize : Config.spadSize = 0x180000 := rfl
    omega
  show s.finish (cinit _ d a b s) = _
  simp only [cinit, ho, hr, if_neg hok, hd]
  split
  · rfl
  · split <;> rfl

theorem exec_cinit_arms (h0 : codSt (s.read64 (spadKey s.here off)) = 0) (hres : (s.coreRec s.here).res < 256) (hn : fld y 0 32 ≠ 0) :
    exec (.cinit d a b) s = .next (((s.modCore s.here fun r => { r with res := r.res + 1 }).store64 (spadKey s.here off)
      (codSet (s.read64 (spadKey s.here off)) (fld y 0 32) 1)).complete [a.toNat, b.toNat] d.toNat 0) := by
  rw [exec_cinit ho hr hd hz hp hl (by omega), if_neg (not_not.mpr h0), if_neg (by omega), if_neg hn]

theorem exec_cinit_ready (h0 : codSt (s.read64 (spadKey s.here off)) = 0) (hres : (s.coreRec s.here).res < 256) (hn : fld y 0 32 = 0) :
    exec (.cinit d a b) s = .next ((((s.modCore s.here fun r => { r with res := r.res + 1 }).store64 (spadKey s.here off)
      (codSet (s.read64 (spadKey s.here off)) 0 2)).pushReady s.here off).complete [a.toNat, b.toNat] d.toNat 0) := by
  rw [exec_cinit ho hr hd hz hp hl (by omega), if_neg (not_not.mpr h0), if_neg (by omega), if_pos hn]

theorem exec_cinit_full (h0 : codSt (s.read64 (spadKey s.here off)) = 0) (hres : 256 ≤ (s.coreRec s.here).res) :
    exec (.cinit d a b) s = .next (s.complete [a.toNat, b.toNat] d.toNat 1) := by
  rw [exec_cinit ho hr hd hz hp hl (by omega), if_neg (not_not.mpr h0), if_pos hres]

theorem exec_cinit_used (h : codSt (s.read64 (spadKey s.here off)) = 1 ∨ codSt (s.read64 (spadKey s.here off)) = 2) :
    exec (.cinit d a b) s = .next (s.complete [a.toNat, b.toNat] d.toNat 2) := by
  rw [exec_cinit ho hr hd hz hp hl (by omega), if_pos (by omega)]

end

/-! ### Decrements (R189, R191) -/

theorem State.decrAt_lowers {s : State} {c off m : Nat} (h1 : codSt (s.read64 (spadKey c off)) = 1) (hm : m < codCount (s.read64 (spadKey c off))) :
    s.decrAt c off m = s.store64 (spadKey c off) (codSet (s.read64 (spadKey c off)) (codCount (s.read64 (spadKey c off)) - m) 1) := by
  simp only [State.decrAt, h1, hm, if_true]

theorem State.decrAt_ready {s : State} {c off m : Nat} (h1 : codSt (s.read64 (spadKey c off)) = 1) (hm : codCount (s.read64 (spadKey c off)) ≤ m) :
    s.decrAt c off m = (s.store64 (spadKey c off) (codSet (s.read64 (spadKey c off)) 0 2)).pushReady c off := by
  simp only [State.decrAt, h1, Nat.not_lt.mpr hm, if_true, if_false]

theorem State.decrAt_dropped {s : State} {c off m : Nat} (h1 : codSt (s.read64 (spadKey c off)) ≠ 1) :
    s.decrAt c off m = s.modCore c fun r => { r with qdropDecr := (r.qdropDecr + 1) % 65536 } := if_neg h1

/-- DECR with ST 0: at once on the own core, a posted request to another. -/
theorem exec_decr {a b : RegCode} {s : State} {x y : Word} {c off : Nat} (ho : s.operands (Instr.decr a b).word [a.toNat, b.toNat] [] = .ok [x, y])
    (hr : s.resolveSpad x 16 false = .ok (c, off)) (hst : s.me.st = 0) : exec (.decr a b) s = s.finish (
      if c = s.here then .ok ((s.decrAt c off (fld y 0 32)).completeNone [a.toNat, b.toNat])
      else post s [a.toNat, b.toNat] (spadKey c off) (.decr (spadKey c off) (fld y 0 32))) := by
  have hr : s.resolveSpad (arg [x, y] 0) 16 false = .ok (c, off) := hr
  have hst : ¬ s.me.st ≠ 0 := not_not.mpr hst
  show s.finish (decr _ a b s) = _
  simp only [decr, ho, hr, if_neg hst]
  rfl

theorem exec_decr_away {a b : RegCode} {s s1 : State} {x y : Word} {c off : Nat}
    (ho : s.operands (Instr.decr a b).word [a.toNat, b.toNat] [] = .ok [x, y]) (hr : s.resolveSpad x 16 false = .ok (c, off)) (hst : s.me.st = 0)
    (hne : c ≠ s.here) (hc : c < 1280) (hoff : off < 0x180000) (hq : s.request (.core c) (.decr (spadKey c off) (fld y 0 32)) = .ok s1) :
    exec (.decr a b) s = .next (storePosted s1 (State.touchBit (spadKey c off)) [a.toNat, b.toNat]) := by
  rw [← keyNode_spadKey hc (show off < 0x200000 by omega)] at hq
  rw [exec_decr ho hr hst, if_neg hne, post_sends (by omega) hq, finish_ok]

/-! ### NEXTC (R192) -/

theorem exec_nextc_awaiting {s : State} (hr : (s.coreRec s.here).ready ≠ []) (ha : s.awaits s.cur 1 = true) : exec .nextc s = .next s := by
  have hne : (s.coreRec s.here).ready.isEmpty = false := by simpa using hr
  show Host.Outcome.next (nextc s) = _
  simp only [nextc, ha, hne, Bool.not_false, Bool.and_self, if_true]

/-- With an empty ready ring the running codelet ends and the slot parks for a push. -/
theorem exec_nextc_empty {s : State} (hr : (s.coreRec s.here).ready = []) : exec .nextc s = .next
    (((s.modMe fun sl => { sl with codelet := false }).modMe fun sl => { sl with released := false }).parkMe .ring) := by
  show Host.Outcome.next (nextc s) = _
  simp only [nextc, hr, List.isEmpty_nil, Bool.not_true, Bool.and_false, Bool.false_eq_true, if_false]

/-- The state once NEXTC has taken the record at offset off, with rest left on the ring: IDLE, and its reservation given back. -/
def codeletTaken (s : State) (off : Nat) (rest : List Nat) : State :=
  ((s.modMe fun sl => { sl with codelet := false }).store64 (spadKey s.here off) (setFld (s.read64 (spadKey s.here off)) 62 2 0)).modCore s.here
    fun r => { r with ready := rest, res := r.res - 1 }

/-- The issuing slot as NEXTC starts it in state s1: pc, and the frame at key k (R192). -/
def codeletStart (s1 : State) (pc k : Nat) (sl : Slot) : Slot :=
  { sl.jump pc with fmt := s1.read64 k &&& 0xFFF, scla := s1.read64 (k + 8), sclb := s1.read64 (k + 16), flags := 0, codelet := true }

/-- The state in which the oldest record, at offset off with its frame at offset ao, runs. -/
def codeletRuns (s : State) (off ao : Nat) (rest : List Nat) : State :=
  ((codeletTaken s off rest).modMe (codeletStart (codeletTaken s off rest) (codPc (s.read64 (spadKey s.here off)) / 4 * 4) (spadKey s.here ao))).writeReg
    s.cur 1 (s.read64 (spadKey s.here off + 8))

theorem exec_nextc_runs {s : State} {off ao : Nat} {rest : List Nat} (hr : (s.coreRec s.here).ready = off :: rest) (ha : s.awaits s.cur 1 = false)
    (ho : ownOffset s.here (s.read64 (spadKey s.here off + 8)) = some ao) (hlt : ao + 24 ≤ 0x180000) (h8 : ao % 8 = 0) :
    exec .nextc s = .next (codeletRuns s off ao rest) := by
  have hin : ¬ (Config.spadSize < ao + 24 ∨ ao % 8 ≠ 0) := by
    have hsize : Config.spadSize = 0x180000 := rfl
    omega
  show Host.Outcome.next (nextc s) = _
  simp only [nextc, ha, hr, ho, if_neg hin, Bool.false_and, Bool.false_eq_true, if_false, codSet_count]
  rfl

theorem codeletTaken_mem (s : State) (off : Nat) (rest : List Nat) :
    (codeletTaken s off rest).mem = (s.store64 (spadKey s.here off) (setFld (s.read64 (spadKey s.here off)) 62 2 0)).mem := by
  rw [codeletTaken, modCore_mem, store64_modMe_mem]

theorem codeletTaken_cur (s : State) (off : Nat) (rest : List Nat) : (codeletTaken s off rest).cur = s.cur := by
  have h := store_onlyData (s.modMe fun sl => { sl with codelet := false }) (spadKey s.here off) 8 (setFld (s.read64 (spadKey s.here off)) 62 2 0).toNat
  unfold OnlyData at h
  rw [codeletTaken, modCore_cur, State.store64, h]
  rfl

theorem codeletRuns_mem (s : State) (off ao : Nat) (rest : List Nat) : (codeletRuns s off ao rest).mem = (codeletTaken s off rest).mem := by
  rw [codeletRuns, writeReg_mem, modMe_mem]

theorem codeletRuns_coreRec (s : State) (off ao : Nat) (rest : List Nat) (c : Nat) :
    (codeletRuns s off ao rest).coreRec c = (codeletTaken s off rest).coreRec c := by
  rw [codeletRuns, writeReg_coreRec, coreRec_modMe]

theorem codeletTaken_ready (s : State) (off : Nat) (rest : List Nat) : ((codeletTaken s off rest).coreRec s.here).ready = rest ∧
    ((codeletTaken s off rest).coreRec s.here).res = (s.coreRec s.here).res - 1 := by
  rw [codeletTaken, coreRec_modCore_self]
  exact ⟨rfl, congrArg (· - 1) (store_res _ _ _ _ _)⟩

/-- A change of the issuing slot and a write of a register of it. -/
theorem State.writeReg_modMe_me {β : Type} {g : Slot → β} (hg : IgnoresPark g) (s : State) (f : Slot → Slot) (v : Nat) (w : Word) :
    g ((s.modMe f).writeReg s.cur v w).me = g (f s.me) := by
  rw [State.me, writeReg_cur, modMe_cur, writeReg_keeps hg]
  exact congrArg g (me_modMe s f)

/-- The issuing slot of the codelet, but for its phase and park. -/
theorem codeletRuns_me {β : Type} {g : Slot → β} (hg : IgnoresPark g) (s : State) (off ao : Nat) (rest : List Nat) :
    g (codeletRuns s off ao rest).me = g (codeletStart (codeletTaken s off rest) (codPc (s.read64 (spadKey s.here off)) / 4 * 4) (spadKey s.here ao)
      (codeletTaken s off rest).me) := by
  have h := writeReg_modMe_me hg (codeletTaken s off rest)
    (codeletStart (codeletTaken s off rest) (codPc (s.read64 (spadKey s.here off)) / 4 * 4) (spadKey s.here ao)) 1 (s.read64 (spadKey s.here off + 8))
  rw [codeletTaken_cur] at h
  exact h

/-- What a codelet starts with: its pc, and the special registers of its frame as the store of the record's state leaves them. -/
theorem codeletRuns_start (s : State) (off ao : Nat) (rest : List Nat) :
    let t := codeletRuns s off ao rest
    let u := s.store64 (spadKey s.here off) (setFld (s.read64 (spadKey s.here off)) 62 2 0)
    t.me.codelet = true ∧ t.me.flags = 0 ∧ t.me.pc = codPc (s.read64 (spadKey s.here off)) / 4 * 4 ∧
    t.me.fmt = u.read64 (spadKey s.here ao) &&& 0xFFF ∧ t.me.scla = u.read64 (spadKey s.here ao + 8) ∧ t.me.sclb = u.read64 (spadKey s.here ao + 16) := by
  have hme {β : Type} {g : Slot → β} (hg : IgnoresPark g) := codeletRuns_me hg s off ao rest
  have hword (key : Nat) := read64_of_mem (codeletTaken_mem s off rest) key
  dsimp only
  rw [← hword, ← hword, ← hword]
  generalize codPc (s.read64 (spadKey s.here off)) / 4 * 4 = pc, spadKey s.here ao = k at hme ⊢
  exact ⟨hme (g := Slot.codelet) fun _ _ _ => rfl, hme (g := Slot.flags) fun _ _ _ => rfl, hme (g := Slot.pc) fun _ _ _ => rfl,
    hme (g := Slot.fmt) fun _ _ _ => rfl, hme (g := Slot.scla) fun _ _ _ => rfl, hme (g := Slot.sclb) fun _ _ _ => rfl⟩

/-- A codelet finds its frame's address in g1 (R192). -/
theorem codeletRuns_reg (s : State) (off ao : Nat) (rest : List Nat) :
    (codeletRuns s off ao rest).reg s.cur 1 = s.read64 (spadKey s.here off + 8) := by
  have h := (writeReg_self ((codeletTaken s off rest).modMe
    (codeletStart (codeletTaken s off rest) (codPc (s.read64 (spadKey s.here off)) / 4 * 4) (spadKey s.here ao))) s.cur 1
    (s.read64 (spadKey s.here off + 8)) (writeReg_base _ _ _ _ _)).1
  exact h.trans (if_neg Nat.one_ne_zero)

/-- A record whose word meets nothing else holds its word with state IDLE, and no other byte has changed. -/
theorem codeletTaken_undisturbed {s : State} {off : Nat} (rest : List Nat) (h : s.undisturbed true (spadKey s.here off) 8 = true) :
    (codeletTaken s off rest).read64 (spadKey s.here off) = setFld (s.read64 (spadKey s.here off)) 62 2 0 ∧
    ∀ k, (k < spadKey s.here off ∨ spadKey s.here off + 8 ≤ k) → (codeletTaken s off rest).mem.byte k = s.mem.byte k := by
  have hmem := codeletTaken_mem s off rest
  rw [store64_of_undisturbed _ _ _ h] at hmem
  refine ⟨by rw [read64_of_mem hmem, read64_write64], fun k hk => ?_⟩
  rw [hmem]
  exact write_byte_outside s _ hk

/-- Settles O33: records arm and count down by their state, and NEXTC takes the oldest ready one. -/
theorem codeletsCountDownAndRun : Obligations.CodeletsCountDownAndRun := by
  unfold Obligations.CodeletsCountDownAndRun
  refine ⟨?cinit, fun s c off m => ⟨decrAt_lowers, decrAt_ready, decrAt_dropped⟩, ?decr, ?request, ?empty, fun s => exec_nextc_awaiting, ?runs⟩
  case cinit =>
    intro d a b s x y off ho hr hd key w s1 hz hp hl
    exact ⟨exec_cinit_arms ho hr hd hz hp hl, exec_cinit_ready ho hr hd hz hp hl, exec_cinit_full ho hr hd hz hp hl, exec_cinit_used ho hr hd hz hp hl⟩
  case decr =>
    intro a b s x y c off ho hr hst
    refine ⟨fun hc => by rw [exec_decr ho hr hst, if_pos hc, finish_ok], fun s1 hne hc hoff hq => ?_⟩
    obtain ⟨hnet, -, -, hmem, -⟩ := storePosted_frame s1 (State.touchBit (spadKey c off)) [a.toNat, b.toNat]
    have h1 := requestAs_sameThread hq
    obtain ⟨hst', -⟩ := storePosted_slot h1 (State.touchBit (spadKey c off)) [a.toNat, b.toNat]
    exact ⟨_, exec_decr_away ho hr hst hne hc hoff hq, hnet, by rw [hst', hst], hmem.trans h1.2.2.1⟩
  case request =>
    intro s m x key n ha hr hs hb
    show Host.Outcome.next (decrRequest m s) = _
    simp only [decrRequest, performable_started ha hr hs, hb]
  case empty =>
    intro s hr
    refine ⟨_, exec_nextc_empty hr, ?_, ?_⟩
    · rw [State.parkMe, me_modMe, me_modMe, me_modMe]
    · rw [State.parkMe, modMe_mem, modMe_mem, modMe_mem]
  case runs =>
    intro s off rest ao hr ha ho hlt h8 _ _
    obtain ⟨hcod, hflags, hpc, hframe⟩ := codeletRuns_start s off ao rest
    obtain ⟨hready, hres⟩ := codeletTaken_ready s off rest
    refine ⟨codeletRuns s off ao rest, exec_nextc_runs hr ha ho hlt h8, hcod, hflags, hpc, ⟨codeletRuns_reg s off ao rest, hframe⟩, ?_, ?_, fun hu => ?_⟩
    · rw [codeletRuns_coreRec, hready]
    · rw [codeletRuns_coreRec, hres]
    · rw [read64_of_mem (codeletRuns_mem s off ao rest), codeletRuns_mem]
      exact codeletTaken_undisturbed rest hu

end Sys2Proof.Machine

/-! ## Barrier instructions (O37) -/

namespace Sys2Proof.Machine

open State Sys2Proof.Claims

/-- The operands that an instruction of major 0x26 reads: BSTAT has one, and BARV and BARW read g[b] for b other than 0 (R237). -/
def barSrcs (op : BarOp) (a b : Nat) : List Nat :=
  match op with
  | .stat => [a]
  | .arrive | .arriveWait => if b = 0 then [a] else [a, b]
  | _ => [a, b]

theorem barSrcs_weight (a b : RegCode) : (if b.toNat = 0 then [a.toNat] else [a.toNat, b.toNat]) = if b = 0 then [a.toNat] else [a.toNat, b.toNat] :=
  if_congr ⟨fun h => BitVec.eq_of_toNat_eq h, fun h => by rw [h]; rfl⟩ rfl rfl

section
variable {s : State} {word : Word} {op : BarOp} {d a b n i : Nat} {vs : List Word} {nm : BarName}

/-- A barrier instruction with legal operands forfeits, acts on an object of its own core, or sends its operation (R237, R239, R242). -/
theorem barrierInstr_eq (ho : s.operands word (barSrcs op a b) [d] = .ok vs) (hn : barrierName s.me.group (arg vs 0) = .ok nm)
    (hb : barrierOperand word op b (arg vs 1) = .ok n) (ht : op = .arriveWait → s.me.barwToken = none) :
    barrierInstr word op d a b s =
      if op.arrives && s.me.st != 0 then .error .forfeit
      else if s.barrierHome s.here nm.level = .core s.here then barrierHere s word op (barSrcs op a b) d (barrierKey s.here nm) n (arg vs 0)
      else barrierAway s op (barSrcs op a b) d (barrierKey s.here nm) n (arg vs 0) (s.barrierHome s.here nm.level) := by
  have hs : (if decide (b ≠ 0) = true then [a, b] else [a]) = if b = 0 then [a] else [a, b] := by
    simp only [decide_eq_true_eq, ne_eq, ite_not]
  cases op with
  | arriveWait =>
    have htok := ht rfl
    simp only [barSrcs] at ho ⊢
    unfold barrierInstr
    simp only [hs, ho, hn, hb]
    rw [htok]
    rfl
  | arrive =>
    simp only [barSrcs] at ho ⊢
    unfold barrierInstr
    simp only [hs, ho, hn, hb]
    rfl
  | arm | err | wait | stat =>
    simp only [barSrcs] at ho ⊢
    unfold barrierInstr
    simp only [if_true, Bool.false_eq_true, if_false, ho, hn, hb]
    rfl

/-- An arrival with stores outstanding forfeits (R242). -/
theorem barrierInstr_forfeit (ho : s.operands word (barSrcs op a b) [d] = .ok vs) (hn : barrierName s.me.group (arg vs 0) = .ok nm)
    (hb : barrierOperand word op b (arg vs 1) = .ok n) (ht : op = .arriveWait → s.me.barwToken = none) (ha : op.arrives = true) (hst : s.me.st ≠ 0) :
    barrierInstr word op d a b s = .error .forfeit := by
  rw [barrierInstr_eq ho hn hb ht, if_pos (by rw [ha, bne_iff_ne.mpr hst]; rfl)]

theorem not_arrives_st (h : op.arrives = true → s.me.st = 0) : ¬ (op.arrives && s.me.st != 0) = true := by
  rw [Bool.and_eq_true, bne_iff_ne]
  exact fun ⟨ha, hst⟩ => hst (h ha)

/-- An operation on another home's object is sent. -/
theorem barrierInstr_away (ho : s.operands word (barSrcs op a b) [d] = .ok vs) (hn : barrierName s.me.group (arg vs 0) = .ok nm)
    (hb : barrierOperand word op b (arg vs 1) = .ok n) (ht : op = .arriveWait → s.me.barwToken = none) (ha : op.arrives = true → s.me.st = 0)
    {h : Node} (hh : s.barrierHome s.here nm.level = h) (hc : ∀ c, h ≠ .core c) :
    barrierInstr word op d a b s = barrierAway s op (barSrcs op a b) d (barrierKey s.here nm) n (arg vs 0) h := by
  rw [barrierInstr_eq ho hn hb ht, if_neg (not_arrives_st ha), hh, if_neg (hc _)]

/-! ### The own core -/

/-- A level 1 name is an object of the own core (R232). -/
theorem barrierInstr_own (ho : s.operands word (barSrcs op a b) [d] = .ok vs) (hn : barrierName s.me.group (arg vs 0) = .ok { level := 1, index := i })
    (hb : barrierOperand word op b (arg vs 1) = .ok n) (ht : op = .arriveWait → s.me.barwToken = none) (ha : op.arrives = true → s.me.st = 0) :
    barrierInstr word op d a b s = barrierHere s word op (barSrcs op a b) d (coreObject s i) n (arg vs 0) := by
  have hh : s.barrierHome s.here ({ level := 1, index := i } : BarName).level = .core s.here := rfl
  rw [barrierInstr_eq ho hn hb ht, if_neg (not_arrives_st ha), if_pos hh]
  rfl

theorem barrierHere_refused {srcs : List Nat} {key : Nat} {x : Word} (hr : s.barrierRefuses key s.me.ctx (s.me.mode != 0) = true) :
    barrierHere s word op srcs d key n x = .error (.trap 0x05 x) := if_pos hr

/-- The state after a wait on an object of the own core is held for request req: the object's home keeps it and the thread is parked (R239). -/
def barHeld (s : State) (key : Nat) (token : Bool) (req : Msg) (x : Word) (srcs : List Nat) (d : Nat) : State :=
  (State.waitFor { s with nextId := s.nextId + 1, barWaits := s.barWaits ++ [{ key := key, token := token, req := req }] }
    s.nextId (.core s.here) x true true srcs).waitReg d

theorem barHeld_frame (s : State) (key : Nat) (token : Bool) (req : Msg) (x : Word) (srcs : List Nat) (d : Nat) :
    (barHeld s key token req x srcs d).barWaits = s.barWaits ++ [{ key := key, token := token, req := req }] ∧
    (barHeld s key token req x srcs d).mem = s.mem := ⟨rfl, rfl⟩

/-- A wait that names the register of its result is parked as before. -/
theorem State.waitReg_me (s : State) (d : Nat) : (s.waitReg d).me.phase = s.me.phase ∧ (s.waitReg d).me.park = s.me.park ∧ (s.waitReg d).me.pc = s.me.pc := by
  rw [State.waitReg, me_modMe]
  exact ⟨rfl, rfl, rfl⟩

theorem State.waitFor_waitReg_me (s : State) (k : Nat) (dst : Node) (x : Word) (l b : Bool) (srcs : List Nat) (d : Nat) :
    let t := (s.waitFor k dst x l b srcs).waitReg d
    t.me.phase = .parked ∧ t.me.park = .remote k ∧ t.me.pc = s.me.pc := by
  obtain ⟨hphase, hpark, hpc⟩ := waitReg_me (s.waitFor k dst x l b srcs) d
  obtain ⟨w, hme⟩ := waitFor_me s k dst x l b srcs
  rw [hme] at hphase hpark hpc
  exact ⟨hphase, hpark, hpc⟩

section
variable {srcs : List Nat} {key : Nat} {x : Word} (hr : s.barrierRefuses key s.me.ctx (s.me.mode != 0) = false)
include hr

/-- An operation that does not wait completes with its result (R239). -/
theorem barrierHere_done {s1 : State} {v : Word} (hd : s.destReady d = .ok ()) (hp : s.barrierParks op key n = false)
    (h : s.barrierOp op key n s.me.ctx = (s1, v, none)) : barrierHere s word op srcs d key n x = .ok (s1.complete srcs d v) := by
  simp only [barrierHere, hr, hp, hd, h, Bool.and_false, Bool.false_eq_true, if_false]

/-- A wait that is not over is held, in a thread that is no codelet. -/
theorem barrierHere_held {token : Bool} (hd : s.destReady d = .ok ()) (hc : s.me.codelet = false)
    (h : s.barrierOp op key n s.me.ctx = (s, 0, some token)) : ∃ req : Msg, req.uid = s.me.uid ∧
      barrierHere s word op srcs d key n x = .ok (barHeld s key token req x srcs d) := by
  refine ⟨{ id := s.nextId, uid := s.me.uid, src := .core s.here, slot := s.num, dst := .core s.here, ctx := s.me.ctx
            sup := s.me.mode != 0, body := .barrier op key n d x }, rfl, ?_⟩
  simp only [barrierHere, hr, hc, hd, h, Bool.false_eq_true, Bool.false_and, if_false, barHeld]

/-- A codelet's wait that is not over traps with its word (R78). -/
theorem barrierHere_codelet (hc : s.me.codelet = true) (hp : s.barrierParks op key n = true) :
    barrierHere s word op srcs d key n x = .error (.trap 0x0C word) := by
  simp only [barrierHere, hr, hc, hp, Bool.false_eq_true, Bool.and_true, if_false, if_true]

end

/-- An operation that does not wait, on an object that the thread may use. -/
theorem barrierInstr_done (h : BarrierReady word op b (barSrcs op a b) d s i n) (ht : op = .arriveWait → s.me.barwToken = none) {s1 : State} {v : Word}
    (hp : s.barrierParks op (coreObject s i) n = false) (hop : s.barrierOp op (coreObject s i) n s.me.ctx = (s1, v, none)) :
    barrierInstr word op d a b s = .ok (s1.complete (barSrcs op a b) d v) := by
  obtain ⟨vs, ho, hn, hb, hr, hd, ha⟩ := h
  rw [barrierInstr_own ho hn hb ht ha, barrierHere_done hr hd hp hop]

/-! ### Other homes -/

/-- An operation that does not wait is sent as a load is (R239). -/
theorem barrierAway_asks {srcs : List Nat} {key : Nat} {x : Word} {h : Node} {s1 : State} (hw : op.waits = false) (hp : ∀ q, h ≠ .pkg q)
    (hd : s.destReady d = .ok ()) (hl : s.me.ld < 63) (hq : s.requestAs s.me.rights h (.barrier op key n d x) = .ok s1) :
    barrierAway s op srcs d key n x h = .ok (asked s1 srcs d) := by
  cases h with
  | pkg q => exact absurd rfl (hp q)
  | _ => simp only [barrierAway, hw, hd, Nat.not_le.mpr hl, State.ownRights, hq, Bool.false_and, Bool.false_eq_true, if_false, asked]

/-- A BWAIT or BARW that is sent leaves the rotation until the answer (R239). -/
theorem barrierAway_waits {srcs : List Nat} {key : Nat} {x : Word} {h : Node} {s1 : State} (hw : op.waits = true) (hp : ∀ q, h ≠ .pkg q)
    (hd : s.destReady d = .ok ()) (hc : s.me.codelet = false) (hq : s.requestAs s.me.rights h (.barrier op key n d x) = .ok s1) :
    barrierAway s op srcs d key n x h =
      .ok (((s1.modMe fun sl => { sl with barwToken := none }).waitFor s.nextId h x true true srcs).waitReg d) := by
  cases h with
  | pkg q => exact absurd rfl (hp q)
  | _ => simp only [barrierAway, hw, hd, hc, State.ownRights, hq, Bool.and_false, Bool.false_eq_true, if_false, if_true]

end

/-! ### The phases at the own core -/

/-- A wait that is over gives its result and one that is not goes on with its token (R238). -/
theorem barrierOp_wait (s : State) (key n : Nat) : (∀ v, (s.barrier key).waitNow (n % 2 == 1) = some v → ∀ c, s.barrierOp .wait key n c = (s, v, none)) ∧
    ((s.barrier key).waitNow (n % 2 == 1) = none → ∀ c, s.barrierOp .wait key n c = (s, 0, some (n % 2 == 1))) := by
  refine ⟨fun v h c => ?_, fun h c => ?_⟩
  · simp only [State.barrierOp, h]
  · simp only [State.barrierOp, h]

/-- An arrival that reaches EXPECT opens the phase. -/
theorem Barrier.arrive_opens {b : Barrier} {w : Nat} (hs : b.state = 1) (he : b.expect ≤ b.arrived + w) :
    b.arrive w = { obj := { b with state := 2, arrived := 0, par := !b.par }, result := boolWord b.par, release := some 0 } := by
  simp only [Barrier.arrive, hs, OfNat.one_ne_ofNat, Nat.one_ne_zero, false_and, if_false, if_true, he]

/-- An ARRIVE with a wait whose arrival opens the phase is over with 0 (R237). -/
theorem barrierOp_arriveWait {s : State} {key n : Nat} (hs : (s.barrier key).state = 1) (he : (s.barrier key).err = false)
    (hx : (s.barrier key).expect ≤ (s.barrier key).arrived + n) (c : Nat) :
    s.barrierOp .arriveWait key n c = (s.applyBarrier key ((s.barrier key).arrive n), 0, none) := by
  have harr := Barrier.arrive_opens hs hx
  have hres : ¬ 1 < (boolWord (s.barrier key).par).toNat := by cases (s.barrier key).par <;> decide
  have hnow : ({ s.barrier key with state := 2, arrived := 0, par := !(s.barrier key).par } : Barrier).waitNow (s.barrier key).par = some 0 := by
    simp [Barrier.waitNow, he]
  simp only [State.barrierOp, harr, hres, if_false, hnow]

/-- A user operation on another context's object is refused (R234). -/
theorem barrierRefuses_foreign {s : State} {key : Nat} (hm : s.me.mode = 0) (hs : (s.barrier key).state ≠ 0) (ht : (s.barrier key).tag ≠ s.me.ctx) :
    s.barrierRefuses key s.me.ctx (s.me.mode != 0) = true := by
  simp [State.barrierRefuses, hm, hs, ht]

/-! ### The instructions -/

/-- BWAIT at an object of the own core: over, held, or reported by a codelet. -/
theorem exec_bwait_own {d a b : RegCode} {s : State} {i n : Nat}
    (h : BarrierReady (Instr.bwait d a b).word .wait b.toNat [a.toNat, b.toNat] d.toNat s i n) :
    let bar := s.barrier (coreObject s i)
    (∀ v, bar.waitNow (n % 2 == 1) = some v → exec (.bwait d a b) s = .next (s.complete [a.toNat, b.toNat] d.toNat v)) ∧
    (bar.waitNow (n % 2 == 1) = none → s.me.codelet = false → ∃ t w, exec (.bwait d a b) s = .next t ∧ t.me.phase = .parked ∧ t.me.pc = s.me.pc ∧
      t.barWaits = s.barWaits ++ [w] ∧ w.key = coreObject s i ∧ w.token = (n % 2 == 1) ∧ w.req.uid = s.me.uid ∧ t.mem = s.mem) ∧
    (bar.waitNow (n % 2 == 1) = none → s.me.codelet = true → exec (.bwait d a b) s = .next (s.takeTrap s.cur 0x0C (Instr.bwait d a b).word)) := by
  obtain ⟨hover, hgoes⟩ := barrierOp_wait s (coreObject s i) n
  have ht : BarOp.wait = .arriveWait → s.me.barwToken = none := fun h => nomatch h
  have hx : exec (.bwait d a b) s = s.finish (barrierInstr (Instr.bwait d a b).word .wait d.toNat a.toNat b.toNat s) := rfl
  obtain ⟨vs, ho, hn, hb, hr, hd, ha⟩ := id h
  refine ⟨fun v hv => ?_, fun hv hc => ?_, fun hv hc => ?_⟩
  · rw [hx, barrierInstr_done h ht (by rw [State.barrierParks, hover v hv]; rfl) (hover v hv _), finish_ok]
    rfl
  · obtain ⟨req, huid, heq⟩ := barrierHere_held (word := (Instr.bwait d a b).word) (srcs := [a.toNat, b.toNat]) (x := arg vs 0) hr hd hc (hgoes hv _)
    obtain ⟨hwaits, hmem⟩ := barHeld_frame s (coreObject s i) (n % 2 == 1) req (arg vs 0) [a.toNat, b.toNat] d.toNat
    obtain ⟨hphase, -, hpc⟩ := State.waitFor_waitReg_me
      { s with nextId := s.nextId + 1, barWaits := s.barWaits ++ [{ key := coreObject s i, token := n % 2 == 1, req := req }] }
      s.nextId (.core s.here) (arg vs 0) true true [a.toNat, b.toNat] d.toNat
    refine ⟨_, _, ?_, hphase, hpc, hwaits, rfl, rfl, huid, hmem⟩
    rw [hx, barrierInstr_own ho hn hb ht ha]
    exact congrArg s.finish heq
  · have hp : s.barrierParks .wait (coreObject s i) n = true := by rw [State.barrierParks, hgoes hv]; rfl
    rw [hx, barrierInstr_own ho hn hb ht ha, barrierHere_codelet hr hc hp, finish_error, stop_trap]

/-- An instruction that does not wait, of an object at another home: it forfeits or its operation goes out. -/
theorem barrierInstr_sends {s : State} {word : Word} {op : BarOp} {d a b n : Nat} {vs : List Word} {nm : BarName} (hw : op.waits = false)
    (ho : s.operands word (barSrcs op a b) [d] = .ok vs) (hn : barrierName s.me.group (arg vs 0) = .ok nm)
    (hb : barrierOperand word op b (arg vs 1) = .ok n) :
    (op.arrives = true → s.me.st ≠ 0 → s.finish (barrierInstr word op d a b s) = .next s) ∧
    ∀ s1 h, (op.arrives = true → s.me.st = 0) → s.barrierHome s.here nm.level = h → (∀ c, h ≠ .core c) → (∀ q, h ≠ .pkg q) → s.destReady d = .ok () →
      s.me.ld < 63 → s.requestAs s.me.rights h (.barrier op (barrierKey s.here nm) n d (arg vs 0)) = .ok s1 →
      ∃ t, s.finish (barrierInstr word op d a b s) = .next t ∧ t.net = s1.net ∧ t.me.ld = s.me.ld + 1 := by
  have ht : op = .arriveWait → s.me.barwToken = none := fun h => by rw [h] at hw; exact nomatch hw
  refine ⟨fun ha hst => ?_, fun s1 h ha hh hc hp hd hl hq => ?_⟩
  · rw [barrierInstr_forfeit ho hn hb ht ha hst]; rfl
  · obtain ⟨hnet, hld, -⟩ := asked_frame hq (barSrcs op a b) d
    refine ⟨_, ?_, hnet, hld⟩
    rw [barrierInstr_away ho hn hb ht ha hh hc, barrierAway_asks hw hp hd hl hq, finish_ok]

/-- A BWAIT or BARW of an object at another home leaves the rotation. -/
theorem barrierInstr_sends_wait {s s1 : State} {word : Word} {op : BarOp} {d a b n : Nat} {vs : List Word} {nm : BarName} {h : Node}
    (hw : op.waits = true) (ho : s.operands word (barSrcs op a b) [d] = .ok vs) (hn : barrierName s.me.group (arg vs 0) = .ok nm)
    (hb : barrierOperand word op b (arg vs 1) = .ok n) (ht : s.me.barwToken = none) (ha : op.arrives = true → s.me.st = 0)
    (hh : s.barrierHome s.here nm.level = h) (hc : ∀ c, h ≠ .core c) (hp : ∀ q, h ≠ .pkg q) (hd : s.destReady d = .ok ())
    (hcod : s.me.codelet = false) (hq : s.requestAs s.me.rights h (.barrier op (barrierKey s.here nm) n d (arg vs 0)) = .ok s1) :
    ∃ t, s.finish (barrierInstr word op d a b s) = .next t ∧ t.net = s1.net ∧ t.me.phase = .parked ∧ t.me.park = .remote s.nextId ∧ t.me.pc = s.me.pc := by
  obtain ⟨hphase, hpark, hpc⟩ := State.waitFor_waitReg_me (s1.modMe fun sl => { sl with barwToken := none }) s.nextId h (arg vs 0) true true
    (barSrcs op a b) d
  obtain ⟨hme, -⟩ := requestAs_frame hq
  refine ⟨((s1.modMe fun sl => { sl with barwToken := none }).waitFor s.nextId h (arg vs 0) true true (barSrcs op a b)).waitReg d,
    ?_, ?_, hphase, hpark, ?_⟩
  · rw [barrierInstr_away ho hn hb (fun _ => ht) ha hh hc, barrierAway_waits hw hp hd hcod hq, finish_ok]
  · rw [State.waitReg, modMe_net, State.waitFor, modMe_net, modMe_net]
  · rw [hpc, me_modMe, hme]

/-- Settles O37: by the home of the object, and at the own core by what the operation does to it. -/
theorem barrierInstructionsAct : Obligations.BarrierInstructionsAct := by
  unfold Obligations.BarrierInstructionsAct
  refine ⟨?own, ?stat, ?sends, ?waits, ?refused⟩
  case own =>
    intro d a b s i n key
    refine ⟨fun h => ?arm, fun h => ?arrive, fun h => ?err, exec_bwait_own, fun h ht hs he hx => ?arriveWait⟩
    case arm => exact congrArg s.finish (barrierInstr_done (op := .arm) h (fun h => nomatch h) rfl rfl)
    case arrive =>
      rw [← barSrcs_weight] at h ⊢
      exact congrArg s.finish (barrierInstr_done (op := .arrive) h (fun h => nomatch h) rfl rfl)
    case err => exact congrArg s.finish (barrierInstr_done (op := .err) h (fun h => nomatch h) rfl rfl)
    case arriveWait =>
      rw [← barSrcs_weight] at h ⊢
      exact congrArg s.finish (barrierInstr_done (op := .arriveWait) h (fun _ => ht) (by rw [State.barrierParks, barrierOp_arriveWait hs he hx]; rfl)
        (barrierOp_arriveWait hs he hx _))
  case stat =>
    intro d a s i n h
    exact congrArg s.finish (barrierInstr_done (op := .stat) h (fun h => nomatch h) rfl rfl)
  case sends =>
    intro d a b s s1 vs nm n h two p hp ho hn hb
    simp only [List.mem_cons, List.not_mem_nil, or_false] at hp
    rcases hp with rfl | rfl | rfl | rfl
    · obtain ⟨hf, hs⟩ := barrierInstr_sends (op := .arm) rfl ho hn hb
      exact ⟨hf, hs s1 h⟩
    · obtain ⟨hf, hs⟩ := barrierInstr_sends (op := .arrive) rfl (by rw [barSrcs, barSrcs_weight]; exact ho) hn hb
      exact ⟨hf, hs s1 h⟩
    · obtain ⟨hf, hs⟩ := barrierInstr_sends (op := .err) rfl ho hn hb
      exact ⟨hf, hs s1 h⟩
    · obtain ⟨hf, hs⟩ := barrierInstr_sends (op := .stat) rfl ho hn hb
      exact ⟨hf, hs s1 h⟩
  case waits =>
    intro d a b s s1 vs nm n h two p hp ho hn hb ht ha hh hc hpkg hd hcod hq
    simp only [List.mem_cons, List.not_mem_nil, or_false] at hp
    rcases hp with rfl | rfl
    · exact barrierInstr_sends_wait (op := .wait) rfl ho hn hb ht ha hh hc hpkg hd hcod hq
    · exact barrierInstr_sends_wait (op := .arriveWait) rfl (by rw [barSrcs, barSrcs_weight]; exact ho) hn hb ht ha hh hc hpkg hd hcod hq
  case refused =>
    intro d a s x i ho hn hm hs ht
    have hx : exec (.bstat d a) s = s.finish (barrierInstr (Instr.bstat d a).word .stat d.toNat a.toNat 0 s) := rfl
    rw [hx, barrierInstr_own (op := .stat) (vs := [x]) ho hn rfl (fun h => nomatch h) (fun h => nomatch h),
      barrierHere_refused (barrierRefuses_foreign hm hs ht), finish_error, stop_trap]
    rfl

end Sys2Proof.Machine

/-! ## Pages (O57) -/

namespace Sys2Proof.Machine

open State Sys2Proof.Claims

/-! ### Page operations under way -/

theorem State.agentSend_sends (s : State) (src dst : Node) (i : Nat) (sup : Bool) (b : Body) : Sends s (s.agentSend src dst i sup b) [(dst, b)] :=
  ⟨[_], rfl, rfl⟩

/-- An agent's message and one under its own number. -/
theorem State.agentSend_sendAs_sends (s : State) (src dst : Node) (i : Nat) (sup : Bool) (b : Body) (y : Msg) :
    Sends s ((s.agentSend src dst i sup b).sendAs y) [(dst, b), (y.dst, y.body)] :=
  ⟨[_, _], List.append_assoc _ _ _, rfl⟩

theorem sends_of_net {s s' t : State} {l : List (Node × Body)} (h : s.net = s'.net) : Sends s t l → Sends s' t l := by
  rintro ⟨ms, hms, hl⟩
  exact ⟨ms, by rw [hms, h], hl⟩

/-- The operation that is recorded for the issuing thread (R257). -/
def pageRecord (s : State) (o : PageOp) : PageOp := { o with id := s.nextId, uid := s.me.uid, core := s.here }

/-- A page operation that starts: it is recorded, and its thread leaves the rotation with its pc kept (R257). -/
theorem State.startPage_thread (s : State) (o : PageOp) : (s.startPage o).me.phase = .parked ∧ (s.startPage o).me.pc = s.me.pc := by
  obtain ⟨w, hme⟩ := waitFor_me { s with pageOps := s.pageOps ++ [pageRecord s o], nextId := s.nextId + 1 } s.nextId (.core s.here) 0 false false []
  have hme' : (s.startPage o).me = _ := hme
  rw [hme']
  exact ⟨rfl, rfl⟩

theorem State.startPage_frame (s : State) (o : PageOp) : (s.startPage o).mem = s.mem ∧ (s.startPage o).net = s.net ∧
    (s.startPage o).pageOps = s.pageOps ++ [pageRecord s o] := ⟨rfl, rfl, rfl⟩

theorem State.sendInval_frame (s : State) (op c i va bits : Nat) (all : Bool) (path : List Nat) :
    (s.sendInval op c i va bits all path).mem = s.mem ∧ (s.sendInval op c i va bits all path).pageOps = s.pageOps ∧
    Sends s (s.sendInval op c i va bits all path) [(.core (path.headD 0), .invalidate op i va bits all path)] := ⟨rfl, rfl, agentSend_sends ..⟩

/-- A page operation that starts with an invalidation. -/
theorem inval_started (s : State) (o : PageOp) (op c i va bits : Nat) (all : Bool) (path : List Nat) :
    let t := (s.startPage o).sendInval op c i va bits all path
    t.me.phase = .parked ∧ t.me.pc = s.me.pc ∧ t.mem = s.mem ∧ t.pageOps = s.pageOps ++ [pageRecord s o] ∧
    Sends s t [(.core (path.headD 0), .invalidate op i va bits all path)] := by
  obtain ⟨hmem, hops, hsends⟩ := sendInval_frame (s.startPage o) op c i va bits all path
  obtain ⟨hphase, hpc⟩ := startPage_thread s o
  obtain ⟨hmem0, hnet0, hops0⟩ := startPage_frame s o
  exact ⟨hphase, hpc, hmem.trans hmem0, hops.trans hops0, sends_of_net hnet0 hsends⟩

/-! ### The operands -/

section
variable {s : State} {word x y : Word} {kind : PageKind} {d bits : Nat}

theorem pageOperands_ok (h : s.runOperands word [d, d + 1] [d, d + 1] [] = .ok [x, y])
    (hc : checkOperand kind (if kind = .heat then y else x) bits = .ok ()) (hcod : s.me.codelet = false) : pageOperands word kind d bits s = .ok (x, y) := by
  have hc' : checkOperand kind (if kind = .heat then arg [x, y] 1 else arg [x, y] 0) bits = .ok () := hc
  simp only [pageOperands, h, hc', hcod, Bool.false_eq_true, if_false]
  rfl

end

/-- The page instructions are kernel-mode's (R257). -/
theorem exec_page_user (d : RegCode) (size : BitVec 2) {s : State} (hm : s.me.mode = 0) :
    ∀ i ∈ [Instr.pinval d size, .pmap d, .pmove d, .pheat d], exec i s = .next (s.takeTrap s.cur 0x0D i.word) := by
  intro i hi
  simp only [List.mem_cons, List.not_mem_nil, or_false] at hi
  rcases hi with rfl | rfl | rfl | rfl
  · exact congrArg s.finish (if_pos hm)
  · exact congrArg s.finish (if_pos hm)
  · exact congrArg s.finish (if_pos hm)
  · exact congrArg s.finish (if_pos hm)

/-! ### PINVAL (R258) -/

section
variable {d : RegCode} {size : BitVec 2} {s : State} {o w : Word} {r : Rect}

/-- The invalidation that a PINVAL starts. -/
def invalOp (o w : Word) (r : Rect) : PageOp :=
  { id := 0, uid := 0, core := 0, kind := .inval, reg := 0, operand := o, arg := w, pending := r.snake.length }

theorem exec_pinval (hm : s.me.mode ≠ 0) (hcod : s.me.codelet = false)
    (ho : s.runOperands (Instr.pinval d size).word [d.toNat, d.toNat + 1] [d.toNat, d.toNat + 1] [] = .ok [o, w])
    (hc : checkOperand .inval o (pageBits size.toNat) = .ok ()) (hr : State.resolveRect s.here w (Instr.pinval d size).word = .ok r) :
    exec (.pinval d size) s = if s.me.st ≠ 0 then .next s else .next ((s.startPage (invalOp o w r)).sendInval s.nextId s.here (opCtx o) (opVa o)
      (pageBits size.toNat) (opAll o) r.snake) := by
  have hp : pageOperands (Instr.pinval d size).word .inval d.toNat (pageBits size.toNat) s = .ok (o, w) := pageOperands_ok ho hc hcod
  show s.finish (pinval (Instr.pinval d size).word d size s) = _
  simp only [pinval, if_neg hm, hp, hr]
  split
  · rfl
  · rfl

end

/-! ### Invalidations and their acknowledgements (R258) -/

theorem invalidates_iff (i va bits : Nat) (all : Bool) (e : Translation) : invalidates i va bits all e = true ↔
    e.ctx = i ∧ (all = true ∨ (e.va < va + 2 ^ bits ∧ va < e.va + 2 ^ spanBits e.level)) := by
  simp only [invalidates, Bool.and_eq_true, Bool.or_eq_true, beq_iff_eq, decide_eq_true_eq]

theorem State.findMsg_of_arrived {s : State} {m : Nat} {x : Msg} (h : s.arrived m = some x) : s.findMsg m = some x := by
  unfold State.arrived at h
  split at h
  next y hy =>
    split at h
    · rw [hy, h]
    · cases h
  · cases h

/-- A message that arrives at a core leaves its cached translations. -/
theorem State.dropMsg_tlb {s : State} {m c : Nat} {x : Msg} (h : s.arrived m = some x) (hd : x.dst = .core c) :
    ((s.dropMsg m).coreRec c).tlb = (s.coreRec c).tlb := by
  have hrec : (s.dropMsg m).coreRec c = ({ s with cores := s.coresReached m } : State).coreRec c := rfl
  rw [hrec, coreRec_coresReached (findMsg_of_arrived h) hd, if_pos rfl]

/-- Core c after an invalidation: it is taken out of the network and the translations it names are gone. -/
def invalidated (s : State) (m c i va bits : Nat) (all : Bool) : State :=
  (s.dropMsg m).modCore c fun r => { r with tlb := r.tlb.filter fun t => !invalidates i va bits all t }

theorem invalidated_tlb {s : State} {m c : Nat} {x : Msg} (h : s.arrived m = some x) (hd : x.dst = .core c) (i va bits : Nat) (all : Bool)
    (e : Translation) : e ∈ ((invalidated s m c i va bits all).coreRec c).tlb ↔
      e ∈ (s.coreRec c).tlb ∧ ¬ (e.ctx = i ∧ (all = true ∨ (e.va < va + 2 ^ bits ∧ va < e.va + 2 ^ spanBits e.level))) := by
  rw [invalidated, coreRec_modCore_self]
  dsimp only
  rw [dropMsg_tlb h hd, List.mem_filter, Bool.not_eq_true', ← invalidates_iff, Bool.not_eq_true]

section
variable {s : State} {m c : Nat} {x : Msg} {op i va bits : Nat} {all : Bool} {path : List Nat}

theorem exec_invalidation (ha : s.arrived m = some x) (hb : x.body = .invalidate op i va bits all path) (hd : x.dst = .core c) :
    exec (.invalidation m) s = .next (if bulkInFlight s c i || !s.takesCopy c then s else
      match path.drop 1 with
      | [] => (invalidated s m c i va bits all).agentSend (.core c) x.src 0 true (.invalidated op)
      | n :: l => ((invalidated s m c i va bits all).agentSend (.core c) x.src 0 true (.invalidated op)).sendAs
          { x with dst := .core n, body := .invalidate op i va bits all (n :: l) }) := by
  show Host.Outcome.next (invalidation m s) = _
  simp only [invalidation, ha, hb, hd, invalidated] <;> rfl

/-- An acknowledgement: the last one of a PINVAL ends it, another is counted. -/
theorem exec_invalidationAck {o : PageOp} (ha : s.arrived m = some x) (hb : x.body = .invalidated op) (ho : s.pageOp op = some o) :
    exec (.invalidationAck m) s = .next (if o.pending ≤ 1 ∧ o.kind = .inval then (s.dropMsg m).endPage o none
      else { s.dropMsg m with pageOps := s.pageOps.map fun y => if y.id = op then { y with pending := y.pending - 1 } else y }) := by
  have ho' : (s.dropMsg m).pageOp op = some o := ho
  show Host.Outcome.next (invalidationAck m s) = _
  simp only [invalidationAck, ha, hb, ho', dropMsg_pageOps]

end

/-! ### PMAP (R259) -/

section
variable {d : RegCode} {s : State} {o e : Word}

/-- The walk that a PMAP starts. -/
def mapOp (d : RegCode) (o e : Word) : PageOp := { id := 0, uid := 0, core := 0, kind := .map, reg := d.toNat, operand := o, arg := e }

theorem exec_pmap (hm : s.me.mode ≠ 0) (hcod : s.me.codelet = false)
    (ho : s.runOperands (Instr.pmap d).word [d.toNat, d.toNat + 1] [d.toNat, d.toNat + 1] [] = .ok [o, e]) (hc : checkOperand .map o 0 = .ok ()) :
    (e ≠ 0 → (bitAt e 0 = false ∨ malformed e (opLevel o) = true) → exec (.pmap d) s = .next (s.takeTrap s.cur 0x01 e)) ∧
    ((e = 0 ∨ (bitAt e 0 = true ∧ malformed e (opLevel o) = false)) → s.me.st = 0 → s.destReady d.toNat = .ok () →
      exec (.pmap d) s = .next (s.startPage (mapOp d o e))) := by
  have hp : pageOperands (Instr.pmap d).word .map d.toNat 0 s = .ok (o, e) := pageOperands_ok ho hc hcod
  have hx : exec (.pmap d) s = s.finish (pmap (Instr.pmap d).word d s) := rfl
  refine ⟨fun hz hbad => ?_, fun hgood hst hd => ?_⟩
  · have hill : e ≠ 0 ∧ (!bitAt e 0 || malformed e (opLevel o)) = true := ⟨hz, by rw [Bool.or_eq_true, Bool.not_eq_true']; exact hbad⟩
    simp only [hx, pmap, if_neg hm, hp, if_pos hill, finish_error, stop_trap]
  · have hok : ¬ (e ≠ 0 ∧ (!bitAt e 0 || malformed e (opLevel o)) = true) := by
      rintro ⟨hz, hbad⟩
      rcases hgood with h0 | ⟨hv, hf⟩
      · exact hz h0
      · rw [hv, hf] at hbad
        exact nomatch hbad
    have hst' : ¬ s.me.st ≠ 0 := not_not.mpr hst
    simp only [hx, pmap, if_neg hm, hp, if_neg hok, if_neg hst', hd, finish_ok, mapOp]

/-- A PMAP's walk ends with its code, is refused by an entry that migrates, or writes its entry (R259). -/
theorem exec_pmapComplete {id : Nat} {p : PageOp} (ho : s.pageOp id = some p) (hk : p.kind = .map) :
    (∀ v, s.entryKey p.operand = .error v → exec (.pmapComplete id) s = .next (s.endPage p (some v))) ∧
    (∀ key, s.entryKey p.operand = .ok key → exec (.pmapComplete id) s = .next (if bitAt (s.read64 key) 4 then s.endPage p (some 0xFFFFFFFFFFFFFFFD)
      else (if bitAt p.arg 1 then (s.write64 key p.arg).clearHeat p.arg else s.write64 key p.arg).endPage p (some (s.read64 key)))) := by
  have hx : exec (.pmapComplete id) s = .next (pmapComplete id s) := rfl
  refine ⟨fun v hv => ?_, fun key hv => ?_⟩
  · simp only [hx, pmapComplete, ho, hk, if_true, hv]
  · simp only [hx, pmapComplete, ho, hk, if_true, hv]

end

/-! ### PMOVE (R260) -/

section
variable {d : RegCode} {s : State} {o f : Word} {key : Nat}

/-- The move that a PMOVE starts. -/
def moveOp (d : RegCode) (o f : Word) (key : Nat) : PageOp :=
  { id := 0, uid := 0, core := 0, kind := .move, reg := d.toNat, operand := o, arg := f, pending := wholePackage.snake.length, leafKey := key }

/-- The state after a PMOVE has set MIG in its leaf and sent the shoot-down. -/
def moveStarted (d : RegCode) (o f : Word) (key : Nat) (s : State) : State :=
  ((s.write64 key (setFld (s.read64 key) 4 1 1)).startPage (moveOp d o f key)).sendInval s.nextId s.here (opCtx o) (opVa o) (spanBits (opLevel o)) false
    wholePackage.snake

theorem exec_pmove (hm : s.me.mode ≠ 0) (hcod : s.me.codelet = false)
    (ho : s.runOperands (Instr.pmove d).word [d.toNat, d.toNat + 1] [d.toNat, d.toNat + 1] [] = .ok [o, f]) (hc : checkOperand .move o 0 = .ok ())
    (hf : fld f 39 25 = 0) (hal : f.toNat % 2 ^ spanBits (opLevel o) = 0) (hst : s.me.st = 0) (hd : s.destReady d.toNat = .ok ())
    (hkey : s.entryKey o = .ok key) (hv : bitAt (s.read64 key) 0 = true) (hok : malformed (s.read64 key) (opLevel o) = false)
    (hl : bitAt (s.read64 key) 1 = true) (hmig : bitAt (s.read64 key) 4 = false) : exec (.pmove d) s = .next (moveStarted d o f key s) := by
  have hp : pageOperands (Instr.pmove d).word .move d.toNat 0 s = .ok (o, f) := pageOperands_ok ho hc hcod
  have hx : exec (.pmove d) s = s.finish (pmove (Instr.pmove d).word d s) := rfl
  have hlegal : ¬ (fld f 39 25 ≠ 0 ∨ f.toNat % 2 ^ spanBits (opLevel o) ≠ 0) := by rw [hf, hal]; simp
  have hst' : ¬ s.me.st ≠ 0 := not_not.mpr hst
  simp only [hx, pmove, if_neg hm, hp, if_neg hlegal, if_neg hst', hd, hkey, hv, hok, hl, hmig, Bool.not_true, Bool.or_false, Bool.false_eq_true, if_false,
    finish_ok, moveStarted, moveOp]

theorem State.write64_frame (s : State) (key : Nat) (v : Word) : (s.write64 key v).nextId = s.nextId ∧ (s.write64 key v).net = s.net ∧
    (s.write64 key v).pageOps = s.pageOps ∧ (s.write64 key v).slots = s.slots ∧ (s.write64 key v).heat = s.heat := by
  rw [State.write64, write_frame]
  exact ⟨rfl, rfl, rfl, rfl, rfl⟩

theorem pageRecord_write64 (s : State) (key : Nat) (v : Word) (p : PageOp) : pageRecord (s.write64 key v) p = pageRecord s p := by
  rw [State.write64, write_frame]
  rfl

theorem moveStarted_frame (d : RegCode) (o f : Word) (key : Nat) (s : State) :
    (moveStarted d o f key s).me.phase = .parked ∧ (moveStarted d o f key s).mem = (s.write64 key (setFld (s.read64 key) 4 1 1)).mem ∧
    (moveStarted d o f key s).pageOps = s.pageOps ++ [pageRecord s (moveOp d o f key)] ∧
    Sends s (moveStarted d o f key s)
      [(.core 0, .invalidate s.nextId (opCtx o) (opVa o) (spanBits (opLevel o)) false wholePackage.snake)] := by
  obtain ⟨hphase, -, hmem, hops, hsends⟩ := inval_started (s.write64 key (setFld (s.read64 key) 4 1 1)) (moveOp d o f key) s.nextId s.here (opCtx o)
    (opVa o) (spanBits (opLevel o)) false wholePackage.snake
  obtain ⟨-, hnet, hops0, -, -⟩ := write64_frame s key (setFld (s.read64 key) 4 1 1)
  rw [hops0, pageRecord_write64] at hops
  exact ⟨hphase, hmem, hops, sends_of_net hnet hsends⟩

end

theorem State.clearHeat_mem (s : State) (e : Word) : (s.clearHeat e).mem = s.mem := by
  unfold State.clearHeat
  split
  · rfl
  · rfl

/-- The heat word of a leaf with H = 1 is 0 once cleared (R250). -/
theorem State.clearHeat_heat (s : State) {e : Word} (h : bitAt e 5 = true) : Store.get 0 (s.clearHeat e).heat (heatOf e) = 0 := by
  rw [State.clearHeat, if_pos h]
  exact Store.get_set_self 0 s.heat (heatOf e) 0

/-- The state after a PMOVE, once acknowledged, has copied its page and written its leaf, with MIG 0 and the new frame; its thread still waits. -/
def pageMoved (s : State) (o : PageOp) : State :=
  let e := setFld (s.read64 o.leafKey) 4 1 0
  ((s.writeBytes (bulkKey o.arg.toNat) (s.readBytes (bulkKey (fld e 9 30 * 512)) (2 ^ spanBits (opLevel o.operand))) []).write64 o.leafKey
    (setFld e 9 30 (o.arg.toNat / 512))).clearHeat e

theorem exec_pmoveCopyDone {s : State} {id : Nat} {o : PageOp} (ho : s.pageOp id = some o) (hk : o.kind = .move) (hp : o.pending = 0) :
    exec (.pmoveCopyDone id) s = .next ((pageMoved s o).endPage o (some (setFld (s.read64 o.leafKey) 4 1 0))) := by
  show Host.Outcome.next (pmoveCopyDone id s) = _
  simp only [pmoveCopyDone, ho, if_pos (And.intro hk hp), pageMoved]

theorem pageMoved_leaf (s : State) (o : PageOp) :
    (pageMoved s o).read64 o.leafKey = setFld (setFld (s.read64 o.leafKey) 4 1 0) 9 30 (o.arg.toNat / 512) := by
  rw [pageMoved, read64_of_mem (clearHeat_mem _ _), read64_write64]

/-- The new frame holds the old one's bytes, where the leaf is not in it. -/
theorem pageMoved_byte {s : State} {o : PageOp}
    (hout : o.leafKey + 8 ≤ 2 ^ 40 + o.arg.toNat ∨ 2 ^ 40 + o.arg.toNat + 2 ^ spanBits (opLevel o.operand) ≤ o.leafKey)
    {b : Nat} (hb : b < 2 ^ spanBits (opLevel o.operand)) :
    (pageMoved s o).mem.byte (2 ^ 40 + o.arg.toNat + b) = s.mem.byte (2 ^ 40 + fld (setFld (s.read64 o.leafKey) 4 1 0) 9 30 * 512 + b) := by
  dsimp only [pageMoved]
  generalize 2 ^ spanBits (opLevel o.operand) = n at hout hb ⊢
  rw [clearHeat_mem, State.write64, write_byte_outside _ _ (by omega), writeBytes_byte, bulkKey, if_pos (by rw [readBytes_length]; omega),
    Nat.add_sub_cancel_left, readBytes_getD _ _ hb, BitVec.ofNat_toNat, BitVec.setWidth_eq]
  rfl

/-! ### PHEAT and heat words (R250, R261) -/

section
variable {d : RegCode} {s : State} {o w : Word}

/-- The walk that a PHEAT starts. -/
def heatOp (d : RegCode) (o : Word) : PageOp := { id := 0, uid := 0, core := 0, kind := .heat, reg := d.toNat, operand := o, arg := 0 }

theorem exec_pheat (hm : s.me.mode ≠ 0) (hcod : s.me.codelet = false)
    (ho : s.runOperands (Instr.pheat d).word [d.toNat, d.toNat + 1] [d.toNat, d.toNat + 1] [] = .ok [w, o]) (hc : checkOperand .heat o 0 = .ok ())
    (hd : s.destReady d.toNat = .ok ()) : exec (.pheat d) s = .next (s.startPage (heatOp d o)) := by
  have hp : pageOperands (Instr.pheat d).word .heat d.toNat 0 s = .ok (w, o) := pageOperands_ok ho hc hcod
  show s.finish (pheat (Instr.pheat d).word d s) = _
  simp only [pheat, if_neg hm, hp, hd, finish_ok, heatOp]

/-- PHEAT gives all ones where the walk does not reach a valid leaf with H, and there its heat word (R261). -/
theorem exec_pheatComplete {id : Nat} {p : PageOp} (ho : s.pageOp id = some p) (hk : p.kind = .heat) :
    (∀ v, s.entryKey p.operand = .error v → exec (.pheatComplete id) s = .next (s.endPage p (some allOnes))) ∧
    (∀ key, s.entryKey p.operand = .ok key → let e := s.read64 key
      exec (.pheatComplete id) s = .next (if !bitAt e 0 || malformed e (opLevel p.operand) || !bitAt e 1 || !bitAt e 5 then s.endPage p (some allOnes)
        else (if bitAt p.operand 57 then s.clearHeat e else s).endPage p (some (Store.get 0 s.heat (heatOf e))))) := by
  have hx : exec (.pheatComplete id) s = .next (pheatComplete id s) := rfl
  refine ⟨fun v hv => ?_, fun key hv => ?_⟩
  · simp only [hx, pheatComplete, ho, hk, if_true, hv]
  · simp only [hx, pheatComplete, ho, hk, if_true, hv]

theorem exec_heatUpdate {m h j c : Nat} {x : Msg} (ha : s.arrived m = some x) (hb : x.body = .heat h j) (hd : x.dst = .core c) :
    exec (.heatUpdate m) s = .next { s.dropMsg m with heat := Store.set 0 s.heat (c * 4096 + h) (heatStep (Store.get 0 s.heat (c * 4096 + h)) j) } := by
  show Host.Outcome.next (heatUpdate m s) = _
  simp only [heatUpdate, ha, hb, hd]

end

theorem heat_set (s u : State) (k : Nat) (v : Word) : let t : State := { u with heat := Store.set 0 s.heat k v }
    Store.get 0 t.heat k = v ∧ (∀ j, j ≠ k → Store.get 0 t.heat j = Store.get 0 s.heat j) ∧ t.mem = u.mem :=
  ⟨Store.get_set_self 0 s.heat k v, fun _ hj => Store.get_set_ne 0 s.heat v hj, rfl⟩

/-- A die's count after an update from die d. -/
def heatCount (h : Word) (d j : Nat) : Nat :=
  (if decide (0xFFF < fld h (16 + 12 * d) 12 + 1) then fld h (16 + 12 * j) 12 / 2 else fld h (16 + 12 * j) 12) + boolNat (j == d)

theorem heatStep_eq (h : Word) (d : Nat) : heatStep h d =
    pack [(min (fld h 0 16 + 1) 0xFFFE, 0, 16), (heatCount h d 0, 16, 12), (heatCount h d 1, 28, 12), (heatCount h d 2, 40, 12), (heatCount h d 3, 52, 12)] := rfl

theorem heatStep_miss (h : Word) (d : Nat) : fld (heatStep h d) 0 16 = min (fld h 0 16 + 1) 0xFFFE := by
  rw [heatStep_eq, fld_pack (v := min (fld h 0 16 + 1) 0xFFFE) (by simp [Ascending]) (by simp)]
  omega

/-- The counts are halved before one of them would leave its field (R250). -/
theorem heatCount_lt (h : Word) (d j : Nat) : heatCount h d j < 2 ^ 12 := by
  have hj := fld_lt h (16 + 12 * j) 12
  have hd := fld_lt h (16 + 12 * d) 12
  unfold heatCount
  by_cases he : j = d
  · subst he
    simp only [beq_self_eq_true, boolNat, if_true, decide_eq_true_eq]
    split <;> omega
  · simp only [beq_eq_false_iff_ne.mpr he, boolNat, Bool.false_eq_true, if_false]
    split <;> omega

theorem heatCount_eq (h : Word) (d j : Nat) : heatCount h d j =
    (if fld h (16 + 12 * d) 12 = 0xFFF then fld h (16 + 12 * j) 12 / 2 else fld h (16 + 12 * j) 12) + (if j = d then 1 else 0) := by
  have hd := fld_lt h (16 + 12 * d) 12
  have hfull : (decide (0xFFF < fld h (16 + 12 * d) 12 + 1) = true) ↔ fld h (16 + 12 * d) 12 = 0xFFF := by rw [decide_eq_true_eq]; omega
  simp only [heatCount, boolNat, beq_iff_eq, hfull]

theorem heatStep_count (h : Word) {d j : Nat} (hj : j < 4) : fld (heatStep h d) (16 + 12 * j) 12 = heatCount h d j := by
  have hm : (heatCount h d j, 16 + 12 * j, 12) ∈ [(min (fld h 0 16 + 1) 0xFFFE, 0, 16), (heatCount h d 0, 16, 12), (heatCount h d 1, 28, 12),
      (heatCount h d 2, 40, 12), (heatCount h d 3, 52, 12)] := by
    interval_cases j <;> simp
  rw [heatStep_eq, fld_pack (by simp [Ascending]) hm, Nat.mod_eq_of_lt (heatCount_lt h d j)]

/-! ### Faults and page waits (R251 to R253) -/

/-- A walk that fails traps on a pager core, and on a core with pagers is a page fault (R251). -/
theorem State.bulkAccess_faults {s : State} {c va access reason level : Nat} {r : Rights} (h : s.translate c r.ctx va = .error (reason, level)) :
    (s.isPager c = true → s.bulkAccess c r va access = .error (.trap 0x06 (BitVec.ofNat 64 va))) ∧
    (s.isPager c = false → s.pagersFor c ≠ [] → s.bulkAccess c r va access = .error (.page va access reason level (BitVec.ofNat 64 va))) := by
  refine ⟨fun hp => ?_, fun hp hne => ?_⟩
  · simp only [State.bulkAccess, h, hp, Bool.true_or, if_true]
    rfl
  · have he : (s.pagersFor c).isEmpty = false := by rw [List.isEmpty_eq_false_iff]; exact hne
    simp only [State.bulkAccess, h, hp, he, Bool.or_false, Bool.false_eq_true, if_false]
    rfl

/-- The packet of a fault of waiter w of core c, for a pager core with this entry (R252). -/
def faultPkt (entry c w seq i va access reason level : Nat) : TaskPkt :=
  { entry := entry
    args := { a0 := ofNat va, a1 := pack [(i, 0, 9), (access, 9, 2), (reason, 12, 2), (level, 16, 3)], a2 := addrOf c 0
              a3 := pack [(w, 0, 7), (seq, 8, 8), (coreX c, 32, 8), (coreY c, 40, 8)] }
    rep := 0, fmt := 0x122, scla := 0, sclb := 0, ctx := 0, mode := 1, kernel := 0, group := 0 }

theorem State.sendFault_sends {s : State} {c va p : Nat} (hp : s.pagerCore c va = some p) (w seq i access reason level : Nat) :
    Sends s (s.sendFault c w seq i va access reason level) [(.core p, .fault (faultPkt ((s.coreRec p).pageVec / 4 * 4) c w seq i va access reason level))] := by
  simp only [State.sendFault, hp]
  exact ⟨[_], rfl, rfl⟩

theorem State.sendFault_frame (s : State) (c w seq i va access reason level : Nat) :
    (s.sendFault c w seq i va access reason level).me = s.me ∧ (s.sendFault c w seq i va access reason level).mem = s.mem := by
  unfold State.sendFault
  split
  · exact ⟨rfl, rfl⟩
  · exact ⟨rfl, rfl⟩

theorem faultPkt_fields (entry c w seq i va access reason level : Nat) : let a := (faultPkt entry c w seq i va access reason level).args
    fld a.a1 0 9 = i % 512 ∧ fld a.a1 9 2 = access % 4 ∧ fld a.a3 0 7 = w % 128 ∧ fld a.a3 8 8 = seq % 256 :=
  ⟨fld_pack (v := i) (by simp [Ascending]) (by simp), fld_pack (v := access) (by simp [Ascending]) (by simp),
    fld_pack (v := w) (by simp [Ascending]) (by simp), fld_pack (v := seq) (by simp [Ascending]) (by simp)⟩

/-- The issuing slot in page wait. -/
def pageWaitSlot (s : State) (va access : Nat) (info : Word) : State := s.modSlot s.cur fun sl =>
  { sl with phase := .pageWait, park := .none, seq := (s.me.seq + 1) % 256, waitVa := ofNat va, waitInfo := info, waitWrite := access % 2 == 1 }

theorem State.enterPageWait_eq (s : State) (i va access reason level : Nat) (info : Word) : s.enterPageWait i va access reason level info =
    (pageWaitSlot s va access info).sendFault s.here s.num ((s.me.seq + 1) % 256) i va access reason level := rfl

theorem pageWaitSlot_me (s : State) (va access : Nat) (info : Word) : (pageWaitSlot s va access info).me =
    { s.me with phase := .pageWait, park := .none, seq := (s.me.seq + 1) % 256, waitVa := ofNat va, waitInfo := info, waitWrite := access % 2 == 1 } :=
  me_modMe _ _

/-- A page wait adds 1 to SEQ and sends a fault packet (R251, R252). -/
theorem enterPageWait_waits {s : State} {va p : Nat} (i access reason level : Nat) (info : Word) (hp : s.pagerCore s.here va = some p) :
    let t := s.enterPageWait i va access reason level info
    t.me.phase = .pageWait ∧ t.me.waitInfo = info ∧ t.me.seq = (s.me.seq + 1) % 256 ∧ t.me.pc = s.me.pc ∧ t.mem = s.mem ∧
    ∃ pkt, Sends s t [(.core p, .fault pkt)] ∧ pkt.entry = (s.coreRec p).pageVec / 4 * 4 ∧ pkt.mode = 1 ∧ pkt.ctx = 0 ∧
      pkt.args.a0 = BitVec.ofNat 64 va ∧ fld pkt.args.a1 0 9 = i % 512 ∧ fld pkt.args.a1 9 2 = access % 4 ∧ fld pkt.args.a3 0 7 = s.cur % 64 ∧
      fld pkt.args.a3 8 8 = (s.me.seq + 1) % 256 := by
  obtain ⟨hme, hmem⟩ := sendFault_frame (pageWaitSlot s va access info) s.here s.num ((s.me.seq + 1) % 256) i va access reason level
  have hsends := sendFault_sends (s := pageWaitSlot s va access info) hp s.num ((s.me.seq + 1) % 256) i access reason level
  obtain ⟨ha1, hacc, hw, hseq⟩ := faultPkt_fields ((s.coreRec p).pageVec / 4 * 4) s.here s.num ((s.me.seq + 1) % 256) i va access reason level
  rw [pageWaitSlot_me] at hme
  have hnum : s.num % 128 = s.cur % 64 := by rw [State.num]; omega
  rw [enterPageWait_eq]
  dsimp only
  rw [hme, hmem]
  exact ⟨rfl, rfl, rfl, rfl, rfl, _, hsends, rfl, rfl, rfl, rfl, ha1, hacc, hw.trans hnum, hseq.trans (Nat.mod_mod _ _)⟩

/-- A fault packet is queued behind no waiting call, and else stays (R187, R252). -/
theorem exec_faultPacket {s : State} {m c : Nat} {x : Msg} {pkt : TaskPkt} (ha : s.arrived m = some x) (hb : x.body = .fault pkt) (hd : x.dst = .core c) :
    exec (.faultPacket m) s = .next (if (s.coreRec c).tasks.length < 64 ∧ ∀ w ∈ (s.coreRec c).waiting, waitingCall w = false then
      (s.dropMsg m).modCore c fun r => { r with tasks := r.tasks ++ [pkt] } else s) := by
  show Host.Outcome.next (faultPacket m s) = _
  simp only [faultPacket, ha, hb, hd, Bool.and_eq_true, decide_eq_true_eq, Bool.not_eq_true', List.any_eq_false, Bool.not_eq_true]

/-! ### Wakes (R253) -/

/-- A PWAKE's message goes to its core, or nowhere where the value is malformed. -/
theorem exec_pwake {s : State} {m : Nat} {x : Msg} {w : Word} (ha : s.arrived m = some x) (hb : x.body = .pwake w) :
    exec (.pwake m) s = .next (if bitAt w 7 || fld w 16 16 != 0 || fld w 48 8 != 0 || fld w 58 6 != 0 || decide (64 < fld w 0 7) || decide (1 < fld w 56 2)
          || decide (31 < fld w 32 8) || decide (39 < fld w 40 8) then s.dropMsg m
      else (s.dropMsg m).agentSend x.src (.core (coreAt (fld w 32 8) (fld w 40 8))) 0 true (.wake (fld w 0 7) (fld w 8 8) (fld w 56 2))) := by
  show Host.Outcome.next (pwakeSend m s) = _
  simp only [pwakeSend, ha, hb]

section
variable {s : State} {m n seq out c : Nat} {x : Msg} (ha : s.arrived m = some x) (hb : x.body = .wake n seq out) (hd : x.dst = .core c) (hn : n < 63)
include ha hb hd hn

theorem exec_pageWake_waiting (hp : (s.slot (c * 64 + n)).phase = .pageWait) (hs : (s.slot (c * 64 + n)).seq = seq) :
    exec (.pageWake m) s = .next (wakePaged (c * 64 + n) out (s.dropMsg m)) := by
  have h64 : n ≠ 64 := by omega
  show Host.Outcome.next (pageWake m s) = _
  simp only [pageWake, ha, hb, hd, if_neg h64, if_pos (And.intro hp hs)]

theorem exec_pageWake_dropped (h : (s.slot (c * 64 + n)).phase ≠ .pageWait ∨ (s.slot (c * 64 + n)).seq ≠ seq) (he : s.evicted = []) :
    exec (.pageWake m) s = .next (s.dropMsg m) := by
  have h64 : n ≠ 64 := by omega
  have hno : ¬ ((s.slot (c * 64 + n)).phase = .pageWait ∧ (s.slot (c * 64 + n)).seq = seq) := fun ⟨hp, hs⟩ => h.elim (· hp) (· hs)
  show Host.Outcome.next (pageWake m s) = _
  simp only [pageWake, ha, hb, hd, if_neg h64, if_neg hno, he, List.find?_nil]

end

/-- A wake of a slot below 63 makes it READY, or is its late trap 0x06 (R253). -/
theorem wakePaged_eq {s : State} {t : Nat} (h63 : t % 64 ≠ 63) (out : Nat) : wakePaged t out s =
    if out = 0 then s.setSlot t { s.slot t with phase := .ready } else s.lateTrap t 0x06 (s.slot t).waitInfo := by
  have hmover : s.isMover t = false := by
    rw [State.isMover, beq_eq_false_iff_ne.mpr h63]
    rfl
  simp only [wakePaged, leavePageWait, if_neg h63, hmover, Bool.false_eq_true, if_false]
  rfl

/-- A late trap of a slot with traps that wait, or on a stopped core, joins them (R404). -/
theorem State.lateTrap_waits {s : State} {t : Nat} (cause : Nat) (info : Word) (h : (s.slot t).pend ≠ [] ∨ Store.get false s.dev.stopped (t / 64) = true) :
    ((s.lateTrap t cause info).slot t).phase = .ready ∧ ((s.lateTrap t cause info).slot t).pend = (s.slot t).pend ++ [(cause, info)] ∧
    ((s.lateTrap t cause info).slot t).pc = (s.slot t).pc := by
  have hc : ((s.slot t).pend.isEmpty && !Store.get false s.dev.stopped (t / 64)) = false := by
    rcases h with h | h
    · rw [List.isEmpty_eq_false_iff.mpr h]; rfl
    · rw [h]; exact Bool.and_false _
  simp only [State.lateTrap, hc, Bool.false_eq_true, if_false]
  rw [slot_setSlot_self]
  exact ⟨rfl, rfl, rfl⟩

/-- A wake with the slot's SEQ makes it READY, or traps 0x06 behind the traps that wait there (R253, R404). -/
theorem exec_pageWake_wakes {s : State} {m n seq out c : Nat} {x : Msg} (ha : s.arrived m = some x) (hb : x.body = .wake n seq out) (hd : x.dst = .core c)
    (hn : n < 63) (hp : (s.slot (c * 64 + n)).phase = .pageWait) (hs : (s.slot (c * 64 + n)).seq = seq) : let t := c * 64 + n
    (out = 0 → exec (.pageWake m) s = .next ((s.dropMsg m).setSlot t { s.slot t with phase := .ready })) ∧
    (out = 1 → (s.slot t).pend = [] → Store.get false s.dev.stopped c = false → exec (.pageWake m) s = .next ((s.dropMsg m).takeTrap t 0x06 (s.slot t).waitInfo)) ∧
    (out = 1 → (s.slot t).pend ≠ [] ∨ Store.get false s.dev.stopped c = true → ∃ u, exec (.pageWake m) s = .next u ∧ (u.slot t).phase = .ready ∧
      (u.slot t).pend = (s.slot t).pend ++ [(0x06, (s.slot t).waitInfo)] ∧ (u.slot t).pc = (s.slot t).pc) := by
  have h63 : (c * 64 + n) % 64 ≠ 63 := by omega
  have hcore : (c * 64 + n) / 64 = c := by omega
  have hslot : (s.dropMsg m).slot (c * 64 + n) = s.slot (c * 64 + n) := rfl
  have hx := exec_pageWake_waiting ha hb hd hn hp hs
  rw [wakePaged_eq h63, hslot] at hx
  refine ⟨fun h0 => by rw [hx, if_pos h0], fun h1 hpend hstop => ?_, fun h1 hwait => ?_⟩
  · rw [hx, if_neg (by omega), lateTrap_now _ _ _ _ (hslot ▸ hpend) (by rw [hcore]; exact hstop)]
  · obtain ⟨hphase, hq, hpc⟩ := lateTrap_waits (s := s.dropMsg m) (t := c * 64 + n) 0x06 (s.slot (c * 64 + n)).waitInfo (by rw [hcore]; exact hwait)
    exact ⟨_, by rw [hx, if_neg (by omega)], hphase, hq, hpc⟩

/-- Settles O57: each instruction and each event does what its case of R250 to R261 says. -/
theorem pagesAreMappedMovedAndWaitedFor : Obligations.PagesAreMappedMovedAndWaitedFor := by
  unfold Obligations.PagesAreMappedMovedAndWaitedFor
  refine ⟨fun d size s hm => exec_page_user d size hm, ?pinval, ?invalidation, ?ack, ?pmap, ?mapped, ?pmove, ?moved, ?pheat,
    fun s id o v ho hk hv => (exec_pheatComplete ho hk).1 v hv, ?heat, ?update, ?step, fun s c r va access reason level h => bulkAccess_faults h,
    ?waits, ?packet, ?pwake, ?wake⟩
  case pinval =>
    intro d size s o w r hm hcod ho hc hr
    have hx := exec_pinval hm hcod ho hc hr
    refine ⟨fun hst => by rw [hx, if_pos hst], fun hst => ?_⟩
    rw [if_neg (not_not.mpr hst)] at hx
    obtain ⟨hphase, hpc, hmem, hops, hsends⟩ := inval_started s (invalOp o w r) s.nextId s.here (opCtx o) (opVa o) (pageBits size.toNat) (opAll o) r.snake
    exact ⟨_, pageRecord s (invalOp o w r), hx, hphase, hpc, hmem, hops, rfl, rfl, rfl, hsends⟩
  case invalidation =>
    intro s m x op i va bits all a l c ha hb hd
    have hx := exec_invalidation ha hb hd
    refine ⟨fun h => ?_, fun hfree htakes => ?_⟩
    · rw [hx, if_pos (by rw [Bool.or_eq_true, Bool.not_eq_true']; exact h)]
    · have htlb := invalidated_tlb ha hd i va bits all
      rw [hx, if_neg (by rw [hfree, htakes]; decide)]
      cases l with
      | nil => exact ⟨_, rfl, rfl, htlb, agentSend_sends (invalidated s m c i va bits all) ..⟩
      | cons n r => exact ⟨_, rfl, rfl, htlb, agentSend_sendAs_sends (invalidated s m c i va bits all) ..⟩
  case ack =>
    intro s m x op o ha hb ho
    have hx := exec_invalidationAck ha hb ho
    exact ⟨fun hp hk => by rw [hx, if_pos ⟨hp, hk⟩], fun h => by rw [hx, if_neg (by rintro ⟨hp, hk⟩; exact h.elim (by omega) (· hk))]⟩
  case pmap =>
    intro d s o e hm hcod ho hc
    obtain ⟨hill, hstarts⟩ := exec_pmap hm hcod ho hc
    refine ⟨hill, fun hgood hst hd => ?_⟩
    obtain ⟨hphase, hpc⟩ := startPage_thread s (mapOp d o e)
    obtain ⟨hmem, -, hops⟩ := startPage_frame s (mapOp d o e)
    exact ⟨_, pageRecord s (mapOp d o e), hstarts hgood hst hd, hphase, hpc, hmem, hops, rfl, rfl, rfl, rfl, rfl⟩
  case mapped =>
    intro s id o ho hk
    obtain ⟨hfails, hreaches⟩ := exec_pmapComplete ho hk
    refine ⟨hfails, fun key hkey => ⟨fun h => ?_, fun h => ?_⟩⟩
    · rw [hreaches key hkey, if_pos h]
    · rw [hreaches key hkey, if_neg (by rw [h]; decide)]
  case pmove =>
    intro d s o f key hm hcod ho hc hf hal hst hd hkey e hv hok hl hmig
    obtain ⟨hphase, hmem, hops, hsends⟩ := moveStarted_frame d o f key s
    exact ⟨_, pageRecord s (moveOp d o f key), exec_pmove hm hcod ho hc hf hal hst hd hkey hv hok hl hmig, hphase,
      by rw [read64_of_mem hmem, read64_write64], fun k hk => by rw [hmem]; exact write_byte_outside s _ hk, hops, rfl, rfl, rfl, rfl, hsends⟩
  case moved =>
    intro s id o ho hk hp e n hout
    exact ⟨pageMoved s o, exec_pmoveCopyDone ho hk hp, fun b hb => pageMoved_byte hout hb, pageMoved_leaf s o, fun h => clearHeat_heat _ h⟩
  case pheat =>
    intro d s o w hm hcod ho hc hd
    obtain ⟨hphase, hpc⟩ := startPage_thread s (heatOp d o)
    obtain ⟨hmem, -, hops⟩ := startPage_frame s (heatOp d o)
    exact ⟨_, pageRecord s (heatOp d o), exec_pheat hm hcod ho hc hd, hphase, hpc, hmem, hops, rfl, rfl, rfl⟩
  case heat =>
    intro s id o key ho hk hkey
    have hx := (exec_pheatComplete ho hk).2 key hkey
    refine ⟨fun hv hok hl hh => ?_, fun h => ?_⟩
    · rw [hx, if_neg (by rw [hv, hok, hl, hh]; decide)]
    · rw [hx, if_pos]
      simpa only [Bool.or_eq_true, Bool.not_eq_true', or_assoc] using h
  case update =>
    intro s m x h d c ha hb hd
    exact ⟨_, exec_heatUpdate ha hb hd, heat_set s (s.dropMsg m) (c * 4096 + h) _⟩
  case step =>
    intro h d hd
    exact ⟨heatStep_miss h d, fun j hj => by rw [heatStep_count h hj, heatCount_eq]⟩
  case waits =>
    intro s i va access reason level info p hp
    exact enterPageWait_waits i access reason level info hp
  case packet =>
    intro s m x pkt c ha hb hd
    have hx := exec_faultPacket ha hb hd
    refine ⟨fun hroom hnone => by rw [hx, if_pos ⟨hroom, hnone⟩], fun h => ?_⟩
    have hno : ¬ ((s.coreRec c).tasks.length < 64 ∧ ∀ w ∈ (s.coreRec c).waiting, waitingCall w = false) := by
      rintro ⟨hroom, hnone⟩
      rcases h with h | ⟨w, hw, hcall⟩
      · omega
      · exact Bool.false_ne_true ((hnone w hw).symm.trans hcall)
    rw [hx, if_neg hno]
  case pwake =>
    intro s m x w ha hb
    have hx := exec_pwake ha hb
    refine ⟨fun h7 h16 h48 h58 hslot hout hcx hcy => ?_, fun h => ?_⟩
    · rw [h7, h16, h48, h58, if_neg (by simp; omega)] at hx
      exact ⟨_, hx, rfl, agentSend_sends (s.dropMsg m) ..⟩
    · rw [hx, if_pos]
      simp only [Bool.or_eq_true, decide_eq_true_eq, or_assoc]
      exact .inr (.inr (.inr (.inr h)))
  case wake =>
    intro s m x n seq out c ha hb hd hn
    exact ⟨exec_pageWake_wakes ha hb hd hn, exec_pageWake_dropped ha hb hd hn⟩

end Sys2Proof.Machine

/-! ## Pointer registers (O42) -/

namespace Sys2Proof.Machine

open State Sys2Proof.Claims

/-! ### OFF of a pointer -/

/-- A field beside and above a replaced one is kept. -/
theorem fld_setFld_above (x : Word) (lo : Nat) {w v : Nat} (k : Nat) (h : lo + w ≤ 64) : fld (setFld x lo w v) (lo + w) k = fld x (lo + w) k := by
  have hlow : x.toNat % 2 ^ lo < 2 ^ lo := Nat.mod_lt _ (Nat.two_pow_pos lo)
  have hbelow : v % 2 ^ w * 2 ^ lo + x.toNat % 2 ^ lo < 2 ^ (lo + w) := by
    have hv : v % 2 ^ w + 1 ≤ 2 ^ w := Nat.mod_lt _ (Nat.two_pow_pos w)
    calc v % 2 ^ w * 2 ^ lo + x.toNat % 2 ^ lo < (v % 2 ^ w + 1) * 2 ^ lo := by rw [Nat.add_mul, Nat.one_mul]; omega
      _ ≤ 2 ^ w * 2 ^ lo := Nat.mul_le_mul_right _ hv
      _ = 2 ^ (lo + w) := by rw [← Nat.pow_add, Nat.add_comm]
  have hsplit : 2 ^ 64 = 2 ^ (64 - (lo + w)) * 2 ^ (lo + w) := by rw [← Nat.pow_add]; congr 1; omega
  have hhigh : x.toNat / 2 ^ (lo + w) + 1 ≤ 2 ^ (64 - (lo + w)) := by
    rw [Nat.succ_le_iff, Nat.div_lt_iff_lt_mul (Nat.two_pow_pos _), ← hsplit]
    exact x.isLt
  have h64 : (x.toNat / 2 ^ (lo + w) + 1) * 2 ^ (lo + w) ≤ 2 ^ 64 := by rw [hsplit]; exact Nat.mul_le_mul_right _ hhigh
  rw [Nat.add_mul, Nat.one_mul] at h64
  rw [setFld_eq, fld_ofNat (by omega), fld_eq_div_mod, Nat.add_assoc, Nat.mul_comm, Nat.mul_add_div (Nat.two_pow_pos _), Nat.div_eq_of_lt hbelow,
    Nat.add_zero]

/-- A step moves OFF modulo 2^21 (R108). -/
theorem ptrStep_off (p : Word) (n : Int) : (fld (ptrStep p n) 0 21 : Int) = ((fld p 0 21 : Nat) + n) % 2 ^ 21 := by
  have h0 : 0 ≤ ((fld p 0 21 : Nat) + n) % 2 ^ 21 := Int.emod_nonneg _ (by decide)
  have hlt : ((fld p 0 21 : Nat) + n) % 2 ^ 21 < 2 ^ 21 := Int.emod_lt_of_pos _ (by decide)
  have hnat : (((fld p 0 21 : Nat) + n) % 2 ^ 21).toNat < 2 ^ 21 := by omega
  rw [ptrStep, ptrOff, fld_setFld _ _ (by decide), Nat.mod_eq_of_lt hnat, Int.toNat_of_nonneg h0]

/-- A step keeps every other bit of a pointer. -/
theorem ptrStep_above (p : Word) (n : Int) : fld (ptrStep p n) 21 43 = fld p 21 43 := fld_setFld_above p 0 43 (by decide)

theorem ptrReserved_iff (p : Word) : ptrReserved p = true ↔ fld p 21 11 ≠ 0 ∨ fld p 48 8 ≠ 0 ∨ fld p 58 6 ≠ 0 := by
  simp only [ptrReserved, Bool.or_eq_true, bne_iff_ne, or_assoc]

/-! ### Pointer registers of a slot -/

@[simp] theorem Slot.ptr_setPtr_self (sl : Slot) (i : Nat) (w : Word) : (sl.setPtr i w).ptr i = w := Store.get_set_self _ _ _ _

theorem Slot.ptr_setPtr_ne (sl : Slot) (w : Word) {i j : Nat} (h : j ≠ i) : (sl.setPtr i w).ptr j = sl.ptr j := Store.get_set_ne _ _ _ h

/-! ### PSET, PGET and PADV -/

/-- The state after an instruction that sets pointer register p and completes. -/
def pointerSet (s : State) (p : PtrCode) (w : Word) (srcs : List Nat) : State := (s.modMe fun sl => sl.setPtr p.toNat w).completeNone srcs

theorem pointerSet_me (s : State) (p : PtrCode) (w : Word) (srcs : List Nat) : (pointerSet s p w srcs).me = (s.me.setPtr p.toNat w).advance := by
  rw [pointerSet, completeNone_me, me_modMe]

theorem pointerSet_ptr (s : State) (p : PtrCode) (w : Word) (srcs : List Nat) : (pointerSet s p w srcs).me.ptr p.toNat = w ∧
    ∀ q, q ≠ p.toNat → (pointerSet s p w srcs).me.ptr q = s.me.ptr q := by
  rw [pointerSet_me]
  exact ⟨Slot.ptr_setPtr_self _ _ _, fun q hq => Slot.ptr_setPtr_ne _ _ hq⟩

theorem pointerSet_frame (s : State) (p : PtrCode) (w : Word) (srcs : List Nat) :
    (pointerSet s p w srcs).mem = s.mem ∧ (pointerSet s p w srcs).regs = s.regs := by
  simp [pointerSet, State.completeNone]

theorem pointerSet_pc (s : State) (p : PtrCode) (w : Word) (srcs : List Nat) (h : s.me.loops = []) : (pointerSet s p w srcs).me.pc = s.me.pc + 4 := by
  rw [pointerSet_me, Slot.advance_straight _ (show (s.me.setPtr p.toNat w).loops = [] from h)]
  rfl

theorem exec_pset {p : PtrCode} {g : RegCode} {s : State} {x : Word} (ho : s.operands (Instr.pset p g).word [g.toNat] [] = .ok [x]) :
    exec (.pset p g) s = if ptrReserved x then .next (s.takeTrap s.cur 0x01 (Instr.pset p g).word) else .next (pointerSet s p x [g.toNat]) := by
  have hx : exec (.pset p g) s = s.finish (pset (Instr.pset p g).word p g s) := rfl
  have harg : arg [x] 0 = x := rfl
  simp only [hx, pset, ho, harg]
  split
  · rfl
  · rfl

theorem exec_padv {p : PtrCode} {g : RegCode} {s : State} {x : Word} (ho : s.operands (Instr.padv p g).word [g.toNat] [] = .ok [x]) :
    exec (.padv p g) s = .next (pointerSet s p (ptrStep (s.me.ptr p.toNat) (fld x 0 21 : Nat)) [g.toNat]) := by
  have hx : exec (.padv p g) s = s.finish (padv (Instr.padv p g).word p g s) := rfl
  rw [hx, padv, ho]
  rfl

/-- Settles O42: a set pointer register reads the word it was set to, and every other one is kept. -/
theorem pointerRegistersMove : Obligations.PointerRegistersMove := by
  unfold Obligations.PointerRegistersMove
  refine ⟨fun p g s x ho => ⟨fun hr => ?set, fun hr => ?reserved⟩, fun p g s => ?get, fun p g s x ho => ?advance⟩
  case set =>
    obtain ⟨hself, hother⟩ := pointerSet_ptr s p x [g.toNat]
    obtain ⟨hmem, hregs⟩ := pointerSet_frame s p x [g.toNat]
    exact ⟨_, by rw [exec_pset ho, if_neg (by simp [hr])], hself, hother, hmem, hregs, pointerSet_pc s p x _⟩
  case reserved => rw [exec_pset ho, if_pos hr]
  case get => exact resultAt_of_compute rfl fun _ => rfl
  case advance =>
    obtain ⟨hself, hother⟩ := pointerSet_ptr s p (ptrStep (s.me.ptr p.toNat) (fld x 0 21 : Nat)) [g.toNat]
    obtain ⟨hmem, hregs⟩ := pointerSet_frame s p (ptrStep (s.me.ptr p.toNat) (fld x 0 21 : Nat)) [g.toNat]
    refine ⟨_, exec_padv ho, ?_, by rw [hself, ptrStep_above], hother, hmem, hregs⟩
    rw [hself]
    exact_mod_cast ptrStep_off (s.me.ptr p.toNat) (fld x 0 21 : Nat)

end Sys2Proof.Machine

/-! ## Vector instructions at issue (O43) -/

namespace Sys2Proof.Machine

open State Sys2Proof.Claims

/-! ### The pointer registers an instruction uses (R108) -/

theorem nodup_eraseDups : ∀ l : List Nat, l.eraseDups.Nodup
  | [] => List.nodup_nil
  | a :: l => by
    rw [List.eraseDups_cons, List.nodup_cons, List.mem_eraseDups, List.mem_filter]
    exact ⟨by simp, nodup_eraseDups _⟩
termination_by l => l.length
decreasing_by exact Nat.lt_succ_of_le (List.length_filter_le _ _)

/-- The pointer registers of a list are used, each once for every place it has in the list (R108). -/
def Slot.usePtrs (sl : Slot) (l : List Nat) : Slot := l.foldl (fun y i => y.setPtr i (ptrUsed (y.ptr i))) sl

theorem Slot.usePtrs_frame (sl : Slot) (l : List Nat) : sl.usePtrs l = { sl with ptrs := (sl.usePtrs l).ptrs } := by
  induction l generalizing sl with
  | nil => rfl
  | cons i r ih => exact ih (sl.setPtr i (ptrUsed (sl.ptr i)))

theorem Slot.usePtrs_ptr (sl : Slot) {l : List Nat} (hl : l.Nodup) (i : Nat) :
    (sl.usePtrs l).ptr i = if i ∈ l then ptrUsed (sl.ptr i) else sl.ptr i := by
  induction l generalizing sl with
  | nil => rfl
  | cons j r ih =>
    obtain ⟨hj, hr⟩ := List.nodup_cons.mp hl
    have hstep : sl.usePtrs (j :: r) = (sl.setPtr j (ptrUsed (sl.ptr j))).usePtrs r := rfl
    rw [hstep, ih _ hr]
    by_cases hi : i = j
    · subst hi
      rw [if_neg hj, if_pos List.mem_cons_self, Slot.ptr_setPtr_self]
    · simp only [Slot.ptr_setPtr_ne _ _ hi, List.mem_cons, hi, false_or]

/-- An instruction reads stream A, unless it is VIOTA (R111, R122). -/
theorem streamA_isSome (op : VecOp) (ty m n : Nat) : (op.streamA ty m n).isSome = decide (op ≠ .iota) := by
  cases op <;> rfl

/-- An instruction uses pointer register B for a stream, a scalar or a table, unless it has no register pb (R120 to R123). -/
theorem usesB_iff (op : VecOp) (ty n : Nat) : ((op.streamB ty n).isSome || decide (op = .lut)) = decide (op ∉ withoutB) := by
  cases op <;> rfl

theorem usedPointers_eq (op : VecOp) (ty a b d m n : Nat) :
    (if (op.streamA ty m n).isSome then [a] else []) ++ (if (op.streamB ty n).isSome || op = .lut then [b] else []) ++ [d] ++
      (if op = .sel then [m % 8] else []) = usedPointers op a b d m := by
  simp only [usedPointers, streamA_isSome, usesB_iff, decide_eq_true_eq, ne_eq, ite_not]

/-! ### Modifiers (R112 step 2) -/

theorem isFloatCode_iff (ty : Nat) : isFloatCode ty = true ↔ ty ∈ [0, 1, 2, 3, 4, 5] := by
  simp only [isFloatCode, decide_eq_true_eq, List.mem_cons, List.not_mem_nil, or_false]
  omega

/-- A table of up to 2^16 entries fits 64 KiB counted in bits or in whole bytes an entry; entries of 4 bits fit in any number. -/
theorem tableFits_iff (ty : Nat) {e : Nat} (he : e ≤ 65536) : e * widthOf ty ≤ 8 * 65536 ↔ e * (widthOf ty / 8) ≤ 65536 := by
  unfold widthOf
  split <;> omega

theorem legal_iff (op : VecOp) (ty : Nat) {m : Nat} (hm : m < 2 ^ 32) : op.legal ty m = true ↔ LegalModifier op ty m := by
  cases op with
  | scale | iota => exact iff_of_true rfl trivial
  | imin | imax =>
    simp only [VecOp.legal, LegalModifier, decide_eq_true_eq]
    omega
  | rmax | rmin =>
    simp only [VecOp.legal, LegalModifier, Bool.or_eq_true, Bool.and_eq_true, beq_iff_eq, Bool.not_eq_true', ← Bool.not_eq_true, isFloatCode_iff]
  | cvt =>
    have hcodes : ∀ k < 16, (widthOf k ≠ 0 ∧ k ≠ 12 ↔ k ∈ [0, 1, 2, 3, 4, 5, 8, 9, 10, 11]) := by decide
    have hlt : m ∈ [0, 1, 2, 3, 4, 5, 8, 9, 10, 11] → m < 16 := by
      simp only [List.mem_cons, List.not_mem_nil, or_false]
      omega
    simp only [VecOp.legal, LegalModifier, Bool.and_eq_true, decide_eq_true_eq, bne_iff_ne, and_assoc]
    exact ⟨fun ⟨h, hcode⟩ => (hcodes m h).mp hcode, fun h => ⟨hlt h, (hcodes m (hlt h)).mpr h⟩⟩
  | lut =>
    have he : m / 2 ^ 16 + 1 ≤ 65536 := by omega
    simp only [VecOp.legal, LegalModifier, Bool.and_eq_true, decide_eq_true_eq, beq_iff_eq, tableFits_iff ty he, List.contains_iff_mem, List.mem_cons,
      List.not_mem_nil, or_false]
    refine and_congr_left' ?_
    omega
  | cmp =>
    simp only [VecOp.legal, LegalModifier, Bool.and_eq_true, Bool.or_eq_true, decide_eq_true_eq, Bool.not_eq_true', ← Bool.not_eq_true, isFloatCode_iff,
      and_assoc, Nat.lt_succ_iff]
  | sel => exact decide_eq_true_iff
  | _ => exact beq_iff_eq

/-! ### Streams (R111, R112) -/

theorem destElements_eq (op : VecOp) (ty m n : Nat) : destElements op ty m n = (widthOf (op.streamD ty m n).1, (op.streamD ty m n).2) := by
  cases op with
  | rsum | rmax | rmin | dot => exact congrArg (·, 1) ((congrArg widthOf (accFormat_eq ty)).trans (reductionFormat_width ty)).symm
  | _ => rfl

/-- A stream as the checks at issue take it: its pointer, its alignment and its bytes (R112). -/
def streamExtent (n : Nat) (x : Word × Nat × Nat) : Word × Nat × Nat := (x.1, x.2.1 / 8, if n = 0 then 0 else (x.2.1 * x.2.2 + 7) / 8)

theorem vecStreams_eq (op : VecOp) (ty m n : Nat) (pa pb pd pk : Word) :
    vecStreams op ty m n pa pb pd pk = (streamsOf op ty m n pa pb pd pk).map (streamExtent n) := by
  unfold vecStreams streamsOf
  rw [destElements_eq]
  cases op <;> rfl

/-- A stream ends outside the scratchpad (R112 step 3). -/
def pastEnd (x : Word × Nat × Nat) : Bool := decide (Config.spadSize < ptrOff x.1 + x.2.2)

theorem outOfRange_iff (n : Nat) (x : Word × Nat × Nat) : pastEnd (streamExtent n x) = true ↔ outOfRange n x := decide_eq_true_iff

/-- A stream's OFF is off a multiple of its alignment. -/
def offAlignment (x : Word × Nat × Nat) : Bool := ptrOff x.1 % max 1 x.2.1 != 0

theorem misaligned_iff (n : Nat) (x : Word × Nat × Nat) : offAlignment (streamExtent n x) = true ↔ misaligned x := by
  rw [offAlignment, bne_iff_ne, misaligned, Nat.dvd_iff_mod_eq_zero]
  exact Iff.rfl

/-- The first image with a property is that of the first element whose image has it. -/
theorem find?_map_first {α β : Type} {p : β → Bool} {f : α → β} {P : α → Prop} (hp : ∀ y, p (f y) = true ↔ P y) {l r : List α} {x : α}
    (hl : ∀ y ∈ l, ¬ P y) (hx : P x) : ((l ++ x :: r).map f).find? p = some (f x) := by
  have hfirst : (l ++ x :: r).find? (p ∘ f) = some x := by
    refine List.find?_eq_some_iff_append.mpr ⟨(hp x).mpr hx, l, r, rfl, fun y hy => ?_⟩
    rw [Bool.not_eq_true', ← Bool.not_eq_true]
    exact mt (hp y).mp (hl y hy)
  rw [List.find?_map, hfirst, Option.map_some]

theorem find?_map_none {α β : Type} {p : β → Bool} {f : α → β} {P : α → Prop} (hp : ∀ y, p (f y) = true ↔ P y) {l : List α}
    (hl : ∀ y ∈ l, ¬ P y) : (l.map f).find? p = none := by
  have hnone : l.find? (p ∘ f) = none := List.find?_eq_none.mpr fun y hy => mt (hp y).mp (hl y hy)
  rw [List.find?_map, hnone, Option.map_none]

/-- The two checks, one after the other (R112 steps 3 and 4). -/
theorem checkStreams_eq (c : Nat) (l : List (Word × Nat × Nat)) : checkStreams c l =
    (l.find? pastEnd).elim ((l.find? offAlignment).elim (.ok ()) fun x => .error (.trap 0x03 (addrOf c (ptrOff x.1))))
      fun x => .error (.trap 0x04 (addrOf c (ptrOff x.1))) := by
  have hpast : pastEnd = fun x => decide (Config.spadSize < ptrOff x.1 + x.2.2) := rfl
  have hoff : offAlignment = fun x => ptrOff x.1 % max 1 x.2.1 != 0 := rfl
  rw [checkStreams, ← hpast, ← hoff]
  cases l.find? pastEnd with
  | some x => rfl
  | none => cases l.find? offAlignment <;> rfl

section
variable {c n : Nat} {L l r : List (Word × Nat × Nat)} {x : Word × Nat × Nat}

/-- The first stream that ends outside the scratchpad traps 0x04 (R112 step 3). -/
theorem checkStreams_outOfRange (hl : ∀ y ∈ l, ¬ outOfRange n y) (hx : outOfRange n x) :
    checkStreams c ((l ++ x :: r).map (streamExtent n)) = .error (.trap 0x04 (addrOf c (fld x.1 0 21))) := by
  rw [checkStreams_eq, find?_map_first (outOfRange_iff n) hl hx]
  rfl

/-- Of streams inside the scratchpad the first misaligned one traps 0x03 (R112 step 4). -/
theorem checkStreams_misaligned (hL : ∀ y ∈ l ++ x :: r, ¬ outOfRange n y) (hl : ∀ y ∈ l, ¬ misaligned y) (hx : misaligned x) :
    checkStreams c ((l ++ x :: r).map (streamExtent n)) = .error (.trap 0x03 (addrOf c (fld x.1 0 21))) := by
  rw [checkStreams_eq, find?_map_none (outOfRange_iff n) hL, find?_map_first (misaligned_iff n) hl hx]
  rfl

theorem checkStreams_ok (hL : ∀ y ∈ L, ¬ outOfRange n y ∧ ¬ misaligned y) : checkStreams c (L.map (streamExtent n)) = .ok () := by
  rw [checkStreams_eq, find?_map_none (outOfRange_iff n) fun y hy => (hL y hy).1, find?_map_none (misaligned_iff n) fun y hy => (hL y hy).2]
  rfl

end

/-! ### The queue -/

theorem State.consume_queue (s : State) (l : List Nat) (c : Nat) : ((s.consume l).coreRec c).queue = (s.coreRec c).queue := by
  have hpipe (x : State) (e k : Nat) (f : PipeQueue → PipeQueue) : ((x.modPipe e k f).coreRec c).queue = (x.coreRec c).queue := by
    by_cases he : c = e
    · subst he; rw [State.modPipe, coreRec_modCore_self]
    · rw [State.modPipe, coreRec_modCore_ne _ _ he]
  induction l generalizing s with
  | nil => rfl
  | cons v r ih =>
    unfold State.consume
    split
    · rw [ih, hpipe]
    · exact ih s

theorem State.completeNone_queue (s : State) (l : List Nat) (c : Nat) : ((s.completeNone l).coreRec c).queue = (s.coreRec c).queue := by
  rw [State.completeNone, advance_coreRec, consume_queue]

/-- An engine command joins the issuing core's vector queue (R113). -/
def State.enqueue (s : State) (q : EngineCmd) : State := s.modCore s.here fun x => { x with queue := x.queue ++ [q] }

theorem State.enqueue_queue (s : State) (q : EngineCmd) : ((s.enqueue q).coreRec s.here).queue = (s.coreRec s.here).queue ++ [q] := by
  rw [State.enqueue, coreRec_modCore_self]

@[simp] theorem State.enqueue_me (s : State) (q : EngineCmd) : (s.enqueue q).me = s.me := rfl

/-- The state after a vector instruction that reads the registers srcs has queued command cmd and used its pointer registers (R108, R113). -/
def vectorQueued (s : State) (cmd : VecCmd) (used srcs : List Nat) : State :=
  ((s.enqueue (.vector cmd)).modMe fun x => { x.usePtrs used.eraseDups with tl := x.tl + 1 }).completeNone srcs

section
variable (s : State) (cmd : VecCmd) (used srcs : List Nat)

theorem vectorQueued_queue : ((vectorQueued s cmd used srcs).coreRec s.here).queue = (s.coreRec s.here).queue ++ [.vector cmd] := by
  rw [vectorQueued, completeNone_queue, coreRec_modMe, enqueue_queue]

theorem vectorQueued_me : (vectorQueued s cmd used srcs).me = ({ s.me.usePtrs used.eraseDups with tl := s.me.tl + 1 } : Slot).advance := by
  rw [vectorQueued, completeNone_me, me_modMe, enqueue_me]

theorem vectorQueued_frame : (vectorQueued s cmd used srcs).mem = s.mem ∧ (vectorQueued s cmd used srcs).regs = s.regs ∧
    (vectorQueued s cmd used srcs).regFull = s.regFull := by
  simp [vectorQueued, State.completeNone, State.enqueue]

theorem vectorQueued_tl : (vectorQueued s cmd used srcs).me.tl = s.me.tl + 1 := by
  rw [vectorQueued_me]; rfl

theorem vectorQueued_pc (h : s.me.loops = []) : (vectorQueued s cmd used srcs).me.pc = s.me.pc + 4 := by
  have hloops : ({ s.me.usePtrs used.eraseDups with tl := s.me.tl + 1 } : Slot).loops = [] := by rw [Slot.usePtrs_frame]; exact h
  rw [vectorQueued_me, Slot.advance_straight _ hloops, Slot.usePtrs_frame]

theorem vectorQueued_ptr (i : Nat) : (vectorQueued s cmd used srcs).me.ptr i = if i ∈ used then ptrUsed (s.me.ptr i) else s.me.ptr i := by
  rw [vectorQueued_me]
  exact (Slot.usePtrs_ptr s.me (nodup_eraseDups used) i).trans (if_congr List.mem_eraseDups rfl rfl)

/-- A used pointer register with PI 1 moves by its signed STRIDE, and every other one is kept (R108). -/
theorem vectorQueued_moves (i : Nat) : let p := s.me.ptr i
    let t := vectorQueued s cmd used srcs
    (i ∈ used → bitAt p 56 = true → (fld (t.me.ptr i) 0 21 : Int) = (fld p 0 21 + signed (fld p 32 16) 16) % 2 ^ 21 ∧ fld (t.me.ptr i) 21 43 = fld p 21 43) ∧
    (i ∉ used ∨ bitAt p 56 = false → t.me.ptr i = p) := by
  intro p t
  have hptr : t.me.ptr i = if i ∈ used then ptrUsed p else p := vectorQueued_ptr s cmd used srcs i
  refine ⟨fun hi hb => ?_, fun h => ?_⟩
  · rw [hptr, if_pos hi, ptrUsed, if_pos hb]
    exact ⟨ptrStep_off _ _, ptrStep_above _ _⟩
  · rw [hptr]
    rcases h with hi | hb
    · rw [if_neg hi]
    · rw [ptrUsed, hb]
      exact ite_self _

end

/-! ### The instruction -/

theorem exec_vector (d a b : PtrCode) (ty : BitVec 4) (n : RegCode) (s : State) : ∀ p ∈ vectorForms d a b ty n,
    exec p.1 s = s.finish (vecIssue p.1.word p.2.1 d.toNat p.2.2.1 p.2.2.2 ty n s) := by
  simp only [vectorForms, List.forall_mem_append, List.forall_mem_cons, List.not_mem_nil, false_implies, implies_true, and_true]
  and_intros
  all_goals rfl

theorem queueFull_or_iff (s : State) :
    (s.queueFull s.here || decide (63 ≤ s.me.tl)) = true ↔ 2 ≤ (s.coreRec s.here).queue.length ∨ 63 ≤ s.me.tl := by
  simp only [State.queueFull, Bool.or_eq_true, decide_eq_true_eq]

/-- A vector instruction whose count can be read goes through the checks of R112 in order, then forfeits or queues its command (R113). -/
theorem vecIssue_eq {word : Word} {n : RegCode} {s : State} {w : Word} (op : VecOp) (d a b : Nat) (ty : BitVec 4)
    (ho : s.operands word [n.toNat] [] = .ok [w]) : let cmd := vectorCommand s op ty a b d w
    let used := usedPointers op a b d cmd.modifier
    let checked := checkStreams s.here ((streamsOf op ty.toNat cmd.modifier cmd.count cmd.pa cmd.pb cmd.pd cmd.pk).map (streamExtent cmd.count))
    vecIssue word op d a b ty n s =
      if used.any (fun i => ptrReserved (s.me.ptr i)) then .error (.trap 0x01 word)
      else if op.legal ty.toNat cmd.modifier = false then .error (.trap 0x01 word)
      else checked.bind fun _ =>
        if 2 ≤ (s.coreRec s.here).queue.length ∨ 63 ≤ s.me.tl then .error .forfeit else .ok (vectorQueued s cmd used [n.toNat]) := by
  intro cmd used checked
  have hcount : fld (arg [w] 0) 0 32 = cmd.count := by
    show fld w 0 32 = w.toNat % 2 ^ 32
    rw [fld_eq_div_mod, Nat.pow_zero, Nat.div_one]
  have hmod : fld (arg [w] 0) 32 32 = cmd.modifier := by
    show fld w 32 32 = w.toNat / 2 ^ 32
    have := w.isLt
    rw [fld_eq_div_mod]
    omega
  simp only [vecIssue, ho, hcount, hmod, usedPointers_eq, vecStreams_eq, queueFull_or_iff, Bool.not_eq_true']
  refine if_congr Iff.rfl rfl (if_congr Iff.rfl rfl ?_)
  split
  next e he => rw [show checked = .error e from he]; rfl
  next u hu => rw [show checked = .ok u from hu]; rfl

/-- A modifier has 32 bits (R111). -/
theorem vectorCommand_modifier_lt (s : State) (op : VecOp) (ty : BitVec 4) (a b d : Nat) (w : Word) : (vectorCommand s op ty a b d w).modifier < 2 ^ 32 :=
  Nat.div_lt_of_lt_mul w.isLt

section
variable {word : Word} {n : RegCode} {s : State} {w : Word} {op : VecOp} {d a b : Nat} {ty : BitVec 4} (ho : s.operands word [n.toNat] [] = .ok [w])
include ho

/-- A reserved bit in a used pointer traps 0x01 (R112 step 1). -/
theorem vecIssue_reserved
    (hr : (usedPointers op a b d (vectorCommand s op ty a b d w).modifier).any (fun i => ptrReserved (s.me.ptr i)) = true) :
    vecIssue word op d a b ty n s = .error (.trap 0x01 word) := by
  rw [vecIssue_eq op d a b ty ho, if_pos hr]

variable (hr : (usedPointers op a b d (vectorCommand s op ty a b d w).modifier).any (fun i => ptrReserved (s.me.ptr i)) = false)
include hr

/-- An illegal modifier traps 0x01 (R112 step 2). -/
theorem vecIssue_badModifier (hm : ¬ LegalModifier op ty.toNat (vectorCommand s op ty a b d w).modifier) :
    vecIssue word op d a b ty n s = .error (.trap 0x01 word) := by
  rw [← legal_iff op _ (vectorCommand_modifier_lt s op ty a b d w), Bool.not_eq_true] at hm
  rw [vecIssue_eq op d a b ty ho, if_neg (Bool.not_eq_true _ ▸ hr), if_pos hm]

/-- With its pointers and its modifier in order an instruction goes through the checks of its streams, then forfeits or queues (R112, R113). -/
theorem vecIssue_streams (hm : LegalModifier op ty.toNat (vectorCommand s op ty a b d w).modifier) : let cmd := vectorCommand s op ty a b d w
    vecIssue word op d a b ty n s =
      (checkStreams s.here ((streamsOf op ty.toNat cmd.modifier cmd.count cmd.pa cmd.pb cmd.pd cmd.pk).map (streamExtent cmd.count))).bind fun _ =>
        if 2 ≤ (s.coreRec s.here).queue.length ∨ 63 ≤ s.me.tl then .error .forfeit
        else .ok (vectorQueued s cmd (usedPointers op a b d cmd.modifier) [n.toNat]) := by
  rw [← legal_iff op _ (vectorCommand_modifier_lt s op ty a b d w)] at hm
  rw [vecIssue_eq op d a b ty ho, if_neg (Bool.not_eq_true _ ▸ hr), if_neg (Bool.not_eq_false _ ▸ hm)]

end

/-- Settles O43: the checks of R112 in order; an instruction that passes them forfeits, or queues its command and uses its pointer registers. -/
theorem vectorInstructionsAreQueued : Obligations.VectorInstructionsAreQueued := by
  unfold Obligations.VectorInstructionsAreQueued
  intro d a b ty n s w p hp ho cmd used streams
  have hx := exec_vector d a b ty n s p hp
  have hany : used.any (fun i => ptrReserved (s.me.ptr i)) = true ↔
      ∃ i ∈ used, fld (s.me.ptr i) 21 11 ≠ 0 ∨ fld (s.me.ptr i) 48 8 ≠ 0 ∨ fld (s.me.ptr i) 58 6 ≠ 0 := by
    simp only [List.any_eq_true, ptrReserved_iff]
  refine ⟨fun hr => ?reserved, fun hclear => ?_⟩
  case reserved => rw [hx, vecIssue_reserved ho (hany.mpr hr), finish_error, stop_trap]
  have hr : used.any (fun i => ptrReserved (s.me.ptr i)) = false := by
    rw [← Bool.not_eq_true, hany]
    rintro ⟨i, hi, h⟩
    obtain ⟨h21, h48, h58⟩ := hclear i hi
    exact h.elim (· h21) (·.elim (· h48) (· h58))
  refine ⟨fun hm => ?modifier, fun hm => ?_⟩
  case modifier => rw [hx, vecIssue_badModifier ho hr hm, finish_error, stop_trap]
  rw [vecIssue_streams ho hr hm] at hx
  have hsplits {l r : List (Word × Nat × Nat)} {x : Word × Nat × Nat} {e : Stop} (hsplit : streams = l ++ x :: r)
      (he : checkStreams s.here ((l ++ x :: r).map (streamExtent cmd.count)) = .error e) : exec p.1 s = .next (s.stop e) := by
    rw [hx, show checkStreams s.here (streams.map (streamExtent cmd.count)) = .error e from hsplit ▸ he]
    rfl
  refine ⟨fun l x r hsplit => ⟨fun hl hout => ?outside, fun hin hl hmis => ?misaligned⟩, fun hgood => ?_⟩
  case outside => exact hsplits hsplit (checkStreams_outOfRange hl hout)
  case misaligned => exact hsplits hsplit (checkStreams_misaligned (hsplit ▸ hin) hl hmis)
  have hchecked : checkStreams s.here (streams.map (streamExtent cmd.count)) = .ok () := checkStreams_ok hgood
  replace hx : exec p.1 s = s.finish (if 2 ≤ (s.coreRec s.here).queue.length ∨ 63 ≤ s.me.tl then .error .forfeit
      else .ok (vectorQueued s cmd used [n.toNat])) := by rw [hx, hchecked]; rfl
  refine ⟨fun hq ht => ?queued, fun h => ?forfeit⟩
  case queued =>
    obtain ⟨hmem, hregs, hfull⟩ := vectorQueued_frame s cmd used [n.toNat]
    exact ⟨_, by rw [hx, if_neg (by omega), finish_ok], vectorQueued_queue s cmd used _, vectorQueued_tl s cmd used _, hmem, hregs, hfull,
      vectorQueued_pc s cmd used _, vectorQueued_moves s cmd used _⟩
  case forfeit => rw [hx, if_pos h, finish_error, stop_forfeit]

end Sys2Proof.Machine

/-! ## Sequencer instructions at issue (O53) -/

namespace Sys2Proof.Machine

open State Sys2Proof.Claims

/-! ### The operands of a command (R352, R354) -/

theorem rangeLegal_iff (w : Word) : rangeLegal w = true ↔ fld w 16 48 = 0 ∧ fld w 0 8 + fld w 8 8 + 1 ≤ 256 := by
  simp only [rangeLegal, Bool.and_eq_true, beq_iff_eq, decide_eq_true_eq]

/-- A block of the own core off its alignment traps 0x03 (R354). -/
theorem State.ownBlock_misaligned {s : State} {a : Word} {al off : Nat} (hr : s.resolveSpad a 1 false = .ok (s.here, off)) (h : off % al ≠ 0) :
    s.ownBlock a al = .error (.trap 0x03 a) := by
  simp only [State.ownBlock, hr, ne_eq, not_true_eq_false, if_false, if_pos h]

theorem seqOperands_badRange (s : State) (word : Word) {op : SeqOp} (hop : op = .stage ∨ op = .finish ∨ op = .dec ∨ op = .act) {a : Word} (b : Word)
    (h : rangeLegal a = false) : seqOperands s word op a b = .error (.trap 0x01 word) := by
  rcases hop with rfl | rfl | rfl | rfl <;> simp [seqOperands, h]

theorem seqOperands_badName (s : State) (word : Word) {a b : Word} (h : rangeLegal a = true) (h0 : b ≠ 0) (hn : isName b = false) :
    seqOperands s word .dec a b = .error (.trap 0x04 b) := by
  have hb : (decide (b ≠ 0) && !isName b) = true := by rw [hn, decide_eq_true h0]; rfl
  simp only [seqOperands, h, hb, Bool.not_true, Bool.false_eq_true, if_false, if_true]

theorem seqOperands_misaligned {s : State} (word : Word) {op : SeqOp} (hop : op = .tab ∨ op = .cfg ∨ op = .load) {a : Word} (b : Word) {off : Nat}
    (hr : s.resolveSpad a 1 false = .ok (s.here, off)) (h : off % 8 ≠ 0) : seqOperands s word op a b = .error (.trap 0x03 a) := by
  rcases hop with rfl | rfl | rfl <;> simp only [seqOperands, ownBlock_misaligned hr h]

/-! ### The queue -/

theorem State.awaitDest_coreRec {s : State} {d : Nat} (hq : s.me.queueOf d = none) (c : Nat) : (s.awaitDest d).coreRec c = s.coreRec c := by
  simp only [State.awaitDest, hq, State.markAwaiting]
  split
  · rfl
  · split
    · rfl
    · rw [setRegFull_frame]; rfl

/-- The registers that a sequencer instruction reads. -/
def seqSources (a : RegCode) (b : Option RegCode) : List Nat := a.toNat :: (b.map BitVec.toNat).toList

/-- The command that a sequencer instruction of the issuing slot queues with the operands o (R352). -/
def sequencerCommand (s : State) (op : SeqOp) (d : RegCode) (o : Word × Word) : SeqCmd :=
  { uid := s.me.uid, op := op, ctx := s.me.ctx, mode := s.me.mode, a := o.1, b := o.2, reg := d.toNat, rm := roundingMode s.me.flags }

/-- The state after a sequencer instruction has queued command q, counted it in TL and read its registers (R113). -/
def sequencerIssued (s : State) (q : SeqCmd) (srcs : List Nat) : State :=
  ((s.enqueue (.sequencer q)).modMe fun z => { z with tl := z.tl + 1 }).consume srcs

theorem sequencerIssued_me (s : State) (q : SeqCmd) (srcs : List Nat) : (sequencerIssued s q srcs).me = { s.me with tl := s.me.tl + 1 } := by
  rw [sequencerIssued, consume_me, me_modMe, enqueue_me]

theorem sequencerIssued_window {s : State} (q : SeqCmd) (srcs : List Nat) {d : Nat} (hd : WindowCode s d) : WindowCode (sequencerIssued s q srcs) d := by
  have hnum : (sequencerIssued s q srcs).num = s.num := consume_num _ _
  rw [WindowCode, sequencerIssued_me, State.isMail, hnum]
  exact hd

/-- That state once register d awaits the result and the instruction is over (R352). -/
def sequencerQueued (s : State) (q : SeqCmd) (srcs : List Nat) (d : Nat) : State := ((sequencerIssued s q srcs).awaitDest d).advance

section
variable (s : State) (q : SeqCmd) (srcs : List Nat) (d : Nat)

theorem sequencerQueued_frame : (sequencerQueued s q srcs d).mem = s.mem ∧ (sequencerQueued s q srcs d).regs = s.regs := by
  constructor
  · rw [sequencerQueued, advance_mem, awaitDest_mem, sequencerIssued, consume_mem]; rfl
  · rw [sequencerQueued, advance_regs, awaitDest_frame, sequencerIssued, consume_regs]; rfl

theorem sequencerQueued_me : ∃ w, (sequencerQueued s q srcs d).me = ({ s.me with tl := s.me.tl + 1, awaiting := w } : Slot).advance := by
  obtain ⟨w, hw⟩ := awaitDest_me (sequencerIssued s q srcs) d
  exact ⟨w, by rw [sequencerQueued, advance_me, hw, sequencerIssued_me]⟩

theorem sequencerQueued_tl : (sequencerQueued s q srcs d).me.tl = s.me.tl + 1 := by
  obtain ⟨w, hw⟩ := sequencerQueued_me s q srcs d
  rw [hw]; rfl

theorem sequencerQueued_pc (h : s.me.loops = []) : (sequencerQueued s q srcs d).me.pc = s.me.pc + 4 := by
  obtain ⟨w, hw⟩ := sequencerQueued_me s q srcs d
  rw [hw, Slot.advance_straight { s.me with tl := s.me.tl + 1, awaiting := w } h]

variable {d} (hd : WindowCode s d)
include hd

theorem sequencerQueued_queue : ((sequencerQueued s q srcs d).coreRec s.here).queue = (s.coreRec s.here).queue ++ [.sequencer q] := by
  rw [sequencerQueued, advance_coreRec, awaitDest_coreRec (sequencerIssued_window q srcs hd).unbound, sequencerIssued, consume_queue, coreRec_modMe,
    enqueue_queue]

/-- The register of the result is empty and awaits it (R352). -/
theorem sequencerQueued_register (h0 : d ≠ 0) :
    (sequencerQueued s q srcs d).regIsFull s.cur d = false ∧ (sequencerQueued s q srcs d).awaits s.cur d = true := by
  have hw := sequencerIssued_window q srcs hd
  have hcur : (sequencerIssued s q srcs).cur = s.cur := consume_cur _ _
  rw [sequencerQueued, ← hcur]
  exact awaitDest_register hw.unbound hw.noMail h0 hd.2.1

end

/-! ### The instruction -/

/-- Each form is issued with its command and its registers. -/
theorem exec_sequencer (d a b : RegCode) : ∀ p ∈ sequencerForms d a b,
    ∃ b', p.2.2 = seqSources a b' ∧ ∀ s, exec p.1 s = s.finish (seqIssue p.1.word p.2.1 d a b' s) := by
  simp only [sequencerForms, List.forall_mem_cons, List.not_mem_nil, false_implies, implies_true, and_true]
  exact ⟨⟨none, rfl, fun _ => rfl⟩, ⟨none, rfl, fun _ => rfl⟩, ⟨some b, rfl, fun _ => rfl⟩, ⟨some b, rfl, fun _ => rfl⟩, ⟨none, rfl, fun _ => rfl⟩,
    ⟨some b, rfl, fun _ => rfl⟩, ⟨none, rfl, fun _ => rfl⟩, ⟨none, rfl, fun _ => rfl⟩⟩

/-- An instruction whose registers can be read checks its contents, then forfeits, or queues its command where its result can be written (R352). -/
theorem seqIssue_eq {d a : RegCode} {b : Option RegCode} {s : State} {word : Word} {op : SeqOp} {vs : List Word}
    (ho : s.operands word (seqSources a b) [d.toNat] = .ok vs) : seqIssue word op d a b s = (seqOperands s word op (arg vs 0) (arg vs 1)).bind fun o =>
    if 2 ≤ (s.coreRec s.here).queue.length ∨ 63 ≤ s.me.tl then .error .forfeit
    else (s.destReady d.toNat).bind fun _ => .ok (sequencerQueued s (sequencerCommand s op d o) (seqSources a b) d.toNat) := by
  cases b
  all_goals
    simp only [seqSources, Option.map_none, Option.map_some, Option.toList] at ho
    simp only [seqIssue, List.append_nil, List.singleton_append, ho]
    cases seqOperands s word op (arg vs 0) (arg vs 1) with
    | error e => rfl
    | ok o =>
      simp only [queueFull_or_iff, Except.bind]
      refine if_congr Iff.rfl rfl ?_
      cases s.destReady d.toNat <;> rfl

/-- The same of each form, with the registers that the form reads. -/
theorem exec_sequencer_eq {d a b : RegCode} {s : State} {vs : List Word} {p : Instr × SeqOp × List Nat} (hp : p ∈ sequencerForms d a b)
    (ho : s.operands p.1.word p.2.2 [d.toNat] = .ok vs) :
    exec p.1 s = s.finish ((seqOperands s p.1.word p.2.1 (arg vs 0) (arg vs 1)).bind fun o =>
      if 2 ≤ (s.coreRec s.here).queue.length ∨ 63 ≤ s.me.tl then .error .forfeit
      else (s.destReady d.toNat).bind fun _ => .ok (sequencerQueued s (sequencerCommand s p.2.1 d o) p.2.2 d.toNat)) := by
  obtain ⟨b', hsrcs, hx⟩ := exec_sequencer d a b p hp
  rw [hsrcs] at ho ⊢
  rw [hx, seqIssue_eq ho]

/-- Settles O53: legal contents forfeit or queue their command; each kind of bad contents traps at issue. -/
theorem sequencerCommandsAreQueued : Obligations.SequencerCommandsAreQueued := by
  unfold Obligations.SequencerCommandsAreQueued
  refine ⟨fun d a b s p hp vs x y ho hl => ?legal, fun d a b s p hp vs ho => ?refused⟩
  case legal =>
    have hx := exec_sequencer_eq hp ho
    rw [hl] at hx
    refine ⟨fun hf => ?forfeit, fun hq ht hd hw _ => ?queued⟩
    case forfeit => rw [hx, Except.bind, if_pos hf, finish_error, stop_forfeit]
    case queued =>
      intro q
      obtain ⟨hmem, hregs⟩ := sequencerQueued_frame s q p.2.2 d.toNat
      have hnext : exec p.1 s = .next (sequencerQueued s q p.2.2 d.toNat) := by
        rw [hx, Except.bind, if_neg (by omega), hd]; rfl
      exact ⟨_, hnext, sequencerQueued_queue s q _ hw, sequencerQueued_tl s q _ _, hmem, hregs,
        fun h0 => sequencerQueued_register s q _ hw (mt (BitVec.eq_of_toNat_eq (y := 0)) h0), sequencerQueued_pc s q _ _⟩
  case refused =>
    have hrefused {e : Stop} (he : seqOperands s p.1.word p.2.1 (arg vs 0) (arg vs 1) = .error e) : exec p.1 s = .next (s.stop e) := by
      rw [exec_sequencer_eq hp ho, he]; rfl
    refine ⟨fun hop hr => hrefused (seqOperands_badRange s _ hop _ ?range), fun hop hr h0 hn => hrefused (e := .trap 0x04 (arg vs 1)) ?name,
      fun hop off hr h8 => hrefused (seqOperands_misaligned _ hop _ hr h8)⟩
    case range =>
      rw [← Bool.not_eq_true, rangeLegal_iff]
      omega
    case name =>
      rw [hop]
      exact seqOperands_badName s _ hr h0 hn

end Sys2Proof.Machine

/-! ## Full/empty operations of another core's word (O26) -/

namespace Sys2Proof.Machine

open State Sys2Proof.Claims

/-! ### The instruction -/

theorem FeOp.reads_eq_decide (op : FeOp) : op.reads = decide (op = .lds ∨ op = .ldf) := by cases op <;> rfl

/-- An operation that reads a value waits for it (R295). -/
theorem FeOp.reads_of_posted {op : FeOp} (h : op.waits = false) : op.reads = false := by
  cases op with
  | lds | ldf | sts => cases h
  | stf | empty => rfl

section
variable {word : Word} {op : FeOp} {srcs dsts : List Nat} {ord : BitVec 2} {sc : BitVec 3} {s s1 : State} {vs : List Word} {a v : Word} {c d o : Nat}

/-- A full/empty operation whose sources are read, whose word is known and whose release is done performs its step (R294). -/
theorem fe_released (hv : s.operands word srcs dsts = .ok vs) (hw : s.resolveFe (arg vs 0) = .ok (c, o))
    (hcod : op.waits = true → c ≠ s.here → s.me.codelet = false) (hr : Released ord sc (arg vs 0) s) :
    fe word op srcs dsts ord sc s = feAt s op srcs (dsts.headD 0) (arg vs 0) (arg vs 1) c o := by
  have hparks : (op.waits && decide (c ≠ s.here) && s.me.codelet) = false := by
    cases hwaits : op.waits with
    | false => rfl
    | true =>
      by_cases hc : c = s.here
      · simp [hc]
      · rw [hcod hwaits hc, Bool.and_false]
  have hrel : (if ord.getLsbD 1 = true then s.release (scopeOf sc) (arg vs 0) else .ok none) = .ok none := by
    split
    next h => exact hr h
    next => rfl
  simp only [fe, hv, hw, hparks, hrel, Bool.false_eq_true, if_false]

/-- The state after the request of an operation that waits: its TOUCH bit is set, and the thread is out of the rotation (R295, R103). -/
def feAsked (s1 : State) (id c key : Nat) (a : Word) (srcs : List Nat) : State :=
  (s1.touch (State.touchBit key)).waitFor id (.core c) a true false srcs

theorem feAt_waits (hwaits : op.waits = true) (hd : op.reads = true → s.destReady d = .ok ()) (hc : c ≠ s.here)
    (hq : s.request (.core c) (.fe op (spadKey c o) v d a) = .ok s1) :
    feAt s op srcs d a v c o = .ok (feAsked s1 s.nextId c (spadKey c o) a srcs) := by
  have hready : (if op.reads = true then s.destReady d else .ok ()) = .ok () := by
    split
    next h => exact hd h
    next => rfl
  simp only [feAt, hready, hc, hwaits, hq, if_false, if_true, feAsked]

/-- An operation that does not wait is posted as a store is. -/
theorem feAt_posts (hwaits : op.waits = false) (hc : c ≠ s.here) (hc' : c < 1280) (ho : o < 0x180000) (hst : s.me.st < 63)
    (hq : s.request (.core c) (.fe op (spadKey c o) v d a) = .ok s1) : feAt s op srcs d a v c o = .ok (storePosted s1 (clusterOf c) srcs) := by
  have hreads : op.reads = false := FeOp.reads_of_posted hwaits
  have hk : keyNode (spadKey c o) = .core c := keyNode_spadKey hc' (by omega)
  simp only [feAt, hreads, hc, hwaits, Bool.false_eq_true, if_false]
  rw [post_sends hst (hk ▸ hq), touchBit_spadKey hc' ho]

/-- What an operation that waits leaves, once its request from s has made s1 (R295, R297). -/
def FeIsAsked (s s1 t : State) : Prop :=
  t.net = s1.net ∧ t.me.phase = .parked ∧ t.me.park = .remote s.nextId ∧ t.me.pc = s.me.pc ∧ t.mem = s.mem

theorem feAsked_isAsked (h : SameThread s s1) (key : Nat) : FeIsAsked s s1 (feAsked s1 s.nextId c key a srcs) := by
  have hmem : s1.mem = s.mem := h.2.2.1
  obtain ⟨w, hw⟩ := waitFor_me (s1.touch (State.touchBit key)) s.nextId (.core c) a true false srcs
  rw [State.touch, me_modMe, h.me] at hw
  refine ⟨rfl, ?_, ?_, ?_, hmem⟩
  all_goals rw [feAsked, State.touch, hw]

/-- LDS, LDF or STS of another core's word. -/
theorem fe_asks (hv : s.operands word srcs dsts = .ok vs) (hw : s.resolveFe (arg vs 0) = .ok (c, o)) (hc : c ≠ s.here)
    (hcod : s.me.codelet = false) (hr : Released ord sc (arg vs 0) s) (hwaits : op.waits = true)
    (hd : op.reads = true → s.destReady (dsts.headD 0) = .ok ())
    (hq : s.request (.core c) (.fe op (spadKey c o) (arg vs 1) (dsts.headD 0) (arg vs 0)) = .ok s1) :
    ∃ t, s.finish (fe word op srcs dsts ord sc s) = .next t ∧ FeIsAsked s s1 t := by
  refine ⟨_, ?_, feAsked_isAsked (c := c) (a := arg vs 0) (srcs := srcs) (requestAs_sameThread hq) (spadKey c o)⟩
  rw [fe_released hv hw (fun _ _ => hcod) hr, feAt_waits hwaits hd hc hq, finish_ok]

/-- STF or EMPTY of another core's word. -/
theorem fe_posts (hv : s.operands word srcs dsts = .ok vs) (hw : s.resolveFe (arg vs 0) = .ok (c, o)) (hc : c ≠ s.here)
    (hc' : c < 1280) (ho : o < 0x180000) (hr : Released ord sc (arg vs 0) s) (hwaits : op.waits = false) (hst : s.me.st < 63)
    (hq : s.request (.core c) (.fe op (spadKey c o) (arg vs 1) (dsts.headD 0) (arg vs 0)) = .ok s1) :
    s.finish (fe word op srcs dsts ord sc s) = .next (storePosted s1 (clusterOf c) srcs) := by
  rw [fe_released hv hw (fun h => by rw [hwaits] at h; cases h) hr, feAt_posts hwaits hc hc' ho hst hq, finish_ok]

end

/-! ### The owner -/

theorem State.waitRoom_iff {s : State} {c : Nat} : s.waitRoom c = true ↔ (s.coreRec c).waiting.length < 256 := decide_eq_true_iff

theorem exec_feRemoteRequest {s : State} {m : Nat} {x : Msg} {op : FeOp} {key reg : Nat} {v info : Word} (hp : s.performable m = some x)
    (hb : x.body = .fe op key v reg info) : exec (.feRemoteRequest m) s = .next
      (if op.can (s.isFull key) = true then (s.feApply op key v).respond x (feReply s op key reg)
      else if s.waitRoom (keyCore key) = true then s.moveToWait (keyCore key) x else s.respond x (.retry none none)) := by
  show Host.Outcome.next (feRemote m s) = _
  simp only [feRemote, hp, hb]

/-- The first request on its word that can complete is served from the wait store once a response entry is free (R297, R272). -/
theorem feServe_serves {s : State} {c : Nat} {x : Msg} {op : FeOp} {key reg : Nat} {v info : Word} (hb : x.body = .fe op key v reg info)
    (hfirst : (s.coreRec c).waiting.find? (waitsOnWord key) = some x) (hcan : op.can (s.isFull key) = true) (he : (s.coreRec c).entries < 16) :
    feServe c x s = ((s.modCore c fun r => { r with waiting := r.waiting.filter (·.id != x.id), entries := r.entries + 1 }).feApply op key v).sendAs
      { x with src := x.dst, dst := x.src, resp := true, started := true, body := feReply s op key reg } := by
  simp only [feServe, hb, hfirst, Option.any_some, hcan, Config.responseEntries, he, beq_self_eq_true, decide_true, Bool.and_self, if_true]

theorem exec_waitStoreServe_fe {s : State} {c m : Nat} {x : Msg} {op : FeOp} {key reg : Nat} {v info : Word}
    (hc : (s.cores.find? fun e => e.2.waiting.any (·.id == m)) = some (c, s.coreRec c)) (hx : (s.coreRec c).waiting.find? (·.id == m) = some x)
    (hb : x.body = .fe op key v reg info) : exec (.waitStoreServe m) s = .next (feServe c x s) := by
  show Host.Outcome.next (waitStoreServe m s) = _
  simp only [waitStoreServe, hc, hx, hb]

/-- A request still in the wait store is taken from there and answered as cancelled (R299). -/
theorem exec_cancelRequest {s : State} {m c op : Nat} {x w : Msg} {o : FeOp} {k reg : Nat} {v info : Word} (hp : s.performable m = some x)
    (hb : x.body = .cancel op) (hd : x.dst = .core c) (hw : (s.coreRec c).waiting.find? (·.id == op) = some w) (hwb : w.body = .fe o k v reg info) :
    exec (.cancelRequest m) s = .next (((s.dropMsg m).modCore c fun r => { r with waiting := r.waiting.filter (·.id != op) }).sendAs
      { w with src := w.dst, dst := w.src, resp := true, body := .cancelled info o.reads }) := by
  show Host.Outcome.next (cancelRequest m s) = _
  simp only [cancelRequest, cancelAt, hp, hb, hd, hw, hwb]

/-! ### Answers -/

theorem exec_feAnswer_value {s : State} {m reg : Nat} {x : Msg} {w : Word} (hr : s.response m = some x) (hb : x.body = .feAnswer reg (some w))
    (hw : (s.dropMsg m).waitsFor x.uid m = true) :
    exec (.feAnswer m) s = .next (((s.dropMsg m).arriveReg x.uid reg w).resumeThread x.uid) := by
  show Host.Outcome.next (feAnswer m s) = _
  simp only [feAnswer, hr, hb, hw, if_true]

theorem exec_retryAnswer_again {s : State} {m : Nat} {x : Msg} (hr : s.response m = some x) (hb : x.body = .retry none none)
    (hw : s.waitsFor x.uid m = true) :
    exec (.retryAnswer m) s = .next (((s.dropMsg m).retryThread x.uid).modThread x.uid fun sl => { sl with barwToken := none }) := by
  show Host.Outcome.next (retryAnswer m s) = _
  simp only [retryAnswer, hr, hb, hw, if_true]

/-! ### Limits -/

/-- A wait for a word past its limit, on a core that issues, has expired (R299). -/
theorem waitExpired_word {s : State} {u t : Nat} {w : Wait} (hf : s.findThread u = some t) (hw : (s.slot t).wait = some w) (hb : w.barrier = false)
    (hc : w.cancelled = false) (h0 : 0 < w.limit) (hl : w.start + w.limit < (s.coreRec (t / 64)).cycle)
    (hs : Store.get false s.dev.stopped (t / 64) = false) : waitExpired u false s = some (t / 64, s.slot t, w) := by
  have hthread : s.thread u = some (s.slot t) := by simp only [State.thread, hf]
  have hcore : s.threadCore u = some (t / 64) := by simp only [State.threadCore, hf]
  have hlim : w.limit < (s.coreRec (t / 64)).cycle - w.start := by omega
  simp only [waitExpired, hthread, hcore, hw, hb, hc, hs, hlim, Nat.ne_of_gt h0, beq_self_eq_true, Bool.not_false, Bool.and_self, decide_true,
    ne_eq, not_false_eq_true, if_true]

/-- The expired wait of a thread in a slot sends its cancel as one message (R299, R265). -/
theorem sendCancel_sends {s : State} {u t : Nat} {w : Wait} (hf : s.findThread u = some t) (h : waitExpired u false s = some (t / 64, s.slot t, w)) :
    ∃ msg, (sendCancel u false s).net = s.net ++ [msg] ∧ msg.body = .cancel w.op ∧ msg.dst = w.dst ∧ msg.slot = w.slot := by
  simp only [sendCancel, h, modThread_held hf]
  exact ⟨_, rfl, rfl, rfl, rfl⟩

section
variable {s : State} {m : Nat} {x : Msg} {info : Word} {reads : Bool}

theorem exec_cancelledAnswer_traps (hr : s.response m = some x) (hb : x.body = .cancelled info reads) (hw : s.waitsFor x.uid m = true)
    (hm : (s.dropMsg m).moverOf x.uid = none) : exec (.cancelledAnswer m) s = .next ((s.dropMsg m).trapThread x.uid 0x07 info) := by
  show Host.Outcome.next (cancelledAnswer m s) = _
  simp only [cancelledAnswer, hr, hb, hw, hm, State.lateFault, Option.isSome_none, Bool.false_eq_true, if_true, if_false]

/-- The slot after the instruction whose wait has ended (R145). -/
def Slot.pastWait (sl : Slot) : Slot := { sl.advance with phase := .ready, park := .none, wait := none }

/-- The movement slot past its wait still has its copy in service. -/
theorem State.moverOf_pastWait {q : Nat × CopyReq} {u : Nat} (h : s.moverOf u = some q) :
    (s.modThread u Slot.pastWait).moverOf u = some q ∧ (s.modThread u Slot.pastWait).mem = s.mem := by
  obtain ⟨t, ht⟩ := Option.ne_none_iff_exists'.mp (findThread_of_moverOf h)
  obtain ⟨-, ⟨-, hheld⟩, -⟩ := (findThread_iff s u t).mp ht
  have hfind : (s.modSlot t Slot.pastWait).findThread u = some t :=
    (findThread_setSlot s t (s.slot t).pastWait u rfl ⟨fun hp => Phase.noConfusion hp, fun hp => absurd hp hheld⟩).trans ht
  rw [modThread_held ht]
  refine ⟨?_, rfl⟩
  simp only [State.moverOf, ht] at h
  simpa only [State.moverOf, hfind, coreRec_modSlot] using h

theorem exec_cancelledAnswer_mover {q : Nat × CopyReq} (hr : s.response m = some x) (hb : x.body = .cancelled info reads) (hw : s.waitsFor x.uid m = true)
    (hm : (s.dropMsg m).moverOf x.uid = some q) : exec (.cancelledAnswer m) s = .next
      (((s.dropMsg m).modThread x.uid Slot.pastWait).lateFault x.uid 0x07 (if reads then 5 else 6) fun y => y.trapThread x.uid 0x07 info) := by
  show Host.Outcome.next (cancelledAnswer m s) = _
  simp only [cancelledAnswer, hr, hb, hw, hm, Option.isSome_some, if_true]
  rfl

end

/-- Settles O26: the request by whether its operation waits, the owner's step by whether it can complete, and the answers and limits of waits. -/
theorem remoteFullEmptyWaitsAndAnswers : Obligations.RemoteFullEmptyWaitsAndAnswers := by
  unfold Obligations.RemoteFullEmptyWaitsAndAnswers
  refine ⟨?loads, ?sts, ?posted, ?owner, fun s c m x op key v reg info hc hx hb hfirst hcan he => ?served,
    fun s m x reg w hr hb hw => exec_feAnswer_value hr hb hw, fun s m x hr hb hw => exec_retryAnswer_again hr hb hw, ?limit,
    fun s m x c op w o k v reg info ha hresp hcr hb hd hw hwb => ?cancel, fun s m x info reads hr hb hw =>
    ⟨fun hm => exec_cancelledAnswer_traps hr hb hw hm, fun c q hm => ?mover⟩⟩
  case loads =>
    intro d a ord sc s s1 x c o hx hc hrel hcod hd p hp ho hq
    simp only [List.mem_cons, List.not_mem_nil, or_false] at hp
    rcases hp with rfl | rfl
    · exact fe_asks ho hx hc hcod hrel rfl (fun _ => hd) hq
    · exact fe_asks ho hx hc hcod hrel rfl (fun _ => hd) hq
  case sts =>
    intro d a ord sc s s1 x v c o hx hc hrel hcod ho hq
    obtain ⟨t, ht, hnet, hphase, hpark, -, hmem⟩ := fe_asks (op := .sts) ho hx hc hcod hrel rfl (fun h => absurd h Bool.false_ne_true) hq
    exact ⟨t, ht, hnet, hphase, hpark, hmem⟩
  case posted =>
    intro d a ord sc s s1 x v c o hx hc hc' hoff hrel hst posted
    have left {i : Instr} {srcs : List Nat} {b : Body} (hq : s.request (.core c) b = .ok s1) (hi : exec i s = .next (storePosted s1 (clusterOf c) srcs)) :
        posted i := by
      have h1 : SameThread s s1 := requestAs_sameThread hq
      obtain ⟨hnet, hcred, -, hmem, -, -⟩ := storePosted_frame s1 (clusterOf c) srcs
      obtain ⟨hst', htouch, hpc⟩ := storePosted_slot h1 (clusterOf c) srcs
      have hphase : (storePosted s1 (clusterOf c) srcs).me.phase = s.me.phase := by rw [storePosted_me, h1.me]; rfl
      exact ⟨_, hi, hnet, hcred, hst', htouch, hphase, hpc, hmem.trans h1.2.2.1⟩
    exact ⟨fun ho hq => left hq (fe_posts ho hx hc hc' hoff hrel rfl hst hq), fun ho hq => left hq (fe_posts ho hx hc hc' hoff hrel rfl hst hq)⟩
  case owner =>
    intro s m x op key v reg info ha hresp hs hb
    have hx := exec_feRemoteRequest (performable_started ha hresp hs) hb
    refine ⟨fun hcan => by rw [hx, if_pos hcan], fun hcan hroom => ?_, fun hcan hfull => ?_⟩
    · rw [hx, if_neg (by rw [hcan]; decide), if_pos (waitRoom_iff.mpr hroom)]
    · rw [hx, if_neg (by rw [hcan]; decide), if_neg (mt waitRoom_iff.mp (Nat.not_lt.mpr hfull))]
  case served => rw [exec_waitStoreServe_fe hc hx hb, feServe_serves hb hfirst hcan he]
  case limit =>
    intro s u t w hf hw hb hc h0 hl hs
    exact ⟨_, (sendCancel_sends hf (waitExpired_word hf hw hb hc h0 hl hs)).imp fun msg h => ⟨rfl, h⟩⟩
  case cancel => rw [exec_cancelRequest (performable_ready ha hresp (.inr hcr)) hb hd hw hwb, FeOp.reads_eq_decide]
  case mover =>
    obtain ⟨hmover, hmem⟩ := moverOf_pastWait hm
    obtain ⟨hfin, hmem'⟩ := lateFault_mover (cause := 0x07) (operand := if reads then 5 else 6) hmover fun y => y.trapThread x.uid 0x07 info
    exact ⟨_, exec_cancelledAnswer_mover hr hb hw hm, hfin, hmem'.trans hmem⟩

end Sys2Proof.Machine

/-! ## Two writes of one number (O28) -/

namespace Sys2Proof.Machine

theorem Store.erase_erase {α : Type} (i : Nat) (l : Store α) : Store.erase i (Store.erase i l) = Store.erase i l := by
  induction l with
  | nil => rfl
  | cons e r ih =>
    obtain ⟨k, w⟩ := e
    by_cases hk : k = i <;> simp [Store.erase, hk, ih]

theorem Store.erase_insert {α : Type} (i : Nat) (v : α) (l : Store α) : Store.erase i (Store.insert i v l) = Store.erase i l := by
  induction l with
  | nil => simp [Store.insert, Store.erase]
  | cons e r ih =>
    obtain ⟨k, w⟩ := e
    by_cases hlt : i < k
    · simp [Store.insert, Store.erase, hlt]
    · simp [Store.insert, Store.erase, hlt, ih]

/-- Of two writes of one number the second stands. -/
theorem Store.set_set {α : Type} [DecidableEq α] (d : α) (l : Store α) (i : Nat) (v w : α) :
    Store.set d (Store.set d l i v) i w = Store.set d l i w := by
  have he : Store.erase i (Store.set d l i v) = Store.erase i l := by
    unfold Store.set
    split
    · exact erase_erase i l
    · rw [erase_insert, erase_erase]
  simp only [Store.set] at he ⊢
  rw [he]

end Sys2Proof.Machine

/-! ## Places of cores in their clusters (R9, R10; O28) -/

namespace Sys2Proof.Machine

open State Sys2Proof.Claims

theorem snakeOf_lt (t : Nat) : snakeOf t < 32 := by
  unfold snakeOf coreX coreY
  dsimp only
  split <;> omega

theorem clusterOf_lt {t : Nat} (h : t < 1280) : clusterOf t < 40 := by
  unfold clusterOf coreX coreY
  omega

theorem coreOfSnake_snakeOf (t : Nat) : coreOfSnake (clusterOf t) (snakeOf t) = t := by
  unfold coreOfSnake snakeOf clusterOf coreAt coreX coreY
  dsimp only
  split <;> split <;> omega

theorem coreOfSnake_lt {k p : Nat} (hk : k < 40) (hp : p < 32) : coreOfSnake k p < 1280 := by
  unfold coreOfSnake coreAt
  dsimp only
  split <;> omega

theorem clusterOf_coreOfSnake {k p : Nat} (hp : p < 32) : clusterOf (coreOfSnake k p) = k := by
  unfold coreOfSnake clusterOf coreAt coreX coreY
  dsimp only
  split <;> omega

/-- The cores at the snake positions of a cluster are the cores of that cluster. -/
theorem mem_clusterCores {k t : Nat} (hk : k < 40) : t ∈ (List.range 32).map (coreOfSnake k) ↔ t < 1280 ∧ clusterOf t = k := by
  simp only [List.mem_map, List.mem_range]
  constructor
  · rintro ⟨p, hp, rfl⟩
    exact ⟨coreOfSnake_lt hk hp, clusterOf_coreOfSnake hp⟩
  · rintro ⟨-, rfl⟩
    exact ⟨snakeOf t, snakeOf_lt t, coreOfSnake_snakeOf t⟩

end Sys2Proof.Machine

/-! ## Releases in the probe form (O28) -/

namespace Sys2Proof.Machine

open State Sys2Proof.Claims

/-! ### The destinations of a TOUCH bit (R314, R315) -/

section
variable {S : Scope} {c b : Nat} {e : Node × Nat}

/-- Beside `.core`, which probes no core, the cores that a scope holds are those that its release probes. -/
theorem Scope.holds_iff (hS : S ≠ .core) (c t : Nat) : S.holds c t = true ↔ InScope S c t := by
  cases S with
  | core => exact absurd rfl hS
  | clu => exact beq_iff_eq
  | die => exact beq_iff_eq
  | pkg => exact iff_of_true rfl trivial
  | pod => exact iff_of_true rfl trivial
  | rect r => simp only [Scope.holds, Rect.holds, InScope, Bool.and_eq_true, decide_eq_true_eq, and_assoc]

/-- The cores of cluster b inside a scope. -/
def coresInside (S : Scope) (c b : Nat) : List Nat := ((List.range 32).map (coreOfSnake b)).filter (S.holds c)

theorem probeOf_cluster (hb : b < 40) (hS : S ≠ .core) :
    probeOf S c b = ((coresInside S c b).map fun t => (Node.core t, 0), (coresInside S c b).length == 32) := by
  simp only [probeOf, hb, if_true]
  cases S with
  | core => exact absurd rfl hS
  | clu | die | pkg | pod | rect => rfl

theorem mem_coresInside (hb : b < 40) (hS : S ≠ .core) {t : Nat} : t ∈ coresInside S c b ↔ (t < 1280 ∧ clusterOf t = b) ∧ InScope S c t := by
  rw [coresInside, List.mem_filter, mem_clusterCores hb, Scope.holds_iff hS]

/-- The queue of channel group g lies inside the scope S of core c (R314). -/
def GroupInScope (S : Scope) (c g : Nat) : Prop := S = .pkg ∨ S = .pod ∨ (S = .die ∧ g / 4 = dieOf c)

/-- A channel group's bit has its queue for its one destination, inside a scope that holds it. -/
theorem probeOf_group (hb : 40 ≤ b) (hb' : b < 56) :
    (GroupInScope S c (b - 40) → probeOf S c b = ([(.chan (b - 40), 0)], true)) ∧ (¬ GroupInScope S c (b - 40) → (probeOf S c b).1 = []) := by
  simp only [probeOf, Nat.not_lt.mpr hb, hb', if_false, if_true, GroupInScope]
  cases S with
  | die =>
    dsimp only
    split
    next h => exact ⟨fun _ => rfl, fun hn => absurd (.inr (.inr ⟨rfl, h⟩)) hn⟩
    next h => exact ⟨fun hg => by simp [h] at hg, fun _ => rfl⟩
  | pkg | pod => simp
  | core | clu | rect => simp

/-- A fabric bit has the own die's gateway for its one destination, inside the pod. -/
theorem probeOf_fabric (hb : 56 ≤ b) :
    (S = .pod → probeOf S c b = ([(.gate (dieOf c), b - 56)], true)) ∧ (S ≠ .pod → (probeOf S c b).1 = []) := by
  have h40 : ¬ b < 40 := by omega
  simp only [probeOf, h40, Nat.not_lt.mpr hb, if_false]
  cases S with
  | pod => simp
  | core | clu | die | pkg | rect => simp

theorem mem_probeOf : e ∈ (probeOf S c b).1 ↔
    (b < 40 ∧ ∃ t, t < 1280 ∧ clusterOf t = b ∧ InScope S c t ∧ e = (.core t, 0)) ∨
    (40 ≤ b ∧ b < 56 ∧ GroupInScope S c (b - 40) ∧ e = (.chan (b - 40), 0)) ∨
    (56 ≤ b ∧ S = .pod ∧ e = (.gate (dieOf c), b - 56)) := by
  rcases Nat.lt_or_ge b 40 with hb | hb
  · have h40 : ¬ 40 ≤ b := by omega
    have h56 : ¬ 56 ≤ b := by omega
    by_cases hS : S = .core
    · subst hS; simp [probeOf, hb, h40, h56, InScope]
    · simp only [probeOf_cluster hb hS, List.mem_map, mem_coresInside hb hS, hb, h40, h56, true_and, false_and, or_false, and_assoc, eq_comm]
  · have h40 : ¬ b < 40 := by omega
    rcases Nat.lt_or_ge b 56 with hb' | hb'
    · have h56 : ¬ 56 ≤ b := by omega
      obtain ⟨hin, hout⟩ := probeOf_group (S := S) (c := c) hb hb'
      by_cases hg : GroupInScope S c (b - 40)
      · simp [hin hg, hg, hb, hb', h40, h56]
      · simp [hout hg, hg, h40, h56]
    · have h56 : ¬ b < 56 := by omega
      obtain ⟨hin, hout⟩ := probeOf_fabric (S := S) (c := c) hb'
      by_cases hS : S = .pod
      · rw [hin hS]; simp [hS, hb', h40, h56]
      · simp [hout hS, hS, h40, h56]

/-- A bit with a destination inside the scope, all of whose destinations lie there, is one that is probed whole. -/
theorem probeOf_whole : (probeOf S c b).1 ≠ [] ∧ (probeOf S c b).2 = true ↔ ProbedWhole S c b := by
  unfold ProbedWhole
  split
  next hb =>
    by_cases hS : S = .core
    · subst hS
      simp only [probeOf, hb, if_true, ne_eq, not_true_eq_false, false_and, false_iff, not_forall]
      exact ⟨coreOfSnake b 0, coreOfSnake_lt hb (by decide), clusterOf_coreOfSnake (by decide), id⟩
    · have hall : (coresInside S c b).length = 32 ↔ ∀ t, t < 1280 → clusterOf t = b → InScope S c t := by
        have hlen : ((List.range 32).map (coreOfSnake b)).length = 32 := by simp
        conv_lhs => rw [← hlen]
        rw [coresInside, List.length_filter_eq_length_iff]
        simp only [mem_clusterCores hb, Scope.holds_iff hS, and_imp]
      rw [probeOf_cluster hb hS, ← hall]
      simp only [beq_iff_eq, ne_eq, List.map_eq_nil_iff]
      exact ⟨fun h => h.2, fun h => ⟨fun h0 => absurd h (by rw [h0]; decide), h⟩⟩
  next hb =>
    split
    next hb' =>
      obtain ⟨hin, hout⟩ := probeOf_group (S := S) (c := c) (Nat.not_lt.mp hb) hb'
      by_cases hg : GroupInScope S c (b - 40)
      · rw [hin hg]; exact iff_of_true ⟨List.cons_ne_nil _ _, rfl⟩ hg
      · exact iff_of_false (fun h => h.1 (hout hg)) hg
    next hb' =>
      obtain ⟨hin, hout⟩ := probeOf_fabric (S := S) (c := c) (Nat.not_lt.mp hb')
      by_cases hS : S = .pod
      · rw [hin hS]; exact iff_of_true ⟨List.cons_ne_nil _ _, rfl⟩ hS
      · exact iff_of_false (fun h => h.1 (hout hS)) hS

end

/-! ### The bits and echoes of a release -/

theorem State.mem_probeBits {s : State} {S : Scope} {b : Nat} :
    b ∈ s.probeBits S ↔ b < 64 ∧ s.me.touch.getLsbD b = true ∧ (probeOf S s.here b).1 ≠ [] := by
  simp [State.probeBits, bitAt]

theorem State.mem_probeEchoes {s : State} {S : Scope} {e : Node × Nat} : e ∈ s.probeEchoes S ↔
    (∃ t, t < 1280 ∧ e = (.core t, 0) ∧ s.me.touch.getLsbD (clusterOf t) = true ∧ InScope S s.here t ∧ s.isOffline t = false) ∨
    (∃ g, g < 16 ∧ e = (.chan g, 0) ∧ s.me.touch.getLsbD (40 + g) = true ∧ GroupInScope S s.here g) ∨
    ∃ k, k < 8 ∧ e = (.gate (dieOf s.here), k) ∧ s.me.touch.getLsbD (56 + k) = true ∧ S = .pod := by
  simp only [State.probeEchoes, List.mem_flatMap, mem_probeBits, List.mem_filter]
  constructor
  · rintro ⟨b, ⟨hb, htouch, -⟩, hmem, hon⟩
    rcases mem_probeOf.mp hmem with ⟨-, t, ht, rfl, hin, rfl⟩ | ⟨h40, h56, hin, rfl⟩ | ⟨h56, hin, rfl⟩
    · exact .inl ⟨t, ht, rfl, htouch, hin, by simpa using hon⟩
    · exact .inr (.inl ⟨b - 40, by omega, rfl, by rwa [Nat.add_sub_cancel' h40], hin⟩)
    · exact .inr (.inr ⟨b - 56, by omega, rfl, by rwa [Nat.add_sub_cancel' h56], hin⟩)
  · rintro (⟨t, ht, rfl, htouch, hin, hon⟩ | ⟨g, hg, rfl, htouch, hin⟩ | ⟨k, hk, rfl, htouch, hin⟩)
    · have hb := clusterOf_lt ht
      have hmem : ((Node.core t, 0) : Node × Nat) ∈ (probeOf S s.here (clusterOf t)).1 := mem_probeOf.mpr (.inl ⟨hb, t, ht, rfl, hin, rfl⟩)
      exact ⟨clusterOf t, ⟨by omega, htouch, List.ne_nil_of_mem hmem⟩, hmem, by simp [hon]⟩
    · have hmem : ((Node.chan g, 0) : Node × Nat) ∈ (probeOf S s.here (40 + g)).1 :=
        mem_probeOf.mpr (.inr (.inl ⟨by omega, by omega, by rwa [Nat.add_sub_cancel_left], by rw [Nat.add_sub_cancel_left]⟩))
      exact ⟨40 + g, ⟨by omega, htouch, List.ne_nil_of_mem hmem⟩, hmem, rfl⟩
    · have hmem : ((Node.gate (dieOf s.here), k) : Node × Nat) ∈ (probeOf S s.here (56 + k)).1 :=
        mem_probeOf.mpr (.inr (.inr ⟨by omega, hin, by rw [Nat.add_sub_cancel_left]⟩))
      exact ⟨56 + k, ⟨by omega, htouch, List.ne_nil_of_mem hmem⟩, hmem, rfl⟩

theorem State.probeEchoes_untouched {s : State} (S : Scope) (h : s.me.touch = 0) : s.probeEchoes S = [] := by
  have hbits : s.probeBits S = [] := List.eq_nil_iff_forall_not_mem.mpr fun b hb => by
    have := (mem_probeBits.mp hb).2.1
    rw [h] at this
    simp at this
  rw [State.probeEchoes, hbits]; rfl

/-- Bits of a word set one after another, where p selects them. -/
theorem getLsbD_foldl_or (p : Nat → Bool) (l : List Nat) (w : Word) {i : Nat} (hi : i < 64) :
    (l.foldl (fun w b => if p b then w ||| (1#64 <<< b) else w) w).getLsbD i = true ↔ w.getLsbD i = true ∨ (i ∈ l ∧ p i = true) := by
  induction l generalizing w with
  | nil => simp
  | cons b r ih =>
    rw [List.foldl_cons, ih]
    by_cases hib : i = b
    · subst hib
      cases hp : p i <;> simp [hi]
    · have hbit : (1#64 <<< b).getLsbD i = false := by
        simp
        omega
      cases hp : p b <;> simp [hib, hbit]

theorem State.probeCleared_getLsbD {s : State} {S : Scope} {b : Nat} (hb : b < 64) :
    (s.probeCleared S).getLsbD b = true ↔ s.me.touch.getLsbD b = true ∧ ProbedWhole S s.here b := by
  rw [State.probeCleared, getLsbD_foldl_or _ _ _ hb, mem_probeBits, ← probeOf_whole]
  simp [hb, and_assoc]

/-! ### A release parks with its echoes -/

/-- The echo that the issuing slot's release sends to a destination (R315). -/
def State.echoMsg (s : State) (e : Node × Nat) : Msg :=
  { id := 0, uid := s.me.uid, src := .core s.here, slot := s.num, dst := e.1, ctx := s.me.ctx, sup := s.me.mode != 0, body := .echo e.2 }

theorem State.sendEchoes_cons (s : State) (e : Node × Nat) (r : List (Node × Nat)) :
    s.sendEchoes (e :: r) = (s.send (s.echoMsg e)).sendEchoes r := rfl

/-- Sending echoes changes the network alone. -/
theorem State.sendEchoes_frame (s : State) (l : List (Node × Nat)) :
    s.sendEchoes l = { s with net := (s.sendEchoes l).net, nextId := (s.sendEchoes l).nextId } := by
  induction l generalizing s with
  | nil => rfl
  | cons e r ih => rw [sendEchoes_cons, ih]; rfl

theorem State.sendEchoes_net (s : State) (l : List (Node × Nat)) : ∃ ms : List Msg, (s.sendEchoes l).net = s.net ++ ms ∧
    ms.map (fun x => (x.dst, x.body)) = l.map (fun e => (e.1, .echo e.2)) ∧
    ∀ x ∈ ms, x.src = .core s.here ∧ x.slot = s.num ∧ x.resp = false ∧ x.credit = none := by
  induction l generalizing s with
  | nil => exact ⟨[], (List.append_nil _).symm, rfl, fun x hx => absurd hx List.not_mem_nil⟩
  | cons e r ih =>
    obtain ⟨ms, hnet, hmap, hall⟩ := ih (s.send (s.echoMsg e))
    refine ⟨{ s.echoMsg e with id := s.nextId, frame := s.frameOf (s.echoMsg e) } :: ms, ?_, ?_, List.forall_mem_cons.mpr ⟨⟨rfl, rfl, rfl, rfl⟩, hall⟩⟩
    · rw [sendEchoes_cons, hnet]
      exact List.append_assoc _ [_] _
    · rw [List.map_cons, hmap]; rfl

/-- A release that is done, or has nothing to probe, is complete (R315). -/
theorem State.release_none {s : State} (S : Scope) (info : Word) (h : s.me.released = true ∨ s.me.touch = 0) : s.release S info = .ok none := by
  have hdone : (s.me.released || (s.probeEchoes S).isEmpty) = true := by
    rcases h with h | h
    · rw [h, Bool.true_or]
    · rw [probeEchoes_untouched S h, List.isEmpty_nil, Bool.or_true]
  simp only [State.release, hdone, if_true]

theorem State.release_some {s s1 : State} {S : Scope} {info : Word} (h : s.release S info = .ok (some s1)) :
    s1 = ((s.sendEchoes (s.probeEchoes S)).modMe fun sl => { sl with echoes := (s.probeEchoes S).length, probed := s.probeCleared S }).parkMe .echoes := by
  unfold State.release at h
  dsimp only at h
  split at h
  · cases h
  · split at h
    · cases h
    · exact (Option.some.inj (Except.ok.inj h)).symm

/-- The issuing slot of a release that waits for its echoes. -/
theorem State.release_me {s s1 : State} {S : Scope} {info : Word} (h : s.release S info = .ok (some s1)) : s1.me =
    { s.me with echoes := (s.probeEchoes S).length, probed := s.probeCleared S, phase := .parked, park := .echoes } := by
  have hme : (s.sendEchoes (s.probeEchoes S)).me = s.me := by rw [sendEchoes_frame]; rfl
  rw [release_some h, State.parkMe, me_modMe, me_modMe, hme]

/-! ### Parks -/

theorem State.modMe_modMe (s : State) (f g : Slot → Slot) : (s.modMe f).modMe g = s.modMe fun sl => g (f sl) := by
  have hme : (s.modMe f).slot s.cur = f s.me := me_modMe s f
  simp only [State.modMe, State.modSlot, State.setSlot] at hme ⊢
  rw [hme, Store.set_set]
  rfl

/-- The park of a thread that is no codelet is one change of its slot (R73, R154). -/
theorem State.stop_parks {s : State} (p : Park) (info : Word) (h : s.me.codelet = false) :
    s.stop (.park p info) = s.modMe fun sl => { sl with released := false, phase := .parked, park := p } := by
  rw [stop_park s p info h, State.parkMe, modMe_modMe]

/-! ### FENCE (R316) -/

theorem exec_fence_level {d : RegCode} {kind : BitVec 2} {sc : BitVec 3} {s : State} (h : sc ≠ 5) :
    exec (.fence d kind sc) s = s.finish (fenceAt (Instr.fence d kind sc).word [] kind (scopeOf sc) s) := by
  show s.finish (fence _ d kind sc s) = _
  rw [fence, if_neg h]

theorem exec_fence_rect {d : RegCode} {kind : BitVec 2} {s : State} {w : Word} {r : Rect}
    (ho : s.operands (Instr.fence d kind 5).word [d.toNat] [] = .ok [w]) (hr : State.resolveRect s.here w (Instr.fence d kind 5).word = .ok r) :
    exec (.fence d kind 5) s = s.finish (fenceAt (Instr.fence d kind 5).word [d.toNat] kind (.rect r) s) := by
  have hr : State.resolveRect s.here (arg [w] 0) (Instr.fence d kind 5).word = .ok r := hr
  show s.finish (fence _ d kind 5 s) = _
  simp only [fence, ho, hr, if_true]

section
variable {word : Word} {srcs : List Nat} {kind : BitVec 2} {S : Scope} {s : State} (hrel : kind.getLsbD 1 = true → s.release S word = .ok none)
include hrel

/-- A FENCE whose release is done completes, unless it acquires and a register awaits a reply. -/
theorem fenceAt_released : fenceAt word srcs kind S s =
    if kind.getLsbD 0 = true ∧ s.me.awaiting ≠ 0 then if s.me.codelet then .error (.trap 0x0C word) else .ok (s.parkMe .replies)
    else .ok (s.completeNone srcs) := by
  have hdone : (if kind.getLsbD 1 = true then s.release S word else .ok none) = .ok none := by
    split
    next h => exact hrel h
    next => rfl
  simp only [fenceAt, hdone, Bool.and_eq_true, bne_iff_ne]

theorem fenceAt_completes (ha : kind.getLsbD 0 = true → s.me.awaiting = 0) : fenceAt word srcs kind S s = .ok (s.completeNone srcs) := by
  rw [fenceAt_released hrel, if_neg fun h => h.2 (ha h.1)]

theorem fenceAt_awaits (hk : kind.getLsbD 0 = true) (ha : s.me.awaiting ≠ 0) (hc : s.me.codelet = false) :
    fenceAt word srcs kind S s = .ok (s.parkMe .replies) := by
  rw [fenceAt_released hrel, if_pos ⟨hk, ha⟩, hc, if_neg Bool.false_ne_true]

end

/-! ### WAITC and WAITK (R304, R305) -/

theorem waitcDone_iff (sl : Slot) (tl cp st ld : BitVec 3) : waitcDone sl tl cp st ld = true ↔
    (ld = 7 ∨ sl.ld ≤ ld.toNat) ∧ (st = 7 ∨ sl.st ≤ st.toNat) ∧ (cp = 7 ∨ sl.cp ≤ cp.toNat) ∧ (tl = 7 ∨ sl.tl ≤ tl.toNat) := by
  simp only [waitcDone, Bool.and_eq_true, Bool.or_eq_true, beq_iff_eq, decide_eq_true_eq, and_assoc]

theorem exec_waitc (tl cp st ld : BitVec 3) (s : State) : exec (.waitc tl cp st ld) s = s.finish
    (if waitcDone s.me tl cp st ld = true then .ok ((s.seeTiles fun _ => tl == 0).completeNone [])
    else .error (.park .counters (Instr.waitc tl cp st ld).word)) := rfl

theorem exec_waitk (mask : BitVec 8) (s : State) : exec (.waitk mask) s = s.finish
    (if s.me.tok &&& mask = 0 then .ok ((s.seeTiles fun q => mask.getLsbD q.k).completeNone [])
    else .error (.park .tokens (Instr.waitk mask).word)) := rfl

/-- Commands seen to be over are noted no more by the own core's engine; nothing else changes (R132). -/
theorem State.seeTiles_frame (s : State) (p : TileCmd → Bool) : s.seeTiles p = { s with cores := (s.seeTiles p).cores } := by
  unfold State.seeTiles State.forgetTiles
  split <;> rfl

theorem State.seeTiles_unseen (s : State) (p : TileCmd → Bool) (c : Nat) : ((s.seeTiles p).coreRec c).matrix.unseen =
    if c = s.here then (s.coreRec c).matrix.unseen.filter (fun q => !(q.uid == s.me.uid && p q)) else (s.coreRec c).matrix.unseen := by
  show ((s.seeTiles p).matrix c).unseen = _
  unfold State.seeTiles
  split
  next h => subst h; rw [matrix_forgetTiles_self]; rfl
  next h => rw [matrix_forgetTiles_ne s _ h]; rfl

/-! ### Echoes and their answers (R315) -/

theorem exec_echo {s : State} {m cls : Nat} {x : Msg} (hp : s.performable m = some x) (hb : x.body = .echo cls) (he : echoReady s x cls = true) :
    exec (.echo m) s = .next (s.respond x .echoAnswer) := by
  show Host.Outcome.next (echoAt m s) = _
  simp only [echoAt, hp, hb, he, if_true]

/-- The last answer clears the probed bits and lets the slot go on, its release done. -/
theorem echoAnswer_last {s : State} {m t : Nat} {x : Msg} (hr : s.response m = some x) (hb : x.body = .echoAnswer) (hf : s.findThread x.uid = some t)
    (he : (s.slot t).echoes = 1) (hp : (s.slot t).phase = .parked) (hk : (s.slot t).park = .echoes) : (echoAnswer m s).slot t =
      { s.slot t with echoes := 0, touch := (s.slot t).touch &&& ~~~(s.slot t).probed, probed := 0, released := true, phase := .ready, park := .none } := by
  have hf' : (s.dropMsg m).findThread x.uid = some t := hf
  have hslot : (s.dropMsg m).slot t = s.slot t := rfl
  simp only [echoAnswer, hr, hb]
  rw [modThread_held hf', slot_modSlot_self, hslot, if_pos (Nat.le_of_eq he), if_pos ⟨hk, hp⟩]

/-- Settles O28: FENCE by its release and what it awaits, WAITC and WAITK by their counters and tokens, and a release by the echoes it sends. -/
theorem fencesAndWaitsHoldBack : Obligations.FencesAndWaitsHoldBack := by
  unfold Obligations.FencesAndWaitsHoldBack
  refine ⟨fun kind sc s hsc hrel => ⟨fun ha => ?level, fun hk ha hc => ?awaits⟩, fun d kind s w r ho hr hrel ha => ?rect, ?waitc, ?waitk, ?release,
    fun s S e => mem_probeEchoes, fun s p => ⟨seeTiles_frame s p, seeTiles_unseen s p⟩, fun s S info h => release_none S info h,
    fun s m x cls ha hresp hcr hb he => exec_echo (performable_ready ha hresp (.inr hcr)) hb he, ?answer⟩
  case level => rw [exec_fence_level hsc, fenceAt_completes hrel ha, finish_ok]
  case awaits => rw [exec_fence_level hsc, fenceAt_awaits hrel hk ha hc, finish_ok]
  case rect => rw [exec_fence_rect ho hr, fenceAt_completes hrel ha, finish_ok]
  case waitc =>
    intro tl cp st ld s within
    have hdone : waitcDone s.me tl cp st ld = true ↔ within := waitcDone_iff s.me tl cp st ld
    refine ⟨fun h => ?_, fun h hc => ?_⟩
    · rw [exec_waitc, if_pos (hdone.mpr h), finish_ok]
    · rw [exec_waitc, if_neg (mt hdone.mp h), finish_error, stop_parks _ _ hc]
  case waitk =>
    intro mask s
    refine ⟨fun h => ?_, fun h hc => ?_⟩
    · rw [exec_waitk, if_pos h, finish_ok]
    · rw [exec_waitk, if_neg h, finish_error, stop_parks _ _ hc]
  case release =>
    intro s s1 S info h
    have hme := release_me h
    have hs1 := release_some h
    have hmem : s1.mem = s.mem := by rw [hs1, sendEchoes_frame]; rfl
    have hnet : s1.net = (s.sendEchoes (s.probeEchoes S)).net := by rw [hs1]; rfl
    rw [hme, hnet]
    exact ⟨rfl, rfl, rfl, hmem, rfl, fun b hb => probeCleared_getLsbD hb, sendEchoes_net s (s.probeEchoes S)⟩
  case answer =>
    intro s m x t hr hb hf he hp hk
    have hslot := echoAnswer_last hr hb hf he hp hk
    exact ⟨echoAnswer m s, rfl, congrArg Slot.phase hslot, congrArg Slot.released hslot, congrArg Slot.touch hslot⟩

end Sys2Proof.Machine

/-! ## Traps (O9, O10) -/

namespace Sys2Proof.Machine

open State Sys2Proof.Claims

/-! ### TRAP and RTE -/

theorem exec_trap (code : BitVec 12) (s : State) : exec (.trap code) s = .next (s.takeTrap s.cur 0x10 (code.setWidth 64)) := rfl

theorem terminate_slot (s : State) (t status : Nat) : ((s.terminate t status).slot t).phase = .draining ∧
    ((s.terminate t status).slot t).status = status := by
  rw [State.terminate, slot_modSlot_self]
  exact ⟨rfl, rfl⟩

/-- The offset of a code address is its bits 20:0 (R157). -/
theorem fld_of_codeAddr {c off : Nat} {a : Word} (h : codeAddr c a = some off) : off = fld a 0 21 := by
  unfold codeAddr ownOffset at h
  grind

theorem exec_rte_returns {s : State} {off : Nat} (hi : s.me.intrap = true) (hv : codeAddr s.here s.me.trapPc = some off) :
    exec .rte s = .next (s.returnTrap off) := by
  show s.finish (rte Instr.rte.word s) = _
  simp only [rte, hi, hv, Bool.not_true, Bool.false_eq_true, if_false, finish_ok]

theorem exec_rte_outside {s : State} (hi : s.me.intrap = false) : exec .rte s = .next (s.takeTrap s.cur 0x01 (Instr.word .rte)) := by
  show s.finish (rte Instr.rte.word s) = _
  simp only [rte, hi, Bool.not_false, if_true, finish_error, stop_trap]

theorem exec_rte_ends {s : State} (hi : s.me.intrap = true) (hv : codeAddr s.here s.me.trapPc = none) :
    exec .rte s = .next (s.terminate s.cur 0x04) := by
  have hx : exec .rte s = s.finish (rte Instr.rte.word s) := rfl
  simp only [hx, rte, hi, hv, Bool.not_true, Bool.false_eq_true, if_false, finish_error, stop_trap, takeTrap_ends s s.cur 0x04 s.me.trapPc (.inl hi)]

/-- Outside a loop a return goes to its offset and leaves the handler (R160). -/
theorem returnTrap_me {s : State} (off : Nat) (hl : s.me.loops = []) :
    (s.returnTrap off).me = { s.me with pc := off, intrap := false, released := false } := by
  rw [State.returnTrap, me_modMe, hl]
  simp [loopEnd, ← hl]

/-- Settles O9: a trap enters the handler or ends the thread, and changes its own slot alone. -/
theorem trapSavesAndEntersHandler : Obligations.TrapSavesAndEntersHandler := by
  unfold Obligations.TrapSavesAndEntersHandler
  refine ⟨fun s t c v off hi hv => ?enters, fun s t c v h => ?ends, fun s t c v => ⟨fun u hu => takeTrap_slot_ne s c v hu, takeTrap_frame s t c v⟩,
    fun s code => exec_trap code s⟩
  case enters =>
    intro u
    rw [show u.slot t = _ from takeTrap_enters s t c v hi hv]
    exact ⟨rfl, rfl, rfl, rfl, rfl, rfl⟩
  case ends =>
    rw [takeTrap_ends s t c v h]
    exact terminate_slot s t c

/-- Settles O10: RTE by INTRAP and by whether TRAPPC is a code address. -/
theorem returnFromTrap : Obligations.ReturnFromTrap := by
  unfold Obligations.ReturnFromTrap
  refine ⟨fun s off hi hv hl => ?returns, fun s hi => exec_rte_outside hi, fun s hi hv => ⟨_, exec_rte_ends hi hv, terminate_slot s s.cur 0x04⟩⟩
  case returns =>
    refine ⟨_, exec_rte_returns hi hv, ?_, rfl, fun u hu => slot_modMe_ne s _ hu⟩
    rw [returnTrap_me off hl, fld_of_codeAddr hv]

end Sys2Proof.Machine

/-! ## Registers of a new or restored thread (O56, O59) -/

namespace Sys2Proof.Machine

open State Sys2Proof.Claims

/-! ### Registers set one by one -/

/-- A step that changes the register file alone. -/
def OnlyRegs (s t : State) : Prop := t = { s with regs := t.regs, regFull := t.regFull }

theorem OnlyRegs.refl (s : State) : OnlyRegs s s := rfl

theorem OnlyRegs.trans {s t u : State} (h : OnlyRegs s t) (k : OnlyRegs t u) : OnlyRegs s u := by
  unfold OnlyRegs at *; rw [k, h]

theorem OnlyRegs.slots {s t : State} (h : OnlyRegs s t) : t.slots = s.slots := by rw [h]

/-- Register v of slot t gets a value and a full bit. -/
def State.putReg (s : State) (t v : Nat) (w : Word) (b : Bool) : State := (s.setRegValue t v w).setRegFull t v b

theorem State.putReg_onlyRegs (s : State) (t v : Nat) (w : Word) (b : Bool) : OnlyRegs s (s.putReg t v w b) := by
  unfold OnlyRegs State.putReg
  rw [setRegFull_frame, setRegValue_frame]

/-- Register v of slot t reads w, with full bit b. -/
def RegReads (s : State) (t v : Nat) (w : Word) (b : Bool) : Prop := s.reg t v = w ∧ s.regIsFull t v = b

/-- Two registers of a window of at most 2048 are two entries of the register file (R55). -/
theorem State.entryOf_ne (s : State) (t : Nat) {u v : Nat} (hu : u < 2048) (hv : v < 2048) (h : u ≠ v) : s.entryOf t u ≠ s.entryOf t v := by
  unfold State.entryOf
  omega

theorem State.entryOf_of_slots {s s' : State} (h : s'.slots = s.slots) (t v : Nat) : s'.entryOf t v = s.entryOf t v := by
  simp only [State.entryOf, slot_of_slots h]

/-- What a register reads depends on the slots and the register file alone. -/
theorem regReads_iff_of_eq {s s' : State} (hs : s'.slots = s.slots) (hr : s'.regs = s.regs) (hf : s'.regFull = s.regFull) {t v : Nat} {w : Word} {b : Bool} :
    RegReads s' t v w b ↔ RegReads s t v w b := by
  simp only [RegReads, State.reg, State.regIsFull, entryOf_of_slots hs, hr, hf]

/-- A change of a slot that keeps its window's base keeps what its registers read. -/
theorem regReads_modSlot {s : State} {t v : Nat} {w : Word} {b : Bool} {f : Slot → Slot} (hf : (f (s.slot t)).base = (s.slot t).base) :
    RegReads (s.modSlot t f) t v w b ↔ RegReads s t v w b := by
  have he : (s.modSlot t f).entryOf t v = s.entryOf t v := by rw [State.entryOf, slot_modSlot_self, hf, State.entryOf]
  simp only [RegReads, State.reg, State.regIsFull, he, modSlot_regs, modSlot_regFull]

section
variable (s : State) (t : Nat) {u v : Nat} (w : Word) (b : Bool)

theorem State.putReg_regs (hv : 0 < v) : (s.putReg t v w b).regs = Store.set 0 s.regs (s.entryOf t v) w ∧
    (s.putReg t v w b).regFull = Store.set true s.regFull (s.entryOf t v) b := by
  have hv' : v ≠ 0 := by omega
  simp only [State.putReg, State.setRegFull, State.setRegValue, hv', if_false]
  exact ⟨trivial, rfl⟩

theorem regReads_putReg_self (hv : 0 < v) : RegReads (s.putReg t v w b) t v w b := by
  obtain ⟨hr, hf⟩ := s.putReg_regs t w b hv
  have he := entryOf_of_slots (s.putReg_onlyRegs t v w b).slots t v
  have hv' : (v == 0) = false := beq_false_of_ne (by omega)
  rw [RegReads, State.reg, State.regIsFull, if_neg (by omega), he, hr, hf, Store.get_set_self, Store.get_set_self, hv', Bool.false_or]
  exact ⟨rfl, rfl⟩

theorem regReads_putReg_ne (hu : u < 2048) (hv : v < 2048) (h : u ≠ v) {w' : Word} {b' : Bool} (hr : RegReads s t u w' b') : RegReads (s.putReg t v w b) t u w' b' := by
  rcases Nat.eq_zero_or_pos v with rfl | hpos
  · exact hr
  · obtain ⟨hregs, hfull⟩ := s.putReg_regs t w b hpos
    have he := entryOf_of_slots (s.putReg_onlyRegs t v w b).slots t u
    have hne := s.entryOf_ne t hu hv h
    rw [RegReads, State.reg, State.regIsFull, he, hregs, hfull, Store.get_set_ne _ _ _ hne, Store.get_set_ne _ _ _ hne]
    exact hr

end

/-! ### Runs of registers -/

/-- Of the registers in a list, those that p picks get a value and a full bit. -/
def State.putRegs (s : State) (t : Nat) (p : Nat → Bool) (f : Nat → Word) (g : Nat → Bool) (l : List Nat) : State :=
  l.foldl (fun (x : State) v => if p v then x.putReg t v (f v) (g v) else x) s

section
variable (t : Nat) (p : Nat → Bool) (f : Nat → Word) (g : Nat → Bool)

theorem State.putRegs_onlyRegs (l : List Nat) (s : State) : OnlyRegs s (s.putRegs t p f g l) := by
  induction l generalizing s with
  | nil => exact .refl s
  | cons v r ih =>
    rw [State.putRegs, List.foldl_cons]
    refine OnlyRegs.trans ?_ (ih _)
    split
    · exact putReg_onlyRegs ..
    · exact .refl s

/-- A register that reads what the list gives it goes on to do so. -/
theorem regReads_putRegs_keeps {u : Nat} (hu : u < 2048) (l : List Nat) (hl : ∀ v ∈ l, v < 2048) {s : State} (h : RegReads s t u (f u) (g u)) :
    RegReads (s.putRegs t p f g l) t u (f u) (g u) := by
  induction l generalizing s with
  | nil => exact h
  | cons v r ih =>
    refine ih (fun x hx => hl x (List.mem_cons_of_mem v hx)) ?_
    by_cases hp : p v = true
    · dsimp only
      rw [if_pos hp]
      rcases eq_or_ne u v with rfl | hne
      · rcases Nat.eq_zero_or_pos u with rfl | hpos
        · exact h
        · exact regReads_putReg_self s t _ _ hpos
      · exact regReads_putReg_ne s t _ _ hu (hl v List.mem_cons_self) hne h
    · dsimp only
      rw [if_neg hp]
      exact h

theorem regReads_putRegs {u : Nat} (h0 : 0 < u) (hp : p u = true) (l : List Nat) (hl : ∀ v ∈ l, v < 2048) (hu : u ∈ l) (s : State) :
    RegReads (s.putRegs t p f g l) t u (f u) (g u) := by
  induction l generalizing s with
  | nil => cases hu
  | cons v r ih =>
    have hr : ∀ x ∈ r, x < 2048 := fun x hx => hl x (List.mem_cons_of_mem v hx)
    rcases List.mem_cons.mp hu with rfl | hmem
    · refine regReads_putRegs_keeps t p f g (hl u List.mem_cons_self) r hr ?_
      dsimp only
      rw [if_pos hp]
      exact regReads_putReg_self s t _ _ h0
    · exact ih hr hmem _

end

/-! ### Creation (R156) -/

theorem State.clearRegs_onlyRegs (t n : Nat) (s : State) : OnlyRegs s (s.clearRegs t n) := by
  induction n generalizing s with
  | zero => exact .refl s
  | succ v ih => exact (s.putReg_onlyRegs t v 0 true).trans (ih _)

theorem State.giveArgs_onlyRegs (t : Nat) (l : List Word) (v : Nat) (s : State) : OnlyRegs s (s.giveArgs t v l) := by
  induction l generalizing v s with
  | nil => exact .refl s
  | cons w r ih => exact (s.putReg_onlyRegs t v w true).trans (ih _ _)

theorem regReads_clearRegs_zero (t : Nat) {u n : Nat} (hn : n ≤ 2048) (hu : u < 2048) {s : State} (h : RegReads s t u 0 true) : RegReads (s.clearRegs t n) t u 0 true := by
  induction n generalizing s with
  | zero => exact h
  | succ v ih =>
    refine ih (by omega) (s := s.putReg t v 0 true) ?_
    rcases eq_or_ne u v with rfl | hne
    · rcases Nat.eq_zero_or_pos u with rfl | hpos
      · exact h
      · exact regReads_putReg_self s t 0 true hpos
    · exact regReads_putReg_ne s t 0 true hu (by omega) hne h

/-- A cleared register reads 0 and is full. -/
theorem regReads_clearRegs (t : Nat) {u n : Nat} (hn : n ≤ 2048) (h0 : 0 < u) (hu : u < n) (s : State) : RegReads (s.clearRegs t n) t u 0 true := by
  induction n generalizing s with
  | zero => omega
  | succ v ih =>
    rcases eq_or_ne u v with rfl | hne
    · exact regReads_clearRegs_zero t (by omega) (by omega) (s := s.putReg t u 0 true) (regReads_putReg_self s t 0 true h0)
    · exact ih (by omega) (by omega) (s.putReg t v 0 true)

/-- Arguments leave the registers beside them. -/
theorem regReads_giveArgs_beside (t : Nat) {u : Nat} (hu : u < 2048) {w : Word} {b : Bool} (l : List Word) (v : Nat) (hl : v + l.length ≤ 2048)
    (hbeside : u < v ∨ v + l.length ≤ u) {s : State} (h : RegReads s t u w b) : RegReads (s.giveArgs t v l) t u w b := by
  induction l generalizing v s with
  | nil => exact h
  | cons x r ih =>
    rw [List.length_cons] at hl hbeside
    exact ih (v + 1) (by omega) (by omega) (regReads_putReg_ne s t x true hu (by omega) (by omega) h)

theorem regReads_giveArgs (t : Nat) (l : List Word) (v i : Nat) (hv : 0 < v) (hl : v + l.length ≤ 2048) (hi : i < l.length) (s : State) :
    RegReads (s.giveArgs t v l) t (v + i) (l.getD i 0) true := by
  induction l generalizing v i s with
  | nil => cases hi
  | cons x r ih =>
    rw [List.length_cons] at hl hi
    cases i with
    | zero => exact regReads_giveArgs_beside t (by omega) r (v + 1) (by omega) (by omega) (regReads_putReg_self s t x true hv)
    | succ i =>
      have h := ih (v + 1) i (by omega) (by omega) (by omega) (s.putReg t v x true)
      rw [show v + 1 + i = v + (i + 1) by omega] at h
      exact h

/-- The slot of a thread that is created (R156). -/
def State.newSlot (s : State) (t base : Nat) (n : NewThread) : Slot :=
  { (s.slot t).vacated with
    phase := .ready, uid := s.nextId, mode := n.mode, mig := n.mig, pc := n.pc, base := base, limit := n.limit, ctx := n.ctx
    group := n.group, kernel := n.kernel, task := n.task, extra := n.extra, kpkg := n.kpkg, trapVec := s.newTrapVec (t / 64) n.ctx }

/-- The slot's record is in place, and its registers are still to be set. -/
def State.opened (s : State) (t base : Nat) (n : NewThread) : State := ({ s with nextId := s.nextId + 1 } : State).setSlot t (s.newSlot t base n)

theorem State.createAt_onlyRegs (s : State) (t base : Nat) (n : NewThread) : OnlyRegs (s.opened t base n) (s.createAt t base n) :=
  (clearRegs_onlyRegs t n.limit _).trans (giveArgs_onlyRegs t n.args 1 _)

/-- A creation changes the slot, its registers and the next number alone. -/
theorem State.createAt_frame (s : State) (t base : Nat) (n : NewThread) : s.createAt t base n = { s with
    nextId := s.nextId + 1, slots := (s.createAt t base n).slots, regs := (s.createAt t base n).regs, regFull := (s.createAt t base n).regFull } := by
  have h := s.createAt_onlyRegs t base n
  unfold OnlyRegs at h
  rw [h]
  rfl

@[simp] theorem State.createAt_slot_self (s : State) (t base : Nat) (n : NewThread) : (s.createAt t base n).slot t = s.newSlot t base n := by
  rw [slot_of_slots (s.createAt_onlyRegs t base n).slots]
  exact slot_setSlot_self _ _ _

theorem State.createAt_slot_ne (s : State) (base : Nat) (n : NewThread) {t k : Nat} (h : k ≠ t) : (s.createAt t base n).slot k = s.slot k := by
  rw [slot_of_slots (s.createAt_onlyRegs t base n).slots]
  exact slot_setSlot_ne _ _ h

theorem State.createAt_mem (s : State) (t base : Nat) (n : NewThread) : (s.createAt t base n).mem = s.mem := by rw [createAt_frame]
theorem State.createAt_cur (s : State) (t base : Nat) (n : NewThread) : (s.createAt t base n).cur = s.cur := by rw [createAt_frame]

/-- A new thread's arguments are in its registers from g1 on. -/
theorem regReads_createAt_arg (s : State) (t base : Nat) (n : NewThread) {v : Nat} (hv : 0 < v) (ha : v ≤ n.args.length) (hl : n.args.length < 2048) :
    RegReads (s.createAt t base n) t v (n.args.getD (v - 1) 0) true := by
  have h := regReads_giveArgs t n.args 1 (v - 1) (by omega) (by omega) (by omega) ((s.opened t base n).clearRegs t n.limit)
  rw [show 1 + (v - 1) = v by omega] at h
  exact h

/-- Every other register of a new thread's window is 0 and full. -/
theorem regReads_createAt_zero (s : State) (t base : Nat) (n : NewThread) {v : Nat} (hv : 0 < v) (ha : n.args.length < v) (hlim : v < n.limit)
    (hn : n.limit ≤ 2048) : RegReads (s.createAt t base n) t v 0 true :=
  regReads_giveArgs_beside t (by omega) n.args 1 (by omega) (by omega) (regReads_clearRegs t hn hv hlim _)

theorem regReads_createAt (s : State) (t base : Nat) (n : NewThread) (hn : n.limit ≤ 2048) (hl : n.args.length < 2048) {v : Nat} (hv : 0 < v)
    (hlim : v < n.limit) : RegReads (s.createAt t base n) t v (if v ≤ n.args.length then n.args.getD (v - 1) 0 else 0) true := by
  split
  next ha => exact regReads_createAt_arg s t base n hv ha hl
  next ha => exact regReads_createAt_zero s t base n hv (by omega) hlim hn

end Sys2Proof.Machine

/-! ## HALT, YIELD and SPAWN (O56) -/

namespace Sys2Proof.Machine

open State Sys2Proof.Claims

/-! ### HALT, YIELD and the end of a yield (R160) -/

theorem exec_halt (s : State) : exec .halt s = .next (s.terminate s.cur 0) := rfl

/-- The state after YIELD: the slots that are READY beside the own, if any, are to issue first, for at most 64 cycles. -/
def yielded (s : State) : State := (s.completeNone []).modMe fun sl =>
  { sl with yield := if (s.readyOthers s.cur).isEmpty then none else some ((s.coreRec s.here).cycle + 64, s.readyOthers s.cur) }

theorem exec_yield (s : State) : exec .yield s = .next (yielded s) := rfl

theorem yielded_me (s : State) : (yielded s).me =
    { s.me.advance with yield := if s.readyOthers s.cur = [] then none else some ((s.coreRec s.here).cycle + 64, s.readyOthers s.cur) } := by
  rw [yielded, me_modMe, completeNone_me]
  simp only [List.isEmpty_iff]

theorem yielded_mem (s : State) : (yielded s).mem = s.mem := by rw [yielded, modMe_mem]; rfl
theorem yielded_regs (s : State) : (yielded s).regs = s.regs := by rw [yielded, modMe_regs]; rfl

theorem exec_yieldExpiry {s : State} {t e : Nat} {l : List Nat} (hy : (s.slot t).yield = some (e, l)) (he : e ≤ (s.coreRec (t / 64)).cycle) :
    exec (.yieldExpiry t) s = .next (s.setSlot t { s.slot t with yield := none }) := by
  show Host.Outcome.next (yieldExpiry t s) = _
  simp only [yieldExpiry, hy, if_pos he]

/-! ### The descriptor of SPAWN (R160) -/

/-- Word 0 of a SPAWN descriptor that asks for a thread there can be. -/
structure SpawnLegal (w0 : Word) : Prop where
  high : fld w0 31 33 = 0
  mid : fld w0 21 3 = 0
  aligned : fld w0 0 21 % 4 = 0
  inside : fld w0 0 21 < 0x180000
  mode : fld w0 29 2 ≠ 3
  small : bitAt w0 28 = true → fld w0 24 4 ≤ 1

/-- KERNEL of a thread that a member of a kernel creates: LNCH and TRIG are 0 (R213). -/
def memberKernel (w : Word) : Word := setFld w 32 2 0

/-- The thread that the descriptor at an offset of the own core asks for. -/
def spawned (s : State) (off : Nat) : NewThread :=
  let w0 := s.read64 (spadKey s.here off)
  { pc := fld w0 0 21, limit := 8 * (fld w0 24 4 + 1), mode := fld w0 29 2, ctx := s.me.ctx, kernel := memberKernel s.me.kernel
    group := s.me.group, mig := bitAt w0 28, args := s.readWords (spadKey s.here (off + 8)) 4, kpkg := s.me.kpkg
    extra := (s.me.extra || s.me.kpkg.isSome || s.me.countAt.isSome) && s.joins s.me.kpkg s.me.kernel }

/-- A legal descriptor gives its thread, unless its mode is above the issuer's. -/
theorem spawnChild_eq {s : State} {off : Nat} (word : Word) (h : SpawnLegal (s.read64 (spadKey s.here off))) : spawnChild word off s =
    if s.me.mode < fld (s.read64 (spadKey s.here off)) 29 2 ∨ (fld (s.read64 (spadKey s.here off)) 29 2 = 2 ∧ s.me.mode ≠ 2) then .error (.trap 0x0D word)
    else .ok (spawned s off) := by
  obtain ⟨hhigh, hmid, haligned, hinside, hmode, hsmall⟩ := h
  unfold spawnChild
  dsimp only
  rw [if_neg]
  · rfl
  · rintro (h | h | h | h | h | ⟨hb, hw⟩)
    · exact h hhigh
    · exact h hmid
    · exact h haligned
    · exact absurd hinside (Nat.not_lt.mpr h)
    · exact hmode h
    · exact absurd (hsmall hb) (Nat.not_le.mpr hw)

theorem spawnChild_unprivileged {s : State} {off : Nat} (word : Word) (h : SpawnLegal (s.read64 (spadKey s.here off)))
    (hm : s.me.mode < fld (s.read64 (spadKey s.here off)) 29 2) : spawnChild word off s = .error (.trap 0x0D word) := by
  rw [spawnChild_eq word h, if_pos (.inl hm)]

theorem spawnChild_ok {s : State} {off : Nat} (word : Word) (h : SpawnLegal (s.read64 (spadKey s.here off)))
    (hm : fld (s.read64 (spadKey s.here off)) 29 2 ≤ s.me.mode) (h2 : fld (s.read64 (spadKey s.here off)) 29 2 = 2 → s.me.mode = 2) :
    spawnChild word off s = .ok (spawned s off) := by
  rw [spawnChild_eq word h, if_neg (by omega)]

section
variable {d : RegCode} {s : State} {x : Word} {off : Nat} (ho : s.operands (Instr.spawn d).word [d.toNat] [d.toNat] = .ok [x])
  (hr : s.resolveOwn x 8 = .ok off) (hin : off + 40 ≤ 0x180000)
include ho hr hin

/-- The trap of a descriptor is that of the SPAWN. -/
theorem exec_spawn_trap {c : Nat} {v : Word} (hc : spawnChild (Instr.spawn d).word off s = .error (.trap c v)) :
    exec (.spawn d) s = .next (s.takeTrap s.cur c v) := by
  have hx : exec (.spawn d) s = s.finish (spawn (Instr.spawn d).word d s) := rfl
  have hr' : s.resolveOwn (arg [x] 0) 8 = .ok off := hr
  have hin' : ¬ Config.spadSize < off + 40 := Nat.not_lt.mpr hin
  simp only [hx, spawn, ho, hr', if_neg hin', hc, finish_error, stop_trap]

section
variable {child : NewThread} (hc : spawnChild (Instr.spawn d).word off s = .ok child) (hd : s.destReady d.toNat = .ok ())
include hc hd

theorem exec_spawn_placed {n base : Nat} (hn : s.freeSlot s.here = some n) (hb : s.freeWindow s.here child.limit = some base) :
    exec (.spawn d) s = .next (spawnAt [d.toNat] d.toNat n base child s) := by
  have hx : exec (.spawn d) s = s.finish (spawn (Instr.spawn d).word d s) := rfl
  have hr' : s.resolveOwn (arg [x] 0) 8 = .ok off := hr
  have hin' : ¬ Config.spadSize < off + 40 := Nat.not_lt.mpr hin
  simp only [hx, spawn, ho, hr', if_neg hin', hc, hd, hn, hb, finish_ok]

/-- Without a free slot or a free window the result is all ones (R160, R155). -/
theorem exec_spawn_full (h : s.freeSlot s.here = none ∨ s.freeWindow s.here child.limit = none) :
    exec (.spawn d) s = .next (s.complete [d.toNat] d.toNat allOnes) := by
  have hx : exec (.spawn d) s = s.finish (spawn (Instr.spawn d).word d s) := rfl
  have hr' : s.resolveOwn (arg [x] 0) 8 = .ok off := hr
  have hin' : ¬ Config.spadSize < off + 40 := Nat.not_lt.mpr hin
  cases hn : s.freeSlot s.here with
  | none => simp only [hx, spawn, ho, hr', if_neg hin', hc, hd, hn, finish_ok]
  | some n => simp only [hx, spawn, ho, hr', if_neg hin', hc, hd, hn, h.resolve_left (by simp [hn]), finish_ok]

end

end

/-! ### The kernel of the child (R213, R224) -/

theorem kernelV_memberKernel (w : Word) : kernelV (memberKernel w) = kernelV w := by
  have hw := w.isLt
  have hbits : (w.toNat / 2 ^ 34 * 2 ^ 34 + w.toNat % 2 ^ 32) / 2 ^ 31 % 2 = w.toNat / 2 ^ 31 % 2 := by omega
  rw [kernelV, kernelV, bitAt_eq_fld, bitAt_eq_fld, memberKernel, setFld_eq, Nat.zero_mod, Nat.zero_mul, Nat.add_zero, fld_ofNat (by omega), fld_eq_div_mod]
  exact congrArg (fun n => decide (n = 1)) hbits

/-- A child outside any kernel is created, and its number is the result. -/
theorem spawnAt_alone {s : State} (srcs : List Nat) (d n base : Nat) {child : NewThread} (he : child.extra = false) (hk : kernelV child.kernel = false) :
    spawnAt srcs d n base child s = (s.createAt (s.here * 64 + n) base child).complete srcs d (ofNat n) := by
  have hlive : s.kernelLive child.kernel = false := by simp only [State.kernelLive, hk, Bool.false_and]
  simp only [spawnAt, he, hlive, Bool.false_eq_true, if_false]

/-- A child of a kernel that this core counts is one more member here. -/
theorem spawnAt_counted {s : State} (srcs : List Nat) (d n base : Nat) {child : NewThread} (he : child.extra = false) (hk : s.kernelLive child.kernel = true) :
    spawnAt srcs d n base child s = ((s.createAt (s.here * 64 + n) base child).modKernelCore (kernelId child.kernel) s.here
      fun k => { k with alive := k.alive + 1 }).complete srcs d (ofNat n) := by
  simp only [spawnAt, he, hk, Bool.false_eq_true, if_false, if_true]

/-- The state u in which a child has been created, once its creator has sent a JOIN for it and waits. -/
def joining (u : State) (srcs : List Nat) (d n : Nat) (child : NewThread) (s : State) : State :=
  (u.sendJoin s.here s.me.uid child.kpkg child.kernel d n).waitFor u.nextId (.core s.here) 0 false false srcs

theorem spawnAt_joins {s : State} (srcs : List Nat) (d n base : Nat) {child : NewThread} (he : child.extra = true) :
    spawnAt srcs d n base child s = joining (s.createAt (s.here * 64 + n) base child) srcs d n child s := by
  simp only [spawnAt, he, if_true, joining]

/-- A JOIN changes messages alone: the network, the next number and what is outstanding. -/
theorem State.sendJoin_frame (s : State) (c uid : Nat) (kpkg : Option Nat) (w : Word) (reg v : Nat) : s.sendJoin c uid kpkg w reg v =
    { s with net := (s.sendJoin c uid kpkg w reg v).net, nextId := (s.sendJoin c uid kpkg w reg v).nextId,
             outstanding := (s.sendJoin c uid kpkg w reg v).outstanding } := by
  cases kpkg with
  | none => rfl
  | some p => unfold State.sendJoin State.sendAbroad; dsimp only; split <;> rfl

theorem State.sendJoin_own (s : State) (c uid : Nat) (w : Word) (reg v : Nat) :
    Sends s (s.sendJoin c uid none w reg v) [(.ctrl (s.kernelRec (kernelId w)).rootDie, .join w reg v)] := ⟨[_], rfl, rfl⟩

theorem State.sendJoin_abroad {s : State} {c p : Nat} (uid : Nat) (w : Word) (reg v : Nat) (h : s.isUnreachable c p = false) :
    Sends s (s.sendJoin c uid (some p) w reg v) [(.pkg p, .join w reg v)] := by
  simp only [State.sendJoin, State.sendAbroad, h, Bool.false_and, Bool.false_eq_true, if_false]
  exact ⟨[_], rfl, rfl⟩

section
variable {u s : State} (srcs : List Nat) (d n : Nat) (child : NewThread)

theorem joining_mem : (joining u srcs d n child s).mem = u.mem := by
  rw [joining, waitFor_mem, sendJoin_frame]

theorem joining_slot_ne {k : Nat} (h : k ≠ u.cur) : (joining u srcs d n child s).slot k = u.slot k := by
  rw [joining, State.waitFor, slot_modMe_ne _ _ (by rw [sendJoin_frame]; exact h), sendJoin_frame]
  rfl

/-- The creator leaves the rotation, with its pc kept, until the JOIN is acknowledged. -/
theorem joining_me : (joining u srcs d n child s).me.phase = .parked ∧ (joining u srcs d n child s).me.park = .remote u.nextId ∧
    (joining u srcs d n child s).me.pc = u.me.pc := by
  obtain ⟨w, hw⟩ := waitFor_me (u.sendJoin s.here s.me.uid child.kpkg child.kernel d n) u.nextId (.core s.here) 0 false false srcs
  have hme : (u.sendJoin s.here s.me.uid child.kpkg child.kernel d n).me = u.me := by rw [sendJoin_frame]; rfl
  rw [joining, hw, hme]
  exact ⟨rfl, rfl, rfl⟩

end

/-- The slot that a SPAWN takes is a general one that is FREE (R155). -/
theorem State.freeSlot_spec {s : State} {c n : Nat} (h : s.freeSlot c = some n) : n < 63 ∧ (s.slot (c * 64 + n)).phase = .free :=
  ⟨List.mem_range.mp (List.mem_of_find?_eq_some h), by simpa using List.find?_some h⟩

end Sys2Proof.Machine

/-! ## Events of a slot (O56) -/

namespace Sys2Proof.Machine

open State Sys2Proof.Claims

theorem exec_boundaryTrap {s : State} {t c : Nat} {v : Word} {r : List (Nat × Word)} (hp : (s.slot t).pend = (c, v) :: r)
    (hr : (s.slot t).phase = .ready) (hs : Store.get false s.dev.stopped (t / 64) = false) :
    exec (.boundaryTrap t) s = .next ((s.setSlot t { s.slot t with pend := r }).takeTrap t c v) := by
  show Host.Outcome.next (boundaryTrap t s) = _
  simp only [boundaryTrap, hp, if_pos (And.intro hr hs)]

/-! ### A task that starts (R185) -/

/-- The thread that a queued call-at packet starts. -/
def taskThread (p : TaskPkt) (limit : Nat) : NewThread :=
  { pc := p.entry, limit := limit, mode := p.mode, ctx := p.ctx, kernel := setFld p.kernel 32 2 0, group := p.group
    args := [p.args.a0, p.args.a1, p.args.a2, p.args.a3], task := true, extra := kernelV p.kernel, kpkg := p.kpkg }

/-- The state after the task at the head of core c's queue has started in slot n. -/
def taskStarted (s : State) (c n base limit : Nat) (p : TaskPkt) (rest : List TaskPkt) : State :=
  ((s.modCore c fun r => { r with tasks := rest }).createAt (c * 64 + n) base (taskThread p limit)).modSlot (c * 64 + n) fun sl =>
    { sl with fmt := p.fmt &&& 0xFFF, scla := p.scla, sclb := p.sclb, rep := p.rep }

theorem exec_taskDispatch {s : State} {c n base : Nat} {p : TaskPkt} {rest : List TaskPkt} (ht : (s.coreRec c).tasks = p :: rest)
    (hn : (List.range 60).find? (fun n => bitAt (s.coreRec c).taskCfg n && (s.slot (c * 64 + n)).phase == .free) = some n)
    (hb : s.freeWindow c (8 * ((s.coreRec c).taskWin + 1)) = some base) :
    exec (.taskDispatch c) s = .next (taskStarted s c n base (8 * ((s.coreRec c).taskWin + 1)) p rest) := by
  show Host.Outcome.next (taskDispatch c s) = _
  simp only [taskDispatch, ht, hn, hb]
  rfl

section
variable (s : State) (c n base limit : Nat) (p : TaskPkt) (rest : List TaskPkt)

theorem taskStarted_tasks : ((taskStarted s c n base limit p rest).coreRec c).tasks = rest := by
  rw [taskStarted, coreRec_modSlot, createAt_frame]
  show ((s.modCore c fun r => { r with tasks := rest }).coreRec c).tasks = rest
  rw [coreRec_modCore_self]

theorem taskStarted_mem : (taskStarted s c n base limit p rest).mem = s.mem := by
  rw [taskStarted, modSlot_mem, createAt_mem, modCore_mem]

theorem taskStarted_slot : (taskStarted s c n base limit p rest).slot (c * 64 + n) =
    { s.newSlot (c * 64 + n) base (taskThread p limit) with fmt := p.fmt &&& 0xFFF, scla := p.scla, sclb := p.sclb, rep := p.rep } := by
  rw [taskStarted, slot_modSlot_self, createAt_slot_self]
  rfl

theorem taskStarted_arg {v : Nat} (hv : 0 < v) (h4 : v ≤ 4) :
    RegReads (taskStarted s c n base limit p rest) (c * 64 + n) v ((taskThread p limit).args.getD (v - 1) 0) true := by
  rw [taskStarted, regReads_modSlot rfl]
  exact regReads_createAt_arg _ _ _ _ hv h4 (show 4 < 2048 by decide)

end

/-! ### A slot that becomes FREE (R154) -/

theorem slotRetire_frees {s : State} {t : Nat} (hp : (s.slot t).phase = .draining) (hld : (s.slot t).ld = 0) (hst : (s.slot t).st = 0)
    (htl : (s.slot t).tl = 0) (hcp : (s.slot t).cp = 0) (hn : (s.slot t).notices = 0)
    (h : (s.slot t).departed = true ∨ ((s.slot t).carried = [] ∧ s.callsPending (s.slot t).uid = false)) :
    (slotRetire t s).slot t = (s.slot t).vacated := by
  unfold slotRetire
  dsimp only
  rw [if_pos ⟨hp, hld, hst, htl, hcp⟩]
  by_cases hd : (s.slot t).departed = true
  · rw [if_pos hd, if_neg (not_not.mpr hn), slot_setSlot_self]
  · obtain ⟨hc, hj⟩ := h.resolve_left hd
    rw [if_neg hd, if_neg (by simp [hc]), if_neg (by simp [hn, hj]), slot_setSlot_self]

/-! ### The slots that SPILL leaves alone (R163) -/

theorem unspillable_iff (s : State) (n : Nat) : unspillable s n = true ↔ n = s.cur % 64 ∨ n = 63 ∨ let sl := s.slot (s.here * 64 + n)
    sl.phase = .free ∨ sl.phase = .saving ∨ sl.phase = .draining ∨ sl.mode = 2 ∨ sl.phase = .reserved ∨ sl.leaving ≠ none := by
  have hnum : s.num = s.cur % 64 := rfl
  simp only [unspillable, hnum, Bool.or_eq_true, beq_iff_eq, Option.isSome_iff_ne_none]
  cases (s.slot (s.here * 64 + n)).phase <;> simp <;> tauto

end Sys2Proof.Machine

/-! ## The image that a SPILL writes (O56) -/

namespace Sys2Proof.Machine

open State Sys2Proof.Claims

/-! ### Writes into bytes that no record and no owner table holds -/

theorem itemsHit_isEmpty_sub {base size count o n : Nat} (h : (itemsHit base size count o n).isEmpty = true) (j m : Nat) (hm : j + m ≤ n) :
    (itemsHit base size count (o + j) m).isEmpty = true := by
  have hlo : (o - base) / size ≤ (o + j - base) / size := Nat.div_le_div_right (by omega)
  have hhi : (o + j + m - base + size - 1) / size ≤ (o + n - base + size - 1) / size := Nat.div_le_div_right (by omega)
  simp only [itemsHit, span, List.isEmpty_iff, List.map_eq_nil_iff, List.range_eq_nil] at h ⊢
  omega

theorem State.recordsHit_isEmpty_sub {s : State} {c o n : Nat} (h : (s.recordsHit c o n).isEmpty = true) (j m : Nat) (hm : j + m ≤ n) :
    (s.recordsHit c (o + j) m).isEmpty = true := by
  simp only [recordsHit, List.isEmpty_iff, List.flatMap_eq_nil_iff, List.append_eq_nil_iff, List.map_eq_nil_iff] at h ⊢
  intro d hd
  obtain ⟨hpool, hhome⟩ := h d hd
  rw [← List.isEmpty_iff] at hpool hhome ⊢
  exact ⟨itemsHit_isEmpty_sub hpool j m hm, List.isEmpty_iff.mp (itemsHit_isEmpty_sub hhome j m hm)⟩

theorem State.bricksHit_isEmpty_sub {s : State} {c o n : Nat} (h : (s.bricksHit c o n).isEmpty = true) (j m : Nat) (hm : j + m ≤ n) :
    (s.bricksHit c (o + j) m).isEmpty = true := by
  simp only [bricksHit, List.isEmpty_iff, List.flatMap_eq_nil_iff, List.map_eq_nil_iff] at h ⊢
  intro d hd
  exact List.isEmpty_iff.mp (itemsHit_isEmpty_sub (List.isEmpty_iff.mpr (h d hd)) j m hm)

/-- No write of an agent within n bytes at a key leaves anything undefined. -/
def State.Calm (s : State) (key n : Nat) : Prop := ∀ j m, j + m ≤ n → s.undisturbed false (key + j) m = true

/-- Bytes that do not straddle two scratchpads. -/
def OneMemory (key n : Nat) : Prop := isBulk key = true ∨ keyOff key + n ≤ 0x200000

theorem State.calm_of_undisturbed {s : State} {key n : Nat} (hk : OneMemory key n) (h : s.undisturbed false key n = true) : s.Calm key n := by
  intro j m hm
  by_cases hb : isBulk key = true
  · refine undisturbed_bulk _ _ _ _ (decide_eq_true ?_)
    exact le_trans (of_decide_eq_true hb) (Nat.le_add_right _ _)
  · have hroom := hk.resolve_left hb
    rcases Nat.eq_zero_or_pos m with rfl | hpos
    · simp [State.undisturbed]
    · have hcore : keyCore (key + j) = keyCore key := by unfold keyCore keyOff at *; omega
      have hoff : keyOff (key + j) = keyOff key + j := by unfold keyOff at *; omega
      have hn : (n == 0) = false := beq_false_of_ne (by omega)
      simp only [State.undisturbed, ne_true_of_eq_false (Bool.eq_false_iff.mpr hb), hn, Bool.false_or, Bool.not_false, Bool.true_or, Bool.and_true,
        Bool.and_eq_true] at h
      simp only [State.undisturbed, hcore, hoff, Bool.or_eq_true, Bool.and_eq_true]
      exact .inr ⟨⟨recordsHit_isEmpty_sub h.1 j m hm, bricksHit_isEmpty_sub h.2 j m hm⟩, .inl rfl⟩

/-- Bytes outside the n at a key keep their values from s to t, and within them an agent may go on to write. -/
structure FillsWithin (key n : Nat) (s t : State) : Prop where
  calm : t.Calm key n
  outside : ∀ k, k < key ∨ key + n ≤ k → t.mem.byte k = s.mem.byte k

theorem FillsWithin.trans {key n : Nat} {s t u : State} (h : FillsWithin key n s t) (k : FillsWithin key n t u) : FillsWithin key n s u :=
  ⟨k.calm, fun b hb => (k.outside b hb).trans (h.outside b hb)⟩

section
variable {s : State} {key n : Nat} (hc : s.Calm key n)
include hc

theorem State.put_calm (j m v : Nat) (hm : j + m ≤ n) : s.put (key + j) m v = s.write (key + j) m v := put_of_undisturbed _ _ _ _ (hc j m hm)

theorem State.put_fillsWithin (j m v : Nat) (hm : j + m ≤ n) : FillsWithin key n s (s.put (key + j) m v) := by
  rw [put_calm hc j m v hm]
  exact ⟨fun i k hk => (undisturbed_write ..).trans (hc i k hk), fun b hb => by rw [write_mem, Memory.byte_writeN_outside _ _ _ _ _ (by omega)]⟩

theorem State.putWords_fillsWithin (l : List Word) (j : Nat) (hj : j + 8 * l.length ≤ n) : FillsWithin key n s (s.putWords (key + j) l) := by
  induction l generalizing s j with
  | nil => exact ⟨hc, fun _ _ => rfl⟩
  | cons w r ih =>
    rw [List.length_cons] at hj
    have hput := put_fillsWithin hc j 8 w.toNat (by omega)
    exact hput.trans (ih hput.calm (j + 8) (by omega))

end

/-- Words written keep the bytes before them. -/
theorem State.putWords_before {s : State} {key n : Nat} (hc : s.Calm key n) (l : List Word) (j : Nat) (hj : j + 8 * l.length ≤ n) {b : Nat} (hb : b < key + j) :
    (s.putWords (key + j) l).mem.byte b = s.mem.byte b := by
  have hcj : s.Calm (key + j) (8 * l.length) := fun i m hm => by rw [Nat.add_assoc]; exact hc (j + i) m (by omega)
  exact (putWords_fillsWithin hcj l 0 (by omega)).outside b (.inl hb)

/-- Each word of a list that is written reads back. -/
theorem State.read64_putWords {s : State} {key n : Nat} (hc : s.Calm key n) (l : List Word) (j i : Nat) (hj : j + 8 * l.length ≤ n) (hi : i < l.length) :
    (s.putWords (key + j) l).read64 (key + j + 8 * i) = l.getD i 0 := by
  induction l generalizing s j i with
  | nil => cases hi
  | cons w r ih =>
    rw [List.length_cons] at hj hi
    have hput := put_fillsWithin hc j 8 w.toNat (by omega)
    cases i with
    | zero =>
      have hbytes : ((s.put (key + j) 8 w.toNat).putWords (key + (j + 8)) r).mem.readN (key + j) 8 = (s.put (key + j) 8 w.toNat).mem.readN (key + j) 8 :=
        Memory.readN_congr _ _ _ _ fun k hk => putWords_before hput.calm r (j + 8) (by omega) (by omega)
      have hword : (s.put (key + j) 8 w.toNat).read64 (key + j) = w := by
        rw [put_calm hc j 8 w.toNat (by omega)]
        exact read64_write64 s (key + j) w
      exact (congrArg ofNat hbytes).trans hword
    | succ i =>
      have h := ih hput.calm (j + 8) i (by omega) (by omega)
      rw [show key + (j + 8) + 8 * i = key + j + 8 * (i + 1) by omega] at h
      exact h

/-! ### The address of an image (R163, R164) -/

/-- An address of space 00 traps, or leads to an aligned offset of a scratchpad. -/
theorem resolve_spad_cases (s : State) (c n : Nat) (r : Rights) {a : Word} (h : fld a 62 2 = 0) : (∃ k v, s.resolve c r a n = .error (.trap k v)) ∨
    ∃ t off, s.resolve c r a n = .ok (.spad t off) ∧ off < 0x180000 ∧ off % n = 0 := by
  by_cases hr : fld a 48 13 ≠ 0 ∨ fld a 21 11 ≠ 0
  · exact .inl ⟨_, _, resolve_spad_reserved h hr⟩
  by_cases ho : PlaceOutside c a
  · exact .inl ⟨_, _, resolve_spad_outside h ho⟩
  have hsmall : fld a 0 21 < 0x180000 := not_le.mp fun hs => ho (.inr (.inr (.inr (.inr hs))))
  rw [not_or, not_not, not_not] at hr
  rw [resolve_spad_inside h hr.1 hr.2 ho]
  split_ifs with hn
  · exact .inl ⟨_, _, rfl⟩
  · exact .inl ⟨_, _, rfl⟩
  · exact .inl ⟨_, _, rfl⟩
  · exact .inr ⟨_, _, rfl, hsmall, not_not.mp hn⟩

/-- An address that leads to a scratchpad names an aligned offset inside it (R93). -/
theorem resolve_spad_offset {s : State} {c n t off : Nat} {r : Rights} {a : Word} (h : s.resolve c r a n = .ok (.spad t off)) :
    off < 0x180000 ∧ off % n = 0 := by
  have hspace := fld_lt a 62 2
  obtain h0 | h1 | h2 | h3 : fld a 62 2 = 0 ∨ fld a 62 2 = 1 ∨ fld a 62 2 = 2 ∨ fld a 62 2 = 3 := by omega
  · obtain ⟨k, v, ht⟩ | ⟨t', off', hok, hplace⟩ := resolve_spad_cases s c n r h0
    · rw [ht] at h; cases h
    · rw [hok] at h; cases h; exact hplace
  · rw [resolve_bulk h1] at h; split_ifs at h; cases h
  · by_cases hr : fld a 54 7 = 0
    swap; · rw [resolve_fabric_reserved h2 hr] at h; cases h
    by_cases hp : fld a 48 6 = s.pkgNum
    swap; · rw [resolve_fabric_abroad h2 hr hp] at h; split_ifs at h; cases h
    cases hb : bitAt a 61 with
    | true => rw [resolve_fabric_own_bulk h2 hr hp hb] at h; split_ifs at h; cases h
    | false =>
      obtain ⟨k, v, ht⟩ | ⟨t', off', hok, hplace⟩ := resolve_spad_cases s c n r (fld_low48_space a)
      · rw [resolve_fabric_own_trap h2 hr hp hb ht] at h; cases h
      · rw [resolve_fabric_own_ok h2 hr hp hb hok] at h; cases h; exact hplace
  · rw [resolve_space_three h3] at h; cases h

/-- An image lies in one scratchpad, or in bulk memory. -/
theorem imageAt_oneMemory {s s' : State} {n access key : Nat} (h : s.imageAt n access = .ok (key, s')) : OneMemory key 2048 := by
  unfold State.imageAt at h
  dsimp only at h
  split at h
  · cases h
  next c off hr =>
    cases h
    obtain ⟨hsize, halign⟩ := resolve_spad_offset hr
    refine .inr ?_
    rw [keyOff_spadKey (by omega)]
    omega
  · exact .inl (bulkAccess_frame h).1
  · cases h

/-! ### The image's bytes (R164) -/

/-- The words of an image from 0x120 on: the window, and what lies beyond. -/
def imageRegs (s : State) (t : Nat) : List Word :=
  ((List.range 128).map fun v => if v < (s.slot t).limit then s.reg t v else Config.freeWord (s.fresh + v)) ++ List.replicate 92 0

theorem imageRegs_getD (s : State) (t : Nat) {v : Nat} (hv : v < (s.slot t).limit) (h : v < 128) : (imageRegs s t).getD v 0 = s.reg t v := by
  rw [imageRegs, List.getD_append _ _ _ _ (by simpa using h)]
  simp [List.getD, List.getElem?_range h, hv]

theorem imageHead_length (c n : Nat) (sl : Slot) : (imageHead c n sl).length = 24 := rfl

section
variable {s : State} {key t : Nat} (hc : s.Calm key 2048)
include hc

theorem State.writeHead_fillsWithin (c n : Nat) (sl : Slot) : FillsWithin key 2048 s (s.writeHead key c n sl) := by
  have hhead := putWords_fillsWithin hc (imageHead c n sl) 0 (by rw [imageHead_length]; omega)
  have hptrs := putWords_fillsWithin hhead.calm (ptrWords sl) 0xC0 (by rw [show (ptrWords sl).length = 8 from rfl]; omega)
  exact (hhead.trans hptrs).trans (put_fillsWithin hptrs.calm 0x110 16 _ (by omega))

/-- An image fills its 2048 bytes alone, and holds the window's registers from 0x120 on. -/
theorem State.writeImage_spec (hl : (s.slot t).limit ≤ 128) : FillsWithin key 2048 s (s.writeImage key t) ∧
    ∀ v, v < (s.slot t).limit → (s.writeImage key t).read64 (key + 0x120 + 8 * v) = s.reg t v := by
  have hfreed : FillsWithin key 2048 s (s.freed 129) := ⟨hc, fun _ _ => rfl⟩
  have hhead := hfreed.trans (writeHead_fillsWithin hfreed.calm (t / 64) (t % 64) (s.slot t))
  let full := bitsOf ((List.range 128).map fun v => if v < (s.slot t).limit then s.regIsFull t v else bitAt (Config.freeWord (s.fresh + 128)) (v % 64))
  have hfull := put_fillsWithin hhead.calm 0x100 16 full (by omega)
  have hlen : (imageRegs s t).length = 220 := by simp [imageRegs]
  have hregs := putWords_fillsWithin hfull.calm (imageRegs s t) 0x120 (by omega)
  refine ⟨(hhead.trans hfull).trans hregs, fun v hv => ?_⟩
  rw [← imageRegs_getD s t hv (by omega)]
  exact read64_putWords hfull.calm (imageRegs s t) 0x120 v (by omega) (by omega)

end

theorem State.writeImage_onlyData (s : State) (key t : Nat) : OnlyData s (s.writeImage key t) := by
  unfold State.writeImage State.writeHead
  exact ((((putWords_onlyData _ (s.freed 129) key).trans (putWords_onlyData ..)).trans (put_onlyData ..)).trans (put_onlyData ..)).trans (putWords_onlyData ..)

end Sys2Proof.Machine

/-! ## SPILL and RESUME (O56) -/

namespace Sys2Proof.Machine

open State Sys2Proof.Claims

/-! ### A slot's thread goes into its image (R163) -/

/-- What the package keeps of a thread of slot t that is in an image at a key. -/
def State.spillRecord (s : State) (t key : Nat) : Evicted := { core := t / 64, slot := t % 64, key := key, rest := s.slot t }

/-- A slot while its image is written (R163, R151). -/
def savingSlot (sl : Slot) : Slot := { sl.vacated with phase := .saving, base := sl.base, limit := sl.limit, ctx := sl.ctx, mode := sl.mode }

theorem State.evict_eq {s : State} {t key : Nat} (hf : s.evicted.find? (fun e => e.key == key) = none) (hctx : (s.ctx (s.slot t).ctx).state ≠ 2) :
    s.evict t key = { s.writeImage key t with
      evicted := s.evicted ++ [s.spillRecord t key], names := (s.evict t key).names, slots := Store.set {} s.slots t (savingSlot (s.slot t)) } := by
  have hgone : ((s.ctx (s.slot t).ctx).state == 2) = false := beq_false_of_ne hctx
  have hdata := s.writeImage_onlyData key t
  have hevicted : (s.writeImage key t).evicted = s.evicted := by rw [hdata]
  have hslots : (s.writeImage key t).slots = s.slots := by rw [hdata]
  simp only [State.evict, hf, hgone, Bool.false_and, Bool.false_eq_true, if_false, Bool.or_false, hevicted, State.setSlot, hslots]
  rfl

/-! ### The issuer waits -/

/-- The record of a SPILL or RESUME that the issuer waits for. -/
def spillOp (s : State) (d n key : Nat) (scr resume : Bool) : SpillOp :=
  { id := s.nextId, uid := s.me.uid, reg := d, core := s.here, slot := n, key := key, saveBase := (s.coreRec s.here).saveBase, scr := scr, resume := resume }

/-- The operation is entered among those that are under way. -/
def spillEntered (s : State) (d n key : Nat) (scr resume : Bool) : State :=
  { s with nextId := s.nextId + 1, spills := s.spills ++ [spillOp s d n key scr resume] }

section
variable (s : State) (d n key : Nat) (scr resume : Bool)

theorem startSpill_eq : s.startSpill d n key scr resume =
    (spillEntered s d n key scr resume).waitFor s.nextId (.core s.here) 0 false false [d] := rfl

theorem startSpill_spills : (s.startSpill d n key scr resume).spills = s.spills ++ [spillOp s d n key scr resume] := rfl
theorem startSpill_mem : (s.startSpill d n key scr resume).mem = s.mem := rfl
theorem startSpill_evicted : (s.startSpill d n key scr resume).evicted = s.evicted := rfl

theorem startSpill_slot_ne {k : Nat} (h : k ≠ s.cur) : (s.startSpill d n key scr resume).slot k = s.slot k := by
  rw [startSpill_eq, State.waitFor]
  exact slot_modMe_ne (spillEntered s d n key scr resume) _ h

theorem startSpill_me : (s.startSpill d n key scr resume).me.phase = .parked ∧ (s.startSpill d n key scr resume).me.pc = s.me.pc := by
  obtain ⟨w, hw⟩ := waitFor_me (spillEntered s d n key scr resume) s.nextId (.core s.here) 0 false false [d]
  rw [startSpill_eq, hw]
  exact ⟨rfl, rfl⟩

end

/-! ### The operand, and what the slot is found to be -/

theorem spillOperand_user {s : State} (word : Word) (d : RegCode) (h : s.me.mode = 0) : spillOperand word d s = .error (.trap 0x0D word) := by
  rw [spillOperand, if_pos h]

theorem spillOperand_ok {s : State} {word x : Word} {d : RegCode} (hm : s.me.mode ≠ 0) (hd : s.destReady d.toNat = .ok ()) (h6 : fld x 6 2 = 0)
    (h9 : fld x 9 55 = 0) (hx : s.operands word [d.toNat] [d.toNat] = .ok [x]) : spillOperand word d s = .ok (fld x 0 6, bitAt x 8) := by
  have hbits : ¬ (fld (arg [x] 0) 6 2 ≠ 0 ∨ fld (arg [x] 0) 9 55 ≠ 0) := not_or.mpr ⟨not_not.mpr h6, not_not.mpr h9⟩
  simp only [spillOperand, if_neg hm, hx, if_neg hbits, hd]
  rfl

section
variable {d : RegCode} {s : State}

theorem exec_spill_user (h : s.me.mode = 0) : exec (.spill d) s = .next (s.takeTrap s.cur 0x0D (Instr.spill d).word) := by
  have hx : exec (.spill d) s = s.finish (spill (Instr.spill d).word d s) := rfl
  simp only [hx, spill, spillOperand_user _ _ h, finish_error, stop_trap]

theorem exec_resume_user (h : s.me.mode = 0) : exec (.resume d) s = .next (s.takeTrap s.cur 0x0D (Instr.resume d).word) := by
  have hx : exec (.resume d) s = s.finish (resume (Instr.resume d).word d s) := rfl
  simp only [hx, resume, spillOperand_user _ _ h, finish_error, stop_trap]

section
variable {n : Nat} {scr : Bool} (ho : spillOperand (Instr.spill d).word d s = .ok (n, scr))
include ho

theorem exec_spill_refused (h : unspillable s n = true) : exec (.spill d) s = .next (s.complete [d.toNat] d.toNat 1) := by
  have hx : exec (.spill d) s = s.finish (spill (Instr.spill d).word d s) := rfl
  simp only [hx, spill, ho, h, if_true, finish_ok]

theorem exec_spill_saves {key : Nat} (h : unspillable s n = false) (hc : s.me.codelet = false) (hi : s.imageAt n 1 = .ok (key, s)) :
    exec (.spill d) s = .next ((s.evict (s.here * 64 + n) key).startSpill d.toNat n key scr false) := by
  have hx : exec (.spill d) s = s.finish (spill (Instr.spill d).word d s) := rfl
  simp only [hx, spill, ho, h, hc, withImage, hi, Bool.false_eq_true, if_false, finish_ok]

end

section
variable {n : Nat} {scr : Bool} (ho : spillOperand (Instr.resume d).word d s = .ok (n, scr))
include ho

theorem exec_resume_refused (h : (s.slot (s.here * 64 + n)).phase ≠ .free) : exec (.resume d) s = .next (s.complete [d.toNat] d.toNat 1) := by
  have hx : exec (.resume d) s = s.finish (resume (Instr.resume d).word d s) := rfl
  simp only [hx, resume, ho, if_pos h, finish_ok]

/-- The slot that a RESUME holds for the image's thread (R166). -/
def resumedSlot (s : State) (key base : Nat) (sl : Slot) : Slot :=
  { sl.vacated with phase := .reserved, base := base, limit := fld (s.read64 (key + 0x30)) 16 8, ctx := fld (s.read64 (key + 0x18)) 0 9 }

theorem exec_resume_restores {key base : Nat} (h : (s.slot (s.here * 64 + n)).phase = .free) (hc : s.me.codelet = false) (hi : s.imageAt n 0 = .ok (key, s))
    (hw : s.freeWindow s.here (fld (s.read64 (key + 0x30)) 16 8) = some base) :
    exec (.resume d) s = .next ((s.modSlot (s.here * 64 + n) (resumedSlot s key base)).startSpill d.toNat n key scr true) := by
  have hx : exec (.resume d) s = s.finish (resume (Instr.resume d).word d s) := rfl
  simp only [hx, resume, ho, h, ne_eq, not_true_eq_false, if_false, withImage, hi, hw, hc, Bool.false_eq_true, finish_ok]
  rfl

end

end

end Sys2Proof.Machine

/-! ## A thread in its image, and back in a slot (O56) -/

namespace Sys2Proof.Machine

open State Sys2Proof.Claims

/-! ### What a SPILL leaves -/

section
variable {s : State} {t key : Nat} (hf : s.evicted.find? (fun e => e.key == key) = none) (hctx : (s.ctx (s.slot t).ctx).state ≠ 2)
include hf hctx

theorem State.evict_slots : (s.evict t key).slots = (s.setSlot t (savingSlot (s.slot t))).slots := by rw [evict_eq hf hctx]; rfl

theorem State.evict_slot_self : (s.evict t key).slot t = savingSlot (s.slot t) := by
  rw [slot_of_slots (evict_slots hf hctx), slot_setSlot_self]

theorem State.evict_slot_ne {k : Nat} (h : k ≠ t) : (s.evict t key).slot k = s.slot k := by
  rw [slot_of_slots (evict_slots hf hctx), slot_setSlot_ne _ _ h]

theorem State.evict_mem : (s.evict t key).mem = (s.writeImage key t).mem := by rw [evict_eq hf hctx]

theorem State.evict_evicted : (s.evict t key).evicted = s.evicted ++ [s.spillRecord t key] := by rw [evict_eq hf hctx]

theorem State.evict_cur : (s.evict t key).cur = s.cur := by rw [evict_eq hf hctx, writeImage_onlyData]

theorem State.evict_spills : (s.evict t key).spills = s.spills := by rw [evict_eq hf hctx, writeImage_onlyData]

end

/-- A slot beside the own that SPILL does not leave alone. -/
theorem ne_cur_of_spillable {s : State} {n : Nat} (h : unspillable s n = false) : s.here * 64 + n ≠ s.cur := by
  intro he
  have hown : n = s.cur % 64 := by unfold State.here at he; omega
  rw [(unspillable_iff s n).mpr (.inl hown)] at h
  cases h

/-! ### The ends of SPILL and RESUME -/

theorem exec_spillComplete {s : State} {m : Nat} {o : SpillOp} (hf : s.spills.find? (fun y => y.id == m) = some o) (hscr : o.scr = false)
    (hr : o.resume = false) : exec (.spillComplete m) s = .next ((s.modSlot (o.core * 64 + o.slot) Slot.vacated).endSpill o) := by
  show Host.Outcome.next (spillComplete m s) = _
  simp only [spillComplete, hf, hscr, hr, Bool.false_eq_true, if_false]

theorem exec_resumeComplete {s : State} {m : Nat} {o : SpillOp} (hf : s.spills.find? (fun y => y.id == m) = some o) (hscr : o.scr = false)
    (hr : o.resume = true) (hp : (((restoreThread o.core o.slot o.key s).endSpill o).slot (o.core * 64 + o.slot)).pend = []) :
    exec (.resumeComplete m) s = .next ((restoreThread o.core o.slot o.key s).endSpill o) := by
  show Host.Outcome.next (resumeComplete m s) = _
  simp only [resumeComplete, hf, hscr, hr, hp, Bool.not_true, Bool.false_eq_true, if_false]

/-! ### A restored thread (R166) -/

/-- The registers and full bits of slot t's window become those of the image at a key. -/
def restoreRegs (s x : State) (t key : Nat) : State :=
  x.putRegs t (fun _ => true) (fun v => s.read64 (key + 0x120 + 8 * v)) (fun v => (s.mem.readN (key + 0x100) 16).testBit v) (List.range (s.slot t).limit)

/-- From s to u the registers of slot t have become those of the image at a key, with the window's place and memory kept. -/
structure Restored (s u : State) (t key : Nat) : Prop where
  base : (u.slot t).base = (s.slot t).base
  mem : u.mem = s.mem
  regs : ∀ v, 0 < v → v < (s.slot t).limit → (s.slot t).limit ≤ 128 →
    RegReads u t v (s.read64 (key + 0x120 + 8 * v)) ((s.mem.readN (key + 0x100) 16).testBit v)

theorem restoreRegs_restored {s x : State} {t : Nat} (key : Nat) (hb : (x.slot t).base = (s.slot t).base) (hm : x.mem = s.mem) :
    Restored s (restoreRegs s x t key) t key := by
  have honly : OnlyRegs x (restoreRegs s x t key) := x.putRegs_onlyRegs t _ _ _ _
  constructor
  case base => rw [slot_of_slots honly.slots, hb]
  case mem => rw [honly, hm]
  case regs =>
    intro v h0 hv hl
    exact regReads_putRegs t _ _ _ h0 rfl _ (fun w hw => by have := List.mem_range.mp hw; omega) (List.mem_range.mpr hv) x

/-- What the matrix engine forgets of the thread leaves its registers. -/
theorem Restored.forgetTiles {s u : State} {t key : Nat} (h : Restored s u t key) (c : Nat) (p : TileCmd → Bool) : Restored s (u.forgetTiles c p) t key := by
  have hdata := u.forgetTiles_onlyData c p
  have hslots : (u.forgetTiles c p).slots = u.slots := by rw [hdata]
  constructor
  case base => rw [slot_of_slots hslots, h.base]
  case mem => rw [forgetTiles_mem, h.mem]
  case regs =>
    intro v h0 hv hl
    exact (regReads_iff_of_eq hslots (by rw [hdata]) (by rw [hdata])).mpr (h.regs v h0 hv hl)

theorem restoreThread_restored (c n key : Nat) (s : State) : Restored s (restoreThread c n key s) (c * 64 + n) key := by
  unfold restoreThread
  dsimp only
  split
  · refine Restored.forgetTiles (restoreRegs_restored key ?_ ?_) _ _
    · rw [slot_setSlot_self]
      split <;> rfl
    · rfl
  · refine restoreRegs_restored key ?_ ?_
    · rw [slot_setSlot_self]
      split <;> rfl
    · rfl

end Sys2Proof.Machine

/-! ## Threads are controlled (O56) -/

namespace Sys2Proof.Machine

open State Sys2Proof.Claims

/-! ### Creation -/

theorem newSlot_fields (s : State) (t base : Nat) (n : NewThread) : let sl := s.newSlot t base n
    sl.phase = .ready ∧ sl.pc = n.pc ∧ sl.base = base ∧ sl.limit = n.limit ∧ sl.mode = n.mode ∧ sl.ctx = n.ctx ∧ sl.flags = 0 ∧ sl.intrap = false ∧
      sl.lastIssue = (s.slot t).lastIssue ∧ sl.seq = (s.slot t).seq := ⟨rfl, rfl, rfl, rfl, rfl, rfl, rfl, rfl, rfl, rfl⟩

/-! ### SPAWN within a kernel -/

section
variable {s : State} {off n base : Nat}

/-- The slot of a new child is not its creator's, which is READY. -/
theorem State.freeSlot_ne_cur (hn : s.freeSlot s.here = some n) (hr : s.me.phase = .ready) : s.here * 64 + n ≠ s.cur := by
  intro he
  have hfree := (freeSlot_spec hn).2
  rw [he] at hfree
  exact Phase.noConfusion (hfree.symm.trans hr)

theorem spawned_alone (he : s.me.extra = false) (hp : s.me.kpkg = none) (hc : s.me.countAt = none) : (spawned s off).extra = false := by
  simp [spawned, he, hp, hc]

theorem spawned_joins (h : s.me.extra = true ∨ s.me.countAt ≠ none ∨ s.me.kpkg ≠ none) (hj : s.joins s.me.kpkg s.me.kernel = true) :
    (spawned s off).extra = true := by
  have h' : s.me.extra = true ∨ s.me.kpkg.isSome = true ∨ s.me.countAt.isSome = true := by
    rw [Option.isSome_iff_ne_none, Option.isSome_iff_ne_none]; tauto
  simp only [spawned, hj, Bool.and_true, Bool.or_eq_true]
  tauto

/-- The creator of a child that has to JOIN waits, with its pc kept; the child is in place and memory is untouched. -/
theorem joining_created (srcs : List Nat) (d : Nat) (child : NewThread) (hn : s.freeSlot s.here = some n) (hr : s.me.phase = .ready) :
    let u := s.createAt (s.here * 64 + n) base child
    let t := joining u srcs d n child s
    t.me.phase = .parked ∧ t.me.park = .remote u.nextId ∧ t.me.pc = s.me.pc ∧ t.mem = s.mem ∧ t.slot (s.here * 64 + n) = u.slot (s.here * 64 + n) := by
  have hne := freeSlot_ne_cur hn hr
  have hme : (s.createAt (s.here * 64 + n) base child).me = s.me := by
    rw [State.me, createAt_cur, createAt_slot_ne _ _ _ (Ne.symm hne)]
    rfl
  obtain ⟨hphase, hpark, hpc⟩ := joining_me (u := s.createAt (s.here * 64 + n) base child) (s := s) srcs d n child
  rw [hme] at hpc
  exact ⟨hphase, hpark, hpc, (joining_mem ..).trans (createAt_mem ..), joining_slot_ne _ _ _ _ (by rw [createAt_cur]; exact hne)⟩

end

/-- The JOIN of a child is what its creator sends. -/
theorem joining_sends {u s : State} {l : List (Node × Body)} (srcs : List Nat) (d n : Nat) (child : NewThread)
    (h : Sends u (u.sendJoin s.here s.me.uid child.kpkg child.kernel d n) l) : Sends u (joining u srcs d n child s) l := h

section
variable (s : State) (t base : Nat) {n : NewThread}

theorem createAt_sendJoin_own {c uid : Nat} (hp : n.kpkg = none) (reg v : Nat) : Sends (s.createAt t base n)
    ((s.createAt t base n).sendJoin c uid n.kpkg n.kernel reg v) [(.ctrl (s.kernelRec (kernelId n.kernel)).rootDie, .join n.kernel reg v)] := by
  have hroot : (s.createAt t base n).kernelRec (kernelId n.kernel) = s.kernelRec (kernelId n.kernel) := by rw [createAt_frame]; rfl
  rw [hp, ← hroot]
  exact sendJoin_own ..

theorem createAt_sendJoin_abroad {c p uid : Nat} (hp : n.kpkg = some p) (h : s.isUnreachable c p = false) (reg v : Nat) : Sends (s.createAt t base n)
    ((s.createAt t base n).sendJoin c uid n.kpkg n.kernel reg v) [(.pkg p, .join n.kernel reg v)] := by
  rw [hp]
  refine sendJoin_abroad _ _ _ _ ?_
  rw [createAt_frame]
  exact h

end

/-! ### What SPILL and RESUME leave -/

section
variable {s : State} {n key : Nat} (d : Nat) (scr : Bool)

theorem spill_leaves (hu : unspillable s n = false) (hk : OneMemory key 2048) (hf : s.evicted.find? (fun e => e.key == key) = none)
    (hctx : (s.ctx (s.slot (s.here * 64 + n)).ctx).state ≠ 2) (hl : (s.slot (s.here * 64 + n)).limit ≤ 128) (hd : s.undisturbed false key 2048 = true) :
    let t := s.here * 64 + n
    let u := (s.evict t key).startSpill d n key scr false
    u.me.phase = .parked ∧ u.me.pc = s.me.pc ∧ u.slot t = savingSlot (s.slot t) ∧ u.evicted = s.evicted ++ [s.spillRecord t key] ∧
      (∃ o, u.spills = s.spills ++ [o] ∧ o.uid = s.me.uid ∧ o.reg = d ∧ o.scr = scr) ∧
      (∀ v, v < (s.slot t).limit → u.read64 (key + 0x120 + 8 * v) = s.reg t v) ∧ ∀ k, k < key ∨ key + 2048 ≤ k → u.mem.byte k = s.mem.byte k := by
  dsimp only
  have hne := ne_cur_of_spillable hu
  have hcur := evict_cur hf hctx
  have hme : (s.evict (s.here * 64 + n) key).me = s.me := by
    rw [State.me, hcur, evict_slot_ne hf hctx (Ne.symm hne)]
    rfl
  obtain ⟨hphase, hpc⟩ := startSpill_me (s.evict (s.here * 64 + n) key) d n key scr false
  obtain ⟨hfill, hregs⟩ := writeImage_spec (calm_of_undisturbed hk hd) hl
  have hmem := evict_mem hf hctx
  refine ⟨hphase, by rw [hpc, hme], ?slot, ?evicted, ⟨spillOp (s.evict (s.here * 64 + n) key) d n key scr false, ?spills, ?uid, rfl, rfl⟩, ?regs, ?frame⟩
  case slot => rw [startSpill_slot_ne _ _ _ _ _ _ (by rw [hcur]; exact hne), evict_slot_self hf hctx]
  case evicted => rw [startSpill_evicted, evict_evicted hf hctx]
  case spills => rw [startSpill_spills, evict_spills hf hctx]
  case uid => exact congrArg Slot.uid hme
  case regs =>
    intro v hv
    rw [read64_of_mem (startSpill_mem ..), read64_of_mem hmem]
    exact hregs v hv
  case frame =>
    intro k hk
    rw [startSpill_mem, hmem]
    exact hfill.outside k hk

theorem resume_leaves {base : Nat} (hfree : (s.slot (s.here * 64 + n)).phase = .free) (hr : s.me.phase = .ready) :
    let t := s.here * 64 + n
    let u := (s.modSlot t (resumedSlot s key base)).startSpill d n key scr true
    u.me.phase = .parked ∧ u.slot t = resumedSlot s key base (s.slot t) ∧ u.mem = s.mem ∧ ∃ o, u.spills = s.spills ++ [o] ∧ o.resume = true ∧ o.key = key := by
  have hne : s.here * 64 + n ≠ s.cur := by
    intro he
    rw [he] at hfree
    exact Phase.noConfusion (hfree.symm.trans hr)
  refine ⟨(startSpill_me ..).1, ?slot, rfl, _, rfl, rfl, rfl⟩
  exact (startSpill_slot_ne (s.modSlot (s.here * 64 + n) (resumedSlot s key base)) d n key scr true hne).trans (slot_modSlot_self ..)

end

/-! ### The statement -/

theorem joins_of_live {s : State} {w : Word} (h : s.kernelLive w = true) (kpkg : Option Nat) : s.joins kpkg w = true := by
  have hv : kernelV w = true := by
    simp only [State.kernelLive, Bool.and_eq_true] at h
    exact h.1.1
  simp [State.joins, hv, h]

theorem joins_of_abroad {s : State} {w : Word} {p : Nat} (h : kernelV w = true) : s.joins (some p) w = true := by simp [State.joins, h]

/-- Settles O56: each instruction and event is its equation, a new slot's fields are those of `State.newSlot`, its registers are what the
run of `regReads_createAt` gives, and a SPILL's image fills 2048 bytes in which no write meets a record or table. -/
theorem threadsAreControlled : Obligations.ThreadsAreControlled := by
  unfold Obligations.ThreadsAreControlled
  refine ⟨?halt, ?yield, ?yieldExpiry, ?spawn, unspillable_iff, ?create, ?page, ?complete, ?restore, ?task,
    fun s t c v r => exec_boundaryTrap, ?retire⟩
  case halt =>
    intro s
    obtain ⟨hphase, hstatus⟩ := terminate_slot s s.cur 0
    exact ⟨exec_halt s, hphase, hstatus⟩
  case yield =>
    intro s
    refine ⟨yielded s, exec_yield s, yielded_mem s, yielded_regs s, fun hl => ?_, congrArg Slot.yield (yielded_me s)⟩
    rw [yielded_me, Slot.advance_straight _ hl]
  case yieldExpiry =>
    intro s t e l
    exact exec_yieldExpiry
  case spawn =>
    intro d s x off ho hr hin
    dsimp only
    intro hhigh hmid haligned hinside hmode hsmall
    have hlegal : SpawnLegal (s.read64 (spadKey s.here off)) := ⟨hhigh, hmid, haligned, hinside, hmode, hsmall⟩
    refine ⟨fun hm => exec_spawn_trap ho hr hin (spawnChild_unprivileged _ hlegal hm), fun hm h2 hd => ?_⟩
    have hchild := spawnChild_ok (Instr.spawn d).word hlegal hm h2
    refine ⟨exec_spawn_full ho hr hin hchild hd, ?alone, ?member⟩
    case alone =>
      intro n base hn hb he hp hc hk
      refine ⟨spawned s off, ?_, rfl, rfl, rfl, rfl, rfl⟩
      rw [exec_spawn_placed ho hr hin hchild hd hn hb, spawnAt_alone _ _ _ _ (spawned_alone he hp hc) ((kernelV_memberKernel _).trans hk)]
      rfl
    case member =>
      intro n base hn hb hready
      have hplaced := exec_spawn_placed ho hr hin hchild hd hn hb
      refine ⟨spawned s off, rfl, rfl, rfl, rfl, rfl, rfl, rfl, ?counted, ?own, ?abroad⟩
      case counted =>
        intro he hp hc hl
        rw [hplaced, spawnAt_counted _ _ _ _ (spawned_alone he hp hc) hl]
        rfl
      case own =>
        intro he hp hl
        have hextra : (spawned s off).extra = true := spawned_joins (he.imp_right .inl) (joins_of_live hl _)
        obtain ⟨hphase, hpark, hpc, hmem, hslot⟩ := joining_created [d.toNat] d.toNat (spawned s off) (base := base) hn hready
        refine ⟨joining (s.createAt (s.here * 64 + n) base (spawned s off)) [d.toNat] d.toNat n (spawned s off) s, ?_, hphase, hpark, hpc, hmem, hslot, ?_⟩
        · rw [hplaced, spawnAt_joins _ _ _ _ hextra]
        · exact joining_sends _ _ _ _ (createAt_sendJoin_own _ _ _ hp _ _)
      case abroad =>
        intro p hp hk
        have hextra : (spawned s off).extra = true := spawned_joins (.inr (.inr (by simp [hp]))) (by rw [hp]; exact joins_of_abroad hk)
        obtain ⟨hphase, hpark, hpc, hmem, -⟩ := joining_created [d.toNat] d.toNat (spawned s off) (base := base) hn hready
        refine ⟨joining (s.createAt (s.here * 64 + n) base (spawned s off)) [d.toNat] d.toNat n (spawned s off) s, ?_, hphase, hpark, hpc, hmem, fun hreach => ?_⟩
        · rw [hplaced, spawnAt_joins _ _ _ _ hextra]
        · exact joining_sends _ _ _ _ (createAt_sendJoin_abroad _ _ _ hp hreach _ _)
  case create =>
    intro s t base n hlimit hargs
    dsimp only
    rw [createAt_slot_self]
    obtain ⟨hphase, hpc, hbase, hlim, hmode, hctx, hflags, hintrap, hissue, hseq⟩ := newSlot_fields s t base n
    refine ⟨hphase, hpc, hbase, hlim, hmode, hctx, hflags, hintrap, hissue, hseq, createAt_mem .., ?_, fun k hk => createAt_slot_ne _ _ _ hk⟩
    intro v h0 hv
    exact And.symm (regReads_createAt s t base n hlimit hargs h0 hv)
  case page =>
    intro d s x n
    dsimp only
    refine ⟨fun hm => ⟨exec_spill_user hm, exec_resume_user hm⟩, ?_⟩
    rintro hm hd h6 h9 rfl
    refine ⟨fun ho => ?spill, fun ho => ?resume⟩
    case spill =>
      have hop := spillOperand_ok hm hd h6 h9 ho
      refine ⟨exec_spill_refused hop, ?_⟩
      intro key hu hc hi hf hctx hl hund
      have hn := fld_lt x 0 6
      obtain ⟨hphase, hpc, hslot, hev, ⟨o, hspills, huid, hreg, hscr⟩, hregs, hframe⟩ :=
        spill_leaves d.toNat (bitAt x 8) hu (imageAt_oneMemory hi) hf hctx hl hund
      refine ⟨_, s.spillRecord (s.here * 64 + fld x 0 6) key, o, exec_spill_saves hop hu hc hi, hphase, hpc, congrArg Slot.phase hslot, hslot ▸ rfl,
        hslot ▸ rfl, hev, ?core, ?slot, rfl, hspills, huid, hreg, hscr, hregs, hframe⟩
      case core => show (s.here * 64 + fld x 0 6) / 64 = s.here; omega
      case slot => show (s.here * 64 + fld x 0 6) % 64 = fld x 0 6; omega
    case resume =>
      have hop := spillOperand_ok hm hd h6 h9 ho
      refine ⟨exec_resume_refused hop, ?_⟩
      intro key base hfree hready hc hi hw
      obtain ⟨hphase, hslot, hmem, o, hspills, hresume, hkey⟩ := resume_leaves (key := key) (base := base) d.toNat (bitAt x 8) hfree hready
      refine ⟨_, o, exec_resume_restores hop hfree hc hi hw, hphase, congrArg Slot.phase hslot, congrArg Slot.base hslot, ?_, hmem, hspills, hresume, hkey⟩
      rw [hslot]
      rfl
  case complete =>
    intro s m o hf hscr
    exact ⟨exec_spillComplete hf hscr, exec_resumeComplete hf hscr⟩
  case restore =>
    intro s c n key v
    dsimp only
    intro h0 hv hl
    have h := restoreThread_restored c n key s
    obtain ⟨hreg, hfull⟩ := h.regs v h0 hv hl
    exact ⟨hreg, hfull, h.base, h.mem⟩
  case task =>
    intro s c p rest n base ht hn hb
    refine ⟨_, exec_taskDispatch ht hn hb, taskStarted_tasks .., ?_⟩
    rw [taskStarted_slot]
    refine ⟨rfl, rfl, rfl, rfl, rfl, rfl, rfl, ?_, ?_, ?_, ?_, taskStarted_mem ..⟩
    · exact (taskStarted_arg s c n base _ p rest (v := 1) (by omega) (by omega)).1
    · exact (taskStarted_arg s c n base _ p rest (v := 2) (by omega) (by omega)).1
    · exact (taskStarted_arg s c n base _ p rest (v := 3) (by omega) (by omega)).1
    · exact (taskStarted_arg s c n base _ p rest (v := 4) (by omega) (by omega)).1
  case retire =>
    intro s t hp hld hst htl hcp hn h
    have hslot := slotRetire_frees hp hld hst htl hcp hn h
    exact ⟨slotRetire t s, rfl, congrArg Slot.phase hslot, hslot ▸ rfl, hslot ▸ rfl⟩

end Sys2Proof.Machine

/-! ## HOME, and the requests for a slot of a migrating thread (O59) -/

namespace Sys2Proof.Machine

open State Sys2Proof.Claims

/-! ### HOME (R285) -/

section
variable {s : State}

theorem exec_home_idle (h : s.me.guest = false ∨ s.me.codelet = true) : exec .home s = .next (s.completeNone []) := by
  have hx : exec .home s = s.finish (if s.me.guest && !s.me.codelet then s.askHome true 0 else .ok (s.completeNone [])) := rfl
  have hno : ¬ (s.me.guest && !s.me.codelet) = true := by
    rw [Bool.and_eq_true, Bool.not_eq_true']
    rintro ⟨hg, hc⟩
    rcases h with h | h
    · rw [hg] at h; cases h
    · rw [hc] at h; cases h
  rw [hx, if_neg hno, finish_ok]

section
variable (hg : s.me.guest = true) (hc : s.me.codelet = false)
include hg hc

theorem exec_home_guest : exec .home s = s.finish (s.askHome true 0) := by
  have hx : exec .home s = s.finish (if s.me.guest && !s.me.codelet then s.askHome true 0 else .ok (s.completeNone [])) := rfl
  have hyes : (s.me.guest && !s.me.codelet) = true := by rw [hg, hc]; rfl
  rw [hx, if_pos hyes]

theorem exec_home_busy (h : s.me.ld + s.me.st + s.me.tl + s.me.cp ≠ 0) : exec .home s = .next s := by
  rw [exec_home_guest hg hc, State.askHome]
  rw [if_pos h]
  rfl

/-- A guest that is idle asks its origin core, and waits. -/
theorem exec_home_asks {s1 : State} (h : s.me.ld + s.me.st + s.me.tl + s.me.cp = 0)
    (hq : s.requestAbroad s.me.originPkg (.home true 0) (.homeAsk s.me.originCore) = .ok s1) :
    exec .home s = .next (s1.waitFor s.nextId (.pkg s.me.originPkg) 0 false false []) := by
  rw [exec_home_guest hg hc, State.askHome]
  rw [if_neg (not_not.mpr h), hq]
  rfl

end

end

/-! ### Steps that send messages alone -/

/-- From s to t only messages are sent. -/
def OnlySends (s t : State) : Prop := t = { s with net := t.net, nextId := t.nextId }

theorem OnlySends.refl (s : State) : OnlySends s s := rfl

theorem OnlySends.trans {s t u : State} (h : OnlySends s t) (k : OnlySends t u) : OnlySends s u := by
  unfold OnlySends at *; rw [k, h]

theorem State.agentSend_onlySends (s : State) (src dst : Node) (i : Nat) (sup : Bool) (b : Body) : OnlySends s (s.agentSend src dst i sup b) := rfl

theorem State.sendHeatFrom_onlySends (s : State) (src : Node) (e : Word) : OnlySends s (s.sendHeatFrom src e) := by
  unfold State.sendHeatFrom
  split
  · exact agentSend_onlySends ..
  · exact .refl s

theorem State.sendHeatPages_onlySends (src : Node) (r : Rights) (write : Bool) (n : Nat) (s : State) (va : Nat) :
    OnlySends s (s.sendHeatPages src r write va n) := by
  induction n generalizing s va with
  | zero => exact .refl s
  | succ n ih =>
    unfold State.sendHeatPages
    split
    · split
      · exact sendHeatFrom_onlySends ..
      · exact (sendHeatFrom_onlySends ..).trans (ih _ _)
    · exact .refl s

theorem State.sendHeats_onlySends (s : State) (src : Node) (r : Rights) (write : Bool) (va n : Nat) : OnlySends s (s.sendHeats src r write va n) := by
  unfold State.sendHeats
  split
  · exact .refl s
  · exact sendHeatPages_onlySends ..

theorem State.plainHeat_onlySends (s : State) (src : Node) (c : Nat) (r : Rights) (a : Word) (n : Nat) (write : Bool) :
    OnlySends s (s.plainHeat src c r a n write) := by
  unfold State.plainHeat
  split
  · exact sendHeats_onlySends ..
  · exact .refl s

theorem migrationHeat_onlySends (r : Rights) (addr : Word) (s : State) : OnlySends s (migrationHeat r addr s) := by
  unfold migrationHeat
  split
  · exact .refl s
  · split
    · exact sendHeats_onlySends ..
    · exact .refl s

/-! ### The slot that is reserved for a thread (R282, R285) -/

theorem State.findMsg_of_performable {s : State} {m : Nat} {x : Msg} (h : s.performable m = some x) : s.findMsg m = some x := by
  unfold State.performable at h
  split at h
  next y hy =>
    split at h
    · rw [findMsg_of_arrived hy, h]
    · cases h
  · cases h

/-- A slot that is held for a thread of context i that is to come, with the window at base. -/
def heldSlot (s : State) (t base i : Nat) : Slot :=
  { phase := .reserved, base := base, limit := 16, ctx := i, lastIssue := (s.slot t).lastIssue, seq := (s.slot t).seq }

section
variable {s s1 : State} {c i : Nat} {l : List Nat} (h1 : OnlySends s s1)
include h1

theorem reserveFor_found {n base : Nat} (hn : l.find? (fun n => (s.slot (c * 64 + n)).phase == .free) = some n) (hb : s.freeWindow c 16 = some base) :
    reserveFor c i l s1 = (0, n, s1.setSlot (c * 64 + n) (heldSlot s (c * 64 + n) base i)) := by
  have hslots : ∀ k, s1.slot k = s.slot k := slot_of_slots (by rw [h1])
  have hb1 : s1.freeWindow c 16 = some base := by rw [h1]; exact hb
  simp only [reserveFor, hslots, hn, hb1, State.modSlot]
  rfl

theorem reserveFor_full (h : l.find? (fun n => (s.slot (c * 64 + n)).phase == .free) = none ∨ s.freeWindow c 16 = none) :
    reserveFor c i l s1 = (1, 0, s1) := by
  have hslots : ∀ k, s1.slot k = s.slot k := slot_of_slots (by rw [h1])
  have hb1 : s1.freeWindow c 16 = s.freeWindow c 16 := by rw [h1]; rfl
  unfold reserveFor
  simp only [hslots, hb1]
  split
  next n base hn hb => simp [hn, hb] at h
  next => rfl

end

section
variable {s : State} {m : Nat} {x : Msg} {p : Nat} (hp : s.performable m = some x) (hs : x.src = .pkg p)
include hp hs

/-- The answer to a thread that asks for a slot of core c (R282). -/
def slotAnswer (x : Msg) (c : Nat) (r : Nat × Nat × State) : State := answerAbroad x 0 [ofNat r.1, ofNat c, ofNat r.2.1] r.2.2

theorem exec_migrateAsk_refused {addr : Word} (hb : x.body = .migrateAsk addr) (h : migrationHome { ctx := x.ctx, sup := x.sup } addr s = none) :
    exec (.migrationRequest m) s = .next (answerAbroad x 0x0F [] (migrationHeat { ctx := x.ctx, sup := x.sup } addr s)) := by
  show Host.Outcome.next (migrationRequest m s) = _
  simp only [migrationRequest, findMsg_of_performable hp, hb, hs, hp, h]

theorem exec_migrateAsk_taken {addr : Word} {c : Nat} (hb : x.body = .migrateAsk addr) (h : migrationHome { ctx := x.ctx, sup := x.sup } addr s = some c) :
    exec (.migrationRequest m) s =
      .next (slotAnswer x c (reserveFor c x.ctx [60, 61, 62] (migrationHeat { ctx := x.ctx, sup := x.sup } addr s))) := by
  show Host.Outcome.next (migrationRequest m s) = _
  simp only [migrationRequest, findMsg_of_performable hp, hb, hs, hp, h, slotAnswer]

theorem exec_homeAsk {c : Nat} (hb : x.body = .homeAsk c) :
    exec (.migrationRequest m) s = .next (slotAnswer x c (reserveFor c x.ctx (List.range 63) s)) := by
  show Host.Outcome.next (migrationRequest m s) = _
  simp only [migrationRequest, findMsg_of_performable hp, hb, hs, hp, slotAnswer]

end

/-! ### A refused migration (R282) -/

theorem State.dropMsg_waitsFor (s : State) (m u k : Nat) : (s.dropMsg m).waitsFor u k = s.waitsFor u k := by
  have hthread : (s.dropMsg m).thread u = s.thread u := thread_congr (dropMsg_slots s m) (dropMsg_evicted s m) (dropMsg_mem s m) u
  simp only [State.waitsFor, hthread]

theorem exec_migrateAnswer_refused {s : State} {m c core slot : Nat} {x : Msg} {addr : Word} {home : Option Bool} (hf : s.findMsg m = some x)
    (hr : s.response m = some x) (hd : x.dst = .core c) (hb : x.body = .migrateAnswer 0x0F core slot addr home) (hw : s.waitsFor x.uid m = true) :
    exec (.migrationRequest m) s = .next ((s.dropMsg m).trapThread x.uid 0x0F addr) := by
  have hw' : (s.dropMsg m).waitsFor x.uid m = true := (dropMsg_waitsFor ..).trans hw
  show Host.Outcome.next (migrationRequest m s) = _
  simp only [migrationRequest, hf, hb, hd, hr, hw', Bool.not_true, Bool.false_eq_true, if_false, true_or, if_true]

/-! ### Where a migrating thread finds its slot (R282) -/

/-- A core that may take a guest. -/
def takesGuests (s : State) (c : Nat) : Option Nat := if s.isPager c = true ∨ s.isOffline c = true then none else some c

section
variable {r : Rights} {addr : Word} {s : State}

theorem migrationHome_notLive (h : (s.ctx r.ctx).state ≠ 1) (h0 : r.ctx ≠ 0) : migrationHome r addr s = none := by
  rw [migrationHome, if_pos ⟨h0, h⟩]

section
variable (h : r.ctx = 0 ∨ (s.ctx r.ctx).state = 1)
include h

theorem not_refused_of_live : ¬ (r.ctx ≠ 0 ∧ (s.ctx r.ctx).state ≠ 1) := by tauto

theorem migrationHome_unresolved {k : Stop} (hr : s.resolve 0 r addr 1 = .error k) : migrationHome r addr s = none := by
  simp only [migrationHome, if_neg (not_refused_of_live h), hr]

theorem migrationHome_spad {c o : Nat} (hr : s.resolve 0 r addr 1 = .ok (.spad c o)) : migrationHome r addr s = takesGuests s c := by
  simp only [migrationHome, if_neg (not_refused_of_live h), hr, Bool.or_eq_true, takesGuests]

theorem migrationHome_unmapped {va a b : Nat} (hr : s.resolve 0 r addr 1 = .ok (.bulk va)) (hw : s.walk r.ctx va = .fault a b) :
    migrationHome r addr s = none := by
  simp only [migrationHome, if_neg (not_refused_of_live h), hr, hw]

theorem migrationHome_page {va a b : Nat} {e : Word} (hr : s.resolve 0 r addr 1 = .ok (.bulk va)) (hw : s.walk r.ctx va = .leaf e a b) :
    migrationHome r addr s = if bitAt e 5 = true then takesGuests s (coreAt (fld e 39 5) (fld e 44 6)) else none := by
  simp only [migrationHome, if_neg (not_refused_of_live h), hr, hw, Bool.or_eq_true, takesGuests]

/-- A page of bulk memory leads to the core of its leaf, where the leaf has H set (R282). -/
theorem migrationHome_leaf {va a b : Nat} {e : Word} (hr : s.resolve 0 r addr 1 = .ok (.bulk va)) (hw : s.walk r.ctx va = .leaf e a b) : let c := 32 * fld e 44 6 + fld e 39 5
    migrationHome r addr s = if bitAt e 5 = false ∨ s.isPager c = true ∨ s.isOffline c = true then none else some c := by
  have hplace : coreAt (fld e 39 5) (fld e 44 6) = 32 * fld e 44 6 + fld e 39 5 := rfl
  rw [migrationHome_page h hr hw, hplace, takesGuests]
  dsimp only
  cases bitAt e 5
  · rw [if_neg Bool.false_ne_true, if_pos (.inl rfl)]
  · simp only [if_true, Bool.true_eq_false, false_or]

end

end

end Sys2Proof.Machine

/-! ## Departure and arrival of a migrating thread (O59) -/

namespace Sys2Proof.Machine

open State Sys2Proof.Claims

/-! ### Departure (R181, R282) -/

section
variable (s : State) (t p place : Nat) (home : Bool)

theorem State.sendRecord_mem : (s.sendRecord t p place home).mem = s.mem := by
  unfold State.sendRecord State.sendAbroad
  dsimp only
  split <;> [split; skip] <;> rfl

/-- A guest that goes home waits for one more notice. -/
theorem State.sendRecord_notices : ((s.sendRecord t p place home).slot t).notices = if home then 1 else (s.slot t).notices := by
  cases home
  · rfl
  · rw [State.sendRecord, if_pos rfl, slot_modSlot_self]
    rfl

theorem State.sendRecord_sends : Sends s (s.sendRecord t p place home) [(.pkg p, .migrant (threadRecord s t (s.slot t).pc (s.slot t).carried) place home)] := by
  cases home
  · exact ⟨[_], rfl, rfl⟩
  · have hsent : (s.isUnreachable (t / 64) p && (Abroad.migrant != Abroad.migrant)) = false := by simp
    unfold State.sendRecord State.sendAbroad
    dsimp only
    rw [if_pos rfl, if_neg (ne_true_of_eq_false hsent)]
    exact ⟨[_], rfl, rfl⟩

end

/-- The slot of a thread whose record has left. -/
def Slot.leftBehind (sl : Slot) : Slot := { sl with phase := .draining, park := .none, departed := true, leaving := none, loops := [] }

/-- The state after the record of slot t's thread has left for its new place. -/
def recordLeft (s : State) (t p place : Nat) (home : Bool) : State :=
  ((s.sendRecord t p place home).inject (t / 64) recordFlits (s.carriers (s.slot t).ctx (t / 64) (.pkg p))).modSlot t Slot.leftBehind

theorem exec_migrationDeparture {s : State} {u t p core slot : Nat} {home : Bool} (hf : s.findThread u = some t)
    (hl : (s.slot t).leaving = some (p, core, slot, home)) (hn : (s.slot t).notices = 0) (hd : (s.slot t).departed = false)
    (hq : s.canInject (t / 64) (s.carriers (s.slot t).ctx (t / 64) (.pkg p)) = true) :
    exec (.migrationDeparture u) s = .next (recordLeft s t p (core * 64 + slot) home) := by
  show Host.Outcome.next (migrationDeparture u s) = _
  simp only [migrationDeparture, hf, hl, hn, hd, hq, ne_eq, not_true_eq_false, Bool.not_true, Bool.false_eq_true, or_self, if_false]
  rfl

section
variable (s : State) (t p place : Nat) (home : Bool)

theorem recordLeft_mem : (recordLeft s t p place home).mem = s.mem := by
  rw [recordLeft, modSlot_mem, inject_frame, sendRecord_mem]

theorem recordLeft_slot : (recordLeft s t p place home).slot t = ((s.sendRecord t p place home).slot t).leftBehind := by
  rw [recordLeft, slot_modSlot_self, inject_frame]
  rfl

theorem recordLeft_sends : Sends s (recordLeft s t p place home) [(.pkg p, .migrant (threadRecord s t (s.slot t).pc (s.slot t).carried) place home)] := by
  obtain ⟨ms, hnet, hms⟩ := sendRecord_sends s t p place home
  refine ⟨ms, ?_, hms⟩
  rw [recordLeft, inject_frame]
  exact hnet

end

/-! ### The thread of a record (R283) -/

/-- A slot holds the thread of a record; home: at its origin core. -/
structure FromRecord (r : Record) (home : Bool) (base : Nat) (sl : Slot) : Prop where
  phase : sl.phase = .ready
  pc : sl.pc = fld (r.words.getD 0 0) 2 19 * 4
  mode : sl.mode = fld (r.words.getD 1 0) 9 2
  ctx : sl.ctx = fld (r.words.getD 1 0) 0 9
  guest : sl.guest = !home
  mig : sl.mig = true
  flags : sl.flags = ofNat (fld (r.words.getD 3 0) 0 14) &&& 0x3F03
  group : sl.group = r.words.getD 2 0
  base : sl.base = base
  limit : sl.limit = 8 * (fld (r.words.getD 3 0) 32 4 + 1)

/-- The registers that a record holds, of those inside a window of n, are set in slot t. -/
def recordRegs (x : State) (t n : Nat) (r : Record) : State :=
  x.putRegs t (fun v => decide (v < n)) (fun v => r.words.getD (8 + v) 0) (fun v => bitAt (r.words.getD 7 0) v) (List.range 16)

/-- A thread is created from a record in a slot of its own, and its registers are set. -/
theorem createFrom_eq (s : State) (t base : Nat) (r : Record) (home : Bool) : ∃ x, x.mem = s.mem ∧ x.net = s.net ∧ FromRecord r home base (x.slot t) ∧
    createFrom s t base r home = recordRegs x t (8 * (fld (r.words.getD 3 0) 32 4 + 1)) r := by
  have hmask : fieldMask 0x008 = 0x3F03 := by decide
  unfold createFrom recordRegs State.putRegs
  simp only [decide_eq_true_eq]
  refine ⟨_, ?mem, ?net, ?slot, rfl⟩
  case mem => rw [modSlot_mem, createAt_mem]
  case net => rw [modSlot_net, createAt_frame]
  case slot =>
    rw [slot_modSlot_self, createAt_slot_self, hmask]
    exact ⟨rfl, rfl, rfl, rfl, rfl, rfl, rfl, rfl, rfl, rfl⟩

/-- From s to u the thread of a record has come into slot t: its registers are the record's, and no message that was under way is lost. -/
structure ArrivedFrom (s : State) (t : Nat) (r : Record) (home : Bool) (u : State) : Prop where
  slot : FromRecord r home (s.slot t).base (u.slot t)
  mem : u.mem = s.mem
  net : ∀ y ∈ s.net, y ∈ u.net
  regs : ∀ v, 0 < v → v < 16 → v < 8 * (fld (r.words.getD 3 0) 32 4 + 1) → RegReads u t v (r.words.getD (8 + v) 0) (bitAt (r.words.getD 7 0) v)

theorem createFrom_arrived (s : State) (t : Nat) (r : Record) (home : Bool) : ArrivedFrom s t r home (createFrom s t (s.slot t).base r home) := by
  obtain ⟨x, hmem, hnet, hslot, heq⟩ := createFrom_eq s t (s.slot t).base r home
  have honly : OnlyRegs x (recordRegs x t (8 * (fld (r.words.getD 3 0) 32 4 + 1)) r) := x.putRegs_onlyRegs t _ _ _ _
  rw [heq]
  constructor
  case slot => rw [slot_of_slots honly.slots]; exact hslot
  case mem => rw [honly, hmem]
  case net => intro y hy; rw [honly, hnet]; exact hy
  case regs =>
    intro v h0 h16 hv
    exact regReads_putRegs t _ _ _ h0 (decide_eq_true hv) _ (fun w hw => by have := List.mem_range.mp hw; omega) (List.mem_range.mpr h16) x

/-- The names that the thread goes on carrying are of no concern to its slot's other fields and its registers. -/
theorem ArrivedFrom.carrying {s u : State} {t : Nat} {r : Record} {home : Bool} (h : ArrivedFrom s t r home u) (l : List Carried) :
    ArrivedFrom s t r home (u.modSlot t fun sl => { sl with carried := l }) := by
  obtain ⟨hphase, hpc, hmode, hctx, hguest, hmig, hflags, hgroup, hbase, hlimit⟩ := h.slot
  constructor
  case slot => rw [slot_modSlot_self]; exact ⟨hphase, hpc, hmode, hctx, hguest, hmig, hflags, hgroup, hbase, hlimit⟩
  case mem => exact h.mem
  case net => exact h.net
  case regs =>
    intro v h0 h16 hv
    exact (regReads_modSlot (f := fun sl => { sl with carried := l }) rfl).mpr (h.regs v h0 h16 hv)

/-- So are notices. -/
theorem ArrivedFrom.sends {s u v : State} {t : Nat} {r : Record} {home : Bool} (h : ArrivedFrom s t r home u) (hs : OnlySends u v)
    (hn : ∀ y ∈ u.net, y ∈ v.net) : ArrivedFrom s t r home v := by
  have hslots : v.slots = u.slots := by rw [hs]
  constructor
  case slot => rw [slot_of_slots hslots]; exact h.slot
  case mem => rw [hs]; exact h.mem
  case net => exact fun y hy => hn y (h.net y hy)
  case regs =>
    intro w h0 h16 hw
    exact (regReads_iff_of_eq hslots (by rw [hs]) (by rw [hs])).mpr (h.regs w h0 h16 hw)

/-- The return notices of a record's names, on the core's own channel, are messages alone. -/
theorem returnNotices_onlySends (c slot : Nat) (l : List Carried) (s : State) :
    let u := l.foldl (fun (x : State) k => x.agentSend (.core c) (.core c) 0 true (.returned k.name slot)) s
    OnlySends s u ∧ ∀ y ∈ s.net, y ∈ u.net := by
  induction l generalizing s with
  | nil => exact ⟨.refl s, fun _ hy => hy⟩
  | cons k r ih =>
    obtain ⟨honly, hnet⟩ := ih (s.agentSend (.core c) (.core c) 0 true (.returned k.name slot))
    exact ⟨(agentSend_onlySends ..).trans honly, fun y hy => hnet y (List.mem_append_left _ hy)⟩

theorem arriveRecord_arrived (c slot : Nat) (r : Record) (home : Bool) (s : State) : ArrivedFrom s (c * 64 + slot) r home (arriveRecord c slot r home s) := by
  unfold arriveRecord
  have hcreated := (createFrom_arrived s (c * 64 + slot) r home).carrying ((recordNames r).filter fun k => !s.isOwnName c k.name)
  obtain ⟨honly, hnet⟩ := returnNotices_onlySends c slot ((recordNames r).filter fun k => s.isOwnName c k.name) _
  exact hcreated.sends honly hnet

/-- What the target has done with a record when its thread is created: it says so to the package of a guest that is home (R285). -/
def recordTaken (s : State) (m : Nat) (x : Msg) (home : Bool) : State := if home then answerAbroad x 0 [] s else s.dropMsg m

theorem recordTaken_slot (s : State) (m : Nat) (x : Msg) (home : Bool) (t : Nat) : (recordTaken s m x home).slot t = s.slot t := by
  unfold recordTaken; split <;> rfl

theorem recordTaken_mem (s : State) (m : Nat) (x : Msg) (home : Bool) : (recordTaken s m x home).mem = s.mem := by
  unfold recordTaken; split <;> rfl

theorem exec_recordArrives {s : State} {m c slot : Nat} {x : Msg} {r : Record} {home : Bool} (hs : slot < 64) (ha : s.arrived m = some x)
    (hb : x.body = .migrant r (c * 64 + slot) home) (hd : x.dst = .core c) (hp : (s.slot (c * 64 + slot)).phase = .reserved) :
    exec (if home then .homeArrive m else .migrationArrive m) s = .next (arriveRecord c slot r home (recordTaken s m x home)) := by
  have hplace : (c * 64 + slot) % 64 = slot := by omega
  cases home
  · show Host.Outcome.next (migrationArrive m s) = _
    simp only [migrationArrive, ha, hb, hd, hplace, hp, if_true]
    rfl
  · show Host.Outcome.next (homeArrive m s) = _
    simp only [homeArrive, ha, hb, hd, hplace, hp, if_true]
    rfl

/-- The answer to another package's request is in the network, under the request's number. -/
theorem answerAbroad_answers (x : Msg) (cause : Nat) (data : List Word) (s : State) :
    ∃ y ∈ (answerAbroad x cause data s).net, y.id = x.id ∧ y.dst = x.src ∧ y.body = .fabricAnswer x.uid cause data :=
  ⟨_, List.mem_append_right _ (List.mem_singleton.mpr rfl), rfl, rfl, rfl⟩

end Sys2Proof.Machine

/-! ## Contexts and clock gating (O59) -/

namespace Sys2Proof.Machine

open State Sys2Proof.Claims

/-! ### A write of an agent keeps the cached translations -/

/-- The cached translations of a core. -/
def State.tlb (s : State) (c : Nat) : List Translation := (s.coreRec c).tlb

theorem State.tlb_write (s : State) (key n v c : Nat) : (s.write key n v).tlb c = s.tlb c := by rw [write_frame]; rfl

theorem State.tlb_modCore (s : State) (e : Nat) {f : CoreRec → CoreRec} (h : ∀ r, (f r).tlb = r.tlb) (c : Nat) : (s.modCore e f).tlb c = s.tlb c := by
  unfold State.tlb
  rcases eq_or_ne c e with rfl | hne
  · rw [coreRec_modCore_self, h]
  · rw [coreRec_modCore_ne _ _ hne]

theorem State.tlb_freeBytes (s : State) (key n c : Nat) : (s.freeBytes key n).tlb c = s.tlb c := by
  unfold State.freeBytes
  exact foldl_keeps (State.tlb · c) _ (fun i _ x => tlb_write ..) s

theorem State.tlb_freeBrick (s : State) (e : Nat) (b : Domain × Nat) (c : Nat) : (s.freeBrick e b).tlb c = s.tlb c := by
  unfold State.freeBrick
  rw [tlb_modCore, tlb_write]
  · rfl
  · exact fun _ => rfl

theorem State.tlb_put (s : State) (key n v c : Nat) : (s.put key n v).tlb c = s.tlb c := by
  unfold State.put State.disturb
  split
  · exact tlb_write ..
  simp only [Bool.false_and, Bool.false_eq_true, if_false]
  rw [foldl_keeps (State.tlb · c) _ (fun e _ x => tlb_freeBrick x _ e c), foldl_keeps (State.tlb · c) _ (fun r _ x => tlb_freeBytes x _ _ c), tlb_write]

/-! ### The context table (R150, R151) -/

/-- From s to t an agent has worked on a table in memory: what the package itself holds is kept, the cached translations too. -/
structure TableStep (s t : State) : Prop where
  frame : t = { s with mem := t.mem, dirty := t.dirty, fresh := t.fresh, cores := t.cores, net := t.net, nextId := t.nextId }
  tlb : ∀ c, t.tlb c = s.tlb c

theorem State.writeCtxState_tableStep (s : State) (i v : Nat) : TableStep s (s.writeCtxState i v) := by
  have hheat : OnlySends s (s.tableHeat (s.ctxEntry i) 8 true) := plainHeat_onlySends ..
  have hcores : (s.tableHeat (s.ctxEntry i) 8 true).cores = s.cores := by rw [hheat]
  have htlb : ∀ c, (s.tableHeat (s.ctxEntry i) 8 true).tlb c = s.tlb c := fun c => by simp only [State.tlb, State.coreRec, hcores]
  unfold State.writeCtxState
  split
  next key _ =>
    have hdata := (s.tableHeat (s.ctxEntry i) 8 true).put_onlyData key 8 (setFld (s.read64 key) 0 2 v).toNat
    refine ⟨?_, fun c => (tlb_put ..).trans (htlb c)⟩
    unfold OnlyData at hdata
    unfold State.put64
    rw [hdata, hheat]
  next =>
    refine ⟨?_, htlb⟩
    rw [hheat]

section
variable {s t : State} (h : TableStep s t)
include h

theorem TableStep.ctx (i : Nat) : t.ctx i = s.ctx i := by rw [State.ctx, h.frame]; rfl
theorem TableStep.barriers : t.barriers = s.barriers := by rw [h.frame]
theorem TableStep.ctxCmdErr : t.ctxCmdErr = s.ctxCmdErr := by rw [h.frame]

end

/-! ### The commands of CTXCMD (R151) -/

/-- A core without the translations tagged with context i. -/
def CoreRec.untag (i : Nat) (r : CoreRec) : CoreRec := { r with tlb := r.tlb.filter fun t => t.ctx != i }

/-- Every core has dropped the translations tagged with context i. -/
def untagged (i : Nat) (l : Store CoreRec) : Store CoreRec := l.map fun c => (c.1, c.2.untag i)

theorem State.tlb_untagged {s x : State} {i : Nat} (h : x.cores = untagged i s.cores) (c : Nat) : ∀ e ∈ x.tlb c, e.ctx ≠ i := by
  intro e he
  rw [State.tlb, State.coreRec, h, untagged, Store.get_map ({} : CoreRec) s.cores (fun c => (c.1, c.2.untag i)) c (fun _ => rfl) rfl] at he
  exact bne_iff_ne.mp (List.mem_filter.mp he).2

/-- What ACTIVATE does before the entry's STATE is written: the context is LIVE with the words of its entry, and no core holds a
translation tagged with it. -/
theorem activate_eq (i : Nat) (s : State) : ∃ (x : State) (k : CtxRec), activate i s = (x.modCtx i fun _ => k).writeCtxState i 1 ∧ k.state = 1 ∧
    k.root = (s.tableWords (s.ctxBase + ofNat (64 * i)) 5).getD 1 0 ∧ k.handler = (s.tableWords (s.ctxBase + ofNat (64 * i)) 5).getD 3 0 ∧
    x.ctxs = s.ctxs ∧ x.ctxCmdErr = s.ctxCmdErr ∧ x.cores = untagged i s.cores := by
  have hheats (a b : Word) (n m : Nat) : OnlySends s ((s.tableHeat a n false).tableHeat b m false) := (plainHeat_onlySends ..).trans (plainHeat_onlySends ..)
  have hctxs (a b : Word) (n m : Nat) : ((s.tableHeat a n false).tableHeat b m false).ctxs = s.ctxs := by rw [hheats a b n m]
  have herr (a b : Word) (n m : Nat) : ((s.tableHeat a n false).tableHeat b m false).ctxCmdErr = s.ctxCmdErr := by rw [hheats a b n m]
  exact ⟨_, _, rfl, rfl, rfl, rfl, hctxs .., herr .., rfl⟩

theorem ctxActivate_refused {s : State} {i : Nat} (hd : s.ctxCmdDone = false) (hc : s.ctxCmd = some (1, i)) (h : i = 0 ∨ (s.ctx i).state ≠ 0) :
    exec .ctxActivate s = .next (commandDone true s) := by
  show Host.Outcome.next (ctxActivate s) = _
  simp only [ctxActivate, hd, hc, if_pos h, Bool.false_eq_true, if_false]

theorem ctxActivate_activates {s : State} {i : Nat} (hd : s.ctxCmdDone = false) (hc : s.ctxCmd = some (1, i)) (h0 : i ≠ 0) (h : (s.ctx i).state = 0) :
    exec .ctxActivate s = .next (commandDone false (activate i s)) := by
  have hok : ¬ (i = 0 ∨ (s.ctx i).state ≠ 0) := by rw [not_or, not_not]; exact ⟨h0, h⟩
  show Host.Outcome.next (ctxActivate s) = _
  simp only [ctxActivate, hd, hc, if_neg hok, Bool.false_eq_true, if_false]

/-- ACTIVATE's effect on the contexts, ERR and the translations. -/
theorem activate_leaves (i : Nat) (s : State) : let t := activate i s
    (t.ctx i).state = 1 ∧ (t.ctx i).root = (s.tableWords (s.ctxBase + ofNat (64 * i)) 5).getD 1 0 ∧
      (t.ctx i).handler = (s.tableWords (s.ctxBase + ofNat (64 * i)) 5).getD 3 0 ∧ t.ctxCmdErr = s.ctxCmdErr ∧ (∀ c, ∀ e ∈ t.tlb c, e.ctx ≠ i) ∧
      ∀ j, j ≠ i → t.ctx j = s.ctx j := by
  obtain ⟨x, k, heq, hstate, hroot, hhandler, hctxs, herr, hcores⟩ := activate_eq i s
  have hstep := (x.modCtx i fun _ => k).writeCtxState_tableStep i 1
  have hself : (activate i s).ctx i = k := by rw [heq, hstep.ctx, ctx_modCtx_self]
  dsimp only
  rw [hself]
  refine ⟨hstate, hroot, hhandler, ?err, ?tlb, ?others⟩
  case err => rw [heq, hstep.ctxCmdErr]; exact herr
  case tlb =>
    intro c
    rw [heq, hstep.tlb c]
    exact tlb_untagged (x := x.modCtx i fun _ => k) hcores c
  case others =>
    intro j hj
    rw [heq, hstep.ctx, ctx_modCtx_ne _ _ hj, State.ctx, hctxs]
    rfl

section
variable {s : State} {i : Nat} (hd : s.ctxCmdDone = false) (hc : s.ctxCmd = some (2, i))
include hd hc

theorem ctxDrain_refused (h : i = 0 ∨ (s.ctx i).state = 0) : exec .ctxDrain s = .next (commandDone true s) := by
  show Host.Outcome.next (ctxDrain s) = _
  simp only [ctxDrain, hd, hc, if_pos h, Bool.false_eq_true, if_false]

theorem ctxDrain_again (h0 : i ≠ 0) (h : (s.ctx i).state = 2) : exec .ctxDrain s = .next (commandDone false s) := by
  show Host.Outcome.next (ctxDrain s) = _
  simp [ctxDrain, hd, hc, h0, h]

theorem ctxDrain_drains (h0 : i ≠ 0) (h : (s.ctx i).state = 1) :
    exec .ctxDrain s = .next (commandDone false ((s.modCtx i fun c => { c with state := 2 }).writeCtxState i 2)) := by
  show Host.Outcome.next (ctxDrain s) = _
  simp [ctxDrain, hd, hc, h0, h]

end

theorem exec_ctxCommandComplete {s : State} (h : s.ctxCmdDone = true) : exec .ctxCommandComplete s = .next { s with ctxCmd := none, ctxCmdDone := false } := by
  show Host.Outcome.next (ctxCommandComplete s) = _
  rw [ctxCommandComplete, if_pos h]

/-! ### A context that goes FREE (R151) -/

/-- The state before the entry's STATE is written: images are discarded, and the context's objects are as at reset. -/
def contextCleared (s : State) (i : Nat) : State :=
  (clearContext i ((s.evicted.filter fun e => (imageSlot s e.key e.rest).ctx == i).foldl (fun (x : State) e => x.dropImage e) s)).modCtx i fun _ => {}

theorem exec_contextFree {s : State} {i : Nat} (h : (s.ctx i).state = 2) (hi : ctxIdle s i = true) :
    exec (.contextFree i) s = .next ((contextCleared s i).writeCtxState i 0) := by
  show Host.Outcome.next (contextFree i s) = _
  rw [contextFree, if_pos ⟨h, hi⟩]
  rfl

theorem contextCleared_barriers (s : State) (i : Nat) : ∀ b ∈ (contextCleared s i).barriers, b.2.tag ≠ i := by
  intro b hb
  exact bne_iff_ne.mp (List.mem_filter.mp hb).2

/-! ### Clock gating (R17) -/

theorem exec_clockGate_idle {s : State} {c : Nat} (h : s.coreIdle c = true) (hc : c < 1280) :
    exec (.clockGate c) s = .next (s.modCore c fun r => { r with gated := true }) := by
  have hcores : c < Config.cores := hc
  show Host.Outcome.next (clockGate c s) = _
  rw [clockGate, h, decide_eq_true hcores, Bool.and_self, if_pos rfl]

theorem exec_clockGate_busy {s : State} {c : Nat} (h : s.coreIdle c = false) : exec (.clockGate c) s = .next s := by
  show Host.Outcome.next (clockGate c s) = _
  rw [clockGate, h, Bool.false_and, if_neg Bool.false_ne_true]

end Sys2Proof.Machine

/-! ## Threads migrate, and contexts turn (O59) -/

namespace Sys2Proof.Machine

open State Sys2Proof.Claims

/-- Settles O59: each instruction and event is its equation; a slot is reserved over a state in which only messages were sent, an arriving
thread's slot and registers are its record's, and a context's STATE is written into the table by steps that keep what the package holds. -/
theorem threadsMigrateAndContextsTurn : Obligations.ThreadsMigrateAndContextsTurn := by
  unfold Obligations.ThreadsMigrateAndContextsTurn
  refine ⟨?home, ?migrateAsk, fun r addr s => migrationHome_notLive, ?place, ?homeAsk, ?refused, ?departure, ?arrival, ?command,
    fun s e => rfl, fun s => exec_ctxCommandComplete, ?free, fun s c => ⟨exec_clockGate_idle, exec_clockGate_busy, rfl⟩⟩
  case home =>
    intro s
    refine ⟨exec_home_idle, exec_home_busy, ?_⟩
    intro hg hc hld hst htl hcp hu hq
    obtain ⟨s1, h1⟩ := requestAbroad_ok s.me.originPkg (.home true 0) (.homeAsk s.me.originCore) hq
    obtain ⟨msg, hnet, -, hbody, hdst, -⟩ := requestAbroad_message h1 hu
    obtain ⟨hmem, -⟩ := requestAbroad_frame h1
    obtain ⟨w, hme⟩ := waitFor_me s1 s.nextId (.pkg s.me.originPkg) 0 false false []
    refine ⟨_, exec_home_asks hg hc (by omega) h1, congrArg Slot.phase hme, hmem, [msg], hnet, ?_⟩
    rw [List.map_singleton, hdst, hbody]
  case migrateAsk =>
    intro s m x addr p hp hs hb
    have hheat := migrationHeat_onlySends { ctx := x.ctx, sup := x.sup } addr s
    refine ⟨exec_migrateAsk_refused hp hs hb, fun c hc => ⟨fun n base hn hw => ?_, fun hfull => ?_⟩⟩
    · rw [exec_migrateAsk_taken hp hs hb hc, reserveFor_found hheat hn hw]
      rfl
    · rw [exec_migrateAsk_taken hp hs hb hc, reserveFor_full hheat hfull]
      rfl
  case place =>
    intro r addr s h
    exact ⟨fun k => migrationHome_unresolved h, fun c o => migrationHome_spad h, fun va a b => migrationHome_unmapped h, fun va e a b => migrationHome_leaf h⟩
  case homeAsk =>
    intro s m x c p hp hs hb
    refine ⟨fun n base hn hw => ?_, fun hfull => ?_⟩
    · rw [exec_homeAsk hp hs hb, reserveFor_found (.refl s) hn hw]
      rfl
    · rw [exec_homeAsk hp hs hb, reserveFor_full (.refl s) hfull]
      rfl
  case refused =>
    rintro s m x outcome core slot addr home c hf hr hd hb hw rfl
    exact exec_migrateAnswer_refused hf hr hd hb hw
  case departure =>
    intro s u t p core slot home hf hl hn hd hq
    have hslot := recordLeft_slot s t p (core * 64 + slot) home
    refine ⟨_, exec_migrationDeparture hf hl hn hd hq, congrArg Slot.phase hslot, congrArg Slot.departed hslot, recordLeft_mem .., ?_, recordLeft_sends ..⟩
    rw [hslot]
    exact (sendRecord_notices s t p (core * 64 + slot) home).trans (by rw [hn])
  case arrival =>
    intro s m x r slot home c hs ha hb hd hp
    obtain ⟨⟨hphase, hpc, hmode, hctx, hguest, hmig, hflags, hgroup, hbase, hlimit⟩, hmem, hnet, hregs⟩ :=
      arriveRecord_arrived c slot r home (recordTaken s m x home)
    rw [recordTaken_slot] at hbase
    rw [recordTaken_mem] at hmem
    refine ⟨_, exec_recordArrives hs ha hb hd hp, hmem, hphase, hpc, hmode, hctx, hguest, hmig, hflags, hgroup, hbase, hlimit, ?_, hregs⟩
    rintro rfl
    obtain ⟨y, hy, hfields⟩ := answerAbroad_answers x 0 [] s
    exact ⟨y, hnet y hy, hfields⟩
  case command =>
    intro s i hd
    refine ⟨fun hc => ⟨ctxActivate_refused hd hc, fun h0 hst => ?activate⟩, fun hc => ⟨ctxDrain_refused hd hc, ctxDrain_again hd hc, fun h0 hst => ?drain⟩⟩
    case activate =>
      obtain ⟨hstate, hroot, hhandler, herr, htlb, hothers⟩ := activate_leaves i s
      exact ⟨_, ctxActivate_activates hd hc h0 hst, hstate, hroot, hhandler, rfl, (Bool.or_false _).trans herr, htlb, hothers⟩
    case drain =>
      have hstep := (s.modCtx i fun c => { c with state := 2 }).writeCtxState_tableStep i 2
      refine ⟨_, ctxDrain_drains hd hc h0 hst, ?_, rfl, (Bool.or_false _).trans hstep.ctxCmdErr, fun j hj => ?_⟩
      · exact congrArg CtxRec.state ((hstep.ctx i).trans (ctx_modCtx_self ..))
      · exact (hstep.ctx j).trans (ctx_modCtx_ne _ _ hj)
  case free =>
    intro s i h hi
    have hstep := (contextCleared s i).writeCtxState_tableStep i 0
    refine ⟨_, exec_contextFree h hi, ?_, ?_⟩
    · exact congrArg CtxRec.state ((hstep.ctx i).trans (ctx_modCtx_self ..))
    · rw [hstep.barriers]
      exact contextCleared_barriers s i

end Sys2Proof.Machine

/-! ## Landing names are minted and revoked (O29) -/

namespace Sys2Proof.Machine

open State Sys2Proof.Claims

/-! ### The table and its names (R168 to R170) -/

/-- The fields of a name, the fixed bits among them, from bit 0 up (R168). -/
def nameFields (s : State) (c i : Nat) : List (Nat × Nat × Nat) :=
  [(i, 0, 9), ((s.name c i).salt, 9, 7), (0, 16, 16), (coreX c, 32, 8), (coreY c, 40, 8), (s.pkgNum, 48, 6), (0x304, 54, 10)]

theorem State.nameOf_eq_pack (s : State) (c i : Nat) : s.nameOf c i = pack (nameFields s c i) := by
  rw [State.nameOf, pack_eq_ofNat, pack_eq_ofNat]
  simp only [nameFields, packNat]
  congr 1
  omega

/-- A field of a name reads as what it was formed from. -/
theorem State.nameOf_field {s : State} {c i v lo w : Nat} (hm : (v, lo, w) ∈ nameFields s c i) : fld (s.nameOf c i) lo w = v % 2 ^ w := by
  rw [nameOf_eq_pack]
  exact fld_pack (by simp [nameFields, Ascending]) hm

/-- The word an entry gives is a name. -/
theorem State.nameOf_isName (s : State) (c i : Nat) : isName (s.nameOf c i) = true := by
  have hfixed : fld (s.nameOf c i) 54 10 = 0x304 := nameOf_field (v := 0x304) (by simp [nameFields])
  have hzero : fld (s.nameOf c i) 16 16 = 0 := nameOf_field (v := 0) (by simp [nameFields])
  rw [isName, hfixed, hzero]
  rfl

theorem State.nameOf_index (s : State) (c : Nat) {i : Nat} (hi : i < 512) : fld (s.nameOf c i) 0 9 = i :=
  (nameOf_field (v := i) (by simp [nameFields])).trans (Nat.mod_eq_of_lt hi)

/-- Where the search for a FREE entry looks at its step j: after the pointer, wrapping (R170). -/
def searchAt (s : State) (c j : Nat) : Nat := ((s.coreRec c).namePtr + 1 + j) % 512

theorem State.freeEntry_some_iff (s : State) (c i : Nat) : s.freeEntry c = some i ↔
    ∃ j, j < 512 ∧ i = searchAt s c j ∧ (s.name c i).state = .free ∧ ∀ k, k < j → (s.name c (searchAt s c k)).state ≠ .free := by
  have hfind : s.freeEntry c = ((List.range 512).find? fun j => (s.name c (searchAt s c j)).state == .free).map (searchAt s c) := List.find?_map
  rw [hfind, Option.map_eq_some_iff]
  simp only [List.find?_range_eq_some, List.mem_range, beq_iff_eq, Bool.not_eq_true', beq_eq_false_iff_ne]
  constructor
  · rintro ⟨j, ⟨hfree, hj, hbefore⟩, rfl⟩
    exact ⟨j, hj, rfl, hfree, hbefore⟩
  · rintro ⟨j, hj, rfl, hfree, hbefore⟩
    exact ⟨j, ⟨hfree, hj, hbefore⟩, rfl⟩

/-- The search reaches every entry. -/
theorem searchAt_reaches (s : State) (c : Nat) {i : Nat} (hi : i < 512) : ∃ j, j < 512 ∧ searchAt s c j = i := by
  refine ⟨(i + 512 - ((s.coreRec c).namePtr + 1) % 512) % 512, Nat.mod_lt _ (by omega), ?_⟩
  unfold searchAt
  omega

theorem State.freeEntry_none_iff (s : State) (c : Nat) : s.freeEntry c = none ↔ ∀ i, i < 512 → (s.name c i).state ≠ .free := by
  have hfind : s.freeEntry c = ((List.range 512).map (searchAt s c)).find? fun i => (s.name c i).state == .free := rfl
  rw [hfind, List.find?_eq_none]
  simp only [List.forall_mem_map, List.mem_range, beq_iff_eq]
  constructor
  · intro h i hi
    obtain ⟨j, hj, rfl⟩ := searchAt_reaches s c hi
    exact h j hj
  · exact fun h j _ => h _ (Nat.mod_lt _ (by omega))

/-! ### A minted entry (R171) -/

/-- Entry i of the own table, LIVE for register b of the issuing slot; its salt is kept. -/
def boundEntry (s : State) (i b : Nat) : NameEntry := { state := .live s.num b, salt := (s.name s.here i).salt, ctx := s.me.ctx }

/-- s with entry i bound to register b and the pointer on it; the register is not yet emptied. -/
def entryBound (s : State) (i b : Nat) : State := (s.setName s.here i (boundEntry s i b)).modCore s.here fun r => { r with namePtr := i }

/-- Minting binds the entry, and changes the full bits beside. -/
theorem State.mint_frame (s : State) (i b : Nat) : s.mint i b = { entryBound s i b with regFull := (s.mint i b).regFull } :=
  setRegFull_frame (entryBound s i b) s.cur b false

theorem State.mint_name (s : State) (i b : Nat) : (s.mint i b).name s.here i = boundEntry s i b := by
  have hnames : (s.mint i b).names = (s.setName s.here i (boundEntry s i b)).names := by
    rw [mint_frame]
    rfl
  rw [State.name, hnames]
  exact name_setName_self s s.here i _

theorem State.mint_namePtr (s : State) (i b : Nat) : ((s.mint i b).coreRec s.here).namePtr = i := by
  have hcores : (s.mint i b).cores = (entryBound s i b).cores := by rw [mint_frame]
  have hbound : ((entryBound s i b).coreRec s.here).namePtr = i := by rw [entryBound, coreRec_modCore_self]
  rw [State.coreRec, hcores]
  exact hbound

theorem State.regIsFull_setRegFull (s : State) (t : Nat) {v : Nat} (hv : v ≠ 0) (f : Bool) : (s.setRegFull t v f).regIsFull t v = f := by
  have h0 : (v == 0) = false := beq_eq_false_iff_ne.mpr hv
  rw [State.setRegFull, if_neg hv, State.regIsFull, h0, Bool.false_or]
  exact Store.get_set_self _ _ _ _

/-- Minting empties the register (R171). -/
theorem State.mint_regIsFull (s : State) (i : Nat) {b : Nat} (hb : b ≠ 0) : (s.mint i b).regIsFull s.cur b = false :=
  regIsFull_setRegFull (entryBound s i b) s.cur hb false

theorem State.mint_mem (s : State) (i b : Nat) : (s.mint i b).mem = s.mem := by rw [mint_frame]; rfl

theorem State.mint_regs (s : State) (i b : Nat) : (s.mint i b).regs = s.regs := by rw [mint_frame]; rfl

/-! ### MINT and MINT.LD (R171, R172) -/

/-- One register for the name and the binding, other than g0, is the first check (R171). -/
theorem mintAlike_self {d : RegCode} (hd : d ≠ 0) : mintAlike d d = true := by
  rw [mintAlike, beq_self_eq_true, Bool.true_and]
  exact bne_iff_ne.mpr hd

theorem mintAlike_false {d b : RegCode} (h : d ≠ b ∨ d = 0) : mintAlike d b = false := by
  rcases h with h | h <;> simp [mintAlike, h]

theorem exec_mint_alike {d : RegCode} (hd : d ≠ 0) (s : State) : exec (.mint d d) s = .next (s.takeTrap s.cur 0x01 (Instr.mint d d).word) := by
  show s.finish (mintBody _ d d s) = _
  rw [mintBody, if_pos (mintAlike_self hd), finish_error, stop_trap]

theorem exec_mintLd_alike {d : RegCode} (a : RegCode) (hd : d ≠ 0) (s : State) :
    exec (.mintLd d a d) s = .next (s.takeTrap s.cur 0x01 (Instr.mintLd d a d).word) := by
  show s.finish (mintLd _ d a d s) = _
  rw [mintLd, if_pos (mintAlike_self hd), finish_error, stop_trap]

section

variable {d b : RegCode} {s : State} (halike : d ≠ b ∨ d = 0) (hcodes : s.checkCodes [b.toNat, d.toNat] = .ok ())
  (hqueues : s.checkQueues (Instr.mint d b).word [] [d.toNat] = .ok ()) (hchecks : s.mintChecks (Instr.mint d b).word d.toNat b.toNat = .ok ())

include halike hcodes hqueues hchecks

theorem exec_mint_bound {i : Nat} (hfree : s.freeEntry s.here = some i) :
    exec (.mint d b) s = .next ((s.mint i b.toNat).complete [] d.toNat (s.nameOf s.here i)) := by
  show s.finish (mintBody _ d b s) = _
  simp only [mintBody, mintAlike_false halike, Bool.false_eq_true, if_false, hcodes, hqueues, hchecks, hfree, finish_ok]

theorem exec_mint_full (hfull : s.freeEntry s.here = none) : exec (.mint d b) s = .next (s.complete [] d.toNat 0) := by
  show s.finish (mintBody _ d b s) = _
  simp only [mintBody, mintAlike_false halike, Bool.false_eq_true, if_false, hcodes, hqueues, hchecks, hfull, finish_ok]

end

/-- A line request that is sent binds the entry and counts in LD (R172 step 6). -/
theorem lineFrom_sends {s s1 : State} {srcs : List Nat} {d b tb i : Nat} {req : Word → Except Stop State} (hld : s.me.ld < 63)
    (hfree : s.freeEntry s.here = some i) (hreq : req (s.nameOf s.here i) = .ok s1) : lineFrom s srcs d b tb req =
      .ok ((((s1.mint i b).touch tb).modMe fun sl => { sl with ld := sl.ld + 1 }).complete srcs d (s.nameOf s.here i)) := by
  simp only [lineFrom, Nat.not_le.mpr hld, if_false, hfree, hreq]

section

variable {d a b : RegCode} {s : State} {vs : List Word} {c o off i : Nat} (halike : d ≠ b ∨ d = 0)
  (ho : s.runOperands (Instr.mintLd d a b).word [a.toNat, a.toNat + 1] [a.toNat, a.toNat + 1] [b.toNat, d.toNat] = .ok vs)
  (hchecks : s.mintChecks (Instr.mintLd d a b).word d.toNat b.toNat = .ok ()) (hsrc : s.resolve s.here s.rights (arg vs 0) 128 = .ok (.spad c o))
  (hc : c < 1280) (hoff : o < 0x180000) (hdst : lineDest s.here (arg vs 1) = .ok off) (hfree : s.freeEntry s.here = some i)

include halike ho hchecks hsrc hc hoff hdst hfree

/-- A line of the own scratchpad is copied and its name delivered in the instruction's turn (R172 step 5). -/
theorem exec_mintLd_own (hown : c = s.here) : exec (.mintLd d a b) s = .next (((((s.mint i b.toNat).writeWords (spadKey s.here off)
    (s.readWords (spadKey s.here o) 16)).disturb true (spadKey s.here off) 128).deliver s.here (s.nameOf s.here i) 128 s.me.rights).2.complete
      [a.toNat, a.toNat + 1] d.toNat (s.nameOf s.here i)) := by
  subst hown
  have hnode : keyNode (spadKey s.here o) = .core s.here := keyNode_spadKey hc (by omega)
  show s.finish (mintLd _ d a b s) = _
  simp only [mintLd, mintAlike_false halike, Bool.false_eq_true, if_false, ho, hchecks, hsrc, State.lineSource, hdst, hnode, if_true, hfree, finish_ok]
  rfl

/-- A line of another core is requested of it. -/
theorem exec_mintLd_away {s1 : State} (haway : c ≠ s.here) (hld : s.me.ld < 63)
    (hreq : s.request (.core c) (.line (spadKey c o) (spadKey s.here off) (s.nameOf s.here i)) = .ok s1) : exec (.mintLd d a b) s =
      .next ((((s1.mint i b.toNat).touch (clusterOf c)).modMe fun sl => { sl with ld := sl.ld + 1 }).complete
        [a.toNat, a.toNat + 1] d.toNat (s.nameOf s.here i)) := by
  have hnode : keyNode (spadKey c o) = .core c := keyNode_spadKey hc (by omega)
  have hline := lineFrom_sends (srcs := [a.toNat, a.toNat + 1]) (d := d.toNat) (b := b.toNat) (tb := clusterOf c)
    (req := fun nm => s.request (.core c) (.line (spadKey c o) (spadKey s.here off) nm)) hld hfree hreq
  have hne : ¬ Node.core c = .core s.here := fun h => haway (Node.core.inj h)
  show s.finish (mintLd _ d a b s) = _
  simp only [mintLd, mintAlike_false halike, Bool.false_eq_true, if_false, ho, hchecks, hsrc, State.lineSource, hdst, hnode, hne,
    touchBit_spadKey hc hoff, hline, finish_ok]

end

/-! ### REVOKE at the own table (R177) -/

/-- A name of another salt is stale. -/
theorem State.revokeAt_stale {s : State} {c n : Nat} {sup : Bool} {nm : Word} (h : (s.name c (fld nm 0 9)).salt ≠ fld nm 9 7) :
    s.revokeAt c n sup nm = (1, s) := if_pos h

/-- A LIVE name is its own slot's, or a supervisor's, to revoke. -/
theorem State.revokeAt_live {s : State} {c n m v : Nat} {sup : Bool} {nm : Word} (hs : (s.name c (fld nm 0 9)).salt = fld nm 9 7)
    (hl : (s.name c (fld nm 0 9)).state = .live m v) : s.revokeAt c n sup nm =
      if m = n ∨ sup = true then (0, (s.fillReg (c * 64 + m) v).freeName c (fld nm 0 9)) else (2, s) := by
  unfold State.revokeAt
  rw [if_neg (not_not.mpr hs)]
  simp only [hl]

/-- The issuing slot, by its core and its number. -/
theorem State.here_num (s : State) : s.here * 64 + s.num = s.cur := Nat.div_add_mod' _ _

section

variable {d a : RegCode} {s : State} {nm : Word} (ho : s.operands (Instr.revoke d a).word [a.toNat] [d.toNat] = .ok [nm]) (hn : isName nm = true)
  (hown : s.isOwnName s.here nm = true) (hd : s.destReady d.toNat = .ok ())

include ho hn hown hd

/-- REVOKE of an own name writes what the table answers. -/
theorem exec_revoke_own : exec (.revoke d a) s = .next ((s.revokeAt s.here s.num (s.me.mode != 0) nm).2.complete [a.toNat] d.toNat
    (ofNat (s.revokeAt s.here s.num (s.me.mode != 0) nm).1)) := by
  have hfirst : arg [nm] 0 = nm := rfl
  show s.finish (revoke _ d a s) = _
  simp only [revoke, ho, hfirst, hn, hown, hd, Bool.not_true, Bool.false_eq_true, if_false, if_true, finish_ok]

theorem exec_revoke_live {v : Nat} (hs : (s.name s.here (fld nm 0 9)).salt = fld nm 9 7) (hl : (s.name s.here (fld nm 0 9)).state = .live s.num v) :
    exec (.revoke d a) s = .next (((s.fillReg s.cur v).freeName s.here (fld nm 0 9)).complete [a.toNat] d.toNat 0) := by
  rw [exec_revoke_own ho hn hown hd, revokeAt_live hs hl, if_pos (.inl rfl), here_num]
  rfl

theorem exec_revoke_stale (hs : (s.name s.here (fld nm 0 9)).salt ≠ fld nm 9 7) : exec (.revoke d a) s = .next (s.complete [a.toNat] d.toNat 1) := by
  rw [exec_revoke_own ho hn hown hd, revokeAt_stale hs]
  rfl

theorem exec_revoke_other {n v : Nat} (hs : (s.name s.here (fld nm 0 9)).salt = fld nm 9 7) (hl : (s.name s.here (fld nm 0 9)).state = .live n v)
    (hne : n ≠ s.num) (hmode : s.me.mode = 0) : exec (.revoke d a) s = .next (s.complete [a.toNat] d.toNat 2) := by
  rw [exec_revoke_own ho hn hown hd, revokeAt_live hs hl, if_neg (by simp [hne, hmode])]
  rfl

end

/-! ### NSTAT (R178) -/

/-- How many entries of core c's table satisfy p. -/
def entryCount (s : State) (c : Nat) (p : NameEntry → Bool) : Nat := (List.range 512).countP fun i => p (s.name c i)

theorem entryCount_le (s : State) (c : Nat) (p : NameEntry → Bool) : entryCount s c p ≤ 512 := List.countP_le_length.trans_eq List.length_range

theorem countIf_entries (s : State) (c : Nat) (p : NameEntry → Bool) : countIf p ((List.range 512).map (s.name c)) = entryCount s c p := by
  rw [countIf, ← List.countP_eq_length_filter, List.countP_map]
  rfl

/-- The entry is LIVE for slot n. -/
def liveFor (n : Nat) (e : NameEntry) : Bool := match e.state with | .live m _ => m == n | _ => false

/-- The fields of NSTAT, the zero ones among them, from bit 0 up. -/
def nstatFields (s : State) : List (Nat × Nat × Nat) :=
  [(entryCount s s.here fun e => e.state != .free, 0, 10), (0, 10, 6), (entryCount s s.here (liveFor s.num), 16, 10), (0, 26, 6),
    ((s.coreRec s.here).nameRef, 32, 16), (0, 48, 16)]

theorem State.nstat_eq_pack (s : State) : s.nstat = pack (nstatFields s) := by
  have hcount : s.nstat = pack [(countIf (fun e : NameEntry => e.state != .free) ((List.range 512).map (s.name s.here)), 0, 10),
    (countIf (liveFor s.num) ((List.range 512).map (s.name s.here)), 16, 10), ((s.coreRec s.here).nameRef, 32, 16)] := rfl
  rw [hcount, countIf_entries, countIf_entries, pack_eq_ofNat, pack_eq_ofNat]
  simp only [nstatFields, packNat, Nat.zero_mod, Nat.zero_mul, Nat.zero_add]

/-- A field of NSTAT reads as the figure it was formed from. -/
theorem State.nstat_field {s : State} {v lo w : Nat} (hm : (v, lo, w) ∈ nstatFields s) : fld s.nstat lo w = v % 2 ^ w := by
  rw [nstat_eq_pack]
  exact fld_pack (by simp [nstatFields, Ascending]) hm

/-- Ten bits hold a count of entries whole. -/
theorem State.nstat_count {s : State} {p : NameEntry → Bool} {lo : Nat} (hm : (entryCount s s.here p, lo, 10) ∈ nstatFields s) :
    fld s.nstat lo 10 = entryCount s s.here p := by
  have hle := entryCount_le s s.here p
  rw [nstat_field hm, Nat.mod_eq_of_lt (by omega)]

/-- Settles O29: MINT, MINT.LD and REVOKE by their checks and the own table, the search for a FREE entry, what a minted entry holds, and the
fields of NSTAT. -/
theorem namesAreMintedAndRevoked : Obligations.NamesAreMintedAndRevoked := by
  unfold Obligations.NamesAreMintedAndRevoked
  refine ⟨fun d a s hd => ⟨exec_mint_alike hd s, exec_mintLd_alike a hd s⟩,
    fun d b s halike hcodes hqueues hchecks => ⟨fun i => exec_mint_bound halike hcodes hqueues hchecks, exec_mint_full halike hcodes hqueues hchecks⟩,
    fun s i b _ hi => ?minted,
    fun d a b s vs c o off i halike ho hchecks hsrc hc hoff hdst hfree => ⟨exec_mintLd_own halike ho hchecks hsrc hc hoff hdst hfree,
      fun s1 => exec_mintLd_away halike ho hchecks hsrc hc hoff hdst hfree⟩,
    fun d a s nm ho hn hown hd => ⟨fun v => exec_revoke_live ho hn hown hd, exec_revoke_stale ho hn hown hd, fun n v => exec_revoke_other ho hn hown hd⟩,
    fun s c => ⟨s.freeEntry_some_iff c, s.freeEntry_none_iff c⟩,
    fun d s => resultAt_of_compute rfl fun _ => rfl, fun s => ?counts⟩
  case minted =>
    have hname := s.mint_name i b
    have hsalt : ((s.mint i b).name s.here i).salt = (s.name s.here i).salt := by rw [hname, boundEntry]
    exact ⟨congrArg NameEntry.state hname, hsalt, congrArg NameEntry.ctx hname, s.mint_namePtr i b, s.mint_regIsFull i, s.mint_mem i b,
      s.mint_regs i b, s.nameOf_isName s.here i, s.nameOf_index s.here hi⟩
  case counts =>
    have hinUse : fld s.nstat 0 10 = entryCount s s.here fun e => e.state != .free := nstat_count (by simp [nstatFields])
    have hlive : fld s.nstat 16 10 = entryCount s s.here (liveFor s.num) := nstat_count (by simp [nstatFields])
    exact ⟨hinUse, nstat_field (v := 0) (by simp [nstatFields]), hlive, nstat_field (v := 0) (by simp [nstatFields]), nstat_field (by simp [nstatFields]),
      nstat_field (v := 0) (by simp [nstatFields])⟩

end Sys2Proof.Machine

/-! ## The messages of names (O31) -/

namespace Sys2Proof.Machine

open State Sys2Proof.Claims

section

variable {s : State} {m c : Nat} {x : Msg} {nm : Word}

/-! ### Deliveries and lines (R172, R173, R175) -/

theorem exec_delivery {v : Word} {o : Origin} (ha : s.arrived m = some x) (hb : x.body = .deliver nm v o) (hd : x.dst = .core c) :
    exec (.delivery m) s = .next ((s.deliver c nm v { ctx := x.ctx, sup := x.sup }).2.respond x
      (.delivered (s.deliver c nm v { ctx := x.ctx, sup := x.sup }).1 nm o)) := by
  show Host.Outcome.next (delivery m s) = _
  simp only [delivery, ha, hb, hd]

/-- The answer to a DELIV counts in ST; a cause is a boundary trap. -/
theorem exec_deliveryAnswer {cause : Nat} (hr : s.response m = some x) (hb : x.body = .delivered cause nm .deliv) :
    exec (.deliveryAnswer m) s = .next (if cause = 0 then (s.dropMsg m).modThreadCounters x.uid (fun sl => { sl with st := sl.st - 1 })
      else ((s.dropMsg m).modThreadCounters x.uid fun sl => { sl with st := sl.st - 1 }).pendThread x.uid cause nm) := by
  show Host.Outcome.next (deliveryAnswer m s) = _
  simp only [deliveryAnswer, hr, hb, deliveryDone, bne_iff_ne, ite_not]

/-- A line that came without a cause is written before its name is delivered. -/
theorem exec_lineReply_arrives {dst : Nat} {data : List Word} (hr : s.response m = some x) (hb : x.body = .lineData dst data nm 0) (hd : x.dst = .core c) :
    exec (.lineReply m) s = .next (((((s.dropMsg m).writeWords dst data).disturb true dst 128).deliver c nm 128
      (((s.thread x.uid).map Slot.rights).getD { ctx := x.ctx, sup := x.sup })).2.modThreadCounters x.uid fun sl => { sl with ld := sl.ld - 1 }) := by
  show Host.Outcome.next (lineReply m s) = _
  simp only [lineReply, hr, hb, hd, if_true]

/-! ### Forwarded values (R181) -/

section

variable {place reg : Nat} {v : Word} (ha : s.arrived m = some x) (hb : x.body = .forward place reg v nm) (hd : x.dst = .core c)

include ha hb hd

theorem exec_forwardedValue_writes (h : s.carrierOf c (place % 64) nm ≠ 0 ∨ (s.slot (c * 64 + place % 64)).phase ≠ .reserved) :
    exec (.forwardedValue m) s = .next ((((s.writeThreadReg (s.carrierOf c (place % 64) nm) reg v).dropName
      (s.carrierOf c (place % 64) nm) nm).dropMsg m).sendAs { x with src := x.dst, dst := x.src, resp := true, body := .forwardAck nm }) := by
  show Host.Outcome.next (forwardedValue m s) = _
  simp only [forwardedValue, ha, hb, hd]
  rw [if_neg (not_and_or.mpr h)]

/-- With no carrier yet, and its place only reserved, a value waits. -/
theorem exec_forwardedValue_waits (hu : s.carrierOf c (place % 64) nm = 0) (hp : (s.slot (c * 64 + place % 64)).phase = .reserved) :
    exec (.forwardedValue m) s = .next s := by
  show Host.Outcome.next (forwardedValue m s) = _
  simp only [forwardedValue, ha, hb, hd]
  rw [if_pos ⟨hu, hp⟩]

end

theorem exec_forwardedValue_acknowledged (ha : s.arrived m = some x) (hb : x.body = .forwardAck nm) (hd : x.dst = .core c) :
    exec (.forwardedValue m) s = .next ((s.dropMsg m).modCore c fun r => { r with forwards := r.forwards.erase nm }) := by
  show Host.Outcome.next (forwardedValue m s) = _
  simp only [forwardedValue, ha, hb, hd]

/-! ### Revokes and notices at a FORWARD entry (R177, R181) -/

section

variable {p0 c0 n0 v : Nat} (ha : s.arrived m = some x) (hd : x.dst = .core c) (hs : (s.name c (fld nm 0 9)).salt = fld nm 9 7)
  (hf : (s.name c (fld nm 0 9)).state = .forward p0 c0 n0 v)

include ha hd hs hf

theorem exec_revokeRequest_forward {reg : Nat} (hq : x.resp = false) (hcr : x.credit = none) (hb : x.body = .revoke nm reg) :
    exec (.revokeRequest m) s = .next ((s.freeName c (fld nm 0 9)).respond x (.revoked nm reg 0)) := by
  show Host.Outcome.next (revokeRequest m s) = _
  simp only [revokeRequest, findMsg_of_arrived ha, performable_ready ha hq (.inr hcr), hb, hd, hs, hf, beq_self_eq_true, Bool.and_self, if_true]

theorem exec_retargetNotice_forward {p core slot : Nat} (hb : x.body = .retarget nm p core slot) (hout : nm ∉ (s.coreRec c).forwards) :
    exec (.retargetNotice m) s = .next (answerNotice x nm (s.setName c (fld nm 0 9)
      { s.name c (fld nm 0 9) with state := .forward p core slot v })) := by
  have hnone : (s.coreRec c).forwards.contains nm = false := by simpa using hout
  show Host.Outcome.next (retargetNotice m s) = _
  simp only [retargetNotice, ha, hb, hd, hnone, Bool.false_eq_true, hf, hs, if_true, if_false]

theorem exec_returnNotice_forward {slot : Nat} (hb : x.body = .returned nm slot) : exec (.returnNotice m) s =
    .next ((s.setName c (fld nm 0 9) { s.name c (fld nm 0 9) with state := .live slot v }).dropMsg m) := by
  show Host.Outcome.next (returnNotice m s) = _
  simp only [returnNotice, ha, hb, hd, hf, hs, if_true]

theorem exec_destroyNotice_forward (hb : x.body = .destroy nm) :
    exec (.destroyNotice m) s = .next (answerNotice x nm (s.freeName c (fld nm 0 9))) := by
  show Host.Outcome.next (destroyNotice m s) = _
  simp only [destroyNotice, ha, hb, hd, hf, hs, if_true]

end

end

/-- Settles O31: each message by its body, and those of a FORWARD entry by what they make of it. -/
theorem nameMessagesTakeEffect : Obligations.NameMessagesTakeEffect := by
  unfold Obligations.NameMessagesTakeEffect
  refine ⟨fun s m x nm v o c => exec_delivery, fun s m x nm cause => exec_deliveryAnswer, fun s m x dst data nm c => exec_lineReply_arrives,
    fun s m x nm reg c p q r v ha hq hcr hb hd hs hf => exec_revokeRequest_forward ha hd hs hf hq hcr hb,
    fun s m x nm p core slot c p0 c0 n0 v ha hb hd hout hs hf => exec_retargetNotice_forward ha hd hs hf hb hout,
    fun s m x nm slot c p0 c0 n0 v ha hb hd hs hf => exec_returnNotice_forward ha hd hs hf hb,
    fun s m x nm c p0 c0 n0 v ha hb hd hs hf => exec_destroyNotice_forward ha hd hs hf hb,
    fun s m x place reg v nm c u ha hb hd hu => ?forwarded, fun s uid nm => rfl, fun s m x nm c => exec_forwardedValue_acknowledged⟩
  case forwarded =>
    subst hu
    exact ⟨exec_forwardedValue_writes ha hb hd, exec_forwardedValue_waits ha hb hd⟩

end Sys2Proof.Machine

/-! ## Reorder rings (O34) -/

namespace Sys2Proof.Machine

open State

/-! ### The header (R193) -/

/-- What makes a header malformed: a reserved bit, or LOG outside 1 to 12. -/
theorem Ring.bad_iff (w0 w1 : Word) :
    Ring.bad w0 w1 = true ↔ fld w0 36 28 ≠ 0 ∨ fld w1 32 32 ≠ 0 ∨ fld w0 32 4 = 0 ∨ 12 < fld w0 32 4 := by
  simp only [Ring.bad, Bool.or_eq_true, bne_iff_ne, decide_eq_true_eq, Nat.lt_one_iff, or_assoc]

/-! ### Tickets and fills at the ring (R194) -/

section

variable {s : State} {key : Nat}

theorem State.ticketAt_malformed (h : Ring.bad (s.read64 key) (s.read64 (key + 8)) = true) : s.ticketAt key = (BitVec.ofInt 64 (-2), s) :=
  if_pos h

variable (h : Ring.bad (s.read64 key) (s.read64 (key + 8)) = false)

include h

theorem State.ticketAt_allOut (hout : Ring.size (s.read64 key) ≤ Ring.out (s.read64 key) (s.read64 (key + 8))) :
    s.ticketAt key = (BitVec.allOnes 64, s) :=
  (if_neg (ne_true_of_eq_false h)).trans (if_pos hout)

theorem State.ticketAt_issues (hout : Ring.out (s.read64 key) (s.read64 (key + 8)) < Ring.size (s.read64 key)) :
    s.ticketAt key = (BitVec.ofNat 64 (Ring.tail (s.read64 key)), s.store64 key (setFld (s.read64 key) 0 32 (Ring.tail (s.read64 key) + 1))) :=
  (if_neg (ne_true_of_eq_false h)).trans (if_neg (Nat.not_le.mpr hout))

variable {t : Nat} (v : Word)

theorem State.fillAt_eq : s.fillAt key v t =
    if Ring.out (s.read64 key) (s.read64 (key + 8)) ≤ (t + 2 ^ 32 - Ring.head (s.read64 (key + 8))) % 2 ^ 32 ∨
      s.isFull (Ring.slotKey key t (s.read64 key)) = true
    then s.modCore (keyCore key) fun r => { r with qdropFill := (r.qdropFill + 1) % 65536 }
    else (s.store64 (Ring.slotKey key t (s.read64 key)) v).setFull (Ring.slotKey key t (s.read64 key)) true := by
  simp only [State.fillAt, h, Bool.false_or, Bool.or_eq_true, decide_eq_true_eq]

theorem State.fillAt_stores (hout : (t + 2 ^ 32 - Ring.head (s.read64 (key + 8))) % 2 ^ 32 < Ring.out (s.read64 key) (s.read64 (key + 8)))
    (hempty : s.isFull (Ring.slotKey key t (s.read64 key)) = false) :
    s.fillAt key v t = (s.store64 (Ring.slotKey key t (s.read64 key)) v).setFull (Ring.slotKey key t (s.read64 key)) true := by
  rw [fillAt_eq h, if_neg (not_or.mpr ⟨Nat.not_le.mpr hout, by simp [hempty]⟩)]

theorem State.fillAt_dropped (hd : Ring.out (s.read64 key) (s.read64 (key + 8)) ≤ (t + 2 ^ 32 - Ring.head (s.read64 (key + 8))) % 2 ^ 32 ∨
    s.isFull (Ring.slotKey key t (s.read64 key)) = true) :
    s.fillAt key v t = s.modCore (keyCore key) fun r => { r with qdropFill := (r.qdropFill + 1) % 65536 } := by
  rw [fillAt_eq h, if_pos hd]

end

/-! ### TICKET and RQFILL (R194) -/

section

variable {d a : RegCode} {s s1 : State} {x : Word} {c off : Nat} (ho : s.operands (Instr.ticket d a).word [a.toNat] [d.toNat] = .ok [x])
  (hr : s.resolveSpad x 16 true = .ok (c, off)) (hd : s.destReady d.toNat = .ok ())

include ho hr hd

theorem exec_ticket_own (hc : c = s.here) : exec (.ticket d a) s =
    .next ((s.ticketAt (spadKey c off)).2.complete [a.toNat] d.toNat (s.ticketAt (spadKey c off)).1) := by
  have hr : s.resolveSpad (arg [x] 0) 16 true = .ok (c, off) := hr
  show s.finish (ticket _ d a s) = _
  simp only [ticket, ho, hr, hd, if_pos hc, finish_ok]

theorem exec_ticket_away (hc : c ≠ s.here) (hld : s.me.ld < 63) (hq : s.request (.core c) (.ticket (spadKey c off) d.toNat) = .ok s1) :
    exec (.ticket d a) s = .next (loadPosted s1 (spadKey c off) [a.toNat] d.toNat) := by
  have hr : s.resolveSpad (arg [x] 0) 16 true = .ok (c, off) := hr
  show s.finish (ticket _ d a s) = _
  simp only [ticket, ho, hr, hd, if_neg hc, if_neg (Nat.not_le.mpr hld), hq, finish_ok, loadPosted]

/-- A remote TICKET leaves its request, and LD one more (R99). -/
theorem exec_ticket_posts (hc : c ≠ s.here) (hld : s.me.ld < 63) (hq : s.request (.core c) (.ticket (spadKey c off) d.toNat) = .ok s1) :
    ∃ u, exec (.ticket d a) s = .next u ∧ u.net = s1.net ∧ u.me.ld = s.me.ld + 1 := by
  obtain ⟨w, hme⟩ := loadPosted_me s1 (spadKey c off) [a.toNat] d.toNat
  refine ⟨_, exec_ticket_away ho hr hd hc hld hq, loadPosted_net .., ?_⟩
  rw [hme, (requestAs_sameThread hq).me]
  rfl

end

section

variable {v a t : RegCode} {s s1 : State} {x y w : Word} {c off : Nat}
  (ho : s.operands (Instr.rqfill v a t).word [a.toNat, t.toNat, v.toNat] [] = .ok [x, y, w])
  (hr : s.resolveSpad x 16 true = .ok (c, off)) (hst : s.me.st = 0)

include ho hr hst

/-- RQFILL with ST 0: at once on the own core, a posted request to another. -/
theorem exec_rqfill : exec (.rqfill v a t) s = s.finish (
    if c = s.here then .ok ((s.fillAt (spadKey c off) w (fld y 0 32)).completeNone [a.toNat, t.toNat, v.toNat])
    else post s [a.toNat, t.toNat, v.toNat] (spadKey c off) (.rqfill (spadKey c off) w (fld y 0 32))) := by
  have hr : s.resolveSpad (arg [x, y, w] 0) 16 true = .ok (c, off) := hr
  show s.finish (rqfill _ v a t s) = _
  simp only [rqfill, ho, hr, if_neg (not_not.mpr hst)]
  rfl

theorem exec_rqfill_own (hc : c = s.here) : exec (.rqfill v a t) s =
    .next ((s.fillAt (spadKey c off) w (fld y 0 32)).completeNone [a.toNat, t.toNat, v.toNat]) := by
  rw [exec_rqfill ho hr hst, if_pos hc, finish_ok]

/-- A remote RQFILL leaves its request, and ST one more (R100). -/
theorem exec_rqfill_posts (hne : c ≠ s.here) (hc : c < 1280) (hoff : off < 0x180000)
    (hq : s.request (.core c) (.rqfill (spadKey c off) w (fld y 0 32)) = .ok s1) :
    ∃ u, exec (.rqfill v a t) s = .next u ∧ u.net = s1.net ∧ u.me.st = 1 := by
  have hsame := requestAs_sameThread hq
  rw [← keyNode_spadKey hc (show off < 0x200000 by omega)] at hq
  obtain ⟨hnet, -⟩ := storePosted_frame s1 (State.touchBit (spadKey c off)) [a.toNat, t.toNat, v.toNat]
  obtain ⟨hst', -⟩ := storePosted_slot hsame (State.touchBit (spadKey c off)) [a.toNat, t.toNat, v.toNat]
  refine ⟨_, ?_, hnet, by rw [hst', hst]⟩
  rw [exec_rqfill ho hr hst, if_neg hne, post_sends (by omega) hq, finish_ok]

end

/-! ### RQPOP and RQPEEK (R194) -/

/-- The header decides, once the operands are ready. -/
theorem ringOwn_eq {word : Word} {d a : RegCode} {s : State} {x : Word} {off : Nat} (ho : s.operands word [a.toNat] [d.toNat] = .ok [x])
    (hr : s.resolveOwn x 16 = .ok off) (hd : s.destReady d.toNat = .ok ()) : ringOwn word d a s =
    if Ring.bad (s.read64 (spadKey s.here off)) (s.read64 (spadKey s.here off + 8)) = true then .error (.error (.trap 0x01 word))
    else .ok (spadKey s.here off) := by
  have hr : s.resolveOwn (arg [x] 0) 16 = .ok off := hr
  simp only [ringOwn, ho, hr, hd]

section

variable {d a : RegCode} {s : State} {key : Nat}

theorem exec_rqpop_takes (h : ringOwn (Instr.rqpop d a).word d a s = .ok key)
    (hf : s.isFull (Ring.slotKey key (Ring.head (s.read64 (key + 8))) (s.read64 key)) = true) : exec (.rqpop d a) s = .next
    (((s.setFull (Ring.slotKey key (Ring.head (s.read64 (key + 8))) (s.read64 key)) false).store64 (key + 8)
      (setFld (s.read64 (key + 8)) 0 32 (Ring.head (s.read64 (key + 8)) + 1))).complete [a.toNat] d.toNat
        (s.read64 (Ring.slotKey key (Ring.head (s.read64 (key + 8))) (s.read64 key)))) := by
  show s.finish (rqpop _ d a s) = _
  simp only [rqpop, h, hf, if_true, finish_ok]

theorem exec_rqpop_parks (h : ringOwn (Instr.rqpop d a).word d a s = .ok key)
    (hf : s.isFull (Ring.slotKey key (Ring.head (s.read64 (key + 8))) (s.read64 key)) = false) (hc : s.me.codelet = false) :
    exec (.rqpop d a) s = .next (s.modMe fun sl =>
      { sl with released := false, phase := .parked, park := .word (Ring.slotKey key (Ring.head (s.read64 (key + 8))) (s.read64 key)) }) := by
  show s.finish (rqpop _ d a s) = _
  simp only [rqpop, h, hf, Bool.false_eq_true, if_false, finish_error]
  rw [stop_parks _ _ hc]

theorem exec_rqpeek (h : ringOwn (Instr.rqpeek d a).word d a s = .ok key) :
    exec (.rqpeek d a) s = .next (s.complete [a.toNat] d.toNat (ofNat (peekCount s key))) := by
  show s.finish _ = _
  rw [h, finish_ok]

end

/-- The first number below n at which p fails, or else n, ends a run of numbers at which p holds. -/
theorem find?_range_getD_run (p : Nat → Bool) (n : Nat) :
    ((List.range n).find? fun i => !p i).getD n ≤ n ∧ (∀ i, i < ((List.range n).find? fun i => !p i).getD n → p i = true) ∧
      (((List.range n).find? fun i => !p i).getD n = n ∨ p (((List.range n).find? fun i => !p i).getD n) = false) := by
  cases hfind : (List.range n).find? fun i => !p i with
  | none =>
    refine ⟨le_rfl, fun i hi => ?_, .inl rfl⟩
    simpa using List.find?_eq_none.mp hfind i (List.mem_range.mpr hi)
  | some k =>
    obtain ⟨hk, hmem, hbefore⟩ := List.find?_range_eq_some.mp hfind
    exact ⟨(List.mem_range.mp hmem).le, fun i hi => by simpa using hbefore i hi, .inr (by simpa using hk)⟩

/-- RQPEEK counts the run of full slots from HEAD. -/
theorem peekCount_run (s : State) (key : Nat) : peekCount s key ≤ Ring.size (s.read64 key) ∧
    (∀ i, i < peekCount s key → s.isFull (Ring.slotKey key (Ring.head (s.read64 (key + 8)) + i) (s.read64 key)) = true) ∧
    (peekCount s key = Ring.size (s.read64 key) ∨
      s.isFull (Ring.slotKey key (Ring.head (s.read64 (key + 8)) + peekCount s key) (s.read64 key)) = false) :=
  find?_range_getD_run (fun i => s.isFull (Ring.slotKey key (Ring.head (s.read64 (key + 8)) + i) (s.read64 key))) (Ring.size (s.read64 key))

/-! ### The owner's answers (R194) -/

section

variable {s : State} {m key : Nat} {x : Msg} (ha : s.arrived m = some x) (hr : x.resp = false) (hs : x.started = true)

include ha hr hs

theorem exec_ticketRequest {reg : Nat} (hb : x.body = .ticket key reg) :
    exec (.ticketRequest m) s = .next ((s.ticketAt key).2.respond x (.value reg (s.ticketAt key).1 false false)) := by
  show Host.Outcome.next (ticketRequest m s) = _
  simp only [ticketRequest, performable_started ha hr hs, hb]

theorem exec_rqfillRequest {v : Word} {t : Nat} (hb : x.body = .rqfill key v t) :
    exec (.rqfillRequest m) s = .next ((s.fillAt key v t).respond x (.ack 0 0)) := by
  show Host.Outcome.next (rqfillRequest m s) = _
  simp only [rqfillRequest, performable_started ha hr hs, hb]

end

/-- Settles O34: the ring's steps by the header and the slot, the instructions by where the ring lies, and the run of full slots that RQPEEK counts. -/
theorem ringsIssueFillAndPop : Obligations.RingsIssueFillAndPop := by
  unfold Obligations.RingsIssueFillAndPop
  refine ⟨fun s key => ⟨ticketAt_malformed, ticketAt_allOut, ticketAt_issues⟩, fun s key v t h => ⟨fillAt_stores h v, fillAt_dropped h v⟩,
    fun d a s x c off ho hr hd => ⟨exec_ticket_own ho hr hd, fun s1 => exec_ticket_posts ho hr hd⟩,
    fun v a t s x y w c off ho hr hst => ⟨exec_rqfill_own ho hr hst, fun s1 => exec_rqfill_posts ho hr hst⟩,
    fun d a s key h => ⟨exec_rqpop_takes h, exec_rqpop_parks h⟩, ?peek, ?header, fun s m x key reg ha hr hs => exec_ticketRequest ha hr hs,
    fun s m x key v t ha hr hs => exec_rqfillRequest ha hr hs⟩
  case peek =>
    intro d a s key h size slot
    obtain ⟨hle, hfull, hend⟩ := peekCount_run s key
    exact ⟨peekCount s key, hle, hfull, hend, exec_rqpeek h⟩
  case header =>
    intro word d a s x off ho hr hd w0 w1 malformed
    rw [ringOwn_eq ho hr hd]
    exact ⟨fun h => if_neg (mt (Ring.bad_iff w0 w1).mp h), fun h => if_pos ((Ring.bad_iff w0 w1).mpr h)⟩

end Sys2Proof.Machine

/-! ## Entries of the kernel table (O40, O41) -/

namespace Sys2Proof.Machine

open State

@[simp] theorem State.kernelRec_modKernel_self (s : State) (k : Nat) (f : KernelRec → KernelRec) : (s.modKernel k f).kernelRec k = f (s.kernelRec k) :=
  Store.get_set_self ..

theorem State.kernelRec_of_kernels {s t : State} (h : t.kernels = s.kernels) (k : Nat) : t.kernelRec k = s.kernelRec k := by
  unfold State.kernelRec; rw [h]

/-- An answer that carries a value reaches its asker as it is, under the number of the request. -/
theorem State.respond_value_mem (s : State) (x : Msg) (reg : Nat) (v : Word) (a b : Bool) :
    ∃ y ∈ (s.respond x (.value reg v a b)).net, y.id = x.id ∧ y.body = .value reg v a b := by
  have hbody : answerTo x (.value reg v a b) = .value reg v a b := by
    unfold answerTo
    split <;> rfl
  exact ⟨_, List.mem_append_right _ (List.mem_singleton_self _), rfl, hbody⟩

/-! ### Retirement (R226) -/

@[simp] theorem State.notice_kernels (s : State) (k : Nat) (w : Word) : (s.notice k w).kernels = s.kernels := by
  unfold State.notice
  dsimp only
  split
  · split <;> rfl
  · rfl
  · split <;> rfl
  · rfl

/-- A retired entry keeps what the report and the delivery left in it, beside its state and its word. -/
theorem State.retireKernel_kernelRec (s : State) (k : Nat) (w : Word) : (s.retireKernel k w).kernelRec k =
    { ((s.writeReport k 2 [w]).deliverStatus k w).kernelRec k with state := 5, status := w } :=
  calc (s.retireKernel k w).kernelRec k
    _ = (((s.writeReport k 2 [w]).deliverStatus k w).modKernel k fun r => { r with state := 5, status := w }).kernelRec k :=
        kernelRec_of_kernels (notice_kernels _ k w) k
    _ = _ := kernelRec_modKernel_self ..

end Sys2Proof.Machine

/-! ## Kernels trigger and retire (O41) -/

namespace Sys2Proof.Machine

open State

section
variable {s : State} {k c : Nat}

/-- The entry's kernel is RUNNING or TRIGGERED (R218). -/
theorem running_iff (r : KernelRec) : (r.state == 3 || r.state == 4) = true ↔ r.state = 3 ∨ r.state = 4 := by
  simp only [Bool.or_eq_true, beq_iff_eq]

theorem exec_statusReport (hrun : (s.kernelRec k).state = 3 ∨ (s.kernelRec k).state = 4) (hc : c ∈ (s.kernelRec k).granted)
    (hn : c ∉ (s.kernelRec k).reported) (halive : (s.kernelCore k c).alive = 0) (hf : membershipInFlight k (some c) s = false) :
    exec (.statusReport k c) s = .next (s.modKernel k fun x =>
      { x with reported := x.reported ++ [c], status := combine x.status (s.kernelCore k c).status }) := by
  show Host.Outcome.next (statusReport k c s) = _
  simp [statusReport, (running_iff _).mpr hrun, hc, hn, halive, hf]

/-- The entry after core c has reported its trigger (R228). -/
def KernelRec.triggered (r : KernelRec) (c : Nat) : KernelRec :=
  { r with triggers := r.triggers ++ [c], state := if r.granted.all (r.triggers ++ [c]).contains then 4 else r.state }

theorem exec_triggerReport (hrun : (s.kernelRec k).state = 3 ∨ (s.kernelRec k).state = 4) (hc : c ∈ (s.kernelRec k).granted)
    (hn : c ∉ (s.kernelRec k).triggers) (hu : (s.kernelCore k c).untriggered = 0) :
    exec (.triggerReport k c) s = .next (s.modKernel k fun x => x.triggered c) := by
  show Host.Outcome.next (triggerReport k c s) = _
  simp [triggerReport, KernelRec.triggered, (running_iff _).mpr hrun, hc, hn, hu]

theorem KernelRec.triggered_state {r : KernelRec} (h : ∀ e ∈ r.granted, e ∈ r.triggers ++ [c]) : (r.triggered c).state = 4 := by
  have hall : r.granted.all (r.triggers ++ [c]).contains = true := by simpa using h
  exact if_pos hall

theorem exec_kernelRetire (hrun : (s.kernelRec k).state = 3 ∨ (s.kernelRec k).state = 4) (hr : ∀ c ∈ (s.kernelRec k).granted, c ∈ (s.kernelRec k).reported)
    (hj : (s.kernelRec k).joins = 0) (hf : membershipInFlight k none s = false) :
    exec (.kernelRetire k) s = .next (s.retireKernel k (s.kernelRec k).status) := by
  have hall : (s.kernelRec k).granted.all (s.kernelRec k).reported.contains = true := by simpa using hr
  show Host.Outcome.next (kernelRetire k s) = _
  simp [kernelRetire, (running_iff _).mpr hrun, hall, hj, hf]

end

/-! ### Messages of members (R224, R229) -/

/-- The messages that a core holds until their JOIN is acknowledged stay as another message reaches it. -/
theorem State.dropMsg_joining {m c : Nat} {s : State} {x : Msg} (h : s.arrived m = some x) (hd : x.dst = .core c) :
    ((s.dropMsg m).coreRec c).joining = (s.coreRec c).joining := by
  have hrec : (s.dropMsg m).coreRec c = ({ s with cores := s.coresReached m } : State).coreRec c := rfl
  rw [hrec, coreRec_coresReached (findMsg_of_arrived h) hd, if_pos rfl]

section
variable {s : State} {m c d : Nat} {x : Msg} {w : Word} (ha : s.arrived m = some x)
include ha

theorem exec_join_root {reg v : Nat} (hb : x.body = .join w reg v) (hd : x.dst = .ctrl d) (hl : s.kernelLive w = true) :
    exec (.join m) s = .next ((s.modKernel (kernelId w) fun k => { k with joins := k.joins + 1 }).respond x (.joinAck reg v)) := by
  show Host.Outcome.next (joinAt m s) = _
  simp only [joinAt, ha, hb, hd, hl, if_true]

/-- An acknowledged JOIN of a packet answers the packet's sender, which a call at the own core does not wait for. -/
theorem exec_join_packet {reg v : Nat} {e : Nat × Msg} (hb : x.body = .joinAck reg v) (hd : x.dst = .core c)
    (he : ((s.dropMsg m).coreRec c).joining.find? (·.1 == m) = some e) :
    exec (.join m) s = .next
      (if e.2.src = e.2.dst then (s.dropMsg m).modCore c fun r => { r with joining := r.joining.filter (·.1 != m) }
      else ((s.dropMsg m).modCore c fun r => { r with joining := r.joining.filter (·.1 != m) }).sendAs
        { e.2 with src := e.2.dst, dst := e.2.src, resp := true, body := .ack 0 0 }) := by
  show Host.Outcome.next (joinAt m s) = _
  simp only [joinAt, ha, hb, hd, he]

theorem exec_join_spawn {reg v : Nat} (hb : x.body = .joinAck reg v) (hd : x.dst = .core c) (he : ∀ e ∈ (s.coreRec c).joining, e.1 ≠ m)
    (hw : (s.dropMsg m).waitsFor x.uid m = true) :
    exec (.join m) s = .next (((s.dropMsg m).resumeThread x.uid).arriveReg x.uid reg (ofNat v)) := by
  have hnone : ((s.dropMsg m).coreRec c).joining.find? (·.1 == m) = none := by
    rw [dropMsg_joining ha hd, List.find?_eq_none]
    simpa using he
  show Host.Outcome.next (joinAt m s) = _
  simp only [joinAt, ha, hb, hd, hnone, hw, if_true]

theorem exec_leave {st : Word} (hb : x.body = .leave w st) (hd : x.dst = .ctrl d) (hl : s.kernelLive w = true) :
    exec (.leave m) s = .next ((s.dropMsg m).modKernel (kernelId w) fun k => { k with joins := k.joins - 1, status := combine k.status st }) := by
  have hlive : (s.dropMsg m).kernelLive w = true := hl
  show Host.Outcome.next (leaveAt m s) = _
  simp only [leaveAt, ha, hb, hd, hlive, if_true]

theorem exec_triggerNotice {e : Nat} (hb : x.body = .triggerNotice w c) (hd : x.dst = .core e) :
    exec (.triggerNotice m) s = .next ((s.dropMsg m).countTrigger w c) := by
  show Host.Outcome.next (triggerNotice m s) = _
  simp only [triggerNotice, ha, hb, hd]

theorem exec_guestRetireNotice {st : Word} {pl tr ex : Bool} {e : Nat} (hb : x.body = .guestRetired w st c pl tr ex) (hd : x.dst = .core e) :
    exec (.guestRetireNotice m) s = .next
      ((s.dropMsg m).memberRetired c (setFld (setFld w 33 1 (boolNat pl)) 32 1 (boolNat tr)) st ex none) := by
  show Host.Outcome.next (guestRetireNotice m s) = _
  simp only [guestRetireNotice, ha, hb, hd]

theorem exec_doneQuery {reg : Nat} (hr : x.resp = false) (hs : x.started = true ∨ x.credit = none) (hb : x.body = .kernelQuery w reg) :
    exec (.doneQuery m) s = .next (s.respond x (.value reg (doneReply s w x.ctx x.sup) false false)) := by
  show Host.Outcome.next (doneQuery m s) = _
  simp only [doneQuery, performable_ready ha hr hs, hb]

end

/-! ### The reply of DONE (R230) -/

section
variable {s : State} {w : Word} {i : Nat} {sup : Bool}

/-- DONE tells nothing of an entry that is FREE, taken by another kernel, or another user context's. -/
theorem doneReply_hidden (h : (s.kernelRec (kernelId w)).state = 0 ∨ (s.kernelRec (kernelId w)).gen ≠ fld w 16 12 ∨
    (sup = false ∧ (s.kernelRec (kernelId w)).ctx ≠ i)) : doneReply s w i sup = BitVec.allOnes 64 :=
  if_pos (by simpa using h)

theorem doneReply_shown (h0 : (s.kernelRec (kernelId w)).state ≠ 0) (hg : (s.kernelRec (kernelId w)).gen = fld w 16 12)
    (hc : sup = true ∨ (s.kernelRec (kernelId w)).ctx = i) :
    doneReply s w i sup = if (s.kernelRec (kernelId w)).state = 5 then (s.kernelRec (kernelId w)).status else ofNat (s.kernelRec (kernelId w)).state := by
  refine if_neg ?_
  rintro (h | h | ⟨hs, hi⟩)
  · exact h0 h
  · exact h hg
  · rcases hc with rfl | rfl
    · cases hs
    · exact hi rfl

end

/-- Settles O41: each event is its equation, a retired entry holds its word, and the reply of DONE is decided by what the asker may see. -/
theorem kernelsTriggerAndRetire : Obligations.KernelsTriggerAndRetire := by
  unfold Obligations.KernelsTriggerAndRetire
  refine ⟨?reports, fun s m x w reg v d ha hb hd hl => exec_join_root ha hb hd hl, ?packet, fun s m x reg v c ha hb hd he hw => exec_join_spawn ha hb hd he hw,
    fun s m x w st d ha hb hd hl => exec_leave ha hb hd hl, fun s k hrun hr hj hf => exec_kernelRetire hrun hr hj hf, ?retired,
    fun s m x w c e ha hb hd => exec_triggerNotice ha hb hd, fun s m x w st pl tr ex c e ha hb hd => exec_guestRetireNotice ha hb hd,
    fun s m x w reg ha hr hs hb => exec_doneQuery ha hr hs hb, ?reply⟩
  case reports =>
    intro s k c r hrun hc
    refine ⟨exec_statusReport hrun hc, fun hn hu => ⟨_, exec_triggerReport hrun hc hn hu, ?_⟩⟩
    rw [kernelRec_modKernel_self]
    exact ⟨rfl, KernelRec.triggered_state⟩
  case packet =>
    intro s m x reg v c e ha hb hd he u
    rw [exec_join_packet ha hb hd he]
    exact ⟨fun h => by rw [if_pos h], fun h => by rw [if_neg h]⟩
  case retired =>
    intro s k w
    rw [retireKernel_kernelRec]
    exact ⟨rfl, rfl⟩
  case reply =>
    intro s w i sup k
    refine ⟨doneReply_hidden, fun hg hc => ⟨fun h5 => ?_, fun h0 h5 => ?_⟩⟩
    · rw [doneReply_shown (by rw [h5]; decide) hg hc, if_pos h5]
    · rw [doneReply_shown h0 hg hc, if_neg h5]

end Sys2Proof.Machine

/-! ## Launch packets are queued, and scheduled or refused (O40) -/

namespace Sys2Proof.Machine

open State

theorem find?_range_first {p : Nat → Bool} {n i : Nat} (hi : p i = true) (hn : i < n) (hlow : ∀ j, j < i → p j = false) :
    (List.range n).find? p = some i :=
  List.find?_range_eq_some.mpr ⟨hi, List.mem_range.mpr hn, fun j hj => by rw [hlow j hj]; rfl⟩

theorem State.kernelEntry_free {s : State} {i : Nat} (hi : i < 1024) (h0 : (s.kernelRec i).state = 0) (hlow : ∀ j, j < i → (s.kernelRec j).state ≠ 0) :
    s.kernelEntry = some i := by
  have hfind : (List.range 1024).find? (fun i => (s.kernelRec i).state == 0) = some i :=
    find?_range_first (beq_iff_eq.mpr h0) hi fun j hj => beq_eq_false_iff_ne.mpr (hlow j hj)
  unfold State.kernelEntry
  split
  next j hj => exact hj.symm.trans hfind
  next hnone => rw [hfind] at hnone; cases hnone

/-- Entry i with a device's packet queued in it (R217). -/
def State.queuedRec (s : State) (i : Nat) (pk : List Word) : KernelRec :=
  { state := 1, gen := ((s.kernelRec i).gen + 1) % 4096, packet := pk, src := 0, port := 0 }

/-- A device's packet that entry i takes (R217). -/
def State.queued (s : State) (i : Nat) (pk : List Word) : State :=
  { s with kernels := Store.set {} s.kernels i (s.queuedRec i pk), retired := s.retired.filter (· != i)
           kernelCores := s.kernelCores.filter fun e => e.1 / 1280 != i, launchQueue := s.launchQueue ++ [i] }

theorem State.acceptPacket_full {s : State} (pk : List Word) (h : 256 ≤ s.launchQueue.length) : s.acceptPacket pk 0 0 = (BitVec.allOnes 64, s) :=
  if_pos h

theorem State.acceptPacket_queued {s : State} {i : Nat} (pk : List Word) (hl : s.launchQueue.length < 256) (hi : s.kernelEntry = some i) :
    s.acceptPacket pk 0 0 = ((s.queuedRec i pk).ident i, s.queued i pk) := by
  rw [State.acceptPacket, if_neg (Nat.not_le.mpr hl), hi]
  rfl

@[simp] theorem State.kernelRec_queued (s : State) (i : Nat) (pk : List Word) : (s.queued i pk).kernelRec i = s.queuedRec i pk := by
  show Store.get {} (Store.set {} s.kernels i (s.queuedRec i pk)) i = _
  exact Store.get_set_self (α := KernelRec) ..

@[simp] theorem State.respond_kernels (s : State) (x : Msg) (b : Body) : (s.respond x b).kernels = s.kernels := rfl

theorem exec_launchAccept {s : State} {m reg : Nat} {x : Msg} {pk : List Word} (ha : s.arrived m = some x) (hr : x.resp = false)
    (hs : x.started = true ∨ x.credit = none) (hb : x.body = .launch pk reg) :
    exec (.launchAccept m) s = .next ((s.acceptPacket pk 0 0).2.respond x (.value reg (s.acceptPacket pk 0 0).1 false false)) := by
  show Host.Outcome.next (launchAccept m s) = _
  simp only [launchAccept, performable_ready ha hr hs, hb]

/-! ### The packet that is scheduled (R218, R219, R222) -/

/-- The rectangle of kernel r lies in the partition of its context (R222). -/
def State.inItsPartition (s : State) (r : KernelRec) : Bool :=
  (State.rectOf (s.ctx r.ctx).part).holds (coreAt r.rect.x0 r.rect.y0) && (State.rectOf (s.ctx r.ctx).part).holds (coreAt r.rect.x1 r.rect.y1)

theorem State.inItsPartition_iff (s : State) (r : KernelRec) : s.inItsPartition r = true ↔
    (State.rectOf (s.ctx r.ctx).part).holds (coreAt r.rect.x0 r.rect.y0) = true ∧
      (State.rectOf (s.ctx r.ctx).part).holds (coreAt r.rect.x1 r.rect.y1) = true := Bool.and_eq_true_iff

/-- Packet k leaves the launch queue for its root, which begins to place it (R219). -/
def State.placing (s : State) (k : Nat) : State :=
  { s.modKernel k fun x => { x with state := 2 } with launchQueue := s.launchQueue.filter (· != k) }

theorem State.kernelRec_placing (s : State) (k : Nat) : (s.placing k).kernelRec k = { s.kernelRec k with state := 2 } :=
  kernelRec_modKernel_self s k fun x => { x with state := 2 }

/-- The first packet is scheduled when its prerequisite and its root allow it. -/
theorem exec_kernelSchedule_first {s : State} {k : Nat} {l : List Nat} (hq : s.launchQueue = k :: l) (hd : s.depAllows (s.kernelRec k) = true)
    (hb : s.rootBusy (s.kernelRec k).rootDie = false) : exec .kernelSchedule s = .next
    (let r := s.kernelRec k
    if r.ctx ≠ 0 ∧ (s.ctx r.ctx).state ≠ 1 then s.refuseKernel k 1
    else if r.ctx ≠ 0 ∧ !(s.ctx r.ctx).placeable then s.refuseKernel k 2
    else if r.ctx ≠ 0 ∧ !s.inItsPartition r then s.refuseKernel k 3
    else s.placing k) := by
  have hfind : s.launchQueue.find? (fun k => s.depAllows (s.kernelRec k) && !s.rootBusy (s.kernelRec k).rootDie) = some k := by
    rw [hq]
    exact List.find?_cons_of_pos (by simp [hd, hb])
  show Host.Outcome.next (kernelSchedule s) = _
  simp only [kernelSchedule, hfind]
  rfl

end Sys2Proof.Machine

/-! ## Cores are reserved, the image is copied, and the launch commits (O40) -/

namespace Sys2Proof.Machine

open State Sys2Proof.Claims

section
variable {s : State} {k c : Nat}

/-! ### The reserve wave (R220) -/

section
variable (hs : (s.kernelRec k).state = 2) (he : s.eligible (s.kernelRec k) c = true) (hg : c ∉ (s.kernelRec k).granted)
  (hr : c ∉ (s.kernelRec k).refused)
include hs he hg hr

theorem exec_placementReserve_grants {s1 : State} (h : s.reserve ((s.kernelRec k).ident k) c (s.kernelRec k).limit (s.kernelRec k).tpc = some s1) :
    exec (.placementReserve k c) s = .next (s1.modKernel k fun x => { x with granted := x.granted ++ [c] }) := by
  show Host.Outcome.next (placementReserve k c s) = _
  simp [placementReserve, hs, he, hg, hr, h]

theorem exec_placementReserve_refuses (h : s.reserve ((s.kernelRec k).ident k) c (s.kernelRec k).limit (s.kernelRec k).tpc = none) :
    exec (.placementReserve k c) s = .next (s.modKernel k fun x => { x with refused := x.refused ++ [c] }) := by
  show Host.Outcome.next (placementReserve k c s) = _
  simp [placementReserve, hs, he, hg, hr, h]

end

/-! ### The image (R221) -/

theorem OnlySends.mem {s t : State} (h : OnlySends s t) : t.mem = s.mem := by
  unfold OnlySends at h; rw [h]

theorem OnlySends.kernels {s t : State} (h : OnlySends s t) : t.kernels = s.kernels := by
  unfold OnlySends at h; rw [h]

theorem State.heatOn_onlySends (s : State) (src : Node) (c : Nat) (r : Rights) (a : Word) (n : Nat) (write first : Bool) :
    OnlySends s (s.heatOn src c r a n write first) := by
  have hon (m : Nat) : OnlySends s (if m < n then s.plainHeat src c r (a + ofNat m) (n - m) write else s) := by
    split
    · exact plainHeat_onlySends ..
    · exact .refl s
  exact hon _

/-- Every eligible core has answered, some granted, and with ALL none refused. -/
theorem placeable_iff (r : KernelRec) : placeable r s = true ↔
    r.state = 2 ∧ s.allAnswered r = true ∧ r.granted ≠ [] ∧ (r.all = true → r.refused = []) := by
  simp only [placeable, Bool.and_eq_true, beq_iff_eq, ← Bool.not_eq_true, Bool.not_eq_true', List.isEmpty_iff, not_and, not_not, and_assoc, ne_eq]

/-- The root's reading of the image's next packet, of n bytes (R221, R250). -/
def State.imageRead (s : State) (r : KernelRec) (a : Word) (n : Nat) : State :=
  s.heatOn (.ctrl r.rootDie) r.corner r.rights a (min n ((s.imageBytes r a n).length + 1)) false (r.copied == 0)

/-- The image's next packet on its way along the granting cores (R221, R266). -/
def State.imageSent (s : State) (k : Nat) (r : KernelRec) (data path : List Nat) : State :=
  (s.modKernel k fun x => { x with imageMsg := some s.nextId }).send
    { id := 0, src := .ctrl r.rootDie, dst := .core (path.headD 0), sup := true, body := .multicast (r.ioff + r.copied) data false path }

theorem exec_imageCopy (hp : placeable (s.kernelRec k) s = true) (hc : (s.kernelRec k).copied < (s.kernelRec k).ilen)
    (hm : (s.kernelRec k).imageMsg = none) (hr : (s.kernelRec k).reason = 0) : exec (.imageCopy k) s = .next
      (let r := s.kernelRec k
      let n := min 1024 (r.ilen - r.copied)
      let a := r.word 2 + BitVec.ofNat 64 r.copied
      if s.imageBytes r a n = [] then (s.imageRead r a n).modKernel k fun x => { x with reason := 6 }
      else (s.imageRead r a n).imageSent k r (s.imageBytes r a n) (r.rect.snake.filter r.granted.contains)) := by
  show Host.Outcome.next (imageCopy k s) = _
  simp only [imageCopy, hp, hc, hm, hr, Option.isNone_none, decide_true, beq_self_eq_true, Bool.and_self, if_true, List.isEmpty_iff]
  rfl

theorem State.imageSent_sends (s : State) (k : Nat) (r : KernelRec) (data path : List Nat) :
    Sends s (s.imageSent k r data path) [(.core (path.headD 0), .multicast (r.ioff + r.copied) data false path)] := ⟨[_], rfl, rfl⟩

theorem State.kernelRec_imageSent (s : State) (k : Nat) (r : KernelRec) (data path : List Nat) :
    (s.imageSent k r data path).kernelRec k = { s.kernelRec k with imageMsg := some s.nextId } :=
  kernelRec_modKernel_self s k fun x => { x with imageMsg := some s.nextId }

theorem State.imageBytes_fault_first {s : State} {r : KernelRec} {a : Word} (h : s.plainKey r.corner r.rights a 1 false = none) (n : Nat) :
    s.imageBytes r a (n + 1) = [] := by
  simp only [State.imageBytes, h]

theorem State.imageBytes_next {s : State} {r : KernelRec} {a : Word} {key : Nat} (h : s.plainKey r.corner r.rights a 1 false = some key) (n : Nat) :
    s.imageBytes r a (n + 1) = (s.mem.byte key).toNat :: s.imageBytes r (a + 1) n := by
  simp only [State.imageBytes, h]

/-- The address i + 1 bytes on is that i bytes on from the next. -/
theorem add_ofNat_succ (a : Word) (i : Nat) : a + BitVec.ofNat 64 (i + 1) = a + 1 + BitVec.ofNat 64 i := by
  rw [BitVec.ofNat_add, BitVec.add_comm (BitVec.ofNat 64 i), ← BitVec.add_assoc]
  rfl

/-- The image's bytes are those of memory up to their number or the first fault. -/
theorem State.imageBytes_spec (s : State) (r : KernelRec) (n : Nat) (a : Word) : (s.imageBytes r a n).length ≤ n ∧
    (∀ i, i < (s.imageBytes r a n).length → ∃ key, s.plainKey r.corner r.rights (a + BitVec.ofNat 64 i) 1 false = some key ∧
      (s.imageBytes r a n)[i]? = some (s.mem.byte key).toNat) ∧
    ((s.imageBytes r a n).length < n → s.plainKey r.corner r.rights (a + BitVec.ofNat 64 (s.imageBytes r a n).length) 1 false = none) := by
  have hfirst : a + BitVec.ofNat 64 0 = a := BitVec.add_zero a
  induction n generalizing a with
  | zero => exact ⟨le_rfl, fun i hi => absurd hi (Nat.not_lt_zero i), fun h => absurd h (Nat.not_lt_zero _)⟩
  | succ n ih =>
    cases hk : s.plainKey r.corner r.rights a 1 false with
    | none =>
      rw [imageBytes_fault_first hk]
      exact ⟨Nat.zero_le _, fun i hi => absurd hi (Nat.not_lt_zero i), fun _ => by rw [List.length_nil, hfirst, hk]⟩
    | some key =>
      obtain ⟨hle, hbytes, hend⟩ := ih (a + 1) (BitVec.add_zero _)
      rw [imageBytes_next hk, List.length_cons, add_ofNat_succ]
      refine ⟨Nat.succ_le_succ hle, fun i hi => ?_, fun h => hend (Nat.lt_of_succ_lt_succ h)⟩
      cases i with
      | zero => exact ⟨key, by rw [hfirst, hk], rfl⟩
      | succ i =>
        rw [add_ofNat_succ, List.getElem?_cons_succ]
        exact hbytes i (Nat.lt_of_succ_lt_succ hi)

/-! ### The image's packet at its last core (R221, R266) -/

theorem OnlyData.kernels {s t : State} (h : OnlyData s t) : t.kernels = s.kernels := by
  unfold OnlyData at h; rw [h]

theorem State.writeBytes_onlyData (s : State) (key : Nat) (data : List Nat) : OnlyData s (s.writeBytes key data []) :=
  OnlyData.foldl (fun (x : State) (e : Nat × Nat) => x.write (key + e.2) 1 e.1) (fun x e => x.write_onlyData (key + e.2) 1 e.1) _ s

theorem exec_multicastPacket_image {m d off : Nat} {x : Msg} {data : List Nat} (ha : s.arrived m = some x) (hb : x.body = .multicast off data false [c])
    (hsrc : x.src = .ctrl d) (ht : s.takesCopy c = true) : exec (.multicastPacket m) s = .next
      (((s.storeBytes (spadKey c off) data []).dropMsg m).imageCame m data.length) := by
  show Host.Outcome.next (multicastPacket m s) = _
  simp [multicastPacket, ha, hb, hsrc, ht]

theorem State.imageCame_of_find {m n : Nat} {r : KernelRec} (h : s.kernels.find? (fun e => e.2.imageMsg == some m) = some (k, r)) :
    s.imageCame m n = s.modKernel k fun x => { x with copied := x.copied + n, imageMsg := none } := by
  simp only [State.imageCame, h]

/-! ### Commit (R220 to R223, R236) -/

/-- A launch that every eligible core has answered and whose image met no fault aborts or, its image there, commits. -/
theorem exec_placementCommit (hs : (s.kernelRec k).state = 2) (ha : s.allAnswered (s.kernelRec k) = true) (hr : (s.kernelRec k).reason = 0) :
    exec (.placementCommit k) s = .next
      (let r := s.kernelRec k
      if r.granted.isEmpty then s.refuseKernel k 4
      else if r.all && !r.refused.isEmpty then s.refuseKernel k 5
      else if r.copied < r.ilen then s
      else
        let s1 := (r.rect.snake.filter r.granted.contains).foldl (fun x c => x.createThreads k c) s
        let key := barrierKey r.corner { level := rectLevel r.rect, index := fld (r.word 0) 40 4 }
        ((s1.applyBarrier key ((s1.barrier key).arm (r.granted.length * r.tpc) r.ctx true)).modKernel k fun x => { x with state := 3 }).report k
          (r.granted.length * r.tpc)) := by
  show Host.Outcome.next (placementCommit k s) = _
  simp only [placementCommit, hs, ha, hr, decide_true, Bool.and_self, if_true, ne_eq, not_true_eq_false, if_false]

end

/-- Settles O40: each event is its equation, the image's bytes are read up to the first fault, and its packet's last core completes it. -/
theorem launchesAreQueuedAndPlaced : Obligations.LaunchesAreQueuedAndPlaced := by
  unfold Obligations.LaunchesAreQueuedAndPlaced
  refine ⟨?accept, ?schedule, fun s k c hs he hg hr => ⟨fun s1 => exec_placementReserve_grants hs he hg hr, exec_placementReserve_refuses hs he hg hr⟩,
    ?copy, fun s r a n => imageBytes_spec s r n a, ?packet, ?commit⟩
  case accept =>
    intro s m x pk reg ha hr hs hb
    rw [exec_launchAccept ha hr hs hb]
    refine ⟨fun hfull => by rw [acceptPacket_full pk hfull], fun i hlen hi h0 hlow => ?_⟩
    rw [acceptPacket_queued pk hlen (kernelEntry_free hi h0 hlow)]
    have hrec := fun v => (kernelRec_of_kernels (respond_kernels (s.queued i pk) x v) i).trans (kernelRec_queued s i pk)
    refine ⟨_, rfl, ?_, ?_, ?_, rfl, respond_value_mem ..⟩
    all_goals rw [hrec]; rfl
  case schedule =>
    intro s k r l hq hr hd hb
    subst hr
    rw [exec_kernelSchedule_first hq hd hb]
    dsimp only
    refine ⟨fun h0 h1 => by rw [if_pos ⟨h0, h1⟩], fun h0 h1 h2 => ?_, fun h0 h1 h2 h3 => ?_, fun h => ⟨s.placing k, ?_, ?_, ?_⟩⟩
    · rw [if_neg (by simp [h1]), if_pos ⟨h0, by simp [h2]⟩]
    · rw [← inItsPartition_iff, Bool.not_eq_true] at h3
      rw [if_neg (by simp [h1]), if_neg (by simp [h2]), if_pos ⟨h0, by simp [h3]⟩]
    · rw [← inItsPartition_iff] at h
      rcases h with h0 | ⟨h1, h2, h3⟩
      · simp [h0]
      · simp [h1, h2, h3]
    · rw [kernelRec_placing]
    · show s.launchQueue.filter (· != k) = _
      rw [hq, List.filter_cons_of_neg (by simp)]
  case copy =>
    intro s k r hs ha hg hall hc hm hr n a data s1 path
    rw [exec_imageCopy ((placeable_iff _).mpr ⟨hs, ha, hg, hall⟩) hc hm hr]
    dsimp only
    refine ⟨fun h => by rw [if_pos h]; rfl, fun h => ?_⟩
    have hpath : path = r.rect.snake.filter r.granted.contains := List.filter_congr fun c _ => (List.contains_eq_mem ..).symm
    have hread : OnlySends s s1 := heatOn_onlySends ..
    refine ⟨s1.imageSent k r data path, by rw [if_neg h, hpath]; rfl, hread.mem, ?_, ?_, imageSent_sends ..⟩
    · rw [kernelRec_imageSent]
    · rw [kernelRec_imageSent, kernelRec_of_kernels hread.kernels]
  case packet =>
    intro s m x d off data c k r ha hb hsrc ht hfind hu hlt
    have hkernels : ((s.writeBytes (spadKey c off) data []).dropMsg m).kernels = s.kernels := (writeBytes_onlyData ..).kernels
    rw [exec_multicastPacket_image ha hb hsrc ht, storeBytes_of_undisturbed s (spadKey c off) data hu, imageCame_of_find (by rw [hkernels, hfind])]
    refine ⟨_, rfl, fun i hi => ?_, ?_⟩
    · show ((s.writeBytes (spadKey c off) data []).mem.byte (spadKey c off + i)).toNat = _
      rw [writeBytes_byte, if_pos (by omega), Nat.add_sub_cancel_left, BitVec.toNat_ofNat]
      exact Nat.mod_eq_of_lt (hlt _ (by rw [List.getD_eq_getElem _ _ hi]; exact List.getElem_mem hi))
    · rw [kernelRec_modKernel_self, kernelRec_of_kernels hkernels]
      exact ⟨rfl, rfl⟩
  case commit =>
    intro s k r hs ha hr
    rw [exec_placementCommit hs ha hr]
    dsimp only
    refine ⟨fun hg => by rw [if_pos (List.isEmpty_iff.mpr hg)], fun hg hall href => ?_, fun hg hall hc => ?_⟩
    · have hmissed : (r.all && !r.refused.isEmpty) = true := by simpa using ⟨hall, href⟩
      rw [if_neg (mt List.isEmpty_iff.mp hg), if_pos hmissed]
    · have hmet : ¬ (r.all && !r.refused.isEmpty) = true := by simpa using hall
      rw [if_neg (mt List.isEmpty_iff.mp hg), if_neg hmet, if_neg (Nat.not_lt.mpr hc)]

end Sys2Proof.Machine

/-! ## Phases of barrier objects (O36) -/

namespace Sys2Proof.Machine

open State Sys2Proof.Claims

section
variable {b : Barrier}

/-! ### Arms (R235) -/

theorem Barrier.arm_refused (n i : Nat) (hs : b.state = 1) (ha : 0 < b.arrived) : b.arm n i false = { obj := b, result := 1 } := by
  simp only [Barrier.arm, Bool.false_eq_true, if_false, if_pos (And.intro hs ha)]

theorem Barrier.arm_zero (i : Nat) (h : ¬ (b.state = 1 ∧ 0 < b.arrived)) : b.arm 0 i false = { obj := {}, result := 0, release := some notArmed } := by
  simp only [Barrier.arm, Bool.false_eq_true, if_false, if_neg h, if_true]

/-- An ARMED object without arrivals takes the new EXPECT. -/
theorem Barrier.arm_again {n : Nat} (i : Nat) (hn : 0 < n) (hs : b.state = 1) (ha : b.arrived = 0) :
    b.arm n i false = { obj := { b with expect := n }, result := 0 } := by
  simp [Barrier.arm, hs, ha, Nat.ne_of_gt hn]

/-- An object that is not ARMED begins a phase in its parity. -/
theorem Barrier.arm_begins {n : Nat} (i : Nat) (hn : 0 < n) (hs : b.state ≠ 1) :
    b.arm n i false = { obj := { arrived := 0, expect := n, state := 1, par := b.par, err := false, code := 0, tag := i }, result := 0 } := by
  simp [Barrier.arm, hs, Nat.ne_of_gt hn]

/-! ### Arrivals (R235) -/

/-- The object's phase takes arrivals: it is ARMED, or OPEN without an error. -/
def Barrier.Counts (b : Barrier) : Prop := b.state = 1 ∨ (b.state = 2 ∧ b.err = false ∧ b.arrived = 0)

/-- What an arrival of weight w does to an object whose phase takes it. -/
theorem Barrier.arrive_counts (h : b.Counts) (w : Nat) : b.arrive w =
    if b.expect ≤ b.arrived + w then { obj := { b with state := 2, arrived := 0, par := !b.par }, result := boolWord b.par, release := some 0 }
    else { obj := { b with state := 1, arrived := b.arrived + w }, result := boolWord b.par } := by
  rcases h with hs | ⟨hs, he, ha⟩
  · simp [Barrier.arrive, hs]
  · simp [Barrier.arrive, hs, he, ha]

theorem Barrier.arrive_idle (w : Nat) (h : b.state = 0) : b.arrive w = { obj := b, result := notArmed } := if_pos h

theorem Barrier.arrive_failed (w : Nat) (hs : b.state = 2) (he : b.err = true) : b.arrive w = { obj := b, result := errorResult b.code } := by
  simp [Barrier.arrive, hs, he]

/-- An error arrival at an ARMED object opens its phase with the code. -/
theorem Barrier.arriveError_armed (k : Nat) (h : b.state = 1) : b.arriveError k =
    { obj := { b with state := 2, err := true, code := k % 65536, arrived := 0, par := !b.par }, result := errorResult k
      release := some (errorResult k) } := by
  simp [Barrier.arriveError, h]

theorem errorResult_of_lt {k : Nat} (h : k < 65536) : errorResult k = BitVec.ofNat 64 (0x8000000000000000 + k) := by
  rw [errorResult, Nat.mod_eq_of_lt h]
  rfl

/-! ### Waits (R238) -/

/-- What a wait with token t gives at an object that is not IDLE. -/
theorem Barrier.waitNow_of_active (h : b.state ≠ 0) (t : Bool) :
    b.waitNow t = if b.err then some (errorResult b.code) else if b.par ≠ t then some 0 else none := if_neg h

end

/-- Settles O36: each operation is its equation, by the object's state and, of an arrival, by the sum it reaches. -/
theorem barrierPhasesTurn : Obligations.BarrierPhasesTurn := by
  unfold Obligations.BarrierPhasesTurn
  refine ⟨?arm, fun b n i => Barrier.arm_refused n i, fun b i => Barrier.arm_zero i, ?arrive, fun b w => Barrier.arrive_idle w,
    fun b w => Barrier.arrive_failed w, ?error, ?wait⟩
  case arm =>
    intro b n i hn h
    by_cases hs : b.state = 1
    · have ha : b.arrived = 0 := by omega
      simp [Barrier.arm_again i hn hs ha, hs, ha]
    · simp [Barrier.arm_begins i hn hs]
  case arrive =>
    intro b w h
    dsimp only
    rw [Barrier.arrive_counts h]
    exact ⟨fun hlt => by simp [Nat.not_le.mpr hlt], fun hle => by simp [hle]⟩
  case error =>
    intro b k hs hk
    simp [Barrier.arriveError_armed k hs, errorResult_of_lt hk, Nat.mod_eq_of_lt hk]
  case wait =>
    intro b t
    refine ⟨fun h => if_pos h, fun h he => ?_, fun h he hp => ?_, fun h he hp => ?_⟩
    · rw [Barrier.waitNow_of_active h, if_pos he]
    · rw [Barrier.waitNow_of_active h, he, if_neg Bool.false_ne_true, if_pos hp]
    · rw [Barrier.waitNow_of_active h, he, if_neg Bool.false_ne_true, if_neg (not_not.mpr hp)]

end Sys2Proof.Machine

/-! ## Full/empty operations on the own scratchpad (O25) -/

namespace Sys2Proof.Machine

open State Sys2Proof.Claims

/-! ### Full bits -/

theorem isBulk_word_of_lt {key : Nat} (h : key < 2 ^ 40) : isBulk (key / 8 * 8) = false :=
  decide_eq_false (by omega)

/-- The full bit of a word is that of its lowest byte. -/
theorem State.isFull_word (s : State) (key : Nat) : s.isFull (key / 8 * 8) = s.isFull key := by
  simp only [State.isFull, Nat.mul_div_cancel _ (show 0 < 8 by decide)]

/-- A full bit that changes wakes the slots of its core that are parked on the word (R296). -/
theorem State.setFull_wakes {s : State} {key t : Nat} {b : Bool} (hk : key < 2 ^ 40) (hb : s.isFull key ≠ b) (ht : t / 64 = key / 0x200000)
    (hp : (s.slot t).phase = .parked) (hw : (s.slot t).park = .word (key / 8 * 8)) : ((s.setFull key b).slot t).phase = .ready := by
  have hcore : keyCore (key / 8 * 8) = t / 64 := by unfold keyCore; omega
  simp only [State.setFull, isBulk_word_of_lt hk, isFull_word, Bool.false_or, beq_iff_eq, hb, if_false, wakeCore_slot, hcore]
  rw [if_pos ⟨trivial, hp, hw⟩]

/-! ### The step -/

section
variable {word : Word} {op : FeOp} {srcs dsts : List Nat} {ord : BitVec 2} {sc : BitVec 3} {s : State} {vs : List Word} {d o : Nat} {a v : Word}

/-- What an operation whose step is done leaves: its value in g[d], or no result (R294). -/
def feDone (s : State) (op : FeOp) (srcs : List Nat) (d : Nat) (v : Word) (key : Nat) : State :=
  if op.reads then (s.feApply op key v).complete srcs d (s.read64 key) else (s.feApply op key v).completeNone srcs

theorem feDone_stores (h : op = .sts ∨ op = .stf) (key : Nat) :
    feDone s op srcs d v key = ((s.store64 key v).setFull key true).completeNone srcs := by
  rcases h with rfl | rfl
  · rfl
  · rfl

theorem feAt_own (hd : op.reads = true → s.destReady d = .ok ()) : feAt s op srcs d a v s.here o =
    if op.can (s.isFull (spadKey s.here o)) then .ok (feDone s op srcs d v (spadKey s.here o)) else .error (.park (.word (spadKey s.here o)) a) := by
  have hready : (if op.reads = true then s.destReady d else .ok ()) = .ok () := by
    split
    next h => exact hd h
    next => rfl
  simp only [feAt, hready, if_true, feDone]
  split
  · split <;> rfl
  · rfl

variable (hv : s.operands word srcs dsts = .ok vs) (hw : s.resolveFe (arg vs 0) = .ok (s.here, o)) (hr : Released ord sc (arg vs 0) s)
  (hd : op.reads = true → s.destReady (dsts.headD 0) = .ok ())
include hv hw hr hd

/-- An operation on a word of the own core that can complete does its step in its turn. -/
theorem fe_completes (hc : op.can (s.isFull (spadKey s.here o)) = true) :
    s.finish (fe word op srcs dsts ord sc s) = .next (feDone s op srcs (dsts.headD 0) (arg vs 1) (spadKey s.here o)) := by
  rw [fe_released hv hw (fun _ h => absurd rfl h) hr, feAt_own hd, if_pos hc, finish_ok]

/-- One that cannot parks its thread on the word. -/
theorem fe_parks (hc : op.can (s.isFull (spadKey s.here o)) = false) (hcod : s.me.codelet = false) :
    s.finish (fe word op srcs dsts ord sc s) =
      .next (s.modMe fun sl => { sl with released := false, phase := .parked, park := .word (spadKey s.here o) }) := by
  rw [fe_released hv hw (fun _ h => absurd rfl h) hr, feAt_own hd, if_neg (by simp [hc]), finish_error, stop_parks _ _ hcod]

end

theorem exec_sts (d a : RegCode) (ord : BitVec 2) (sc : BitVec 3) (s : State) :
    exec (.sts d a ord sc) s = s.finish (fe (Instr.sts d a ord sc).word .sts [a.toNat, d.toNat] [] ord sc s) := rfl

theorem exec_stf (d a : RegCode) (ord : BitVec 2) (sc : BitVec 3) (s : State) :
    exec (.stf d a ord sc) s = s.finish (fe (Instr.stf d a ord sc).word .stf [a.toNat, d.toNat] [] ord sc s) := rfl

/-- STS of an empty word and STF store their value and fill the word. -/
theorem fe_fills {word : Word} {op : FeOp} {srcs : List Nat} {ord : BitVec 2} {sc : BitVec 3} {s : State} {x v : Word} {o : Nat}
    (hop : op = .sts ∨ op = .stf) (hv : s.operands word srcs [] = .ok [x, v]) (hw : s.resolveFe x = .ok (s.here, o)) (hr : Released ord sc x s)
    (hc : op.can (s.isFull (spadKey s.here o)) = true) : s.finish (fe word op srcs [] ord sc s) =
      .next (((s.store64 (spadKey s.here o) v).setFull (spadKey s.here o) true).completeNone srcs) := by
  have hreads : op.reads = true → s.destReady (([] : List Nat).headD 0) = .ok () := by
    rcases hop with rfl | rfl
    · exact fun h => absurd h Bool.false_ne_true
    · exact fun h => absurd h Bool.false_ne_true
  rw [fe_completes hv hw hr hreads hc, feDone_stores hop]
  rfl

/-- Settles O25: a step that the full bit allows is done in its turn, and any other parks; a full bit is its word's alone. -/
theorem localFullEmptyOperations : Obligations.LocalFullEmptyOperations := by
  unfold Obligations.LocalFullEmptyOperations
  refine ⟨?loads, ?stores, ?bits, fun s key b t hk => setFull_wakes hk⟩
  case loads =>
    intro d a ord sc s x o hw hr hd
    refine ⟨fun hv => ⟨fun hf => ?_, fun hf hc => ?_⟩, fun hv => ⟨fun hf => ?_, fun hf hc => ?_⟩⟩
    · exact fe_completes hv hw hr (fun _ => hd) hf
    · exact fe_parks hv hw hr (fun _ => hd) hf hc
    · exact fe_completes hv hw hr (fun _ => hd) hf
    · exact fe_parks hv hw hr (fun _ => hd) hf hc
  case stores =>
    intro d a ord sc s x v o hw hr
    refine ⟨fun hv => ⟨fun hf => ?_, fun hf hc => ?_⟩, fun hv => ?_, fun hv => ?_⟩
    · exact (exec_sts ..).trans (fe_fills (op := .sts) (.inl rfl) hv hw hr (congrArg (!·) hf))
    · exact fe_parks (op := .sts) hv hw hr (fun h => absurd h Bool.false_ne_true) (congrArg (!·) hf) hc
    · exact (exec_stf ..).trans (fe_fills (op := .stf) (.inr rfl) hv hw hr rfl)
    · exact fe_completes (op := .empty) hv hw hr (fun h => absurd h Bool.false_ne_true) rfl
  case bits =>
    intro s key b hk
    have hfull := fun k => isFull_setFull s key k b (isBulk_word_of_lt hk)
    exact ⟨by rw [hfull, if_pos rfl], fun k h => by rw [hfull, if_neg h], setFull_mem ..⟩

end Sys2Proof.Machine

/-! ## Call-at tasks (O32) -/

namespace Sys2Proof.Machine

open State Sys2Proof.Claims

/-! ### CALLAT (R183) -/

/-- What the pops of an instruction leave of a core's own state. -/
theorem State.coreRec_consume_keeps {β : Type} {g : CoreRec → β} (hg : ∀ r p, g { r with pipes := p } = g r) (s : State) (l : List Nat) (c : Nat) :
    g ((s.consume l).coreRec c) = g (s.coreRec c) := by
  induction l generalizing s with
  | nil => rfl
  | cons v r ih =>
    unfold State.consume
    split
    next n _ =>
      rw [ih, State.modPipe]
      by_cases h : c = s.here
      · subst h; rw [coreRec_modCore_self, hg]
      · rw [coreRec_modCore_ne _ _ h]
    next => exact ih s

/-- The registers that CALLAT reads: four arguments, the reply name and the entry. -/
def callatSources (t a n : RegCode) : List Nat := [a.toNat, a.toNat + 1, a.toNat + 2, a.toNat + 3] ++ [n.toNat, t.toNat]

/-- CALLAT once its entry resolves to a core and its reply name is none or has a name's layout. -/
theorem callat_resolved {t a n : RegCode} {s : State} {vs : List Word} {c off : Nat}
    (hv : s.runOperands (Instr.callat t a n).word (callatSources t a n) [a.toNat, a.toNat + 1, a.toNat + 2, a.toNat + 3] [] = .ok vs)
    (hr : s.resolve s.here s.rights (arg vs 5) 4 = .ok (.spad c off)) (hn : arg vs 4 = 0 ∨ isName (arg vs 4) = true) :
    let pkt := packetOf s off (arg vs 0) (arg vs 1) (arg vs 2) (arg vs 3) (arg vs 4)
    exec (.callat t a n) s = s.finish (
      if c = s.here then
        if 64 ≤ (s.coreRec c).tasks.length then .error .forfeit else .ok ((s.enqueueOwn c pkt).completeNone (callatSources t a n))
      else post s (callatSources t a n) (spadKey c off) (.callat pkt)) := by
  have hname : ¬ (decide (arg vs 4 ≠ 0) && !isName (arg vs 4)) = true := by
    rcases hn with h | h
    · simp [h]
    · simp [h]
  show s.finish (callat (Instr.callat t a n).word t a n s) = _
  unfold callatSources at hv
  simp only [callat, hv, hr, hname]
  rfl

/-- The call that waits for the JOIN of a packet of a live kernel (R224). -/
def ownCall (s : State) (c : Nat) (pkt : TaskPkt) : Msg := { id := s.nextId, uid := s.me.uid, src := .core c, dst := .core c, body := .callat pkt }

theorem State.enqueueOwn_plain {s : State} {pkt : TaskPkt} (c : Nat) (h : s.joins pkt.kpkg pkt.kernel = false) :
    s.enqueueOwn c pkt = s.modCore c fun r => { r with tasks := r.tasks ++ [pkt] } := if_neg (by simp [h])

/-- Core c's task queue takes a packet, whose call waits for a JOIN (R224). -/
def State.awaitJoin (s : State) (c : Nat) (call : Msg) (pkt : TaskPkt) : State :=
  (s.modCore c fun r => { r with tasks := r.tasks ++ [pkt] }).modCore c fun r => { r with joining := r.joining ++ [(s.nextId, call)] }

theorem State.coreRec_awaitJoin (s : State) (c : Nat) (call : Msg) (pkt : TaskPkt) : (s.awaitJoin c call pkt).coreRec c =
    { s.coreRec c with tasks := (s.coreRec c).tasks ++ [pkt], joining := (s.coreRec c).joining ++ [(s.nextId, call)] } := by
  rw [State.awaitJoin, coreRec_modCore_self, coreRec_modCore_self]

/-- The same, with the JOIN sent. -/
def State.joinTask (s : State) (c : Nat) (call : Msg) (pkt : TaskPkt) : State := (s.awaitJoin c call pkt).sendJoin c 0 pkt.kpkg pkt.kernel 0 0

theorem State.enqueueOwn_joins {s : State} {pkt : TaskPkt} (c : Nat) (h : s.joins pkt.kpkg pkt.kernel = true) :
    s.enqueueOwn c pkt = s.joinTask c (ownCall s c pkt) pkt := if_pos h

/-- A JOIN is one message, under the next number, to the package of its kernel where that is another. -/
theorem State.sendJoin_message {s : State} {c : Nat} {kpkg : Option Nat} (uid : Nat) (w : Word) (reg v : Nat)
    (hu : ∀ p, kpkg = some p → s.isUnreachable c p = false) : ∃ m, (s.sendJoin c uid kpkg w reg v).net = s.net ++ [m] ∧ m.body = .join w reg v ∧
      m.id = s.nextId ∧ ∀ p, kpkg = some p → m.dst = .pkg p := by
  cases kpkg with
  | none => exact ⟨_, rfl, rfl, rfl, fun p h => by cases h⟩
  | some p =>
    simp only [State.sendJoin, State.sendAbroad, hu p rfl, Bool.false_and, Bool.false_eq_true, if_false]
    exact ⟨_, rfl, rfl, rfl, fun q hq => by cases hq; rfl⟩

/-- A packet that joins its kernel is queued, its JOIN is sent, and its call waits. -/
theorem State.joinTask_joins {s : State} {c : Nat} (call : Msg) {pkt : TaskPkt} (hu : ∀ p, pkt.kpkg = some p → s.isUnreachable c p = false) :
    ∃ m, (s.joinTask c call pkt).net = s.net ++ [m] ∧ m.body = .join pkt.kernel 0 0 ∧ m.id = s.nextId ∧ (∀ p, pkt.kpkg = some p → m.dst = .pkg p) ∧
      ((s.joinTask c call pkt).coreRec c).tasks = (s.coreRec c).tasks ++ [pkt] ∧
      ((s.joinTask c call pkt).coreRec c).joining = (s.coreRec c).joining ++ [(s.nextId, call)] := by
  obtain ⟨m, hnet, hbody, hid, hdst⟩ := sendJoin_message (s := s.awaitJoin c call pkt) 0 pkt.kernel 0 0 hu
  have hcore : (s.joinTask c call pkt).coreRec c = (s.awaitJoin c call pkt).coreRec c := by
    rw [State.joinTask, sendJoin_frame]
    rfl
  rw [coreRec_awaitJoin] at hcore
  exact ⟨m, hnet, hbody, hid, hdst, by rw [hcore], by rw [hcore]⟩

theorem State.joinTask_me (s : State) (c : Nat) (call : Msg) (pkt : TaskPkt) : (s.joinTask c call pkt).me = s.me := by
  rw [State.joinTask, sendJoin_frame]
  rfl

/-! ### RETAT (R186) -/

theorem State.checkCodes_of_operands {s : State} {word : Word} {srcs dsts : List Nat} {vs : List Word} (h : s.operands word srcs dsts = .ok vs) :
    s.checkCodes (srcs ++ dsts) = .ok () := by
  unfold State.operands at h
  split at h
  · cases h
  next h0 => exact h0

/-- The task ends with a status, its RETAT issued. -/
def State.taskEnds (x : State) (status : Nat) : State := (x.terminate x.cur status).modMe fun sl => { sl with returned := true }

theorem State.taskEnds_me (x : State) (status : Nat) : (x.taskEnds status).me =
    { x.me with phase := .draining, park := .none, wait := none, status := status, loops := [], yield := none, returned := true } := by
  have hme : (x.terminate x.cur status).me =
      { x.me with phase := .draining, park := .none, wait := none, status := status, loops := [], yield := none } := slot_modSlot_self ..
  rw [State.taskEnds, me_modMe, hme]

/-- RETAT of a task whose stores are acknowledged and whose reply name is none or usable. -/
theorem exec_retat {v : RegCode} {s : State} {x : Word} (ho : s.operands (Instr.retat v).word [v.toNat] [] = .ok [x]) (ht : s.me.task = true)
    (hst : s.me.st = 0) (hn : s.me.rep = 0 ∨ s.nameUsable s.me.rep = true) : exec (.retat v) s = s.finish (
      let s1 := s.consume [v.toNat]
      if s.me.rep = 0 then .ok (s1.taskEnds 0)
      else if s.isOwnName s.here s.me.rep then .ok ((s1.deliver s.here s.me.rep x s.me.rights).2.taskEnds (s1.deliver s.here s.me.rep x s.me.rights).1)
      else s.sendFlits s.me.ctx (nameNode s s.me.rep) 1
        (((countSt s1).sendDelivery s.here s.num s.me.uid s.me.rights s.me.rep x .retat).taskEnds 0)) := by
  have hname : ¬ (decide (s.me.rep ≠ 0) && !s.nameUsable s.me.rep) = true := by
    rcases hn with h | h
    · simp [h]
    · simp [h]
  have hcheck : s.checkCodes [v.toNat] = .ok () := checkCodes_of_operands ho
  show s.finish (match s.checkCodes [v.toNat] with | .error e => .error e | .ok _ => if s.me.task then retat _ v s else .error (.trap 0x01 _)) = _
  simp only [hcheck, ht, if_true, retat, ho, Bool.not_true, Bool.false_eq_true, if_false, hst, ne_eq, not_true_eq_false, hname]
  rfl

/-- A thread that is no task has no RETAT. -/
theorem exec_retat_outside {v : RegCode} {s : State} (hc : s.checkCode v.toNat = .ok ()) (ht : s.me.task = false) :
    exec (.retat v) s = .next (s.takeTrap s.cur 0x01 (Instr.retat v).word) := by
  have hcheck : s.checkCodes [v.toNat] = .ok () := by simp only [State.checkCodes, hc]
  show s.finish (match s.checkCodes [v.toNat] with | .error e => .error e | .ok _ => if s.me.task then retat _ v s else .error (.trap 0x01 _)) = _
  simp only [hcheck, ht, Bool.false_eq_true, if_false, finish_error, stop_trap]

/-- A value that leaves for another core of the package, and the task that drains behind it. -/
theorem State.returnSent {s : State} {nm x : Word} {srcs : List Nat} {l : List Carrier} (hp : namePkg nm = s.pkgNum) :
    let t := (((countSt (s.consume srcs)).sendDelivery s.here s.num s.me.uid s.me.rights nm x .retat).taskEnds 0).inject s.here 1 l
    t.me.phase = .draining ∧ t.me.st = s.me.st + 1 ∧ ∃ m, t.net = s.net ++ [m] ∧ m.body = .deliver nm x .retat := by
  have hpkg : namePkg nm = (countSt (s.consume srcs)).pkgNum := by rw [hp, consume_frame]; rfl
  obtain ⟨m, os, hsend, -, hbody, -⟩ := sendDelivery_message (s := countSt (s.consume srcs)) (c := s.here) (slot := s.num) (uid := s.me.uid)
    (r := s.me.rights) (v := x) (o := .retat) fun h => absurd hpkg h
  have hme : (countSt (s.consume srcs)).me = { s.me with st := s.me.st + 1 } := by rw [countSt, me_modMe, consume_me]
  intro t
  have ht : t.me = (((countSt (s.consume srcs)).sendDelivery s.here s.num s.me.uid s.me.rights nm x .retat).taskEnds 0).me := by
    simp only [t]; rw [inject_frame]; rfl
  have hcount : ((countSt (s.consume srcs)).sendDelivery s.here s.num s.me.uid s.me.rights nm x .retat).me = { s.me with st := s.me.st + 1 } := by
    rw [hsend]; exact hme
  rw [taskEnds_me, hcount] at ht
  refine ⟨by rw [ht], by rw [ht], m, ?_, hbody⟩
  simp only [t]
  rw [inject_frame, hsend]
  show (s.consume srcs).net ++ [m] = _
  rw [consume_net]

/-! ### Packets that arrive (R187, R272) -/

theorem acceptTask_plain {s : State} {pkt : TaskPkt} (c : Nat) (x : Msg) (h : s.joins pkt.kpkg pkt.kernel = false) : acceptTask c x pkt s =
    (s.modCore c fun r => { r with tasks := r.tasks ++ [pkt] }).sendAs { x with src := x.dst, dst := x.src, resp := true, body := .ack 0 0 } :=
  if_neg (by simp [h])

theorem acceptTask_joins {s : State} {pkt : TaskPkt} (c : Nat) (x : Msg) (h : s.joins pkt.kpkg pkt.kernel = true) :
    acceptTask c x pkt s = s.joinTask c x pkt := if_pos h

theorem exec_callatAccept {s : State} {m c : Nat} {x : Msg} {pkt : TaskPkt} (hp : s.performable m = some x) (hb : x.body = .callat pkt)
    (hd : x.dst = .core c) : exec (.callatAccept m) s = .next
      (if (s.coreRec c).tasks.length < 64 ∧ (s.coreRec c).waiting.any waitingCall = false then acceptTask c x pkt (s.dropMsg m)
      else if s.waitRoom c then s.moveToWait c x else s.respond x (.retry none (some pkt))) := by
  show Host.Outcome.next (callatAccept m s) = _
  simp only [callatAccept, hp, hb, hd, Bool.and_eq_true, decide_eq_true_eq, Bool.not_eq_true']

theorem exec_retryAnswer_held {s : State} {m c : Nat} {x : Msg} {tok : Option Word} {pkt : TaskPkt} (hr : s.response m = some x)
    (hb : x.body = .retry tok (some pkt)) (hd : x.dst = .core c) : exec (.retryAnswer m) s = .next ((s.dropMsg m).modCore c fun r =>
      { r with held := r.held ++ [({ x with src := x.dst, dst := x.src, resp := false, body := .callat pkt }, r.cycle)] }) := by
  show Host.Outcome.next (retryAnswer m s) = _
  simp only [retryAnswer, hr, hb, hd]

theorem exec_callatResend {s : State} {m c : Nat} {h : Msg × Nat} (hc : s.cores.find? (fun e => e.2.held.any fun y => y.1.id == m) = some (c, s.coreRec c))
    (hh : (s.coreRec c).held.find? (fun y => y.1.id == m) = some h) : exec (.callatResend m) s = .next
      (let l := s.carriers h.1.ctx c h.1.dst
      if s.creditFree (clusterOf c) h.1.dst = true ∧ s.canInject c l = true ∧ 1024 ≤ (s.coreRec c).cycle - h.2 then
        (((s.modCore c fun x => { x with held := x.held.filter fun y => y.1.id != m }).takeCredit (clusterOf c) h.1.dst).sendAs
          { h.1 with credit := some (clusterOf c, h.1.dst), started := false }).inject c h.1.body.flits l
      else s) := by
  show Host.Outcome.next (callatResend m s) = _
  simp only [callatResend, hc, hh, Bool.and_eq_true, decide_eq_true_eq, and_assoc]

/-- Settles O32: CALLAT by where its entry lies, RETAT by its reply name, and an arriving packet by the room it finds. -/
theorem tasksAreCalledAndReturn : Obligations.TasksAreCalledAndReturn := by
  unfold Obligations.TasksAreCalledAndReturn
  refine ⟨?callat, ?retat, fun v s hc ht => exec_retat_outside hc ht, ?accept, fun s c x pkt h => acceptTask_plain c x h, ?joins,
    fun s m x tok pkt c hr hb hd => exec_retryAnswer_held hr hb hd, ?resend⟩
  case callat =>
    intro t a n s vs c off run hv hr hn pkt
    rw [callat_resolved hv hr hn]
    refine ⟨?queued, ?queuedJoin, ?full, ?away⟩
    case queued =>
      intro hc hlen hj
      rw [if_pos hc, if_neg (Nat.not_le.mpr hlen), finish_ok, enqueueOwn_plain (pkt := pkt) c hj]
      rfl
    case queuedJoin =>
      intro hc hlen hj hu
      rw [if_pos hc, if_neg (Nat.not_le.mpr hlen), finish_ok, enqueueOwn_joins (pkt := pkt) c hj]
      obtain ⟨m, hnet, hbody, hid, hdst, htasks, hjoining⟩ := joinTask_joins (s := s) (c := c) (ownCall s c pkt) (pkt := pkt) fun p hp => hc.symm ▸ hu p hp
      refine ⟨_, m, ownCall s c pkt, rfl, ?_, ?_, hbody, hid, ?_, rfl, hdst, fun hl => ?_⟩
      · exact (coreRec_consume_keeps (g := CoreRec.tasks) (fun _ _ => rfl) ..).trans htasks
      · rw [State.completeNone, advance_net, consume_net, hnet]
      · exact (coreRec_consume_keeps (g := CoreRec.joining) (fun _ _ => rfl) ..).trans hjoining
      · rw [completeNone_me, joinTask_me, Slot.advance_straight _ hl]
    case full =>
      intro hc hlen
      rw [if_pos hc, if_pos hlen, finish_error, stop_forfeit]
    case away =>
      intro s1 hc hc' ho hst hq
      have hk : keyNode (spadKey c off) = .core c := keyNode_spadKey hc' (by omega)
      obtain ⟨hnet, -, -, hmem, -, -⟩ := storePosted_frame s1 (State.touchBit (spadKey c off)) (callatSources t a n)
      have h1 : SameThread s s1 := requestAs_sameThread hq
      refine ⟨_, by rw [if_neg hc, post_sends hst (hk.symm ▸ hq), finish_ok], hnet, (storePosted_slot h1 ..).1, hmem.trans h1.2.2.1⟩
  case retat =>
    intro v s x ho ht hst
    refine ⟨fun h0 => ?_, fun h0 hu hown => ?_, fun h0 hu hown hp hi => ?_⟩
    · rw [exec_retat ho ht hst (.inl h0)]
      refine ⟨(s.consume [v.toNat]).taskEnds 0, by rw [if_pos h0, finish_ok], ?_, ?_, ?_, consume_mem s [v.toNat]⟩
      all_goals rw [taskEnds_me]
    · rw [exec_retat ho ht hst (.inr hu)]
      refine ⟨_, by rw [if_neg h0, if_pos hown, finish_ok], ?_, ?_⟩
      all_goals rw [taskEnds_me]
    · have hnode : nameNode s s.me.rep = .core (nameCore s.me.rep) := if_pos hp
      rw [exec_retat ho ht hst (.inr hu), if_neg h0, if_neg (by simp [hown]), hnode, sendFlits_ok hi, finish_ok]
      obtain ⟨hphase, hst', m, hnet, hbody⟩ := returnSent (s := s) (nm := s.me.rep) (x := x) (srcs := [v.toNat])
        (l := s.carriers s.me.ctx s.here (.core (nameCore s.me.rep))) hp
      exact ⟨_, m, rfl, hphase, by rw [hst', hst], hnet, hbody⟩
  case accept =>
    intro s m x pkt c ha hresp hs hb hd
    rw [exec_callatAccept (performable_started ha hresp hs) hb hd]
    have hfull (h : 64 ≤ (s.coreRec c).tasks.length ∨ (s.coreRec c).waiting.any waitingCall = true) :
        ¬ ((s.coreRec c).tasks.length < 64 ∧ (s.coreRec c).waiting.any waitingCall = false) := by
      rintro ⟨h1, h2⟩
      rcases h with h | h
      · omega
      · rw [h2] at h; cases h
    refine ⟨fun hl hw => by rw [if_pos ⟨hl, hw⟩], fun h hroom => ?_, fun h hroom => ?_⟩
    · rw [if_neg (hfull h), if_pos (waitRoom_iff.mpr hroom)]
    · rw [if_neg (hfull h), if_neg (mt waitRoom_iff.mp (Nat.not_lt.mpr hroom))]
  case joins =>
    intro s c x pkt hj hu
    rw [acceptTask_joins c x hj]
    obtain ⟨m, hnet, hbody, hid, -, htasks, hjoining⟩ := joinTask_joins x hu
    exact ⟨m, hnet, hbody, hid, htasks, hjoining⟩
  case resend =>
    intro s m c h hc hh l
    rw [exec_callatResend hc hh]
    refine ⟨fun hcr hi hl => congrArg Host.Outcome.next (if_pos ⟨hcr, hi, hl⟩), fun hno => ?_⟩
    have hno : ¬ (s.creditFree (clusterOf c) h.1.dst = true ∧ s.canInject c l = true ∧ 1024 ≤ (s.coreRec c).cycle - h.2) := by
      rintro ⟨h1, h2, h3⟩
      rcases hno with h | h | h
      · rw [h1] at h; cases h
      · rw [h2] at h; cases h
      · omega
    exact congrArg Host.Outcome.next (if_neg hno)

end Sys2Proof.Machine

/-! ## Region operations at issue (O49) -/

namespace Sys2Proof.Machine

open State Sys2Proof.Claims

/-! ### Messages sent one after another -/

theorem sends_refl (s : State) : Sends s s [] := ⟨[], (List.append_nil _).symm, rfl⟩

theorem sends_trans {s t u : State} {l k : List (Node × Body)} (h : Sends s t l) (g : Sends t u k) : Sends s u (l ++ k) := by
  obtain ⟨ms, hnet, hl⟩ := h
  obtain ⟨ns, hnet', hk⟩ := g
  exact ⟨ms ++ ns, by rw [hnet', hnet, List.append_assoc], by rw [List.map_append, hl, hk]⟩

theorem State.unitSend_sends (s : State) (c t uid ctx : Nat) (sup : Bool) (b : Body) : Sends s (s.unitSend c t uid ctx sup b) [(.core t, b)] :=
  ⟨[_], rfl, rfl⟩

theorem State.unitSend_onlySends (s : State) (c t uid ctx : Nat) (sup : Bool) (b : Body) : OnlySends s (s.unitSend c t uid ctx sup b) := rfl

/-- One message to each core of a list, on the response channel. -/
def State.sendEach (s : State) (src : Node) (i : Nat) (l : List Nat) (b : Body) : State :=
  l.foldl (fun (y : State) c => y.agentSend src (.core c) i true b) s

theorem State.sendEach_sends (s : State) (src : Node) (i : Nat) (l : List Nat) (b : Body) :
    Sends s (s.sendEach src i l b) (l.map fun c => (.core c, b)) := by
  induction l generalizing s with
  | nil => exact sends_refl s
  | cons c r ih => exact sends_trans (agentSend_sends ..) (ih (s.agentSend src (.core c) i true b))

theorem State.sendEach_onlySends (s : State) (src : Node) (i : Nat) (l : List Nat) (b : Body) : OnlySends s (s.sendEach src i l b) := by
  induction l generalizing s with
  | nil => exact .refl s
  | cons c r ih => exact (agentSend_onlySends s src (.core c) i true b).trans (ih _)

/-! ### A register that awaits a reply -/

/-- What a query of s leaves, once it has gone out in s1: the register awaits its answer, LD counts it, and the slot goes on (R98, R99). -/
def IsAsked (s s1 u : State) (d : RegCode) : Prop :=
  u.net = s1.net ∧ u.mem = s.mem ∧ u.me.ld = s.me.ld + 1 ∧ u.me.touch = s.me.touch ∧ u.regs = s.regs ∧
  (d ≠ 0 → u.regIsFull s.cur d.toNat = false ∧ u.awaits s.cur d.toNat = true) ∧ (s.me.loops = [] → u.me.pc = s.me.pc + 4)

theorem asked_isAsked {s s1 : State} {d : RegCode} (h : SameThread s s1) (hw : WindowCode s d.toNat) (srcs : List Nat) :
    IsAsked s s1 (asked s1 srcs d.toNat) d := by
  have ⟨_, hcur, hmem, hregs, _⟩ := h
  obtain ⟨w, hw'⟩ := awaitDest_me ((s1.modMe fun sl => { sl with ld := sl.ld + 1 }).consume srcs) d.toNat
  have hme : (asked s1 srcs d.toNat).me = ({ s.me with ld := s.me.ld + 1, awaiting := w } : Slot).advance := by
    rw [asked, advance_me, hw', consume_me, me_modMe, h.me]
  have hunbound : ((s1.modMe fun sl => { sl with ld := sl.ld + 1 }).consume srcs).me.queueOf d.toNat = none := by
    rw [consume_me, me_modMe]
    exact (h.window hw).unbound
  have hnoMail : ((s1.modMe fun sl => { sl with ld := sl.ld + 1 }).consume srcs).isMail d.toNat = false := by
    rw [State.isMail, consume_num]
    exact (h.window hw).noMail
  refine ⟨?_, ?_, by rw [hme]; rfl, by rw [hme]; rfl, ?_, fun hd => ?_, fun hl => ?_⟩
  · rw [asked, advance_net, awaitDest_net, consume_net, modMe_net]
  · rw [asked, advance_mem, awaitDest_mem, consume_mem, modMe_mem, hmem]
  · rw [asked, advance_regs, awaitDest_frame, consume_regs, modMe_regs, hregs]
  · have hn : d.toNat ≠ 0 := fun h0 => hd (BitVec.eq_of_toNat_eq h0)
    have hreg := awaitDest_register hunbound hnoMail hn hw.2.1
    rwa [consume_cur, modMe_cur, hcur] at hreg
  · rw [hme]
    exact congrArg Slot.pc (Slot.advance_straight _ hl)

/-! ### Single-record operations (R336, R337) -/

/-- The registers that a single-record operation reads. -/
def recordSources (op : RecordOp) (a b : RegCode) : List Nat := if op = .rdel then [a.toNat] else [a.toNat, b.toNat]

theorem exec_record (d a b : RegCode) (s : State) : ∀ p ∈ recordForms d a b,
    ∃ b', p.2.2 = recordSources p.2.1 a b' ∧ exec p.1 s = s.finish (record p.1.word p.2.1 d a b' s) := by
  simp only [recordForms, List.forall_mem_cons, List.not_mem_nil, false_implies, implies_true, and_true]
  exact ⟨⟨b, rfl, rfl⟩, ⟨b, rfl, rfl⟩, ⟨b, rfl, rfl⟩, ⟨b, rfl, rfl⟩, 0, rfl, rfl⟩

/-- The operation that a slot issues, with the source bytes read now. -/
def issuedOp (s : State) (op : RecordOp) (dm : Domain) (h : Word) (off d : Nat) : RegionOp :=
  { op := op, core := s.here, ctx := s.me.ctx, dom := dm.dom, handle := h, dst := off, reg := d
    data := if op = .rld then [] else s.readBytes (s.here * 0x200000 + off) (recordBuffer op).1, gen := dm.gen }

section
variable {word : Word} {op : RecordOp} {d a b : RegCode} {s : State} {vs : List Word} {dm : Domain} {t off : Nat}
  (hv : s.operands word (recordSources op a b) [d.toNat] = .ok vs)
include hv

/-- A handle that is none traps 0x04 with itself (R336). -/
theorem record_badHandle (hop : op ≠ .rins) (hh : fld (arg vs 0) 56 8 ≠ 0xC2 ∨ fld (arg vs 0) 51 5 ≠ 0) :
    record word op d a b s = .error (.trap 0x04 (arg vs 0)) := by
  unfold recordSources at hv
  simp only [record, hv, State.recordTarget, if_neg hop, if_pos hh]

variable (hb : s.recordBufferAt op (if op = .rins then arg vs 0 else arg vs 1) (arg vs 0) = .ok off)
  (ht : s.recordTarget op (arg vs 0) (arg vs 1) (fun n => s.mem.readN (s.here * 0x200000 + off + 8 + 4 * n) 4) = .ok (dm, t))
include hb ht

/-- A single-record operation that passes the checks of R336. -/
theorem record_checked : record word op d a b s =
    if 63 ≤ s.me.ld then .error .forfeit
    else (s.destReady d.toNat).bind fun _ =>
      if t = s.here then .ok ((asked s (recordSources op a b) d.toNat).recordLocal (issuedOp s op dm (arg vs 0) off d.toNat))
      else (s.request (.core t) (.region (issuedOp s op dm (arg vs 0) off d.toNat) none)).bind fun s2 =>
        .ok (asked s2 (recordSources op a b) d.toNat) := by
  have ht : s.recordTarget op (arg vs 0) (arg vs 1) (fun n => s.read (spadKey s.here off + 8 + 4 * n) 4) = .ok (dm, t) := ht
  have hv' : s.operands word (if op = .rdel then [a.toNat] else [a.toNat, b.toNat]) [d.toNat] = .ok vs := hv
  simp only [record, hv', hb, ht]
  refine if_congr Iff.rfl rfl ?_
  cases s.destReady d.toNat with
  | error e => rfl
  | ok u =>
    refine if_congr Iff.rfl rfl ?_
    show (match s.request (.core t) (.region (issuedOp s op dm (arg vs 0) off d.toNat) none) with | .error e => _ | .ok s2 => _) = _
    cases s.request (.core t) (.region (issuedOp s op dm (arg vs 0) off d.toNat) none) with
    | error e => rfl
    | ok s2 => rfl

theorem record_forfeits (hld : 63 ≤ s.me.ld) : record word op d a b s = .error .forfeit := by
  rw [record_checked hv hb ht, if_pos hld]

variable (hld : s.me.ld < 63) (hd : s.destReady d.toNat = .ok ())
include hld hd

theorem record_away {s1 : State} (hc : t ≠ s.here) (hq : s.request (.core t) (.region (issuedOp s op dm (arg vs 0) off d.toNat) none) = .ok s1) :
    record word op d a b s = .ok (asked s1 (recordSources op a b) d.toNat) := by
  rw [record_checked hv hb ht, if_neg (Nat.not_le.mpr hld), hd]
  show (if t = s.here then _ else _) = _
  rw [if_neg hc, hq]
  rfl

theorem record_own (hc : t = s.here) : record word op d a b s =
    .ok ((asked s (recordSources op a b) d.toNat).recordLocal (issuedOp s op dm (arg vs 0) off d.toNat)) := by
  rw [record_checked hv hb ht, if_neg (Nat.not_le.mpr hld), hd]
  exact if_pos hc

end

/-- An operation of the own core's unit is one more message, of the core to itself (R270, R382). -/
theorem recordLocal_isAsked {s u : State} {d : RegCode} (h : IsAsked s s u d) (hcur : u.cur = s.cur) (huid : u.me.uid = s.me.uid) (r : RegionOp) :
    ∃ y, IsAsked s { s with net := s.net ++ [y] } (u.recordLocal r) d ∧
      y.src = .core s.here ∧ y.dst = .core s.here ∧ y.credit = none ∧ y.uid = s.me.uid ∧ y.body = .region r none := by
  obtain ⟨hnet, hmem, hld, htouch, hregs, hreg, hpc⟩ := h
  have hhere : u.here = s.here := congrArg (· / 64) hcur
  refine ⟨_, ⟨congrArg (· ++ [_]) hnet, hmem, hld, htouch, hregs, hreg, hpc⟩, congrArg Node.core hhere, congrArg Node.core hhere, rfl, huid, rfl⟩

/-! ### Queries (R342) -/

theorem exec_query (a b : RegCode) (s : State) : ∀ p ∈ [((Instr.rqbox a b, .box) : Instr × QueryKind), (.rqrad a b, .radius), (.rscan a b, .all)],
    exec p.1 s = s.finish (query p.1.word p.2 a b s) := by
  simp only [List.forall_mem_cons, List.not_mem_nil, false_implies, implies_true, and_true]
  exact ⟨rfl, rfl, rfl⟩

/-- The state after a query's path is known: its count is delivered where no owner is on it, else its ARM goes to the first (R342, R343). -/
def queryStarted (s : State) (c : Nat) (q : Query) : State :=
  match q.path with
  | [] => s.queryDeliver c q 0
  | t :: _ => s.unitSend c t 0 q.ctx false (.arm q 0)

/-- The query that a slot issues with a block of words. -/
def issuedQuery (s : State) (kind : QueryKind) (dm : Domain) (ws : List Word) (buf : Nat) (nm : Word) : Query :=
  { kind := kind, ctx := s.me.ctx, dom := dm.dom, words := ws, core := s.here, buf := buf, name := nm, path := [], gen := dm.gen }

theorem query_legal {word : Word} {kind : QueryKind} {a b : RegCode} {s : State} {blk nm : Word} {off buf : Nat} {dm : Domain}
    (hv : s.operands word [a.toNat, b.toNat] [] = .ok [blk, nm]) (hblk : s.ownBlock blk 8 = .ok off) (hoff : off + 40 ≤ 0x180000)
    (hn : isName nm = true) (hdm : s.domainAt s.here s.me.ctx (fld ((s.readWords (s.here * 0x200000 + off) 5).getD 0 0) 0 3) = some dm)
    (h3 : fld ((s.readWords (s.here * 0x200000 + off) 5).getD 0 0) 3 29 = 0) (h48 : fld ((s.readWords (s.here * 0x200000 + off) 5).getD 0 0) 48 16 = 0)
    (hall : kind = .all → (s.readWords (s.here * 0x200000 + off) 5).getD 2 0 = 0 ∧ (s.readWords (s.here * 0x200000 + off) 5).getD 3 0 = 0 ∧
      (s.readWords (s.here * 0x200000 + off) 5).getD 4 0 = 0)
    (hrad : kind = .radius → (s.readWords (s.here * 0x200000 + off) 5).getD 4 0 = 0)
    (hbuf : s.ownBlock ((s.readWords (s.here * 0x200000 + off) 5).getD 1 0) 32 = .ok buf)
    (hend : buf + 32 * fld ((s.readWords (s.here * 0x200000 + off) 5).getD 0 0) 32 16 ≤ 0x180000) :
    let q := issuedQuery s kind dm (s.readWords (s.here * 0x200000 + off) 5) buf nm
    query word kind a b s = .ok (queryStarted (s.completeNone [a.toNat, b.toNat]) s.here { q with path := s.pathOf dm q }) := by
  generalize hws : s.readWords (s.here * 0x200000 + off) 5 = ws at *
  have hws' : s.readWords (spadKey s.here off) 5 = ws := hws
  have hoff' : ¬ Config.spadSize < off + 40 := Nat.not_lt.mpr hoff
  have hend' : ¬ Config.spadSize < buf + 32 * fld (ws.getD 0 0) 32 16 := Nat.not_lt.mpr hend
  have hlegal : ¬ (fld (ws.getD 0 0) 3 29 ≠ 0 ∨ fld (ws.getD 0 0) 48 16 ≠ 0 ∨ (kind = .all ∧ (ws.getD 2 0 ≠ 0 ∨ ws.getD 3 0 ≠ 0 ∨ ws.getD 4 0 ≠ 0)) ∨
      (kind = .radius ∧ ws.getD 4 0 ≠ 0)) := by
    rintro (h | h | ⟨hk, h⟩ | ⟨hk, h⟩)
    · exact h h3
    · exact h h48
    · obtain ⟨h2, h3, h4⟩ := hall hk
      exact h.elim (· h2) (·.elim (· h3) (· h4))
    · exact h (hrad hk)
  have harg : arg [blk, nm] 0 = blk ∧ arg [blk, nm] 1 = nm := ⟨rfl, rfl⟩
  simp only [query, hv, harg.1, harg.2, hblk, hoff', hn, hws', hdm, hlegal, hbuf, hend', Bool.not_true, Bool.false_eq_true, if_false]
  rfl

/-! ### RDOM (R334) -/

theorem exec_rdom_user {d a : RegCode} {s : State} (h : s.me.mode = 0) : exec (.rdom d a) s = .next (s.takeTrap s.cur 0x0D (Instr.rdom d a).word) := by
  show s.finish (rdom _ d a s) = _
  rw [rdom, if_pos h]
  rfl

/-- The descriptor of a destroy that the words of a block describe. -/
def destroyed (ws : List Word) : Domain := { ctx := fld (ws.getD 5 0) 32 9, dom := fld (ws.getD 5 0) 48 3, words := ws, table := [] }

theorem exec_rdom_destroy {d a : RegCode} {s : State} {x : Word} {off : Nat} (hm : s.me.mode ≠ 0) (hcod : s.me.codelet = false)
    (ho : s.operands (Instr.rdom d a).word [a.toNat] [d.toNat] = .ok [x]) (hb : s.ownBlock x 8 = .ok off) (hoff : off + 80 ≤ 0x180000)
    (hd : s.destReady d.toNat = .ok ()) (hst : s.me.st = 0) (hbit : bitAt ((s.readWords (s.here * 0x200000 + off) 10).getD 5 0) 63 = false) :
    exec (.rdom d a) s = .next (s.rdomSend d.toNat (destroyed (s.readWords (s.here * 0x200000 + off) 10)) false [a.toNat]) := by
  have hbit' : bitAt ((s.readWords (spadKey s.here off) 10).getD 5 0) 63 = false := hbit
  have hoff' : ¬ Config.spadSize < off + 80 := Nat.not_lt.mpr hoff
  have harg : arg [x] 0 = x := rfl
  show s.finish (rdom _ d a s) = _
  simp only [rdom, hm, ho, harg, hb, hoff', hbit', Bool.false_and, Bool.false_eq_true, if_false, hcod, hd, hst, ne_eq, not_true_eq_false, finish_ok]
  rfl

/-- The on-line cores. -/
def State.onLine (s : State) : List Nat := (List.range 1280).filter fun c => !s.isOffline c

theorem State.onLine_eq (s : State) : (List.range 1280).filter (fun c => !s.isOffline c) = s.onLine := rfl

/-- A destroy's descriptor is sent to every on-line core, and the thread waits for their answers (R334). -/
theorem State.rdomSend_destroy (s : State) (reg : Nat) (dm : Domain) (srcs : List Nat) :
    let t := s.rdomSend reg dm false srcs
    let o : RdomOp := { id := s.nextId, uid := s.me.uid, reg := reg, code := s.rdomCode dm false, pending := s.onLine.length }
    t.me.phase = .parked ∧ t.me.pc = s.me.pc ∧ t.mem = s.mem ∧ t.rdoms = s.rdoms ++ [o] ∧
      Sends s t (s.onLine.map fun c => (.core c, .domain s.nextId (s.numbered s.nextId dm false) false o.code)) := by
  intro t o
  obtain ⟨s1, hs1, hnet, hslots, hcur, hmem, hrdoms⟩ : ∃ s1 : State,
      t = (s1.sendEach (.core s.here) dm.ctx s.onLine (.domain s.nextId (s.numbered s.nextId dm false) false o.code)).waitFor s.nextId (.core s.here) 0
        false false srcs ∧ s1.net = s.net ∧ s1.slots = s.slots ∧ s1.cur = s.cur ∧ s1.mem = s.mem ∧ s1.rdoms = s.rdoms ++ [o] :=
    ⟨_, rfl, rfl, rfl, rfl, rfl, rfl⟩
  have hon := sendEach_onlySends s1 (.core s.here) dm.ctx s.onLine (.domain s.nextId (s.numbered s.nextId dm false) false o.code)
  have hsends := sendEach_sends s1 (.core s.here) dm.ctx s.onLine (.domain s.nextId (s.numbered s.nextId dm false) false o.code)
  generalize s1.sendEach (.core s.here) dm.ctx s.onLine (.domain s.nextId (s.numbered s.nextId dm false) false o.code) = s2 at *
  have hme : s2.me = s.me := by rw [hon]; exact me_of_slots hslots hcur
  obtain ⟨w, hw⟩ := waitFor_me s2 s.nextId (.core s.here) 0 false false srcs
  rw [hme] at hw
  rw [hs1]
  refine ⟨by rw [hw], by rw [hw], ?_, ?_, sends_of_net hnet hsends⟩
  · rw [waitFor_mem, hon]; exact hmem
  · show s2.rdoms = _
    rw [hon]; exact hrdoms

/-- Settles O49: an operation past its checks is asked for elsewhere or at the own unit; a query starts along its path; a destroy goes to every core. -/
theorem regionOperationsAreIssued : Obligations.RegionOperationsAreIssued := by
  unfold Obligations.RegionOperationsAreIssued
  refine ⟨?record, ?handle, ?query, fun d a s h => exec_rdom_user h, ?destroy⟩
  case record =>
    intro d a b s p hp vs dm t off hv h buf hb ht
    obtain ⟨b', hsrc, hx⟩ := exec_record d a b s p hp
    rw [hsrc] at hv ⊢
    refine ⟨fun hld => ?_, fun hld hd => ⟨fun s1 hc hw _ hq => ?_, fun hc hw _ => ?_⟩⟩
    · rw [hx, record_forfeits hv hb ht hld, finish_error, stop_forfeit]
    · rw [hx, record_away hv hb ht hld hd hc hq, finish_ok]
      obtain ⟨hnet, hmem, hld', htouch, hregs, hreg, hpc⟩ := asked_isAsked (requestAs_sameThread hq) hw (recordSources p.2.1 a b')
      exact ⟨_, rfl, hnet, hmem, hld', htouch, hregs, hreg, hpc⟩
    · rw [hx, record_own hv hb ht hld hd hc, finish_ok]
      have hcur : (asked s (recordSources p.2.1 a b') d.toNat).cur = s.cur := by
        rw [asked, advance_cur, awaitDest_frame, consume_cur, modMe_cur]
      obtain ⟨w, hw'⟩ := awaitDest_me ((s.modMe fun sl => { sl with ld := sl.ld + 1 }).consume (recordSources p.2.1 a b')) d.toNat
      have huid : (asked s (recordSources p.2.1 a b') d.toNat).me.uid = s.me.uid := by
        rw [asked, advance_me, hw', consume_me, me_modMe]
        rfl
      obtain ⟨y, ⟨hnet, hmem, hld', htouch, hregs, hreg, hpc⟩, hy⟩ :=
        recordLocal_isAsked (asked_isAsked (.refl s) hw (recordSources p.2.1 a b')) hcur huid (issuedOp s p.2.1 dm h off d.toNat)
      exact ⟨_, rfl, ⟨y, hnet, hy⟩, hmem, hld', htouch, hregs, hreg, hpc⟩
  case handle =>
    intro d a b s p hp hop vs hv hh
    obtain ⟨b', hsrc, hx⟩ := exec_record d a b s p hp
    rw [hsrc] at hv
    rw [hx, record_badHandle hv hop hh, finish_error, stop_trap]
  case query =>
    intro a b s blk nm off buf dm p hp hv hblk hoff hn ws w0 hdm h3 h48 hall hrad hbuf hend q q1
    have hx : exec p.1 s = .next (queryStarted (s.completeNone [a.toNat, b.toNat]) s.here q1) := by
      rw [exec_query a b s p hp, query_legal hv hblk hoff hn hdm h3 h48 hall hrad hbuf hend, finish_ok]
      rfl
    refine ⟨fun hnil => ?_, fun t l hcons hq => ?_⟩
    · rw [hx, queryStarted, hnil]
    · have hstart : queryStarted (s.completeNone [a.toNat, b.toNat]) s.here q1 = s.advance.unitSend s.here t 0 q1.ctx false (.arm q1 0) := by
        rw [queryStarted, hcons, State.completeNone, consume_none s _ hq]
      rw [hx, hstart]
      have hme : (s.advance.unitSend s.here t 0 q1.ctx false (.arm q1 0)).me = s.me.advance := advance_me s
      refine ⟨_, rfl, ⟨[_], rfl, rfl⟩, rfl, rfl, rfl, ?_, ?_, fun hl => ?_⟩
      · rw [hme]; rfl
      · rw [hme]; rfl
      · rw [hme]; exact congrArg Slot.pc (Slot.advance_straight _ hl)
  case destroy =>
    intro d a s x off hm hcod ho hb hoff hd hst ws dm hbit
    rw [exec_rdom_destroy hm hcod ho hb hoff hd hst hbit]
    obtain ⟨hphase, hpc, hmem, hrdoms, hsends⟩ := rdomSend_destroy s d.toNat dm [a.toNat]
    rw [onLine_eq]
    refine ⟨_, _, rfl, hphase, hpc, hmem, hrdoms, rfl, rfl, rfl, ?_, hsends⟩
    dsimp only

end Sys2Proof.Machine

/-! ## Records that move between owners (O51) -/

namespace Sys2Proof.Machine

open State Sys2Proof.Claims

/-! ### Fields beside a replaced one -/

/-- A field below a replaced one is kept. -/
theorem fld_setFld_below (x : Word) {lo w v j k : Nat} (h : lo ≤ 64) (hj : j + k ≤ lo) : fld (setFld x lo w v) j k = fld x j k := by
  have hlow : (setFld x lo w v).toNat % 2 ^ lo = x.toNat % 2 ^ lo := by
    rw [setFld_eq, ofNat, BitVec.toNat_ofNat, Nat.mod_mod_of_dvd _ (Nat.pow_dvd_pow 2 h), Nat.pow_add, Nat.mul_comm (2 ^ lo), ← Nat.mul_assoc, ← Nat.add_mul,
      Nat.mul_comm, Nat.mul_add_mod, Nat.mod_mod]
  have hfld (y : Word) : fld y j k = y.toNat % 2 ^ lo / 2 ^ j % 2 ^ k := by
    have hin := fld_inside y 0 hj
    rw [fld_eq_div_mod y 0 lo, Nat.pow_zero, Nat.div_one, Nat.zero_add] at hin
    exact hin
  rw [hfld, hlow, ← hfld]

/-- A field anywhere above a replaced one is kept. -/
theorem fld_setFld_beyond (x : Word) {lo w v j k : Nat} (h : lo + w ≤ j) (hj : j + k ≤ 64) : fld (setFld x lo w v) j k = fld x j k := by
  have hin (y : Word) : fld y j k = fld y (lo + w) (j + k - (lo + w)) / 2 ^ (j - (lo + w)) % 2 ^ k := by
    have := fld_inside y (lo + w) (w := j + k - (lo + w)) (j := j - (lo + w)) (k := k) (by omega)
    rwa [Nat.add_sub_cancel' h] at this
  rw [hin, fld_setFld_above x lo _ (by omega), ← hin]

/-! ### Bytes of a pool slot (R331) -/

theorem State.setRecordState_byte_ne (s : State) {key k : Nat} (v : Nat) (h : k ≠ key + 20) : (s.setRecordState key v).mem.byte k = s.mem.byte k := by
  rw [State.setRecordState, write_byte_one, if_neg h]

theorem State.setRecordState_is (s : State) (c : Nat) (d : Domain) (i : Nat) {v : Nat} (h : v < 8) :
    RecordIs (s.setRecordState (poolPlace c d i) v) c d i v := by
  have hb := (s.mem.byte (poolPlace c d i + 20)).isLt
  rw [RecordIs, State.setRecordState, write_byte_one, if_pos rfl, State.read, Memory.readN_one, BitVec.toNat_ofNat]
  omega

theorem State.freeRecord_is (s : State) (c : Nat) (d : Domain) (i : Nat) : RecordIs (s.freeRecord (poolPlace c d i)) c d i 0 := by
  have hb : (s.freeRecord (poolPlace c d i)).mem.byte (poolPlace c d i + 20) = 0 := by
    rw [State.freeRecord, write_mem]
    simpa using Memory.byte_writeN_inside s.mem (poolPlace c d i + 20) 4 0 0 (by omega)
  rw [RecordIs, hb]
  rfl

theorem State.recordState_eq (s : State) (c : Nat) (d : Domain) (i : Nat) :
    s.recordState (poolKey c d i) = (s.mem.byte (poolPlace c d i + 20)).toNat % 8 := by
  rw [State.recordState, State.read, Memory.readN_one]
  rfl

theorem recordIs_of_mem {s t : State} {c : Nat} {d : Domain} {i v : Nat} (h : RecordIs s c d i v) (hm : t.mem = s.mem) : RecordIs t c d i v := by
  rw [RecordIs, hm]
  exact h

/-- The bytes of a list of bytes that were written are read back. -/
theorem State.writeBytes_byte_inside (s : State) (key : Nat) {data : List Nat} (hd : ∀ b ∈ data, b < 256) {k : Nat} (hk : k < data.length) :
    ((s.writeBytes key data []).mem.byte (key + k)).toNat = data.getD k 0 := by
  have hlt : data.getD k 0 < 256 := by
    rw [List.getD_eq_getElem _ _ hk]
    exact hd _ (List.getElem_mem hk)
  rw [writeBytes_byte, if_pos (by omega), Nat.add_sub_cancel_left, BitVec.toNat_ofNat]
  exact Nat.mod_eq_of_lt hlt

theorem State.writeBytes_byte_outside (s : State) {key : Nat} (data : List Nat) {k : Nat} (hk : k < key ∨ key + data.length ≤ k) :
    (s.writeBytes key data []).mem.byte k = s.mem.byte k := by
  rw [writeBytes_byte, if_neg (by omega)]

@[simp] theorem State.writeBytes_net (s : State) (key : Nat) (data : List Nat) : (s.writeBytes key data []).net = s.net := by
  have h := s.writeBytes_onlyData key data
  rw [OnlyData] at h
  rw [h]

theorem State.writeBytes_cores (s : State) (key : Nat) (data : List Nat) : (s.writeBytes key data []).cores = s.cores :=
  foldl_keeps State.cores _ (fun _ _ _ => write_cores ..) s

@[simp] theorem State.setRecordState_net (s : State) (key v : Nat) : (s.setRecordState key v).net = s.net := write_net ..

theorem State.setRecordState_write_cores (s : State) (key v : Nat) : ((s.setRecordState key 1).write (key + 24) 4 v).cores = s.cores := by
  rw [write_cores, State.setRecordState, write_cores]

/-! ### Home entries (R333) -/

/-- A home entry takes the new owner and pool index, and keeps its other bits (R333). -/
theorem State.moveEntry_fields (s : State) (c : Nat) (d : Domain) (e ord j : Nat) :
    let w := (s.moveEntry c d e ord j).read64 (homeKey c d e)
    fld w 0 16 = ord % 2 ^ 16 ∧ fld w 16 12 = j % 2 ^ 12 ∧ fld w 28 36 = fld (s.read64 (homeKey c d e)) 28 36 := by
  intro w
  have hw : w = setFld (setFld (s.read64 (homeKey c d e)) 0 16 ord) 16 12 j := read64_write64 ..
  rw [hw]
  refine ⟨?_, fld_setFld _ _ (by decide), ?_⟩
  · rw [fld_setFld_below _ (by decide) (by decide), fld_setFld _ _ (by decide)]
  · rw [fld_setFld_beyond _ (by decide) (by decide), fld_setFld_beyond _ (by decide) (by decide)]

/-- A freed home entry has STATE 0 and the next GEN, and keeps the bits below (R333). -/
theorem State.freeEntryAt_fields (s : State) (c : Nat) (d : Domain) (e : Nat) :
    let w := (s.freeEntryAt c d e).read64 (homeKey c d e)
    let old := s.read64 (homeKey c d e)
    fld w 48 2 = 0 ∧ fld w 32 16 = (fld old 32 16 + 1) % 2 ^ 16 ∧ fld w 0 32 = fld old 0 32 := by
  intro w old
  have hw : w = setFld (setFld old 48 2 0) 32 16 (fld old 32 16 + 1) := read64_write64 ..
  rw [hw]
  refine ⟨?_, fld_setFld _ _ (by decide), ?_⟩
  · rw [fld_setFld_beyond _ (by decide) (by decide), fld_setFld _ _ (by decide)]
    rfl
  · rw [fld_setFld_below _ (by decide) (by decide), fld_setFld_below _ (by decide) (by decide)]

theorem State.write64_sameBut (s : State) (key : Nat) (v : Word) : SameBut s (s.write64 key v) key 8 :=
  fun _ hk => write_byte_outside s _ hk

theorem State.write_sameBut (s : State) (key n v : Nat) : SameBut s (s.write key n v) key n :=
  fun _ hk => write_byte_outside s _ hk

/-! ### What a core knows as a message reaches it -/

/-- A message that reaches its core ungates it and changes nothing else there (R17). -/
theorem State.dropMsg_coreRec_keeps {β : Type} {g : CoreRec → β} (hg : ∀ r b, g { r with gated := b } = g r) (s : State) (m c : Nat) :
    g ((s.dropMsg m).coreRec c) = g (s.coreRec c) := by
  have hrec : (s.dropMsg m).coreRec c = Store.get {} (s.coresReached m) c := rfl
  rw [hrec, State.coresReached]
  split
  · split
    · split
      · rw [Store.get_set]
        split
        next h => subst h; exact hg _ false
        next => rfl
      · rfl
    · rfl
  · rfl

theorem State.coreRec_of_cores {s t : State} (h : t.cores = s.cores) (c : Nat) : t.coreRec c = s.coreRec c := by rw [State.coreRec, h]; rfl

theorem State.dropMsg_domainAt (s : State) (m c i d : Nat) : (s.dropMsg m).domainAt c i d = s.domainAt c i d := by
  rw [State.domainAt, State.domainAt, dropMsg_coreRec_keeps (g := CoreRec.domains) (fun _ _ => rfl)]
  rfl

theorem State.dropMsg_domainOf (s : State) (m c i d g : Nat) : (s.dropMsg m).domainOf c i d g = s.domainOf c i d g := by
  rw [State.domainOf, State.domainOf, dropMsg_domainAt]

theorem State.dropMsg_departures (s : State) (m c : Nat) : ((s.dropMsg m).coreRec c).departures = (s.coreRec c).departures :=
  dropMsg_coreRec_keeps (fun _ _ => rfl) s m c

theorem State.dropMsg_heldOps (s : State) (m c : Nat) : ((s.dropMsg m).coreRec c).heldOps = (s.coreRec c).heldOps :=
  dropMsg_coreRec_keeps (fun _ _ => rfl) s m c

theorem State.dropMsg_arms (s : State) (m c : Nat) : ((s.dropMsg m).coreRec c).arms = (s.coreRec c).arms :=
  dropMsg_coreRec_keeps (fun _ _ => rfl) s m c

/-- The address of a core's first byte. -/
theorem addrOf_zero (c : Nat) : addrOf c 0 = BitVec.ofNat 64 (c % 32 * 2 ^ 32 + c / 32 % 256 * 2 ^ 40) := by
  have hx : c % 32 % 2 ^ 8 = c % 32 := Nat.mod_eq_of_lt (by omega)
  have hp : packNat [(coreY c, 40, 8), (coreX c, 32, 8), (0, 0, 21)] = c % 32 * 2 ^ 32 + c / 32 % 256 * 2 ^ 40 := by
    show c / 32 % 2 ^ 8 * 2 ^ 40 + (c % 32 % 2 ^ 8 * 2 ^ 32 + (0 % 2 ^ 21 * 2 ^ 0 + 0)) = _
    omega
  rw [addrOf, pack_eq_ofNat, hp]
  rfl

/-- The reply to an operation goes to its issuing core (R338, R380). -/
theorem State.regionReply_sends (s : State) (c : Nat) (x : Msg) (r : RegionOp) (v : Word) (cause : Nat) (data : List Nat) :
    Sends s (s.regionReply c x r v cause data) [(.core r.core, .regionReply { r with credit := none } v cause data)] := ⟨[_], rfl, rfl⟩

theorem State.regionReply_onlySends (s : State) (c : Nat) (x : Msg) (r : RegionOp) (v : Word) (cause : Nat) (data : List Nat) :
    OnlySends s (s.regionReply c x r v cause data) := rfl

@[simp] theorem State.regionReply_mem (s : State) (c : Nat) (x : Msg) (r : RegionOp) (v : Word) (cause : Nat) (data : List Nat) :
    (s.regionReply c x r v cause data).mem = s.mem := rfl

@[simp] theorem State.regionReply_cores (s : State) (c : Nat) (x : Msg) (r : RegionOp) (v : Word) (cause : Nat) (data : List Nat) :
    (s.regionReply c x r v cause data).cores = s.cores := rfl

@[simp] theorem State.unitSend_mem (s : State) (c t uid ctx : Nat) (sup : Bool) (b : Body) : (s.unitSend c t uid ctx sup b).mem = s.mem := rfl

@[simp] theorem State.unitSend_cores (s : State) (c t uid ctx : Nat) (sup : Bool) (b : Body) : (s.unitSend c t uid ctx sup b).cores = s.cores := rfl

theorem sameBut_of_mem {s t u : State} {key n : Nat} (h : SameBut s t key n) (hm : u.mem = t.mem) : SameBut s u key n := fun k hk => by rw [hm, h k hk]

/-! ### No work held at a core -/

/-- With no operation held there is none to apply. -/
theorem State.replay_idle {s : State} {c : Nat} (h : (s.coreRec c).heldOps = []) (p : Nat × Msg → Bool) :
    s.replay c p = s.setCore c { s.coreRec c with heldOps := [] } := by
  have hnone : (s.coreRec c).heldOps.filter (fun h => !p h) = [] := by rw [h]; rfl
  rw [State.replay, State.modCore, hnone, h]
  rfl

theorem State.armAll_idle {s : State} {c : Nat} (h : (s.coreRec c).arms = []) : s.armAll c = s.setCore c { s.coreRec c with arms := [] } := by
  rw [State.armAll, h]
  rfl

/-- A departure without its end: what the core's record becomes (R339). -/
def CoreRec.without (r : CoreRec) (i dm idx : Nat) : CoreRec := { r with departures := r.departures.filter fun y => !departing i dm idx y }

/-- With no operation held and no ARM set aside, the end of a departure leaves the core without it, and nothing else changes. -/
theorem State.departed_idle {s : State} {c : Nat} (hh : (s.coreRec c).heldOps = []) (ha : (s.coreRec c).arms = []) (i dm idx : Nat) :
    let t := s.departed c i dm idx
    t.mem = s.mem ∧ t.net = s.net ∧ (t.coreRec c).departures = ((s.coreRec c).without i dm idx).departures := by
  intro t
  have hrec : (s.modCore c fun r => r.without i dm idx).coreRec c = (s.coreRec c).without i dm idx := coreRec_modCore_self ..
  have hreplay := replay_idle (s := s.modCore c fun r => r.without i dm idx) (by rw [hrec]; exact hh) (onSlot idx i dm)
  rw [hrec] at hreplay
  obtain ⟨s2, hs2, hmem, hnet, hrec2⟩ : ∃ s2, (s.modCore c fun r => r.without i dm idx).replay c (onSlot idx i dm) = s2 ∧ s2.mem = s.mem ∧ s2.net = s.net ∧
      s2.coreRec c = { (s.coreRec c).without i dm idx with heldOps := [] } := ⟨_, hreplay, rfl, rfl, coreRec_setCore_self ..⟩
  have ht : t = if (s2.coreRec c).departures.isEmpty then s2.armAll c else s2 := by
    rw [← hs2]
    rfl
  rw [ht]
  split
  · rw [armAll_idle (by rw [hrec2]; exact ha), coreRec_setCore_self, hrec2]
    exact ⟨hmem, hnet, rfl⟩
  · rw [hrec2]
    exact ⟨hmem, hnet, rfl⟩

/-- A pool slot becomes a stub that names slot j of the owner of ordinal ord; the home at core h and that owner at core b are told, and
the operation is answered (R339). -/
def stubbed (s : State) (c b h i key ord j : Nat) (op : Msg) (r : RegionOp) (entry commit : Body) : State :=
  ((((s.write (key + 32) 4 (ord + j * 2 ^ 16)).setRecordState key 4).unitSend c h 0 i true entry).unitSend c b 0 i true commit).regionReply c op r
    (addrOf b 0) 0 []

theorem stubbed_sends (s : State) (c b h i key ord j : Nat) (op : Msg) (r : RegionOp) (entry commit : Body) :
    Sends s (stubbed s c b h i key ord j op r entry commit)
      [(.core h, entry), (.core b, commit), (.core r.core, .regionReply { r with credit := none } (addrOf b 0) 0 [])] := by
  have hnet : ((s.write (key + 32) 4 (ord + j * 2 ^ 16)).setRecordState key 4).net = s.net := (setRecordState_net ..).trans (write_net ..)
  rw [stubbed]
  exact sends_of_net hnet (sends_trans (sends_trans (unitSend_sends _ c h 0 i true entry) (unitSend_sends _ c b 0 i true commit)) (regionReply_sends _ c op r (addrOf b 0) 0 []))

theorem stubbed_cores (s : State) (c b h i key ord j : Nat) (op : Msg) (r : RegionOp) (entry commit : Body) :
    (stubbed s c b h i key ord j op r entry commit).cores = s.cores := by
  rw [stubbed, regionReply_cores, unitSend_cores, unitSend_cores, State.setRecordState, write_cores, write_cores]

theorem stubbed_mem (s : State) (c b h i key ord j : Nat) (op : Msg) (r : RegionOp) (entry commit : Body) :
    (stubbed s c b h i key ord j op r entry commit).mem = ((s.write (key + 32) 4 (ord + j * 2 ^ 16)).setRecordState key 4).mem := by
  rw [stubbed, regionReply_mem, unitSend_mem, unitSend_mem]

/-- The stub's forwarding word (R331). -/
theorem State.stub_readN (s : State) (key : Nat) {ord j : Nat} (ho : ord < 2 ^ 16) (hj : j < 2 ^ 12) :
    ((s.write (key + 32) 4 (ord + j * 2 ^ 16)).setRecordState key 4).mem.readN (key + 32) 4 = ord + j * 2 ^ 16 := by
  rw [State.setRecordState, write_mem, Memory.readN_writeN_disjoint _ _ _ _ _ _ (by omega), write_mem, Memory.readN_writeN_self]
  omega

/-! ### The events -/

section

variable {s : State} {m c a : Nat} {x : Msg} {i dm idx : Nat}

theorem exec_recordMove_installs {data : List Nat} {d : Domain} {j : Nat} (ha : s.arrived m = some x) (hb : x.body = .move i dm idx data)
    (hd : x.dst = .core c) (hs : x.src = .core a) (hdom : s.domainAt c i dm = some d) (hfree : s.freePool c d = some j) :
    exec (.recordMove m) s = .next ((((s.dropMsg m).writeBytes (poolPlace c d j) data []).setRecordState (poolPlace c d j) 3).unitSend c a 0 i true
      (.accept i dm idx (s.ordinalOf d c) j)) := by
  have hfree' : (s.dropMsg m).freePool c d = some j := hfree
  show Host.Outcome.next (recordMove m s) = _
  simp only [recordMove, ha, hb, hd, hs, dropMsg_domainAt, hdom, hfree']
  rfl

theorem exec_recordMove_refused {data : List Nat} (ha : s.arrived m = some x) (hb : x.body = .move i dm idx data) (hd : x.dst = .core c)
    (hs : x.src = .core a) (hno : s.domainAt c i dm = none ∨ ∃ d, s.domainAt c i dm = some d ∧ s.freePool c d = none) :
    exec (.recordMove m) s = .next ((s.dropMsg m).unitSend c a 0 i true (.refuse i dm idx)) := by
  show Host.Outcome.next (recordMove m s) = _
  rcases hno with hno | ⟨d, hdom, hfull⟩
  · simp only [recordMove, ha, hb, hd, hs, dropMsg_domainAt, hno]
  · have hfull' : (s.dropMsg m).freePool c d = none := hfull
    simp only [recordMove, ha, hb, hd, hs, dropMsg_domainAt, hdom, hfull']

theorem exec_recordAccept {ord j b : Nat} {d : Domain} {e : Departure} {r : RegionOp} (ha : s.arrived m = some x) (hb : x.body = .accept i dm idx ord j)
    (hd : x.dst = .core c) (hs : x.src = .core b) (hdom : s.domainAt c i dm = some d) (hdep : (s.coreRec c).departures.find? (departing i dm idx) = some e)
    (hop : heldOp e.op = some r) (hhome : s.ownerAt d (fld (s.read64 (poolPlace c d idx)) 0 32 % (s.owners d).length) ≠ c) :
    let id := fld (s.read64 (poolPlace c d idx)) 0 32
    exec (.recordAccept m) s = .next ((stubbed (s.dropMsg m) c b (s.ownerAt d (id % (s.owners d).length)) i (poolPlace c d idx) ord j e.op r
      (.entry i dm (id / (s.owners d).length % d.hcap) ord j idx) (.commit i dm j)).departed c i dm idx) := by
  have hdep' : ((s.dropMsg m).coreRec c).departures.find? (departing i dm idx) = some e := by rw [dropMsg_departures]; exact hdep
  have hhome' : (s.dropMsg m).ownerAt d (fld ((s.dropMsg m).read64 (poolKey c d idx)) 0 32 % ((s.dropMsg m).owners d).length) ≠ c := hhome
  show Host.Outcome.next (recordAccept m s) = _
  simp only [recordAccept, ha, hb, hd, hs, dropMsg_domainAt, hdom, hdep', hop, if_neg hhome']
  rfl

theorem exec_recordRefuse {d : Domain} {e : Departure} {r : RegionOp} (ha : s.arrived m = some x) (hb : x.body = .refuse i dm idx)
    (hd : x.dst = .core c) (hdom : s.domainAt c i dm = some d) (hdep : (s.coreRec c).departures.find? (departing i dm idx) = some e)
    (hop : heldOp e.op = some r) :
    exec (.recordRefuse m) s = .next (((((s.dropMsg m).writeBytes (poolPlace c d idx + 8) e.old []).setRecordState (poolPlace c d idx) 1).regionReply
      c e.op r 0 0x0B []).departed c i dm idx) := by
  have hdep' : ((s.dropMsg m).coreRec c).departures.find? (departing i dm idx) = some e := by rw [dropMsg_departures]; exact hdep
  show Host.Outcome.next (recordRefuse m s) = _
  simp only [recordRefuse, ha, hb, hd, dropMsg_domainAt, hdom, hdep', hop]
  rfl

theorem exec_recordCommit {j : Nat} {d : Domain} (ha : s.arrived m = some x) (hb : x.body = .commit i dm j) (hd : x.dst = .core c)
    (hdom : s.domainAt c i dm = some d) :
    let key := poolPlace c d j
    exec (.recordCommit m) s = .next ((((s.dropMsg m).setRecordState key 1).write (key + 24) 4 (s.mem.readN (key + 24) 4 + 1)).replay c (onSlot j i dm)) := by
  show Host.Outcome.next (recordCommit m s) = _
  simp only [recordCommit, ha, hb, hd, dropMsg_domainAt, hdom]
  rfl

theorem exec_entryUpdate_entry {e ord j : Nat} {d : Domain} (ha : s.arrived m = some x) (hb : x.body = .entry i dm e ord j idx) (hd : x.dst = .core c)
    (hs : x.src = .core a) (hdom : s.domainAt c i dm = some d) :
    exec (.entryUpdate m) s = .next (((s.dropMsg m).moveEntry c d e ord j).unitSend c a 0 i true (.entryAck i dm idx)) := by
  show Host.Outcome.next (entryUpdate m s) = _
  simp only [entryUpdate, ha, hb, hd, hs, dropMsg_domainAt, hdom]

theorem exec_entryUpdate_ack {d : Domain} (ha : s.arrived m = some x) (hb : x.body = .entryAck i dm idx) (hd : x.dst = .core c)
    (hdom : s.domainAt c i dm = some d) : exec (.entryUpdate m) s = .next ((s.dropMsg m).freeRecord (poolPlace c d idx)) := by
  show Host.Outcome.next (entryUpdate m s) = _
  simp only [entryUpdate, ha, hb, hd, dropMsg_domainAt, hdom]
  rfl

theorem exec_entryUpdate_free {r : RegionOp} {e : Nat} {d : Domain} (ha : s.arrived m = some x) (hb : x.body = .entryFree r e) (hd : x.dst = .core c)
    (hs : x.src = .core a) (hdom : s.domainOf c r.ctx r.dom r.gen = some d) :
    exec (.entryUpdate m) s = .next (((s.dropMsg m).freeEntryAt c d e).unitSend c a x.uid x.ctx x.sup (.entryFreed r 0)) := by
  show Host.Outcome.next (entryUpdate m s) = _
  simp only [entryUpdate, ha, hb, hd, hs, dropMsg_domainOf, hdom]

theorem exec_entryUpdate_gone {r : RegionOp} {e : Nat} (ha : s.arrived m = some x) (hb : x.body = .entryFree r e) (hd : x.dst = .core c)
    (hs : x.src = .core a) (hdom : s.domainOf c r.ctx r.dom r.gen = none) :
    exec (.entryUpdate m) s = .next ((s.dropMsg m).unitSend c a x.uid x.ctx x.sup (.entryFreed r 0x0A)) := by
  show Host.Outcome.next (entryUpdate m s) = _
  simp only [entryUpdate, ha, hb, hd, hs, dropMsg_domainOf, hdom]

theorem exec_entryUpdate_freed {r : RegionOp} {cause : Nat} (ha : s.arrived m = some x) (hb : x.body = .entryFreed r cause) (hd : x.dst = .core c) :
    exec (.entryUpdate m) s = .next ((s.dropMsg m).regionReply c x r (if cause = 0 then addrOf c 0 else 0) cause []) := by
  show Host.Outcome.next (entryUpdate m s) = _
  simp only [entryUpdate, ha, hb, hd]

end

/-- Settles O51: each message of a move is taken as R339 says, the home's entry follows, and an RDEL's freed entry is acknowledged. -/
theorem recordsMoveBetweenOwners : Obligations.RecordsMoveBetweenOwners := by
  unfold Obligations.RecordsMoveBetweenOwners
  refine ⟨?move, ?accept, ?refuse, ?commit, ?entry, ?ack, ?free, ?gone, ?freed⟩
  case move =>
    intro s m x i dm idx data c a ha hb hd hs
    refine ⟨fun d j hdom hfree hlen hbytes => ?_, fun hno => ?_⟩
    · have hmem := unitSend_mem (((s.dropMsg m).writeBytes (poolPlace c d j) data []).setRecordState (poolPlace c d j) 3) c a 0 i true
        (.accept i dm idx (s.ordinalOf d c) j)
      refine ⟨_, exec_recordMove_installs ha hb hd hs hdom hfree, recordIs_of_mem (setRecordState_is _ c d j (by decide)) hmem, fun k hk h20 => ?_, fun k hk => ?_,
        sends_of_net ((setRecordState_net ..).trans (writeBytes_net ..)) (unitSend_sends ..)⟩
      · rw [hmem, setRecordState_byte_ne _ _ (by omega)]
        exact writeBytes_byte_inside _ _ hbytes (by omega)
      · rw [hmem, setRecordState_byte_ne _ _ (by omega)]
        exact writeBytes_byte_outside _ _ (by rw [hlen]; exact hk)
    · exact ⟨_, exec_recordMove_refused ha hb hd hs hno, rfl, unitSend_sends ..⟩
  case accept =>
    intro s m x i dm idx ord j c b d e r ha hb hd hs hdom hdep hop hheld harms id n h hh ho hj
    let t := stubbed (s.dropMsg m) c b h i (poolPlace c d idx) ord j e.op r (.entry i dm (id / n % d.hcap) ord j idx) (.commit i dm j)
    have hrec : t.coreRec c = (s.dropMsg m).coreRec c := coreRec_of_cores (stubbed_cores ..) c
    obtain ⟨hmem, hnet, hdeps⟩ := departed_idle (s := t) (by rw [hrec, dropMsg_heldOps, hheld]) (by rw [hrec, dropMsg_arms, harms]) i dm idx
    refine ⟨_, exec_recordAccept ha hb hd hs hdom hdep hop hh, recordIs_of_mem (setRecordState_is _ c d idx (by decide)) (hmem.trans (stubbed_mem ..)),
      by rw [hmem, stubbed_mem, stub_readN _ _ ho hj], by rw [hdeps, hrec, CoreRec.without, dropMsg_departures], ?_⟩
    obtain ⟨ms, hms, hl⟩ := stubbed_sends (s.dropMsg m) c b h i (poolPlace c d idx) ord j e.op r (.entry i dm (id / n % d.hcap) ord j idx) (.commit i dm j)
    exact ⟨ms, hnet.trans hms, by rw [hl, addrOf_zero]⟩
  case refuse =>
    intro s m x i dm idx c d e r ha hb hd hdom hdep hop hheld harms hlen hbytes
    have hcores : ((((s.dropMsg m).writeBytes (poolPlace c d idx + 8) e.old []).setRecordState (poolPlace c d idx) 1).regionReply c e.op r 0 0x0B []).cores =
        (s.dropMsg m).cores := by rw [regionReply_cores, State.setRecordState, write_cores, writeBytes_cores]
    have hrec := coreRec_of_cores hcores c
    obtain ⟨hmem, hnet, -⟩ := departed_idle (by rw [hrec, dropMsg_heldOps, hheld]) (by rw [hrec, dropMsg_arms, harms]) i dm idx
    rw [regionReply_mem] at hmem
    refine ⟨_, exec_recordRefuse ha hb hd hdom hdep hop, recordIs_of_mem (setRecordState_is _ c d idx (by decide)) hmem, fun k hk => ?_, ?_⟩
    · rw [hmem, setRecordState_byte_ne _ _ (by omega)]
      exact writeBytes_byte_inside _ _ hbytes hk
    · obtain ⟨ms, hms, hl⟩ := sends_of_net ((setRecordState_net ..).trans (writeBytes_net ..))
        (regionReply_sends (((s.dropMsg m).writeBytes (poolPlace c d idx + 8) e.old []).setRecordState (poolPlace c d idx) 1) c e.op r 0 0x0B [])
      exact ⟨ms, hnet.trans hms, hl⟩
  case commit =>
    intro s m x i dm j c d ha hb hd hdom hheld
    have hcores := State.setRecordState_write_cores (s.dropMsg m) (poolPlace c d j) (s.mem.readN (poolPlace c d j + 24) 4 + 1)
    have hx := (exec_recordCommit ha hb hd hdom).trans
      (congrArg Host.Outcome.next (replay_idle (by rw [coreRec_of_cores hcores, dropMsg_heldOps, hheld]) (onSlot j i dm)))
    refine ⟨_, hx, ?_, ?_, ?_⟩
    · rw [RecordIs, setCore_mem, write_byte_outside _ _ (by omega)]
      exact setRecordState_is (s.dropMsg m) c d j (by decide)
    · rw [setCore_mem, write_mem, Memory.readN_writeN_self, show 256 ^ 4 = 2 ^ 32 from rfl]
    · rw [setCore_net, write_net, setRecordState_net]
  case entry =>
    intro s m x i dm e ord j idx c a d ha hb hd hs hdom k
    obtain ⟨hown, hidx, hrest⟩ := (s.dropMsg m).moveEntry_fields c d e ord j
    have hmem := unitSend_mem ((s.dropMsg m).moveEntry c d e ord j) c a 0 i true (.entryAck i dm idx)
    have hread := read64_of_mem hmem (homeKey c d e)
    rw [← hread] at hown hidx hrest
    exact ⟨_, exec_entryUpdate_entry ha hb hd hs hdom, hown, hidx, hrest, sameBut_of_mem (write64_sameBut (s.dropMsg m) _ _) hmem,
      sends_of_net (write_net ..) (unitSend_sends ..)⟩
  case ack =>
    intro s m x i dm idx c d ha hb hd hdom
    exact ⟨_, exec_entryUpdate_ack ha hb hd hdom, freeRecord_is .., write_sameBut (s.dropMsg m) _ _ _, write_net ..⟩
  case free =>
    intro s m x r e c a d ha hb hd hs hdom k
    obtain ⟨hstate, hgen, hlow⟩ := (s.dropMsg m).freeEntryAt_fields c d e
    have hmem := unitSend_mem ((s.dropMsg m).freeEntryAt c d e) c a x.uid x.ctx x.sup (.entryFreed r 0)
    have hread := read64_of_mem hmem (homeKey c d e)
    rw [← hread] at hstate hgen hlow
    exact ⟨_, exec_entryUpdate_free ha hb hd hs hdom, hstate, hgen, hlow, sameBut_of_mem (write64_sameBut (s.dropMsg m) _ _) hmem,
      sends_of_net (write_net ..) (unitSend_sends ..)⟩
  case gone =>
    intro s m x r e c a ha hb hd hs hdom
    exact ⟨_, exec_entryUpdate_gone ha hb hd hs hdom, rfl, unitSend_sends ..⟩
  case freed =>
    intro s m x r c cause ha hb hd
    rw [← addrOf_zero]
    exact ⟨_, exec_entryUpdate_freed ha hb hd, rfl, regionReply_sends ..⟩

end Sys2Proof.Machine

/-! ## Records inserted, read and written (O50) -/

namespace Sys2Proof.Machine

open State Sys2Proof.Claims

/-! ### An operation at a pool slot (R337) -/

/-- An operation that waits at a pool slot (R339). -/
def State.held (s : State) (c i : Nat) (x : Msg) : State := s.modCore c fun k => { k with heldOps := k.heldOps ++ [(i, x)] }

theorem State.held_heldOps (s : State) (c i : Nat) (x : Msg) : ((s.held c i x).coreRec c).heldOps = (s.coreRec c).heldOps ++ [(i, x)] := by
  rw [State.held, coreRec_modCore_self]

/-- A record that leaves: its slot takes the new position and is DEPARTING, and the core remembers the old position (R339). -/
def leaving (s : State) (c i : Nat) (x : Msg) (r : RegionOp) (key : Nat) : State :=
  ((s.writeBytes (key + 8) r.data []).setRecordState key 2).modCore c fun k =>
    { k with departures := k.departures ++ [{ ctx := r.ctx, dom := r.dom, idx := i, old := s.readBytes (key + 8) 12, op := x }] }

theorem leaving_mem (s : State) (c i : Nat) (x : Msg) (r : RegionOp) (key : Nat) :
    (leaving s c i x r key).mem = ((s.writeBytes (key + 8) r.data []).setRecordState key 2).mem := by rw [leaving, State.modCore, setCore_mem]

theorem leaving_net (s : State) (c i : Nat) (x : Msg) (r : RegionOp) (key : Nat) : (leaving s c i x r key).net = s.net := by
  rw [leaving, State.modCore, setCore_net, setRecordState_net, writeBytes_net]

theorem State.readBytes_of_mem {s t : State} (h : t.mem = s.mem) (key n : Nat) : t.readBytes key n = s.readBytes key n := by
  rw [State.readBytes, State.readBytes, h]

section

variable {s : State} {c i : Nat} {d : Domain} {x : Msg} {r : RegionOp} (hdom : s.domainOf c r.ctx r.dom r.gen = some d)
include hdom

theorem recordApply_rld (hs : s.recordState (poolKey c d i) = 1) (hop : r.op = .rld) :
    s.recordApply c x r i = s.regionReply c x r (addrOf c 0) 0 (s.readBytes (poolPlace c d i) 128) := by
  simp only [recordApply, hdom, hs, hop]
  rfl

theorem recordApply_rst (hs : s.recordState (poolKey c d i) = 1) (hop : r.op = .rst) :
    s.recordApply c x r i = (s.writeBytes (poolPlace c d i + 32) r.data []).regionReply c x r (addrOf c 0) 0 [] := by
  simp only [recordApply, hdom, hs, hop]
  rfl

theorem recordApply_rpos (hs : s.recordState (poolKey c d i) = 1) (hop : r.op = .rpos) :
    let t := s.ownerOf d (elementOf r.data 4 0) (elementOf r.data 4 1) (elementOf r.data 4 2)
    let y := leaving s c i x r (poolPlace c d i)
    s.recordApply c x r i =
      if t = c then (s.writeBytes (poolPlace c d i + 8) r.data []).regionReply c x r (addrOf c 0) 0 []
      else if (s.coreRec c).armed ≠ 0 then s.held c i x
      else y.unitSend c t 0 r.ctx true (.move r.ctx r.dom i (y.readBytes (poolPlace c d i) 128)) := by
  simp only [recordApply, hdom, hs, hop]
  rfl

theorem recordApply_rdel (hs : s.recordState (poolKey c d i) = 1) (hop : r.op = .rdel) :
    let id := fld (s.read64 (poolPlace c d i)) 0 32
    let n := (s.owners d).length
    let h := s.ownerAt d (id % n)
    h ≠ c → s.recordApply c x r i = (s.freeRecord (poolPlace c d i)).unitSend c h x.uid x.ctx x.sup (.entryFree r (id / n % d.hcap)) := by
  intro id n h hh
  have hh' : ¬ s.ownerAt d (fld (s.read64 (poolKey c d i)) 0 32 % (s.owners d).length) = c := hh
  simp only [recordApply, hdom, hs, hop, if_neg hh']
  rfl

theorem recordApply_free (hs : s.recordState (poolKey c d i) = 0) : s.recordApply c x r i = s.regionReply c x r 0 0x0A [] := by
  simp only [recordApply, hdom, hs]

theorem recordApply_held (hs : s.recordState (poolKey c d i) = 2 ∨ s.recordState (poolKey c d i) = 3) : s.recordApply c x r i = s.held c i x := by
  rcases hs with hs | hs
  · simp only [recordApply, hdom, hs]
    rfl
  · simp only [recordApply, hdom, hs]
    rfl

theorem recordApply_stub (hs : s.recordState (poolKey c d i) = 4) :
    let f := s.mem.readN (poolPlace c d i + 32) 4
    s.recordApply c x r i = s.unitSend c (s.ownerAt d (f % 2 ^ 16 % (s.owners d).length)) x.uid x.ctx x.sup
      (.region r (some (f / 2 ^ 16 % 2 ^ 12 % d.cap))) := by
  simp only [recordApply, hdom, hs]
  rfl

end

/-! ### The bytes of an inserted record (R330, R337) -/

theorem holdsBytes_append {t : State} {key : Nat} {l k : List Nat} : HoldsBytes t key (l ++ k) ↔ HoldsBytes t key l ∧ HoldsBytes t (key + l.length) k := by
  constructor
  · refine fun h => ⟨fun i hi => ?_, fun i hi => ?_⟩
    · rw [h i (by rw [List.length_append]; omega), List.getD_append _ _ _ _ hi]
    · rw [Nat.add_assoc, h (l.length + i) (by rw [List.length_append]; omega), List.getD_append_right _ _ _ _ (by omega), Nat.add_sub_cancel_left]
  · intro ⟨hl, hk⟩ i hi
    rw [List.length_append] at hi
    by_cases h : i < l.length
    · rw [hl i h, List.getD_append _ _ _ _ h]
    · have hi' := hk (i - l.length) (by omega)
      rw [show key + l.length + (i - l.length) = key + i by omega] at hi'
      rw [hi', List.getD_append_right _ _ _ _ (by omega)]

theorem State.writeBytes_holds (s : State) (key : Nat) {data : List Nat} (hd : ∀ b ∈ data, b < 256) : HoldsBytes (s.writeBytes key data []) key data :=
  fun _ hk => writeBytes_byte_inside s key hd hk

theorem holdsBytes_congr {s t : State} {key : Nat} {l : List Nat} (h : HoldsBytes s key l) (hb : ∀ i, i < l.length → t.mem.byte (key + i) = s.mem.byte (key + i)) :
    HoldsBytes t key l := fun i hi => by rw [hb i hi, h i hi]

theorem holdsBytes_of_mem {s t : State} {key : Nat} {l : List Nat} (h : HoldsBytes s key l) (hm : t.mem = s.mem) : HoldsBytes t key l :=
  holdsBytes_congr h fun _ _ => by rw [hm]

theorem State.read64_congr {s t : State} {key : Nat} (h : ∀ k, k < 8 → t.mem.byte (key + k) = s.mem.byte (key + k)) : t.read64 key = s.read64 key := by
  rw [State.read64, State.read64, State.read, State.read, Memory.readN_congr _ _ _ _ h]

/-- Bytes 8 to 127 of an inserted record, of its image (R337). -/
def insertedBytes (data : List Nat) : List Nat :=
  (data.drop 8).take 12 ++ [1, 0] ++ (data.drop 22).take 2 ++ List.replicate 8 0 ++ (data.drop 32).take 96

theorem insertedBytes_eq {data : List Nat} (h : data.length = 128) : insertedBytes data =
    (data.drop 8).take 12 ++ ([1, 0, data.getD 22 0, data.getD 23 0, 0, 0, 0, 0] ++ ([0, 0, 0, 0] ++ data.drop 32)) := by
  have hflags : (data.drop 22).take 2 = [data.getD 22 0, data.getD 23 0] := by
    rw [List.drop_eq_getElem_cons (by omega), List.drop_eq_getElem_cons (by omega), List.getD_eq_getElem _ _ (by omega), List.getD_eq_getElem _ _ (by omega)]
    rfl
  have hpayload : (data.drop 32).take 96 = data.drop 32 := List.take_of_length_le (by rw [List.length_drop]; omega)
  rw [insertedBytes, hflags, hpayload, List.append_assoc, List.append_assoc, List.append_assoc]
  rfl

theorem insertedBytes_lt {data : List Nat} (h : ∀ b ∈ data, b < 256) : ∀ b ∈ insertedBytes data, b < 256 := by
  intro b hb
  simp only [insertedBytes, List.mem_append, List.mem_cons, List.not_mem_nil, or_false, List.mem_replicate] at hb
  rcases hb with (((hb | rfl | rfl) | hb) | ⟨-, rfl⟩) | hb
  · exact h b (List.mem_of_mem_drop (List.mem_of_mem_take hb))
  · decide
  · decide
  · exact h b (List.mem_of_mem_drop (List.mem_of_mem_take hb))
  · decide
  · exact h b (List.mem_of_mem_drop (List.mem_of_mem_take hb))

/-- A record of handle h at a pool slot, and its home entry w. -/
def State.insertRecord (s : State) (key home : Nat) (h w : Word) (data : List Nat) : State :=
  ((s.write64 key h).writeBytes (key + 8) (insertedBytes data) []).write64 home w

theorem State.insertRecord_net (s : State) (key home : Nat) (h w : Word) (data : List Nat) : (s.insertRecord key home h w data).net = s.net := by
  rw [State.insertRecord, State.write64, write_net, writeBytes_net, State.write64, write_net]

theorem State.insertRecord_is (s : State) {key home : Nat} (h w : Word) {data : List Nat} (hlen : data.length = 128) (hb : ∀ b ∈ data, b < 256)
    (hd : home + 8 ≤ key ∨ key + 128 ≤ home) :
    let t := s.insertRecord key home h w data
    t.read64 key = h ∧ t.read64 home = w ∧ HoldsBytes t (key + 8) ((data.drop 8).take 12) ∧
      HoldsBytes t (key + 20) [1, 0, data.getD 22 0, data.getD 23 0, 0, 0, 0, 0] ∧ HoldsBytes t (key + 32) (data.drop 32) := by
  intro t
  have himage : (insertedBytes data).length = 120 := by
    rw [insertedBytes_eq hlen]
    simp only [List.length_append, List.length_take, List.length_drop, List.length_cons, List.length_nil, hlen]
    rfl
  have hslot (k : Nat) (hk : key ≤ k) (hk' : k < key + 128) : t.mem.byte k = ((s.write64 key h).writeBytes (key + 8) (insertedBytes data) []).mem.byte k :=
    write_byte_outside _ _ (by omega)
  have hall := holdsBytes_congr (t := t) ((s.write64 key h).writeBytes_holds (key + 8) (insertedBytes_lt hb)) fun i hi => hslot _ (by omega) (by omega)
  have htwelve : ((data.drop 8).take 12).length = 12 := by rw [List.length_take, List.length_drop, hlen]; rfl
  rw [insertedBytes_eq hlen, holdsBytes_append, holdsBytes_append, holdsBytes_append, htwelve] at hall
  obtain ⟨hpos, hstate, -, hpayload⟩ := hall
  refine ⟨?_, read64_write64 .., hpos, hstate, hpayload⟩
  calc t.read64 key = (s.write64 key h).read64 key := read64_congr fun k hk => by
        rw [hslot _ (by omega) (by omega), writeBytes_byte_outside _ _ (by omega)]
    _ = h := read64_write64 ..

/-- A handle's kind and format in one field of bits 63:56. -/
theorem pack_handle (dom gen id : Nat) : pack [(3, 62, 2), (2, 56, 4), (dom, 48, 3), (gen, 32, 16), (id, 0, 32)] =
    pack [(0xC2, 56, 8), (dom, 48, 3), (gen, 32, 16), (id, 0, 32)] := by
  rw [pack_eq_ofNat, pack_eq_ofNat]
  refine congrArg ofNat ?_
  simp only [packNat]
  omega

theorem recordInsert_free {s : State} {c e i : Nat} {d : Domain} {x : Msg} {r : RegionOp} (hdom : s.domainOf c r.ctx r.dom r.gen = some d)
    (he : s.freeHome c d = some e) (hi : s.freePool c d = some i) :
    let o := s.ordinalOf d c
    let gen := fld (s.read64 (homeKey c d e)) 32 16
    let h := pack [(0xC2, 56, 8), (r.dom, 48, 3), (gen, 32, 16), (e * (s.owners d).length + o, 0, 32)]
    s.recordInsert c x r = (s.insertRecord (poolPlace c d i) (homeKey c d e) h (pack [(o, 0, 16), (i, 16, 12), (gen, 32, 16), (1, 48, 2)]) r.data).regionReply
      c x r h 0 [] := by
  simp only [recordInsert, hdom, he, hi, pack_handle]
  rfl

/-! ### The events -/

theorem State.unitTake_domainOf (s : State) (c : Nat) (x : Msg) (i d g : Nat) : (s.unitTake c x).domainOf c i d g = s.domainOf c i d g := by
  rw [← dropMsg_domainOf s x.id, State.domainOf, State.domainOf, State.domainAt, State.domainAt, State.unitTake, coreRec_modCore_self]
  rfl

section

variable {s : State} {m c : Nat} {x y : Msg} {r : RegionOp}

theorem exec_recordOperation_unit (hf : s.findMsg m = some x) (hb : x.body = .region r none) (hd : x.dst = .core c)
    (hy : (if x.src = x.dst then s.arrived m else s.performable m) = some y) :
    exec (.recordOperation m) s = .next ((s.unitTake c x).recordArrive c
      { x with credit := none, started := false, body := .region { r with credit := x.credit } none } { r with credit := x.credit }) := by
  rw [hd] at hy
  show Host.Outcome.next (recordOperation m s) = _
  simp only [recordOperation, hf, hb, hd, hy]

theorem exec_recordOperation_gone (hf : s.findMsg m = some x) (hb : x.body = .region r none) (hd : x.dst = .core c)
    (hy : (if x.src = x.dst then s.arrived m else s.performable m) = some y) (hdom : s.domainOf c r.ctx r.dom r.gen = none) :
    exec (.recordOperation m) s = .next ((s.unitTake c x).regionReply c x { r with credit := x.credit } 0 0x0A []) := by
  rw [exec_recordOperation_unit hf hb hd hy, State.recordArrive]
  split
  · simp only [recordInsert, unitTake_domainOf, hdom]
    rfl
  · simp only [recordHome, unitTake_domainOf, hdom]
    rfl

/-- An operation reaches its home, where w is its handle's entry (R340). -/
theorem exec_recordOperation_home {d : Domain} (hf : s.findMsg m = some x) (hb : x.body = .region r none) (hd : x.dst = .core c)
    (hy : (if x.src = x.dst then s.arrived m else s.performable m) = some y) (hop : r.op ≠ .rins) (hdom : s.domainOf c r.ctx r.dom r.gen = some d) :
    let n := (s.owners d).length
    let w := s.read64 (homeKey c d (fld r.handle 0 32 / n))
    let r1 := { r with credit := x.credit }
    exec (.recordOperation m) s = .next (
      if fld w 48 2 ≠ 1 ∨ fld w 32 16 ≠ fld r.handle 32 16 then (s.unitTake c x).regionReply c x r1 0 0x0A []
      else if s.ownerAt d (fld w 0 16 % n) = c then
        (s.unitTake c x).recordApply c { x with credit := none, started := false, body := .region r1 none } r1 (fld w 16 12 % d.cap)
      else (s.unitTake c x).unitSend c (s.ownerAt d (fld w 0 16 % n)) x.uid x.ctx x.sup (.region r1 (some (fld w 16 12 % d.cap)))) := by
  intro n w r1
  rw [exec_recordOperation_unit hf hb hd hy, State.recordArrive, if_neg hop]
  simp only [recordHome, unitTake_domainOf, hdom]
  rfl

theorem exec_recordOperation_slot {i : Nat} (ha : s.arrived m = some x) (hb : x.body = .region r (some i)) (hd : x.dst = .core c) :
    exec (.recordOperation m) s = .next ((s.dropMsg m).recordApply c x r i) := by
  show Host.Outcome.next (recordOperation m s) = _
  simp only [recordOperation, findMsg_of_arrived ha, hb, hd, ha]

theorem exec_regionReply {v : Word} {cause : Nat} {data : List Nat} (ha : s.response m = some x) (hb : x.body = .regionReply r v cause data) :
    exec (.regionReply m) s = .next ((if cause = 0 then (s.dropMsg m).writeBytes (spadKey r.core r.dst) data []
      else ((s.dropMsg m).writeBytes (spadKey r.core r.dst) data []).pendThread x.uid cause r.handle).applyReply x.uid r.reg v false) := by
  show Host.Outcome.next (regionReplyAt m s) = _
  simp only [regionReplyAt, ha, hb]

end

/-- Settles O50: RINS at the owner, the other operations at the home and at the slot by its state, and the reply. -/
theorem recordsAreInsertedReadAndWritten : Obligations.RecordsAreInsertedReadAndWritten := by
  unfold Obligations.RecordsAreInsertedReadAndWritten
  refine ⟨?insert, ?home, ?gone, ?slot, ?reply⟩
  case insert =>
    intro s m y x r c d e i hf hb hd hy hop hdom he hi hlen hbytes _ hdisj o gen h
    have hx := exec_recordOperation_unit hf hb hd hy
    rw [State.recordArrive, if_pos hop, recordInsert_free (r := { r with credit := x.credit }) ((unitTake_domainOf ..).trans hdom) he hi] at hx
    obtain ⟨hhandle, hentry, hpos, hstate, hpayload⟩ := (s.unitTake c x).insertRecord_is (key := poolPlace c d i) (home := homeKey c d e) h
      (pack [(o, 0, 16), (i, 16, 12), (gen, 32, 16), (1, 48, 2)]) hlen hbytes (by simp only [poolPlace, homeKey, spadKey]; omega)
    have hbyte := hstate 0 (Nat.zero_lt_succ _)
    refine ⟨_, hx, ?_, ?_, holdsBytes_of_mem hpos (regionReply_mem ..), holdsBytes_of_mem hstate (regionReply_mem ..),
      holdsBytes_of_mem hpayload (regionReply_mem ..), ?_, ?_⟩
    · refine recordIs_of_mem ?_ (regionReply_mem ..)
      exact congrArg (· % 8) hbyte
    · exact (read64_of_mem (regionReply_mem ..) _).trans hhandle
    · exact (read64_of_mem (regionReply_mem ..) _).trans hentry
    · exact ⟨_, congrArg (· ++ [_]) (insertRecord_net ..), rfl, rfl, rfl⟩
  case home =>
    intro s m y x r c d hf hb hd hy hop hdom n w owner
    have hx := exec_recordOperation_home hf hb hd hy hop hdom
    refine ⟨fun hbad => ?_, fun hlive hgen hown => ?_⟩
    · exact hx.trans (congrArg Host.Outcome.next (if_pos hbad))
    · exact hx.trans (congrArg Host.Outcome.next ((if_neg (by rintro (h | h); exacts [h hlive, h hgen])).trans (if_neg hown)))
  case gone => exact fun s m y x r c hf hb hd hy hdom => exec_recordOperation_gone hf hb hd hy hdom
  case slot =>
    intro s m x r c i d ha hb hd hdom hbytes key own p goal
    have hown : own = addrOf c 0 := (addrOf_zero c).symm
    have hdom' : (s.dropMsg m).domainOf c r.ctx r.dom r.gen = some d := (dropMsg_domainOf ..).trans hdom
    have hst (v : Nat) (h : RecordIs s c d i v) : (s.dropMsg m).recordState (poolKey c d i) = v := (recordState_eq ..).trans h
    have harmed : ((s.dropMsg m).coreRec c).armed = (s.coreRec c).armed := dropMsg_coreRec_keeps (fun _ _ => rfl) s m c
    have hheld : (((s.dropMsg m).held c i x).coreRec c).heldOps = (s.coreRec c).heldOps ++ [(i, x)] := by rw [held_heldOps, dropMsg_heldOps]
    have hgo : (s.dropMsg m).ownerOf d (elementOf r.data 4 0) (elementOf r.data 4 1) (elementOf r.data 4 2) = goal := rfl
    refine ⟨_, exec_recordOperation_slot ha hb hd, ?rld, ?rst, ?rposHere, ?rposAway, ?rposHeld, ?rdel, ?free, ?waits, ?stub⟩
    case rld =>
      intro h hop
      rw [hown, recordApply_rld hdom' (hst 1 h) hop]
      exact ⟨rfl, regionReply_sends ..⟩
    case rst =>
      intro h hop
      rw [hown, recordApply_rst hdom' (hst 1 h) hop]
      exact ⟨holdsBytes_of_mem (writeBytes_holds _ _ hbytes) (regionReply_mem ..), sameBut_of_mem (fun k hk => writeBytes_byte_outside (s.dropMsg m) _ hk)
        (regionReply_mem ..), sends_of_net (writeBytes_net ..) (regionReply_sends ..)⟩
    case rposHere =>
      intro h hop hgoal
      rw [hown, recordApply_rpos hdom' (hst 1 h) hop, hgo, if_pos hgoal]
      exact ⟨holdsBytes_of_mem (writeBytes_holds _ _ hbytes) (regionReply_mem ..), sameBut_of_mem (fun k hk => writeBytes_byte_outside (s.dropMsg m) _ hk)
        (regionReply_mem ..), sends_of_net (writeBytes_net ..) (regionReply_sends ..)⟩
    case rposAway =>
      intro h hop hgoal hunarmed hlen
      rw [recordApply_rpos hdom' (hst 1 h) hop, hgo, if_neg hgoal, if_neg (by rw [harmed]; exact not_not.mpr hunarmed)]
      have hmem := (unitSend_mem (leaving (s.dropMsg m) c i x r key) c goal 0 r.ctx true (.move r.ctx r.dom i ((leaving (s.dropMsg m) c i x r key).readBytes
        key 128))).trans (leaving_mem ..)
      refine ⟨recordIs_of_mem (setRecordState_is _ c d i (by decide)) hmem, holdsBytes_congr (writeBytes_holds (s.dropMsg m) (key + 8) hbytes) fun j hj => ?_, ?_⟩
      · rw [hmem, setRecordState_byte_ne _ _ (by omega)]
      · rw [readBytes_of_mem (unitSend_mem ..)]
        exact sends_of_net (leaving_net ..) (unitSend_sends ..)
    case rposHeld =>
      intro h hop hgoal hset
      rw [recordApply_rpos hdom' (hst 1 h) hop, hgo, if_neg hgoal, if_pos (by rw [harmed]; exact hset)]
      exact ⟨rfl, hheld⟩
    case rdel =>
      intro h hop n hn haway
      subst hn
      rw [recordApply_rdel hdom' (hst 1 h) hop haway]
      exact ⟨recordIs_of_mem (freeRecord_is _ c d i) (unitSend_mem ..), sameBut_of_mem (write_sameBut (s.dropMsg m) (key + 20) 4 0) (unitSend_mem ..),
        sends_of_net (write_net ..) (unitSend_sends ..)⟩
    case free =>
      intro h
      rw [recordApply_free hdom' (hst 0 h)]
      exact ⟨rfl, regionReply_sends ..⟩
    case waits =>
      intro h
      rw [recordApply_held hdom' (h.imp (hst 2) (hst 3))]
      exact ⟨rfl, rfl, hheld⟩
    case stub =>
      intro h f
      rw [recordApply_stub hdom' (hst 4 h)]
      exact ⟨rfl, unitSend_sends ..⟩
  case reply =>
    intro s m x r v cause data ha hb
    have hx := exec_regionReply ha hb
    refine ⟨fun h => ?_, fun h => ?_⟩
    · rw [if_pos h] at hx
      exact hx
    · rw [if_neg h] at hx
      exact hx

end Sys2Proof.Machine

/-! ## Queries at their owners, and domains (O52) -/

namespace Sys2Proof.Machine

open State Sys2Proof.Claims

/-! ### The order of a query's coordinates (R343) -/

theorem leBits_iff {code : Nat} (a b : Nat) (hc : code < 6) : leBits code a b = true ↔ LessThan code a b ∨ SameValue code a b := by
  rw [leBits, Bool.or_eq_true, ltFV_lessThan code a b hc, eqFV_sameValue code a b hc]

theorem leBits_finite {code a b : Nat} (hc : code < 6) (ha : FinitePattern code a) (hb : FinitePattern code b) :
    leBits code a b = true ↔ patternValue code a ≤ patternValue code b := by
  have ⟨_, hia⟩ := finite_not code a ha
  have ⟨_, hib⟩ := finite_not code b hb
  rw [leBits_iff a b hc, le_iff_lt_or_eq, LessThan, SameValue]
  simp only [ha, hb, hia, hib, true_and, false_and, or_false]

theorem leBits_nan_left {code a : Nat} (b : Nat) (hc : code < 6) (h : NaNPattern code a) : leBits code a b = false := by
  have ⟨hf, hi, _⟩ := nan_not code a hc h
  rw [← Bool.not_eq_true, leBits_iff a b hc, LessThan, SameValue]
  simp only [h, hf, hi, false_and, and_false, not_true, or_false, not_false_iff]

theorem leBits_nan_right {code b : Nat} (a : Nat) (hc : code < 6) (h : NaNPattern code b) : leBits code a b = false := by
  have ⟨hf, hi, _⟩ := nan_not code b hc h
  rw [← Bool.not_eq_true, leBits_iff a b hc, LessThan, SameValue]
  simp only [h, hf, hi, false_and, and_false, not_true, or_false, not_false_iff]

theorem nanPattern_of_delivers {invalid : Prop} {r : Nat × Nat} (h : DeliversNaN 0 invalid r) : NaNPattern 0 r.1 := by
  rw [h.1, NaNPattern]
  decide

theorem fpAdd_nan {x y : Nat} (h : NaNPattern 0 x ∨ NaNPattern 0 y) : NaNPattern 0 (fpAdd 0 0 x y).1 :=
  nanPattern_of_delivers ((fpAdd_sum 0 0 x y (by decide) (by decide)).1 h)

theorem fpSub_nan {x y : Nat} (h : NaNPattern 0 x ∨ NaNPattern 0 y) : NaNPattern 0 (fpSub 0 0 x y).1 :=
  nanPattern_of_delivers ((fpSub_sum 0 0 x y (by decide) (by decide)).1 h)

theorem fpMul_nan {x y : Nat} (h : NaNPattern 0 x ∨ NaNPattern 0 y) : NaNPattern 0 (fpMul 0 0 x y).1 :=
  nanPattern_of_delivers ((fpMul_product 0 0 x y (by decide) (by decide)).1 h)

theorem wide_nan {x : Nat} (h : NaNPattern 1 x) : NaNPattern 0 (convert 1 0 0 x).1 :=
  nanPattern_of_delivers ((convert_float 1 0 0 x (by decide) (by decide) (by decide)).1 h)

/-- The rounded square of the distance along axis n from a query's centre. -/
def squaredOffset (q : Query) (x : Nat → Nat) (n : Nat) : Nat :=
  (fpMul 0 0 (fpSub 0 0 (convert 1 0 0 (x n)).1 (convert 1 0 0 (queryLo q n)).1).1 (fpSub 0 0 (convert 1 0 0 (x n)).1 (convert 1 0 0 (queryLo q n)).1).1).1

theorem squaredOffset_nan (q : Query) {x : Nat → Nat} {n : Nat} (h : NaNPattern 1 (x n)) : NaNPattern 0 (squaredOffset q x n) :=
  fpMul_nan (.inl (fpSub_nan (.inl (wide_nan h))))

/-- The rounded square of the distance from a query's centre. -/
def squaredDistance (q : Query) (x : Nat → Nat) : Nat :=
  (fpAdd 0 0 (fpAdd 0 0 (squaredOffset q x 0) (squaredOffset q x 1)).1 (squaredOffset q x 2)).1

theorem squaredDistance_nan (q : Query) {x : Nat → Nat} {n : Nat} (hn : n < 3) (h : NaNPattern 1 (x n)) : NaNPattern 0 (squaredDistance q x) := by
  have hsq := squaredOffset_nan q h
  match n, hn with
  | 0, _ => exact fpAdd_nan (.inl (fpAdd_nan (.inl hsq)))
  | 1, _ => exact fpAdd_nan (.inl (fpAdd_nan (.inr hsq)))
  | 2, _ => exact fpAdd_nan (.inr hsq)

theorem queryMatches_all {q : Query} (x : Nat → Nat) (h : q.kind = .all) : queryMatches q x = true := by rw [queryMatches, h]

theorem queryMatches_box {q : Query} (x : Nat → Nat) (h : q.kind = .box) : queryMatches q x = true ↔
    ∀ n, n < 3 → leBits 1 (queryLo q n) (x n) = true ∧ leBits 1 (x n) (queryHi q n) = true := by
  simp only [queryMatches, h, List.all_eq_true, List.mem_range, Bool.and_eq_true]

theorem queryMatches_radius {q : Query} (x : Nat → Nat) (h : q.kind = .radius) : queryMatches q x =
    leBits 0 (squaredDistance q x) (fpMul 0 0 (convert 1 0 0 (queryHi q 0)).1 (convert 1 0 0 (queryHi q 0)).1).1 := by
  simp only [queryMatches, h]
  rfl

theorem queryMatches_nan {q : Query} {x : Nat → Nat} {n : Nat} (hk : q.kind ≠ .all) (hn : n < 3) (h : NaNPattern 1 (x n)) : queryMatches q x = false := by
  cases hkind : q.kind with
  | all => exact absurd hkind hk
  | box =>
    rw [← Bool.not_eq_true, queryMatches_box x hkind]
    intro hall
    have hle := (hall n hn).1
    rw [leBits_nan_right _ (by decide) h] at hle
    cases hle
  | radius =>
    rw [queryMatches_radius x hkind]
    exact leBits_nan_left _ (by decide) (squaredDistance_nan q hn h)

/-- A match depends on the three coordinates alone. -/
theorem queryMatches_congr (q : Query) {x y : Nat → Nat} (h : ∀ n, n < 3 → x n = y n) : queryMatches q x = queryMatches q y := by
  have h0 := h 0 (by decide)
  have h1 := h 1 (by decide)
  have h2 := h 2 (by decide)
  cases hkind : q.kind with
  | all => rw [queryMatches_all x hkind, queryMatches_all y hkind]
  | box =>
    rw [Bool.eq_iff_iff, queryMatches_box x hkind, queryMatches_box y hkind]
    exact forall₂_congr fun n hn => by rw [h n hn]
  | radius => simp only [queryMatches_radius _ hkind, squaredDistance, squaredOffset, h0, h1, h2]

/-! ### SCAN over a pool (R343) -/

/-- Record k of a pool is RESIDENT and matches. -/
def scanMatches (s : State) (c : Nat) (d : Domain) (q : Query) (k : Nat) : Bool :=
  s.recordState (poolPlace c d k) == 1 && queryMatches q (s.position (poolPlace c d k))

theorem scanMatches_congr {s t : State} (c : Nat) (d : Domain) (q : Query) (k : Nat)
    (h : ∀ j, j < 128 → t.mem.byte (poolPlace c d k + j) = s.mem.byte (poolPlace c d k + j)) : scanMatches t c d q k = scanMatches s c d q k := by
  have hread (j n : Nat) (hj : j + n ≤ 128) : t.read (poolPlace c d k + j) n = s.read (poolPlace c d k + j) n :=
    Memory.readN_congr _ _ _ _ fun i hi => by rw [Nat.add_assoc]; exact h (j + i) (by omega)
  have hstate : t.recordState (poolPlace c d k) = s.recordState (poolPlace c d k) := by
    rw [State.recordState, State.recordState, hread 20 1 (by decide)]
  have hmatch : queryMatches q (t.position (poolPlace c d k)) = queryMatches q (s.position (poolPlace c d k)) :=
    queryMatches_congr q fun n hn => by
      rw [State.position, State.position, Nat.add_assoc, hread (8 + 4 * n) 4 (by omega)]
  rw [scanMatches, scanMatches, hstate, hmatch]

/-- The state after a match whose count is n: its entry is written while it fits below CAPR. -/
def matchWritten (s : State) (c : Nat) (d : Domain) (q : Query) (k n : Nat) : State :=
  if n < fld (q.words.getD 0 0) 32 16 then s.writeBytes (q.core * 0x200000 + (q.buf + 32 * n)) (s.readBytes (poolPlace c d k) 32) [] else s

theorem scanPool_cons (s : State) (c : Nat) (d : Domain) (q : Query) (k : Nat) (l : List Nat) (n : Nat) : s.scanPool c d q (k :: l) n =
    if scanMatches s c d q k then (matchWritten s c d q k n).scanPool c d q l (n + 1) else s.scanPool c d q l n := by
  have hiff : scanMatches s c d q k = true ↔ s.recordState (poolKey c d k) = 1 ∧ queryMatches q (s.position (poolKey c d k)) = true := by
    rw [scanMatches, Bool.and_eq_true, beq_iff_eq]
    rfl
  rw [State.scanPool]
  split
  next h =>
    rw [if_pos (hiff.mpr h), matchWritten]
    split
    · rfl
    · rfl
  next h => rw [if_neg (fun hm => h (hiff.mp hm))]

theorem sameBut_refl (s : State) (key n : Nat) : SameBut s s key n := fun _ _ => rfl

theorem sameBut_trans {s t u : State} {key n : Nat} (h : SameBut s t key n) (g : SameBut t u key n) : SameBut s u key n :=
  fun k hk => (g k hk).trans (h k hk)

theorem sameBut_widen {s t : State} {a m b n : Nat} (h : SameBut s t a m) (hb : b ≤ a) (he : a + m ≤ b + n) : SameBut s t b n :=
  fun k hk => h k (by omega)

theorem matchWritten_sameBut (s : State) (c : Nat) (d : Domain) (q : Query) (k n : Nat) :
    SameBut s (matchWritten s c d q k n) (q.core * 0x200000 + q.buf) (32 * fld (q.words.getD 0 0) 32 16) := by
  rw [matchWritten]
  split
  next h =>
    have hrow : SameBut s (s.writeBytes (q.core * 0x200000 + (q.buf + 32 * n)) (s.readBytes (poolPlace c d k) 32) []) (q.core * 0x200000 + (q.buf + 32 * n)) 32 :=
      fun j hj => writeBytes_byte_outside s _ (by rw [readBytes_length]; exact hj)
    exact sameBut_widen hrow (by omega) (by omega)
  next => exact sameBut_refl s _ _

theorem matchWritten_net (s : State) (c : Nat) (d : Domain) (q : Query) (k n : Nat) : (matchWritten s c d q k n).net = s.net := by
  rw [matchWritten]
  split
  · exact writeBytes_net ..
  · rfl

/-- Where a pool does not meet the query's buffer, SCAN counts its matches and writes into the buffer alone. -/
theorem scanPool_counts {c : Nat} {d : Domain} {q : Query} (l : List Nat) (hl : ∀ k ∈ l, k < d.cap)
    (hd : q.core * 0x200000 + q.buf + 32 * fld (q.words.getD 0 0) 32 16 ≤ c * 0x200000 + d.pool ∨ c * 0x200000 + d.pool + 128 * d.cap ≤ q.core * 0x200000 + q.buf)
    (s : State) (n : Nat) :
    let r := s.scanPool c d q l n
    r.1 = n + (l.filter (scanMatches s c d q)).length ∧ r.2.net = s.net ∧
      SameBut s r.2 (q.core * 0x200000 + q.buf) (32 * fld (q.words.getD 0 0) 32 16) := by
  induction l generalizing s n with
  | nil => exact ⟨rfl, rfl, sameBut_refl s _ _⟩
  | cons k l ih =>
    intro r
    have hr : r = s.scanPool c d q (k :: l) n := rfl
    have htail (j : Nat) (hj : j ∈ l) : j < d.cap := hl j (List.mem_cons_of_mem k hj)
    rw [scanPool_cons] at hr
    by_cases hm : scanMatches s c d q k = true
    · rw [if_pos hm] at hr
      obtain ⟨hcount, hnet, hsame⟩ := ih htail (matchWritten s c d q k n) (n + 1)
      have hfirst := matchWritten_sameBut s c d q k n
      have hkeep : l.filter (scanMatches (matchWritten s c d q k n) c d q) = l.filter (scanMatches s c d q) :=
        List.filter_congr fun j hj => scanMatches_congr c d q j fun i hi => hfirst _ (by
          have := htail j hj
          rw [poolPlace]
          omega)
      rw [hr, List.filter_cons_of_pos hm, List.length_cons]
      exact ⟨by rw [hcount, hkeep]; omega, by rw [hnet, matchWritten_net], sameBut_trans hfirst hsame⟩
    · rw [if_neg hm] at hr
      rw [hr, List.filter_cons_of_neg hm]
      exact ih htail s n

/-! ### ARM, SCAN and RELEASE (R343) -/

/-- What one of a query's messages finds at core c: it is the unit's own, or the core can take its copy (R266, R382). -/
theorem State.takesPath_of {s : State} {c : Nat} {x : Msg} (h : x.src = .core c ∨ s.entriesAt (.core c) < 16) : s.takesPath c x = true := by
  rw [State.takesPath, State.takesCopy, Bool.or_eq_true, beq_iff_eq, decide_eq_true_iff]
  exact h

theorem State.takesPath_not {s : State} {c : Nat} {x : Msg} (h : x.src ≠ .core c) (hn : 16 ≤ s.entriesAt (.core c)) : s.takesPath c x = false := by
  rw [State.takesPath, State.takesCopy, Bool.or_eq_false_iff, beq_eq_false_iff_ne, decide_eq_false_iff_not]
  exact ⟨h, Nat.not_lt.mpr hn⟩

theorem State.dropMsg_armed (s : State) (m c : Nat) : ((s.dropMsg m).coreRec c).armed = (s.coreRec c).armed :=
  dropMsg_coreRec_keeps (fun _ _ => rfl) s m c

section

variable {s : State} {c : Nat} {x : Msg} {q : Query} {i : Nat} (hb : x.body = .arm q i)

/-- An ARM set aside, counted in ARMED or not. -/
def State.setAside (s : State) (c : Nat) (x : Msg) (counted : Bool) : State := s.modCore c fun r => { r with arms := r.arms ++ [(x, counted)] }

/-- A core armed once more. -/
def State.arming (s : State) (c : Nat) : State := s.modCore c fun r => { r with armed := r.armed + 1 }

theorem armStep_full (h : 255 ≤ (s.coreRec c).armed) : s.armStep c (x, false) = s.setAside c x false := by
  have hn : ¬ (s.coreRec c).armed < 255 := Nat.not_lt.mpr h
  simp only [State.armStep, hn, decide_false, Bool.or_self, Bool.not_false, Bool.true_or, if_true, if_false, Bool.false_eq_true]
  rfl

theorem armStep_departing (h : (s.coreRec c).armed < 255) (hd : (s.coreRec c).departures ≠ []) : s.armStep c (x, false) = (s.arming c).setAside c x true := by
  have hne : (s.coreRec c).departures.isEmpty = false := List.isEmpty_eq_false_iff.mpr hd
  simp only [State.armStep, h, hne, decide_true, Bool.or_true, Bool.not_true, Bool.not_false, Bool.or_true, if_true, if_false, Bool.false_eq_true]
  rfl

include hb in
theorem armStep_next {t : Nat} (h : (s.coreRec c).armed < 255) (hd : (s.coreRec c).departures = []) (hp : q.path[i + 1]? = some t) :
    s.armStep c (x, false) = (s.arming c).unitSend c t 0 q.ctx false (.arm q (i + 1)) := by
  simp only [State.armStep, h, hd, hb, hp, decide_true, Bool.or_true, Bool.not_true, List.isEmpty_nil, Bool.or_self, if_true, if_false, Bool.false_eq_true]
  rfl

include hb in
theorem armStep_last (h : (s.coreRec c).armed < 255) (hd : (s.coreRec c).departures = []) (hp : q.path[i + 1]? = none) :
    s.armStep c (x, false) = (s.arming c).unitSend c (q.path.headD c) 0 q.ctx false (.scan q 0 0) := by
  simp only [State.armStep, h, hd, hb, hp, decide_true, Bool.or_true, Bool.not_true, List.isEmpty_nil, Bool.or_self, if_true, if_false, Bool.false_eq_true]
  rfl

theorem State.arming_armed (s : State) (c : Nat) : ((s.arming c).coreRec c).armed = (s.coreRec c).armed + 1 := by rw [State.arming, coreRec_modCore_self]

theorem State.setAside_coreRec (s : State) (c : Nat) (x : Msg) (b : Bool) :
    (s.setAside c x b).coreRec c = { s.coreRec c with arms := (s.coreRec c).arms ++ [(x, b)] } := by rw [State.setAside, coreRec_modCore_self]

variable {m : Nat} (ha : s.arrived m = some x) (hd : x.dst = .core c)
include ha hd

include hb in
theorem exec_queryArm_waits (h : s.takesPath c x = false) : exec (.queryArm m) s = .next s := by
  show Host.Outcome.next (queryArm m s) = _
  simp only [queryArm, ha, hb, hd, h, Bool.false_eq_true, if_false]

include hb in
theorem exec_queryArm (h : s.takesPath c x = true) : exec (.queryArm m) s = .next (
    if i = 0 ∧ (s.domainOf c q.ctx q.dom q.gen).isNone then (s.dropMsg m).queryDeliver c q 0xFFFFFFFFFFFFFFF6 else (s.dropMsg m).armStep c (x, false)) := by
  show Host.Outcome.next (queryArm m s) = _
  simp only [queryArm, ha, hb, hd, h, if_true, State.armArrive, dropMsg_domainOf]

include hb in
theorem exec_queryArm_step (h : s.takesPath c x = true) (hlive : i ≠ 0 ∨ s.domainOf c q.ctx q.dom q.gen ≠ none) :
    exec (.queryArm m) s = .next ((s.dropMsg m).armStep c (x, false)) := by
  rw [exec_queryArm hb ha hd h, if_neg]
  rintro ⟨hi, hnone⟩
  exact hlive.elim (absurd hi) (absurd (Option.isNone_iff_eq_none.mp hnone))

theorem exec_queryScan_waits {n : Nat} (hs : x.body = .scan q i n) (h : s.takesPath c x = false) : exec (.queryScan m) s = .next s := by
  show Host.Outcome.next _ = _
  simp only [ha, hs, hd, h, Bool.false_eq_true, if_false]

theorem exec_queryScan {n : Nat} (hs : x.body = .scan q i n) (h : s.takesPath c x = true) :
    exec (.queryScan m) s = .next ((s.dropMsg m).queryScan c q i n) := by
  show Host.Outcome.next _ = _
  simp only [ha, hs, hd, h, if_true]

theorem exec_queryRelease (hl : x.body = .lower q i) (h : s.takesPath c x = true) :
    exec (.queryRelease m) s = .next (((s.dropMsg m).queryLower c q i).armAll c) := by
  show Host.Outcome.next _ = _
  simp only [ha, hl, hd, h, if_true]

end

theorem queryScan_next {s : State} {c i n t : Nat} {q : Query} {d : Domain} (hdom : s.domainOf c q.ctx q.dom q.gen = some d) (hp : q.path[i + 1]? = some t) :
    s.queryScan c q i n = (s.scanPool c d q (List.range d.cap) n).2.unitSend c t 0 q.ctx false (.scan q (i + 1) (s.scanPool c d q (List.range d.cap) n).1) := by
  simp only [State.queryScan, hdom, hp]

theorem queryScan_last {s : State} {c i n : Nat} {q : Query} {d : Domain} (hdom : s.domainOf c q.ctx q.dom q.gen = some d) (hp : q.path[i + 1]? = none) :
    let r := s.scanPool c d q (List.range d.cap) n
    s.queryScan c q i n = (r.2.queryDeliver c q (BitVec.ofNat 64 r.1)).unitSend c (q.path.headD c) 0 q.ctx false (.lower q 0) := by
  simp only [State.queryScan, hdom, hp]
  rfl

/-- What RELEASE leaves at an owner that holds no operation and set no ARM aside: ARMED less 1, and RELEASE to the next owner (R343). -/
theorem queryLower_idle {s : State} {c : Nat} (q : Query) (i : Nat) (hh : (s.coreRec c).heldOps = []) (ha : (s.coreRec c).arms = []) :
    ∃ u, (s.queryLower c q i).armAll c = u ∧ (u.coreRec c).armed = (s.coreRec c).armed - 1 ∧ u.mem = s.mem ∧
      (∀ t, q.path[i + 1]? = some t → Sends s u [(.core t, .lower q (i + 1))]) ∧ (q.path[i + 1]? = none → u.net = s.net) := by
  let s1 := s.modCore c fun r => { r with armed := r.armed - 1 }
  have hrec1 : s1.coreRec c = { s.coreRec c with armed := (s.coreRec c).armed - 1 } := coreRec_modCore_self ..
  obtain ⟨s2, hs2, hmem, hnet, harmed, harms⟩ : ∃ s2, (if (s1.coreRec c).armed = 0 then s1.replay c (s1.awaitsArmed c) else s1) = s2 ∧ s2.mem = s.mem ∧
      s2.net = s.net ∧ (s2.coreRec c).armed = (s.coreRec c).armed - 1 ∧ (s2.coreRec c).arms = [] := by
    refine ⟨_, rfl, ?_⟩
    split
    · rw [replay_idle (by rw [hrec1]; exact hh), coreRec_setCore_self, hrec1]
      exact ⟨rfl, rfl, rfl, ha⟩
    · rw [hrec1]
      exact ⟨rfl, rfl, rfl, ha⟩
  have hlower : s.queryLower c q i = match q.path[i + 1]? with
    | some t => s2.unitSend c t 0 q.ctx false (.lower q (i + 1))
    | none => s2 := by
    rw [← hs2]
    rfl
  refine ⟨_, rfl, ?_⟩
  rw [hlower]
  cases hp : q.path[i + 1]? with
  | some t =>
    have hidle := armAll_idle (s := s2.unitSend c t 0 q.ctx false (.lower q (i + 1))) (c := c) harms
    dsimp only
    rw [hidle, coreRec_setCore_self]
    refine ⟨harmed, hmem, fun u hu => ?_, fun hn => by cases hn⟩
    cases hu
    obtain ⟨ms, hms, hl⟩ := unitSend_sends s2 c t 0 q.ctx false (.lower q (i + 1))
    exact ⟨ms, by rw [setCore_net, hms, hnet], hl⟩
  | none =>
    dsimp only
    rw [armAll_idle harms, coreRec_setCore_self]
    exact ⟨harmed, hmem, fun u hu => (by cases hu), fun _ => hnet⟩

/-! ### Domains installed (R334) -/

/-- A byte that is 0 stays so under a write of zeros. -/
theorem State.write_zero_keeps {s : State} {k : Nat} (key n : Nat) (h : s.mem.byte k = 0) : (s.write key n 0).mem.byte k = 0 := by
  by_cases hk : k < key ∨ key + n ≤ k
  · rw [write_byte_outside s _ hk, h]
  · have hin := Memory.byte_writeN_inside s.mem key n 0 (k - key) (by omega)
    rw [Nat.add_sub_cancel' (by omega), Nat.zero_div] at hin
    rw [write_mem, hin]
    rfl

theorem State.write_zero_inside (s : State) (key : Nat) {n j : Nat} (h : j < n) : (s.write key n 0).mem.byte (key + j) = 0 := by
  rw [write_mem, Memory.byte_writeN_inside _ _ _ _ _ h, Nat.zero_div]
  rfl

theorem Memory.readN_zeros {m : Memory} {a n : Nat} (h : ∀ k, k < n → m.byte (a + k) = 0) : m.readN a n = 0 := by
  induction n generalizing a with
  | zero => rfl
  | succ n ih =>
    have hhead := h 0 (by omega)
    rw [Nat.add_zero] at hhead
    rw [Memory.readN, hhead, ih fun k hk => by rw [Nat.add_assoc, Nat.add_comm 1]; exact h (k + 1) (by omega)]
    rfl

theorem foldl_write_zeros_keeps (key : Nat → Nat) (n : Nat) {k : Nat} (l : List Nat) {s : State} (h : s.mem.byte k = 0) :
    (l.foldl (fun (y : State) i => y.write (key i) n 0) s).mem.byte k = 0 := by
  induction l generalizing s with
  | nil => exact h
  | cons i l ih => exact ih (write_zero_keeps (key i) n h)

theorem foldl_write_zeros (key : Nat → Nat) {n i j : Nat} {l : List Nat} (hi : i ∈ l) (hj : j < n) (s : State) :
    (l.foldl (fun (y : State) i => y.write (key i) n 0) s).mem.byte (key i + j) = 0 := by
  induction l generalizing s with
  | nil => cases hi
  | cons a l ih =>
    rcases List.mem_cons.mp hi with rfl | hi
    · exact foldl_write_zeros_keeps key n l (write_zero_inside s (key i) hj)
    · exact ih hi _

/-- A core's pool and home entries cleared. -/
def State.slotsCleared (s : State) (c : Nat) (d : Domain) : State :=
  (List.range d.hcap).foldl (fun (y : State) e => y.write (homeKey c d e) 8 0) ((List.range d.cap).foldl (fun (y : State) i => y.write (poolKey c d i + 20) 4 0) s)

/-- A domain's owner table copied to a core. -/
def State.tableCopied (s : State) (c : Nat) (d : Domain) : State :=
  (d.table.zip (List.range d.table.length)).foldl (fun (y : State) e => y.write (spadKey c (d.mapOff + 2 * e.2)) 2 e.1) s

theorem clearDomain_eq (s : State) (c : Nat) (d : Domain) : s.clearDomain c d = (s.slotsCleared c d).tableCopied c d := rfl

theorem clearDomain_keeps {β : Type} (g : State → β) (h : ∀ (y : State) key n v, g (y.write key n v) = g y) (s : State) (c : Nat) (d : Domain) :
    g (s.clearDomain c d) = g s :=
  (foldl_keeps g _ (fun _ _ y => h y _ _ _) _).trans ((foldl_keeps g _ (fun _ _ y => h y _ _ _) _).trans (foldl_keeps g _ (fun _ _ y => h y _ _ _) s))

theorem slotsCleared_pool (s : State) (c : Nat) (d : Domain) {i j : Nat} (hi : i < d.cap) (hj : j < 4) :
    (s.slotsCleared c d).mem.byte (poolKey c d i + 20 + j) = 0 :=
  foldl_write_zeros_keeps (homeKey c d) 8 _ (foldl_write_zeros (fun i => poolKey c d i + 20) (List.mem_range.mpr hi) hj s)

theorem slotsCleared_home (s : State) (c : Nat) (d : Domain) {e j : Nat} (he : e < d.hcap) (hj : j < 8) :
    (s.slotsCleared c d).mem.byte (homeKey c d e + j) = 0 :=
  foldl_write_zeros (homeKey c d) (List.mem_range.mpr he) hj _

theorem foldl_write_outside {α : Type} (key val : α → Nat) (n : Nat) {k : Nat} (l : List α) (h : ∀ e ∈ l, k < key e ∨ key e + n ≤ k) (s : State) :
    (l.foldl (fun (y : State) e => y.write (key e) n (val e)) s).mem.byte k = s.mem.byte k := by
  induction l generalizing s with
  | nil => rfl
  | cons e l ih => rw [List.foldl_cons, ih (fun b hb => h b (List.mem_cons_of_mem e hb)), write_byte_outside s _ (h e List.mem_cons_self)]

theorem tableCopied_byte (s : State) (c : Nat) (d : Domain) {k : Nat} (h : k < c * 0x200000 + d.mapOff ∨ c * 0x200000 + d.mapOff + 2 * d.table.length ≤ k) :
    (s.tableCopied c d).mem.byte k = s.mem.byte k := by
  refine foldl_write_outside (fun e : Nat × Nat => spadKey c (d.mapOff + 2 * e.2)) (·.1) 2 _ (fun e he => ?_) s
  have hlt := List.mem_range.mp (List.of_mem_zip he).2
  simp only [spadKey]
  omega

theorem not_overlap {a b : Nat × Nat} (h : overlap a b = false) : b.1 + b.2 ≤ a.1 ∨ a.1 + a.2 ≤ b.1 := by
  simpa only [overlap, Bool.and_eq_false_iff, decide_eq_false_iff_not, Nat.not_lt] using h

/-- A domain that passes its checks has an owner table that meets neither its pool nor its home entries (R334). -/
theorem checkDomain_disjoint {r : Nat} {a : Word} {d : Domain} (h : checkDomain r a d = .ok ()) (hm : d.mapped = true) :
    (d.mapOff + 2 * d.total ≤ d.pool ∨ d.pool + 128 * d.cap ≤ d.mapOff) ∧ (d.mapOff + 2 * d.total ≤ d.home ∨ d.home + 8 * d.hcap ≤ d.mapOff) := by
  have hov : overlap (d.pool, 128 * d.cap) (d.mapOff, 2 * d.total) = false ∧ overlap (d.home, 8 * d.hcap) (d.mapOff, 2 * d.total) = false := by
    simp only [checkDomain, hm, if_true] at h
    split at h
    · cases h
    split at h
    · cases h
    split at h
    · cases h
    split at h
    · cases h
    split at h
    · cases h
    split at h
    · cases h
    next hno =>
      simp only [Bool.not_eq_true, Bool.or_eq_false_iff] at hno
      obtain ⟨⟨-, hpool⟩, hhome⟩ := hno
      exact ⟨hpool, hhome⟩
  exact ⟨not_overlap hov.1, not_overlap hov.2⟩

/-- At an owner a domain that passed its checks is installed with every pool slot FREE and every home entry 0 (R334). -/
theorem clearDomain_clears {r : Nat} {a : Word} {d : Domain} (s : State) (c : Nat) (h : checkDomain r a d = .ok ()) (hlen : d.table.length ≤ d.total)
    (hmap : d.mapped = false → d.table = []) :
    (∀ i, i < d.cap → RecordIs (s.clearDomain c d) c d i 0) ∧ ∀ e, e < d.hcap → (s.clearDomain c d).read64 (homeKey c d e) = 0 := by
  have hkeep (k n : Nat) (hk : d.mapOff + 2 * d.total ≤ k ∨ k + n ≤ d.mapOff ∨ d.mapped = false) (j : Nat) (hj : j < n) :
      (s.clearDomain c d).mem.byte (c * 0x200000 + k + j) = (s.slotsCleared c d).mem.byte (c * 0x200000 + k + j) := by
    rw [clearDomain_eq]
    rcases hk with hk | hk | hk
    · exact tableCopied_byte _ _ _ (by omega)
    · exact tableCopied_byte _ _ _ (by omega)
    · rw [State.tableCopied, hmap hk]
      rfl
  have hdis (hm : d.mapped = true) := checkDomain_disjoint h hm
  refine ⟨fun i hi => ?_, fun e he => ?_⟩
  · have hk := hkeep (d.pool + 128 * i) 128 (by cases hm : d.mapped with
      | true => have := (hdis hm).1; omega
      | false => exact .inr (.inr rfl)) 20 (by decide)
    rw [RecordIs, poolPlace, hk]
    have hzero := slotsCleared_pool s c d (j := 0) hi (by decide)
    rw [Nat.add_zero, poolKey, spadKey] at hzero
    rw [hzero]
    rfl
  · have hk := hkeep (d.home + 8 * e) 8 (by cases hm : d.mapped with
      | true => have := (hdis hm).2; omega
      | false => exact .inr (.inr rfl))
    have hzero : (s.clearDomain c d).mem.readN (homeKey c d e) 8 = 0 := Memory.readN_zeros fun j hj => (hk j hj).trans (slotsCleared_home s c d he hj)
    rw [State.read64, State.read, hzero]
    rfl

@[simp] theorem State.agentSend_mem (s : State) (src dst : Node) (i : Nat) (sup : Bool) (b : Body) : (s.agentSend src dst i sup b).mem = s.mem := rfl

section

variable {s : State} {m c op code : Nat} {x : Msg} {d : Domain} {create : Bool} (ha : s.arrived m = some x) (hb : x.body = .domain op d create code)
  (hd : x.dst = .core c)
include ha hb hd

theorem exec_domainDescriptor_code (h : code ≠ 0) :
    exec (.domainDescriptor m) s = .next ((s.dropMsg m).agentSend (.core c) x.src x.ctx true (.domainDone op)) := by
  show Host.Outcome.next (domainDescriptor m s) = _
  simp only [domainDescriptor, ha, hb, hd, h, ne_eq, not_false_eq_true, if_true]

/-- A domain a core has come to know. -/
def State.knows (s : State) (c : Nat) (d : Domain) : State := s.modCore c fun r => { r with domains := r.domains ++ [d] }

theorem exec_domainDescriptor_create (h : code = 0) (hc : create = true) :
    exec (.domainDescriptor m) s = .next ((if (s.owners d).contains c then ((s.dropMsg m).knows c d).clearDomain c d else (s.dropMsg m).knows c d).agentSend
      (.core c) x.src x.ctx true (.domainDone op)) := by
  show Host.Outcome.next (domainDescriptor m s) = _
  simp only [domainDescriptor, ha, hb, hd, h, hc, ne_eq, not_true, if_true, if_false]
  rfl

/-- A domain a core has dropped. -/
def State.drops (s : State) (c : Nat) (d : Domain) : State :=
  s.modCore c fun r => { r with domains := r.domains.filter fun e => !(e.ctx == d.ctx && e.dom == d.dom && e.gen == d.gen) }

theorem exec_domainDescriptor_destroy (h : code = 0) (hc : create = false) :
    exec (.domainDescriptor m) s = .next (((s.dropMsg m).drops c d).agentSend (.core c) x.src x.ctx true (.domainDone op)) := by
  show Host.Outcome.next (domainDescriptor m s) = _
  simp only [domainDescriptor, ha, hb, hd, h, hc, ne_eq, not_true, if_false, Bool.false_eq_true]
  rfl

end

theorem State.waitsFor_withRdoms (s : State) (l : List RdomOp) (u op : Nat) : ({ s with rdoms := l } : State).waitsFor u op = s.waitsFor u op := by
  have hthread : ({ s with rdoms := l } : State).thread u = s.thread u := 
    thread_congr (s := s) (t := { s with rdoms := l }) rfl rfl rfl u
  simp only [State.waitsFor, hthread]

section

variable {s : State} {m op : Nat} {x : Msg} {o : RdomOp} (ha : s.arrived m = some x) (hb : x.body = .domainDone op)
  (ho : s.rdoms.find? (fun (y : RdomOp) => y.id == op) = some o)
include ha hb ho

theorem exec_rdomAnswer_last (h : o.pending ≤ 1) (hw : s.waitsFor o.uid op = true) : exec (.rdomAnswer m) s = .next
    ((({ s.dropMsg m with rdoms := s.rdoms.filter fun y => y.id != op } : State).resumeThread o.uid).arriveReg o.uid o.reg (BitVec.ofNat 64 o.code)) := by
  have ho' : (s.dropMsg m).rdoms.find? (fun (y : RdomOp) => y.id == op) = some o := by rw [dropMsg_rdoms]; exact ho
  have hw' : ({ s.dropMsg m with rdoms := (s.dropMsg m).rdoms.filter fun y => y.id != op } : State).waitsFor o.uid op = true := by
    rw [waitsFor_withRdoms, dropMsg_waitsFor]
    exact hw
  show Host.Outcome.next (rdomAnswer m s) = _
  simp only [rdomAnswer, ha, hb, ho', h, hw', if_true]
  rfl

theorem exec_rdomAnswer_more (h : 1 < o.pending) : exec (.rdomAnswer m) s = .next
    { s.dropMsg m with rdoms := s.rdoms.map fun (y : RdomOp) => if y.id = op then { y with pending := y.pending - 1 } else y } := by
  have ho' : (s.dropMsg m).rdoms.find? (fun (y : RdomOp) => y.id == op) = some o := by rw [dropMsg_rdoms]; exact ho
  show Host.Outcome.next (rdomAnswer m s) = _
  simp only [rdomAnswer, ha, hb, ho', Nat.not_le.mpr h, if_false]
  rfl

end

/-- Settles O52: a query's messages walk its path, a domain's descriptors are installed or dropped, and the last answer ends the RDOM. -/
theorem queriesWalkAndDomainsInstall : Obligations.QueriesWalkAndDomainsInstall := by
  unfold Obligations.QueriesWalkAndDomainsInstall
  refine ⟨?armWaits, ?arm, ?scan, ?scanEnds, ?matching, ?entry, ?release, ?descriptor, ?answer⟩
  case armWaits => exact fun s m x q i c ha hb hd hs hfull => exec_queryArm_waits hb ha hd (takesPath_not hs hfull)
  case arm =>
    intro s m x q i c ha hb hd hs
    have ht := takesPath_of hs
    have hstep := exec_queryArm_step hb ha hd ht
    refine ⟨fun hi hnone => ?_, fun hlive harmed hdep => ⟨fun t hp => ?_, fun t l hp hpath => ?_⟩, fun hlive harmed hdep => ?_, fun hlive harmed => ?_⟩
    · rw [exec_queryArm hb ha hd ht, if_pos ⟨hi, Option.isNone_iff_eq_none.mpr hnone⟩]
    · refine ⟨_, (hstep hlive).trans (congrArg Host.Outcome.next (armStep_next hb (by rw [dropMsg_armed]; exact harmed) (by rw [dropMsg_departures]; exact hdep) hp)),
        ?_, rfl, unitSend_sends ..⟩
      exact (arming_armed (s.dropMsg m) c).trans (by rw [dropMsg_armed])
    · have hhead : q.path.headD c = t := by rw [hpath]; rfl
      have hlast := armStep_last hb (by rw [dropMsg_armed]; exact harmed) (by rw [dropMsg_departures]; exact hdep) hp (s := s.dropMsg m) (c := c)
      rw [hhead] at hlast
      refine ⟨_, (hstep hlive).trans (congrArg Host.Outcome.next hlast), ?_, rfl, unitSend_sends ..⟩
      exact (arming_armed (s.dropMsg m) c).trans (by rw [dropMsg_armed])
    · refine ⟨_, (hstep hlive).trans (congrArg Host.Outcome.next (armStep_departing (by rw [dropMsg_armed]; exact harmed) (by rw [dropMsg_departures]; exact hdep))),
        ?_, ?_, rfl, rfl⟩
      · rw [setAside_coreRec, State.arming, coreRec_modCore_self, dropMsg_arms]
      · rw [setAside_coreRec]
        exact (arming_armed (s.dropMsg m) c).trans (by rw [dropMsg_armed])
    · refine ⟨_, (hstep hlive).trans (congrArg Host.Outcome.next (armStep_full (by rw [dropMsg_armed]; exact harmed))), ?_, ?_, rfl, rfl⟩
      · rw [setAside_coreRec, dropMsg_arms]
      · rw [setAside_coreRec, dropMsg_armed]
  case scan =>
    intro s m x q i n c d t ha hb hd hs hdom hp b size hdis count
    obtain ⟨hcount, hnet, hsame⟩ := scanPool_counts (List.range d.cap) (fun k hk => List.mem_range.mp hk) hdis (s.dropMsg m) n
    have hx := exec_queryScan ha hd hb (takesPath_of hs)
    rw [queryScan_next ((dropMsg_domainOf ..).trans hdom) hp, hcount] at hx
    exact ⟨_, hx, sends_of_net hnet (unitSend_sends ..), sameBut_of_mem hsame (unitSend_mem ..)⟩
  case scanEnds =>
    intro s m x q i n c d ha hb hd
    refine ⟨fun hs hfull => exec_queryScan_waits ha hd hb (takesPath_not hs hfull), fun hs hdom hp => ?_⟩
    rw [exec_queryScan ha hd hb (takesPath_of hs), queryScan_last ((dropMsg_domainOf ..).trans hdom) hp]
  case matching =>
    intro q x w lo hi hx
    have hlo (n : Nat) (hn : n < 3) : queryLo q n = lo n := by
      match n, hn with
      | 0, _ => rfl
      | 1, _ => rfl
      | 2, _ => rfl
    have hhi (n : Nat) (hn : n < 3) : queryHi q n = hi n := by
      match n, hn with
      | 0, _ => rfl
      | 1, _ => rfl
      | 2, _ => rfl
    refine ⟨queryMatches_all x, fun hk ⟨n, hn, hnan⟩ => queryMatches_nan hk hn hnan, fun hk hfin => ?_, fun hk => ?_⟩
    · rw [queryMatches_box x hk]
      refine forall₂_congr fun n hn => ?_
      obtain ⟨hfx, hfl, hfh⟩ := hfin n hn
      rw [hlo n hn, hhi n hn, leBits_finite (by decide) hfl hfx, leBits_finite (by decide) hfx hfh]
    · intro wide sq d2 r2 hd2 hr2
      have hd : squaredDistance q x = d2 := by
        simp only [squaredDistance, squaredOffset, hlo 0 (by decide), hlo 1 (by decide), hlo 2 (by decide)]
        rfl
      rw [queryMatches_radius x hk, hd, hhi 0 (by decide)]
      exact leBits_finite (by decide) hd2 hr2
  case entry =>
    intro s c d q k n hstate hmatch b r
    have hm : scanMatches s c d q k = true := by rw [scanMatches, hstate, hmatch]; rfl
    have hr : r = (n + 1, matchWritten s c d q k n) := by
      show s.scanPool c d q [k] n = _
      rw [scanPool_cons, if_pos hm]
      rfl
    have hb : b = q.core * 0x200000 + (q.buf + 32 * n) := Nat.add_assoc ..
    rw [hr, hb]
    refine ⟨rfl, fun hn => ?_, fun hn => ?_⟩
    · dsimp only
      rw [matchWritten, if_pos hn]
      exact ⟨writeBytes_holds _ _ fun _ => mem_readBytes_lt, fun j hj => writeBytes_byte_outside s _ (by rw [readBytes_length]; exact hj)⟩
    · dsimp only
      rw [matchWritten, if_neg (Nat.not_lt.mpr hn)]
  case release =>
    intro s m x q i c ha hb hd hs harms hheld
    obtain ⟨u, hu, harmed, hmem, hnext, hlast⟩ := queryLower_idle (s := s.dropMsg m) (c := c) q i (by rw [dropMsg_heldOps, hheld]) (by rw [dropMsg_arms, harms])
    refine ⟨u, ?_, by rw [harmed, dropMsg_armed], hmem, hnext, hlast⟩
    rw [exec_queryRelease ha hd hb (takesPath_of hs), hu]
  case descriptor =>
    intro s m x op d create code c ha hb hd
    by_cases hcode : code = 0
    · cases hcreate : create with
      | true =>
        have hx := exec_domainDescriptor_create ha hb hd hcode hcreate
        by_cases hown : c ∈ s.owners d
        · rw [if_pos (List.contains_iff_mem.mpr hown)] at hx
          have hnet : (((s.dropMsg m).knows c d).clearDomain c d).net = (s.dropMsg m).net := clearDomain_keeps State.net (fun _ _ _ _ => write_net ..) _ c d
          have hcores := clearDomain_keeps State.cores (fun _ _ _ _ => write_cores ..) ((s.dropMsg m).knows c d) c d
          refine ⟨_, hx, sends_of_net hnet (agentSend_sends ..), fun h => absurd hcode h, fun _ _ => ⟨?_, fun h => absurd hown h, fun r a _ hok hlen hmap => ?_⟩,
            fun _ h => by cases h⟩
          · have hrec := coreRec_of_cores hcores c
            show ((((s.dropMsg m).knows c d).clearDomain c d).coreRec c).domains = _
            rw [hrec, State.knows, coreRec_modCore_self]
            exact congrArg (· ++ [d]) (dropMsg_coreRec_keeps (g := CoreRec.domains) (fun _ _ => rfl) s m c)
          · obtain ⟨hpool, hhome⟩ := clearDomain_clears ((s.dropMsg m).knows c d) c hok hlen hmap
            exact ⟨fun i hi => recordIs_of_mem (hpool i hi) (agentSend_mem ..), fun e he => (read64_of_mem (agentSend_mem ..) _).trans (hhome e he)⟩
        · rw [if_neg fun h => hown (List.contains_iff_mem.mp h)] at hx
          refine ⟨_, hx, agentSend_sends .., fun h => absurd hcode h, fun _ _ => ⟨?_, fun _ => rfl, fun r a h => absurd h hown⟩, fun _ h => by cases h⟩
          show (((s.dropMsg m).knows c d).coreRec c).domains = _
          rw [State.knows, coreRec_modCore_self]
          exact congrArg (· ++ [d]) (dropMsg_coreRec_keeps (g := CoreRec.domains) (fun _ _ => rfl) s m c)
      | false =>
        refine ⟨_, exec_domainDescriptor_destroy ha hb hd hcode hcreate, agentSend_sends .., fun h => absurd hcode h, fun _ h => (by cases h), fun _ _ => ⟨rfl, ?_⟩⟩
        show (((s.dropMsg m).drops c d).coreRec c).domains = _
        rw [State.drops, coreRec_modCore_self]
        exact congrArg (List.filter _) (dropMsg_coreRec_keeps (g := CoreRec.domains) (fun _ _ => rfl) s m c)
    · exact ⟨_, exec_domainDescriptor_code ha hb hd hcode, agentSend_sends .., fun _ => ⟨rfl, rfl⟩, fun h => absurd h hcode, fun h => absurd h hcode⟩
  case answer =>
    intro s m x op o ha hb ho
    exact ⟨fun h hw => ⟨_, exec_rdomAnswer_last ha hb ho h hw, rfl⟩, fun h => ⟨_, exec_rdomAnswer_more ha hb ho h, rfl⟩⟩

end Sys2Proof.Machine

/-! ## The device: ownership, starts, faults and health (O60) -/

namespace Sys2Proof.Machine

open State Sys2Proof.Claims

/-! ### Ownership and writes to the block (R388 to R393) -/

theorem reaches_iff (s : State) (m : Master) : s.reaches m = true ↔ Reaches s m := by
  rw [State.reaches, Reaches, Bool.or_eq_true, bne_iff_ne, Bool.not_eq_true']

theorem isOwner_iff (s : State) (m : Master) : s.isOwner m = true ↔ s.dev.own = m.code := beq_iff_eq

theorem submit_eq (m : Master) (port : Nat) (pk : List Word) (s : State) : submit m port pk s = Submitted s m port pk := by
  rw [submit, Submitted, ite_not]

/-- Entry of every key after a run of keys has been put. -/
theorem Store.get_foldl_put {α : Type} [DecidableEq α] (d : α) (v : Nat → α) (base n i : Nat) (x : Store α) :
    Store.get d ((List.range n).foldl (fun (y : Store α) b => Store.set d y (base + b) (v b)) x) i =
      if base ≤ i ∧ i < base + n then v (i - base) else Store.get d x i := by
  induction n with
  | zero => rw [if_neg (by omega)]; rfl
  | succ n ih =>
    rw [List.range_succ, List.foldl_append, List.foldl_cons, List.foldl_nil, Store.get_set, ih]
    by_cases hi : i = base + n
    · rw [if_pos hi, if_pos (by omega), hi, Nat.add_sub_cancel_left]
    · rw [if_neg hi]
      by_cases hin : base ≤ i ∧ i < base + n
      · rw [if_pos hin, if_pos (by omega)]
      · rw [if_neg hin, if_neg (by omega)]

/-- DBGSTOP with one of its words written (R393). -/
theorem writeDbgstop_stopped {word : Nat} (v : Word) (s : State) (h : word < 20) (i : Nat) : Store.get false (writeDbgstop word v s).dev.stopped i =
    if 64 * word ≤ i ∧ i < 64 * word + 64 then v.getLsbD (i - 64 * word) else Store.get false s.dev.stopped i := by
  rw [writeDbgstop, if_neg (Nat.not_le.mpr h)]
  exact Store.get_foldl_put false (bitAt v) (64 * word) 64 i s.dev.stopped

theorem writeDbgstop_frame (word : Nat) (v : Word) (s : State) : (writeDbgstop word v s).slots = s.slots ∧ (writeDbgstop word v s).mem = s.mem := by
  rw [writeDbgstop]
  split
  · exact ⟨rfl, rfl⟩
  · exact ⟨rfl, rfl⟩

section

variable {s : State} {m : Master} (hr : Reaches s m)
include hr

theorem not_reaches_false : ¬ (!s.reaches m) = true := by
  rw [(reaches_iff s m).mpr hr]
  decide

theorem exec_ownClaim_force (epoch : Nat) : exec (.ownClaim m true epoch) s = .next (if m = .board then OwnedBy s m.code else Denied s) := by
  show Host.Outcome.next (ownClaim m true epoch s) = _
  rw [ownClaim, if_neg (not_reaches_false hr), if_pos rfl]
  rfl

theorem exec_ownClaim_free (epoch : Nat) : exec (.ownClaim m false epoch) s =
    .next (if s.dev.own = 0 ∧ epoch % 65536 = s.dev.epoch then OwnedBy s m.code else Denied s) := by
  show Host.Outcome.next (ownClaim m false epoch s) = _
  rw [ownClaim, if_neg (not_reaches_false hr), if_neg Bool.false_ne_true]
  rfl

theorem exec_ownHandOver (dst epoch : Nat) : exec (.ownHandOver m dst epoch) s =
    .next (if s.dev.own = m.code ∧ epoch % 65536 = s.dev.epoch ∧ dst % 4 ≠ 0 then OwnedBy s (dst % 4) else Denied s) := by
  show Host.Outcome.next (ownHandOver m dst epoch s) = _
  rw [ownHandOver, if_neg (not_reaches_false hr)]
  simp only [Bool.and_eq_true, isOwner_iff, beq_iff_eq, bne_iff_ne, and_assoc]
  rfl

theorem exec_ownRelease (epoch : Nat) : exec (.ownRelease m epoch) s =
    .next (if s.dev.own = m.code ∧ epoch % 65536 = s.dev.epoch then OwnedBy s 0 else Denied s) := by
  show Host.Outcome.next (ownRelease m epoch s) = _
  rw [ownRelease, if_neg (not_reaches_false hr)]
  simp only [Bool.and_eq_true, isOwner_iff, beq_iff_eq]
  rfl

theorem exec_lqputGo (h : s.dev.own = m.code) : exec (.lqputGo m) s =
    .next { (Submitted s m 0 s.dev.lqBuf).2 with dev := { (Submitted s m 0 s.dev.lqBuf).2.dev with lqAns := (Submitted s m 0 s.dev.lqBuf).1 } } := by
  show Host.Outcome.next (lqputGo m s) = _
  rw [lqputGo, if_neg (not_reaches_false hr), if_neg (by rw [(isOwner_iff s m).mpr h]; decide), submit_eq]
  rfl

theorem exec_lqputGo_denied (h : s.dev.own ≠ m.code) : exec (.lqputGo m) s = .next (Denied s) := by
  show Host.Outcome.next (lqputGo m s) = _
  rw [lqputGo, if_neg (not_reaches_false hr), if_pos (by rw [Bool.not_eq_true', Bool.eq_false_iff]; exact mt (isOwner_iff s m).mp h)]
  rfl

theorem exec_dbgstopWrite (word : Nat) (v : Word) : exec (.dbgstopWrite m word v) s =
    .next (if s.dev.own = m.code then writeDbgstop word v s else Denied s) := by
  show Host.Outcome.next (dbgstopWrite m word v s) = _
  rw [dbgstopWrite, if_neg (not_reaches_false hr)]
  simp only [isOwner_iff]
  rfl

theorem exec_registerWrite_denied {off : Nat} (v : Word) (h : s.dev.own ≠ m.code) (h10 : off ≠ 0x010) (h40 : off ≠ 0x040 ∨ m ≠ .board) :
    exec (.registerWrite m off v) s = .next (Denied s) := by
  show Host.Outcome.next (registerWrite m off v s) = _
  have hboard : ¬ (off = 0x040 ∧ m = .board) := fun ⟨ho, hm⟩ => h40.elim (absurd ho) (absurd hm)
  rw [registerWrite, if_neg (not_reaches_false hr), if_neg h10, if_neg hboard,
    if_pos (by rw [Bool.not_eq_true', Bool.eq_false_iff]; exact mt (isOwner_iff s m).mp h)]
  rfl

theorem exec_registerWrite_pkgNum (v : Word) (h : s.dev.own = m.code ∨ m = .board) :
    exec (.registerWrite m 0x040 v) s = .next { s with dev := { s.dev with pkgReg := fld v 0 6, pkgValid := v.getLsbD 8 } } := by
  show Host.Outcome.next (registerWrite m 0x040 v s) = _
  rw [registerWrite, if_neg (not_reaches_false hr), if_neg (by decide)]
  by_cases hb : m = .board
  · rw [if_pos ⟨rfl, hb⟩]
    rfl
  · have hown := (isOwner_iff s m).mpr (h.resolve_right hb)
    rw [if_neg fun h => hb h.2, if_neg (by rw [hown]; decide), if_pos rfl]
    rfl

theorem exec_registerWrite_lqBuf {i : Nat} (v : Word) (h : s.dev.own = m.code) (hi : i < 8) :
    exec (.registerWrite m (0x100 + 8 * i) v) s = .next { s with dev := { s.dev with lqBuf := s.dev.lqBuf.set i v } } := by
  have hown := (isOwner_iff s m).mpr h
  have hindex : (0x100 + 8 * i - 0x100) / 8 = i := by omega
  show Host.Outcome.next (registerWrite m (0x100 + 8 * i) v s) = _
  rw [registerWrite, if_neg (not_reaches_false hr), if_neg (by omega), if_neg (by omega), if_neg (by rw [hown]; decide), if_neg (by omega),
    if_neg (by omega), if_pos (by omega), hindex]
  rfl

end

theorem exec_managementLaunch {s : State} (port : Nat) (pk : BitVec 512) (hp : s.dev.portsDown = false) (h : s.dev.own = 2) :
    let r := Submitted s .rack port ((List.range 8).map fun i => pk.extractLsb' (64 * i) 64)
    exec (.managementLaunch port pk) s = .next { r.2 with signals := r.2.signals ++ [(3, port, [r.1])] } := by
  have hr : Reaches s .rack := .inr hp
  show Host.Outcome.next (managementLaunch port pk s) = _
  rw [managementLaunch, if_neg (not_reaches_false hr), if_neg (by rw [(isOwner_iff s .rack).mpr h]; decide)]
  dsimp only
  rw [submit_eq]

theorem exec_managementLaunch_denied {s : State} (port : Nat) (pk : BitVec 512) (hp : s.dev.portsDown = false) (h : s.dev.own ≠ 2) :
    exec (.managementLaunch port pk) s = .next (Denied s) := by
  have hr : Reaches s .rack := .inr hp
  show Host.Outcome.next (managementLaunch port pk s) = _
  rw [managementLaunch, if_neg (not_reaches_false hr), if_pos (by rw [Bool.not_eq_true', Bool.eq_false_iff]; exact mt (isOwner_iff s .rack).mp h)]
  rfl

/-! ### What a step of a start changes (R394 to R397) -/

/-- Step k begins with its result in the log (R394). -/
def State.stepping (s : State) (k r : Nat) : State :=
  s.modDev fun d => { d with startStep := k
                             log := Store.set {} d.log (d.startNum % 32)
                               { Store.get {} d.log (d.startNum % 32) with results := setFld (Store.get {} d.log (d.startNum % 32)).results (4 * k - 4) 4 r } }

theorem fld_zero (lo w : Nat) : fld 0 lo w = 0 := by
  rw [fld_eq_div_mod, show (0 : Word).toNat = 0 from rfl, Nat.zero_div, Nat.zero_mod]

theorem stepPath_zero (k : Nat) : stepPath 0 k = .primary := by
  rw [stepPath, if_neg (by decide), if_neg fun h => absurd h.1 (by decide)]

section

variable {o : StartOutcome} (s : State) (l : List Nat)

/-- A step that gives 1 or 5 after a record that runs it on its primary path leads to the next (R395). -/
theorem startSteps_goes {k r : Nat} (hr : stepResult o s.dev.pkgValid k .primary = r) (hok : r = 1 ∨ r = 5) :
    startSteps o 0 s (k :: l) = startSteps o 0 (stepEffect o k r (s.stepping k r)) l := by
  have hgo : ¬ ((r = 2 ∨ r = 4) ∧ (!skippable k) = true) := fun ⟨h, _⟩ => by omega
  rw [startSteps]
  simp only [fld_zero, stepPath_zero, hr, if_neg hgo]
  rfl

/-- A step that fails and may not be skipped ends the start (R397). -/
theorem startSteps_fails {k : Nat} (hr : stepResult o s.dev.pkgValid k .primary = 2) (hk : skippable k = false) :
    startSteps o 0 s (k :: l) = (stepEffect o k 2 (s.stepping k 2)).modDev fun d => { d with startState := 2, startStep := k } := by
  rw [startSteps]
  simp only [fld_zero, stepPath_zero, hr, hk, Bool.not_false, true_or, true_and, if_true]
  rfl

theorem stepResult_passes (hf : o.fails = []) (he : o.engineFaulty = []) (v : Bool) {k : Nat} (hk : k ≠ 9) : stepResult o v k .primary = 1 := by
  rw [stepResult, if_neg fun h => hk h.1, hf, he]
  simp only [List.contains_nil, List.isEmpty_nil, Bool.not_true, Bool.and_false, Bool.or_self, Bool.false_eq_true, if_false]

theorem stepResult_nine (hf : o.fails = []) (v : Bool) : stepResult o v 9 .primary = if v then 1 else 5 := by
  rw [stepResult, hf]
  cases v
  · rfl
  · rfl

end

/-- Core-local data, memory and nothing else change as the firmware is loaded. -/
theorem writeWords_onlyData (s : State) (key : Nat) (ws : List Word) : OnlyData s (s.writeWords key ws) := by
  induction ws generalizing s key with
  | nil => exact .refl s
  | cons w ws ih => exact (write_onlyData s key 8 w.toNat).trans (ih (s.write64 key w) (key + 8))

theorem loadFirmware_onlyData (f : Firmware) (s : State) (c : Nat) : OnlyData s (loadFirmware f s c) := by
  rw [loadFirmware]
  split
  · exact (writeWords_onlyData ..).trans (modCore_onlyData ..)
  · exact modCore_onlyData ..

/-- The pager positions of an outcome, or those that stand. -/
def State.withPagers (s : State) (o : StartOutcome) : State :=
  match o.pagers with
  | none => s
  | some l => { s with pagers := l.foldl (fun (x : Store (List Nat)) e => Store.set [0, 24] x e.1 ((e.2.filter (· < 32)).take 4)) [] }

theorem startPagers_eq (o : StartOutcome) (s : State) : startPagers o s =
    ((List.range 1280).filter fun c => (s.withPagers o).isPager c && !(s.withPagers o).isOffline c).foldl (loadFirmware o.firmware) (s.withPagers o) := rfl

theorem startPagers_onlyData (o : StartOutcome) (s : State) : OnlyData (s.withPagers o) (startPagers o s) :=
  OnlyData.foldl (loadFirmware o.firmware) (loadFirmware_onlyData o.firmware) _ _

theorem withPagers_frame (o : StartOutcome) (s : State) : (s.withPagers o).dev = s.dev ∧ (s.withPagers o).slots = s.slots ∧ (s.withPagers o).mem = s.mem ∧
    (s.withPagers o).offline = s.offline := by
  rw [State.withPagers]
  split
  · exact ⟨rfl, rfl, rfl, rfl⟩
  · exact ⟨rfl, rfl, rfl, rfl⟩

theorem startPagers_frame (o : StartOutcome) (s : State) : (startPagers o s).dev = s.dev ∧ (startPagers o s).slots = s.slots := by
  obtain ⟨hdev, hslots, -⟩ := withPagers_frame o s
  rw [startPagers_onlyData o s]
  exact ⟨hdev, hslots⟩

/-- From s to t only links and their waiting events change. -/
def OnlyLinks (s t : State) : Prop := t = { s with links := t.links, linkEvents := t.linkEvents }

theorem OnlyLinks.refl (s : State) : OnlyLinks s s := rfl

theorem OnlyLinks.trans {s t u : State} (h : OnlyLinks s t) (k : OnlyLinks t u) : OnlyLinks s u := by
  unfold OnlyLinks at *; rw [k, h]

theorem changeLink_onlyLinks (s : State) (l : Nat) (f : LinkRec → LinkRec) : OnlyLinks s (s.changeLink l f) := by
  rw [State.changeLink]
  split
  · rfl
  · rfl

/-- The package as step 9 numbers it (R392). -/
def State.numberedBy (s : State) (passed : Bool) : State := { s with inPod := passed, pkgNum := if passed then s.dev.pkgReg else 0, unreachable := [] }

theorem startLinks_onlyLinks (passed : Bool) (s : State) : OnlyLinks (s.numberedBy passed) (startLinks passed s) := by
  rw [startLinks]
  generalize List.range 12 = l
  have h (x : State) : OnlyLinks x (l.foldl (fun (x : State) i => x.changeLink i fun _ => if passed then { width := 0, up := true } else { width := 3 }) x) := by
    induction l generalizing x with
    | nil => exact .refl x
    | cons i l ih => exact (changeLink_onlyLinks ..).trans (ih _)
  exact h _

/-! ### The whole start (R394) -/

/-- The state in which a start begins its steps. -/
def begun (s : State) : State :=
  { leavePowerGating s with
    offline := [], pagers := []
    dev := { s.dev with
      startNum := (s.dev.startNum + 1) % 2 ^ 32, startState := if s.dev.startState = 3 then 3 else 0, startStep := 1, stopped := [], health := [], baseline := false
      portsDown := false, log := Store.set {} s.dev.log ((s.dev.startNum + 1) % 2 ^ 32 % 32) { num := (s.dev.startNum + 1) % 2 ^ 32 } } }

/-- A start whose previous record runs every step on its primary path. -/
theorem exec_startSequence {s : State} (o : StartOutcome) (hs : s.dev.startState ≠ 1) (hp : (Store.get {} s.dev.log (s.dev.startNum % 32)).results = 0) :
    exec (.startSequence o) s = .next (startSteps o 0 (begun s) [1, 2, 3, 4, 5, 6, 7, 8, 9, 10, 11, 12]) := by
  show Host.Outcome.next (startSequence o s) = _
  rw [startSequence, if_neg hs]
  dsimp only
  rw [hp, ite_self, begun]

/-- The first six steps. -/
def tested (s : State) : State := (((((s.stepping 1 1).stepping 2 1).stepping 3 1).stepping 4 1).stepping 5 1).stepping 6 1
/-- Step 7. -/
def moved (o : StartOutcome) (s : State) : State := startMovers o ((tested s).stepping 7 1)
/-- Step 8. -/
def paged (o : StartOutcome) (s : State) : State := startPagers o ((moved o s).stepping 8 1)
/-- Step 9, whose result follows PKGNUM.V (R392). -/
def linked (o : StartOutcome) (s : State) : State := startLinks s.dev.pkgValid ((paged o s).stepping 9 (if s.dev.pkgValid then 1 else 5))
/-- Context 0 becomes live and the device runs. -/
def State.madeLive (s : State) : State :=
  ({ s with ctxs := Store.set {} s.ctxs 0 { s.ctx 0 with state := 1 } } : State).modDev fun d => { d with startState := 1, startStep := 0 }
/-- Steps 10, 11 and 12. -/
def State.steppedOut (s : State) : State :=
  ((((s.stepping 10 1).modDev fun d => { d with portsDown := false }).stepping 11 1).modDev fun d => { d with baseline := true }).stepping 12 1 |>.madeLive
/-- The whole start. -/
def startedUp (o : StartOutcome) (s : State) : State := (linked o s).steppedOut

theorem startMovers_frame (o : StartOutcome) (s : State) : (startMovers o s).dev = s.dev ∧ (startMovers o s).offline = s.offline ∧ (startMovers o s).mem = s.mem := by
  simp only [startMovers, and_self]

theorem State.stepping_frame (s : State) (k r : Nat) : (s.stepping k r).offline = s.offline ∧ (s.stepping k r).mem = s.mem ∧ (s.stepping k r).slots = s.slots := by
  simp only [State.stepping, State.modDev, and_self]

theorem tested_frame (s : State) : (tested s).offline = s.offline ∧ (tested s).mem = s.mem := by
  simp only [tested, stepping_frame, and_self]

theorem State.stepping_keeps {β : Type} {g : Device → β} (hg : ∀ d k l, g { d with startStep := k, log := l } = g d) (s : State) (k r : Nat) :
    g (s.stepping k r).dev = g s.dev := hg ..

/-- What the steps before step 9 keep of the control block. -/
theorem paged_keeps {β : Type} {g : Device → β} (hg : ∀ d k l, g { d with startStep := k, log := l } = g d) (o : StartOutcome) (s : State) :
    g (paged o s).dev = g s.dev := by
  rw [paged, (startPagers_frame ..).1, stepping_keeps hg, moved, (startMovers_frame ..).1, stepping_keeps hg, tested, stepping_keeps hg, stepping_keeps hg, stepping_keeps hg,
    stepping_keeps hg, stepping_keeps hg, stepping_keeps hg]

theorem linked_eq (o : StartOutcome) (s : State) : ∃ l e, linked o s = { (paged o s).stepping 9 (if s.dev.pkgValid then 1 else 5) with
    inPod := s.dev.pkgValid, pkgNum := if s.dev.pkgValid then s.dev.pkgReg else 0, unreachable := [], links := l, linkEvents := e } := by
  have hreg : ((paged o s).stepping 9 (if s.dev.pkgValid then 1 else 5)).dev.pkgReg = s.dev.pkgReg :=
    (stepping_keeps (g := Device.pkgReg) (fun _ _ _ => rfl) ..).trans (paged_keeps (g := Device.pkgReg) (fun _ _ _ => rfl) o s)
  have hlinks : linked o s = { ((paged o s).stepping 9 (if s.dev.pkgValid then 1 else 5)).numberedBy s.dev.pkgValid with
      links := (linked o s).links, linkEvents := (linked o s).linkEvents } := startLinks_onlyLinks ..
  refine ⟨(linked o s).links, (linked o s).linkEvents, Eq.trans hlinks ?_⟩
  rw [State.numberedBy, hreg]

theorem startSteps_all {o : StartOutcome} (s : State) (hf : o.fails = []) (hc : o.faulty = []) (he : o.engineFaulty = []) :
    startSteps o 0 s [1, 2, 3, 4, 5, 6, 7, 8, 9, 10, 11, 12] = startedUp o s := by
  have hpass (t : State) (l : List Nat) {k : Nat} (hk : k ≠ 9) : startSteps o 0 t (k :: l) = startSteps o 0 (stepEffect o k 1 (t.stepping k 1)) l :=
    startSteps_goes t l (stepResult_passes hf he _ hk) (.inl rfl)
  have hthree (t : State) : stepEffect o 3 1 t = t := by
    rw [stepEffect, hc]
    exact congrArg (fun l => { t with offline := l }) (List.append_nil t.offline)
  have hseven (t : State) : stepEffect o 7 1 t = startMovers o t := rfl
  have height (t : State) : stepEffect o 8 1 t = startPagers o t := rfl
  have hten (t : State) : stepEffect o 10 1 t = t.modDev fun d => { d with portsDown := false } := rfl
  have heleven (t : State) : stepEffect o 11 1 t = t.modDev fun d => { d with baseline := true } := rfl
  have htwelve (t : State) : stepEffect o 12 1 t = t.madeLive := rfl
  have hvalid : (paged o s).dev.pkgValid = s.dev.pkgValid := paged_keeps (g := Device.pkgValid) (fun _ _ _ => rfl) o s
  have hnine : startSteps o 0 (paged o s) [9, 10, 11, 12] = startSteps o 0 (linked o s) [10, 11, 12] := by
    rw [startSteps_goes (paged o s) [10, 11, 12] (stepResult_nine hf _) (by cases (paged o s).dev.pkgValid; exacts [.inr rfl, .inl rfl]), hvalid, linked]
    cases s.dev.pkgValid
    · rfl
    · rfl
  calc startSteps o 0 s [1, 2, 3, 4, 5, 6, 7, 8, 9, 10, 11, 12]
      = startSteps o 0 (tested s) [7, 8, 9, 10, 11, 12] := by
        rw [hpass _ _ (by decide), hpass _ _ (by decide), hpass _ _ (by decide), hthree, hpass _ _ (by decide), hpass _ _ (by decide), hpass _ _ (by decide)]
        rfl
    _ = startSteps o 0 (paged o s) [9, 10, 11, 12] := by
        rw [hpass _ _ (by decide), hseven, hpass _ _ (by decide), height, paged, moved]
    _ = startSteps o 0 (linked o s) [10, 11, 12] := hnine
    _ = startedUp o s := by
        rw [hpass _ _ (by decide), hten, hpass _ _ (by decide), heleven, hpass _ _ (by decide), htwelve, startSteps, startedUp, State.steppedOut]

/-- From s to t only the control block and the contexts change. -/
def OnlyBlock (s t : State) : Prop := t = { s with dev := t.dev, ctxs := t.ctxs }

theorem OnlyBlock.trans {s t u : State} (h : OnlyBlock s t) (k : OnlyBlock t u) : OnlyBlock s u := by
  unfold OnlyBlock at *; rw [k, h]

theorem State.modDev_onlyBlock (s : State) (f : Device → Device) : OnlyBlock s (s.modDev f) := rfl

theorem State.stepping_onlyBlock (s : State) (k r : Nat) : OnlyBlock s (s.stepping k r) := rfl

theorem State.madeLive_onlyBlock (s : State) : OnlyBlock s s.madeLive := rfl

theorem State.steppedOut_onlyBlock (s : State) : OnlyBlock s s.steppedOut :=
  (((((stepping_onlyBlock _ 10 1).trans (modDev_onlyBlock ..)).trans (stepping_onlyBlock _ 11 1)).trans (modDev_onlyBlock ..)).trans
    (stepping_onlyBlock _ 12 1)).trans (madeLive_onlyBlock _)

theorem State.steppedOut_dev (s : State) : let d := s.steppedOut.dev
    d.startState = 1 ∧ d.startStep = 0 ∧ d.startNum = s.dev.startNum ∧ d.baseline = true ∧ d.portsDown = false := by
  simp only [State.steppedOut, State.madeLive, State.modDev, State.stepping, and_self]

theorem State.steppedOut_ctx (s : State) : (s.steppedOut.ctx 0).state = 1 := by
  have h (t : State) : (t.madeLive.ctx 0).state = 1 := by
    show (Store.get {} (Store.set {} t.ctxs 0 { t.ctx 0 with state := 1 }) 0).state = 1
    rw [Store.get_set_self]
  exact h _

theorem startedUp_dev (o : StartOutcome) (s : State) : let d := (startedUp o s).dev
    d.startState = 1 ∧ d.startStep = 0 ∧ d.startNum = s.dev.startNum ∧ d.baseline = true ∧ d.portsDown = false := by
  obtain ⟨l, e, h⟩ := linked_eq o s
  have hpaged : (paged o s).dev.startNum = s.dev.startNum := paged_keeps (g := Device.startNum) (fun _ _ _ => rfl) o s
  have hnum : (linked o s).dev.startNum = s.dev.startNum := by
    generalize paged o s = p at h hpaged
    rw [h]
    exact hpaged
  rw [startedUp, ← hnum]
  exact steppedOut_dev _

/-- The fields that the steps after step 8 keep, or that step 9 sets. -/
theorem startedUp_frame (o : StartOutcome) (s : State) : (startedUp o s).slots = (paged o s).slots ∧ (startedUp o s).mem = (paged o s).mem ∧
    (startedUp o s).cores = (paged o s).cores ∧ (startedUp o s).pagers = (paged o s).pagers ∧ (startedUp o s).inPod = s.dev.pkgValid ∧
    (startedUp o s).pkgNum = if s.dev.pkgValid then s.dev.pkgReg else 0 := by
  obtain ⟨l, e, h⟩ := linked_eq o s
  rw [startedUp]
  generalize paged o s = p at *
  generalize linked o s = t at *
  rw [steppedOut_onlyBlock t, h]
  exact ⟨rfl, rfl, rfl, rfl, rfl, rfl⟩

/-! ### What a start leaves (R394) -/

theorem foldl_reaches {α : Type} {P : State → Prop} {f : State → α → State} {l : List α} {e : α} (he : e ∈ l) (hset : ∀ y, P (f y e))
    (hkeep : ∀ a y, P y → P (f y a)) (s : State) : P (l.foldl f s) := by
  have hstay (k : List α) (y : State) (hy : P y) : P (k.foldl f y) := by
    induction k generalizing y with
    | nil => exact hy
    | cons a k ih => exact ih (f y a) (hkeep a y hy)
  induction l generalizing s with
  | nil => cases he
  | cons a l ih =>
    rcases List.mem_cons.mp he with rfl | he
    · exact hstay l (f s e) (hset s)
    · exact ih he (f s a)

/-- Off-line cores come back with their cycle count at 0 (R25). -/
theorem leavePowerGating_cycle {s : State} {c : Nat} (h : c ∈ s.offline) : ((leavePowerGating s).coreRec c).cycle = 0 := by
  refine foldl_reaches (P := fun y => (y.coreRec c).cycle = 0) h (fun y => by rw [coreRec_modCore_self]) (fun a y hy => ?_) s
  by_cases hac : c = a
  · subst hac
    rw [coreRec_modCore_self]
  · rw [coreRec_modCore_ne _ _ hac]
    exact hy

theorem leavePowerGating_frame (s : State) : (leavePowerGating s).mem = s.mem ∧ (leavePowerGating s).slots = s.slots :=
  ⟨foldl_keeps State.mem (f := fun (x : State) c => x.modCore c fun r => { r with cycle := 0 }) s.offline (fun _ _ _ => rfl) s,
    foldl_keeps State.slots (f := fun (x : State) c => x.modCore c fun r => { r with cycle := 0 }) s.offline (fun _ _ _ => rfl) s⟩

/-- An entry of a list of slots by core. -/
theorem Store.get_slots {α : Type} (d : α) (f : Nat → α) {c : Nat} {l : List Nat} (h : c ∈ l) :
    Store.get d (l.map fun c => (c * 64 + 63, f c)) (c * 64 + 63) = f c := by
  induction l with
  | nil => cases h
  | cons a l ih =>
    rw [List.map_cons, Store.get]
    by_cases hac : a = c
    · rw [hac, if_pos rfl]
    · rw [if_neg (by omega)]
      exact ih ((List.mem_cons.mp h).resolve_left (Ne.symm hac))

/-- The movement slot of every on-line core after step 7 (R145, R153). -/
theorem startMovers_slot (o : StartOutcome) {s : State} {c : Nat} (hc : c < 1280) (hon : s.isOffline c = false) :
    (startMovers o s).slot (c * 64 + 63) = { phase := .parked, park := .mailbox, uid := s.nextId + c, mode := 2, limit := o.moverWindow } := by
  have hmem : c ∈ (List.range Config.cores).filter fun c => !s.isOffline c := List.mem_filter.mpr ⟨List.mem_range.mpr hc, by rw [hon]; rfl⟩
  simp only [State.slot, startMovers]
  generalize (List.range Config.cores).filter (fun c => !s.isOffline c) = l at hmem
  exact Store.get_slots {} (fun c => ({ phase := .parked, park := .mailbox, uid := s.nextId + c, mode := 2, limit := o.moverWindow } : Slot)) hmem

/-! ### The firmware on a pager core -/

theorem writeWords_byte_outside (s : State) {key k : Nat} {ws : List Word} (h : k < key ∨ key + 8 * ws.length ≤ k) :
    (s.writeWords key ws).mem.byte k = s.mem.byte k := by
  induction ws generalizing s key with
  | nil => rfl
  | cons w ws ih =>
    rw [List.length_cons] at h
    rw [State.writeWords, ih _ (by omega)]
    exact write_byte_outside s _ (by omega)

theorem writeWords_readN (s : State) (key : Nat) {ws : List Word} {j : Nat} (h : j < ws.length) :
    (s.writeWords key ws).mem.readN (key + 8 * j) 8 = (ws.getD j 0).toNat := by
  induction ws generalizing s key j with
  | nil => cases h
  | cons w ws ih =>
    rw [State.writeWords]
    cases j with
    | zero =>
      rw [Memory.readN_congr _ (s.write64 key w).mem _ _ fun k hk => writeWords_byte_outside _ (by omega), State.write64, write_mem]
      exact (Memory.readN_writeN_self s.mem key 8 w.toNat).trans (Nat.mod_eq_of_lt w.isLt)
    | succ j =>
      rw [show key + 8 * (j + 1) = key + 8 + 8 * j by omega, ih _ _ (by rw [List.length_cons] at h; omega)]
      rfl

theorem writeWords_cores (s : State) (key : Nat) (ws : List Word) : (s.writeWords key ws).cores = s.cores := by
  induction ws generalizing s key with
  | nil => rfl
  | cons w ws ih => rw [State.writeWords, ih, State.write64, write_cores]

/-- The words of the firmware that fits, on core a. -/
theorem loadFirmware_mem (f : Firmware) (s : State) (a : Nat) : (loadFirmware f s a).mem =
    if f.offset + 8 * f.words.length ≤ 0x180000 then (s.writeWords (spadKey a f.offset) f.words).mem else s.mem := by
  rw [loadFirmware]
  show (if f.offset + 8 * f.words.length ≤ 0x180000 then s.writeWords (spadKey a f.offset) f.words else s).mem = _
  split
  · rfl
  · rfl

theorem loadFirmware_coreRec_ne (f : Firmware) (s : State) {a c : Nat} (h : c ≠ a) : (loadFirmware f s a).coreRec c = s.coreRec c := by
  rw [loadFirmware, coreRec_modCore_ne _ _ h]
  split
  · exact coreRec_of_cores (writeWords_cores ..) c
  · rfl

theorem loadFirmware_pageVec (f : Firmware) (s : State) (c : Nat) : ((loadFirmware f s c).coreRec c).pageVec = f.pageVec % 2 ^ 21 := by
  rw [loadFirmware, coreRec_modCore_self]

/-- Core c holds the firmware. -/
def HoldsFirmware (f : Firmware) (c : Nat) (s : State) : Prop :=
  (s.coreRec c).pageVec = f.pageVec % 2 ^ 21 ∧ (f.offset + 8 * f.words.length ≤ 0x180000 →
    ∀ j, j < f.words.length → s.mem.readN (c * 0x200000 + f.offset + 8 * j) 8 = (f.words.getD j 0).toNat)

theorem loadFirmware_holds (f : Firmware) (s : State) (c : Nat) : HoldsFirmware f c (loadFirmware f s c) := by
  refine ⟨loadFirmware_pageVec f s c, fun hfit j hj => ?_⟩
  rw [loadFirmware_mem, if_pos hfit]
  exact writeWords_readN s (spadKey c f.offset) hj

theorem loadFirmware_keeps {f : Firmware} {c : Nat} (a : Nat) {s : State} (h : HoldsFirmware f c s) : HoldsFirmware f c (loadFirmware f s a) := by
  by_cases hac : c = a
  · subst hac
    exact loadFirmware_holds f s c
  · obtain ⟨hvec, hwords⟩ := h
    refine ⟨by rw [loadFirmware_coreRec_ne f s hac]; exact hvec, fun hfit j hj => ?_⟩
    rw [loadFirmware_mem, if_pos hfit, ← hwords hfit j hj]
    exact Memory.readN_congr _ _ _ _ fun k hk => writeWords_byte_outside s (by simp only [spadKey]; omega)

/-- Every pager core that is on line holds the firmware after step 8. -/
theorem startPagers_holds (o : StartOutcome) {s : State} {c : Nat} (hc : c < 1280) (hp : (s.withPagers o).isPager c = true) (hon : s.isOffline c = false) :
    HoldsFirmware o.firmware c (startPagers o s) := by
  have hon' : (s.withPagers o).isOffline c = false := by
    rw [State.isOffline, (withPagers_frame o s).2.2.2]
    exact hon
  rw [startPagers_eq]
  refine foldl_reaches (List.mem_filter.mpr ⟨List.mem_range.mpr hc, ?_⟩) (fun y => loadFirmware_holds o.firmware y c) (fun a y => loadFirmware_keeps a) _
  rw [hp, hon']
  rfl

theorem startPagers_mem {o : StartOutcome} (s : State) (h : o.firmware.words = []) : (startPagers o s).mem = s.mem := by
  have hload (y : State) (c : Nat) : (loadFirmware o.firmware y c).mem = y.mem := by
    rw [loadFirmware_mem, h]
    split
    · rfl
    · rfl
  rw [startPagers_eq, foldl_keeps State.mem _ fun c _ y => hload y c]
  exact (withPagers_frame o s).2.2.1

theorem startPagers_pagers (o : StartOutcome) (s : State) : (startPagers o s).pagers = (s.withPagers o).pagers := by rw [startPagers_onlyData o s]

theorem isPager_of_pagers {s t : State} (h : t.pagers = s.pagers) (c : Nat) : t.isPager c = s.isPager c := by
  rw [State.isPager, State.isPager, State.pagersOf, State.pagersOf, h]

theorem moved_offline (o : StartOutcome) (s : State) : ((moved o s).stepping 8 1).offline = s.offline := by
  rw [(stepping_frame ..).1, moved, (startMovers_frame ..).2.1, (stepping_frame ..).1, (tested_frame s).1]

theorem moved_mem (o : StartOutcome) (s : State) : ((moved o s).stepping 8 1).mem = s.mem := by
  rw [(stepping_frame ..).2.1, moved, (startMovers_frame ..).2.2, (stepping_frame ..).2.1, (tested_frame s).2]

theorem isOffline_none {s : State} (h : s.offline = []) (c : Nat) : s.isOffline c = false := by rw [State.isOffline, h]; rfl

/-- Slot 63 of every core after a start with no core off line. -/
theorem startedUp_slot (o : StartOutcome) {s : State} {c : Nat} (hon : s.offline = []) (hc : c < 1280) : let sl := (startedUp o s).slot (c * 64 + 63)
    sl.phase = .parked ∧ sl.park = .mailbox ∧ sl.mode = 2 := by
  have hslots : (startedUp o s).slots = (startMovers o ((tested s).stepping 7 1)).slots := by
    rw [(startedUp_frame o s).1, paged, (startPagers_frame ..).2, (stepping_frame ..).2.2, moved]
  have hoff : ((tested s).stepping 7 1).offline = [] := by rw [(stepping_frame ..).1, (tested_frame s).1, hon]
  intro sl
  have hsl : sl = (startMovers o ((tested s).stepping 7 1)).slot (c * 64 + 63) := slot_of_slots hslots _
  rw [hsl, startMovers_slot o hc (isOffline_none hoff c)]
  exact ⟨rfl, rfl, rfl⟩

/-- Every pager core holds the firmware after a start with no core off line. -/
theorem startedUp_firmware (o : StartOutcome) {s : State} {c : Nat} (hon : s.offline = []) (hc : c < 1280) (hp : (startedUp o s).isPager c = true) :
    HoldsFirmware o.firmware c (startedUp o s) := by
  obtain ⟨-, hmem, hcores, hpagers, -⟩ := startedUp_frame o s
  have hpager : (((moved o s).stepping 8 1).withPagers o).isPager c = true := by
    rw [← hp]
    exact isPager_of_pagers (((startPagers_pagers o _).symm).trans hpagers.symm) c
  obtain ⟨hvec, hwords⟩ := startPagers_holds o hc hpager (isOffline_none ((moved_offline o s).trans hon) c)
  refine ⟨by rw [coreRec_of_cores hcores]; exact hvec, fun hfit j hj => ?_⟩
  rw [hmem]
  exact hwords hfit j hj

theorem startedUp_mem {o : StartOutcome} (s : State) (h : o.firmware.words = []) : (startedUp o s).mem = s.mem := by
  rw [(startedUp_frame o s).2.1, paged, startPagers_mem _ h, moved_mem]

/-- A start whose first step fails (R397). -/
theorem startSteps_one_fails {o : StartOutcome} (s : State) (l : List Nat) (hf : o.fails = [1]) :
    startSteps o 0 s (1 :: l) = (s.stepping 1 2).modDev fun d => { d with startState := 2, startStep := 1 } := by
  have hr : stepResult o s.dev.pkgValid 1 .primary = 2 := by
    rw [stepResult, if_neg fun h => absurd h.1 (by decide), hf]
    rfl
  exact startSteps_fails s l hr (by decide)

/-- The state of a start whose first step has failed. -/
def firstFailed (s : State) : State := ((begun s).stepping 1 2).modDev fun d => { d with startState := 2, startStep := 1 }

theorem firstFailed_frame (s : State) : (firstFailed s).mem = (leavePowerGating s).mem ∧ (firstFailed s).slots = (leavePowerGating s).slots ∧
    (firstFailed s).cores = (leavePowerGating s).cores := by
  simp only [firstFailed, begun, State.stepping, State.modDev, and_self]

/-! ### A fatal fault (R398) -/

theorem writeReportAt_frame (s : State) (die corner ctx : Nat) (a : Word) (i : Nat) (ws : List Word) :
    (s.writeReportAt die corner ctx a i ws).dev = s.dev ∧ (s.writeReportAt die corner ctx a i ws).kernels = s.kernels := by
  rw [State.writeReportAt]
  split
  · exact ⟨rfl, rfl⟩
  · have hsends := s.plainHeat_onlySends (.ctrl die) corner { ctx := ctx, sup := ctx == 0 } a 192 true
    dsimp only
    split
    · rw [hsends]
      exact ⟨rfl, rfl⟩
    · have hdata := OnlyData.foldl (fun (x : State) (e : Nat × Word) => x.put64 e.1 e.2) (fun x e => x.put_onlyData e.1 8 e.2.toNat)
      rw [hdata, hsends]
      exact ⟨rfl, rfl⟩

theorem report_frame (s : State) (k n : Nat) : (s.report k n).dev = s.dev ∧ (s.report k n).kernels = s.kernels := by
  rw [State.report, State.writeReport]
  split
  · split
    · exact ⟨rfl, rfl⟩
    · exact ⟨rfl, rfl⟩
  · exact writeReportAt_frame ..

theorem notice_frame (s : State) (k : Nat) (w : Word) : (s.notice k w).dev = s.dev ∧ (s.notice k w).kernels = s.kernels := by
  rw [State.notice]
  split
  · split
    · exact ⟨rfl, rfl⟩
    · exact ⟨rfl, rfl⟩
  · exact ⟨rfl, rfl⟩
  · split
    · exact ⟨rfl, rfl⟩
    · exact ⟨rfl, rfl⟩
  · exact ⟨rfl, rfl⟩

/-- The state in which a fatal fault has refused a launch not yet placed, and the word its kernel gets (R222, R231). -/
def fatalRefused (s : State) (k : Nat) : State :=
  if decide ((s.kernelRec k).state ≤ 2) then (s.modKernel k fun r => { r with reason := 9 }).report k 0 else s

def fatalWord (s : State) (k : Nat) : Word := if decide ((s.kernelRec k).state ≤ 2) then discardedStatus else fatalStatus k s

theorem fatalKernel_eq (s : State) (k : Nat) : fatalKernel s k =
    let s1 := (fatalRefused s k).modKernel k fun r => { r with state := 5, status := fatalWord s k }
    ({ s1 with retired := s1.retired ++ [k] } : State).notice k (fatalWord s k) := rfl

theorem fatalRefused_frame (s : State) (k : Nat) : (fatalRefused s k).dev = s.dev ∧ ∀ i, i ≠ k → (fatalRefused s k).kernelRec i = s.kernelRec i := by
  rw [fatalRefused]
  split
  · obtain ⟨hdev, hkernels⟩ := report_frame (s.modKernel k fun r => { r with reason := 9 }) k 0
    refine ⟨hdev, fun i hi => ?_⟩
    rw [State.kernelRec, hkernels]
    exact Store.get_set_ne _ _ _ hi
  · exact ⟨rfl, fun _ _ => rfl⟩

theorem fatalKernel_dev (s : State) (k : Nat) : (fatalKernel s k).dev = s.dev := by
  rw [fatalKernel_eq]
  exact (notice_frame ..).1.trans (fatalRefused_frame s k).1

theorem fatalKernel_kernelRec (s : State) (k i : Nat) : (fatalKernel s k).kernelRec i = ((fatalRefused s k).modKernel k fun r =>
    { r with state := 5, status := fatalWord s k }).kernelRec i := by
  rw [fatalKernel_eq]
  exact congrArg (Store.get {} · i) (notice_frame ..).2

theorem State.kernelRec_modKernel_ne (s : State) {k i : Nat} (f : KernelRec → KernelRec) (h : i ≠ k) : (s.modKernel k f).kernelRec i = s.kernelRec i :=
  Store.get_set_ne _ _ _ h

/-- Discarded members are told in the word (R225). -/
theorem combine_disc (a : Word) {b : Word} (h : fld b 61 1 = 1) : bitAt (combine a b) 61 = true := by
  have ha := fld_lt a 61 1
  have hor : (fld a 61 1 ||| fld b 61 1) % 2 ^ 1 = 1 := by
    rw [h]
    generalize fld a 61 1 = n at ha
    match n, ha with
    | 0, _ => rfl
    | 1, _ => rfl
  rw [bitAt_eq_fld, combine, fld_pack (v := fld a 61 1 ||| fld b 61 1) (by simp [Ascending]) (by simp), hor]
  rfl

theorem fatalWord_disc (s : State) (k : Nat) : bitAt (fatalWord s k) 61 = true := by
  rw [fatalWord]
  split
  · decide
  · exact combine_disc _ (fld_pack (v := 1) (by simp [Ascending]) (by simp))

/-- A kernel that a fatal fault has ended: RETIRED with DISC (R231). -/
def Discarded (i : Nat) (s : State) : Prop := (s.kernelRec i).state = 5 ∧ bitAt (s.kernelRec i).status 61 = true

theorem fatalKernel_discards (s : State) (k : Nat) : Discarded k (fatalKernel s k) := by
  rw [Discarded, fatalKernel_kernelRec, kernelRec_modKernel_self]
  exact ⟨rfl, fatalWord_disc s k⟩

theorem fatalKernel_keeps {i : Nat} (k : Nat) {s : State} (h : Discarded i s) : Discarded i (fatalKernel s k) := by
  by_cases hik : i = k
  · subst hik
    exact fatalKernel_discards s i
  · rw [Discarded, fatalKernel_kernelRec, kernelRec_modKernel_ne _ _ hik, (fatalRefused_frame s k).2 i hik]
    exact h

/-- A kernel's entry stands in the list of them. -/
theorem Store.mem_of_get {α : Type} {d : α} {l : Store α} {i : Nat} (h : Store.get d l i ≠ d) : (i, Store.get d l i) ∈ l := by
  induction l with
  | nil => exact absurd rfl h
  | cons e l ih =>
    obtain ⟨k, v⟩ := e
    rw [Store.get] at h ⊢
    split
    next hk => rw [hk]; exact List.mem_cons_self
    next hk =>
      rw [if_neg hk] at h
      exact List.mem_cons_of_mem _ (ih h)

/-- The kernels that a fatal fault ends. -/
def fatalKernels (s : State) : List Nat := (s.kernels.filter fun e => e.2.state != 0 && e.2.state != 5).map (·.1)

theorem mem_fatalKernels {s : State} {i : Nat} (h0 : (s.kernelRec i).state ≠ 0) (h5 : (s.kernelRec i).state ≠ 5) : i ∈ fatalKernels s := by
  have hmem : (i, s.kernelRec i) ∈ s.kernels := Store.mem_of_get fun h => h0 (by rw [State.kernelRec, h])
  refine List.mem_map.mpr ⟨_, List.mem_filter.mpr ⟨hmem, ?_⟩, rfl⟩
  rw [Bool.and_eq_true, bne_iff_ne, bne_iff_ne]
  exact ⟨h0, h5⟩

/-- The state in which a fatal fault has ended every kernel. -/
def kernelsEnded (s : State) : State := (fatalKernels s).foldl fatalKernel s

theorem kernelsEnded_dev (s : State) : (kernelsEnded s).dev = s.dev := foldl_keeps State.dev _ (fun k _ x => fatalKernel_dev x k) s

theorem kernelsEnded_discards {s : State} {i : Nat} (h0 : (s.kernelRec i).state ≠ 0) (h5 : (s.kernelRec i).state ≠ 5) : Discarded i (kernelsEnded s) :=
  foldl_reaches (mem_fatalKernels h0 h5) (fun y => fatalKernel_discards y i) (fun k _ => fatalKernel_keeps k) s

/-- What a fatal fault of cause k leaves (R398). -/
theorem exec_deviceFatal (s : State) {k : Nat} (h1 : 1 ≤ k) (h4 : k ≤ 4) : ∃ t, exec (.deviceFatal k) s = .next t ∧ t.kernels = (kernelsEnded s).kernels ∧
    t.ctxs = (kernelsEnded s).ctxs.filter (fun e => e.1 == 0) ∧ t.slots = [] ∧ t.net = [] ∧ t.spills = [] ∧ let d := (kernelsEnded s).dev
    t.dev.startState = 3 ∧ t.dev.fatalCause = k ∧ t.dev.fatalCount = (d.fatalCount + 1) % 65536 ∧ t.dev.own = d.own ∧ t.dev.epoch = d.epoch ∧ t.dev.deny = d.deny ∧
      t.dev.lqAns = d.lqAns ∧ t.dev.pkgReg = d.pkgReg ∧ t.dev.pkgValid = d.pkgValid ∧ t.dev.startNum = d.startNum := by
  have hx : exec (.deviceFatal k) s = .next (deviceFatal k s) := rfl
  have hk : ¬ (k < 1 ∨ 4 < k) := by omega
  refine ⟨deviceFatal k s, hx, ?_⟩
  have hended : ((s.kernels.filter fun e => e.2.state != 0 && e.2.state != 5).map (·.1)).foldl fatalKernel s = kernelsEnded s := rfl
  simp only [deviceFatal, if_neg hk, hended, State.reset, and_self]

/-- A context other than 0 is gone from a list that keeps context 0 alone. -/
theorem Store.get_filter_zero {α : Type} (d : α) (l : Store α) {i : Nat} (h : i ≠ 0) : Store.get d (l.filter fun e => e.1 == 0) i = d := by
  induction l with
  | nil => rfl
  | cons e l ih =>
    rw [List.filter_cons]
    split
    next h0 => rw [Store.get, if_neg (by rw [beq_iff_eq.mp h0]; exact h.symm), ih]
    next => exact ih

/-! ### Health (R400) -/

theorem exec_healthUpdate {s : State} {d : Nat} (x : Reading) (hd : d < 4) (hs : s.dev.startState = 1) : exec (.healthUpdate d x) s = .next (s.modDev fun v =>
    { v with health := Store.set {} v.health d {
      rod := if v.baseline then x.rod % 65536 else 0, sramm := x.sramm % 65536, eye := x.eye % 65536, refr := x.refr % 65536
      life := if v.baseline then x.life % 65536 else 0xFFFF, temp := x.temp % 65536, warn := (Store.get {} v.health d).warn || decide (950 < x.temp % 65536) } }) := by
  show Host.Outcome.next (healthRecord d x s) = _
  rw [healthRecord, if_pos ⟨hd, hs⟩]

theorem exec_healthUpdate_idle {s : State} (d : Nat) (x : Reading) (hs : s.dev.startState ≠ 1) : exec (.healthUpdate d x) s = .next s := by
  show Host.Outcome.next (healthRecord d x s) = _
  rw [healthRecord, if_neg fun h => hs h.2]

theorem exec_healthRecordRead (s : State) {d : Nat} (hd : d < 4) : exec (.healthRecordRead d) s = .next (s.modDev fun v =>
    { v with health := Store.set {} v.health d { Store.get {} v.health d with warn := false } }) := by
  show Host.Outcome.next (healthRead d s) = _
  rw [healthRead, if_neg (Nat.not_le.mpr hd)]

/-- Settles O60: the block's writes by their master, a start step by step, power-on, the end of all work at a fatal fault, and the readings. -/
theorem deviceIsOwnedStartedAndWatched : Obligations.DeviceIsOwnedStartedAndWatched := by
  unfold Obligations.DeviceIsOwnedStartedAndWatched
  refine ⟨?block, ?launch, ?notes, ?start, ?power, ?fatal, ?trips, ?health⟩
  case block =>
    intro s m force epoch dst word v off hr due mine
    refine ⟨fun hf hm => ?_, fun hf hm => ?_, fun hf h0 hdue => ?_, fun hf hno => ?_, fun hm hdue h1 h3 => ?_, fun hno => ?_, fun hm hdue => ?_, fun hno => ?_,
      fun hm => exec_lqputGo hr hm, fun hm hw => ?_, fun hm => ⟨exec_lqputGo_denied hr hm, ?_, fun h10 h40 => exec_registerWrite_denied hr v hm h10 h40⟩,
      exec_registerWrite_pkgNum hr v, fun hm i hi => exec_registerWrite_lqBuf hr v hm hi⟩
    · rw [hf, exec_ownClaim_force hr, if_pos hm, hm]
      rfl
    · rw [hf, exec_ownClaim_force hr, if_neg hm]
    · rw [hf, exec_ownClaim_free hr, if_pos ⟨h0, hdue⟩]
    · rw [hf, exec_ownClaim_free hr, if_neg fun h => hno.elim (absurd h.1) (absurd h.2)]
    · have hmod : dst % 4 = dst := by omega
      rw [exec_ownHandOver hr, hmod, if_pos ⟨hm, hdue, by omega⟩]
    · rw [exec_ownHandOver hr, if_neg]
      rintro ⟨hm, hdue, hdst⟩
      rcases hno with h | h | h
      · exact h hm
      · exact h hdue
      · exact hdst (by rw [h])
    · rw [exec_ownRelease hr, if_pos ⟨hm, hdue⟩]
    · rw [exec_ownRelease hr, if_neg fun h => hno.elim (absurd h.1) (absurd h.2)]
    · obtain ⟨hslots, hmem⟩ := writeDbgstop_frame word v s
      refine ⟨writeDbgstop word v s, by rw [exec_dbgstopWrite hr, if_pos hm], fun b hb => ?_, fun c hc => ?_, hslots, hmem⟩
      · rw [writeDbgstop_stopped v s hw, if_pos (by omega), Nat.add_sub_cancel_left]
      · rw [writeDbgstop_stopped v s hw, if_neg (by omega)]
    · rw [exec_dbgstopWrite hr, if_neg hm]
  case launch => exact fun s port pk hp => ⟨exec_managementLaunch port pk hp, exec_managementLaunch_denied port pk hp⟩
  case notes =>
    intro s
    refine ⟨?_, ?_⟩
    · show Host.Outcome.next ({ s with notes := s.notes.drop 1 } : State) = _
      rw [List.drop_one]
    · show Host.Outcome.next ({ s with bnotes := s.bnotes.drop 1 } : State) = _
      rw [List.drop_one]
  case start =>
    intro s o
    refine ⟨fun h => ?_, fun hs hres hfaulty hengine => ⟨fun hf => ?_, fun hf => ?_⟩⟩
    · show Host.Outcome.next (startSequence o s) = _
      rw [startSequence, if_pos h]
    · have hx := exec_startSequence o hs hres
      rw [startSteps_all _ hf hfaulty hengine] at hx
      obtain ⟨hstate, hstep, hnum, hbase, hports⟩ := startedUp_dev o (begun s)
      obtain ⟨-, -, -, -, hpod, hpkg⟩ := startedUp_frame o (begun s)
      refine ⟨_, hx, hstate, hstep, hnum, hbase, hports, hpod, hpkg, steppedOut_ctx (linked o (begun s)), fun c hc => startedUp_slot o rfl hc, fun hw => ?_,
        fun c hc hp => startedUp_firmware o rfl hc hp⟩
      exact (startedUp_mem _ hw).trans (leavePowerGating_frame s).1
    · obtain ⟨hmem, hslots⟩ := leavePowerGating_frame s
      obtain ⟨hmem', hslots', hcores⟩ := firstFailed_frame s
      refine ⟨firstFailed s, (exec_startSequence o hs hres).trans (congrArg Host.Outcome.next (startSteps_one_fails _ _ hf)), rfl, rfl, rfl, rfl,
        fun c hc => ?_, hslots'.trans hslots, hmem'.trans hmem⟩
      rw [coreRec_of_cores hcores]
      exact leavePowerGating_cycle hc
  case power => exact fun s => ⟨powerOn s, rfl, rfl, rfl, rfl, rfl, rfl, rfl⟩
  case fatal =>
    intro s k h1 h4
    obtain ⟨t, hx, hkernels, hctxs, hslots, hnet, hspills, hdev⟩ := exec_deviceFatal s h1 h4
    rw [kernelsEnded_dev] at hdev
    obtain ⟨hstate, hcause, hcount, hown, hepoch, hdeny, hans, hreg, hvalid, hnum⟩ := hdev
    refine ⟨t, hx, hstate, hcause, hcount, hown, hepoch, hdeny, hans, hreg, hvalid, hnum, hslots, hnet, hspills, fun i hi => ?_, fun i h0 h5 => ?_⟩
    · rw [State.ctx, hctxs, Store.get_filter_zero _ _ hi]
    · have hrec : t.kernelRec i = (kernelsEnded s).kernelRec i := by rw [State.kernelRec, State.kernelRec, hkernels]
      rw [hrec]
      exact kernelsEnded_discards h0 h5
  case trips =>
    intro s d hd
    refine ⟨?_, ?_⟩
    · show Host.Outcome.next (if d < 4 then deviceFatal 4 s else s) = _
      rw [if_pos hd]
      rfl
    · show Host.Outcome.next (if d < 4 then deviceFatal 3 s else s) = _
      rw [if_pos hd]
      rfl
  case health =>
    intro s d x hd
    refine ⟨exec_healthUpdate_idle d x, fun hs => ⟨_, exec_healthUpdate x hd hs, rfl, fun e he => Store.get_set_ne _ _ _ he, ?_⟩,
      _, exec_healthRecordRead s hd, Store.get_set_self .., rfl, fun e he => Store.get_set_ne _ _ _ he⟩
    intro h
    have hh : h = _ := Store.get_set_self ..
    rw [hh]
    exact ⟨rfl, rfl, rfl, rfl, rfl, rfl, rfl⟩

end Sys2Proof.Machine

/-! ## Links: a spent quota holds CELLRES (O58) -/
namespace Sys2Proof.Machine

open State Sys2Proof.Claims

/-- A thread of core 0 whose g1 holds a flow to package 1, while the core's quota of the omega network is spent and held until the
frame-close wave reaches it (R267). -/
def quotaHeld : State :=
  (State.reset.withThread.writeReg 0 1 1).modCore 0 fun r => { r with spentOmega := 255, stalled := true }

/-- CELLRES reads the flow word 1 from g1 there. -/
theorem quotaHeld_operands : quotaHeld.operands (Instr.cellres 1 0).word [(1 : RegCode).toNat] [(1 : RegCode).toNat] = .ok [1] := by
  decide +kernel

theorem quotaHeld_pkgNum : fld (1 : Word) 0 6 ≠ quotaHeld.pkgNum := by decide +kernel

theorem quotaHeld_codelet : quotaHeld.me.codelet = false := by decide +kernel

theorem quotaHeld_destReady : quotaHeld.destReady (1 : RegCode).toNat = .ok () := by decide +kernel

theorem quotaHeld_ready : quotaHeld.me.phase = .ready := by decide +kernel

/-- The flit that CELLRES sends its gateway is not admitted. -/
theorem quotaHeld_canInject :
    quotaHeld.canInject quotaHeld.here (quotaHeld.carriers quotaHeld.me.ctx quotaHeld.here (.gate (dieOf quotaHeld.here))) = false := by
  decide +kernel

/-- A message that its networks refuse makes the slot forfeit (R267, R77). -/
theorem State.sendFlits_forfeit {s t : State} {i : Nat} {dst : Node} {n : Nat} (h : s.canInject s.here (s.carriers i s.here dst) = false) :
    s.sendFlits i dst n t = .error .forfeit := by
  unfold State.sendFlits
  exact if_neg (by simp [h])

/-- CELLRES and CELLREL of a flow to another package forfeit while the quotas refuse their flit, and nothing else happens: the
model takes the flits of the message to the gateway from the quotas, as R267 says of every flit that a core injects. -/
theorem cells_forfeit {s : State} {word f : Word} {rel : Bool} {d n : RegCode} (ho : s.operands word [d.toNat] [d.toNat] = .ok [f])
    (h9 : fld f 9 55 = 0) (h6 : fld f 6 2 = 0) (hp : fld f 0 6 ≠ s.pkgNum) (hc : s.me.codelet = false)
    (hd : s.destReady d.toNat = .ok ()) (hq : s.canInject s.here (s.carriers s.me.ctx s.here (.gate (dieOf s.here))) = false) :
    cells word rel d n s = .error .forfeit := by
  have hlegal : ¬ (fld f 9 55 ≠ 0 ∨ fld f 6 2 ≠ 0 ∨ fld f 0 6 = s.pkgNum) := by simp [h9, h6, hp]
  have harg : arg [f] 0 = f := rfl
  simp only [cells, ho, harg, if_neg hlegal, hc, hd, sendFlits_forfeit hq, Bool.false_eq_true, if_false]

theorem exec_cellres_quotaHeld : exec (.cellres 1 0) quotaHeld = .next quotaHeld := by
  show quotaHeld.finish (cells (Instr.cellres 1 0).word false 1 0 quotaHeld) = _
  rw [cells_forfeit quotaHeld_operands (by decide) (by decide) quotaHeld_pkgNum quotaHeld_codelet quotaHeld_destReady quotaHeld_canInject,
    finish_error, stop_forfeit]

/-- Refutes O58: its first clause parks a CELLRES of a flow to another package whatever the core's quotas are. With the quota of the
omega network spent and held, the thread of `quotaHeld` forfeits and stays READY (R267, R77). -/
theorem not_linksCarryCells : ¬ Obligations.LinksCarryCells := by
  unfold Obligations.LinksCarryCells
  rintro ⟨hcells, -⟩
  obtain ⟨-, hpark⟩ := hcells 1 0 quotaHeld 1 (.cellres 1 0, false) (by simp) quotaHeld_operands
  obtain ⟨t, hexec, hparked, -⟩ := hpark (by decide) (by decide) quotaHeld_pkgNum quotaHeld_codelet quotaHeld_destReady
  have ht : t = quotaHeld := (Host.Outcome.next.inj (exec_cellres_quotaHeld.symm.trans hexec)).symm
  exact absurd (quotaHeld_ready ▸ ht ▸ hparked) (by decide)

end Sys2Proof.Machine

/-! ## The solver sequencer's engine (O54) -/
namespace Sys2Proof.Machine

open State Sys2Proof.Claims

/-! ### The sequencer of a core and its samples -/

@[simp] theorem State.modSeq_mem (s : State) (c : Nat) (f : Sequencer → Sequencer) : (s.modSeq c f).mem = s.mem := rfl

theorem State.sequencer_modSeq (s : State) (c : Nat) (f : Sequencer → Sequencer) : (s.modSeq c f).sequencer c = f (s.sequencer c) := by
  rw [State.sequencer, State.modSeq, coreRec_modCore_self]
  rfl

theorem Sequencer.sample_setSample (q : Sequencer) (i j : Nat) (e : Sample) : (q.setSample i e).sample j = if j = i then e else q.sample j :=
  Store.get_set ..

/-- SQACT's fold returns each sample of a list once (R360). -/
theorem sample_foldl_returned (l : List Nat) (q : Sequencer) (i : Nat) :
    (l.foldl (fun (y : Sequencer) i => let e := y.sample i
      if e.st = 2 ∨ e.st = 3 then y.setSample i { e with st := 1, ev := false } else y) q).sample i =
    if i ∈ l ∧ ((q.sample i).st = 2 ∨ (q.sample i).st = 3) then { q.sample i with st := 1, ev := false } else q.sample i := by
  induction l generalizing q with
  | nil => simp
  | cons j l ih =>
    rw [List.foldl_cons, ih]
    by_cases hj : i = j
    · subst hj
      by_cases hst : (q.sample i).st = 2 ∨ (q.sample i).st = 3
      · simp [hst, Sequencer.sample_setSample]
      · simp [hst]
    · have hkept : ∀ e, (q.setSample j e).sample i = q.sample i := fun e => by rw [Sequencer.sample_setSample, if_neg hj]
      dsimp only
      split <;> simp [hkept, hj]

/-! ### Checks and blocks (R353) -/

section
variable {s : State} {c : Nat} {q : SeqCmd}

/-- A user command from a context other than the tag fails (R347). -/
theorem seqRun_denied {t : Nat} (hm : q.mode = 0) (ht : (s.sequencer c).tag = some t) (hne : t ≠ q.ctx) : seqRun s c q = .error 0x05 := by
  rw [seqRun, if_pos (by simp [hm, ht, hne])]

/-- A supervisor's command runs by its operation. -/
theorem seqRun_supervisor (hm : q.mode ≠ 0) : seqRun s c q = match q.op with
    | .tab => seqTab s c q
    | .cfg => seqCfg s c q
    | .load => seqLoad s c q
    | .stage => seqStage s c q
    | .finish => seqEnd s c q
    | .dec => seqDec s c q
    | .act => seqAct s c q
    | .hist => seqHist s c q := by
  unfold seqRun
  exact if_neg (by simp [hm])

theorem seqBlock_past {a : Word} {n : Nat} (h : 0x180000 < a.toNat + 8 * n) : seqBlock s c a n = .error 0x04 := if_pos h

theorem seqBlock_within {a : Word} {n : Nat} (h : a.toNat + 8 * n ≤ 0x180000) : seqBlock s c a n = .ok (s.readWords (c * 0x200000 + a.toNat) n) :=
  if_neg (Nat.not_lt.mpr h)

theorem State.readWords_length (s : State) (key n : Nat) : (s.readWords key n).length = n := by
  induction n generalizing key with
  | zero => rfl
  | succ n ih => rw [State.readWords, List.length_cons, ih]

/-- Some of a list's first n items fail p exactly where not every one of them meets it. -/
theorem any_take_not {l : List Word} {n : Nat} (h : n ≤ l.length) (p : Word → Bool) :
    ((l.take n).any fun x => !p x) = true ↔ ¬ ∀ i, i < n → p (l.getD i 0) = true := by
  have hget {i : Nat} (hi : i < n) : l.getD i 0 = l[i] := List.getD_eq_getElem _ _ (by omega)
  simp only [List.any_eq_true, Bool.not_eq_true', not_forall, Bool.not_eq_true, exists_prop]
  constructor
  · rintro ⟨x, hx, hp⟩
    obtain ⟨i, hi, rfl⟩ := List.mem_take_iff_getElem.mp hx
    exact ⟨i, by omega, by rwa [hget (by omega)]⟩
  · rintro ⟨i, hi, hp⟩
    exact ⟨l[i], List.mem_take_iff_getElem.mpr ⟨i, by omega, rfl⟩, by rwa [← hget hi]⟩

end

/-! ### FP64 comparisons by value (R349) -/

theorem finite64_iff (w : Word) : finite64 w = true ↔ FinitePattern 0 w.toNat := by
  constructor
  · intro h
    unfold finite64 at h
    have hreads := fpDecode_reads 0 w.toNat (by decide)
    generalize fpDecode 0 w.toNat = v at h hreads
    cases hreads with
    | nan _ _ _ => exact absurd h (by simp)
    | inf _ => exact absurd h (by simp)
    | fin hf => exact hf
  · intro h
    obtain ⟨n, m, e, hd, -, -⟩ := fpDecode_stands 0 w.toNat (by decide) h
    rw [finite64, hd]

section
variable {x y : Word} (hx : FinitePattern 0 x.toNat) (hy : FinitePattern 0 y.toNat)
include hx hy

theorem lt64_iff : lt64 x y = true ↔ patternValue 0 x.toNat < patternValue 0 y.toNat := ltFV_value 0 _ _ (by decide) hx hy

theorem le64_iff : le64 x y = true ↔ patternValue 0 x.toNat ≤ patternValue 0 y.toNat := by
  have heq : eq64 x y = (!lt64 x y && !lt64 y x) := by
    obtain ⟨n, m, e, hd, -, -⟩ := fpDecode_stands 0 x.toNat (by decide) hx
    obtain ⟨n', m', e', hd', -, -⟩ := fpDecode_stands 0 y.toNat (by decide) hy
    simp only [eq64, lt64, hd, hd', eqFV]
  have h1 := lt64_iff hx hy
  have h2 := lt64_iff hy hx
  rw [le64, heq, ← not_lt, ← h2]
  have hasymm : lt64 x y = true → lt64 y x ≠ true := fun h g => absurd (h1.mp h) (not_lt.mpr (h2.mp g).le)
  cases hxy : lt64 x y <;> cases hyx : lt64 y x <;> simp_all

end

theorem patternValue_zero : patternValue 0 (0 : Word).toNat = 0 := by
  simp [patternValue, show exponentOf 0 0 = 0 by decide, show mantissaOf 0 0 = 0 by decide]

theorem patternValue_one : patternValue 0 one64.toNat = 1 := by
  simp only [patternValue, one64, show negativeOf 0 (0x3FF0000000000000 : Word).toNat = false by decide,
    show exponentOf 0 (0x3FF0000000000000 : Word).toNat = 1023 by decide, show mantissaOf 0 (0x3FF0000000000000 : Word).toNat = 0 by decide,
    show exponentBias 0 = 1023 by decide, show mantissaBits 0 = 52 by decide]
  norm_num

/-! ### Commands on the tableau, the block, the samples and the ring (R348 to R351, R360) -/

/-- The blocks that SQCFG takes are those that R349 admits. -/
theorem legalBlock_iff {ws : List Word} (hl : ws.length = 10) : LegalBlock ws ↔
    ¬ ((ws.take 8).any (fun x => !finite64 x) ∨ !lt64 0 (ws.getD 0 0) ∨ !le64 0 (ws.getD 1 0) ∨ !le64 0 (ws.getD 2 0) ∨ !le64 (ws.getD 2 0) one64
        ∨ !lt64 0 (ws.getD 3 0) ∨ !le64 (ws.getD 3 0) one64 ∨ !le64 one64 (ws.getD 4 0) ∨ !le64 0 (ws.getD 5 0) ∨ !le64 0 (ws.getD 6 0)
        ∨ !le64 0 (ws.getD 7 0) ∨ fld (ws.getD 8 0) 0 17 < 1 ∨ 65536 < fld (ws.getD 8 0) 0 17 ∨ 2 < fld (ws.getD 8 0) 20 4
        ∨ fld (ws.getD 8 0) 24 4 < 1 ∨ 8 < fld (ws.getD 8 0) 24 4 ∨ fld (ws.getD 9 0) 0 3 ≠ 0) := by
  have hfinite : (∀ i, i < 8 → finite64 (ws.getD i 0) = true) ↔ ∀ i, i < 8 → FinitePattern 0 (ws.getD i 0).toNat :=
    forall₂_congr fun i _ => finite64_iff _
  rw [any_take_not (by omega), hfinite]
  by_cases hf : ∀ i, i < 8 → FinitePattern 0 (ws.getD i 0).toNat
  · have h0 : FinitePattern 0 (0 : Word).toNat := (finite64_iff _).mp (by decide)
    have h1 : FinitePattern 0 one64.toNat := (finite64_iff _).mp (by decide)
    have hlt (i : Nat) (hi : i < 8) := lt64_iff h0 (hf i hi)
    have hle (i : Nat) (hi : i < 8) := le64_iff h0 (hf i hi)
    have hle1 (i : Nat) (hi : i < 8) := le64_iff (hf i hi) h1
    have hge1 (i : Nat) (hi : i < 8) := le64_iff h1 (hf i hi)
    simp only [patternValue_zero, patternValue_one] at hlt hle hle1 hge1
    simp only [LegalBlock, not_or, Bool.not_eq_true', Bool.not_eq_false, hlt, hle, hle1, hge1, Nat.reduceLT, not_lt, not_not, ne_eq]
  · simp only [LegalBlock, hf, false_and, not_false_eq_true, true_or, not_true_eq_false]

section
variable {s : State} {c : Nat} {q : SeqCmd}

theorem seqTab_past (h : 0x180000 < q.a.toNat + 1032) : seqTab s c q = .error 0x04 := by
  unfold seqTab
  rw [seqBlock_past (by omega)]

theorem seqTab_illegal (h : q.a.toNat + 1032 ≤ 0x180000)
    (hs : fld ((s.readWords (c * 0x200000 + q.a.toNat) 129).getD 0 0) 0 4 = 0 ∨ 8 < fld ((s.readWords (c * 0x200000 + q.a.toNat) 129).getD 0 0) 0 4) :
    seqTab s c q = .error 0x01 := by
  unfold seqTab
  rw [seqBlock_within (by omega)]
  exact if_pos (by omega)

theorem seqTab_legal (h : q.a.toNat + 1032 ≤ 0x180000) (h1 : 1 ≤ fld ((s.readWords (c * 0x200000 + q.a.toNat) 129).getD 0 0) 0 4)
    (h8 : fld ((s.readWords (c * 0x200000 + q.a.toNat) 129).getD 0 0) 0 4 ≤ 8)
    (h4 : fld ((s.readWords (c * 0x200000 + q.a.toNat) 129).getD 0 0) 4 4 ≤ 4)
    (hf : ∀ x ∈ (s.readWords (c * 0x200000 + q.a.toNat) 129).drop 1, finite64 x = true) :
    seqTab s c q = .ok (s.modSeq c fun x => { x with tab := s.readWords (c * 0x200000 + q.a.toNat) 129 }, 0, 0) := by
  unfold seqTab
  rw [seqBlock_within (by omega)]
  refine if_neg ?_
  simp only [List.any_eq_true, Bool.not_eq_true', not_or, not_lt, not_exists, not_and, Bool.not_eq_false]
  exact ⟨h1, h8, h4, hf⟩

theorem seqCfg_past (h : 0x180000 < q.a.toNat + 80) : seqCfg s c q = .error 0x04 := by
  rw [seqCfg, seqBlock_past (by omega)]

/-- The sequencer after SQCFG of a block (R349, R347). -/
def Sequencer.configured (x : Sequencer) (ws : List Word) (ctx : Nat) : Sequencer :=
  { x with cfg := ws, tag := if x.tag.isNone && x.samples.all (fun e => e.2.st == 0) then some ctx else x.tag }

theorem seqCfg_illegal (h : q.a.toNat + 80 ≤ 0x180000) (hl : ¬ LegalBlock (s.readWords (c * 0x200000 + q.a.toNat) 10)) :
    seqCfg s c q = .error 0x01 := by
  rw [legalBlock_iff (s.readWords_length _ 10), not_not] at hl
  rw [seqCfg, seqBlock_within (by omega)]
  exact if_pos hl

theorem seqCfg_legal (h : q.a.toNat + 80 ≤ 0x180000) (hl : LegalBlock (s.readWords (c * 0x200000 + q.a.toNat) 10)) :
    seqCfg s c q = .ok (s.modSeq c fun x => x.configured (s.readWords (c * 0x200000 + q.a.toNat) 10) q.ctx, 0, 0) := by
  rw [legalBlock_iff (s.readWords_length _ 10)] at hl
  rw [seqCfg, seqBlock_within (by omega)]
  exact if_neg hl

/-- The width and the pitch that a legal block gives (R349). -/
theorem Sequencer.width_eq (x : Sequencer) (h : fld (x.k 8) 20 4 ≤ 2) : x.width = [8, 4, 2].getD (fld (x.k 8) 20 4) 0 := by
  rw [Sequencer.width, Sequencer.fmt]
  generalize fld (x.k 8) 20 4 = p at h
  interval_cases p <;> rfl

theorem Sequencer.pitch_eq (x : Sequencer) : (x.pitch : Int) = 1024 * ⌈(x.elems * x.width / 1024 : Rat)⌉ := by
  have hceil := Rat.ceil_natCast_div_natCast (x.elems * x.width) 1024
  push_cast at hceil
  rw [Sequencer.pitch, hceil]
  push_cast
  omega

/-- The sample that SQLOAD makes of an image, with the old ERRN (R350, R351). -/
def Sample.loaded (e : Sample) (ws : List Word) : Sample :=
  { t := ws.getD 0 0, h := ws.getD 1 0, tend := ws.getD 2 0, eprev := ws.getD 3 0, xoff := fld (ws.getD 4 0) 0 21, sboff := fld (ws.getD 4 0) 32 21
    nacc := fld (ws.getD 5 0) 0 32, nrej := fld (ws.getD 5 0) 32 32, st := if eq64 (ws.getD 0 0) (ws.getD 2 0) then 4 else 1, ev := false, errn := e.errn }

theorem seqLoad_image {ws : List Word} (hws : ws = s.readWords (c * 0x200000 + q.a.toNat) 8) (hop : fld q.b 8 2 = 0) (h : q.a.toNat + 64 ≤ 0x180000)
    (hf : ∀ n, n < 4 → finite64 (ws.getD n 0) = true) (h3 : lt64 0 (ws.getD 3 0) = true) (h4 : fld (ws.getD 4 0) 32 10 = 0)
    (hh : eq64 (ws.getD 0 0) (ws.getD 2 0) = true ∨
      (if lt64 (ws.getD 0 0) (ws.getD 2 0) then lt64 0 (ws.getD 1 0) else lt64 (ws.getD 1 0) 0) = true) :
    seqLoad s c q = .ok (s.modSeq c (·.setSample (fld q.b 0 8) (((s.sequencer c).sample (fld q.b 0 8)).loaded ws)),
      BitVec.ofNat 64 ((s.sequencer c).sample (fld q.b 0 8)).st, 0) := by
  have hlen : 4 ≤ ws.length := by rw [hws, State.readWords_length]; omega
  have hlegal : ¬ (((ws.take 4).any fun x => !finite64 x) ∨ !lt64 0 (ws.getD 3 0) ∨ fld (ws.getD 4 0) 32 10 ≠ 0 ∨
      (!eq64 (ws.getD 0 0) (ws.getD 2 0) ∧ !(if lt64 (ws.getD 0 0) (ws.getD 2 0) then lt64 0 (ws.getD 1 0) else lt64 (ws.getD 1 0) 0))) := by
    rw [any_take_not hlen]
    simp only [h3, h4, Bool.not_eq_true', not_or, not_not, not_and, Bool.not_eq_false, ne_eq, not_true_eq_false, Bool.not_true]
    exact ⟨hf, Bool.false_ne_true, not_false, fun hne => hh.resolve_left (Bool.eq_false_iff.mp hne)⟩
  have hblock : seqBlock s c q.a 8 = .ok ws := by rw [hws]; exact seqBlock_within (by omega)
  unfold seqLoad
  simp only [hop, hblock]
  exact if_neg hlegal

theorem seqLoad_free (hop : fld q.b 8 2 = 2) : seqLoad s c q = .ok
    (s.modSeq c (·.setSample (fld q.b 0 8) { (s.sequencer c).sample (fld q.b 0 8) with st := 0 }), BitVec.ofNat 64 ((s.sequencer c).sample (fld q.b 0 8)).st, 0) := by
  unfold seqLoad
  simp only [hop]
  rfl

end

/-! ### Elements written one after another (R355, R356) -/

/-- A loop that writes element k of a vector and reads only beside it writes what it would have written from the first state. -/
theorem foldl_elements {β : Type} (step : State × β → Nat → State × β) (key val : Nat → Nat) (more : β → Nat → β) {s : State} {base n w : Nat}
    (hkey : ∀ k, key k = base + k * w)
    (hstep : ∀ (y : State) b k, k < n → SameBut s y base (n * w) → step (y, b) k = (y.write (key k) w (val k), more b k)) (b : β) :
    (List.range n).foldl step (s, b) = ((List.range n).foldl (fun y k => y.write (key k) w (val k)) s, (List.range n).foldl more b) := by
  suffices ∀ l : List Nat, (∀ k ∈ l, k < n) → ∀ (y : State) b, SameBut s y base (n * w) →
      l.foldl step (y, b) = (l.foldl (fun y k => y.write (key k) w (val k)) y, l.foldl more b) from
    this _ (fun k hk => List.mem_range.mp hk) s b (sameBut_refl s _ _)
  intro l hl
  induction l with
  | nil => exact fun _ _ _ => rfl
  | cons k l ih =>
    intro y b hy
    obtain ⟨hk, hl⟩ := List.forall_mem_cons.mp hl
    have hin : k * w + w ≤ n * w := (Nat.succ_mul k w).symm.le.trans (Nat.mul_le_mul_right w hk)
    simp only [List.foldl_cons, hstep y b k hk hy]
    refine ih hl _ _ (sameBut_trans hy (sameBut_widen (y.write_sameBut _ w _) ?_ ?_)) <;> rw [hkey] <;> omega

section
variable (key val : Nat → Nat) {base n w : Nat} (hkey : ∀ k, key k = base + k * w) (s : State)
include hkey

theorem writeElements_readN {k : Nat} (hk : k < n) :
    ((List.range n).foldl (fun (y : State) k => y.write (key k) w (val k)) s).mem.readN (base + k * w) w = val k % 2 ^ (8 * w) := by
  have hmem : ((List.range n).foldl (fun (y : State) k => y.write (key k) w (val k)) s).mem =
      (List.range n).foldl (fun m k => m.writeN (key k) w (val k)) s.mem :=
    (List.foldl_hom State.mem fun _ _ => (write_mem ..).symm).symm
  have happart : (List.range n).Pairwise fun a b => key a + w ≤ key b ∨ key b + w ≤ key a :=
    List.pairwise_lt_range.imp fun {a b} hab => by
      have : a * w + w ≤ b * w := (Nat.succ_mul a w).symm.le.trans (Nat.mul_le_mul_right w hab)
      rw [hkey, hkey]
      omega
  rw [hmem, ← hkey, Memory.readN_foldl_writeN key val w _ _ happart (List.mem_range.mpr hk), pow_mul]
  rfl

theorem writeElements_sameBut : SameBut s ((List.range n).foldl (fun (y : State) k => y.write (key k) w (val k)) s) base (n * w) := by
  intro b hb
  refine foldl_write_outside key val w _ (fun k hk => ?_) s
  have : k * w + w ≤ n * w := (Nat.succ_mul k w).symm.le.trans (Nat.mul_le_mul_right w (List.mem_range.mp hk))
  rw [hkey]
  omega

end

/-! ### What a stage and the finish read -/

section
variable {s t : State} {c : Nat} {q : Sequencer} {off base k : Nat}

/-- A number inside a vector lies beside what the vector lies beside. -/
theorem inside_apart {y n z m j w : Nat} (hyz : z + m ≤ y ∨ y + n ≤ z) (hin : j + w ≤ n) : y + j + w ≤ z ∨ z + m ≤ y + j := by omega

theorem readN_sameBut {n a w : Nat} (h : SameBut s t base n) (hd : a + w ≤ base ∨ base + n ≤ a) : t.mem.readN a w = s.mem.readN a w :=
  Memory.readN_congr _ _ _ _ fun j hj => h _ (by omega)

/-- An element of a vector beside what was written reads the same. -/
theorem element_sameBut (h : SameBut s t (c * 0x200000 + base) (q.elems * q.width)) (hk : k < q.elems)
    (hd : off + q.elems * q.width ≤ base ∨ base + q.elems * q.width ≤ off) :
    t.read (spadKey c (off + k * q.width)) q.width = s.read (spadKey c (off + k * q.width)) q.width := by
  have hin : k * q.width + q.width ≤ q.elems * q.width := (Nat.succ_mul k q.width).symm.le.trans (Nat.mul_le_mul_right q.width hk)
  refine readN_sameBut h ?_
  simp only [spadKey]
  omega

theorem seqElem_sameBut (h : SameBut s t (c * 0x200000 + base) (q.elems * q.width)) (hk : k < q.elems)
    (hd : off + q.elems * q.width ≤ base ∨ base + q.elems * q.width ≤ off) : seqElem t c q off k = seqElem s c q off k := by
  rw [seqElem, element_sameBut h hk hd, seqElem]

theorem seqChain_sameBut {l : List (Nat × Nat)} {rm : Nat} (h : SameBut s t (c * 0x200000 + base) (q.elems * q.width)) (hk : k < q.elems)
    (hd : ∀ o ∈ l.map (·.2), o + q.elems * q.width ≤ base ∨ base + q.elems * q.width ≤ o) : seqChain t c q rm k l = seqChain s c q rm k l :=
  List.foldl_ext _ _ _ fun acc x hx => by rw [seqElem_sameBut h hk (hd _ (List.mem_map_of_mem hx))]

end

/-! ### A stage and the finish of one sample (R355, R356) -/

section
variable (s : State) (c : Nat) (q : Sequencer) (j rm i : Nat)

/-- Element k of stage j's Y of sample i, with its flags, read from s (R355). -/
def stageElement (k : Nat) : Nat × Nat :=
  seqCombine q rm (q.sample i).h (seqElem s c q (q.sample i).xoff k) (seqChain s c q rm k (stageTerms q i j))

/-- The offset of vector l of a sample's stage block. -/
def stageOffset (l : Nat) : Nat := (q.sample i).sboff + l * q.pitch

/-- A vector of a sample's stage block written element by element. -/
def writeVector (l : Nat) (val : Nat → Nat) : State :=
  (List.range q.elems).foldl (fun y k => y.write (spadKey c (stageOffset q i l + k * q.width)) q.width (val k)) s

/-- The vectors beside the one at an offset: those whose elements are read while that one is written. -/
def Beside (base : Nat) (offs : List Nat) : Prop := ∀ o ∈ offs, o + q.elems * q.width ≤ base ∨ base + q.elems * q.width ≤ o

variable {s c q j rm i}

theorem seqStageOne_eq (hd : Beside q (stageOffset q i q.stages) ((q.sample i).xoff :: (stageTerms q i j).map (·.2))) :
    (seqStageOne c q j rm i s).1 = (writeVector s c q i q.stages fun k => (stageElement s c q j rm i k).1).write (spadKey c (q.times + 8 * i)) 8
      (fpFma 0 0 (q.t (121 + j)).toNat (q.sample i).h.toNat (q.sample i).t.toNat).1 := by
  obtain ⟨hx, hterms⟩ := List.forall_mem_cons.mp hd
  have hloop := foldl_elements (s := s) (base := spadKey c (stageOffset q i q.stages)) (n := q.elems) (w := q.width)
    (fun (acc : State × Nat) k =>
      let y := seqCombine q rm (q.sample i).h (seqElem acc.1 c q (q.sample i).xoff k) (seqChain acc.1 c q rm k (stageTerms q i j))
      (acc.1.write (spadKey c (stageOffset q i q.stages + k * q.width)) q.width y.1, acc.2 ||| y.2))
    (fun k => spadKey c (stageOffset q i q.stages + k * q.width)) (fun k => (stageElement s c q j rm i k).1)
    (fun b k => b ||| (stageElement s c q j rm i k).2) (fun k => (Nat.add_assoc ..).symm)
    (fun y b k hk hy => by simp only [seqElem_sameBut hy hk hx, seqChain_sameBut hy hk hterms, stageElement]) 0
  exact congrArg (fun r : State × Nat => r.1.write (spadKey c (q.times + 8 * i)) 8
    (fpFma 0 0 (q.t (121 + j)).toNat (q.sample i).h.toNat (q.sample i).t.toNat).1) hloop

theorem writeVector_readN (l : Nat) (val : Nat → Nat) {k : Nat} (hk : k < q.elems) :
    (writeVector s c q i l val).mem.readN (spadKey c (stageOffset q i l) + k * q.width) q.width = val k % 2 ^ (8 * q.width) :=
  writeElements_readN _ val (fun _ => (Nat.add_assoc ..).symm) s hk

theorem writeVector_sameBut (l : Nat) (val : Nat → Nat) :
    SameBut s (writeVector s c q i l val) (spadKey c (stageOffset q i l)) (q.elems * q.width) :=
  writeElements_sameBut _ val (fun _ => (Nat.add_assoc ..).symm) s

/-- A loop that appends a value for each item collects their list. -/
theorem foldl_collect {α : Type} (f : Nat → Nat → Nat) (g : Nat → α) (l : List Nat) (b : Nat × List α) :
    (l.foldl (fun (b : Nat × List α) k => (f b.1 k, b.2 ++ [g k])) b).2 = b.2 ++ l.map g := by
  induction l generalizing b with
  | nil => simp
  | cons k l ih => rw [List.foldl_cons, ih, List.map_cons, List.append_assoc, List.singleton_append]

/-- The flags of element k of SQEND (R356). -/
def endFlags (s : State) (c : Nat) (q : Sequencer) (rm i k : Nat) : Nat × Nat :=
  ((seqCombine q rm (q.sample i).h (seqElem s c q (q.sample i).xoff k) (seqChain s c q rm k (endTerms q i).1)).2,
    (seqChain s c q rm k (endTerms q i).2).2)

/-- ERRN of the squares of the quotients (R356). -/
def errorNorm (q : Sequencer) (squares : List Nat) : Nat :=
  (fpSqrt 0 0 (fpDiv 0 0 ((foldBeats add64 128 ((q.elems + 127) / 128) squares).getD 0) (roundTo 0 0 false q.elems 0).1).1).1

theorem seqEndOne_eq (hd : Beside q (stageOffset q i (q.stages + 1)) ((q.sample i).xoff :: ((endTerms q i).1 ++ (endTerms q i).2).map (·.2))) :
    (seqEndOne c q rm i s).1 = (writeVector s c q i (q.stages + 1) (endElement s c q rm i)).modSeq c (·.setSample i { q.sample i with
      errn := BitVec.ofNat 64 (errorNorm q ((List.range q.elems).map fun k => mul64 (endQuotient s c q rm i k) (endQuotient s c q rm i k))), ev := true }) := by
  obtain ⟨hx, hterms⟩ := List.forall_mem_cons.mp hd
  rw [List.map_append] at hterms
  obtain ⟨hsol, hdiff⟩ := List.forall_mem_append.mp hterms
  have hloop := foldl_elements (s := s) (base := spadKey c (stageOffset q i (q.stages + 1))) (n := q.elems) (w := q.width)
    (fun (acc : State × Nat × List Nat) k =>
      (acc.1.write (spadKey c (stageOffset q i (q.stages + 1) + k * q.width)) q.width (endElement acc.1 c q rm i k),
        acc.2.1 ||| (endFlags acc.1 c q rm i k).1 ||| (endFlags acc.1 c q rm i k).2,
        acc.2.2 ++ [mul64 (endQuotient acc.1 c q rm i k) (endQuotient acc.1 c q rm i k)]))
    (fun k => spadKey c (stageOffset q i (q.stages + 1) + k * q.width)) (endElement s c q rm i)
    (fun b k => (b.1 ||| (endFlags s c q rm i k).1 ||| (endFlags s c q rm i k).2, b.2 ++ [mul64 (endQuotient s c q rm i k) (endQuotient s c q rm i k)]))
    (fun k => (Nat.add_assoc ..).symm)
    (fun y b k hk hy => by
      have helement : endElement y c q rm i k = endElement s c q rm i k := by
        simp only [endElement, seqElem_sameBut hy hk hx, seqChain_sameBut hy hk hsol]
      have hflags : endFlags y c q rm i k = endFlags s c q rm i k := by
        simp only [endFlags, seqElem_sameBut hy hk hx, seqChain_sameBut hy hk hsol, seqChain_sameBut hy hk hdiff]
      have hquotient : endQuotient y c q rm i k = endQuotient s c q rm i k := by
        have hread := element_sameBut hy hk hx
        simp only [State.read, spadKey] at hread
        simp only [endQuotient, helement, hread, seqChain_sameBut hy hk hdiff]
      simp only [helement, hflags, hquotient]) (0, [])
  have hsquares := foldl_collect (fun b k => b ||| (endFlags s c q rm i k).1 ||| (endFlags s c q rm i k).2)
    (fun k => mul64 (endQuotient s c q rm i k) (endQuotient s c q rm i k)) (List.range q.elems) (0, [])
  rw [List.nil_append] at hsquares
  rw [← hsquares]
  exact congrArg (fun r : State × Nat × List Nat => r.1.modSeq c (·.setSample i { q.sample i with
    errn := BitVec.ofNat 64 (errorNorm q r.2.2), ev := true })) hloop

end

/-! ### The decision (R358) -/

/-- The sample after a decision by its acceptance, the time it reaches, the bounded error of an accepted step and the proposed step (R358). -/
def decided (q : Sequencer) (e : Sample) (acc : Bool) (t : Word) (ep : Word) (hn : Nat) : Sample :=
  let e1 : Sample := if acc then { e with ev := false, t := t, eprev := ep, nacc := (e.nacc + 1) % 2 ^ 32 }
    else { e with ev := false, nrej := (e.nrej + 1) % 2 ^ 32 }
  let rest := sub64 e.tend.toNat t.toNat
  if isZeroFV (fpDecode 0 rest) then { e1 with h := 0, st := 4 }
    else if lt64 (ofNat (abs64 hn)) (q.k 7) && lt64 (ofNat (abs64 hn)) (ofNat (abs64 rest)) then { e1 with h := ofNat hn, st := 5 }
    else { e1 with h := ofNat (if le64 (ofNat (abs64 rest)) (ofNat (abs64 hn)) then rest else hn), st := if acc then 2 else 3 }

theorem seqDecide_eq (q : Sequencer) (e : Sample) : ∃ t hn, (le64 e.errn one64 = false → t = e.t) ∧
    seqDecide q e = (decided q e (le64 e.errn one64) t (BitVec.ofNat 64 (max64 e.errn.toNat 0x3F1A36E2EB1C432D)) hn, le64 e.errn one64) :=
  ⟨_, _, fun h => if_neg (by simp [h]), rfl⟩

section
variable (q : Sequencer) (e : Sample) (t ep : Word) (hn : Nat)

/-- What each decision leaves, and where it ends at TEND. -/
theorem decided_fields (acc : Bool) : let r := decided q e acc t ep hn
    r.ev = false ∧ r.tend = e.tend ∧ r.xoff = e.xoff ∧ r.sboff = e.sboff ∧ r.t = (if acc then t else e.t) ∧
    (isZeroFV (fpDecode 0 (sub64 e.tend.toNat t.toNat)) = true → r.h = 0 ∧ r.st = 4) := by
  unfold decided
  dsimp only
  by_cases hz : isZeroFV (fpDecode 0 (sub64 e.tend.toNat t.toNat)) = true
  · rw [if_pos hz]
    cases acc <;> simp
  · rw [if_neg hz]
    split <;> cases acc <;> simp [hz]

theorem decided_rejected : let r := decided q e false t ep hn
    r.eprev = e.eprev ∧ r.nacc = e.nacc ∧ r.nrej = (e.nrej + 1) % 2 ^ 32 ∧ (r.st = 3 ∨ r.st = 4 ∨ r.st = 5) := by
  unfold decided
  dsimp only
  split
  · simp
  · split <;> simp

theorem decided_accepted : let r := decided q e true t ep hn
    r.nacc = (e.nacc + 1) % 2 ^ 32 ∧ r.nrej = e.nrej ∧ r.eprev = ep ∧ (r.st = 2 ∨ r.st = 4 ∨ r.st = 5) := by
  unfold decided
  dsimp only
  split
  · simp
  · split <;> simp

end

/-- An accepted decision copies the bytes of XN to x (R358). -/
theorem seqDecOne_accepted {c : Nat} {q : Sequencer} {i : Nat} {s : State} (h : (seqDecide q (q.sample i)).2 = true) :
    (seqDecOne c q i s).1 = (s.writeBytes (spadKey c (q.sample i).xoff)
      (s.readBytes (spadKey c (stageOffset q i (q.stages + 1))) (q.elems * q.width)) []).modSeq c
        (·.setSample i (seqDecide q (q.sample i)).1) := by
  unfold seqDecOne
  simp only [h, if_true]
  rfl

/-- Bytes that were read are read back where they were written. -/
theorem State.readBytes_writeBytes_read (s : State) (a b n : Nat) : (s.writeBytes a (s.readBytes b n) []).readBytes a n = s.readBytes b n := by
  refine List.ext_getElem (by simp) fun k hk hk' => ?_
  have hkn : k < n := by simpa using hk
  have hbyte := writeBytes_byte_inside s a (fun x hx => mem_readBytes_lt hx) (k := k) (data := s.readBytes b n) (by simpa using hkn)
  rw [← List.getD_eq_getElem _ 0 hk, ← List.getD_eq_getElem _ 0 hk', readBytes_getD _ _ hkn, hbyte]

/-! ### Execution and finish (R353, R359) -/

/-- Writes that meet no pool or table leave nothing undefined (R330). -/
theorem State.disturbAll_of_undisturbed {s : State} {c : Nat} {l : List (Nat × Nat)}
    (h : ∀ w ∈ l, s.undisturbed false (c * 0x200000 + w.1) w.2 = true) : s.disturbAll c l = s := by
  induction l with
  | nil => rfl
  | cons w l ih =>
    obtain ⟨hw, hl⟩ := List.forall_mem_cons.mp h
    rw [State.disturbAll, disturb_of_undisturbed s false (spadKey c w.1) _ hw, ih hl]

section
variable {s s1 : State} {c : Nat} {q : SeqCmd} {l : List EngineCmd} (hq : (s.coreRec c).queue = .sequencer q :: l) (hx : (s.coreRec c).executed = none)
include hq hx

theorem exec_sequencerExecute_ok {v : Word} {fl : Nat} (hr : seqRun s c q = .ok (s1, v, fl))
    (hw : ∀ w ∈ seqWrites s c q, s1.undisturbed false (c * 0x200000 + w.1) w.2 = true) :
    exec (.sequencerExecute c) s = .next (s1.modCore c fun k => { k with
      queue := l, executed := some { cmd := .sequencer q, flags := fl, result := v, uses := seqUses s c q } }) := by
  show Host.Outcome.next (sequencerExecute c s) = _
  simp only [sequencerExecute, hq, hx, hr, disturbAll_of_undisturbed hw]

theorem exec_sequencerExecute_error {cause : Nat} (hr : seqRun s c q = .error cause) :
    exec (.sequencerExecute c) s = .next (s.modCore c fun k => { k with
      queue := l, executed := some { cmd := .sequencer q, result := BitVec.ofNat 64 (2 ^ 63 + (cause * 256 + q.op.code * 16)), code := some (cause * 256 + q.op.code * 16) } }) := by
  show Host.Outcome.next (sequencerExecute c s) = _
  simp only [sequencerExecute, hq, hx, hr]
  rfl

end

/-- Settles O54: each command of the engine by the lemma of its operation; a stage and the finish of a sample by the loop that writes
beside what it reads. -/
theorem sequencerEngineComputes : Obligations.SequencerEngineComputes := by
  unfold Obligations.SequencerEngineComputes
  refine ⟨?execute, ?finish, ?failure, ?tab, ?cfg, ?load, ?act, ?hist, ?stage, ?solution, ?decide, ?copy⟩
  case execute =>
    intro s c q l hq hx
    exact ⟨fun s1 v fl hr hw => exec_sequencerExecute_ok hq hx hr hw, fun cause hr => exec_sequencerExecute_error hq hx hr,
      fun t hm ht hne => seqRun_denied hm ht hne⟩
  case finish =>
    intro s c q fl v us hx
    refine ⟨fun hplain => ?_, ?_⟩
    · show Host.Outcome.next (sequencerFinish c s) = _
      have hno : ¬ (q.op = .dec ∧ q.b ≠ 0) := by tauto
      simp only [sequencerFinish, hx, if_neg hno]
    · intro hdec hb u hname
      show Host.Outcome.next (sequencerFinish c s) = _
      simp only [sequencerFinish, hx, if_pos (And.intro hdec hb)]
      exact congrArg Host.Outcome.next (if_pos hname)
  case failure =>
    intro s c q fl v code us hx
    show Host.Outcome.next (sequencerFinish c s) = _
    simp only [sequencerFinish, hx]
  case tab =>
    intro s c q hm hop ws
    have hrun : seqRun s c q = seqTab s c q := by rw [seqRun_supervisor hm, hop]
    rw [hrun]
    exact ⟨seqTab_past, seqTab_illegal, fun h h1 h8 h4 hf => ⟨_, seqTab_legal h h1 h8 h4 hf, by rw [sequencer_modSeq], rfl⟩⟩
  case cfg =>
    intro s c q hm hop ws
    have hrun : seqRun s c q = seqCfg s c q := by rw [seqRun_supervisor hm, hop]
    rw [hrun]
    refine ⟨seqCfg_past, seqCfg_illegal, fun h hl => ⟨_, seqCfg_legal h hl, rfl, ?_⟩⟩
    obtain ⟨-, -, -, -, -, -, -, -, -, -, -, -, -, hfmt, -⟩ := id hl
    intro x
    have hx : x = (s.sequencer c).configured ws q.ctx := sequencer_modSeq ..
    rw [hx]
    refine ⟨rfl, rfl, rfl, rfl, rfl, Sequencer.width_eq _ hfmt, Sequencer.pitch_eq _, rfl, fun htag => ?_, fun htag hfree => ?_⟩
    · have hsome : (s.sequencer c).tag.isNone = false := Option.isNone_eq_false_iff.mpr (Option.isSome_iff_ne_none.mpr htag)
      simp only [Sequencer.configured, hsome, Bool.false_and, Bool.false_eq_true, if_false]
    · have hall : (s.sequencer c).samples.all (fun e => e.2.st == 0) = true := List.all_eq_true.mpr fun e he => by simp [hfree e he]
      simp only [Sequencer.configured, htag, Option.isNone_none, hall, Bool.and_self, if_true]
  case load =>
    intro s c q hm hop i ws w
    have hrun : seqRun s c q = seqLoad s c q := by rw [seqRun_supervisor hm, hop]
    rw [hrun]
    refine ⟨fun hcode hin hf h3 h4 hh => ⟨_, seqLoad_image rfl hcode hin hf h3 h4 hh, ?_⟩, fun hcode => ⟨_, seqLoad_free hcode, ?_⟩⟩
    · rw [sequencer_modSeq, Sequencer.sample_setSample, if_pos rfl]
      exact ⟨rfl, rfl, rfl, rfl, rfl, rfl, fun n hn => by rw [Sequencer.sample_setSample, if_neg hn]⟩
    · rw [sequencer_modSeq, Sequencer.sample_setSample, if_pos rfl]
  case act =>
    intro s c q hm hop
    have hrun : seqRun s c q = seqAct s c q := by rw [seqRun_supervisor hm, hop]
    rw [hrun]
    refine ⟨s.modSeq c fun x => (rangeOf q.a).foldl _ x, rfl, rfl, fun i => ?_⟩
    rw [sequencer_modSeq]
    exact sample_foldl_returned ..
  case hist =>
    intro s c q hm hop r
    have hrun : seqRun s c q = seqHist s c q := by rw [seqRun_supervisor hm, hop]
    rw [hrun]
    refine ⟨fun hbit => ⟨_, if_pos hbit, by rw [sequencer_modSeq]⟩, fun hbit => ⟨_, _, if_neg (by simp [hbit]), by rw [sequencer_modSeq], ?_, ?_⟩⟩
    · exact fun hlt => if_pos hlt
    · exact fun hle => if_neg (Nat.not_lt.mpr hle)
  case stage =>
    intro s c q j rm i e y n z hw hyz hd t
    have ht : t = _ := seqStageOne_eq hd
    have hy : SameBut s (writeVector s c q i q.stages fun k => (stageElement s c q j rm i k).1) y n := writeVector_sameBut _ _
    have hz : SameBut (writeVector s c q i q.stages fun k => (stageElement s c q j rm i k).1) t z 8 := by
      rw [ht]
      exact write_sameBut _ _ _ _
    refine ⟨fun k hk => ?_, ?_, fun k hky hkz => ?_⟩
    · have hin : k * q.width + q.width ≤ n := (Nat.succ_mul k q.width).symm.le.trans (Nat.mul_le_mul_right q.width hk)
      rw [readN_sameBut hz (inside_apart hyz hin)]
      exact writeVector_readN _ _ hk
    · have hwidth : (256 : Nat) ^ 8 = 2 ^ 64 := by norm_num
      rw [ht, write_mem, show z = spadKey c (q.times + 8 * i) from rfl, Memory.readN_writeN_self, hwidth]
    · rw [hz k hkz, hy k hky]
  case solution =>
    intro s c q rm i e y n hw hd t
    have ht : t = _ := seqEndOne_eq hd
    rw [ht]
    refine ⟨fun k hk => ?_, fun k hk => ?_, ?_⟩
    · rw [modSeq_mem]
      exact writeVector_readN _ _ hk
    · rw [modSeq_mem]
      exact writeVector_sameBut _ _ k hk
    · intro squares sum
      rw [sequencer_modSeq, Sequencer.sample_setSample, if_pos rfl]
      rfl
  case decide =>
    intro q e r
    obtain ⟨t, hn, ht, hr⟩ := seqDecide_eq q e
    rw [show r = _ from hr]
    refine ⟨rfl, ?_⟩
    generalize le64 e.errn one64 = acc at ht
    obtain ⟨hev, htend, hxoff, hsboff, htime, hzero⟩ := decided_fields q e t (BitVec.ofNat 64 (max64 e.errn.toNat 0x3F1A36E2EB1C432D)) hn acc
    have ht' : (if acc then t else e.t) = t := by
      cases acc with
      | true => rfl
      | false => exact (ht rfl).symm
    refine ⟨hev, htend, hxoff, hsboff, fun hrej => ?_, fun hacc => ?_, fun hz => ?_⟩
    · obtain rfl : acc = false := hrej
      exact ⟨htime, decided_rejected ..⟩
    · obtain rfl : acc = true := hacc
      exact decided_accepted ..
    · rw [htime, ht'] at hz
      exact hzero hz
  case copy =>
    intro s c q i hacc e t
    have ht : t = _ := seqDecOne_accepted hacc
    rw [ht]
    refine ⟨State.readBytes_writeBytes_read .., fun k hk => ?_⟩
    rw [modSeq_mem]
    exact writeBytes_byte_outside _ _ (by simpa [spadKey] using hk)

end Sys2Proof.Machine
